-- ==== Sys2Proof/Word.lean ====
section
/-! DEFINITION. The words of the DX-480 and their plainest arithmetic (02 R5, R8). -/

namespace Sys2Proof

/-- One byte of memory. -/
abbrev Byte := BitVec 8
/-- A 32-bit word: a vector register of one lane, an instruction word. -/
abbrev Word := BitVec 32
/-- A 64-bit word: a scalar register, a program counter, an address. -/
abbrev DWord := BitVec 64

/-- Field `[lo + n - 1 : lo]` of a natural number (R5). -/
def bitsOf (w lo n : Nat) : Nat := w / 2 ^ lo % 2 ^ n

/-- Bit `k` of a natural number. -/
def bitOf (w k : Nat) : Bool := w / 2 ^ k % 2 == 1

/-- 0 or 1. -/
def bit (b : Bool) : Nat := if b then 1 else 0

end Sys2Proof
end

