-- ==== Sys2Proof/Syntax.lean ====
section
/-! DEFINITION. The instructions and events of opcode_table.json, one constructor a row,
with their operands (02 R42-R57; the entries of 03 to 18). -/

namespace Sys2Proof

/-! ### Types, modes and sources -/

/-- The integer types, TY 0x00 to 0x07 (R50). -/
inductive IntTy where
  | i8 | i16 | i32 | i64 | n8 | n16 | n32 | n64
  deriving DecidableEq, Repr

/-- The float types, TY 0x08 to 0x0D (R50). -/
inductive FTy where
  | f16 | bf16 | f32 | f64 | f16x2 | bf16x2
  deriving DecidableEq, Repr

/-- A binary8 format .b8pPsx, TY 0b1 PPP S X (R50, R79). `p` runs from 1 to 7. -/
structure B8 where
  p : Fin 8
  unsigned : Bool
  finite : Bool
  deriving DecidableEq, Repr

/-- Any non-reserved type code (R50). -/
inductive Ty where
  | int (t : IntTy)
  | flt (t : FTy)
  | b8 (f : B8)
  deriving DecidableEq, Repr

/-- The rounding field RND (R51). -/
inductive Rnd where
  | rne | rtz | rup | rdn | sr | dyn
  deriving DecidableEq, Repr

/-- A memory scope, SC 1 to 5 (R51, R265). -/
inductive Scope where
  | team | cluster | hinge | package | system
  deriving DecidableEq, Repr

/-- The ordering field ORD (R51). -/
inductive Order where
  | none | acq | rel | ar
  deriving DecidableEq, Repr

/-- The cache hint CH (R51, R234). -/
inductive Hint where
  | normal | ef | el | na
  deriving DecidableEq, Repr

/-- Width and load extension W, 0 to 5 (R52). -/
inductive Width where
  | n8 | n16 | n32 | n64 | i8 | i16
  deriving DecidableEq, Repr

/-- The guard of an instruction (R47): predicate `p`, 15 for unconditional, inverted by `neg`. -/
structure Guard where
  p : Fin 16
  neg : Bool
  deriving DecidableEq, Repr

/-- The B operand of the scalar integer class (R49, R54): sB, IMM32 or the CL literal. -/
inductive SSrc where
  | reg (r : Fin 64)
  | imm (v : Word)
  | lit (v : DWord)
  deriving DecidableEq, Repr

/-- The B operand of the vector classes (R49, R101): vB, sB broadcast, IMM32 or a literal. -/
inductive VSrc where
  | vec (r : Fin 256)
  | sca (r : Fin 64)
  | imm (v : Word)
  | lit (v : DWord)
  deriving DecidableEq, Repr

/-- The value of SLI, VLI, TFILL: IMM32 or a literal. -/
inductive ImmSrc where
  | imm (v : Word)
  | lit (v : DWord)
  deriving DecidableEq, Repr

/-- A scalar register or an immediate field of the third word. -/
inductive RegImm where
  | reg (r : Fin 64)
  | imm (v : Word)
  deriving DecidableEq, Repr

/-- The conditions of SCMP and VCMP (R111). -/
inductive Cond where
  | eq | ne | lt | le | gt | ge | tst | ntst
  deriving DecidableEq, Repr

/-- The conditions of VFCMP (R156). -/
inductive FCond where
  | eq | ne | lt | le | gt | ge | ord | uno
  deriving DecidableEq, Repr

/-- The combining operations of VSCAN, VRED and XRED (R176, R183, R381). -/
inductive RedOp where
  | add | min | max | and | or | xor
  deriving DecidableEq, Repr

/-- A memory operand (R53): base sA, optional index vB with its scale code IX 1 to 5 (held as
IX - 1), IMM32 offset, and the space SP. -/
structure MemOp where
  base : Fin 64
  index : Option (Fin 256 × Fin 5)
  off : Word
  stash : Bool
  deriving DecidableEq, Repr

/-! ### Operands of the compact forms (R43, R57) -/

/-- D, A and B as 6-bit scalar or vector register numbers. -/
structure C3 where
  d : Fin 64
  a : Fin 64
  b : Fin 64
  deriving DecidableEq, Repr

/-- D and A as 6-bit register numbers. -/
structure C2 where
  d : Fin 64
  a : Fin 64
  deriving DecidableEq, Repr

/-- One 6-bit field in D: a register, a code. -/
structure C1 where
  d : Fin 64
  deriving DecidableEq, Repr

/-- RET: A. -/
structure CRet where
  a : Fin 64
  deriving DecidableEq, Repr

/-- Compact predicate logic on two sources. -/
structure CP3 where
  d : Fin 16
  a : Fin 16
  b : Fin 16
  deriving DecidableEq, Repr

/-- Compact predicate logic on one source. -/
structure CP2 where
  d : Fin 16
  a : Fin 16
  deriving DecidableEq, Repr

/-- Compact PTOV and PPOPC: a register from a predicate. -/
structure CRP where
  d : Fin 64
  a : Fin 16
  deriving DecidableEq, Repr

/-- Compact VTOP: a predicate from a register. -/
structure CPR where
  d : Fin 16
  a : Fin 64
  deriving DecidableEq, Repr

/-- Compact TZERO: a tile. -/
structure CTile where
  d : Fin 16
  deriving DecidableEq, Repr

/-! ### Control flow (07) -/

/-- The register a BRX or CALLX target comes from (R197). -/
inductive BrBase where
  | sca (r : Fin 64)
  | vec (r : Fin 256)
  deriving DecidableEq, Repr

structure Bra where
  off : Word
  deriving DecidableEq, Repr

structure Brx where
  base : BrBase
  off : Word
  deriving DecidableEq, Repr

/-- CALL: `d` is the even vector register of the link pair, or a scalar register on a stream (R201). -/
structure Call where
  d : Fin 256
  off : Word
  deriving DecidableEq, Repr

structure Callx where
  d : Fin 256
  base : BrBase
  off : Word
  deriving DecidableEq, Repr

structure Brd where
  pa : Fin 16
  neg : Bool
  joff : BitVec 16
  off : Word
  deriving DecidableEq, Repr

structure Brk where
  n : Fin 64
  off : Word
  deriving DecidableEq, Repr

/-- SWCH: `n` cases, vA, the case bytes, the eight target offsets and the join offset (R209). -/
structure Swch where
  n : Fin 9
  a : Fin 64
  cases : DWord
  offs : Vector Word 8
  join : Word
  deriving DecidableEq, Repr

inductive LoopCount where
  | reg (r : Fin 64)
  | imm (v : BitVec 16)
  deriving DecidableEq, Repr

structure Loop where
  count : LoopCount
  off : Word
  deriving DecidableEq, Repr

/-! ### Scalar integer (04) -/

structure SOp2 where
  ty : IntTy
  d : Fin 64
  a : Fin 64
  b : SSrc
  deriving DecidableEq, Repr

structure SCmp where
  cond : Cond
  ty : IntTy
  d : Fin 64
  a : Fin 64
  b : RegImm
  deriving DecidableEq, Repr

structure SSel where
  ty : IntTy
  d : Fin 64
  a : Fin 64
  b : RegImm
  c : Fin 64
  deriving DecidableEq, Repr

structure SOp1 where
  ty : IntTy
  d : Fin 64
  a : Fin 64
  deriving DecidableEq, Repr

structure SLi where
  ty : IntTy
  d : Fin 64
  v : ImmSrc
  deriving DecidableEq, Repr

structure SLea where
  ty : IntTy
  d : Fin 64
  a : Fin 64
  b : Fin 64
  shift : Fin 5
  off : Word
  deriving DecidableEq, Repr

/-- Position and width of SBFX and SBFI: immediate bytes E and F, or registers (R116). -/
inductive SField where
  | imm (pos width : Byte)
  | reg (b c : Fin 64)
  deriving DecidableEq, Repr

structure SBf where
  ty : IntTy
  d : Fin 64
  a : Fin 64
  fld : SField
  deriving DecidableEq, Repr

inductive LaneSrc where
  | reg (r : Fin 64)
  | imm (lane : Fin 32)
  deriving DecidableEq, Repr

structure SMovv where
  ty : IntTy
  d : Fin 64
  a : Fin 256
  lane : LaneSrc
  deriving DecidableEq, Repr

/-! ### Vector integer (04) -/

structure VOp2 where
  ty : IntTy
  d : Fin 256
  a : Fin 256
  b : VSrc
  deriving DecidableEq, Repr

structure VOp3 where
  ty : IntTy
  d : Fin 256
  a : Fin 256
  b : VSrc
  c : Fin 256
  deriving DecidableEq, Repr

/-- VDOT4: `unsigned` is ty = .n8 (R125). -/
structure VDot where
  unsigned : Bool
  mix : Bool
  sat : Bool
  d : Fin 256
  a : Fin 256
  b : VSrc
  c : Fin 256
  deriving DecidableEq, Repr

structure VCmp where
  cond : Cond
  ty : IntTy
  pd : Fin 16
  a : Fin 256
  b : VSrc
  deriving DecidableEq, Repr

structure VSel where
  ty : IntTy
  d : Fin 256
  a : Fin 256
  b : VSrc
  pc : Fin 16
  neg : Bool
  deriving DecidableEq, Repr

structure VOp1 where
  ty : IntTy
  d : Fin 256
  a : Fin 256
  deriving DecidableEq, Repr

inductive VField where
  | imm (pos width : Byte)
  | regV (b : Fin 256) (c : Fin 256)
  | regS (b : Fin 64) (c : Fin 256)
  deriving DecidableEq, Repr

structure VBf where
  ty : IntTy
  d : Fin 256
  a : Fin 256
  fld : VField
  deriving DecidableEq, Repr

structure VMovs where
  ty : IntTy
  d : Fin 256
  a : Fin 64
  deriving DecidableEq, Repr

structure VLi where
  ty : IntTy
  d : Fin 256
  v : ImmSrc
  deriving DecidableEq, Repr

structure VIdx where
  ty : IntTy
  d : Fin 256
  b : VSrc
  deriving DecidableEq, Repr

/-! ### Vector float (05) -/

structure FOp2 where
  ty : FTy
  rnd : Rnd
  d : Fin 256
  a : Fin 256
  b : VSrc
  deriving DecidableEq, Repr

/-- VFMA: `negProd` and `negAdd` are FN [1] and FN [0] (R148). -/
structure FMa where
  ty : FTy
  rnd : Rnd
  negProd : Bool
  negAdd : Bool
  d : Fin 256
  a : Fin 256
  b : VSrc
  c : Fin 256
  deriving DecidableEq, Repr

structure FMinMax where
  ty : FTy
  nan : Bool
  d : Fin 256
  a : Fin 256
  b : VSrc
  deriving DecidableEq, Repr

/-- The type of VADDMIN and VADDMAX: integer or float (R154). -/
inductive AddTy where
  | int (t : IntTy)
  | flt (t : FTy)
  deriving DecidableEq, Repr

structure FAddMin where
  ty : AddTy
  nan : Bool
  rnd : Rnd
  d : Fin 256
  a : Fin 256
  b : VSrc
  c : Fin 256
  deriving DecidableEq, Repr

structure FCmp where
  cond : FCond
  ty : FTy
  pd : Fin 16
  a : Fin 256
  b : VSrc
  deriving DecidableEq, Repr

structure FOp1 where
  ty : FTy
  rnd : Rnd
  d : Fin 256
  a : Fin 256
  deriving DecidableEq, Repr

/-- VFRND: `exact` is .x, FN [0] (R160). -/
structure FRnd where
  ty : FTy
  rnd : Rnd
  exact : Bool
  d : Fin 256
  a : Fin 256
  deriving DecidableEq, Repr

structure FClass where
  ty : FTy
  d : Fin 256
  a : Fin 256
  deriving DecidableEq, Repr

/-! ### Conversions (03) -/

structure Cvt where
  dty : Ty
  sty : Ty
  rnd : Rnd
  sat : Bool
  d : Fin 256
  a : Fin 256
  deriving DecidableEq, Repr

structure Qnt where
  dty : Ty
  sty : Ty
  rnd : Rnd
  sat : Bool
  d : Fin 256
  a : Fin 256
  sc : Fin 64
  deriving DecidableEq, Repr

structure Dqnt where
  dty : Ty
  sty : Ty
  rnd : Rnd
  sat : Bool
  d : Fin 256
  a : Fin 256
  b : Fin 256
  deriving DecidableEq, Repr

/-- VPACK: two sources, or four with `more` = (vc, ve). -/
structure Pack where
  dty : Ty
  sty : Ty
  rnd : Rnd
  sat : Bool
  d : Fin 256
  a : Fin 256
  b : Fin 256
  more : Option (Fin 256 × Fin 256)
  deriving DecidableEq, Repr

structure Unpk where
  dty : Ty
  sty : Ty
  d : Fin 256
  a : Fin 256
  deriving DecidableEq, Repr

/-! ### Lanes, predicates, reductions (06) -/

inductive ShflMode where
  | idx | up | down | xor
  deriving DecidableEq, Repr

/-- VSHFL: `wide` is .n64; `seg` 0 to 3 for widths 32, 16, 8, 4; `c` the fill (R168). -/
structure Shfl where
  mode : ShflMode
  seg : Fin 4
  wide : Bool
  d : Fin 256
  a : Fin 256
  b : VSrc
  c : Option (Fin 256)
  deriving DecidableEq, Repr

inductive BcstSrc where
  | first
  | reg (r : Fin 64)
  | imm (lane : Fin 32)
  deriving DecidableEq, Repr

structure Bcst where
  wide : Bool
  d : Fin 256
  a : Fin 256
  src : BcstSrc
  c : Option (Fin 256)
  deriving DecidableEq, Repr

inductive VoteDst where
  | any (pd : Fin 16)
  | all (pd : Fin 16)
  | uni (pd : Fin 16)
  | ballot (vd : Fin 256)
  deriving DecidableEq, Repr

structure Vote where
  dst : VoteDst
  a : Fin 16
  neg : Bool
  deriving DecidableEq, Repr

structure Match where
  wide : Bool
  d : Fin 256
  a : Fin 256
  deriving DecidableEq, Repr

/-- The types of VSCAN and VRED (R176, R183). -/
inductive RedTy where
  | i32 | n32 | i64 | n64 | f32 | f64
  deriving DecidableEq, Repr

structure Scan where
  op : RedOp
  excl : Bool
  seg : Fin 4
  ty : RedTy
  d : Fin 256
  a : Fin 256
  deriving DecidableEq, Repr

/-- Where a VRED contributes (R183): its band's RDR, or a reduction slot with the round's count. -/
inductive RedScope where
  | band
  | team (slot : Fin 16) (count : BitVec 16)
  | cluster (slot : Fin 16) (count : BitVec 16)
  deriving DecidableEq, Repr

structure Red where
  op : RedOp
  ty : RedTy
  a : Fin 256
  scope : RedScope
  deriving DecidableEq, Repr

inductive RdwWhat where
  | seq
  | wait (n : RegImm) (pc : Option (Fin 16))
  deriving DecidableEq, Repr

structure Rdw where
  d : Fin 64
  what : RdwWhat
  deriving DecidableEq, Repr

structure POp2 where
  na : Bool
  nb : Bool
  d : Fin 16
  a : Fin 16
  b : Fin 16
  deriving DecidableEq, Repr

structure POp1 where
  na : Bool
  d : Fin 16
  a : Fin 16
  deriving DecidableEq, Repr

structure Ptov where
  ones : Bool
  d : Fin 256
  a : Fin 16
  deriving DecidableEq, Repr

structure Vtop where
  wide : Bool
  d : Fin 16
  a : Fin 256
  deriving DecidableEq, Repr

structure Ppopc where
  neg : Bool
  d : Fin 64
  a : Fin 16
  deriving DecidableEq, Repr

/-! ### Memory (08), ordering (09), atomics and tumblers (10) -/

/-- LD: with .acq when `acq` (R249); `sc` is 0 (none) exactly without an ordering. -/
structure Ld where
  w : Width
  acq : Option Scope
  ch : Hint
  d : Fin 256
  mem : MemOp
  deriving DecidableEq, Repr

structure St where
  w : Width
  rel : Option Scope
  ch : Hint
  mem : MemOp
  c : Fin 256
  deriving DecidableEq, Repr

structure Sld where
  w : Width
  acq : Option Scope
  ch : Hint
  d : Fin 64
  a : Fin 64
  off : Word
  stash : Bool
  deriving DecidableEq, Repr

structure Sst where
  w : Width
  rel : Option Scope
  ch : Hint
  a : Fin 64
  off : Word
  stash : Bool
  c : Fin 64
  deriving DecidableEq, Repr

structure Ldn where
  w : Width
  ch : Hint
  d : Fin 256
  mem : MemOp
  pc : Fin 16
  deriving DecidableEq, Repr

/-- PREF: `cc` is VAR = 1, cluster cache only (R257). -/
structure Pref where
  cc : Bool
  ch : Hint
  mem : MemOp
  deriving DecidableEq, Repr

/-- What CLEAN and INVAL act on, VAR 0 to 2 (R258). -/
inductive CleanWhat where
  | lines (mem : MemOp)
  | range (a : Fin 64) (off : Word) (c : Fin 64)
  | all
  deriving DecidableEq, Repr

structure Clean where
  sc : Scope
  what : CleanWhat
  deriving DecidableEq, Repr

structure Pin where
  pd : Fin 16
  a : Fin 64
  off : Word
  deriving DecidableEq, Repr

structure PageOp where
  a : Fin 64
  off : Word
  deriving DecidableEq, Repr

structure Pgreq where
  wait : Bool
  pd : Fin 16
  mem : MemOp
  deriving DecidableEq, Repr

/-- MAPW: .local, or .win with its address operand (R249, R263). -/
structure Mapw where
  m : Fin 16
  c : Fin 64
  win : Option (Fin 64 × Word)
  deriving DecidableEq, Repr

structure MapOp where
  m : Fin 16
  deriving DecidableEq, Repr

inductive FenceKind where
  | acq | rel | ar | sc
  deriving DecidableEq, Repr

structure Fence where
  kind : FenceKind
  sc : Scope
  deriving DecidableEq, Repr

structure Kbind where
  k : Fin 64
  a : Fin 64
  c : Fin 64
  granules : Word
  deriving DecidableEq, Repr

structure Kfree where
  k : Fin 64
  deriving DecidableEq, Repr

structure Kacq where
  sc : Scope
  d : Fin 64
  k : Fin 64
  wait : Option (Fin 64)
  deriving DecidableEq, Repr

structure Krel where
  sc : Scope
  k : Fin 64
  ret : Option (Fin 64)
  deriving DecidableEq, Repr

structure Latg where
  a : Fin 64
  count : Word
  deriving DecidableEq, Repr

structure Latw where
  cluster : Bool
  a : Fin 64
  count : Word
  deriving DecidableEq, Repr

inductive AtomOp where
  | add | and | or | exch | umin | umax | smin | smax
  deriving DecidableEq, Repr

structure Atom where
  op : AtomOp
  wide : Bool
  ord : Order
  sc : Scope
  ch : Hint
  d : Fin 256
  mem : MemOp
  c : Fin 256
  deriving DecidableEq, Repr

inductive AtomfOp where
  | add | min | max
  deriving DecidableEq, Repr

inductive AtomfTy where
  | f32 | f64 | f16x2 | bf16x2
  deriving DecidableEq, Repr

structure Atomf where
  op : AtomfOp
  ty : AtomfTy
  ord : Order
  sc : Scope
  ch : Hint
  d : Fin 256
  mem : MemOp
  c : Fin 256
  deriving DecidableEq, Repr

structure Cas where
  wide : Bool
  ord : Order
  sc : Scope
  ch : Hint
  d : Fin 256
  mem : MemOp
  c : Fin 256
  deriving DecidableEq, Repr

structure Cas2 where
  ord : Order
  sc : Scope
  ch : Hint
  d : Fin 256
  mem : MemOp
  c : Fin 256
  deriving DecidableEq, Repr

structure Tinit where
  t : Fin 24
  v : RegImm
  deriving DecidableEq, Repr

/-- TARV: an immediate count, or .thr. -/
structure Tarv where
  cluster : Bool
  t : Fin 24
  count : Option (BitVec 16)
  deriving DecidableEq, Repr

structure Twait where
  cluster : Bool
  t : Fin 24
  parity : Option Bool
  deriving DecidableEq, Repr

inductive TtestWhat where
  | test (pd : Fin 16) (parity : Option Bool)
  | phase (sd : Fin 64)
  deriving DecidableEq, Repr

structure Ttest where
  t : Fin 24
  what : TtestWhat
  deriving DecidableEq, Repr

/-! ### Matrix and tile (11) -/

/-- A multiplicand (R320): a vector block, or a stash operand with its pack register and direction. -/
inductive Mcand where
  | vec (r : Fin 256)
  | stash (base pack : Fin 64) (transposed : Bool)
  deriving DecidableEq, Repr

/-- MMA: `scales` are the columns COLA / 2 and COLB / 2 of a block-scaled form. -/
structure Mma where
  ty : Ty
  d : Fin 16
  a : Mcand
  b : Mcand
  c : Fin 16
  scales : Option (Byte × Byte)
  deriving DecidableEq, Repr

inductive Sparsity where
  | s24 | s14 | s48
  deriving DecidableEq, Repr

structure Mmas where
  pat : Sparsity
  ty : Ty
  d : Fin 16
  a : Mcand
  b : Mcand
  c : Fin 16
  sm : Fin 64
  deriving DecidableEq, Repr

structure TileG where
  d : Fin 16
  deriving DecidableEq, Repr

inductive FillTy where
  | n32 | i32 | f32 | n64 | f64
  deriving DecidableEq, Repr

inductive FillSrc where
  | reg (b : Fin 64)
  | imm (v : Word)
  | lit (v : DWord)
  deriving DecidableEq, Repr

structure Tfill where
  ty : FillTy
  d : Fin 16
  v : FillSrc
  deriving DecidableEq, Repr

inductive IdentDst where
  | tile (d : Fin 16)
  | stash (a : Fin 64)
  deriving DecidableEq, Repr

structure Tident where
  ty : Ty
  dst : IdentDst
  deriving DecidableEq, Repr

inductive TileW where
  | n8 | n16 | n32
  deriving DecidableEq, Repr

structure Tld where
  w : TileW
  transposed : Bool
  d : Fin 16
  a : Fin 64
  pack : Fin 64
  deriving DecidableEq, Repr

structure Tst where
  w : TileW
  transposed : Bool
  a : Fin 64
  pack : Fin 64
  c : Fin 16
  deriving DecidableEq, Repr

/-- TMOVV: `v` := columns of tile `t`; TMOVT: columns of tile `t` := `v` (R327). -/
structure Tmov where
  v : Fin 256
  t : Fin 16
  col : Fin 32
  count : Fin 33
  deriving DecidableEq, Repr

inductive ClsSrc where
  | tile (a : Fin 16)
  | slot (a : Fin 64)
  deriving DecidableEq, Repr

structure Tcls where
  d : Fin 64
  src : ClsSrc
  deriving DecidableEq, Repr

structure Scld where
  a : Fin 64
  col : Fin 512
  count : Fin 513
  deriving DecidableEq, Repr

/-- TTOPK: `int` is ty = .i32, else .f32. -/
structure Ttopk where
  int : Bool
  d : Fin 16
  a : Fin 16
  c : Fin 16
  k : Fin 33
  deriving DecidableEq, Repr

inductive AccTy where
  | i32 | f32 | f64
  deriving DecidableEq, Repr

structure Tacc where
  ty : AccTy
  rnd : Rnd
  d : Fin 16
  a : Fin 16
  b : Fin 16
  deriving DecidableEq, Repr

inductive SclSrc where
  | sca (b : Fin 64)
  | imm (v : Word)
  | vec (b : Fin 256)
  deriving DecidableEq, Repr

structure Tscl where
  rnd : Rnd
  d : Fin 16
  a : Fin 16
  src : SclSrc
  deriving DecidableEq, Repr

/-- TCVT: `int` is sty = .i32, else .f32 (R335). -/
structure Tcvt where
  dty : Ty
  int : Bool
  rnd : Rnd
  sat : Bool
  d : Fin 16
  a : Fin 16
  deriving DecidableEq, Repr

/-! ### Engines (13) and embedding (14) -/

/-- A descriptor number: immediate, or in sB (R369). -/
inductive DescId where
  | imm (id : Fin 1024)
  | reg (b : Fin 64)
  deriving DecidableEq, Repr

structure Td where
  a : Fin 64
  id : DescId
  deriving DecidableEq, Repr

structure Tdinv where
  id : DescId
  deriving DecidableEq, Repr

structure Cpost where
  chn : Fin 4
  store : Bool
  d : Fin 64
  desc : Fin 1024
  a : Fin 64
  b : Fin 64
  c : Fin 64
  e : Fin 64
  tumb : Option (Fin 24)
  deriving DecidableEq, Repr

/-- GPOST and SPOST. -/
structure Gpost where
  chn : Fin 4
  d : Fin 64
  desc : Fin 1024
  a : Fin 64
  b : Fin 256
  c : Fin 64
  e : Fin 64
  t : Fin 24
  deriving DecidableEq, Repr

inductive RemapMode where
  | none
  | mod (a : Fin 64)
  | hash (a b : Fin 64)
  | tab (a b : Fin 64)
  deriving DecidableEq, Repr

structure Vremap where
  chn : Fin 4
  mode : RemapMode
  deriving DecidableEq, Repr

structure Cwait where
  chn : Fin 4
  cluster : Bool
  b : Fin 64
  deriving DecidableEq, Repr

structure Cseq where
  chn : Fin 4
  cluster : Bool
  d : Fin 64
  deriving DecidableEq, Repr

structure Cqry where
  chn : Fin 4
  d : Fin 64
  deriving DecidableEq, Repr

structure Mpost where
  chn : Fin 4
  d : Fin 64
  a : Fin 64
  c : Fin 64
  home : Fin 32
  deriving DecidableEq, Repr

/-- XRED, XGTH: `system` is SC = 5; `t` none is F = 0xFF. -/
structure Xred where
  system : Bool
  comm : Fin 64
  op : RedOp
  ty : Ty
  a : Fin 64
  b : Fin 64
  c : Fin 64
  t : Option (Fin 24)
  deriving DecidableEq, Repr

structure Xgth where
  system : Bool
  comm : Fin 64
  ty : Ty
  a : Fin 64
  b : Fin 64
  c : Fin 64
  t : Option (Fin 24)
  deriving DecidableEq, Repr

/-- XSND, XRCV. -/
structure Xsr where
  system : Bool
  comm : Fin 64
  a : Fin 64
  b : Fin 64
  c : Fin 64
  t : Option (Fin 24)
  deriving DecidableEq, Repr

structure Embag where
  chn : Fin 4
  wgt : Bool
  d : Fin 64
  desc : Fin 1024
  a : Fin 64
  b : Fin 64
  c : Fin 64
  e : Fin 64
  t : Option (Fin 24)
  deriving DecidableEq, Repr

structure Emstat where
  chn : Fin 4
  addr : Bool
  d : Fin 64
  deriving DecidableEq, Repr

/-! ### Sequencer (15), system (16), debug (17) -/

structure Launch where
  d : Fin 64
  a : Fin 64
  par : Option (Fin 64)
  spl : Option (Fin 64)
  deriving DecidableEq, Repr

structure Lwait where
  poll : Bool
  d : Fin 64
  b : Fin 64
  deriving DecidableEq, Repr

structure Lsig where
  ev : Fin 48
  b : Fin 64
  deriving DecidableEq, Repr

structure LsigHinge where
  ev : Fin 48
  b : Fin 64
  c : Fin 64
  deriving DecidableEq, Repr

structure LsigHost where
  vec : Fin 64
  deriving DecidableEq, Repr

structure Levw where
  ev : Fin 64
  d : Fin 64
  b : Fin 64
  deriving DecidableEq, Repr

structure Ctxsw where
  all : Bool
  d : Fin 64
  a : Fin 64
  b : Fin 64
  deriving DecidableEq, Repr

structure Trap where
  code : Fin 64
  deriving DecidableEq, Repr

/-- The special registers, by number (R432). -/
inductive Sreg where
  | lane | band | team | group | lseq | lpc | cycle | caps | corecaps | ctxnum | ptbase | restores
  | fstat | fctl | srstate
  | tvec | tcause | tpc | taddr | tinfo | tlevel
  | cwp (n : Fin 4)
  | csq (n : Fin 4)
  | dbgctl | energy
  deriving DecidableEq, Repr

/-- Destination of MFS or source of MTS: scalar, or vector with VEC = 1 (R431). -/
inductive SvReg where
  | sca (r : Fin 64)
  | vec (r : Fin 256)
  deriving DecidableEq, Repr

structure Msr where
  reg : Sreg
  r : SvReg
  deriving DecidableEq, Repr

inductive SnapScope where
  | core | cluster | hinge | package
  deriving DecidableEq, Repr

structure Snap where
  scope : SnapScope
  d : Fin 64
  tag : BitVec 16
  deriving DecidableEq, Repr

inductive MarkSrc where
  | reg (b : Fin 64)
  | imm (v : Word)
  | lit (v : DWord)
  deriving DecidableEq, Repr

structure Mark where
  v : MarkSrc
  deriving DecidableEq, Repr

structure Esamp where
  core : Bool
  d : Fin 64
  deriving DecidableEq, Repr

/-! ### Arguments of the events -/

/-- A level of the abstract machine above home (R266). -/
inductive Level where
  | l1 (core : Nat)
  | cluster (n : Nat)
  | link (hinge : Nat)
  deriving DecidableEq, Repr

/-- Stop scopes of breakpoints, watchpoints, BKPT and band commands (R440, R470). -/
inductive StopScope where
  | band | team | cluster | hinge
  deriving DecidableEq, Repr

/-- What holds a page-request record that waits for room in the ring (R262). -/
inductive RecHolder where
  | hub (hinge : Nat)
  | channel (core : Nat) (ch : Nat)
  deriving DecidableEq, Repr

/-- Who moves a page (R246): a channel's MPOST, or the promotion engine. -/
inductive Mover where
  | command (core : Nat) (ch : Nat)
  | promotion (hinge : Nat) (page : Nat) (home : Nat)
  deriving DecidableEq, Repr

/-- A member's post of one collective as it reaches the package from a peer device (R379, R381):
its rank and its bytes, in address order. -/
structure PeerPost where
  rank : Nat
  opCode : Nat
  tyCode : Nat
  count : Nat
  bytes : List Byte
  deriving DecidableEq, Repr

/-- A Tarnex flit's header as the receiver checks it (R474). -/
structure Flit where
  type : Nat
  vc : Nat
  credits : Nat
  seq : Word
  header : DWord
  payload : List Byte
  crcOk : Bool
  deriving DecidableEq, Repr

/-- The set of a band command (R470). -/
structure BandSet where
  scope : StopScope
  core : Nat
  tslot : Nat
  slot : Nat
  deriving DecidableEq, Repr

/-- A stage of the firmware (R480): the bytes that are measured, the public key that it carries, its signature and security
version, the keys that it lists for the next stage, and whether its format is sound. DESIGN CHOICE (log 85). -/
structure BootStage where
  image : List Byte
  key : List Byte
  signature : List Byte
  version : Nat
  keys : List (List Byte)
  formatOk : Bool
  deriving DecidableEq, Repr

/-- What a cold reset brings (R24, R433, R475, R480-R482): fuses, among them the key hash and the lowest security version,
installed modules, firmware, and whether memory training succeeds. -/
structure Boot where
  profileN : Bool
  stepping : Byte
  links : Nat
  repair : List (Nat × Bool)
  modules : List (Nat × (Nat × Nat))
  stages : List BootStage
  keyHash : BitVec 512
  minVersion : Nat
  trained : Bool
  deriving DecidableEq, Repr

/-! ### Events

The rows of opcode_table.json that no word encodes are steps of the device. What the outside world supplies to one,
or what the choice the specification leaves open picks, is the event's argument. -/

/-- The steps of the device that are not instructions, each with what it acts on. -/
inductive Event where
  /-- VRED_COMPLETION (R187). -/
  | vredCompletion (core : Nat) (slot : Nat)
  /-- ACCESS_PERFORMED (R269). -/
  | accessPerformed (idx : Nat)
  /-- BACKGROUND_WRITEBACK (R270). -/
  | backgroundWriteback (level : Level) (line : Nat) (discard : Bool)
  /-- BACKGROUND_DISCARD (R270). -/
  | backgroundDiscard (level : Level) (addr : Nat)
  /-- MATRIX_COMPLETION (R314). -/
  | matrixCompletion (idx : Nat)
  /-- ENGINE_COMMAND_START (R356). -/
  | engineCommandStart (core : Nat) (ch : Nat)
  /-- INDEX_ROW_DELIVERY (R374). -/
  | indexRowDelivery (core : Nat) (ch : Nat)
  /-- EMBAG_BAG_DELIVERY (R391). -/
  | embagBagDelivery (core : Nat) (ch : Nat)
  /-- COMMAND_COMPLETION (R359). -/
  | commandCompletion (core : Nat) (ch : Nat)
  /-- HELD_RECORD_WRITE (R262). -/
  | heldRecordWrite (holder : RecHolder)
  /-- PAGE_MOVE (R246). -/
  | pageMove (mover : Mover)
  /-- PROMOTION_MOVE (R247). -/
  | promotionMove (hinge : Nat) (page : Nat) (home : Nat)
  /-- PROMOTION_COUNTER_HALVE (R247). -/
  | promotionCounterHalve
  /-- COLLECTIVE_COMPLETION (R379). -/
  | collectiveCompletion (hinge : Nat) (comm : Nat) (peers : List PeerPost)
  /-- FLIT_RECEIVE (R474). -/
  | flitReceive (port : Nat) (flit : Flit)
  /-- PORT_RETRAIN_TIMEOUT (R474). -/
  | portRetrainTimeout (port : Nat)
  /-- STREAM_TAKE_ENTRY (R399). -/
  | streamTakeEntry (hinge : Nat) (stream : Nat)
  /-- TEAM_PLACEMENT (R410). -/
  | teamPlacement (hinge : Nat)
  /-- BAND_RETIRE (R212). -/
  | bandRetire (core : Nat) (slot : Nat)
  /-- TEAM_RETIRE (R413). -/
  | teamRetire (team : Nat)
  /-- QUANTUM_EXPIRE (R415). -/
  | quantumExpire (hinge : Nat)
  /-- FORCED_PICK (R414). -/
  | forcedPick (core : Nat) (slot : Nat)
  /-- ENGINE_TRAP_TAKE (R425). -/
  | engineTrapTake (core : Nat) (slot : Nat)
  /-- BREAKPOINT_HIT (R442). -/
  | breakpointHit (core : Nat) (slot : Nat) (n : Nat)
  /-- STOP_ARRIVAL (R445). -/
  | stopArrival (core : Nat) (slot : Nat)
  /-- SNAPSHOT_LATCH (R454). -/
  | snapshotLatch (trigger : Nat)
  /-- STALL_SAMPLE (R456). -/
  | stallSample (core : Nat) (sched : Nat)
  /-- MEMORY_SAMPLE (R456). -/
  | memorySample (core : Nat)
  /-- SCRUB (R428). -/
  | scrub (core : Nat)
  /-- KNUCKLE_PARITY_ERROR (R477). -/
  | knuckleParityError (core : Nat) (knuckle : Nat)
  /-- KNUCKLE_RETRY (R477). -/
  | knuckleRetry (core : Nat) (succeeds : Bool)
  /-- STACK_CRITICAL_TEMPERATURE (R479). -/
  | stackCriticalTemperature (stack : Nat)
  /-- FLUSH_WINDOW_END (R479). -/
  | flushWindowEnd (stack : Nat)
  /-- DIE_THROTTLE (R484). -/
  | dieThrottle (die : Nat)
  /-- COLD_RESET (R475). -/
  | coldReset (boot : Boot)
  /-- WARM_RESET (R476). -/
  | warmReset (boot : Boot)
  /-- ATTESTATION_REQUEST (R482). -/
  | attestationRequest
  /-- ATTESTATION_REPORT_READY (R482). -/
  | attestationReportReady
  /-- HOST_APERTURE_READ (R465). -/
  | hostApertureRead (off : Nat) (size : Nat)
  /-- HOST_APERTURE_WRITE (R465). -/
  | hostApertureWrite (off : Nat) (bytes : List Byte)
  /-- TLB_INVALIDATE (R468). -/
  | tlbInvalidate (ctx : Nat)
  /-- TLB_INVALIDATE_DONE (R468). -/
  | tlbInvalidateDone (ctx : Nat)
  /-- PAGE_ANSWER_DONE (R469). -/
  | pageAnswerDone (ctx : Nat) (page : Nat)
  /-- PAGE_ANSWER_REFUSED (R469). -/
  | pageAnswerRefused (ctx : Nat) (page : Nat)
  /-- BAND_RESUME (R449). -/
  | bandResume (ctx : Nat) (bands : BandSet)
  /-- BAND_ABORT (R423). -/
  | bandAbort (ctx : Nat) (bands : BandSet)
  /-- BAND_STEP (R450). -/
  | bandStep (ctx : Nat) (core : Nat) (slot : Nat) (pc : Option DWord)
  /-- STEP_END (R450). -/
  | stepEnd (core : Nat) (slot : Nat)
  /-- STREAM_ENABLE (R397). -/
  | streamEnable (hinge : Nat) (stream : Nat) (sctl : DWord)
  /-- STREAM_DISABLE (R397). -/
  | streamDisable (hinge : Nat) (stream : Nat) (sctl : DWord)
  /-- DOORBELL (R466). -/
  | doorbell (hinge : Nat)
  /-- DRIVER_TRIGGER (R455). -/
  | driverTrigger
  /-- STACK_RESUME (R472). -/
  | stackResume (stack : Nat)
  /-- PORT_RETRAIN (R474). -/
  | portRetrain (port : Nat)
  /-- DEBUG_READ (R451). -/
  | debugRead (core : Nat)
  /-- DEBUG_WRITE (R451). -/
  | debugWrite (core : Nat) (value : DWord)
  /-- TAP_DPACC (R452). -/
  | tapDpacc (write : Bool) (addr : Nat) (value : DWord)
  /-- COUNTER_READ_CLEAR (R13). -/
  | counterReadClear (off : Nat)
  /-- REGISTER_WRITE (R466). -/
  | registerWrite (off : Nat) (value : DWord)
  /-- CONTEXT_CREATION (R279), with the TVEC that the driver sets (R434). -/
  | contextCreation (ctx : Nat) (tvec : DWord)
  /-- LAUNCH_ABORT (R406). -/
  | launchAbort (ctx : Nat) (lseq : Nat)
  /-- DRIVER_HALT_REQUEST (R448). -/
  | driverHaltRequest (ctx : Nat) (bands : BandSet)
  /-- PORT_UP (R474). -/
  | portUp (port : Nat)
  /-- PORT_LINK_FAILURE (R474). -/
  | portLinkFailure (port : Nat)
  /-- DIE_TEMPERATURE_FALL (R484). -/
  | dieTemperatureFall (die : Nat)
  deriving DecidableEq, Repr

/-! ### The rows of the opcode table -/

/-- One constructor for each row of opcode_table.json: the encoded forms with their operands, then the forms that have
no operand beside the guard, then the events (their arguments are those of `Event`). The guard of R47 stands in the
same bits of every form and is held beside the instruction (`Decoded`). The order is not the table's, because
Lean's runtime has room for fields in the first 245 constructors only. -/
inductive Instr where
  /-- BRA (R198). -/
  | bra (o : Bra)
  /-- BRX (R198). -/
  | brx (o : Brx)
  /-- CALL (R200). -/
  | call (o : Call)
  /-- CALLX (R200). -/
  | callx (o : Callx)
  /-- RET_C (R200). -/
  | retC (o : CRet)
  /-- BRD (R205). -/
  | brd (o : Brd)
  /-- BRK (R208). -/
  | brk (o : Brk)
  /-- SWCH (R210). -/
  | swch (o : Swch)
  /-- LOOP (R216). -/
  | loop (o : Loop)
  /-- SADD_C (R108). -/
  | saddC (o : C3)
  /-- SADD (R108). -/
  | sadd (o : SOp2)
  /-- SSUB_C (R108). -/
  | ssubC (o : C3)
  /-- SSUB (R108). -/
  | ssub (o : SOp2)
  /-- SMUL_C (R108). -/
  | smulC (o : C3)
  /-- SMUL (R108). -/
  | smul (o : SOp2)
  /-- SMULH_C (R108). -/
  | smulhC (o : C3)
  /-- SMULH (R108). -/
  | smulh (o : SOp2)
  /-- SDIV_C (R109). -/
  | sdivC (o : C3)
  /-- SDIV (R109). -/
  | sdiv (o : SOp2)
  /-- SREM_C (R109). -/
  | sremC (o : C3)
  /-- SREM (R109). -/
  | srem (o : SOp2)
  /-- SAND_C (R108). -/
  | sandC (o : C3)
  /-- SAND (R108). -/
  | sand (o : SOp2)
  /-- SOR_C (R108). -/
  | sorC (o : C3)
  /-- SOR (R108). -/
  | sor (o : SOp2)
  /-- SXOR_C (R108). -/
  | sxorC (o : C3)
  /-- SXOR (R108). -/
  | sxor (o : SOp2)
  /-- SANDN_C (R108). -/
  | sandnC (o : C3)
  /-- SANDN (R108). -/
  | sandn (o : SOp2)
  /-- SSHL_C (R110). -/
  | sshlC (o : C3)
  /-- SSHL (R110). -/
  | sshl (o : SOp2)
  /-- SSHR_C (R110). -/
  | sshrC (o : C3)
  /-- SSHR (R110). -/
  | sshr (o : SOp2)
  /-- SSAR_C (R110). -/
  | ssarC (o : C3)
  /-- SSAR (R110). -/
  | ssar (o : SOp2)
  /-- SROT_C (R110). -/
  | srotC (o : C3)
  /-- SROT (R110). -/
  | srot (o : SOp2)
  /-- SMIN_C (R108). -/
  | sminC (o : C3)
  /-- SMIN (R108). -/
  | smin (o : SOp2)
  /-- SMAX_C (R108). -/
  | smaxC (o : C3)
  /-- SMAX (R108). -/
  | smax (o : SOp2)
  /-- SCMP (R112). -/
  | scmp (o : SCmp)
  /-- SSEL (R112). -/
  | ssel (o : SSel)
  /-- SMOV_C (R114). -/
  | smovC (o : C2)
  /-- SMOV (R114). -/
  | smov (o : SOp1)
  /-- SLI (R114). -/
  | sli (o : SLi)
  /-- SLEA (R119). -/
  | slea (o : SLea)
  /-- SPOPC_C (R115). -/
  | spopcC (o : C2)
  /-- SPOPC (R115). -/
  | spopc (o : SOp1)
  /-- SCLZ_C (R115). -/
  | sclzC (o : C2)
  /-- SCLZ (R115). -/
  | sclz (o : SOp1)
  /-- SCTZ_C (R115). -/
  | sctzC (o : C2)
  /-- SCTZ (R115). -/
  | sctz (o : SOp1)
  /-- SBFX (R117). -/
  | sbfx (o : SBf)
  /-- SBFI (R117). -/
  | sbfi (o : SBf)
  /-- SMOVV (R114). -/
  | smovv (o : SMovv)
  /-- VADD_C (R121). -/
  | vaddC (o : C3)
  /-- VADD (R121). -/
  | vadd (o : VOp2)
  /-- VSUB_C (R121). -/
  | vsubC (o : C3)
  /-- VSUB (R121). -/
  | vsub (o : VOp2)
  /-- VMUL_C (R121). -/
  | vmulC (o : C3)
  /-- VMUL (R121). -/
  | vmul (o : VOp2)
  /-- VMULH_C (R121). -/
  | vmulhC (o : C3)
  /-- VMULH (R121). -/
  | vmulh (o : VOp2)
  /-- VMAD (R124). -/
  | vmad (o : VOp3)
  /-- VMADW (R124). -/
  | vmadw (o : VOp3)
  /-- VAND_C (R121). -/
  | vandC (o : C3)
  /-- VAND (R121). -/
  | vand (o : VOp2)
  /-- VOR_C (R121). -/
  | vorC (o : C3)
  /-- VOR (R121). -/
  | vor (o : VOp2)
  /-- VXOR_C (R121). -/
  | vxorC (o : C3)
  /-- VXOR (R121). -/
  | vxor (o : VOp2)
  /-- VANDN_C (R121). -/
  | vandnC (o : C3)
  /-- VANDN (R121). -/
  | vandn (o : VOp2)
  /-- VSHL_C (R122). -/
  | vshlC (o : C3)
  /-- VSHL (R122). -/
  | vshl (o : VOp2)
  /-- VSHR_C (R122). -/
  | vshrC (o : C3)
  /-- VSHR (R122). -/
  | vshr (o : VOp2)
  /-- VSAR_C (R122). -/
  | vsarC (o : C3)
  /-- VSAR (R122). -/
  | vsar (o : VOp2)
  /-- VMIN_C (R121). -/
  | vminC (o : C3)
  /-- VMIN (R121). -/
  | vmin (o : VOp2)
  /-- VMAX_C (R121). -/
  | vmaxC (o : C3)
  /-- VMAX (R121). -/
  | vmax (o : VOp2)
  /-- VABS_C (R129). -/
  | vabsC (o : C2)
  /-- VABS (R129). -/
  | vabs (o : VOp1)
  /-- VADDS_C (R121). -/
  | vaddsC (o : C3)
  /-- VADDS (R121). -/
  | vadds (o : VOp2)
  /-- VSUBS_C (R121). -/
  | vsubsC (o : C3)
  /-- VSUBS (R121). -/
  | vsubs (o : VOp2)
  /-- VCMP (R128). -/
  | vcmp (o : VCmp)
  /-- VSEL (R128). -/
  | vsel (o : VSel)
  /-- VPOPC_C (R129). -/
  | vpopcC (o : C2)
  /-- VPOPC (R129). -/
  | vpopc (o : VOp1)
  /-- VCLZ_C (R129). -/
  | vclzC (o : C2)
  /-- VCLZ (R129). -/
  | vclz (o : VOp1)
  /-- VBFX (R131). -/
  | vbfx (o : VBf)
  /-- VBFI (R131). -/
  | vbfi (o : VBf)
  /-- VDOT4 (R126). -/
  | vdot4 (o : VDot)
  /-- VMOVS_C (R133). -/
  | vmovsC (o : C2)
  /-- VMOVS (R133). -/
  | vmovs (o : VMovs)
  /-- VLI (R133). -/
  | vli (o : VLi)
  /-- VIDX_C (R133). -/
  | vidxC (o : C1)
  /-- VIDX (R133). -/
  | vidx (o : VIdx)
  /-- VFADD_C (R147). -/
  | vfaddC (o : C3)
  /-- VFADD (R147). -/
  | vfadd (o : FOp2)
  /-- VFSUB_C (R147). -/
  | vfsubC (o : C3)
  /-- VFSUB (R147). -/
  | vfsub (o : FOp2)
  /-- VFMUL_C (R147). -/
  | vfmulC (o : C3)
  /-- VFMUL (R147). -/
  | vfmul (o : FOp2)
  /-- VFMA (R149). -/
  | vfma (o : FMa)
  /-- VFMIN_C (R153). -/
  | vfminC (o : C3)
  /-- VFMIN (R153). -/
  | vfmin (o : FMinMax)
  /-- VFMAX_C (R153). -/
  | vfmaxC (o : C3)
  /-- VFMAX (R153). -/
  | vfmax (o : FMinMax)
  /-- VFCMP (R157). -/
  | vfcmp (o : FCmp)
  /-- VFCLASS_C (R159). -/
  | vfclassC (o : C2)
  /-- VFCLASS (R159). -/
  | vfclass (o : FClass)
  /-- VFRCP_C (R163). -/
  | vfrcpC (o : C2)
  /-- VFRCP (R163). -/
  | vfrcp (o : FOp1)
  /-- VFRSQ_C (R163). -/
  | vfrsqC (o : C2)
  /-- VFRSQ (R163). -/
  | vfrsq (o : FOp1)
  /-- VFSQRT_C (R151). -/
  | vfsqrtC (o : C2)
  /-- VFSQRT (R151). -/
  | vfsqrt (o : FOp1)
  /-- VFDIV_C (R151). -/
  | vfdivC (o : C3)
  /-- VFDIV (R151). -/
  | vfdiv (o : FOp2)
  /-- VFEXP2_C (R163). -/
  | vfexp2C (o : C2)
  /-- VFEXP2 (R163). -/
  | vfexp2 (o : FOp1)
  /-- VFLOG2_C (R163). -/
  | vflog2C (o : C2)
  /-- VFLOG2 (R163). -/
  | vflog2 (o : FOp1)
  /-- VFSIN_C (R163). -/
  | vfsinC (o : C2)
  /-- VFSIN (R163). -/
  | vfsin (o : FOp1)
  /-- VFCOS_C (R163). -/
  | vfcosC (o : C2)
  /-- VFCOS (R163). -/
  | vfcos (o : FOp1)
  /-- VFTANH_C (R163). -/
  | vftanhC (o : C2)
  /-- VFTANH (R163). -/
  | vftanh (o : FOp1)
  /-- VADDMIN (R155). -/
  | vaddmin (o : FAddMin)
  /-- VADDMAX (R155). -/
  | vaddmax (o : FAddMin)
  /-- VFRND (R161). -/
  | vfrnd (o : FRnd)
  /-- VCVT (R93). -/
  | vcvt (o : Cvt)
  /-- VQNT (R90). -/
  | vqnt (o : Qnt)
  /-- VDQNT (R89). -/
  | vdqnt (o : Dqnt)
  /-- VPACK (R93). -/
  | vpack (o : Pack)
  /-- VUNPK (R76). -/
  | vunpk (o : Unpk)
  /-- VSHFL (R169). -/
  | vshfl (o : Shfl)
  /-- VBCST (R171). -/
  | vbcst (o : Bcst)
  /-- VVOTE (R175). -/
  | vvote (o : Vote)
  /-- VMATCH (R173). -/
  | vmatch (o : Match)
  /-- VSCAN (R177). -/
  | vscan (o : Scan)
  /-- VRED (R184). -/
  | vred (o : Red)
  /-- SRDW (R190). -/
  | srdw (o : Rdw)
  /-- PAND_C (R179). -/
  | pandC (o : CP3)
  /-- PAND (R179). -/
  | pand (o : POp2)
  /-- POR_C (R179). -/
  | porC (o : CP3)
  /-- POR (R179). -/
  | por (o : POp2)
  /-- PXOR_C (R179). -/
  | pxorC (o : CP3)
  /-- PXOR (R179). -/
  | pxor (o : POp2)
  /-- PNOT_C (R179). -/
  | pnotC (o : CP2)
  /-- PNOT (R179). -/
  | pnot (o : POp1)
  /-- PTOV_C (R181). -/
  | ptovC (o : CRP)
  /-- PTOV (R181). -/
  | ptov (o : Ptov)
  /-- VTOP_C (R181). -/
  | vtopC (o : CPR)
  /-- VTOP (R181). -/
  | vtop (o : Vtop)
  /-- PPOPC_C (R181). -/
  | ppopcC (o : CRP)
  /-- PPOPC (R181). -/
  | ppopc (o : Ppopc)
  /-- LD (R255). -/
  | ld (o : Ld)
  /-- ST (R255). -/
  | st (o : St)
  /-- SLD (R255). -/
  | sld (o : Sld)
  /-- SST (R255). -/
  | sst (o : Sst)
  /-- LDN (R256). -/
  | ldn (o : Ldn)
  /-- PREF (R257). -/
  | pref (o : Pref)
  /-- CLEAN (R258). -/
  | clean (o : Clean)
  /-- INVAL (R258). -/
  | inval (o : Clean)
  /-- PIN (R259). -/
  | pin (o : Pin)
  /-- UNPIN (R259). -/
  | unpin (o : PageOp)
  /-- DISCARD (R260). -/
  | discard (o : PageOp)
  /-- PGREQ (R261). -/
  | pgreq (o : Pgreq)
  /-- MAPW (R263). -/
  | mapw (o : Mapw)
  /-- MAPC (R264). -/
  | mapc (o : MapOp)
  /-- MAPF (R264). -/
  | mapf (o : MapOp)
  /-- FENCE (R278). -/
  | fence (o : Fence)
  /-- KBIND (R281). -/
  | kbind (o : Kbind)
  /-- KFREE (R281). -/
  | kfree (o : Kfree)
  /-- KACQ (R283). -/
  | kacq (o : Kacq)
  /-- KREL (R283). -/
  | krel (o : Krel)
  /-- LATG (R287). -/
  | latg (o : Latg)
  /-- LATW (R287). -/
  | latw (o : Latw)
  /-- ATOM (R298). -/
  | atom (o : Atom)
  /-- ATOMF (R298). -/
  | atomf (o : Atomf)
  /-- CAS (R298). -/
  | cas (o : Cas)
  /-- CAS2 (R298). -/
  | cas2 (o : Cas2)
  /-- TINIT (R303). -/
  | tinit (o : Tinit)
  /-- TARV (R303). -/
  | tarv (o : Tarv)
  /-- TWAIT (R303). -/
  | twait (o : Twait)
  /-- TTEST (R303). -/
  | ttest (o : Ttest)
  /-- MMA (R321). -/
  | mma (o : Mma)
  /-- MMAS (R322). -/
  | mmas (o : Mmas)
  /-- TZERO_C (R324). -/
  | tzeroC (o : CTile)
  /-- TZERO (R324). -/
  | tzero (o : TileG)
  /-- TFILL (R324). -/
  | tfill (o : Tfill)
  /-- TIDENT (R324). -/
  | tident (o : Tident)
  /-- TLD (R326). -/
  | tld (o : Tld)
  /-- TST (R326). -/
  | tst (o : Tst)
  /-- TMOVV (R328). -/
  | tmovv (o : Tmov)
  /-- TMOVT (R328). -/
  | tmovt (o : Tmov)
  /-- TCLS (R330). -/
  | tcls (o : Tcls)
  /-- SCLD (R332). -/
  | scld (o : Scld)
  /-- TTOPK (R334). -/
  | ttopk (o : Ttopk)
  /-- TACC (R336). -/
  | tacc (o : Tacc)
  /-- TSCL (R336). -/
  | tscl (o : Tscl)
  /-- TCVT (R336). -/
  | tcvt (o : Tcvt)
  /-- TDSET (R369). -/
  | tdset (o : Td)
  /-- TDGET (R369). -/
  | tdget (o : Td)
  /-- TDINV (R369). -/
  | tdinv (o : Tdinv)
  /-- CPOST (R371). -/
  | cpost (o : Cpost)
  /-- GPOST (R374). -/
  | gpost (o : Gpost)
  /-- SPOST (R374). -/
  | spost (o : Gpost)
  /-- VREMAP (R376). -/
  | vremap (o : Vremap)
  /-- CWAIT (R377). -/
  | cwait (o : Cwait)
  /-- CSEQ (R377). -/
  | cseq (o : Cseq)
  /-- CQRY (R377). -/
  | cqry (o : Cqry)
  /-- MPOST (R378). -/
  | mpost (o : Mpost)
  /-- XRED (R381). -/
  | xred (o : Xred)
  /-- XGTH (R381). -/
  | xgth (o : Xgth)
  /-- XSND (R381). -/
  | xsnd (o : Xsr)
  /-- XRCV (R381). -/
  | xrcv (o : Xsr)
  /-- EMBAG (R390). -/
  | embag (o : Embag)
  /-- EMSTAT (R394). -/
  | emstat (o : Emstat)
  /-- LAUNCH (R405). -/
  | launch (o : Launch)
  /-- LWAIT (R406). -/
  | lwait (o : Lwait)
  /-- LSIG (R408). -/
  | lsig (o : Lsig)
  /-- LSIG_HINGE (R408). -/
  | lsigHinge (o : LsigHinge)
  /-- LSIG_HOST (R408). -/
  | lsigHost (o : LsigHost)
  /-- LEVW (R408). -/
  | levw (o : Levw)
  /-- CTXSW (R418). -/
  | ctxsw (o : Ctxsw)
  /-- TRAP_C (R430). -/
  | trapC (o : C1)
  /-- TRAP (R430). -/
  | trap (o : Trap)
  /-- MFS (R435). -/
  | mfs (o : Msr)
  /-- MTS (R435). -/
  | mts (o : Msr)
  /-- BKPT_C (R463). -/
  | bkptC (o : C1)
  /-- SNAP (R463). -/
  | snap (o : Snap)
  /-- MARK (R463). -/
  | mark (o : Mark)
  /-- ESAMP_C (R463). -/
  | esampC (o : C1)
  /-- ESAMP (R463). -/
  | esamp (o : Esamp)
  /-- NOP_C (R196). -/
  | nopC
  /-- JOIN_C (R206). -/
  | joinC
  /-- EXIT_C (R212). -/
  | exitC
  /-- YIELD_C (R213). -/
  | yieldC
  /-- TRET_C (R430). -/
  | tretC
  /-- HALT_C (R430). -/
  | haltC
  /-- VRED_COMPLETION (R187), an event. -/
  | vredCompletion
  /-- ACCESS_PERFORMED (R269), an event. -/
  | accessPerformed
  /-- BACKGROUND_WRITEBACK (R270), an event. -/
  | backgroundWriteback
  /-- BACKGROUND_DISCARD (R270), an event. -/
  | backgroundDiscard
  /-- MATRIX_COMPLETION (R314), an event. -/
  | matrixCompletion
  /-- ENGINE_COMMAND_START (R356), an event. -/
  | engineCommandStart
  /-- INDEX_ROW_DELIVERY (R374), an event. -/
  | indexRowDelivery
  /-- EMBAG_BAG_DELIVERY (R391), an event. -/
  | embagBagDelivery
  /-- COMMAND_COMPLETION (R359), an event. -/
  | commandCompletion
  /-- HELD_RECORD_WRITE (R262), an event. -/
  | heldRecordWrite
  /-- PAGE_MOVE (R246), an event. -/
  | pageMove
  /-- PROMOTION_MOVE (R247), an event. -/
  | promotionMove
  /-- PROMOTION_COUNTER_HALVE (R247), an event. -/
  | promotionCounterHalve
  /-- COLLECTIVE_COMPLETION (R379), an event. -/
  | collectiveCompletion
  /-- FLIT_RECEIVE (R474), an event. -/
  | flitReceive
  /-- PORT_RETRAIN_TIMEOUT (R474), an event. -/
  | portRetrainTimeout
  /-- STREAM_TAKE_ENTRY (R399), an event. -/
  | streamTakeEntry
  /-- TEAM_PLACEMENT (R410), an event. -/
  | teamPlacement
  /-- BAND_RETIRE (R212), an event. -/
  | bandRetire
  /-- TEAM_RETIRE (R413), an event. -/
  | teamRetire
  /-- QUANTUM_EXPIRE (R415), an event. -/
  | quantumExpire
  /-- FORCED_PICK (R414), an event. -/
  | forcedPick
  /-- ENGINE_TRAP_TAKE (R425), an event. -/
  | engineTrapTake
  /-- BREAKPOINT_HIT (R442), an event. -/
  | breakpointHit
  /-- STOP_ARRIVAL (R445), an event. -/
  | stopArrival
  /-- SNAPSHOT_LATCH (R454), an event. -/
  | snapshotLatch
  /-- STALL_SAMPLE (R456), an event. -/
  | stallSample
  /-- MEMORY_SAMPLE (R456), an event. -/
  | memorySample
  /-- SCRUB (R428), an event. -/
  | scrub
  /-- KNUCKLE_PARITY_ERROR (R477), an event. -/
  | knuckleParityError
  /-- KNUCKLE_RETRY (R477), an event. -/
  | knuckleRetry
  /-- STACK_CRITICAL_TEMPERATURE (R479), an event. -/
  | stackCriticalTemperature
  /-- FLUSH_WINDOW_END (R479), an event. -/
  | flushWindowEnd
  /-- DIE_THROTTLE (R484), an event. -/
  | dieThrottle
  /-- COLD_RESET (R475), an event. -/
  | coldReset
  /-- WARM_RESET (R476), an event. -/
  | warmReset
  /-- ATTESTATION_REQUEST (R482), an event. -/
  | attestationRequest
  /-- ATTESTATION_REPORT_READY (R482), an event. -/
  | attestationReportReady
  /-- HOST_APERTURE_READ (R465), an event. -/
  | hostApertureRead
  /-- HOST_APERTURE_WRITE (R465), an event. -/
  | hostApertureWrite
  /-- TLB_INVALIDATE (R468), an event. -/
  | tlbInvalidate
  /-- TLB_INVALIDATE_DONE (R468), an event. -/
  | tlbInvalidateDone
  /-- PAGE_ANSWER_DONE (R469), an event. -/
  | pageAnswerDone
  /-- PAGE_ANSWER_REFUSED (R469), an event. -/
  | pageAnswerRefused
  /-- BAND_RESUME (R449), an event. -/
  | bandResume
  /-- BAND_ABORT (R423), an event. -/
  | bandAbort
  /-- BAND_STEP (R450), an event. -/
  | bandStep
  /-- STEP_END (R450), an event. -/
  | stepEnd
  /-- STREAM_ENABLE (R397), an event. -/
  | streamEnable
  /-- STREAM_DISABLE (R397), an event. -/
  | streamDisable
  /-- DOORBELL (R466), an event. -/
  | doorbell
  /-- DRIVER_TRIGGER (R455), an event. -/
  | driverTrigger
  /-- STACK_RESUME (R472), an event. -/
  | stackResume
  /-- PORT_RETRAIN (R474), an event. -/
  | portRetrain
  /-- DEBUG_READ (R451), an event. -/
  | debugRead
  /-- DEBUG_WRITE (R451), an event. -/
  | debugWrite
  /-- TAP_DPACC (R452), an event. -/
  | tapDpacc
  /-- COUNTER_READ_CLEAR (R13), an event. -/
  | counterReadClear
  /-- REGISTER_WRITE (R466), an event. -/
  | registerWrite
  /-- CONTEXT_CREATION (R279), an event. -/
  | contextCreation
  /-- LAUNCH_ABORT (R406), an event. -/
  | launchAbort
  /-- DRIVER_HALT_REQUEST (R448), an event. -/
  | driverHaltRequest
  /-- PORT_UP (R474), an event. -/
  | portUp
  /-- PORT_LINK_FAILURE (R474), an event. -/
  | portLinkFailure
  /-- DIE_TEMPERATURE_FALL (R484), an event. -/
  | dieTemperatureFall
  deriving DecidableEq, Repr

/-- An instruction with its guard (R47). -/
structure Decoded where
  guard : Guard
  instr : Instr
  deriving DecidableEq, Repr

/-- The row of an event. -/
def Event.row : Event → Instr
  | .vredCompletion .. => .vredCompletion
  | .accessPerformed .. => .accessPerformed
  | .backgroundWriteback .. => .backgroundWriteback
  | .backgroundDiscard .. => .backgroundDiscard
  | .matrixCompletion .. => .matrixCompletion
  | .engineCommandStart .. => .engineCommandStart
  | .indexRowDelivery .. => .indexRowDelivery
  | .embagBagDelivery .. => .embagBagDelivery
  | .commandCompletion .. => .commandCompletion
  | .heldRecordWrite .. => .heldRecordWrite
  | .pageMove .. => .pageMove
  | .promotionMove .. => .promotionMove
  | .promotionCounterHalve => .promotionCounterHalve
  | .collectiveCompletion .. => .collectiveCompletion
  | .flitReceive .. => .flitReceive
  | .portRetrainTimeout .. => .portRetrainTimeout
  | .streamTakeEntry .. => .streamTakeEntry
  | .teamPlacement .. => .teamPlacement
  | .bandRetire .. => .bandRetire
  | .teamRetire .. => .teamRetire
  | .quantumExpire .. => .quantumExpire
  | .forcedPick .. => .forcedPick
  | .engineTrapTake .. => .engineTrapTake
  | .breakpointHit .. => .breakpointHit
  | .stopArrival .. => .stopArrival
  | .snapshotLatch .. => .snapshotLatch
  | .stallSample .. => .stallSample
  | .memorySample .. => .memorySample
  | .scrub .. => .scrub
  | .knuckleParityError .. => .knuckleParityError
  | .knuckleRetry .. => .knuckleRetry
  | .stackCriticalTemperature .. => .stackCriticalTemperature
  | .flushWindowEnd .. => .flushWindowEnd
  | .dieThrottle .. => .dieThrottle
  | .coldReset .. => .coldReset
  | .warmReset .. => .warmReset
  | .attestationRequest => .attestationRequest
  | .attestationReportReady => .attestationReportReady
  | .hostApertureRead .. => .hostApertureRead
  | .hostApertureWrite .. => .hostApertureWrite
  | .tlbInvalidate .. => .tlbInvalidate
  | .tlbInvalidateDone .. => .tlbInvalidateDone
  | .pageAnswerDone .. => .pageAnswerDone
  | .pageAnswerRefused .. => .pageAnswerRefused
  | .bandResume .. => .bandResume
  | .bandAbort .. => .bandAbort
  | .bandStep .. => .bandStep
  | .stepEnd .. => .stepEnd
  | .streamEnable .. => .streamEnable
  | .streamDisable .. => .streamDisable
  | .doorbell .. => .doorbell
  | .driverTrigger => .driverTrigger
  | .stackResume .. => .stackResume
  | .portRetrain .. => .portRetrain
  | .debugRead .. => .debugRead
  | .debugWrite .. => .debugWrite
  | .tapDpacc .. => .tapDpacc
  | .counterReadClear .. => .counterReadClear
  | .registerWrite .. => .registerWrite
  | .contextCreation .. => .contextCreation
  | .launchAbort .. => .launchAbort
  | .driverHaltRequest .. => .driverHaltRequest
  | .portUp .. => .portUp
  | .portLinkFailure .. => .portLinkFailure
  | .dieTemperatureFall .. => .dieTemperatureFall

end Sys2Proof
end

