-- ==== Sys2Proof/Machine/Formats.lean ====
section
/-! DEFINITION. Number formats, exact values and rounding (03 R75-R92): the helpers of R83, RoundToFormat,
RoundToInteger, IntNarrow, BlockScale, Window28Sum and NonFiniteBits. -/

namespace Sys2Proof.Machine

/-! ### Type codes and integer types (R50, R75) -/

/-- TY of an integer type. -/
def intCode : IntTy → Nat
  | .i8 => 0 | .i16 => 1 | .i32 => 2 | .i64 => 3 | .n8 => 4 | .n16 => 5 | .n32 => 6 | .n64 => 7

def intOfCode : Nat → Option IntTy
  | 0 => some .i8 | 1 => some .i16 | 2 => some .i32 | 3 => some .i64
  | 4 => some .n8 | 5 => some .n16 | 6 => some .n32 | 7 => some .n64 | _ => none

/-- TY of a float type. -/
def fltCode : FTy → Nat
  | .f16 => 8 | .bf16 => 9 | .f32 => 10 | .f64 => 11 | .f16x2 => 12 | .bf16x2 => 13

def fltOfCode : Nat → Option FTy
  | 8 => some .f16 | 9 => some .bf16 | 10 => some .f32 | 11 => some .f64
  | 12 => some .f16x2 | 13 => some .bf16x2 | _ => none

/-- TY of any type. -/
def tyCode : Ty → Nat
  | .int t => intCode t
  | .flt t => fltCode t
  | .b8 f => 32 + 4 * f.p.val + 2 * bit f.unsigned + bit f.finite

def tyOfCode (c : Nat) : Option Ty :=
  if c < 8 then (intOfCode c).map .int
  else if c < 14 then (fltOfCode c).map .flt
  else if h : 36 ≤ c ∧ c < 64 then
    some (.b8 { p := ⟨(c - 32) / 4, by omega⟩, unsigned := bitOf c 1, finite := bitOf c 0 })
  else none

/-- The width of an integer type in bits. -/
def intWidth : IntTy → Nat
  | .i8 | .n8 => 8 | .i16 | .n16 => 16 | .i32 | .n32 => 32 | .i64 | .n64 => 64

/-- An .i type. -/
def intSigned : IntTy → Bool
  | .i8 | .i16 | .i32 | .i64 => true
  | .n8 | .n16 | .n32 | .n64 => false

/-- The low `w` bits of `x` read as two's complement or as a natural number (R75). -/
def readInt (signed : Bool) (w x : Nat) : Int :=
  let y := x % 2 ^ w
  if signed && decide (2 ^ (w - 1) ≤ y) then (y : Int) - 2 ^ w else y

/-- `i` mod 2^`w` as a natural number. -/
def wrapNat (w : Nat) (i : Int) : Nat := (i % (2 ^ w : Int)).toNat

/-- The least and greatest value of an integer type. -/
def intMin (t : IntTy) : Int := if intSigned t then -(2 ^ (intWidth t - 1)) else 0
def intMax (t : IntTy) : Int := if intSigned t then 2 ^ (intWidth t - 1) - 1 else 2 ^ intWidth t - 1

/-- Clamp (R83). -/
def clampInt (x lo hi : Int) : Int := if x < lo then lo else if hi < x then hi else x

/-- The size of an element of a type in bytes; a packed type has 4. -/
def tyBytes : Ty → Nat
  | .int t => intWidth t / 8
  | .flt .f16 | .flt .bf16 => 2
  | .flt .f32 | .flt .f16x2 | .flt .bf16x2 => 4
  | .flt .f64 => 8
  | .b8 _ => 1

/-! ### Float and binary8 formats (R77-R82) -/

/-- A format: precision `p`, exponent `emin` of its smallest subnormal, width, largest finite magnitude
code, infinity code and NaN code, whether it has a sign, whether it is an IEEE format. -/
structure Fmt where
  p : Nat
  emin : Int
  width : Nat
  maxCode : Nat
  infCode : Option Nat
  nanCode : Nat
  signed : Bool
  ieee : Bool
  deriving DecidableEq, Repr

def fmtF16 : Fmt :=
  { p := 11, emin := -24, width := 16, maxCode := 0x7BFF, infCode := some 0x7C00, nanCode := 0x7E00,
    signed := true, ieee := true }
def fmtBf16 : Fmt :=
  { p := 8, emin := -133, width := 16, maxCode := 0x7F7F, infCode := some 0x7F80, nanCode := 0x7FC0,
    signed := true, ieee := true }
def fmtF32 : Fmt :=
  { p := 24, emin := -149, width := 32, maxCode := 0x7F7FFFFF, infCode := some 0x7F800000,
    nanCode := 0x7FC00000, signed := true, ieee := true }
def fmtF64 : Fmt :=
  { p := 53, emin := -1074, width := 64, maxCode := 0x7FEFFFFFFFFFFFFF, infCode := some 0x7FF0000000000000,
    nanCode := 0x7FF8000000000000, signed := true, ieee := true }

/-- A binary8 format (R79, R80): the bias is 2^(7-P) signed and 2^(8-P) unsigned. -/
def fmtB8 (f : B8) : Fmt :=
  let bias : Nat := if f.unsigned then 2 ^ (8 - f.p.val) else 2 ^ (7 - f.p.val)
  let top : Nat := if f.unsigned then 0xFE else 0x7F
  { p := f.p.val, emin := 2 - (bias : Int) - (f.p.val : Int), width := 8
    maxCode := if f.finite then top else top - 1
    infCode := if f.finite then none else some top
    nanCode := if f.unsigned then 0xFF else 0x80
    signed := !f.unsigned, ieee := false }

/-- The format of one element of a float type (ElementType of R83). -/
def fmtOf : FTy → Fmt
  | .f16 | .f16x2 => fmtF16
  | .bf16 | .bf16x2 => fmtBf16
  | .f32 => fmtF32
  | .f64 => fmtF64

/-- The format of a float or binary8 type. -/
def fmtOfTy : Ty → Option Fmt
  | .int _ => none
  | .flt t => some (fmtOf t)
  | .b8 f => some (fmtB8 f)

/-- Elements in one register or pair of a float type. -/
def fltElems : FTy → Nat
  | .f16x2 | .bf16x2 => 2
  | _ => 1

/-! ### Exact values -/

/-- A decoded value: a NaN, an infinity, or (-1)^neg * m * 2^e. With `rest` the magnitude lies strictly between
m * 2^e and (m + 1) * 2^e; the operations that set it give `m` far more bits than any format holds. -/
inductive Val where
  | nan (sig : Bool)
  | inf (neg : Bool)
  | fin (neg : Bool) (m : Nat) (e : Int) (rest : Bool)
  deriving DecidableEq, Repr

def Val.isNan : Val → Bool
  | .nan _ => true | _ => false
def Val.isSig : Val → Bool
  | .nan s => s | _ => false
def Val.isInf : Val → Bool
  | .inf _ => true | _ => false
def Val.isZero : Val → Bool
  | .fin _ m _ _ => m == 0 | _ => false
def Val.isNeg : Val → Bool
  | .nan _ => false | .inf n => n | .fin n _ _ _ => n

/-- The value with its sign turned when `b`. -/
def Val.negIf (b : Bool) : Val → Val
  | .nan s => .nan s
  | .inf n => .inf (n != b)
  | .fin n m e r => .fin (n != b) m e r

def Val.ofInt (i : Int) : Val := .fin (decide (i < 0)) i.natAbs 0 false

/-- The magnitude that a code denotes: significand and exponent of its unit. -/
def codeMag (f : Fmt) (c : Nat) : Nat × Int :=
  let x := c / 2 ^ (f.p - 1)
  let t := c % 2 ^ (f.p - 1)
  if x = 0 then (t, f.emin) else (2 ^ (f.p - 1) + t, f.emin + ((x : Int) - 1))

/-- Decode of R83 for a float or binary8 format. -/
def decodeFmt (f : Fmt) (bits : Nat) : Val :=
  let b := bits % 2 ^ f.width
  let neg := f.signed && decide (2 ^ (f.width - 1) ≤ b)
  let c := if f.signed then b % 2 ^ (f.width - 1) else b
  if f.ieee then
    match f.infCode with
    | none => .nan false
    | some i =>
      if c = i then .inf neg
      else if i < c then .nan (decide (c - i < 2 ^ (f.p - 2)))
      else .fin neg (codeMag f c).1 (codeMag f c).2 false
  else if b = f.nanCode then .nan false
  else if f.infCode = some c then .inf neg
  else .fin neg (codeMag f c).1 (codeMag f c).2 false

/-- Decode of R83 for any unpacked type; a packed type reads its element 0. -/
def decodeTy (t : Ty) (bits : Nat) : Val :=
  match t with
  | .int i => Val.ofInt (readInt (intSigned i) (intWidth i) bits)
  | .flt x => decodeFmt (fmtOf x) bits
  | .b8 f => decodeFmt (fmtB8 f) bits

/-- The code with its sign bit; an unsigned format ignores the sign and a binary8 zero has none. -/
def encodeSign (f : Fmt) (neg : Bool) (c : Nat) : Nat :=
  if f.signed && neg && (f.ieee || c != 0) then 2 ^ (f.width - 1) + c else c

/-- m1 * 2^e1 ≤ m2 * 2^e2. -/
def magLe (m1 : Nat) (e1 : Int) (m2 : Nat) (e2 : Int) : Bool :=
  if e1 ≤ e2 then decide (m1 ≤ m2 * 2 ^ (e2 - e1).toNat) else decide (m1 * 2 ^ (e1 - e2).toNat ≤ m2)

/-! ### Conditions and rounding (R84-R88) -/

/-- The five conditions, at their places in FSTAT (R134). -/
abbrev Flags := BitVec 5
def flagNV : Flags := 1#5
def flagDZ : Flags := 2#5
def flagOF : Flags := 4#5
def flagUF : Flags := 8#5
def flagNX : Flags := 16#5
def flagIf (b : Bool) (f : Flags) : Flags := if b then f else 0#5

/-- The rounding modes (R85). -/
inductive Mode where
  | rne | rtz | rup | rdn | sr
  deriving DecidableEq, Repr

/-- TowardZero of R86. -/
def towardZero (mode : Mode) (neg : Bool) : Bool :=
  match mode with
  | .rtz => true
  | .rdn => !neg
  | .rup => neg
  | .rne | .sr => false

/-- A magnitude on a grid of unit 2^q: lo = `m`, whether it is exact, how a - lo compares with half a unit,
and floor(frac * 2^32). -/
structure Cut where
  m : Nat
  exact : Bool
  half : Ordering
  frac32 : Nat
  deriving DecidableEq, Repr

/-- The neighbours of m * 2^e (with `rest`) on the grid of unit 2^q. -/
def cutAt (m : Nat) (e : Int) (rest : Bool) (q : Int) : Cut :=
  if q ≤ e then { m := m * 2 ^ (e - q).toNat, exact := !rest, half := .lt, frac32 := 0 }
  else
    let k := (q - e).toNat
    let r := m % 2 ^ k
    { m := m / 2 ^ k
      exact := decide (r = 0) && !rest
      half := if 2 * r < 2 ^ k then .lt else if 2 * r = 2 ^ k && !rest then .eq else .gt
      frac32 := r * 2 ^ 32 / 2 ^ k }

/-- Whether the upper neighbour is taken (R86); `even` says the lower one wins a tie. -/
def takesUp (mode : Mode) (neg : Bool) (c : Cut) (even : Bool) (rnd : Nat) : Bool :=
  !c.exact &&
  match mode with
  | .rne => match c.half with
    | .lt => false
    | .gt => true
    | .eq => !even
  | .rtz => false
  | .rup => !neg
  | .rdn => neg
  | .sr => decide (rnd < c.frac32)

/-- RoundToFormat (R86). `rnd` is SRBits(lane, j), read under .sr only. An infinity under SAT = 1 in a format that has infinities
stays one, as the pseudocode of R86 has it against the rule's last sentence. DESIGN CHOICE (log 97).
DESIGN CHOICE (log 97). -/
def roundToFormat (x : Val) (f : Fmt) (mode : Mode) (sat : Bool) (rnd : Nat) : Nat × Flags :=
  match x with
  | .nan sig => (f.nanCode, flagIf sig flagNV)
  | .inf neg =>
    if neg && !f.signed then (if sat then (0, flagNX) else (f.nanCode, flagNV))
    else match f.infCode with
      | some i => (encodeSign f neg i, 0#5)
      | none => if sat then (encodeSign f neg f.maxCode, flagNX) else (f.nanCode, flagNV)
  | .fin neg m e rest =>
    if neg && m != 0 && !f.signed then (if sat then (0, flagNX) else (f.nanCode, flagNV))
    else if m = 0 then (encodeSign f neg 0, 0#5)
    else
      let top : Int := (m.log2 : Int) + e
      let q : Int := max (top - ((f.p : Int) - 1)) f.emin
      let c := cutAt m e rest q
      let even :=
        if 1 < f.p then c.m % 2 == 0
        else c.m == 0 || (q - f.emin + 1) % 2 == 0
      let m' := if takesUp mode neg c even rnd then c.m + 1 else c.m
      let code := (q - f.emin).toNat * 2 ^ (f.p - 1) + m'
      let fl := flagIf (!c.exact) flagNX
        ||| flagIf (!c.exact && decide (top < f.emin + ((f.p : Int) - 1))) flagUF
      if f.maxCode < code then
        let fl := fl ||| flagOF ||| flagNX
        if sat || towardZero mode neg then (encodeSign f neg f.maxCode, fl)
        else match f.infCode with
          | some i => (encodeSign f neg i, fl)
          | none => (f.nanCode, fl)
      else (encodeSign f neg code, fl)

/-- RoundF32 (R86). -/
def roundF32 (x : Val) : Nat × Flags := roundToFormat x fmtF32 .rne false 0

/-- The integer that the mode selects, with whether it is exact: the mode rules on the integer grid. -/
def roundIntegral (neg : Bool) (m : Nat) (e : Int) (rest : Bool) (mode : Mode) (rnd : Nat) : Nat × Bool :=
  let c := cutAt m e rest 0
  ((if takesUp mode neg c (c.m % 2 == 0) rnd then c.m + 1 else c.m), c.exact)

/-- RoundToInteger (R88): the result as a natural number of the type's width, and the conditions. -/
def roundToInteger (x : Val) (t : IntTy) (mode : Mode) (sat : Bool) (rnd : Nat) : Nat × Flags :=
  let w := intWidth t
  match x with
  | .nan _ => (0, flagNV)
  | .inf neg =>
    if sat then (wrapNat w (if neg then intMin t else intMax t), flagNV) else (0, flagNV)
  | .fin neg m e rest =>
    let r := roundIntegral neg m e rest mode rnd
    let i : Int := if neg then -(r.1 : Int) else r.1
    if i < intMin t ∨ intMax t < i then
      (wrapNat w (if sat then clampInt i (intMin t) (intMax t) else i), flagNV)
    else (wrapNat w i, flagIf (!r.2) flagNX)

/-- IntNarrow (R88). -/
def intNarrow (i : Int) (t : IntTy) (sat : Bool) : Nat :=
  wrapNat (intWidth t) (if sat then clampInt i (intMin t) (intMax t) else i)

/-- A result of width `w` as the register holds it (R76): .i8 and .i16 sign-extend, every other narrow type
zero-extends; 64-bit results stay whole. -/
def widen (t : Ty) (bits : Nat) : Nat :=
  match t with
  | .int i => if intWidth i < 32 && intSigned i then wrapNat 32 (readInt true (intWidth i) bits) else bits
  | _ => bits

/-! ### Stochastic bits (R87) -/

/-- Mix64. -/
def mix64 (z : Nat) : Nat :=
  let z := (Nat.xor z (z / 2 ^ 30) * 0xBF58476D1CE4E5B9) % 2 ^ 64
  let z := (Nat.xor z (z / 2 ^ 27) * 0x94D049BB133111EB) % 2 ^ 64
  Nat.xor z (z / 2 ^ 31)

/-- SRAdvance. -/
def srAdvance (st : Nat) : Nat := (st * 0x5851F42D4C957F2D + 0x14057B7EF767814F) % 2 ^ 64

/-- SRBits(lane, j). -/
def srBits (st lane j : Nat) : Nat := mix64 (Nat.xor (Nat.xor st (lane * 256)) j) / 2 ^ 32

/-! ### Exact pairs of conversions (R94) -/

/-- Every value of `s` is a value of `d`. -/
def exactPair (d s : Ty) : Bool :=
  match s, d with
  | .int a, .int b => decide (intMin b ≤ intMin a) && decide (intMax a ≤ intMax b)
  | .int a, .flt x =>
    let f := fmtOf x
    let top := codeMag f f.maxCode
    decide ((if intSigned a then intWidth a - 1 else intWidth a) ≤ f.p)
      && decide (f.emin ≤ 0) && magLe (max (intMax a).toNat (-(intMin a)).toNat) 0 top.1 top.2
  | .int a, .b8 x =>
    let f := fmtB8 x
    let top := codeMag f f.maxCode
    decide ((if intSigned a then intWidth a - 1 else intWidth a) ≤ f.p) && (f.signed || !intSigned a)
      && decide (f.emin ≤ 0) && magLe (max (intMax a).toNat (-(intMin a)).toNat) 0 top.1 top.2
  | _, .int _ => false
  | _, _ =>
    match fmtOfTy s, fmtOfTy d with
    | some a, some b =>
      (!a.signed || b.signed) && decide (a.p ≤ b.p) && decide (b.emin ≤ a.emin)
        && magLe (codeMag a a.maxCode).1 (codeMag a a.maxCode).2 (codeMag b b.maxCode).1 (codeMag b b.maxCode).2
        && (a.infCode.isNone || b.infCode.isSome)
    | _, _ => false

/-! ### Block scales (R89, R90) -/

/-- Emax of R90. -/
def emaxOf (t : Ty) : Int :=
  match fmtOfTy t with
  | some f => ((codeMag f f.maxCode).1.log2 : Int) + (codeMag f f.maxCode).2
  | none => 6

/-- BlockScale of a largest magnitude m * 2^e (R90). -/
def blockScale (m : Nat) (e : Int) (t : Ty) : Nat :=
  if m = 0 then 127 else (clampInt ((m.log2 : Int) + e - emaxOf t + 127) 0 254).toNat

/-- The value times 2^k. -/
def Val.scale (k : Int) : Val → Val
  | .nan s => .nan s
  | .inf n => .inf n
  | .fin n m e r => .fin n m (e + k) r

/-- The element after the scale byte `e` (R89). -/
def scaleBy (v : Val) (e : Nat) : Val := if e = 255 then .nan false else v.scale ((e : Int) - 127)

/-! ### Window28Sum (R91) -/

/-- The exact product of two values that are not NaN and not ∞ × 0. -/
def Val.times : Val → Val → Val
  | .fin n m e r, .fin n' m' e' r' => .fin (n != n') (m * m') (e + e') (r || r')
  | a, b => .inf (a.isNeg != b.isNeg)

def magTop : Val → Int
  | .fin _ m e _ => (m.log2 : Int) + e
  | _ => 0

/-- Sum of the terms truncated to `unit` = 2^q, and whether any truncation was inexact. -/
def windowAcc (q : Int) : List Val → Int × Bool
  | [] => (0, false)
  | .fin neg m e r :: ts =>
    let c := cutAt m e r q
    let rest := windowAcc q ts
    ((if neg then rest.1 - c.m else rest.1 + c.m), rest.2 || !c.exact)
  | _ :: ts => windowAcc q ts

/-- The greatest leading exponent of a non-empty list. -/
def topOf : List Val → Int
  | [] => 0
  | [t] => magTop t
  | t :: ts => max (magTop t) (topOf ts)

/-- Window28Sum: `acc` as FP32 bits, pairs of decoded elements. -/
def window28Sum (acc : Nat) (pairs : List (Val × Val)) : Nat × Flags :=
  let c := decodeFmt fmtF32 acc
  let sig := c.isSig || pairs.any fun p => p.1.isSig || p.2.isSig
  if c.isNan || pairs.any fun p => p.1.isNan || p.2.isNan then (0x7FC00000, flagIf sig flagNV)
  else if pairs.any fun p => (p.1.isInf && p.2.isZero) || (p.1.isZero && p.2.isInf) then (0x7FC00000, flagNV)
  else
    let prods := (pairs.map fun p => p.1.times p.2).filter fun t => !t.isZero
    if prods.isEmpty then (acc, 0#5)
    else
      let terms := if c.isZero then prods else prods ++ [c]
      let posInf := terms.any fun t => t.isInf && !t.isNeg
      let negInf := terms.any fun t => t.isInf && t.isNeg
      if posInf && negInf then (0x7FC00000, flagNV)
      else if posInf then (0x7F800000, 0#5)
      else if negInf then (0xFF800000, 0#5)
      else
        let q := topOf terms - 28
        let s := windowAcc q terms
        let fl := flagIf s.2 flagNX
        if s.1 = 0 then (0, fl)
        else
          let r := roundF32 (.fin (decide (s.1 < 0)) s.1.natAbs q false)
          (r.1, fl ||| r.2)

/-! ### NonFiniteBits (R92) -/

/-- NonFiniteBits of one aligned 32-bit word. -/
def nonFiniteWord (w : Nat) : Bool :=
  bitsOf w 23 8 == 0xFF
    || [0, 16].any (fun s => bitsOf w (s + 10) 5 == 0x1F || bitsOf w (s + 7) 8 == 0xFF)
    || [0, 8, 16, 24].any fun s => [0x7F, 0x80, 0xFE, 0xFF].contains (bitsOf w s 8)

end Sys2Proof.Machine
end

