-- ==== Sys2Proof/Config.lean ====
section
/-! DEFINITION. What the device fixes once, and the free values: the constants with no body stand for
what the specification leaves open, so that nothing proved can rest on a value of theirs. -/

namespace Sys2Proof

/-! ### Sizes (01 R14-R17, R36) -/

def Config.hinges : Nat := 4
def Config.clustersPerHinge : Nat := 15
def Config.coresPerCluster : Nat := 8
def Config.coresPerHinge : Nat := 120
def Config.cores : Nat := 480
def Config.slotsPerCore : Nat := 64
def Config.slotsPerScheduler : Nat := 16
def Config.teamsPerCore : Nat := 16
def Config.registerRows : Nat := 4096
def Config.tilesPerCore : Nat := 16
def Config.stashSlots : Nat := 384
def Config.pinPool : Nat := 96
def Config.streams : Nat := 16
def Config.contexts : Nat := 256
/-- 64 KiB, the page of R30 and R222. -/
def Config.pageBytes : Nat := 65536
/-- Near-memory pages of the package: 16 stacks of 48 GiB (R29). PRESUMED (log 26). PRESUMED (log 26). -/
def Config.nearPages : Nat := 12582912
/-- The frames of a near-memory stack: 48 GiB (R29). -/
def Config.stackFrames : Nat := 786432
/-- The first address beyond the 55-bit virtual space (R220). -/
def Config.vaLimit : Nat := 2 ^ 55

/-- The approximate functions of R162. -/
inductive ApproxFn where
  | rcp | rsq | exp2 | log2 | sin | cos | tanh
  deriving DecidableEq, Repr

/-! ### Free values

Each has no body. `tick` is the model's own counter `State.tick`, which a step that draws a value advances. -/

/-- An unspecified choice of R7 among `n` outcomes, taken modulo `n`. DESIGN CHOICE (log 9). DESIGN CHOICE (log 9). -/
opaque Config.choice (tick n : Nat) : Nat

/-- The cycles that pass in a move beyond the first; every duration the manual does not fix (R501).
DESIGN CHOICE (log 10). DESIGN CHOICE (log 10). -/
opaque Config.elapsed (tick : Nat) : Nat

/-- Whether a band that is ready in the model is not yet: for a latency, a busy unit, knuckle slots or a fetch (R313, R501).
DESIGN CHOICE (log 10). -/
opaque Config.held (tick band : Nat) : Bool

/-- Whether the power manager withholds issue from a ready band (R483). DESIGN CHOICE (log 10). -/
opaque Config.withheld (tick band : Nat) : Bool

/-- The cycles after the cold reset at `boot` from which an agent counts CYCLE, so that the values of two agents differ by an
unspecified offset (R453): cores 0 to 479, then hinges 0 to 3. DESIGN CHOICE (log 32). DESIGN CHOICE (log 32). -/
opaque Config.cycleOffset (boot agent : Nat) : Nat

/-- The device's value of an approximate function for a type code, before it is held to the bound of R163 (R164).
DESIGN CHOICE (log 24). DESIGN CHOICE (log 24). -/
opaque Config.approx (f : ApproxFn) (ty : Nat) (x : Word) : Word

/-- The frame, of the `n` installed ones, that the firmware gives each of the `n` device-physical pages (R475).
DESIGN CHOICE (log 25). DESIGN CHOICE (log 25). -/
opaque Config.defaultFrames (n : Nat) : Equiv.Perm (Fin n)

/-- The counts from which the promotion engine moves a page to near memory, and up to which it moves one away (R247).
DESIGN CHOICE (log 96). -/
opaque Config.promoteFrom : BitVec 8
opaque Config.demoteTo : BitVec 8

/-- Whether a host bus error meets an access at a bus address (R255). DESIGN CHOICE (log 27). DESIGN CHOICE (log 27). -/
opaque Config.hostBusError (addr : Nat) : Bool

/-- Whether the host's completer rejects an AtomicOp at a bus address (R291). DESIGN CHOICE (log 27).
DESIGN CHOICE (log 27). -/
opaque Config.hostRejectsAtomic (addr : Nat) : Bool

/-- SHAKE256 with 64 bytes of output (R480, R481): the function is FIPS 202's, which the manual names and does not give.
DESIGN CHOICE (log 28). DESIGN CHOICE (log 28). -/
opaque Config.shake256 (bytes : List Byte) : BitVec 512

/-- Whether an ML-DSA-65 signature verifies (R480): FIPS 204's function of public key, image and signature.
DESIGN CHOICE (log 28). -/
opaque Config.verifies (key image signature : List Byte) : Bool

/-- The ML-DSA-65 identity public key of a chain value and the fused seed (R482), 1,952 bytes.
DESIGN CHOICE (log 28). DESIGN CHOICE (log 28). -/
opaque Config.identityKey (mchain : BitVec 512) (i : Nat) : Byte

/-- The ML-DSA-65 signature of the report's first 128 bytes (R482), byte `i` of 3,309. -/
opaque Config.signature (mchain : BitVec 512) (bytes : List Byte) (i : Nat) : Byte

/-- The fused serial number (R482). -/
opaque Config.serial : BitVec 128

/-- The ageing report of a hinge (R460), measured by the device. DESIGN CHOICE (log 29). DESIGN CHOICE (log 29). -/
opaque Config.ageing (hinge tick : Nat) : DWord

/-- An implementation figure that a record reports: queue cycles, latencies, replays (R456, R458).
DESIGN CHOICE (log 29). DESIGN CHOICE (log 29). -/
opaque Config.figure (tick which : Nat) : Nat

/-- The bytes of a save record or a debug read that R437 names without giving their place. DESIGN CHOICE (log 30). -/
opaque Config.unplaced (tick off : Nat) : DWord

/-- Whether a save or restore of a team meets a memory error (R438). DESIGN CHOICE (log 31). DESIGN CHOICE (log 31). -/
opaque Config.saveFails (tick team : Nat) : Bool

end Sys2Proof
end

