-- ==== Sys2Proof/Machine/Sparse.lean ====
section
/-! DEFINITION. Finite maps from natural numbers as lists of pairs with strictly rising keys: the one form in
which memory, registers and tables are held. -/

namespace Sys2Proof.Machine

/-- A finite map with strictly rising keys. -/
abbrev AList (β : Type) := List (Nat × β)

variable {β : Type}

/-- The value listed at `k`. -/
def aFind (k : Nat) : AList β → Option β
  | [] => none
  | (j, v) :: m => if j = k then some v else aFind k m

/-- The map with `v` listed at `k`. -/
def aInsert (k : Nat) (v : β) : AList β → AList β
  | [] => [(k, v)]
  | (j, w) :: m =>
    if k < j then (k, v) :: (j, w) :: m
    else if j = k then (k, v) :: m
    else (j, w) :: aInsert k v m

/-- The map with nothing listed at `k`. -/
def aErase (k : Nat) : AList β → AList β
  | [] => []
  | (j, w) :: m => if j = k then aErase k m else (j, w) :: aErase k m

/-- The value at `k`, where an unlisted key reads `d`. -/
def aGet (d : β) (k : Nat) (m : AList β) : β := (aFind k m).getD d

/-- The map with `v` at `k`, where an unlisted key reads `d`: no entry is listed that equals `d`. -/
def aSet [DecidableEq β] (d : β) (k : Nat) (v : β) (m : AList β) : AList β :=
  if v = d then aErase k m else aInsert k v m

/-- Every listed key is above `lo`, and the keys rise strictly. -/
def aRising (lo : Nat) : AList β → Bool
  | [] => true
  | (j, _) :: m => decide (lo ≤ j) && aRising (j + 1) m

/-- The keys rise strictly. -/
def aSorted (m : AList β) : Bool := aRising 0 m

/-- The canonical form of a map whose unlisted keys read `d`. -/
def aCanonical [DecidableEq β] (d : β) (m : AList β) : Bool :=
  aSorted m && m.all fun e => decide (e.2 ≠ d)

/-- The map with every listed value changed by `f`. -/
def aMap (f : Nat → β → β) : AList β → AList β
  | [] => []
  | (j, v) :: m => (j, f j v) :: aMap f m

/-- The map with the entries kept that `p` holds of. -/
def aFilter (p : Nat → β → Bool) : AList β → AList β
  | [] => []
  | (j, v) :: m => if p j v then (j, v) :: aFilter p m else aFilter p m

end Sys2Proof.Machine
end

