-- ==== Sys2Proof/Machine/State.lean ====
section
/-! DEFINITION. The state of the package as plain data: threads, bands, teams, cores, clusters, hinges, contexts,
launches, streams, engines, memory and its copies, the control window; and the machine right after reset. -/

namespace Sys2Proof.Machine

/-! ### Small records -/

/-- The sticky conditions of R134 in FSTAT order: NV, DZ, OF, UF, NX from bit 0. -/
abbrev FlagBits := BitVec 5

/-- What a thread waits for with its program counter at the waiting instruction (R191, R436). DESIGN CHOICE (log 36).
DESIGN CHOICE (log 36). -/
inductive Wait where
  /-- Not waiting. -/
  | ready
  /-- At a JOIN since step `since`: arrived at its entry, or an early arrival, at an entry that was not the top (R206, R211). -/
  | join (since : Nat) (early : Bool)
  /-- In TWAIT on tumbler `t` (R301); `cluster` when its completion drops copies. -/
  | tumbler (t : Nat) (cluster : Bool)
  /-- In PGREQ.wait for the answer of a page (R261). -/
  | page (vpage : Nat)
  /-- In PGREQ.wait, answered: the instruction walks again. -/
  | answered
  /-- In SRDW for completion number `n` (R190). -/
  | rdr (n : BitVec 16)
  /-- In SRDW, with the value that completion wrote. -/
  | captured (v : DWord)
  /-- An instruction whose condition did not hold, with its stall code (R417); it issues again. -/
  | polled (code : Nat)
  /-- In KACQ.wait, with the binding it found: base, granules and word (R281, R283); it issues again. -/
  | key (base granules word : Nat)
  deriving DecidableEq, Repr

/-- A thread (R35, R434). -/
structure Thread where
  pc : DWord := 0
  /-- v0 to v255; an unlisted register holds 0. -/
  vregs : AList Word := []
  /-- p0 to p14, bit n for pn. -/
  preds : BitVec 15 := 0
  fstat : FlagBits := 0
  tpc : DWord := 0
  /-- TCAUSE: IMPRECISE in bit 8, CAUSE below (R434). -/
  tcause : BitVec 9 := 0
  taddr : DWord := 0
  tinfo : DWord := 0
  tlevel : Bool := false
  exited : Bool := false
  /-- Halted by debug (R445) or stopped (R423). -/
  halted : Bool := false
  wait : Wait := .ready
  /-- The issue number of the group whose instruction it waits in (R217). -/
  waitId : Nat := 0
  /-- The next group issues without a breakpoint match (R442). -/
  noIbp : Bool := false
  /-- A fault of the stash image that the first instruction raises: cause, address, kind (R412). -/
  owed : Option (Nat × Nat × Nat) := none
  /-- Issues of its band that have passed it over while its candidate could issue (R192). -/
  passed : Nat := 0
  deriving DecidableEq, Repr

/-- A split entry (R202). -/
structure SplitEntry where
  join : DWord
  mask : Word
  arrived : Word
  deriving DecidableEq, Repr

/-- A spilled split entry, and what the band last wrote of it in its spill area (R202): they differ where a write met a fault. -/
structure SpilledEntry where
  entry : SplitEntry
  stored : SplitEntry
  deriving DecidableEq, Repr

/-- A loop entry (R214). -/
structure LoopEntry where
  start : DWord
  fin : DWord
  remaining : Word
  deriving DecidableEq, Repr

/-- A soft error in a register word (R426-R428). -/
inductive EccMark where
  | single | double | poisoned
  deriving DecidableEq, Repr

/-- A VRED of a band that has not completed (R187): `value` once it is known. -/
structure VredExec where
  /-- The round it contributed to: cluster or team, its entry's number; none at band scope. -/
  round : Option (Bool × Nat)
  lanes : List Nat
  value : Option DWord
  flags : FlagBits
  deriving DecidableEq, Repr

/-- A queued engine trap (R425). -/
structure EngineTrap where
  cause : Nat
  unit : Nat
  seq : Word
  comm : Nat
  addr : DWord
  deriving DecidableEq, Repr

/-- A stop on its way to a band or in force there (R444-R448). -/
structure Stop where
  cause : Nat
  source : Nat
  trigger : Nat
  lane : Nat
  addr : DWord
  pc : DWord
  /-- The cycle from which the band issues nothing. -/
  arrival : Nat
  arrived : Bool
  issued : Nat
  hits : Nat
  /-- The skid record has been written. -/
  recorded : Bool
  deriving DecidableEq, Repr

/-- A single step under way (R450): the program counter of the group, once issued. -/
structure StepInfo where
  /-- The named program counter. -/
  want : Option DWord
  issued : Option DWord
  lanes : List Nat
  outcome : Nat
  deriving DecidableEq, Repr

/-- A band (R35): its key is core * 64 + slot. -/
structure Band where
  team : Nat
  /-- Index within its team. -/
  idx : Nat
  n : Nat
  sregCount : Nat := 64
  threads : List Thread
  /-- s0 to s63; an unlisted register holds 0. -/
  sregs : AList DWord := []
  /-- Hardware split entries, top first. -/
  split : List SplitEntry := []
  /-- Entries in the spill area, last spilled first. DEDUCED (log 35). -/
  spilled : List SpilledEntry := []
  /-- Lanes that took the fault of an outstanding reload (R500); none when no reload is outstanding. -/
  reload : Option Word := none
  /-- Loop entries, top first. -/
  loops : List LoopEntry := []
  rdrValue : DWord := 0
  rdrSeq : BitVec 16 := 0
  vreds : List VredExec := []
  /-- FCTL.RM (R136); the register's other bits read 0. -/
  rm : BitVec 3 := 0
  srstate : DWord := 0
  energy : DWord := 0
  traps : List EngineTrap := []
  lostTraps : BitVec 8 := 0
  /-- Stopped under R423. -/
  stopped : Bool := false
  stop : Option Stop := none
  stepping : Option StepInfo := none
  /-- The skid record (R448). DEDUCED (log 87). -/
  skid0 : DWord := 0
  skid1 : DWord := 0
  skid2 : DWord := 0
  /-- PEXP of tumblers 0 to 23 (R299). -/
  pexp : BitVec 24 := 0
  /-- The cycle from which its wait for a pick counts (R414). -/
  since : Nat := 0
  /-- Lanes that have executed YIELD: another candidate goes first (R213). -/
  yielded : Word := 0
  /-- Soft-error marks: vector words by register * 32 + lane, scalar words by register. -/
  vEcc : AList EccMark := []
  sEcc : AList EccMark := []
  retired : Bool := false
  deriving DecidableEq, Repr

/-- CLASS with its fields of R337: ZERO and IDENT have NONFINITE 0; IDENT's `fmt` is a type code, `half` HALF. -/
inductive TileClass where
  | zero
  | const (value : Word) (nonfinite : Bool)
  | ident (fmt : Nat) (half : Bool)
  | general (nonfinite : Bool)
  deriving DecidableEq, Repr

/-- A latch (R285). -/
structure Latch where
  engine : Bool
  count : Nat
  deriving DecidableEq, Repr

/-- A window of a map entry (R237, R241): granule bits from the region's base up. -/
structure Window where
  base : Nat
  va : Nat
  filled : Nat
  dirty : Nat
  deriving DecidableEq, Repr

/-- A map entry in use. -/
structure MapEntry where
  first : Nat
  count : Nat
  rot : Nat
  win : Option Window
  deriving DecidableEq, Repr

/-- A tumbler (R299). -/
structure Tumbler where
  expect : BitVec 16
  arrived : BitVec 16
  phase : Bool
  deriving DecidableEq, Repr

/-- An open reduction round (R185): its partials in arrival order with the bands that contributed. -/
structure Round where
  op : RedOp
  ty : RedTy
  count : Nat
  /-- Band key and partial. -/
  parts : List (Nat × DWord)
  /-- The group that opened it: LSEQ and group index, or team key for a team of its own. -/
  owner : Nat × Nat
  slot : Nat
  ctx : Nat
  deriving DecidableEq, Repr

/-- A team's remap state of a channel (R376). -/
inductive Remap where
  | none
  | mod (m : Nat)
  | hash (m : Nat) (seed : DWord)
  | tab (m t : Nat)
  deriving DecidableEq, Repr

/-- A team's state of one channel (R358, R376, R377, R395). -/
structure TeamChannel where
  posted : DWord := 0
  csq : DWord := 0
  cwp : DWord := 0
  remap : Remap := .none
  err : Bool := false
  cause : BitVec 8 := 0
  emstat : DWord := 0
  emaddr : DWord := 0
  deriving DecidableEq, Repr

/-- A team (R35): its key is core * 16 + resident index. -/
structure Team where
  ctx : Nat
  lseq : DWord
  lpc : DWord
  /-- Index within its group (R34), group index, index within the grid. -/
  team : Nat
  group : Nat
  gridIdx : Nat
  /-- 1 when it belongs to a group (GROUPS ≠ 0). -/
  grouped : Bool
  core : Nat
  index : Nat
  /-- Band slots in BAND order. -/
  slots : List Nat
  prio : Nat
  tileCount : Nat
  slotCount : Nat
  tumblerCount : Nat
  pinQuota : Nat
  rows : Nat
  /-- Words keyed tile * 1024 + 32 i + j. -/
  tiles : AList Word := []
  /-- Scale bytes keyed column * 32 + i; an unlisted one is 127. -/
  scales : AList Byte := []
  stash : AList Byte := []
  /-- The model's own (R289): by offset, the values that engines have written over and an early read may still return, the oldest
  first, each with the channel that wrote over it and the channel position of that write. -/
  early : AList (List (Nat × Nat × Byte)) := []
  /-- The model's own (R289): the count of a channel's bytes that a thread has observed, keyed (band key * 32 + lane) * 4 + channel. -/
  observed : AList Nat := []
  tileCls : AList TileClass := []
  slotCls : AList TileClass := []
  /-- Slots whose PENDING is 1. -/
  pending : AList Bool := []
  latches : AList Latch := []
  maps : AList MapEntry := []
  tumblers : AList Tumbler := []
  channels : AList TeamChannel := []
  /-- WINFAIL and COUNT of RESTORES. -/
  winfail : BitVec 16 := 0
  restores : BitVec 32 := 0
  rounds : AList Round := []
  /-- Device-physical pages it has pinned. -/
  pins : List Nat := []
  /-- Split spill area of its band 0 and bytes a band. -/
  spill : Nat := 0
  spillBytes : Nat := 0
  /-- The home bytes at placement: its instructions (R232). -/
  code : AList Byte := []
  deriving DecidableEq, Repr

/-- A cached copy of a byte above home (R266). -/
structure Copy where
  value : Byte
  dirty : Bool
  deriving DecidableEq, Repr

/-- An agent of the memory model (R265). -/
inductive Agent where
  | thread (core team ctx : Nat)
  | engine (core team ctx : Nat)
  | hub (hinge ctx : Nat)
  | stream (hinge ctx : Nat)
  | host
  deriving DecidableEq, Repr

/-- A memory location after translation. `va` is the virtual address as issued. -/
inductive Loc where
  /-- A byte address of the device, or of host memory above 2^48 (`SYS`). -/
  | phys (a va : Nat)
  /-- An offset of the issuing team's stash. -/
  | stash (off : Nat)
  /-- An access to a page that was DISCARDED at issue; it walks again when performed (R227). -/
  | again (va : Nat)
  deriving DecidableEq, Repr

/-- Where a read or atomic delivers: a vector register of its lane at the access's bytes, or a scalar register. -/
inductive Dest where
  | vec (r : Nat)
  | sca (r : Nat)
  deriving DecidableEq, Repr

/-- The function of an atomic (R298). -/
inductive AtomFn where
  | int (op : AtomOp)
  | flt (op : AtomfOp) (ty : AtomfTy)
  | cas
  deriving DecidableEq, Repr

/-- A memory operation that has issued and is not performed (R269, R271). -/
inductive PendKind where
  | load (loc : Loc) (w : Width) (dst : Dest) (acq : Option Scope) (hint : Hint)
  | store (loc : Loc) (bytes : Nat) (value : Nat) (rel : Option Scope) (hint : Hint)
  | atomic (fn : AtomFn) (loc : Loc) (bytes operand compare : Nat) (dst : Dest) (ord : Order) (scope : Scope)
      (hint : Hint)
  /-- A fence, or one half of FENCE.ar. -/
  | fence (kind : FenceKind) (scope : Scope)
  /-- CLEAN or INVAL of device-physical byte ranges (base, length), or of all bytes of the context. -/
  | clean (inval : Bool) (scope : Scope) (ranges : List (Nat × Nat)) (all : Bool)
  | pref (cc : Bool) (a va : Nat) (hint : Hint)
  /-- KREL of a region with its key word, and the scalar register that takes the new value (R283). -/
  | krel (base granules : Nat) (loc : Loc) (scope : Scope) (dst : Option Nat)
  /-- LATG of slots; the lanes with a true guard as a mask (R287). -/
  | latg (slots : List Nat) (live : Nat)
  /-- TARV of `n` units at a tumbler, with its clean (R303). -/
  | tarv (t n : Nat) (cluster : Bool)
  /-- The posting of an engine command: the release before it begins, at its scope (R365). -/
  | post (scope : Scope)
  deriving DecidableEq, Repr

structure PendOp where
  agent : Agent
  /-- Band key; for a stream 2^20 + hinge * 16 + stream. -/
  issuer : Nat
  lanes : List Nat
  /-- Issue number: program order of one issuer, equal for the lanes of one instruction. -/
  seq : Nat
  pc : DWord
  kind : PendKind
  deriving DecidableEq, Repr

/-- A matrix or tile instruction that has issued and is not complete (R314, R315): what its completion writes. -/
structure MatOp where
  team : Nat
  band : Nat
  lanes : List Nat
  flags : FlagBits
  tiles : AList Word
  tileCls : AList TileClass
  scales : AList Byte
  /-- Stash bytes and whether the writer is TIDENT with its type code. -/
  stash : AList Byte
  ident : Option (Nat × Nat)
  pc : DWord
  deriving DecidableEq, Repr

/-- The dimensions of a tensor descriptor (R360). -/
structure Desc where
  base : Nat
  ty : Nat
  rank : Nat
  dims : List Nat
  strides : List Int
  deriving DecidableEq, Repr

/-- What a copy-engine command does (R371, R374, R378, R390). -/
inductive CmdKind where
  | box (store : Bool) (origin ext : List Nat) (off pitch : Nat)
  /-- Elements: home lane, index, row number or none when bad. -/
  | rows (scatter : Bool) (c0 c2 c3 e0 off pitch : Nat) (elems : List (Nat × Word × Option Nat))
  | move (va pages home : Nat)
  | embag (wgt : Bool) (ioff woff boff nb doff pitch ni : Nat)
  deriving DecidableEq, Repr

/-- A stall of a CPOST (R366): the page it waits for, whether its record is still held. -/
structure Stall where
  vpage : Nat
  held : Bool
  deriving DecidableEq, Repr

/-- A command of a copy-engine channel. -/
structure Command where
  team : Nat
  band : Nat
  ctx : Nat
  seq : DWord
  desc : Desc
  kind : CmdKind
  tumb : Option Nat
  slots : List Nat
  /-- Its channel. -/
  chan : Nat := 0
  /-- The issue number of its post, whose release must be performed before it begins (R288, R365). -/
  issue : Nat := 0
  posted : Bool := true
  running : Bool := false
  /-- Next box element, row, page or bag. -/
  pos : Nat := 0
  /-- Elements of the row at `pos` that have been moved, and the pages of that row as its checks found them: virtual page, 0 bytes or 1
  a page that was DISCARDED, physical address. -/
  part : Nat := 0
  pages : List (Nat × Nat × Nat) := []
  /-- Home lanes delivered (R374), or bags delivered (R395). -/
  mask : Word := 0
  delivered : Nat := 0
  /-- Stash ranges written, as offset and length. -/
  written : List (Nat × Nat) := []
  stall : Option Stall := none
  /-- Window slots, of any team, that it may write by their global addresses: team and slot (R341). -/
  aimed : List (Nat × Nat) := []
  /-- Lines of the next bag's rows that the hub has read: position * 2^64 + physical address (R385). -/
  lines : AList (List Byte) := []
  /-- CWPn after the last row or bag that it has counted at its tumbler (R288). -/
  counted : Nat := 0
  /-- The model's own (R289): stash bytes that an early read has seen before the command wrote them. -/
  ahead : AList Byte := []
  /-- Set when nothing more than the completion remains: cause, bad lane, position or byte offset, address. -/
  ended : Option (Nat × Nat × Nat × Nat) := none
  aborted : Bool := false
  deriving DecidableEq, Repr

/-- A page-request record that waits for room (R262). -/
structure PageRecord where
  ctx : Nat
  vpage : Nat
  source : Nat
  unit : Nat
  core : Nat
  deriving DecidableEq, Repr

/-- A channel (R356, R357): the hardware queue, its head first, and the overflow chain. -/
structure Channel where
  queue : List Command := []
  chain : List Command := []
  /-- The commands that have gone to the chain: the position of the next record in the chain area. -/
  chained : Nat := 0
  /-- Held records of commands that the channel no longer has, or that walk again after a restore (R262, R368). -/
  held : List PageRecord := []
  deriving DecidableEq, Repr

/-- A communicator entry as captured at posting (R380): COUNT, the ranks of hinges 0 to 3, the routes
(port, first, last, vc). -/
structure Comm where
  count : Nat
  ranks : List (Option Nat)
  routes : List (Nat × Nat × Nat × Nat)
  deriving DecidableEq, Repr

/-- A collective (R381). -/
inductive CollKind where
  | red | gth | snd | rcv
  deriving DecidableEq, Repr

structure Collective where
  ctx : Nat
  team : Nat
  band : Nat
  hinge : Nat
  system : Bool
  comm : Nat
  entry : Comm
  kind : CollKind
  op : RedOp
  ty : Nat
  a : Nat
  b : Nat
  count : Nat
  tumb : Option Nat
  /-- Its own contribution, or XSND's bytes, once read, and what has still to be sent of it: rank and bytes (R474). -/
  part : Option (List Byte) := none
  outbox : List (Nat × List Byte) := []
  /-- XRED and XGTH: the contributions of all members have been taken; what is to be written. -/
  ready : Bool := false
  data : List Byte := []
  cause : Nat := 0
  faddr : Nat := 0
  /-- Window slots that it may write (R341). -/
  aimed : List (Nat × Nat) := []
  /-- The issue number of its post, whose release must be performed before it begins (R365). -/
  issue : Nat := 0
  posted : Bool := true
  deriving DecidableEq, Repr

/-- Bytes of an XSND on their way to a hinge of the package (R381). -/
structure Inbound where
  ctx : Nat
  comm : Nat
  rank : Nat
  bytes : List Byte
  deriving DecidableEq, Repr

/-- A ring of the control window (R467). -/
structure Ring where
  base : DWord := 0
  size : DWord := 0
  prod : Word := 0
  cons : Word := 0
  ovf : Word := 0
  deriving DecidableEq, Repr

/-- A snapshot (R454): its trigger number and the words latched. -/
structure Snapshot where
  trigger : Word
  words : List DWord
  deriving DecidableEq, Repr

/-- A trigger that has a number and blocks to latch (R454): 0 a core, 1 a cluster, 2 a hinge, its number, and the cycle at which
the trigger arrives there. -/
structure Trigger where
  number : Word
  blocks : List (Nat × Nat × Nat)
  deriving DecidableEq, Repr

/-- A memory instruction that is sampled (R456): what its record will hold. -/
structure MemSample where
  slot : Nat
  /-- Its issue number. -/
  seq : Nat
  /-- CYCLE at issue, and the model's own cycle then. -/
  cycle : DWord
  issuedAt : Nat
  lseq : DWord
  pc : DWord
  active : Nat
  sectors : Nat
  /-- Stash passes (R239), 0 where its accesses reach no stash, and whether some reach the L1. -/
  passes : Nat
  l1 : Bool
  level : Nat := 0
  lastLane : Nat := 0
  /-- The cycle of the last result. -/
  doneAt : Nat
  deriving DecidableEq, Repr

/-- A line that an L1 holds (R230, R234): its name, context and VA [54:7]; whether a store that hits it may write; its retention
level and last use. -/
structure L1Line where
  ctx : Nat
  name : Nat
  w : Bool
  level : Nat
  used : Nat
  deriving DecidableEq, Repr

/-- A core (R16, R23, R354, R473). DESIGN CHOICE (log 6). DESIGN CHOICE (log 6). -/
structure Core where
  half : Bool := false
  grp : Bool := false
  hcause : Bool := false
  kdecl : BitVec 8 := 0
  /-- Issues nothing until reset (R477). -/
  dead : Bool := false
  /-- A failed beat of a knuckle awaits its retry (R477). -/
  beat : Option Nat := none
  /-- The L1: copies by physical byte, and the reverse map from physical line, address / 128, to its name (R230). -/
  l1 : AList Copy := []
  lines : AList L1Line := []
  /-- The lines that its instruction cache has fetched, by address / 128 (R232). -/
  icache : List Nat := []
  /-- MMACNT, ELZNOP, ELZCOPY, ELIDENT, ELCONST, ELREFUSE. -/
  mmacnt : BitVec 48 := 0
  elznop : BitVec 48 := 0
  elzcopy : BitVec 48 := 0
  elident : BitVec 48 := 0
  elconst : BitVec 48 := 0
  elrefuse : BitVec 48 := 0
  corrErr : Word := 0
  /-- SAMPCTL: EN, SP, MP. -/
  sampEn : Bool := false
  sampSp : BitVec 6 := 0
  sampMp : BitVec 6 := 0
  memIssued : Nat := 0
  /-- DBGADDR with its FAIL bit. -/
  dbgAddr : BitVec 48 := 0
  dbgFail : Bool := false
  channels : AList Channel := []
  issued : DWord := 0
  energy : DWord := 0
  snaps : List Snapshot := []
  /-- For each scheduler, the period of its last stall sample and the slot sampled (R456). -/
  sampleAt : AList (Nat × Nat) := []
  /-- Memory instructions chosen for a sample and not yet recorded, oldest first (R456). -/
  samples : List MemSample := []
  deriving DecidableEq, Repr

/-- An entry of a TLB (R228): context, virtual group VA [54:20], PPN − VA [54:16], W, X, SYS, and the valid pages of the
group. -/
structure TlbEntry where
  ctx : Nat
  group : Nat
  offset : Int
  w : Bool
  x : Bool
  sys : Bool
  mask : BitVec 16
  deriving DecidableEq, Repr

/-- A line that a cluster cache holds: its retention level and its last use (R234). -/
structure CacheLine where
  level : Nat
  used : Nat
  deriving DecidableEq, Repr

/-- A cluster (R16, R186, R228, R231): the cache's copies by byte, its lines by address / 128, the TLB. -/
structure Cluster where
  cache : AList Copy := []
  lines : AList CacheLine := []
  tlb : List TlbEntry := []
  rounds : AList Round := []
  hits : DWord := 0
  misses : DWord := 0
  writebacks : DWord := 0
  tlbMisses : DWord := 0
  snaps : List Snapshot := []
  deriving DecidableEq, Repr

/-- The launch record (R401). -/
structure LaunchRec where
  entry : Nat
  stashImg : Nat
  stashLen : Nat
  pinQuota : Nat
  teams : Nat
  groups : Nat
  bands : Nat
  prio : Nat
  pkg : Bool
  hinge : Nat
  splitSpill : Nat
  regs : Nat
  sregs : Nat
  tiles : Nat
  tumblers : Nat
  stashSlots : Nat
  /-- Bands and register count of each role. -/
  roles : List (Nat × Nat)
  params : List DWord
  deriving DecidableEq, Repr

/-- A launch (R403, R405, R406). -/
structure Launch where
  ctx : Nat
  lseq : DWord
  lpc : DWord
  /-- The stream that posted it. -/
  hinge : Nat
  stream : Nat
  rcd : LaunchRec
  spill : Nat
  /-- Lowest-indexed unplaced unit. -/
  next : Nat := 0
  retired : Nat := 0
  err : Bool := false
  aborted : Bool := false
  deriving DecidableEq, Repr

/-- A sequencer stream (R39, R397). STATE: 0 IDLE, 1 RUN, 2 WAIT, 3 FAULT. -/
structure Stream where
  ctx : BitVec 8 := 0
  enable : Bool := false
  priv : Bool := false
  chbase : DWord := 0
  chlog2 : BitVec 5 := 2
  tail : Word := 0
  head : Word := 0
  doneaddr : DWord := 0
  cause : BitVec 8 := 0
  state : BitVec 2 := 0
  pc : DWord := 0
  sregs : AList DWord := []
  preds : BitVec 15 := 0
  completed : DWord := 0
  tvec : DWord := 0
  tpc : DWord := 0
  tcause : BitVec 9 := 0
  taddr : DWord := 0
  tinfo : DWord := 0
  tlevel : Bool := false
  /-- A LAUNCH that waits: the record it has read, and its spill base (R405). -/
  launching : Option (LaunchRec × Nat) := none
  /-- Launches outstanding and the 32 last completed with their status words, newest first (R406). -/
  outstanding : List Nat := []
  finished : List (DWord × DWord) := []
  deriving DecidableEq, Repr

/-- A near-memory stack (R472, R479). STATE: 0 in service, 1 flushing, 2 thermal self-refresh. -/
structure Stack where
  state : BitVec 2 := 0
  /-- The cycle at which an open flush window ends. -/
  windowEnd : Nat := 0
  deriving DecidableEq, Repr

/-- A Tarnex port (R472, R474). -/
structure Port where
  up : Bool := false
  /-- The cycle by which a retraining port must come up. -/
  deadline : Option Nat := none
  /-- It has failed to retrain in time, and waits for the driver. -/
  down : Bool := false
  /-- The sequence number the receiver takes next. -/
  expect : Word := 0
  /-- Data flits taken and not yet used by the collective engine, oldest first. -/
  received : List Flit := []
  /-- SEQ of the next flit that the port sends. -/
  sendSeq : Word := 0
  /-- Flits that the peer has room for, by virtual channel. -/
  credits : AList Nat := []
  deriving DecidableEq, Repr

/-- A capacity module (R383): frames and ranks, 0 ranks when absent. -/
structure Module where
  frames : Nat := 0
  ranks : Nat := 0
  deriving DecidableEq, Repr

/-- A hinge (R17, R397, R407, R409, R415, R472). DESIGN CHOICE (log 6). DESIGN CHOICE (log 6). -/
structure Hinge where
  /-- EV0 to EV63. -/
  ev : AList DWord := []
  streams : AList Stream := []
  tlb : List TlbEntry := []
  link : AList Copy := []
  /-- The active context; none when idle. -/
  active : Option Nat := none
  /-- The cycle at which the quantum expires. -/
  quantum : Option Nat := none
  /-- The stream whose CTXSW is under way on the hinge, as hinge * 16 + stream (R418). -/
  switching : Option Nat := none
  corePtr : Nat := 0
  clusterPtr : Nat := 0
  /-- The last stream that issued (R39). -/
  lastStream : Nat := 15
  sample : Ring := {}
  events : Ring := {}
  heVec : BitVec 6 := 0
  heEn : Bool := false
  memStacks : AList Stack := []
  ports : AList Port := []
  /-- PROMn word 0 and word 1, keyed n. -/
  prom : AList (DWord × DWord) := []
  modules : AList Module := []
  collectives : List Collective := []
  inbox : List Inbound := []
  held : List PageRecord := []
  walks : DWord := 0
  promotions : DWord := 0
  copyBytes : DWord := 0
  collBytes : DWord := 0
  embagBytes : DWord := 0
  bags : DWord := 0
  snaps : List Snapshot := []
  deriving DecidableEq, Repr

/-- A bound region key (R279). -/
structure Key where
  base : Nat
  granules : Nat
  word : Nat
  deriving DecidableEq, Repr

/-- A team in a save area with its bands by slot (R436, R437). -/
structure SavedTeam where
  /-- The offset of its record in the save area. -/
  place : Nat
  team : Team
  bands : List (Nat × Band)
  deriving DecidableEq, Repr

/-- A context (R38, R440, R467). DESIGN CHOICE (log 5). DESIGN CHOICE (log 5). -/
structure Context where
  ptbase : DWord := 0
  saveBase : DWord := 0
  descBase : DWord := 0
  engBase : DWord := 0
  chainLen : DWord := 0
  commBase : DWord := 0
  requests : Ring := {}
  errors : Ring := {}
  energyRing : Ring := {}
  tlbInva : DWord := 0
  /-- An invalidation under way: first page and count, 0 for every page (R468). -/
  tlbGo : Option (Nat × Nat) := none
  ibp : AList DWord := []
  wpa : AList DWord := []
  wpc : AList DWord := []
  bandPc : DWord := 0
  /-- The bands (keys) of the last resume or step that BANDCMD accepted (R470). -/
  cmdBands : List Nat := []
  keys : AList Key := []
  /-- The entries of the descriptor area that TDSET has written since the context's creation; every other is invalid (R362). -/
  descs : List Nat := []
  tvec : DWord := 0
  dbgctl : BitVec 8 := 0
  nextLseq : DWord := 1
  /-- Virtual pages with a request outstanding (R261). -/
  outstanding : List Nat := []
  recordSeq : Word := 0
  saved : List SavedTeam := []
  /-- Cluster rounds by global cluster, stopped commands by core * 4 + channel, collectives by hinge. -/
  savedRounds : List (Nat × Nat × Round) := []
  savedCmds : List (Nat × Command) := []
  savedColls : List Collective := []
  /-- Chain positions by core * 4 + channel (R368). -/
  savedChains : AList Nat := []
  deriving DecidableEq, Repr

/-- The home of a device-physical page and the frame in it, none where the firmware set them (R245, R475); LOST (R248). -/
structure PageHome where
  home : Option (Nat × Nat) := none
  lost : Bool := false
  deriving DecidableEq, Repr

/-- The model's own: an access performed in this step, as the watchpoints match it (R443). -/
structure Seen where
  ctx : Nat
  /-- The accessing core; the owning core for a window fill or write-back. -/
  core : Nat
  /-- The band that made it, or whose command did; none for a window fill or write-back. -/
  band : Option Nat
  /-- The instruction's issue number, when lanes of it may be performed in several steps. -/
  instr : Option Nat
  lane : Nat
  va : Option Nat
  /-- The owning team and the offset of stash bytes. -/
  stash : Option (Nat × Nat)
  len : Nat
  read : Bool
  write : Bool
  atomic : Bool
  engine : Bool
  pc : DWord
  deriving DecidableEq, Repr

/-- A fault of one thread: its lane, cause, TADDR, TINFO and TPC. -/
structure FaultRec where
  lane : Nat
  cause : Nat
  addr : DWord
  info : DWord
  pc : DWord
  deriving DecidableEq, Repr

/-- Who the step runs: the issue group or stream with the instruction's address, length, first word and guard, or
the event. -/
inductive Actor where
  | none
  | band (core slot : Nat) (lanes : List Nat) (addr : DWord) (len word : Nat) (guard : Guard)
  | stream (hinge n : Nat) (addr : DWord) (len word : Nat) (guard : Guard)
  | event (e : Event)
  deriving DecidableEq, Repr

/-- A move that the agenda names. -/
inductive Move where
  /-- A move of the machine's own choice. -/
  | free
  /-- The candidate of a band that holds a home lane issues. -/
  | issue (core slot lane : Nat)
  /-- A stream issues. -/
  | issueStream (hinge n : Nat)
  /-- A soft error (R426, R427) strikes a word of a band: a vector word by register * 32 + lane, or a scalar register; a single
  bit, or two. -/
  | softError (core slot : Nat) (scalar : Bool) (word : Nat) (two : Bool)
  | event (e : Event)
  deriving DecidableEq, Repr

/-- A message that left the device: an MSI-X vector, a value the host or the TAP read, or collective bytes sent to a
peer (port, virtual channel, SEQ of the first flit, communicator, context, destination rank, bytes), or credits returned to a peer. -/
inductive Sent where
  | msi (vec : Nat)
  | hostRead (off : Nat) (bytes : List Byte)
  | debug (value : DWord) (fail : Bool)
  | peer (port vc : Nat) (seq : Word) (comm ctx rank : Nat) (bytes : List Byte)
  | credit (port vc : Nat) (seq : Word) (flits : Nat)
  deriving DecidableEq, Repr

/-! ### The state -/

/-- The package. Maps hold the listed entries; an unlisted core, cluster or hinge is one at its default. -/
structure State where
  /-- Home bytes, keyed by device-physical address, host memory from 2^48 up; an unlisted byte reads 0. -/
  mem : AList Byte
  remap : AList PageHome
  /-- Access counters of the promotion engines by page (R247). -/
  promo : AList (BitVec 8)
  bands : AList Band
  teams : AList Team
  cores : AList Core
  clusters : AList Cluster
  hinges : AList Hinge
  contexts : AList Context
  /-- Launches not complete, keyed by context * 2^64 + LSEQ. -/
  launches : AList Launch
  pending : List PendOp
  matrix : List MatOp
  triggers : List Trigger
  /-- Counter of issued instructions (R271's program order). -/
  seq : Nat
  /-- Cycles since the state began, and the cycle of the last cold reset (R453, R475). -/
  now : Nat
  bootTime : Nat
  /-- The model's counter of free values and choices drawn. -/
  tick : Nat
  cur : Actor
  /-- The model's own: home lanes that took a fault in this step (R217). -/
  faulted : Nat
  /-- The model's own: faults of threads of the group that this step issues, taken with those that its instruction raises, in one
  step (R421, R427). -/
  early : List FaultRec
  /-- The model's own: accesses of this step (R443), and the watchpoint hits of instructions with lanes not yet performed, as
  context, watchpoint, band, issue number. -/
  seen : List Seen
  wpHits : List (Nat × Nat × Nat × Nat)
  /-- Energy of lines that an instruction has touched and not finished with (R458): band, issue number, line, cost. -/
  lineCosts : List (Nat × Nat × Nat × Nat)
  /-- The model's own: stash bytes that this step has read early, keyed team * 2^32 + offset, which the lanes of a load share (R252,
  R289). -/
  picks : AList Byte
  /-- The model's own: TLB, context and virtual group of the walks of this step, which misses of it share (R229). -/
  walked : List (Nat × Nat × Nat)
  /-- Times that the promotion counters have been halved (R247). -/
  halved : Nat
  agenda : List Move
  sent : List Sent
  /-- Fuses and installation (R2, R433). -/
  profileN : Bool
  stepping : Byte
  links : Nat
  repair : List (Nat × Bool)
  apbase : DWord
  /-- BOOTSTAT. -/
  bootStages : BitVec 4
  bootError : BitVec 4
  bootState : BitVec 2
  /-- A warm reset that waits for a flush window (R476). -/
  warmWanted : Option Boot
  /-- What the last reset booted from, for a warm reset that RSTCTL requests. -/
  boot : Option Boot
  plimit : BitVec 12
  /-- Dies whose throttle point is exceeded (R484). -/
  hot : List Nat
  trigcnt : Word
  /-- MEAS0 to MEAS7 measured so far, and MCHAIN (R481). -/
  meas : List (BitVec 512)
  mchain : BitVec 512
  attNonce : BitVec 256
  attGo : Bool
  attRep : List Byte
  bootCount : Nat
  /-- MSI-X table as 128 eight-byte words, and the pending bits. -/
  msix : AList DWord
  pba : DWord
  deriving DecidableEq, Repr

/-- Why the machine stops where the manual gives no outcome. -/
inductive Fault where
  /-- A meaning is run for an actor it is not for: a meaning of an instruction without an issue group or stream in
  `State.cur`, or of an event without that event there. `step` always sets `cur`. Safe: it allows nothing. -/
  | noActor
  deriving DecidableEq, Repr

/-- Why an instruction has no meaning here. -/
inductive Refusal where
  /-- Raised by an arm of Dispatch.lean whose meaning is not written. Safe: it allows nothing. -/
  | notModelled (mnemonic : String)
  deriving DecidableEq, Repr

/-- The machine right after reset: the register tables' reset values (R397, R471, R472, R473), no context (R475), memory
with nothing listed, BOOTSTAT booting. DESIGN CHOICE (log 4). DESIGN CHOICE (log 4). -/
def State.reset : State where
  mem := []
  remap := []
  promo := []
  bands := []
  teams := []
  cores := []
  clusters := []
  hinges := []
  contexts := []
  launches := []
  pending := []
  matrix := []
  triggers := []
  seq := 0
  now := 0
  bootTime := 0
  tick := 0
  cur := .none
  faulted := 0
  early := []
  seen := []
  wpHits := []
  lineCosts := []
  picks := []
  walked := []
  halved := 0
  agenda := []
  sent := []
  profileN := false
  stepping := 0
  links := 18
  repair := []
  apbase := 0
  bootStages := 0
  bootError := 0
  bootState := 0
  warmWanted := none
  boot := none
  plimit := 2400
  hot := []
  trigcnt := 1
  meas := []
  mchain := 0
  attNonce := 0
  attGo := false
  attRep := []
  bootCount := 0
  msix := []
  pba := 0

end Sys2Proof.Machine
end

