-- ==== Sys2Proof/Machine/Ops.lean ====
section
/-! DEFINITION. Reading and writing the state's parts; home bytes and rings; the issue group of the step; taking a
trap, stopping a band, and the return from a trap. -/

namespace Sys2Proof.Machine

/-! ### Parts of the state -/

def coreOf (s : State) (n : Nat) : Core := aGet {} n s.cores
def setCore (s : State) (n : Nat) (c : Core) : State := { s with cores := aInsert n c s.cores }
def clusterOf (s : State) (n : Nat) : Cluster := aGet {} n s.clusters
def setCluster (s : State) (n : Nat) (c : Cluster) : State := { s with clusters := aInsert n c s.clusters }
def hingeOf (s : State) (n : Nat) : Hinge := aGet {} n s.hinges
def setHinge (s : State) (n : Nat) (h : Hinge) : State := { s with hinges := aInsert n h s.hinges }
/-- A context; one that the driver has not created is at its creation values. -/
def ctxOf (s : State) (n : Nat) : Context := aGet {} n s.contexts
def setCtx (s : State) (n : Nat) (c : Context) : State := { s with contexts := aInsert n c s.contexts }
def bandOf (s : State) (k : Nat) : Option Band := aFind k s.bands
def setBand (s : State) (k : Nat) (b : Band) : State := { s with bands := aInsert k b s.bands }
def teamOf (s : State) (k : Nat) : Option Team := aFind k s.teams
def setTeam (s : State) (k : Nat) (t : Team) : State := { s with teams := aInsert k t s.teams }
def streamOf (s : State) (h n : Nat) : Stream := aGet {} n (hingeOf s h).streams
def setStream (s : State) (h n : Nat) (t : Stream) : State :=
  let hg := hingeOf s h
  setHinge s h { hg with streams := aInsert n t hg.streams }
def launchKey (ctx : Nat) (lseq : DWord) : Nat := ctx * 2 ^ 64 + lseq.toNat

/-- The key of a band and of a team. -/
def bandKey (core slot : Nat) : Nat := core * Config.slotsPerCore + slot
def teamKey (core index : Nat) : Nat := core * Config.teamsPerCore + index
/-- Hinge and cluster (global, 0 to 59) of a core (R15). -/
def hingeOfCore (core : Nat) : Nat := core / Config.coresPerHinge
def clusterOfCore (core : Nat) : Nat := core / Config.coresPerCluster
def hingeOfCluster (cl : Nat) : Nat := cl / Config.clustersPerHinge
/-- The issuer number of a stream in `PendOp`. -/
def streamIssuer (h n : Nat) : Nat := 2 ^ 20 + h * Config.streams + n

/-- CYCLE of a core (0 to 479) or of a hinge's sequencer (480 + hinge) (R453, R475). DESIGN CHOICE (log 32).
DESIGN CHOICE (log 32). -/
def cycleOf (s : State) (agent : Nat) : DWord := BitVec.ofNat 64 (s.now - s.bootTime - Config.cycleOffset s.bootTime agent)

/-- A choice of R7 among `n` outcomes; nothing is drawn where there is one. DESIGN CHOICE (log 9).
DESIGN CHOICE (log 9). -/
def choose (s : State) (n : Nat) : Nat × State :=
  if n ≤ 1 then (0, s) else (Config.choice s.tick n % n, { s with tick := s.tick + 1 })

/-! ### Bytes -/

/-- The low `n` bytes of `v`, least significant first (R5). -/
def leBytes : Nat → Nat → List Byte
  | 0, _ => []
  | n + 1, v => BitVec.ofNat 8 v :: leBytes n (v / 256)

/-- The natural number of bytes, least significant first. -/
def leNat : List Byte → Nat
  | [] => 0
  | b :: bs => b.toNat + 256 * leNat bs

/-- The bytes of `m` at `a` upward. -/
def readBytes (d : Byte) (m : AList Byte) (a : Nat) : Nat → List Byte
  | 0 => []
  | n + 1 => aGet d a m :: readBytes d m (a + 1) n

/-- `m` with bytes from `a` upward. -/
def writeBytes (d : Byte) (m : AList Byte) (a : Nat) : List Byte → AList Byte
  | [] => m
  | b :: bs => writeBytes d (aSet d a b m) (a + 1) bs

/-- The canonical form of memory: addresses strictly rising, and no byte listed that equals what an unlisted one reads as. -/
def Memory.wf (m : AList Byte) : Bool := aCanonical 0 m

/-- The first address of host memory among the keys of `State.mem` (SYS pages, R224). -/
def sysBase : Nat := 2 ^ 48

/-- The home bytes from an address (R266). DESIGN CHOICE (log 2). DESIGN CHOICE (log 2). -/
def homeRead (s : State) (a n : Nat) : List Byte := readBytes 0 s.mem a n
/-- DESIGN CHOICE (log 2). DESIGN CHOICE (log 2). -/
def homeWrite (s : State) (a : Nat) (bs : List Byte) : State := { s with mem := writeBytes 0 s.mem a bs }

/-! ### Rings of the control window (R467) -/

def ringFull (r : Ring) (rec : Nat) : Bool := (r.prod - r.cons).toNat == r.size.toNat / rec

/-- The record written at PROD, at home, and PROD advanced. -/
def ringWrite (s : State) (r : Ring) (rec : List Byte) : State × Ring :=
  let at_ := r.base.toNat + (if r.size = 0 then 0 else r.prod.toNat * rec.length % r.size.toNat)
  (homeWrite s at_ rec, { r with prod := r.prod + 1 })

/-- The record written, or dropped and counted in OVF when the ring is full; OVF saturates. -/
def ringPut (s : State) (r : Ring) (rec : List Byte) : State × Ring :=
  if ringFull r rec.length then (s, { r with ovf := if r.ovf = BitVec.allOnes 32 then r.ovf else r.ovf + 1 })
  else ringWrite s r rec

/-- A word of the MSI-X table: entries of 16 bytes in the standard layout, masked at reset (R471). PRESUMED (log 8).
PRESUMED (log 8). -/
def msixWord (s : State) (i : Nat) : DWord := aGet (if i % 2 = 1 then 0x100000000 else 0) i s.msix
/-- PRESUMED (log 8). PRESUMED (log 8). -/
def msixMasked (s : State) (vec : Nat) : Bool := (msixWord s (2 * vec + 1)).getLsbD 32

/-- An MSI-X vector raised: sent, or pending while its entry is masked. -/
def raiseMsi (s : State) (vec : Nat) : State :=
  if msixMasked s vec then { s with pba := s.pba ||| BitVec.ofNat 64 (2 ^ vec) }
  else { s with sent := s.sent ++ [.msi vec] }

/-- A record of the hinge event ring (R478) and the MSI-X vector it raises. -/
def hingeEvent (s : State) (h kind unit group : Nat) (v : Nat) : State :=
  let hg := hingeOf s h
  let rcd := leBytes 1 kind ++ leBytes 1 h ++ leBytes 2 unit ++ leBytes 4 group
    ++ leBytes 8 (cycleOf s (Config.cores + h)).toNat ++ leBytes 8 v ++ leBytes 8 0
  let (s, ring) := ringPut s hg.events rcd
  let s := setHinge s h { hg with events := ring }
  if hg.heEn then raiseMsi s hg.heVec.toNat else s

/-- A record of a context's error ring (R424). DEDUCED (log 41). DEDUCED (log 41), DESIGN CHOICE (log 103). -/
def errorRecord (s : State) (tm : Team) (slot kind lanes first second : Nat) (tpc taddr tinfo : DWord) : State :=
  let c := ctxOf s tm.ctx
  let rcd := leBytes 8 tm.lseq.toNat ++ leBytes 8 tm.lpc.toNat ++ leBytes 4 tm.gridIdx ++ leBytes 2 tm.core
    ++ leBytes 1 slot ++ leBytes 1 kind ++ leBytes 4 lanes ++ leBytes 1 first ++ leBytes 1 second ++ leBytes 2 0
    ++ leBytes 8 tpc.toNat ++ leBytes 8 taddr.toNat ++ leBytes 8 tinfo.toNat ++ leBytes 8 (cycleOf s tm.core).toNat
  let (s, ring) := ringPut s c.errors rcd
  let s := setCtx s tm.ctx { ctxOf s tm.ctx with errors := ring }
  let k := launchKey tm.ctx tm.lseq
  match aFind k s.launches with
  | some l => { s with launches := aInsert k { l with err := true } s.launches }
  | none => s

/-! ### Registers (R76, R97, R100) -/

/-- A scalar register of a band: at or above the entry's count it reads zero. -/
def rdS (b : Band) (r : Nat) : DWord := if r < b.sregCount then aGet 0 r b.sregs else 0
/-- A write at or above the count is ignored; a write clears a soft-error mark (R427). -/
def wrS (b : Band) (r : Nat) (v : DWord) : Band :=
  if r < b.sregCount then { b with sregs := aSet 0 r v b.sregs, sEcc := aErase r b.sEcc } else b
def rdStream (t : Stream) (r : Nat) : DWord := aGet 0 r t.sregs
def wrStream (t : Stream) (r : Nat) (v : DWord) : Stream := { t with sregs := aSet 0 r v t.sregs }

def rdV (t : Thread) (r : Nat) : Word := aGet 0 r t.vregs
def wrV (t : Thread) (r : Nat) (v : Word) : Thread := { t with vregs := aSet 0 r v t.vregs }
/-- A pair: low word in the even register (R27). -/
def rdV64 (t : Thread) (r : Nat) : DWord := rdV t (r + 1) ++ rdV t r
def wrV64 (t : Thread) (r : Nat) (v : DWord) : Thread :=
  wrV (wrV t r (v.setWidth 32)) (r + 1) ((v >>> 32).setWidth 32)

/-- A predicate; p15 reads true (R35). -/
def predBit (ps : BitVec 15) (p : Nat) : Bool := p == 15 || ps.getLsbD p
def setPredBit (ps : BitVec 15) (p : Nat) (v : Bool) : BitVec 15 :=
  if v then ps ||| BitVec.ofNat 15 (2 ^ p) else ps &&& ~~~ BitVec.ofNat 15 (2 ^ p)
def rdP (t : Thread) (p : Nat) : Bool := predBit t.preds p
def wrP (t : Thread) (p : Nat) (v : Bool) : Thread := { t with preds := setPredBit t.preds p v }

/-- The guard of R47 on predicates. -/
def guardTrue (g : Guard) (ps : BitVec 15) : Bool := predBit ps g.p.val != g.neg

/-- Energy of a band, added to its core's total (R457, R459). -/
def addEnergy (s : State) (k n : Nat) : State :=
  match bandOf s k with
  | none => s
  | some b =>
    let s := setBand s k { b with energy := b.energy + BitVec.ofNat 64 n }
    let core := k / Config.slotsPerCore
    setCore s core { coreOf s core with energy := (coreOf s core).energy + BitVec.ofNat 64 n }

/-! ### Lanes -/

/-- `f` applied to each element with its index from `i`. -/
def mapFrom {α β : Type} (f : Nat → α → β) : Nat → List α → List β
  | _, [] => []
  | i, x :: xs => f i x :: mapFrom f (i + 1) xs

/-- The threads of a band changed by `f` in the lanes of `ls`. -/
def onLanes (b : Band) (ls : List Nat) (f : Nat → Thread → Thread) : Band :=
  { b with threads := mapFrom (fun i t => if ls.contains i then f i t else t) 0 b.threads }

def threadOf (b : Band) (lane : Nat) : Thread := b.threads.getD lane {}

/-- The lanes of a band whose thread meets `p`, ascending. -/
def lanesWhere (b : Band) (p : Nat → Thread → Bool) : List Nat :=
  (List.range b.threads.length).filter fun i => p i (threadOf b i)

/-- The mask of lanes. -/
def laneMask : List Nat → Nat
  | [] => 0
  | i :: is => 2 ^ i + laneMask is

def inMask (m : Word) (i : Nat) : Bool := m.getLsbD i

/-! ### Traps (R419-R424) -/

/-- TVEC.EN and the handler's address (R434). -/
def tvecOn (v : DWord) : Bool := v.getLsbD 0
def tvecPc (v : DWord) : DWord := v &&& 0x007FFFFFFFFFFFFC

/-- A thread in its handler (R421). TPC holds bits [54:2]. -/
def enterHandler (tvec : DWord) (imprecise : Bool) (f : FaultRec) (t : Thread) : Thread :=
  { t with tpc := f.pc &&& 0x007FFFFFFFFFFFFC
           tcause := BitVec.ofNat 9 (f.cause + 256 * bit imprecise)
           taddr := f.addr
           tinfo := f.info
           tlevel := true
           pc := tvecPc tvec
           wait := .ready }

/-- A thread that enters its handler runs to its TRET, though a stop has halted it (R446); not one of a band stopped under R423, nor
with HSTOP: `stays`. -/
def handled (tvec : DWord) (imprecise stays : Bool) (f : FaultRec) (t : Thread) : Thread :=
  { enterHandler tvec imprecise f t with halted := stays && t.halted }

/-- StopBand on a band (R423): every thread stops, and one record names the threads that faulted in this step. `stopper`
is the fault that stopped it. DEDUCED (log 40), DEDUCED (log 41). DEDUCED (log 40), DEDUCED (log 41). -/
def stopBand (s : State) (k : Nat) (faults : List FaultRec) (stopper : FaultRec) (double : Bool) : State :=
  match bandOf s k with
  | none => s
  | some b =>
    let lowest := (faults.head?).getD stopper
    let t := threadOf b lowest.lane
    let s := setBand s k
      { b with stopped := true, threads := b.threads.map fun t => if t.exited then t else { t with halted := true } }
    match teamOf s b.team with
    | none => s
    | some tm =>
      errorRecord s tm (k % Config.slotsPerCore) (if double then 1 else 2) (laneMask (faults.map (·.lane)))
        (if double then t.tcause.toNat % 256 else 0) stopper.cause t.tpc t.taddr t.tinfo

/-- Faults in ascending lanes. -/
def byLane : List FaultRec → List FaultRec
  | [] => []
  | f :: fs => let r := byLane fs; (r.filter fun x => decide (x.lane < f.lane)) ++ [f] ++ r.filter fun x => decide (f.lane ≤ x.lane)

/-- TakeTrap for the faults that threads of one band take in one step, in ascending lanes (R421); precise ones with those of
`State.early`. -/
def takeTraps (s : State) (k : Nat) (imprecise : Bool) (own : List FaultRec) : State :=
  let faults := byLane (if imprecise then own else s.early ++ own)
  let s := { s with faulted := Nat.lor s.faulted (laneMask (faults.map (·.lane))), early := if imprecise then s.early else [] }
  match bandOf s k with
  | none => s
  | some b =>
    let tvec := match teamOf s b.team with | some tm => (ctxOf s tm.ctx).tvec | none => 0
    let stays := b.stopped || match teamOf s b.team with | some tm => (ctxOf s tm.ctx).dbgctl.getLsbD 0 | none => false
    let stops := fun f : FaultRec => (threadOf b f.lane).tlevel || !tvecOn tvec
    let enters := faults.filter fun f => !stops f
    let entered := fun (i : Nat) (t : Thread) =>
      match enters.find? (fun f => f.lane == i) with
      | some f => enterHandler tvec imprecise f t
      -- a thread whose fault stops the band stands at the instruction, which issues again (R423)
      | none => if faults.any fun f => f.lane == i then { t with wait := .ready } else t
    let runs := fun (i : Nat) (t : Thread) =>
      match enters.find? (fun f => f.lane == i) with
      | some f => handled tvec imprecise stays f t
      | none => t
    match faults.find? stops with
    | none => setBand s k { b with threads := mapFrom runs 0 b.threads }
    | some f =>
      -- the record holds the registers of the lowest lane from before the step's faults
      let s' := stopBand s k faults f (threadOf b f.lane).tlevel
      match bandOf s' k with
      | some b' => setBand s' k { b' with threads := mapFrom entered 0 b'.threads }
      | none => s'

/-- The CTXSW of a stream that does not go on to its end: the hinges that it had stopped run again (R418). DESIGN CHOICE (log 61). -/
def endSwitch (s : State) (id : Nat) : State :=
  if s.hinges.all fun h => h.2.switching != some id then s
  else { s with hinges := aMap (fun _ h => if h.switching = some id then { h with switching := none } else h) s.hinges }

/-- A fault of a stream: its handler, or FAULT at TLEVEL 1 or without a handler (R421, R423); a LAUNCH that waited is executed afresh. -/
def streamTrap (s : State) (h n : Nat) (cause : Nat) (addr info pc : DWord) : State :=
  let t := streamOf s h n
  let s := endSwitch s (h * Config.streams + n)
  if t.tlevel || !tvecOn t.tvec then
    setStream s h n { t with state := 3, cause := BitVec.ofNat 8 cause, launching := none }
  else
    setStream s h n { t with
      tpc := pc &&& 0x007FFFFFFFFFFFFC, tcause := BitVec.ofNat 9 cause, taddr := addr, tinfo := info, tlevel := true
      pc := tvecPc t.tvec, state := 1, launching := none }

/-- The return of R430: the program counter from TPC, TLEVEL 0. -/
def trapReturn (t : Thread) : Thread := { t with pc := t.tpc, tlevel := false }

/-- TINFO of a precise fault: the first word above the cause's own bits (R419). DEDUCED (log 22). DEDUCED (log 22). -/
def tinfoOf (word info : Nat) : DWord := BitVec.ofNat 64 (word * 2 ^ 32 + info)

/-! ### Causes (R419) -/

def cIllegal : Nat := 0x01
def cPrivilege : Nat := 0x02
def cProfile : Nat := 0x03
def cRange : Nat := 0x04
def cAddress : Nat := 0x05
def cAlignment : Nat := 0x06
def cPage : Nat := 0x07
def cLost : Nat := 0x08
def cLatch : Nat := 0x09
/-- DEDUCED (log 34). DEDUCED (log 34). -/
def cSplitOver : Nat := 0x0A
def cSplitUnder : Nat := 0x0B
def cDeadlock : Nat := 0x0C
def cLoopOver : Nat := 0x0D
def cMap : Nat := 0x0E
def cKey : Nat := 0x0F
def cTumbler : Nat := 0x10
def cOperand : Nat := 0x11
def cDesc : Nat := 0x12
def cIndex : Nat := 0x13
def cLaunch : Nat := 0x14
def cReg : Nat := 0x15
def cEngine : Nat := 0x16

/-- A fault before it is bound to a thread: cause, TADDR, TINFO [31:0]. -/
structure Exc where
  cause : Nat
  addr : Nat := 0
  info : Nat := 0
  deriving DecidableEq, Repr

/-- Register Range (R419): kind 1 vector, 2 tile, 3 scale column, 4 tumbler. DESIGN CHOICE (log 21).
DESIGN CHOICE (log 21). -/
def rangeExc (kind num : Nat) : Exc := { cause := cRange, info := kind * 65536 + num }
/-- Page: ACCESS and KIND (R419). -/
def pageExc (addr access kind : Nat) : Exc := { cause := cPage, addr := addr, info := access * 256 + kind }
def lostExc (addr access : Nat) : Exc := { cause := cLost, addr := addr, info := access * 256 }

/-! ### Stall codes (R417) -/

/-- Stall codes of waits (R417). -/
def stTumbler : Nat := 3
def stLatch : Nat := 5
def stKey : Nat := 6
def stReduction : Nat := 7
def stMemory : Nat := 8
def stMath : Nat := 9
def stUnit : Nat := 11

/-! ### The issue group of the step -/

/-- The issue group in `State.cur`: `live` are its threads with a true guard (P). -/
structure Grp where
  core : Nat
  slot : Nat
  key : Nat
  lanes : List Nat
  live : List Nat
  addr : DWord
  len : Nat
  word : Nat
  band : Band
  deriving DecidableEq, Repr

/-- DESIGN CHOICE (log 12), DESIGN CHOICE (log 81). DESIGN CHOICE (log 12), DESIGN CHOICE (log 81). -/
def grpOf (s : State) : Option Grp :=
  match s.cur with
  | .band core slot lanes addr len word guard =>
    match bandOf s (bandKey core slot) with
    | some b =>
      some { core := core, slot := slot, key := bandKey core slot, lanes := lanes
             live := lanes.filter fun i => guardTrue guard (threadOf b i).preds
             addr := addr, len := len, word := word, band := b }
    | none => none
  | _ => none

/-- The stream in `State.cur`. -/
structure Strm where
  hinge : Nat
  num : Nat
  addr : DWord
  len : Nat
  word : Nat
  live : Bool
  rcd : Stream
  deriving DecidableEq, Repr

/-- DESIGN CHOICE (log 81). DESIGN CHOICE (log 81). -/
def strmOf (s : State) : Option Strm :=
  match s.cur with
  | .stream h n addr len word guard =>
    let t := streamOf s h n
    some { hinge := h, num := n, addr := addr, len := len, word := word, live := guardTrue guard t.preds, rcd := t }
  | _ => none

/-- The address after the instruction. -/
def Grp.next (g : Grp) : DWord := g.addr + BitVec.ofNat 64 g.len
def Strm.next (g : Strm) : DWord := g.addr + BitVec.ofNat 64 g.len

/-- The threads of `ls` at `pc`, not waiting. -/
def gotoLanes (b : Band) (ls : List Nat) (pc : DWord) : Band :=
  onLanes b ls fun _ t => { t with pc := pc, wait := .ready }

/-- The band's threads of `ls` go to `pc`. -/
def gotoBand (s : State) (k : Nat) (ls : List Nat) (pc : DWord) : State :=
  match bandOf s k with
  | some b => setBand s k (gotoLanes b ls pc)
  | none => s

/-- A fault of the whole of P at the instruction (R420). -/
def faultLanes (s : State) (g : Grp) (ls : List Nat) (e : Exc) : State :=
  takeTraps s g.key false (ls.map fun i =>
    { lane := i, cause := e.cause, addr := BitVec.ofNat 64 e.addr, info := tinfoOf g.word e.info, pc := g.addr })

/-- What a thread's part of an instruction does: its new registers, or a fault (R420). -/
inductive LaneRes where
  | ok (t : Thread)
  | exc (e : Exc)
  deriving DecidableEq, Repr

/-- The thread after its part: one that faults keeps its registers until its trap. -/
def laneAfter (t : Thread) : LaneRes → Thread
  | .ok t' => { t' with wait := .ready }
  | .exc _ => t

/-- The fault of a thread's part, if it has one. -/
def laneFault (g : Grp) (lane : Nat) : LaneRes → Option FaultRec
  | .ok _ => none
  | .exc e =>
    some { lane := lane, cause := e.cause, addr := BitVec.ofNat 64 e.addr, info := tinfoOf g.word e.info, pc := g.addr }

/-- An instruction that acts per thread and sets its program counter: `f` for each thread with a true guard; the others
only advance (R47). A thread that faults keeps its registers and takes its trap. -/
def perThreadTo (s : State) (f : Grp → Nat → Thread → LaneRes) : Host.Outcome State Fault Refusal :=
  match grpOf s with
  | none => .fault .noActor
  | some g =>
    let res := fun i => f g i (threadOf g.band i)
    let b := onLanes g.band g.lanes fun i t =>
      if g.live.contains i then laneAfter t (res i) else { t with pc := g.next, wait := .ready }
    let faults := g.live.filterMap fun i => laneFault g i (res i)
    let s := setBand s g.key b
    .next (if faults.isEmpty then s else takeTraps s g.key false faults)

/-- An instruction that acts per thread and then advances. -/
def perThread (s : State) (f : Grp → Nat → Thread → LaneRes) : Host.Outcome State Fault Refusal :=
  perThreadTo s fun g i t => match f g i t with
    | .ok t' => .ok { t' with pc := g.next }
    | .exc e => .exc e

/-- What an instruction that acts once per group does: the state before the program counters advance, a fault of P, a wait of P
at the instruction, or a wait of the whole group, which has then not issued. -/
inductive GrpRes where
  | ok (s : State)
  | exc (e : Exc)
  | wait (w : Wait)
  | hold (w : Wait)

/-- The wait of a group at issue for memory, with SB_MEMORY (R417). -/
def memoryHold : GrpRes := .hold (.polled stMemory)

/-- A wait of an instruction that has issued, which its group keeps to itself until it completes (R217). -/
def issuedWait (w : Wait) : Bool :=
  match w with
  | .tumbler .. | .page _ | .answered | .rdr _ | .captured _ | .key .. => true
  | .polled c => c == stLatch
  | .ready | .join .. => false

/-- The threads of `ls` wait at the instruction (R436). DESIGN CHOICE (log 36). DESIGN CHOICE (log 36). -/
def waitLanes (s : State) (g : Grp) (ls : List Nat) (w : Wait) : State :=
  match bandOf s g.key with
  | some b => setBand s g.key (onLanes b ls fun _ t =>
      { t with wait := w, waitId := if issuedWait t.wait then t.waitId else s.seq })
  | none => s

/-- An instruction that acts once per issue group and sets the program counters of P itself (R47): it acts if some thread of
the group has a true guard. Threads with a false guard have advanced in the state that `f` is given.
DEDUCED (log 16). DEDUCED (log 16). -/
def perGroupTo (s0 : State) (f : Grp → State → GrpRes) : Host.Outcome State Fault Refusal :=
  match grpOf s0 with
  | none => .fault .noActor
  | some g =>
    let off := g.lanes.filter fun i => !g.live.contains i
    let s := if off.isEmpty then s0 else gotoBand s0 g.key off g.next
    if g.live.isEmpty then .next s
    else match f g s with
      | .ok s' => .next s'
      | .exc e => .next (faultLanes s g g.live e)
      | .wait w => .next (waitLanes s g g.live w)
      | .hold w => .next (waitLanes s0 g g.lanes w)

/-- An instruction that acts once per issue group and then advances. DEDUCED (log 16). DEDUCED (log 16). -/
def perGroup (s : State) (f : Grp → GrpRes) : Host.Outcome State Fault Refusal :=
  perGroupTo s fun g _ => match f g with
    | .ok s' => .ok (gotoBand s' g.key g.lanes g.next)
    | .exc e => .exc e
    | .wait w => .wait w
    | .hold w => .hold w

/-- A per-group instruction that only changes the band. -/
def bandOnly (s : State) (f : Grp → Except Exc Band) : Host.Outcome State Fault Refusal :=
  perGroup s fun g => match f g with
    | .ok b => .ok (setBand s g.key b)
    | .error e => .exc e

/-- The result of an instruction on a stream. -/
inductive StrmRes where
  /-- The state; the program counter then advances. -/
  | ok (s : State)
  /-- The state as it is: the program counter is set. -/
  | jump (s : State)
  | exc (e : Exc)
  /-- A fault after an effect that stands. -/
  | trap (s : State) (e : Exc)
  /-- STATE := WAIT at the instruction. -/
  | wait

/-- An instruction on a stream: with a false predicate it only advances. DEDUCED (log 60). -/
def onStream (s : State) (f : Strm → StrmRes) : Host.Outcome State Fault Refusal :=
  match strmOf s with
  | none => .fault .noActor
  | some g =>
    let adv := fun s : State => setStream s g.hinge g.num { streamOf s g.hinge g.num with pc := g.next, state := 1 }
    if !g.live then .next (adv s)
    else match f g with
      | .ok s' => .next (adv s')
      | .jump s' => .next s'
      | .exc e => .next (streamTrap s g.hinge g.num e.cause (BitVec.ofNat 64 e.addr) (tinfoOf g.word e.info) g.addr)
      | .trap s' e => .next (streamTrap s' g.hinge g.num e.cause (BitVec.ofNat 64 e.addr) (tinfoOf g.word e.info) g.addr)
      | .wait => .next (setStream s g.hinge g.num { g.rcd with state := 2 })

/-- An instruction of the scalar class (R98): on a band once per group, on a stream once. `f` reads the scalar registers
and gives the value of `sd`. -/
def scalarOp (s : State) (d : Nat) (f : (Nat → DWord) → DWord) : Host.Outcome State Fault Refusal :=
  match s.cur with
  | .stream .. => onStream s fun g =>
      .ok (setStream s g.hinge g.num (wrStream g.rcd d (f (rdStream g.rcd))))
  | _ => perGroup s fun g => .ok (setBand s g.key (wrS g.band d (f (rdS g.band))))

end Sys2Proof.Machine
end

