-- ==== Sys2Proof/Machine/Operands.lean ====
section
/-! DEFINITION. Operand forms: immediates and literals (02 R45, R54), scalar and vector sources (04 R100, R101), the
Register Range check of step 8 (02 R59), memory operand addresses (02 R53). -/

namespace Sys2Proof.Machine

/-! ### Immediates -/

/-- IMM32 as an operand of an integer type, as a pattern of its width (R54). -/
def immInt (ty : IntTy) (v : Word) : Nat :=
  wrapNat (intWidth ty) (readInt (intSigned ty) 32 v.toNat)

/-- The low bits of a literal (R45). -/
def litInt (w : Nat) (v : DWord) : Nat := v.toNat % 2 ^ w

/-! ### Scalar operands (R100) -/

/-- The low bits of a scalar register. -/
def sPat (ty : IntTy) (v : DWord) : Nat := v.toNat % 2 ^ intWidth ty

/-- The value of a B operand as a pattern. -/
def ssrcPat (rd : Nat → DWord) (ty : IntTy) : SSrc → Nat
  | .reg r => sPat ty (rd r.val)
  | .imm v => immInt ty v
  | .lit v => litInt (intWidth ty) v

def regImmPat (rd : Nat → DWord) (ty : IntTy) : RegImm → Nat
  | .reg r => sPat ty (rd r.val)
  | .imm v => immInt ty v

/-- `sd := r`: r mod 2^w, extended to 64 bits by the type's signedness. -/
def extS (ty : IntTy) (r : Int) : DWord :=
  BitVec.ofInt 64 (readInt (intSigned ty) (intWidth ty) (wrapNat (intWidth ty) r))

/-! ### Vector operands (R76, R101) -/

/-- A vector register as a pattern of an integer type. -/
def vPat (ty : IntTy) (t : Thread) (r : Nat) : Nat :=
  if intWidth ty = 64 then (rdV64 t r).toNat else (rdV t r).toNat % 2 ^ intWidth ty

/-- `vd := r` for an integer type. -/
def wrVInt (ty : IntTy) (t : Thread) (d : Nat) (r : Int) : Thread :=
  let v := readInt (intSigned ty) (intWidth ty) (wrapNat (intWidth ty) r)
  if intWidth ty = 64 then wrV64 t d (BitVec.ofInt 64 v) else wrV t d (BitVec.ofInt 32 v)

/-- The B operand of the vector integer class, as a pattern. DESIGN CHOICE (log 100). -/
def vsrcInt (b : Band) (t : Thread) (ty : IntTy) : VSrc → Nat
  | .vec r => vPat ty t r.val
  | .sca r => sPat ty (rdS b r.val)
  | .imm v => immInt ty v
  | .lit v => litInt (intWidth ty) v

/-- The bits of a float operand: the register, or pair for .f64. -/
def vBits (w : Nat) (t : Thread) (r : Nat) : Nat :=
  if w = 64 then (rdV64 t r).toNat else (rdV t r).toNat % 2 ^ w

/-- The width of a float operand in its register: 16, 32 or 64. -/
def fltWidth : FTy → Nat
  | .f16 | .bf16 => 16
  | .f32 | .f16x2 | .bf16x2 => 32
  | .f64 => 64

/-- The exact .f64 pattern of an .f32 pattern (R54). A NaN keeps its sign, its payload and whether it is signalling.
DESIGN CHOICE (log 98). DESIGN CHOICE (log 98). -/
def f32to64 (v : Nat) : Nat :=
  if (decodeFmt fmtF32 v).isNan then v / 2 ^ 31 % 2 * 2 ^ 63 + 0x7FF * 2 ^ 52 + v % 2 ^ 23 * 2 ^ 29
  else (roundToFormat (decodeFmt fmtF32 v) fmtF64 .rne false 0).1

/-- The B operand of the vector float class, as bits. DESIGN CHOICE (log 98). -/
def vsrcFlt (b : Band) (t : Thread) (ty : FTy) : VSrc → Nat
  | .vec r => vBits (fltWidth ty) t r.val
  | .sca r => (rdS b r.val).toNat % 2 ^ fltWidth ty
  | .imm v => if ty = .f64 then f32to64 v.toNat else v.toNat % 2 ^ fltWidth ty
  | .lit v => v.toNat % 2 ^ fltWidth ty

/-- `vd := bits` of a float or binary8 result: zeros above its width (R76). -/
def wrVFlt (w : Nat) (t : Thread) (d : Nat) (bits : Nat) : Thread :=
  if w = 64 then wrV64 t d (BitVec.ofNat 64 bits) else wrV t d (BitVec.ofNat 32 bits)

/-! ### Register Range (R46, R59 step 8) -/

/-- The vector register a B operand names. -/
def vsrcRegs : VSrc → List Nat
  | .vec r => [r.val]
  | _ => []

/-- The register a Register Range fault names when several lie at or beyond `n`: one of them by choice.
DESIGN CHOICE (log 21). DESIGN CHOICE (log 21). -/
def rangeFault (tick n kind : Nat) (regs : List Nat) : Option Exc :=
  match regs.filter fun r => decide (n ≤ r) with
  | [] => none
  | [r] => some (rangeExc kind r)
  | r :: rs => some (rangeExc kind ((r :: rs).getD (Config.choice tick (rs.length + 1) % (rs.length + 1)) r))

/-- An instruction of a vector class: each thread with a true guard checks its registers and then has its effect. -/
def vecOp (s : State) (regs : List Nat) (f : Grp → Nat → Thread → Thread) : Host.Outcome State Fault Refusal :=
  perThread s fun g i t =>
    match rangeFault s.tick g.band.n 1 regs with
    | some e => .exc e
    | none => .ok (f g i t)

/-! ### Memory operands (R53) -/

/-- The address of a memory operand in a thread: base + index + offset, modulo 2^64. The index is vB read by its scale
code, which holds IX - 1 (R52). -/
def memAddr (b : Band) (t : Thread) (m : MemOp) : Nat :=
  let idx : Int := match m.index with
    | none => 0
    | some (v, ix) => readInt true 32 (rdV t v.val).toNat * 2 ^ ix.val
  wrapNat 64 ((rdS b m.base.val).toNat + idx + readInt true 32 m.off.toNat)

/-- The address of base sA and IMM32. -/
def baseAddr (rd : DWord) (off : Word) : Nat := wrapNat 64 (rd.toNat + readInt true 32 off.toNat)

/-- The vector registers a memory operand names. -/
def memRegs (m : MemOp) : List Nat :=
  match m.index with | some (v, _) => [v.val] | none => []

end Sys2Proof.Machine
end

