-- ==== Sys2Proof/Machine/FloatOps.lean ====
section
/-! DEFINITION. The float operations on one element (05 R140-R164): exact results under R141 with the
conditions they raise, and the approximate functions inside their bounds. -/

namespace Sys2Proof.Machine

/-! ### Exact results (R141) -/

/-- A value before rounding, with the conditions already raised. -/
abbrev FRes := Val × Flags

def nanOf (sig : Bool) : FRes := (.nan false, flagIf sig flagNV)
def invalid : FRes := (.nan false, flagNV)

/-- The sum of two finite magnitudes; an exact zero sum is +0, or -0 under .rdn, unless both are zeros of one sign. -/
def addFin (n1 : Bool) (m1 : Nat) (e1 : Int) (n2 : Bool) (m2 : Nat) (e2 : Int) (mode : Mode) : Val :=
  if m1 = 0 ∧ m2 = 0 then .fin (if n1 = n2 then n1 else decide (mode = .rdn)) 0 0 false
  else
    let e := min e1 e2
    let a : Int := (m1 * 2 ^ (e1 - e).toNat : Nat)
    let b : Int := (m2 * 2 ^ (e2 - e).toNat : Nat)
    let s := (if n1 then -a else a) + (if n2 then -b else b)
    if s = 0 then .fin (decide (mode = .rdn)) 0 0 false
    else .fin (decide (s < 0)) s.natAbs e false

def fAdd (mode : Mode) (a b : Val) : FRes :=
  match a, b with
  | .nan s, b => nanOf (s || b.isSig)
  | a, .nan s => nanOf (s || a.isSig)
  | .inf n, .inf n' => if n = n' then (.inf n, 0#5) else invalid
  | .inf n, .fin _ _ _ _ => (.inf n, 0#5)
  | .fin _ _ _ _, .inf n => (.inf n, 0#5)
  | .fin n1 m1 e1 _, .fin n2 m2 e2 _ => (addFin n1 m1 e1 n2 m2 e2 mode, 0#5)

def fSub (mode : Mode) (a b : Val) : FRes := fAdd mode a (b.negIf true)

def fMul (a b : Val) : FRes :=
  if a.isNan || b.isNan then nanOf (a.isSig || b.isSig)
  else if (a.isInf && b.isZero) || (a.isZero && b.isInf) then invalid
  else (a.times b, 0#5)

/-- R149: NaN operands first, then invalid operations, then the signs of the parts. -/
def fMa (mode : Mode) (negProd negAdd : Bool) (a b c : Val) : FRes :=
  if a.isNan || b.isNan || c.isNan then nanOf (a.isSig || b.isSig || c.isSig)
  else
    let p := fMul a b
    if p.1.isNan then p else fAdd mode (p.1.negIf negProd) (c.negIf negAdd)

/-- a ÷ b (R151): the quotient to more than 100 bits, with `rest` for a remainder. -/
def fDiv (a b : Val) : FRes :=
  if a.isNan || b.isNan then nanOf (a.isSig || b.isSig)
  else
    let n := a.isNeg != b.isNeg
    match a, b with
    | .inf _, .inf _ => invalid
    | .inf _, _ => (.inf n, 0#5)
    | _, .inf _ => (.fin n 0 0 false, 0#5)
    | .fin _ m1 e1 _, .fin _ m2 e2 _ =>
      if m2 = 0 then (if m1 = 0 then invalid else (.inf n, flagDZ))
      else if m1 = 0 then (.fin n 0 0 false, 0#5)
      else
        let k := 110 + m2.log2
        (.fin n (m1 * 2 ^ k / m2) (e1 - e2 - k) (m1 * 2 ^ k % m2 != 0), 0#5)
    | _, _ => invalid

/-- The integer square root by bits from `i - 1` down, `r` holding those already found. -/
def isqrtFrom : Nat → Nat → Nat → Nat
  | 0, r, _ => r
  | i + 1, r, n => isqrtFrom i (if (r + 2 ^ i) * (r + 2 ^ i) ≤ n then r + 2 ^ i else r) n

def isqrt (n : Nat) : Nat := isqrtFrom (n.log2 / 2 + 1) 0 n

/-- √a (R151). -/
def fSqrt (a : Val) : FRes :=
  match a with
  | .nan s => nanOf s
  | .inf n => if n then invalid else (.inf false, 0#5)
  | .fin n m e _ =>
    if m = 0 then (.fin n 0 0 false, 0#5)
    else if n then invalid
    else
      let k : Nat := if e % 2 = 0 then 220 else 221
      let v := m * 2 ^ k
      let r := isqrt v
      (.fin false r ((e - k) / 2) (r * r != v), 0#5)

/-- Rounds a result to the instruction's type and joins the conditions (R140). -/
def fRound (r : FRes) (f : Fmt) (mode : Mode) (rnd : Nat) : Nat × Flags :=
  let x := roundToFormat r.1 f mode false rnd
  (x.1, r.2 ||| x.2)

/-! ### Comparison, minimum and maximum, classes (R153-R161) -/

/-- The order of two values that are not NaN; zeros of both signs are equal. -/
def fCompare (a b : Val) : Ordering :=
  match a, b with
  | .inf n, .inf n' => if n = n' then .eq else if n then .lt else .gt
  | .inf n, _ => if n then .lt else .gt
  | _, .inf n => if n then .gt else .lt
  | .fin n1 m1 e1 _, .fin n2 m2 e2 _ =>
    let e := min e1 e2
    let a : Int := (m1 * 2 ^ (e1 - e).toNat : Nat)
    let b : Int := (m2 * 2 ^ (e2 - e).toNat : Nat)
    compare (if n1 then -a else a) (if n2 then -b else b)
  | _, _ => .eq

/-- a is below b where -0 orders below +0 (R153). -/
def fBelow (a b : Val) : Bool :=
  match fCompare a b with
  | .lt => true
  | .gt => false
  | .eq => a.isNeg && !b.isNeg

/-- VFMIN and VFMAX on encodings (R153). -/
def fMinMax (f : Fmt) (isMax nan : Bool) (a b : Nat) : Nat × Flags :=
  let x := decodeFmt f a
  let y := decodeFmt f b
  let fl := flagIf (x.isSig || y.isSig) flagNV
  if x.isNan && y.isNan then (f.nanCode, fl)
  else if (x.isNan || y.isNan) && nan then (f.nanCode, fl)
  else if x.isNan then (b % 2 ^ f.width, fl)
  else if y.isNan then (a % 2 ^ f.width, fl)
  else (if fBelow x y != isMax then a % 2 ^ f.width else b % 2 ^ f.width, fl)

/-- VFCMP (R157). -/
def fCmp (c : FCond) (a b : Val) : Bool × Flags :=
  let un := a.isNan || b.isNan
  let sig := a.isSig || b.isSig
  let o := fCompare a b
  match c with
  | .eq => (!un && o == .eq, flagIf sig flagNV)
  | .ne => (un || o != .eq, flagIf sig flagNV)
  | .lt => (!un && o == .lt, flagIf un flagNV)
  | .le => (!un && o != .gt, flagIf un flagNV)
  | .gt => (!un && o == .gt, flagIf un flagNV)
  | .ge => (!un && o != .lt, flagIf un flagNV)
  | .ord => (!un, flagIf sig flagNV)
  | .uno => (un, flagIf sig flagNV)

/-- The bit of VFCLASS (R159). -/
def fClass (f : Fmt) (a : Val) : Nat :=
  match a with
  | .nan s => if s then 0 else 1
  | .inf n => if n then 2 else 9
  | .fin n m e _ =>
    if m = 0 then (if n then 5 else 6)
    else if (m.log2 : Int) + e < f.emin + ((f.p : Int) - 1) then (if n then 4 else 7)
    else if n then 3 else 8

/-- VFRND (R161). -/
def fRnd (f : Fmt) (mode : Mode) (x : Bool) (rnd : Nat) (a : Val) : Nat × Flags :=
  match a with
  | .nan s => (f.nanCode, flagIf s flagNV)
  | .inf n => ((roundToFormat (.inf n) f mode false rnd).1, 0#5)
  | .fin n m e r =>
    let i := roundIntegral n m e r mode rnd
    ((roundToFormat (.fin n i.1 0 false) f .rne false 0).1, flagIf (x && !i.2) flagNX)

/-! ### Fixed-point enclosures of the approximate functions

A real is held as an integer count of 2^-384. Every function below is within 2^-200 of its value on the arguments
it is called with. -/

def fixBits : Nat := 384
def fixOne : Int := 2 ^ 384

/-- m * 2^e in fixed point, rounded down. -/
def fixOf (neg : Bool) (m : Nat) (e : Int) : Int :=
  let k := e + 384
  let a : Int := if 0 ≤ k then (m * 2 ^ k.toNat : Nat) else (m / 2 ^ (-k).toNat : Nat)
  if neg then -a else a

def fixMul (a b : Int) : Int := a * b / fixOne

/-- Σ t·x^i·(i0)!/(i0+i)!: the tail of the exponential series. -/
def expTail : Nat → Nat → Int → Int → Int
  | 0, _, _, _ => 0
  | n + 1, i, t, x => t + expTail n (i + 1) (fixMul t x / ((i : Int) + 1)) x

/-- e^x for 0 ≤ x ≤ 20. -/
def fixExp (x : Int) : Int := expTail 220 0 fixOne x

/-- Σ ± t / (2i + 1), the series of atan (alternating) or atanh, with t multiplied by x² each time. -/
def atanTail (alt : Bool) : Nat → Nat → Int → Int → Int
  | 0, _, _, _ => 0
  | n + 1, i, t, x2 =>
    t / (2 * (i : Int) + 1) + (if alt then -1 else 1) * atanTail alt n (i + 1) (fixMul t x2) x2

def fixAtan (x : Int) : Int := atanTail true 90 0 x (fixMul x x)
def fixAtanh (x : Int) : Int := atanTail false 130 0 x (fixMul x x)

/-- π by Machin's formula; ln 2 as 2 atanh(1/3). -/
def fixPi : Int := 16 * fixAtan (fixOne / 5) - 4 * fixAtan (fixOne / 239)
def fixLn2 : Int := 2 * fixAtanh (fixOne / 3)

/-- The series of sine and cosine: t, then t multiplied by -x²/((i+1)(i+2)). -/
def sinTail : Nat → Nat → Int → Int → Int
  | 0, _, _, _ => 0
  | n + 1, i, t, x2 => t + sinTail n (i + 2) (-(fixMul t x2) / (((i : Int) + 1) * ((i : Int) + 2))) x2

/-- x mod 2π. -/
def fixReduce (x : Int) : Int := x % (2 * fixPi)

def fixSin (x : Int) : Int := let r := fixReduce x; sinTail 70 1 r (fixMul r r)
def fixCos (x : Int) : Int := let r := fixReduce x; sinTail 70 0 fixOne (fixMul r r)

/-- The value of a fixed-point number as a Val. -/
def valOfFix (a : Int) : Val := .fin (decide (a < 0)) a.natAbs (-384) true

/-- The exact real result of an approximate function on a finite operand outside the special operands, as a
magnitude with at least 100 significant bits (sine and cosine: 380 fractional bits). -/
def approxExact (f : ApproxFn) (neg : Bool) (m : Nat) (e : Int) : Val :=
  match f with
  | .rcp =>
    let k := 110 + m.log2
    .fin neg (2 ^ k / m) (-e - k) true
  | .rsq =>
    -- 1/√(m·2^e) = √(2^(2k) / m) · 2^(-k - e/2), with e made even
    let m' := if e % 2 = 0 then m else m * 2
    let e' := if e % 2 = 0 then e else e - 1
    .fin false (isqrt (2 ^ 400 / m')) (-200 - e' / 2) true
  | .exp2 =>
    let x := fixOf neg m e
    let n := x / fixOne
    let g := fixExp (fixMul (x - n * fixOne) fixLn2)
    .fin false g.toNat (n - 384) true
  | .log2 =>
    -- m = 2^k (1 + z): log2 = k + e + 2 atanh(z / (2 + z)) / ln 2, taken about the nearer power of two
    let k := m.log2
    let up := decide (3 * 2 ^ k < 2 * m)
    let b : Int := if up then 2 ^ (k + 1) else 2 ^ k
    let l := 2 * fixAtanh (((m : Int) - b) * fixOne / ((m : Int) + b))
    valOfFix (((k : Int) + e + bit up) * fixOne + l * fixOne / fixLn2)
  | .sin => valOfFix (fixSin (fixOf neg m e))
  | .cos => valOfFix (fixCos (fixOf neg m e))
  | .tanh =>
    let E := fixExp (2 * fixOf false m e)
    let t := (E - fixOne) * fixOne / (E + fixOne)
    .fin neg t.natAbs (-384) true

/-- |a - b| as a magnitude. -/
def absDiff (a b : Val) : Nat × Int :=
  match addFin a.isNeg (match a with | .fin _ m _ _ => m | _ => 0) (match a with | .fin _ _ e _ => e | _ => 0)
      (!b.isNeg) (match b with | .fin _ m _ _ => m | _ => 0) (match b with | .fin _ _ e _ => e | _ => 0) .rne with
  | .fin _ m e _ => (m, e)
  | _ => (0, 0)

/-- The exponent of the ulp of R163 at a value. -/
def ulpExp (v : Val) : Int :=
  match v with
  | .fin _ m e _ => max ((m.log2 : Int) + e - 23) (-149)
  | _ => 128 - 24

/-- Whether `y` lies within the bound of R163 of the exact value `v`; an infinite y stands for 2^128. The least
slack in the last place of the enclosure is granted. -/
def withinBound (f : ApproxFn) (x v : Val) (y : Nat) : Bool :=
  match decodeFmt fmtF32 y with
  | .nan _ => false
  | yv =>
    let yv := match yv with
      | .inf n => Val.fin n 1 128 false
      | w => w
    let d := absDiff yv v
    let ulps (n : Nat) := magLe d.1 d.2 (n * 2 ^ 60 + 1) (ulpExp v - 60)
    let absolute (e : Int) := magLe d.1 d.2 (2 ^ 60 + 1) (e - 60)
    match f with
    | .rcp => ulps 1
    | .rsq | .exp2 | .tanh => ulps 2
    | .log2 =>
      ulps 2 || (absolute (-22) &&
        match x with
        | .fin _ m e _ => magLe 1 (-1) m e && magLe m e 2 0
        | _ => false)
    | .sin | .cos => absolute (-21)

/-- 2^k for a magnitude that is a power of two. -/
def powerOfTwo (m : Nat) (e : Int) : Option Int :=
  if m = 2 ^ m.log2 then some ((m.log2 : Int) + e) else none

/-- An exact f32 result with no condition. -/
def exactF32 (v : Val) : Nat × Flags := ((roundF32 v).1, 0#5)

/-- The special operands of R163: exact results. `none` for every other operand. -/
def approxSpecial (f : ApproxFn) (x : Val) : Option (Nat × Flags) :=
  match x with
  | .nan s => some (fmtF32.nanCode, flagIf s flagNV)
  | .inf n =>
    match f with
    | .rcp => some (exactF32 (.fin n 0 0 false))
    | .rsq => some (if n then (fmtF32.nanCode, flagNV) else exactF32 (.fin false 0 0 false))
    | .exp2 => some (exactF32 (if n then .fin false 0 0 false else .inf false))
    | .log2 => some (if n then (fmtF32.nanCode, flagNV) else exactF32 (.inf false))
    | .sin | .cos => some (fmtF32.nanCode, flagNV)
    | .tanh => some (exactF32 (.fin n 1 0 false))
  | .fin n m e _ =>
    if m = 0 then
      match f with
      | .rcp | .rsq => some ((exactF32 (.inf n)).1, flagDZ)
      | .exp2 | .cos => some (exactF32 (.fin false 1 0 false))
      | .log2 => some ((exactF32 (.inf true)).1, flagDZ)
      | .sin | .tanh => some (exactF32 (.fin n 0 0 false))
    else
      match f with
      | .rcp =>
        match powerOfTwo m e with
        | some k => if -149 ≤ -k ∧ -k ≤ 127 then some (exactF32 (.fin n 1 (-k) false)) else none
        | none => none
      | .rsq =>
        if n then some (fmtF32.nanCode, flagNV)
        else match powerOfTwo m e with
          | some k => if k % 2 = 0 then some (exactF32 (.fin false 1 (-(k / 2)) false)) else none
          | none => none
      | .exp2 =>
        let i := cutAt m e false 0
        let k : Int := if n then -(i.m : Int) else i.m
        if i.exact ∧ -149 ≤ k ∧ k ≤ 127 then some (exactF32 (.fin false 1 k false)) else none
      | .log2 =>
        if n then some (fmtF32.nanCode, flagNV)
        else match powerOfTwo m e with
          | some k => some (exactF32 (Val.ofInt k))
          | none => none
      | .sin | .cos | .tanh => none

/-- The approximate functions on a decoded f32 operand (R163). The value outside the special operands is the
device's own (Config.approx) where that lies within the bound, and the nearest f32 value where it does not:
any value within the bound conforms (R164). `code` is the TY code of the instruction. -/
def approxF32 (f : ApproxFn) (code : Nat) (x : Val) : Nat × Flags :=
  match approxSpecial f x with
  | some r => r
  | none =>
    match x with
    | .fin n m e _ =>
      let small := decide ((m.log2 : Int) + e < -12)
      let huge := magLe 9 0 m e
      if f = .exp2 ∧ !n ∧ magLe 128 0 m e then (0x7F800000, flagOF ||| flagNX)
      else if f = .exp2 ∧ n ∧ magLe 149 0 m e then (0, flagUF ||| flagNX)
      else if (f = .sin ∨ f = .tanh) ∧ small then
        ((roundF32 x).1, flagNX ||| flagIf (magLe m e 1 (-126)) flagUF)
      else if f = .tanh ∧ huge then ((roundF32 (.fin n 1 0 false)).1, flagNX)
      else
        let v := approxExact f n m e
        let dev := (Config.approx f code (BitVec.ofNat 32 (roundF32 x).1)).toNat
        let y := if withinBound f x v dev then dev else (roundF32 v).1
        let tiny := match v with
          | .fin _ m e _ => decide ((m.log2 : Int) + e < -126)
          | _ => false
        (y, flagNX ||| flagIf ((decodeFmt fmtF32 y).isInf) flagOF ||| flagIf tiny flagUF)
    | _ => (fmtF32.nanCode, 0#5)

/-- An approximate function in a type: the f32 value, then for a 16-bit type the rounding of R163 step 2.
DESIGN CHOICE (log 24). DESIGN CHOICE (log 24). -/
def approxTo (f : ApproxFn) (ty : FTy) (mode : Mode) (rnd : Nat) (x : Val) : Nat × Flags :=
  let y := approxF32 f (fltCode ty) x
  match ty with
  | .f32 | .f64 => y
  | _ =>
    let r := roundToFormat (decodeFmt fmtF32 y.1) (fmtOf ty) mode false rnd
    (r.1, y.2 ||| r.2)

end Sys2Proof.Machine
end

