-- ==== Sys2Proof/Machine/Flags.lean ====
section
/-! DEFINITION. FSTAT, FCTL and rounding state: raising conditions (05 R134), the mode of an instruction (02 R51, 05 R136),
SRAdvance (03 R87), integer comparison conditions (04 R112). -/

namespace Sys2Proof.Machine

/-- Conditions ORed into FSTAT (R134). -/
def raiseFlags (t : Thread) (f : Flags) : Thread := { t with fstat := t.fstat ||| f }

/-- The rounding mode of FCTL.RM (R136); 5 to 7 are never written. -/
def modeOfRm (rm : BitVec 3) : Mode :=
  match rm.toNat with
  | 1 => .rtz | 2 => .rup | 3 => .rdn | 4 => .sr | _ => .rne

/-- The mode of a RND field. -/
def modeOf (rm : BitVec 3) : Rnd → Mode
  | .rne => .rne | .rtz => .rtz | .rup => .rup | .rdn => .rdn | .sr => .sr | .dyn => modeOfRm rm

/-- SRAdvance once for a group that rounds with .sr and has a thread with a true guard (R87). -/
def srStep (b : Band) (mode : Mode) : Band :=
  if mode = .sr then { b with srstate := BitVec.ofNat 64 (srAdvance b.srstate.toNat) } else b

/-- SRBits of a band for a lane and element. -/
def srOf (b : Band) (lane j : Nat) : Nat := srBits b.srstate.toNat lane j

/-- The value a register of `fcond` writes into RM; 5 to 7 leave it (R136). -/
def writeRm (old : BitVec 3) (v : DWord) : BitVec 3 :=
  if v.toNat % 8 < 5 then BitVec.ofNat 3 v.toNat else old

/-- The conditions of SCMP and VCMP on patterns (R112). -/
def condHolds (c : Cond) (ty : IntTy) (a b : Nat) : Bool :=
  let x := readInt (intSigned ty) (intWidth ty) a
  let y := readInt (intSigned ty) (intWidth ty) b
  match c with
  | .eq => decide (x = y)
  | .ne => decide (x ≠ y)
  | .lt => decide (x < y)
  | .le => decide (x ≤ y)
  | .gt => decide (y < x)
  | .ge => decide (y ≤ x)
  | .tst => Nat.land a b != 0
  | .ntst => Nat.land a b == 0

end Sys2Proof.Machine
end

