-- ==== Sys2Proof/Machine/Classes.lean ====
section
/-! DEFINITION. The tile class directory: ClassAfterStore and NonFiniteBits (03 R92), identity images (12 R337), the entries
of tiles and stash slots. -/

namespace Sys2Proof.Machine

/-- The listed pairs with keys from `lo`, `n` of them at most, keys counted from `lo`. -/
def aRange {β : Type} (lo n : Nat) (m : AList β) : List (Nat × β) :=
  (m.filter fun e => lo ≤ e.1 && e.1 < lo + n).map fun e => (e.1 - lo, e.2)

def TileClass.nonfinite : TileClass → Bool
  | .const _ nf => nf
  | .general nf => nf
  | _ => false

/-- The 1 of a type as TIDENT writes it (R324). -/
def typeOne (code : Nat) : Nat :=
  if code = 2 ∨ code = 0 then 1
  else if code = 8 then 0x3C00
  else if code = 9 then 0x3F80
  else if code = 10 then 0x3F800000
  else if code = 11 then 0x3FF0000000000000
  else if bitOf code 1 then 0x80 else 0x40

/-- Bytes of one element in a stash identity (R324). -/
def identEs (code : Nat) : Nat :=
  if code = 8 ∨ code = 9 then 2 else if code = 10 then 4 else if code = 11 then 8 else 1

/-- Byte `o` of the identity image of a slot (R337): rows 0 to 15, or 16 to 31 with `half`. -/
def identSlotByte (code : Nat) (half : Bool) (o : Nat) : Byte :=
  let es := identEs code
  let row := o / 64 + 16 * bit half
  if o % 64 / es = row then BitVec.ofNat 8 (typeOne code / 256 ^ (o % es)) else 0

/-- Word (i, j) of the identity image of a tile (R337). -/
def identTileWord (code : Nat) (half : Bool) (i j : Nat) : Word :=
  if i ≠ j then 0
  else if code = 11 then (if half then 0x3FF00000 else 0)
  else BitVec.ofNat 32 (typeOne code)

/-- ClassImage at word `k` of a tile. -/
def imageTileWord (c : TileClass) (k : Nat) : Word :=
  match c with
  | .zero => 0
  | .const w _ => w
  | .ident code half => identTileWord code half (k / 32) (k % 32)
  | .general _ => 0

/-- ClassImage at byte `o` of a slot. -/
def imageSlotByte (c : TileClass) (o : Nat) : Byte :=
  match c with
  | .zero => 0
  | .const w _ => BitVec.ofNat 8 (w.toNat / 256 ^ (o % 4))
  | .ident code half => identSlotByte code half o
  | .general _ => 0

def isGeneral : TileClass → Bool
  | .general _ => true
  | _ => false

/-- ClassAfterStore of a whole unit of `n` words whose non-zero words are `ws`. -/
def classWhole (n : Nat) (ws : List Word) : TileClass :=
  match ws with
  | [] => .zero
  | w :: rest =>
    let nf := (w :: rest).any fun x => nonFiniteWord x.toNat
    if ws.length = n ∧ rest.all (fun x => x == w) then .const w nf else .general nf

/-- ClassAfterStore of a partial store: whether every stored offset agrees with the image, and the words that hold a stored
offset. -/
def classPartial (c : TileClass) (agrees : Bool) (ws : List Word) : TileClass :=
  if !isGeneral c && agrees then c
  else .general (c.nonfinite || ws.any fun x => nonFiniteWord x.toNat)

/-! ### Tiles -/

def tileWord (tm : Team) (t i j : Nat) : Word := aGet 0 (t * 1024 + i * 32 + j) tm.tiles
def tileClsOf (tm : Team) (t : Nat) : TileClass := aGet .zero t tm.tileCls
def setTileCls (tm : Team) (t : Nat) (c : TileClass) : Team := { tm with tileCls := aSet .zero t c tm.tileCls }

/-- The entry of a tile after a store of the whole tile in `m`. -/
def tileWhole (m : AList Word) (t : Nat) : TileClass := classWhole 1024 ((aRange (t * 1024) 1024 m).map (·.2))

/-! ### Stash slots -/

def slotClsOf (tm : Team) (s : Nat) : TileClass := aGet .zero s tm.slotCls
def setSlotCls (tm : Team) (s : Nat) (c : TileClass) : Team := { tm with slotCls := aSet .zero s c tm.slotCls }

/-- The word at a stash offset. -/
def stashWord (m : AList Byte) (off : Nat) : Word := BitVec.ofNat 32 (leNat (readBytes 0 m off 4))

/-- The aligned word offsets that hold one of the offsets. -/
def wordOffsets : List Nat → List Nat
  | [] => []
  | o :: os =>
    let r := wordOffsets os
    let w := o / 4 * 4
    if r.contains w then r else w :: r

/-- The entry of a slot after a store of the whole slot. -/
def slotWhole (m : AList Byte) (s : Nat) : TileClass :=
  classWhole 256 (((wordOffsets ((aRange (s * 1024) 1024 m).map fun e => e.1 + s * 1024)).map (stashWord m)).filter (· != 0))

/-- The entry of a slot after a store of the offsets `os` in it. -/
def slotPartial (c : TileClass) (m : AList Byte) (s : Nat) (os : List Nat) : TileClass :=
  classPartial c (os.all fun o => aGet 0 o m == imageSlotByte c (o - s * 1024))
    ((wordOffsets os).map (stashWord m))

/-- The map entry that covers a slot. -/
def mapAt (tm : Team) (s : Nat) : Option (Nat × MapEntry) :=
  tm.maps.find? fun e => e.2.first ≤ s && s < e.2.first + e.2.count

/-- The window that covers a slot: its entry's number and first slot. -/
def windowAtSlot (tm : Team) (s : Nat) : Option (Nat × MapEntry × Window) :=
  match mapAt tm s with
  | some (m, e) => match e.win with
    | some w => some (m, e, w)
    | none => none
  | none => none

/-- The slots that bytes from `off` lie in. -/
def slotsOf (off n : Nat) : List Nat :=
  if n = 0 then [] else (List.range ((off + n - 1) / 1024 + 1 - off / 1024)).map (· + off / 1024)

/-- The offsets of `off` to `off + n - 1` in a slot. -/
def offsetsIn (s off n : Nat) : List Nat :=
  ((List.range n).map (· + off)).filter fun o => o / 1024 == s

/-- The entries of the slots that a store of `n` bytes at `off` touched, its bytes in place: partial, or whole for a slot
that `whole` says it covered and that no window covers (R340, R342). -/
def classesAfter (tm : Team) (whole : Bool) (off n : Nat) : Team :=
  (slotsOf off n).foldl (fun tm s =>
    if whole && (windowAtSlot tm s).isNone && off ≤ s * 1024 && s * 1024 + 1024 ≤ off + n then
      setSlotCls tm s (slotWhole tm.stash s)
    else setSlotCls tm s (slotPartial (slotClsOf tm s) tm.stash s (offsetsIn s off n))) tm

/-! ### Latches (R285) -/

def latchOf (tm : Team) (s : Nat) : Latch := aGet { engine := false, count := 0 } s tm.latches
def setLatch (tm : Team) (s : Nat) (l : Latch) : Team :=
  { tm with latches := aSet { engine := false, count := 0 } s l tm.latches }
def slotPending (tm : Team) (s : Nat) : Bool := aGet false s tm.pending
def setPending (tm : Team) (s : Nat) (v : Bool) : Team := { tm with pending := aSet false s v tm.pending }

end Sys2Proof.Machine
end

