-- ==== Sys2Proof/Machine/Memory.lean ====
section
/-! DEFINITION. Translation (08 R222-R228), homes (R245), the copies of the abstract machine with CleanBelow and DropBelow
(09 R266-R270), windows and the stash (R237-R244). -/

namespace Sys2Proof.Machine

/-- Addresses from `a`. -/
def addrRange (a n : Nat) : List Nat := (List.range n).map (a + ·)

/-! ### Homes -/

def moduleOf (s : State) (k : Nat) : Module := aGet {} (k % 4) (hingeOf s (k / 4)).modules

/-- The 64 KiB frames of a home: 48 GiB of a stack, or a module's (R29, R383). -/
def framesOf (s : State) (home : Nat) : Nat :=
  if home < 16 then Config.stackFrames else (moduleOf s (home - 16)).frames

/-- Installed pages: near memory, then the modules' frames (R29, R224). PRESUMED (log 26). PRESUMED (log 26). -/
def installedPages (s : State) : Nat :=
  Config.nearPages + ((List.range 16).map fun k => (moduleOf s k).frames).sum

/-- The home and the frame in it of frame number `i` among the modules' frames, from module `k` on. -/
def moduleFrame (s : State) : Nat → Nat → Nat → Nat × Nat
  | 0, _, i => (0, i)
  | fuel + 1, k, i =>
    if i < (moduleOf s k).frames then (16 + k, i) else moduleFrame s fuel (k + 1) (i - (moduleOf s k).frames)

/-- The home and the frame in it of frame number `i` of the installed ones: the stacks', then the modules'. -/
def frameNumber (s : State) (i : Nat) : Nat × Nat :=
  if i < Config.nearPages then (i / Config.stackFrames, i % Config.stackFrames) else moduleFrame s 16 0 (i - Config.nearPages)

/-- The number of a frame of a home. -/
def numberOfFrame (s : State) (home frame : Nat) : Nat :=
  if home < 16 then home * Config.stackFrames + frame
  else Config.nearPages + ((List.range (home - 16)).map fun k => (moduleOf s k).frames).sum + frame

/-- The home and the frame that the firmware gives a page, a frame of its own for each installed page (R30, R245, R475).
DESIGN CHOICE (log 25). DESIGN CHOICE (log 25). -/
def defaultPlace (s : State) (ppn : Nat) : Nat × Nat :=
  let n := installedPages s
  if h : ppn < n then frameNumber s (Config.defaultFrames n ⟨ppn, h⟩).val else (0, ppn)

/-- The remap table (R245): the home of a device-physical page, 0 to 15 near stacks and 16 to 31 capacity modules, and the
frame in it. -/
def placeOfPage (s : State) (ppn : Nat) : Nat × Nat := (aGet {} ppn s.remap).home.getD (defaultPlace s ppn)
def homeOfPage (s : State) (ppn : Nat) : Nat := (placeOfPage s ppn).1
def pageLost (s : State) (ppn : Nat) : Bool := (aGet {} ppn s.remap).lost
def setHome (s : State) (ppn home frame : Nat) : State :=
  { s with remap := aInsert ppn { aGet {} ppn s.remap with home := some (home, frame) } s.remap }
def setLost (s : State) (ppn : Nat) : State :=
  { s with remap := aInsert ppn { aGet {} ppn s.remap with lost := true } s.remap }

/-- The page in a frame of a home, none when it has moved away. -/
def pageInFrame (s : State) (home frame : Nat) : Option Nat :=
  match s.remap.find? fun e => e.2.home == some (home, frame) with
  | some e => some e.1
  | none =>
    let n := installedPages s
    if h : numberOfFrame s home frame < n then
      let q := ((Config.defaultFrames n).symm ⟨numberOfFrame s home frame, h⟩).val
      if (aGet {} q s.remap).home.isNone then some q else none
    else none

/-- The hinge of a home (R378). -/
def hingeOfHome (home : Nat) : Nat := if home < 16 then home / 4 else (home - 16) / 4

/-- The stack of a home, none for a module. -/
def stackOfHome (s : State) (ppn : Nat) : Option Nat :=
  let h := homeOfPage s ppn
  if h < 16 then some h else none

/-- A home that takes no access: a stack that is flushing or in self-refresh (R479). -/
def homeBusy (s : State) (home : Nat) : Bool :=
  decide (home < 16) && ((aGet {} (home % 4) (hingeOf s (home / 4)).memStacks).state != 0)

/-- A stack that is flushing or in self-refresh holds accesses to its pages (R479). -/
def stackBusy (s : State) (a : Nat) : Bool :=
  (s.hinges.any fun h => h.2.memStacks.any fun k => k.2.state != 0) && decide (a < sysBase) && (match stackOfHome s (a / 65536) with
    | some n => homeBusy s n
    | none => false)

/-- Nothing uses a page: no byte of it is listed at home or copied at a level, no window lies in it, it is neither LOST nor pinned.
DESIGN CHOICE (log 25). -/
def pageUnused (s : State) (page : Nat) : Bool :=
  let none' := fun (m : AList Copy) => (aRange (page * 65536) 65536 m).isEmpty
  !pageLost s page && (aRange (page * 65536) 65536 s.mem).isEmpty
    && (s.cores.all fun c => none' c.2.l1) && (s.clusters.all fun c => none' c.2.cache) && (s.hinges.all fun h => none' h.2.link)
    && s.teams.all fun t => !t.2.pins.contains page && t.2.maps.all fun e => match e.2.win with
      | some w => decide (w.base / 65536 ≠ page)
      | none => true

/-- A frame of a home is free: its page has moved away, or nothing uses it (R246). DESIGN CHOICE (log 25). -/
def frameFree (s : State) (home frame : Nat) : Bool :=
  match pageInFrame s home frame with
  | some q => pageUnused s q
  | none => true

/-- The first free frame of a home from `f` on, in a circle. -/
def firstFree (s : State) (home : Nat) : Nat → Nat → Option Nat
  | 0, _ => none
  | fuel + 1, f =>
    let f := f % framesOf s home
    if frameFree s home f then some f else firstFree s home fuel (f + 1)

/-- A free frame of a home by choice; none when it has none (R246, R378). DESIGN CHOICE (log 25). -/
def freeFrame (s : State) (home : Nat) : Option Nat × State :=
  let (f, s) := choose s (framesOf s home)
  (firstFree s home (framesOf s home) f, s)

/-- A page takes a frame of another home: the page that had the frame takes the first one's, so that each frame stays that of one
page (R245, R246). -/
def takeFrame (s : State) (ppn home frame : Nat) : State :=
  let old := placeOfPage s ppn
  let s := match pageInFrame s home frame with
    | some q => if q = ppn then s else setHome s q old.1 old.2
    | none => s
  setHome s ppn home frame

/-- Bridges between two hinges (R14). -/
def bridges (a b : Nat) : Nat := if a = b then 0 else if a + b = 3 then 2 else 1

/-! ### Page tables -/

/-- A leaf entry that is present and well formed (R224). STATE: 0 RESIDENT, 1 NONRESIDENT, 2 DISCARDED, 3 LOST. -/
structure Leaf where
  ppn : Nat
  sys : Bool
  state : Nat
  w : Bool
  x : Bool
  /-- The device-physical address of the entry. -/
  pte : Nat
  deriving DecidableEq, Repr

/-- The physical address of a virtual one under a leaf. -/
def physOf (l : Leaf) (va : Nat) : Nat := (if l.sys then sysBase else 0) + l.ppn * 65536 + va % 65536

/-- KIND of a Page fault (R419). -/
def kNotPresent : Nat := 1
def kMalformed : Nat := 2
def kWriteProtect : Nat := 3
def kNoExecute : Nat := 4
def kNonresident : Nat := 5

/-- The walk of R222 from `level` (1 to 3) with the table at `table`: a leaf, or the kind of the fault. -/
def walkFrom (s : State) (va : Nat) : Nat → Nat → Except Nat Leaf
  | 0, _ => .error kNotPresent
  | left + 1, table =>
    let addr := table + 8 * bitsOf va (16 + 13 * left) 13
    let e := leNat (homeRead s addr 8)
    if !bitOf e 0 then .error kNotPresent
    else if left = 0 then
      if bitsOf e 49 15 ≠ 0 ∨ bitsOf e 6 10 ≠ 0 ∨ bitOf e 3 then .error kMalformed
      else
        let ppn := bitsOf e 16 32
        let sys := bitOf e 48
        if !sys && decide (installedPages s ≤ ppn) then .error kMalformed
        else .ok { ppn := ppn, sys := sys, state := bitsOf e 4 2, w := bitOf e 1, x := bitOf e 2, pte := addr }
    else if bitsOf e 48 16 ≠ 0 ∨ bitsOf e 1 15 ≠ 0 then .error kMalformed
    else walkFrom s va left (bitsOf e 16 32 * 65536)

/-- The walk of a context's tables. -/
def walk (s : State) (ctx va : Nat) : Except Nat Leaf :=
  walkFrom s va 3 (bitsOf (ctxOf s ctx).ptbase.toNat 16 32 * 65536)

/-- A walk from `left` levels above the leaves reads a table on a stack that takes no access (R479). -/
def walkBusyFrom (s : State) (va : Nat) : Nat → Nat → Bool
  | 0, _ => false
  | left + 1, table =>
    stackBusy s table ||
      (let e := leNat (homeRead s (table + 8 * bitsOf va (16 + 13 * left) 13) 8)
       bitOf e 0 && walkBusyFrom s va left (bitsOf e 16 32 * 65536))

/-- A walk of a context's tables must wait for a stack (R479). -/
def walkBusy (s : State) (ctx va : Nat) : Bool := walkBusyFrom s va 3 (bitsOf (ctxOf s ctx).ptbase.toNat 16 32 * 65536)

/-- The physical range of the part of a virtual range that lies in one page; nothing where the leaf is not RESIDENT. -/
def leafRange (r : Except Nat Leaf) (va n : Nat) : List (Nat × Nat) :=
  match r with
  | .ok l => if l.state = 0 then [(physOf l va, n)] else []
  | .error _ => []

/-- The entries of a table page with a byte listed in memory; every other entry reads 0 and is not present. -/
def listedEntries (m : AList Byte) (table : Nat) : List Nat := ((aRange table 65536 m).map fun e => e.1 / 8).eraseDups

/-- The virtual pages of `[lo, hi)` that a table `left` levels above the leaves may map; `up` is the part of the page number
above its index. -/
def listedPages (s : State) (lo hi : Nat) : Nat → Nat → Nat → List Nat
  | 0, _, _ => []
  | left + 1, table, up =>
    let kept := ((listedEntries s.mem table).map fun e => up * 8192 + e).filter fun p =>
      decide (p * 8192 ^ left < hi ∧ lo < (p + 1) * 8192 ^ left)
    if left = 0 then kept
    else kept.flatMap fun p => listedPages s lo hi left (bitsOf (leNat (homeRead s (table + 8 * (p % 8192)) 8)) 16 32 * 65536) p

/-- The physical ranges of a virtual range, page by page. -/
def virtRanges (s : State) (ctx va n : Nat) : List (Nat × Nat) :=
  if n = 0 then []
  else
    let root := bitsOf (ctxOf s ctx).ptbase.toNat 16 32 * 65536
    (listedPages s (va / 65536) ((va + n - 1) / 65536 + 1) 3 root 0).flatMap fun p =>
      let lo := max va (p * 65536)
      let hi := min (va + n) ((p + 1) * 65536)
      leafRange (walk s ctx lo) lo (hi - lo)

/-- The hardware's update of a leaf's STATE, at home (R226). -/
def setLeafState (s : State) (pte state : Nat) : State :=
  let e := leNat (homeRead s pte 8)
  homeWrite s pte (leBytes 8 (e - bitsOf e 4 2 * 16 + state * 16))

/-! ### TLBs (R228): 0 to 59 the clusters, 60 + hinge the sequencers -/

def tlbOf (s : State) (id : Nat) : List TlbEntry :=
  if id < 60 then (clusterOf s id).tlb else (hingeOf s (id - 60)).tlb
def setTlb (s : State) (id : Nat) (m : List TlbEntry) : State :=
  if id < 60 then setCluster s id { clusterOf s id with tlb := m }
  else setHinge s (id - 60) { hingeOf s (id - 60) with tlb := m }

/-- Entries of a cluster's TLB (R228). -/
def tlbSize : Nat := 2048

/-- The entry holds the translation of the page. -/
def TlbEntry.holds (e : TlbEntry) (ctx va : Nat) : Bool :=
  e.ctx == ctx && e.group == va / 2 ^ 20 && e.mask.getLsbD (va / 65536 % 16)

/-- The entry that translates an address. -/
def tlbFind (s : State) (id ctx va : Nat) : Option TlbEntry := (tlbOf s id).find? fun e => e.holds ctx va

/-- The leaf that an entry stands for: its PPN is VA [54:16] plus the offset. -/
def leafOfTlb (e : TlbEntry) (va : Nat) : Leaf :=
  { ppn := (e.offset + (va / 65536 : Nat)).toNat, sys := e.sys, state := 0, w := e.w, x := e.x, pte := 0 }

/-- The entry of a leaf with no page valid. -/
def tlbOfLeaf (ctx va : Nat) (l : Leaf) : TlbEntry :=
  { ctx := ctx, group := va / 2 ^ 20, offset := (l.ppn : Int) - (va / 65536 : Nat), w := l.w, x := l.x, sys := l.sys, mask := 0 }

/-- A page may be valid in an entry: RESIDENT, with its W, X and SYS, and its offset (R228). -/
def TlbEntry.fits (e : TlbEntry) (va : Nat) (l : Leaf) : Bool :=
  l.state == 0 && l.w == e.w && l.x == e.x && l.sys == e.sys && decide ((l.ppn : Int) - (va / 65536 : Nat) = e.offset)

/-- The pages of a group that a walk makes valid in an entry, as a mask. DEDUCED (log 44). -/
def groupMask (s : State) (e : TlbEntry) : BitVec 16 :=
  BitVec.ofNat 16 (laneMask ((List.range 16).filter fun i =>
    let va := e.group * 2 ^ 20 + i * 65536
    match walk s e.ctx va with
    | .ok l => e.fits va l
    | .error _ => false))

/-- A RESIDENT leaf put into a TLB: its entry takes every page of the group that fits it, and other entries of the group lose
those pages. A full cluster TLB gives up an entry by choice. DEDUCED (log 44). DEDUCED (log 44). -/
def fillTlb (s : State) (id ctx va : Nat) (l : Leaf) : State :=
  let e := tlbOfLeaf ctx va l
  let pages := groupMask s e ||| BitVec.ofNat 16 (2 ^ (va / 65536 % 16))
  let same := fun x : TlbEntry => decide ({ x with mask := 0 } = e)
  let mine := (((tlbOf s id).filter same).map (·.mask)).foldl (· ||| ·) pages
  let clear := fun x : TlbEntry => if x.ctx = ctx ∧ x.group = e.group then { x with mask := x.mask &&& ~~~ pages } else x
  let others := ((((tlbOf s id).filter fun x => !same x).map clear).filter fun x => x.mask != 0)
  if id < 60 ∧ tlbSize ≤ others.length then
    let (v, s) := choose s others.length
    setTlb s id (others.eraseIdx v ++ [{ e with mask := mine }])
  else setTlb s id (others ++ [{ e with mask := mine }])

/-- A walk for a TLB's miss: the cluster's count of misses, and the hinge's count of walks, one for the misses of one step to one
group (R229). -/
def countWalk (s : State) (id ctx va : Nat) : State :=
  let s := if id < 60 then
      setCluster s id { clusterOf s id with tlbMisses := (clusterOf s id).tlbMisses + 1 } else s
  let key := (id, ctx, va / 2 ^ 20)
  if s.walked.contains key then s
  else
    let h := if id < 60 then hingeOfCluster id else id - 60
    setHinge { s with walked := key :: s.walked } h { hingeOf s h with walks := (hingeOf s h).walks + 1 }

/-- A translation: by the TLB, or by a walk that fills it when the leaf is RESIDENT. A TLB entry that a new walk would not
give is used or not by choice (R226). DEDUCED (log 44). DEDUCED (log 44). -/
def translate (s : State) (id ctx va : Nat) : Except Nat Leaf × State :=
  let w := walk s ctx va
  let fill := fun s : State => match w with
    | .ok l => if l.state = 0 then fillTlb s id ctx va l else s
    | .error _ => s
  match tlbFind s id ctx va with
  | none => (w, fill (countWalk s id ctx va))
  | some e =>
    let same := match w with | .ok l => e.fits va l | .error _ => false
    if same then (w, s)
    else
      let (c, s) := choose s 2
      if c = 0 then (.ok (leafOfTlb e va), s) else (w, fill (countWalk s id ctx va))

/-- A translation needs a walk that must wait for a stack (R479). -/
def walkWaits (s : State) (id ctx va : Nat) : Bool := (tlbFind s id ctx va).isNone && walkBusy s ctx va

/-- A walk that reads the leaf entry itself: as a miss, and it fills the TLB, where the TLB does not hold the page. -/
def walkNow (s : State) (id ctx va : Nat) : Except Nat Leaf × State :=
  let w := walk s ctx va
  match tlbFind s id ctx va, w with
  | some _, _ => (w, s)
  | none, .ok l => (w, let s := countWalk s id ctx va; if l.state = 0 then fillTlb s id ctx va l else s)
  | none, .error _ => (w, countWalk s id ctx va)

/-- The parts of a virtual range in pages that may be RESIDENT: those of the tables and of the TLB. -/
def mayReside (s : State) (id ctx va n : Nat) : List (Nat × Nat) :=
  if n = 0 then []
  else
    let lo := va / 65536
    let hi := (va + n - 1) / 65536 + 1
    let root := bitsOf (ctxOf s ctx).ptbase.toNat 16 32 * 65536
    let held := (tlbOf s id).flatMap fun e =>
      if e.ctx = ctx then ((List.range 16).filter fun i => e.mask.getLsbD i).map fun i => e.group * 16 + i else []
    let pages := (listedPages s lo hi 3 root 0 ++ held.filter fun p => decide (lo ≤ p ∧ p < hi)).eraseDups
    pages.map fun p =>
      let a := max va (p * 65536)
      (a, min (va + n) ((p + 1) * 65536) - a)

/-- The physical ranges of parts of pages, each translated (R229). -/
def transRanges (s : State) (id ctx : Nat) : List (Nat × Nat) → List (Nat × Nat) × State
  | [] => ([], s)
  | (va, n) :: rest =>
    let (r, s) := translate s id ctx va
    let (rs, s) := transRanges s id ctx rest
    (leafRange r va n ++ rs, s)

/-- Accesses as R225 distinguishes them; the number is ACCESS of TINFO (R419). -/
inductive Acc where
  | read | write | fetch | atomic | ldn | pgreq | spill (isWrite : Bool) | key (isWrite : Bool) | image
  deriving DecidableEq, Repr

def Acc.code : Acc → Nat
  | .read => 0 | .write => 1 | .fetch => 2 | .atomic => 3 | .ldn => 4 | .pgreq => 5 | .spill _ => 6 | .key _ => 7
  | .image => 8
def Acc.writes : Acc → Bool
  | .write | .atomic | .spill true | .key true => true
  | _ => false

/-- An access that a slot owned by an engine stops with Latch (R240, R295): writes, atomics and, as an atomic would, the accesses
of KACQ and KREL (R283). -/
def Acc.latches : Acc → Bool
  | .write | .atomic | .spill true | .key _ => true
  | _ => false

/-- What R225 and R248 let an access do. -/
inductive Target where
  /-- The bytes at the physical address. -/
  | bytes (a : Nat)
  /-- Zeros with the value of LDN's pc: a read of a DISCARDED page, at the physical address that the walk gave, or LDN of a
  NONRESIDENT one. -/
  | zeros (pc : Bool) (a : Nat)
  /-- A write to a DISCARDED page. -/
  | revive (a : Nat)
  /-- The page's stack is flushing or in self-refresh: the access waits (R479). -/
  | busy
  deriving DecidableEq, Repr

/-- The checks of R225 then R248 for an access with a translation, and R479's wait of one that passes them. -/
def checkLeaf (s : State) (r : Except Nat Leaf) (va : Nat) (acc : Acc) : Except Exc Target :=
  match r with
  | .error k => .error (pageExc va acc.code k)
  | .ok l =>
    if acc.writes && !l.w then .error (pageExc va acc.code kWriteProtect)
    else if acc = .fetch ∧ !l.x then .error (pageExc va acc.code kNoExecute)
    else
      let lost := !l.sys && pageLost s l.ppn
      if l.state = 0 then
        if lost then .error (lostExc va acc.code)
        else if l.sys && Config.hostBusError (physOf l va - sysBase) then .error (pageExc va acc.code kMalformed)
        else if stackBusy s (physOf l va) then .ok .busy
        else .ok (.bytes (physOf l va))
      else if l.state = 1 then
        if acc = .ldn then .ok (.zeros false 0) else .error (pageExc va acc.code kNonresident)
      else if l.state = 2 then
        if acc = .fetch then .error (pageExc va acc.code kNonresident)
        else if acc.writes then
          (if lost then .error (lostExc va acc.code) else if stackBusy s (physOf l va) then .ok .busy
           else .ok (.revive (physOf l va)))
        else .ok (.zeros true (physOf l va))
      else .error (lostExc va acc.code)

/-- Translation and checks of one access of a context; it waits where the walk that it needs does (R479). -/
def access (s : State) (id ctx va : Nat) (acc : Acc) : Except Exc Target × State :=
  if walkWaits s id ctx va then (.ok .busy, s)
  else
    let (r, s) := translate s id ctx va
    (checkLeaf s r va acc, s)

/-- The L1 line of a name: its physical line and its record (R230). -/
def l1Find (s : State) (core ctx va : Nat) : Option (Nat × L1Line) :=
  (coreOf s core).lines.find? fun e => e.2.ctx == ctx && e.2.name == va / 128

/-- The leaf of an L1 hit, by the reverse map. -/
def leafOfLine (line : Nat) (x : L1Line) : Leaf :=
  let a := line * 128
  { ppn := (if sysBase ≤ a then a - sysBase else a) / 65536, sys := decide (sysBase ≤ a), state := 0, w := x.w, x := false, pte := 0 }

/-- An access of a thread through its core's L1: only a miss is translated (R230). A store to a line that was filled without W is
translated. DEDUCED (log 45). -/
def accessL1 (s : State) (core ctx va : Nat) (acc : Acc) : Except Exc Target × State :=
  match l1Find s core ctx va with
  | some (line, x) =>
    if acc.writes && !x.w then access s (clusterOfCore core) ctx va acc
    else (checkLeaf s (.ok (leafOfLine line x)) va acc, s)
  | none => access s (clusterOfCore core) ctx va acc

/-! ### Levels, paths and points (R266, R267) -/

def levelRank : Level → Nat
  | .l1 _ => 1
  | .cluster _ => 2
  | .link _ => 3

def levelMap (s : State) : Level → AList Copy
  | .l1 c => (coreOf s c).l1
  | .cluster n => (clusterOf s n).cache
  | .link h => (hingeOf s h).link

def setLevel (s : State) (l : Level) (m : AList Copy) : State :=
  match l with
  | .l1 c => setCore s c { coreOf s c with l1 := m }
  | .cluster n => setCluster s n { clusterOf s n with cache := m }
  | .link h => setHinge s h { hingeOf s h with link := m }

/-- A byte whose page is homed on another hinge, or of a SYS page. -/
def remote (s : State) (hinge a : Nat) : Bool :=
  decide (sysBase ≤ a) || hingeOfHome (homeOfPage s (a / 65536)) != hinge

/-- The levels an agent passes to a byte, home apart (R267). -/
def path (s : State) (ag : Agent) (a : Nat) : List Level :=
  match ag with
  | .thread core _ _ =>
    [.l1 core, .cluster (clusterOfCore core)]
      ++ (if remote s (hingeOfCore core) a then [.link (hingeOfCore core)] else [])
  | .engine core _ _ =>
    [.cluster (clusterOfCore core)]
      ++ (if remote s (hingeOfCore core) a then [.link (hingeOfCore core)] else [])
  | .stream h _ => if remote s h a then [.link h] else []
  | .hub _ _ | .host => []

def agentHinge : Agent → Nat
  | .thread core _ _ | .engine core _ _ => hingeOfCore core
  | .hub h _ | .stream h _ => h
  | .host => 0

def agentCtx : Agent → Nat
  | .thread _ _ c | .engine _ _ c | .hub _ c | .stream _ c => c
  | .host => 0

/-- The rank of the level that R267's table names for a scope; 4 is home. -/
def scopeRank (s : State) (ag : Agent) (sc : Scope) (a : Nat) : Nat :=
  match sc with
  | .team => 1
  | .cluster => 2
  | .hinge => if remote s (agentHinge ag) a then 3 else 4
  | .package => if sysBase ≤ a then 3 else 4
  | .system => 4

/-- The path with the number of its levels that lie above the point of a scope. -/
def pathAbove (s : State) (ag : Agent) (sc : Scope) (a : Nat) : List Level × Nat :=
  let p := path s ag a
  (p, (p.takeWhile fun l => decide (levelRank l < scopeRank s ag sc a)).length)

/-! ### Copies -/

def copyAt (s : State) (l : Level) (a : Nat) : Option Copy := aFind a (levelMap s l)
def putCopy (s : State) (l : Level) (a : Nat) (c : Copy) : State := setLevel s l (aInsert a c (levelMap s l))
def dropCopy (s : State) (l : Level) (a : Nat) : State := setLevel s l (aErase a (levelMap s l))

/-- A level holds a byte of the line of an address. -/
def holdsLine (s : State) (l : Level) (a : Nat) : Bool := (levelMap s l).any fun e => e.1 / 128 == a / 128

/-- A line without copies at a level takes clean copies of `v`. -/
def putLine (s : State) (l : Level) (a : Nat) (v : Nat → Byte) : State :=
  let base := a / 128 * 128
  let line := (addrRange base 128).map fun x => (x, ({ value := v x, dirty := false } : Copy))
  let m := levelMap s l
  setLevel s l (aFilter (fun x _ => decide (x < base)) m ++ line ++ aFilter (fun x _ => decide (base + 128 ≤ x)) m)

/-- CleanBelow for one byte (R268): `n` levels of the path lie above the point. -/
def cleanByte (a : Nat) : List Level → Nat → State → State
  | [], _, s => s
  | _, 0, s => s
  | l :: rest, n + 1, s =>
    match copyAt s l a with
    | some c =>
      if c.dirty then
        let s := match rest with
          | [] => homeWrite s a [c.value]
          | l2 :: _ => putCopy s l2 a { value := c.value, dirty := true }
        cleanByte a rest n (putCopy s l a { value := c.value, dirty := false })
      else cleanByte a rest n s
    | none => cleanByte a rest n s

/-- DropBelow for one byte: clean copies above the point are discarded. -/
def dropByte (a : Nat) : List Level → Nat → State → State
  | [], _, s => s
  | _, 0, s => s
  | l :: rest, n + 1, s =>
    match copyAt s l a with
    | some c => dropByte a rest n (if c.dirty then s else dropCopy s l a)
    | none => dropByte a rest n s

/-- Every copy of a byte above the point is discarded. -/
def discardByte (a : Nat) : List Level → Nat → State → State
  | [], _, s => s
  | _, 0, s => s
  | l :: rest, n + 1, s => discardByte a rest n (dropCopy s l a)

/-- The addresses of which an agent's levels hold copies that meet `p`. -/
def heldWhere (s : State) (ag : Agent) (p : Copy → Bool) : List Nat :=
  let keys := fun m : AList Copy => (m.filter fun e => p e.2).map (·.1)
  match ag with
  | .thread core _ _ =>
    keys (coreOf s core).l1 ++ keys (clusterOf s (clusterOfCore core)).cache ++ keys (hingeOf s (hingeOfCore core)).link
  | .engine core _ _ => keys (clusterOf s (clusterOfCore core)).cache ++ keys (hingeOf s (hingeOfCore core)).link
  | .stream h _ => keys (hingeOf s h).link
  | .hub _ _ | .host => []

/-- The addresses of which an agent's levels hold copies. -/
def heldAddrs (s : State) (ag : Agent) : List Nat := heldWhere s ag fun _ => true

/-- Lines of a cluster cache written back, in its count (R454). -/
def countBacks (s : State) (cluster n : Nat) : State :=
  if n = 0 then s
  else setCluster s cluster { clusterOf s cluster with writebacks := (clusterOf s cluster).writebacks + BitVec.ofNat 64 n }

/-- The lines, of some bytes, that CleanBelow writes back from a cluster cache: one of their bytes is dirty there or in the L1
above it, and the point lies below it. -/
def linesBack (s : State) (ag : Agent) (sc : Scope) (as : List Nat) : List (Nat × Nat) :=
  (as.filterMap fun a =>
    let (p, n) := pathAbove s ag sc a
    let above := p.take n
    let dirty := above.any fun l => levelRank l != 3 && match copyAt s l a with | some c => c.dirty | none => false
    match above.find? fun l => levelRank l == 2 with
    | some (.cluster k) => if dirty then some (k, a / 128) else none
    | _ => none).eraseDups

def cleanAddrs (s : State) (ag : Agent) (sc : Scope) (as : List Nat) : State :=
  let back := linesBack s ag sc as
  let s := as.foldl (fun s a => let (p, n) := pathAbove s ag sc a; cleanByte a p n s) s
  match back with
  | [] => s
  | (k, _) :: _ => countBacks s k back.length
def dropAddrs (s : State) (ag : Agent) (sc : Scope) (as : List Nat) : State :=
  as.foldl (fun s a => let (p, n) := pathAbove s ag sc a; dropByte a p n s) s
def discardAddrs (s : State) (ag : Agent) (sc : Scope) (as : List Nat) : State :=
  as.foldl (fun s a => let (p, n) := pathAbove s ag sc a; discardByte a p n s) s

/-- CleanBelow and DropBelow of all (R268): the first acts on dirty copies only, the second on clean ones. -/
def cleanAll (s : State) (ag : Agent) (sc : Scope) : State :=
  if sc = .team then s else cleanAddrs s ag sc (heldWhere s ag fun c => c.dirty)
def dropAll (s : State) (ag : Agent) (sc : Scope) : State :=
  if sc = .team then s else dropAddrs s ag sc (heldWhere s ag fun c => !c.dirty)

/-- A scope acts for several threads of one issue group on one core: their paths are equal. -/
def threadAgent (core team ctx : Nat) : Agent := .thread core team ctx

/-! ### Plain accesses (R269) -/

/-- The value of a byte at the first level of a path that holds a copy, and at how many levels it was missed. -/
def lookByte (s : State) (a : Nat) : List Level → Nat → Byte × Nat
  | [], n => (aGet 0 a s.mem, n)
  | l :: rest, n =>
    match copyAt s l a with
    | some c => (c.value, n)
    | none => lookByte s a rest (n + 1)

/-- Clean copies of a value at the first `n` levels of a path. A .na access allocates in no cache (R234). -/
def fillByte (a : Nat) (v : Byte) (na : Bool) : List Level → Nat → State → State
  | [], _, s => s
  | _, 0, s => s
  | l :: rest, n + 1, s =>
    let keep := !na || levelRank l == 3
    fillByte a v na rest n (if keep then putCopy s l a { value := v, dirty := false } else s)

/-- A plain read of one byte. -/
def loadByte (s : State) (ag : Agent) (na : Bool) (a : Nat) : Byte × State :=
  let p := path s ag a
  let (v, n) := lookByte s a p 0
  (v, fillByte a v na p n s)

def loadBytes (s : State) (ag : Agent) (na : Bool) (a : Nat) : Nat → List Byte × State
  | 0 => ([], s)
  | n + 1 =>
    let (b, s) := loadByte s ag na a
    let (bs, s) := loadBytes s ag na (a + 1) n
    (b :: bs, s)

/-- A plain write of one byte: dirty at the first level of the path; a .na write without an L1 copy at the cluster cache;
home for an agent without levels. -/
def storeByte (s : State) (ag : Agent) (na : Bool) (a : Nat) (v : Byte) : State :=
  match path s ag a with
  | [] => homeWrite s a [v]
  | l :: rest =>
    match rest with
    | l2 :: _ =>
      if na && levelRank l == 1 && (copyAt s l a).isNone then putCopy s l2 a { value := v, dirty := true }
      else putCopy s l a { value := v, dirty := true }
    | [] => putCopy s l a { value := v, dirty := true }

def storeBytes (s : State) (ag : Agent) (na : Bool) (a : Nat) : List Byte → State
  | [] => s
  | v :: vs => storeBytes (storeByte s ag na a v) ag na (a + 1) vs

/-- Copies of a byte above the point set to a value and made clean. -/
def refreshByte (a : Nat) (v : Byte) : List Level → Nat → State → State
  | [], _, s => s
  | _, 0, s => s
  | l :: rest, n + 1, s =>
    refreshByte a v rest n (if (copyAt s l a).isSome then putCopy s l a { value := v, dirty := false } else s)

/-- A byte written at the point of a scope: dirty there unless the point is home. -/
def pointWrite (s : State) (ag : Agent) (sc : Scope) (a : Nat) (v : Byte) : State :=
  let (p, n) := pathAbove s ag sc a
  match p.drop n with
  | [] => homeWrite s a [v]
  | l :: _ => putCopy s l a { value := v, dirty := true }

/-- The point takes a copy of a line of which it holds none from the levels below (R291). -/
def pointLine (s : State) (ag : Agent) (sc : Scope) (a : Nat) : State :=
  let (p, n) := pathAbove s ag sc a
  match p.drop n with
  | [] => s
  | l :: rest => if holdsLine s l a then s else putLine s l a fun x => (lookByte s x rest 0).1

/-- The value of a byte at the point: there, or at the first lower level that holds a copy, of which the point takes a clean
copy (R291). -/
def pointRead (s : State) (ag : Agent) (sc : Scope) (a : Nat) : Byte × State :=
  let (p, n) := pathAbove s ag sc a
  let (v, k) := lookByte s a (p.drop n) 0
  (v, fillByte a v false (p.drop n) (min k 1) s)

def pointReads (s : State) (ag : Agent) (sc : Scope) (a : Nat) : Nat → List Byte × State
  | 0 => ([], s)
  | n + 1 =>
    let (b, s) := pointRead s ag sc a
    let (bs, s) := pointReads s ag sc (a + 1) n
    (b :: bs, s)

def pointWrites (s : State) (ag : Agent) (sc : Scope) (a : Nat) : List Byte → State
  | [] => s
  | v :: vs => pointWrites (pointWrite s ag sc a v) ag sc (a + 1) vs

/-- A release write (R269): the caller has cleaned all; the value goes to the point and to every copy above it. -/
def releaseWrite (s : State) (ag : Agent) (sc : Scope) (a : Nat) : List Byte → State
  | [] => s
  | v :: vs =>
    let (p, n) := pathAbove s ag sc a
    releaseWrite (pointWrite (refreshByte a v p n s) ag sc a v) ag sc (a + 1) vs

/-! ### DISCARDED pages (R227) -/

/-- Every copy of a range dropped without write-back (R260). DEDUCED (log 89). DEDUCED (log 89). -/
def dropRange (s : State) (base n : Nat) : State :=
  let out := fun (a : Nat) (_ : Copy) => !decide (base ≤ a ∧ a < base + n)
  { s with cores := aMap (fun _ c => { c with l1 := aFilter out c.l1 }) s.cores
           clusters := aMap (fun _ c => { c with cache := aFilter out c.cache }) s.clusters
           hinges := aMap (fun _ h => { h with link := aFilter out h.link }) s.hinges }

/-- Revival: the bytes of the page that the entry names zeroed at home, no older copy of them left, STATE RESIDENT. -/
def revivePage (s : State) (l : Leaf) : State :=
  let base := physOf { l with state := 0 } 0
  let s := dropRange s base 65536
  setLeafState { s with mem := aFilter (fun a _ => decide (a < base ∨ base + 65536 ≤ a)) s.mem } l.pte 0

/-! ### Windows (R241-R244) -/

/-- The registered window that holds a physical address: team key, entry number, entry, window. -/
def windowIn (a : Nat) : AList Team → Option (Nat × Nat × MapEntry × Window)
  | [] => none
  | (k, t) :: rest =>
    match t.maps.find? (fun e => match e.2.win with
        | some w => decide (w.base ≤ a ∧ a < w.base + 1024 * e.2.count)
        | none => false) with
    | some (m, e) => match e.win with
      | some w => some (k, m, e, w)
      | none => none
    | none => windowIn a rest
def windowAt (s : State) (a : Nat) : Option (Nat × Nat × MapEntry × Window) := windowIn a s.teams

/-- Whether a range of physical addresses meets a registered window. -/
def overlapsWindow (s : State) (a n : Nat) : Bool :=
  s.teams.any fun t => t.2.maps.any fun e => match e.2.win with
    | some w => decide (a < w.base + 1024 * e.2.count ∧ w.base < a + n)
    | none => false

/-- The page of an address of a context is DISCARDED as a walk reads it now. -/
def isDiscarded (s : State) (ctx va : Nat) : Bool :=
  match walk s ctx va with
  | .ok l => l.state == 2
  | .error _ => false

/-- A window's page is on a stack that is flushing or in self-refresh (R479). -/
def windowBusy (s : State) (tm : Team) (off n : Nat) : Bool :=
  (slotsOf off n).any fun slot => match windowAtSlot tm slot with
    | some (_, _, w) => stackBusy s w.base
    | none => false

/-- The 128 bytes a granule is filled with: home's, or zeros when the page is DISCARDED (R263). -/
def granuleBytes (s : State) (tm : Team) (w : Window) (g : Nat) : List Byte :=
  if isDiscarded s tm.ctx w.va then List.replicate 128 0 else homeRead s (w.base + 128 * g) 128

/-- The granules that `n` bytes at region offset `o` meet. -/
def granulesOf (o n : Nat) : List Nat :=
  if n = 0 then [] else (List.range ((o + n - 1) / 128 + 1 - o / 128)).map (· + o / 128)

/-- An access noted for the watchpoints (R443). -/
def note (s : State) (x : Seen) : State := { s with seen := s.seen ++ [x] }

/-- A window fill, or write-back, of one granule as the watchpoints see it. -/
def noteGranule (s : State) (k : Nat) (tm : Team) (off : Nat) (fill : Bool) : State :=
  note s { ctx := tm.ctx, core := tm.core, band := none, instr := none, lane := 0, va := none, stash := some (k, off)
           len := 128, read := !fill, write := fill, atomic := false, engine := true, pc := 0 }

/-- Granule `g` of a window filled, unless it is or the access writes all of it. DESIGN CHOICE (log 102). -/
def fillGranule (s : State) (k m : Nat) (whole : Bool) (g : Nat) : State :=
  match teamOf s k with
  | none => s
  | some tm =>
    match aFind m tm.maps with
    | some e => match e.win with
      | some w =>
        if w.filled.testBit g then s
        else
          let off := e.first * 1024 + 128 * g
          let bytes := if whole then readBytes 0 tm.stash off 128 else granuleBytes s tm w g
          let e' := { e with win := some { w with filled := w.filled ||| 2 ^ g } }
          let tm := { tm with maps := aInsert m e' tm.maps, stash := writeBytes 0 tm.stash off bytes }
          if whole then setTeam s k tm
          else noteGranule (setTeam s k (classesAfter tm false off 128)) k tm off true
      | none => s
    | none => s

/-- Granule `g` marked dirty. -/
def dirtyGranule (s : State) (k m g : Nat) : State :=
  match teamOf s k with
  | none => s
  | some tm =>
    match aFind m tm.maps with
    | some e => match e.win with
      | some w =>
        setTeam s k { tm with maps := aInsert m { e with win := some { w with dirty := w.dirty ||| 2 ^ g } } tm.maps }
      | none => s
    | none => s

/-- The fault of the first window fill that an access of `n` bytes at a stash offset needs: a fill is a read of the
window's page (R225, R248). `code` is the access's ACCESS. -/
def fillFault (s : State) (tm : Team) (off n : Nat) (write : Bool) (code : Nat) : Option Exc :=
  (slotsOf off n).findSome? fun slot =>
    match windowAtSlot tm slot with
    | none => none
    | some (_, e, w) =>
      let lo := max off (slot * 1024) - e.first * 1024
      let hi := min (off + n) (slot * 1024 + 1024) - e.first * 1024
      let needs := (granulesOf lo (hi - lo)).any fun g =>
        !w.filled.testBit g && !(write && decide (lo ≤ 128 * g ∧ 128 * g + 128 ≤ hi))
      if !needs then none
      else match checkLeaf s (walk s tm.ctx (w.va + lo)) (w.va + lo) .read with
        | .error x => some { x with info := code * 256 + x.info % 256 }
        | .ok (.bytes _) | .ok .busy =>
          if decide (w.base < sysBase) && pageLost s (w.base / 65536) then some (lostExc (w.va + lo) code) else none
        | .ok (.zeros ..) | .ok (.revive _) => none

/-- Before an access of `n` bytes at a stash offset: the granules of a window it meets are filled (R241). -/
def touchStash (s : State) (k off n : Nat) (write : Bool) : State :=
  match teamOf s k with
  | none => s
  | some tm =>
    (slotsOf off n).foldl (fun s slot =>
      match windowAtSlot tm slot with
      | none => s
      | some (m, e, _) =>
        let lo := max off (slot * 1024) - e.first * 1024
        let hi := min (off + n) (slot * 1024 + 1024) - e.first * 1024
        (granulesOf lo (hi - lo)).foldl (fun s g =>
          let s := fillGranule s k m (write && decide (lo ≤ 128 * g ∧ 128 * g + 128 ≤ hi)) g
          if write then dirtyGranule s k m g else s) s) s

/-- A read at the stash (R269). -/
def stashRead (s : State) (k off n : Nat) : List Byte × State :=
  let s := touchStash s k off n false
  match teamOf s k with
  | some tm => (readBytes 0 tm.stash off n, s)
  | none => (List.replicate n 0, s)

/-- A write at the stash, with the class update of R340. -/
def stashWrite (s : State) (k off : Nat) (bs : List Byte) : State :=
  let s := touchStash s k off bs.length true
  match teamOf s k with
  | some tm => setTeam s k (classesAfter { tm with stash := writeBytes 0 tm.stash off bs } false off bs.length)
  | none => s

/-- The value that each byte of a range had before an engine's write, kept for early reads with the position of the write in its
channel, the first being `at_` (R289). DEDUCED (log 47). DEDUCED (log 47). -/
def keepEarly (tm : Team) (ch at_ off n : Nat) : Team :=
  let add := fun (m : AList (List (Nat × Nat × Byte))) (i : Nat) =>
    aInsert (off + i) (aGet [] (off + i) m ++ [(ch, at_ + i, aGet 0 (off + i) tm.stash)]) m
  { tm with early := (List.range n).foldl add tm.early }

/-- The bytes of a slot are no longer read early: its latch returns to THREAD (R285, R289). DEDUCED (log 47). -/
def dropEarlySlot (tm : Team) (slot : Nat) : Team :=
  { tm with early := aFilter (fun o _ => decide (o / 1024 ≠ slot)) tm.early }

/-- The values after the last one that was written over by a write that meets `p`: channel and position. -/
def afterWrite (p : Nat → Nat → Bool) : List (Nat × Nat × Byte) → List (Nat × Nat × Byte)
  | [] => []
  | x :: xs => if (x :: xs).any fun y => p y.1 y.2.1 then afterWrite p xs else x :: xs

/-- What channel `ch` has written to the bytes `p` is complete: nothing older is read there (R289). DEDUCED (log 47). -/
def dropEarly (tm : Team) (ch : Nat) (p : Nat → Bool) : Team :=
  let left := aMap (fun o x => if p o then afterWrite (fun c _ => c == ch) x else x) tm.early
  { tm with early := aFilter (fun _ x => !x.isEmpty) left }

/-- A thread's place in `Team.observed`. -/
def observedKey (band lane ch : Nat) : Nat := (band * 32 + lane) * 4 + ch

/-- Threads have observed the first `n` bytes of a channel (R289). -/
def observe (tm : Team) (band : Nat) (lanes : List Nat) (ch n : Nat) : Team :=
  let see := fun (m : AList Nat) (l : Nat) =>
    let k := observedKey band l ch
    aSet 0 k (max n (aGet 0 k m)) m
  { tm with observed := lanes.foldl see tm.observed }

/-- The count of a channel's bytes that some of the threads have observed. -/
def observedBy (tm : Team) (band : Nat) (lanes : List Nat) (ch : Nat) : Nat :=
  lanes.foldl (fun n l => max n (aGet 0 (observedKey band l ch) tm.observed)) 0

/-- A byte lies in one of some ranges. -/
def inRanges (rs : List (Nat × Nat)) (o : Nat) : Bool := rs.any fun r => decide (r.1 ≤ o ∧ o < r.1 + r.2)

/-- A write at the stash by an engine command: the entries change at its completion (R341), on a window slot at once
(R342). -/
def stashWriteEngine (s : State) (k ch off : Nat) (bs : List Byte) : State :=
  let s := touchStash s k off bs.length true
  match teamOf s k with
  | some tm =>
    let tm := keepEarly tm ch (aGet {} ch tm.channels).cwp.toNat off bs.length
    setTeam s k { tm with stash := writeBytes 0 tm.stash off bs }
  | none => s

/-- The stash offset of a physical address in a window. -/
def windowOff (e : MapEntry) (w : Window) (a : Nat) : Nat := e.first * 1024 + (a - w.base)

/-! ### Accesses routed by address -/

/-- A plain read of a physical range that lies in one line. -/
def readPhys (s : State) (ag : Agent) (na : Bool) (a n : Nat) : List Byte × State :=
  match windowAt s a with
  | some (k, _, e, w) => stashRead s k (windowOff e w a) n
  | none => loadBytes s ag na a n

/-- A plain write of a physical range that lies in one line. -/
def writePhys (s : State) (ag : Agent) (na : Bool) (a : Nat) (bs : List Byte) : State :=
  match windowAt s a with
  | some (k, _, e, w) => stashWrite s k (windowOff e w a) bs
  | none => storeBytes s ag na a bs

/-- A read of an agent by the window or at home only (R379, R385). -/
def readHome (s : State) (a n : Nat) : List Byte × State :=
  match windowAt s a with
  | some (k, _, e, w) => stashRead s k (windowOff e w a) n
  | none => (homeRead s a n, s)
def writeHome (s : State) (a : Nat) (bs : List Byte) : State :=
  match windowAt s a with
  | some (k, _, e, w) => stashWrite s k (windowOff e w a) bs
  | none => homeWrite s a bs

/-- Write-back of the dirty granules of window `m` of team `k` (R241, R264): bytes to home, reviving a DISCARDED page;
granules on a LOST page are discarded. The lowest virtual address of a discarded granule is returned. Where the entry
of a DISCARDED page names another page than at registration, that page is revived and the bytes go to the registered
region. DESIGN CHOICE (log 101). DESIGN CHOICE (log 101). -/
def writeBackWindow (s : State) (k m : Nat) : Option Nat × State :=
  match teamOf s k with
  | none => (none, s)
  | some tm =>
    match aFind m tm.maps with
    | none => (none, s)
    | some e => match e.win with
      | none => (none, s)
      | some w =>
        let clean := fun s : State => match teamOf s k with
          | some tm => setTeam s k { tm with maps := aInsert m { e with win := some { w with dirty := 0 } } tm.maps }
          | none => s
        let gs := (List.range (8 * e.count)).filter fun g => w.dirty.testBit g
        match gs with
        | [] => (none, s)
        | g0 :: _ =>
          let leaf := walk s tm.ctx w.va
          let lost := pageLost s (w.base / 65536) && decide (w.base < sysBase) ||
            (match leaf with | .ok l => l.state == 3 | .error _ => false)
          if lost then (some (w.va + 128 * g0), clean s)
          else
            let s := match leaf with
              | .ok l => if l.state = 2 then revivePage s l else s
              | .error _ => s
            let s := gs.foldl (fun s g =>
              let off := e.first * 1024 + 128 * g
              noteGranule (homeWrite s (w.base + 128 * g) (readBytes 0 tm.stash off 128)) k tm off false) s
            (none, clean s)

/-- Write-back and invalidation of a range of physical bytes in every cache of the package (R242). -/
def flushRange (s : State) (base n : Nat) : State :=
  let inR := fun a : Nat => decide (base ≤ a ∧ a < base + n)
  let push := fun (s : State) (l : Level) (next : List Level) =>
    ((levelMap s l).filter fun e => inR e.1).foldl (fun s e =>
      discardByte e.1 [l] 1 (cleanByte e.1 (l :: next.filter fun l2 => match l2 with
        | .link h => remote s h e.1
        | _ => true) 1 s)) s
  let s := s.cores.foldl (fun s c => push s (.l1 c.1) [.cluster (clusterOfCore c.1), .link (hingeOfCore c.1)]) s
  let s := s.clusters.foldl (fun s c =>
    let dirty := (((clusterOf s c.1).cache.filter fun e => inR e.1 && e.2.dirty).map fun e => e.1 / 128).eraseDups
    countBacks (push s (.cluster c.1) [.link (hingeOfCluster c.1)]) c.1 dirty.length) s
  s.hinges.foldl (fun s h => push s (.link h.1) []) s

/-- The pages `p` of a context made invalid in TLB entries. -/
def dropPages (ctx : Nat) (p : Nat → Bool) (m : List TlbEntry) : List TlbEntry :=
  let clear := fun e : TlbEntry =>
    if e.ctx = ctx then
      { e with mask := e.mask &&& ~~~ BitVec.ofNat 16 (laneMask ((List.range 16).filter fun i => p (e.group * 16 + i))) }
    else e
  (m.map clear).filter fun e => e.mask != 0

/-- The translations of the pages `p` of a context dropped from every cluster and sequencer TLB. -/
def dropTlb (s : State) (ctx : Nat) (p : Nat → Bool) : State :=
  { s with clusters := aMap (fun _ c => { c with tlb := dropPages ctx p c.tlb }) s.clusters
           hinges := aMap (fun _ h => { h with tlb := dropPages ctx p h.tlb }) s.hinges }

end Sys2Proof.Machine
end

