-- ==== Sys2Proof/Machine/Pending.lean ====
section
/-! DEFINITION. Memory operations that have issued: their order (09 R271), the reads, writes and atomic steps that perform them
(R269, R292), what they reach and use. -/

namespace Sys2Proof.Machine

/-! ### Widths -/

def widthBytes : Width → Nat
  | .n8 | .i8 => 1
  | .n16 | .i16 => 2
  | .n32 => 4
  | .n64 => 8
def widthSigned : Width → Bool
  | .i8 | .i16 => true
  | .n8 | .n16 | .n32 | .n64 => false

/-! ### What an operation is -/

/-- The location and length that an operation reads or writes. -/
def PendKind.access : PendKind → Option (Loc × Nat)
  | .load loc w .. => some (loc, widthBytes w)
  | .store loc n .. => some (loc, n)
  | .atomic _ loc n .. => some (loc, n)
  | .krel _ _ loc .. => some (loc, 8)
  | .fence .. | .clean .. | .pref .. | .latg .. | .tarv .. | .post _ => none

def PendKind.reads : PendKind → Bool
  | .load .. | .atomic .. | .krel .. => true
  | .store .. | .fence .. | .clean .. | .pref .. | .latg .. | .tarv .. | .post _ => false
def PendKind.writes : PendKind → Bool
  | .store .. | .atomic .. | .krel .. => true
  | .load .. | .fence .. | .clean .. | .pref .. | .latg .. | .tarv .. | .post _ => false
/-- An acquire operation of R271's table. -/
def PendKind.acquires : PendKind → Bool
  | .load _ _ _ acq _ => acq.isSome
  | .atomic _ _ _ _ _ _ ord _ _ => ord == .acq || ord == .ar
  | .fence k _ => k == .acq || k == .sc
  | .store .. | .clean .. | .pref .. | .krel .. | .latg .. | .tarv .. | .post _ => false
/-- A release operation of R271's table. -/
def PendKind.releases : PendKind → Bool
  | .store _ _ _ rel _ => rel.isSome
  | .atomic _ _ _ _ _ _ ord _ _ => ord == .rel || ord == .ar
  | .fence k _ => k == .rel || k == .sc
  | .krel .. | .latg .. | .tarv .. | .post _ => true
  | .load .. | .clean .. | .pref .. => false

/-- The team of an agent. -/
def agentTeam : Agent → Option Nat
  | .thread _ t _ | .engine _ t _ => some t
  | .hub .. | .stream .. | .host => none

/-- Where a location stands now. -/
inductive Place where
  /-- A team's stash. -/
  | stash (team off : Nat)
  | mem (a : Nat)
  /-- Zeros: a read of a DISCARDED page. -/
  | zeros
  /-- A DISCARDED page that a write revives, and the physical address. -/
  | revive (l : Leaf) (a : Nat)
  /-- Nowhere: the page went away after issue. -/
  | gone
  deriving DecidableEq, Repr

/-- A physical address in memory or in a registered window (R241); a page that has become LOST is nowhere (R248). -/
def placePhys (s : State) (a : Nat) : Place :=
  match windowAt s a with
  | some (k, _, e, w) => .stash k (windowOff e w a)
  | none => if decide (a < sysBase) && pageLost s (a / 65536) then .gone else .mem a

/-- The place of an access that walks again (R227). -/
def placeAgain (s : State) (ctx va : Nat) (write : Bool) : Place :=
  match walk s ctx va with
  | .error _ => .gone
  | .ok l =>
    let a := physOf l va
    match placePhys s a with
    | .mem a =>
      if l.state = 0 then .mem a
      else if l.state = 2 then (if write then .revive l a else .zeros)
      else .gone
    | p => p

/-- The place of a location as it is performed. A page that was discarded since issue is walked again. -/
def placeOf (s : State) (ag : Agent) (loc : Loc) (write : Bool) : Place :=
  match loc with
  | .stash off => match agentTeam ag with | some k => .stash k off | none => .gone
  | .again va => placeAgain s (agentCtx ag) va write
  | .phys a va =>
    match placePhys s a with
    | .mem a => if isDiscarded s (agentCtx ag) va then placeAgain s (agentCtx ag) va write else .mem a
    | p => p

/-- A place as a range of one numbered space: 0 the global bytes, team + 1 a stash. -/
def placeRange (s : State) (ag : Agent) (loc : Loc) (n : Nat) : Option (Nat × Nat × Nat) :=
  match placeOf s ag loc true with
  | .stash k off => some (k + 1, off, n)
  | .mem a | .revive _ a => some (0, a, n)
  | .zeros | .gone => none

def rangesMeet (x y : Option (Nat × Nat × Nat)) : Bool :=
  match x, y with
  | some (p, a, n), some (q, b, m) => p == q && decide (a < b + m) && decide (b < a + n)
  | _, _ => false

/-- The bytes that an operation accesses, as ranges. -/
def opRanges (s : State) (o : PendOp) : List (Nat × Nat × Nat) :=
  match o.kind with
  | .clean _ _ ranges all => if all then [(0, 0, 2 ^ 112)] else ranges.map fun r => (0, r.1, r.2)
  | k => match k.access with
    | some (loc, n) => (placeRange s o.agent loc n).toList
    | none => []

/-- Whether two operations access a common byte. -/
def opsMeet (s : State) (x y : PendOp) : Bool :=
  (opRanges s x).any fun p => (opRanges s y).any fun q => rangesMeet (some p) (some q)

/-- An operation on stash bytes. -/
def onStashBytes (s : State) (o : PendOp) : Bool :=
  match o.kind.access with
  | some (loc, _) => match placeOf s o.agent loc true with | .stash .. => true | _ => false
  | none => false

/-- An operation that a release operation of the same thread follows (R271): any; of a LATG's threads with a false guard, one on the
stash (R287). -/
def releaseAfter (s : State) (x y : PendOp) : Bool :=
  match y.kind with
  | .latg _ live => (x.lanes.any fun i => live.testBit i) || onStashBytes s x
  | k => k.releases

/-- R271, with the lane order of R252 and R293 for the lanes of one instruction. DESIGN CHOICE (log 13).
DESIGN CHOICE (log 13). -/
def mustPrecede (s : State) (x y : PendOp) : Bool :=
  x.issuer == y.issuer &&
  if x.seq = y.seq then
    x.kind.writes && y.kind.writes && decide (laneMask x.lanes < laneMask y.lanes) && opsMeet s x y
  else if x.seq < y.seq && x.lanes.any fun i => y.lanes.contains i then
    x.kind.acquires || releaseAfter s x y
      || (x.kind.reads && (match y.kind with | .fence .acq _ => true | _ => false))
      || ((match x.kind with | .fence .rel _ => true | _ => false) && y.kind.writes)
      || opsMeet s x y
  else false

/-- A remote access to a granule of an ENGINE slot waits (R241). -/
def opBlocked (s : State) (o : PendOp) : Bool :=
  match o.kind.access with
  | none => false
  | some (loc, _) =>
    match placeOf s o.agent loc true with
    | .stash k off =>
      (agentTeam o.agent != some k) &&
        (match teamOf s k with | some tm => (latchOf tm (off / 1024)).engine | none => false)
    | .mem _ | .revive .. | .zeros | .gone => false

/-- The operation with index `i` may be performed now. DESIGN CHOICE (log 13). DESIGN CHOICE (log 13). -/
def mayPerform (s : State) (i : Nat) : Bool :=
  match s.pending[i]? with
  | none => false
  | some o => !opBlocked s o && !s.pending.any fun x => mustPrecede s x o

/-! ### Delivery -/

/-- The words of a value in registers `r` upward. -/
def wrWords : Nat → Thread → Nat → Nat → Thread
  | 0, t, _, _ => t
  | n + 1, t, r, v => wrWords n (wrV t r (BitVec.ofNat 32 v)) (r + 1) (v / 2 ^ 32)

/-- Soft-error marks without those of `n` registers of some lanes, which are written (R427). -/
def clearMarks (m : AList EccMark) (lanes : List Nat) (r n : Nat) : AList EccMark :=
  aFilter (fun w _ => !(decide (r ≤ w / 32 ∧ w / 32 < r + n) && lanes.contains (w % 32))) m

/-- A value of `n` bytes in the destination, extended to 32 bits for a vector register, to 64 for a scalar one (R251). -/
def deliver (s : State) (o : PendOp) (dst : Dest) (n : Nat) (signed : Bool) (v : Nat) : State :=
  match dst with
  | .vec r =>
    match bandOf s o.issuer with
    | none => s
    | some b =>
      let put := fun (_ : Nat) (t : Thread) =>
        if n ≤ 4 then wrV t r (BitVec.ofInt 32 (readInt signed (8 * n) v)) else wrWords (n / 4) t r v
      setBand s o.issuer { onLanes b o.lanes put with vEcc := clearMarks b.vEcc o.lanes r (max 1 (n / 4)) }
  | .sca r =>
    let x := BitVec.ofInt 64 (readInt signed (8 * n) v)
    match o.agent with
    | .stream h _ =>
      let i := (o.issuer - 2 ^ 20) % Config.streams
      setStream s h i (wrStream (streamOf s h i) r x)
    | _ =>
      match bandOf s o.issuer with
      | none => s
      | some b => setBand s o.issuer (wrS b r x)

/-! ### Lines (R230, R234, R270) -/

/-- The level below, for a byte, on the path of the level's agents. -/
def belowLevel (s : State) (l : Level) (a : Nat) : Option Level :=
  match l with
  | .l1 c => some (.cluster (clusterOfCore c))
  | .cluster n => if remote s (hingeOfCluster n) a then some (.link (hingeOfCluster n)) else none
  | .link _ => none

/-- A physical page pinned in a cluster (R235). DEDUCED (log 45). -/
def pinnedIn (s : State) (cluster page : Nat) : Bool :=
  s.teams.any fun t => clusterOfCore t.2.core == cluster && t.2.pins.contains page

/-- Whether a level may give up a byte: home never, a pinned line never (R235). DEDUCED (log 45). -/
def mayDiscard (s : State) (l : Level) (a : Nat) : Bool :=
  match l with
  | .cluster n => !pinnedIn s n (a / 65536)
  | _ => true

/-- Every dirty byte of a line written down, the copies left clean or discarded. -/
def writebackLine (s : State) (l : Level) (line : Nat) (discard : Bool) : State :=
  (addrRange (line / 128 * 128) 128).foldl (fun s a =>
    match copyAt s l a with
    | some c =>
      if c.dirty then
        let s := cleanByte a (l :: (belowLevel s l a).toList) 1 s
        if discard && mayDiscard s l a then dropCopy s l a else s
      else s
    | none => s) s

/-- The clean copies of a line dropped, pinned lines apart (R235, R270). -/
def dropLine (s : State) (l : Level) (line : Nat) : State :=
  if mayDiscard s l (line / 128 * 128) then
    setLevel s l (aFilter (fun a c => !(decide (a / 128 = line / 128) && !c.dirty)) (levelMap s l))
  else s

/-- A level holds a dirty byte of a line. -/
def lineDirty (s : State) (l : Level) (line : Nat) : Bool :=
  (aRange (line / 128 * 128) 128 (levelMap s l)).any fun e => e.2.dirty

/-- A line written back, and the cluster cache's count of write-backs (R454). -/
def writebackCounted (s : State) (l : Level) (line : Nat) (discard : Bool) : State :=
  let s' := writebackLine s l line discard
  match l with
  | .cluster n => if lineDirty s l line then countBacks s' n 1 else s'
  | _ => s'

/-- A line written back and given up. -/
def evictLine (s : State) (l : Level) (line : Nat) : State := dropLine (writebackCounted s l line true) l line

/-- The victim among lines with their retention levels and last uses: of the lowest level, the least recently used (R234). -/
def victimOf : List (Nat × Nat × Nat) → Option (Nat × Nat × Nat)
  | [] => none
  | x :: xs => match victimOf xs with
    | none => some x
    | some y => some (if y.2.1 < x.2.1 ∨ (y.2.1 = x.2.1 ∧ y.2.2 < x.2.2) then y else x)

/-- Lines of a level evicted until no more than `cap` of them are left. -/
def trimLines (l : Level) (cap : Nat) : Nat → List (Nat × Nat × Nat) → State → State
  | 0, _, s => s
  | fuel + 1, ls, s =>
    if ls.length ≤ cap then s
    else match victimOf ls with
      | none => s
      | some v => trimLines l cap fuel (ls.filter fun x => x.1 != v.1) (evictLine s l (v.1 * 128))

/-- The lines of an L1: 256 KiB (R230). The rule gives no ways; any line may be the victim. DEDUCED (log 45).
DEDUCED (log 45). -/
def l1Lines : Nat := 2048

/-- The ways of a cluster cache's set that its pins leave: 16 less one for each pinned page with a line there (R231, R235). -/
def freeWays (s : State) (n set : Nat) : Nat :=
  16 - (((s.teams.filter fun t => clusterOfCore t.2.core == n).flatMap (·.2.pins)).eraseDups.filter fun p => p % 8 == set / 512).length

/-- Room for one more line in an L1: victims among the lines that it has (R234). DEDUCED (log 45). -/
def roomL1 (s : State) (core : Nat) : State :=
  let ls := (coreOf s core).lines.map fun e => (e.1, e.2.level, e.2.used)
  let s := trimLines (.l1 core) (l1Lines - 1) ls.length ls s
  if ls.length < l1Lines then s
  else setCore s core { coreOf s core with lines := aFilter (fun k _ => holdsLine s (.l1 core) (k * 128)) (coreOf s core).lines }

/-- Room for one more line in a set of a cluster cache (R234). -/
def roomCluster (s : State) (n line : Nat) : State :=
  if pinnedIn s n (line / 512) then s
  else
    let ls := ((clusterOf s n).lines.filter fun e => e.1 % 4096 == line % 4096 && !pinnedIn s n (e.1 / 512)).map fun e =>
      (e.1, e.2.level, e.2.used)
    let cap := freeWays s n (line % 4096)
    if ls.length < cap then s
    else
      let s := trimLines (.cluster n) (cap - 1) ls.length ls s
      setCluster s n { clusterOf s n with lines := aFilter (fun k _ => holdsLine s (.cluster n) (k * 128)) (clusterOf s n).lines }

/-- The retention level of a hint; none for .na (R234). -/
def retention : Hint → Option Nat
  | .ef => some 0 | .normal => some 1 | .el => some 2 | .na => none

/-- The level of a line after an access with a hint. -/
def raised (level : Nat) (h : Hint) : Nat := match retention h with | some n => max level n | none => level

/-- A store by this name may write the line: its page is RESIDENT there with W 1. -/
def mayWrite (s : State) (ctx va a : Nat) : Bool :=
  match walk s ctx va with
  | .ok l => l.w && l.state == 0 && physOf l va == a
  | .error _ => false

/-- A line that the L1 holds under another name is written back and invalidated (R230). -/
def renameLine (s : State) (core ctx a va : Nat) : State :=
  match aFind (a / 128) (coreOf s core).lines with
  | none => s
  | some x =>
    if x.ctx = ctx ∧ x.name = va / 128 then s
    else
      let s := evictLine s (.l1 core) a
      setCore s core { coreOf s core with lines := aErase (a / 128) (coreOf s core).lines }

/-- An access has used a line that the L1 now holds: its name, level and last use; a new line takes the place of a victim among
the others (R234). DEDUCED (log 45). -/
def useL1 (s : State) (core ctx a va : Nat) (h : Hint) : State :=
  if !holdsLine s (.l1 core) a then s
  else
    let old := aFind (a / 128) (coreOf s core).lines
    let s := if old.isSome then s else roomL1 s core
    let c := coreOf s core
    let x : L1Line := match old with
      | some x => { x with level := raised x.level h, used := s.now }
      | none => { ctx := ctx, name := va / 128, w := mayWrite s ctx va a, level := (retention h).getD 1, used := s.now }
    setCore s core { c with lines := aInsert (a / 128) x c.lines }

/-- The same of a cluster cache's line. -/
def useCluster (s : State) (n a : Nat) (h : Hint) : State :=
  if !holdsLine s (.cluster n) a then s
  else
    let old := aFind (a / 128) (clusterOf s n).lines
    let s := if old.isSome then s else roomCluster s n (a / 128)
    let c := clusterOf s n
    let x : CacheLine := match old with
      | some x => { level := raised x.level h, used := s.now }
      | none => { level := (retention h).getD 1, used := s.now }
    setCluster s n { c with lines := aInsert (a / 128) x c.lines }

/-- An agent's access has used the line of a byte in the caches of its path (R234). -/
def useLine (s : State) (ag : Agent) (a va : Nat) (h : Hint) : State :=
  match ag with
  | .thread core _ ctx => useCluster (useL1 s core ctx a va h) (clusterOfCore core) a h
  | .engine core _ _ => useCluster s (clusterOfCore core) a h
  | .hub .. | .stream .. | .host => s

/-- The same of an atomic at a scope: its hint has no effect at the point itself (R296). -/
def useAtomic (s : State) (ag : Agent) (sc : Scope) (a va : Nat) (h : Hint) : State :=
  match ag with
  | .thread core _ ctx =>
    match sc with
    | .team => useCluster (useL1 s core ctx a va .na) (clusterOfCore core) a h
    | .cluster => useCluster (useL1 s core ctx a va h) (clusterOfCore core) a .na
    | .hinge | .package | .system => useLine s ag a va h
  | _ => useLine s ag a va h

/-! ### Performing -/

/-- The element size of a type code. -/
def codeBytes (c : Nat) : Nat := match tyOfCode c with | some t => tyBytes t | none => 1
def Desc.es (d : Desc) : Nat := codeBytes d.ty
def Desc.dim (d : Desc) (i : Nat) : Nat := d.dims.getD i 0
def Desc.stride (d : Desc) (i : Nat) : Int := d.strides.getD i 0

/-- Box element number `pos` in loop order: coordinates and stash offset (R371). -/
def boxElem (es : Nat) (origin ext : List Nat) (off pitch pos : Nat) : List Nat × Nat :=
  let e := fun i => ext.getD i 1
  let i0 := pos % e 0
  let i1 := pos / e 0 % e 1
  let i2 := pos / (e 0 * e 1) % e 2
  let i3 := pos / (e 0 * e 1 * e 2)
  ([origin.getD 0 0 + i0, origin.getD 1 0 + i1, origin.getD 2 0 + i2, origin.getD 3 0 + i3],
   off + es * i0 + pitch * (i1 + e 1 * (i2 + e 2 * i3)))
def boxCount (ext : List Nat) : Nat := ext.foldl (· * ·) 1

/-- An element's coordinates lie in bounds (R361). -/
def inBounds (d : Desc) (xs : List Nat) : Bool :=
  (List.range 4).all fun i => if i < d.rank then decide (xs.getD i 0 < d.dim i) else xs.getD i 0 == 0

/-- The address of an element (R361). -/
def elemAddr (d : Desc) (xs : List Nat) : Nat :=
  let sum := ((List.range d.rank).map fun i => (xs.getD i 0 : Int) * d.stride i).foldl (· + ·) 0
  wrapNat 64 (d.base + d.es * sum)

/-- A byte of a virtual address as an agent's plain read would return it now; none where it would fault or wait. -/
def peekByte (s : State) (ag : Agent) (va : Nat) : Option Byte :=
  if Config.vaLimit ≤ va then none
  else match placeAgain s (agentCtx ag) va false with
    | .mem a => some (lookByte s a (path s ag a) 0).1
    | .zeros => some 0
    | .stash k off => match teamOf s k with
      | some tm => if (latchOf tm (off / 1024)).engine || (fillFault s tm off 1 false 0).isSome then none
          else some (aGet 0 off (touchStash s k off 1 false |> fun s => (teamOf s k).elim [] (·.stash)))
      | none => none
    | .revive .. | .gone => none

/-- The value that a command has still to write to a byte of the stash, read from its source now: the data of a box or a row. A status
word and the rows of an EMBAG are not read ahead. DEDUCED (log 47). -/
def Command.toCome (s : State) (c : Command) (core o : Nat) : Option Byte :=
  let ag : Agent := .engine core c.team c.ctx
  let es := c.desc.es
  let value := fun (xs : List Nat) (j : Nat) => if inBounds c.desc xs then peekByte s ag (elemAddr c.desc xs + j) else some 0
  if c.ended.isSome then none
  else match c.kind with
  | .box false origin ext off pitch =>
    ((List.range (boxCount ext - c.pos)).map fun i => boxElem es origin ext off pitch (c.pos + i)).findSome? fun e =>
      if e.2 ≤ o ∧ o < e.2 + es then value e.1 (o - e.2) else none
  | .rows false c0 c2 c3 e0 off pitch elems =>
    ((elems.drop c.pos).takeWhile fun e => e.2.2.isSome).findSome? fun e =>
      let at_ := off + e.1 * pitch
      match e.2.2 with
      | some x => if at_ ≤ o ∧ o < at_ + e0 * es then value [c0 + (o - at_) / es, x, c2, c3] ((o - at_) % es) else none
      | none => none
  | .box true .. | .rows true .. | .move .. | .embag .. => none

/-- Values that outstanding commands of a team have still to write to a byte of an ENGINE slot, with channel and sequence number. -/
def toCome (s : State) (tm : Team) (team o : Nat) : List (Nat × DWord × Byte) :=
  if !(latchOf tm (o / 1024)).engine then []
  else (coreOf s tm.core).channels.flatMap fun q => (q.2.queue ++ q.2.chain).filterMap fun c =>
    if c.team != team then none
    else ((aFind o c.ahead).or (c.toCome s tm.core o)).map fun v => (q.1, c.seq, v)

/-- A command's byte has been read early: it is what the command writes there. -/
def noteAhead (s : State) (core team ch : Nat) (seq : DWord) (o : Nat) (v : Byte) : State :=
  let see := fun (c : Command) => if c.team == team && c.seq == seq then { c with ahead := aInsert o v c.ahead } else c
  let co := coreOf s core
  let q := aGet {} ch co.channels
  setCore s core { co with channels := aInsert ch { q with queue := q.queue.map see, chain := q.chain.map see } co.channels }

/-- A place in `State.picks`. -/
def pickKey (team o : Nat) : Nat := team * 2 ^ 32 + o

/-- A read by threads of their own team's stash: a byte of an ENGINE slot may read as it was before the writes of outstanding
commands that none of the threads has observed, as any of them has left it, or as one has still to write it (R289). In one step each
byte is chosen once. DEDUCED (log 47). -/
def earlyBytes (tm : Team) (team band : Nat) (lanes : List Nat) : Nat → State → List Byte → List Byte × State
  | _, s, [] => ([], s)
  | off, s, b :: bs =>
    let (v, s) := match aFind (pickKey team off) s.picks with
      | some v => (v, s)
      | none =>
        let old := afterWrite (fun ch k => decide (k < observedBy tm band lanes ch)) (aGet [] off tm.early)
        let ahead := toCome s tm team off
        let (c, s) := choose s (1 + old.length + ahead.length)
        let (v, s) := match ahead[c - 1 - old.length]? with
          | some (ch, seq, v) => if c < 1 + old.length then ((b :: old.map (·.2.2)).getD c b, s) else (v, noteAhead s tm.core team ch seq off v)
          | none => ((b :: old.map (·.2.2)).getD c b, s)
        (v, if old.isEmpty && ahead.isEmpty then s else { s with picks := aInsert (pickKey team off) v s.picks })
    let (vs, s) := earlyBytes tm team band lanes (off + 1) s bs
    (v :: vs, s)

/-- A hit or a miss of a cluster cache (R454), and the promotion counter of a missed page (R247). -/
def countCluster (s : State) (k a : Nat) (hit : Bool) : State :=
  let c := clusterOf s k
  if hit then setCluster s k { c with hits := c.hits + 1 }
  else
    let s := setCluster s k { c with misses := c.misses + 1 }
    let v := aGet 0 (a / 65536) s.promo
    { s with promo := aSet 0 (a / 65536) (if v = BitVec.allOnes 8 then v else v + 1) s.promo }

/-- The cluster cache that an agent's access to a line passes to: none when the L1 serves it. -/
def clusterPassed (ag : Agent) (inL1 : Nat → Bool) : Option Nat :=
  match ag with
  | .thread c _ _ => if inL1 c then none else some (clusterOfCore c)
  | .engine c _ _ => some (clusterOfCore c)
  | .hub .. | .stream .. | .host => none

/-- The counters of a read that passes the L1. -/
def countRead (s : State) (ag : Agent) (a n : Nat) : State :=
  match clusterPassed ag fun c => (addrRange a n).all fun x => (copyAt s (.l1 c) x).isSome with
  | none => s
  | some k => countCluster s k a ((addrRange a n).all fun x => (copyAt s (.cluster k) x).isSome)

/-- The counters of a plain write that the L1 does not take (R269). -/
def countWrite (s : State) (ag : Agent) (na : Bool) (a : Nat) : State :=
  match clusterPassed ag fun c => !na || (copyAt s (.l1 c) a).isSome with
  | none => s
  | some k => countCluster s k a (holdsLine s (.cluster k) a)

/-- The counters of an atomic performed at an L1 without the line, or at a cluster cache. -/
def countAtomic (s : State) (ag : Agent) (sc : Scope) (a : Nat) : State :=
  match clusterPassed ag fun c => sc == .team && holdsLine s (.l1 c) a with
  | none => s
  | some k => if sc = .team ∨ sc = .cluster then countCluster s k a (holdsLine s (.cluster k) a) else s

/-- A read at a place (R269). DEDUCED (log 46). -/
def readPlace (s : State) (ag : Agent) (na : Bool) (p : Place) (n : Nat) : List Byte × State :=
  match p with
  | .stash k off => stashRead s k off n
  | .mem a => loadBytes (countRead s ag a n) ag na a n
  | .zeros | .revive .. | .gone => (List.replicate n 0, s)

/-- A read at a place by threads of a band, which may read a slot of their team early (R289). -/
def readBy (s : State) (ag : Agent) (band : Nat) (lanes : List Nat) (na : Bool) (p : Place) (n : Nat) : List Byte × State :=
  let (bs, s) := readPlace s ag na p n
  match p, ag with
  | .stash k off, .thread _ team _ =>
    if team = k then
      match teamOf s k with
      | some tm => earlyBytes tm k band lanes off s bs
      | none => (bs, s)
    else (bs, s)
  | _, _ => (bs, s)

/-- A write at a place: plain, or a release at its scope (R269). -/
def writePlace (s : State) (ag : Agent) (na : Bool) (rel : Option Scope) (p : Place) (bs : List Byte) : State :=
  let put := fun (s : State) (a : Nat) => match rel with
    | some sc => releaseWrite (if sc = .cluster then countAtomic s ag sc a else s) ag sc a bs
    | none => storeBytes (countWrite s ag na a) ag na a bs
  match p with
  | .stash k off => stashWrite s k off bs
  | .mem a => put s a
  | .revive l a => put (revivePage s l) a
  | .zeros | .gone => s

/-- The step of an atomic at its scope's point (R292): the old value, and the new one written when there is one. -/
def pointStep (s : State) (ag : Agent) (sc : Scope) (a n : Nat) (f : Nat → Option Nat) : Nat × State :=
  let s := countAtomic s ag sc a
  let s := discardAddrs (cleanAddrs s ag sc (addrRange a n)) ag sc (addrRange a n)
  let (bs, s) := pointReads (pointLine s ag sc a) ag sc a n
  let old := leNat bs
  match f old with
  | some v => (old, pointWrites s ag sc a (leBytes n v))
  | none => (old, s)

/-- The step of an atomic at a place: at the stash, or at the point. -/
def placeStep (s : State) (ag : Agent) (sc : Scope) (p : Place) (n : Nat) (f : Nat → Option Nat) : Nat × State :=
  match p with
  | .stash k off =>
    let (bs, s) := stashRead s k off n
    let old := leNat bs
    match f old with
    | some v => (old, stashWrite s k off (leBytes n v))
    | none => (old, s)
  | .mem a => pointStep s ag sc a n f
  | .revive l a => pointStep (revivePage s l) ag sc a n f
  | .zeros | .gone => (0, s)

/-- The formats of ATOMF (R297). -/
def atomfFmt : AtomfTy → Fmt
  | .f32 => fmtF32 | .f64 => fmtF64 | .f16x2 => fmtF16 | .bf16x2 => fmtBf16
def atomfFTy : AtomfTy → FTy
  | .f32 => .f32 | .f64 => .f64 | .f16x2 => .f16x2 | .bf16x2 => .bf16x2
def atomfBytes : AtomfTy → Nat
  | .f64 => 8 | .f32 | .f16x2 | .bf16x2 => 4

/-- One element of ATOMF; its conditions are discarded (R298). -/
def atomfElem (op : AtomfOp) (f : Fmt) (old a : Nat) : Nat :=
  match op with
  | .add => (fRound (fAdd .rne (decodeFmt f old) (decodeFmt f a)) f .rne 0).1
  | .min => (fMinMax f false false old a).1
  | .max => (fMinMax f true false old a).1

/-- The function of an atomic on `n` bytes: what is written, if anything (R298). -/
def atomNew (fn : AtomFn) (n a cmp old : Nat) : Option Nat :=
  let w := 8 * n
  match fn with
  | .int .add => some ((old + a) % 2 ^ w)
  | .int .and => some (Nat.land old a)
  | .int .or => some (Nat.lor old a)
  | .int .exch => some a
  | .int .umin => some (min old a)
  | .int .umax => some (max old a)
  | .int .smin => some (if readInt true w a < readInt true w old then a else old)
  | .int .smax => some (if readInt true w old < readInt true w a then a else old)
  | .flt op .f16x2 | .flt op .bf16x2 =>
    let f := match fn with | .flt _ ty => atomfFmt ty | _ => fmtF16
    some (atomfElem op f (old % 65536) (a % 65536) + 65536 * atomfElem op f (old / 65536) (a / 65536))
  | .flt op ty => some (atomfElem op (atomfFmt ty) old a)
  | .cas => if old = cmp then some a else none

/-- A line of 128 bytes brought into the caches for a prefetch (R257). -/
def prefetchLine (s : State) (ag : Agent) (cc na : Bool) (a : Nat) : State :=
  let line := a / 128 * 128
  match windowAt s line with
  | some _ => s
  | none =>
    let ag := if cc then match ag with | .thread c t x => .engine c t x | g => g else ag
    (loadBytes (countRead s ag line 128) ag na line 128).2

/-- The access of an operation as the watchpoints see it (R443); of a stream's, what is served at a window. -/
def seenOp (s : State) (o : PendOp) : Option Seen :=
  match o.kind.access with
  | none => none
  | some (loc, n) =>
    let stash := match placeOf s o.agent loc o.kind.writes with | .stash k off => some (k, off) | _ => none
    let va := match o.agent, loc with
      | .stream .., _ => none
      | _, .phys _ va | _, .again va => some va
      | _, .stash _ => none
    let core := match o.agent with | .thread c _ _ | .engine c _ _ => c | .hub .. | .stream .. | .host => 0
    let band := match o.agent with | .thread .. => some o.issuer | _ => none
    some { ctx := agentCtx o.agent, core := core, band := band, instr := some o.seq, lane := o.lanes.headD 0, va := va
           stash := stash, len := n, read := o.kind.reads, write := o.kind.writes
           atomic := (match o.kind with | .atomic .. | .krel .. => true | _ => false), engine := false, pc := o.pc }

/-- The access noted. -/
def noteOp (s : State) (o : PendOp) : State :=
  match seenOp s o with
  | some x => note s x
  | none => s

/-! ### Levels reached, and the energy of lines (R456, R458) -/

/-- LEVEL of R456 for a home, and the bridges to it. -/
def homeReach (s : State) (hinge a : Nat) : Nat × Nat :=
  if sysBase ≤ a then (7, 0)
  else
    let h := homeOfPage s (a / 65536)
    (if h < 16 then 4 else 5, bridges hinge (hingeOfHome h))

/-- LEVEL and bridges of one byte: a read reaches the first level of its path that holds a copy, a write the level it is
written at; `sc` is the scope of an access at its point. -/
def byteReach (s : State) (ag : Agent) (sc : Option Scope) (write na : Bool) (a : Nat) : Nat × Nat :=
  let p := match sc with
    | some sc => let (p, n) := pathAbove s ag sc a; p.drop n
    | none => path s ag a
  let p := if write then (if na && sc.isNone && (p.head?.elim false fun l => (copyAt s l a).isNone) then p.drop 1 else p)
    else p.filter fun l => (copyAt s l a).isSome
  match p with
  | l :: _ => (levelRank l, 0)
  | [] => homeReach s (agentHinge ag) a

/-- The deeper of two. -/
def deeper (x y : Nat × Nat) : Nat × Nat := if x.1 < y.1 ∨ (x.1 = y.1 ∧ x.2 < y.2) then y else x

/-- LEVEL and bridges of an access to `n` bytes at a place; none where no byte is reached. -/
def placeReach (s : State) (ag : Agent) (sc : Option Scope) (write na : Bool) (p : Place) (n : Nat) : Option (Nat × Nat) :=
  match p with
  | .stash k _ =>
    some (if agentTeam ag = some k then (0, 0) else (6, bridges (agentHinge ag) (hingeOfCore (k / Config.teamsPerCore))))
  | .mem a => some ((addrRange a n).foldl (fun r x => deeper r (byteReach s ag sc write na x)) (0, 0))
  | .revive _ a => some (homeReach s (agentHinge ag) a)
  | .zeros | .gone => none

/-- The weight of a line (R458). DESIGN CHOICE (log 72). DESIGN CHOICE (log 72). -/
def lineWeight (r : Nat × Nat) : Nat :=
  (match r.1 with | 0 | 6 => 1 | 1 => 4 | 2 | 3 => 20 | 4 => 120 | 5 => 400 | _ => 600) + 60 * r.2

/-- The lines of a place, numbered in one space. -/
def placeLines (p : Place) (n : Nat) : List Nat :=
  let span := fun a => (List.range ((a + n - 1) / 128 + 1 - a / 128)).map (· + a / 128)
  match p with
  | .stash k off => (span off).map (· + 2 ^ 64 * (k + 1))
  | .mem a | .revive _ a => span a
  | .zeros | .gone => []

/-- A line's cost noted for an instruction or command of a band: the largest of its accesses. -/
def noteLine (band instr line cost : Nat) : List (Nat × Nat × Nat × Nat) → List (Nat × Nat × Nat × Nat)
  | [] => [(band, instr, line, cost)]
  | (b, i, l, c) :: rest =>
    if b = band ∧ i = instr ∧ l = line then (b, i, l, max c cost) :: rest else (b, i, l, c) :: noteLine band instr line cost rest

/-- The lines that an access touches noted. -/
def touchLines (s : State) (band instr : Nat) (p : Place) (n : Nat) (r : Option (Nat × Nat)) : State :=
  match r with
  | none => s
  | some r => { s with lineCosts := (placeLines p n).foldl (fun m l => noteLine band instr l (lineWeight r) m) s.lineCosts }

/-- The lines of a complete instruction or command charged to its band. -/
def settleLines (s : State) (band instr : Nat) : State :=
  let mine := fun (x : Nat × Nat × Nat × Nat) => x.1 == band && x.2.1 == instr
  let cost := ((s.lineCosts.filter mine).map fun x => x.2.2.2).sum
  let s := { s with lineCosts := s.lineCosts.filter fun x => !mine x }
  if cost = 0 then s else addEnergy s band cost

/-- What an operation reaches: its place and length with LEVEL and bridges. -/
def opReach (s : State) (o : PendOp) : Option (Place × Nat × Option (Nat × Nat)) :=
  let ag := o.agent
  match o.kind with
  | .load loc w _ acq _ =>
    let p := placeOf s ag loc false
    some (p, widthBytes w, placeReach s ag acq false false p (widthBytes w))
  | .store loc n _ rel hint =>
    let p := placeOf s ag loc true
    some (p, n, placeReach s ag rel true (hint == .na) p n)
  | .atomic _ loc n _ _ _ _ sc _ =>
    let p := placeOf s ag loc true
    some (p, n, placeReach s ag (some sc) false false p n)
  | .krel _ _ loc sc _ =>
    let p := placeOf s ag loc true
    some (p, 8, placeReach s ag (some sc) false false p 8)
  | .pref cc a _ _ =>
    let ag := if cc then match ag with | .thread c t x => .engine c t x | g => g else ag
    let a := a / 128 * 128
    some (.mem a, 128, placeReach s ag none false false (.mem a) 128)
  | .fence .. | .clean .. | .latg .. | .tarv .. | .post _ => none

/-- The lines of an operation of a thread noted, and its part in the sample of its instruction.
DESIGN CHOICE (log 72). DESIGN CHOICE (log 72). -/
def chargeOp (s : State) (o : PendOp) : State :=
  match o.agent, opReach s o with
  | .thread core _ _, some (p, n, r) =>
    let s := touchLines s o.issuer o.seq p n r
    let c := coreOf s core
    if c.samples.isEmpty then s
    else setCore s core { c with samples := c.samples.map fun x =>
      if x.seq = o.seq then { x with level := max x.level (r.getD (0, 0)).1, lastLane := o.lanes.headD 0, doneAt := s.now }
      else x }
  | _, _ => s

/-- The instruction charged once none of its operations is outstanding. -/
def settleOp (s : State) (o : PendOp) : State :=
  if s.pending.any fun x => x.issuer == o.issuer && x.seq == o.seq then s else settleLines s o.issuer o.seq

/-- The held addresses that lie in a key's region (R283): RESIDENT pages only. -/
def regionHeld (s : State) (ag : Agent) (base granules : Nat) : List Nat :=
  let ranges := virtRanges s (agentCtx ag) base (4096 * granules)
  (heldAddrs s ag).filter fun a => ranges.any fun r => decide (r.1 ≤ a ∧ a < r.1 + r.2)

/-- The byte of memory that an operation accesses, by physical and virtual address, with its hint. -/
def opLine (s : State) (o : PendOp) : Option (Nat × Nat × Hint) :=
  let at_ := fun (loc : Loc) (h : Hint) =>
    match loc, placeOf s o.agent loc o.kind.writes with
    | .phys _ va, .mem a | .again va, .mem a | .phys _ va, .revive _ a | .again va, .revive _ a => some (a, va, h)
    | _, _ => none
  match o.kind with
  | .load loc _ _ _ h | .store loc _ _ _ h | .atomic _ loc _ _ _ _ _ _ h => at_ loc h
  | .krel _ _ loc _ _ => at_ loc .normal
  | .pref _ a va h => if (windowAt s (a / 128 * 128)).isSome then none else some (a, va, h)
  | .fence .. | .clean .. | .latg .. | .tarv .. | .post _ => none

/-- The line that an operation accesses gets its name in the L1 (R230). -/
def nameOp (s : State) (o : PendOp) : State :=
  match o.agent, opLine s o with
  | .thread core _ ctx, some (a, va, _) => renameLine s core ctx a va
  | _, _ => s

/-- The lines of an operation have been used (R234). -/
def useOp (s : State) (o : PendOp) (x : Option (Nat × Nat × Hint)) : State :=
  match x, o.kind with
  | some (a, va, h), .atomic _ _ _ _ _ _ _ sc _ => useAtomic s o.agent sc a va h
  | some (a, va, h), _ => useLine s o.agent a va h
  | none, _ => s

/-- The post of an engine command or collective is performed: the command may begin (R365). -/
def postDone (s : State) (o : PendOp) : State :=
  let cmd := fun (c : Command) => if c.issue == o.seq && !c.posted then { c with posted := true } else c
  let coll := fun (c : Collective) => if c.issue == o.seq && !c.posted then { c with posted := true } else c
  match o.agent with
  | .thread core _ _ =>
    let co := coreOf s core
    let h := hingeOf s (hingeOfCore core)
    let s := setCore s core { co with channels := aMap (fun _ q => { q with queue := q.queue.map cmd, chain := q.chain.map cmd }) co.channels }
    setHinge s (hingeOfCore core) { h with collectives := h.collectives.map coll }
  | _ => s

end Sys2Proof.Machine
end

