-- ==== Sys2Proof/Machine/Access.lean ====
section
/-! DEFINITION. The memory instructions (08 R249-R264). Loads and stores issue operations into `State.pending` after their
checks (R253); they are performed by ACCESS_PERFORMED. -/

namespace Sys2Proof.Machine

/-! ### Issue -/

/-- What one lane of a memory instruction does at issue: operations, and its thread's change; or a fault; or a wait; or its
access meets a stack that takes none, and the whole group waits (R479). -/
inductive LaneIssue where
  | ops (ks : List PendKind) (f : Thread → Thread)
  | exc (e : Exc)
  | wait (w : Wait)
  | hold

/-- The agent of a group's threads. -/
def grpAgent (s : State) (g : Grp) : Agent :=
  .thread g.core g.band.team (match teamOf s g.band.team with | some tm => tm.ctx | none => 0)

def grpCtx (s : State) (g : Grp) : Nat := match teamOf s g.band.team with | some tm => tm.ctx | none => 0

/-- Operations of the lanes `ls` of a group. -/
def issueOps (s : State) (g : Grp) (ls : List Nat) (ks : List PendKind) : State :=
  let ops := ks.map fun k =>
    ({ agent := grpAgent s g, issuer := g.key, lanes := ls, seq := s.seq, pc := g.addr, kind := k } : PendOp)
  { s with pending := s.pending ++ ops }

/-- The lanes one after the other: faults are gathered; none when a lane holds the group. -/
def issueLanes (g : Grp) (f : State → Nat → Thread → LaneIssue × State) :
    List Nat → State → Option (List (Nat × Exc)) × State
  | [], s => (some [], s)
  | i :: is, s =>
    let (r, s) := f s i (threadOf g.band i)
    let (mine, s) := match r with
      | .ops ks upd =>
        let s := issueOps s g [i] ks
        match bandOf s g.key with
        | some b => (some [], setBand s g.key
            (onLanes b [i] fun _ t => { upd t with pc := g.next, wait := .ready }))
        | none => (some [], s)
      | .exc e => (some [(i, e)], s)
      | .wait w => (some [], waitLanes s g [i] w)
      | .hold => (none, s)
    let (fs, s) := issueLanes g f is s
    (match mine, fs with | some m, some fs => some (m ++ fs) | _, _ => none, s)

/-- A memory instruction that acts per thread: registers are checked first (R253). -/
def memLanes (s : State) (regs : List Nat) (f : Grp → State → Nat → Thread → LaneIssue × State) :
    Host.Outcome State Fault Refusal :=
  perGroupTo s fun g s =>
    match rangeFault s.tick g.band.n 1 regs with
    | some e => .exc e
    | none =>
      match issueLanes g (f g) g.live s with
      | (none, _) => memoryHold
      | (some fs, s) =>
        let recs := fs.map fun (i, e) =>
          FaultRec.mk i e.cause (BitVec.ofNat 64 e.addr) (tinfoOf g.word e.info) g.addr
        .ok (if recs.isEmpty then s else takeTraps s g.key false recs)

/-! ### Checks (R253) -/

/-- Address and Alignment of a global access of `n` bytes, then `f` its Page and Memory Lost. -/
def spaceCheck (s : State) (va n : Nat) (f : State → Except Exc Target × State) : Except Exc Target × State :=
  if Config.vaLimit ≤ va then (.error { cause := cAddress, addr := va }, s)
  else if va % n ≠ 0 then (.error { cause := cAlignment, addr := va }, s)
  else f s

/-- The checks of a global access through a TLB, and of a thread's through its core's L1. -/
def globalCheck (s : State) (id ctx va n : Nat) (acc : Acc) : Except Exc Target × State :=
  spaceCheck s va n fun s => access s id ctx va acc
def threadCheck (s : State) (core ctx va n : Nat) (acc : Acc) : Except Exc Target × State :=
  spaceCheck s va n fun s => accessL1 s core ctx va acc

/-- Address and Alignment for a stash access of `n` bytes. -/
def stashCheck (tm : Team) (off n : Nat) : Except Exc Unit :=
  if 1024 * tm.slotCount < off + n then .error { cause := cAddress, addr := off }
  else if off % n ≠ 0 then .error { cause := cAlignment, addr := off }
  else .ok ()

/-- Latch of a thread's write to a slot of its own team that an engine owns (R240, R241, R295). -/
def latchCheck (tm : Team) (off : Nat) : Except Exc Unit :=
  if (latchOf tm (off / 1024)).engine then .error { cause := cLatch, addr := off } else .ok ()

/-- What the checks of an access find: its location, LDN's zero, a stack that takes no access (R479), or a fault. -/
inductive Found where
  | loc (l : Loc)
  | zero
  | busy
  | exc (e : Exc)
  deriving DecidableEq, Repr

/-- The Latch check of an access to a physical address, after the others (R253): its own team's window is treated as its stash
(R241). -/
def windowLatch (s : State) (tm : Team) (team a : Nat) (acc : Acc) (l : Loc) : Found :=
  match acc.latches, windowAt s a with
  | true, some (k, _, e, w) =>
    if k = team then match latchCheck tm (windowOff e w a) with | .error e => .exc e | .ok _ => .loc l
    else .loc l
  | _, _ => .loc l

/-- An access of a team's thread after the checks of R253. -/
def locate (s : State) (core team : Nat) (stash : Bool) (addr n : Nat) (acc : Acc) : Found × State :=
  match teamOf s team with
  | none => (.exc { cause := cAddress, addr := addr }, s)
  | some tm =>
    if stash then
      (match stashCheck tm addr n with
        | .error e => .exc e
        | .ok _ =>
          match fillFault s tm addr n acc.writes acc.code, (if acc.latches then latchCheck tm addr else .ok ()) with
          | some e, _ => .exc e
          | none, .error e => .exc e
          | none, .ok _ => if windowBusy s tm addr n then .busy else .loc (.stash addr), s)
    else
      let (r, s) := threadCheck s core tm.ctx addr n acc
      (match r with
        | .error e => .exc e
        | .ok .busy => .busy
        | .ok (.zeros false _) => .zero
        | .ok (.zeros true a) | .ok (.revive a) => windowLatch s tm team a acc (.again addr)
        | .ok (.bytes a) => windowLatch s tm team a acc (.phys a addr), s)

/-- What a lane issues for an access that its checks found. -/
def foundIssue (r : Found × State) (f : Loc → LaneIssue) (zero : LaneIssue) : LaneIssue × State :=
  (match r.1 with
    | .loc l => f l
    | .zero => zero
    | .busy => .hold
    | .exc e => .exc e, r.2)

/-! ### LD, ST, SLD, SST, LDN (R255, R256) -/

/-- LD (R255). -/
def execLd (o : Ld) (s : State) : Host.Outcome State Fault Refusal :=
  memLanes s (o.d.val :: memRegs o.mem) fun g s _ t =>
    foundIssue (locate s g.core g.band.team o.mem.stash (memAddr g.band t o.mem) (widthBytes o.w) .read)
      (fun loc => .ops [.load loc o.w (.vec o.d.val) o.acq o.ch] id) (.ops [] id)

/-- The value of a register, or pair, as the bytes of a store. -/
def storeValue (w : Width) (t : Thread) (r : Nat) : Nat :=
  if widthBytes w = 8 then (rdV64 t r).toNat else (rdV t r).toNat % 2 ^ (8 * widthBytes w)

/-- ST (R255). -/
def execSt (o : St) (s : State) : Host.Outcome State Fault Refusal :=
  memLanes s (o.c.val :: memRegs o.mem) fun g s _ t =>
    foundIssue (locate s g.core g.band.team o.mem.stash (memAddr g.band t o.mem) (widthBytes o.w) .write)
      (fun loc => .ops [.store loc (widthBytes o.w) (storeValue o.w t o.c.val) o.rel o.ch] id) (.ops [] id)

/-- LDN (R256): NONRESIDENT gives 0 and false; every other completion sets pc. -/
def execLdn (o : Ldn) (s : State) : Host.Outcome State Fault Refusal :=
  memLanes s (o.d.val :: memRegs o.mem) fun g s _ t =>
    foundIssue (locate s g.core g.band.team o.mem.stash (memAddr g.band t o.mem) (widthBytes o.w) .ldn)
      (fun loc => .ops [.load loc o.w (.vec o.d.val) none o.ch] fun t => wrP t o.pc.val true)
      (.ops [] fun t => wrP (if widthBytes o.w = 8 then wrV64 t o.d.val 0 else wrV t o.d.val 0) o.pc.val false)

/-- A stream's access after its checks: global, through its sequencer's TLB (R400). -/
def locateStream (s : State) (h ctx addr n : Nat) (acc : Acc) : Found × State :=
  let (r, s) := globalCheck s (60 + h) ctx addr n acc
  (match r with
    | .error e => .exc e
    | .ok .busy => .busy
    | .ok (.bytes a) => .loc (.phys a addr)
    | .ok (.zeros ..) | .ok (.revive _) => .loc (.again addr), s)

/-- A scalar access on a stream. -/
def streamAccess (s : State) (a : Nat) (off : Word) (n : Nat) (acc : Acc) (f : Strm → Loc → PendKind) :
    Host.Outcome State Fault Refusal :=
  onStream s fun g =>
    let ctx := g.rcd.ctx.toNat
    let (r, s) := locateStream s g.hinge ctx (baseAddr (rdStream g.rcd a) off) n acc
    match r with
    | .exc e => .exc e
    | .zero => .ok s
    | .busy => .wait
    | .loc loc =>
      let op : PendOp := { agent := .stream g.hinge ctx, issuer := streamIssuer g.hinge g.num, lanes := [0], seq := s.seq
                           pc := g.addr, kind := f g loc }
      .ok { s with pending := s.pending ++ [op] }

/-- A scalar access of a group. -/
def groupAccess (s : State) (a : Nat) (off : Word) (stash : Bool) (n : Nat) (acc : Acc) (f : Grp → Loc → PendKind) :
    Host.Outcome State Fault Refusal :=
  perGroup s fun g =>
    let (r, s) := locate s g.core g.band.team stash (baseAddr (rdS g.band a) off) n acc
    match r with
    | .exc e => .exc e
    | .zero => .ok s
    | .busy => memoryHold
    | .loc loc => .ok (issueOps s g g.live [f g loc])

/-- SLD (R255). -/
def execSld (o : Sld) (s : State) : Host.Outcome State Fault Refusal :=
  match s.cur with
  | .stream .. => streamAccess s o.a.val o.off (widthBytes o.w) .read fun _ loc =>
      .load loc o.w (.sca o.d.val) o.acq o.ch
  | _ => groupAccess s o.a.val o.off o.stash (widthBytes o.w) .read fun _ loc =>
      .load loc o.w (.sca o.d.val) o.acq o.ch

/-- SST (R255). -/
def execSst (o : Sst) (s : State) : Host.Outcome State Fault Refusal :=
  let n := widthBytes o.w
  match s.cur with
  | .stream .. => streamAccess s o.a.val o.off n .write fun g loc =>
      .store loc n ((rdStream g.rcd o.c.val).toNat % 2 ^ (8 * n)) o.rel o.ch
  | _ => groupAccess s o.a.val o.off o.stash n .write fun g loc =>
      .store loc n ((rdS g.band o.c.val).toNat % 2 ^ (8 * n)) o.rel o.ch

/-- PREF (R257): a lane that would fault, or whose page is not RESIDENT or in a window, is dropped. -/
def execPref (o : Pref) (s : State) : Host.Outcome State Fault Refusal :=
  memLanes s (memRegs o.mem) fun g s _ t =>
    let va := memAddr g.band t o.mem
    let (r, s) := threadCheck s g.core (grpCtx s g) va 1 .read
    match r with
    | .ok (.bytes a) => (.ops (if (windowAt s a).isSome then [] else [.pref o.cc a va o.ch]) id, s)
    | .ok .busy => (.hold, s)
    | _ => (.ops [] id, s)

/-! ### CLEAN, INVAL (R258) -/

/-- The lines that `n` bytes from `va` overlap: base and length. -/
def lineSpan (va n : Nat) : Nat × Nat :=
  if n = 0 then (va, 0) else (va / 128 * 128, (va + n + 127) / 128 * 128 - va / 128 * 128)

def cleanInval (inval : Bool) (o : Clean) (s : State) : Host.Outcome State Fault Refusal :=
  match o.what with
  | .lines mem =>
    memLanes s (memRegs mem) fun g s _ t =>
      let va := memAddr g.band t mem
      let line := va / 128 * 128
      let id := clusterOfCore g.core
      if Config.vaLimit ≤ va then (.exc { cause := cAddress, addr := va }, s)
      else if walkWaits s id (grpCtx s g) line then (.hold, s)
      else
        let (r, s) := translate s id (grpCtx s g) line
        (.ops [.clean inval o.sc (leafRange r line 128) false] fun t => t, s)
  | .range a off c =>
    perGroup s fun g =>
      let va := baseAddr (rdS g.band a.val) off
      let n := (rdS g.band c.val).toNat
      if Config.vaLimit < va + n ∨ Config.vaLimit ≤ va then .exc { cause := cAddress, addr := va }
      else
        let (lo, len) := lineSpan va n
        let id := clusterOfCore g.core
        let parts := mayReside s id (grpCtx s g) lo len
        if parts.any fun r => walkWaits s id (grpCtx s g) r.1 then memoryHold
        else
          let (ranges, s) := transRanges s id (grpCtx s g) parts
          .ok (issueOps s g g.live [.clean inval o.sc ranges false])
  | .all => perGroup s fun g => .ok (issueOps s g g.live [.clean inval o.sc [] true])

/-- CLEAN and INVAL (R258). -/
def execClean (o : Clean) (s : State) : Host.Outcome State Fault Refusal := cleanInval false o s
def execInval (o : Clean) (s : State) : Host.Outcome State Fault Refusal := cleanInval true o s

/-! ### PIN, UNPIN, DISCARD (R259, R260) -/

/-- The lines of a page that no registered window holds, by number from the page's first (R241). -/
def pageLines (s : State) (base : Nat) : List Nat := (List.range 512).filter fun i => (windowAt s (base + 128 * i)).isNone

/-- The lines of a page that a cluster's cache does not hold, counted as misses (R247, R454). -/
def countPin (s : State) (cluster base : Nat) : State :=
  let lines := (pageLines s base).filter fun i => !holdsLine s (.cluster cluster) (base + 128 * i)
  lines.foldl (fun s i => countCluster s cluster (base + 128 * i) false) s

/-- The page's bytes, those of windows apart, brought into a cluster's cache: what it holds stays, the rest is filled from below; its
lines are used with the normal hint. -/
def fillCluster (s : State) (cluster base : Nat) : State :=
  let s := countPin s cluster base
  let cl := clusterOf s cluster
  let below := fun a => match belowLevel s (.cluster cluster) a with | some l => [l] | none => []
  let held := fun a => (aFind a cl.cache).getD { value := (lookByte s a (below a) 0).1, dirty := false }
  let kept := pageLines s base
  let page := (kept.flatMap fun i => addrRange (base + 128 * i) 128).map fun a => (a, held a)
  let line := fun n => match aFind n cl.lines with
    | some x => { x with level := raised x.level .normal, used := s.now }
    | none => { level := 1, used := s.now }
  let lines := kept.map fun i => (base / 128 + i, line (base / 128 + i))
  setCluster s cluster
    { cl with cache := aFilter (fun a _ => decide (a < base)) cl.cache ++ page
                ++ aFilter (fun a _ => decide (base + 65536 ≤ a)) cl.cache
              lines := aFilter (fun n _ => decide (n < base / 128)) cl.lines ++ lines
                ++ aFilter (fun n _ => decide (base / 128 + 512 ≤ n)) cl.lines }

/-- Pages pinned in a cluster, each once. -/
def pinnedPages (s : State) (cluster : Nat) : List Nat :=
  (s.teams.flatMap fun t => if clusterOfCore t.2.core = cluster then t.2.pins else []).eraseDups

/-- PIN (R259): twelve ways of each set, the set ranges named by the page number's low three bits (R236). -/
def execPin (o : Pin) (s : State) : Host.Outcome State Fault Refusal :=
  perGroup s fun g =>
    match teamOf s g.band.team with
    | none => .ok s
    | some tm =>
      let va := baseAddr (rdS g.band o.a.val) o.off
      let cl := clusterOfCore g.core
      let (r, s) := globalCheck s cl tm.ctx va 1 .read
      let answer := fun (s : State) (v : Bool) =>
        match bandOf s g.key with
        | some b => setBand s g.key (onLanes b g.live fun _ t => wrP t o.pd.val v)
        | none => s
      match r with
      | .error e => .exc e
      | .ok (.bytes a) =>
        let page := a / 65536
        if tm.pins.contains page then .ok (answer s true)
        else
          let held := pinnedPages s cl
          if tm.pinQuota ≤ tm.pins.length ∨
              (!held.contains page && decide (12 ≤ (held.filter fun p => p % 8 == page % 8).length)) then
            .ok (answer s false)
          else
            let s := fillCluster s cl (page * 65536)
            .ok (answer (setTeam s g.band.team { tm with pins := tm.pins ++ [page] }) true)
      | .ok .busy => memoryHold
      | .ok _ => .ok (answer s false)

/-- UNPIN (R259). -/
def execUnpin (o : PageOp) (s : State) : Host.Outcome State Fault Refusal :=
  perGroup s fun g =>
    match teamOf s g.band.team with
    | none => .ok s
    | some tm =>
      let va := baseAddr (rdS g.band o.a.val) o.off
      if Config.vaLimit ≤ va then .exc { cause := cAddress, addr := va }
      else if walkWaits s (clusterOfCore g.core) tm.ctx va then memoryHold
      else
        let (r, s) := translate s (clusterOfCore g.core) tm.ctx va
        match r with
        | .ok l =>
          if l.state = 0 then
            .ok (setTeam s g.band.team { tm with pins := tm.pins.filter fun p => p != physOf l va / 65536 })
          else .ok s
        | .error _ => .ok s

/-- DISCARD (R260). DEDUCED (log 89). -/
def execDiscard (o : PageOp) (s : State) : Host.Outcome State Fault Refusal :=
  perGroup s fun g =>
    match teamOf s g.band.team with
    | none => .ok s
    | some tm =>
      let va := baseAddr (rdS g.band o.a.val) o.off
      if Config.vaLimit ≤ va then .exc { cause := cAddress, addr := va }
      else if walkBusy s tm.ctx va then memoryHold
      else
        let (r, s) := walkNow s (clusterOfCore g.core) tm.ctx va
        match r with
        | .error k => .exc (pageExc va 1 k)
        | .ok l =>
          let base := physOf l (va / 65536 * 65536)
          if !l.w then .exc (pageExc va 1 kWriteProtect)
          else if l.state = 3 ∨ (!l.sys && pageLost s l.ppn && l.state != 1) then .exc (lostExc va 1)
          else if overlapsWindow s base 65536 then .exc { cause := cMap, info := 0 }
          else if stackBusy s base then memoryHold
          else
            let s := dropRange s base 65536
            let unpin := fun (_ : Nat) (t : Team) => { t with pins := t.pins.filter fun p => p != base / 65536 }
            let s := { s with teams := aMap unpin s.teams }
            let s := dropTlb s tm.ctx fun p => p == va / 65536
            .ok (setLeafState s l.pte 2)

/-! ### Atomics on SYS pages (R291) -/

/-- Atomics that PCI Express carries: FetchAdd, Swap, CAS (R291). -/
def pcieAtomic : AtomFn → Bool
  | .int .add | .int .exch | .cas => true
  | .int _ | .flt .. => false

/-- The SYS-page rule of R291, a Page fault: after the Page checks of R225 and before Memory Lost (R253). -/
def sysAtomic (s : State) (ctx : Nat) (r : Found) (fn : AtomFn) (sc : Scope) (va : Nat) (acc : Acc) : Found :=
  let carried := fun a : Nat => decide (a < sysBase ∨ sc ≠ .system) || (windowAt s a).isSome
    || (pcieAtomic fn && !Config.hostRejectsAtomic (a - sysBase))
  let bad : Found := .exc (pageExc va acc.code kMalformed)
  let walked := match walk s ctx va with | .ok l => carried (physOf l va) | .error _ => true
  match r with
  | .loc (.phys a _) => if carried a then r else bad
  | .loc (.again _) => if walked then r else bad
  | .exc e => if e.cause = cLost ∧ !walked then bad else r
  | .loc (.stash _) | .zero | .busy => r

/-! ### PGREQ (R261, R262) -/

/-- A page-request record (R262). -/
def pageRecordBytes (c : Context) (r : PageRecord) : List Byte :=
  leBytes 8 (r.vpage * 65536 + r.ctx * 256 + r.source) ++ leBytes 4 (r.unit * 512 + r.core)
    ++ leBytes 4 c.recordSeq.toNat

/-- A record written to the context's page-request ring, which has room. -/
def writePageRecord (s : State) (r : PageRecord) : State :=
  let c := ctxOf s r.ctx
  let (s, ring) := ringWrite s c.requests (pageRecordBytes c r)
  let c := ctxOf s r.ctx
  let out := if c.outstanding.contains r.vpage then c.outstanding else c.outstanding ++ [r.vpage]
  setCtx s r.ctx { c with requests := ring, recordSeq := c.recordSeq + 1, outstanding := out }

/-- Whether a request of the page is outstanding, a held one included. DEDUCED (log 50). DEDUCED (log 50). -/
def pageOutstanding (s : State) (ctx vpage : Nat) : Bool :=
  (ctxOf s ctx).outstanding.contains vpage

/-- PGREQ (R261). DEDUCED (log 90). DEDUCED (log 90). -/
def execPgreq (o : Pgreq) (s : State) : Host.Outcome State Fault Refusal :=
  memLanes s (memRegs o.mem) fun g s _ t =>
    let ctx := grpCtx s g
    let va := memAddr g.band t o.mem
    let answer := fun (v : Bool) => LaneIssue.ops [] fun t => wrP t o.pd.val v
    if Config.vaLimit ≤ va then (.exc { cause := cAddress, addr := va }, s)
    else if (if t.wait = .answered then walkBusy s ctx va else walkWaits s (clusterOfCore g.core) ctx va) then (.hold, s)
    else
      -- an answered request walks again; before, a translation that the TLB holds serves (R261)
      let (r, s) := if t.wait = .answered then walkNow s (clusterOfCore g.core) ctx va else translate s (clusterOfCore g.core) ctx va
      let request := fun _ : Unit =>
        if t.wait = .answered then (answer false, s)
        else if pageOutstanding s ctx (va / 65536) then
          (if o.wait then .wait (.page (va / 65536)) else answer false, s)
        else if ringFull (ctxOf s ctx).requests 16 then (.wait (.polled 8), s)
        else
          let s := writePageRecord s { ctx := ctx, vpage := va / 65536, source := 1, unit := g.slot, core := g.core }
          (if o.wait then .wait (.page (va / 65536)) else answer false, s)
      match r with
      | .error k =>
        if k = kMalformed then (.exc (pageExc va 5 kMalformed), s) else request ()
      | .ok l =>
        if l.state = 3 then (.exc (lostExc va 5), s)
        else if l.state = 1 then request ()
        else (answer true, s)

/-! ### MAPW, MAPC, MAPF (R263, R264) -/

/-- FIRST, COUNT and ROT of a map word; none when a bit that must be zero is not. DESIGN CHOICE (log 42).
DESIGN CHOICE (log 42). -/
def mapWord (v : Nat) : Option (Nat × Nat × Nat) :=
  if bitsOf v 28 36 ≠ 0 ∨ bitOf v 23 ∨ bitsOf v 9 7 ≠ 0 then none
  else some (bitsOf v 0 9, bitsOf v 16 7, bitsOf v 24 4)

/-- Whether slots `first` … `first + count - 1` meet an entry. -/
def slotsCovered (tm : Team) (first count : Nat) : Bool :=
  tm.maps.any fun e => decide (first < e.2.first + e.2.count ∧ e.2.first < first + count)

/-- MAPW (R263, R242). DESIGN CHOICE (log 42). A window on a SYS page is registered at the page's bus address.
DESIGN CHOICE (log 102). DESIGN CHOICE (log 42), DESIGN CHOICE (log 102). -/
def execMapw (o : Mapw) (s : State) : Host.Outcome State Fault Refusal :=
  perGroup s fun g =>
    match teamOf s g.band.team with
    | none => .ok s
    | some tm =>
      let va := match o.win with | some (a, off) => some (baseAddr (rdS g.band a.val) off) | none => none
      let bad : GrpRes := .exc { cause := cMap, info := o.m.val }
      let outside := match va with | some va => decide (Config.vaLimit ≤ va) | none => false
      if outside then .exc { cause := cAddress, addr := va.getD 0 }
      else if (match va with | some va => walkWaits s (clusterOfCore g.core) tm.ctx va | none => false) then memoryHold
      else
        -- one translation names the page for every check and for the window
        let (leaf, s) := match va with
          | some va => translate s (clusterOfCore g.core) tm.ctx va
          | none => (.error kNotPresent, s)
        match mapWord (rdS g.band o.c.val).toNat with
        | none => bad
        | some (first, count, rot) =>
          let badWin := match va with
            | none => false
            | some va =>
              decide (va % 128 ≠ 0 ∨ 65536 < va % 65536 + 1024 * count) ||
                (match leaf with | .ok l => overlapsWindow s (physOf l va) (1024 * count) | .error _ => false)
          if (aFind o.m.val tm.maps).isSome || count == 0 || decide (64 < count) || decide (tm.slotCount < first + count)
              || slotsCovered tm first count || badWin then bad
          else
            let place := fun (s : State) (win : Option Window) =>
              match teamOf s g.band.team with
              | some tm =>
                let tm := { tm with maps := aInsert o.m.val { first := first, count := count, rot := rot, win := win } tm.maps }
                -- a window's slots become GENERAL with NONFINITE 1 (R342)
                let tm := if win.isSome then
                    (addrRange first count).foldl (fun tm n => setSlotCls tm n (.general true)) tm
                  else tm
                setTeam s g.band.team tm
              | none => s
            let owned := (List.range count).find? fun i => (latchOf tm (first + i)).engine
            let latch : Option Exc := owned.map fun i => { cause := cLatch, addr := 1024 * (first + i) }
            match va with
            | none => match latch with | some e => .exc e | none => .ok (place s none)
            | some va =>
              match checkLeaf s leaf va .write, latch with
              | .error e, _ => .exc e
              | .ok _, some e => .exc e
              | .ok (.bytes base), none | .ok (.revive base), none =>
                .ok (place (flushRange s base (1024 * count)) (some { base := base, va := va, filled := 0, dirty := 0 }))
              | .ok .busy, none | .ok (.zeros ..), none => memoryHold

/-- Whether a map entry has a window on a page that takes no access now (R479). -/
def mapBusy (s : State) (team m : Nat) : Bool :=
  match teamOf s team with
  | some tm => match (aFind m tm.maps).bind (·.win) with
    | some w => stackBusy s w.base
    | none => false
  | none => false

/-- MAPC and MAPF (R264): Memory Lost for granules that could not be written follows the effect, at the next
instruction. -/
def mapBack (free : Bool) (o : MapOp) (s : State) : Host.Outcome State Fault Refusal :=
  perGroupTo s fun g s =>
    if mapBusy s g.band.team o.m.val then memoryHold else
    let (lost, s) := writeBackWindow s g.band.team o.m.val
    let s := if free then match teamOf s g.band.team with
        | some tm => setTeam s g.band.team { tm with maps := aErase o.m.val tm.maps }
        | none => s
      else s
    let s := gotoBand s g.key g.live g.next
    match lost with
    | none => .ok s
    | some va => .ok (takeTraps s g.key false (g.live.map fun i =>
        FaultRec.mk i cLost (BitVec.ofNat 64 va) (tinfoOf g.word 256) g.next))
/-- DESIGN CHOICE (log 43). DESIGN CHOICE (log 43). -/
def execMapc (o : MapOp) (s : State) : Host.Outcome State Fault Refusal := mapBack true o s
/-- DESIGN CHOICE (log 43). DESIGN CHOICE (log 43). -/
def execMapf (o : MapOp) (s : State) : Host.Outcome State Fault Refusal := mapBack false o s

end Sys2Proof.Machine
end

