-- ==== Sys2Proof/Machine/VFloat.lean ====
section
/-! DEFINITION. The vector float class (05 R138-R164). -/

namespace Sys2Proof.Machine

/-- An instruction that rounds (R137, R140): RND = .dyn reads FCTL.RM once for the group, and SRAdvance runs once when
the mode is .sr and some thread acts (R87). `f` gets the mode. -/
def fltOp (s : State) (regs : List Nat) (rnd : Rnd) (f : Grp → Mode → Nat → Thread → Thread) :
    Host.Outcome State Fault Refusal :=
  let s := match grpOf s with
    | some g =>
      if g.live.isEmpty || (rangeFault s.tick g.band.n 1 regs).isSome then s
      else setBand s g.key (srStep g.band (modeOf g.band.rm rnd))
    | none => s
  vecOp s regs fun g i t => f g (modeOf g.band.rm rnd) i t

/-- Element `j` of an operand (R138). -/
def elemOf (ty : FTy) (j bits : Nat) : Nat := if fltElems ty = 2 then bitsOf bits (16 * j) 16 else bits

/-- The elements' results side by side, their conditions ORed. -/
def eachElem (ty : FTy) (f : Nat → Nat × Flags) : Nat × Flags :=
  if fltElems ty = 2 then ((f 0).1 % 65536 + 65536 * (f 1).1, (f 0).2 ||| (f 1).2) else f 0

/-- A float result and its conditions in one thread. -/
def putFlt (ty : FTy) (t : Thread) (d : Nat) (r : Nat × Flags) : Thread :=
  raiseFlags (wrVFlt (fltWidth ty) t d r.1) r.2

/-- An operation on decoded operands, rounded once (R140). -/
def arith2 (g : Grp) (mode : Mode) (lane : Nat) (t : Thread) (o : FOp2) (op : Val → Val → FRes) : Thread :=
  let f := fmtOf o.ty
  let a := vBits (fltWidth o.ty) t o.a.val
  let b := vsrcFlt g.band t o.ty o.b
  putFlt o.ty t o.d.val (eachElem o.ty fun j =>
    fRound (op (decodeFmt f (elemOf o.ty j a)) (decodeFmt f (elemOf o.ty j b))) f mode (srOf g.band lane j))
def regsF2 (o : FOp2) : List Nat := [o.d.val, o.a.val] ++ vsrcRegs o.b

/-- A 6-bit register number as a vector register. -/
def wideReg (r : Fin 64) : Fin 256 := ⟨r.val, by omega⟩
/-- The compact forms: .f32, .rne (R54, R139). -/
def fop2OfC (o : C3) : FOp2 :=
  { ty := .f32, rnd := .rne, d := wideReg o.d, a := wideReg o.a, b := .vec (wideReg o.b) }
def fop1OfC (o : C2) : FOp1 := { ty := .f32, rnd := .rne, d := wideReg o.d, a := wideReg o.a }

/-- VFADD, VFSUB, VFMUL (R147) and VFDIV (R151) on their mode. -/
def flt2 (o : FOp2) (op : Mode → Val → Val → FRes) (s : State) : Host.Outcome State Fault Refusal :=
  fltOp s (regsF2 o) o.rnd fun g mode i t => arith2 g mode i t o (op mode)

/-- VFADD (R147). -/
def execVfadd (o : FOp2) (s : State) : Host.Outcome State Fault Refusal := flt2 o fAdd s
def execVfaddC (o : C3) (s : State) : Host.Outcome State Fault Refusal := flt2 (fop2OfC o) fAdd s
/-- VFSUB (R147). -/
def execVfsub (o : FOp2) (s : State) : Host.Outcome State Fault Refusal := flt2 o fSub s
def execVfsubC (o : C3) (s : State) : Host.Outcome State Fault Refusal := flt2 (fop2OfC o) fSub s
/-- VFMUL (R147). -/
def execVfmul (o : FOp2) (s : State) : Host.Outcome State Fault Refusal := flt2 o (fun _ => fMul) s
def execVfmulC (o : C3) (s : State) : Host.Outcome State Fault Refusal := flt2 (fop2OfC o) (fun _ => fMul) s
/-- VFDIV (R151). -/
def execVfdiv (o : FOp2) (s : State) : Host.Outcome State Fault Refusal := flt2 o (fun _ => fDiv) s
def execVfdivC (o : C3) (s : State) : Host.Outcome State Fault Refusal := flt2 (fop2OfC o) (fun _ => fDiv) s

/-- VFMA (R149). -/
def execVfma (o : FMa) (s : State) : Host.Outcome State Fault Refusal :=
  fltOp s ([o.d.val, o.a.val] ++ vsrcRegs o.b ++ [o.c.val]) o.rnd fun g mode i t =>
    let f := fmtOf o.ty
    let a := vBits (fltWidth o.ty) t o.a.val
    let b := vsrcFlt g.band t o.ty o.b
    let c := vBits (fltWidth o.ty) t o.c.val
    putFlt o.ty t o.d.val (eachElem o.ty fun j =>
      fRound (fMa mode o.negProd o.negAdd (decodeFmt f (elemOf o.ty j a)) (decodeFmt f (elemOf o.ty j b))
        (decodeFmt f (elemOf o.ty j c))) f mode (srOf g.band i j))

/-- A rounded operation on one operand. -/
def flt1 (o : FOp1) (op : Mode → Nat → Val → Nat × Flags) (s : State) : Host.Outcome State Fault Refusal :=
  fltOp s [o.d.val, o.a.val] o.rnd fun g mode i t =>
    let a := vBits (fltWidth o.ty) t o.a.val
    putFlt o.ty t o.d.val (eachElem o.ty fun j =>
      op mode (srOf g.band i j) (decodeFmt (fmtOf o.ty) (elemOf o.ty j a)))

/-- √a rounded (R151). -/
def sqrtTo (ty : FTy) (mode : Mode) (rnd : Nat) (a : Val) : Nat × Flags := fRound (fSqrt a) (fmtOf ty) mode rnd

/-- VFSQRT (R151). -/
def execVfsqrt (o : FOp1) (s : State) : Host.Outcome State Fault Refusal := flt1 o (sqrtTo o.ty) s
def execVfsqrtC (o : C2) (s : State) : Host.Outcome State Fault Refusal := flt1 (fop1OfC o) (sqrtTo .f32) s

/-- The approximate functions (R163). -/
def execVfrcp (o : FOp1) (s : State) : Host.Outcome State Fault Refusal := flt1 o (approxTo .rcp o.ty) s
def execVfrcpC (o : C2) (s : State) : Host.Outcome State Fault Refusal := flt1 (fop1OfC o) (approxTo .rcp .f32) s
def execVfrsq (o : FOp1) (s : State) : Host.Outcome State Fault Refusal := flt1 o (approxTo .rsq o.ty) s
def execVfrsqC (o : C2) (s : State) : Host.Outcome State Fault Refusal := flt1 (fop1OfC o) (approxTo .rsq .f32) s
def execVfexp2 (o : FOp1) (s : State) : Host.Outcome State Fault Refusal := flt1 o (approxTo .exp2 o.ty) s
def execVfexp2C (o : C2) (s : State) : Host.Outcome State Fault Refusal := flt1 (fop1OfC o) (approxTo .exp2 .f32) s
def execVflog2 (o : FOp1) (s : State) : Host.Outcome State Fault Refusal := flt1 o (approxTo .log2 o.ty) s
def execVflog2C (o : C2) (s : State) : Host.Outcome State Fault Refusal := flt1 (fop1OfC o) (approxTo .log2 .f32) s
def execVfsin (o : FOp1) (s : State) : Host.Outcome State Fault Refusal := flt1 o (approxTo .sin o.ty) s
def execVfsinC (o : C2) (s : State) : Host.Outcome State Fault Refusal := flt1 (fop1OfC o) (approxTo .sin .f32) s
def execVfcos (o : FOp1) (s : State) : Host.Outcome State Fault Refusal := flt1 o (approxTo .cos o.ty) s
def execVfcosC (o : C2) (s : State) : Host.Outcome State Fault Refusal := flt1 (fop1OfC o) (approxTo .cos .f32) s
def execVftanh (o : FOp1) (s : State) : Host.Outcome State Fault Refusal := flt1 o (approxTo .tanh o.ty) s
def execVftanhC (o : C2) (s : State) : Host.Outcome State Fault Refusal := flt1 (fop1OfC o) (approxTo .tanh .f32) s

/-- VFMIN and VFMAX (R153). -/
def minMaxV (isMax : Bool) (o : FMinMax) (s : State) : Host.Outcome State Fault Refusal :=
  vecOp s ([o.d.val, o.a.val] ++ vsrcRegs o.b) fun g _ t =>
    let a := vBits (fltWidth o.ty) t o.a.val
    let b := vsrcFlt g.band t o.ty o.b
    putFlt o.ty t o.d.val (eachElem o.ty fun j =>
      fMinMax (fmtOf o.ty) isMax o.nan (elemOf o.ty j a) (elemOf o.ty j b))
def minMaxOfC (o : C3) : FMinMax :=
  { ty := .f32, nan := false, d := wideReg o.d, a := wideReg o.a, b := .vec (wideReg o.b) }
def execVfmin (o : FMinMax) (s : State) : Host.Outcome State Fault Refusal := minMaxV false o s
def execVfminC (o : C3) (s : State) : Host.Outcome State Fault Refusal := minMaxV false (minMaxOfC o) s
def execVfmax (o : FMinMax) (s : State) : Host.Outcome State Fault Refusal := minMaxV true o s
def execVfmaxC (o : C3) (s : State) : Host.Outcome State Fault Refusal := minMaxV true (minMaxOfC o) s

/-- VADDMIN and VADDMAX (R155). -/
def addMinMax (isMax : Bool) (o : FAddMin) (s : State) : Host.Outcome State Fault Refusal :=
  let regs := [o.d.val, o.a.val] ++ vsrcRegs o.b ++ [o.c.val]
  match o.ty with
  | .int ty =>
    vecOp s regs fun g _ t =>
      let v := readInt (intSigned ty) (intWidth ty)
      let sum := clampInt (v (vPat ty t o.a.val) + v (vsrcInt g.band t ty o.b)) (intMin ty) (intMax ty)
      let c := v (vPat ty t o.c.val)
      wrVInt ty t o.d.val (if isMax then max sum c else min sum c)
  | .flt ty =>
    fltOp s regs o.rnd fun g mode i t =>
      let f := fmtOf ty
      let a := vBits (fltWidth ty) t o.a.val
      let b := vsrcFlt g.band t ty o.b
      let c := vBits (fltWidth ty) t o.c.val
      putFlt ty t o.d.val (eachElem ty fun j =>
        let sum := fRound (fAdd mode (decodeFmt f (elemOf ty j a)) (decodeFmt f (elemOf ty j b))) f mode (srOf g.band i j)
        let r := fMinMax f isMax o.nan sum.1 (elemOf ty j c)
        (r.1, sum.2 ||| r.2))
def execVaddmin (o : FAddMin) (s : State) : Host.Outcome State Fault Refusal := addMinMax false o s
def execVaddmax (o : FAddMin) (s : State) : Host.Outcome State Fault Refusal := addMinMax true o s

/-- VFCMP (R157). -/
def execVfcmp (o : FCmp) (s : State) : Host.Outcome State Fault Refusal :=
  vecOp s (o.a.val :: vsrcRegs o.b) fun g _ t =>
    let f := fmtOf o.ty
    let r := fCmp o.cond (decodeFmt f (vBits (fltWidth o.ty) t o.a.val)) (decodeFmt f (vsrcFlt g.band t o.ty o.b))
    raiseFlags (wrP t o.pd.val r.1) r.2

/-- VFCLASS (R159): one bit per element; `vd` is one register. -/
def classV (o : FClass) (s : State) : Host.Outcome State Fault Refusal :=
  vecOp s [o.d.val, o.a.val] fun _ _ t =>
    let a := vBits (fltWidth o.ty) t o.a.val
    let r := eachElem o.ty fun j => (2 ^ fClass (fmtOf o.ty) (decodeFmt (fmtOf o.ty) (elemOf o.ty j a)), 0#5)
    wrV t o.d.val (BitVec.ofNat 32 r.1)
def execVfclass (o : FClass) (s : State) : Host.Outcome State Fault Refusal := classV o s
def execVfclassC (o : C2) (s : State) : Host.Outcome State Fault Refusal :=
  classV { ty := .f32, d := wideReg o.d, a := wideReg o.a } s

/-- VFRND (R161). -/
def execVfrnd (o : FRnd) (s : State) : Host.Outcome State Fault Refusal :=
  flt1 { ty := o.ty, rnd := o.rnd, d := o.d, a := o.a } (fun mode rnd a => fRnd (fmtOf o.ty) mode o.exact rnd a) s

end Sys2Proof.Machine
end

