-- ==== Sys2Proof/Machine/Lanes.lean ====
section
/-! DEFINITION. Lane, predicate and reduction instructions (06). -/

namespace Sys2Proof.Machine

/-! ### Shuffles and broadcasts -/

/-- The integer type of the .n32 and .n64 forms. -/
def wideTy (wide : Bool) : IntTy := if wide then .n64 else .n32

/-- A register, or pair of the wide forms, as a pattern, and its write. -/
def getWide (wide : Bool) (t : Thread) (r : Nat) : Nat := vPat (wideTy wide) t r
def putWide (wide : Bool) (t : Thread) (d v : Nat) : Thread :=
  if wide then wrV64 t d (BitVec.ofNat 64 v) else wrV t d (BitVec.ofNat 32 v)

/-- Segment widths by their code (R168). -/
def segWidth (c : Fin 4) : Nat := 32 / 2 ^ c.val

def fillRegs : Option (Fin 256) → List Nat
  | some c => [c.val]
  | none => []

/-- The source lane of VSHFL, inside its segment (R169). -/
def shflSrc (mode : ShflMode) (w lane b : Nat) : Option Nat :=
  let base := lane - lane % w
  let off := lane % w
  match mode with
  | .idx => some (base + b % w)
  | .xor => let src := Nat.xor off (b % 32); if src < w then some (base + src) else none
  | .up => if b ≤ off then some (base + off - b) else none
  | .down => if off + b < w then some (base + off + b) else none

/-- What a lane takes: the source lane's register when that is in P, else the fill. -/
def takeLane (g : Grp) (wide : Bool) (t : Thread) (d a : Nat) (c : Option (Fin 256)) (src : Option Nat) : Thread :=
  let fill := match c with | some r => getWide wide t r.val | none => getWide wide t a
  let v := match src with
    | some l => if g.live.contains l then getWide wide (threadOf g.band l) a else fill
    | none => fill
  putWide wide t d v

/-- VSHFL (R169). -/
def execVshfl (o : Shfl) (s : State) : Host.Outcome State Fault Refusal :=
  vecOp s ([o.d.val, o.a.val] ++ vsrcRegs o.b ++ fillRegs o.c) fun g i t =>
    takeLane g o.wide t o.d.val o.a.val o.c (shflSrc o.mode (segWidth o.seg) i (vsrcInt g.band t .n32 o.b))

/-- VBCST (R171). -/
def execVbcst (o : Bcst) (s : State) : Host.Outcome State Fault Refusal :=
  vecOp s ([o.d.val, o.a.val] ++ fillRegs o.c) fun g _ t =>
    let src := match o.src with
      | .first => g.live.head?
      | .reg r => some ((rdS g.band r.val).toNat % 32)
      | .imm l => some l.val
    takeLane g o.wide t o.d.val o.a.val o.c src

/-! ### Matching and voting -/

/-- VMATCH (R173). -/
def execVmatch (o : Match) (s : State) : Host.Outcome State Fault Refusal :=
  vecOp s [o.d.val, o.a.val] fun g _ t =>
    let v := getWide o.wide t o.a.val
    wrV t o.d.val (BitVec.ofNat 32 (laneMask (g.live.filter fun l => getWide o.wide (threadOf g.band l) o.a.val == v)))

/-- VVOTE (R175). -/
def execVvote (o : Vote) (s : State) : Host.Outcome State Fault Refusal :=
  let regs := match o.dst with | .ballot d => [d.val] | _ => []
  vecOp s regs fun g _ t =>
    let x := fun l => rdP (threadOf g.band l) o.a.val != o.neg
    match o.dst with
    | .any pd => wrP t pd.val (g.live.any x)
    | .all pd => wrP t pd.val (g.live.all x)
    | .uni pd => wrP t pd.val (g.live.all x || !g.live.any x)
    | .ballot d => wrV t d.val (BitVec.ofNat 32 (laneMask (g.live.filter x)))

/-! ### Combine (R177) -/

def redInt : RedTy → Option IntTy
  | .i32 => some .i32 | .n32 => some .n32 | .i64 => some .i64 | .n64 => some .n64
  | .f32 | .f64 => none
def redFmt : RedTy → Fmt
  | .f64 => fmtF64 | _ => fmtF32
def redWidth : RedTy → Nat
  | .i64 | .n64 | .f64 => 64
  | .i32 | .n32 | .f32 => 32

/-- Combine of two patterns, the first lower in lane order. -/
def combine (op : RedOp) (ty : RedTy) (a b : Nat) : Nat × Flags :=
  match redInt ty with
  | some i =>
    let w := intWidth i
    let v := readInt (intSigned i) w
    match op with
    | .add => (wrapNat w ((a : Int) + b), 0#5)
    | .min => (if v b < v a then b else a, 0#5)
    | .max => (if v a < v b then b else a, 0#5)
    | .and => (Nat.land a b, 0#5)
    | .or => (Nat.lor a b, 0#5)
    | .xor => (Nat.xor a b, 0#5)
  | none =>
    let f := redFmt ty
    match op with
    | .min => fMinMax f false false a b
    | .max => fMinMax f true false a b
    | _ => fRound (fAdd .rne (decodeFmt f a) (decodeFmt f b)) f .rne 0

/-- A value that enters alone: a NaN becomes canonical, a signalling one raises NV. -/
def canonRed (ty : RedTy) (a : Nat) : Nat × Flags :=
  match redInt ty with
  | some _ => (a, 0#5)
  | none =>
    let v := decodeFmt (redFmt ty) a
    if v.isNan then ((redFmt ty).nanCode, flagIf v.isSig flagNV) else (a, 0#5)

/-- Identity (R177). -/
def identRed (op : RedOp) (ty : RedTy) : Nat :=
  let w := redWidth ty
  match redInt ty, op with
  | _, .add | _, .or | _, .xor => 0
  | _, .and => 2 ^ w - 1
  | some i, .min => wrapNat w (intMax i)
  | some i, .max => wrapNat w (intMin i)
  | none, .min => (roundToFormat (.inf false) (redFmt ty) .rne false 0).1
  | none, .max => (roundToFormat (.inf true) (redFmt ty) .rne false 0).1

/-- The fold of VSCAN over ascending lanes: lane, value, conditions. -/
def scanFrom (op : RedOp) (ty : RedTy) (excl : Bool) (w : Nat) (x : Nat → Nat) :
    Option (Nat × Nat) → List Nat → List (Nat × Nat × Flags)
  | _, [] => []
  | acc, l :: ls =>
    let before := match acc with
      | some (seg, v) => if seg = l / w then some v else none
      | none => none
    let r := match before with
      | none => canonRed ty (x l)
      | some v => combine op ty v (x l)
    let out := if excl then before.getD (identRed op ty) else r.1
    (l, out, r.2) :: scanFrom op ty excl w x (some (l / w, r.1)) ls

/-- VSCAN (R177). -/
def execVscan (o : Scan) (s : State) : Host.Outcome State Fault Refusal :=
  let wd := redWidth o.ty
  vecOp s [o.d.val, o.a.val] fun g i t =>
    let rs := scanFrom o.op o.ty o.excl (segWidth o.seg) (fun l => vBits wd (threadOf g.band l) o.a.val) none g.live
    match rs.find? fun r => r.1 == i with
    | some (_, v, fl) => raiseFlags (wrVFlt wd t o.d.val v) fl
    | none => t

/-! ### Predicates (R179-R181) -/

/-- A predicate source, inverted by its negation bit. -/
def srcP (t : Thread) (p : Nat) (neg : Bool) : Bool := rdP t p != neg

def logicP (f : Bool → Bool → Bool) (o : POp2) (s : State) : Host.Outcome State Fault Refusal :=
  vecOp s [] fun _ _ t => wrP t o.d.val (f (srcP t o.a.val o.na) (srcP t o.b.val o.nb))
def pop2OfC (o : CP3) : POp2 := { na := false, nb := false, d := o.d, a := o.a, b := o.b }
def notP (o : POp1) (s : State) : Host.Outcome State Fault Refusal :=
  vecOp s [] fun _ _ t => wrP t o.d.val (!srcP t o.a.val o.na)

def execPand (o : POp2) (s : State) : Host.Outcome State Fault Refusal := logicP (· && ·) o s
def execPandC (o : CP3) (s : State) : Host.Outcome State Fault Refusal := logicP (· && ·) (pop2OfC o) s
def execPor (o : POp2) (s : State) : Host.Outcome State Fault Refusal := logicP (· || ·) o s
def execPorC (o : CP3) (s : State) : Host.Outcome State Fault Refusal := logicP (· || ·) (pop2OfC o) s
def execPxor (o : POp2) (s : State) : Host.Outcome State Fault Refusal := logicP (· != ·) o s
def execPxorC (o : CP3) (s : State) : Host.Outcome State Fault Refusal := logicP (· != ·) (pop2OfC o) s
def execPnot (o : POp1) (s : State) : Host.Outcome State Fault Refusal := notP o s
def execPnotC (o : CP2) (s : State) : Host.Outcome State Fault Refusal := notP { na := false, d := o.d, a := o.a } s

/-- PTOV (R181). -/
def ptovV (ones : Bool) (d a : Nat) (s : State) : Host.Outcome State Fault Refusal :=
  vecOp s [d] fun _ _ t => wrV t d (if rdP t a then (if ones then BitVec.allOnes 32 else 1) else 0)
def execPtov (o : Ptov) (s : State) : Host.Outcome State Fault Refusal := ptovV o.ones o.d.val o.a.val s
def execPtovC (o : CRP) (s : State) : Host.Outcome State Fault Refusal := ptovV false o.d.val o.a.val s

/-- VTOP (R181). -/
def vtopV (wide : Bool) (d a : Nat) (s : State) : Host.Outcome State Fault Refusal :=
  vecOp s [a] fun _ _ t => wrP t d (getWide wide t a != 0)
def execVtop (o : Vtop) (s : State) : Host.Outcome State Fault Refusal := vtopV o.wide o.d.val o.a.val s
def execVtopC (o : CPR) (s : State) : Host.Outcome State Fault Refusal := vtopV false o.d.val o.a.val s

/-- PPOPC (R181). -/
def ppopcS (neg : Bool) (d a : Nat) (s : State) : Host.Outcome State Fault Refusal :=
  bandOnly s fun g =>
    .ok (wrS g.band d (BitVec.ofNat 64 (g.live.filter fun l => srcP (threadOf g.band l) a neg).length))
def execPpopc (o : Ppopc) (s : State) : Host.Outcome State Fault Refusal := ppopcS o.neg o.d.val o.a.val s
def execPpopcC (o : CRP) (s : State) : Host.Outcome State Fault Refusal := ppopcS false o.d.val o.a.val s

/-! ### Reductions -/

/-- One level of the tree of R184: adjacent nodes joined. -/
def treeLevel (op : RedOp) (ty : RedTy) : List (Option Nat) → List (Option Nat) × Flags
  | some a :: some b :: rest =>
    let r := combine op ty a b
    let q := treeLevel op ty rest
    (some r.1 :: q.1, r.2 ||| q.2)
  | some a :: none :: rest | none :: some a :: rest =>
    let r := canonRed ty a
    let q := treeLevel op ty rest
    (some r.1 :: q.1, r.2 ||| q.2)
  | none :: none :: rest =>
    let q := treeLevel op ty rest
    (none :: q.1, q.2)
  | [a] => ([a], 0#5)
  | [] => ([], 0#5)

/-- The band partial: five levels over 32 lanes. -/
def treeFold (op : RedOp) (ty : RedTy) : Nat → List (Option Nat) → Nat × Flags
  | 0, xs => ((xs.headD none).getD 0, 0#5)
  | n + 1, xs =>
    let r := treeLevel op ty xs
    let q := treeFold op ty n r.1
    (q.1, r.2 ||| q.2)

/-- VALUE's layout of a result (R184). -/
def redValue (ty : RedTy) (v : Nat) : DWord :=
  match redInt ty with
  | some i => BitVec.ofInt 64 (readInt (intSigned i) (intWidth i) v)
  | none => BitVec.ofNat 64 v

/-- The name of the group of a team (R186): its launch and group index, or for a group of its own its index in the grid. -/
def groupOwner (tm : Team) : Nat × Nat := (tm.lseq.toNat, if tm.grouped then tm.group else 2 ^ 63 + tm.gridIdx)

/-- The entry of a .cluster round: the group's open one of that slot, else the lowest free of 64. -/
def clusterEntry (rs : AList Round) (owner : Nat × Nat) (slot ctx : Nat) : Option Nat :=
  match rs.find? fun r => r.2.owner == owner && r.2.slot == slot && r.2.ctx == ctx with
  | some (n, _) => some n
  | none => (List.range 64).find? fun n => (aFind n rs).isNone

/-- The partials of a round folded one Combine at a time, in an order chosen by `State.tick` (R185).
DESIGN CHOICE (log 82). DESIGN CHOICE (log 82), DESIGN CHOICE (log 92). -/
def foldRound (op : RedOp) (ty : RedTy) : Nat → State → Nat → List Nat → (Nat × Flags) × State
  | 0, s, acc, _ => ((acc, 0#5), s)
  | _, s, acc, [] => ((acc, 0#5), s)
  | n + 1, s, acc, ps =>
    let (c, s) := choose s ps.length
    let r := combine op ty acc (ps.getD c 0)
    let (q, s) := foldRound op ty n s r.1 (ps.eraseIdx c)
    ((q.1, r.2 ||| q.2), s)

/-- A closed round's value: a first partial by choice, then the others. A partial of a narrower type is read in the layout that VALUE
gives it. DESIGN CHOICE (log 82), DESIGN CHOICE (log 92). DESIGN CHOICE (log 82), DESIGN CHOICE (log 92). -/
def closeValue (s : State) (r : Round) : (DWord × Flags) × State :=
  let ps := r.parts.map fun p => p.2.toNat % 2 ^ redWidth r.ty
  let (c, s) := choose s ps.length
  let (q, s) := foldRound r.op r.ty ps.length s (ps.getD c 0) (ps.eraseIdx c)
  ((redValue r.ty q.1, q.2), s)

/-- A round's result delivered to the executions that contributed. DEDUCED (log 15). DEDUCED (log 15). -/
def deliverRound (s : State) (bands : List Nat) (rn : Bool × Nat) (v : DWord) (fl : Flags) : State :=
  let take := fun x : VredExec =>
    if x.round = some rn ∧ x.value = none then { x with value := some v, flags := x.flags ||| fl } else x
  bands.foldl (fun s k => match bandOf s k with
    | none => s
    | some b => setBand s k { b with vreds := b.vreds.map take }) s

/-- A contribution to a round (R185): opens it, joins it, closes it. -/
def contribute (rs : AList Round) (n : Nat) (fresh : Round) (band : Nat) (v : DWord) : AList Round × Round :=
  let r := match aFind n rs with
    | some r => { r with parts := r.parts ++ [(band, v)] }
    | none => { fresh with parts := [(band, v)] }
  (aInsert n r rs, r)

/-- VRED (R184-R187). -/
def execVred (o : Red) (s : State) : Host.Outcome State Fault Refusal :=
  perGroup s fun g =>
    match rangeFault s.tick g.band.n 1 [o.a.val] with
    | some e => .exc e
    | none =>
      if 8 ≤ g.band.vreds.length then .hold (.polled stReduction)
      else
        let xs := (List.range 32).map fun l =>
          if g.live.contains l then some (vBits (redWidth o.ty) (threadOf g.band l) o.a.val) else none
        let p := treeFold o.op o.ty 5 xs
        let v := redValue o.ty p.1
        let put := fun (s : State) (round : Option (Bool × Nat)) (value : Option DWord) =>
          match bandOf s g.key with
          | some b => setBand s g.key
              { b with vreds := b.vreds ++ [{ round := round, lanes := g.live, value := value, flags := p.2 }] }
          | none => s
        match o.scope with
        | .band => .ok (put s none (some v))
        | .team slot count =>
          match teamOf s g.band.team with
          | none => .ok (put s none (some v))
          | some tm =>
            let fresh : Round := { op := o.op, ty := o.ty, count := count.toNat, parts := []
                                   owner := groupOwner tm, slot := slot.val, ctx := tm.ctx }
            let (rs, r) := contribute tm.rounds slot.val fresh g.key v
            let s := put s (some (false, slot.val)) none
            if r.parts.length < r.count then .ok (setTeam s g.band.team { tm with rounds := rs })
            else
              let s := setTeam s g.band.team { tm with rounds := aErase slot.val rs }
              let (q, s) := closeValue s r
              .ok (deliverRound s (r.parts.map (·.1)) (false, slot.val) q.1 q.2)
        | .cluster slot count =>
          match teamOf s g.band.team with
          | none => .ok (put s none (some v))
          | some tm =>
            let n := clusterOfCore g.core
            let cl := clusterOf s n
            let owner := groupOwner tm
            match clusterEntry cl.rounds owner slot.val tm.ctx with
            | none => .hold (.polled stReduction)
            | some ent =>
              let fresh : Round := { op := o.op, ty := o.ty, count := count.toNat, parts := [], owner := owner
                                     slot := slot.val, ctx := tm.ctx }
              let (rs, r) := contribute cl.rounds ent fresh g.key v
              let s := put s (some (true, ent)) none
              if r.parts.length < r.count then .ok (setCluster s n { cl with rounds := rs })
              else
                let s := setCluster s n { cl with rounds := aErase ent rs }
                let (q, s) := closeValue s r
                .ok (deliverRound s (r.parts.map (·.1)) (true, ent) q.1 q.2)

/-- The event of a VRED's completion (R187): the oldest of the band, once its value is known. A group that waits in
SRDW for this number captures the value. -/
def execVredCompletion (s : State) : Host.Outcome State Fault Refusal :=
  match s.cur with
  | .event (.vredCompletion core slot) =>
    match bandOf s (bandKey core slot) with
    | none => .next s
    | some b =>
      match b.vreds with
      | [] => .next s
      | x :: rest =>
        match x.value with
        | none => .next s
        | some v =>
          let seq := b.rdrSeq + 1
          let b := onLanes b x.lanes fun _ t => raiseFlags t x.flags
          let b := { b with
            vreds := rest, rdrValue := v, rdrSeq := seq
            threads := b.threads.map fun t => if t.wait = .rdr seq then { t with wait := .captured v } else t }
          .next (setBand s (bandKey core slot) b)
  | _ => .fault .noActor

/-- The number that SRDW names. -/
def rdwNumber (b : Band) : RegImm → BitVec 16
  | .reg r => (rdS b r.val).setWidth 16
  | .imm v => v.setWidth 16

/-- SRDW (R190). -/
def execSrdw (o : Rdw) (s : State) : Host.Outcome State Fault Refusal :=
  perGroup s fun g =>
    match o.what with
    | .seq => .ok (setBand s g.key (wrS g.band o.d.val (g.band.rdrSeq.setWidth 64)))
    | .wait n pc =>
      let done := fun (v : DWord) (ok : Bool) =>
        let b := wrS g.band o.d.val v
        let b := match pc with
          | some p => onLanes b g.live fun _ t => wrP t p.val ok
          | none => b
        GrpRes.ok (setBand s g.key b)
      match (threadOf g.band (g.live.headD 0)).wait with
      | .captured v => done v true
      | _ =>
        let m := rdwNumber g.band n
        let d := m - g.band.rdrSeq
        if d = 0 then done g.band.rdrValue true
        else if d.toNat ≤ g.band.vreds.length then .hold (.rdr m)
        else done g.band.rdrValue false

end Sys2Proof.Machine
end

