-- ==== Sys2Proof/Machine/Split.lean ====
section
/-! DEFINITION. The split stack with its spill area (07 R202, R203, R500), Divergence Deadlock (R211), loop ends (R217). -/

namespace Sys2Proof.Machine

/-- The band's depth, spilled entries counted (R500). -/
def depthOf (b : Band) : Nat := b.split.length + b.spilled.length

/-- The depth limit (R202). -/
def depthLimit (tm : Team) : Nat := 16 + tm.spillBytes / 16

/-- The address of spilled entry `j` of a band, 0 the first spilled (R202, R405). -/
def spillAddr (tm : Team) (b : Band) (j : Nat) : Nat :=
  tm.spill + (tm.gridIdx * tm.slots.length + b.idx) * tm.spillBytes + 16 * j

def splitBytes (e : SplitEntry) : List Byte :=
  leBytes 8 e.join.toNat ++ leBytes 4 e.mask.toNat ++ leBytes 4 e.arrived.toNat

def splitOfBytes (bs : List Byte) : SplitEntry :=
  { join := BitVec.ofNat 64 (leNat (bs.take 8)) &&& 0x007FFFFFFFFFFFFF
    mask := BitVec.ofNat 32 (leNat ((bs.drop 8).take 4)), arrived := BitVec.ofNat 32 (leNat ((bs.drop 12).take 4)) }

/-- The physical address of spilled entry `j`, by the context's translation, and whether its page is DISCARDED. An address outside
the virtual space is not present. DESIGN CHOICE (log 95). DEDUCED (log 35), DESIGN CHOICE (log 95). -/
def spillPage (s : State) (core : Nat) (tm : Team) (va : Nat) (isWrite : Bool) : Except Exc (Nat × Bool) × State :=
  if 2 ^ 55 ≤ va + 15 then (.error { cause := cPage, addr := va, info := 6 * 256 + kNotPresent }, s)
  else
    let (r, s) := access s (clusterOfCore core) tm.ctx va (.spill isWrite)
    (match r with
      | .error e => .error e
      | .ok (.bytes a) => .ok (a, false)
      | .ok (.revive a) | .ok (.zeros _ a) => .ok (a, true)
      | .ok .busy => .ok ((match walk s tm.ctx va with | .ok l => physOf l va | .error _ => 0), false), s)

/-- A write of a spilled entry, at home with the context's translation. DEDUCED (log 35).
DEDUCED (log 35), DESIGN CHOICE (log 95). -/
def spillWrite (s : State) (core : Nat) (tm : Team) (b : Band) (j : Nat) (e : SplitEntry) : Except Exc State :=
  let va := spillAddr tm b j
  let (r, s) := spillPage s core tm va true
  match r with
  | .error e => .error e
  | .ok (a, discarded) =>
    let s := match discarded, walk s tm.ctx va with | true, .ok l => revivePage s l | _, _ => s
    .ok (homeWrite s a (splitBytes e))

/-- A read of a spilled entry: the band's own, unless the program has written over it, which leaves the entry open (R202).
DEDUCED (log 35). -/
def spillRead (s : State) (core : Nat) (tm : Team) (b : Band) (j : Nat) (x : SpilledEntry) : Except Exc SplitEntry × State :=
  let (r, s) := spillPage s core tm (spillAddr tm b j) false
  match r with
  | .error e => (.error e, s)
  | .ok (a, discarded) =>
    let found := splitOfBytes (if discarded then List.replicate 16 0 else homeRead s a 16)
    if found = x.stored then (.ok x.entry, s)
    else
      let (c, s) := choose s 2
      (.ok (if c = 0 then x.entry else found), s)

/-- A push; on a full hardware stack the oldest hardware entry spills (R202). The depth has been checked. -/
def pushSplit (s : State) (k : Nat) (e : SplitEntry) : Except Exc State :=
  match bandOf s k with
  | none => .ok s
  | some b =>
    if b.split.length < 16 then .ok (setBand s k { b with split := e :: b.split })
    else
      match teamOf s b.team, b.split.getLast? with
      | some tm, some old =>
        match spillWrite s (k / Config.slotsPerCore) tm b b.spilled.length old with
        | .error x => .error x
        | .ok s => .ok (setBand s k
            { b with split := e :: b.split.dropLast, spilled := { entry := old, stored := old } :: b.spilled })
      | _, _ => .ok s

/-- Spilled entries reloaded, last spilled first, while there is room (R500): the fault of a read that fails. -/
def reloadSplits : Nat → State → Nat → Option Exc × State
  | 0, s, _ => (none, s)
  | fuel + 1, s, k =>
    match bandOf s k with
    | none => (none, s)
    | some b =>
      match b.spilled, teamOf s b.team with
      | x :: rest, some tm =>
        if 16 ≤ b.split.length then (none, s)
        else
          let (r, s) := spillRead s (k / Config.slotsPerCore) tm b rest.length x
          match r with
          | .error e => (some e, s)
          | .ok e => reloadSplits fuel (setBand s k { b with split := b.split ++ [e], spilled := rest }) k
      | _, _ => (none, s)

/-- The spilled entries of a band changed by `f`, each written to the spill area where its address can be written. -/
def changeSpilled (core : Nat) (f : Nat → SplitEntry → SplitEntry) : List SpilledEntry → State → Nat → State
  | [], s, _ => s
  | x :: rest, s, k =>
    match bandOf s k with
    | none => s
    | some b =>
      let j := rest.length
      let e := f (b.spilled.length - 1 - j) x.entry
      if e = x.entry then changeSpilled core f rest s k
      else
        let written := match teamOf s b.team with
          | some tm => spillWrite s core tm b j e
          | none => .ok s
        let (s, stored) := match written with | .ok s => (s, e) | .error _ => (s, x.stored)
        let put := fun b : Band => { b with spilled := b.spilled.modify (b.spilled.length - 1 - j) fun _ => { entry := e, stored := stored } }
        let s := match bandOf s k with | some b => setBand s k (put b) | none => s
        changeSpilled core f rest s k

/-- Lanes of a mask. -/
def maskLanes (m : Word) : List Nat := (List.range 32).filter (inMask m)

/-- What a settle did: the threads it released and the first fault of a reload. -/
structure Settled where
  released : List Nat
  fault : Option Exc
  state : State

/-- The loop of R203, with the reloads of R500. `tryLoad` is false once a reload of this settle has failed. -/
def settleLoop : Nat → Nat → Bool → Settled → Settled
  | 0, _, _, r => r
  | fuel + 1, k, tryLoad, r =>
    match bandOf r.state k with
    | none => r
    | some b =>
      match b.split with
      | [] => r
      | top :: rest =>
        let live := (maskLanes top.mask).filter fun i => !(threadOf b i).exited
        let popped := fun (b' : Band) (rel : List Nat) =>
          let s := setBand r.state k { b' with split := rest }
          if tryLoad then
            let (f, s) := reloadSplits 17 s k
            settleLoop fuel k f.isNone { released := r.released ++ rel, fault := f, state := s }
          else settleLoop fuel k false { r with released := r.released ++ rel, state := s }
        if live.isEmpty then popped b []
        else if live.all fun i => inMask top.arrived i then popped (gotoLanes b live (top.join + 4)) live
        else r

/-- Early arrivals: threads that wait at a JOIN whose entry was not the top when they reached it, and are not in the top entry's
arrived mask (R206, R211). A thread that arrived early at an entry that has since become the top is none: R211 does not say.
DESIGN CHOICE (log 108). DESIGN CHOICE (log 108). -/
def earlyArrivals (b : Band) : List (Nat × Nat) :=
  let top := match b.split with | e :: _ => e.arrived | [] => 0
  (List.range b.threads.length).filterMap fun i =>
    let t := threadOf b i
    match t.wait with
    | .join since true => if t.exited || inMask top i then none else some (since, i)
    | _ => none

/-- The earliest of pairs (step, lane), the lower lane on a tie. -/
def earliest : List (Nat × Nat) → Option (Nat × Nat)
  | [] => none
  | x :: xs =>
    match earliest xs with
    | none => some x
    | some y => if y.1 < x.1 then some y else some x

/-- Whether the band is in deadlock, and the lanes that take the fault with the JOIN's address (R211). -/
def deadlocked (b : Band) : Option (DWord × List Nat) :=
  match b.split with
  | [] => none
  | top :: _ =>
    let live := (maskLanes top.mask).filter fun i => !(threadOf b i).exited && !inMask top.arrived i
    let early := earlyArrivals b
    if b.threads.any (fun t => t.halted && !t.exited) then none
    else if live.all fun i => early.any fun e => e.2 == i then
      match earliest early with
      | none => none
      | some (_, i) =>
        let j := (threadOf b i).pc
        some (j, (early.map (·.2)).filter fun i => (threadOf b i).pc == j)
    else none

/-- Lanes cleared from the arrived masks of hardware entries. -/
def clearArrived (b : Band) (ls : List Nat) : Band :=
  let m : Word := ~~~ BitVec.ofNat 32 (laneMask ls)
  { b with split := b.split.map fun e => { e with arrived := e.arrived &&& m } }

/-- Lanes cleared from the arrived mask, and with `mask` from the mask, of the first `n` spilled entries counted from the last
spilled. -/
def clearSpilled (core : Nat) (mask : Bool) (ls : List Nat) (n : Nat) (s : State) (k : Nat) : State :=
  let m : Word := ~~~ BitVec.ofNat 32 (laneMask ls)
  let f := fun (i : Nat) (e : SplitEntry) =>
    if i < n then { e with arrived := e.arrived &&& m, mask := if mask then e.mask &&& m else e.mask } else e
  match bandOf s k with
  | some b => changeSpilled core f b.spilled s k
  | none => s

/-- The lanes that take a reload's fault (R500): of the third set, the lowest live lane at TLEVEL 0. DEDUCED (log 94).
DEDUCED (log 94). -/
def reloadTakers (b : Band) (p released dead : List Nat) : List Nat :=
  let ok := fun i => let t := threadOf b i; !t.exited && !t.tlevel && !dead.contains i
  let a := p.filter ok
  if !a.isEmpty then a
  else
    let c := released.filter ok
    if !c.isEmpty then c
    else (lanesWhere b fun i _ => ok i).take 1

/-- Settling after an instruction whose threads are `p` and whose first word is `word`: R203, the deadlock check of R211, the
reload faults of R500. DEDUCED (log 33). DEDUCED (log 33). -/
def settle (s : State) (k : Nat) (p : List Nat) (word : Nat) : State :=
  match bandOf s k with
  | none => s
  | some b0 =>
    let (pre, s) := if b0.reload.isSome then reloadSplits 17 s k else (none, s)
    let s := match bandOf s k with
      | some b => if pre.isNone then setBand s k { b with reload := none } else s
      | none => s
    let r := settleLoop (depthOf b0 + 1) k pre.isNone { released := [], fault := pre, state := s }
    match bandOf r.state k with
    | none => r.state
    | some b =>
      let dead := deadlocked b
      let deadLanes := match dead with | some (_, ls) => ls | none => []
      let fault := r.fault
      let takers := match fault with | some _ => reloadTakers b p r.released (deadLanes ++ s.early.map (·.lane)) | none => []
      -- a thread that took an earlier fault of this reload retries it too
      let b' := match fault with
        | some _ => { b with reload := some (b.reload.getD 0 ||| BitVec.ofNat 32 (laneMask takers)) }
        | none => b
      let s := setBand r.state k (clearArrived b' deadLanes)
      let s := if deadLanes.isEmpty then s
        else clearSpilled (k / Config.slotsPerCore) false deadLanes b.spilled.length s k
      let fs := deadLanes.map (fun i => FaultRec.mk i cDeadlock 0 (tinfoOf 0x00003C20 0) (threadOf b i).pc)
      let gs := match fault with
        | some e => takers.map fun i =>
            FaultRec.mk i e.cause (BitVec.ofNat 64 e.addr) (tinfoOf word e.info) (threadOf b i).pc
        | none => []
      if fs.isEmpty && gs.isEmpty then s
      else
        -- a reload's fault follows the instruction's effect: its threads have completed it (R217)
        let early := Nat.lor s.faulted (laneMask (deadLanes ++ s.early.map (·.lane)))
        { takeTraps s k false (fs ++ gs) with faulted := early }

/-- A retry of an outstanding reload at the TRET of a thread that took its fault (R500), then settling (R203). -/
def settleTret (s : State) (k : Nat) (p : List Nat) (word : Nat) : State :=
  settle s k p word

/-! ### Loop ends (R217) -/

/-- The evaluation of the loop entries whose end address is `at_`: `t` the threads that left, `seq` those that leave for
`next`, of which `trapped` are in their handlers after a TRAP. DESIGN CHOICE (log 93). -/
def evalLoops : Nat → State → Nat → DWord → List Nat → List Nat → List Nat → State
  | 0, s, _, _, _, _, _ => s
  | fuel + 1, s, k, at_, t, seq, trapped =>
    match bandOf s k with
    | none => s
    | some b =>
      match b.loops with
      | [] => s
      | e :: rest =>
        if e.fin ≠ at_ then s
        else if !t.isEmpty then evalLoops fuel (setBand s k { b with loops := rest }) k at_ t seq trapped
        else if seq.isEmpty then s
        else if e.remaining = 1 then
          evalLoops fuel (setBand s k { b with loops := rest }) k at_ t seq trapped
        else
          let b := { b with loops := { e with remaining := e.remaining - 1 } :: rest }
          setBand s k (onLanes b seq fun i th =>
            if trapped.contains i then { th with tpc := e.start &&& 0x007FFFFFFFFFFFFC } else { th with pc := e.start })

/-- Waiting threads complete the instruction at `at_` (R301): they go to `next`, and the loop end is evaluated. -/
def finishWait (s : State) (k : Nat) (ls : List Nat) (at_ next : DWord) : State :=
  evalLoops 5 (gotoBand s k ls next) k at_ [] ls []

end Sys2Proof.Machine
end

