-- ==== Sys2Proof/Machine/Atomics.lean ====
section
/-! DEFINITION. Atomics and tumblers (10). -/

namespace Sys2Proof.Machine

/-! ### Atomics (R291-R298) -/

/-- The value of `n` bytes in registers `r` upward. -/
def regWords (t : Thread) : Nat → Nat → Nat
  | 0, _ => 0
  | n + 1, r => (rdV t r).toNat + 2 ^ 32 * regWords t n (r + 1)

/-- One atomic instruction: `n` bytes, operand `c`, and for CAS the expected value in `d`. -/
def atomicOp (s : State) (fn : AtomFn) (n d c : Nat) (mem : MemOp) (ord : Order) (sc : Scope) (ch : Hint) :
    Host.Outcome State Fault Refusal :=
  memLanes s ([d, c] ++ memRegs mem) fun g s _ t =>
    let va := memAddr g.band t mem
    let (r, s) := locate s g.core g.band.team mem.stash va n .atomic
    foundIssue (if mem.stash then r else sysAtomic s (grpCtx s g) r fn sc va .atomic, s)
      (fun loc => .ops [.atomic fn loc n (regWords t (n / 4) c) (regWords t (n / 4) d) (.vec d) ord sc ch] id) (.ops [] id)

/-- ATOM (R298). -/
def execAtom (o : Atom) (s : State) : Host.Outcome State Fault Refusal :=
  atomicOp s (.int o.op) (if o.wide then 8 else 4) o.d.val o.c.val o.mem o.ord o.sc o.ch
/-- ATOMF (R298). -/
def execAtomf (o : Atomf) (s : State) : Host.Outcome State Fault Refusal :=
  atomicOp s (.flt o.op o.ty) (atomfBytes o.ty) o.d.val o.c.val o.mem o.ord o.sc o.ch
/-- CAS (R298). -/
def execCas (o : Cas) (s : State) : Host.Outcome State Fault Refusal :=
  atomicOp s .cas (if o.wide then 8 else 4) o.d.val o.c.val o.mem o.ord o.sc o.ch
/-- CAS2 (R298). -/
def execCas2 (o : Cas2) (s : State) : Host.Outcome State Fault Refusal :=
  atomicOp s .cas 16 o.d.val o.c.val o.mem o.ord o.sc o.ch

/-! ### Tumblers (R299-R303) -/

def tumblerOf (tm : Team) (t : Nat) : Tumbler := aGet { expect := 0, arrived := 0, phase := false } t tm.tumblers
def setTumbler (tm : Team) (t : Nat) (x : Tumbler) : Team := { tm with tumblers := aInsert t x tm.tumblers }

/-- `n` units one after the other (R300): the tumbler, the phase that the last counted toward, whether it flipped. -/
def arriveUnits : Nat → Tumbler → Bool → Bool → Tumbler × Bool × Bool
  | 0, x, last, flip => (x, last, flip)
  | n + 1, x, _, flip =>
    let last := x.phase
    let a := x.arrived + 1
    if a = x.expect then arriveUnits n { x with arrived := 0, phase := !x.phase } last true
    else arriveUnits n { x with arrived := a } last flip

/-- The groups of a band that wait in TWAIT on tumbler `t`: the address of the instruction, its .cluster, the lanes. -/
def tumblerWaiters (b : Band) (t : Nat) : List (DWord × Bool × List Nat) :=
  let w := (lanesWhere b fun _ th => match th.wait with | .tumbler x _ => x == t | _ => false)
  let key := fun i =>
    let th := threadOf b i
    (th.pc, (match th.wait with | .tumbler _ c => c | _ => false), th.waitId)
  ((w.map key).eraseDups).map fun k => (k.1, k.2.1, w.filter fun i => key i == k)

/-- Threads in TWAIT have observed the arrivals of a tumbler, and so the rows and bags that running commands have counted there (R288,
R289). DEDUCED (log 47). -/
def observeTumbler (s : State) (team t band : Nat) (lanes : List Nat) : State :=
  match teamOf s team with
  | none => s
  | some tm =>
    if (coreOf s tm.core).channels.isEmpty then s
    else
      let see := fun (tm : Team) (q : Nat × Channel) => match q.2.queue with
        | c :: _ => if c.team == team && c.tumb == some t then observe tm band lanes q.1 c.counted else tm
        | [] => tm
      setTeam s team ((coreOf s tm.core).channels.foldl see tm)

/-- The waiting TWAITs of a team's bands complete at a flip (R301). -/
def releaseTumbler (s : State) (team t : Nat) : State :=
  match teamOf s team with
  | none => s
  | some tm =>
    tm.slots.foldl (fun s slot =>
      let k := bandKey tm.core slot
      match bandOf s k with
      | none => s
      | some b =>
        (tumblerWaiters b t).foldl (fun s (pc, cluster, ls) =>
          let s := finishWait (observeTumbler s team t k ls) k ls pc (pc + 12)
          if cluster then dropAll s (.thread tm.core team tm.ctx) .cluster else s) s) s

/-- An arrival of `n` units (R300): none when EXPECT is 0; else the phase of the last unit. -/
def arrive (s : State) (team t n : Nat) : Option Bool × State :=
  match teamOf s team with
  | none => (none, s)
  | some tm =>
    let x := tumblerOf tm t
    if x.expect = 0 then (none, s)
    else
      let (x, last, flip) := arriveUnits n x x.phase false
      let s := setTeam s team (setTumbler tm t x)
      (some last, if flip then releaseTumbler s team t else s)

/-- Register Range of a tumbler number (R303). -/
def tumblerRange (tm : Team) (t : Nat) : Option Exc := if tm.tumblerCount ≤ t then some (rangeExc 4 t) else none

/-- A tumbler instruction on its team after the Register Range check. -/
def onTumbler (s : State) (t : Nat) (f : Grp → Team → GrpRes) : Host.Outcome State Fault Refusal :=
  perGroup s fun g =>
    match teamOf s g.band.team with
    | none => .ok s
    | some tm => match tumblerRange tm t with
      | some e => .exc e
      | none => f g tm

def tumblerExc (t : Nat) : Exc := { cause := cTumbler, info := t }

/-- TINIT (R303). -/
def execTinit (o : Tinit) (s : State) : Host.Outcome State Fault Refusal :=
  onTumbler s o.t.val fun g tm =>
    let v := match o.v with | .reg r => (rdS g.band r.val).toNat | .imm v => v.toNat
    if v = 0 ∨ 65535 < v then .exc (tumblerExc o.t.val)
    else
      let x := tumblerOf tm o.t.val
      .ok (setTeam s g.band.team (setTumbler tm o.t.val { x with expect := BitVec.ofNat 16 v, arrived := 0 }))

/-- PEXP of a band. -/
def pexpOf (b : Band) (t : Nat) : Bool := b.pexp.getLsbD t
def setPexp (b : Band) (t : Nat) (v : Bool) : Band :=
  let m : BitVec 24 := BitVec.ofNat 24 (2 ^ t)
  { b with pexp := if v then b.pexp ||| m else b.pexp &&& ~~~ m }

/-- TARV (R303): the arrival is an operation that is performed after every earlier one of its threads. An EXPECT of 0 can change
before that, so the fault waits for them. DESIGN CHOICE (log 14). -/
def execTarv (o : Tarv) (s : State) : Host.Outcome State Fault Refusal :=
  onTumbler s o.t.val fun g tm =>
    let n := match o.count with | some c => c.toNat | none => g.live.length
    if (tumblerOf tm o.t.val).expect ≠ 0 then .ok (issueOps s g g.live [.tarv o.t.val n o.cluster])
    else if s.pending.any fun x => x.issuer == g.key && x.lanes.any fun i => g.live.contains i then memoryHold
    else .exc (tumblerExc o.t.val)

/-- The comparison bit of TWAIT and TTEST. -/
def tumblerBit (b : Band) (t : Nat) : Option Bool → Bool
  | some p => p
  | none => pexpOf b t

/-- TWAIT (R301, R303). -/
def execTwait (o : Twait) (s : State) : Host.Outcome State Fault Refusal :=
  onTumbler s o.t.val fun g tm =>
    if (tumblerOf tm o.t.val).phase = tumblerBit g.band o.t.val o.parity then .wait (.tumbler o.t.val o.cluster)
    else
      let s := observeTumbler s g.band.team o.t.val g.key g.live
      .ok (if o.cluster then dropAll s (grpAgent s g) .cluster else s)

/-- The word of TTEST.ph (R299). -/
def tumblerWord (x : Tumbler) (pexp : Bool) : DWord :=
  BitVec.ofNat 64 (x.arrived.toNat + x.expect.toNat * 2 ^ 16 + bit x.phase * 2 ^ 32 + bit pexp * 2 ^ 33)

/-- TTEST (R303). -/
def execTtest (o : Ttest) (s : State) : Host.Outcome State Fault Refusal :=
  onTumbler s o.t.val fun g tm =>
    let x := tumblerOf tm o.t.val
    match o.what with
    | .test pd parity =>
      .ok (setBand s g.key (onLanes g.band g.live fun _ t =>
        wrP t pd.val (x.phase != tumblerBit g.band o.t.val parity)))
    | .phase sd => .ok (setBand s g.key (wrS g.band sd.val (tumblerWord x (pexpOf g.band o.t.val))))

end Sys2Proof.Machine
end

