-- ==== Sys2Proof/Machine/Convert.lean ====
section
/-! DEFINITION. Conversions: VCVT, VQNT, VDQNT, VPACK, VUNPK (03, entries; R84-R96). -/

namespace Sys2Proof.Machine

/-- Bits of an operand of a type: its register, or pair for a 64-bit type. -/
def tyBits (ty : Ty) (t : Thread) (r : Nat) : Nat := vBits (8 * tyBytes ty) t r

/-- One conversion: IntNarrow, RoundToInteger or RoundToFormat by the types (R84-R88). -/
def convertOne (dty sty : Ty) (mode : Mode) (sat : Bool) (rnd bits : Nat) : Nat × Flags :=
  match dty, sty with
  | .int i, .int k => (intNarrow (readInt (intSigned k) (intWidth k) bits) i sat, 0#5)
  | .int i, _ => roundToInteger (decodeTy sty bits) i mode sat rnd
  | _, _ =>
    match fmtOfTy dty with
    | some f => roundToFormat (decodeTy sty bits) f mode sat rnd
    | none => (0, 0#5)

/-- A converted value in `vd`, widened by R76, with its conditions. -/
def putTy (ty : Ty) (t : Thread) (d : Nat) (r : Nat × Flags) : Thread :=
  raiseFlags (wrVFlt (8 * tyBytes ty) t d (widen ty r.1)) r.2

/-- VCVT. -/
def execVcvt (o : Cvt) (s : State) : Host.Outcome State Fault Refusal :=
  fltOp s [o.d.val, o.a.val] o.rnd fun g mode i t =>
    putTy o.dty t o.d.val (convertOne o.dty o.sty mode o.sat (srOf g.band i 0) (tyBits o.sty t o.a.val))

/-- The greatest magnitude of finite values, as m * 2^e. -/
def maxMag : List Val → Nat × Int
  | [] => (0, 0)
  | .fin _ m e _ :: vs =>
    let r := maxMag vs
    if magLe m e r.1 r.2 then r else (m, e)
  | _ :: vs => maxMag vs

/-- VQNT: one block of the active lanes; the scale byte goes to `sc` zero-extended. -/
def execVqnt (o : Qnt) (s : State) : Host.Outcome State Fault Refusal :=
  bandOnly s fun g =>
    match rangeFault s.tick g.band.n 1 [o.d.val, o.a.val] with
    | some e => .error e
    | none =>
      let mode := modeOf g.band.rm o.rnd
      let b := srStep g.band mode
      let val := fun t : Thread => decodeTy o.sty (tyBits o.sty t o.a.val)
      let values := g.live.map fun i => val (threadOf b i)
      if values.any fun v => v.isNan || v.isInf then
        let b := onLanes b g.live fun _ t =>
          putTy o.dty t o.d.val (0, flagIf ((val t).isInf || (val t).isSig) flagNV)
        .ok (wrS b o.sc.val 255)
      else
        let top := maxMag values
        let e := blockScale top.1 top.2 o.dty
        let b' := onLanes b g.live fun i t =>
          let y := (val t).scale (127 - (e : Int))
          let r := match o.dty with
            | .int k => roundToInteger y k mode o.sat (srOf b i 0)
            | _ => match fmtOfTy o.dty with
              | some f => roundToFormat y f mode o.sat (srOf b i 0)
              | none => (0, 0#5)
          putTy o.dty t o.d.val r
        .ok (wrS b' o.sc.val (BitVec.ofNat 64 e))

/-- VDQNT: the element times 2^(e - 127); scale byte 255 gives the canonical NaN and no condition. -/
def execVdqnt (o : Dqnt) (s : State) : Host.Outcome State Fault Refusal :=
  fltOp s [o.d.val, o.a.val, o.b.val] o.rnd fun g mode i t =>
    let e := vBits 8 t o.b.val
    match fmtOfTy o.dty with
    | some f =>
      let r := if e = 255 then (f.nanCode, 0#5)
        else roundToFormat ((decodeTy o.sty (vBits 8 t o.a.val)).scale ((e : Int) - 127)) f mode o.sat (srOf g.band i 0)
      putTy o.dty t o.d.val r
    | none => t

/-- Element type and width of a VPACK destination. -/
def packElem : Ty → Ty × Nat
  | .flt .f16x2 => (.flt .f16, 16)
  | .flt .bf16x2 => (.flt .bf16, 16)
  | .int i => (.int i, intWidth i)
  | ty => (ty, 8)

/-- The elements of a VPACK from element `j` up: the word's value and the joined conditions. -/
def packFrom (elem : Ty) (w : Nat) (sty : Ty) (mode : Mode) (sat : Bool) (sr : Nat → Nat) : Nat → List Nat → Nat × Flags
  | _, [] => (0, 0#5)
  | j, x :: xs =>
    let r := convertOne elem sty mode sat (sr j) x
    let rest := packFrom elem w sty mode sat sr (j + 1) xs
    (r.1 % 2 ^ w + 2 ^ w * rest.1, r.2 ||| rest.2)

/-- VPACK. -/
def execVpack (o : Pack) (s : State) : Host.Outcome State Fault Refusal :=
  let more := match o.more with | some (c, e) => [c.val, e.val] | none => []
  let src := [o.a.val, o.b.val] ++ more
  fltOp s (o.d.val :: src) o.rnd fun g mode i t =>
    let (elem, w) := packElem o.dty
    let r := packFrom elem w o.sty mode o.sat (srOf g.band i) 0 (src.map (tyBits o.sty t))
    raiseFlags (wrV t o.d.val (BitVec.ofNat 32 r.1)) r.2

/-- The element type and width of a VUNPK source: two elements of 16 bits or four of 8. -/
def unpackElem : Ty → Ty × Nat
  | .flt .f16x2 | .flt .f16 => (.flt .f16, 16)
  | .flt .bf16x2 | .flt .bf16 => (.flt .bf16, 16)
  | .int i => (.int i, intWidth i)
  | ty => (ty, 8)

/-- The registers `d` upward take elements 0 upward. -/
def unpackFrom (dty elem : Ty) (w word : Nat) : Nat → Nat → Nat → Thread → Thread
  | 0, _, _, t => t
  | n + 1, j, d, t =>
    unpackFrom dty elem w word n (j + 1) (d + 1)
      (putTy dty t d (convertOne dty elem .rne false 0 (bitsOf word (w * j) w)))

/-- VUNPK: the highest register written is the one checked beside `va`. -/
def execVunpk (o : Unpk) (s : State) : Host.Outcome State Fault Refusal :=
  let (elem, w) := unpackElem o.sty
  let n := 32 / w
  vecOp s [o.d.val + n - 1, o.a.val] fun _ _ t => unpackFrom o.dty elem w (rdV t o.a.val).toNat n 0 o.d.val t

end Sys2Proof.Machine
end

