-- ==== Sys2Proof/Machine/Matrix.lean ====
section
/-! DEFINITION. Matrix and tile instructions (11), with the elision decisions of 12. What an instruction writes is formed at
issue; MATRIX_COMPLETION puts it in place in one step (R315). -/

namespace Sys2Proof.Machine

/-! ### Faults -/

/-- One of several faults of one check, by choice. -/
def pickExc (tick : Nat) : List Exc → Option Exc
  | [] => none
  | [e] => some e
  | e :: es => some ((e :: es).getD (Config.choice tick (es.length + 1) % (es.length + 1)) e)

/-- Register Range candidates: vector registers, tiles, scale columns (R46, R305). -/
def rangeCands (g : Grp) (tm : Team) (regs tiles cols : List Nat) : List Exc :=
  ((regs.filter fun r => decide (g.band.n ≤ r)).map (rangeExc 1))
    ++ ((tiles.filter fun t => decide (tm.tileCount ≤ t)).map (rangeExc 2))
    ++ ((cols.filter fun c => decide (32 * tm.tileCount ≤ c)).map (rangeExc 3))

/-- A matrix instruction on its team after the Register Range check. -/
def onTiles (s : State) (regs tiles cols : List Nat) (f : Grp → Team → GrpRes) : Host.Outcome State Fault Refusal :=
  perGroup s fun g =>
    match teamOf s g.band.team with
    | none => .ok s
    | some tm => match pickExc s.tick (rangeCands g tm regs tiles cols) with
      | some e => .exc e
      | none => f g tm

/-! ### Stash operands (R308, R309) -/

/-- A stash operand: stored rows of `len` bytes, `rows` of them. -/
structure Stored where
  base : Nat
  rowp : Nat
  tilep : Nat
  rows : Nat
  len : Nat
  deriving DecidableEq, Repr

/-- The offset of stored row `q`. -/
def Stored.row (o : Stored) (q : Nat) : Nat :=
  o.base + q % (o.rows / 2) * o.rowp + q / (o.rows / 2) * o.tilep

def Stored.all (o : Stored) : List (Nat × Nat) := (List.range o.rows).map fun q => (o.row q, o.len)

/-- The first byte of ranges beyond the allocation: the lowest offset outside. -/
def firstOutside (tm : Team) (rs : List (Nat × Nat)) : Option Nat :=
  let lim := 1024 * tm.slotCount
  (rs.filterMap fun r => if lim < r.1 + r.2 then some (max lim r.1) else none).min?

/-- Operand Invalid, Alignment, Address of an operand whose alignment is `al`. -/
def storedCheck (tm : Team) (pack : DWord) (al : Nat) (o : Stored) : Option Exc :=
  if bitsOf pack.toNat 36 28 ≠ 0 then some { cause := cOperand }
  else if o.base % al ≠ 0 ∨ o.rowp % al ≠ 0 ∨ o.tilep % al ≠ 0 then some { cause := cAlignment, addr := o.base }
  else match firstOutside tm o.all with
    | some a => some { cause := cAddress, addr := a }
    | none => none

/-- The stash as a group's matrix reads of some ranges see it: bytes of ENGINE slots read as thread loads read them (R289). -/
def viewStash (s : State) (g : Grp) (rs : List (Nat × Nat)) : AList Byte × State :=
  let k := g.band.team
  match teamOf s k with
  | none => ([], s)
  | some tm =>
    if tm.early.isEmpty && !(tm.latches.any fun e => e.2.engine) then (tm.stash, s)
    else
      let open_ := (rs.flatMap fun r => addrRange r.1 r.2).filter fun o => !(aGet [] o tm.early).isEmpty || !(toCome s tm k o).isEmpty
      open_.foldl (fun (x : AList Byte × State) o =>
        let (bs, s) := earlyBytes tm k g.key g.live o x.2 [aGet 0 o tm.stash]
        (aSet 0 o (bs.headD 0) x.1, s)) (tm.stash, { s with picks := [] })

/-- The fault of the window fills that accesses of stash ranges need: Page before Memory Lost (R225, R248, R253, R316). -/
def rangesFault (s : State) (tm : Team) (write : Bool) (rs : List (Nat × Nat)) : Option Exc :=
  let es := rs.filterMap fun r => fillFault s tm r.1 r.2 write (if write then 1 else 0)
  (es.find? fun e => e.cause == cPage) <|> es.head?

/-- A stash operand's ranges meet a window that takes no access now (R479). -/
def rangesBusy (s : State) (tm : Team) (rs : List (Nat × Nat)) : Bool := rs.any fun r => windowBusy s tm r.1 r.2

/-- Reads of stash ranges by a matrix instruction: window granules filled, the reads noted, their lines charged, those of a CONST operand
of a NOP or COPY among them. DESIGN CHOICE (log 72). -/
def readRanges (s : State) (g : Grp) (rs : List (Nat × Nat)) : State :=
  rs.foldl (fun s r =>
    let s := note s { ctx := grpCtx s g, core := g.core, band := some g.key, instr := some s.seq, lane := g.live.headD 0, va := none
                      stash := some (g.band.team, r.1), len := r.2, read := true, write := false, atomic := false, engine := false
                      pc := g.addr }
    touchLines (touchStash s g.band.team r.1 r.2 false) g.key s.seq (.stash g.band.team r.1) r.2 (some (0, 0))) s

/-- A matrix instruction's reads of stash ranges after the faults of their window fills. -/
def withRanges (s : State) (g : Grp) (tm : Team) (rs : List (Nat × Nat)) (f : AList Byte → State → GrpRes) : GrpRes :=
  match rangesFault s tm false rs with
  | some e => .exc e
  | none =>
    if rangesBusy s tm rs then memoryHold
    else
      let (m, s) := viewStash (readRanges s g rs) g rs
      f m s

/-! ### Multiplicands (R307, R320) -/

/-- Bytes of an element. -/
def mElem (ty : Ty) : Nat := tyBytes ty
/-- K of an MMA (R320). -/
def mK : Ty → Nat
  | .flt .f32 => 16
  | .flt .f64 => 8
  | .flt _ => 32
  | .int _ | .b8 _ => 64
/-- Elements of a K-group (R321). -/
def mG : Ty → Nat
  | .flt .f32 => 8
  | .flt _ => 16
  | .int _ | .b8 _ => 32

/-- Registers of a vector block that holds `k` elements in each lane. -/
def blockRegs (ty : Ty) (k : Nat) : Nat := k * mElem ty / 4

/-- Element `k` of a lane's block at register `r`. -/
def blockElem (ty : Ty) (t : Thread) (r k : Nat) : Nat :=
  let es := mElem ty
  if es = 8 then (rdV64 t (r + 2 * k)).toNat
  else bitsOf (rdV t (r + k * es / 4)).toNat (8 * (k * es % 4)) (8 * es)

/-- The stored form of a multiplicand with `k` elements in each of 32 rows. -/
def storedOf (ty : Ty) (k : Nat) (trans : Bool) (base pack : DWord) : Stored :=
  { base := base.toNat, rowp := bitsOf pack.toNat 0 16, tilep := bitsOf pack.toNat 16 16
    rows := if trans then k else 32, len := (if trans then 32 else k) * mElem ty }

/-- The registers that a multiplicand names as a vector block. -/
def mcandRegs (ty : Ty) (k : Nat) : Mcand → List Nat
  | .vec r => (List.range (blockRegs ty k)).map (r.val + ·)
  | .stash .. => []

/-- A multiplicand's stash operand with its pack word and direction. -/
def mcandStored (ty : Ty) (k : Nat) (b : Band) : Mcand → Option (Stored × DWord × Bool)
  | .vec _ => none
  | .stash base pack tr => some (storedOf ty k tr (rdS b base.val) (rdS b pack.val), rdS b pack.val, tr)

/-- The rows of a multiplicand: 32 lists of `k` element patterns. -/
def mcandRows (ty : Ty) (k : Nat) (b : Band) (m : AList Byte) (c : Mcand) : List (List Nat) :=
  let es := mElem ty
  match c with
  | .vec r => (List.range 32).map fun x => (List.range k).map fun i => blockElem ty (threadOf b x) r.val i
  | .stash base pack tr =>
    let o := storedOf ty k tr (rdS b base.val) (rdS b pack.val)
    (List.range 32).map fun x => (List.range k).map fun i =>
      let off := if tr then o.row i + x * es else o.row x + i * es
      leNat (readBytes 0 m off es)

/-! ### Operand classes (R343, R344) -/

/-- A slot counts as PENDING (R343). -/
def slotBusy (tm : Team) (n : Nat) : Bool :=
  slotPending tm n || ((latchOf tm n).engine && (latchOf tm n).count != 0)

/-- The slots that an operand's bytes lie in. -/
def storedSlots (o : Stored) : List Nat := (o.all.flatMap fun r => slotsOf r.1 r.2).eraseDups

/-- An operand class: CLASS with the operand's NONFINITE. -/
inductive OpClass where
  | zero
  | const (nf : Bool)
  | ident
  | general (nf : Bool)
  deriving DecidableEq, Repr

def OpClass.nf : OpClass → Bool
  | .zero | .ident => false
  | .const nf | .general nf => nf

/-- R344. -/
def isIdent (tm : Team) (code : Nat) (o : Stored) (trans bs : Bool) : Bool :=
  let n := o.base / 1024
  !trans && !bs && o.rowp == 64 && o.tilep == 1024 && o.base % 1024 == 0
    && slotClsOf tm n == .ident code false && slotClsOf tm (n + 1) == .ident code true
    && !slotBusy tm n && !slotBusy tm (n + 1)

/-- The operand class of a multiplicand; `mma` is false for MMAS. DEDUCED (log 84). DEDUCED (log 84). -/
def opClass (tm : Team) (ty : Ty) (k : Nat) (b : Band) (bs mma : Bool) (c : Mcand) : OpClass :=
  match mcandStored ty k b c with
  | none => .general true
  | some (o, _, tr) =>
    let slots := storedSlots o
    let nf := slots.any fun n => (slotClsOf tm n).nonfinite || slotBusy tm n
    if slots.any (slotBusy tm) then .general nf
    else if slots.all fun n => slotClsOf tm n == .zero then .zero
    else
      let same := match slotClsOf tm (slots.headD 0) with
        | .const v _ => slots.all fun n => match slotClsOf tm n with | .const w _ => w == v | _ => false
        | _ => false
      if same then .const nf
      else if mma && isIdent tm (tyCode ty) o tr bs then .ident
      else .general nf

/-! ### Decisions (R346) -/

inductive Decision where
  | nop | copy | full
  /-- IDENT on A, or on B. -/
  | ident (onB : Bool)
  deriving DecidableEq, Repr

/-- Decide, with `refused`. DEDUCED (log 84). DEDUCED (log 84). -/
def decideMma (ty : Ty) (bs mma same tcNf : Bool) (ca cb : OpClass) : Decision × Bool :=
  let isI8 := match ty with | .int _ => true | _ => false
  if ty = .flt .f64 ∨ bs then (.full, false)
  else
    let otherNf := fun (x other : OpClass) => !isI8 && (other != .zero && other.nf) && x == x
    let zero := fun (_ : Unit) => if same && (isI8 || !tcNf) then Decision.nop else .copy
    let refA := ca == .zero && otherNf ca cb
    let refB := cb == .zero && otherNf cb ca
    if ca = .zero ∧ !refA then (zero (), false)
    else if cb = .zero ∧ !refB then (zero (), refA)
    else
      let r := refA || refB
      if mma && ca == .ident && !otherNf ca cb then (.ident false, r)
      else
        let r := r || (mma && ca == .ident)
        if mma && cb == .ident && !otherNf cb ca then (.ident true, r)
        else (.full, r || (mma && cb == .ident))

/-- The elision counters after a decision (R354, R355). -/
def countDecision (s : State) (core : Nat) (d : Decision) (refused : Bool) (ca cb : OpClass) : State :=
  let c := coreOf s core
  let isConst := fun x : OpClass => match x with | .const _ => 1 | _ => 0
  let consts : Nat := match d with
    | .full => isConst ca + isConst cb
    | .ident onB => if onB then isConst ca else isConst cb
    | .nop | .copy => 0
  setCore s core { c with
    mmacnt := c.mmacnt + 1
    elznop := if d = .nop then c.elznop + 1 else c.elznop
    elzcopy := if d = .copy then c.elzcopy + 1 else c.elzcopy
    elident := (match d with | .ident _ => c.elident + 1 | _ => c.elident)
    elconst := c.elconst + BitVec.ofNat 48 consts
    elrefuse := if refused then c.elrefuse + 1 else c.elrefuse }

/-! ### Results (R317, R321, R322, R348, R349) -/

/-- One pair of a sum: its K index and the two patterns. -/
abbrev MPair := Nat × Val × Val

/-- Window28Sum group after group. -/
def sumGroups (groupSize : Nat) (pairs : List MPair) : Nat → Nat → Nat → Nat × Flags
  | 0, _, acc => (acc, 0#5)
  | n + 1, g, acc =>
    let mine := (pairs.filter fun p => p.1 / groupSize == g).map (·.2)
    let r := window28Sum acc mine
    let q := sumGroups groupSize pairs n (g + 1) r.1
    (q.1, r.2 ||| q.2)

/-- The chain of .f64. -/
def chain64 : List MPair → Nat → Nat × Flags
  | [], acc => (acc, 0#5)
  | p :: ps, acc =>
    let r := fRound (fMa .rne false false p.2.1 p.2.2 (decodeFmt fmtF64 acc)) fmtF64 .rne 0
    let q := chain64 ps r.1
    (q.1, r.2 ||| q.2)

/-- The sum of integer products. -/
def sumInt : List (Int × Int) → Int
  | [] => 0
  | p :: ps => p.1 * p.2 + sumInt ps

/-- The words of a tile or pair as element (i, j). -/
def tileElem (tm : Team) (wide : Bool) (t i j : Nat) : Nat :=
  (tileWord tm t i j).toNat + (if wide then 2 ^ 32 * (tileWord tm (t + 1) i j).toNat else 0)

/-- All elements (i, j) in row order, with the joined conditions. -/
def allElems (f : Nat → Nat → Nat × Flags) : List Nat × Flags :=
  let rs := (List.range 32).flatMap fun i => (List.range 32).map fun j => f i j
  (rs.map (·.1), rs.foldl (fun fl r => fl ||| r.2) 0#5)

/-- The words that a whole tile takes. -/
def wholeTile (t : Nat) (ws : List Nat) : AList Word :=
  mapFrom (fun k w => (t * 1024 + k, BitVec.ofNat 32 w)) 0 ws

/-- The class of a whole tile write. -/
def wholeClass (ws : List Nat) : TileClass :=
  classWhole 1024 ((ws.filter fun w => w % 2 ^ 32 != 0).map (BitVec.ofNat 32))

/-- A matrix operation of a group that writes nothing yet. -/
def matOp (g : Grp) : MatOp :=
  { team := g.band.team, band := g.key, lanes := g.live, flags := 0, tiles := [], tileCls := [], scales := [], stash := []
    ident := none, pc := g.addr }

/-- The operation that writes a whole tile, or pair, of elements. -/
def writeElems (g : Grp) (wide : Bool) (t : Nat) (r : List Nat × Flags) : MatOp :=
  let lo := r.1.map (· % 2 ^ 32)
  let hi := r.1.map (· / 2 ^ 32)
  if wide then
    { matOp g with flags := r.2, tiles := wholeTile t lo ++ wholeTile (t + 1) hi
                   tileCls := [(t, wholeClass lo), (t + 1, wholeClass hi)] }
  else { matOp g with flags := r.2, tiles := wholeTile t lo, tileCls := [(t, wholeClass lo)] }

def pushMat (s : State) (m : MatOp) : State := { s with matrix := s.matrix ++ [m] }

/-- The scale factor's exponent byte of row or column `x` for K-block `m` (R320). -/
def scaleByte (tm : Team) (col m x : Nat) : Nat := (aGet 127 ((col + m) % 512 * 32 + x) tm.scales).toNat

/-- Rows of decoded values, times their block factors when `col` is given. -/
def decodeRows (tm : Team) (ty : Ty) (col : Option Nat) (rows : List (List Nat)) : List (List Val) :=
  mapFrom (fun x row => mapFrom (fun k v =>
    match col with
    | some c => scaleBy (decodeTy ty v) (scaleByte tm c (k / 32) x)
    | none => decodeTy ty v) 0 row) 0 rows

/-- K indices zipped with two rows. -/
def zipK (ks : List Nat) (a b : List Val) : List MPair := ks.zip (a.zip b)

/-- What a decided MMA or MMAS writes. `pairs i j` are its pairs, `ints` those of the unscaled .i8 sum, `one` the surviving
element of an IDENT decision. -/
def mmaResult (s : State) (g : Grp) (tm : Team) (d : Decision) (ty : Ty) (bs : Bool) (td tc : Nat) (groups : Nat)
    (pairs : Nat → Nat → List MPair) (ints : Nat → Nat → List (Int × Int))
    (oneV : Bool → Nat → Nat → Option Val) (oneI : Bool → Nat → Nat → Int) : State :=
  let isI8 := (match ty with | .int _ => true | _ => false) && !bs
  let wide := decide (ty = .flt .f64)
  let acc := fun i j => tileElem tm wide tc i j
  match d with
  | .nop => pushMat s (matOp g)
  | .copy =>
    let elems := allElems fun i j => if isI8 then (acc i j, 0#5) else window28Sum (acc i j) []
    let w := writeElems g wide td elems
    let cls := tileClsOf tm tc
    pushMat s (if isI8 || !cls.nonfinite then { w with tileCls := [(td, cls)] } else w)
  | .ident onB =>
    pushMat s (writeElems g wide td (allElems fun i j =>
      if isI8 then (wrapNat 32 ((acc i j : Int) + oneI onB i j), 0#5)
      else match oneV onB i j with
        | some v => let one := decodeFmt fmtF32 0x3F800000; window28Sum (acc i j) [if onB then (v, one) else (one, v)]
        | none => window28Sum (acc i j) []))
  | .full =>
    pushMat s (writeElems g wide td (allElems fun i j =>
      if wide then chain64 (pairs i j) (acc i j)
      else if isI8 then (wrapNat 32 ((acc i j : Int) + sumInt (ints i j)), 0#5)
      else sumGroups (mG ty) (pairs i j) groups 0 (acc i j)))

/-- The ranges that a multiplicand reads. -/
def mcandRanges (ty : Ty) (k : Nat) (b : Band) (c : Mcand) : List (Nat × Nat) :=
  match mcandStored ty k b c with
  | some (o, _, _) => o.all
  | none => []

def mcandCheck (tm : Team) (ty : Ty) (k : Nat) (b : Band) (c : Mcand) : Option Exc :=
  match mcandStored ty k b c with
  | some (o, pack, _) => storedCheck tm pack (if ty = .flt .f64 then 8 else 4) o
  | none => none

/-- The tiles of a destination or accumulator. -/
def pairTiles (wide : Bool) (t : Nat) : List Nat := if wide then [t, t + 1] else [t]

/-- MMA (R321). -/
def execMma (o : Mma) (s : State) : Host.Outcome State Fault Refusal :=
  let k := mK o.ty
  let wide := decide (o.ty = .flt .f64)
  let bs := o.scales.isSome
  let cols := match o.scales with
    | some (a, b) => [2 * a.toNat, (2 * a.toNat + 1) % 512, 2 * b.toNat, (2 * b.toNat + 1) % 512]
    | none => []
  onTiles s (mcandRegs o.ty k o.a ++ mcandRegs o.ty k o.b) (pairTiles wide o.d.val ++ pairTiles wide o.c.val) cols
    fun g tm =>
      match mcandCheck tm o.ty k g.band o.a, mcandCheck tm o.ty k g.band o.b with
      | some e, _ => .exc e
      | none, some e => .exc e
      | none, none =>
        withRanges s g tm (mcandRanges o.ty k g.band o.a ++ mcandRanges o.ty k g.band o.b) fun m s =>
          let tm := (teamOf s g.band.team).getD tm
          let ca := opClass tm o.ty k g.band bs true o.a
          let cb := opClass tm o.ty k g.band bs true o.b
          let tcNf := (pairTiles wide o.c.val).any fun t => (tileClsOf tm t).nonfinite
          let (d, refused) := decideMma o.ty bs true (decide (o.d = o.c)) tcNf ca cb
          let rowsA := mcandRows o.ty k g.band m o.a
          let rowsB := mcandRows o.ty k g.band m o.b
          let va := decodeRows tm o.ty (o.scales.map fun c => 2 * c.1.toNat) rowsA
          let vb := decodeRows tm o.ty (o.scales.map fun c => 2 * c.2.toNat) rowsB
          let int := fun (r : List Nat) => r.map fun x => readInt true 8 x
          let s := countDecision s g.core d refused ca cb
          .ok (mmaResult s g tm d o.ty bs o.d.val o.c.val (k / mG o.ty)
            (fun i j => zipK (List.range k) (va.getD i []) (vb.getD j []))
            (fun i j => (int (rowsA.getD i [])).zip (int (rowsB.getD j [])))
            (fun onB i j => if onB then (va.getD i [])[j]? else (vb.getD j [])[i]?)
            (fun onB i j => if onB then ((int (rowsA.getD i []))[j]?).getD 0 else ((int (rowsB.getD j []))[i]?).getD 0))

/-- Kept values, kept per group, group size, field bits and metadata bytes a row of a pattern (R322). -/
def spParams : Sparsity → Nat × Nat × Nat × Nat × Nat
  | .s24 => (64, 2, 4, 2, 16)
  | .s14 => (32, 1, 4, 2, 8)
  | .s48 => (64, 4, 8, 4, 32)

/-- The logical positions of row `i`'s kept values. -/
def spPositions (pat : Sparsity) (m : AList Byte) (sm i : Nat) : List Nat :=
  let (n, kept, size, b, mb) := spParams pat
  let v := leNat (readBytes 0 m (sm + i * mb) mb)
  (List.range n).map fun x => x / kept * size + bitsOf v (b * x) b

/-- MMAS (R322): K is 128, in four groups. -/
def execMmas (o : Mmas) (s : State) : Host.Outcome State Fault Refusal :=
  let (n, _, _, _, mb) := spParams o.pat
  onTiles s (mcandRegs o.ty n o.a ++ mcandRegs o.ty 128 o.b) [o.d.val, o.c.val] [] fun g tm =>
    let sm := (rdS g.band o.sm.val).toNat
    let md := [(sm, 32 * mb)]
    match mcandCheck tm o.ty n g.band o.a, mcandCheck tm o.ty 128 g.band o.b with
    | some e, _ => .exc e
    | none, some e => .exc e
    | none, none =>
      let outside := firstOutside tm md
      -- a field outside the allocation holds no bits to check
      let inside := [(sm, min (32 * mb) (1024 * tm.slotCount - sm))]
      let ab := mcandRanges o.ty n g.band o.a ++ mcandRanges o.ty 128 g.band o.b
      let fault := rangesFault s tm false (ab ++ if outside.isNone then md else [])
      let mdReads := (rangesFault s tm false inside).isNone
      if rangesBusy s tm (ab ++ inside) then memoryHold else
      let reads := (if fault.isNone then ab else []) ++ if mdReads then inside else []
      let (m, s) := viewStash (readRanges s g reads) g reads
      let badField := mdReads && o.pat == .s48 && (List.range 32).any fun i =>
        let v := leNat (readBytes 0 m (sm + i * mb) mb)
        (List.range n).any fun x => decide (sm + i * mb + x / 2 < 1024 * tm.slotCount) && bitOf v (4 * x + 3)
      if badField then .exc { cause := cOperand }
      else if sm % 4 ≠ 0 then .exc { cause := cAlignment, addr := sm }
      else match outside, fault with
        | some a, _ => .exc { cause := cAddress, addr := a }
        | none, some e => .exc e
        | none, none =>
          let tm := (teamOf s g.band.team).getD tm
          let ca := opClass tm o.ty n g.band false false o.a
          let cb := opClass tm o.ty 128 g.band false false o.b
          let (d, refused) := decideMma o.ty false false (decide (o.d = o.c)) (tileClsOf tm o.c.val).nonfinite ca cb
          let rowsA := mcandRows o.ty n g.band m o.a
          let rowsB := mcandRows o.ty 128 g.band m o.b
          let va := decodeRows tm o.ty none rowsA
          let vb := decodeRows tm o.ty none rowsB
          let pos := (List.range 32).map fun i => spPositions o.pat m sm i
          let int := fun (x : Nat) => readInt true 8 x
          let s := countDecision s g.core d refused ca cb
          .ok (mmaResult s g tm d o.ty false o.d.val o.c.val 4
            (fun i j =>
              let ks := pos.getD i []
              zipK ks (va.getD i []) (ks.map fun k => ((vb.getD j [])[k]?).getD (.fin false 0 0 false)))
            (fun i j => (rowsA.getD i []).zip (pos.getD i []) |>.map fun p =>
              (int p.1, int (((rowsB.getD j [])[p.2]?).getD 0)))
            (fun _ _ _ => none) (fun _ _ _ => 0))

/-! ### Known tiles (R324) -/

def constTile (g : Grp) (t w : Nat) : MatOp :=
  writeElems g false t (List.replicate 1024 w, 0#5)

def zeroTile (t : Nat) (s : State) : Host.Outcome State Fault Refusal :=
  onTiles s [] [t] [] fun g _ => .ok (pushMat s (constTile g t 0))

/-- TZERO (R324). -/
def execTzero (o : TileG) (s : State) : Host.Outcome State Fault Refusal := zeroTile o.d.val s
def execTzeroC (o : CTile) (s : State) : Host.Outcome State Fault Refusal := zeroTile o.d.val s

/-- The value of TFILL (R54, R324). -/
def fillValue (ty : FillTy) (b : Band) : FillSrc → Nat
  | .reg r => (rdS b r.val).toNat
  | .lit v => v.toNat
  | .imm v => match ty with | .f64 => f32to64 v.toNat | _ => v.toNat

/-- TFILL (R324). -/
def execTfill (o : Tfill) (s : State) : Host.Outcome State Fault Refusal :=
  let wide := match o.ty with | .n64 | .f64 => true | _ => false
  onTiles s [] (pairTiles wide o.d.val) [] fun g _ =>
    let v := fillValue o.ty g.band o.v % 2 ^ (if wide then 64 else 32)
    .ok (pushMat s (writeElems g wide o.d.val (List.replicate 1024 v, 0#5)))

/-- TIDENT (R324, R340, R342). -/
def execTident (o : Tident) (s : State) : Host.Outcome State Fault Refusal :=
  let code := tyCode o.ty
  match o.dst with
  | .tile d =>
    let wide := decide (o.ty = .flt .f64)
    onTiles s [] (pairTiles wide d.val) [] fun g _ =>
      let elems := (List.range 1024).map fun k => if k / 32 = k % 32 then typeOne code else 0
      let w := writeElems g wide d.val (elems, 0#5)
      .ok (pushMat s { w with
        tileCls := if wide then [(d.val, .ident code false), (d.val + 1, .ident code true)]
                   else [(d.val, .ident code false)] })
  | .stash a =>
    onTiles s [] [] [] fun g tm =>
      let sa := (rdS g.band a.val).toNat
      if sa % 1024 ≠ 0 then .exc { cause := cAlignment, addr := sa }
      else match firstOutside tm [(sa, 2048)] with
        | some x => .exc { cause := cAddress, addr := x }
        | none =>
          match rangesFault s tm true [(sa, 2048)], [sa / 1024, sa / 1024 + 1].find? fun n => (latchOf tm n).engine with
          | some e, _ => .exc e
          | none, some n => .exc { cause := cLatch, addr := 1024 * n }
          | none, none =>
            if rangesBusy s tm [(sa, 2048)] then memoryHold else
            let bytes := (List.range 2048).map fun o => (sa + o, identSlotByte code (decide (1024 ≤ o)) (o % 1024))
            .ok (pushMat s { matOp g with stash := bytes, ident := some (sa / 1024, code) })

/-! ### TLD, TST (R326) -/

def tileWBytes : TileW → Nat
  | .n8 => 32 | .n16 => 64 | .n32 => 128

def tileStored (w : TileW) (base pack : DWord) : Stored :=
  { base := base.toNat, rowp := bitsOf pack.toNat 0 16, tilep := bitsOf pack.toNat 16 16, rows := 32, len := tileWBytes w }

/-- TLD (R326). -/
def execTld (o : Tld) (s : State) : Host.Outcome State Fault Refusal :=
  onTiles s [] [o.d.val] [] fun g tm =>
    let pack := rdS g.band o.pack.val
    let st := tileStored o.w (rdS g.band o.a.val) pack
    match storedCheck tm pack 4 st with
    | some e => .exc e
    | none =>
      withRanges s g tm st.all fun m s =>
        let words := (List.range 1024).map fun k =>
          let i := k / 32
          let j := k % 32
          if o.transposed then leNat (readBytes 0 m (st.row j + 4 * i) 4)
          else if 4 * j < st.len then leNat (readBytes 0 m (st.row i + 4 * j) 4) else 0
        .ok (pushMat s (writeElems g false o.d.val (words, 0#5)))

/-- TST (R326). -/
def execTst (o : Tst) (s : State) : Host.Outcome State Fault Refusal :=
  onTiles s [] [o.c.val] [] fun g tm =>
    let pack := rdS g.band o.pack.val
    let st := tileStored o.w (rdS g.band o.a.val) pack
    match storedCheck tm pack 4 st with
    | some e => .exc e
    | none =>
      let owned := (st.all.flatMap fun r => (slotsOf r.1 r.2).filterMap fun n =>
        if (latchOf tm n).engine then some (max r.1 (1024 * n)) else none).min?
      match rangesFault s tm true st.all, owned with
      | some e, _ => .exc e
      | none, some a => .exc { cause := cLatch, addr := a }
      | none, none =>
        if rangesBusy s tm st.all then memoryHold else
        let bytes := (List.range 32).flatMap fun q => (List.range (st.len / 4)).flatMap fun i =>
          let w := if o.transposed then tileWord tm o.c.val i q else tileWord tm o.c.val q i
          mapFrom (fun x b => (st.row q + 4 * i + x, b)) 0 (leBytes 4 w.toNat)
        .ok (pushMat s { matOp g with stash := bytes })

/-! ### TMOVV, TMOVT (R328) -/

/-- TMOVV: the registers are written as it issues. -/
def execTmovv (o : Tmov) (s : State) : Host.Outcome State Fault Refusal :=
  onTiles s ((List.range o.count.val).map (o.v.val + ·)) [o.t.val] [] fun g tm =>
    .ok (setBand s g.key (onLanes g.band g.live fun i t =>
      (List.range o.count.val).foldl (fun t j => wrV t (o.v.val + j) (tileWord tm o.t.val i (o.col.val + j))) t))

/-- TMOVT: all 32 lanes are read. -/
def execTmovt (o : Tmov) (s : State) : Host.Outcome State Fault Refusal :=
  onTiles s ((List.range o.count.val).map (o.v.val + ·)) [o.t.val] [] fun g tm =>
    let words := (List.range 32).flatMap fun i => (List.range o.count.val).map fun j =>
      (o.t.val * 1024 + i * 32 + o.col.val + j, rdV (threadOf g.band i) (o.v.val + j))
    let cls := tileClsOf tm o.t.val
    let new :=
      if o.col.val = 0 ∧ o.count.val = 32 then wholeClass (words.map fun w => w.2.toNat)
      else classPartial cls (words.all fun w => w.2 == imageTileWord cls (w.1 % 1024)) (words.map (·.2))
    .ok (pushMat s { matOp g with tiles := words, tileCls := [(o.t.val, new)] })

/-! ### TCLS, SCLD -/

/-- The word of TCLS (R330). -/
def classWord (c : TileClass) (pend : Bool) : DWord :=
  if pend then BitVec.ofNat 64 (3 * 2 ^ 32 + 2 ^ 34 + 2 ^ 43)
  else match c with
    | .zero => 0
    | .const v nf => BitVec.ofNat 64 (v.toNat + 2 ^ 32 + bit nf * 2 ^ 34)
    | .ident fmt half => BitVec.ofNat 64 (2 * 2 ^ 32 + fmt * 2 ^ 36 + bit half * 2 ^ 42)
    | .general nf => BitVec.ofNat 64 (3 * 2 ^ 32 + bit nf * 2 ^ 34)

/-- TCLS (R330). -/
def execTcls (o : Tcls) (s : State) : Host.Outcome State Fault Refusal :=
  let tiles := match o.src with | .tile a => [a.val] | .slot _ => []
  onTiles s [] tiles [] fun g tm =>
    match o.src with
    | .tile a => .ok (setBand s g.key (wrS g.band o.d.val (classWord (tileClsOf tm a.val) false)))
    | .slot a =>
      let n := (rdS g.band a.val).toNat % 512
      if tm.slotCount ≤ n then .exc { cause := cAddress, addr := 1024 * n }
      else .ok (setBand s g.key (wrS g.band o.d.val (classWord (slotClsOf tm n) (slotBusy tm n))))

/-- SCLD (R332). -/
def execScld (o : Scld) (s : State) : Host.Outcome State Fault Refusal :=
  onTiles s [] [] (addrRange o.col.val o.count.val) fun g tm =>
    let sa := (rdS g.band o.a.val).toNat
    if sa % 4 ≠ 0 then .exc { cause := cAlignment, addr := sa }
    else match firstOutside tm [(sa, 32 * o.count.val)] with
      | some x => .exc { cause := cAddress, addr := x }
      | none =>
        withRanges s g tm [(sa, 32 * o.count.val)] fun m s =>
          let bytes := mapFrom (fun i b => (o.col.val * 32 + i, b)) 0 (readBytes 0 m sa (32 * o.count.val))
          .ok (pushMat s { matOp g with scales := bytes })

/-! ### TTOPK (R334) -/

/-- Whether (column, word) `a` ranks before `b`; columns ascend in the input. -/
def ranksBefore (int : Bool) (a b : Nat × Nat) : Bool :=
  if int then
    let x := (readInt true 32 a.2).natAbs
    let y := (readInt true 32 b.2).natAbs
    decide (y < x ∨ (x = y ∧ a.1 < b.1))
  else
    let x := (decodeFmt fmtF32 a.2).isNan
    let y := (decodeFmt fmtF32 b.2).isNan
    if x != y then y
    else if x then decide (a.1 < b.1)
    else
      let p := a.2 % 2 ^ 31
      let q := b.2 % 2 ^ 31
      decide (q < p ∨ (p = q ∧ a.1 < b.1))

def insertRank (int : Bool) (x : Nat × Nat) : List (Nat × Nat) → List (Nat × Nat)
  | [] => [x]
  | y :: ys => if ranksBefore int x y then x :: y :: ys else y :: insertRank int x ys

def sortRank (int : Bool) : List (Nat × Nat) → List (Nat × Nat)
  | [] => []
  | x :: xs => insertRank int x (sortRank int xs)

/-- TTOPK (R334): NV comes from the signalling NaNs that are written. -/
def execTtopk (o : Ttopk) (s : State) : Host.Outcome State Fault Refusal :=
  onTiles s [] [o.d.val, o.c.val, o.a.val] [] fun g tm =>
    let rows := (List.range 32).map fun i =>
      (sortRank o.int ((List.range 32).map fun j => (j, (tileWord tm o.a.val i j).toNat))).take o.k.val
    let out := fun (w : Nat) => if !o.int && (decodeFmt fmtF32 w).isNan then 0x7FC00000 else w
    let vals := rows.flatMap fun r => (r.map fun x => out x.2) ++ List.replicate (32 - r.length) 0
    let idxs := rows.flatMap fun r => (r.map (·.1)) ++ List.replicate (32 - r.length) 0xFFFFFFFF
    let nv := !o.int && rows.any fun r => r.any fun x => (decodeFmt fmtF32 x.2).isSig
    .ok (pushMat s { matOp g with
      flags := flagIf nv flagNV
      tiles := wholeTile o.d.val vals ++ wholeTile o.c.val idxs
      tileCls := [(o.d.val, wholeClass vals), (o.c.val, wholeClass idxs)] })

/-! ### TACC, TSCL, TCVT (R336) -/

/-- The band after a rounding matrix instruction's SRAdvance, and the mode. -/
def matRound (s : State) (g : Grp) (rnd : Rnd) : Mode × Band × State :=
  let mode := modeOf g.band.rm rnd
  let b := srStep g.band mode
  (mode, b, setBand s g.key b)

/-- TACC (R336). -/
def execTacc (o : Tacc) (s : State) : Host.Outcome State Fault Refusal :=
  let wide := decide (o.ty = .f64)
  onTiles s [] (pairTiles wide o.d.val ++ pairTiles wide o.a.val ++ pairTiles wide o.b.val) [] fun g tm =>
    let (mode, b, s) := matRound s g o.rnd
    let x := tileElem tm wide o.a.val
    let y := tileElem tm wide o.b.val
    .ok (pushMat s (writeElems g wide o.d.val (allElems fun i j =>
      match o.ty with
      | .i32 => ((x i j + y i j) % 2 ^ 32, 0#5)
      | .f32 => fRound (fAdd mode (decodeFmt fmtF32 (x i j)) (decodeFmt fmtF32 (y i j))) fmtF32 mode (srOf b i j)
      | .f64 => fRound (fAdd mode (decodeFmt fmtF64 (x i j)) (decodeFmt fmtF64 (y i j))) fmtF64 mode (srOf b i j))))

/-- TSCL (R336). -/
def execTscl (o : Tscl) (s : State) : Host.Outcome State Fault Refusal :=
  let regs := match o.src with | .vec r => [r.val] | _ => []
  onTiles s regs [o.d.val, o.a.val] [] fun g tm =>
    let (mode, b, s) := matRound s g o.rnd
    let fac := fun i => match o.src with
      | .sca r => (rdS g.band r.val).toNat % 2 ^ 32
      | .imm v => v.toNat
      | .vec r => (rdV (threadOf g.band i) r.val).toNat
    .ok (pushMat s (writeElems g false o.d.val (allElems fun i j =>
      fRound (fMul (decodeFmt fmtF32 (tileElem tm false o.a.val i j)) (decodeFmt fmtF32 (fac i))) fmtF32 mode
        (srOf b i j))))

/-- The word of elements `j0` upward packed `n` to a word of `w` bits each. -/
def packWord (w : Nat) : List Nat → Nat
  | [] => 0
  | x :: xs => x % 2 ^ w + 2 ^ w * packWord w xs

/-- One element of TCVT: RoundToFormat or RoundToInteger, also from .i32. -/
def tcvtOne (dty : Ty) (int : Bool) (mode : Mode) (sat : Bool) (rnd bits : Nat) : Nat × Flags :=
  let sty : Ty := if int then .int .i32 else .flt .f32
  match dty with
  | .int i => roundToInteger (decodeTy sty bits) i mode sat rnd
  | _ => convertOne dty sty mode sat rnd bits

/-- TCVT (R336). -/
def execTcvt (o : Tcvt) (s : State) : Host.Outcome State Fault Refusal :=
  onTiles s [] [o.d.val, o.a.val] [] fun g tm =>
    let (mode, b, s) := matRound s g o.rnd
    let w := 8 * tyBytes o.dty
    let n := 32 / w
    let r := allElems fun i j => tcvtOne o.dty o.int mode o.sat (srOf b i j) (tileElem tm false o.a.val i j)
    let words := (List.range 1024).map fun k =>
      let i := k / 32
      let j := k % 32
      if j * n < 32 then packWord w ((r.1.drop (i * 32 + j * n)).take n) else 0
    .ok (pushMat s (writeElems g false o.d.val (words, r.2)))

/-! ### MATRIX_COMPLETION -/

/-- Ascending offsets as runs. -/
def runsOf : List (Nat × Byte) → List (Nat × List Byte)
  | [] => []
  | (o, b) :: rest =>
    match runsOf rest with
    | (o2, bs) :: more => if o + 1 = o2 then (o, b :: bs) :: more else (o, [b]) :: (o2, bs) :: more
    | [] => [(o, [b])]

/-- A matrix instruction's stash bytes written in one step, with the entries of R340. -/
def writeMatStash (s : State) (o : MatOp) : State :=
  let bytes := o.stash.foldl (fun m e => aInsert e.1 e.2 m) ([] : AList Byte)
  let s := (runsOf bytes).foldl (fun s r =>
    match teamOf s o.team with
    | none => s
    | some tm =>
      let s := note s { ctx := tm.ctx, core := tm.core, band := some o.band, instr := none, lane := o.lanes.headD 0, va := none
                        stash := some (o.team, r.1), len := r.2.length, read := false, write := true, atomic := false, engine := false
                        pc := o.pc }
      let s := touchLines (touchStash s o.team r.1 r.2.length true) o.band (2 ^ 80) (.stash o.team r.1) r.2.length (some (0, 0))
      match teamOf s o.team with
      | none => s
      | some tm => setTeam s o.team { tm with stash := writeBytes 0 tm.stash r.1 r.2 }) s
  let s := settleLines s o.band (2 ^ 80)
  match teamOf s o.team with
  | none => s
  | some tm =>
    let slots := (bytes.map fun e => e.1 / 1024).eraseDups
    let upd := fun (tm : Team) (n : Nat) =>
      let os := (bytes.filter fun e => e.1 / 1024 == n).map (·.1)
      let window := (windowAtSlot tm n).isSome
      match o.ident with
      | some (s0, code) =>
        if !window then setSlotCls tm n (.ident code (n != s0))
        else setSlotCls tm n (slotPartial (slotClsOf tm n) tm.stash n os)
      | none =>
        if !window && os.length == 1024 then setSlotCls tm n (slotWhole tm.stash n)
        else setSlotCls tm n (slotPartial (slotClsOf tm n) tm.stash n os)
    setTeam s o.team (slots.foldl upd tm)

/-- What an instruction wrote put in place. DEDUCED (log 15). DEDUCED (log 15). -/
def completeMat (s : State) (o : MatOp) : State :=
  let s := if o.stash.isEmpty then s else writeMatStash s o
  let s := match teamOf s o.team with
    | none => s
    | some tm =>
      let tm := { tm with
        tiles := o.tiles.foldl (fun m e => aSet 0 e.1 e.2 m) tm.tiles
        scales := o.scales.foldl (fun m e => aSet 127 e.1 e.2 m) tm.scales }
      setTeam s o.team (o.tileCls.foldl (fun tm e => setTileCls tm e.1 e.2) tm)
  match bandOf s o.band with
  | some b => setBand s o.band (onLanes b o.lanes fun _ t => raiseFlags t o.flags)
  | none => s

/-- The event: the operation with index `i`, once no earlier one of its team is outstanding (R315). -/
def execMatrixCompletion (s : State) : Host.Outcome State Fault Refusal :=
  match s.cur with
  | .event (.matrixCompletion i) =>
    match s.matrix[i]? with
    | none => .next s
    | some o =>
      if (s.matrix.take i).any fun x => x.team == o.team then .next s
      else .next (completeMat { s with matrix := s.matrix.eraseIdx i } o)
  | _ => .fault .noActor

end Sys2Proof.Machine
end

