-- ==== Sys2Proof/Machine/Ordering.lean ====
section
/-! DEFINITION. Ordering instructions: FENCE, region keys, latches (09 R277-R289). -/

namespace Sys2Proof.Machine

/-- FENCE (R278): per thread; the halves of .ar are not ordered with each other (R271). -/
def execFence (o : Fence) (s : State) : Host.Outcome State Fault Refusal :=
  memLanes s [] fun _ s _ _ =>
    match o.kind with
    | .ar => (.ops [.fence .acq o.sc, .fence .rel o.sc] id, s)
    | k => (.ops [.fence k o.sc] id, s)

/-! ### Keys -/

/-- KBIND (R281). -/
def execKbind (o : Kbind) (s : State) : Host.Outcome State Fault Refusal :=
  perGroup s fun g =>
    let a := (rdS g.band o.a.val).toNat
    let c := (rdS g.band o.c.val).toNat
    let n := o.granules.toNat
    let ctx := grpCtx s g
    let x := ctxOf s ctx
    if Config.vaLimit ≤ a ∨ Config.vaLimit ≤ a + 4096 * n - 1 then .exc { cause := cAddress, addr := a }
    else if a % 4096 ≠ 0 then .exc { cause := cKey, info := o.k.val }
    else if Config.vaLimit ≤ c then .exc { cause := cAddress, addr := c }
    else if c % 8 ≠ 0 then .exc { cause := cAlignment, addr := c }
    else if (aFind o.k.val x.keys).isSome then .exc { cause := cKey, info := o.k.val }
    else .ok (setCtx s ctx { x with keys := aInsert o.k.val { base := a, granules := n, word := c } x.keys })

/-- KFREE (R281). -/
def execKfree (o : Kfree) (s : State) : Host.Outcome State Fault Refusal :=
  perGroup s fun g =>
    let ctx := grpCtx s g
    let x := ctxOf s ctx
    .ok (setCtx s ctx { x with keys := aErase o.k.val x.keys })

/-- The key word of a binding, accessed as an ATOM of the scope would access it, with the faults of a read or a write (R283,
R284). DEDUCED (log 91). DEDUCED (log 91). -/
def keyWord (s : State) (g : Grp) (k : Key) (sc : Scope) (write : Bool) : Found × State :=
  let (r, s) := locate s g.core g.band.team false k.word 8 (.key write)
  (sysAtomic s (grpCtx s g) r (.int .add) sc k.word (.key write), s)

/-- An operation of a group on a key word as KACQ makes it, to see whether it waits for the word (R241).
DEDUCED (log 91). -/
def keyOp (s : State) (g : Grp) (k : Key) (loc : Loc) (sc : Scope) : PendOp :=
  { agent := grpAgent s g, issuer := g.key, lanes := g.live, seq := s.seq, pc := g.addr
    kind := .krel k.base k.granules loc sc none }

/-- An access to a key word, noted for the watchpoints: KACQ and KREL match ATOMIC (R440). -/
def noteKey (s : State) (g : Grp) (k : Key) (sc : Scope) (p : Place) : State :=
  let stash := match p with | .stash t off => some (t, off) | _ => none
  let s := touchLines s g.key s.seq p 8 (placeReach s (grpAgent s g) (some sc) false false p 8)
  note s { ctx := grpCtx s g, core := g.core, band := some g.key, instr := none, lane := g.live.headD 0, va := some k.word
           stash := stash, len := 8, read := true, write := false, atomic := true, engine := false, pc := g.addr }

/-- The binding that a KACQ uses: the one it found when it began to wait (R281), else the key's. -/
def kacqKey (s : State) (g : Grp) (k : Nat) : Option Key :=
  match (threadOf g.band (g.live.headD 0)).wait with
  | .key base granules word => some { base := base, granules := granules, word := word }
  | _ => aFind k (ctxOf s (grpCtx s g)).keys

/-- KACQ (R283). -/
def execKacq (o : Kacq) (s : State) : Host.Outcome State Fault Refusal :=
  perGroup s fun g =>
    let ag := grpAgent s g
    match kacqKey s g o.k.val with
    | none => .exc { cause := cKey, info := o.k.val }
    | some k =>
      let (r, s) := keyWord s g k o.sc false
      -- one that has found its binding keeps it while the key word cannot be read (R281)
      let hold : GrpRes := match (threadOf g.band (g.live.headD 0)).wait with
        | .key base granules word => .wait (.key base granules word)
        | _ => memoryHold
      match r with
      | .exc e => .exc e
      | .zero | .busy => hold
      | .loc loc =>
        if opBlocked s (keyOp s g k loc o.sc) then hold
        else
          let s := nameOp s (keyOp s g k loc o.sc)
          let p := placeOf s ag loc false
          let (v, s) := placeStep s ag o.sc p 8 fun _ => none
          let value : DWord := BitVec.ofNat 64 v
          let leave := match o.wait with
            | none => true
            | some c => !(value - rdS g.band c.val).getLsbD 63
          if !leave then .wait (.key k.base k.granules k.word)
          else
            let s := useOp s (keyOp s g k loc o.sc) (opLine s (keyOp s g k loc o.sc))
            let s := noteKey (dropAddrs s ag o.sc (regionHeld s ag k.base k.granules)) g k o.sc p
            match bandOf s g.key with
            | some b => .ok (setBand s g.key (wrS b o.d.val value))
            | none => .ok s

/-- The lanes of a group, those with a true guard first. -/
def wholeGroup (g : Grp) : List Nat := g.live ++ g.lanes.filter fun i => !g.live.contains i

/-- KREL (R283): the operation issues with the binding it found (R281); it is performed after every earlier one of the group's
threads. -/
def execKrel (o : Krel) (s : State) : Host.Outcome State Fault Refusal :=
  perGroup s fun g =>
    match aFind o.k.val (ctxOf s (grpCtx s g)).keys with
    | none => .exc { cause := cKey, info := o.k.val }
    | some k =>
      let (r, s) := keyWord s g k o.sc true
      match r with
      | .exc e => .exc e
      | .zero | .busy => memoryHold
      | .loc loc => .ok (issueOps s g (wholeGroup g) [.krel k.base k.granules loc o.sc (o.ret.map (·.val))])

/-! ### Latches -/

/-- The slots of a latch range, or Address (R287). -/
def latchRange (tm : Team) (v : DWord) (count : Word) : Except Exc (List Nat) :=
  let first := v.toNat % 512
  if tm.slotCount < first + count.toNat then .error { cause := cAddress, addr := 1024 * first }
  else .ok (addrRange first count.toNat)

/-- LATG (R287): the slots go to the engines once every earlier operation of P, and every earlier access of the group's other threads
to stash bytes, is performed. -/
def execLatg (o : Latg) (s : State) : Host.Outcome State Fault Refusal :=
  perGroup s fun g =>
    match teamOf s g.band.team with
    | none => .ok s
    | some tm =>
      match latchRange tm (rdS g.band o.a.val) o.count with
      | .error e => .exc e
      | .ok slots =>
        .ok (issueOps s g (wholeGroup g) [.latg slots (laneMask g.live)])

/-- A slot goes back to its threads. -/
def returnSlot (tm : Team) (n : Nat) : Team := dropEarlySlot (setLatch tm n { engine := false, count := 0 }) n

/-- LATW (R287). -/
def execLatw (o : Latw) (s : State) : Host.Outcome State Fault Refusal :=
  perGroup s fun g =>
    match teamOf s g.band.team with
    | none => .ok s
    | some tm =>
      match latchRange tm (rdS g.band o.a.val) o.count with
      | .error e => .exc e
      | .ok slots =>
        if slots.any fun n => (latchOf tm n).engine && (latchOf tm n).count != 0 then .wait (.polled stLatch)
        else
          let back := fun (tm : Team) (n : Nat) => if (latchOf tm n).engine then returnSlot tm n else tm
          let s := setTeam s g.band.team (slots.foldl back tm)
          .ok (if o.cluster then dropAll s (grpAgent s g) .cluster else s)

end Sys2Proof.Machine
end

