-- ==== Sys2Proof/Machine/Engines.lean ====
section
/-! DEFINITION. The copy engine (13 R356-R378): descriptors, posts, the steps of a running command, completion, observation
of a channel, page moves. -/

namespace Sys2Proof.Machine

/-! ### Channels -/

def chanOf (tm : Team) (n : Nat) : TeamChannel := aGet {} n tm.channels
def setChan (tm : Team) (n : Nat) (c : TeamChannel) : Team := { tm with channels := aInsert n c tm.channels }
def coreChan (s : State) (core ch : Nat) : Channel := aGet {} ch (coreOf s core).channels
def setCoreChan (s : State) (core ch : Nat) (c : Channel) : State :=
  let co := coreOf s core
  setCore s core { co with channels := aInsert ch c co.channels }

/-- The head command of a channel. -/
def headCmd (s : State) (core ch : Nat) : Option Command := (coreChan s core ch).queue.head?
/-- DESIGN CHOICE (log 52). -/
def setHead (s : State) (core ch : Nat) (c : Command) : State :=
  let q := coreChan s core ch
  setCoreChan s core ch { q with queue := c :: q.queue.tail }

/-- The place of record `n` of a channel's chain: CHAINLEN records for each channel and core, from ENGBASE (R357).
DESIGN CHOICE (log 52). DESIGN CHOICE (log 52). -/
def chainPlace (s : State) (ctx core ch n : Nat) : Nat :=
  let c := ctxOf s ctx
  c.engBase.toNat + 64 * ((4 * core + ch) * c.chainLen.toNat + n % max 1 c.chainLen.toNat)

/-- Room in the hardware queue of 16 or in the context's chain (R357), whose record must wait for a stack (R479).
DESIGN CHOICE (log 52). -/
def postRoom (s : State) (core ch ctx : Nat) : Bool :=
  let q := coreChan s core ch
  (q.chain.isEmpty && decide (q.queue.length < 16)) ||
    (decide ((q.chain.filter fun c => c.ctx == ctx).length < (ctxOf s ctx).chainLen.toNat)
      && !stackBusy s (chainPlace s ctx core ch q.chained))

/-! ### Engine traps (R425) -/

/-- The band that takes an Engine trap: the posting band, else the team's live band of lowest index. -/
def trapBand (s : State) (tm : Team) (band : Nat) : Option Nat :=
  let live := fun k => match bandOf s k with
    | some b => !b.retired && b.threads.any fun t => !t.exited
    | none => false
  if live band then some band else (tm.slots.map (bandKey tm.core)).find? live

/-- A trap queued at a band of the team, or counted as lost; with no live thread a record of KIND 5. That record has the trap's address
in TADDR, 0 in TPC and TINFO, and Engine in SECOND. DESIGN CHOICE (log 103). DESIGN CHOICE (log 103). -/
def queueTrap (s : State) (team band : Nat) (x : EngineTrap) : State :=
  match teamOf s team with
  | none => s
  | some tm =>
    match trapBand s tm band with
    | some k =>
      match bandOf s k with
      | none => s
      | some b =>
        if b.traps.length < 4 then setBand s k { b with traps := b.traps ++ [x] }
        else setBand s k { b with lostTraps := if b.lostTraps = 255 then 255 else b.lostTraps + 1 }
    | none => errorRecord s tm 255 5 0 0 cEngine 0 x.addr 0

/-! ### Descriptors (R360, R361, R369) -/

def descOf (v : Nat) : Desc :=
  let dim := fun i => bitsOf v (128 + 32 * i) 32
  let stride := fun i => readInt true 64 (bitsOf v (256 + 64 * i) 64)
  { base := bitsOf v 0 55, ty := bitsOf v 64 6, rank := bitsOf v 72 3
    dims := (List.range 4).map dim, strides := (List.range 4).map stride }

/-- The checks of TDSET on an image, VALID apart (R369). -/
def imageInvalid (v : Nat) : Bool :=
  let d := descOf v
  decide (bitsOf v 55 9 ≠ 0 ∨ bitsOf v 70 2 ≠ 0 ∨ bitsOf v 75 5 ≠ 0 ∨ bitsOf v 81 47 ≠ 0)
    || (tyOfCode d.ty).isNone || decide (d.rank = 0 ∨ 4 < d.rank)
    || ((List.range 4).any fun i =>
        if i < d.rank then d.dim i == 0 else d.dim i != 0 || d.stride i != 0)
    || decide (d.base % d.es ≠ 0)

def descExc (id : Nat) : Exc := { cause := cDesc, info := id }

/-- An image with its VALID bit, bit 80. -/
def withValid (v : Nat) (valid : Bool) : Nat := v - v / 2 ^ 80 % 2 * 2 ^ 80 + bit valid * 2 ^ 80

/-- The address of an entry in the context's descriptor area (R362). DESIGN CHOICE (log 88). DESIGN CHOICE (log 88). -/
def descPlace (c : Context) (id : Nat) : Nat := c.descBase.toNat + 64 * id

/-- An entry of the descriptor table, as the area holds it; one that has never been written is zeros (R362, R369).
DESIGN CHOICE (log 88). DESIGN CHOICE (log 88). -/
def descImage (s : State) (ctx id : Nat) : Nat :=
  let c := ctxOf s ctx
  if c.descs.contains id then leNat (homeRead s (descPlace c id) 64) else 0

/-- An entry written in the area. -/
def setDesc (s : State) (ctx id v : Nat) : State :=
  let c := ctxOf s ctx
  setCtx (homeWrite s (descPlace c id) (leBytes 64 v)) ctx { c with descs := if c.descs.contains id then c.descs else c.descs ++ [id] }

/-- An access to an entry of the area waits for a stack (R479). -/
def descBusy (s : State) (ctx id : Nat) : Bool := stackBusy s (descPlace (ctxOf s ctx) id)

/-- A post with the descriptor that it names, once the area may be read; an invalid one raises Descriptor Invalid (R362, R364). -/
def withDesc (s : State) (ctx id : Nat) (f : Desc → GrpRes) : GrpRes :=
  let v := descImage s ctx id
  if descBusy s ctx id then memoryHold else if bitOf v 80 then f (descOf v) else .exc (descExc id)

/-- The in-bounds elements of a row: their number in the row and address. -/
def rowElems (d : Desc) (c0 c2 c3 e0 x : Nat) : List (Nat × Nat) :=
  ((List.range e0).filter fun i => inBounds d [c0 + i, x, c2, c3]).map fun i => (i, elemAddr d [c0 + i, x, c2, c3])

/-- The number a DescId names (R369). -/
def descNum (b : Band) : DescId → Nat
  | .imm id => id.val
  | .reg r => (rdS b r.val).toNat % 1024

/-- The stash bytes of a place. -/
def Place.stashAt : Place → Option (Nat × Nat)
  | .stash k off => some (k, off)
  | _ => none

/-- A granule of an ENGINE slot makes a remote access to a place wait; `team` is that of an accessing thread, which no slot of its own
holds (R241). -/
def placeWaits (s : State) (team : Option Nat) : Place → Bool
  | .stash k off => some k != team && (match teamOf s k with | some tm => (latchOf tm (off / 1024)).engine | none => false)
  | .mem _ | .revive .. | .zeros | .gone => false

/-- A thread-side read by the whole group, noted for the watchpoints. -/
def noteGroup (s : State) (g : Grp) (lane : Nat) (va : Option Nat) (p : Place) (n : Nat) : State :=
  let s := touchLines s g.key s.seq p n (placeReach s (grpAgent s g) none false false p n)
  note s { ctx := grpCtx s g, core := g.core, band := some g.key, instr := some s.seq, lane := lane, va := va
           stash := p.stashAt, len := n, read := true, write := false, atomic := false, engine := false, pc := g.addr }

/-- TDSET (R369). -/
def execTdset (o : Td) (s : State) : Host.Outcome State Fault Refusal :=
  perGroup s fun g =>
    let va := (rdS g.band o.a.val).toNat
    let id := descNum g.band o.id
    let ag := grpAgent s g
    let (r, s) := locate s g.core g.band.team false va 64 .read
    match r with
    | .exc e => .exc e
    | .zero | .busy => memoryHold
    | .loc l =>
      let p := placeOf s ag l false
      if placeWaits s (some g.band.team) p || descBusy s (grpCtx s g) id then memoryHold
      else
        let (bs, s) := readBy (noteGroup s g (g.live.headD 0) (some va) p 64) ag g.key g.live false p 64
        let v := leNat bs
        if imageInvalid v then .exc (descExc id)
        else if (descOf v).ty = 11 ∧ s.profileN then .exc { cause := cProfile }
        else .ok (setDesc s (grpCtx s g) id (withValid v true))

/-- TDGET (R369): plain stores of the group's threads. -/
def execTdget (o : Td) (s : State) : Host.Outcome State Fault Refusal :=
  perGroup s fun g =>
    let va := (rdS g.band o.a.val).toNat
    let (r, s) := locate s g.core g.band.team false va 64 .write
    match r with
    | .exc e => .exc e
    | .zero => .ok s
    | .busy => memoryHold
    | .loc loc =>
      if descBusy s (grpCtx s g) (descNum g.band o.id) then memoryHold
      else .ok (issueOps s g g.live [.store loc 64 (descImage s (grpCtx s g) (descNum g.band o.id)) none .normal])

/-- TDINV (R369). -/
def execTdinv (o : Tdinv) (s : State) : Host.Outcome State Fault Refusal :=
  perGroup s fun g =>
    let id := descNum g.band o.id
    let v := descImage s (grpCtx s g) id
    if descBusy s (grpCtx s g) id then memoryHold
    else if bitOf v 80 then .ok (setDesc s (grpCtx s g) id (withValid v false)) else .ok s

/-! ### Posting (R364, R365) -/

/-- The first fault of a list of checks. -/
def firstExc : List (Option Exc) → Option Exc
  | [] => none
  | some e :: _ => some e
  | none :: es => firstExc es

/-- A team's latches as threads of a band see them: slots that a LATG of theirs has still to give belong to the engines (R287). -/
def seenLatches (s : State) (k : Nat) (lanes : List Nat) (tm : Team) : Team :=
  s.pending.foldl (fun tm o => match o.kind with
    | .latg slots _ =>
      if o.issuer = k ∧ (o.lanes.any fun i => lanes.contains i) then
        slots.foldl (fun tm n => setLatch tm n { latchOf tm n with engine := true }) tm
      else tm
    | _ => tm) tm

/-- Address, Latch over stash ranges (offset, length), then Tumbler (R371, R374, R392). -/
def rangesCheck (tm : Team) (ranges : List (Nat × Nat)) (tumb : Option Nat) : Option Exc :=
  match firstOutside tm ranges with
  | some a => some { cause := cAddress, addr := a }
  | none =>
    let slots := ranges.flatMap fun r => slotsOf r.1 r.2
    match (slots.filter fun n => !(latchOf tm n).engine).min? with
    | some n => some { cause := cLatch, addr := 1024 * n }
    | none => match tumb with
      | some t => if (tumblerOf tm t).expect = 0 then some (tumblerExc t) else none
      | none => none

/-- The slots that ranges cover, each once. -/
def slotsIn (ranges : List (Nat × Nat)) : List Nat := (ranges.flatMap fun r => slotsOf r.1 r.2).eraseDups

/-- The slots of registered windows that writes to global bytes may reach: `hits` says whether they meet a physical range (R341). -/
def aimedSlots (s : State) (hits : Nat → Nat → Bool) : List (Nat × Nat) :=
  s.teams.flatMap fun t => t.2.maps.flatMap fun e => match e.2.win with
    | some w => ((List.range e.2.count).filter fun i => hits (w.base + 1024 * i) 1024).map fun i => (t.1, e.2.first + i)
    | none => []

/-- A walk of now puts `n` bytes of a context from `va` on, that lie in one page, in a physical range. -/
def writesIn (s : State) (ctx va n lo len : Nat) : Bool :=
  match walk s ctx va with
  | .ok l => decide (physOf l va < lo + len ∧ lo < physOf l va + n)
  | .error _ => false

/-- PENDING of window slots set at a posting. -/
def setAimed (s : State) (aimed : List (Nat × Nat)) : State :=
  aimed.foldl (fun s x => match teamOf s x.1 with
    | some tm => setTeam s x.1 (setPending tm x.2 true)
    | none => s) s

/-- Whether an outstanding command or collective may write a window slot. -/
def isAimed (s : State) (x : Nat × Nat) : Bool :=
  (s.cores.any fun c => c.2.channels.any fun q => (q.2.queue ++ q.2.chain).any fun c => c.aimed.contains x)
    || (s.hinges.any fun h => h.2.collectives.any fun c => c.aimed.contains x)
    || s.contexts.any fun c => (c.2.savedCmds.any fun c => c.2.aimed.contains x) || c.2.savedColls.any fun c => c.aimed.contains x

/-- PENDING of the window slots of a command that has completed: 0 where no outstanding command is left that names the slot or may
write it (R341). -/
def clearAimed (s : State) (aimed : List (Nat × Nat)) : State :=
  aimed.foldl (fun s x => match teamOf s x.1 with
    | some tm => if (latchOf tm x.2).count = 0 ∧ isAimed s x = false then setTeam s x.1 (setPending tm x.2 false) else s
    | none => s) s

/-- The window slots of the global bytes that a command may write: a box stored, rows scattered (R341). -/
def Command.aims (s : State) (c : Command) : List (Nat × Nat) :=
  let es := c.desc.es
  match c.kind with
  | .box true origin ext off pitch =>
    aimedSlots s fun lo len => (List.range (boxCount ext)).any fun i =>
      let xs := (boxElem es origin ext off pitch i).1
      inBounds c.desc xs && writesIn s c.ctx (elemAddr c.desc xs) es lo len
  | .rows true c0 c2 c3 e0 _ _ elems =>
    aimedSlots s fun lo len => elems.any fun e => match e.2.2 with
      | some x => (rowElems c.desc c0 c2 c3 e0 x).any fun i => writesIn s c.ctx i.2 es lo len
      | none => false
  | .box .. | .rows .. | .move .. | .embag .. => []

/-- What a command does, as words. DESIGN CHOICE (log 52). -/
def kindCode : CmdKind → List Nat
  | .box st origin ext off pitch => [1 + 256 * bit st, off, pitch] ++ origin ++ ext
  | .rows sc c0 c2 c3 e0 off pitch elems => [2 + 256 * bit sc, off, pitch, c0, c2, c3, e0, elems.length]
  | .move va n home => [3, va, n, home]
  | .embag w ioff woff boff nb doff pitch ni => [4 + 256 * bit w, ioff, woff, boff, nb, doff, pitch, ni]

/-- The 64-byte record of a chained command in its context's engine area (R357): its team, sequence number, tumbler and the words of
what it does. DESIGN CHOICE (log 52). DESIGN CHOICE (log 52). -/
def chainRecord (c : Command) : List Byte :=
  ((([c.team + c.band * 2 ^ 16 + (c.tumb.getD 255) * 2 ^ 48, c.seq.toNat] ++ kindCode c.kind) ++ List.replicate 8 0).take 8).flatMap (leBytes 8)

/-- A command put into its channel: the hardware queue, or the chain once that is full, its record at home (R357). -/
def enqueue (s : State) (core ch : Nat) (c : Command) : State :=
  let q := coreChan s core ch
  if q.queue.length < 16 ∧ q.chain.isEmpty then setCoreChan s core ch { q with queue := q.queue ++ [c] }
  else
    setCoreChan (homeWrite s (chainPlace s c.ctx core ch q.chained) (chainRecord c)) core ch
      { q with chain := q.chain ++ [c], chained := q.chained + 1 }

/-- The command queued, its sequence number in `sd`; without room the group waits (R357, R365). Its release is an operation, which is
performed after every earlier one of P; the command begins after it. -/
def postCommand (s : State) (g : Grp) (tm : Team) (ch d : Nat) (named mayWrite : List (Nat × Nat)) (cmd : Nat → Command) :
    GrpRes :=
  if !postRoom s g.core ch tm.ctx then .hold (.polled stUnit)
  else
    match teamOf s g.band.team, bandOf s g.key with
    | some tm, some b =>
      let c := chanOf tm ch
      let n := c.posted + 1
      let slots := slotsIn named
      let count := fun (tm : Team) (k : Nat) => setLatch tm k { latchOf tm k with count := (latchOf tm k).count + 1 }
      let tm := slots.foldl count (setChan tm ch { c with posted := n })
      let tm := (slotsIn mayWrite).foldl (fun tm k => setPending tm k true) tm
      let s := setBand (setTeam s g.band.team tm) g.key (wrS b d n)
      let x := { cmd n.toNat with slots := slots, chan := ch, aimed := (cmd n.toNat).aims s, issue := s.seq, posted := false }
      .ok (issueOps (enqueue (setAimed s x.aimed) g.core ch x) g g.live [.post .cluster])
    | _, _ => .ok s

/-- A command of a group, its kind and tumbler given. -/
def newCommand (g : Grp) (tm : Team) (desc : Desc) (kind : CmdKind) (tumb : Option Nat) (seq : Nat) : Command :=
  { team := g.band.team, band := g.key, ctx := tm.ctx, seq := BitVec.ofNat 64 seq, desc := desc, kind := kind
    tumb := tumb, slots := [] }

/-- A post on its team after the Register Range check of its vector registers and tumbler. -/
def onPost (s : State) (regs : List Nat) (t : Option Nat) (f : Grp → Team → GrpRes) : Host.Outcome State Fault Refusal :=
  perGroup s fun g =>
    match teamOf s g.band.team with
    | none => .ok s
    | some tm =>
      let tumb := match t with | some t => (tumblerRange tm t).toList | none => []
      match pickExc s.tick ((regs.filter fun r => decide (g.band.n ≤ r)).map (rangeExc 1) ++ tumb) with
      | some e => .exc e
      | none => f g tm

/-! ### CPOST (R370, R371) -/

/-- Fields of se: PITCH and OFF, none when a bit that must be zero is not. DEDUCED (log 49). DEDUCED (log 49). -/
def pitchOff (v : Nat) : Option (Nat × Nat) :=
  if bitsOf v 48 16 ≠ 0 ∨ bitsOf v 19 13 ≠ 0 then none else some (bitsOf v 32 16, bitsOf v 0 19)

/-- CPOST (R371). -/
def execCpost (o : Cpost) (s : State) : Host.Outcome State Fault Refusal :=
  let t := o.tumb.map (·.val)
  onPost s [] t fun g tm =>
    withDesc s tm.ctx o.desc.val fun d =>
      let a := (rdS g.band o.a.val).toNat
      let b := (rdS g.band o.b.val).toNat
      let c := (rdS g.band o.c.val).toNat
      let ext := (List.range 4).map fun i => bitsOf c (16 * i) 16
      let e := fun i => ext.getD i 1
      let bad := ext.contains 0 || ((List.range 4).any fun i => decide (d.rank ≤ i) && e i != 1)
      match pitchOff (rdS g.band o.e.val).toNat with
      | none => .exc { cause := cOperand }
      | some (pitch, off) =>
        if bad || (pitch != 0 && decide (pitch < e 0 * d.es)) then .exc { cause := cOperand }
        else if off % d.es ≠ 0 then .exc { cause := cAlignment, addr := off }
        else if pitch % d.es ≠ 0 then .exc { cause := cAlignment, addr := off + pitch }
        else
          let p := if pitch = 0 then e 0 * d.es else pitch
          let range := (off, (e 1 * e 2 * e 3 - 1) * p + e 0 * d.es)
          match rangesCheck (seenLatches s g.key g.live tm) [range] t with
          | some x => .exc x
          | none =>
            let origin := [bitsOf a 0 32, bitsOf a 32 32, bitsOf b 0 32, bitsOf b 32 32]
            postCommand s g tm o.chn.val o.d.val [range] (if o.store then [] else [range])
              (newCommand g tm d (.box o.store origin ext off p) t)

/-! ### Accesses of a running command (R366) -/

/-- What an engine's access to global memory meets. -/
inductive EngAcc where
  | ok (p : Place)
  /-- NOT_PRESENT or NONRESIDENT, and the virtual page. -/
  | stall (vpage : Nat)
  /-- 2 PAGE, 3 LOST, 4 ADDRESS (R377). -/
  | abort (cause : Nat)
  /-- A granule of another team's ENGINE slot, or a stack that is flushing. -/
  | block
  deriving DecidableEq, Repr

def engAgent (tm : Team) (team : Nat) : Agent := .engine tm.core team tm.ctx

/-- The place under a target of R225's checks. -/
def targetPlace (s : State) (ctx va : Nat) (write : Bool) : Target → Place
  | .bytes a => placePhys s a
  | .zeros .. => .zeros
  | .revive _ | .busy => placeAgain s ctx va write

def isMissing (e : Exc) : Bool := e.cause == cPage && (e.info % 256 == kNotPresent || e.info % 256 == kNonresident)
def abortCause (e : Exc) : Nat := if e.cause = cLost then 3 else 2

/-- A fault that an engine's access meets (R366). -/
def faultAcc (e : Exc) : EngAcc := if isMissing e then .stall (e.addr / 65536) else .abort (abortCause e)

/-- What an engine's access of `n` bytes at a stash offset meets, which may need window fills (R241, R366): a place that it may use. The
latch of a slot of another's window makes it wait. -/
def stashAcc (s : State) (tm : Team) (off n : Nat) (write : Bool) (p : Place) : EngAcc :=
  match fillFault s tm off n write (bit write) with
  | some e => faultAcc e
  | none => if windowBusy s tm off n || placeWaits s none p then .block else .ok p

/-- The same of the command's own slots, which the engines hold. -/
def slotAcc (s : State) (tm : Team) (off n : Nat) (write : Bool) : EngAcc :=
  match fillFault s tm off n write (bit write) with
  | some e => faultAcc e
  | none => if windowBusy s tm off n then .block else .ok .gone

def engPlace (s : State) (tm : Team) (va : Nat) (write : Bool) : EngAcc × State :=
  if Config.vaLimit ≤ va then (.abort 4, s)
  else
    let (r, s) := access s (clusterOfCore tm.core) tm.ctx va (if write then .write else .read)
    match r with
    | .error e => (faultAcc e, s)
    | .ok .busy => (.block, s)
    | .ok t =>
      let p := targetPlace s tm.ctx va write t
      (match p with
        | .stash k off => match teamOf s k with
          | some t => stashAcc s t off 1 write p
          | none => .ok p
        | _ => if placeWaits s none p then .block else .ok p, s)

/-- An engine's access noted for the watchpoints. -/
def noteEngine (s : State) (ctx core band : Nat) (va : Option Nat) (p : Place) (n : Nat) (write : Bool) :
    State :=
  note s { ctx := ctx, core := core, band := some band, instr := none, lane := 0, va := va
           stash := p.stashAt, len := n, read := !write, write := write, atomic := false, engine := true
           pc := 0 }

/-- The number under which a command's lines are noted (R458). -/
def cmdInstr (c : Command) : Nat := 2 ^ 64 * (c.chan + 1) + c.seq.toNat

/-- An access of a copy command. -/
def noteCmd (s : State) (tm : Team) (c : Command) (va : Option Nat) (p : Place) (n : Nat) (write : Bool) : State :=
  let s := touchLines s c.band (cmdInstr c) p n (placeReach s (engAgent tm c.team) none write false p n)
  noteEngine s tm.ctx tm.core c.band va p n write

/-- Stash bytes of a command, counted toward CWPn (R289). -/
def engStash (s : State) (c : Command) (ch off : Nat) (bs : List Byte) : State :=
  match teamOf s c.team with
  | none => s
  | some tm =>
    let s := stashWriteEngine (noteCmd s tm c none (.stash c.team off) bs.length true) c.team ch off bs
    match teamOf s c.team with
    | none => s
    | some tm =>
      let n := chanOf tm ch
      setTeam s c.team (setChan tm ch { n with cwp := n.cwp + BitVec.ofNat 64 bs.length })

/-- A range added to the ranges written, the newest first; a range that continues the newest joins it. -/
def addRange (w : List (Nat × Nat)) (off n : Nat) : List (Nat × Nat) :=
  match w with
  | (o, m) :: rest => if o + m = off then (o, m + n) :: rest else (off, n) :: (o, m) :: rest
  | [] => [(off, n)]

/-- Bytes that the copy engines of a core's hinge have moved (R454). -/
def countCopy (s : State) (core n : Nat) : State :=
  let h := hingeOf s (hingeOfCore core)
  setHinge s (hingeOfCore core) { h with copyBytes := h.copyBytes + BitVec.ofNat 64 n }

/-- The line of a global byte that the engine has accessed has been used (R234). -/
def useEngine (s : State) (ag : Agent) (va : Nat) : Place → State
  | .mem a | .revive _ a => useLine s ag a va .normal
  | .stash .. | .zeros | .gone => s

/-- One element moved: to the stash, or from it to its place. -/
def moveElem (s : State) (tm : Team) (c : Command) (ch : Nat) (store : Bool) (off es : Nat) (va : Nat) (p : Option Place) :
    State :=
  let ag := engAgent tm c.team
  let s := countCopy s tm.core es
  if store then
    match p with
    | none => s
    | some p =>
      let (bs, s) := stashRead (noteCmd s tm c none (.stash c.team off) es false) c.team off es
      useEngine (writePlace (noteCmd s tm c (some va) p es true) ag false none p bs) ag va p
  else
    let (bs, s) := match p with
      | none => (List.replicate es 0, s)
      | some p =>
        let (bs, s) := readPlace (noteCmd s tm c (some va) p es false) ag false p es
        (bs, useEngine s ag va p)
    -- what an early read has seen is what is written (R289)
    engStash s c ch off (mapFrom (fun i b => (aFind (off + i) c.ahead).getD b) 0 bs)

/-! ### The steps of a CPOST -/

/-- What the two sides of an element meet, the source first. -/
def firstMet (x y : EngAcc) : EngAcc :=
  match x with
  | .ok _ => y
  | r => r

/-- Elements from `pos` on, `fuel` of them: the command's progress and what it met. DESIGN CHOICE (log 48). -/
def runBox (tm : Team) (ch : Nat) (store : Bool) (origin ext : List Nat) (off pitch : Nat) :
    Nat → State → Command → State × Command × EngAcc
  | 0, s, c => (s, c, .ok .gone)
  | fuel + 1, s, c =>
    let es := c.desc.es
    let (xs, o) := boxElem es origin ext off pitch c.pos
    let va := elemAddr c.desc xs
    let mine := slotAcc s tm o es (!store)
    let (r, s) := if inBounds c.desc xs then engPlace s tm va store else (EngAcc.ok .gone, s)
    match (if store then firstMet mine r else firstMet r mine) with
    | .ok _ =>
      let p := match r with | .ok p => p | _ => .gone
      let s := moveElem s tm c ch store o es va (if inBounds c.desc xs then some p else none)
      let w := if store then c.written else addRange c.written o es
      runBox tm ch store origin ext off pitch fuel s { c with pos := c.pos + 1, written := w }
    | r => (s, c, r)

/-- A stopped box stands at a 128-byte boundary of its stash side, by its byte offset (R366, R368), or at its end, or has stalled. -/
def atBoundary (c : Command) : Bool :=
  match c.kind with
  | .box _ _ ext _ _ => decide (c.desc.es * c.pos % 128 = 0 ∨ boxCount ext ≤ c.pos) || c.stall.isSome || c.ended.isSome
  | .rows .. | .move .. | .embag .. => c.part == 0

/-- A stalled command's request record (R366, R262). DEDUCED (log 50). DEDUCED (log 50). -/
def stallOn (s : State) (core ch : Nat) (c : Command) (vpage : Nat) : State × Stall :=
  let r : PageRecord := { ctx := c.ctx, vpage := vpage, source := 2, unit := ch, core := core }
  if (coreChan s core ch).held.contains r then (s, { vpage := vpage, held := false })
  else if ringFull (ctxOf s c.ctx).requests 16 then
    let x := ctxOf s c.ctx
    let out := if x.outstanding.contains vpage then x.outstanding else x.outstanding ++ [vpage]
    (setCtx s c.ctx { x with outstanding := out }, { vpage := vpage, held := true })
  else
    (writePageRecord s r, { vpage := vpage, held := false })

/-- The head command of a channel, once its post is performed, begins or goes on (R356, R366): a box by a number of elements that is
open. DESIGN CHOICE (log 48). DESIGN CHOICE (log 48). -/
def startCommand (s : State) (core ch : Nat) : State :=
  match headCmd s core ch with
  | none => s
  | some c =>
    match teamOf s c.team with
    | none => s
    | some tm =>
      if !c.posted || c.ended.isSome || c.stall.isSome then s
      else match c.kind with
        | .box store origin ext off pitch =>
          let es := c.desc.es
          let left := boxCount ext - c.pos
          let (k, s) := choose s left
          let (s, c, r) := runBox tm ch store origin ext off pitch (left - k) s { c with running := true }
          match r with
          | .ok _ => setHead s core ch (if boxCount ext ≤ c.pos then { c with ended := some (0, 0, 0, 0) } else c)
          | .block => setHead s core ch c
          | .abort cause => setHead s core ch { c with aborted := true, ended := some (cause, 0, es * c.pos, 0) }
          | .stall page =>
            let (s, st) := stallOn s core ch c page
            setHead s core ch { c with stall := some st }
        | .rows .. | .move .. | .embag .. => setHead s core ch { c with running := true }

/-- ENGINE_COMMAND_START. -/
def execEngineCommandStart (s : State) : Host.Outcome State Fault Refusal :=
  match s.cur with
  | .event (.engineCommandStart core ch) => .next (startCommand s core ch)
  | _ => .fault .noActor

/-! ### GPOST, SPOST (R372-R375) -/

/-- The row number of an index under a remap state (R373); a table is read as the group's threads read the stash. -/
def remapRow (s : State) (g : Grp) (ag : Agent) (lane : Nat) (r : Remap) (idx : Nat) : Option Nat × State :=
  match r with
  | .none => (some idx, s)
  | .mod m => (some (idx % m), s)
  | .hash m seed => (some (mix64 (Nat.xor idx seed.toNat) % m), s)
  | .tab m t =>
    if m ≤ idx then (none, s)
    else
      let p : Place := .stash g.band.team (t + 4 * idx)
      let (bs, s) := readBy (noteGroup s g lane none p 4) ag g.key [lane] false p 4
      (some (leNat bs), s)

/-- The elements of an index command: lane, index, row number unless bad. -/
def indexElems (g : Grp) (ag : Agent) (r : Remap) (dim1 vb : Nat) :
    List Nat → State → List (Nat × Word × Option Nat) × State
  | [], s => ([], s)
  | l :: ls, s =>
    let idx := rdV (threadOf g.band l) vb
    let (x, s) := remapRow s g ag l r idx.toNat
    let x := match x with | some x => if x < dim1 then some x else none | none => none
    let (rest, s) := indexElems g ag r dim1 vb ls s
    ((l, idx, x) :: rest, s)

/-- The first address of each page among addresses. -/
def pageFirsts (seen : List Nat) : List Nat → List Nat
  | [] => []
  | a :: as => if seen.contains (a / 65536) then pageFirsts seen as else a :: pageFirsts (a / 65536 :: seen) as

/-- The pages of a row: targets by page, with the first Page fault and the first Memory Lost. -/
structure RowScan where
  page : Option Exc := none
  lost : Option Exc := none
  targets : List (Nat × Nat × Target) := []

def scanPages (tm : Team) (acc : Acc) : List Nat → State → RowScan → RowScan × State
  | [], s, r => (r, s)
  | va :: vas, s, r =>
    let (t, s) := access s (clusterOfCore tm.core) tm.ctx va acc
    let r := match t with
      | .error e =>
        if e.cause = cLost then { r with lost := if r.lost.isSome then r.lost else some e }
        else { r with page := if r.page.isSome then r.page else some e }
      | .ok t => { r with targets := r.targets ++ [(va / 65536, va, t)] }
    scanPages tm acc vas s r

/-- The fault of a row, in the order PAGE, LOST, ADDRESS, and its scan. -/
def scanRow (s : State) (tm : Team) (scatter : Bool) (vas : List Nat) : Option Exc × RowScan × State :=
  let low := vas.filter fun a => decide (a < Config.vaLimit)
  let (r, s) := scanPages tm (if scatter then .write else .read) (pageFirsts [] low) s {}
  let high := (vas.find? fun a => decide (Config.vaLimit ≤ a)).map fun a => ({ cause := cAddress, addr := a } : Exc)
  (firstExc [r.page, r.lost, high], r, s)

/-- The pages of a row as its checks found them (R374): virtual page, 0 bytes or 1 a DISCARDED page, physical address of the page. -/
def RowScan.pages (r : RowScan) : List (Nat × Nat × Nat) :=
  r.targets.map fun t => match t.2.2 with
    | .bytes a => (t.1, 0, a - t.2.1 % 65536)
    | .zeros .. | .revive _ | .busy => (t.1, 1, 0)

/-- The place of an element's address on the pages of its row. -/
def rowPlace (s : State) (tm : Team) (scatter : Bool) (pages : List (Nat × Nat × Nat)) (va : Nat) : Place :=
  match pages.find? fun t => t.1 == va / 65536 with
  | some (_, 0, a) => placePhys s (a + va % 65536)
  | some _ => placeAgain s tm.ctx va scatter
  | none => .gone

/-- The posting of an index command after Register Range. DEDUCED (log 49). DEDUCED (log 49). -/
def postIndex (scatter : Bool) (o : Gpost) (s : State) : Host.Outcome State Fault Refusal :=
  onPost s [o.b.val] (some o.t.val) fun g tm =>
    withDesc s tm.ctx o.desc.val fun d =>
      if d.rank = 1 then .exc (descExc o.desc.val)
      else
        let a := (rdS g.band o.a.val).toNat
        let e0 := (rdS g.band o.c.val).toNat
        match pitchOff (rdS g.band o.e.val).toNat with
        | none => .exc { cause := cOperand }
        | some (pitch, off) =>
          if e0 = 0 ∨ 65535 < e0 ∨ (pitch ≠ 0 ∧ pitch < e0 * d.es) then .exc { cause := cOperand }
          else if off % 8 ≠ 0 then .exc { cause := cAlignment, addr := off }
          else if pitch % 8 ≠ 0 then .exc { cause := cAlignment, addr := off + pitch }
          else
            let p := if pitch = 0 then e0 * d.es else pitch
            let range := (off, 32 * p + 8)
            match rangesCheck (seenLatches s g.key g.live tm) [range] (some o.t.val) with
            | some x => .exc x
            | none =>
              let c0 := bitsOf a 0 32
              let c2 := bitsOf a 32 16
              let c3 := bitsOf a 48 16
              let (elems, s) := indexElems g (grpAgent s g) (chanOf tm o.chn.val).remap (d.dim 1) o.b.val g.live s
              let first : Option Exc × State := match elems with
                | (l, idx, none) :: _ => (some { cause := cIndex, addr := idx.toNat, info := l }, s)
                | (_, _, some x) :: _ =>
                  let (e, _, s) := scanRow s tm scatter ((rowElems d c0 c2 c3 e0 x).map (·.2))
                  (e, s)
                | [] => (none, s)
              match first.1 with
              | some e => .exc e
              | none =>
                let rows := elems.map fun e => (off + e.1 * p, e0 * d.es)
                postCommand first.2 g tm o.chn.val o.d.val [range]
                  ((off + 32 * p, 8) :: if scatter then [] else rows)
                  (newCommand g tm d (.rows scatter c0 c2 c3 e0 off p elems) (some o.t.val))

/-- GPOST and SPOST (R374). -/
def execGpost (o : Gpost) (s : State) : Host.Outcome State Fault Refusal := postIndex false o s
def execSpost (o : Gpost) (s : State) : Host.Outcome State Fault Refusal := postIndex true o s

/-- An element of a row must wait: for a stack, or for an ENGINE slot of a window (R241, R479). -/
def rowWaits (s : State) (tm : Team) (scatter : Bool) (pages : List (Nat × Nat × Nat)) (off es va : Nat) : Bool :=
  let p := rowPlace s tm scatter pages va
  placeWaits s none p || windowBusy s tm off es || (match p with | .mem a | .revive _ a => stackBusy s a | _ => false)

/-- Elements from `part` on of a row moved, `fuel` of them or as many as need not wait: every one for GPOST, out-of-bounds ones as
zeros; the in-bounds ones for SPOST. -/
def moveRow (tm : Team) (ch : Nat) (scatter : Bool) (off : Nat) (ins : List (Nat × Nat)) : Nat → State → Command → State × Command
  | 0, s, c => (s, c)
  | fuel + 1, s, c =>
    let es := c.desc.es
    let i := c.part
    let c' := { c with part := i + 1, written := if scatter then c.written else addRange c.written (off + es * i) es }
    match ins.find? fun e => e.1 == i with
    | some (_, va) =>
      if rowWaits s tm scatter c.pages (off + es * i) es va then (s, c)
      else
        let p := rowPlace s tm scatter c.pages va
        moveRow tm ch scatter off ins fuel (moveElem s tm c ch scatter (off + es * i) es va (some p)) c'
    | none =>
      if scatter then moveRow tm ch scatter off ins fuel s c'
      else moveRow tm ch scatter off ins fuel (moveElem s tm c ch scatter (off + es * i) es 0 none) c'

/-- The fault of the window fills that a row's bytes in the stash need: PAGE or LOST (R366). -/
def rowFill (s : State) (tm : Team) (scatter : Bool) (off n : Nat) : Option Exc :=
  fillFault s tm off n (!scatter) (bit !scatter)

/-- The row of an index command's next element begun, after its checks, or gone on with by a number of elements that is open; delivered
with its arrival once all are moved; or the stop (R374). DESIGN CHOICE (log 48). -/
def deliverRow (s : State) (core ch : Nat) : State :=
  match headCmd s core ch with
  | none => s
  | some c =>
    match c.kind, teamOf s c.team with
    | .rows scatter c0 c2 c3 e0 off pitch elems, some tm =>
      if !c.running || c.ended.isSome then s
      else match elems[c.pos]? with
        | none => s
        | some (l, _, none) => setHead s core ch { c with ended := some (1, l, 0, 0) }
        | some (l, _, some x) =>
          let ins := rowElems c.desc c0 c2 c3 e0 x
          let at_ := off + l * pitch
          -- the row is checked as a whole before its first element
          let (e, busy, pages, s) :=
            if c.part ≠ 0 then (none, false, c.pages, s)
            else
              let (e, r, s) := scanRow s tm scatter (ins.map (·.2))
              (firstExc [e, rowFill s tm scatter at_ (e0 * c.desc.es)], r.targets.any (fun t => t.2.2 == .busy), r.pages, s)
          match e with
          | some e =>
            let cause := if e.cause = cAddress then 4 else abortCause e
            setHead s core ch { c with ended := some (cause, l, 0, 0) }
          | none =>
            if busy then s
            else
              let (k, s) := choose s (e0 - c.part)
              let (s, c) := moveRow tm ch scatter at_ ins (e0 - c.part - k) s { c with pages := pages }
              if c.part < e0 then setHead s core ch c
              else
                let m : Word := BitVec.ofNat 32 (2 ^ l)
                let cwp := match teamOf s c.team with | some tm => (chanOf tm ch).cwp.toNat | none => 0
                let s := setHead s core ch
                  { c with pos := c.pos + 1, part := 0, pages := [], mask := c.mask ||| m, delivered := c.delivered + 1, counted := cwp }
                match c.tumb with
                | some t => (arrive s c.team t 1).2
                | none => s
    | _, _ => s

/-- INDEX_ROW_DELIVERY. -/
def execIndexRowDelivery (s : State) : Host.Outcome State Fault Refusal :=
  match s.cur with
  | .event (.indexRowDelivery core ch) => .next (deliverRow s core ch)
  | _ => .fault .noActor

/-! ### MPOST and page moves (R246, R378) -/

/-- MPOST (R378). -/
def execMpost (o : Mpost) (s : State) : Host.Outcome State Fault Refusal :=
  perGroup s fun g =>
    match teamOf s g.band.team with
    | none => .ok s
    | some tm =>
      let va := (rdS g.band o.a.val).toNat
      let n := (rdS g.band o.c.val).toNat
      if Config.vaLimit ≤ va ∨ Config.vaLimit < va / 65536 * 65536 + n * 65536 then .exc { cause := cAddress, addr := va }
      else if n = 0 ∨ 65535 < n then .exc { cause := cOperand }
      else
        let none' : Desc := { base := 0, ty := 4, rank := 0, dims := [], strides := [] }
        postCommand s g tm o.chn.val o.d.val [] []
          (newCommand g tm none' (.move (va / 65536 * 65536) n o.home.val) none)

/-- The move of a device-physical page to a frame of a home: link copies go to home, then the remap entry switches (R246). -/
def movePage (s : State) (ppn home frame : Nat) : State :=
  let inPage := fun e : Nat × Copy => e.1 / 65536 == ppn
  let flush := fun (s : State) (h : Nat) =>
    (((hingeOf s h).link).filter inPage).foldl (fun s e =>
      discardByte e.1 [.link h] 1 (cleanByte e.1 [.link h] 1 s)) s
  takeFrame ((List.range Config.hinges).foldl flush s) ppn home frame

/-- A page cannot move now: its home, or the one it goes to, takes no access (R479). -/
def moveWaits (s : State) (ppn home : Nat) : Bool := homeBusy s (homeOfPage s ppn) || homeBusy s home

/-- A page moved to a home that has a free frame; whether it was (R378). DESIGN CHOICE (log 51). -/
def moveTo (s : State) (ppn home : Nat) : Bool × State :=
  match freeFrame s home with
  | (some f, s) => (true, movePage s ppn home f)
  | (none, s) => (false, s)

/-- The next page of an MPOST moved or skipped. DESIGN CHOICE (log 51). DESIGN CHOICE (log 51). -/
def moveNext (s : State) (core ch : Nat) : State :=
  match headCmd s core ch with
  | none => s
  | some c =>
    match c.kind with
    | .move va pages home =>
      let at_ := va + 65536 * c.pos
      let waits := (tlbFind s (clusterOfCore core) c.ctx at_).isNone && walkBusy s c.ctx at_
        || match walk s c.ctx at_ with
          | .ok l => l.state = 0 ∧ !l.sys ∧ homeOfPage s l.ppn ≠ home ∧ moveWaits s l.ppn home
          | .error _ => false
      if !c.running || decide (pages ≤ c.pos) || waits then s
      else
        let (r, s) := translate s (clusterOfCore core) c.ctx (va + 65536 * c.pos)
        let s := setHead s core ch { c with pos := c.pos + 1 }
        match r with
        | .error _ => s
        | .ok l =>
          if l.state ≠ 0 ∨ l.sys ∨ homeOfPage s l.ppn = home then s
          else
            let h := hingeOfCore core
            let old := homeReach s h (l.ppn * 65536)
            let (ok, s) := moveTo s l.ppn home
            if ok then
              let s := addEnergy s c.band (512 * (lineWeight old + lineWeight (homeReach s h (l.ppn * 65536))))
              countCopy s core 65536
            else s
    | _ => s

/-- A page that the driver has enabled for promotion through PROMn (R247, R472). -/
def promEnabled (s : State) (h page : Nat) : Bool :=
  (hingeOf s h).prom.any fun r =>
    let first := bitsOf r.2.1.toNat 0 32
    (r.2.1).getLsbD 63 && decide (first ≤ page ∧ page < first + bitsOf r.2.2.toNat 0 32)

/-- The promotion engine's reason for a move: a high count takes a capacity page near, a low one a near page away (R247).
DESIGN CHOICE (log 96). -/
def promotes (s : State) (page home : Nat) : Bool :=
  let n := (aGet 0 page s.promo).toNat
  if home < 16 then decide (16 ≤ homeOfPage s page ∧ Config.promoteFrom.toNat ≤ n)
  else decide (homeOfPage s page < 16 ∧ n ≤ Config.demoteTo.toNat)

/-! ### VREMAP (R376) -/

def execVremap (o : Vremap) (s : State) : Host.Outcome State Fault Refusal :=
  perGroup s fun g =>
    match teamOf s g.band.team with
    | none => .ok s
    | some tm =>
      let put := fun (r : Remap) =>
        GrpRes.ok (setTeam s g.band.team (setChan tm o.chn.val { chanOf tm o.chn.val with remap := r }))
      let withM := fun (a : Fin 64) (f : Nat → GrpRes) =>
        let v := (rdS g.band a.val).toNat
        if v = 0 ∨ 2 ^ 32 ≤ v then .exc { cause := cOperand } else f v
      match o.mode with
      | .none => put .none
      | .mod a => withM a fun m => put (.mod m)
      | .hash a b => withM a fun m => put (.hash m (rdS g.band b.val))
      | .tab a b => withM a fun m =>
        let t := (rdS g.band b.val).toNat
        if 2 ^ 19 ≤ t ∨ t % 4 ≠ 0 then .exc { cause := cOperand }
        else match firstOutside tm [(t, 4 * m)] with
          | some x => .exc { cause := cAddress, addr := x }
          | none => put (.tab m t)

/-! ### CWAIT, CSEQ, CQRY (R377) -/

/-- CWAIT (R377). -/
def execCwait (o : Cwait) (s : State) : Host.Outcome State Fault Refusal :=
  perGroup s fun g =>
    match teamOf s g.band.team with
    | none => .ok s
    | some tm =>
      if ((chanOf tm o.chn.val).csq - rdS g.band o.b.val).getLsbD 63 then .wait (.polled stLatch)
      else .ok (if o.cluster then dropAll s (grpAgent s g) .cluster else s)

/-- CSEQ (R377). -/
def execCseq (o : Cseq) (s : State) : Host.Outcome State Fault Refusal :=
  perGroup s fun g =>
    match teamOf s g.band.team with
    | none => .ok s
    | some tm =>
      let s := setBand s g.key (wrS g.band o.d.val (chanOf tm o.chn.val).csq)
      .ok (if o.cluster then dropAll s (grpAgent s g) .cluster else s)

/-- The channel word of CQRY. -/
def channelWord (s : State) (tm : Team) (team ch : Nat) : DWord :=
  let c := chanOf tm ch
  let (stall, off) := match headCmd s tm.core ch with
    | some x => if x.team = team ∧ x.stall.isSome then (true, x.desc.es * x.pos) else (false, 0)
    | none => (false, 0)
  BitVec.ofNat 64 (bit stall * 2 ^ 63 + bit c.err * 2 ^ 62 + c.cause.toNat * 2 ^ 48
    + min 65535 (c.posted - c.csq).toNat * 2 ^ 32 + off % 2 ^ 32)

/-- CQRY (R377): ERR and CAUSE are cleared by the read. -/
def execCqry (o : Cqry) (s : State) : Host.Outcome State Fault Refusal :=
  perGroup s fun g =>
    match teamOf s g.band.team with
    | none => .ok s
    | some tm =>
      let w := channelWord s tm g.band.team o.chn.val
      let c := chanOf tm o.chn.val
      let s := setTeam s g.band.team (setChan tm o.chn.val { c with err := false, cause := 0 })
      .ok (setBand s g.key (wrS g.band o.d.val w))

/-! ### Completion (R359) -/

/-- Nothing of the command remains but its completion. -/
def cmdFinished (c : Command) : Bool :=
  c.running && c.stall.isNone && (c.ended.isSome || match c.kind with
    | .box .. => false
    | .rows _ _ _ _ _ _ _ elems => decide (elems.length ≤ c.pos)
    | .move _ pages _ => decide (pages ≤ c.pos)
    | .embag _ _ _ _ nb _ _ _ => decide (nb ≤ c.pos))

/-- The entries of the slots a command wrote (R341). -/
def classesOfCommand (tm : Team) (written : List (Nat × Nat)) : Team :=
  (slotsIn written).foldl (fun tm n =>
    let os := (written.flatMap fun r => offsetsIn n r.1 r.2).eraseDups
    if (windowAtSlot tm n).isNone ∧ os.length = 1024 then setSlotCls tm n (slotWhole tm.stash n)
    else setSlotCls tm n (slotPartial (slotClsOf tm n) tm.stash n os)) tm

/-- The latch counts of the named slots decremented; a slot at 0 goes back to its threads, with PENDING 0 unless another outstanding
command may write it through its window, `aimed` (R285, R341). -/
def latchDone (aimed : Nat → Bool) (tm : Team) (n : Nat) : Team :=
  let l := latchOf tm n
  if l.count ≤ 1 then
    let tm := returnSlot tm n
    if aimed n then tm else setPending tm n false
  else setLatch tm n { l with count := l.count - 1 }

/-- Bytes that a completed command wrote are no longer read as they were before it (R289). -/
def settleEarly (tm : Team) (ch : Nat) (written : List (Nat × Nat)) : Team :=
  dropEarly tm ch (inRanges written)

/-- The status word of an index command (R374). -/
def indexStatus (c : Command) : Nat :=
  match c.ended with
  | some (cause, lane, _, _) => c.mask.toNat + cause * 2 ^ 32 + lane * 2 ^ 40
  | none => c.mask.toNat

/-- The status words of an EMBAG (R395). -/
def embagStatus (c : Command) : DWord × DWord :=
  let (cause, _, pos, faddr) := c.ended.getD (0, 0, 0, 0)
  (BitVec.ofNat 64 (c.delivered * 2 ^ 51 + cause * 2 ^ 48 + c.seq.toNat % 2 ^ 16 * 2 ^ 32 + pos % 2 ^ 32)
    , BitVec.ofNat 64 (if 2 ≤ cause ∧ cause ≤ 5 then faddr % 2 ^ 55 else 0))

/-- The completion step of the head command, in the order of R359, with what R367 adds for an aborted one. -/
def completeCommand (s : State) (core ch : Nat) : State :=
  match headCmd s core ch with
  | none => s
  | some c =>
    if !cmdFinished c then s
    else
      -- 1, 2: last writes, arrivals of undelivered elements
      let (s, c) := match c.kind with
        | .rows _ _ _ _ _ off pitch elems =>
          let o := off + 32 * pitch
          let s := engStash s c ch o (leBytes 8 (indexStatus c))
          let c := { c with written := addRange c.written o 8 }
          let rest := elems.length - c.delivered
          match c.tumb with
          | some t => (if rest = 0 then s else (arrive s c.team t rest).2, c)
          | none => (s, c)
        | .embag .. =>
          let st := embagStatus c
          match teamOf s c.team with
          | some tm =>
            let n := chanOf tm ch
            (setTeam s c.team (setChan tm ch { n with emstat := st.1, emaddr := st.2 }), c)
          | none => (s, c)
        | .box .. | .move .. => (s, c)
      -- 3, 4: entries, latches
      let s := match teamOf s c.team with
        | none => s
        | some tm =>
          let others := setCoreChan s core ch { coreChan s core ch with queue := (coreChan s core ch).queue.tail }
          let aimed := fun n => isAimed others (c.team, n)
          setTeam s c.team (c.slots.foldl (latchDone aimed) (settleEarly (classesOfCommand tm c.written) ch c.written))
      -- 5: the arrival of CPOST
      let s := match c.kind, c.tumb with
        | .box .., some t => (arrive s c.team t 1).2
        | _, _ => s
      -- 6: CSQ; ERR and CAUSE of an abort
      let cause := match c.ended with | some e => if c.aborted then e.1 else 0 | none => 0
      let s := match teamOf s c.team with
        | none => s
        | some tm =>
          let n := chanOf tm ch
          let n := { n with csq := n.csq + 1 }
          setTeam s c.team (setChan tm ch
            (if c.aborted then { n with err := true, cause := BitVec.ofNat 8 cause } else n))
      let q := coreChan s core ch
      let q := { q with queue := q.queue.tail }
      let q := match q.chain with
        | x :: rest => { q with queue := q.queue ++ [x], chain := rest }
        | [] => q
      let s := clearAimed (settleLines (setCoreChan s core ch q) c.band (cmdInstr c)) c.aimed
      if c.aborted then
        let off := match c.ended with | some e => e.2.2.1 | none => 0
        queueTrap s c.team c.band
          { cause := cause, unit := ch, seq := c.seq.setWidth 32, comm := 0, addr := BitVec.ofNat 64 off }
      else s

/-- COMMAND_COMPLETION. -/
def execCommandCompletion (s : State) : Host.Outcome State Fault Refusal :=
  match s.cur with
  | .event (.commandCompletion core ch) => .next (completeCommand s core ch)
  | _ => .fault .noActor

/-! ### Held request records (R262) -/

def writeHeld (s : State) (h : RecHolder) : State :=
  match h with
  | .channel core ch =>
    let q := coreChan s core ch
    match q.held.find? fun r => !ringFull (ctxOf s r.ctx).requests 16 with
    | some r => setCoreChan (writePageRecord s r) core ch { q with held := q.held.erase r }
    | none =>
    match headCmd s core ch with
    | none => s
    | some c =>
      match c.stall with
      | some st =>
        if !st.held || ringFull (ctxOf s c.ctx).requests 16 then s
        else
          let s := writePageRecord s { ctx := c.ctx, vpage := st.vpage, source := 2, unit := ch, core := core }
          setHead s core ch { c with stall := some { st with held := false } }
      | none => s
  | .hub n =>
    match (hingeOf s n).held.find? fun r => !ringFull (ctxOf s r.ctx).requests 16 with
    | none => s
    | some r =>
      let s := writePageRecord s r
      setHinge s n { hingeOf s n with held := (hingeOf s n).held.erase r }

/-- HELD_RECORD_WRITE. -/
def execHeldRecordWrite (s : State) : Host.Outcome State Fault Refusal :=
  match s.cur with
  | .event (.heldRecordWrite h) => .next (writeHeld s h)
  | _ => .fault .noActor

/-- PAGE_MOVE: one page of an MPOST, or of the promotion engine. -/
def execPageMove (s : State) : Host.Outcome State Fault Refusal :=
  match s.cur with
  | .event (.pageMove (.command core ch)) => .next (moveNext s core ch)
  | .event (.pageMove (.promotion h page home)) =>
    .next (if promEnabled s h page && promotes s page home && !moveWaits s page home then (moveTo s page home).2 else s)
  | _ => .fault .noActor

end Sys2Proof.Machine
end

