-- ==== Sys2Proof/Machine/Collectives.lean ====
section
/-! DEFINITION. The collective engine (13 R379-R382). -/

namespace Sys2Proof.Machine

/-! ### Communicators (R380) -/

/-- An entry as captured at posting; none when VALID is 0. -/
def commOf (bs : List Byte) : Option Comm :=
  let v := leNat bs
  if !bitOf v 16 then none
  else
    let rank := fun h =>
      let m := bitsOf v (64 + 16 * h) 16
      if bitOf m 15 then some (m % 4096) else none
    let route := fun n =>
      let r := bitsOf v (256 + 64 * n) 64
      if bitOf r 63 then some (bitsOf r 53 5, bitsOf r 36 12, bitsOf r 24 12, bitsOf r 16 3) else none
    some { count := bitsOf v 0 16, ranks := (List.range 4).map rank, routes := (List.range 60).filterMap route }

def commAt (s : State) (ctx comm : Nat) : Option Comm :=
  commOf (homeRead s ((ctxOf s ctx).commBase.toNat + 512 * comm) 512)

def hingeRank (c : Comm) (h : Nat) : Option Nat := (c.ranks[h]?).join
/-- The hinge of the package with a rank. -/
def rankHinge (c : Comm) (r : Nat) : Option Nat := (List.range 4).find? fun h => hingeRank c h == some r
/-- Port and virtual channel of the route to a rank. -/
def rankRoute (c : Comm) (r : Nat) : Option (Nat × Nat) :=
  (c.routes.find? fun x => decide (x.2.1 ≤ r ∧ r ≤ x.2.2.1)).map fun x => (x.1, x.2.2.2)
def reachable (c : Comm) (r : Nat) : Bool := (rankHinge c r).isSome || (rankRoute c r).isSome

/-! ### Ports (R472, R474) -/

/-- The first port of a hinge; hinge 4 gives the end. -/
def firstPort : Nat → Nat
  | 0 => 0 | 1 => 5 | 2 => 9 | 3 => 14 | _ => 18
def portsOf (h : Nat) : Nat := firstPort (h + 1) - firstPort h
def hingeOfPort (p : Nat) : Nat := if p < 5 then 0 else if p < 9 then 1 else if p < 14 then 2 else 3
/-- A port by its number, kept in its hinge. -/
def portOf (s : State) (p : Nat) : Port := aGet {} p (hingeOf s (hingeOfPort p)).ports
def setPort (s : State) (p : Nat) (x : Port) : State :=
  let h := hingeOfPort p
  setHinge s h { hingeOf s h with ports := aInsert p x (hingeOf s h).ports }

/-- Cycles of 1 ms at 1.7 GHz (R474). DEDUCED (log 69). DEDUCED (log 69). -/
def retrainCycles : Nat := 1700000

/-- A retraining port (R474). DEDUCED (log 69). DEDUCED (log 69). -/
def retrain (s : State) (p : Nat) : State :=
  if 18 ≤ p then s else setPort s p { portOf s p with up := false, down := false, deadline := some (s.now + retrainCycles) }

/-- The data flits that carry some bytes, of 224 each, at least one (R474). -/
def flitsOf (n : Nat) : Nat := max 1 ((n + 223) / 224)

/-! ### Posting -/

/-- The fault of Alignment, then Address, of a global operand. -/
def bufferCheck (va es : Nat) : Option Exc :=
  if va % es ≠ 0 then some { cause := cAlignment, addr := va }
  else if Config.vaLimit ≤ va then some { cause := cAddress, addr := va }
  else none

/-- Operand Invalid of a collective: `ranks` are those it involves, `peer` the register that holds one. -/
def collInvalid (h : Nat) (c : Comm) (peer : Option Nat) (count limit : Nat) (bitwise : Bool) : Bool :=
  let involved := match peer with | some r => [r] | none => List.range c.count
  (match hingeRank c h with | some r => decide (c.count ≤ r) | none => true)
    || (match peer with | some r => decide (4096 ≤ r ∨ c.count ≤ r) | none => false)
    || involved.any (fun r => !reachable c r) || count == 0 || decide (limit < count) || bitwise

/-- The global bytes from sb on that a collective may write (R381). -/
def Collective.span (c : Collective) : Nat :=
  match c.kind with
  | .red => c.count * codeBytes c.ty
  | .gth => c.entry.count * c.count * codeBytes c.ty
  | .rcv => c.count
  | .snd => 0

/-- The window slots among them (R341). -/
def Collective.aims (s : State) (c : Collective) : List (Nat × Nat) :=
  let n := c.span
  aimedSlots s fun lo len => (List.range (n / 65536 + 2)).any fun i =>
    let va := max c.b ((c.b / 65536 + i) * 65536)
    let stop := min (c.b + n) ((c.b / 65536 + i + 1) * 65536)
    decide (va < stop) && writesIn s c.ctx va (stop - va) lo len

/-- A collective posted: `bufs` are its global operands with their alignment (R382's checks in order). Its release is an operation, and
it begins after that (R365). -/
def postCollective (s : State) (t : Option Nat) (system : Bool) (comm : Nat) (peer : Grp → Option Nat) (countOf : Grp → Nat)
    (limit : Nat) (bitwise : Bool) (bufs : Grp → List (Nat × Nat)) (make : Grp → Collective) :
    Host.Outcome State Fault Refusal :=
  onPost s [] t fun g tm =>
    let h := hingeOfCore g.core
    let entry := (ctxOf s tm.ctx).commBase.toNat + 512 * comm
    if stackBusy s entry || stackBusy s (entry + 511) then memoryHold else
    match commAt s tm.ctx comm with
    | none => .exc { cause := cOperand }
    | some c =>
      if collInvalid h c (peer g) (countOf g) limit bitwise then .exc { cause := cOperand }
      else
        let tumb := match t with
          | some t => if (tumblerOf tm t).expect = 0 then some (tumblerExc t) else none
          | none => none
        match firstExc ((bufs g).map (fun b => bufferCheck b.1 b.2) ++ [tumb]) with
        | some e => .exc e
        | none =>
          if 64 ≤ (hingeOf s h).collectives.length then .hold (.polled stUnit)
          else
            let x := { make g with ctx := tm.ctx, team := g.band.team, band := g.key, hinge := h, system := system
                                   comm := comm, entry := c, tumb := t, issue := s.seq, posted := false }
            let x := { x with aimed := x.aims s }
            let s := setAimed s x.aimed
            let hg := hingeOf s h
            .ok (issueOps (setHinge s h { hg with collectives := hg.collectives ++ [x] }) g g.live
              [.post (if system then .system else .package)])

/-- A collective before its poster is filled in. -/
def blankCollective (kind : CollKind) (op : RedOp) (ty a b count : Nat) : Collective :=
  { ctx := 0, team := 0, band := 0, hinge := 0, system := false, comm := 0, entry := { count := 0, ranks := [], routes := [] }
    kind := kind, op := op, ty := ty, a := a, b := b, count := count, tumb := none }

def isBitwise : RedOp → Bool
  | .and | .or | .xor => true
  | .add | .min | .max => false
def isIntTy : Ty → Bool
  | .int _ => true
  | .flt _ | .b8 _ => false

def sNat (g : Grp) (r : Fin 64) : Nat := (rdS g.band r.val).toNat

/-- XRED (R381). -/
def execXred (o : Xred) (s : State) : Host.Outcome State Fault Refusal :=
  let es := tyBytes o.ty
  postCollective s (o.t.map (·.val)) o.system o.comm.val (fun _ => none) (fun g => sNat g o.c) (2 ^ 28)
    (isBitwise o.op && !isIntTy o.ty) (fun g => [(sNat g o.a, es), (sNat g o.b, es)])
    fun g => blankCollective .red o.op (tyCode o.ty) (sNat g o.a) (sNat g o.b) (sNat g o.c)

/-- XGTH (R381). -/
def execXgth (o : Xgth) (s : State) : Host.Outcome State Fault Refusal :=
  let es := tyBytes o.ty
  postCollective s (o.t.map (·.val)) o.system o.comm.val (fun _ => none) (fun g => sNat g o.c) (2 ^ 28) false
    (fun g => [(sNat g o.a, es), (sNat g o.b, es)])
    fun g => blankCollective .gth .add (tyCode o.ty) (sNat g o.a) (sNat g o.b) (sNat g o.c)

/-- XSND (R381). -/
def execXsnd (o : Xsr) (s : State) : Host.Outcome State Fault Refusal :=
  postCollective s (o.t.map (·.val)) o.system o.comm.val (fun g => some (sNat g o.b)) (fun g => sNat g o.c) (2 ^ 32 - 1) false
    (fun g => [(sNat g o.a, 1)])
    fun g => blankCollective .snd .add 0 (sNat g o.a) (sNat g o.b) (sNat g o.c)

/-- XRCV (R381). -/
def execXrcv (o : Xsr) (s : State) : Host.Outcome State Fault Refusal :=
  postCollective s (o.t.map (·.val)) o.system o.comm.val (fun g => some (sNat g o.a)) (fun g => sNat g o.c) (2 ^ 32 - 1) false
    (fun g => [(sNat g o.b, 1)])
    fun g => blankCollective .rcv .add 0 (sNat g o.a) (sNat g o.b) (sNat g o.c)

/-! ### The engine's accesses: at home, line by line (R379, R382) -/

/-- What an access of the engine met: cause (0: it must wait) and address. -/
abbrev HubFault := Nat × Nat

/-- The place of a line of a context, by a walk. -/
def hubPlace (s : State) (ctx va : Nat) (write : Bool) : Except HubFault Place :=
  if Config.vaLimit ≤ va then .error (4, va)
  else if walkBusy s ctx va then .error (0, va)
  else match checkLeaf s (walk s ctx va) va (if write then .write else .read) with
    | .error e => .error (abortCause e, va)
    | .ok .busy => .error (0, va)
    | .ok t =>
      let p := targetPlace s ctx va write t
      match p with
      | .stash k off => match (teamOf s k).map fun t => stashAcc s t off 1 write p with
        | some (.stall _) => .error (2, va)
        | some (.abort cause) => .error (cause, va)
        | some .block => .error (0, va)
        | some (.ok _) | none => .ok p
      | _ => .ok p

/-- Bytes from `va` to the end of its line, at most `n`. -/
def lineRest (va n : Nat) : Nat := min n (128 - va % 128)

/-- An access of the collective engine noted, and its lines charged to the posting band. -/
def noteHub (s : State) (h ctx core band va : Nat) (p : Place) (n : Nat) (write : Bool) : State :=
  let s := touchLines s band (2 ^ 80) p n (placeReach s (.hub h ctx) none write false p n)
  noteEngine (settleLines s band (2 ^ 80)) ctx core band (some va) p n write

def hubRead (h ctx core band : Nat) : Nat → State → Nat → Nat → Except HubFault (List Byte) × State
  | 0, s, _, _ => (.ok [], s)
  | fuel + 1, s, va, n =>
    if n = 0 then (.ok [], s)
    else
      let k := lineRest va n
      match hubPlace s ctx va false with
      | .error e => (.error e, s)
      | .ok p =>
        let (bs, s) := readPlace (noteHub s h ctx core band va p k false) (.hub h ctx) false p k
        let (rest, s) := hubRead h ctx core band fuel s (va + k) (n - k)
        (rest.map (bs ++ ·), s)

/-- The writes until the first that fails. -/
def hubWrite (h ctx core band : Nat) : Nat → State → Nat → List Byte → Option HubFault × State
  | 0, s, _, _ => (none, s)
  | fuel + 1, s, va, bs =>
    match bs with
    | [] => (none, s)
    | _ =>
      let k := lineRest va bs.length
      match hubPlace s ctx va true with
      | .error e => (some e, s)
      | .ok p =>
        let s := noteHub s h ctx core band va p (bs.take k).length true
        hubWrite h ctx core band fuel (writePlace s (.hub h ctx) false none p (bs.take k)) (va + k) (bs.drop k)

def hubFuel (n : Nat) : Nat := n / 128 + 2

/-! ### Combining -/

/-- Combine of R177 on a type of XRED; conditions are discarded. -/
def combineTy (op : RedOp) (ty : Ty) (a b : Nat) : Nat :=
  match ty with
  | .int t =>
    let w := intWidth t
    let v := readInt (intSigned t) w
    match op with
    | .add => (a + b) % 2 ^ w
    | .min => if v b < v a then b else a
    | .max => if v a < v b then b else a
    | .and => Nat.land a b
    | .or => Nat.lor a b
    | .xor => Nat.xor a b
  | .flt t =>
    let f := fmtOf t
    match op with
    | .min => (fMinMax f false false a b).1
    | .max => (fMinMax f true false a b).1
    | _ => (fRound (fAdd .rne (decodeFmt f a) (decodeFmt f b)) f .rne 0).1
  | .b8 _ => a

/-- Values combined two at a time, each pair by choice, until one is left (R318). -/
def combineAny (f : Nat → Nat → Nat) : Nat → State → List Nat → Nat × State
  | 0, s, vs => (vs.headD 0, s)
  | _, s, [] => (0, s)
  | _, s, [v] => (v, s)
  | n + 1, s, vs =>
    let (i, s) := choose s vs.length
    let a := vs.getD i 0
    let vs := vs.eraseIdx i
    let (j, s) := choose s vs.length
    combineAny f n s (f a (vs.getD j 0) :: vs.eraseIdx j)

/-- The elements `k` to `k + n - 1` of all members combined. DESIGN CHOICE (log 83). DESIGN CHOICE (log 83). -/
def combineBytes (op : RedOp) (ty : Ty) (parts : List (List Byte)) : Nat → State → Nat → List Byte × State
  | 0, s, _ => ([], s)
  | n + 1, s, k =>
    let es := tyBytes ty
    let vs := parts.filterMap fun p =>
      let e := (p.drop (es * k)).take es
      if e.length = es then some (leNat e) else none
    let (v, s) := combineAny (combineTy op ty) vs.length s vs
    let (rest, s) := combineBytes op ty parts n s (k + 1)
    (leBytes es v ++ rest, s)

/-! ### COLLECTIVE_COMPLETION -/

/-- The head of a hinge's collectives on a communicator of a context. -/
def headColl (s : State) (h ctx comm : Nat) : Option Collective :=
  (hingeOf s h).collectives.find? fun c => c.ctx == ctx && c.comm == comm
/-- The first collective of a communicator of a context replaced, or taken out. -/
def replaceColl (ctx comm : Nat) (x : Option Collective) : List Collective → List Collective
  | [] => []
  | c :: cs => if c.ctx = ctx ∧ c.comm = comm then x.toList ++ cs else c :: replaceColl ctx comm x cs
def setHeadColl (s : State) (h ctx comm : Nat) (x : Option Collective) : State :=
  let hg := hingeOf s h
  setHinge s h { hg with collectives := replaceColl ctx comm x hg.collectives }

def collTy (c : Collective) : Ty := (tyOfCode c.ty).getD (.int .n8)

/-- Reads of the members' buffers: rank and bytes, or the first fault. -/
def readMembers : List (Nat × Collective) → State → Except HubFault (List (Nat × List Byte)) × State
  | [], s => (.ok [], s)
  | (r, c) :: rest, s =>
    let n := c.count * tyBytes (collTy c)
    let (b, s) := hubRead c.hinge c.ctx (c.team / Config.teamsPerCore) c.band (hubFuel n) s c.a n
    match b with
    | .error e => (.error e, s)
    | .ok bs =>
      let (more, s) := readMembers rest s
      (more.map ((r, bs) :: ·), s)

/-- The parts of all ranks in rank order. -/
def rankParts (n : Nat) (parts : List (Nat × List Byte)) : List (List Byte) :=
  (List.range n).map fun r => match parts.find? fun p => p.1 == r with | some p => p.2 | none => []

/-- What members write, each combined in an order of its own. DEDUCED (log 53). DESIGN CHOICE (log 105). -/
def readyMembers (cause faddr : Nat) (parts : List (Nat × List Byte)) : List (Nat × Collective) → State → State
  | [], s => s
  | (_, c) :: rest, s =>
    let all := rankParts c.entry.count parts
    let (data, s) := match c.kind with
      | .red => combineBytes c.op (collTy c) all c.count s 0
      | _ => (all.flatten, s)
    -- posts that disagree write no further than the member's own result (R382)
    let data := if cause = 0 then data else if cause = 7 then data.take c.span else []
    readyMembers cause faddr parts rest
      (setHeadColl s c.hinge c.ctx c.comm (some { c with ready := true, data := data, cause := cause, faddr := faddr }))

/-- An unspecified mix of old and new bytes (R382). -/
def mixBytes : List Byte → List Byte → State → List Byte × State
  | o :: os, n :: ns, s =>
    let (c, s) := choose s 2
    let (rest, s) := mixBytes os ns s
    ((if c = 0 then n else o) :: rest, s)
  | _, _, s => ([], s)

/-- The end of a collective: its arrival, and the trap of an abort (R382). -/
def endColl (s : State) (c : Collective) (cause faddr : Nat) : State :=
  let s := clearAimed (setHeadColl s c.hinge c.ctx c.comm none) c.aimed
  let s := match c.tumb with
    | some t => (arrive s c.team t 1).2
    | none => s
  if cause = 0 then s
  else queueTrap s c.team c.band { cause := cause, unit := 4, seq := 0, comm := c.comm, addr := BitVec.ofNat 64 faddr }

def countColl (s : State) (h n : Nat) : State :=
  setHinge s h { hingeOf s h with collBytes := (hingeOf s h).collBytes + BitVec.ofNat 64 n }

/-- A collective's bytes written at sb, and its end; `cause` is an abort that follows the writes. -/
def writeColl (s0 s : State) (c : Collective) (data : List Byte) (cause faddr : Nat) : State :=
  let (f, s) := hubWrite c.hinge c.ctx (c.team / Config.teamsPerCore) c.band (hubFuel data.length) s c.b data
  match f with
  | some (0, _) => s0
  | some (k, a) => endColl s c k a
  | none => endColl (countColl s c.hinge data.length) c cause faddr

/-- The members on the package of a collective: rank and head, none when one has not posted. -/
def packageMembers (s : State) (c : Collective) : Option (List (Nat × Collective)) :=
  ((List.range 4).filterMap fun h => (hingeRank c.entry h).map (h, ·)).mapM fun hr =>
    match headColl s hr.1 c.ctx c.comm with
    | some x => if x.posted ∧ (x.kind = .red ∨ x.kind = .gth) then some (hr.2, x) else none
    | none => none

/-- Whether the peers' posts are those of every rank beyond the package, one each. -/
def peersFit (c : Collective) (peers : List PeerPost) : Bool :=
  let far := (List.range c.entry.count).filter fun r => (rankHinge c.entry r).isNone
  far.length == peers.length && far.all fun r => peers.any fun p => p.rank == r && p.bytes.length == p.count * codeBytes p.tyCode

def redOpNum : RedOp → Nat
  | .add => 0 | .min => 1 | .max => 2 | .and => 3 | .or => 4 | .xor => 5

/-- Whether two posts agree in op, type, count (R382). -/
def agreeWith (c : Collective) (op ty count : Nat) : Bool :=
  (c.kind != .red || op == redOpNum c.op) && ty == c.ty && count == c.count

/-- The flits of a message to a rank for which its port is up and has credits: the state and the bytes that are left, none once all have
been sent (R474). DESIGN CHOICE (log 54). -/
def sendFar (s : State) (c : Collective) (r : Nat) (bs : List Byte) : Option (List Byte) × State :=
  match rankRoute c.entry r with
  | none => (none, s)
  | some (port, vc) =>
    let x := portOf s port
    let room := aGet 0 vc x.credits
    let n := min (flitsOf bs.length) room
    if !x.up ∨ n = 0 then (some bs, s)
    else
      let s := setPort s port { x with sendSeq := x.sendSeq + BitVec.ofNat 32 n, credits := aSet 0 vc (room - n) x.credits }
      let s := { s with sent := s.sent ++ [.peer port vc x.sendSeq c.comm c.ctx r (bs.take (224 * n))] }
      (if flitsOf bs.length ≤ n then none else some (bs.drop (224 * n)), s)

/-- What a collective has still to send, as far as credits go. -/
def sendOut (c : Collective) : List (Nat × List Byte) → State → List (Nat × List Byte) × State
  | [], s => ([], s)
  | (r, bs) :: rest, s =>
    let (left, s) := sendFar s c r bs
    let (more, s) := sendOut c rest s
    (match left with | some bs => (r, bs) :: more | none => more, s)

/-- The data flits of a virtual channel that a port has taken. -/
def flitsOn (x : Port) (vc : Nat) : List Flit := x.received.filter fun f => f.vc == vc

/-- A port without the first `n` flits of a virtual channel. -/
def dropFlits (vc : Nat) : Nat → List Flit → List Flit
  | 0, fs => fs
  | _, [] => []
  | n + 1, f :: fs => if f.vc = vc then dropFlits vc n fs else f :: dropFlits vc (n + 1) fs

/-- The bytes of a far rank, by the flits that the port of its route has taken: the flits are used up and their credits returned (R474).
DESIGN CHOICE (log 54). -/
def takeFar (s : State) (c : Collective) (r : Nat) (bs : List Byte) : Option State :=
  match rankRoute c.entry r with
  | none => none
  | some (port, vc) =>
    let x := portOf s port
    let n := flitsOf bs.length
    let fs := (flitsOn x vc).take n
    if !x.up ∨ fs.length < n ∨ (fs.flatMap (·.payload)).take bs.length ≠ bs then none
    else
      let s := setPort s port { x with received := dropFlits vc n x.received, sendSeq := x.sendSeq + 1 }
      some { s with sent := s.sent ++ [.credit port vc x.sendSeq n] }

/-- The bytes of several far ranks. -/
def takeAllFar (c : Collective) : List PeerPost → State → Option State
  | [], s => some s
  | p :: ps, s => (takeFar s c p.rank p.bytes).bind (takeAllFar c ps)

/-- Every member on the package takes its contribution, and owes it to the ranks beyond. -/
def takeParts (far : List Nat) (parts : List (Nat × List Byte)) : List (Nat × Collective) → State → State
  | [], s => s
  | (r, c) :: rest, s =>
    let bs := match parts.find? fun p => p.1 == r with | some p => p.2 | none => []
    takeParts far parts rest
      (setHeadColl s c.hinge c.ctx c.comm (some { c with part := some bs, outbox := far.map fun f => (f, bs) }))

/-- What members owe to ranks beyond the package, sent as far as credits go. -/
def sendMembers : List (Nat × Collective) → State → State
  | [], s => s
  | (_, c) :: rest, s =>
    match headColl s c.hinge c.ctx c.comm with
    | none => sendMembers rest s
    | some c =>
      let (left, s) := sendOut c c.outbox s
      sendMembers rest (setHeadColl s c.hinge c.ctx c.comm (some { c with outbox := left }))

/-- The ranks beyond the package. -/
def farRanks (c : Collective) : List Nat := (List.range c.entry.count).filter fun r => (rankHinge c.entry r).isNone

/-- XRED and XGTH of a hinge: the contributions of the package's members are taken once and sent to the ranks beyond, theirs are taken
as they arrive, and each member then writes and ends by itself. A fault at one member's sa aborts every member of the package with that
cause and address. DESIGN CHOICE (log 105). DEDUCED (log 53), DESIGN CHOICE (log 105), DESIGN CHOICE (log 106). -/
def completeAll (s : State) (c : Collective) (peers : List PeerPost) : State :=
  if c.ready then
    if !c.outbox.isEmpty then sendMembers [(0, c)] s
    else if c.cause = 7 then
      let (old, s') := hubRead c.hinge c.ctx (c.team / Config.teamsPerCore) c.band (hubFuel c.data.length) s c.b c.data.length
      match old with
      | .ok o =>
        let (bs, s') := mixBytes o c.data { s' with seen := s.seen }
        writeColl s s' c bs 7 0
      | .error _ => endColl s c 7 0
    else writeColl s s c c.data c.cause c.faddr
  else
    match packageMembers s c with
    | none => s
    | some ms =>
      -- the contributions of the package
      let taken := ms.mapM fun m => m.2.part.map fun b => (m.1, b)
      let (r, s1) := match taken with
        | some parts => (Except.ok parts, s)
        | none => readMembers ms s
      match r with
      | .error (0, _) => s
      | .error (k, a) => readyMembers k a [] ms s1
      | .ok parts =>
        let s1 := if taken.isSome then s1 else takeParts (farRanks c) parts ms s1
        let s1 := sendMembers ms s1
        if !peersFit c peers then s1
        else match takeAllFar c peers s1, packageMembers s1 c with
          | some s2, some ms =>
            let agree := ms.all (fun m => m.2.kind == c.kind && agreeWith c (redOpNum m.2.op) m.2.ty m.2.count)
              && peers.all fun p => agreeWith c p.opCode p.tyCode p.count
            readyMembers (if agree then 0 else 7) 0 (parts ++ peers.map fun p => (p.rank, p.bytes)) ms s2
          | _, _ => s1

/-- XSND: its bytes go to the peer's hinge, or to the port of its route as credits allow. One that aborts sends none, which its XRCV
takes in its place (R381). DEDUCED (log 53). -/
def completeSend (s : State) (c : Collective) : State :=
  match c.part with
  | some bs =>
    let (left, s) := sendOut c c.outbox s
    if left.isEmpty then endColl (countColl s c.hinge bs.length) c c.cause c.faddr
    else setHeadColl s c.hinge c.ctx c.comm (some { c with outbox := left })
  | none =>
    let (r, s') := hubRead c.hinge c.ctx (c.team / Config.teamsPerCore) c.band (hubFuel c.count) s c.a c.count
    let give := fun (s : State) (bs : List Byte) (cause faddr : Nat) => match rankHinge c.entry c.b with
      | some h =>
        let hg := hingeOf s h
        let x : Inbound := { ctx := c.ctx, comm := c.comm, rank := (hingeRank c.entry c.hinge).getD 0, bytes := bs }
        endColl (countColl (setHinge s h { hg with inbox := hg.inbox ++ [x] }) c.hinge bs.length) c cause faddr
      | none =>
        let c := { c with part := some bs, cause := cause, faddr := faddr }
        let (left, s) := sendOut c [(c.b, bs)] s
        if left.isEmpty then endColl (countColl s c.hinge bs.length) c cause faddr
        else setHeadColl s c.hinge c.ctx c.comm (some { c with outbox := left })
    match r with
    | .error (0, _) => s
    | .error (k, a) => give s' [] k a
    | .ok bs => give s' bs 0 0

/-- XRCV: the next bytes of the named rank, from the package or from a peer. The trap of a TRUNCATED one, as of a MISMATCH, has TADDR 0.
DESIGN CHOICE (log 106). DESIGN CHOICE (log 106). -/
def completeRecv (s : State) (c : Collective) (peers : List PeerPost) : State :=
  let take := fun (s' : State) (bs : List Byte) =>
    let long := decide (c.count < bs.length)
    writeColl s s' c (bs.take c.count) (if long then 8 else 0) 0
  match rankHinge c.entry c.a with
  | some _ =>
    let hg := hingeOf s c.hinge
    match hg.inbox.find? fun x => x.ctx == c.ctx && x.comm == c.comm && x.rank == c.a with
    | some x => take (setHinge s c.hinge { hg with inbox := hg.inbox.erase x }) x.bytes
    | none => s
  | none => match peers with
    | [p] => if p.rank = c.a then (match takeFar s c c.a p.bytes with | some s' => take s' p.bytes | none => s) else s
    | _ => s

/-- COLLECTIVE_COMPLETION: the head collective of a communicator of the hinge's active context takes its members'
contributions, or writes and ends. DEDUCED (log 53). DEDUCED (log 53). -/
def completeCollective (s : State) (h comm : Nat) (peers : List PeerPost) : State :=
  match (hingeOf s h).active with
  | none => s
  | some ctx =>
    match headColl s h ctx comm with
    | none => s
    | some c => if !c.posted then s else match c.kind with
      | .red | .gth => completeAll s c peers
      | .snd => completeSend s c
      | .rcv => completeRecv s c peers

def execCollectiveCompletion (s : State) : Host.Outcome State Fault Refusal :=
  match s.cur with
  | .event (.collectiveCompletion h comm peers) => .next (completeCollective s h comm peers)
  | _ => .fault .noActor

end Sys2Proof.Machine
end

