-- ==== Sys2Proof/Machine/Encodable.lean ====
section
/-! DEFINITION. What the fields of an instruction may hold: the reserved values of step 5 of R59, entry by
entry (02 R46-R57), the types that only profile F has (step 6) and the even registers of 64-bit operands (step 7). -/

namespace Sys2Proof.Machine

/-! ### Shared checks -/

/-- G = 15 with GN = 1 is reserved (R47). -/
def guardOk (g : Guard) : Bool := !(g.p.val == 15 && g.neg)

/-- p15 as a destination is reserved (R46). -/
def predDstOk (p : Fin 16) : Bool := p.val != 15

/-- A branch offset of R48. -/
def offOk (w : Word) : Bool := w.toNat % 4 == 0

/-- A CL form has the class's default type, and vector registers 0 to 63 (R46, R54). -/
def sLitOk (ty : IntTy) : SSrc → Bool
  | .lit _ => ty == .i64
  | _ => true

def vLitOk (dflt : Bool) (d a : Fin 256) : VSrc → Bool
  | .lit _ => dflt && decide (d.val < 64) && decide (a.val < 64)
  | _ => true

def noLit : VSrc → Bool
  | .lit _ => false
  | _ => true

/-- An immediate .f16 or .bf16 operand has bits [31:16] zero (R54). -/
def fImmOk (ty : FTy) : VSrc → Bool
  | .imm v => match ty with
    | .f16 | .bf16 => decide (v.toNat < 65536)
    | _ => true
  | _ => true

def intImmOk (ty : AddTy) (b : VSrc) : Bool :=
  match ty with
  | .int _ => true
  | .flt t => fImmOk t b

def packed : FTy → Bool
  | .f16x2 | .bf16x2 => true
  | _ => false

/-- The immediate bit field of R116 and R130. -/
def fieldOk (ty : IntTy) (pos width : Byte) : Bool :=
  decide (1 ≤ width.toNat) && decide (pos.toNat + width.toNat ≤ intWidth ty)

def b8Ok (f : B8) : Bool := decide (1 ≤ f.p.val)
def tyOk : Ty → Bool
  | .b8 f => b8Ok f
  | _ => true

/-! ### Entries -/

def okBra (o : Bra) : Bool := offOk o.off
def okCall (o : Call) : Bool := offOk o.off
def okBrd (o : Brd) : Bool := o.joff != 0#16 && offOk o.off
def okBrk (o : Brk) : Bool := o.n.val != 0 && offOk o.off
/-- Words n to 7 are zero, and every word is an offset of R48 (R209). -/
def swchWordsOk : List Word → Nat → Nat → Bool
  | [], _, _ => true
  | w :: ws, i, n => offOk w && (decide (i < n) || w == 0#32) && swchWordsOk ws (i + 1) n
def okSwch (o : Swch) : Bool := o.n.val != 0 && swchWordsOk o.offs.toList 0 o.n.val && offOk o.join
/-- The end lies at least 12 bytes ahead (R215); the offset is signed (R48). DEDUCED (log 17). DEDUCED (log 17). -/
def okLoop (o : Loop) : Bool := offOk o.off && decide (12 ≤ o.off.toNat) && decide (o.off.toNat < 2 ^ 31)

def okSOp2 (o : SOp2) : Bool := sLitOk o.ty o.b
def okSLi (o : SLi) : Bool :=
  match o.v with
    | .lit _ => o.ty == .i64
    | .imm _ => true
def okSLea (o : SLea) : Bool :=
  match o.ty with
    | .i32 | .n32 | .i64 | .n64 => true
    | _ => false
def okSBf (o : SBf) : Bool :=
  match o.fld with
    | .imm p w => fieldOk o.ty p w
    | .reg _ _ => true

def okVOp2 (o : VOp2) : Bool := vLitOk (o.ty == .i32) o.d o.a o.b
def okVDot (o : VDot) : Bool := noLit o.b
def okVMadw (o : VOp3) : Bool :=
  match o.ty with
    | .i64 | .n64 => false
    | _ => true
def okVCmp (o : VCmp) : Bool := predDstOk o.pd && noLit o.b
def okVSel (o : VSel) : Bool := noLit o.b
def okVAbs (o : VOp1) : Bool := intSigned o.ty
def okVBf (o : VBf) : Bool :=
  match o.fld with
    | .imm p w => fieldOk o.ty p w
    | _ => true
def okVLi (o : VLi) : Bool :=
  match o.v with
    | .lit _ => o.ty == .i32 && decide (o.d.val < 64)
    | .imm _ => true
def okVIdx (o : VIdx) : Bool :=
  noLit o.b && match o.ty with
    | .i32 | .n32 | .i64 | .n64 => true
    | _ => false

def okFOp2 (o : FOp2) : Bool :=
  fImmOk o.ty o.b && vLitOk (o.ty == .f32 && o.rnd == .rne) o.d o.a o.b
def okFMa (o : FMa) : Bool := fImmOk o.ty o.b
def okFMinMax (o : FMinMax) : Bool :=
  fImmOk o.ty o.b && vLitOk (o.ty == .f32 && !o.nan) o.d o.a o.b
def okFAddMin (o : FAddMin) : Bool :=
  intImmOk o.ty o.b && match o.ty with
    | .int _ => !o.nan && o.rnd == .rne
    | .flt _ => true
def okFCmp (o : FCmp) : Bool :=
  predDstOk o.pd && noLit o.b && fImmOk o.ty o.b && !packed o.ty
/-- VFRCP to VFTANH: no .f64, and .f32 does not round again (R162). -/
def okApprox (o : FOp1) : Bool :=
  match o.ty with
    | .f64 => false
    | .f32 => o.rnd == .rne
    | _ => true

def isInt : Ty → Bool
  | .int _ => true
  | _ => false
def packedTy : Ty → Bool
  | .flt t => packed t
  | _ => false

/-- VCVT: distinct unpacked types; an exact pair has RND = SAT = 0 (R94), and so has RND between integers (R51).
DEDUCED (log 18). DEDUCED (log 18). -/
def okCvt (o : Cvt) : Bool :=
  tyOk o.dty && tyOk o.sty && !packedTy o.dty && !packedTy o.sty && o.dty != o.sty
    && (!exactPair o.dty o.sty || (o.rnd == .rne && !o.sat))
    && (!(isInt o.dty && isInt o.sty) || o.rnd == .rne)
def isB8 : Ty → Bool
  | .b8 f => b8Ok f
  | _ => false
def narrowFlt : Ty → Bool
  | .flt .f32 | .flt .bf16 | .flt .f16 => true
  | _ => false
/-- VQNT (R90). -/
def okQnt (o : Qnt) : Bool :=
  (isB8 o.dty || o.dty == .int .i8) && narrowFlt o.sty
/-- VDQNT (R89). -/
def okDqnt (o : Dqnt) : Bool :=
  (isB8 o.sty || o.sty == .int .i8) && narrowFlt o.dty
/-- The table of VPACK. -/
def okPack (o : Pack) : Bool :=
  match o.dty, o.sty with
    | .flt .f16x2, .flt .f32 | .flt .bf16x2, .flt .f32 => o.more.isNone
    | .int .i16, .int .i32 | .int .i16, .int .n32 | .int .n16, .int .i32 | .int .n16, .int .n32 =>
      o.more.isNone && o.rnd == .rne
    | .int .i8, .int .i32 | .int .i8, .int .n32 | .int .n8, .int .i32 | .int .n8, .int .n32 =>
      o.more.isSome && o.rnd == .rne
    | .b8 f, .flt .f32 => b8Ok f && o.more.isSome
    | _, _ => false
/-- The table of VUNPK: how many registers are written; 0 for a pair it does not list. -/
def unpackCount (d s : Ty) : Nat :=
  match d, s with
  | .flt .f32, .flt .f16x2 | .flt .f32, .flt .bf16x2 => 2
  | .flt .f32, .b8 f => if b8Ok f then 4 else 0
  | .int .i32, .int .i16 | .int .i32, .int .n16 | .int .n32, .int .n16 => 2
  | .int .i32, .int .i8 | .int .i32, .int .n8 | .int .n32, .int .n8 => 4
  | _, _ => 0
def okUnpk (o : Unpk) : Bool := unpackCount o.dty o.sty != 0

def okShfl (o : Shfl) : Bool := noLit o.b
def okVote (o : Vote) : Bool :=
  match o.dst with
    | .any p | .all p | .uni p => predDstOk p
    | .ballot _ => true
def redFlt : RedTy → Bool
  | .f32 | .f64 => true
  | _ => false
def bitwise : RedOp → Bool
  | .and | .or | .xor => true
  | _ => false
def okScan (o : Scan) : Bool := !(redFlt o.ty && bitwise o.op)
/-- VRED: the count of a team or cluster round (R183). -/
def okRed (o : Red) : Bool :=
  !(redFlt o.ty && bitwise o.op) && match o.scope with
    | .band => true
    | .team _ n => decide (1 ≤ n.toNat) && decide (n.toNat ≤ 32)
    | .cluster _ n => decide (1 ≤ n.toNat) && decide (n.toNat ≤ 256)
def okRdw (o : Rdw) : Bool :=
  match o.what with
    | .seq => true
    | .wait n pc =>
      (match n with
       | .imm v => decide (v.toNat < 65536)
       | .reg _ => true) &&
      (match pc with
       | some p => predDstOk p
       | none => true)
def okPOp2 (o : POp2) : Bool := predDstOk o.d
def okPOp1 (o : POp1) : Bool := predDstOk o.d
def okVtop (o : Vtop) : Bool := predDstOk o.d

/-- Where the stash is addressed an ordering is at .team only, and there is no hint (R249). DEDUCED (log 19).
DEDUCED (log 19). -/
def spaceOk (stash : Bool) (sc : Option Scope) (ch : Hint) : Bool :=
  !stash || (ch == .normal && (sc.isNone || sc == some .team))
def storeWidth : Width → Bool
  | .i8 | .i16 => false
  | _ => true
def okLd (o : Ld) : Bool := spaceOk o.mem.stash o.acq o.ch
def okSt (o : St) : Bool := storeWidth o.w && spaceOk o.mem.stash o.rel o.ch
def okSld (o : Sld) : Bool := spaceOk o.stash o.acq o.ch
def okSst (o : Sst) : Bool := storeWidth o.w && spaceOk o.stash o.rel o.ch
def okLdn (o : Ldn) : Bool := predDstOk o.pc && !o.mem.stash
def okPref (o : Pref) : Bool := !o.mem.stash
def okClean (o : Clean) : Bool :=
  match o.what with
    | .lines m => !m.stash
    | _ => true
def okPin (o : Pin) : Bool := predDstOk o.pd
def okPgreq (o : Pgreq) : Bool := predDstOk o.pd && !o.mem.stash

/-- KBIND (R280). -/
def okKbind (o : Kbind) : Bool :=
  decide (1 ≤ o.granules.toNat) && decide (o.granules.toNat ≤ 1048576)
def okLatCount (n : Word) : Bool := decide (1 ≤ n.toNat) && decide (n.toNat ≤ 384)
/-- An atomic at the stash has scope .team and hint 0 (R296). DEDUCED (log 19). DEDUCED (log 19). -/
def okAtomMem (m : MemOp) (sc : Scope) (ch : Hint) : Bool := !m.stash || (sc == .team && ch == .normal)
def okTinit (o : Tinit) : Bool :=
  match o.v with
    | .imm v => decide (1 ≤ v.toNat) && decide (v.toNat < 65536)
    | .reg _ => true
def okTarv (o : Tarv) : Bool :=
  match o.count with
    | some n => n != 0#16
    | none => true
def okTtest (o : Ttest) : Bool :=
  match o.what with
    | .test p _ => predDstOk p
    | .phase _ => true

/-! ### Matrix and tile (R319-R335) -/

def isF64 : Ty → Bool
  | .flt .f64 => true
  | _ => false

/-- A tile pair is named by its even tile; an odd number is reserved (R304). DEDUCED (log 20). DEDUCED (log 20). -/
def evenTile (w : Bool) (t : Fin 16) : Bool := !w || t.val % 2 == 0

def byteTy : Ty → Bool
  | .int .i8 => true
  | .b8 f => b8Ok f
  | _ => false
def mmaTy : Ty → Bool
  | .flt .f16 | .flt .bf16 | .flt .f32 | .flt .f64 => true
  | t => byteTy t
def okMma (o : Mma) : Bool :=
  mmaTy o.ty && (o.scales.isNone || byteTy o.ty) && evenTile (isF64 o.ty) o.d && evenTile (isF64 o.ty) o.c
def plainA : Mcand → Bool
  | .stash _ _ t => !t
  | .vec _ => true
def okMmas (o : Mmas) : Bool := byteTy o.ty && plainA o.a
def okTfill (o : Tfill) : Bool :=
  evenTile (o.ty == .n64 || o.ty == .f64) o.d && match o.v with
    | .lit _ => o.ty == .n64 || o.ty == .f64
    | _ => true
def okTident (o : Tident) : Bool :=
  match o.dst with
    | .tile d => (o.ty == .int .i32 || o.ty == .flt .f32 || o.ty == .flt .f64) && evenTile (isF64 o.ty) d
    | .stash _ => mmaTy o.ty
def okTld (w : TileW) (t : Bool) : Bool := (!t || w == .n32)
def okTmov (o : Tmov) : Bool :=
  decide (1 ≤ o.count.val) && decide (o.col.val + o.count.val ≤ 32)
def okScld (o : Scld) : Bool :=
  decide (1 ≤ o.count.val) && decide (o.col.val + o.count.val ≤ 512)
def okTtopk (o : Ttopk) : Bool := decide (1 ≤ o.k.val) && o.d != o.c
def okTacc (o : Tacc) : Bool :=
  let w := o.ty == .f64
  (o.ty != .i32 || o.rnd == .rne) && evenTile w o.d && evenTile w o.a && evenTile w o.b
/-- TCVT: the destination types of R335, other than the source. -/
def okTcvt (o : Tcvt) : Bool :=
  match o.dty with
    | .flt .f16 | .flt .bf16 => true
    | .int .i8 => true
    | .b8 f => b8Ok f
    | .flt .f32 => o.int
    | .int .i32 => !o.int
    | _ => false

/-! ### Engines (R363, R386) -/

def xredTy : Ty → Bool
  | .int .i32 | .int .n32 | .int .i64 | .int .n64 => true
  | .flt .f32 | .flt .f64 | .flt .bf16 | .flt .f16 => true
  | _ => false
def okXred (o : Xred) : Bool := xredTy o.ty
def okXgth (o : Xgth) : Bool := tyOk o.ty

/-! ### Special registers (R431, R432) -/

def sregNum : Sreg → Nat
  | .lane => 0x000 | .band => 0x001 | .team => 0x002 | .group => 0x003 | .lseq => 0x004 | .lpc => 0x005
  | .cycle => 0x006 | .caps => 0x007 | .corecaps => 0x008 | .ctxnum => 0x009 | .ptbase => 0x00A
  | .restores => 0x00B | .fstat => 0x010 | .fctl => 0x011 | .srstate => 0x012 | .tvec => 0x020
  | .tcause => 0x021 | .tpc => 0x022 | .taddr => 0x023 | .tinfo => 0x024 | .tlevel => 0x025
  | .cwp n => 0x030 + n.val | .csq n => 0x034 + n.val | .dbgctl => 0x040 | .energy => 0x041

def sregOfNum (n : Nat) : Option Sreg :=
  match n with
  | 0x000 => some .lane | 0x001 => some .band | 0x002 => some .team | 0x003 => some .group
  | 0x004 => some .lseq | 0x005 => some .lpc | 0x006 => some .cycle | 0x007 => some .caps
  | 0x008 => some .corecaps | 0x009 => some .ctxnum | 0x00A => some .ptbase | 0x00B => some .restores
  | 0x010 => some .fstat | 0x011 => some .fctl | 0x012 => some .srstate | 0x020 => some .tvec
  | 0x021 => some .tcause | 0x022 => some .tpc | 0x023 => some .taddr | 0x024 => some .tinfo
  | 0x025 => some .tlevel
  | 0x030 => some (.cwp 0) | 0x031 => some (.cwp 1) | 0x032 => some (.cwp 2) | 0x033 => some (.cwp 3)
  | 0x034 => some (.csq 0) | 0x035 => some (.csq 1) | 0x036 => some (.csq 2) | 0x037 => some (.csq 3)
  | 0x040 => some .dbgctl | 0x041 => some .energy | _ => none

/-- A register of thread scope on a core. -/
def threadScope : Sreg → Bool
  | .lane | .fstat | .tcause | .tpc | .taddr | .tinfo | .tlevel => true
  | _ => false

/-- A register with an RW field. -/
def sregWritable : Sreg → Bool
  | .fstat | .fctl | .srstate | .tvec | .tcause | .tpc | .taddr | .tinfo | .dbgctl => true
  | _ => false

/-- A register that a sequencer stream has. -/
def sregOnStream : Sreg → Bool
  | .cycle | .caps | .ctxnum | .tvec | .tcause | .tpc | .taddr | .tinfo | .tlevel => true
  | _ => false

def isVecReg : SvReg → Bool
  | .vec _ => true
  | .sca _ => false

/-- MFS: the form of R431 on a core or a stream. -/
def okMfs (stream : Bool) (o : Msr) : Bool :=
  (if stream then !isVecReg o.r && sregOnStream o.reg
    else isVecReg o.r || !threadScope o.reg)

/-- MTS: the form of R431 on a core or a stream. -/
def okMts (stream : Bool) (o : Msr) : Bool :=
  sregWritable o.reg && (if stream then !isVecReg o.r && sregOnStream o.reg
    else !isVecReg o.r || threadScope o.reg)

/-! ### Step 5 for every instruction -/

/-- The fields hold no reserved value, for the kind of processor that decodes; what is not listed has no reserved
combination left. DEDUCED (log 20). DEDUCED (log 20). -/
def fieldsOk (stream : Bool) (i : Instr) : Bool :=
  match i with
  | .bra o => okBra o
  | .brx o => (!stream || match o.base with | .sca _ => true | .vec _ => false)
  | .call o => okCall o && (!stream || decide (o.d.val < 64))
  | .callx o => (!stream ||
      (decide (o.d.val < 64) && match o.base with | .sca _ => true | .vec _ => false))
  | .brd o => okBrd o
  | .brk o => okBrk o
  | .swch o => okSwch o
  | .loop o => okLoop o
  | .sadd o | .ssub o | .smul o | .smulh o | .sdiv o | .srem o | .sand o | .sor o | .sxor o | .sandn o
  | .sshl o | .sshr o | .ssar o | .srot o | .smin o | .smax o => okSOp2 o
  | .sli o => okSLi o
  | .slea o => okSLea o
  | .sbfx o | .sbfi o => okSBf o
  | .smovv _ => !stream
  | .vadd o | .vsub o | .vmul o | .vmulh o | .vand o | .vor o | .vxor o | .vandn o | .vmin o | .vmax o
  | .vadds o | .vsubs o | .vshl o | .vshr o | .vsar o => okVOp2 o
  | .vmadw o => okVMadw o
  | .vdot4 o => okVDot o
  | .vcmp o => okVCmp o
  | .vsel o => okVSel o
  | .vabs o => okVAbs o
  | .vbfx o | .vbfi o => okVBf o
  | .vli o => okVLi o
  | .vidx o => okVIdx o
  | .vfadd o | .vfsub o | .vfmul o | .vfdiv o => okFOp2 o
  | .vfma o => okFMa o
  | .vfmin o | .vfmax o => okFMinMax o
  | .vaddmin o | .vaddmax o => okFAddMin o
  | .vfcmp o => okFCmp o
  | .vfrcp o | .vfrsq o | .vfexp2 o | .vflog2 o | .vfsin o | .vfcos o | .vftanh o => okApprox o
  | .vcvt o => okCvt o
  | .vqnt o => okQnt o
  | .vdqnt o => okDqnt o
  | .vpack o => okPack o
  | .vunpk o => okUnpk o
  | .vshfl o => okShfl o
  | .vvote o => okVote o
  | .vscan o => okScan o
  | .vred o => okRed o
  | .srdw o => okRdw o
  | .pandC o | .porC o | .pxorC o => predDstOk o.d
  | .pnotC o => predDstOk o.d
  | .vtopC o => predDstOk o.d
  | .pand o | .por o | .pxor o => okPOp2 o
  | .pnot o => okPOp1 o
  | .vtop o => okVtop o
  | .ld o => okLd o
  | .st o => okSt o
  | .sld o => okSld o && !(stream && o.stash)
  | .sst o => okSst o && !(stream && o.stash)
  | .ldn o => okLdn o
  | .pref o => okPref o
  | .clean o | .inval o => okClean o
  | .pin o => okPin o
  | .pgreq o => okPgreq o
  | .kbind o => okKbind o
  | .latg o => okLatCount o.count
  | .latw o => okLatCount o.count
  | .atom o => okAtomMem o.mem o.sc o.ch
  | .atomf o => okAtomMem o.mem o.sc o.ch
  | .cas o => okAtomMem o.mem o.sc o.ch
  | .cas2 o => okAtomMem o.mem o.sc o.ch
  | .tinit o => okTinit o
  | .tarv o => okTarv o
  | .ttest o => okTtest o
  | .mma o => okMma o
  | .mmas o => okMmas o
  | .tfill o => okTfill o
  | .tident o => okTident o
  | .tld o => okTld o.w o.transposed
  | .tst o => okTld o.w o.transposed
  | .tmovv o | .tmovt o => okTmov o
  | .scld o => okScld o
  | .ttopk o => okTtopk o
  | .tacc o => okTacc o
  | .tcvt o => okTcvt o
  | .xred o => okXred o
  | .xgth o => okXgth o
  | .mfs o => okMfs stream o
  | .mts o => okMts stream o
  | _ => true

/-! ### Guards (R47) -/

def ssrcLit : SSrc → Bool
  | .lit _ => true
  | _ => false
def vsrcIsLit : VSrc → Bool
  | .lit _ => true
  | _ => false
def immLit : ImmSrc → Bool
  | .lit _ => true
  | .imm _ => false

/-- A C or CL form: it has no GN field. -/
def compactForm (i : Instr) : Bool :=
  match i with
  | .nopC | .retC _ | .joinC | .exitC | .yieldC | .saddC _ | .ssubC _ | .smulC _ | .smulhC _ | .sdivC _
  | .sremC _ | .sandC _ | .sorC _ | .sxorC _ | .sandnC _ | .sshlC _ | .sshrC _ | .ssarC _ | .srotC _ | .sminC _
  | .smaxC _ | .smovC _ | .spopcC _ | .sclzC _ | .sctzC _ | .vaddC _ | .vsubC _ | .vmulC _ | .vmulhC _
  | .vandC _ | .vorC _ | .vxorC _ | .vandnC _ | .vshlC _ | .vshrC _ | .vsarC _ | .vminC _ | .vmaxC _ | .vabsC _
  | .vaddsC _ | .vsubsC _ | .vpopcC _ | .vclzC _ | .vmovsC _ | .vidxC _ | .vfaddC _ | .vfsubC _ | .vfmulC _
  | .vfminC _ | .vfmaxC _ | .vfclassC _ | .vfrcpC _ | .vfrsqC _ | .vfsqrtC _ | .vfdivC _ | .vfexp2C _
  | .vflog2C _ | .vfsinC _ | .vfcosC _ | .vftanhC _ | .pandC _ | .porC _ | .pxorC _ | .pnotC _ | .ptovC _
  | .vtopC _ | .ppopcC _ | .tzeroC _ | .trapC _ | .tretC | .haltC | .bkptC _ | .esampC _ => true
  | .swch _ => true
  | .sadd o | .ssub o | .smul o | .smulh o | .sdiv o | .srem o | .sand o | .sor o | .sxor o | .sandn o
  | .sshl o | .sshr o | .ssar o | .srot o | .smin o | .smax o => ssrcLit o.b
  | .sli o => immLit o.v
  | .vadd o | .vsub o | .vmul o | .vmulh o | .vand o | .vor o | .vxor o | .vandn o | .vmin o | .vmax o
  | .vadds o | .vsubs o | .vshl o | .vshr o | .vsar o => vsrcIsLit o.b
  | .vfadd o | .vfsub o | .vfmul o | .vfdiv o => vsrcIsLit o.b
  | .vfmin o | .vfmax o => vsrcIsLit o.b
  | .vli o => immLit o.v
  | _ => false

/-- JOIN, SWCH and LOOP are never guarded (R206, R209, R215). -/
def unguardedForm (i : Instr) : Bool :=
  match i with
  | .joinC | .swch _ | .loop _ => true
  | _ => false

/-- The guard is one that the instruction's form can hold. -/
def guardFits (g : Guard) (i : Instr) : Bool :=
  guardOk g && !(compactForm i && g.neg) && (!unguardedForm i || g == { p := 15, neg := false })

/-! ### Step 6: the .f64 forms (R3, R26) -/

/-- Names a type that profile N lacks. -/
def namesF64 (i : Instr) : Bool :=
  match i with
  | .vfadd o | .vfsub o | .vfmul o | .vfdiv o => o.ty == .f64
  | .vfma o => o.ty == .f64
  | .vfmin o | .vfmax o => o.ty == .f64
  | .vaddmin o | .vaddmax o => o.ty == .flt .f64
  | .vfcmp o => o.ty == .f64
  | .vfclass o => o.ty == .f64
  | .vfsqrt o => o.ty == .f64
  | .vfrnd o => o.ty == .f64
  | .vcvt o => isF64 o.dty || isF64 o.sty
  | .vscan o => o.ty == .f64
  | .vred o => o.ty == .f64
  | .atomf o => o.ty == .f64
  | .mma o => isF64 o.ty
  | .tfill o => o.ty == .f64
  | .tident o => isF64 o.ty
  | .tacc o => o.ty == .f64
  | .xred o => isF64 o.ty
  | .xgth o => isF64 o.ty
  | _ => false

/-! ### Step 7: 64-bit operands name even registers (R27) -/

def evenV (r : Fin 256) : Bool := r.val % 2 == 0
def wideInt (t : IntTy) : Bool := intWidth t == 64
def evenIf (w : Bool) (r : Fin 256) : Bool := !w || evenV r
def evenSrc (w : Bool) : VSrc → Bool
  | .vec r => evenIf w r
  | _ => true
def isWideTy : Ty → Bool
  | .int t => wideInt t
  | .flt .f64 => true
  | _ => false
def redWide : RedTy → Bool
  | .i64 | .n64 | .f64 => true
  | .i32 | .n32 | .f32 => false
def evenOpt (w : Bool) : Option (Fin 256) → Bool
  | some r => evenIf w r
  | none => true
def evenBase : BrBase → Bool
  | .vec r => evenV r
  | .sca _ => true
def evenMcand (w : Bool) : Mcand → Bool
  | .vec r => evenIf w r
  | .stash _ _ _ => true
def addWide : AddTy → Bool
  | .int t => wideInt t
  | .flt t => t == .f64

/-- Every 64-bit vector operand names an even register, CAS2's a multiple of 4. The position and width of a field (R130) are
32-bit operands whatever the type. DESIGN CHOICE (log 100). DESIGN CHOICE (log 100). -/
def pairsOk (stream : Bool) (i : Instr) : Bool :=
  match i with
  | .brx o => evenBase o.base
  | .call o => stream || evenV o.d
  | .callx o => stream || (evenV o.d && evenBase o.base)
  | .retC o => stream || o.a.val % 2 == 0
  | .smovv o => evenIf (wideInt o.ty) o.a
  | .vadd o | .vsub o | .vmul o | .vmulh o | .vand o | .vor o | .vxor o | .vandn o | .vmin o | .vmax o
  | .vadds o | .vsubs o | .vshl o | .vshr o | .vsar o =>
    evenIf (wideInt o.ty) o.d && evenIf (wideInt o.ty) o.a && evenSrc (wideInt o.ty) o.b
  | .vmad o =>
    let w := wideInt o.ty
    evenIf w o.d && evenIf w o.a && evenSrc w o.b && evenIf w o.c
  | .vmadw o =>
    let w := intWidth o.ty == 32
    evenIf w o.d && evenIf w o.c
  | .vcmp o => evenIf (wideInt o.ty) o.a && evenSrc (wideInt o.ty) o.b
  | .vsel o => evenIf (wideInt o.ty) o.d && evenIf (wideInt o.ty) o.a && evenSrc (wideInt o.ty) o.b
  | .vabs o => evenIf (wideInt o.ty) o.d && evenIf (wideInt o.ty) o.a
  | .vpopc o | .vclz o => evenIf (wideInt o.ty) o.d && evenIf (wideInt o.ty) o.a
  | .vbfx o | .vbfi o => evenIf (wideInt o.ty) o.d && evenIf (wideInt o.ty) o.a
  | .vmovs o => evenIf (wideInt o.ty) o.d
  | .vli o => evenIf (wideInt o.ty) o.d
  | .vidx o => evenIf (wideInt o.ty) o.d && evenSrc (wideInt o.ty) o.b
  | .vfadd o | .vfsub o | .vfmul o | .vfdiv o =>
    let w := o.ty == .f64
    evenIf w o.d && evenIf w o.a && evenSrc w o.b
  | .vfma o =>
    let w := o.ty == .f64
    evenIf w o.d && evenIf w o.a && evenSrc w o.b && evenIf w o.c
  | .vfmin o | .vfmax o =>
    let w := o.ty == .f64
    evenIf w o.d && evenIf w o.a && evenSrc w o.b
  | .vaddmin o | .vaddmax o =>
    let w := addWide o.ty
    evenIf w o.d && evenIf w o.a && evenSrc w o.b && evenIf w o.c
  | .vfcmp o => evenIf (o.ty == .f64) o.a && evenSrc (o.ty == .f64) o.b
  | .vfclass o => evenIf (o.ty == .f64) o.a
  | .vfsqrt o => evenIf (o.ty == .f64) o.d && evenIf (o.ty == .f64) o.a
  | .vfrnd o => evenIf (o.ty == .f64) o.d && evenIf (o.ty == .f64) o.a
  | .vcvt o => evenIf (isWideTy o.dty) o.d && evenIf (isWideTy o.sty) o.a
  | .vshfl o => evenIf o.wide o.d && evenIf o.wide o.a && evenOpt o.wide o.c
  | .vbcst o => evenIf o.wide o.d && evenIf o.wide o.a && evenOpt o.wide o.c
  | .vmatch o => evenIf o.wide o.a
  | .vscan o => evenIf (redWide o.ty) o.d && evenIf (redWide o.ty) o.a
  | .vred o => evenIf (redWide o.ty) o.a
  | .vtop o => evenIf o.wide o.a
  | .ld o => evenIf (o.w == .n64) o.d
  | .st o => evenIf (o.w == .n64) o.c
  | .ldn o => evenIf (o.w == .n64) o.d
  | .atom o => evenIf o.wide o.d && evenIf o.wide o.c
  | .atomf o => evenIf (o.ty == .f64) o.d && evenIf (o.ty == .f64) o.c
  | .cas o => evenIf o.wide o.d && evenIf o.wide o.c
  | .cas2 o => o.d.val % 4 == 0 && o.c.val % 4 == 0
  | .mma o => evenMcand (isF64 o.ty) o.a && evenMcand (isF64 o.ty) o.b
  | .mfs o => match o.r with
    | .vec r => evenIf (match o.reg with
        | .tpc | .taddr | .tinfo => true
        | .lseq | .lpc | .cycle | .caps | .corecaps | .ptbase | .restores | .fctl | .srstate | .tvec
        | .cwp _ | .csq _ | .dbgctl | .energy => true
        | _ => false) r
    | .sca _ => true
  | .mts o => match o.r with
    | .vec r => evenIf (match o.reg with
        | .tpc | .taddr | .tinfo => true
        | _ => false) r
    | .sca _ => true
  | _ => true

end Sys2Proof.Machine
end

