-- ==== Sys2Proof/WellFormed.lean ====
section
/-! DEFINITION. Well-formed instructions: no reserved field value and even 64-bit registers (02 R59, steps 5 and 7).
The checks themselves are those of Machine/Encodable.lean, which the decoder applies too. -/

namespace Sys2Proof

/-- An event: no word encodes it. -/
def Instr.isEvent (i : Instr) : Bool :=
  match i with
  | .vredCompletion
  | .accessPerformed
  | .backgroundWriteback
  | .backgroundDiscard
  | .matrixCompletion
  | .engineCommandStart
  | .indexRowDelivery
  | .embagBagDelivery
  | .commandCompletion
  | .heldRecordWrite
  | .pageMove
  | .promotionMove
  | .promotionCounterHalve
  | .collectiveCompletion
  | .flitReceive
  | .portRetrainTimeout
  | .streamTakeEntry
  | .teamPlacement
  | .bandRetire
  | .teamRetire
  | .quantumExpire
  | .forcedPick
  | .engineTrapTake
  | .breakpointHit
  | .stopArrival
  | .snapshotLatch
  | .stallSample
  | .memorySample
  | .scrub
  | .knuckleParityError
  | .knuckleRetry
  | .stackCriticalTemperature
  | .flushWindowEnd
  | .dieThrottle
  | .coldReset
  | .warmReset
  | .attestationRequest
  | .attestationReportReady
  | .hostApertureRead
  | .hostApertureWrite
  | .tlbInvalidate
  | .tlbInvalidateDone
  | .pageAnswerDone
  | .pageAnswerRefused
  | .bandResume
  | .bandAbort
  | .bandStep
  | .stepEnd
  | .streamEnable
  | .streamDisable
  | .doorbell
  | .driverTrigger
  | .stackResume
  | .portRetrain
  | .debugRead
  | .debugWrite
  | .tapDpacc
  | .counterReadClear
  | .registerWrite
  | .contextCreation
  | .launchAbort
  | .driverHaltRequest
  | .portUp
  | .portLinkFailure
  | .dieTemperatureFall => true
  | _ => false

/-- The instruction is one that a processor of the kind (`stream`) can be given in words. -/
def Instr.wellFormed (stream : Bool) (i : Instr) : Bool :=
  !i.isEvent && Machine.fieldsOk stream i && Machine.pairsOk stream i

/-- The instruction with its guard is well formed. -/
def Decoded.wellFormed (stream : Bool) (d : Decoded) : Bool :=
  Machine.guardFits d.guard d.instr && d.instr.wellFormed stream

end Sys2Proof
end

