-- ==== Sys2Proof/Decode.lean ====
section
/-! DEFINITION. The decoder, total on any bytes and rejecting by name (02 R42-R60), and the encoder, written from
the same encoding tables (02 R42-R57 and the encoding rules of 03 to 17). -/

namespace Sys2Proof

open Machine

/-! ### Fields of an instruction (R42-R45) -/

/-- The fields of a C or CL word, with the literal of CL and the nine branch words of SWCH. -/
structure CFields where
  op : Nat
  g : Nat
  d : Nat
  a : Nat
  b : Nat
  lit : Option Nat
  br : List Nat
  deriving DecidableEq, Repr

/-- The fields of an X or XL instruction: `imm` is the whole third word. -/
structure XFields where
  op : Nat
  g : Nat
  gn : Nat
  mod : Nat
  sub : Nat
  d : Nat
  a : Nat
  b : Nat
  c : Nat
  imm : Nat
  lit : Option Nat
  deriving DecidableEq, Repr

inductive Fields where
  | c (f : CFields)
  | x (f : XFields)
  deriving DecidableEq, Repr

/-- Bytes of an instruction by its LEN and OP (R42). -/
def lengthOf (len op : Nat) : Nat :=
  if len = 0 then 4 else if len = 1 then (if op = 0x0A then 48 else 12) else if len = 2 then 12 else 20

/-- Length (R83): bytes of the instruction whose first word is `w`. -/
def instrLength (w : Nat) : Nat := lengthOf (w % 4) (w / 4 % 256)

def cFields (w : Nat) (lit : Option Nat) (br : List Nat) : CFields :=
  { op := w / 4 % 256, g := w / 1024 % 16, d := w / 2 ^ 14 % 64, a := w / 2 ^ 20 % 64, b := w / 2 ^ 26 % 64
    lit, br }

def xFields (w w2 w3 : Nat) (lit : Option Nat) : XFields :=
  { op := w / 4 % 256, g := w / 1024 % 16, gn := w / 2 ^ 14 % 2, mod := w / 2 ^ 22 % 1024
    sub := w / 2 ^ 15 % 128, d := w2 % 256, a := w2 / 2 ^ 8 % 256, b := w2 / 2 ^ 16 % 256
    c := w2 / 2 ^ 24 % 256, imm := w3, lit }

/-- The fields of an instruction's words; `none` when their number is not that of its length. -/
def fieldsOf (ws : List Nat) : Option Fields :=
  match ws with
  | [w] => if w % 4 = 0 then some (.c (cFields w none [])) else none
  | [w, x, y] =>
    if w % 4 = 2 then some (.x (xFields w x y none))
    else if w % 4 = 1 ∧ w / 4 % 256 ≠ 0x0A then some (.c (cFields w (some (x + y * 2 ^ 32)) []))
    else none
  | [w, x, y, l, h] => if w % 4 = 3 then some (.x (xFields w x y (some (l + h * 2 ^ 32)))) else none
  | [w, l, h, b0, b1, b2, b3, b4, b5, b6, b7, b8] =>
    if w % 4 = 1 ∧ w / 4 % 256 = 0x0A then
      some (.c (cFields w (some (l + h * 2 ^ 32)) [b0, b1, b2, b3, b4, b5, b6, b7, b8]))
    else none
  | _ => none

/-- The words of C and CL fields. -/
def cWords (f : CFields) : List Nat :=
  let w := f.b * 2 ^ 26 + f.a * 2 ^ 20 + f.d * 2 ^ 14 + f.g * 1024 + f.op * 4
  match f.lit with
  | none => [w]
  | some l => (w + 1) :: (l % 2 ^ 32) :: (l / 2 ^ 32) :: f.br

/-- The words of X and XL fields. -/
def xWords (f : XFields) : List Nat :=
  let w := f.mod * 2 ^ 22 + f.sub * 2 ^ 15 + f.gn * 2 ^ 14 + f.g * 1024 + f.op * 4
  let w2 := f.c * 2 ^ 24 + f.b * 2 ^ 16 + f.a * 2 ^ 8 + f.d
  match f.lit with
  | none => [w + 2, w2, f.imm]
  | some l => [w + 3, w2, f.imm, l % 2 ^ 32, l / 2 ^ 32]

def wordsOf : Fields → List Nat
  | .c f => cWords f
  | .x f => xWords f

/-- 32-bit little-endian words of bytes (R5); `none` when the last word is not whole. -/
def bytesToWords : List Byte → Option (List Nat)
  | [] => some []
  | a :: b :: c :: d :: r =>
    (bytesToWords r).map fun ws =>
      (a.toNat + b.toNat * 2 ^ 8 + c.toNat * 2 ^ 16 + d.toNat * 2 ^ 24) :: ws
  | _ => none

def wordBytes (w : Nat) : List Byte :=
  [BitVec.ofNat 8 w, BitVec.ofNat 8 (w / 2 ^ 8), BitVec.ofNat 8 (w / 2 ^ 16), BitVec.ofNat 8 (w / 2 ^ 24)]

def wordsToBytes : List Nat → List Byte
  | [] => []
  | w :: ws => wordBytes w ++ wordsToBytes ws

/-! ### Codes of the field types -/

def rndCode : Rnd → Nat
  | .rne => 0 | .rtz => 1 | .rup => 2 | .rdn => 3 | .sr => 4 | .dyn => 5
def rndOf : Nat → Option Rnd
  | 0 => some .rne | 1 => some .rtz | 2 => some .rup | 3 => some .rdn | 4 => some .sr | 5 => some .dyn
  | _ => none
def scopeCode : Scope → Nat
  | .team => 1 | .cluster => 2 | .hinge => 3 | .package => 4 | .system => 5
def scopeOf : Nat → Option Scope
  | 1 => some .team | 2 => some .cluster | 3 => some .hinge | 4 => some .package | 5 => some .system
  | _ => none
def orderCode : Order → Nat
  | .none => 0 | .acq => 1 | .rel => 2 | .ar => 3
def orderOf : Nat → Order
  | 0 => .none | 1 => .acq | 2 => .rel | _ => .ar
def hintCode : Hint → Nat
  | .normal => 0 | .ef => 1 | .el => 2 | .na => 3
def hintOf : Nat → Hint
  | 0 => .normal | 1 => .ef | 2 => .el | _ => .na
def widthCode : Width → Nat
  | .n8 => 0 | .n16 => 1 | .n32 => 2 | .n64 => 3 | .i8 => 4 | .i16 => 5
def widthOf : Nat → Option Width
  | 0 => some .n8 | 1 => some .n16 | 2 => some .n32 | 3 => some .n64 | 4 => some .i8 | 5 => some .i16
  | _ => none
def condCode : Cond → Nat
  | .eq => 0 | .ne => 1 | .lt => 2 | .le => 3 | .gt => 4 | .ge => 5 | .tst => 6 | .ntst => 7
def condOf : Nat → Option Cond
  | 0 => some .eq | 1 => some .ne | 2 => some .lt | 3 => some .le | 4 => some .gt | 5 => some .ge
  | 6 => some .tst | 7 => some .ntst | _ => none
def fcondCode : FCond → Nat
  | .eq => 0 | .ne => 1 | .lt => 2 | .le => 3 | .gt => 4 | .ge => 5 | .ord => 6 | .uno => 7
def fcondOf : Nat → Option FCond
  | 0 => some .eq | 1 => some .ne | 2 => some .lt | 3 => some .le | 4 => some .gt | 5 => some .ge
  | 6 => some .ord | 7 => some .uno | _ => none
def redOpCode : RedOp → Nat
  | .add => 0 | .min => 1 | .max => 2 | .and => 3 | .or => 4 | .xor => 5
def redOpOf : Nat → Option RedOp
  | 0 => some .add | 1 => some .min | 2 => some .max | 3 => some .and | 4 => some .or | 5 => some .xor
  | _ => none
def redTyCode : RedTy → Nat
  | .i32 => 2 | .i64 => 3 | .n32 => 6 | .n64 => 7 | .f32 => 10 | .f64 => 11
def redTyOf : Nat → Option RedTy
  | 2 => some .i32 | 3 => some .i64 | 6 => some .n32 | 7 => some .n64 | 10 => some .f32 | 11 => some .f64
  | _ => none
def shflCode : ShflMode → Nat
  | .idx => 0 | .up => 1 | .down => 2 | .xor => 3
def shflOf : Nat → ShflMode
  | 0 => .idx | 1 => .up | 2 => .down | _ => .xor
def atomOpCode : AtomOp → Nat
  | .add => 0 | .and => 1 | .or => 2 | .exch => 3 | .umin => 4 | .umax => 5 | .smin => 6 | .smax => 7
def atomOpOf : Nat → Option AtomOp
  | 0 => some .add | 1 => some .and | 2 => some .or | 3 => some .exch | 4 => some .umin | 5 => some .umax
  | 6 => some .smin | 7 => some .smax | _ => none
def atomfOpCode : AtomfOp → Nat
  | .add => 0 | .min => 1 | .max => 2
def atomfOpOf : Nat → Option AtomfOp
  | 0 => some .add | 1 => some .min | 2 => some .max | _ => none
def atomfTyCode : AtomfTy → Nat
  | .f32 => 0 | .f64 => 1 | .f16x2 => 2 | .bf16x2 => 3
def atomfTyOf : Nat → Option AtomfTy
  | 0 => some .f32 | 1 => some .f64 | 2 => some .f16x2 | 3 => some .bf16x2 | _ => none
def sparCode : Sparsity → Nat
  | .s24 => 0 | .s14 => 1 | .s48 => 2
def sparOf : Nat → Option Sparsity
  | 0 => some .s24 | 1 => some .s14 | 2 => some .s48 | _ => none
def fillCode : FillTy → Nat
  | .n32 => 6 | .i32 => 2 | .f32 => 10 | .n64 => 7 | .f64 => 11
def fillOf : Nat → Option FillTy
  | 6 => some .n32 | 2 => some .i32 | 10 => some .f32 | 7 => some .n64 | 11 => some .f64 | _ => none
def tileWCode : TileW → Nat
  | .n8 => 4 | .n16 => 5 | .n32 => 6
def tileWOf : Nat → Option TileW
  | 4 => some .n8 | 5 => some .n16 | 6 => some .n32 | _ => none
def accCode : AccTy → Nat
  | .i32 => 2 | .f32 => 10 | .f64 => 11
def accOf : Nat → Option AccTy
  | 2 => some .i32 | 10 => some .f32 | 11 => some .f64 | _ => none
def snapCode : SnapScope → Nat
  | .core => 0 | .cluster => 1 | .hinge => 2 | .package => 3
def snapOf : Nat → SnapScope
  | 0 => .core | 1 => .cluster | 2 => .hinge | _ => .package
def fenceCode : FenceKind → Nat × Nat
  | .acq => (1, 0) | .rel => (2, 0) | .ar => (3, 0) | .sc => (3, 1)
def fenceOf : Nat → Nat → Option FenceKind
  | 1, 0 => some .acq | 2, 0 => some .rel | 3, 0 => some .ar | 3, 1 => some .sc | _, _ => none

/-! ### Field readers -/

/-- A number below `n`. -/
def toFin (n v : Nat) : Option (Fin n) := if h : v < n then some ⟨v, h⟩ else none

/-- `k` where `b` holds. -/
def need {α : Type} (b : Bool) (k : Option α) : Option α := if b then k else none

def word (v : Nat) : Word := BitVec.ofNat 32 v
def dword (v : Nat) : DWord := BitVec.ofNat 64 v

/-- The guard of an instruction (R47). -/
def guardOf : Fields → Option Guard
  | .c f => (toFin 16 f.g).map fun p => { p, neg := false }
  | .x f => (toFin 16 f.g).map fun p => { p, neg := f.gn == 1 }

def addTyCode : AddTy → Nat
  | .int t => intCode t
  | .flt t => fltCode t
def addTyOf (c : Nat) : Option AddTy :=
  if c < 8 then (intOfCode c).map .int else (fltOfCode c).map .flt

/-- The B operand of the scalar class (R107). -/
def ssrcOf (bi b imm : Nat) : Option SSrc :=
  if bi = 0 then need (imm == 0) ((toFin 64 b).map .reg) else need (b == 0) (some (.imm (word imm)))

def regImmOf (bi b imm : Nat) : Option RegImm :=
  if bi = 0 then need (imm == 0) ((toFin 64 b).map .reg) else need (b == 0) (some (.imm (word imm)))

/-- The B operand of the vector classes by BSRC (R49, R101). -/
def vsrcOf (bsrc b imm : Nat) : Option VSrc :=
  match bsrc with
  | 0 => need (imm == 0) ((toFin 256 b).map .vec)
  | 1 => need (imm == 0) ((toFin 64 b).map .sca)
  | 2 => need (b == 0) (some (.imm (word imm)))
  | _ => none

/-- BSRC, B, the third word and the literal of a source. -/
def ssrcFields : SSrc → Nat × Nat × Nat
  | .reg r => (0, r.val, 0)
  | .imm v => (1, 0, v.toNat)
  | .lit _ => (0, 0, 0)
def regImmFields : RegImm → Nat × Nat × Nat
  | .reg r => (0, r.val, 0)
  | .imm v => (1, 0, v.toNat)
def vsrcFields : VSrc → Nat × Nat × Nat
  | .vec r => (0, r.val, 0)
  | .sca r => (1, r.val, 0)
  | .imm v => (2, 0, v.toNat)
  | .lit _ => (0, 0, 0)
def vsrcLit : VSrc → Option Nat
  | .lit v => some v.toNat
  | _ => none

/-- The memory operand of R53: A, B, IX and SP. -/
def memOf (a b ix sp imm : Nat) : Option MemOp := do
  let base ← toFin 64 a
  let index ← if ix = 0 then need (b == 0) (some none)
    else do
      let v ← toFin 256 b
      let s ← toFin 5 (ix - 1)
      pure (some (v, s))
  pure { base, index, off := word imm, stash := sp == 1 }

def memB (m : MemOp) : Nat := match m.index with | some (v, _) => v.val | none => 0
def memIx (m : MemOp) : Nat := match m.index with | some (_, s) => s.val + 1 | none => 0

/-- The subfields of MOD and SUB of the memory class (R249). -/
def mOrd (x : XFields) : Nat := x.mod / 256
def mSc (x : XFields) : Nat := x.mod / 32 % 8
def mCh (x : XFields) : Nat := x.mod / 8 % 4
def mW (x : XFields) : Nat := x.mod % 8
def mIx (x : XFields) : Nat := x.sub / 16
def mSp (x : XFields) : Nat := x.sub / 8 % 2
def mVar (x : XFields) : Nat := x.sub % 8
def mMod (ord sc ch w : Nat) : Nat := ord * 256 + sc * 32 + ch * 8 + w
def mSub (ix sp var : Nat) : Nat := ix * 16 + sp * 8 + var

/-- A scope that stands exactly with the ordering `o` (R249): SC is 0 without it. -/
def accScope (o : Nat) (x : XFields) : Option (Option Scope) :=
  if mOrd x = 0 then need (mSc x == 0) (some none)
  else need (mOrd x == o) ((scopeOf (mSc x)).map some)

def scopeOpt (s : Option Scope) : Nat := match s with | some s => scopeCode s | none => 0

/-- A tumbler field F of the engines: 0 to 23, or 0xFF for none. -/
def tumbOf (f : Nat) : Option (Option (Fin 24)) :=
  if f = 255 then some none else (toFin 24 f).map some
def tumbCode (t : Option (Fin 24)) : Nat := match t with | some t => t.val | none => 255

def lowE (x : XFields) : Nat := x.imm % 256
def lowF (x : XFields) : Nat := x.imm / 256 % 256
def aux (x : XFields) : Nat := x.imm / 65536
def mkImm (aux f e : Nat) : Nat := aux * 65536 + f * 256 + e

/-- Every operand byte not read is 0 and there is no literal. -/
def noLitX (x : XFields) : Bool := x.lit.isNone

/-! ### Operand structures from fields, and fields from operand structures -/

/-- X fields of an encoding. -/
def encX (op mod sub d a b c imm : Nat) (lit : Option Nat := none) : Fields :=
  .x { op, g := 15, gn := 0, mod, sub, d, a, b, c, imm, lit }

def encC (op d a b : Nat) : Fields :=
  .c { op, g := 15, d, a, b, lit := none, br := [] }

def encCL (op d a : Nat) (lit : DWord) : Fields :=
  .c { op, g := 15, d, a, b := 0, lit := some lit.toNat, br := [] }

/-- The fields with the guard of R47; C and CL have no GN. -/
def withGuard (g : Guard) : Fields → Fields
  | .c f => .c { f with g := g.p.val }
  | .x f => .x { f with g := g.p.val, gn := bit g.neg }

-- compact operands
/-- No operand beside the guard. -/
def bareC (f : CFields) (i : Instr) : Option Instr := need (f.d == 0 && f.a == 0 && f.b == 0) (some i)
def c3Of (f : CFields) : Option C3 := do
  let d ← toFin 64 f.d
  let a ← toFin 64 f.a
  let b ← toFin 64 f.b
  pure { d, a, b }
def c2Of (f : CFields) : Option C2 := do
  let d ← toFin 64 f.d
  let a ← toFin 64 f.a
  need (f.b == 0) (some { d, a })
def c1Of (f : CFields) : Option C1 := do
  let d ← toFin 64 f.d
  need (f.a == 0 && f.b == 0) (some { d })
def cRetOf (f : CFields) : Option CRet := do
  let a ← toFin 64 f.a
  need (f.d == 0 && f.b == 0) (some { a })
def cp3Of (f : CFields) : Option CP3 := do
  let d ← toFin 16 f.d
  let a ← toFin 16 f.a
  let b ← toFin 16 f.b
  pure { d, a, b }
def cp2Of (f : CFields) : Option CP2 := do
  let d ← toFin 16 f.d
  let a ← toFin 16 f.a
  need (f.b == 0) (some { d, a })
def crpOf (f : CFields) : Option CRP := do
  let d ← toFin 64 f.d
  let a ← toFin 16 f.a
  need (f.b == 0) (some { d, a })
def cprOf (f : CFields) : Option CPR := do
  let d ← toFin 16 f.d
  let a ← toFin 64 f.a
  need (f.b == 0) (some { d, a })
def cTileOf (f : CFields) : Option CTile := do
  let d ← toFin 16 f.d
  need (f.a == 0 && f.b == 0) (some { d })

def encC3 (op : Nat) (o : C3) : Fields := encC op o.d.val o.a.val o.b.val
def encC2 (op : Nat) (o : C2) : Fields := encC op o.d.val o.a.val 0
def encC1 (op : Nat) (o : C1) : Fields := encC op o.d.val 0 0
def encCP3 (op : Nat) (o : CP3) : Fields := encC op o.d.val o.a.val o.b.val
def encCP2 (op : Nat) (o : CP2) : Fields := encC op o.d.val o.a.val 0
def encCRP (op : Nat) (o : CRP) : Fields := encC op o.d.val o.a.val 0
def encCPR (op : Nat) (o : CPR) : Fields := encC op o.d.val o.a.val 0

-- CL operands
def clSOp2 (f : CFields) (l : Nat) : Option SOp2 := do
  let d ← toFin 64 f.d
  let a ← toFin 64 f.a
  need (f.b == 0) (some { ty := .i64, d, a, b := .lit (dword l) })
def clVOp2 (f : CFields) (l : Nat) : Option VOp2 := do
  let d ← toFin 256 f.d
  let a ← toFin 256 f.a
  need (f.b == 0) (some { ty := .i32, d, a, b := .lit (dword l) })
def clFOp2 (f : CFields) (l : Nat) : Option FOp2 := do
  let d ← toFin 256 f.d
  let a ← toFin 256 f.a
  need (f.b == 0) (some { ty := .f32, rnd := .rne, d, a, b := .lit (dword l) })
def clFMinMax (f : CFields) (l : Nat) : Option FMinMax := do
  let d ← toFin 256 f.d
  let a ← toFin 256 f.a
  need (f.b == 0) (some { ty := .f32, nan := false, d, a, b := .lit (dword l) })
def clSLi (f : CFields) (l : Nat) : Option SLi := do
  let d ← toFin 64 f.d
  need (f.a == 0 && f.b == 0) (some { ty := .i64, d, v := .lit (dword l) })
def clVLi (f : CFields) (l : Nat) : Option VLi := do
  let d ← toFin 256 f.d
  need (f.a == 0 && f.b == 0) (some { ty := .i32, d, v := .lit (dword l) })
def swchOf (f : CFields) (l : Nat) : Option Swch := do
  let n ← toFin 9 f.d
  let a ← toFin 64 f.a
  match f.br with
  | [b0, b1, b2, b3, b4, b5, b6, b7, b8] =>
    need (f.b == 0) (some
      { n, a, cases := dword l
        offs := #v[word b0, word b1, word b2, word b3, word b4, word b5, word b6, word b7], join := word b8 })
  | _ => none
def encSwch (o : Swch) : Fields :=
  .c { op := 0x0A, g := 15, d := o.n.val, a := o.a.val, b := 0, lit := some o.cases.toNat
       br := o.offs.toList.map BitVec.toNat ++ [o.join.toNat] }

-- control flow (R197-R215)
def braOf (x : XFields) : Option Bra := do
  need (noLitX x && x.mod == 0 && x.sub == 0 && x.d == 0 && x.a == 0 && x.b == 0 && x.c == 0)
    (some { off := word x.imm })
def encBra (o : Bra) : Fields := encX 0x02 0 0 0 0 0 0 o.off.toNat
def brBaseOf (sub a : Nat) : Option BrBase :=
  match sub with
  | 0 => (toFin 64 a).map .sca
  | 1 => (toFin 256 a).map .vec
  | _ => none
def brBaseFields : BrBase → Nat × Nat
  | .sca r => (0, r.val)
  | .vec r => (1, r.val)
def brxOf (x : XFields) : Option Brx := do
  let base ← brBaseOf x.sub x.a
  need (noLitX x && x.mod == 0 && x.d == 0 && x.b == 0 && x.c == 0) (some { base, off := word x.imm })
def encBrx (o : Brx) : Fields :=
  encX 0x03 0 (brBaseFields o.base).1 0 (brBaseFields o.base).2 0 0 o.off.toNat
def callOf (x : XFields) : Option Call := do
  let d ← toFin 256 x.d
  need (noLitX x && x.mod == 0 && x.sub == 0 && x.a == 0 && x.b == 0 && x.c == 0)
    (some { d, off := word x.imm })
def encCall (o : Call) : Fields := encX 0x04 0 0 o.d.val 0 0 0 o.off.toNat
def callxOf (x : XFields) : Option Callx := do
  let d ← toFin 256 x.d
  let base ← brBaseOf x.sub x.a
  need (noLitX x && x.mod == 0 && x.b == 0 && x.c == 0) (some { d, base, off := word x.imm })
def encCallx (o : Callx) : Fields :=
  encX 0x05 0 (brBaseFields o.base).1 o.d.val (brBaseFields o.base).2 0 0 o.off.toNat
def brdOf (x : XFields) : Option Brd := do
  let pa ← toFin 16 x.a
  need (noLitX x && x.mod == 0 && decide (x.sub < 2) && x.d == 0)
    (some { pa, neg := x.sub == 1, joff := BitVec.ofNat 16 (x.c * 256 + x.b), off := word x.imm })
def encBrd (o : Brd) : Fields :=
  encX 0x07 0 (bit o.neg) 0 o.pa.val (o.joff.toNat % 256) (o.joff.toNat / 256) o.off.toNat
def brkOf (x : XFields) : Option Brk := do
  let n ← toFin 64 x.sub
  need (noLitX x && x.mod == 0 && x.d == 0 && x.a == 0 && x.b == 0 && x.c == 0)
    (some { n, off := word x.imm })
def encBrk (o : Brk) : Fields := encX 0x09 0 o.n.val 0 0 0 0 o.off.toNat
def loopOf (x : XFields) : Option Loop := do
  let count ← match x.sub with
    | 0 => need (x.b == 0 && x.c == 0) ((toFin 64 x.a).map .reg)
    | 1 => need (x.a == 0) (some (.imm (BitVec.ofNat 16 (x.c * 256 + x.b))))
    | _ => none
  need (noLitX x && x.mod == 0 && x.d == 0) (some { count, off := word x.imm })
def encLoop (o : Loop) : Fields :=
  let f : Nat × Nat × Nat × Nat := match o.count with
    | .reg r => (0, r.val, 0, 0)
    | .imm v => (1, 0, v.toNat % 256, v.toNat / 256)
  encX 0x0B 0 f.1 0 f.2.1 f.2.2.1 f.2.2.2 o.off.toNat

-- scalar integer (R106-R118): MOD = BI << 9 | TY << 3
def sMod (bi ty : Nat) : Nat := bi * 512 + ty * 8
def sTy (x : XFields) : Option IntTy := need (x.mod % 8 == 0) (intOfCode (x.mod / 8 % 64))
def sBi (x : XFields) : Nat := x.mod / 512
def sOp2Of (x : XFields) : Option SOp2 := do
  let ty ← sTy x
  let d ← toFin 64 x.d
  let a ← toFin 64 x.a
  let b ← ssrcOf (sBi x) x.b x.imm
  need (noLitX x && x.sub == 0 && x.c == 0) (some { ty, d, a, b })
def encSOp2 (op : Nat) (o : SOp2) : Fields :=
  match o.b with
  | .lit v => encCL op o.d.val o.a.val v
  | b =>
    let f := ssrcFields b
    encX op (sMod f.1 (intCode o.ty)) 0 o.d.val o.a.val f.2.1 0 f.2.2
def sCmpOf (x : XFields) : Option SCmp := do
  let ty ← sTy x
  let cond ← condOf x.sub
  let d ← toFin 64 x.d
  let a ← toFin 64 x.a
  let b ← regImmOf (sBi x) x.b x.imm
  need (noLitX x && x.c == 0) (some { cond, ty, d, a, b })
def encSCmp (o : SCmp) : Fields :=
  let f := regImmFields o.b
  encX 0x20 (sMod f.1 (intCode o.ty)) (condCode o.cond) o.d.val o.a.val f.2.1 0 f.2.2
def sSelOf (x : XFields) : Option SSel := do
  let ty ← sTy x
  let d ← toFin 64 x.d
  let a ← toFin 64 x.a
  let b ← regImmOf (sBi x) x.b x.imm
  let c ← toFin 64 x.c
  need (noLitX x && x.sub == 0) (some { ty, d, a, b, c })
def encSSel (o : SSel) : Fields :=
  let f := regImmFields o.b
  encX 0x21 (sMod f.1 (intCode o.ty)) 0 o.d.val o.a.val f.2.1 o.c.val f.2.2
def sOp1Of (x : XFields) : Option SOp1 := do
  let ty ← sTy x
  let d ← toFin 64 x.d
  let a ← toFin 64 x.a
  need (noLitX x && sBi x == 0 && x.sub == 0 && x.b == 0 && x.c == 0 && x.imm == 0) (some { ty, d, a })
def encSOp1 (op : Nat) (o : SOp1) : Fields :=
  encX op (sMod 0 (intCode o.ty)) 0 o.d.val o.a.val 0 0 0
def sLiOf (x : XFields) : Option SLi := do
  let ty ← sTy x
  let d ← toFin 64 x.d
  need (noLitX x && sBi x == 1 && x.sub == 0 && x.a == 0 && x.b == 0 && x.c == 0)
    (some { ty, d, v := .imm (word x.imm) })
def encSLi (o : SLi) : Fields :=
  match o.v with
  | .lit v => encCL 0x23 o.d.val 0 v
  | .imm v => encX 0x23 (sMod 1 (intCode o.ty)) 0 o.d.val 0 0 0 v.toNat
def sLeaOf (x : XFields) : Option SLea := do
  let ty ← sTy x
  let d ← toFin 64 x.d
  let a ← toFin 64 x.a
  let b ← toFin 64 x.b
  let shift ← toFin 5 x.sub
  need (noLitX x && sBi x == 0 && x.c == 0) (some { ty, d, a, b, shift, off := word x.imm })
def encSLea (o : SLea) : Fields :=
  encX 0x24 (sMod 0 (intCode o.ty)) o.shift.val o.d.val o.a.val o.b.val 0 o.off.toNat
def sFieldOf (x : XFields) : Option SField :=
  match x.sub with
  | 0 => need (x.b == 0 && x.c == 0 && aux x == 0)
      (some (.imm (BitVec.ofNat 8 (lowE x)) (BitVec.ofNat 8 (lowF x))))
  | 1 => do
    let b ← toFin 64 x.b
    let c ← toFin 64 x.c
    need (x.imm == 0) (some (.reg b c))
  | _ => none
def sBfOf (x : XFields) : Option SBf := do
  let ty ← sTy x
  let d ← toFin 64 x.d
  let a ← toFin 64 x.a
  let fld ← sFieldOf x
  need (noLitX x && sBi x == 0) (some { ty, d, a, fld })
def encSBf (op : Nat) (o : SBf) : Fields :=
  match o.fld with
  | .imm p w => encX op (sMod 0 (intCode o.ty)) 0 o.d.val o.a.val 0 0 (mkImm 0 w.toNat p.toNat)
  | .reg b c => encX op (sMod 0 (intCode o.ty)) 1 o.d.val o.a.val b.val c.val 0
def sMovvOf (x : XFields) : Option SMovv := do
  let ty ← sTy x
  let d ← toFin 64 x.d
  let a ← toFin 256 x.a
  let lane ← if sBi x = 0 then need (x.imm == 0) ((toFin 64 x.b).map LaneSrc.reg)
    else need (x.b == 0) ((toFin 32 x.imm).map LaneSrc.imm)
  need (noLitX x && x.sub == 0 && x.c == 0) (some { ty, d, a, lane })
def encSMovv (o : SMovv) : Fields :=
  let f : Nat × Nat × Nat := match o.lane with
    | .reg r => (0, r.val, 0)
    | .imm l => (1, 0, l.val)
  encX 0x2A (sMod f.1 (intCode o.ty)) 0 o.d.val o.a.val f.2.1 0 f.2.2

-- vector integer (R120-R132): MOD = TY << 4 | BSRC << 2
def vMod (ty bsrc : Nat) : Nat := ty * 16 + bsrc * 4
def vTy (x : XFields) : Option IntTy := need (x.mod % 4 == 0) (intOfCode (x.mod / 16))
def vBsrc (x : XFields) : Nat := x.mod / 4 % 4
/-- B of X by BSRC, or the literal of XL with B, BSRC and the third word zero (R123). -/
def vsrcXL (x : XFields) : Option VSrc :=
  match x.lit with
  | none => vsrcOf (vBsrc x) x.b x.imm
  | some l => need (vBsrc x == 0 && x.b == 0 && x.imm == 0) (some (.lit (dword l)))
def vOp2Of (x : XFields) : Option VOp2 := do
  let ty ← vTy x
  let d ← toFin 256 x.d
  let a ← toFin 256 x.a
  let b ← vsrcOf (vBsrc x) x.b x.imm
  need (noLitX x && x.sub == 0 && x.c == 0) (some { ty, d, a, b })
def encVOp2 (op : Nat) (o : VOp2) : Fields :=
  match o.b with
  | .lit v => encCL op o.d.val o.a.val v
  | b =>
    let f := vsrcFields b
    encX op (vMod (intCode o.ty) f.1) 0 o.d.val o.a.val f.2.1 0 f.2.2
def vOp3Of (x : XFields) : Option VOp3 := do
  let ty ← vTy x
  let d ← toFin 256 x.d
  let a ← toFin 256 x.a
  let b ← vsrcXL x
  let c ← toFin 256 x.c
  need (x.sub == 0) (some { ty, d, a, b, c })
def encVOp3 (op : Nat) (o : VOp3) : Fields :=
  let f := vsrcFields o.b
  encX op (vMod (intCode o.ty) f.1) 0 o.d.val o.a.val f.2.1 o.c.val f.2.2 (vsrcLit o.b)
def vDotOf (x : XFields) : Option VDot := do
  let ty ← vTy x
  let unsigned ← match ty with
    | .i8 => some false
    | .n8 => some true
    | _ => none
  let d ← toFin 256 x.d
  let a ← toFin 256 x.a
  let b ← vsrcOf (vBsrc x) x.b x.imm
  let c ← toFin 256 x.c
  need (noLitX x && decide (x.sub < 4))
    (some { unsigned, mix := x.sub % 2 == 1, sat := x.sub / 2 == 1, d, a, b, c })
def encVDot (o : VDot) : Fields :=
  let f := vsrcFields o.b
  encX 0x48 (vMod (if o.unsigned then 4 else 0) f.1) (bit o.mix + 2 * bit o.sat)
    o.d.val o.a.val f.2.1 o.c.val f.2.2
def vCmpOf (x : XFields) : Option VCmp := do
  let ty ← vTy x
  let cond ← condOf x.sub
  let pd ← toFin 16 x.d
  let a ← toFin 256 x.a
  let b ← vsrcOf (vBsrc x) x.b x.imm
  need (noLitX x && x.c == 0) (some { cond, ty, pd, a, b })
def encVCmp (o : VCmp) : Fields :=
  let f := vsrcFields o.b
  encX 0x42 (vMod (intCode o.ty) f.1) (condCode o.cond) o.pd.val o.a.val f.2.1 0 f.2.2
def vSelOf (x : XFields) : Option VSel := do
  let ty ← vTy x
  let d ← toFin 256 x.d
  let a ← toFin 256 x.a
  let b ← vsrcOf (vBsrc x) x.b x.imm
  let pc ← toFin 16 x.c
  need (noLitX x && decide (x.sub < 2)) (some { ty, d, a, b, pc, neg := x.sub == 1 })
def encVSel (o : VSel) : Fields :=
  let f := vsrcFields o.b
  encX 0x43 (vMod (intCode o.ty) f.1) (bit o.neg) o.d.val o.a.val f.2.1 o.pc.val f.2.2
def vOp1Of (x : XFields) : Option VOp1 := do
  let ty ← vTy x
  let d ← toFin 256 x.d
  let a ← toFin 256 x.a
  need (noLitX x && vBsrc x == 0 && x.sub == 0 && x.b == 0 && x.c == 0 && x.imm == 0) (some { ty, d, a })
def encVOp1 (op : Nat) (o : VOp1) : Fields :=
  encX op (vMod (intCode o.ty) 0) 0 o.d.val o.a.val 0 0 0
def vFieldOf (x : XFields) : Option VField :=
  match x.sub, vBsrc x with
  | 0, 0 => need (x.b == 0 && x.c == 0 && aux x == 0)
      (some (.imm (BitVec.ofNat 8 (lowE x)) (BitVec.ofNat 8 (lowF x))))
  | 1, 0 => do
    let b ← toFin 256 x.b
    let c ← toFin 256 x.c
    need (x.imm == 0) (some (.regV b c))
  | 1, 1 => do
    let b ← toFin 64 x.b
    let c ← toFin 256 x.c
    need (x.imm == 0) (some (.regS b c))
  | _, _ => none
def vBfOf (x : XFields) : Option VBf := do
  let ty ← vTy x
  let d ← toFin 256 x.d
  let a ← toFin 256 x.a
  let fld ← vFieldOf x
  need (noLitX x) (some { ty, d, a, fld })
def encVBf (op : Nat) (o : VBf) : Fields :=
  match o.fld with
  | .imm p w => encX op (vMod (intCode o.ty) 0) 0 o.d.val o.a.val 0 0 (mkImm 0 w.toNat p.toNat)
  | .regV b c => encX op (vMod (intCode o.ty) 0) 1 o.d.val o.a.val b.val c.val 0
  | .regS b c => encX op (vMod (intCode o.ty) 1) 1 o.d.val o.a.val b.val c.val 0
def vMovsOf (x : XFields) : Option VMovs := do
  let ty ← vTy x
  let d ← toFin 256 x.d
  let a ← toFin 64 x.a
  need (noLitX x && vBsrc x == 0 && x.sub == 0 && x.b == 0 && x.c == 0 && x.imm == 0) (some { ty, d, a })
def encVMovs (o : VMovs) : Fields := encX 0x49 (vMod (intCode o.ty) 0) 0 o.d.val o.a.val 0 0 0
def vLiOf (x : XFields) : Option VLi := do
  let ty ← vTy x
  let d ← toFin 256 x.d
  need (noLitX x && vBsrc x == 2 && x.sub == 0 && x.a == 0 && x.b == 0 && x.c == 0)
    (some { ty, d, v := .imm (word x.imm) })
def encVLi (o : VLi) : Fields :=
  match o.v with
  | .lit v => encCL 0x4A o.d.val 0 v
  | .imm v => encX 0x4A (vMod (intCode o.ty) 2) 0 o.d.val 0 0 0 v.toNat
def vIdxOf (x : XFields) : Option VIdx := do
  let ty ← vTy x
  let d ← toFin 256 x.d
  let b ← vsrcOf (vBsrc x) x.b x.imm
  need (noLitX x && x.sub == 0 && x.a == 0 && x.c == 0) (some { ty, d, b })
def encVIdx (o : VIdx) : Fields :=
  let f := vsrcFields o.b
  encX 0x4B (vMod (intCode o.ty) f.1) 0 o.d.val 0 f.2.1 0 f.2.2

-- vector float (R139): SUB = FN << 3 | RND
def fTy (x : XFields) : Option FTy := need (x.mod % 4 == 0) (fltOfCode (x.mod / 16))
def fRnd? (x : XFields) : Option Rnd := rndOf (x.sub % 8)
def fFn (x : XFields) : Nat := x.sub / 8
def fSub' (fn rnd : Nat) : Nat := fn * 8 + rnd
def fOp2Of (x : XFields) : Option FOp2 := do
  let ty ← fTy x
  let rnd ← fRnd? x
  let d ← toFin 256 x.d
  let a ← toFin 256 x.a
  let b ← vsrcOf (vBsrc x) x.b x.imm
  need (noLitX x && fFn x == 0 && x.c == 0) (some { ty, rnd, d, a, b })
def encFOp2 (op : Nat) (o : FOp2) : Fields :=
  match o.b with
  | .lit v => encCL op o.d.val o.a.val v
  | b =>
    let f := vsrcFields b
    encX op (vMod (fltCode o.ty) f.1) (fSub' 0 (rndCode o.rnd)) o.d.val o.a.val f.2.1 0 f.2.2
def fMaOf (x : XFields) : Option FMa := do
  let ty ← fTy x
  let rnd ← fRnd? x
  let d ← toFin 256 x.d
  let a ← toFin 256 x.a
  let b ← vsrcXL x
  let c ← toFin 256 x.c
  need (decide (fFn x < 4)) (some { ty, rnd, negProd := fFn x / 2 == 1, negAdd := fFn x % 2 == 1, d, a, b, c })
def encFMa (o : FMa) : Fields :=
  let f := vsrcFields o.b
  encX 0x63 (vMod (fltCode o.ty) f.1) (fSub' (2 * bit o.negProd + bit o.negAdd) (rndCode o.rnd))
    o.d.val o.a.val f.2.1 o.c.val f.2.2 (vsrcLit o.b)
def fMinMaxOf (x : XFields) : Option FMinMax := do
  let ty ← fTy x
  let d ← toFin 256 x.d
  let a ← toFin 256 x.a
  let b ← vsrcOf (vBsrc x) x.b x.imm
  need (noLitX x && decide (fFn x < 2) && x.sub % 8 == 0 && x.c == 0)
    (some { ty, nan := fFn x == 1, d, a, b })
def encFMinMax (op : Nat) (o : FMinMax) : Fields :=
  match o.b with
  | .lit v => encCL op o.d.val o.a.val v
  | b =>
    let f := vsrcFields b
    encX op (vMod (fltCode o.ty) f.1) (fSub' (bit o.nan) 0) o.d.val o.a.val f.2.1 0 f.2.2
def fAddMinOf (x : XFields) : Option FAddMin := do
  let ty ← need (x.mod % 4 == 0) (addTyOf (x.mod / 16))
  let rnd ← fRnd? x
  let d ← toFin 256 x.d
  let a ← toFin 256 x.a
  let b ← vsrcXL x
  let c ← toFin 256 x.c
  need (decide (fFn x < 2)) (some { ty, nan := fFn x == 1, rnd, d, a, b, c })
def encFAddMin (op : Nat) (o : FAddMin) : Fields :=
  let f := vsrcFields o.b
  encX op (vMod (addTyCode o.ty) f.1) (fSub' (bit o.nan) (rndCode o.rnd))
    o.d.val o.a.val f.2.1 o.c.val f.2.2 (vsrcLit o.b)
def fCmpOf (x : XFields) : Option FCmp := do
  let ty ← fTy x
  let cond ← fcondOf (fFn x)
  let pd ← toFin 16 x.d
  let a ← toFin 256 x.a
  let b ← vsrcOf (vBsrc x) x.b x.imm
  need (noLitX x && x.sub % 8 == 0 && x.c == 0) (some { cond, ty, pd, a, b })
def encFCmp (o : FCmp) : Fields :=
  let f := vsrcFields o.b
  encX 0x66 (vMod (fltCode o.ty) f.1) (fSub' (fcondCode o.cond) 0) o.pd.val o.a.val f.2.1 0 f.2.2
def fOp1Of (x : XFields) : Option FOp1 := do
  let ty ← fTy x
  let rnd ← fRnd? x
  let d ← toFin 256 x.d
  let a ← toFin 256 x.a
  need (noLitX x && vBsrc x == 0 && fFn x == 0 && x.b == 0 && x.c == 0 && x.imm == 0)
    (some { ty, rnd, d, a })
def encFOp1 (op : Nat) (o : FOp1) : Fields :=
  encX op (vMod (fltCode o.ty) 0) (fSub' 0 (rndCode o.rnd)) o.d.val o.a.val 0 0 0
def fRndOf (x : XFields) : Option FRnd := do
  let ty ← fTy x
  let rnd ← fRnd? x
  let d ← toFin 256 x.d
  let a ← toFin 256 x.a
  need (noLitX x && vBsrc x == 0 && decide (fFn x < 2) && x.b == 0 && x.c == 0 && x.imm == 0)
    (some { ty, rnd, exact := fFn x == 1, d, a })
def encFRnd (o : FRnd) : Fields :=
  encX 0x73 (vMod (fltCode o.ty) 0) (fSub' (bit o.exact) (rndCode o.rnd)) o.d.val o.a.val 0 0 0
def fClassOf (x : XFields) : Option FClass := do
  let ty ← fTy x
  let d ← toFin 256 x.d
  let a ← toFin 256 x.a
  need (noLitX x && vBsrc x == 0 && x.sub == 0 && x.b == 0 && x.c == 0 && x.imm == 0) (some { ty, d, a })
def encFClass (o : FClass) : Fields := encX 0x67 (vMod (fltCode o.ty) 0) 0 o.d.val o.a.val 0 0 0

-- conversions (R93): MOD = dty :: RND :: SAT, SUB = sty
def cvMod (dty rnd : Nat) (sat : Bool) : Nat := dty * 16 + rnd * 2 + bit sat
def cvD (x : XFields) : Option Ty := tyOfCode (x.mod / 16)
def cvS (x : XFields) : Option Ty := tyOfCode x.sub
def cvRnd (x : XFields) : Option Rnd := rndOf (x.mod / 2 % 8)
def cvSat (x : XFields) : Bool := x.mod % 2 == 1
def cvtOf (x : XFields) : Option Cvt := do
  let dty ← cvD x
  let sty ← cvS x
  let rnd ← cvRnd x
  let d ← toFin 256 x.d
  let a ← toFin 256 x.a
  need (noLitX x && x.b == 0 && x.c == 0 && x.imm == 0) (some { dty, sty, rnd, sat := cvSat x, d, a })
def encCvt (o : Cvt) : Fields :=
  encX 0x80 (cvMod (tyCode o.dty) (rndCode o.rnd) o.sat) (tyCode o.sty) o.d.val o.a.val 0 0 0
def qntOf (x : XFields) : Option Qnt := do
  let dty ← cvD x
  let sty ← cvS x
  let rnd ← cvRnd x
  let d ← toFin 256 x.d
  let a ← toFin 256 x.a
  let sc ← toFin 64 x.c
  need (noLitX x && x.b == 0 && x.imm == 0) (some { dty, sty, rnd, sat := cvSat x, d, a, sc })
def encQnt (o : Qnt) : Fields :=
  encX 0x81 (cvMod (tyCode o.dty) (rndCode o.rnd) o.sat) (tyCode o.sty) o.d.val o.a.val 0 o.sc.val 0
def dqntOf (x : XFields) : Option Dqnt := do
  let dty ← cvD x
  let sty ← cvS x
  let rnd ← cvRnd x
  let d ← toFin 256 x.d
  let a ← toFin 256 x.a
  let b ← toFin 256 x.b
  need (noLitX x && x.c == 0 && x.imm == 0) (some { dty, sty, rnd, sat := cvSat x, d, a, b })
def encDqnt (o : Dqnt) : Fields :=
  encX 0x82 (cvMod (tyCode o.dty) (rndCode o.rnd) o.sat) (tyCode o.sty) o.d.val o.a.val o.b.val 0 0
/-- VPACK: C and E are read for the 8-bit elements only. -/
def packOf (x : XFields) : Option Pack := do
  let dty ← cvD x
  let sty ← cvS x
  let rnd ← cvRnd x
  let d ← toFin 256 x.d
  let a ← toFin 256 x.a
  let b ← toFin 256 x.b
  let more ← if tyBytes dty = 1 then do
      let c ← toFin 256 x.c
      let e ← toFin 256 (lowE x)
      need (lowF x == 0 && aux x == 0) (some (some (c, e)))
    else need (x.c == 0 && x.imm == 0) (some none)
  need (noLitX x) (some { dty, sty, rnd, sat := cvSat x, d, a, b, more })
def encPack (o : Pack) : Fields :=
  let ce : Nat × Nat := match o.more with
    | some (c, e) => (c.val, e.val)
    | none => (0, 0)
  encX 0x83 (cvMod (tyCode o.dty) (rndCode o.rnd) o.sat) (tyCode o.sty) o.d.val o.a.val o.b.val ce.1 ce.2
def unpkOf (x : XFields) : Option Unpk := do
  let dty ← cvD x
  let sty ← cvS x
  let d ← toFin 256 x.d
  let a ← toFin 256 x.a
  need (noLitX x && x.mod % 16 == 0 && x.b == 0 && x.c == 0 && x.imm == 0) (some { dty, sty, d, a })
def encUnpk (o : Unpk) : Fields :=
  encX 0x84 (cvMod (tyCode o.dty) 0 false) (tyCode o.sty) o.d.val o.a.val 0 0 0

-- lanes, predicates, reductions (R168-R189)
def wideOf (ty : Nat) : Option Bool :=
  match ty with
  | 6 => some false
  | 7 => some true
  | _ => none
def wideCode (w : Bool) : Nat := if w then 7 else 6
def fillReg (b : Bool) (c : Nat) : Option (Option (Fin 256)) :=
  if b then (toFin 256 c).map some else need (c == 0) (some none)
def fillVal (c : Option (Fin 256)) : Nat := match c with | some c => c.val | none => 0
def shflOf' (x : XFields) : Option Shfl := do
  let wide ← wideOf (x.mod / 16)
  let seg ← toFin 4 (x.mod % 4)
  let d ← toFin 256 x.d
  let a ← toFin 256 x.a
  let b ← vsrcOf (vBsrc x) x.b x.imm
  let c ← fillReg (x.sub / 4 == 1) x.c
  need (noLitX x && decide (x.sub < 8)) (some { mode := shflOf (x.sub % 4), seg, wide, d, a, b, c })
def encShfl (o : Shfl) : Fields :=
  let f := vsrcFields o.b
  encX 0x90 (wideCode o.wide * 16 + f.1 * 4 + o.seg.val) (shflCode o.mode + 4 * bit o.c.isSome)
    o.d.val o.a.val f.2.1 (fillVal o.c) f.2.2
def bcstOf (x : XFields) : Option Bcst := do
  let wide ← wideOf (x.mod / 16)
  let d ← toFin 256 x.d
  let a ← toFin 256 x.a
  let src ← if x.sub % 2 = 1 then need (vBsrc x == 0 && x.b == 0 && x.imm == 0) (some BcstSrc.first)
    else match vBsrc x with
      | 1 => need (x.imm == 0) ((toFin 64 x.b).map BcstSrc.reg)
      | 2 => need (x.b == 0) ((toFin 32 x.imm).map BcstSrc.imm)
      | _ => none
  let c ← fillReg (x.sub / 2 == 1) x.c
  need (noLitX x && x.mod % 4 == 0 && decide (x.sub < 4)) (some { wide, d, a, src, c })
def encBcst (o : Bcst) : Fields :=
  let f : Nat × Nat × Nat × Nat := match o.src with
    | .first => (1, 0, 0, 0)
    | .reg r => (0, 1, r.val, 0)
    | .imm l => (0, 2, 0, l.val)
  encX 0x91 (wideCode o.wide * 16 + f.2.1 * 4) (f.1 + 2 * bit o.c.isSome) o.d.val o.a.val f.2.2.1
    (fillVal o.c) f.2.2.2
def voteOf (x : XFields) : Option Vote := do
  let dst ← match x.sub % 4 with
    | 0 => (toFin 16 x.d).map VoteDst.any
    | 1 => (toFin 16 x.d).map VoteDst.all
    | 2 => (toFin 16 x.d).map VoteDst.uni
    | _ => (toFin 256 x.d).map VoteDst.ballot
  let a ← toFin 16 x.a
  need (noLitX x && x.mod == 0 && decide (x.sub < 8) && x.b == 0 && x.c == 0 && x.imm == 0)
    (some { dst, a, neg := x.sub / 4 == 1 })
def encVote (o : Vote) : Fields :=
  let f : Nat × Nat := match o.dst with
    | .any p => (0, p.val)
    | .all p => (1, p.val)
    | .uni p => (2, p.val)
    | .ballot v => (3, v.val)
  encX 0x92 0 (f.1 + 4 * bit o.neg) f.2 o.a.val 0 0 0
def matchOf (x : XFields) : Option Match := do
  let wide ← wideOf (x.mod / 16)
  let d ← toFin 256 x.d
  let a ← toFin 256 x.a
  need (noLitX x && x.mod % 16 == 0 && x.sub == 0 && x.b == 0 && x.c == 0 && x.imm == 0) (some { wide, d, a })
def encMatch (o : Match) : Fields := encX 0x93 (wideCode o.wide * 16) 0 o.d.val o.a.val 0 0 0
def scanOf (x : XFields) : Option Scan := do
  let ty ← redTyOf (x.mod / 16)
  let seg ← toFin 4 (x.mod % 4)
  let op ← redOpOf (x.sub % 8)
  let d ← toFin 256 x.d
  let a ← toFin 256 x.a
  need (noLitX x && vBsrc x == 0 && decide (x.sub < 16) && x.b == 0 && x.c == 0 && x.imm == 0)
    (some { op, excl := x.sub / 8 == 1, seg, ty, d, a })
def encScan (o : Scan) : Fields :=
  encX 0x94 (redTyCode o.ty * 16 + o.seg.val) (redOpCode o.op + 8 * bit o.excl) o.d.val o.a.val 0 0 0
def redScopeOf (x : XFields) : Option RedScope :=
  match x.mod % 4 with
  | 0 => need (x.imm == 0) (some .band)
  | 1 => need (lowF x == 0) ((toFin 16 (lowE x)).map fun s => .team s (BitVec.ofNat 16 (aux x)))
  | 2 => need (lowF x == 0) ((toFin 16 (lowE x)).map fun s => .cluster s (BitVec.ofNat 16 (aux x)))
  | _ => none
def redOf (x : XFields) : Option Red := do
  let ty ← redTyOf (x.mod / 16)
  let op ← redOpOf x.sub
  let a ← toFin 256 x.a
  let scope ← redScopeOf x
  need (noLitX x && vBsrc x == 0 && x.d == 0 && x.b == 0 && x.c == 0) (some { op, ty, a, scope })
def encRed (o : Red) : Fields :=
  let f : Nat × Nat := match o.scope with
    | .band => (0, 0)
    | .team s n => (1, mkImm n.toNat 0 s.val)
    | .cluster s n => (2, mkImm n.toNat 0 s.val)
  encX 0x95 (redTyCode o.ty * 16 + f.1) (redOpCode o.op) 0 o.a.val 0 0 f.2
def rdwOf (x : XFields) : Option Rdw := do
  let d ← toFin 64 x.d
  let what ← match x.sub with
    | 0 => do
        let n ← regImmOf (vBsrc x - 1) x.b x.imm
        need (x.c == 0 && (vBsrc x == 1 || vBsrc x == 2)) (some (RdwWhat.wait n none))
    | 1 => do
        let n ← regImmOf (vBsrc x - 1) x.b x.imm
        let p ← toFin 16 x.c
        need (vBsrc x == 1 || vBsrc x == 2) (some (RdwWhat.wait n (some p)))
    | 2 => need (vBsrc x == 0 && x.b == 0 && x.c == 0 && x.imm == 0) (some RdwWhat.seq)
    | _ => none
  need (noLitX x && x.mod % 4 == 0 && x.mod / 16 == 0 && x.a == 0) (some { d, what })
def encRdw (o : Rdw) : Fields :=
  match o.what with
  | .seq => encX 0x96 0 2 o.d.val 0 0 0 0
  | .wait n pc =>
    let f := regImmFields n
    let p : Nat × Nat := match pc with
      | some p => (1, p.val)
      | none => (0, 0)
    encX 0x96 ((f.1 + 1) * 4) p.1 o.d.val 0 f.2.1 p.2 f.2.2
def pOp2Of (x : XFields) : Option POp2 := do
  let d ← toFin 16 x.d
  let a ← toFin 16 x.a
  let b ← toFin 16 x.b
  need (noLitX x && x.mod == 0 && decide (x.sub < 4) && x.c == 0 && x.imm == 0)
    (some { na := x.sub % 2 == 1, nb := x.sub / 2 == 1, d, a, b })
def encPOp2 (op : Nat) (o : POp2) : Fields :=
  encX op 0 (bit o.na + 2 * bit o.nb) o.d.val o.a.val o.b.val 0 0
def pOp1Of (x : XFields) : Option POp1 := do
  let d ← toFin 16 x.d
  let a ← toFin 16 x.a
  need (noLitX x && x.mod == 0 && decide (x.sub < 2) && x.b == 0 && x.c == 0 && x.imm == 0)
    (some { na := x.sub == 1, d, a })
def encPOp1 (o : POp1) : Fields := encX 0x9A 0 (bit o.na) o.d.val o.a.val 0 0 0
def ptovOf (x : XFields) : Option Ptov := do
  let d ← toFin 256 x.d
  let a ← toFin 16 x.a
  need (noLitX x && x.mod == 0 && decide (x.sub < 2) && x.b == 0 && x.c == 0 && x.imm == 0)
    (some { ones := x.sub == 1, d, a })
def encPtov (o : Ptov) : Fields := encX 0x9B 0 (bit o.ones) o.d.val o.a.val 0 0 0
def vtopOf (x : XFields) : Option Vtop := do
  let wide ← wideOf (x.mod / 16)
  let d ← toFin 16 x.d
  let a ← toFin 256 x.a
  need (noLitX x && x.mod % 16 == 0 && x.sub == 0 && x.b == 0 && x.c == 0 && x.imm == 0) (some { wide, d, a })
def encVtop (o : Vtop) : Fields := encX 0x9C (wideCode o.wide * 16) 0 o.d.val o.a.val 0 0 0
def ppopcOf (x : XFields) : Option Ppopc := do
  let d ← toFin 64 x.d
  let a ← toFin 16 x.a
  need (noLitX x && x.mod == 0 && decide (x.sub < 2) && x.b == 0 && x.c == 0 && x.imm == 0)
    (some { neg := x.sub == 1, d, a })
def encPpopc (o : Ppopc) : Fields := encX 0x9D 0 (bit o.neg) o.d.val o.a.val 0 0 0

-- memory (R249)
def ldOf (x : XFields) : Option Ld := do
  let w ← widthOf (mW x)
  let acq ← accScope 1 x
  let d ← toFin 256 x.d
  let mem ← memOf x.a x.b (mIx x) (mSp x) x.imm
  need (noLitX x && mVar x == 0 && x.c == 0) (some { w, acq, ch := hintOf (mCh x), d, mem })
def encLd (o : Ld) : Fields :=
  encX 0xA0 (mMod (bit o.acq.isSome) (scopeOpt o.acq) (hintCode o.ch) (widthCode o.w))
    (mSub (memIx o.mem) (bit o.mem.stash) 0) o.d.val o.mem.base.val (memB o.mem) 0 o.mem.off.toNat
def stOf (x : XFields) : Option St := do
  let w ← widthOf (mW x)
  let rel ← accScope 2 x
  let mem ← memOf x.a x.b (mIx x) (mSp x) x.imm
  let c ← toFin 256 x.c
  need (noLitX x && mVar x == 0 && x.d == 0) (some { w, rel, ch := hintOf (mCh x), mem, c })
def encSt (o : St) : Fields :=
  encX 0xA1 (mMod (2 * bit o.rel.isSome) (scopeOpt o.rel) (hintCode o.ch) (widthCode o.w))
    (mSub (memIx o.mem) (bit o.mem.stash) 0) 0 o.mem.base.val (memB o.mem) o.c.val o.mem.off.toNat
def sldOf (x : XFields) : Option Sld := do
  let w ← widthOf (mW x)
  let acq ← accScope 1 x
  let d ← toFin 64 x.d
  let a ← toFin 64 x.a
  need (noLitX x && mVar x == 0 && mIx x == 0 && x.b == 0 && x.c == 0)
    (some { w, acq, ch := hintOf (mCh x), d, a, off := word x.imm, stash := mSp x == 1 })
def encSld (o : Sld) : Fields :=
  encX 0xA2 (mMod (bit o.acq.isSome) (scopeOpt o.acq) (hintCode o.ch) (widthCode o.w))
    (mSub 0 (bit o.stash) 0) o.d.val o.a.val 0 0 o.off.toNat
def sstOf (x : XFields) : Option Sst := do
  let w ← widthOf (mW x)
  let rel ← accScope 2 x
  let a ← toFin 64 x.a
  let c ← toFin 64 x.c
  need (noLitX x && mVar x == 0 && mIx x == 0 && x.b == 0 && x.d == 0)
    (some { w, rel, ch := hintOf (mCh x), a, off := word x.imm, stash := mSp x == 1, c })
def encSst (o : Sst) : Fields :=
  encX 0xA3 (mMod (2 * bit o.rel.isSome) (scopeOpt o.rel) (hintCode o.ch) (widthCode o.w))
    (mSub 0 (bit o.stash) 0) 0 o.a.val 0 o.c.val o.off.toNat
def ldnOf (x : XFields) : Option Ldn := do
  let w ← widthOf (mW x)
  let d ← toFin 256 x.d
  let mem ← memOf x.a x.b (mIx x) (mSp x) x.imm
  let pc ← toFin 16 x.c
  need (noLitX x && mVar x == 0 && mOrd x == 0 && mSc x == 0) (some { w, ch := hintOf (mCh x), d, mem, pc })
def encLdn (o : Ldn) : Fields :=
  encX 0xA4 (mMod 0 0 (hintCode o.ch) (widthCode o.w)) (mSub (memIx o.mem) (bit o.mem.stash) 0)
    o.d.val o.mem.base.val (memB o.mem) o.pc.val o.mem.off.toNat
def prefOf (x : XFields) : Option Pref := do
  let mem ← memOf x.a x.b (mIx x) (mSp x) x.imm
  need (noLitX x && decide (mVar x < 2) && mOrd x == 0 && mSc x == 0 && mW x == 0 && x.d == 0 && x.c == 0)
    (some { cc := mVar x == 1, ch := hintOf (mCh x), mem })
def encPref (o : Pref) : Fields :=
  encX 0xA5 (mMod 0 0 (hintCode o.ch) 0) (mSub (memIx o.mem) (bit o.mem.stash) (bit o.cc))
    0 o.mem.base.val (memB o.mem) 0 o.mem.off.toNat
def cleanOf (x : XFields) : Option Clean := do
  let sc ← scopeOf (mSc x)
  let what ← match mVar x with
    | 0 => do
        let mem ← memOf x.a x.b (mIx x) (mSp x) x.imm
        need (x.c == 0) (some (CleanWhat.lines mem))
    | 1 => do
        let a ← toFin 64 x.a
        let c ← toFin 64 x.c
        need (x.b == 0 && mIx x == 0 && mSp x == 0) (some (CleanWhat.range a (word x.imm) c))
    | 2 => need (x.a == 0 && x.b == 0 && x.c == 0 && x.imm == 0 && mIx x == 0 && mSp x == 0) (some .all)
    | _ => none
  need (noLitX x && mOrd x == 0 && mCh x == 0 && mW x == 0 && x.d == 0) (some { sc, what })
def encClean (op : Nat) (o : Clean) : Fields :=
  let m := mMod 0 (scopeCode o.sc) 0 0
  match o.what with
  | .lines mem => encX op m (mSub (memIx mem) (bit mem.stash) 0) 0 mem.base.val (memB mem) 0 mem.off.toNat
  | .range a off c => encX op m 1 0 a.val 0 c.val off.toNat
  | .all => encX op m 2 0 0 0 0 0
def pinOf (x : XFields) : Option Pin := do
  let pd ← toFin 16 x.d
  let a ← toFin 64 x.a
  need (noLitX x && x.mod == 0 && x.sub == 0 && x.b == 0 && x.c == 0) (some { pd, a, off := word x.imm })
def encPin (o : Pin) : Fields := encX 0xA8 0 0 o.pd.val o.a.val 0 0 o.off.toNat
def pageOpOf (x : XFields) : Option PageOp := do
  let a ← toFin 64 x.a
  need (noLitX x && x.mod == 0 && x.sub == 0 && x.d == 0 && x.b == 0 && x.c == 0) (some { a, off := word x.imm })
def encPageOp (op : Nat) (o : PageOp) : Fields := encX op 0 0 0 o.a.val 0 0 o.off.toNat
def pgreqOf (x : XFields) : Option Pgreq := do
  let pd ← toFin 16 x.d
  let mem ← memOf x.a x.b (mIx x) (mSp x) x.imm
  need (noLitX x && x.mod == 0 && decide (mVar x < 2) && x.c == 0) (some { wait := mVar x == 1, pd, mem })
def encPgreq (o : Pgreq) : Fields :=
  encX 0xAB 0 (mSub (memIx o.mem) (bit o.mem.stash) (bit o.wait)) o.pd.val o.mem.base.val (memB o.mem) 0
    o.mem.off.toNat
def mapwOf (x : XFields) : Option Mapw := do
  let m ← toFin 16 x.d
  let c ← toFin 64 x.c
  let win ← match x.sub with
    | 0 => need (x.a == 0 && x.imm == 0) (some none)
    | 1 => (toFin 64 x.a).map fun a => some (a, word x.imm)
    | _ => none
  need (noLitX x && x.mod == 0 && x.b == 0) (some { m, c, win })
def encMapw (o : Mapw) : Fields :=
  match o.win with
  | none => encX 0xAC 0 0 o.m.val 0 0 o.c.val 0
  | some (a, off) => encX 0xAC 0 1 o.m.val a.val 0 o.c.val off.toNat
def mapOpOf (x : XFields) : Option MapOp := do
  let m ← toFin 16 x.d
  need (noLitX x && x.mod == 0 && x.sub == 0 && x.a == 0 && x.b == 0 && x.c == 0 && x.imm == 0) (some { m })
def encMapOp (op : Nat) (o : MapOp) : Fields := encX op 0 0 o.m.val 0 0 0 0

-- ordering (R277-R286)
def fenceOf' (x : XFields) : Option Fence := do
  let kind ← fenceOf (mOrd x) x.sub
  let sc ← scopeOf (mSc x)
  need (noLitX x && x.mod % 32 == 0 && x.d == 0 && x.a == 0 && x.b == 0 && x.c == 0 && x.imm == 0)
    (some { kind, sc })
def encFence (o : Fence) : Fields :=
  encX 0xAF (mMod (fenceCode o.kind).1 (scopeCode o.sc) 0 0) (fenceCode o.kind).2 0 0 0 0 0
def kbindOf (x : XFields) : Option Kbind := do
  let k ← toFin 64 x.d
  let a ← toFin 64 x.a
  let c ← toFin 64 x.c
  need (noLitX x && x.mod == 0 && x.sub == 0 && x.b == 0) (some { k, a, c, granules := word x.imm })
def encKbind (o : Kbind) : Fields := encX 0xB0 0 0 o.k.val o.a.val 0 o.c.val o.granules.toNat
def kfreeOf (x : XFields) : Option Kfree := do
  let k ← toFin 64 x.d
  need (noLitX x && x.mod == 0 && x.sub == 0 && x.a == 0 && x.b == 0 && x.c == 0 && x.imm == 0) (some { k })
def encKfree (o : Kfree) : Fields := encX 0xB1 0 0 o.k.val 0 0 0 0
def scOnly (x : XFields) : Option Scope := need (x.mod % 32 == 0 && mOrd x == 0) (scopeOf (mSc x))
def kacqOf (x : XFields) : Option Kacq := do
  let sc ← scOnly x
  let d ← toFin 64 x.d
  let k ← toFin 64 x.a
  let wait ← match x.sub with
    | 0 => need (x.c == 0) (some none)
    | 1 => (toFin 64 x.c).map some
    | _ => none
  need (noLitX x && x.b == 0 && x.imm == 0) (some { sc, d, k, wait })
def encKacq (o : Kacq) : Fields :=
  let w : Nat × Nat := match o.wait with
    | some c => (1, c.val)
    | none => (0, 0)
  encX 0xB2 (mMod 0 (scopeCode o.sc) 0 0) w.1 o.d.val o.k.val 0 w.2 0
def krelOf (x : XFields) : Option Krel := do
  let sc ← scOnly x
  let k ← toFin 64 x.a
  let ret ← match x.sub with
    | 0 => need (x.d == 0) (some none)
    | 1 => (toFin 64 x.d).map some
    | _ => none
  need (noLitX x && x.b == 0 && x.c == 0 && x.imm == 0) (some { sc, k, ret })
def encKrel (o : Krel) : Fields :=
  let r : Nat × Nat := match o.ret with
    | some d => (1, d.val)
    | none => (0, 0)
  encX 0xB3 (mMod 0 (scopeCode o.sc) 0 0) r.1 r.2 o.k.val 0 0 0
def latgOf (x : XFields) : Option Latg := do
  let a ← toFin 64 x.a
  need (noLitX x && x.mod == 0 && x.sub == 0 && x.d == 0 && x.b == 0 && x.c == 0)
    (some { a, count := word x.imm })
def encLatg (o : Latg) : Fields := encX 0xB4 0 0 0 o.a.val 0 0 o.count.toNat
/-- SC of the waits: 0, or 2 for .cluster. -/
def clusterOf (m : Nat) : Option Bool :=
  if m = 0 then some false else if m = 64 then some true else none
def clusterMod (c : Bool) : Nat := if c then 64 else 0
def latwOf (x : XFields) : Option Latw := do
  let cluster ← clusterOf x.mod
  let a ← toFin 64 x.a
  need (noLitX x && x.sub == 0 && x.d == 0 && x.b == 0 && x.c == 0) (some { cluster, a, count := word x.imm })
def encLatw (o : Latw) : Fields := encX 0xB5 (clusterMod o.cluster) 0 0 o.a.val 0 0 o.count.toNat

-- atomics and tumblers (R297, R302)
def wideW (w : Nat) : Option Bool :=
  match w with
  | 2 => some false
  | 3 => some true
  | _ => none
def widthW (w : Bool) : Nat := if w then 3 else 2
def atomOf (x : XFields) : Option Atom := do
  let op ← atomOpOf (mVar x)
  let wide ← wideW (mW x)
  let sc ← scopeOf (mSc x)
  let d ← toFin 256 x.d
  let mem ← memOf x.a x.b (mIx x) (mSp x) x.imm
  let c ← toFin 256 x.c
  need (noLitX x) (some { op, wide, ord := orderOf (mOrd x), sc, ch := hintOf (mCh x), d, mem, c })
def encAtom (o : Atom) : Fields :=
  encX 0xB6 (mMod (orderCode o.ord) (scopeCode o.sc) (hintCode o.ch) (widthW o.wide))
    (mSub (memIx o.mem) (bit o.mem.stash) (atomOpCode o.op)) o.d.val o.mem.base.val (memB o.mem) o.c.val
    o.mem.off.toNat
def atomfOf (x : XFields) : Option Atomf := do
  let op ← atomfOpOf (mVar x)
  let ty ← atomfTyOf (mW x)
  let sc ← scopeOf (mSc x)
  let d ← toFin 256 x.d
  let mem ← memOf x.a x.b (mIx x) (mSp x) x.imm
  let c ← toFin 256 x.c
  need (noLitX x) (some { op, ty, ord := orderOf (mOrd x), sc, ch := hintOf (mCh x), d, mem, c })
def encAtomf (o : Atomf) : Fields :=
  encX 0xB7 (mMod (orderCode o.ord) (scopeCode o.sc) (hintCode o.ch) (atomfTyCode o.ty))
    (mSub (memIx o.mem) (bit o.mem.stash) (atomfOpCode o.op)) o.d.val o.mem.base.val (memB o.mem) o.c.val
    o.mem.off.toNat
def casOf (x : XFields) : Option Cas := do
  let wide ← wideW (mW x)
  let sc ← scopeOf (mSc x)
  let d ← toFin 256 x.d
  let mem ← memOf x.a x.b (mIx x) (mSp x) x.imm
  let c ← toFin 256 x.c
  need (noLitX x && mVar x == 0) (some { wide, ord := orderOf (mOrd x), sc, ch := hintOf (mCh x), d, mem, c })
def encCas (o : Cas) : Fields :=
  encX 0xB8 (mMod (orderCode o.ord) (scopeCode o.sc) (hintCode o.ch) (widthW o.wide))
    (mSub (memIx o.mem) (bit o.mem.stash) 0) o.d.val o.mem.base.val (memB o.mem) o.c.val o.mem.off.toNat
def cas2Of (x : XFields) : Option Cas2 := do
  let sc ← scopeOf (mSc x)
  let d ← toFin 256 x.d
  let mem ← memOf x.a x.b (mIx x) (mSp x) x.imm
  let c ← toFin 256 x.c
  need (noLitX x && mVar x == 0 && mW x == 6) (some { ord := orderOf (mOrd x), sc, ch := hintOf (mCh x), d, mem, c })
def encCas2 (o : Cas2) : Fields :=
  encX 0xB9 (mMod (orderCode o.ord) (scopeCode o.sc) (hintCode o.ch) 6)
    (mSub (memIx o.mem) (bit o.mem.stash) 0) o.d.val o.mem.base.val (memB o.mem) o.c.val o.mem.off.toNat
def tinitOf (x : XFields) : Option Tinit := do
  let t ← toFin 24 x.d
  let v ← match x.sub with
    | 0 => need (x.c == 0) (some (RegImm.imm (word x.imm)))
    | 1 => need (x.imm == 0) ((toFin 64 x.c).map RegImm.reg)
    | _ => none
  need (noLitX x && x.mod == 0 && x.a == 0 && x.b == 0) (some { t, v })
def encTinit (o : Tinit) : Fields :=
  match o.v with
  | .imm v => encX 0xBA 0 0 o.t.val 0 0 0 v.toNat
  | .reg c => encX 0xBA 0 1 o.t.val 0 0 c.val 0
def tarvOf (x : XFields) : Option Tarv := do
  let cluster ← clusterOf x.mod
  let t ← toFin 24 x.d
  let count ← match x.sub with
    | 0 => need (decide (x.imm < 65536)) (some (some (BitVec.ofNat 16 x.imm)))
    | 1 => need (x.imm == 0) (some none)
    | _ => none
  need (noLitX x && x.a == 0 && x.b == 0 && x.c == 0) (some { cluster, t, count })
def encTarv (o : Tarv) : Fields :=
  match o.count with
  | some n => encX 0xBB (clusterMod o.cluster) 0 o.t.val 0 0 0 n.toNat
  | none => encX 0xBB (clusterMod o.cluster) 1 o.t.val 0 0 0 0
def parityOf (imm : Nat) : Option Bool :=
  match imm with
  | 0 => some false
  | 1 => some true
  | _ => none
def twaitOf (x : XFields) : Option Twait := do
  let cluster ← clusterOf x.mod
  let t ← toFin 24 x.d
  let parity ← match x.sub with
    | 0 => need (x.imm == 0) (some none)
    | 1 => (parityOf x.imm).map some
    | _ => none
  need (noLitX x && x.a == 0 && x.b == 0 && x.c == 0) (some { cluster, t, parity })
def encTwait (o : Twait) : Fields :=
  match o.parity with
  | none => encX 0xBC (clusterMod o.cluster) 0 o.t.val 0 0 0 0
  | some b => encX 0xBC (clusterMod o.cluster) 1 o.t.val 0 0 0 (bit b)
def ttestOf (x : XFields) : Option Ttest := do
  let t ← toFin 24 x.d
  let what ← match x.sub with
    | 0 => need (x.imm == 0) ((toFin 16 x.c).map fun p => TtestWhat.test p none)
    | 1 => do
        let p ← toFin 16 x.c
        let b ← parityOf x.imm
        pure (TtestWhat.test p (some b))
    | 2 => need (x.imm == 0) ((toFin 64 x.c).map TtestWhat.phase)
    | _ => none
  need (noLitX x && x.mod == 0 && x.a == 0 && x.b == 0) (some { t, what })
def encTtest (o : Ttest) : Fields :=
  match o.what with
  | .test p none => encX 0xBD 0 0 o.t.val 0 0 p.val 0
  | .test p (some b) => encX 0xBD 0 1 o.t.val 0 0 p.val (bit b)
  | .phase s => encX 0xBD 0 2 o.t.val 0 0 s.val 0

-- matrix and tile (R319-R335): MOD = AST, BST, ADIR, BDIR, BSC, then [4:0]; SUB = TY
def mTy (x : XFields) : Option Ty := tyOfCode x.sub
/-- A multiplicand: a stash operand with its pack register and direction, or a vector block (R320). -/
def mcandOf (st dir r e : Nat) : Option Mcand :=
  match st with
  | 0 => need (dir == 0 && e == 0) ((toFin 256 r).map .vec)
  | _ => do
    let base ← toFin 64 r
    let pack ← toFin 64 e
    pure (.stash base pack (dir == 1))
/-- AST or BST, the direction, the register and its pack register. -/
def mcandFields : Mcand → Nat × Nat × Nat × Nat
  | .vec r => (0, 0, r.val, 0)
  | .stash b p t => (1, bit t, b.val, p.val)
def mmaMod (a b : Nat × Nat × Nat × Nat) (bsc low : Nat) : Nat :=
  a.1 * 512 + b.1 * 256 + a.2.1 * 128 + b.2.1 * 64 + bsc * 32 + low
def mmaOf (x : XFields) : Option Mma := do
  let ty ← mTy x
  let d ← toFin 16 x.d
  let c ← toFin 16 x.c
  let a ← mcandOf (x.mod / 512) (x.mod / 128 % 2) x.a (lowE x)
  let b ← mcandOf (x.mod / 256 % 2) (x.mod / 64 % 2) x.b (lowF x)
  let scales ← if x.mod / 32 % 2 = 0 then need (aux x == 0) (some none)
    else some (some (BitVec.ofNat 8 (aux x % 256), BitVec.ofNat 8 (aux x / 256)))
  need (noLitX x && x.mod % 32 == 0) (some { ty, d, a, b, c, scales })
def encMma (o : Mma) : Fields :=
  let fa := mcandFields o.a
  let fb := mcandFields o.b
  let s : Nat × Nat := match o.scales with
    | some (p, q) => (1, p.toNat + q.toNat * 256)
    | none => (0, 0)
  encX 0xC0 (mmaMod fa fb s.1 0) (tyCode o.ty) o.d.val fa.2.2.1 fb.2.2.1 o.c.val
    (mkImm s.2 fb.2.2.2 fa.2.2.2)
def mmasOf (x : XFields) : Option Mmas := do
  let ty ← mTy x
  let pat ← sparOf (x.mod % 32)
  let d ← toFin 16 x.d
  let c ← toFin 16 x.c
  let a ← mcandOf (x.mod / 512) (x.mod / 128 % 2) x.a (lowE x)
  let b ← mcandOf (x.mod / 256 % 2) (x.mod / 64 % 2) x.b (lowF x)
  let sm ← toFin 64 (aux x)
  need (noLitX x && x.mod / 32 % 2 == 0) (some { pat, ty, d, a, b, c, sm })
def encMmas (o : Mmas) : Fields :=
  let fa := mcandFields o.a
  let fb := mcandFields o.b
  encX 0xC1 (mmaMod fa fb 0 (sparCode o.pat)) (tyCode o.ty) o.d.val fa.2.2.1 fb.2.2.1 o.c.val
    (mkImm o.sm.val fb.2.2.2 fa.2.2.2)
def tileGOf (x : XFields) : Option TileG := do
  let d ← toFin 16 x.d
  need (noLitX x && x.mod == 0 && x.sub == 0 && x.a == 0 && x.b == 0 && x.c == 0 && x.imm == 0) (some { d })
def encTileG (o : TileG) : Fields := encX 0xC2 0 0 o.d.val 0 0 0 0
def tfillOf (x : XFields) : Option Tfill := do
  let ty ← fillOf x.sub
  let d ← toFin 16 x.d
  let v ← match x.lit with
    | some l => need (x.mod == 0 && x.b == 0 && x.imm == 0) (some (FillSrc.lit (dword l)))
    | none => match x.mod with
      | 0 => need (x.b == 0) (some (FillSrc.imm (word x.imm)))
      | 1 => need (x.imm == 0) ((toFin 64 x.b).map FillSrc.reg)
      | _ => none
  need (x.a == 0 && x.c == 0) (some { ty, d, v })
def encTfill (o : Tfill) : Fields :=
  match o.v with
  | .reg b => encX 0xC3 1 (fillCode o.ty) o.d.val 0 b.val 0 0
  | .imm v => encX 0xC3 0 (fillCode o.ty) o.d.val 0 0 0 v.toNat
  | .lit v => encX 0xC3 0 (fillCode o.ty) o.d.val 0 0 0 0 (some v.toNat)
def tidentOf (x : XFields) : Option Tident := do
  let ty ← mTy x
  let dst ← match x.mod with
    | 0 => need (x.a == 0) ((toFin 16 x.d).map IdentDst.tile)
    | 1 => need (x.d == 0) ((toFin 64 x.a).map IdentDst.stash)
    | _ => none
  need (noLitX x && x.b == 0 && x.c == 0 && x.imm == 0) (some { ty, dst })
def encTident (o : Tident) : Fields :=
  match o.dst with
  | .tile d => encX 0xC4 0 (tyCode o.ty) d.val 0 0 0 0
  | .stash a => encX 0xC4 1 (tyCode o.ty) 0 a.val 0 0 0
def tldOf (x : XFields) : Option Tld := do
  let w ← tileWOf x.sub
  let d ← toFin 16 x.d
  let a ← toFin 64 x.a
  let pack ← toFin 64 x.imm
  need (noLitX x && (x.mod == 0 || x.mod == 128) && x.b == 0 && x.c == 0)
    (some { w, transposed := x.mod == 128, d, a, pack })
def encTld (o : Tld) : Fields :=
  encX 0xC5 (128 * bit o.transposed) (tileWCode o.w) o.d.val o.a.val 0 0 o.pack.val
def tstOf (x : XFields) : Option Tst := do
  let w ← tileWOf x.sub
  let a ← toFin 64 x.a
  let pack ← toFin 64 x.imm
  let c ← toFin 16 x.c
  need (noLitX x && (x.mod == 0 || x.mod == 128) && x.b == 0 && x.d == 0)
    (some { w, transposed := x.mod == 128, a, pack, c })
def encTst (o : Tst) : Fields :=
  encX 0xC6 (128 * bit o.transposed) (tileWCode o.w) 0 o.a.val 0 o.c.val o.pack.val
/-- TMOVV has D = vd and A = ta; TMOVT has D = td and A = va (R327). -/
def tmovOf (v t : Nat) (x : XFields) : Option Tmov := do
  let v ← toFin 256 v
  let t ← toFin 16 t
  let col ← toFin 32 (lowE x)
  let count ← toFin 33 (lowF x)
  need (noLitX x && x.mod == 0 && x.sub == 6 && x.b == 0 && x.c == 0 && aux x == 0) (some { v, t, col, count })
def encTmovv (o : Tmov) : Fields := encX 0xC7 0 6 o.v.val o.t.val 0 0 (mkImm 0 o.count.val o.col.val)
def encTmovt (o : Tmov) : Fields := encX 0xC8 0 6 o.t.val o.v.val 0 0 (mkImm 0 o.count.val o.col.val)
def tclsOf (x : XFields) : Option Tcls := do
  let d ← toFin 64 x.d
  let src ← match x.mod with
    | 0 => (toFin 16 x.a).map ClsSrc.tile
    | 1 => (toFin 64 x.a).map ClsSrc.slot
    | _ => none
  need (noLitX x && x.sub == 0 && x.b == 0 && x.c == 0 && x.imm == 0) (some { d, src })
def encTcls (o : Tcls) : Fields :=
  match o.src with
  | .tile a => encX 0xC9 0 0 o.d.val a.val 0 0 0
  | .slot a => encX 0xC9 1 0 o.d.val a.val 0 0 0
def scldOf (x : XFields) : Option Scld := do
  let a ← toFin 64 x.a
  let col ← toFin 512 (x.imm % 65536)
  let count ← toFin 513 (x.imm / 65536)
  need (noLitX x && x.mod == 0 && x.sub == 0 && x.d == 0 && x.b == 0 && x.c == 0) (some { a, col, count })
def encScld (o : Scld) : Fields :=
  encX 0xCA 0 0 0 o.a.val 0 0 (o.col.val + o.count.val * 65536)
def ttopkOf (x : XFields) : Option Ttopk := do
  let int ← match x.sub with
    | 10 => some false
    | 2 => some true
    | _ => none
  let d ← toFin 16 x.d
  let a ← toFin 16 x.a
  let c ← toFin 16 x.c
  let k ← toFin 33 x.imm
  need (noLitX x && x.mod == 0 && x.b == 0) (some { int, d, a, c, k })
def encTtopk (o : Ttopk) : Fields :=
  encX 0xCB 0 (if o.int then 2 else 10) o.d.val o.a.val 0 o.c.val o.k.val
def taccOf (x : XFields) : Option Tacc := do
  let ty ← accOf x.sub
  let rnd ← rndOf x.mod
  let d ← toFin 16 x.d
  let a ← toFin 16 x.a
  let b ← toFin 16 x.b
  need (noLitX x && x.c == 0 && x.imm == 0) (some { ty, rnd, d, a, b })
def encTacc (o : Tacc) : Fields := encX 0xCC (rndCode o.rnd) (accCode o.ty) o.d.val o.a.val o.b.val 0 0
def tsclOf (x : XFields) : Option Tscl := do
  let rnd ← rndOf (x.mod % 8)
  let d ← toFin 16 x.d
  let a ← toFin 16 x.a
  let src ← match x.mod / 8 with
    | 0 => need (x.imm == 0) ((toFin 64 x.b).map SclSrc.sca)
    | 1 => need (x.b == 0) (some (SclSrc.imm (word x.imm)))
    | 2 => need (x.imm == 0) ((toFin 256 x.b).map SclSrc.vec)
    | _ => none
  need (noLitX x && x.sub == 10 && x.c == 0) (some { rnd, d, a, src })
def encTscl (o : Tscl) : Fields :=
  let f : Nat × Nat × Nat := match o.src with
    | .sca b => (0, b.val, 0)
    | .imm v => (1, 0, v.toNat)
    | .vec b => (2, b.val, 0)
  encX 0xCD (f.1 * 8 + rndCode o.rnd) 10 o.d.val o.a.val f.2.1 0 f.2.2
def tcvtOf (x : XFields) : Option Tcvt := do
  let dty ← mTy x
  let rnd ← rndOf (x.mod % 8)
  let d ← toFin 16 x.d
  let a ← toFin 16 x.a
  need (noLitX x && decide (x.mod < 32) && x.b == 0 && x.c == 0 && x.imm == 0)
    (some { dty, int := x.mod / 16 == 1, rnd, sat := x.mod / 8 % 2 == 1, d, a })
def encTcvt (o : Tcvt) : Fields :=
  encX 0xCE (bit o.int * 16 + bit o.sat * 8 + rndCode o.rnd) (tyCode o.dty) o.d.val o.a.val 0 0 0

-- engines (R363, R386, R393): MOD = CHN << 8 | SC << 5
def eChn (x : XFields) : Option (Fin 4) := need (x.mod % 256 == 0) (toFin 4 (x.mod / 256))
def descIdOf (sub b imm : Nat) : Option DescId :=
  match sub with
  | 0 => need (b == 0) ((toFin 1024 imm).map .imm)
  | 1 => need (imm == 0) ((toFin 64 b).map .reg)
  | _ => none
def descIdFields : DescId → Nat × Nat × Nat
  | .imm i => (0, 0, i.val)
  | .reg b => (1, b.val, 0)
def tdOf (x : XFields) : Option Td := do
  let a ← toFin 64 x.a
  let id ← descIdOf x.sub x.b x.imm
  need (noLitX x && x.mod == 0 && x.d == 0 && x.c == 0) (some { a, id })
def encTd (op : Nat) (o : Td) : Fields :=
  let f := descIdFields o.id
  encX op 0 f.1 0 o.a.val f.2.1 0 f.2.2
def tdinvOf (x : XFields) : Option Tdinv := do
  let id ← descIdOf x.sub x.b x.imm
  need (noLitX x && x.mod == 0 && x.d == 0 && x.a == 0 && x.c == 0) (some { id })
def encTdinv (o : Tdinv) : Fields :=
  let f := descIdFields o.id
  encX 0xE2 0 f.1 0 0 f.2.1 0 f.2.2
def cpostOf (x : XFields) : Option Cpost := do
  let chn ← eChn x
  let d ← toFin 64 x.d
  let a ← toFin 64 x.a
  let b ← toFin 64 x.b
  let c ← toFin 64 x.c
  let e ← toFin 64 (lowE x)
  let desc ← toFin 1024 (aux x)
  let tumb ← match x.sub / 2 with
    | 0 => need (lowF x == 0) (some none)
    | 1 => (toFin 24 (lowF x)).map some
    | _ => none
  need (noLitX x) (some { chn, store := x.sub % 2 == 1, d, desc, a, b, c, e, tumb })
def encCpost (o : Cpost) : Fields :=
  let t : Nat × Nat := match o.tumb with
    | some t => (1, t.val)
    | none => (0, 0)
  encX 0xD8 (o.chn.val * 256) (bit o.store + 2 * t.1) o.d.val o.a.val o.b.val o.c.val
    (mkImm o.desc.val t.2 o.e.val)
def gpostOf (x : XFields) : Option Gpost := do
  let chn ← eChn x
  let d ← toFin 64 x.d
  let a ← toFin 64 x.a
  let b ← toFin 256 x.b
  let c ← toFin 64 x.c
  let e ← toFin 64 (lowE x)
  let t ← toFin 24 (lowF x)
  let desc ← toFin 1024 (aux x)
  need (noLitX x && x.sub == 0) (some { chn, d, desc, a, b, c, e, t })
def encGpost (op : Nat) (o : Gpost) : Fields :=
  encX op (o.chn.val * 256) 0 o.d.val o.a.val o.b.val o.c.val (mkImm o.desc.val o.t.val o.e.val)
def vremapOf (x : XFields) : Option Vremap := do
  let chn ← eChn x
  let mode ← match x.sub with
    | 0 => need (x.a == 0 && x.b == 0) (some RemapMode.none)
    | 1 => need (x.b == 0) ((toFin 64 x.a).map RemapMode.mod)
    | 2 => do
        let a ← toFin 64 x.a
        let b ← toFin 64 x.b
        pure (RemapMode.hash a b)
    | 3 => do
        let a ← toFin 64 x.a
        let b ← toFin 64 x.b
        pure (RemapMode.tab a b)
    | _ => Option.none
  need (noLitX x && x.d == 0 && x.c == 0 && x.imm == 0) (some { chn, mode })
def encVremap (o : Vremap) : Fields :=
  let f : Nat × Nat × Nat := match o.mode with
    | .none => (0, 0, 0)
    | .mod a => (1, a.val, 0)
    | .hash a b => (2, a.val, b.val)
    | .tab a b => (3, a.val, b.val)
  encX 0xDB (o.chn.val * 256) f.1 0 f.2.1 f.2.2 0 0
def eChnCl (x : XFields) : Option (Fin 4 × Bool) := do
  let chn ← toFin 4 (x.mod / 256)
  let cl ← clusterOf (x.mod % 256)
  pure (chn, cl)
def cwaitOf (x : XFields) : Option Cwait := do
  let cc ← eChnCl x
  let b ← toFin 64 x.b
  need (noLitX x && x.sub == 0 && x.d == 0 && x.a == 0 && x.c == 0 && x.imm == 0)
    (some { chn := cc.1, cluster := cc.2, b })
def encCwait (o : Cwait) : Fields := encX 0xDC (o.chn.val * 256 + clusterMod o.cluster) 0 0 0 o.b.val 0 0
def cseqOf (x : XFields) : Option Cseq := do
  let cc ← eChnCl x
  let d ← toFin 64 x.d
  need (noLitX x && x.sub == 0 && x.a == 0 && x.b == 0 && x.c == 0 && x.imm == 0)
    (some { chn := cc.1, cluster := cc.2, d })
def encCseq (o : Cseq) : Fields := encX 0xDD (o.chn.val * 256 + clusterMod o.cluster) 0 o.d.val 0 0 0 0
def cqryOf (x : XFields) : Option Cqry := do
  let chn ← eChn x
  let d ← toFin 64 x.d
  need (noLitX x && x.sub == 0 && x.a == 0 && x.b == 0 && x.c == 0 && x.imm == 0) (some { chn, d })
def encCqry (o : Cqry) : Fields := encX 0xDE (o.chn.val * 256) 0 o.d.val 0 0 0 0
def mpostOf (x : XFields) : Option Mpost := do
  let chn ← eChn x
  let d ← toFin 64 x.d
  let a ← toFin 64 x.a
  let c ← toFin 64 x.c
  let home ← toFin 32 x.imm
  need (noLitX x && x.sub == 0 && x.b == 0) (some { chn, d, a, c, home })
def encMpost (o : Mpost) : Fields := encX 0xDF (o.chn.val * 256) 0 o.d.val o.a.val 0 o.c.val o.home.val
/-- SC of the collectives: 4, or 5 for .system. -/
def colSc (x : XFields) : Option Bool :=
  if x.mod = 128 then some false else if x.mod = 160 then some true else none
def colMod (system : Bool) : Nat := if system then 160 else 128
def xredOf (x : XFields) : Option Xred := do
  let system ← colSc x
  let comm ← toFin 64 (lowE x)
  let t ← tumbOf (lowF x)
  let ty ← tyOfCode (aux x % 64)
  let op ← redOpOf (aux x / 64)
  let a ← toFin 64 x.a
  let b ← toFin 64 x.b
  let c ← toFin 64 x.c
  need (noLitX x && x.d == 0) (some { system, comm, op, ty, a, b, c, t })
def encXred (o : Xred) : Fields :=
  encX 0xE3 (colMod o.system) 0 0 o.a.val o.b.val o.c.val
    (mkImm (tyCode o.ty + redOpCode o.op * 64) (tumbCode o.t) o.comm.val)
def xgthOf (x : XFields) : Option Xgth := do
  let system ← colSc x
  let comm ← toFin 64 (lowE x)
  let t ← tumbOf (lowF x)
  let ty ← tyOfCode (aux x)
  let a ← toFin 64 x.a
  let b ← toFin 64 x.b
  let c ← toFin 64 x.c
  need (noLitX x && x.d == 0) (some { system, comm, ty, a, b, c, t })
def encXgth (o : Xgth) : Fields :=
  encX 0xE3 (colMod o.system) 1 0 o.a.val o.b.val o.c.val (mkImm (tyCode o.ty) (tumbCode o.t) o.comm.val)
def xsrOf (x : XFields) : Option Xsr := do
  let system ← colSc x
  let comm ← toFin 64 (lowE x)
  let t ← tumbOf (lowF x)
  let a ← toFin 64 x.a
  let b ← toFin 64 x.b
  let c ← toFin 64 x.c
  need (noLitX x && x.d == 0 && aux x == 0) (some { system, comm, a, b, c, t })
def encXsr (sub : Nat) (o : Xsr) : Fields :=
  encX 0xE3 (colMod o.system) sub 0 o.a.val o.b.val o.c.val (mkImm 0 (tumbCode o.t) o.comm.val)
def embagOf (x : XFields) : Option Embag := do
  let chn ← toFin 4 (x.mod / 256)
  let d ← toFin 64 x.d
  let a ← toFin 64 x.a
  let b ← toFin 64 x.b
  let c ← toFin 64 x.c
  let e ← toFin 64 (lowE x)
  let t ← tumbOf (lowF x)
  let desc ← toFin 1024 (aux x)
  need (noLitX x && x.sub == 0 && decide (x.mod % 256 < 2))
    (some { chn, wgt := x.mod % 256 == 1, d, desc, a, b, c, e, t })
def encEmbag (o : Embag) : Fields :=
  encX 0xE4 (o.chn.val * 256 + bit o.wgt) 0 o.d.val o.a.val o.b.val o.c.val
    (mkImm o.desc.val (tumbCode o.t) o.e.val)
def emstatOf (x : XFields) : Option Emstat := do
  let chn ← eChn x
  let d ← toFin 64 x.d
  need (noLitX x && decide (x.sub < 2) && x.a == 0 && x.b == 0 && x.c == 0 && x.imm == 0)
    (some { chn, addr := x.sub == 1, d })
def encEmstat (o : Emstat) : Fields := encX 0xE5 (o.chn.val * 256) (bit o.addr) o.d.val 0 0 0 0

-- sequencer (R404)
def launchOf (x : XFields) : Option Launch := do
  let d ← toFin 64 x.d
  let a ← toFin 64 x.a
  let par ← if x.sub % 2 = 1 then (toFin 64 x.b).map some else need (x.b == 0) (some none)
  let spl ← if x.sub / 2 % 2 = 1 then (toFin 64 x.c).map some else need (x.c == 0) (some none)
  need (noLitX x && x.mod == 0 && decide (x.sub < 4) && x.imm == 0) (some { d, a, par, spl })
def optReg (r : Option (Fin 64)) : Nat := match r with | some r => r.val | none => 0
def encLaunch (o : Launch) : Fields :=
  encX 0xE8 0 (bit o.par.isSome + 2 * bit o.spl.isSome) o.d.val o.a.val (optReg o.par) (optReg o.spl) 0
def lwaitOf (x : XFields) : Option Lwait := do
  let d ← toFin 64 x.d
  let b ← toFin 64 x.b
  need (noLitX x && x.mod == 0 && decide (x.sub < 2) && x.a == 0 && x.c == 0 && x.imm == 0)
    (some { poll := x.sub == 1, d, b })
def encLwait (o : Lwait) : Fields := encX 0xE9 0 (bit o.poll) o.d.val 0 o.b.val 0 0
def lsigOf (x : XFields) : Option Lsig := do
  let b ← toFin 64 x.b
  let ev ← toFin 48 x.imm
  need (noLitX x && x.mod == 0 && x.d == 0 && x.a == 0 && x.c == 0) (some { ev, b })
def encLsig (o : Lsig) : Fields := encX 0xEA 0 0 0 0 o.b.val 0 o.ev.val
def lsigHingeOf (x : XFields) : Option LsigHinge := do
  let b ← toFin 64 x.b
  let c ← toFin 64 x.c
  let ev ← toFin 48 x.imm
  need (noLitX x && x.mod == 0 && x.d == 0 && x.a == 0) (some { ev, b, c })
def encLsigHinge (o : LsigHinge) : Fields := encX 0xEA 0 1 0 0 o.b.val o.c.val o.ev.val
def lsigHostOf (x : XFields) : Option LsigHost := do
  let vec ← toFin 64 x.imm
  need (noLitX x && x.mod == 0 && x.d == 0 && x.a == 0 && x.b == 0 && x.c == 0) (some { vec })
def encLsigHost (o : LsigHost) : Fields := encX 0xEA 0 2 0 0 0 0 o.vec.val
def levwOf (x : XFields) : Option Levw := do
  let d ← toFin 64 x.d
  let b ← toFin 64 x.b
  let ev ← toFin 64 x.imm
  need (noLitX x && x.mod == 0 && x.sub == 0 && x.a == 0 && x.c == 0) (some { ev, d, b })
def encLevw (o : Levw) : Fields := encX 0xEB 0 0 o.d.val 0 o.b.val 0 o.ev.val
def ctxswOf (x : XFields) : Option Ctxsw := do
  let d ← toFin 64 x.d
  let a ← toFin 64 x.a
  let b ← toFin 64 x.b
  need (noLitX x && x.mod == 0 && decide (x.sub < 2) && x.c == 0 && x.imm == 0)
    (some { all := x.sub == 1, d, a, b })
def encCtxsw (o : Ctxsw) : Fields := encX 0xEC 0 (bit o.all) o.d.val o.a.val o.b.val 0 0

-- system and debug (R429, R431, R462)
def trapOf (x : XFields) : Option Trap := do
  let code ← toFin 64 x.imm
  need (noLitX x && x.mod == 0 && x.sub == 0 && x.d == 0 && x.a == 0 && x.b == 0 && x.c == 0) (some { code })
def encTrap (o : Trap) : Fields := encX 0xF0 0 0 0 0 0 0 o.code.val
def svRegOf (vec r : Nat) : Option SvReg :=
  match vec with
  | 0 => (toFin 64 r).map .sca
  | 1 => (toFin 256 r).map .vec
  | _ => none
def svFields : SvReg → Nat × Nat
  | .sca r => (0, r.val)
  | .vec r => (1, r.val)
/-- `r` is D of MFS or A of MTS, `z` the other of the two. -/
def msrOf (r z : Nat) (x : XFields) : Option Msr := do
  let sv ← svRegOf x.sub r
  let reg ← sregOfNum (aux x)
  need (noLitX x && x.mod == 0 && z == 0 && x.b == 0 && x.c == 0 && x.imm % 65536 == 0)
    (some { reg, r := sv })
def encMfs (o : Msr) : Fields :=
  encX 0xF2 0 (svFields o.r).1 (svFields o.r).2 0 0 0 (mkImm (sregNum o.reg) 0 0)
def encMts (o : Msr) : Fields :=
  encX 0xF3 0 (svFields o.r).1 0 (svFields o.r).2 0 0 (mkImm (sregNum o.reg) 0 0)
def snapOf' (x : XFields) : Option Snap := do
  let d ← toFin 64 x.d
  need (noLitX x && x.mod == 0 && decide (x.sub < 4) && x.a == 0 && x.b == 0 && x.c == 0
      && decide (x.imm < 65536))
    (some { scope := snapOf x.sub, d, tag := BitVec.ofNat 16 x.imm })
def encSnap (o : Snap) : Fields := encX 0xF6 0 (snapCode o.scope) o.d.val 0 0 0 o.tag.toNat
def markOf (x : XFields) : Option Mark := do
  let v ← match x.lit with
    | some l => need (x.sub == 0 && x.b == 0 && x.imm == 0) (some (MarkSrc.lit (dword l)))
    | none => match x.sub with
      | 0 => need (x.b == 0) (some (MarkSrc.imm (word x.imm)))
      | 1 => need (x.imm == 0) ((toFin 64 x.b).map MarkSrc.reg)
      | _ => none
  need (x.mod == 0 && x.d == 0 && x.a == 0 && x.c == 0) (some { v })
def encMark (o : Mark) : Fields :=
  match o.v with
  | .reg b => encX 0xF7 0 1 0 0 b.val 0 0
  | .imm v => encX 0xF7 0 0 0 0 0 0 v.toNat
  | .lit v => encX 0xF7 0 0 0 0 0 0 0 (some v.toNat)
def esampOf (x : XFields) : Option Esamp := do
  let d ← toFin 64 x.d
  need (noLitX x && x.mod == 0 && decide (x.sub < 2) && x.a == 0 && x.b == 0 && x.c == 0 && x.imm == 0)
    (some { core := x.sub == 1, d })
def encEsamp (o : Esamp) : Fields := encX 0xF8 0 (bit o.core) o.d.val 0 0 0 0

/-! ### The opcode map (R55-R57) -/

/-- The compact forms. -/
def parseC (f : CFields) : Option Instr :=
  match f.op with
  | 0x01 => bareC f .nopC
  | 0x06 => (cRetOf f).map .retC
  | 0x08 => bareC f .joinC
  | 0x0c => bareC f .exitC
  | 0x0d => bareC f .yieldC
  | 0x10 => (c3Of f).map .saddC
  | 0x11 => (c3Of f).map .ssubC
  | 0x12 => (c3Of f).map .smulC
  | 0x13 => (c3Of f).map .smulhC
  | 0x14 => (c3Of f).map .sdivC
  | 0x15 => (c3Of f).map .sremC
  | 0x16 => (c3Of f).map .sandC
  | 0x17 => (c3Of f).map .sorC
  | 0x18 => (c3Of f).map .sxorC
  | 0x19 => (c3Of f).map .sandnC
  | 0x1a => (c3Of f).map .sshlC
  | 0x1b => (c3Of f).map .sshrC
  | 0x1c => (c3Of f).map .ssarC
  | 0x1d => (c3Of f).map .srotC
  | 0x1e => (c3Of f).map .sminC
  | 0x1f => (c3Of f).map .smaxC
  | 0x22 => (c2Of f).map .smovC
  | 0x25 => (c2Of f).map .spopcC
  | 0x26 => (c2Of f).map .sclzC
  | 0x27 => (c2Of f).map .sctzC
  | 0x30 => (c3Of f).map .vaddC
  | 0x31 => (c3Of f).map .vsubC
  | 0x32 => (c3Of f).map .vmulC
  | 0x33 => (c3Of f).map .vmulhC
  | 0x36 => (c3Of f).map .vandC
  | 0x37 => (c3Of f).map .vorC
  | 0x38 => (c3Of f).map .vxorC
  | 0x39 => (c3Of f).map .vandnC
  | 0x3a => (c3Of f).map .vshlC
  | 0x3b => (c3Of f).map .vshrC
  | 0x3c => (c3Of f).map .vsarC
  | 0x3d => (c3Of f).map .vminC
  | 0x3e => (c3Of f).map .vmaxC
  | 0x3f => (c2Of f).map .vabsC
  | 0x40 => (c3Of f).map .vaddsC
  | 0x41 => (c3Of f).map .vsubsC
  | 0x44 => (c2Of f).map .vpopcC
  | 0x45 => (c2Of f).map .vclzC
  | 0x49 => (c2Of f).map .vmovsC
  | 0x4b => (c1Of f).map .vidxC
  | 0x60 => (c3Of f).map .vfaddC
  | 0x61 => (c3Of f).map .vfsubC
  | 0x62 => (c3Of f).map .vfmulC
  | 0x64 => (c3Of f).map .vfminC
  | 0x65 => (c3Of f).map .vfmaxC
  | 0x67 => (c2Of f).map .vfclassC
  | 0x68 => (c2Of f).map .vfrcpC
  | 0x69 => (c2Of f).map .vfrsqC
  | 0x6a => (c2Of f).map .vfsqrtC
  | 0x6b => (c3Of f).map .vfdivC
  | 0x6c => (c2Of f).map .vfexp2C
  | 0x6d => (c2Of f).map .vflog2C
  | 0x6e => (c2Of f).map .vfsinC
  | 0x6f => (c2Of f).map .vfcosC
  | 0x70 => (c2Of f).map .vftanhC
  | 0x97 => (cp3Of f).map .pandC
  | 0x98 => (cp3Of f).map .porC
  | 0x99 => (cp3Of f).map .pxorC
  | 0x9a => (cp2Of f).map .pnotC
  | 0x9b => (crpOf f).map .ptovC
  | 0x9c => (cprOf f).map .vtopC
  | 0x9d => (crpOf f).map .ppopcC
  | 0xc2 => (cTileOf f).map .tzeroC
  | 0xf0 => (c1Of f).map .trapC
  | 0xf1 => bareC f .tretC
  | 0xf4 => bareC f .haltC
  | 0xf5 => (c1Of f).map .bkptC
  | 0xf8 => (c1Of f).map .esampC
  | _ => none

/-- The compact forms with a literal `l`. -/
def parseCL (f : CFields) (l : Nat) : Option Instr :=
  match f.op with
  | 0x0a => (swchOf f l).map .swch
  | 0x10 => (clSOp2 f l).map .sadd
  | 0x11 => (clSOp2 f l).map .ssub
  | 0x12 => (clSOp2 f l).map .smul
  | 0x13 => (clSOp2 f l).map .smulh
  | 0x14 => (clSOp2 f l).map .sdiv
  | 0x15 => (clSOp2 f l).map .srem
  | 0x16 => (clSOp2 f l).map .sand
  | 0x17 => (clSOp2 f l).map .sor
  | 0x18 => (clSOp2 f l).map .sxor
  | 0x19 => (clSOp2 f l).map .sandn
  | 0x1a => (clSOp2 f l).map .sshl
  | 0x1b => (clSOp2 f l).map .sshr
  | 0x1c => (clSOp2 f l).map .ssar
  | 0x1d => (clSOp2 f l).map .srot
  | 0x1e => (clSOp2 f l).map .smin
  | 0x1f => (clSOp2 f l).map .smax
  | 0x23 => (clSLi f l).map .sli
  | 0x30 => (clVOp2 f l).map .vadd
  | 0x31 => (clVOp2 f l).map .vsub
  | 0x32 => (clVOp2 f l).map .vmul
  | 0x33 => (clVOp2 f l).map .vmulh
  | 0x36 => (clVOp2 f l).map .vand
  | 0x37 => (clVOp2 f l).map .vor
  | 0x38 => (clVOp2 f l).map .vxor
  | 0x39 => (clVOp2 f l).map .vandn
  | 0x3a => (clVOp2 f l).map .vshl
  | 0x3b => (clVOp2 f l).map .vshr
  | 0x3c => (clVOp2 f l).map .vsar
  | 0x3d => (clVOp2 f l).map .vmin
  | 0x3e => (clVOp2 f l).map .vmax
  | 0x40 => (clVOp2 f l).map .vadds
  | 0x41 => (clVOp2 f l).map .vsubs
  | 0x4a => (clVLi f l).map .vli
  | 0x60 => (clFOp2 f l).map .vfadd
  | 0x61 => (clFOp2 f l).map .vfsub
  | 0x62 => (clFOp2 f l).map .vfmul
  | 0x64 => (clFMinMax f l).map .vfmin
  | 0x65 => (clFMinMax f l).map .vfmax
  | 0x6b => (clFOp2 f l).map .vfdiv
  | _ => none

/-- The extended forms. -/
def parseX (x : XFields) : Option Instr :=
  match x.op with
  | 0x02 => (braOf x).map .bra
  | 0x03 => (brxOf x).map .brx
  | 0x04 => (callOf x).map .call
  | 0x05 => (callxOf x).map .callx
  | 0x07 => (brdOf x).map .brd
  | 0x09 => (brkOf x).map .brk
  | 0x0b => (loopOf x).map .loop
  | 0x10 => (sOp2Of x).map .sadd
  | 0x11 => (sOp2Of x).map .ssub
  | 0x12 => (sOp2Of x).map .smul
  | 0x13 => (sOp2Of x).map .smulh
  | 0x14 => (sOp2Of x).map .sdiv
  | 0x15 => (sOp2Of x).map .srem
  | 0x16 => (sOp2Of x).map .sand
  | 0x17 => (sOp2Of x).map .sor
  | 0x18 => (sOp2Of x).map .sxor
  | 0x19 => (sOp2Of x).map .sandn
  | 0x1a => (sOp2Of x).map .sshl
  | 0x1b => (sOp2Of x).map .sshr
  | 0x1c => (sOp2Of x).map .ssar
  | 0x1d => (sOp2Of x).map .srot
  | 0x1e => (sOp2Of x).map .smin
  | 0x1f => (sOp2Of x).map .smax
  | 0x20 => (sCmpOf x).map .scmp
  | 0x21 => (sSelOf x).map .ssel
  | 0x22 => (sOp1Of x).map .smov
  | 0x23 => (sLiOf x).map .sli
  | 0x24 => (sLeaOf x).map .slea
  | 0x25 => (sOp1Of x).map .spopc
  | 0x26 => (sOp1Of x).map .sclz
  | 0x27 => (sOp1Of x).map .sctz
  | 0x28 => (sBfOf x).map .sbfx
  | 0x29 => (sBfOf x).map .sbfi
  | 0x2a => (sMovvOf x).map .smovv
  | 0x30 => (vOp2Of x).map .vadd
  | 0x31 => (vOp2Of x).map .vsub
  | 0x32 => (vOp2Of x).map .vmul
  | 0x33 => (vOp2Of x).map .vmulh
  | 0x34 => (vOp3Of x).map .vmad
  | 0x35 => (vOp3Of x).map .vmadw
  | 0x36 => (vOp2Of x).map .vand
  | 0x37 => (vOp2Of x).map .vor
  | 0x38 => (vOp2Of x).map .vxor
  | 0x39 => (vOp2Of x).map .vandn
  | 0x3a => (vOp2Of x).map .vshl
  | 0x3b => (vOp2Of x).map .vshr
  | 0x3c => (vOp2Of x).map .vsar
  | 0x3d => (vOp2Of x).map .vmin
  | 0x3e => (vOp2Of x).map .vmax
  | 0x3f => (vOp1Of x).map .vabs
  | 0x40 => (vOp2Of x).map .vadds
  | 0x41 => (vOp2Of x).map .vsubs
  | 0x42 => (vCmpOf x).map .vcmp
  | 0x43 => (vSelOf x).map .vsel
  | 0x44 => (vOp1Of x).map .vpopc
  | 0x45 => (vOp1Of x).map .vclz
  | 0x46 => (vBfOf x).map .vbfx
  | 0x47 => (vBfOf x).map .vbfi
  | 0x48 => (vDotOf x).map .vdot4
  | 0x49 => (vMovsOf x).map .vmovs
  | 0x4a => (vLiOf x).map .vli
  | 0x4b => (vIdxOf x).map .vidx
  | 0x60 => (fOp2Of x).map .vfadd
  | 0x61 => (fOp2Of x).map .vfsub
  | 0x62 => (fOp2Of x).map .vfmul
  | 0x63 => (fMaOf x).map .vfma
  | 0x64 => (fMinMaxOf x).map .vfmin
  | 0x65 => (fMinMaxOf x).map .vfmax
  | 0x66 => (fCmpOf x).map .vfcmp
  | 0x67 => (fClassOf x).map .vfclass
  | 0x68 => (fOp1Of x).map .vfrcp
  | 0x69 => (fOp1Of x).map .vfrsq
  | 0x6a => (fOp1Of x).map .vfsqrt
  | 0x6b => (fOp2Of x).map .vfdiv
  | 0x6c => (fOp1Of x).map .vfexp2
  | 0x6d => (fOp1Of x).map .vflog2
  | 0x6e => (fOp1Of x).map .vfsin
  | 0x6f => (fOp1Of x).map .vfcos
  | 0x70 => (fOp1Of x).map .vftanh
  | 0x71 => (fAddMinOf x).map .vaddmin
  | 0x72 => (fAddMinOf x).map .vaddmax
  | 0x73 => (fRndOf x).map .vfrnd
  | 0x80 => (cvtOf x).map .vcvt
  | 0x81 => (qntOf x).map .vqnt
  | 0x82 => (dqntOf x).map .vdqnt
  | 0x83 => (packOf x).map .vpack
  | 0x84 => (unpkOf x).map .vunpk
  | 0x90 => (shflOf' x).map .vshfl
  | 0x91 => (bcstOf x).map .vbcst
  | 0x92 => (voteOf x).map .vvote
  | 0x93 => (matchOf x).map .vmatch
  | 0x94 => (scanOf x).map .vscan
  | 0x95 => (redOf x).map .vred
  | 0x96 => (rdwOf x).map .srdw
  | 0x97 => (pOp2Of x).map .pand
  | 0x98 => (pOp2Of x).map .por
  | 0x99 => (pOp2Of x).map .pxor
  | 0x9a => (pOp1Of x).map .pnot
  | 0x9b => (ptovOf x).map .ptov
  | 0x9c => (vtopOf x).map .vtop
  | 0x9d => (ppopcOf x).map .ppopc
  | 0xa0 => (ldOf x).map .ld
  | 0xa1 => (stOf x).map .st
  | 0xa2 => (sldOf x).map .sld
  | 0xa3 => (sstOf x).map .sst
  | 0xa4 => (ldnOf x).map .ldn
  | 0xa5 => (prefOf x).map .pref
  | 0xa6 => (cleanOf x).map .clean
  | 0xa7 => (cleanOf x).map .inval
  | 0xa8 => (pinOf x).map .pin
  | 0xa9 => (pageOpOf x).map .unpin
  | 0xaa => (pageOpOf x).map .discard
  | 0xab => (pgreqOf x).map .pgreq
  | 0xac => (mapwOf x).map .mapw
  | 0xad => (mapOpOf x).map .mapc
  | 0xae => (mapOpOf x).map .mapf
  | 0xaf => (fenceOf' x).map .fence
  | 0xb0 => (kbindOf x).map .kbind
  | 0xb1 => (kfreeOf x).map .kfree
  | 0xb2 => (kacqOf x).map .kacq
  | 0xb3 => (krelOf x).map .krel
  | 0xb4 => (latgOf x).map .latg
  | 0xb5 => (latwOf x).map .latw
  | 0xb6 => (atomOf x).map .atom
  | 0xb7 => (atomfOf x).map .atomf
  | 0xb8 => (casOf x).map .cas
  | 0xb9 => (cas2Of x).map .cas2
  | 0xba => (tinitOf x).map .tinit
  | 0xbb => (tarvOf x).map .tarv
  | 0xbc => (twaitOf x).map .twait
  | 0xbd => (ttestOf x).map .ttest
  | 0xc0 => (mmaOf x).map .mma
  | 0xc1 => (mmasOf x).map .mmas
  | 0xc2 => (tileGOf x).map .tzero
  | 0xc3 => (tfillOf x).map .tfill
  | 0xc4 => (tidentOf x).map .tident
  | 0xc5 => (tldOf x).map .tld
  | 0xc6 => (tstOf x).map .tst
  | 0xc7 => (tmovOf x.d x.a x).map .tmovv
  | 0xc8 => (tmovOf x.a x.d x).map .tmovt
  | 0xc9 => (tclsOf x).map .tcls
  | 0xca => (scldOf x).map .scld
  | 0xcb => (ttopkOf x).map .ttopk
  | 0xcc => (taccOf x).map .tacc
  | 0xcd => (tsclOf x).map .tscl
  | 0xce => (tcvtOf x).map .tcvt
  | 0xe0 => (tdOf x).map .tdset
  | 0xe1 => (tdOf x).map .tdget
  | 0xe2 => (tdinvOf x).map .tdinv
  | 0xd8 => (cpostOf x).map .cpost
  | 0xd9 => (gpostOf x).map .gpost
  | 0xda => (gpostOf x).map .spost
  | 0xdb => (vremapOf x).map .vremap
  | 0xdc => (cwaitOf x).map .cwait
  | 0xdd => (cseqOf x).map .cseq
  | 0xde => (cqryOf x).map .cqry
  | 0xdf => (mpostOf x).map .mpost
  | 0xe3 => match x.sub with
    | 0 => (xredOf x).map .xred
    | 1 => (xgthOf x).map .xgth
    | 2 => (xsrOf x).map .xsnd
    | 3 => (xsrOf x).map .xrcv
    | _ => none
  | 0xe4 => (embagOf x).map .embag
  | 0xe5 => (emstatOf x).map .emstat
  | 0xe8 => (launchOf x).map .launch
  | 0xe9 => (lwaitOf x).map .lwait
  | 0xea => match x.sub with
    | 0 => (lsigOf x).map .lsig
    | 1 => (lsigHingeOf x).map .lsigHinge
    | 2 => (lsigHostOf x).map .lsigHost
    | _ => none
  | 0xeb => (levwOf x).map .levw
  | 0xec => (ctxswOf x).map .ctxsw
  | 0xf0 => (trapOf x).map .trap
  | 0xf2 => (msrOf x.d x.a x).map .mfs
  | 0xf3 => (msrOf x.a x.d x).map .mts
  | 0xf6 => (snapOf' x).map .snap
  | 0xf7 => (markOf x).map .mark
  | 0xf8 => (esampOf x).map .esamp
  | _ => none

/-- The instruction that fields name: format (step 4), assigned SUB, unused fields zero, accepted types. -/
def parse : Fields → Option Instr
  | .c f => match f.lit with
    | none => parseC f
    | some l => parseCL f l
  | .x f => parseX f

/-- The fields of an instruction, from the encoding rules; an event has no encoding. -/
def fieldsOfInstr (i : Instr) : Option Fields :=
  let enc : Fields := match i with
    | .nopC => encC 0x01 0 0 0
    | .bra o => encBra o
    | .brx o => encBrx o
    | .call o => encCall o
    | .callx o => encCallx o
    | .retC o => encC 0x06 0 o.a.val 0
    | .brd o => encBrd o
    | .joinC => encC 0x08 0 0 0
    | .brk o => encBrk o
    | .swch o => encSwch o
    | .loop o => encLoop o
    | .exitC => encC 0x0c 0 0 0
    | .yieldC => encC 0x0d 0 0 0
    | .saddC o => encC3 0x10 o
    | .sadd o => encSOp2 0x10 o
    | .ssubC o => encC3 0x11 o
    | .ssub o => encSOp2 0x11 o
    | .smulC o => encC3 0x12 o
    | .smul o => encSOp2 0x12 o
    | .smulhC o => encC3 0x13 o
    | .smulh o => encSOp2 0x13 o
    | .sdivC o => encC3 0x14 o
    | .sdiv o => encSOp2 0x14 o
    | .sremC o => encC3 0x15 o
    | .srem o => encSOp2 0x15 o
    | .sandC o => encC3 0x16 o
    | .sand o => encSOp2 0x16 o
    | .sorC o => encC3 0x17 o
    | .sor o => encSOp2 0x17 o
    | .sxorC o => encC3 0x18 o
    | .sxor o => encSOp2 0x18 o
    | .sandnC o => encC3 0x19 o
    | .sandn o => encSOp2 0x19 o
    | .sshlC o => encC3 0x1a o
    | .sshl o => encSOp2 0x1a o
    | .sshrC o => encC3 0x1b o
    | .sshr o => encSOp2 0x1b o
    | .ssarC o => encC3 0x1c o
    | .ssar o => encSOp2 0x1c o
    | .srotC o => encC3 0x1d o
    | .srot o => encSOp2 0x1d o
    | .sminC o => encC3 0x1e o
    | .smin o => encSOp2 0x1e o
    | .smaxC o => encC3 0x1f o
    | .smax o => encSOp2 0x1f o
    | .scmp o => encSCmp o
    | .ssel o => encSSel o
    | .smovC o => encC2 0x22 o
    | .smov o => encSOp1 0x22 o
    | .sli o => encSLi o
    | .slea o => encSLea o
    | .spopcC o => encC2 0x25 o
    | .spopc o => encSOp1 0x25 o
    | .sclzC o => encC2 0x26 o
    | .sclz o => encSOp1 0x26 o
    | .sctzC o => encC2 0x27 o
    | .sctz o => encSOp1 0x27 o
    | .sbfx o => encSBf 0x28 o
    | .sbfi o => encSBf 0x29 o
    | .smovv o => encSMovv o
    | .vaddC o => encC3 0x30 o
    | .vadd o => encVOp2 0x30 o
    | .vsubC o => encC3 0x31 o
    | .vsub o => encVOp2 0x31 o
    | .vmulC o => encC3 0x32 o
    | .vmul o => encVOp2 0x32 o
    | .vmulhC o => encC3 0x33 o
    | .vmulh o => encVOp2 0x33 o
    | .vmad o => encVOp3 0x34 o
    | .vmadw o => encVOp3 0x35 o
    | .vandC o => encC3 0x36 o
    | .vand o => encVOp2 0x36 o
    | .vorC o => encC3 0x37 o
    | .vor o => encVOp2 0x37 o
    | .vxorC o => encC3 0x38 o
    | .vxor o => encVOp2 0x38 o
    | .vandnC o => encC3 0x39 o
    | .vandn o => encVOp2 0x39 o
    | .vshlC o => encC3 0x3a o
    | .vshl o => encVOp2 0x3a o
    | .vshrC o => encC3 0x3b o
    | .vshr o => encVOp2 0x3b o
    | .vsarC o => encC3 0x3c o
    | .vsar o => encVOp2 0x3c o
    | .vminC o => encC3 0x3d o
    | .vmin o => encVOp2 0x3d o
    | .vmaxC o => encC3 0x3e o
    | .vmax o => encVOp2 0x3e o
    | .vabsC o => encC2 0x3f o
    | .vabs o => encVOp1 0x3f o
    | .vaddsC o => encC3 0x40 o
    | .vadds o => encVOp2 0x40 o
    | .vsubsC o => encC3 0x41 o
    | .vsubs o => encVOp2 0x41 o
    | .vcmp o => encVCmp o
    | .vsel o => encVSel o
    | .vpopcC o => encC2 0x44 o
    | .vpopc o => encVOp1 0x44 o
    | .vclzC o => encC2 0x45 o
    | .vclz o => encVOp1 0x45 o
    | .vbfx o => encVBf 0x46 o
    | .vbfi o => encVBf 0x47 o
    | .vdot4 o => encVDot o
    | .vmovsC o => encC2 0x49 o
    | .vmovs o => encVMovs o
    | .vli o => encVLi o
    | .vidxC o => encC1 0x4b o
    | .vidx o => encVIdx o
    | .vfaddC o => encC3 0x60 o
    | .vfadd o => encFOp2 0x60 o
    | .vfsubC o => encC3 0x61 o
    | .vfsub o => encFOp2 0x61 o
    | .vfmulC o => encC3 0x62 o
    | .vfmul o => encFOp2 0x62 o
    | .vfma o => encFMa o
    | .vfminC o => encC3 0x64 o
    | .vfmin o => encFMinMax 0x64 o
    | .vfmaxC o => encC3 0x65 o
    | .vfmax o => encFMinMax 0x65 o
    | .vfcmp o => encFCmp o
    | .vfclassC o => encC2 0x67 o
    | .vfclass o => encFClass o
    | .vfrcpC o => encC2 0x68 o
    | .vfrcp o => encFOp1 0x68 o
    | .vfrsqC o => encC2 0x69 o
    | .vfrsq o => encFOp1 0x69 o
    | .vfsqrtC o => encC2 0x6a o
    | .vfsqrt o => encFOp1 0x6a o
    | .vfdivC o => encC3 0x6b o
    | .vfdiv o => encFOp2 0x6b o
    | .vfexp2C o => encC2 0x6c o
    | .vfexp2 o => encFOp1 0x6c o
    | .vflog2C o => encC2 0x6d o
    | .vflog2 o => encFOp1 0x6d o
    | .vfsinC o => encC2 0x6e o
    | .vfsin o => encFOp1 0x6e o
    | .vfcosC o => encC2 0x6f o
    | .vfcos o => encFOp1 0x6f o
    | .vftanhC o => encC2 0x70 o
    | .vftanh o => encFOp1 0x70 o
    | .vaddmin o => encFAddMin 0x71 o
    | .vaddmax o => encFAddMin 0x72 o
    | .vfrnd o => encFRnd o
    | .vcvt o => encCvt o
    | .vqnt o => encQnt o
    | .vdqnt o => encDqnt o
    | .vpack o => encPack o
    | .vunpk o => encUnpk o
    | .vshfl o => encShfl o
    | .vbcst o => encBcst o
    | .vvote o => encVote o
    | .vmatch o => encMatch o
    | .vscan o => encScan o
    | .vred o => encRed o
    | .srdw o => encRdw o
    | .pandC o => encCP3 0x97 o
    | .pand o => encPOp2 0x97 o
    | .porC o => encCP3 0x98 o
    | .por o => encPOp2 0x98 o
    | .pxorC o => encCP3 0x99 o
    | .pxor o => encPOp2 0x99 o
    | .pnotC o => encCP2 0x9a o
    | .pnot o => encPOp1 o
    | .ptovC o => encCRP 0x9b o
    | .ptov o => encPtov o
    | .vtopC o => encCPR 0x9c o
    | .vtop o => encVtop o
    | .ppopcC o => encCRP 0x9d o
    | .ppopc o => encPpopc o
    | .ld o => encLd o
    | .st o => encSt o
    | .sld o => encSld o
    | .sst o => encSst o
    | .ldn o => encLdn o
    | .pref o => encPref o
    | .clean o => encClean 0xa6 o
    | .inval o => encClean 0xa7 o
    | .pin o => encPin o
    | .unpin o => encPageOp 0xa9 o
    | .discard o => encPageOp 0xaa o
    | .pgreq o => encPgreq o
    | .mapw o => encMapw o
    | .mapc o => encMapOp 0xad o
    | .mapf o => encMapOp 0xae o
    | .fence o => encFence o
    | .kbind o => encKbind o
    | .kfree o => encKfree o
    | .kacq o => encKacq o
    | .krel o => encKrel o
    | .latg o => encLatg o
    | .latw o => encLatw o
    | .atom o => encAtom o
    | .atomf o => encAtomf o
    | .cas o => encCas o
    | .cas2 o => encCas2 o
    | .tinit o => encTinit o
    | .tarv o => encTarv o
    | .twait o => encTwait o
    | .ttest o => encTtest o
    | .mma o => encMma o
    | .mmas o => encMmas o
    | .tzeroC o => encC 0xc2 o.d.val 0 0
    | .tzero o => encTileG o
    | .tfill o => encTfill o
    | .tident o => encTident o
    | .tld o => encTld o
    | .tst o => encTst o
    | .tmovv o => encTmovv o
    | .tmovt o => encTmovt o
    | .tcls o => encTcls o
    | .scld o => encScld o
    | .ttopk o => encTtopk o
    | .tacc o => encTacc o
    | .tscl o => encTscl o
    | .tcvt o => encTcvt o
    | .tdset o => encTd 0xe0 o
    | .tdget o => encTd 0xe1 o
    | .tdinv o => encTdinv o
    | .cpost o => encCpost o
    | .gpost o => encGpost 0xd9 o
    | .spost o => encGpost 0xda o
    | .vremap o => encVremap o
    | .cwait o => encCwait o
    | .cseq o => encCseq o
    | .cqry o => encCqry o
    | .mpost o => encMpost o
    | .xred o => encXred o
    | .xgth o => encXgth o
    | .xsnd o => encXsr 2 o
    | .xrcv o => encXsr 3 o
    | .embag o => encEmbag o
    | .emstat o => encEmstat o
    | .launch o => encLaunch o
    | .lwait o => encLwait o
    | .lsig o => encLsig o
    | .lsigHinge o => encLsigHinge o
    | .lsigHost o => encLsigHost o
    | .levw o => encLevw o
    | .ctxsw o => encCtxsw o
    | .trapC o => encC1 0xf0 o
    | .trap o => encTrap o
    | .tretC => encC 0xf1 0 0 0
    | .mfs o => encMfs o
    | .mts o => encMts o
    | .haltC => encC 0xf4 0 0 0
    | .bkptC o => encC1 0xf5 o
    | .snap o => encSnap o
    | .mark o => encMark o
    | .esampC o => encC1 0xf8 o
    | .esamp o => encEsamp o
    | _ => .c { op := 0, g := 0, d := 0, a := 0, b := 0, lit := none, br := [] }
  match enc with
  | .c f => if f.op = 0 then none else some enc
  | .x _ => some enc

/-- The words of an instruction with its guard (R42-R45), lowest address first. -/
def encode (d : Decoded) : Option (List Nat) :=
  (fieldsOfInstr d.instr).map fun f => wordsOf (withGuard d.guard f)

/-- The bytes of an instruction as they stand in memory. -/
def encodeBytes (d : Decoded) : Option (List Byte) := (encode d).map wordsToBytes

/-! ### Decoding (R58, R59) -/

/-- A major opcode that R55 leaves unassigned or makes illegal. -/
def opUnassigned (op : Nat) : Bool :=
  op == 0x00 || op == 0x0E || op == 0x0F || (decide (0x2B ≤ op) && decide (op ≤ 0x2F))
    || (decide (0x4C ≤ op) && decide (op ≤ 0x5F)) || (decide (0x74 ≤ op) && decide (op ≤ 0x7F))
    || (decide (0x85 ≤ op) && decide (op ≤ 0x8F)) || op == 0x9E || op == 0x9F || op == 0xBE || op == 0xBF
    || (decide (0xCF ≤ op) && decide (op ≤ 0xD7)) || op == 0xE6 || op == 0xE7
    || (decide (0xED ≤ op) && decide (op ≤ 0xEF)) || decide (0xF9 ≤ op)

/-- The subset of a sequencer stream (R40). -/
def opOnStream (op : Nat) : Bool :=
  (decide (0x10 ≤ op) && decide (op ≤ 0x2F)) || op == 0xA2 || op == 0xA3 || (decide (0x01 ≤ op) && decide (op ≤ 0x06))
    || op == 0x0C || (decide (0xE8 ≤ op) && decide (op ≤ 0xEC)) || (decide (0xF0 ≤ op) && decide (op ≤ 0xF4))

/-- Why the decoder rejects (R59): the faults of steps 1 to 7, and bytes that are not one whole instruction. -/
inductive DecodeError where
  | illegal
  | privilege
  | profile
  | truncated
  deriving DecidableEq, Repr

def opOf : Fields → Nat
  | .c f => f.op
  | .x f => f.op

/-- Steps 1 to 7 of R59 on the fields: on a stream or a core, on profile N or F. -/
def decodeFields (stream profileN : Bool) (f : Fields) : Except DecodeError Decoded :=
  if opUnassigned (opOf f) then .error .illegal
  else if !stream && decide (0xE8 ≤ opOf f) && decide (opOf f ≤ 0xEC) then .error .privilege
  else if stream && !opOnStream (opOf f) then .error .illegal
  else match parse f, guardOf f with
    | some i, some g =>
      if !(guardFits g i && fieldsOk stream i) then .error .illegal
      else if profileN && namesF64 i then .error .profile
      else if !pairsOk stream i then .error .illegal
      else .ok { guard := g, instr := i }
    | _, _ => .error .illegal

/-- The instruction of a list of words. -/
def decodeWords (stream profileN : Bool) (ws : List Nat) : Except DecodeError Decoded :=
  match fieldsOf ws with
  | none => .error .truncated
  | some f => decodeFields stream profileN f

/-- The instruction of the bytes of one instruction, total on any bytes. -/
def decode (stream profileN : Bool) (bs : List Byte) : Except DecodeError Decoded :=
  match bytesToWords bs with
  | none => .error .truncated
  | some ws => decodeWords stream profileN ws

/-- An opcode that only a stream executes (R40). -/
def streamOnly (op : Nat) : Bool := decide (0xE8 ≤ op) && decide (op ≤ 0xEC)

/-- The words of an instruction whose table bits are `w`: the first word, and `n` more. -/
def tableWords : Nat → Nat → List Nat
  | 0, _ => []
  | n + 1, w => w % 2 ^ 32 :: tableWords n (w / 2 ^ 32)

/-- The bytes in memory of a table word: as many as the length of its first word, or as the table gives. -/
def tableBytes (nbits w : Nat) : List Byte :=
  wordsToBytes (tableWords (max (instrLength (w % 2 ^ 32) / 4) (nbits / 32)) w)

/-- Whether a table word is decoded by a stream. -/
def tableStream (w : Nat) : Bool := streamOnly (w / 4 % 256)

/-- What the decoder reads from a row of opcode_table.json: on a stream for OP 0xE8 to 0xEC, else on a core. -/
def decodeTableWord (_nbits w : Nat) : Option Instr :=
  match decode (tableStream w) false
      (wordsToBytes (tableWords (instrLength (w % 2 ^ 32) / 4) w)) with
  | .ok d => some d.instr
  | .error _ => none

end Sys2Proof
end

