-- ==== Sys2Proof/Machine/Fetch.lean ====
section
/-! DEFINITION. Instruction fetch (02 R42, R58; 08 R232). -/

namespace Sys2Proof.Machine

/-- One page's access of a fetch: the physical address, a fault that names the first word `at_`, or none when the page's stack
takes no access (R479). -/
def fetchPage (s : State) (id ctx at_ va : Nat) : Except (Option Exc) Nat × State :=
  let (r, s) := access s id ctx va .fetch
  (match r with
    | .error e => .error (some { e with addr := at_ })
    | .ok (.bytes a) => .ok a
    | .ok .busy => .error none
    | .ok (.zeros ..) | .ok (.revive _) => .error (some (pageExc at_ 2 kNonresident)), s)

/-- The bytes of an instruction from `addr`, read from `code` at the translated addresses: Address outside the virtual space,
then Page or Memory Lost; every fault names the first word `at_` (R58). -/
def fetchBytes (s : State) (id ctx : Nat) (code : AList Byte) (at_ addr n : Nat) : Except (Option Exc) (List Byte) × State :=
  if Config.vaLimit < addr + n then (.error (some { cause := cAddress, addr := at_ }), s)
  else
    let first := min n (65536 - addr % 65536)
    let (r, s) := fetchPage s id ctx at_ addr
    match r with
    | .error e => (.error e, s)
    | .ok a =>
      let low := readBytes 0 code a first
      if first = n then (.ok low, s)
      else
        let (r, s) := fetchPage s id ctx at_ (addr + first)
        (match r with
          | .error e => .error e
          | .ok a => .ok (low ++ readBytes 0 code a (n - first)), s)

/-- The first word at an address. -/
def fetchWord (s : State) (id ctx : Nat) (code : AList Byte) (at_ addr : Nat) : Except (Option Exc) Nat × State :=
  let (r, s) := fetchBytes s id ctx code at_ addr 4
  (match r with | .ok bs => .ok (leNat bs) | .error e => .error e, s)

/-- An instruction: its first word and its bytes (R42). DEDUCED (log 22). DEDUCED (log 22). -/
def fetchInstr (s : State) (id ctx : Nat) (code : AList Byte) (addr : Nat) : Except (Option Exc) (Nat × List Byte) × State :=
  let (r, s) := fetchWord s id ctx code addr addr
  match r with
  | .error e => (.error e, s)
  | .ok w =>
    let (r, s) := fetchBytes s id ctx code addr addr (instrLength w)
    (match r with | .ok bs => .ok (w, bs) | .error e => .error e, s)

end Sys2Proof.Machine
end

