-- ==== Sys2Proof/Machine/Control.lean ====
section
/-! DEFINITION. Control flow (07). -/

namespace Sys2Proof.Machine

/-- A target outside the virtual space or not a multiple of 4 (R48). -/
def badTarget (a : Nat) : Bool := decide (Config.vaLimit ≤ a) || a % 4 != 0

/-- The target of a direct branch. -/
def branchTo (addr : DWord) (off : Word) : Nat := wrapNat 64 (addr.toNat + readInt true 32 off.toNat)

def addrExc (a : Nat) : Exc := { cause := cAddress, addr := a }

/-- A jump on a stream; `link` is the scalar register that takes the address of the next instruction. -/
def streamJump (s : State) (link : Option Nat) (target : Strm → Nat) : Host.Outcome State Fault Refusal :=
  onStream s fun g =>
    let dest := target g
    if badTarget dest then .exc (addrExc dest)
    else
      let t := match link with | some d => wrStream g.rcd d g.next | none => g.rcd
      .jump (setStream s g.hinge g.num { t with pc := BitVec.ofNat 64 dest, state := 1 })

/-- A jump of threads: `regs` are its vector registers, `link` the pair that takes the link. -/
def threadJump (s : State) (regs : List Nat) (link : Option Nat) (target : Grp → Thread → Nat) :
    Host.Outcome State Fault Refusal :=
  perThreadTo s fun g _ t =>
    match rangeFault s.tick g.band.n 1 regs with
    | some e => .exc e
    | none =>
      let dest := target g t
      if badTarget dest then .exc (addrExc dest)
      else
        let t := match link with | some d => wrV64 t d g.next | none => t
        .ok { t with pc := BitVec.ofNat 64 dest }

/-- NOP (R196). -/
def execNopC (s : State) : Host.Outcome State Fault Refusal :=
  match s.cur with
  | .stream .. => onStream s fun _ => .ok s
  | _ => vecOp s [] fun _ _ t => t

/-- BRA (R198, R201). -/
def execBra (o : Bra) (s : State) : Host.Outcome State Fault Refusal :=
  match s.cur with
  | .stream .. => streamJump s none fun g => branchTo g.addr o.off
  | _ => threadJump s [] none fun g _ => branchTo g.addr o.off

/-- The register of BRX and CALLX (R198). -/
def brBaseRegs : BrBase → List Nat
  | .sca _ => []
  | .vec r => [r.val]
def brBaseVal (b : Band) (t : Thread) : BrBase → DWord
  | .sca r => rdS b r.val
  | .vec r => rdV64 t r.val
def brBaseStream (t : Stream) : BrBase → DWord
  | .sca r => rdStream t r.val
  | .vec r => rdStream t r.val

/-- BRX (R198, R201). -/
def execBrx (o : Brx) (s : State) : Host.Outcome State Fault Refusal :=
  match s.cur with
  | .stream .. => streamJump s none fun g => baseAddr (brBaseStream g.rcd o.base) o.off
  | _ => threadJump s (brBaseRegs o.base) none fun g t => baseAddr (brBaseVal g.band t o.base) o.off

/-- CALL (R200, R201). -/
def execCall (o : Call) (s : State) : Host.Outcome State Fault Refusal :=
  match s.cur with
  | .stream .. => streamJump s (some o.d.val) fun g => branchTo g.addr o.off
  | _ => threadJump s [o.d.val] (some o.d.val) fun g _ => branchTo g.addr o.off

/-- CALLX (R200, R201). -/
def execCallx (o : Callx) (s : State) : Host.Outcome State Fault Refusal :=
  match s.cur with
  | .stream .. => streamJump s (some o.d.val) fun g => baseAddr (brBaseStream g.rcd o.base) o.off
  | _ => threadJump s (o.d.val :: brBaseRegs o.base) (some o.d.val) fun g t =>
      baseAddr (brBaseVal g.band t o.base) o.off

/-- RET (R200, R201). -/
def execRetC (o : CRet) (s : State) : Host.Outcome State Fault Refusal :=
  match s.cur with
  | .stream .. => streamJump s none fun g => (rdStream g.rcd o.a.val).toNat
  | _ => threadJump s [o.a.val] none fun _ t => (rdV64 t o.a.val).toNat

/-! ### The split stack -/

/-- The push of BRD and SWCH (R205, R210): Split Overflow at the depth limit, or the spill's Page fault.
DEDUCED (log 34). DEDUCED (log 34). -/
def pushRegion (s : State) (g : Grp) (join : Nat) : Except Exc State :=
  match bandOf s g.key, teamOf s g.band.team with
  | some b, some tm =>
    if depthLimit tm ≤ depthOf b then .error { cause := cSplitOver, info := depthOf b }
    else pushSplit s g.key
      { join := BitVec.ofNat 64 join, mask := BitVec.ofNat 32 (laneMask g.live), arrived := 0 }
  | _, _ => .error { cause := cSplitOver }

/-- The threads of P go where `f` says. -/
def goWhere (s : State) (g : Grp) (f : Thread → DWord) : State :=
  match bandOf s g.key with
  | some b => setBand s g.key (onLanes b g.live fun _ t => { t with pc := f t, wait := .ready })
  | none => s

/-- The first target outside the virtual space, in order. -/
def firstBad (as : List Nat) : Option Nat := as.find? fun a => decide (Config.vaLimit ≤ a)

/-- BRD (R205). -/
def execBrd (o : Brd) (s : State) : Host.Outcome State Fault Refusal :=
  perGroupTo s fun g s =>
    let dest := branchTo g.addr o.off
    let join := wrapNat 64 (g.addr.toNat + 4 * readInt true 16 o.joff.toNat)
    match firstBad [dest, join] with
    | some a => .exc (addrExc a)
    | none =>
      match pushRegion s g join with
      | .error e => .exc e
      | .ok s =>
        let s := goWhere s g fun t => if rdP t o.pa.val != o.neg then BitVec.ofNat 64 dest else g.next
        .ok (settle s g.key g.live g.word)

/-- One thread of a JOIN (R206): set in the arrived mask of the uppermost entry that holds it with this join address, where it waits,
or on to `next`. DEDUCED (log 33). DEDUCED (log 33). -/
def joinLane (g : Grp) (s : State) (lane : Nat) : State :=
  match bandOf s g.key with
  | none => s
  | some b =>
    let m : Word := BitVec.ofNat 32 (2 ^ lane)
    let here := fun e : SplitEntry => inMask e.mask lane && e.join == g.addr
    let arrive := fun e : SplitEntry => { e with arrived := e.arrived ||| m }
    let waits := fun (early : Bool) (b : Band) => onLanes b [lane] fun _ t => { t with wait := .join s.now early }
    match b.split.findIdx? here with
    | some i => setBand s g.key (waits (i != 0) { b with split := b.split.modify i arrive })
    | none =>
      match b.spilled.findIdx? fun x => here x.entry with
      | some i =>
        let early := i != 0 || !b.split.isEmpty
        let s := changeSpilled g.core (fun n e => if n = i then arrive e else e) b.spilled s g.key
        match bandOf s g.key with
        | some b => setBand s g.key (waits early b)
        | none => s
      | none => gotoBand s g.key [lane] g.next

/-- JOIN (R206). -/
def execJoinC (s : State) : Host.Outcome State Fault Refusal :=
  perGroupTo s fun g s => .ok (settle (g.live.foldl (joinLane g) s) g.key g.live g.word)

/-- BRK (R208). -/
def execBrk (o : Brk) (s : State) : Host.Outcome State Fault Refusal :=
  perGroupTo s fun g s =>
    let dest := branchTo g.addr o.off
    if decide (Config.vaLimit ≤ dest) then .exc (addrExc dest)
    else
      match bandOf s g.key with
      | none => .ok s
      | some b =>
        if depthOf b < o.n.val then .exc { cause := cSplitUnder, info := o.n.val }
        else
          let m : Word := ~~~ BitVec.ofNat 32 (laneMask g.live)
          let clear := fun e : SplitEntry => { e with mask := e.mask &&& m, arrived := e.arrived &&& m }
          let s := setBand s g.key { b with split := (b.split.take o.n.val).map clear ++ b.split.drop o.n.val }
          let s := clearSpilled g.core true g.live (o.n.val - b.split.length) s g.key
          .ok (settle (gotoBand s g.key g.live (BitVec.ofNat 64 dest)) g.key g.live g.word)

/-- The case of SWCH that a value matches, from case `i` up (R210). -/
def caseOf (cases v : Nat) : Nat → Nat → Option Nat
  | 0, _ => none
  | n + 1, i => if bitsOf cases (8 * i) 8 = v then some i else caseOf cases v n (i + 1)

/-- SWCH (R210). -/
def execSwch (o : Swch) (s : State) : Host.Outcome State Fault Refusal :=
  perGroupTo s fun g s =>
    match rangeFault s.tick g.band.n 1 [o.a.val] with
    | some e => .exc e
    | none =>
      let dest := fun i : Nat => branchTo g.addr (o.offs.toList.getD i 0)
      let join := branchTo g.addr o.join
      match firstBad ((List.range o.n.val).map dest ++ [join]) with
      | some a => .exc (addrExc a)
      | none =>
        match pushRegion s g join with
        | .error e => .exc e
        | .ok s =>
          let s := goWhere s g fun t =>
            match caseOf o.cases.toNat (rdV t o.a.val).toNat o.n.val 0 with
            | some i => BitVec.ofNat 64 (dest i)
            | none => BitVec.ofNat 64 join
          .ok (settle s g.key g.live g.word)

/-- EXIT on a stream (R399): all cleaned to .system, the completion word written at home, the count and HEAD advanced. -/
def streamExit (s : State) : Host.Outcome State Fault Refusal :=
  onStream s fun g =>
    let ctx := g.rcd.ctx.toNat
    let s := cleanAll s (.stream g.hinge ctx) .system
    let n := g.rcd.completed + 1
    let va := g.rcd.doneaddr.toNat
    let finish := fun s : State =>
      let t := streamOf s g.hinge g.num
      StrmRes.jump (setStream s g.hinge g.num { t with completed := n, head := t.head + 1, state := 0 })
    let (r, s) := access s (60 + g.hinge) ctx va .write
    match r with
    | .error e => .exc e
    | .ok .busy => .wait
    | .ok (.bytes a) => finish (homeWrite s a (leBytes 8 n.toNat))
    | .ok _ =>
      match walk s ctx va with
      | .ok l => finish (homeWrite (revivePage s l) (physOf l va) (leBytes 8 n.toNat))
      | .error k => .exc (pageExc va 1 k)

/-- EXIT (R212, R399). -/
def execExitC (s : State) : Host.Outcome State Fault Refusal :=
  match s.cur with
  | .stream .. => streamExit s
  | _ => perGroupTo s fun g s =>
    match bandOf s g.key with
    | none => .ok s
    | some b =>
      let s := setBand s g.key (onLanes b g.live fun _ t => { t with exited := true, wait := .ready })
      .ok (settle s g.key g.live g.word)

/-- YIELD (R213). -/
def execYieldC (s : State) : Host.Outcome State Fault Refusal :=
  match vecOp s [] fun _ _ t => t with
  | .next s' =>
    match grpOf s with
    | some g =>
      match bandOf s' g.key with
      | some b => .next (setBand s' g.key { b with yielded := BitVec.ofNat 32 (laneMask g.live) })
      | none => .next s'
    | none => .next s'
  | r => r

/-! ### Loops -/

/-- LOOP (R216). -/
def execLoop (o : Sys2Proof.Loop) (s : State) : Host.Outcome State Fault Refusal :=
  perGroupTo s fun g s =>
    let fin := branchTo g.addr o.off
    let count := match o.count with
      | .reg r => (rdS g.band r.val).toNat % 2 ^ 32
      | .imm v => v.toNat
    match bandOf s g.key, teamOf s g.band.team with
    | some b, some tm =>
      if 4 ≤ b.loops.length then .exc { cause := cLoopOver }
      else if count = 0 then
        let (r, s) := fetchWord s (clusterOfCore g.core) tm.ctx tm.code fin fin
        match r with
        | .error none => memoryHold
        | .error (some e) => .exc e
        | .ok w =>
          let s := gotoBand s g.key g.live (BitVec.ofNat 64 (fin + instrLength w))
          .ok (evalLoops 5 s g.key (BitVec.ofNat 64 fin) [] g.live [])
      else
        let e : LoopEntry := { start := g.next, fin := BitVec.ofNat 64 fin, remaining := BitVec.ofNat 32 count }
        .ok (gotoBand (setBand s g.key { b with loops := e :: b.loops }) g.key g.live g.next)
    | _, _ => .ok s

end Sys2Proof.Machine
end

