-- ==== Sys2Proof/Machine/Perform.lean ====
section
/-! DEFINITION. A memory operation performed (09 R269, R271, R292), the caches held to their capacity (08 R230, R231, R234), the
background steps (R270). -/

namespace Sys2Proof.Machine

/-- What an operation does to bytes, copies, registers, latches and tumblers (R269, R278, R283, R287, R292, R303). `readers` are the
lanes of its instruction that are performed with it. -/
def performKind (readers : List Nat) (s : State) (o : PendOp) : State :=
  let ag := o.agent
  match o.kind with
  | .load loc w dst acq hint =>
    let s := match acq with | some sc => dropAll s ag sc | none => s
    let (bs, s) := readBy s ag o.issuer readers (hint == .na) (placeOf s ag loc false) (widthBytes w)
    deliver s o dst (widthBytes w) (widthSigned w) (leNat bs)
  | .store loc n v rel hint =>
    let s := match rel with | some sc => cleanAll s ag sc | none => s
    writePlace s ag (hint == .na) rel (placeOf s ag loc true) (leBytes n v)
  | .atomic fn loc n a cmp dst ord sc _ =>
    let s := if ord = .rel ∨ ord = .ar then cleanAll s ag sc else s
    let (old, s) := placeStep s ag sc (placeOf s ag loc true) n (atomNew fn n a cmp)
    let s := if ord = .acq ∨ ord = .ar then dropAll s ag sc else s
    deliver s o dst n false old
  | .fence k sc =>
    match k with
    | .acq => dropAll s ag sc
    | .rel => cleanAll s ag sc
    | .ar | .sc => dropAll (cleanAll s ag sc) ag sc
  | .clean inval sc ranges all =>
    let named := (heldAddrs s ag).filter fun a => all || ranges.any fun r => decide (r.1 ≤ a ∧ a < r.1 + r.2)
    let s := cleanAddrs s ag sc named
    if inval then discardAddrs s ag sc named else s
  | .pref cc a _ hint => prefetchLine s ag cc (hint == .na) a
  | .latg slots _ =>
    match agentTeam ag with
    | some k => match teamOf s k with
      | some tm => setTeam s k (slots.foldl (fun tm n => setLatch tm n { latchOf tm n with engine := true }) tm)
      | none => s
    | none => s
  | .tarv t n cluster =>
    match agentTeam ag with
    | some k =>
      let (last, s) := arrive (if cluster then cleanAll s ag .cluster else s) k t n
      match last, bandOf s o.issuer with
      | some p, some b => setBand s o.issuer (setPexp b t p)
      | _, _ => s
    | none => s
  | .post sc => postDone (cleanAll s ag sc) o
  | .krel base granules loc sc dst =>
    let s := cleanAddrs s ag sc (regionHeld s ag base granules)
    let (v, s) := placeStep s ag sc (placeOf s ag loc true) 8 fun old => some ((old + 1) % 2 ^ 64)
    match dst with
    | some d => deliver s o (.sca d) 8 false ((v + 1) % 2 ^ 64)
    | none => s

/-- One operation performed: noted, its line named, its effect, its line used. -/
def performOp (readers : List Nat) (s : State) (o : PendOp) : State :=
  let s := nameOp (noteOp s o) o
  useOp (performKind readers s o) o (opLine s o)

/-- The operations that are performed with one: the lanes of a load instruction that read its bytes (R252), the lanes of an
atomic on its location, in ascending lane order (R293). -/
def performSet (s : State) (o : PendOp) : List PendOp :=
  let lanes := s.pending.filter fun x : PendOp => x.issuer == o.issuer && x.seq == o.seq && (x == o || opsMeet s x o)
  match o.kind with
  | .load .. | .atomic .. => lanes
  | _ => [o]

/-- Each operation of a set may be performed now, but for its order within the set (R271). -/
def setMay (s : State) (set : List PendOp) : Bool :=
  set.all fun o => !opBlocked s o && !s.pending.any fun x => !set.contains x && mustPrecede s x o

/-- ACCESS_PERFORMED: the operations of a set that R271 allows now, one after the other. -/
def performAt (s : State) (i : Nat) : State :=
  match s.pending[i]? with
  | none => s
  | some o =>
    let set := performSet s o
    if !mayPerform s i || !setMay s set then s
    else
      let s := set.foldl chargeOp s
      let s := { s with pending := s.pending.filter fun x => !set.contains x }
      settleOp (set.foldl (performOp (set.flatMap (·.lanes))) { s with picks := [] }) o

def execAccessPerformed (s : State) : Host.Outcome State Fault Refusal :=
  match s.cur with
  | .event (.accessPerformed i) => .next (performAt s i)
  | _ => .fault .noActor

/-! ### Capacity (R230, R231, R234) -/

/-- The lines of which a level holds a byte, by address / 128. -/
def linesHeld (s : State) (l : Level) : List Nat := ((levelMap s l).map fun e => e.1 / 128).eraseDups

/-- An L1 held to its capacity, and the records of lines that it no longer holds dropped. -/
def settleL1 (s : State) (core : Nat) : State :=
  let ls := (coreOf s core).lines.map fun e => (e.1, e.2.level, e.2.used)
  let s := trimLines (.l1 core) l1Lines ls.length ls s
  let held := linesHeld s (.l1 core)
  setCore s core { coreOf s core with lines := aFilter (fun k _ => held.contains k) (coreOf s core).lines }

/-- A cluster cache held to 16 ways in each of its 4,096 sets, address [18:7] (R231); a line that came by a write-back gets the level
of a plain fill. DEDUCED (log 45). -/
def settleCluster (s : State) (n : Nat) : State :=
  let held := linesHeld s (.cluster n)
  let add := fun (m : AList CacheLine) k => if (aFind k m).isSome then m else aInsert k { level := 1, used := s.now } m
  let recs := held.foldl add (clusterOf s n).lines
  let s := setCluster s n { clusterOf s n with lines := recs }
  let s := (held.map (· % 4096)).eraseDups.foldl (fun s set =>
    let ls := (recs.filter fun e => e.1 % 4096 == set && !pinnedIn s n (e.1 / 512)).map fun e => (e.1, e.2.level, e.2.used)
    trimLines (.cluster n) (freeWays s n set) ls.length ls s) s
  let left := linesHeld s (.cluster n)
  setCluster s n { clusterOf s n with lines := aFilter (fun k _ => left.contains k) (clusterOf s n).lines }

/-- Every cache held to its capacity at the end of a step: the L1s first, which write to the cluster caches. -/
def settleCaches (s : State) : State :=
  let s := ((s.cores.filter fun c => !c.2.l1.isEmpty || !c.2.lines.isEmpty).map (·.1)).foldl settleL1 s
  ((s.clusters.filter fun c => !c.2.cache.isEmpty || !c.2.lines.isEmpty).map (·.1)).foldl settleCluster s

/-! ### Background steps (R270) -/

def execBackgroundWriteback (s : State) : Host.Outcome State Fault Refusal :=
  match s.cur with
  | .event (.backgroundWriteback l line discard) =>
    .next (writebackCounted s l line discard)
  | _ => .fault .noActor

def execBackgroundDiscard (s : State) : Host.Outcome State Fault Refusal :=
  match s.cur with
  | .event (.backgroundDiscard l a) =>
    .next (dropLine s l a)
  | _ => .fault .noActor

end Sys2Proof.Machine
end

