-- ==== Sys2Proof/Machine/Embedding.lean ====
section
/-! DEFINITION. Embedding bags (14): EMBAG, its deliveries, EMSTAT. -/

namespace Sys2Proof.Machine

/-! ### Posting (R386-R392) -/

def tyFlt (code : Nat) : Bool := decide (code = 9 ∨ code = 10 ∨ 0x24 ≤ code)
def tyB8 (code : Nat) : Bool := decide (0x24 ≤ code)

/-- The demands of R388 on a descriptor. -/
def embagDesc (d : Desc) : Bool :=
  d.rank == 2 && decide (1 ≤ d.dim 0 ∧ d.dim 0 ≤ 512) && d.stride 0 == 1 && tyFlt d.ty
    && decide ((d.dim 0 + bit (tyB8 d.ty) : Nat) ≤ d.stride 1)

/-- Whether two ranges of bytes meet. -/
def meet (x y : Nat × Nat) : Bool := decide (x.1 < y.1 + y.2 ∧ y.1 < x.1 + x.2)

/-- EMBAG (R387-R392). -/
def execEmbag (o : Embag) (s : State) : Host.Outcome State Fault Refusal :=
  let t := o.t.map (·.val)
  onPost s [] t fun g tm =>
    withDesc s tm.ctx o.desc.val fun d =>
      if !embagDesc d then .exc (descExc o.desc.val)
      else
        let a := sNat g o.a
        let b := sNat g o.b
        let c := sNat g o.c
        let ni := sNat g o.e
        let ioff := bitsOf a 0 19
        let woff := bitsOf a 32 19
        let boff := bitsOf b 0 19
        let nb := bitsOf b 32 13
        let doff := bitsOf c 0 19
        let pitch := bitsOf c 32 16
        let len := 4 * d.dim 0
        let p := if pitch = 0 then len else pitch
        let lists := [(ioff, 4 * ni), (boff, 4 * (nb + 1))] ++ if o.wgt then [(woff, 4 * ni)] else []
        let vectors := (List.range nb).map fun i => (doff + i * p, len)
        let zero := bitsOf a 51 13 ≠ 0 ∨ bitsOf a 19 13 ≠ 0 ∨ bitsOf b 45 19 ≠ 0 ∨ bitsOf b 19 13 ≠ 0
          ∨ bitsOf c 48 16 ≠ 0 ∨ bitsOf c 19 13 ≠ 0 ∨ (!o.wgt ∧ woff ≠ 0)
        if zero ∨ nb = 0 ∨ 4096 < nb ∨ ni = 0 ∨ 98304 < ni ∨ (pitch ≠ 0 ∧ pitch < len)
            ∨ (vectors.any fun v => lists.any (meet v)) = true then .exc { cause := cOperand }
        else
          match ([ioff, woff, boff, doff].find? fun x => x % 4 != 0) with
          | some x => .exc { cause := cAlignment, addr := x }
          | none =>
            if pitch % 4 ≠ 0 then .exc { cause := cAlignment, addr := doff + pitch }
            else
              let named := lists ++ [(doff, (nb - 1) * p + len)]
              match rangesCheck (seenLatches s g.key g.live tm) named t with
              | some x => .exc x
              | none =>
                postCommand s g tm o.chn.val o.d.val named vectors
                  (newCommand g tm d (.embag o.wgt ioff woff boff nb doff p ni) t)

/-! ### Rows (R384, R385, R391) -/

/-- What a window fill in the command's own stash ranges makes an EMBAG do: the stop of its cause, or a wait. DESIGN CHOICE (log 55). -/
def bagFill (s : State) (tm : Team) (off n : Nat) (write : Bool) : Option (Option (Nat × Nat)) :=
  match fillFault s tm off n write (bit write) with
  | some e => some (some (if isMissing e then 2 else if e.cause = cLost then 4 else 3, e.addr))
  | none => if windowBusy s tm off n then some none else none

/-- A row's bytes from `va`, page by page in ascending addresses: cause and address of the first page that stops it. The first page
decides, and of one page its STATE or LOST before SYS: R391 does not say which cause of one position does. DESIGN CHOICE (log 107).
DESIGN CHOICE (log 107). -/
def rowPages (tm : Team) : Nat → State → Nat → Nat → Except (Nat × Nat) (List (Nat × Nat × Target)) × State
  | 0, s, _, _ => (.ok [], s)
  | fuel + 1, s, va, n =>
    if n = 0 then (.ok [], s)
    else if Config.vaLimit ≤ va then (.error (5, va), s)
    else
      let k := min n (65536 - va % 65536)
      if walkWaits s (clusterOfCore tm.core) tm.ctx va then (.ok [(va, k, .busy)], s) else
      let (r, s) := translate s (clusterOfCore tm.core) tm.ctx va
      let sys := match r with | .ok l => l.sys | .error _ => false
      match checkLeaf s r va .read with
      | .error e => (.error (if isMissing e then 2 else if e.cause = cLost then 4 else 3, va), s)
      | .ok t =>
        if sys then (.error (3, va), s)
        else
          let (rest, s) := rowPages tm fuel s (va + k) (n - k)
          (rest.map ((va, k, t) :: ·), s)

/-- The part of one line of a row at a list position: its addresses, and whether its page is DISCARDED (R385). -/
structure RowPiece where
  pos : Nat
  va : Nat
  len : Nat
  phys : Nat
  discarded : Bool
  deriving DecidableEq, Repr

/-- The number under which a piece that has been read is kept. -/
def RowPiece.key (x : RowPiece) : Nat := x.pos * 2 ^ 64 + x.va

/-- The pieces of a row's pages, in ascending addresses. -/
def rowPieces (pos : Nat) (ps : List (Nat × Nat × Target)) : List RowPiece :=
  ps.flatMap fun x =>
    let va := x.1
    let n := x.2.1
    (List.range ((va + n - 1) / 128 + 1 - va / 128)).map fun i =>
      let lo := max va ((va / 128 + i) * 128)
      let hi := min (va + n) ((va / 128 + i + 1) * 128)
      let (a, z) := match x.2.2 with
        | .bytes a => (a, false)
        | .zeros _ a | .revive a => (a, true)
        | .busy => (0, true)
      { pos := pos, va := lo, len := hi - lo, phys := a + (lo - va), discarded := z }

/-- Where a piece is read: in the stash of a window that holds it, as zeros on a DISCARDED page, else at home (R385). -/
def piecePlace (s : State) (x : RowPiece) : Place :=
  match placePhys s x.phys with
  | .stash k off => .stash k off
  | p => if x.discarded then .zeros else p

/-- The hub must wait for a piece. -/
def pieceBlocked (s : State) (x : RowPiece) : Bool := placeWaits s none (piecePlace s x)

/-- A piece read in one step at home, or by the owning stash. -/
def readPiece (s : State) (tm : Team) (c : Command) (x : RowPiece) : List Byte × State :=
  let ag : Agent := .hub (hingeOfCore tm.core) tm.ctx
  let p := piecePlace s x
  let s := touchLines s c.band (cmdInstr c) p x.len (placeReach s ag none false false p x.len)
  readPlace (noteEngine s tm.ctx tm.core c.band (some x.va) p x.len false) ag false p x.len

/-- Pieces read one after the other into the lines that the command holds. -/
def readPieces (tm : Team) (c : Command) : List RowPiece → State → AList (List Byte) → AList (List Byte) × State
  | [], s, m => (m, s)
  | x :: xs, s, m =>
    let (bs, s) := readPiece s tm c x
    readPieces tm c xs s (aInsert x.key bs m)

/-- A row's bytes from the lines that have been read. -/
def rowBytes (m : AList (List Byte)) (xs : List RowPiece) : List Byte :=
  xs.flatMap fun x => aGet (List.replicate x.len 0) x.key m

/-- A 32-bit word of the team's stash as the hub reads it. -/
def stashW (s : State) (tm : Team) (c : Command) (off : Nat) : Nat × State :=
  let (bs, s) := stashRead (noteCmd s tm c none (.stash c.team off) 4 false) c.team off 4
  (leNat bs, s)

/-- What the positions of a bag give: weights with their rows' pieces, or the stop (cause, position, address). -/
inductive BagRows where
  | rows (l : List (Nat × List RowPiece))
  | stop (cause pos addr : Nat)
  | block

/-- DESIGN CHOICE (log 55). DESIGN CHOICE (log 55). -/
def bagRows (tm : Team) (c : Command) (wgt : Bool) (ioff woff : Nat) : Nat → State → Nat → BagRows × State
  | 0, s, _ => (.rows [], s)
  | n + 1, s, p =>
    let fill := (bagFill s tm (ioff + 4 * p) 4 false).or (if wgt then bagFill s tm (woff + 4 * p) 4 false else none)
    match fill with
    | some (some (cause, a)) => (.stop cause p a, s)
    | some none => (.block, s)
    | none =>
    let (x, s) := stashW s tm c (ioff + 4 * p)
    if c.desc.dim 1 ≤ x then (.stop 1 p 0, s)
    else
      let es := c.desc.es
      let len := es * c.desc.dim 0 + bit (tyB8 c.desc.ty)
      let (r, s) := rowPages tm 4 s (elemAddr c.desc [0, x, 0, 0]) len
      match r with
      | .error (cause, a) => (.stop cause p a, s)
      | .ok ps =>
        let pieces := rowPieces p ps
        if ps.any (fun x => x.2.2 == .busy) || pieces.any (pieceBlocked s) then (.block, s)
        else
          let (w, s) := if wgt then stashW s tm c (woff + 4 * p) else (0x3F800000, s)
          match bagRows tm c wgt ioff woff n s (p + 1) with
          | (.rows l, s) => (.rows ((w, pieces) :: l), s)
          | r => r

/-! ### Pooling (R390) -/

/-- Element `j` of a row, weighted and rounded once. -/
def bagTerm (d : Desc) (j : Nat) (w : Nat × List Byte) : Nat :=
  let es := d.es
  let ty := (tyOfCode d.ty).getD (.flt .f32)
  let v := decodeTy ty (leNat ((w.2.drop (es * j)).take es))
  let v := if tyB8 d.ty then scaleBy v ((w.2.getD (es * d.dim 0) 0).toNat) else v
  (fRound (fMul (decodeFmt fmtF32 w.1) v) fmtF32 .rne 0).1

def addF32 (a b : Nat) : Nat := (fRound (fAdd .rne (decodeFmt fmtF32 a) (decodeFmt fmtF32 b)) fmtF32 .rne 0).1

/-- Elements `j` onward of a bag's vector. DESIGN CHOICE (log 83). DESIGN CHOICE (log 83). -/
def bagVector (d : Desc) (rows : List (Nat × List Byte)) : Nat → State → Nat → List Byte × State
  | 0, s, _ => ([], s)
  | n + 1, s, j =>
    let (v, s) := combineAny addF32 rows.length s (rows.map (bagTerm d j))
    let (rest, s) := bagVector d rows n s (j + 1)
    (leBytes 4 v ++ rest, s)

/-! ### EMBAG_BAG_DELIVERY (R391) -/

/-- The record of a NONRESIDENT stop (R391, R262): suppressed, written, held, or dropped. -/
def hubRecord (s : State) (core ch ctx vpage : Nat) : State :=
  let r : PageRecord := { ctx := ctx, vpage := vpage, source := 3, unit := ch, core := core }
  let h := hingeOfCore core
  if pageOutstanding s ctx vpage then s
  else if !ringFull (ctxOf s ctx).requests 16 then writePageRecord s r
  else if (hingeOf s h).held.length < 64 then
    let x := ctxOf s ctx
    let s := setCtx s ctx { x with outstanding := x.outstanding ++ [vpage] }
    setHinge s h { hingeOf s h with held := (hingeOf s h).held ++ [r] }
  else s

/-- The next bag of the head EMBAG: a line of its rows read, the bag delivered once every line is, or the stop (R385, R391). Lines are
read in an order that is open. DESIGN CHOICE (log 55). DESIGN CHOICE (log 55). -/
def deliverBag (s0 : State) (core ch : Nat) : State :=
  match headCmd s0 core ch with
  | none => s0
  | some c =>
    match c.kind, teamOf s0 c.team with
    | .embag wgt ioff woff boff nb doff pitch ni, some tm =>
      if !c.running || c.ended.isSome || decide (nb ≤ c.pos) then s0
      else
        match bagFill s0 tm (boff + 4 * c.pos) 8 false with
        | some (some (cause, a)) => setHead s0 core ch { c with ended := some (cause, 0, c.pos, a) }
        | some none => s0
        | none =>
        let (lo, s) := stashW s0 tm c (boff + 4 * c.pos)
        let (hi, s) := stashW s tm c (boff + 4 * (c.pos + 1))
        if hi < lo ∨ ni < hi ∨ 65535 < hi - lo then setHead s core ch { c with ended := some (6, 0, c.pos, 0) }
        else
          match bagRows tm c wgt ioff woff (hi - lo) s lo with
          | (.block, _) => s0
          | (.stop cause p a, s) =>
            let s := if cause = 2 then hubRecord s core ch c.ctx (a / 65536) else s
            setHead s core ch { c with ended := some (cause, 0, p, a) }
          | (.rows rows, s) =>
            let todo := ((rows.flatMap (·.2)).filter fun x => (aFind x.key c.lines).isNone)
            let (k, s) := choose s (todo.length + 1)
            let (m, s) := readPieces tm c (match k with | 0 => todo | k + 1 => (todo[k]?).toList) s c.lines
            if k ≠ 0 then setHead s core ch { c with lines := m } else
            match bagFill s tm (doff + c.pos * pitch) (4 * c.desc.dim 0) true with
            | some (some (cause, a)) => setHead s core ch { c with lines := m, ended := some (cause, 0, lo, a) }
            | some none => setHead s core ch { c with lines := m }
            | none =>
            let (bs, s) := bagVector c.desc (rows.map fun r => (r.1, rowBytes m r.2)) (c.desc.dim 0) s 0
            let off := doff + c.pos * pitch
            let s := engStash s c ch off bs
            let hg := hingeOf s (hingeOfCore core)
            let s := setHinge s (hingeOfCore core)
              { hg with embagBytes := hg.embagBytes + BitVec.ofNat 64 bs.length, bags := hg.bags + 1 }
            let cwp := match teamOf s c.team with | some tm => (chanOf tm ch).cwp.toNat | none => 0
            let s := setHead s core ch
              { c with pos := c.pos + 1, counted := cwp, delivered := c.delivered + 1, lines := [], written := addRange c.written off bs.length }
            match c.tumb with
            | some t => (arrive s c.team t 1).2
            | none => s
    | _, _ => s0

def execEmbagBagDelivery (s : State) : Host.Outcome State Fault Refusal :=
  match s.cur with
  | .event (.embagBagDelivery core ch) => .next (deliverBag s core ch)
  | _ => .fault .noActor

/-! ### EMSTAT (R394) -/

def execEmstat (o : Emstat) (s : State) : Host.Outcome State Fault Refusal :=
  perGroup s fun g =>
    match teamOf s g.band.team with
    | none => .ok s
    | some tm =>
      let c := chanOf tm o.chn.val
      .ok (setBand s g.key (wrS g.band o.d.val (if o.addr then c.emaddr else c.emstat)))

end Sys2Proof.Machine
end

