-- ==== Sys2Proof/Machine/Sequencer.lean ====
section
/-! DEFINITION. The sequencer (15): streams and chains, LAUNCH, LWAIT, event counters, placement of teams, retirement. -/

namespace Sys2Proof.Machine

/-! ### Launch records (R401, R402) -/

/-- A record as fields; none when it is not valid. -/
def launchRec (bs : List Byte) : Option LaunchRec :=
  let v := leNat bs
  let f := fun off n => bitsOf v (8 * off) (8 * n)
  let teams := bitsOf v 192 24
  let groups := f 28 2
  let bands := f 30 1
  let prio := bitsOf v 254 2
  let pkg := bitOf v 250
  let hinge := bitsOf v 248 2
  let slots := f 38 2
  let nroles := f 46 1
  let role := fun i => (f (40 + 2 * i) 1, f (41 + 2 * i) 1)
  let roles := (List.range nroles).map role
  let rolesOk := (List.range 3).all fun i =>
    if i < nroles then decide (2 ≤ (role i).2 ∧ (role i).2 ≤ 32) else role i == (0, 0)
  let rows := if nroles = 0 then bands * f 34 1 * 8 else (roles.map fun r => r.1 * r.2 * 8).sum
  let ok := bitsOf v 55 9 = 0 ∧ bitsOf v 119 9 = 0 ∧ bitsOf v 0 55 % 64 = 0 ∧ f 16 4 % 4 = 0 ∧ f 16 4 ≤ 1024 * slots
    ∧ f 20 4 ≤ 96 ∧ bitsOf v 216 8 = 0 ∧ 1 ≤ teams ∧ (groups ≠ 0 → teams ≤ 8) ∧ 1 ≤ bands ∧ bands ≤ 32
    ∧ bitsOf v 251 3 = 0 ∧ (pkg = true → hinge = 0) ∧ f 32 2 % 64 = 0 ∧ 2 ≤ f 34 1 ∧ f 34 1 ≤ 32
    ∧ 1 ≤ f 35 1 ∧ f 35 1 ≤ 8 ∧ f 36 1 ≤ 16 ∧ f 37 1 ≤ 24 ∧ slots ≤ 384 ∧ nroles ≤ 3 ∧ rolesOk = true
    ∧ (nroles ≠ 0 → (roles.map (·.1)).sum = bands) ∧ f 47 17 = 0 ∧ f 192 64 = 0 ∧ rows ≤ 4096
  if ok then
    some { entry := bitsOf v 0 55, stashImg := bitsOf v 64 55, stashLen := f 16 4, pinQuota := f 20 4, teams := teams
           groups := groups, bands := bands, prio := prio, pkg := pkg, hinge := hinge, splitSpill := f 32 2
           regs := 8 * f 34 1, sregs := 8 * f 35 1, tiles := f 36 1, tumblers := f 37 1, stashSlots := slots
           roles := roles.map fun r => (r.1, 8 * r.2)
           params := (List.range 16).map fun k => BitVec.ofNat 64 (f (64 + 8 * k) 8) }
  else none

/-- Units of a launch: groups, or teams bound to the grid directly (R409). -/
def LaunchRec.units (r : LaunchRec) : Nat := if r.groups = 0 then r.teams else r.groups
def LaunchRec.allTeams (r : LaunchRec) : Nat := if r.groups = 0 then r.teams else r.groups * r.teams

/-! ### Reads of a stream at home -/

/-- A stream's access to bytes in a window, which SPACE 1 watchpoints of the owner match (R443). -/
def noteStream (s : State) (h ctx : Nat) (p : Place) (n : Nat) (write : Bool) : State :=
  match p with
  | .stash k off => note s { ctx := ctx, core := 120 * h, band := none, instr := none, lane := 0, va := none, stash := some (k, off), len := n
                             read := !write, write := write, atomic := false, engine := false, pc := 0 }
  | _ => s

/-- `n` pieces of 8 bytes at an address of a stream's context, read at home; no fault in an error: the read must wait (R241,
R479). -/
def streamBytes (h ctx : Nat) : Nat → State → Nat → Except (Option Exc) (List Byte) × State
  | 0, s, _ => (.ok [], s)
  | n + 1, s, va =>
    let (r, s) := globalCheck s (60 + h) ctx va 1 .read
    match r with
    | .error e => (.error (some e), s)
    | .ok .busy => (.error none, s)
    | .ok t =>
      let waits := match t with | .bytes a => placeWaits s none (placePhys s a) | _ => false
      if waits then (.error none, s)
      else
        let (bs, s) := match t with
          | .bytes a => readHome (noteStream s h ctx (placePhys s a) 8 false) a 8
          | _ => (List.replicate 8 0, s)
        let (rest, s) := streamBytes h ctx n s (va + 8)
        (rest.map (bs ++ ·), s)

def strmAgent (g : Strm) : Agent := .stream g.hinge g.rcd.ctx.toNat

/-! ### LAUNCH (R405) -/

/-- Launches that wait in a hinge's queue, with units that are not placed. -/
def queuedLaunches (s : State) (h : Nat) : List Launch :=
  (s.launches.filter fun l => (l.2.rcd.pkg || l.2.rcd.hinge == h) && decide (l.2.next < l.2.rcd.units)).map (·.2)

def alignExc (a : Nat) : Exc := { cause := cAlignment, addr := a }

/-- The faults of a LAUNCH's operands, in order (R405). -/
def launchFault (a : Nat) (par spl : Option Nat) : Option Exc :=
  firstExc [
    if Config.vaLimit ≤ a then some (addrExc a) else none,
    if a % 64 ≠ 0 then some (alignExc a) else none,
    match par with | some b => if b % 8 ≠ 0 then some (alignExc b) else none | none => none,
    match spl with | some c => if c % 64 ≠ 0 then some (alignExc c) else none | none => none]

/-- The record of a LAUNCH with its parameters, captured in full; an error without a fault: a read must wait (R405).
DEDUCED (log 60). -/
def captureLaunch (s : State) (h ctx a : Nat) (par spl : Option Nat) : Except (Option Exc) LaunchRec × State :=
  let (r, s) := streamBytes h ctx 32 s a
  match r with
  | .error e => (.error e, s)
  | .ok bytes =>
    let (p, s) := match par with
      | some b => streamBytes h ctx 16 s b
      | none => (.ok ((bytes.drop 64).take 128), s)
    (match p with
      | .error e => .error e
      | .ok params =>
        match launchRec (bytes.take 64 ++ params ++ bytes.drop 192) with
        | none => .error (some { cause := cLaunch })
        | some rcd => if rcd.splitSpill ≠ 0 ∧ spl.isNone then .error (some { cause := cLaunch }) else .ok rcd, s)

/-- A captured launch queued when there is room; else it waits as it is (R405). -/
def queueLaunch (s : State) (g : Strm) (d ctx : Nat) (rcd : LaunchRec) (spill : Nat) : StrmRes :=
  let t := streamOf s g.hinge g.num
  if 32 ≤ t.outstanding.length ∨ 256 ≤ (queuedLaunches s (if rcd.pkg then 0 else rcd.hinge)).length then
    .jump (setStream s g.hinge g.num { t with state := 2, launching := some (rcd, spill) })
  else
    let c := ctxOf s ctx
    let n := c.nextLseq
    let l : Launch := { ctx := ctx, lseq := n, lpc := g.addr, hinge := g.hinge, stream := g.num, rcd := rcd, spill := spill }
    let s := setCtx s ctx { c with nextLseq := n + 1 }
    let s := { s with launches := aInsert (launchKey ctx n) l s.launches }
    let t := streamOf s g.hinge g.num
    .ok (setStream s g.hinge g.num
      (wrStream { t with outstanding := t.outstanding ++ [n.toNat], launching := none } d n))

/-- LAUNCH (R405). DEDUCED (log 60). DEDUCED (log 60). -/
def execLaunch (o : Sys2Proof.Launch) (s : State) : Host.Outcome State Fault Refusal :=
  onStream s fun g =>
    let ctx := g.rcd.ctx.toNat
    let rd := fun (r : Fin 64) => (rdStream g.rcd r.val).toNat
    let par := o.par.map rd
    let spl := o.spl.map rd
    match g.rcd.launching with
    | some (rcd, spill) => queueLaunch s g o.d.val ctx rcd spill
    | none =>
      match launchFault (rd o.a) par spl with
      | some e => .exc e
      | none =>
        let s := cleanAll s (strmAgent g) .package
        match captureLaunch s g.hinge ctx (rd o.a) par spl with
        | (.error (some e), s) => .trap s e
        | (.error none, s) => .jump (setStream s g.hinge g.num { streamOf s g.hinge g.num with state := 2 })
        | (.ok rcd, s) => queueLaunch s g o.d.val ctx rcd (spl.getD 0)

/-- LWAIT (R406). -/
def execLwait (o : Lwait) (s : State) : Host.Outcome State Fault Refusal :=
  onStream s fun g =>
    let n := rdStream g.rcd o.b.val
    let put := fun (s : State) (v : DWord) =>
      StrmRes.ok (setStream s g.hinge g.num (wrStream (streamOf s g.hinge g.num) o.d.val v))
    if g.rcd.outstanding.contains n.toNat then
      if o.poll then put s (BitVec.allOnes 64) else .wait
    else match g.rcd.finished.find? fun f => f.1 == n with
      | some (_, st) => put (dropAll s (strmAgent g) .system) st
      | none => put s 0x8000000000000000

/-! ### Event counters (R407, R408) -/

def evOf (s : State) (h e : Nat) : DWord := aGet 0 e (hingeOf s h).ev
def setEv (s : State) (h e : Nat) (v : DWord) : State :=
  let hg := hingeOf s h
  setHinge s h { hg with ev := aSet 0 e v hg.ev }
def addEv (s : State) (h e : Nat) (v : DWord) : State := setEv s h e (evOf s h e + v)

/-- LSIG local (R408). -/
def execLsig (o : Lsig) (s : State) : Host.Outcome State Fault Refusal :=
  onStream s fun g =>
    .ok (addEv (cleanAll s (strmAgent g) .package) g.hinge o.ev.val (rdStream g.rcd o.b.val))

/-- LSIG.hinge (R408). -/
def execLsigHinge (o : LsigHinge) (s : State) : Host.Outcome State Fault Refusal :=
  onStream s fun g =>
    let h := (rdStream g.rcd o.c.val).toNat
    if 4 ≤ h then .exc { cause := cOperand }
    else .ok (addEv (cleanAll s (strmAgent g) .package) h o.ev.val (rdStream g.rcd o.b.val))

/-- LSIG.host (R408). -/
def execLsigHost (o : LsigHost) (s : State) : Host.Outcome State Fault Refusal :=
  onStream s fun g => .ok (raiseMsi (cleanAll s (strmAgent g) .system) o.vec.val)

/-- LEVW (R408). -/
def execLevw (o : Levw) (s : State) : Host.Outcome State Fault Refusal :=
  onStream s fun g =>
    let v := evOf s g.hinge o.ev.val
    if (v - rdStream g.rcd o.b.val).getLsbD 63 then .wait
    else
      let s := setStream s g.hinge g.num (wrStream g.rcd o.d.val v)
      .ok (dropAll s (strmAgent g) .package)

/-! ### STREAM_TAKE_ENTRY (R398, R399) -/

def streamFault (s : State) (h n cause : Nat) : State :=
  setStream s h n { streamOf s h n with state := 3, cause := BitVec.ofNat 8 cause }

def takeEntry (s : State) (h n : Nat) : State :=
  let t := streamOf s h n
  if !t.enable || t.state != 0 || t.head == t.tail then s
  else
    let ctx := t.ctx.toNat
    let s := dropAll s (.stream h ctx) .system
    let (r, s) := streamBytes h ctx 4 s (t.chbase.toNat + 32 * (t.head.toNat % 2 ^ t.chlog2.toNat))
    match r with
    | .error none => s
    | .error (some e) => streamFault s h n e.cause
    | .ok bs =>
      let v := leNat bs
      if bitsOf v 55 9 ≠ 0 ∨ bitsOf v 0 2 ≠ 0 ∨ bitsOf v 192 64 ≠ 0 then streamFault s h n cLaunch
      else
        let t := wrStream t 0 (t.completed + 1)
        let t := wrStream t 1 (BitVec.ofNat 64 (bitsOf v 64 64))
        let t := wrStream t 2 (BitVec.ofNat 64 (bitsOf v 128 64))
        setStream s h n { t with pc := BitVec.ofNat 64 (bitsOf v 0 55), state := 1 }

def execStreamTakeEntry (s : State) : Host.Outcome State Fault Refusal :=
  match s.cur with
  | .event (.streamTakeEntry h n) => .next (takeEntry s h n)
  | _ => .fault .noActor

/-! ### Placement (R409-R412) -/

/-- The resident teams of a core, with their keys. -/
def teamsOn (s : State) (core : Nat) : List (Nat × Team) := s.teams.filter fun t => t.2.core == core

def LaunchRec.rows (r : LaunchRec) : Nat :=
  if r.roles.isEmpty then r.bands * r.regs else (r.roles.map fun x => x.1 * x.2).sum

/-- Vector registers of band `b` (R71). -/
def roleRegs (dflt : Nat) : List (Nat × Nat) → Nat → Nat
  | [], _ => dflt
  | (n, r) :: rest, b => if b < n then r else roleRegs dflt rest (b - n)

/-- Whether the limits of R36 hold on a core with a team added. DEDUCED (log 59). DEDUCED (log 59). -/
def coreTakes (s : State) (core : Nat) (r : LaunchRec) : Bool :=
  let ts := (teamsOn s core).map (·.2)
  let cluster := (s.teams.filter fun t => clusterOfCore t.2.core == clusterOfCore core).map (·.2)
  decide (ts.length < 16)
    && decide ((ts.map (·.slots.length)).sum + r.bands ≤ 64)
    && decide ((ts.map (·.rows)).sum + r.rows ≤ 4096)
    && decide ((ts.map (·.tileCount)).sum + r.tiles ≤ 16)
    && decide ((ts.map (·.slotCount)).sum + r.stashSlots ≤ 384)
    && decide ((cluster.map (·.pinQuota)).sum + r.pinQuota ≤ 96)

/-- The lowest free slot of the scheduler with the most free slots (R411). DEDUCED (log 56). DEDUCED (log 56). -/
def freeSlot (used : List Nat) : Option Nat :=
  let free := fun k => (List.range 16).filter fun i => !used.contains (16 * k + i)
  let best := (List.range 4).foldl (fun (b : Nat) k => if (free b).length < (free k).length then k else b) 0
  (free best).head?.map (16 * best + ·)

/-- Slots for `n` bands in BAND order. DEDUCED (log 56). DEDUCED (log 56). -/
def takeSlots : Nat → List Nat → List Nat
  | 0, _ => []
  | n + 1, used => match freeSlot used with
    | some k => k :: takeSlots n (k :: used)
    | none => []

/-- The stash image (R412): the bytes of the pages before a fault, and the fault with its address.
DEDUCED (log 57). An image that goes on past the virtual space meets Page, NOT_PRESENT, at 2^55. DESIGN CHOICE (log 110).
DEDUCED (log 57), DESIGN CHOICE (log 110). -/
def readImage (cl ctx : Nat) : Nat → State → Nat → Nat → (List Byte × Option Exc) × State
  | 0, s, _, _ => (([], none), s)
  | fuel + 1, s, va, n =>
    if n = 0 then (([], none), s)
    else if Config.vaLimit ≤ va then (([], some (pageExc va 8 kNotPresent)), s)
    else
      let k := min n (65536 - va % 65536)
      let (r, s) := access s cl ctx va .image
      match r with
      | .error e => (([], some { e with addr := va }), s)
      | .ok t =>
        let bs := match t, r with
          | .bytes a, _ => homeRead s a k
          | .busy, _ => (match walk s ctx va with | .ok l => homeRead s (physOf l va) k | .error _ => [])
          | _, _ => List.replicate k 0
        let ((rest, e), s) := readImage cl ctx fuel s (va + k) (n - k)
        ((bs ++ rest, e), s)

/-- Map entries for the bytes that are not 0. -/
def bytesMap (off : Nat) : List Byte → AList Byte
  | [] => []
  | b :: bs => if b = 0 then bytesMap (off + 1) bs else (off, b) :: bytesMap (off + 1) bs

/-- The start state of a band (R97, R87, R412). -/
def newBand (l : Launch) (team n gridIdx idx : Nat) (owed : Option (Nat × Nat × Nat)) : Band :=
  let seed := (l.lseq.toNat * 2 ^ 24 + gridIdx * 32 + idx) % 2 ^ 64
  { team := team, idx := idx, n := n, sregCount := l.rcd.sregs
    threads := List.replicate 32 { pc := BitVec.ofNat 64 l.rcd.entry, owed := owed }
    sregs := (mapFrom (fun i v => (i, v)) 0 l.rcd.params).foldl
      (fun m e => if e.1 < l.rcd.sregs then aSet 0 e.1 e.2 m else m) []
    srstate := BitVec.ofNat 64 (mix64 seed) }

/-- A team placed on a core that takes it: its state as R412 gives. DEDUCED (log 57). DEDUCED (log 57). -/
def placeTeam (s : State) (l : Launch) (core group team : Nat) : State :=
  let r := l.rcd
  let ts := teamsOn s core
  let index := ((List.range 16).find? fun i => !ts.any fun t => t.2.index == i).getD 0
  let slots := takeSlots r.bands (ts.flatMap (·.2.slots))
  let key := teamKey core index
  let grid := if r.groups = 0 then team else group * r.teams + team
  let ((img, e), s) :=
    if r.stashImg = 0 then (([], none), s)
    else readImage (clusterOfCore core) l.ctx (r.stashLen / 65536 + 2) s r.stashImg r.stashLen
  let owed := e.map fun e => (e.cause, e.addr, e.info)
  let stash := bytesMap 0 img
  let classes := (addrRange 0 r.stashSlots).foldl (fun m n => aSet .zero n (slotWhole stash n) m) ([] : AList TileClass)
  let tm : Team := { ctx := l.ctx, lseq := l.lseq, lpc := l.lpc, team := team, group := group, gridIdx := grid
                     grouped := r.groups != 0, core := core, index := index, slots := slots, prio := r.prio
                     tileCount := r.tiles, slotCount := r.stashSlots, tumblerCount := r.tumblers, pinQuota := r.pinQuota
                     rows := r.rows, stash := stash, slotCls := classes, spill := l.spill, spillBytes := r.splitSpill
                     code := s.mem }
  -- the core fetches the new team's instructions afresh (R232)
  let s := setTeam (setCore s core { coreOf s core with icache := [] }) key tm
  let bands := mapFrom (fun i slot => (bandKey core slot, { newBand l key (roleRegs r.regs r.roles i) grid i owed with since := s.now + 1 })) 0 slots
  let s := bands.foldl (fun s b => setBand s b.1 b.2) s
  dropAll s (.thread core key l.ctx) .package

/-- Cores in ascending order from a pointer, wrapping. -/
def rotated (n start : Nat) : List Nat := (List.range n).map fun i => (start + i) % n

/-- The teams of a group placed one by one on the cores of a cluster, none when one does not fit. -/
def placeGroup (l : Launch) (cl group : Nat) : Nat → Nat → State → Option State
  | 0, _, s => some s
  | n + 1, team, s =>
    match (addrRange (cl * 8) 8).find? fun c => coreTakes s c l.rcd with
    | some c => placeGroup l cl group n (team + 1) (placeTeam s l c group team)
    | none => none

/-- The first cluster, in order from the pointer, that takes a group. -/
def placeInCluster (s : State) (h : Nat) (l : Launch) (group : Nat) : List Nat → Option (Nat × State)
  | [] => none
  | k :: ks => match placeGroup l (h * 15 + k) group l.rcd.teams 0 s with
    | some s' => some (k, s')
    | none => placeInCluster s h l group ks

/-- Whether a package-bound launch may run: every hinge with a resident or saved team of it runs its context (R416). -/
def gridRuns (s : State) (ctx : Nat) (lseq : DWord) : Bool :=
  let resident := (s.teams.filter fun t => t.2.ctx == ctx && t.2.lseq == lseq).map fun t => hingeOfCore t.2.core
  let saved := ((ctxOf s ctx).saved.filter fun t => t.team.lseq == lseq).map fun t => hingeOfCore t.team.core
  (resident ++ saved).all fun h => (hingeOf s h).active == some ctx

/-- The head of a hinge's queue (R409): of the active context, with units to place, not held; by PRIO, then by number. -/
def queueHead (s : State) (h : Nat) : Option Launch :=
  match (hingeOf s h).active with
  | none => none
  | some ctx =>
    let ls := (queuedLaunches s h).filter fun l =>
      l.ctx == ctx && !l.aborted && (!l.rcd.pkg || gridRuns s ctx l.lseq)
    let before := fun (x y : Launch) => decide (y.rcd.prio < x.rcd.prio ∨ (x.rcd.prio = y.rcd.prio ∧ x.lseq < y.lseq))
    ls.foldl (fun (b : Option Launch) l => match b with
      | none => some l
      | some x => if before l x then some l else some x) none

/-- A CTXSW is under way on a hinge: its dispatcher and its cores are stopped (R418). -/
def switchUnderWay (s : State) (h : Nat) : Bool :=
  match (hingeOf s h).switching with
  | some id => (streamOf s (id / 16) (id % 16)).state == 2
  | none => false

/-- The stash image of a launch lies on a stack that takes no access now (R479). -/
def imageBusy (s : State) (l : Launch) : Bool :=
  l.rcd.stashImg != 0 && (virtRanges s l.ctx l.rcd.stashImg l.rcd.stashLen).any fun r => stackBusy s r.1

/-- TEAM_PLACEMENT: the head's lowest-indexed unit, when it fits (R410). DEDUCED (log 58). DEDUCED (log 58). -/
def placeNext (s : State) (h : Nat) : State :=
  match (if switchUnderWay s h then none else queueHead s h) with
  | none => s
  | some l =>
    if imageBusy s l then s else
    let k := launchKey l.ctx l.lseq
    let placed := fun (s : State) => { s with launches := aInsert k { l with next := l.next + 1 } s.launches }
    let hg := hingeOf s h
    if l.rcd.groups = 0 then
      match (rotated 120 hg.corePtr).find? fun c => coreTakes s (h * 120 + c) l.rcd with
      | some c =>
        let s := placeTeam s l (h * 120 + c) 0 l.next
        placed (setHinge s h { hingeOf s h with corePtr := (c + 1) % 120 })
      | none => s
    else
      match placeInCluster s h l l.next (rotated 15 hg.clusterPtr) with
      | some (c, s) => placed (setHinge s h { hingeOf s h with clusterPtr := (c + 1) % 15 })
      | none => s

def execTeamPlacement (s : State) : Host.Outcome State Fault Refusal :=
  match s.cur with
  | .event (.teamPlacement h) => .next (placeNext s h)
  | _ => .fault .noActor

/-! ### Retirement (R212, R413) -/

/-- Everything a band has issued is complete. -/
def bandIdle (s : State) (k : Nat) : Bool :=
  !s.pending.any (fun o => o.issuer == k && (match o.agent with | .thread .. => true | _ => false))
    && !s.matrix.any (fun m => m.band == k)

/-- The energy record of a band on its context's energy ring (R459). -/
def energyRecord (s : State) (b : Band) : State :=
  match teamOf s b.team with
  | none => s
  | some tm =>
    let rcd := leBytes 8 tm.lseq.toNat ++ leBytes 4 tm.gridIdx ++ leBytes 1 b.idx ++ leBytes 1 0 ++ leBytes 2 tm.core
      ++ leBytes 8 b.energy.toNat ++ leBytes 8 0
    let (s, ring) := ringPut s (ctxOf s tm.ctx).energyRing rcd
    setCtx s tm.ctx { ctxOf s tm.ctx with energyRing := ring }

/-- Whether an engine holds a command of a team. -/
def teamPosted (s : State) (key : Nat) (tm : Team) : Bool :=
  (coreOf s tm.core).channels.any (fun c => (c.2.queue ++ c.2.chain).any fun x => x.team == key)
    || s.hinges.any fun h => h.2.collectives.any fun x => x.team == key

/-- The last band of a team, whose commands are not all complete, waits to retire (R359). -/
def lastWaits (s : State) (k : Nat) (b : Band) : Bool :=
  match teamOf s b.team with
  | none => false
  | some tm => teamPosted s b.team tm && tm.slots.all fun n =>
      bandKey tm.core n == k || (match bandOf s (bandKey tm.core n) with | some x => x.retired | none => true)

/-- BAND_RETIRE (R212), after the end of a single step (R450): stacks are discarded; queued Engine traps go on to the team (R425). -/
def retireBand (s : State) (k : Nat) : State :=
  match bandOf s k with
  | none => s
  | some b =>
    if b.retired || b.stepping.isSome || b.threads.any (fun t => !t.exited) || !bandIdle s k || !b.vreds.isEmpty || lastWaits s k b then s
    else
      let s := setBand s k { b with retired := true, split := [], spilled := [], reload := none, loops := [], traps := [] }
      let s := energyRecord s b
      b.traps.foldl (fun s x => queueTrap s b.team k x) s

/-- DESIGN CHOICE (log 80). DESIGN CHOICE (log 80). -/
def execBandRetire (s : State) : Host.Outcome State Fault Refusal :=
  match s.cur with
  | .event (.bandRetire core slot) => .next (retireBand s (bandKey core slot))
  | _ => .fault .noActor

/-- Windows written back one after the other: the lowest virtual address of a granule that was discarded. -/
def backAll (key : Nat) : List Nat → State → Option Nat × State
  | [], s => (none, s)
  | m :: ms, s =>
    let (x, s) := writeBackWindow s key m
    let (y, s) := backAll key ms s
    ((x.toList ++ y.toList).min?, s)

/-- Every window of a team written back; one record for the granules of LOST pages (R243). -/
def closeWindows (s : State) (key : Nat) : State :=
  match teamOf s key with
  | none => s
  | some tm =>
    match backAll key (tm.maps.map (·.1)) s with
    | (some va, s) => errorRecord s tm 255 6 0 0 cLost 0 (BitVec.ofNat 64 va) 0
    | (none, s) => s

/-- The status word of a launch (R406). -/
def launchStatus (l : Launch) : DWord := BitVec.ofNat 64 (bit l.err + 2 * bit l.aborted)

/-- A launch whose teams have all retired completes: its stream remembers it, EV62 rises (R407, R413). -/
def completeLaunch (s : State) (k : Nat) : State :=
  match aFind k s.launches with
  | none => s
  | some l =>
    let done := if l.aborted then l.next * (if l.rcd.groups = 0 then 1 else l.rcd.teams) else l.rcd.allTeams
    if l.retired < done then s
    else
      let t := streamOf s l.hinge l.stream
      let t := { t with outstanding := t.outstanding.erase l.lseq.toNat
                        finished := ((l.lseq, launchStatus l) :: t.finished).take 32 }
      let s := setStream { s with launches := aErase k s.launches } l.hinge l.stream t
      addEv s (if l.rcd.pkg then 0 else l.rcd.hinge) 62 1

/-- One more team of a launch retired, or discarded with an error (R438). -/
def teamDone (s : State) (ctx : Nat) (lseq : DWord) : State :=
  let k := launchKey ctx lseq
  match aFind k s.launches with
  | none => s
  | some l => completeLaunch { s with launches := aInsert k { l with retired := l.retired + 1 } s.launches } k

/-- A team taken off its core with its bands. -/
def removeTeam (s : State) (key : Nat) (tm : Team) : State :=
  { s with teams := aErase key s.teams
           bands := aFilter (fun k _ => !(tm.slots.any fun n => bandKey tm.core n == k)) s.bands }

/-- Windows of a team with granules to write back. -/
def windowsDirty (tm : Team) : Bool := tm.maps.any fun e => match e.2.win with | some w => w.dirty != 0 | none => false

/-- TEAM_RETIRE (R413): the windows are written back first, by a step of their own. -/
def retireTeam (s : State) (key : Nat) : State :=
  match teamOf s key with
  | none => s
  | some tm =>
    let live := tm.slots.any fun n => match bandOf s (bandKey tm.core n) with | some b => !b.retired | none => false
    if live || teamPosted s key tm then s
    else if windowsDirty tm then closeWindows s key
    else
      let s := cleanAll s (.thread tm.core key tm.ctx) .system
      teamDone (removeTeam s key tm) tm.ctx tm.lseq

/-- DESIGN CHOICE (log 80). DESIGN CHOICE (log 80). -/
def execTeamRetire (s : State) : Host.Outcome State Fault Refusal :=
  match s.cur with
  | .event (.teamRetire k) => .next (retireTeam s k)
  | _ => .fault .noActor

/-- A quantum that has run out adds 1 to EV63, once (R415). -/
def expireQuantum (s : State) (h : Nat) : State :=
  match (hingeOf s h).quantum with
  | some q => if q ≤ s.now then addEv (setHinge s h { hingeOf s h with quantum := none }) h 63 1 else s
  | none => s

/-- QUANTUM_EXPIRE (R415). -/
def execQuantumExpire (s : State) : Host.Outcome State Fault Refusal :=
  match s.cur with
  | .event (.quantumExpire h) => .next (expireQuantum s h)
  | _ => .fault .noActor

end Sys2Proof.Machine
end

