-- ==== Sys2Proof/Machine/SaveArea.lean ====
section
/-! DEFINITION. The layout of the save area (16 R437): the records of threads, bands, teams, hinges and contexts as 8-byte words,
which debug reads also name (17 R451), and the area written at home. -/

namespace Sys2Proof.Machine

/-! ### Bands -/

/-- 8 bytes of a thread record. -/
def threadWord (t : Thread) (o : Nat) : DWord :=
  match o with
  | 0 => t.pc
  | 8 => t.tpc
  | 16 => t.taddr
  | 24 => t.tinfo
  | 32 => BitVec.ofNat 64 (t.fstat.toNat + t.preds.toNat * 2 ^ 32 + t.tcause.toNat * 2 ^ 48)
  | _ => BitVec.ofNat 64 (bit t.tlevel + 2 * bit t.exited)

def bandBytes (b : Band) : Nat := 2560 + 8 * b.sregCount + 128 * b.n

/-- The words of a list's elements, `per` words each, for `n` elements: zeros where there is none. -/
def wordsOf {α : Type} (per n : Nat) (f : α → List Nat) (xs : List α) : List Nat :=
  (List.range n).flatMap fun i => match xs[i]? with
    | some x => (f x ++ List.replicate per 0).take per
    | none => List.replicate per 0

def splitWords (e : SplitEntry) : List Nat := [e.join.toNat, e.mask.toNat + e.arrived.toNat * 2 ^ 32]
def loopWords (e : LoopEntry) : List Nat := [e.start.toNat, e.fin.toNat, e.remaining.toNat]
def vredWords (v : VredExec) : List Nat :=
  [laneMask v.lanes + bit v.value.isSome * 2 ^ 32 + v.flags.toNat * 2 ^ 33
    , (v.value.getD 0).toNat
    , match v.round with | some (cl, n) => 1 + 2 * bit cl + 4 * n | none => 0]
def trapWords (x : EngineTrap) : List Nat :=
  [x.cause + x.unit * 2 ^ 8 + x.comm * 2 ^ 16 + x.seq.toNat * 2 ^ 32, x.addr.toNat]

/-- The band block in the order that R437 names its parts: sixteen split entries, four loop entries, RDR, FCTL, SRSTATE, eight
VREDs, four traps, LOSTTRAPS with the stopped flag. DESIGN CHOICE (log 30). DESIGN CHOICE (log 30). -/
def bandBlock (b : Band) : List Nat :=
  wordsOf 2 16 splitWords b.split ++ wordsOf 3 4 loopWords b.loops ++ [b.rdrValue.toNat, b.rdrSeq.toNat, b.rm.toNat, b.srstate.toNat]
    ++ wordsOf 4 8 vredWords b.vreds ++ wordsOf 4 4 trapWords b.traps
    ++ [b.lostTraps.toNat + bit b.stopped * 2 ^ 8, b.spilled.length, b.energy.toNat]

/-- 8 bytes of a band record at an offset. -/
def bandWord (b : Band) (o : Nat) : DWord :=
  if o < 0x600 then threadWord (threadOf b (o / 48)) (o % 48)
  else if o < 0xA00 then BitVec.ofNat 64 ((bandBlock b).getD ((o - 0x600) / 8) 0)
  else if o < 0xA00 + 8 * b.sregCount then rdS b ((o - 0xA00) / 8)
  else
    let v := (o - 0xA00 - 8 * b.sregCount) / 4
    let word := fun i => rdV (threadOf b (i % 32)) (i / 32)
    word (v + 1) ++ word v

/-! ### Teams -/

def mapWords (e : MapEntry) : List Nat :=
  let w := e.win.getD { base := 0, va := 0, filled := 0, dirty := 0 }
  [e.first + e.count * 2 ^ 16 + e.rot * 2 ^ 24 + bit e.win.isSome * 2 ^ 63, w.va, w.base, 0]
def remapWords : Remap → List Nat
  | .none => [0, 0]
  | .mod m => [1 + m * 2 ^ 32, 0]
  | .hash m seed => [2 + m * 2 ^ 32, seed.toNat]
  | .tab m t => [3 + m * 2 ^ 32, t]

/-- The type of a reduction as a number. -/
def redTyNum : RedTy → Nat
  | .i32 => 0 | .n32 => 1 | .i64 => 2 | .n64 => 3 | .f32 => 4 | .f64 => 5

/-- The running partial of an open round and the conditions of its combining steps so far, in order of arrival (R186). -/
def runningPartial (r : Round) : Nat × Flags :=
  match r.parts.map fun p => p.2.toNat % 2 ^ redWidth r.ty with
  | [] => (0, 0#5)
  | v :: vs => vs.foldl (fun a v => let q := combine r.op r.ty a.1 v; (q.1, a.2 ||| q.2)) (v, 0#5)

/-- An entry of a reduction unit (R186): slot, op, type, conditions, count and contributions; its group; the running partial.
DESIGN CHOICE (log 30). -/
def roundWords (r : Round) : List Nat :=
  let p := runningPartial r
  [r.slot + redOpNum r.op * 2 ^ 4 + redTyNum r.ty * 2 ^ 8 + p.2.toNat * 2 ^ 16 + r.count * 2 ^ 24 + r.parts.length * 2 ^ 44
    , r.owner.1, r.owner.2, p.1]

/-- `n` entries of a reduction unit, each at its number. -/
def unitWords (n : Nat) (rs : AList Round) : List Nat :=
  (List.range n).flatMap fun i => match aFind i rs with | some r => roundWords r | none => [0, 0, 0, 0]

/-- The map entry with a number, when it is in use. -/
def mapOf (tm : Team) (m : Nat) : List Nat := match aFind m tm.maps with | some e => mapWords e | none => [0, 0, 0, 0]

/-- The team block in the order that R437 names its parts; `pexp` are the PEXP bits of its bands. DESIGN CHOICE (log 30).
DESIGN CHOICE (log 30). -/
def teamBlock (tm : Team) (pexp : List (BitVec 24)) : List Nat :=
  let chans := (List.range 4).map fun n => (aGet {} n tm.channels : TeamChannel)
  [tm.lseq.toNat, tm.lpc.toNat, tm.gridIdx + tm.index * 2 ^ 32 + tm.core * 2 ^ 40, tm.group + tm.team * 2 ^ 32]
    ++ ((List.range 24).map fun t => (tumblerWord (tumblerOf tm t) false).toNat)
    ++ wordsOf 1 32 (fun p : BitVec 24 => [p.toNat]) pexp
    ++ (List.range 16).flatMap (mapOf tm)
    ++ ((List.range 16).map fun t => (classWord (tileClsOf tm t) false).toNat)
    ++ ((List.range Config.stashSlots).map fun n =>
        let l := latchOf tm n
        (classWord (slotClsOf tm n) false).toNat + bit (slotPending tm n) * 2 ^ 43 + bit l.engine * 2 ^ 44 + l.count * 2 ^ 45)
    ++ (chans.flatMap fun c => [c.posted.toNat, c.csq.toNat, c.cwp.toNat])
    ++ (chans.flatMap fun c => remapWords c.remap)
    ++ (chans.flatMap fun c => [c.emstat.toNat, c.emaddr.toNat])
    ++ (chans.map fun c => bit c.err + c.cause.toNat * 2 ^ 8)
    ++ [tm.restores.toNat + tm.winfail.toNat * 2 ^ 32]
    ++ unitWords 16 tm.rounds

/-- The bytes of a team's record (R437). -/
def teamBytes (tm : Team) (bands : List Band) : Nat :=
  8192 + 5120 * tm.tileCount + 1024 * tm.slotCount + (bands.map bandBytes).sum

/-- The word of a band record in a list of them, at an offset from the first. -/
def bandsWord : List Band → Nat → Option DWord
  | [], _ => none
  | b :: bs, o => if o < bandBytes b then some (bandWord b o) else bandsWord bs (o - bandBytes b)

/-- 8 bytes of a team record: team block, tiles, scale columns, stash, bands in slot order. -/
def teamWord (tm : Team) (bands : List Band) (o : Nat) : Option DWord :=
  let tiles := 4096 * tm.tileCount
  let cols := 1024 * tm.tileCount
  let stash := 1024 * tm.slotCount
  if o < 8192 then some (BitVec.ofNat 64 ((teamBlock tm (bands.map (·.pexp))).getD (o / 8) 0))
  else if o < 8192 + tiles then
    let w := fun i => aGet 0 ((o - 8192) / 4 + i) tm.tiles
    some (w 1 ++ w 0)
  else if o < 8192 + tiles + cols then some (BitVec.ofNat 64 (leNat (readBytes 127 tm.scales (o - 8192 - tiles) 8)))
  else if o < 8192 + tiles + cols + stash then
    some (BitVec.ofNat 64 (leNat (readBytes 0 tm.stash (o - 8192 - tiles - cols) 8)))
  else bandsWord bands (o - 8192 - tiles - cols - stash)

/-- Slots in ascending order. -/
def sortedSlots (ns : List Nat) : List Nat := (List.range Config.slotsPerCore).filter fun n => ns.contains n

/-! ### Contexts and hinges -/

/-- The header: team count, offset of the first team, the key table at 0x400, TVEC at 0xC00, the debug registers at 0xC40. -/
def headerWord (c : Context) (o : Nat) : Nat :=
  let regs := (List.range 8).map (fun n => (aGet 0 n c.ibp).toNat) ++ (List.range 8).map (fun n => (aGet 0 n c.wpa).toNat)
    ++ (List.range 8).map (fun n => (aGet 0 n c.wpc).toNat) ++ [c.dbgctl.toNat]
  if o = 0 then c.saved.length
  else if o = 8 then (match c.saved with | t :: _ => t.place | [] => 0)
  else if o < 0x400 then 0
  else if o < 0xC00 then
    (match aFind ((o - 0x400) / 32) c.keys with
      | some k => [k.base, k.granules, k.word, 1].getD ((o - 0x400) % 32 / 8) 0
      | none => 0)
  else if o = 0xC00 then c.tvec.toNat
  else if o < 0xC40 then 0
  else regs.getD ((o - 0xC40) / 8) 0

/-- The image of a captured descriptor (R360). -/
def descWords (d : Desc) : List Nat :=
  let dim := fun i => d.dims.getD i 0
  let stride := fun i => (BitVec.ofInt 64 (d.strides.getD i 0)).toNat
  [d.base, d.ty + d.rank * 2 ^ 8 + 2 ^ 16, dim 0 + dim 1 * 2 ^ 32, dim 2 + dim 3 * 2 ^ 32, stride 0, stride 1, stride 2, stride 3]

/-- The operands of a command in four words; of an index command its lanes and those whose index is bad, for its row numbers find no
room in 128 bytes beside the descriptor. DESIGN CHOICE (log 30). -/
def operandWords : CmdKind → List Nat
  | .box st origin ext off pitch =>
    let o := fun i => origin.getD i 0
    let e := fun i => ext.getD i 1
    [o 0 + o 1 * 2 ^ 32, o 2 + o 3 * 2 ^ 32, e 0 + e 1 * 2 ^ 16 + e 2 * 2 ^ 32 + e 3 * 2 ^ 48, off + pitch * 2 ^ 32 + bit st * 2 ^ 63]
  | .rows sc c0 c2 c3 e0 off pitch elems =>
    [c0 + c2 * 2 ^ 32 + c3 * 2 ^ 48, off + pitch * 2 ^ 32 + bit sc * 2 ^ 63, e0
      , laneMask (elems.map (·.1)) + laneMask ((elems.filter fun e => e.2.2.isNone).map (·.1)) * 2 ^ 32]
  | .move va n home => [va, n + home * 2 ^ 32, 0, 0]
  | .embag w ioff woff boff nb doff pitch ni => [ioff + woff * 2 ^ 32, boff + nb * 2 ^ 32, doff + pitch * 2 ^ 32 + bit w * 2 ^ 63, ni]

/-- A saved command in 128 bytes: team, band, tumbler, kind, whether it runs, has stalled and will abort; its number; its progress or
next bag; its delivered elements with the chain position of its channel; its descriptor; its operands. DESIGN CHOICE (log 30). -/
def cmdWords (chain : Nat) (c : Command) : List Nat :=
  [c.team + c.band * 2 ^ 16 + c.tumb.getD 255 * 2 ^ 32 + (kindCode c.kind).headD 0 % 256 * 2 ^ 40 + bit c.running * 2 ^ 48
      + bit c.stall.isSome * 2 ^ 49 + bit c.aborted * 2 ^ 50
    , c.seq.toNat, c.pos + c.part * 2 ^ 32, c.delivered + chain % 2 ^ 16 * 2 ^ 48]
    ++ descWords c.desc ++ operandWords c.kind

/-- A saved collective: what it is, its operands, the member it posts for, its progress: its contribution read, bytes still to be sent,
what has been taken from the others, the bytes to be written. DESIGN CHOICE (log 30). -/
def collWords (c : Collective) : List Nat :=
  let kind := match c.kind with | .red => 0 | .gth => 1 | .snd => 2 | .rcv => 3
  [c.team + c.band * 2 ^ 16 + c.tumb.getD 255 * 2 ^ 32 + c.hinge * 2 ^ 40 + bit c.system * 2 ^ 42
    , c.comm + c.ty * 2 ^ 8 + kind * 2 ^ 16 + redOpNum c.op * 2 ^ 20 + bit c.ready * 2 ^ 24 + bit c.part.isSome * 2 ^ 25 + c.cause * 2 ^ 32
    , c.a, c.b, c.count, c.faddr, (c.outbox.map fun x => x.2.length).sum, c.data.length, c.entry.count]

/-- The word of a hinge record at an offset: reduction units, collectives from 32,768, core records from 65,536. -/
def hingeWord (c : Context) (h o : Nat) : Nat :=
  if o < 32768 then
    let units := (List.range 15).flatMap fun k =>
      unitWords 64 (((c.savedRounds.filter fun r => r.1 == h * 15 + k).map (·.2)).foldl (fun m r => aInsert r.1 r.2 m) [])
    units.getD (o / 8) 0
  else if o < 65536 then
    (wordsOf 64 64 collWords (c.savedColls.filter fun x => x.hinge == h)).getD ((o - 32768) / 8) 0
  else
    let core := h * 120 + (o - 65536) / 8192
    let ch := (o - 65536) % 8192 / 2048
    let cmds := (c.savedCmds.filter fun x => x.1 == core * 4 + ch).map (·.2)
    (wordsOf 16 16 (cmdWords (aGet 0 (core * 4 + ch) c.savedChains)) cmds).getD ((o - 65536) % 2048 / 8) 0

/-! ### Writing the area -/

/-- A record of `n` bytes written at home, given by its words: nothing is left of what was there (R436). -/
def putRecord (s : State) (base n : Nat) (word : Nat → Nat) : State :=
  let words := (List.range (n / 8)).filter fun i => word (8 * i) % 2 ^ 64 ≠ 0
  let s := { s with mem := aFilter (fun a _ => decide (a < base ∨ base + n ≤ a)) s.mem }
  words.foldl (fun s i => homeWrite s (base + 8 * i) (leBytes 8 (word (8 * i)))) s

/-- The offset of the first team record, and of one that follows those of a context. -/
def firstTeamAt : Nat := 4096 + 4 * 1048576
def nextTeamAt (c : Context) : Nat :=
  c.saved.foldl (fun m t => max m ((t.place + teamBytes t.team (t.bands.map (·.2)) + 63) / 64 * 64)) firstTeamAt

/-- A saved team's record at home. -/
def putTeam (s : State) (base : Nat) (x : SavedTeam) : State :=
  let bands := x.bands.map (·.2)
  putRecord s (base + x.place) (teamBytes x.team bands) fun o => ((teamWord x.team bands o).getD 0).toNat

/-- The context header and a hinge's record at home. -/
def putHeader (s : State) (ctx h : Nat) : State :=
  let c := ctxOf s ctx
  let s := putRecord s c.saveBase.toNat 4096 (headerWord c)
  putRecord s (c.saveBase.toNat + 4096 + 1048576 * h) 1048576 (hingeWord c h)

/-! ### Reading the area -/

/-- 8 bytes of the area at home. -/
def areaWord (s : State) (a : Nat) : Nat := leNat (homeRead s a 8)

/-- A thread with the fields of its record at home (R437). -/
def loadThread (s : State) (a : Nat) (t : Thread) : Thread :=
  let w := areaWord s (a + 32)
  let x := areaWord s (a + 40)
  { t with pc := BitVec.ofNat 64 (areaWord s a), tpc := BitVec.ofNat 64 (areaWord s (a + 8))
           taddr := BitVec.ofNat 64 (areaWord s (a + 16)), tinfo := BitVec.ofNat 64 (areaWord s (a + 24))
           fstat := BitVec.ofNat 5 w, preds := BitVec.ofNat 15 (bitsOf w 32 15), tcause := BitVec.ofNat 9 (bitsOf w 48 9)
           tlevel := bitOf x 0, exited := bitOf x 1 }

/-- A band with the thread records, scalar and vector registers of its record at home, whose places R437 gives; its band block is held
beside it. DESIGN CHOICE (log 30). -/
def loadBand (s : State) (a : Nat) (b : Band) : Band :=
  let word := fun (x : Nat) => leNat (homeRead s x 4)
  let vregs := fun (i : Nat) => (List.range b.n).foldl (fun m r =>
    aSet 0 r (BitVec.ofNat 32 (word (a + 0xA00 + 8 * b.sregCount + 128 * r + 4 * i))) m) ([] : AList Word)
  { b with
    threads := mapFrom (fun i t => { loadThread s (a + 48 * i) t with vregs := vregs i }) 0 b.threads
    sregs := (List.range b.sregCount).foldl (fun m r => aSet 0 r (BitVec.ofNat 64 (areaWord s (a + 0xA00 + 8 * r))) m) [] }

/-- The bands of a team from consecutive records at home. -/
def loadBands (s : State) : Nat → List (Nat × Band) → List (Nat × Band)
  | _, [] => []
  | a, (n, b) :: bs => (n, loadBand s a b) :: loadBands s (a + bandBytes b) bs

/-- A saved team from its record at home: tiles, scale columns, stash and bands; its team block is held beside it (R437).
DESIGN CHOICE (log 30). -/
def loadTeam (s : State) (base : Nat) (x : SavedTeam) : SavedTeam :=
  let tm := x.team
  let a := base + x.place + 8192
  let nt := 1024 * tm.tileCount
  let words := (List.range nt).foldl (fun m i => aSet 0 i (BitVec.ofNat 32 (leNat (homeRead s (a + 4 * i) 4))) m) ([] : AList Word)
  let load := fun (d : Byte) (at_ n : Nat) =>
    (List.range n).foldl (fun m i => aSet d i ((homeRead s (at_ + i) 1).headD d) m) ([] : AList Byte)
  { x with
    team := { tm with tiles := words, scales := load 127 (a + 4 * nt) nt, stash := load 0 (a + 5 * nt) (1024 * tm.slotCount) }
    bands := loadBands s (a + 5 * nt + 1024 * tm.slotCount) x.bands }

/-- The first page of a record that the home cannot serve: a LOST one (R438, R248). -/
def lostIn (s : State) (a n : Nat) : Option Nat :=
  ((List.range (n / 65536 + 2)).map (a / 65536 + ·)).findSome? fun p =>
    if pageLost s p && decide (p * 65536 < a + n) then some (max a (p * 65536)) else none

/-- The address at which a save or restore of a team's record fails, none when it does not (R438). DESIGN CHOICE (log 31).
DESIGN CHOICE (log 31). -/
def recordFails (s : State) (key a n : Nat) : Option Nat × State :=
  match lostIn s a n with
  | some x => (some x, s)
  | none =>
    if Config.saveFails s.tick key then
      let (c, s) := choose { s with tick := s.tick + 1 } (n / 8)
      (some (a + 8 * c), s)
    else (none, { s with tick := s.tick + 1 })

end Sys2Proof.Machine
end

