-- ==== Sys2Proof/Machine/Switch.lean ====
section
/-! DEFINITION. CTXSW (15 R418): draining, saving and restoring a context's teams on a hinge (16 R436-R439). What is saved is written
to the save area and held beside it as the records it stands for, in `Context.saved`; what R437 gives a place is restored from the area
at home. -/

namespace Sys2Proof.Machine

/-! ### Draining -/

/-- An operation of a thread of a context on a hinge. -/
def opOn (h ctx : Nat) (o : PendOp) : Bool :=
  match o.agent with
  | .thread core _ c => hingeOfCore core == h && c == ctx
  | .engine .. | .hub .. | .stream .. | .host => false

/-- The operations of a context on a hinge performed as far as they can be. -/
def drainOps (h ctx : Nat) : Nat → State → State
  | 0, s => s
  | fuel + 1, s =>
    let ready := fun (i : Nat) => match s.pending[i]? with
      | some o => opOn h ctx o && mayPerform s i
      | none => false
    match (List.range s.pending.length).find? ready with
    | some i => drainOps h ctx fuel (performAt s i)
    | none => s

/-- The matrix instructions of a hinge's teams completed in order. -/
def drainMatrix (h : Nat) : Nat → State → State
  | 0, s => s
  | fuel + 1, s =>
    match s.matrix.find? fun m => hingeOfCore (m.team / Config.teamsPerCore) == h with
    | some m => drainMatrix h fuel (completeMat { s with matrix := s.matrix.erase m } m)
    | none => s

/-- DESIGN CHOICE (log 61). -/
def drain (s : State) (h ctx : Nat) : State :=
  let s := drainMatrix h s.matrix.length s
  drainOps h ctx s.pending.length s

/-! ### Saving -/

/-- The wait of a saved thread: at a JOIN it stays, and what has ended a wait is kept; any other instruction issues again (R436). -/
def savedWait : Wait → Wait
  | .join n early => .join n early
  | .answered => .answered
  | .captured v => .captured v
  | .ready | .tumbler .. | .page _ | .rdr _ | .polled _ | .key .. => .ready

def savedBand (b : Band) : Band := { b with threads := b.threads.map fun t => { t with wait := savedWait t.wait } }

/-- The request records that commands of a channel hold (R262). -/
def heldOf (core ch : Nat) (cs : List Command) : List PageRecord :=
  cs.filterMap fun c => match c.stall with
    | some st => if st.held then some { ctx := c.ctx, vpage := st.vpage, source := 2, unit := ch, core := core } else none
    | none => none

/-- Commands and collectives of a team dropped; the records that they hold are still written. -/
def dropCommands (s : State) (key : Nat) (core : Nat) : State :=
  let keep := fun (ch : Nat) (c : Channel) =>
    let all := c.queue ++ c.chain
    let left := all.filter fun x => x.team != key
    { c with queue := left.take 16, chain := left.drop 16, held := c.held ++ heldOf core ch (all.filter fun x => x.team == key) }
  let co := coreOf s core
  let s := setCore s core { co with channels := aMap keep co.channels }
  { s with hinges := aMap (fun _ h => { h with collectives := h.collectives.filter fun x => x.team != key }) s.hinges }

/-- What is saved of a team: no pins, no window filled; the bytes of window slots are not saved (R235, R243). -/
def savedTeam (s : State) (place : Nat) (tm : Team) : SavedTeam :=
  let empty := fun (w : Window) => { w with filled := 0, dirty := 0 }
  { place := place
    team := { tm with pins := [], maps := aMap (fun _ e => { e with win := e.win.map empty }) tm.maps
                      stash := aFilter (fun o _ => (windowAtSlot tm (o / 1024)).isNone) tm.stash, early := [] }
    bands := (sortedSlots tm.slots).filterMap fun n => (bandOf s (bandKey tm.core n)).map fun b => (n, savedBand b) }

/-- One team taken off its core into the save area, its windows written back and its fence performed; one that cannot be
saved is discarded with a record of KIND 3 (R438, R477). -/
def saveTeam (s : State) (key : Nat) : State :=
  match teamOf s key with
  | none => s
  | some tm =>
    let s := closeWindows s key
    let ag : Agent := .thread tm.core key tm.ctx
    let s := dropAll (cleanAll s ag .package) ag .package
    let c := ctxOf s tm.ctx
    let saved := savedTeam s (nextTeamAt c) ((teamOf s key).getD tm)
    let base := c.saveBase.toNat
    let (fails, s) := if (coreOf s tm.core).dead then (some (base + saved.place), s)
      else recordFails s key (base + saved.place) (teamBytes tm (saved.bands.map (·.2)))
    match fails with
    | some a =>
      let s := errorRecord s tm 255 3 0 0 0 0 (BitVec.ofNat 64 a) 0
      teamDone (dropCommands (removeTeam s key tm) key tm.core) tm.ctx tm.lseq
    | none =>
      let s := putTeam (removeTeam s key tm) base saved
      let c := ctxOf s tm.ctx
      setCtx s tm.ctx { c with saved := c.saved ++ [saved] }

/-- Caches of a hinge at a switch (R233): dirty bytes go home, every L1 is emptied. -/
def flushHinge (s : State) (h ctx : Nat) : State :=
  let here := (s.cores.map (·.1)).filter fun c => hingeOfCore c == h
  let s := here.foldl (fun s c =>
    let s := cleanAll s (.thread c 0 ctx) .system
    setCore s c { coreOf s c with l1 := [], lines := [] }) s
  let cls := (s.clusters.map (·.1)).filter fun c => hingeOfCluster c == h
  cls.foldl (fun s c => cleanAll s (.engine (c * 8) 0 ctx) .system) s

/-- The engines' commands of a context on a hinge into its save area, with the position of each chain; records that they hold stay with
the channels, which write them (R262, R368, R396). -/
def saveEngines (s : State) (h ctx : Nat) : State :=
  let here := s.cores.filter fun c => hingeOfCore c.1 == h
  let free := fun (x : Command) => { x with lines := [], stall := x.stall.map fun st => { st with held := false } }
  let cmds := here.flatMap fun c => c.2.channels.flatMap fun q => (q.2.queue ++ q.2.chain).map fun x => (c.1 * 4 + q.1, free x)
  let chains := here.flatMap fun c => c.2.channels.map fun q => (c.1 * 4 + q.1, q.2.chained)
  let stop := fun (core ch : Nat) (q : Channel) => ({ held := q.held ++ heldOf core ch (q.queue ++ q.chain) } : Channel)
  let s := here.foldl (fun s c => setCore s c.1 { coreOf s c.1 with
    channels := aFilter (fun _ q => q != {}) (aMap (stop c.1) (coreOf s c.1).channels) }) s
  let hg := hingeOf s h
  let colls := hg.collectives.filter fun x => x.ctx == ctx
  let s := setHinge s h { hg with collectives := hg.collectives.filter fun x => x.ctx != ctx }
  let cls := s.clusters.filter fun c => hingeOfCluster c.1 == h
  let rounds := cls.flatMap fun c => (c.2.rounds.filter fun r => r.2.ctx == ctx).map fun r => (c.1, r.1, r.2)
  let s := cls.foldl (fun s c =>
    let cl := clusterOf s c.1
    setCluster s c.1 { cl with rounds := aFilter (fun _ r => r.ctx != ctx) cl.rounds }) s
  let c := ctxOf s ctx
  setCtx s ctx { c with savedCmds := c.savedCmds ++ cmds, savedColls := c.savedColls ++ colls
                        savedRounds := c.savedRounds ++ rounds
                        savedChains := chains.foldl (fun m x => aSet 0 x.1 x.2 m) c.savedChains }

/-- DESIGN CHOICE (log 31). -/
def saveContext (s : State) (h ctx : Nat) : State :=
  let keys := (s.teams.filter fun t => hingeOfCore t.2.core == h && t.2.ctx == ctx).map (·.1)
  let s := saveEngines (keys.foldl saveTeam s) h ctx
  flushHinge (putHeader s ctx h) h ctx

/-! ### Restoring -/

/-- A window that cannot be registered again: a LOCAL entry over zero slots (R439). -/
def loseWindow (tm : Team) (m : Nat) (e : MapEntry) : Team :=
  let lo := e.first * 1024
  let hi := lo + e.count * 1024
  let tm := { tm with maps := aInsert m { e with win := none } tm.maps
                      stash := aFilter (fun o _ => decide (o < lo ∨ hi ≤ o)) tm.stash
                      winfail := tm.winfail ||| BitVec.ofNat 16 (2 ^ m) }
  (addrRange e.first e.count).foldl (fun tm n => setSlotCls tm n .zero) tm

/-- One window of a restored team registered again (R243, R439). -/
def reopenWindow (s : State) (key m : Nat) (e : MapEntry) (w : Window) : State :=
  match teamOf s key with
  | none => s
  | some tm =>
    let (leaf, s) := translate s (clusterOfCore tm.core) tm.ctx w.va
    let base := match checkLeaf s leaf w.va .write, leaf with
      | .ok _, .ok l => some (physOf l w.va)
      | _, _ => none
    let n := 1024 * e.count
    match base with
    | some a =>
      if overlapsWindow s a n then setTeam s key (loseWindow tm m e)
      else
        let s := flushRange s a n
        setTeam s key { tm with maps := aInsert m { e with win := some { w with base := a, filled := 0, dirty := 0 } } tm.maps }
    | none => setTeam s key (loseWindow tm m e)

/-- One saved team on its core again; one that cannot be restored is discarded with a record of KIND 4. -/
def restoreTeam (s : State) (x : SavedTeam) : State :=
  let tm := x.team
  let key := teamKey tm.core tm.index
  let base := (ctxOf s tm.ctx).saveBase.toNat
  let x := loadTeam s base x
  let tm := x.team
  let (fails, s) := recordFails s key (base + x.place) (teamBytes tm (x.bands.map (·.2)))
  match fails with
  | some a =>
    let s := errorRecord s tm 255 4 0 0 0 0 (BitVec.ofNat 64 a) 0
    teamDone (dropCommands s key tm.core) tm.ctx tm.lseq
  | none =>
    let windows := tm.maps.filterMap fun e => e.2.win.map fun w => (e.1, e.2, w)
    let tm := { tm with restores := tm.restores + 1, winfail := 0
                        maps := aMap (fun _ e => { e with win := none }) tm.maps }
    let s := setTeam s key tm
    let s := x.bands.foldl (fun s b => setBand s (bandKey tm.core b.1) { b.2 with since := s.now + 1 }) s
    windows.foldl (fun s w => reopenWindow s key w.1 w.2.1 w.2.2) s

/-- The commands of a context on a hinge back in their channels; a stalled one walks again (R368). -/
def restoreEngines (s : State) (h ctx : Nat) : State :=
  let c := ctxOf s ctx
  let mine := fun (k : Nat) => hingeOfCore (k / 4) == h
  let s := setCtx s ctx { c with savedCmds := c.savedCmds.filter fun x => !mine x.1
                                 savedColls := c.savedColls.filter fun x => x.hinge != h
                                 savedRounds := c.savedRounds.filter fun r => hingeOfCluster r.1 != h
                                 savedChains := aFilter (fun k _ => !mine k) c.savedChains }
  let keys := (((c.savedCmds.map (·.1)) ++ c.savedChains.map (·.1)).filter mine).eraseDups
  let s := keys.foldl (fun s k =>
    let xs := ((c.savedCmds.filter fun x => x.1 == k).map (·.2)).map fun x => { x with stall := none }
    setCoreChan s (k / 4) (k % 4)
      { coreChan s (k / 4) (k % 4) with queue := xs.take 16, chain := xs.drop 16, chained := aGet 0 k c.savedChains }) s
  let hg := hingeOf s h
  let s := setHinge s h { hg with collectives := hg.collectives ++ c.savedColls.filter fun x => x.hinge == h }
  (c.savedRounds.filter fun r => hingeOfCluster r.1 == h).foldl (fun s r =>
    let cl := clusterOf s r.1
    setCluster s r.1 { cl with rounds := aInsert r.2.1 r.2.2 cl.rounds }) s

def restoreContext (s : State) (h ctx : Nat) : State :=
  let c := ctxOf s ctx
  let here := c.saved.filter fun t => hingeOfCore t.team.core == h
  let s := setCtx s ctx { c with saved := c.saved.filter fun t => hingeOfCore t.team.core != h }
  let s := restoreEngines s h ctx
  here.foldl restoreTeam s

/-! ### CTXSW -/

/-- The code of a hinge's active context (R418). -/
def activeCode (s : State) (h : Nat) : Nat := (hingeOf s h).active.getD 256

/-- The switch of one hinge after its drain. -/
def switchHinge (s : State) (h : Nat) (inc : Option Nat) (quantum : DWord) : State :=
  let s :=
    if (hingeOf s h).active = inc then s
    else
      let s := match (hingeOf s h).active with
        | some ctx => saveContext s h ctx
        | none => s
      let s := setHinge s h { hingeOf s h with active := inc }
      match inc with
      | some ctx => restoreContext s h ctx
      | none => s
  let q := if quantum = 0 then none else some (s.now + quantum.toNat)
  let s := expireQuantum s h
  addEv (setHinge s h { hingeOf s h with quantum := q }) h 61 1

/-- The hinges of a CTXSW whose active context leaves, with that context. -/
def leavingOf (s : State) (hinges : List Nat) (inc : Option Nat) : List (Nat × Nat) :=
  hinges.filterMap fun h => match (hingeOf s h).active with
    | some ctx => if some ctx = inc then none else some (h, ctx)
    | none => none

/-- A channel's running command stands where it may stop (R368): at a boundary, or before an element that has to wait.
DESIGN CHOICE (log 61). -/
def atRest (s : State) (core ch : Nat) : Bool :=
  match headCmd s core ch with
  | none => true
  | some c => !c.running || atBoundary c || match teamOf s c.team with
    | none => true
    | some tm => match c.kind with
      | .box store origin ext off pitch => (runBox tm ch store origin ext off pitch 1 s c).2.2 == .block
      | .rows scatter c0 c2 c3 e0 off pitch elems => (match elems[c.pos]? with
        | some (l, _, some x) =>
          (moveRow tm ch scatter (off + l * pitch) (rowElems c.desc c0 c2 c3 e0 x) 1 s c).2.part == c.part
        | _ => true)
      | .move .. | .embag .. => true

/-- Every channel of a hinge is at rest. -/
def enginesRest (s : State) (h : Nat) : Bool :=
  (s.cores.filter fun c => hingeOfCore c.1 == h).all fun c => c.2.channels.all fun q => atRest s c.1 q.1

/-- A hinge stops for a stream's CTXSW: what has issued is drained, and the windows of its teams are written back (R418, R243).
DESIGN CHOICE (log 61). -/
def beginSwitch (s : State) (id h ctx : Nat) : State :=
  let s := setHinge (drain s h ctx) h { hingeOf (drain s h ctx) h with switching := some id }
  ((s.teams.filter fun t => hingeOfCore t.2.core == h && t.2.ctx == ctx).map (·.1)).foldl closeWindows s

/-- Another stream's CTXSW is under way on a hinge. -/
def switchedByOther (s : State) (id h : Nat) : Bool := switchUnderWay s h && (hingeOf s h).switching != some id

/-- CTXSW (R418): it waits, in state WAIT, for another on its hinges, and for the drain; the switch follows in a step of its own.
DESIGN CHOICE (log 61). DESIGN CHOICE (log 61). -/
def execCtxsw (o : Ctxsw) (s : State) : Host.Outcome State Fault Refusal :=
  onStream s fun g =>
    let a := (rdStream g.rcd o.a.val).toNat
    if !g.rcd.priv then .exc { cause := cPrivilege }
    else if 512 ≤ a then .exc { cause := cOperand }
    else
      let inc := if bitOf a 8 then none else some (a % 256)
      let hinges := if o.all then List.range Config.hinges else [g.hinge]
      let id := g.hinge * Config.streams + g.num
      let leaving := leavingOf s hinges inc
      if hinges.any (switchedByOther s id) then .wait
      else if (leaving.any fun x => (hingeOf s x.1).switching != some id) ||
          leaving.any (fun x => !enginesRest s x.1) || s.pending.any fun p => leaving.any fun x => opOn x.1 x.2 p then
        let s := leaving.foldl (fun s x => beginSwitch s id x.1 x.2) s
        .jump (setStream s g.hinge g.num { streamOf s g.hinge g.num with state := 2 })
      else
        let out := activeCode s g.hinge
        let s := hinges.foldl (fun s h => switchHinge s h inc (rdStream g.rcd o.b.val)) s
        let s := leaving.foldl (fun s x => setHinge s x.1 { hingeOf s x.1 with switching := none }) s
        let t := streamOf s g.hinge g.num
        .ok (setStream s g.hinge g.num (wrStream t o.d.val (BitVec.ofNat 64 out)))

end Sys2Proof.Machine
end

