-- ==== Sys2Proof/Machine/Stops.lean ====
section
/-! DEFINITION. Debug (17): triggers and snapshots, stops and skid records, breakpoints and watchpoints, single steps, debug
reads and writes; BKPT, HALT, SNAP, MARK, ESAMP. -/

namespace Sys2Proof.Machine

/-! ### Triggers (R454, R455) -/

/-- A trigger number taken from the package counter. DEDUCED (log 74). DEDUCED (log 74). -/
def takeNumber (s : State) : Word × State := (s.trigcnt, { s with trigcnt := s.trigcnt + 1 })

/-- Delay on the trigger network from the detecting core to a core (R444). -/
def netDelay (det core : Nat) : Nat :=
  if core = det then 2 else if core / 8 = det / 8 then 6 else if core / 120 = det / 120 then 12 else 40

/-- The blocks of a scope (0 core to 3 package) around a core with their delays. DEDUCED (log 76). DEDUCED (log 76). -/
def scopeBlocks (scope core : Nat) : List (Nat × Nat × Nat) :=
  let cores := fun (ks : List Nat) => ks.map fun k => (0, k, netDelay core k)
  let clusters := fun (ks : List Nat) =>
    ks.map fun k => (1, k, if k = core / 8 then 6 else if k / 15 = core / 120 then 12 else 40)
  let hinges := fun (ks : List Nat) => ks.map fun k => (2, k, if k = core / 120 then 12 else 40)
  match scope with
  | 0 => cores [core]
  | 1 => cores (addrRange (core / 8 * 8) 8) ++ clusters [core / 8]
  | 2 => cores (addrRange (core / 120 * 120) 120) ++ clusters (addrRange (core / 120 * 15) 15) ++ hinges [core / 120]
  | _ => cores (List.range Config.cores) ++ clusters (List.range 60) ++ hinges (List.range Config.hinges)

/-- A snapshot trigger of a scope around a core; each block latches at its arrival. DEDUCED (log 74).
DEDUCED (log 74), DEDUCED (log 76). -/
def fireTrigger (s : State) (scope core : Nat) : Word × State :=
  let (n, s) := takeNumber s
  (n, { s with triggers := s.triggers ++
    [{ number := n, blocks := (scopeBlocks scope core).map fun b => (b.1, b.2.1, s.now + b.2.2) }] })

/-- DESIGN CHOICE (log 67). DESIGN CHOICE (log 67). -/
def keep4 (x : Snapshot) (l : List Snapshot) : List Snapshot := (x :: l).take 4

/-- The cycles per stall reason are implementation figures (R501). -/
def coreWords (s : State) (core : Nat) : List DWord :=
  let c := coreOf s core
  [cycleOf s core, c.issued] ++ (addrRange 1 13).map (fun k => BitVec.ofNat 64 (Config.figure s.tick (core * 16 + k)))
    ++ [c.mmacnt, c.elznop, c.elzcopy, c.elident, c.elconst, c.elrefuse].map (·.setWidth 64) ++ [c.energy]

/-- Ways that a cluster's pins hold: one in each of 512 sets per page (R235). -/
def pinnedWays (s : State) (cl : Nat) : Nat := 512 * (pinnedPages s cl).length

def clusterWords (s : State) (cl : Nat) : List DWord :=
  let c := clusterOf s cl
  [cycleOf s (cl * 8), c.hits, c.misses, c.writebacks, c.tlbMisses, BitVec.ofNat 64 (pinnedWays s cl)]

def hingeWords (s : State) (h : Nat) : List DWord :=
  let x := hingeOf s h
  [cycleOf s (Config.cores + h), x.walks, x.promotions, x.copyBytes, x.collBytes, x.embagBytes, x.bags]

/-- One block latched. DESIGN CHOICE (log 67). DESIGN CHOICE (log 67). -/
def latchBlock (s : State) (number : Word) (kind k : Nat) : State :=
  match kind with
  | 0 => setCore s k { coreOf s k with snaps := keep4 { trigger := number, words := coreWords s k } (coreOf s k).snaps }
  | 1 => setCluster s k { clusterOf s k with snaps := keep4 { trigger := number, words := clusterWords s k } (clusterOf s k).snaps }
  | _ => setHinge s k { hingeOf s k with snaps := keep4 { trigger := number, words := hingeWords s k } (hingeOf s k).snaps }

/-- The snapshot of a block under a trigger number; none is a miss (R454). -/
def snapshotOf (l : List Snapshot) (number : Word) : Option (List DWord) :=
  (l.find? fun x => x.trigger == number).map (·.words)

/-- SNAPSHOT_LATCH: the blocks of a trigger at which it has arrived. DEDUCED (log 76). -/
def latchTrigger (s : State) (n : Nat) : State :=
  match s.triggers.find? fun t => t.number.toNat == n with
  | some t =>
    let due := t.blocks.filter fun b => decide (b.2.2 ≤ s.now)
    let left := t.blocks.filter fun b => !decide (b.2.2 ≤ s.now)
    let rest := if left.isEmpty then s.triggers.erase t
      else s.triggers.map fun x => if x = t then { t with blocks := left } else x
    due.foldl (fun s b => latchBlock s t.number b.1 b.2.1) { s with triggers := rest }
  | none => s

def execSnapshotLatch (s : State) : Host.Outcome State Fault Refusal :=
  match s.cur with
  | .event (.snapshotLatch n) => .next (latchTrigger s n)
  | _ => .fault .noActor

/-! ### Sample records (R456) -/

/-- A record of 64 bytes on the sample ring of a core's hinge. -/
def sampleRecord (s : State) (core : Nat) (bs : List Byte) : State :=
  let h := hingeOfCore core
  let hg := hingeOf s h
  let (s, ring) := ringPut s hg.sample (bs ++ List.replicate (64 - bs.length) 0)
  setHinge s h { hingeOf s h with sample := ring }

/-- The first 32 bytes of a sample record. -/
def sampleHead (s : State) (kind slot core trigger : Nat) (lseq pc : DWord) : List Byte :=
  leBytes 1 kind ++ leBytes 1 slot ++ leBytes 2 core ++ leBytes 4 trigger ++ leBytes 8 (cycleOf s core).toNat
    ++ leBytes 8 lseq.toNat ++ leBytes 8 pc.toNat

def bandLseq (s : State) (b : Band) : DWord := match teamOf s b.team with | some tm => tm.lseq | none => 0

/-- The program counter of the lowest live lane. -/
def lowPc (b : Band) : DWord :=
  match (lanesWhere b fun _ t => !t.exited).head? with
  | some i => (threadOf b i).pc
  | none => 0

/-! ### Stops (R444-R448) -/

/-- Halted by debug, its record written and every thread stopped, or stopped under R423; a band in a step is not (R445, R450). -/
def bandHalted (b : Band) : Bool :=
  b.stepping.isNone && (b.stopped || match b.stop with
    | some x => x.recorded && b.threads.all fun t => t.exited || t.halted
    | none => false)

/-- The bands of a context on cores that `p` accepts. -/
def ctxBands (s : State) (ctx : Nat) (p : Nat → Bool) : List Nat :=
  (s.teams.filter fun t => t.2.ctx == ctx && p t.2.core).flatMap fun t =>
    (t.2.slots.map (bandKey t.2.core)).filter fun k => match bandOf s k with | some b => !b.retired | none => false

/-- The stop set of a scope for a band (R444). -/
def stopSet (s : State) (scope band det ctx : Nat) : List Nat :=
  let core := band / Config.slotsPerCore
  match scope with
  | 0 => [band]
  | 1 => match bandOf s band with
    | some b => match teamOf s b.team with
      | some tm => tm.slots.map (bandKey tm.core)
      | none => [band]
    | none => []
  | 2 => ctxBands s ctx fun c => c / 8 == det / 8 || c / 8 == core / 8
  | _ => ctxBands s ctx fun c => c / 120 == det / 120 || c / 120 == core / 120

/-- A stop that starts now. -/
structure StopReq where
  scope : Nat
  cause : Nat
  source : Nat := 0
  lane : Nat := 0
  addr : DWord := 0
  pc : DWord := 0
  det : Nat
  deriving DecidableEq, Repr

/-- The band whose group the step has run. -/
def stepBandKey (s : State) : Option Nat :=
  match s.cur with
  | .band core slot .. => some (bandKey core slot)
  | _ => none

def addHit (v : DWord) : DWord :=
  if v.toNat / 256 % 256 = 255 then v else v + 256

/-- A stop on its way to one band; a band that is halted or being reached only counts it (R447). -/
def reachBand (s : State) (r : StopReq) (number : Word) (own : Option Nat) (k : Nat) : State :=
  match bandOf s k with
  | none => s
  | some b =>
    if b.retired || b.threads.all (·.exited) then s
    else
      let now := own == some k && (r.cause == 1 || r.cause == 3 || r.cause == 4)
      let arrival := if now then s.now else if r.scope < 2 then s.now + 2 else s.now + netDelay r.det (k / Config.slotsPerCore)
      match b.stop with
      | some x =>
        if x.recorded then setBand s k { b with skid0 := addHit b.skid0 }
        else setBand s k { b with stop := some { x with
          hits := min 255 (x.hits + 1), arrival := if now then min x.arrival s.now else x.arrival } }
      | none =>
        if b.stopped then setBand s k { b with skid0 := addHit b.skid0 }
        else setBand s k { b with stop := some {
          cause := r.cause, source := r.source, trigger := number.toNat, lane := r.lane, addr := r.addr
          pc := if own = some k then r.pc else 0, arrival := arrival, arrived := false
          -- the group whose access hits has issued in the stop's cycle
          issued := bit (r.cause == 2 && stepBandKey s == some k), hits := 0, recorded := false } }

/-- A stop around a band: its number, and the bands of its set. -/
def startStop (s : State) (r : StopReq) (band : Option Nat) (ctx : Nat) : State :=
  let (n, s) := takeNumber s
  match band with
  | none => s
  | some k => (stopSet s r.scope k r.det ctx).foldl (fun s x => reachBand s r n (some k) x) s

/-- The snapshot scope of a stop scope: the core's for a band or team. -/
def snapScope (scope : Nat) : Nat := scope - 1

/-- The skid record written and the stop sampled (R448, R456). DEDUCED (log 87). -/
def recordStop (s : State) (k : Nat) (b : Band) (x : Stop) : State :=
  let skid := min 65535 x.issued
  let w0 := x.trigger * 2 ^ 32 + skid * 65536 + x.hits * 256 + x.source * 16 + x.cause
  let w1 := x.lane * 2 ^ 59 + x.addr.toNat % 2 ^ 55
  let b := { b with stop := some { x with recorded := true }, skid0 := BitVec.ofNat 64 w0, skid1 := BitVec.ofNat 64 w1
                    skid2 := BitVec.ofNat 64 (x.pc.toNat % 2 ^ 55) }
  let core := k / Config.slotsPerCore
  let head := sampleHead s 4 (k % Config.slotsPerCore) core x.trigger (bandLseq s b) (lowPc b)
  sampleRecord (setBand s k b) core (head ++ leBytes 1 x.cause ++ leBytes 1 0 ++ leBytes 2 skid)

/-- HSTOP of a band's context (R446). -/
def hstopOf (s : State) (b : Band) : Bool :=
  match teamOf s b.team with | some tm => (ctxOf s tm.ctx).dbgctl.getLsbD 0 | none => false

/-- A band that a stop has reached: threads at TLEVEL 0, or all with HSTOP, stop, be it after a handler that they entered later; once
all have, the record is written (R446). A band that has exited takes none (R496). -/
def settleStop (s : State) (k : Nat) : State :=
  match bandOf s k with
  | none => s
  | some b =>
    match b.stop with
    | none => s
    | some x =>
      if !x.arrived || b.stepping.isSome || b.threads.all (·.exited) then s
      else
        let all := hstopOf s b
        let b := { b with threads := b.threads.map fun t =>
          if !t.exited && (all || !t.tlevel) then { t with halted := true } else t }
        if !x.recorded && b.threads.all fun t => t.exited || t.halted then recordStop s k b x else setBand s k b

/-- STOP_ARRIVAL (R445). -/
def arriveStop (s : State) (k : Nat) : State :=
  match bandOf s k with
  | none => s
  | some b =>
    match b.stop with
    | some x =>
      if x.arrived || decide (s.now < x.arrival) then s
      else settleStop (setBand s k { b with stop := some { x with arrived := true } }) k
    | none => s

def execStopArrival (s : State) : Host.Outcome State Fault Refusal :=
  match s.cur with
  | .event (.stopArrival core slot) => .next (arriveStop s (bandKey core slot))
  | _ => .fault .noActor

/-! ### Breakpoints (R442) -/

/-- The armed breakpoints at an address, ascending. -/
def ibpAt (c : Context) (pc : DWord) : List Nat :=
  if !c.dbgctl.getLsbD 2 then []
  else (List.range 8).filter fun n =>
    let w := aGet 0 n c.ibp
    w.getLsbD 56 && (w &&& 0x007FFFFFFFFFFFFC) == pc

/-- The breakpoints that a group of a band hits: not while a resume or step passes it, nor a group at TLEVEL 1 without
HSTOP. -/
def groupIbp (s : State) (b : Band) (lanes : List Nat) (pc : DWord) : List Nat :=
  match teamOf s b.team with
  | none => []
  | some tm =>
    let c := ctxOf s tm.ctx
    if b.stepping.isSome then []
    -- a group that waits has issued, or has been matched when it first tried
    else if lanes.all fun i => (threadOf b i).noIbp || (threadOf b i).wait != .ready then []
    else if !c.dbgctl.getLsbD 0 && lanes.all fun i => (threadOf b i).tlevel then []
    else ibpAt c pc

/-- The stops, and snapshot triggers, of breakpoint hits. -/
def hitIbp (s : State) (core k ctx : Nat) (pc : DWord) (ns : List Nat) : State :=
  ns.foldl (fun s n =>
    let w := aGet 0 n (ctxOf s ctx).ibp
    let scope := bitsOf w.toNat 58 2
    let s := startStop s { scope := scope, cause := 1, source := n, pc := pc, det := core } (some k) ctx
    if w.getLsbD 57 then (fireTrigger s (snapScope scope) core).2 else s) s

/-- Not exited, not waiting, and within the top region unless in a handler (R191, debug halts apart). -/
def eligible (b : Band) (i : Nat) : Bool :=
  let t := threadOf b i
  let waits := match t.wait with | .ready | .captured _ | .answered | .polled _ | .key .. => false | _ => true
  !t.exited && !waits && (t.tlevel || (b.reload.isNone && match b.split with
    | [] => b.spilled.isEmpty
    | top :: _ => inMask top.mask i && !inMask top.arrived i))

/-- BREAKPOINT_HIT: a group about to issue at breakpoint `n` does not. -/
def breakpointHit (s : State) (core slot n : Nat) : State :=
  let k := bandKey core slot
  match bandOf s k with
  | none => s
  | some b => match teamOf s b.team with
    | none => s
    | some tm =>
      let pc := aGet 0 n (ctxOf s tm.ctx).ibp &&& 0x007FFFFFFFFFFFFC
      let lanes := lanesWhere b fun i t => t.pc == pc && eligible b i && !t.halted
      let ns := groupIbp s b lanes pc
      if !lanes.isEmpty && b.stop.isNone && ns.contains n then hitIbp s core k tm.ctx pc ns else s

def execBreakpointHit (s : State) : Host.Outcome State Fault Refusal :=
  match s.cur with
  | .event (.breakpointHit core slot n) => .next (breakpointHit s core slot n)
  | _ => .fault .noActor

/-! ### Watchpoints (R443) -/

/-- The lowest byte of an access in a watchpoint's range, if the watchpoint matches it. -/
def watchByte (s : State) (ctx n : Nat) (x : Seen) : Option Nat :=
  let c := ctxOf s ctx
  let w := aGet 0 n c.wpc
  let v := w.toNat
  let m := min 30 (bitsOf v 21 5)
  let space1 := bitOf v 12
  let a := aGet 0 n c.wpa
  let lo := (if space1 then a.toNat % 2 ^ 19 else a.toNat % 2 ^ 55) / 2 ^ m * 2 ^ m
  let kind := (x.read && bitOf v 16) || (x.write && bitOf v 17) || (x.atomic && bitOf v 18)
  let agent := if x.engine then bitOf v 20 else bitOf v 19
  let at_ := if space1 then match x.stash with
      | some (t, off) => match teamOf s t with
        | some tm => if tm.core = bitsOf v 32 9 ∧ tm.index = bitsOf v 28 4 ∧ tm.ctx = ctx then some off else none
        | none => none
      | none => none
    else if x.ctx = ctx then x.va else none
  match at_ with
  | none => none
  | some o =>
    if c.dbgctl.getLsbD 3 && bitOf v 0 && kind && agent && decide (lo < o + x.len ∧ o < lo + 2 ^ m) then some (max o lo)
    else none

/-- The contexts whose watchpoints may match an access. -/
def watchCtxs (s : State) (x : Seen) : List Nat :=
  let own := match x.stash with
    | some (t, _) => match teamOf s t with | some tm => [tm.ctx] | none => []
    | none => []
  (x.ctx :: own).eraseDups

/-- The lowest lane of an instruction whose access matches, performed or still to come, with its lowest matched byte. -/
def lowestMatch (s : State) (ctx n : Nat) (x : Seen) (byte : Nat) : Nat × Nat :=
  let same := fun (y : Seen) => y.band == x.band && y.instr == x.instr && y.engine == x.engine
  let later := match x.instr with
    | some i => (s.pending.filter fun o => o.seq == i && some o.issuer == x.band).filterMap (seenOp s)
    | none => []
  ((s.seen.filter same) ++ later).foldl (fun (best : Nat × Nat) y =>
    match watchByte s ctx n y with
    | some a => if y.lane < best.1 ∨ (y.lane = best.1 ∧ a < best.2) then (y.lane, a) else best
    | none => best) (x.lane, byte)

/-- The accesses of a step, each with the band and the instruction address that a stop of it has (R444, R448): its own; of a fill those
of the access that caused it, the last before it, or of the step's group; of a write-back those of the step's group, which executes
MAPF or MAPC. -/
def withCauses (group : Option Nat × DWord) : Option Nat × DWord → List Seen → List (Seen × Option Nat × DWord)
  | _, [] => []
  | last, x :: xs =>
    if x.band.isSome then
      let own := (x.band, if x.engine then 0 else x.pc)
      (x, own) :: withCauses group own xs
    else (x, if !x.engine then (none, 0) else if x.write then last else group) :: withCauses group last xs

/-- The step's group and its instruction's address. -/
def stepGroup (s : State) : Option Nat × DWord :=
  match s.cur with
  | .band core slot _ addr .. => (some (bandKey core slot), addr)
  | _ => (none, 0)

/-- The detecting core of a hit: the accessing one, or at SPACE 1 the owner (R444). -/
def detOf (w : DWord) (x : Seen) : Nat :=
  if w.getLsbD 12 then (match x.stash with | some (t, _) => t / Config.teamsPerCore | none => x.core) else x.core

/-- One watchpoint against one access. DEDUCED (log 73). DEDUCED (log 73). -/
def matchWatch (s : State) (x : Seen) (cause : Option Nat × DWord) (ctx n : Nat) : State :=
  match watchByte s ctx n x with
  | none => s
  | some a =>
    let hit := (ctx, n, x.band.getD 0, x.instr.getD (2 ^ 64))
    if !x.engine && s.wpHits.contains hit then s
    else
      let s := if x.engine then s else { s with wpHits := s.wpHits ++ [hit] }
      let (lane, addr) := if x.engine then (0, a) else lowestMatch s ctx n x a
      let w := aGet 0 n (ctxOf s ctx).wpc
      let scope := bitsOf w.toNat 14 2
      let det := detOf w x
      let req : StopReq := { scope := scope, cause := 2, source := n, lane := lane, addr := BitVec.ofNat 64 addr, pc := cause.2
                             det := det }
      let s := startStop s req cause.1 ctx
      if w.getLsbD 13 then (fireTrigger s (snapScope scope) det).2 else s

/-- A hit before others in the order of R455: by detecting core, then by watchpoint. -/
def hitBefore (x y : Nat × Nat × (Seen × Option Nat × DWord) × Nat) : Bool := decide (x.1 < y.1 ∨ (x.1 = y.1 ∧ x.2.1 < y.2.1))

/-- A hit put behind those that come before it or are its equals. -/
def insertHit (x : Nat × Nat × (Seen × Option Nat × DWord) × Nat) :
    List (Nat × Nat × (Seen × Option Nat × DWord) × Nat) → List (Nat × Nat × (Seen × Option Nat × DWord) × Nat)
  | [] => [x]
  | y :: ys => if hitBefore x y then x :: y :: ys else y :: insertHit x ys

/-- The accesses of the step matched; hits of instructions with nothing left to perform are forgotten.
DEDUCED (log 73). DEDUCED (log 73). -/
def matchSeen (s : State) : State :=
  let seen := withCauses (stepGroup s) (stepGroup s) s.seen
  let hits := seen.flatMap fun x => (watchCtxs s x.1).flatMap fun ctx => (List.range 8).filterMap fun n =>
    if (watchByte s ctx n x.1).isSome then some (detOf (aGet 0 n (ctxOf s ctx).wpc) x.1, n, x, ctx) else none
  let s := (hits.foldl (fun l h => insertHit h l) []).foldl (fun s h => matchWatch s h.2.2.1.1 h.2.2.1.2 h.2.2.2 h.2.1) s
  let open_ := fun (h : Nat × Nat × Nat × Nat) => s.pending.any fun o => o.issuer == h.2.2.1 && o.seq == h.2.2.2
  { s with wpHits := s.wpHits.filter open_ }

/-! ### Band commands (R449, R450, R470) -/

/-- The bands that a band set names, in a context. -/
def setBands (s : State) (ctx : Nat) (x : BandSet) : List Nat :=
  match x.scope with
  | .band => (ctxBands s ctx fun c => c == x.core).filter fun k => k == bandKey x.core x.slot
  | .team => match teamOf s (teamKey x.core x.tslot) with
    | some tm => if tm.ctx = ctx then tm.slots.map (bandKey x.core) else []
    | none => []
  | .cluster => ctxBands s ctx fun c => c / 8 == x.core / 8
  | .hinge => ctxBands s ctx fun c => c / 120 == x.core / 120

def onBands (s : State) (ks : List Nat) (p : Band → Bool) (f : Band → Band) : State :=
  ks.foldl (fun s k => match bandOf s k with
    | some b => if p b && !b.retired then setBand s k (f b) else s
    | none => s) s

/-- A resumed band: every thread goes on, its first group without a breakpoint match. -/
def resumed (b : Band) : Band :=
  { b with stop := none, stopped := false
           threads := b.threads.map fun t => if t.exited then t else { t with halted := false, noIbp := true } }

/-- An aborted band: its threads are exited (R423). -/
def abortedBand (b : Band) : Band :=
  { b with stop := none, stopped := false, threads := b.threads.map fun t =>
      { t with exited := true, halted := false, wait := .ready } }

/-- A band of a resume that may still start issuing, or of a step that goes on (R470). DEDUCED (log 63).
DEDUCED (log 63). -/
def bandStarts (s : State) (ctx k : Nat) : Bool :=
  match bandOf s k with
  | none => false
  | some b =>
    (match teamOf s b.team with | some tm => tm.ctx == ctx | none => false) &&
      (b.stepping.isSome || (b.stop.isNone && !b.stopped && !b.threads.all (·.exited)))

/-- A band that issues has started (R470). -/
def bandStarted (s : State) (k : Nat) : State :=
  match bandOf s k with
  | none => s
  | some b => match teamOf s b.team with
    | none => s
    | some tm =>
      let c := ctxOf s tm.ctx
      if b.stepping.isNone && c.cmdBands.contains k then setCtx s tm.ctx { c with cmdBands := c.cmdBands.erase k } else s

/-- BANDCMD.BUSY (R470): a band of the command has not started, or steps. DEDUCED (log 63). -/
def busyCmd (s : State) (ctx : Nat) : Bool := (ctxOf s ctx).cmdBands.any (bandStarts s ctx)

/-- The bands of a command that was accepted. -/
def setCmd (s : State) (ctx : Nat) (ks : List Nat) : State := setCtx s ctx { ctxOf s ctx with cmdBands := ks }

/-- BAND_RESUME (R449). DEDUCED (log 63). -/
def resumeBands (s : State) (ctx : Nat) (x : BandSet) : State :=
  if busyCmd s ctx then s
  else
    let ks := (setBands s ctx x).filter fun k => match bandOf s k with | some b => bandHalted b && !b.retired | none => false
    setCmd (onBands s ks bandHalted resumed) ctx ks

/-- BAND_ABORT (R423). -/
def abortBands (s : State) (ctx : Nat) (x : BandSet) : State :=
  if busyCmd s ctx then s
  else onBands s (setBands s ctx x) bandHalted abortedBand

/-- BAND_STEP (R450): one halted band; where no candidate has the named program counter, or none is left, the command is ignored. -/
def stepBand (s : State) (ctx core slot : Nat) (pc : Option DWord) : State :=
  let k := bandKey core slot
  if busyCmd s ctx || !(ctxBands s ctx fun c => c == core).contains k then s
  else match bandOf s k with
    | none => s
    | some b =>
      let has := match pc with
        | some p => (List.range b.threads.length).any fun i => eligible b i && (threadOf b i).pc == p
        | none => (List.range b.threads.length).any (eligible b)
      if b.stopped || !bandHalted b || !has then s
      else setCmd (setBand s k { b with stepping := some { want := pc, issued := none, lanes := [], outcome := 0 } }) ctx [k]

def execBandResume (s : State) : Host.Outcome State Fault Refusal :=
  match s.cur with
  | .event (.bandResume ctx x) => .next (resumeBands s ctx x)
  | _ => .fault .noActor
def execBandAbort (s : State) : Host.Outcome State Fault Refusal :=
  match s.cur with
  | .event (.bandAbort ctx x) => .next (abortBands s ctx x)
  | _ => .fault .noActor
def execBandStep (s : State) : Host.Outcome State Fault Refusal :=
  match s.cur with
  | .event (.bandStep ctx core slot pc) => .next (stepBand s ctx core slot pc)
  | _ => .fault .noActor

/-- DRIVER_HALT_REQUEST (R448): a stop of the set with CAUSE 5. -/
def driverHalt (s : State) (ctx : Nat) (x : BandSet) : State :=
  let ks := setBands s ctx x
  let scope := match x.scope with | .band => 0 | .team => 1 | .cluster => 2 | .hinge => 3
  let (n, s) := takeNumber s
  ks.foldl (fun s k => reachBand s { scope := scope, cause := 5, det := x.core } n none k) s

def execDriverHaltRequest (s : State) : Host.Outcome State Fault Refusal :=
  match s.cur with
  | .event (.driverHaltRequest ctx x) => .next (driverHalt s ctx x)
  | _ => .fault .noActor

/-- What a step's group came to, after its instruction (R450): 7 blocked, 8 faulted, 9 exited, 6 done; 0 while it goes on. -/
def stepOutcome (s : State) (k : Nat) (b : Band) (x : StepInfo) : Nat :=
  let ts := x.lanes.map (threadOf b)
  let blocked := fun t : Thread => match t.wait with
    | .tumbler .. | .rdr _ | .key .. => true
    | .polled c => c == stLatch || c == stKey
    | _ => false
  if x.outcome = 8 ∨ b.stopped then 8
  else if ts.any (·.exited) then 9
  else if ts.any blocked then 7
  else if ts.any fun t => match t.wait with | .page _ | .answered | .polled _ | .captured _ => true | _ => false then 0
  else if bandIdle s k then 6 else 0

/-- STEP_END: the band halts again with the step's cause (R448, R450). -/
def endStep (s : State) (k : Nat) : State :=
  match bandOf s k with
  | none => s
  | some b => match b.stepping with
    | none => s
    | some x => match x.issued with
      | none => s
      | some pc =>
        let c := stepOutcome s k b x
        if c = 0 then s
        else
          let free := fun t : Thread => match t.wait with
            | .tumbler .. | .rdr _ | .polled _ | .key .. => { t with wait := Wait.ready }
            | _ => t
          let b := { b with
            stepping := none
            stop := some { cause := c, source := 0, trigger := 0, lane := 0, addr := 0, pc := pc, arrival := s.now
                           arrived := true, issued := 0, hits := 0, recorded := true }
            skid0 := BitVec.ofNat 64 c, skid1 := 0, skid2 := BitVec.ofNat 64 (pc.toNat % 2 ^ 55)
            threads := b.threads.map fun t => if t.exited then t else { free t with halted := true } }
          setBand s k b

def execStepEnd (s : State) : Host.Outcome State Fault Refusal :=
  match s.cur with
  | .event (.stepEnd core slot) => .next (endStep s (bandKey core slot))
  | _ => .fault .noActor

/-! ### Debug reads and writes (R451, R452) -/

/-- A debug read: the value, none when it fails (R451). -/
def debugReadAt (s : State) (a : Nat) : Option DWord × State :=
  let core := bitsOf a 39 9
  let slot := bitsOf a 33 6
  let o := bitsOf a 0 28
  if o % 8 ≠ 0 ∨ Config.cores ≤ core then (none, s)
  else match bitsOf a 28 5 with
    | 0 => match bandOf s (bandKey core slot) with
      | some b =>
        (if bandHalted b && decide (o < bandBytes b) then some (bandWord b o) else none, s)
      | none => (none, s)
    | 1 => match if slot < 16 then teamOf s (teamKey core slot) else none with
      | some tm =>
        let halted := tm.slots.all fun n => match bandOf s (bandKey core n) with
          | some b => bandHalted b || b.retired
          | none => true
        let bands := (sortedSlots tm.slots).filterMap fun n => bandOf s (bandKey core n)
        (if halted then teamWord tm bands o else none, s)
      | none => (none, s)
    | 2 => match bandOf s (bandKey core slot) with
      | some b =>
        if !bandHalted b then (none, s)
        else (match o with | 0 => some b.skid0 | 8 => some b.skid1 | 16 => some b.skid2 | _ => none, s)
      | none => (none, s)
    | _ => (none, s)

/-- A debug write to a halted band's record: PC, FSTAT, predicates, scalar and vector registers; others are ignored.
DEDUCED (log 75). DEDUCED (log 75). -/
def writeBandWord (b : Band) (o : Nat) (v : DWord) : Band :=
  if o < 0x600 then
    match o % 48 with
    -- a thread that waits at an instruction, not at a JOIN, then issues at the new one
    | 0 => onLanes b [o / 48] fun _ t =>
      { t with pc := v &&& 0x007FFFFFFFFFFFFC, wait := match t.wait with | .join n e => .join n e | _ => .ready }
    | 32 => onLanes b [o / 48] fun _ t => { t with fstat := v.setWidth 5, preds := (v >>> 32).setWidth 15 }
    | _ => b
  else if o < 0xA00 then b
  else if o < 0xA00 + 8 * b.sregCount then wrS b ((o - 0xA00) / 8) v
  else
    let i := (o - 0xA00 - 8 * b.sregCount) / 4
    let put := fun (b : Band) (i : Nat) (x : Word) =>
      { onLanes b [i % 32] (fun _ t => wrV t (i / 32) x) with vEcc := aErase i b.vEcc }
    put (put b i (v.setWidth 32)) (i + 1) ((v >>> 32).setWidth 32)

/-- Whether a debug write succeeded, and its effect. DEDUCED (log 75). DEDUCED (log 75). -/
def debugWriteAt (s : State) (a : Nat) (v : DWord) : Bool × State :=
  let core := bitsOf a 39 9
  let slot := bitsOf a 33 6
  let o := bitsOf a 0 28
  let k := bandKey core slot
  let (r, _) := debugReadAt s a
  if r.isNone then (false, s)
  else if bitsOf a 28 5 = 0 then
    match bandOf s k with
    | some b => (true, setBand s k (writeBandWord b o v))
    | none => (false, s)
  else (true, s)

/-- DEBUG_READ: a read of DBGDATA of a core (R451, R473). -/
def readDbgData (s : State) (core : Nat) : DWord × State :=
  let (r, s) := debugReadAt s (coreOf s core).dbgAddr.toNat
  (r.getD 0, setCore s core { coreOf s core with dbgFail := r.isNone })

def execDebugRead (s : State) : Host.Outcome State Fault Refusal :=
  match s.cur with
  | .event (.debugRead core) =>
    let (v, s) := readDbgData s core
    .next { s with sent := s.sent ++ [.debug v (coreOf s core).dbgFail] }
  | _ => .fault .noActor

/-- DEBUG_WRITE: a write of DBGDATA. -/
def writeDbgData (s : State) (core : Nat) (v : DWord) : State :=
  let (ok, s) := debugWriteAt s (coreOf s core).dbgAddr.toNat v
  setCore s core { coreOf s core with dbgFail := !ok }

def execDebugWrite (s : State) : Host.Outcome State Fault Refusal :=
  match s.cur with
  | .event (.debugWrite core v) => .next (writeDbgData s core v)
  | _ => .fault .noActor

/-- TAP_DPACC (R452): what the next Capture-DR loads goes out. -/
def execTapDpacc (s : State) : Host.Outcome State Fault Refusal :=
  match s.cur with
  | .event (.tapDpacc write a v) =>
    if write then
      let (ok, s) := debugWriteAt s a v
      .next { s with sent := s.sent ++ [.debug v (!ok)] }
    else
      let (r, s) := debugReadAt s a
      .next { s with sent := s.sent ++ [.debug (r.getD 0) r.isNone] }
  | _ => .fault .noActor

/-- DRIVER_TRIGGER (R455): a snapshot trigger of package scope. -/
def execDriverTrigger (s : State) : Host.Outcome State Fault Refusal :=
  match s.cur with
  | .event .driverTrigger => .next (fireTrigger s 3 0).2
  | _ => .fault .noActor

/-! ### BKPT, HALT, SNAP, MARK, ESAMP (R430, R463) -/

/-- A group that goes on past the instruction and stops. -/
def stopHere (s : State) (req : Grp → Context → Option StopReq) : Host.Outcome State Fault Refusal :=
  perGroup s fun g =>
    match req g (ctxOf s (grpCtx s g)) with
    | some r => .ok (startStop s r (some g.key) (grpCtx s g))
    | none => .ok s

/-- BKPT (R463). -/
def execBkptC (o : C1) (s : State) : Host.Outcome State Fault Refusal :=
  stopHere s fun g c =>
    if c.dbgctl.getLsbD 6 then
      some { scope := bitsOf c.dbgctl.toNat 4 2, cause := 3, addr := BitVec.ofNat 64 o.d.val, pc := g.addr, det := g.core }
    else none

/-- HALT (R430). -/
def execHaltC (s : State) : Host.Outcome State Fault Refusal :=
  match s.cur with
  | .stream .. => onStream s fun g => .jump (setStream s g.hinge g.num { g.rcd with state := 3, cause := 0xFF })
  | _ => stopHere s fun g _ => some { scope := 0, cause := 4, pc := g.addr, det := g.core }

/-- SNAP (R463). -/
def execSnap (o : Snap) (s : State) : Host.Outcome State Fault Refusal :=
  perGroup s fun g =>
    let scope := match o.scope with | .core => 0 | .cluster => 1 | .hinge => 2 | .package => 3
    let (n, s) := fireTrigger s scope g.core
    .ok (setBand s g.key (wrS g.band o.d.val (n.setWidth 64)))

/-- MARK (R463). -/
def execMark (o : Mark) (s : State) : Host.Outcome State Fault Refusal :=
  perGroup s fun g =>
    if !(ctxOf s (grpCtx s g)).dbgctl.getLsbD 7 then .ok s
    else
      let v : DWord := match o.v with
        | .reg b => rdS g.band b.val
        | .imm v => v.setWidth 64
        | .lit v => v
      .ok (sampleRecord s g.core
        (sampleHead s 3 g.slot g.core 0 (bandLseq s g.band) g.addr ++ leBytes 8 v.toNat))

/-- ESAMP (R463). -/
def esamp (core : Bool) (d : Nat) (s : State) : Host.Outcome State Fault Refusal :=
  perGroup s fun g =>
    .ok (setBand s g.key (wrS g.band d (if core then (coreOf s g.core).energy else g.band.energy)))

/-- ESAMP, the compact form: the band total (R462, R463). -/
def execEsampC (o : C1) (s : State) : Host.Outcome State Fault Refusal := esamp false o.d.val s

/-- ESAMP (R463). -/
def execEsamp (o : Esamp) (s : State) : Host.Outcome State Fault Refusal := esamp o.core o.d.val s

end Sys2Proof.Machine
end

