-- ==== Sys2Proof/Machine/System.lean ====
section
/-! DEFINITION. System instructions (16): TRAP, TRET, MFS, MTS; Engine traps taken (R425); soft errors and the scrubber
(R426-R428). -/

namespace Sys2Proof.Machine

/-! ### TRAP, TRET (R430) -/

/-- TRAP with a code: every thread of P takes the trap, with TPC the address of the next instruction. -/
def trapCode (code : Nat) (s : State) : Host.Outcome State Fault Refusal :=
  match s.cur with
  | .stream .. => onStream s fun g =>
      .jump (streamTrap s g.hinge g.num (0x40 + code) 0 (tinfoOf g.word code) g.next)
  | _ => perGroupTo s fun g s =>
      let s := takeTraps s g.key false (g.live.map fun i =>
        { lane := i, cause := 0x40 + code, addr := 0, info := tinfoOf g.word code, pc := g.next })
      -- a trap is the instruction's effect: R217 counts its threads
      .ok { s with faulted := 0 }

def execTrapC (o : C1) (s : State) : Host.Outcome State Fault Refusal := trapCode o.d.val s
def execTrap (o : Trap) (s : State) : Host.Outcome State Fault Refusal := trapCode o.code.val s

/-- Whether a thread that returns came from Divergence Deadlock or from a reload's fault, so that its TRET settles the
stack (R203, R500). -/
def tretSettles (b : Band) (i : Nat) : Bool :=
  (threadOf b i).tcause.toNat == cDeadlock || (match b.reload with | some m => inMask m i | none => false)

/-- TRET (R430). -/
def execTretC (s : State) : Host.Outcome State Fault Refusal :=
  match s.cur with
  | .stream .. => onStream s fun g =>
      if !g.rcd.tlevel then .exc { cause := cIllegal }
      else .jump (setStream s g.hinge g.num { g.rcd with pc := g.rcd.tpc, tlevel := false, state := 1 })
  | _ =>
    let r := perThreadTo s fun _ _ t => if t.tlevel then .ok (trapReturn t) else .exc { cause := cIllegal }
    match grpOf s, r with
    | some g, .next s' =>
      let back := g.live.filter fun i => (threadOf g.band i).tlevel
      if !back.any (tretSettles g.band) then .next s'
      else
        -- the faults of the group's other threads are taken with those of the settle, in one step (R423)
        let bad := g.live.filter fun i => !back.contains i
        let b := onLanes g.band g.lanes fun i t =>
          if back.contains i then { trapReturn t with wait := .ready }
          else if bad.contains i then t
          else { t with pc := g.next, wait := .ready }
        let recs := bad.map fun i => FaultRec.mk i cIllegal 0 (tinfoOf g.word 0) g.addr
        let s' := settleTret { setBand s g.key b with early := s.early ++ recs } g.key back g.word
        .next (if s'.early.isEmpty then s' else takeTraps s' g.key false [])
    | _, r => r

/-! ### Special registers (R431-R435) -/

/-- CAPS (R433). -/
def capsWord (s : State) : DWord :=
  let mods := ((List.range 16).filter fun k => (moduleOf s k).ranks != 0).length
  BitVec.ofNat 64 (mods * 2 ^ 24 + s.links * 2 ^ 16 + s.stepping.toNat * 2 ^ 8 + (if s.profileN then 2 else 1))

/-- CORECAPS (R23). -/
def corecapsWord (s : State) (core : Nat) : DWord :=
  let c := coreOf s core
  BitVec.ofNat 64 (c.kdecl.toNat * 2 ^ 48 + core * 2 ^ 32 + hingeOfCore core * 2 ^ 20 + core / 8 % 15 * 2 ^ 16
    + core % 8 * 2 ^ 8 + bit c.hcause * 4 + bit (c.half && c.grp) * 2 + bit c.half)

/-- Whether a register is 64 bits wide (R432). -/
def sregWide : Sreg → Bool
  | .lane | .band | .team | .group | .ctxnum | .fstat | .tcause | .tlevel => false
  | .lseq | .lpc | .cycle | .caps | .corecaps | .ptbase | .restores | .fctl | .srstate | .tvec | .tpc | .taddr | .tinfo
  | .cwp _ | .csq _ | .dbgctl | .energy => true

/-- PTBASE as it reads (R432). -/
def ptbaseMask : DWord := 0x0000FFFFFFFF0000
def pcMask : DWord := 0x007FFFFFFFFFFFFC
def tvecMask : DWord := 0x007FFFFFFFFFFFFD

/-- A special register as a thread of a group reads it. -/
def readSreg (s : State) (g : Grp) (tm : Team) (lane : Nat) (t : Thread) : Sreg → DWord
  | .lane => BitVec.ofNat 64 lane
  | .band => BitVec.ofNat 64 g.band.idx
  | .team => BitVec.ofNat 64 tm.team
  | .group => BitVec.ofNat 64 tm.group
  | .lseq => tm.lseq
  | .lpc => tm.lpc
  | .cycle => cycleOf s g.core
  | .caps => capsWord s
  | .corecaps => corecapsWord s g.core
  | .ctxnum => BitVec.ofNat 64 tm.ctx
  | .ptbase => (ctxOf s tm.ctx).ptbase &&& ptbaseMask
  | .restores => BitVec.ofNat 64 (tm.winfail.toNat * 2 ^ 32 + tm.restores.toNat)
  | .fstat => t.fstat.setWidth 64
  | .fctl => g.band.rm.setWidth 64
  | .srstate => g.band.srstate
  | .tvec => (ctxOf s tm.ctx).tvec
  | .tcause => t.tcause.setWidth 64
  | .tpc => t.tpc
  | .taddr => t.taddr
  | .tinfo => t.tinfo
  | .tlevel => BitVec.ofNat 64 (bit t.tlevel)
  | .cwp n => (chanOf tm n.val).cwp
  | .csq n => (chanOf tm n.val).csq
  | .dbgctl => (ctxOf s tm.ctx).dbgctl.setWidth 64
  | .energy => g.band.energy

/-- A special register as a stream reads it. -/
def readSregStream (s : State) (g : Strm) : Sreg → DWord
  | .cycle => cycleOf s (Config.cores + g.hinge)
  | .caps => capsWord s
  | .ctxnum => g.rcd.ctx.setWidth 64
  | .tvec => g.rcd.tvec
  | .tcause => g.rcd.tcause.setWidth 64
  | .tpc => g.rcd.tpc
  | .taddr => g.rcd.taddr
  | .tinfo => g.rcd.tinfo
  | .tlevel => BitVec.ofNat 64 (bit g.rcd.tlevel)
  | _ => 0

/-- MFS of CWPn is an acquire of the threads that read it: they have observed the bytes that it counts (R289). -/
def observeCwp (s : State) (g : Grp) (r : Sreg) : State :=
  match r, teamOf s g.band.team with
  | .cwp n, some tm => setTeam s g.band.team (observe tm g.key g.live n.val (chanOf tm n.val).cwp.toNat)
  | _, _ => s

/-- MFS (R435). -/
def execMfs (o : Msr) (s : State) : Host.Outcome State Fault Refusal :=
  match s.cur with
  | .stream .. => onStream s fun g =>
      match o.r with
      | .sca d => .ok (setStream s g.hinge g.num (wrStream g.rcd d.val (readSregStream s g o.reg)))
      | .vec _ => .exc { cause := cIllegal }
  | _ =>
    match o.r with
    | .sca d => perGroup s fun g =>
        match teamOf s g.band.team with
        | none => .ok s
        | some tm =>
          let lane := g.live.headD 0
          let v := readSreg s g tm lane (threadOf g.band lane) o.reg
          .ok (setBand (observeCwp s g o.reg) g.key (wrS g.band d.val v))
    | .vec d =>
      let r := vecOp s [d.val] fun g i t =>
        match teamOf s g.band.team with
        | none => t
        | some tm =>
          let v := readSreg s g tm i t o.reg
          if sregWide o.reg then wrV64 t d.val v else wrV t d.val (v.setWidth 32)
      match r, grpOf s with
      | .next s', some g => .next (if g.live.isEmpty || decide (g.band.n ≤ d.val) then s' else observeCwp s' g o.reg)
      | r, _ => r

/-- A register of thread scope written: reserved bits are ignored (R6). -/
def writeThreadSreg (t : Thread) (r : Sreg) (v : DWord) : Thread :=
  match r with
  | .fstat => { t with fstat := v.setWidth 5 }
  | .tcause => { t with tcause := v.setWidth 9 }
  | .tpc => { t with tpc := v &&& pcMask }
  | .taddr => { t with taddr := v }
  | .tinfo => { t with tinfo := v }
  | _ => t

/-- Another register written once by a group. -/
def writeBandSreg (s : State) (g : Grp) (r : Sreg) (v : DWord) : State :=
  let ctx := grpCtx s g
  match r with
  | .fctl => setBand s g.key { g.band with rm := writeRm g.band.rm v }
  | .srstate => setBand s g.key { g.band with srstate := v }
  | .tvec => setCtx s ctx { ctxOf s ctx with tvec := v &&& tvecMask }
  | .dbgctl => setCtx s ctx { ctxOf s ctx with dbgctl := v.setWidth 8 &&& 0xFD }
  | _ => s

/-- A stream's own registers written. -/
def writeStreamSreg (t : Stream) (r : Sreg) (v : DWord) : Stream :=
  match r with
  | .tvec => { t with tvec := v &&& tvecMask }
  | .tcause => { t with tcause := v.setWidth 9 }
  | .tpc => { t with tpc := v &&& pcMask }
  | .taddr => { t with taddr := v }
  | .tinfo => { t with tinfo := v }
  | _ => t

/-- MTS (R435). -/
def execMts (o : Msr) (s : State) : Host.Outcome State Fault Refusal :=
  match s.cur with
  | .stream .. => onStream s fun g =>
      match o.r with
      | .sca a => .ok (setStream s g.hinge g.num (writeStreamSreg g.rcd o.reg (rdStream g.rcd a.val)))
      | .vec _ => .exc { cause := cIllegal }
  | _ =>
    match o.r with
    | .sca a =>
      if threadScope o.reg then vecOp s [] fun g _ t => writeThreadSreg t o.reg (rdS g.band a.val)
      else perGroup s fun g => .ok (writeBandSreg s g o.reg (rdS g.band a.val))
    | .vec a =>
      vecOp s [a.val] fun _ _ t =>
        writeThreadSreg t o.reg (if sregWide o.reg then rdV64 t a.val else (rdV t a.val).setWidth 64)

/-! ### Engine traps (R425) -/

/-- The lane that takes a band's due trap: the lowest that has not exited and does not wait at a JOIN. -/
def trapLane (b : Band) : Option Nat :=
  (lanesWhere b fun _ t => !t.exited && (match t.wait with | .join .. => false | _ => true)).head?

/-- TINFO of an Engine trap. -/
def engineInfo (x : EngineTrap) (lost : BitVec 8) : DWord :=
  BitVec.ofNat 64 (x.seq.toNat * 2 ^ 32 + x.comm % 256 * 2 ^ 24 + x.cause % 256 * 2 ^ 16 + x.unit % 256 * 2 ^ 8 + lost.toNat)

/-- ENGINE_TRAP_TAKE: the oldest queued trap, when the chosen thread stands at a boundary at TLEVEL 0.
DEDUCED (log 40). DEDUCED (log 40). -/
def takeEngineTrap (s : State) (k : Nat) : State :=
  match bandOf s k with
  | none => s
  | some b =>
    match b.traps, trapLane b with
    | x :: rest, some i =>
      let t := threadOf b i
      let captured := match t.wait with | .captured _ => true | _ => false
      if t.tlevel || t.halted || captured then s
      else
        let s := setBand s k { b with traps := rest, lostTraps := 0 }
        takeTraps s k true
          [{ lane := i, cause := cEngine, addr := x.addr, info := engineInfo x b.lostTraps, pc := t.pc }]
    | _, _ => s

def execEngineTrapTake (s : State) : Host.Outcome State Fault Refusal :=
  match s.cur with
  | .event (.engineTrapTake core slot) => .next (takeEngineTrap s (bandKey core slot))
  | _ => .fault .noActor

/-! ### Soft errors (R426-R428) -/

/-- The corrected-error count of a core, saturating (R473). -/
def addCorrected (s : State) (core n : Nat) : State :=
  let c := coreOf s core
  setCore s core { c with corrErr := BitVec.ofNat 32 (min (2 ^ 32 - 1) (c.corrErr.toNat + n)) }

def countSingle (m : AList EccMark) : Nat := (m.filter fun e => e.2 == .single).length

/-- The marks after the scrubber: single errors corrected, double errors poisoned. -/
def scrubMarks (m : AList EccMark) : AList EccMark :=
  aMap (fun _ _ => .poisoned) (aFilter (fun _ e => e != .single) m)

/-- SCRUB of one core. -/
def scrubCore (s : State) (core : Nat) : State :=
  (List.range Config.slotsPerCore).foldl (fun s slot =>
    match bandOf s (bandKey core slot) with
    | none => s
    | some b =>
      let s := setBand s (bandKey core slot) { b with vEcc := scrubMarks b.vEcc, sEcc := scrubMarks b.sEcc }
      addCorrected s core (countSingle b.vEcc + countSingle b.sEcc)) s

def execScrub (s : State) : Host.Outcome State Fault Refusal :=
  match s.cur with
  | .event (.scrub core) => .next (scrubCore s core)
  | _ => .fault .noActor

end Sys2Proof.Machine
end

