-- ==== Sys2Proof/Machine/Window.lean ====
section
/-! DEFINITION. The control window (18 R466-R473): what a driver's read of a register returns and clears, what a write does. -/

namespace Sys2Proof.Machine

/-! ### Boot state (R480) -/

/-- The window serves every block once BOOTSTAT reports ready; before, the global block alone. DEDUCED (log 62).
DEDUCED (log 62). -/
def ready (s : State) : Bool := s.bootState == 1

/-! ### Streams (R397) -/

def sctlWord (t : Stream) : DWord :=
  BitVec.ofNat 64 (bit t.priv * 512 + bit t.enable * 256 + t.ctx.toNat)

/-- A write of SCTL. ENABLE from 0 to 1 starts the stream afresh; from 1 to 0 stops it, in IDLE. DEDUCED (log 64).
DEDUCED (log 64). -/
def writeSctl (s : State) (h n : Nat) (v : DWord) : State :=
  let t := streamOf s h n
  let t' := { t with ctx := v.setWidth 8, priv := v.getLsbD 9, enable := v.getLsbD 8 }
  let mine := fun o : PendOp => o.issuer == streamIssuer h n && o.kind.reads
  if v.getLsbD 8 && !t.enable then
    let s := { s with pending := s.pending.filter fun o => !mine o }
    setStream s h n { t' with head := t.tail, completed := 0, pc := 0, sregs := [], preds := 0, tvec := 0, tpc := 0
                              tcause := 0, taddr := 0, tinfo := 0, tlevel := false, state := 0, cause := 0
                              launching := none }
  else if !v.getLsbD 8 && t.enable then
    setStream (endSwitch s (h * Config.streams + n)) h n { t' with state := 0, cause := 0, launching := none }
  else setStream s h n t'

/-! ### Rings (R467) -/

/-- Sizes are powers of two from 4 KiB to 1 GiB. -/
def sizeOk (v : DWord) : Bool := (List.range 19).any fun i => v.toNat == 2 ^ (12 + i)
def writeSize (r : Ring) (v : DWord) : Ring := if sizeOk v then { r with size := v } else r
/-- CONS moves on, to PROD at most. -/
def writeCons (r : Ring) (v : DWord) : Ring :=
  if (v.setWidth 32 - r.cons).toNat ≤ (r.prod - r.cons).toNat then { r with cons := v.setWidth 32 } else r

/-- A ring's register: 0 BASE, 1 SIZE, 2 PROD, 3 CONS, 4 OVF. -/
def readRing (r : Ring) : Nat → DWord
  | 0 => r.base | 1 => r.size | 2 => r.prod.setWidth 64 | 3 => r.cons.setWidth 64 | 4 => r.ovf.setWidth 64 | _ => 0
def writeRing (r : Ring) (i : Nat) (v : DWord) : Ring :=
  match i with
  | 0 => { r with base := v } | 1 => writeSize r v | 3 => writeCons r v | _ => r
/-- OVF clears when it is read. -/
def clearRing (r : Ring) (i : Nat) : Ring := if i = 4 then { r with ovf := 0 } else r

/-! ### The global block (R471) -/

/-- Word `i` of consecutive bytes. -/
def wordOf (bs : List Byte) (i : Nat) : DWord := BitVec.ofNat 64 (leNat ((bs.drop (8 * i)).take 8))

def apMask : DWord := 0xFFFFFFFC00000000

/-- BOOTSTAT (R471). -/
def bootWord (s : State) : DWord :=
  BitVec.ofNat 64 (s.bootStages.toNat * 2 ^ 12 + s.bootError.toNat * 2 ^ 8 + s.bootState.toNat)

def readGlobal (s : State) (o : Nat) : DWord :=
  if o = 0 then s.apbase
  else if o = 0x10 then bootWord s
  else if o = 0x18 then s.plimit.setWidth 64
  else if o = 0x20 then s.trigcnt.setWidth 64
  else if 0x100 ≤ o ∧ o < 0x300 then
    let m : BitVec 512 := s.meas.getD ((o - 0x100) / 64) 0
    BitVec.ofNat 64 (m.toNat / 2 ^ (8 * (o % 64)))
  else if 0x300 ≤ o ∧ o < 0x340 then BitVec.ofNat 64 (s.mchain.toNat / 2 ^ (8 * (o % 64)))
  else if 0x400 ≤ o ∧ o < 0x420 then BitVec.ofNat 64 (s.attNonce.toNat / 2 ^ (8 * (o - 0x400)))
  else if o = 0x420 then BitVec.ofNat 64 (bit s.attGo)
  else if 0x1000 ≤ o ∧ o < 0x17A0 ∧ s.bootState = 1 then
    BitVec.ofNat 64 (leNat ((addrRange (o - 0x1000) 8).map (Config.identityKey s.mchain)))
  else if 0x2000 ≤ o ∧ o < 0x3000 then wordOf s.attRep ((o - 0x2000) / 8)
  else if 0xF0000 ≤ o ∧ o < 0xF0400 then msixWord s ((o - 0xF0000) / 8)
  else if o = 0xF8000 then s.pba
  else 0

/-- ATTGO written with 1 (R482). -/
def requestReport (s : State) : State := { s with attGo := true }

/-- A word of the MSI-X table written; a vector unmasked while pending is sent. -/
def writeMsix (s : State) (i : Nat) (v : DWord) : State :=
  let s := { s with msix := aSet (if i % 2 = 1 then 0x100000000 else 0) i v s.msix }
  let vec := i / 2
  if s.pba.getLsbD vec && !msixMasked s vec then
    raiseMsi { s with pba := s.pba &&& ~~~ BitVec.ofNat 64 (2 ^ vec) } vec
  else s

/-- A write to the global block; RSTCTL is apart. -/
def writeGlobal (s : State) (o : Nat) (v : DWord) : State :=
  if o = 0 then { s with apbase := v &&& apMask }
  else if o = 0x18 then
    let p := v.toNat % 4096
    if 600 ≤ p ∧ p ≤ 2400 then { s with plimit := BitVec.ofNat 12 p } else s
  else if o = 0x28 then (if v.getLsbD 0 then (fireTrigger s 3 0).2 else s)
  else if 0x400 ≤ o ∧ o < 0x420 then
    let sh := 8 * (o - 0x400)
    let old := s.attNonce.toNat
    { s with attNonce := BitVec.ofNat 256 (old - old / 2 ^ sh % 2 ^ 64 * 2 ^ sh + v.toNat * 2 ^ sh) }
  else if o = 0x420 then (if v.getLsbD 0 && !s.attGo then requestReport s else s)
  else if 0xF0000 ≤ o ∧ o < 0xF0400 then writeMsix s ((o - 0xF0000) / 8) v
  else s

/-! ### Hinge blocks (R472) -/

def readStream (t : Stream) : Nat → DWord
  | 0x00 => sctlWord t
  | 0x08 => t.chbase
  | 0x10 => t.chlog2.setWidth 64
  | 0x18 => t.tail.setWidth 64
  | 0x20 => t.head.setWidth 64
  | 0x28 => t.doneaddr
  | 0x30 => BitVec.ofNat 64 (t.cause.toNat * 256 + t.state.toNat)
  | _ => 0

def hevecWord (h : Hinge) : DWord := BitVec.ofNat 64 (bit h.heEn * 256 + h.heVec.toNat)

/-- The fields of AGEING (R460). -/
def ageingMask : DWord := 0xFFFFFF00FFFFFFFF

def readHinge (s : State) (h o : Nat) : DWord × State :=
  let x := hingeOf s h
  if o < 0x400 then (readStream (streamOf s h (o / 64)) (o % 64), s)
  else if 0x1000 ≤ o ∧ o < 0x1200 then (aGet 0 ((o - 0x1000) / 8) x.ev, s)
  else if o = 0x1800 then (Config.ageing h s.tick &&& ageingMask, { s with tick := s.tick + 1 })
  else if 0x2000 ≤ o ∧ o ≤ 0x2020 then
    let i := (o - 0x2000) / 8
    (readRing x.sample i, setHinge s h { x with sample := clearRing x.sample i })
  else if 0x2040 ≤ o ∧ o ≤ 0x2060 then
    let i := (o - 0x2040) / 8
    (readRing x.events i, setHinge s h { x with events := clearRing x.events i })
  else if o = 0x2068 then (hevecWord x, s)
  else if 0x2100 ≤ o ∧ o < 0x2120 then
    let st : Stack := aGet {} ((o - 0x2100) / 8) x.memStacks
    (st.state.setWidth 64, s)
  else if 0x2200 ≤ o ∧ o < 0x2200 + 8 * portsOf h then
    (BitVec.ofNat 64 (bit (portOf s (firstPort h + (o - 0x2200) / 8)).up), s)
  else if 0x3000 ≤ o ∧ o < 0x3100 then
    let p : DWord × DWord := aGet (0, 0) ((o - 0x3000) / 16) x.prom
    (if o % 16 = 0 then p.1 else p.2, s)
  else if 0x4000 ≤ o ∧ o < 0x4020 then
    let m : Module := aGet {} ((o - 0x4000) / 8) x.modules
    (BitVec.ofNat 64 (m.frames * 2 ^ 32 + m.ranks % 16), s)
  else (0, s)

/-- A stack in thermal self-refresh returned to service (R479). -/
def resumeStack (s : State) (n : Nat) : State :=
  let h := hingeOf s (n / 4)
  let st : Stack := aGet {} (n % 4) h.memStacks
  if 16 ≤ n ∨ st.state ≠ 2 then s
  else setHinge s (n / 4) { h with memStacks := aInsert (n % 4) { st with state := 0 } h.memStacks }

/-- PROMn: EN and FIRST, COUNT. -/
def promMask (word1 : Bool) : DWord := if word1 then 0x00000000FFFFFFFF else 0x80000000FFFFFFFF

def writeHinge (s : State) (h o : Nat) (v : DWord) : State :=
  let x := hingeOf s h
  if o < 0x400 then
    let n := o / 64
    let t := streamOf s h n
    match o % 64 with
    | 0x00 => writeSctl s h n v
    | 0x08 => setStream s h n { t with chbase := v &&& 0x007FFFFFFFFFFFE0 }
    | 0x10 => if 2 ≤ v.toNat % 32 ∧ v.toNat % 32 ≤ 16 then setStream s h n { t with chlog2 := v.setWidth 5 } else s
    | 0x18 => setStream s h n { t with tail := v.setWidth 32 }
    | 0x28 => setStream s h n { t with doneaddr := v &&& 0x007FFFFFFFFFFFF8 }
    | _ => s
  else if 0x1000 ≤ o ∧ o < 0x1200 then setEv s h ((o - 0x1000) / 8) v
  else if o = 0x1400 then addEv s h 60 1
  else if 0x2000 ≤ o ∧ o ≤ 0x2020 then setHinge s h { x with sample := writeRing x.sample ((o - 0x2000) / 8) v }
  else if 0x2040 ≤ o ∧ o ≤ 0x2060 then setHinge s h { x with events := writeRing x.events ((o - 0x2040) / 8) v }
  else if o = 0x2068 then setHinge s h { x with heVec := v.setWidth 6, heEn := v.getLsbD 8 }
  else if 0x2100 ≤ o ∧ o < 0x2120 then (if v.getLsbD 8 then resumeStack s (4 * h + (o - 0x2100) / 8) else s)
  else if 0x2200 ≤ o ∧ o < 0x2200 + 8 * portsOf h then
    (if v.getLsbD 8 then retrain s (firstPort h + (o - 0x2200) / 8) else s)
  else if 0x3000 ≤ o ∧ o < 0x3100 then
    let n := (o - 0x3000) / 16
    let p : DWord × DWord := aGet (0, 0) n x.prom
    let p := if o % 16 = 0 then (v &&& promMask false, p.2) else (p.1, v &&& promMask true)
    setHinge s h { x with prom := aInsert n p x.prom }
  else s

/-! ### Context blocks (R467-R470) -/

def ibpMask : DWord := 0x0F7FFFFFFFFFFFFC
def wpaMask : DWord := 0x007FFFFFFFFFFFFF
def wpcMask : DWord := 0x000001FFF3FFF001

def readCtx (s : State) (c o : Nat) : DWord × State :=
  let x := ctxOf s c
  if o = 0 then (x.ptbase, s)
  else if o = 0x08 then (x.saveBase, s)
  else if o = 0x10 then (x.descBase, s)
  else if o = 0x18 then (x.engBase, s)
  else if o = 0x20 then (x.chainLen, s)
  else if o = 0x28 then (x.commBase, s)
  else if 0x30 ≤ o ∧ o ≤ 0x48 then (readRing x.requests ((o - 0x30) / 8), s)
  else if 0x50 ≤ o ∧ o ≤ 0x70 then
    let i := (o - 0x50) / 8
    (readRing x.errors i, setCtx s c { x with errors := clearRing x.errors i })
  else if 0x78 ≤ o ∧ o ≤ 0x98 then
    let i := (o - 0x78) / 8
    (readRing x.energyRing i, setCtx s c { x with energyRing := clearRing x.energyRing i })
  else if o = 0x100 then (x.tlbInva, s)
  else if o = 0x108 then (BitVec.ofNat 64 (2 * bit x.tlbGo.isSome), s)
  else if 0x200 ≤ o ∧ o < 0x240 then (aGet 0 ((o - 0x200) / 8) x.ibp, s)
  else if 0x240 ≤ o ∧ o < 0x280 then (aGet 0 ((o - 0x240) / 8) x.wpa, s)
  else if 0x280 ≤ o ∧ o < 0x2C0 then (aGet 0 ((o - 0x280) / 8) x.wpc, s)
  else if o = 0x300 then (BitVec.ofNat 64 (bit (busyCmd s c) * 2 ^ 63), s)
  else if o = 0x308 then (x.bandPc, s)
  else (0, s)

/-- TLB_INVALIDATE: a write of GO (R468). -/
def startInvalidate (s : State) (c : Nat) : State :=
  let x := ctxOf s c
  if x.tlbGo.isSome then s
  else setCtx s c { x with tlbGo := some (bitsOf x.tlbInva.toNat 16 39, bitsOf x.tlbInva.toNat 0 16) }

def namesPage (r : Nat × Nat) (vpage : Nat) : Bool :=
  r.2 == 0 || decide (r.1 ≤ vpage ∧ vpage < r.1 + r.2)

/-- An access that has issued and may have used a translation of a named page. DEDUCED (log 66). DEDUCED (log 66). -/
def usesPage (c : Nat) (r : Nat × Nat) (o : PendOp) : Bool :=
  agentCtx o.agent == c && (match o.kind with
    | .pref .. => true
    | k => match k.access with
      | some (.phys _ va, _) | some (.again va, _) => namesPage r (va / 65536)
      | some (.stash _, _) | none => false)

/-- TLB_INVALIDATE_DONE: no translation of the pages is left, and every access that used one is performed.
DEDUCED (log 66). DEDUCED (log 66). -/
def finishInvalidate (s : State) (c : Nat) : State :=
  let x := ctxOf s c
  match x.tlbGo with
  | none => s
  | some r =>
    if s.pending.any (usesPage c r) then s
    else
      let s := dropTlb s c (namesPage r)
      setCtx s c { ctxOf s c with tlbGo := none }

/-- A page request answered (R469): waiting threads walk again; a stalled command resumes, or aborts when refused.
DEDUCED (log 65). DEDUCED (log 65). -/
def answerPage (s : State) (c vpage : Nat) (refused : Bool) : State :=
  let x := ctxOf s c
  let s := setCtx s c { x with outstanding := x.outstanding.filter fun p => p != vpage }
  let inCtx := fun (b : Band) => match teamOf s b.team with | some tm => tm.ctx == c | none => false
  let wake := fun (t : Thread) => if t.wait = .page vpage then { t with wait := .answered } else t
  let s := { s with bands := aMap (fun _ b => if inCtx b then { b with threads := b.threads.map wake } else b) s.bands }
  let resume := fun (x : Command) => match x.stall with
    | some st =>
      if x.ctx = c ∧ st.vpage = vpage then
        (if refused then { x with stall := none, aborted := true, ended := some (2, 0, x.desc.es * x.pos, 0) }
         else { x with stall := none })
      else x
    | none => x
  let release := fun (q : Channel) => { q with queue := q.queue.map resume }
  let s := setCtx s c { ctxOf s c with savedCmds := (ctxOf s c).savedCmds.map fun x => (x.1, resume x.2) }
  { s with cores := aMap (fun _ k => { k with channels := aMap (fun _ q => release q) k.channels }) s.cores }

/-- A write of BANDCMD (R470). -/
def writeBandCmd (s : State) (c : Nat) (v : DWord) : State :=
  let n := v.toNat
  let core := bitsOf n 40 9
  let scope := bitsOf n 60 2
  let x : BandSet := { scope := match scope with | 0 => .band | 1 => .team | 2 => .cluster | _ => .hinge
                       core := core, tslot := bitsOf n 32 4, slot := bitsOf n 0 6 }
  if bitsOf n 49 10 ≠ 0 ∨ bitsOf n 36 4 ≠ 0 ∨ bitsOf n 6 26 ≠ 0 ∨ Config.cores ≤ core then s
  else match bitsOf n 62 2 with
    | 1 => resumeBands s c x
    | 2 => abortBands s c x
    | 3 => if scope ≠ 0 then s else stepBand s c core x.slot (if bitOf n 59 then some (ctxOf s c).bandPc else none)
    | _ => s

/-- A write of a context's block (R467-R470). A PGANS with a must-be-zero bit set is ignored whole. DESIGN CHOICE (log 109).
DESIGN CHOICE (log 109). -/
def writeCtx (s : State) (c o : Nat) (v : DWord) : State :=
  let x := ctxOf s c
  if o = 0 then setCtx s c { x with ptbase := v &&& ptbaseMask }
  else if o = 0x08 then setCtx s c { x with saveBase := v }
  else if o = 0x10 then setCtx s c { x with descBase := v }
  else if o = 0x18 then setCtx s c { x with engBase := v }
  else if o = 0x20 then setCtx s c { x with chainLen := v }
  else if o = 0x28 then setCtx s c { x with commBase := v }
  else if 0x30 ≤ o ∧ o ≤ 0x48 then setCtx s c { x with requests := writeRing x.requests ((o - 0x30) / 8) v }
  else if 0x50 ≤ o ∧ o ≤ 0x70 then setCtx s c { x with errors := writeRing x.errors ((o - 0x50) / 8) v }
  else if 0x78 ≤ o ∧ o ≤ 0x98 then setCtx s c { x with energyRing := writeRing x.energyRing ((o - 0x78) / 8) v }
  else if o = 0x100 then setCtx s c { x with tlbInva := v &&& wpaMask }
  else if o = 0x108 then (if v.getLsbD 0 then startInvalidate s c else s)
  else if o = 0x120 then
    -- a must-be-zero bit that is set makes the whole write ignored, as R470 has it of BANDCMD. DESIGN CHOICE (log 109)
    if bitsOf v.toNat 55 7 ≠ 0 ∨ bitsOf v.toNat 0 16 ≠ 0 then s
    else match bitsOf v.toNat 62 2 with
      | 1 => answerPage s c (bitsOf v.toNat 16 39) false
      | 2 => answerPage s c (bitsOf v.toNat 16 39) true
      | _ => s
  else if 0x200 ≤ o ∧ o < 0x240 then setCtx s c { x with ibp := aSet 0 ((o - 0x200) / 8) (v &&& ibpMask) x.ibp }
  else if 0x240 ≤ o ∧ o < 0x280 then setCtx s c { x with wpa := aSet 0 ((o - 0x240) / 8) (v &&& wpaMask) x.wpa }
  else if 0x280 ≤ o ∧ o < 0x2C0 then setCtx s c { x with wpc := aSet 0 ((o - 0x280) / 8) (v &&& wpcMask) x.wpc }
  else if o = 0x300 then writeBandCmd s c v
  else if o = 0x308 then setCtx s c { x with bandPc := v &&& pcMask }
  else s

/-! ### Core blocks (R473) -/

/-- A word of the resident-team table (R441). -/
def residentWord (s : State) (core i w : Nat) : DWord :=
  match teamOf s (teamKey core i) with
  | none => 0
  | some tm =>
    if (hingeOf s (hingeOfCore core)).active ≠ some tm.ctx then 0
    else match w with
      | 0 => tm.lseq
      | 1 => BitVec.ofNat 64 (2 ^ 63 + tm.ctx * 2 ^ 48 + tm.gridIdx)
      | 2 => BitVec.ofNat 64 (laneMask tm.slots)
      | _ => 0

def sampWord (c : Core) : DWord :=
  BitVec.ofNat 64 (bit c.sampEn * 2 ^ 63 + c.sampSp.toNat * 256 + c.sampMp.toNat)
def dbgaddrWord (c : Core) : DWord := BitVec.ofNat 64 (bit c.dbgFail * 2 ^ 62 + c.dbgAddr.toNat)

def readCore (s : State) (n o : Nat) : DWord × State :=
  let c := coreOf s n
  if o = 0x00 then (c.mmacnt.setWidth 64, setCore s n { c with mmacnt := 0 })
  else if o = 0x08 then (c.elznop.setWidth 64, setCore s n { c with elznop := 0 })
  else if o = 0x10 then (c.elzcopy.setWidth 64, setCore s n { c with elzcopy := 0 })
  else if o = 0x18 then (c.elident.setWidth 64, setCore s n { c with elident := 0 })
  else if o = 0x20 then (c.elconst.setWidth 64, setCore s n { c with elconst := 0 })
  else if o = 0x28 then (c.elrefuse.setWidth 64, setCore s n { c with elrefuse := 0 })
  else if o = 0x40 then (c.corrErr.setWidth 64, setCore s n { c with corrErr := 0 })
  else if o = 0x80 then (sampWord c, s)
  else if o = 0x100 then (dbgaddrWord c, s)
  else if o = 0x108 then readDbgData s n
  else if 0x200 ≤ o ∧ o < 0x400 then (residentWord s n ((o - 0x200) / 32) (o % 32 / 8), s)
  else (0, s)

def writeCore (s : State) (n o : Nat) (v : DWord) : State :=
  let c := coreOf s n
  if o = 0x80 then
    let sp := bitsOf v.toNat 8 6
    let mp := bitsOf v.toNat 0 6
    if 8 ≤ sp ∧ sp ≤ 40 ∧ mp ≤ 40 then
      -- the periods of its stall samples count from here
      let from_ := (List.range 4).map fun k => (k, s.now / 2 ^ sp, (aGet (0, 15) k c.sampleAt).2)
      setCore s n { c with sampEn := v.getLsbD 63, sampSp := BitVec.ofNat 6 sp, sampMp := BitVec.ofNat 6 mp, sampleAt := from_ }
    else s
  else if o = 0x100 then setCore s n { c with dbgAddr := v.setWidth 48 }
  else if o = 0x108 then writeDbgData s n v
  else s

/-! ### The whole window (R466) -/

/-- A block and an offset in it. -/
inductive Block where
  | global (o : Nat)
  | hinge (h o : Nat)
  | ctx (c o : Nat)
  | core (n o : Nat)
  | none
  deriving DecidableEq, Repr

/-- The block of an aligned offset, which the boot state serves. -/
def blockOf (s : State) (off : Nat) : Block :=
  if off % 8 ≠ 0 then .none
  else if off < 0x100000 then .global off
  else if !ready s then .none
  else if off < 0x500000 then .hinge (off / 0x100000 - 1) (off % 0x100000)
  else if 0x800000 ≤ off ∧ off < 0x900000 then .ctx ((off - 0x800000) / 0x1000) (off % 0x1000)
  else if 0x1000000 ≤ off ∧ off < 0x1000000 + 0x1000 * Config.cores then .core ((off - 0x1000000) / 0x1000) (off % 0x1000)
  else .none

/-- A driver's read of 8 bytes: the value, and what the read clears or does (R13). DEDUCED (log 62).
DEDUCED (log 62). -/
def readReg (s : State) (off : Nat) : DWord × State :=
  match blockOf s off with
  | .global o => (readGlobal s o, s)
  | .hinge h o => readHinge s h o
  | .ctx c o => readCtx s c o
  | .core n o => readCore s n o
  | .none => (0, s)

end Sys2Proof.Machine
end

