-- ==== Sys2Proof/Machine/Device.lean ====
section
/-! DEFINITION. The device's own steps and the host's (18): the control window written, BAR2, resets, knuckles, stacks, ports,
promotion, attestation, contexts and launches as the driver handles them. -/

namespace Sys2Proof.Machine

/-! ### Boot (R475, R476, R480, R481) -/

def emptyBytes (n : Nat) : List Byte := List.replicate n 0

/-- The measurements of the stages and the final chain value (R481). The bytes hashed are those of M, then those of the digest: R8 puts the
left operand in the high part, and the rule gives a concatenation no byte order. DESIGN CHOICE (log 111).
DESIGN CHOICE (log 111). -/
def measure : BitVec 512 → List (List Byte) → List (BitVec 512) × BitVec 512
  | m, [] => ([], m)
  | m, i :: is =>
    let d := Config.shake256 i
    let m := Config.shake256 (leBytes 64 m.toNat ++ leBytes 64 d.toNat)
    let (rest, z) := measure m is
    (m :: rest, z)

/-- The core records that the fused repair record gives: HALF, GRP (the surviving group), HCAUSE 0 (R24). `kept` gives KDECL and
the core's energy total. -/
def fusedCores (repair : List (Nat × Bool)) (kept : Nat → Bool → BitVec 8 × DWord) : AList Core :=
  (List.range Config.cores).foldr (fun n m =>
    let r := repair.find? fun r => r.1 == n
    let c : Core := { half := r.isSome, grp := (match r with | some x => x.2 | none => false), kdecl := (kept n r.isSome).1
                      energy := (kept n r.isSome).2 }
    if c = {} then m else (n, c) :: m) []

/-- A module of 1 to 8 ranks and 1 to 8,388,608 frames, 512 GiB; any other is absent (R383). -/
def fitModule (frames ranks : Nat) : Option Module :=
  if 1 ≤ ranks ∧ ranks ≤ 8 ∧ 1 ≤ frames ∧ frames ≤ 8388608 then some { frames := frames, ranks := ranks } else none

/-- The modules of the installation on each hinge. -/
def hingesWith (mods : List (Nat × (Nat × Nat))) : AList Hinge :=
  (List.range Config.hinges).filterMap fun h =>
    let ms := (List.range 4).filterMap fun m =>
      (mods.find? fun x => x.1 == 4 * h + m).bind fun x => (fitModule x.2.1 x.2.2).map fun y => (m, y)
    if ms.isEmpty then none else some (h, { modules := ms })

/-- The check that a stage fails, as BOOTSTAT.ERROR numbers them; `trusts` tells the keys that are accepted (R480).
DESIGN CHOICE (log 85). DESIGN CHOICE (log 85). -/
def stageError (minVersion : Nat) (trusts : List Byte → Bool) (x : BootStage) : Nat :=
  if !x.formatOk then 4
  else if !Config.verifies x.key x.image x.signature then 1
  else if !trusts x.key then 2
  else if x.version < minVersion then 3
  else 0

/-- The images that run, each verified by the one before, and the error that ends the boot, 0 for none.
DESIGN CHOICE (log 85). -/
def verifyStages (minVersion : Nat) : (List Byte → Bool) → List BootStage → List (List Byte) × Nat
  | _, [] => ([], 0)
  | trusts, x :: xs =>
    let e := stageError minVersion trusts x
    if e ≠ 0 then ([], e)
    else
      let (is, e) := verifyStages minVersion x.keys.contains xs
      (x.image :: is, e)

/-- The images that a boot measures and BOOTSTAT.ERROR: the first stage by the fused key hash; memory training last (R475). -/
def bootResult (b : Boot) : List (List Byte) × Nat :=
  let (is, e) := verifyStages b.minVersion (fun k => Config.shake256 k == b.keyHash) b.stages
  (is, if b.stages.isEmpty then 4 else if e ≠ 0 then e else if b.trained then 0 else 5)

/-- Firmware verified and measured, and the boot state it leads to (R480). -/
def withBoot (s : State) (b : Boot) : State :=
  let (is, e) := bootResult b
  let (ms, z) := measure 0 is
  { s with bootStages := BitVec.ofNat 4 (min 8 is.length), bootError := BitVec.ofNat 4 e
           bootState := if e = 0 then 1 else 2, meas := ms.take 8, mchain := z, boot := some b }

/-- COLD_RESET (R475): the fuses of the event, device memory empty, CYCLE 0, the trigger counter 1.
DESIGN CHOICE (log 4), DESIGN CHOICE (log 7), DESIGN CHOICE (log 85). DESIGN CHOICE (log 4), DESIGN CHOICE (log 7). -/
def coldReset (s : State) (b : Boot) : State :=
  let r := State.reset
  withBoot { r with
    mem := s.mem.filter fun e => decide (sysBase ≤ e.1)
    cores := fusedCores b.repair fun _ removed => (if removed then 1 else 0, 0)
    hinges := hingesWith b.modules
    seq := s.seq, now := s.now, bootTime := s.now, tick := s.tick, cur := s.cur, agenda := s.agenda, sent := s.sent
    hot := s.hot, profileN := b.profileN, stepping := b.stepping, links := b.links, repair := b.repair, bootCount := 1 } b

def execColdReset (s : State) : Host.Outcome State Fault Refusal :=
  match s.cur with
  | .event (.coldReset b) => .next (coldReset s b)
  | _ => .fault .noActor

/-- The installed modules, which no reset changes. -/
def modulesOf (s : State) : List (Nat × (Nat × Nat)) :=
  s.hinges.flatMap fun h => h.2.modules.map fun m => (4 * h.1 + m.1, (m.2.frames, m.2.ranks))

/-- Every dirty byte of every cache and window written back to home (R476). -/
def flushAll (s : State) : State :=
  let s := (s.teams.map (·.1)).foldl closeWindows s
  flushRange s 0 (2 ^ 112)

/-- The warm reset (R476): both memory tiers, the remap table, KDECL and the trigger counter survive, and the cores' energy
totals, which are since cold reset (R459).
DESIGN CHOICE (log 7), DESIGN CHOICE (log 85). DESIGN CHOICE (log 7). -/
def warmReset (s : State) (b : Boot) : State :=
  let s := matchSeen (flushAll s)
  let r := State.reset
  withBoot { r with
    mem := s.mem, remap := s.remap
    cores := fusedCores s.repair fun n _ => ((coreOf s n).kdecl, (coreOf s n).energy)
    hinges := hingesWith (modulesOf s)
    seq := s.seq, now := s.now, bootTime := s.bootTime, tick := s.tick, cur := s.cur, agenda := s.agenda, sent := s.sent
    hot := s.hot, profileN := s.profileN, stepping := s.stepping, links := s.links, repair := s.repair
    trigcnt := s.trigcnt, bootCount := s.bootCount + 1 } b

/-- A stack whose flush window is open. -/
def flushing (s : State) : Bool := s.hinges.any fun h => h.2.memStacks.any fun k => k.2.state == 1

/-- WARM_RESET: at once, or when the flush window ends. -/
def wantWarm (s : State) (b : Boot) : State := if flushing s then { s with warmWanted := some b } else warmReset s b

def execWarmReset (s : State) : Host.Outcome State Fault Refusal :=
  match s.cur with
  | .event (.warmReset b) => .next (wantWarm s b)
  | _ => .fault .noActor

/-! ### The control window written (R466) -/

def writeReg (s : State) (off : Nat) (v : DWord) : State :=
  match blockOf s off with
  | .global o =>
    if o = 8 then (if v.getLsbD 0 then match s.boot with | some b => wantWarm s b | none => s else s)
    else writeGlobal s o v
  | .hinge h o => writeHinge s h o v
  | .ctx c o => writeCtx s c o v
  | .core n o => writeCore s n o v
  | .none => s

/-- REGISTER_WRITE. -/
def execRegisterWrite (s : State) : Host.Outcome State Fault Refusal :=
  match s.cur with
  | .event (.registerWrite off v) => .next (writeReg s off v)
  | _ => .fault .noActor

/-- COUNTER_READ_CLEAR (R13): a driver's read of any register of the window; what it returns goes out. -/
def execCounterReadClear (s : State) : Host.Outcome State Fault Refusal :=
  match s.cur with
  | .event (.counterReadClear off) =>
    let (v, s) := readReg s off
    .next { s with sent := s.sent ++ [.hostRead off (leBytes 8 v.toNat)] }
  | _ => .fault .noActor

/-- STREAM_ENABLE: a write of SCTL that sets ENABLE from 0 to 1. -/
def execStreamEnable (s : State) : Host.Outcome State Fault Refusal :=
  match s.cur with
  | .event (.streamEnable h n v) =>
    .next (if decide (h < 4 ∧ n < 16) && ready s && v.getLsbD 8 && !(streamOf s h n).enable then writeSctl s h n v else s)
  | _ => .fault .noActor

/-- STREAM_DISABLE: a write of SCTL that clears ENABLE. -/
def execStreamDisable (s : State) : Host.Outcome State Fault Refusal :=
  match s.cur with
  | .event (.streamDisable h n v) =>
    .next (if decide (h < 4 ∧ n < 16) && ready s && !v.getLsbD 8 && (streamOf s h n).enable then writeSctl s h n v else s)
  | _ => .fault .noActor

/-- DOORBELL (R466). -/
def execDoorbell (s : State) : Host.Outcome State Fault Refusal :=
  match s.cur with
  | .event (.doorbell h) => .next (if decide (h < 4) && ready s then addEv s h 60 1 else s)
  | _ => .fault .noActor

/-- STACK_RESUME (R472, R479). -/
def execStackResume (s : State) : Host.Outcome State Fault Refusal :=
  match s.cur with
  | .event (.stackResume n) => .next (resumeStack s n)
  | _ => .fault .noActor

/-- TLB_INVALIDATE (R468). -/
def execTlbInvalidate (s : State) : Host.Outcome State Fault Refusal :=
  match s.cur with
  | .event (.tlbInvalidate c) => .next (startInvalidate s c)
  | _ => .fault .noActor

/-- TLB_INVALIDATE_DONE (R468). -/
def execTlbInvalidateDone (s : State) : Host.Outcome State Fault Refusal :=
  match s.cur with
  | .event (.tlbInvalidateDone c) => .next (finishInvalidate s c)
  | _ => .fault .noActor

/-- PAGE_ANSWER_DONE (R469). -/
def execPageAnswerDone (s : State) : Host.Outcome State Fault Refusal :=
  match s.cur with
  | .event (.pageAnswerDone c p) => .next (answerPage s c p false)
  | _ => .fault .noActor

/-- PAGE_ANSWER_REFUSED (R469). -/
def execPageAnswerRefused (s : State) : Host.Outcome State Fault Refusal :=
  match s.cur with
  | .event (.pageAnswerRefused c p) => .next (answerPage s c p true)
  | _ => .fault .noActor

/-- CONTEXT_CREATION: the context's own state at its creation values; the registers of its block stand as the driver wrote
them. DESIGN CHOICE (log 5). DESIGN CHOICE (log 5). -/
def createContext (s : State) (n : Nat) (tvec : DWord) : State :=
  let c := ctxOf s n
  if Config.contexts ≤ n then s
  else setCtx s n { ptbase := c.ptbase, saveBase := c.saveBase, descBase := c.descBase, engBase := c.engBase
                    chainLen := c.chainLen, commBase := c.commBase, requests := c.requests, errors := c.errors
                    energyRing := c.energyRing, tlbInva := c.tlbInva, tlbGo := c.tlbGo, bandPc := c.bandPc
                    tvec := tvec &&& tvecMask }

def execContextCreation (s : State) : Host.Outcome State Fault Refusal :=
  match s.cur with
  | .event (.contextCreation n tvec) => .next (createContext s n tvec)
  | _ => .fault .noActor

/-- LAUNCH_ABORT (R406): ABORTED is set, nothing more of the launch is placed, and it completes with its placed teams.
DEDUCED (log 58), DESIGN CHOICE (log 68). DEDUCED (log 58), DESIGN CHOICE (log 68). -/
def abortLaunch (s : State) (ctx lseq : Nat) : State :=
  let k := ctx * 2 ^ 64 + lseq
  match aFind k s.launches with
  | none => s
  | some l => completeLaunch { s with launches := aInsert k { l with aborted := true } s.launches } k

def execLaunchAbort (s : State) : Host.Outcome State Fault Refusal :=
  match s.cur with
  | .event (.launchAbort ctx lseq) => .next (abortLaunch s ctx lseq)
  | _ => .fault .noActor

/-! ### BAR2 (R464, R465) -/

/-- The device-physical address of an aperture offset; none outside the aperture, or while the window does not serve it, or
when a stack holds the access (R479). -/
def apertureAt (s : State) (off n : Nat) : Option Nat :=
  let a := s.apbase.toNat + off
  if !ready s || decide (2 ^ 34 < off + n) || decide (sysBase < a + n) then none
  else if stackBusy s a || (decide (0 < n) && stackBusy s (a + n - 1)) then none
  else some a

/-- A byte of a page that is LOST reads as a free value. -/
def apertureByte (s : State) (a : Nat) : Byte :=
  if pageLost s (a / 65536) then (Config.unplaced s.tick a).setWidth 8 else aGet 0 a s.mem

/-- HOST_APERTURE_READ: at home, past every cache. -/
def execHostApertureRead (s : State) : Host.Outcome State Fault Refusal :=
  match s.cur with
  | .event (.hostApertureRead off n) =>
    .next (match apertureAt s off n with
      | some a => { s with sent := s.sent ++ [.hostRead off ((addrRange a n).map (apertureByte s))], tick := s.tick + 1 }
      | none => s)
  | _ => .fault .noActor

/-- HOST_APERTURE_WRITE: at home, in the order received; bytes of a LOST page go nowhere. -/
def writeAperture (s : State) (a : Nat) : List Byte → State
  | [] => s
  | b :: bs => writeAperture (if pageLost s (a / 65536) then s else homeWrite s a [b]) (a + 1) bs

def execHostApertureWrite (s : State) : Host.Outcome State Fault Refusal :=
  match s.cur with
  | .event (.hostApertureWrite off bs) =>
    .next (match apertureAt s off bs.length with
      | some a => writeAperture s a bs
      | none => s)
  | _ => .fault .noActor

/-! ### Promotion (R247) -/

/-- PROMOTION_MOVE: an enabled page between a module and a stack, as its counter asks. DESIGN CHOICE (log 96).
DESIGN CHOICE (log 96). -/
def promote (s : State) (h page home : Nat) : State :=
  if 4 ≤ h ∨ 32 ≤ home ∨ !promotes s page home ∨ !promEnabled s h page ∨ pageLost s page ∨ moveWaits s page home then s
  else
    let (ok, s) := moveTo s page home
    if ok then setHinge s h { hingeOf s h with promotions := (hingeOf s h).promotions + 1 } else s

def execPromotionMove (s : State) : Host.Outcome State Fault Refusal :=
  match s.cur with
  | .event (.promotionMove h page home) => .next (promote s h page home)
  | _ => .fault .noActor

/-- PROMOTION_COUNTER_HALVE: once for each 2^20 cycles that have passed. -/
def halveCounters (s : State) : State :=
  let n := (s.now - s.bootTime) / 2 ^ 20
  if n ≤ s.halved then s
  else { s with promo := aFilter (fun _ v => v != 0) (aMap (fun _ v => v >>> (n - s.halved)) s.promo), halved := n }

def execPromotionCounterHalve (s : State) : Host.Outcome State Fault Refusal :=
  match s.cur with
  | .event .promotionCounterHalve => .next (halveCounters s)
  | _ => .fault .noActor

/-! ### Ports (R474, R478) -/

/-- FLIT_RECEIVE: taken only with a good CRC and in SEQ order. DESIGN CHOICE (log 54), DESIGN CHOICE (log 86).
DESIGN CHOICE (log 54), DESIGN CHOICE (log 86). -/
def takeFlit (s : State) (p : Nat) (f : Flit) : State :=
  let x := portOf s p
  if 18 ≤ p ∨ !x.up ∨ !f.crcOk ∨ f.seq ≠ x.expect ∨ f.type = 0 ∨ 4 < f.type ∨ 8 ≤ f.vc then s
  else
    let x := { x with expect := x.expect + 1, credits := aSet 0 f.vc (aGet 0 f.vc x.credits + f.credits) x.credits }
    setPort s p (if f.type = 1 then { x with received := x.received ++ [f] } else x)

def execFlitReceive (s : State) : Host.Outcome State Fault Refusal :=
  match s.cur with
  | .event (.flitReceive p f) => .next (takeFlit s p f)
  | _ => .fault .noActor

/-- PORT_RETRAIN_TIMEOUT: a port that has not come up within 1 ms is reported down. -/
def portTimeout (s : State) (p : Nat) : State :=
  let x := portOf s p
  match x.deadline with
  | some d =>
    if 18 ≤ p ∨ s.now < d then s
    else hingeEvent (setPort s p { x with deadline := none, down := true }) (hingeOfPort p) 6 p 0 0
  | none => s

def execPortRetrainTimeout (s : State) : Host.Outcome State Fault Refusal :=
  match s.cur with
  | .event (.portRetrainTimeout p) => .next (portTimeout s p)
  | _ => .fault .noActor

/-- PORT_RETRAIN: the driver retrains a port. -/
def execPortRetrain (s : State) : Host.Outcome State Fault Refusal :=
  match s.cur with
  | .event (.portRetrain p) => .next (if ready s then retrain s p else s)
  | _ => .fault .noActor

/-- PORT_UP: the link has trained; one that has been reported down waits for the driver (R474). -/
def portUp (s : State) (p : Nat) : State :=
  let x := portOf s p
  if 18 ≤ p ∨ s.links ≤ p ∨ x.up ∨ x.down then s
  else hingeEvent (setPort s p { x with up := true, deadline := none }) (hingeOfPort p) 7 p 0 0

def execPortUp (s : State) : Host.Outcome State Fault Refusal :=
  match s.cur with
  | .event (.portUp p) => .next (portUp s p)
  | _ => .fault .noActor

/-- PORT_LINK_FAILURE: a link that was up retrains. -/
def execPortLinkFailure (s : State) : Host.Outcome State Fault Refusal :=
  match s.cur with
  | .event (.portLinkFailure p) => .next (if (portOf s p).up then retrain s p else s)
  | _ => .fault .noActor

/-! ### Knuckles (R477) -/

/-- KNUCKLE_PARITY_ERROR: a beat of one of the 16 knuckles, in a group that is in service, awaits its retry. Knuckles 0 to 7 are
group E and 8 to 15 group O (R18). DESIGN CHOICE (log 99). DESIGN CHOICE (log 99). -/
def parityError (s : State) (core k : Nat) : State :=
  let c := coreOf s core
  let group := decide (8 ≤ k)
  if Config.cores ≤ core ∨ 16 ≤ k ∨ c.dead ∨ c.beat.isSome ∨ (c.half = true ∧ c.grp ≠ group) then s
  else setCore s core { c with beat := some k }

def execKnuckleParityError (s : State) : Host.Outcome State Fault Refusal :=
  match s.cur with
  | .event (.knuckleParityError core k) => .next (parityError s core k)
  | _ => .fault .noActor

/-- KNUCKLE_RETRY: the beat crosses, or the knuckle is declared failed: its group leaves service, or the core stops. -/
def knuckleRetry (s : State) (core : Nat) (succeeds : Bool) : State :=
  let c := coreOf s core
  match c.beat with
  | none => s
  | some k =>
    let group := decide (8 ≤ k)
    let h := hingeOfCore core
    if succeeds then addCorrected (setCore s core { c with beat := none }) core 1
    else if c.half then hingeEvent (setCore s core { c with beat := none, dead := true }) h 2 core (bit group) 0
    else
      let kd := if c.kdecl = 255 then 255 else c.kdecl + 1
      hingeEvent (setCore s core { c with beat := none, half := true, grp := !group, hcause := true, kdecl := kd })
        h 1 core (bit group) 0

def execKnuckleRetry (s : State) : Host.Outcome State Fault Refusal :=
  match s.cur with
  | .event (.knuckleRetry core ok) => .next (knuckleRetry s core ok)
  | _ => .fault .noActor

/-! ### Stacks (R479) -/

def setStackState (s : State) (n : Nat) (x : Stack) : State :=
  let h := hingeOf s (n / 4)
  setHinge s (n / 4) { h with memStacks := aInsert (n % 4) x h.memStacks }
def stackOf (s : State) (n : Nat) : Stack := aGet {} (n % 4) (hingeOf s (n / 4)).memStacks

/-- STACK_CRITICAL_TEMPERATURE: a KIND 3 record, and a flush window of 68,000 cycles. -/
def heatStack (s : State) (n : Nat) : State :=
  if 16 ≤ n ∨ (stackOf s n).state ≠ 0 then s
  else hingeEvent (setStackState s n { state := 1, windowEnd := s.now + 68000 }) (n / 4) 3 n 0 0

def execStackCriticalTemperature (s : State) : Host.Outcome State Fault Refusal :=
  match s.cur with
  | .event (.stackCriticalTemperature n) => .next (heatStack s n)
  | _ => .fault .noActor

/-- The dirty addresses of a level's copies in a page. -/
def dirtyIn (m : AList Copy) (page : Nat) : List Nat :=
  (m.filter fun e => e.2.dirty && e.1 / 65536 == page).map (·.1)

/-- The windows of a team with dirty granules on a page. -/
def dirtyWindows (tm : Team) (page : Nat) : List Nat :=
  (tm.maps.filter fun e => match e.2.win with
    | some w => w.base / 65536 == page && w.dirty != 0
    | none => false).map (·.1)

/-- Every dirty byte of a page written back to home from the caches and windows of the package. -/
def flushPage (s : State) (page : Nat) : State :=
  let s := s.cores.foldl (fun s c => cleanAddrs s (.thread c.1 0 0) .system (dirtyIn (coreOf s c.1).l1 page)) s
  let s := s.clusters.foldl (fun s c =>
    cleanAddrs s (.engine (8 * c.1) 0 0) .system (dirtyIn (clusterOf s c.1).cache page)) s
  let s := s.hinges.foldl (fun s h => cleanAddrs s (.stream h.1 0) .system (dirtyIn (hingeOf s h.1).link page)) s
  s.teams.foldl (fun s t => (dirtyWindows t.2 page).foldl (fun s m => (writeBackWindow s t.1 m).2) s) s

/-- Every dirty byte of a page dropped, the page LOST and recorded. DEDUCED (log 46). -/
def losePage (s : State) (n page : Nat) : State :=
  let s := dropRange s (page * 65536) 65536
  let calm := fun (_ : Nat) (e : MapEntry) => { e with win := e.win.map fun w =>
    if w.base / 65536 = page then { w with dirty := 0 } else w }
  let s := { s with teams := aMap (fun _ t => { t with maps := aMap calm t.maps }) s.teams }
  hingeEvent (setLost s page) (n / 4) 5 n 0 page

/-- The pages homed in a stack of which some cache or window holds a dirty byte. -/
def dirtyPages (s : State) (n : Nat) : List Nat :=
  let ofMap := fun m : AList Copy => (m.filter (·.2.dirty)).map fun e => e.1 / 65536
  let all := s.cores.flatMap (fun c => ofMap c.2.l1) ++ s.clusters.flatMap (fun c => ofMap c.2.cache)
    ++ s.hinges.flatMap (fun h => ofMap h.2.link)
    ++ s.teams.flatMap fun t => t.2.maps.filterMap fun e => match e.2.win with
      | some w => if w.dirty = 0 then none else some (w.base / 65536)
      | none => none
  (all.filter fun p => decide (p * 65536 < sysBase) && homeOfPage s p == n).eraseDups

/-- An operation that has issued on a page of the stack; it is performed before the window ends. DEDUCED (log 46).
DEDUCED (log 46). -/
def opOnStack (s : State) (n : Nat) (o : PendOp) : Bool :=
  let on := fun a : Nat => decide (a < sysBase) && homeOfPage s (a / 65536) == n
  match o.kind with
  | .pref _ a .. => on a
  | k => match k.access with
    | none => false
    | some (loc, len) => match placeOf s o.agent loc true with
      | .mem a | .revive _ a => on a
      | .stash t off => (match teamOf s t with
        | some tm => (slotsOf off len).any fun slot => (match windowAtSlot tm slot with
          | some (_, _, w) => on w.base
          | none => false)
        | none => false)
      | .zeros | .gone => false

/-- FLUSH_WINDOW_END: of the pages still dirty, each is written back in time or LOST, by choice; then self-refresh.
DEDUCED (log 46). -/
def endFlush (s : State) (n : Nat) : State :=
  let x := stackOf s n
  if 16 ≤ n ∨ x.state ≠ 1 ∨ s.now < x.windowEnd ∨ s.pending.any (opOnStack s n) then s
  else
    let (lost, s) := (dirtyPages s n).foldl (fun (r : Nat × State) page =>
      let (c, s) := choose r.2 2
      if c = 0 then (r.1, flushPage s page) else (r.1 + 1, losePage s n page)) (0, s)
    let s := hingeEvent (setStackState s n { state := 2, windowEnd := 0 }) (n / 4) 4 n 0 lost
    match s.warmWanted with
    | some b => if flushing s then s else warmReset s b
    | none => s

def execFlushWindowEnd (s : State) : Host.Outcome State Fault Refusal :=
  match s.cur with
  | .event (.flushWindowEnd n) => .next (endFlush s n)
  | _ => .fault .noActor

/-! ### Power (R484) -/

/-- DIE_THROTTLE: a die is above its throttle point. -/
def execDieThrottle (s : State) : Host.Outcome State Fault Refusal :=
  match s.cur with
  | .event (.dieThrottle d) => .next (if s.hot.contains d then s else { s with hot := s.hot ++ [d] })
  | _ => .fault .noActor

/-- DIE_TEMPERATURE_FALL. -/
def execDieTemperatureFall (s : State) : Host.Outcome State Fault Refusal :=
  match s.cur with
  | .event (.dieTemperatureFall d) => .next { s with hot := s.hot.filter fun x => x != d }
  | _ => .fault .noActor

/-! ### Attestation (R482) -/

/-- ATTESTATION_REQUEST: a write of 1 to ATTGO, ignored while it reads 1. -/
def execAttestationRequest (s : State) : Host.Outcome State Fault Refusal :=
  match s.cur with
  | .event .attestationRequest => .next (if s.attGo then s else requestReport s)
  | _ => .fault .noActor

/-- Bytes 0 to 127 of the report. -/
def reportHead (s : State) : List Byte :=
  leBytes 32 s.attNonce.toNat ++ leBytes 64 s.mchain.toNat ++ leBytes 8 (capsWord s).toNat
    ++ leBytes 16 Config.serial.toNat ++ leBytes 8 s.bootCount

/-- ATTESTATION_REPORT_READY. -/
def reportReady (s : State) : State :=
  if !s.attGo then s
  else
    let h := reportHead s
    { s with attGo := false, attRep := h ++ (List.range 3309).map (Config.signature s.mchain h) }

def execAttestationReportReady (s : State) : Host.Outcome State Fault Refusal :=
  match s.cur with
  | .event .attestationReportReady => .next (reportReady s)
  | _ => .fault .noActor

end Sys2Proof.Machine
end

