-- ==== Sys2Proof/Machine/Footprint.lean ====
section
/-! DEFINITION. The registers that an instruction reads and writes, for the scoreboard (04 R104, 05 R144) and for soft errors
(16 R427); the classes of instructions that the issue rules and the energy weights (17 R457) distinguish. -/

namespace Sys2Proof.Machine

/-- Registers read and written, pairs register by register. -/
structure Foot where
  vr : List Nat := []
  vw : List Nat := []
  sr : List Nat := []
  sw : List Nat := []
  deriving DecidableEq, Repr

def pairOf (wide : Bool) (r : Nat) : List Nat := if wide then [r, r + 1] else [r]
def wideF (t : FTy) : Bool := t == .f64

/-- The registers of a vector B operand. -/
def srcV (wide : Bool) : VSrc → List Nat
  | .vec r => pairOf wide r.val
  | _ => []
def srcS : VSrc → List Nat
  | .sca r => [r.val]
  | _ => []
def ssrcS : SSrc → List Nat
  | .reg r => [r.val]
  | _ => []
def regImmS : RegImm → List Nat
  | .reg r => [r.val]
  | .imm _ => []
def optV (wide : Bool) : Option (Fin 256) → List Nat
  | some r => pairOf wide r.val
  | none => []
def optS : Option (Fin 64) → List Nat
  | some r => [r.val]
  | none => []
def mcandS : Mcand → List Nat
  | .vec _ => []
  | .stash base pack _ => [base.val, pack.val]
def descS : DescId → List Nat
  | .imm _ => []
  | .reg r => [r.val]

/-- Shapes that several constructors share. -/
def footS3 (d : Nat) (srcs : List Nat) : Foot := { sr := srcs, sw := [d] }
def footVOp2 (w : Bool) (o : VOp2) : Foot :=
  { vr := pairOf w o.a.val ++ srcV w o.b, vw := pairOf w o.d.val, sr := srcS o.b }
def footV3 (o : C3) : Foot := { vr := [o.a.val, o.b.val], vw := [o.d.val] }
def footV2 (o : C2) : Foot := { vr := [o.a.val], vw := [o.d.val] }
def footF2 (w : Bool) (d a : Nat) (b : VSrc) : Foot :=
  { vr := pairOf w a ++ srcV w b, vw := pairOf w d, sr := srcS b }
def footMem (m : MemOp) (vr vw : List Nat) : Foot :=
  { vr := memRegs m ++ vr, vw := vw, sr := [m.base.val] }

/-- The registers of an instruction, on a core or on a stream. -/
def footOf (stream : Bool) (i : Instr) : Foot :=
  match i with
  | .brx o => match o.base with
    | .sca r => { sr := [r.val] }
    | .vec r => if stream then { sr := [r.val] } else { vr := pairOf true r.val }
  | .call o => if stream then { sw := [o.d.val] } else { vw := pairOf true o.d.val }
  | .callx o =>
    let l : Foot := if stream then { sw := [o.d.val] } else { vw := pairOf true o.d.val }
    match o.base with
    | .sca r => { l with sr := [r.val] }
    | .vec r => if stream then { l with sr := [r.val] } else { l with vr := pairOf true r.val }
  | .retC o => if stream then { sr := [o.a.val] } else { vr := pairOf true o.a.val }
  | .swch o => { vr := [o.a.val] }
  | .loop o => match o.count with
    | .reg r => { sr := [r.val] }
    | .imm _ => {}
  | .saddC o | .ssubC o | .smulC o | .smulhC o | .sdivC o | .sremC o | .sandC o | .sorC o | .sxorC o | .sandnC o
  | .sshlC o | .sshrC o | .ssarC o | .srotC o | .sminC o | .smaxC o => footS3 o.d.val [o.a.val, o.b.val]
  | .sadd o | .ssub o | .smul o | .smulh o | .sdiv o | .srem o | .sand o | .sor o | .sxor o | .sandn o
  | .sshl o | .sshr o | .ssar o | .srot o | .smin o | .smax o => footS3 o.d.val (o.a.val :: ssrcS o.b)
  | .scmp o => footS3 o.d.val (o.a.val :: regImmS o.b)
  | .ssel o => footS3 o.d.val (o.a.val :: o.c.val :: regImmS o.b)
  | .smovC o | .spopcC o | .sclzC o | .sctzC o => footS3 o.d.val [o.a.val]
  | .smov o | .spopc o | .sclz o | .sctz o => footS3 o.d.val [o.a.val]
  | .sli o => { sw := [o.d.val] }
  | .slea o => footS3 o.d.val [o.a.val, o.b.val]
  | .sbfx o => footS3 o.d.val (o.a.val :: match o.fld with | .imm .. => [] | .reg b c => [b.val, c.val])
  | .sbfi o => footS3 o.d.val (o.d.val :: o.a.val :: match o.fld with | .imm .. => [] | .reg b c => [b.val, c.val])
  | .smovv o =>
    { vr := pairOf (wideInt o.ty) o.a.val, sw := [o.d.val]
      sr := match o.lane with | .reg r => [r.val] | .imm _ => [] }
  | .vaddC o | .vsubC o | .vmulC o | .vmulhC o | .vandC o | .vorC o | .vxorC o | .vandnC o | .vshlC o | .vshrC o
  | .vsarC o | .vminC o | .vmaxC o | .vaddsC o | .vsubsC o | .vfaddC o | .vfsubC o | .vfmulC o | .vfminC o
  | .vfmaxC o | .vfdivC o => footV3 o
  | .vadd o | .vsub o | .vmul o | .vmulh o | .vand o | .vor o | .vxor o | .vandn o | .vshl o | .vshr o | .vsar o
  | .vmin o | .vmax o | .vadds o | .vsubs o => footVOp2 (wideInt o.ty) o
  | .vmad o =>
    let w := wideInt o.ty
    { vr := pairOf w o.a.val ++ srcV w o.b ++ pairOf w o.c.val, vw := pairOf w o.d.val, sr := srcS o.b }
  | .vmadw o =>
    let w := intWidth o.ty == 32
    { vr := [o.a.val] ++ srcV false o.b ++ pairOf w o.c.val, vw := pairOf w o.d.val, sr := srcS o.b }
  | .vdot4 o => { vr := [o.a.val] ++ srcV false o.b ++ [o.c.val], vw := [o.d.val], sr := srcS o.b }
  | .vcmp o =>
    let w := wideInt o.ty
    { vr := pairOf w o.a.val ++ srcV w o.b, sr := srcS o.b }
  | .vsel o => footF2 (wideInt o.ty) o.d.val o.a.val o.b
  | .vabsC o | .vpopcC o | .vclzC o | .vfclassC o | .vfrcpC o | .vfrsqC o | .vfsqrtC o | .vfexp2C o | .vflog2C o
  | .vfsinC o | .vfcosC o | .vftanhC o => footV2 o
  | .vabs o | .vpopc o | .vclz o => { vr := pairOf (wideInt o.ty) o.a.val, vw := pairOf (wideInt o.ty) o.d.val }
  | .vbfx o =>
    let w := wideInt o.ty
    let (fv, fs) : List Nat × List Nat := match o.fld with
      | .imm .. => ([], []) | .regV b c => ([b.val, c.val], []) | .regS b c => ([c.val], [b.val])
    { vr := pairOf w o.a.val ++ fv, vw := pairOf w o.d.val, sr := fs }
  | .vbfi o =>
    let w := wideInt o.ty
    let (fv, fs) : List Nat × List Nat := match o.fld with
      | .imm .. => ([], []) | .regV b c => ([b.val, c.val], []) | .regS b c => ([c.val], [b.val])
    { vr := pairOf w o.d.val ++ pairOf w o.a.val ++ fv, vw := pairOf w o.d.val, sr := fs }
  | .vmovsC o => { sr := [o.a.val], vw := [o.d.val] }
  | .vmovs o => { sr := [o.a.val], vw := pairOf (wideInt o.ty) o.d.val }
  | .vli o => { vw := pairOf (wideInt o.ty) o.d.val }
  | .vidxC o => { vw := [o.d.val] }
  | .vidx o => { vr := srcV (wideInt o.ty) o.b, sr := srcS o.b, vw := pairOf (wideInt o.ty) o.d.val }
  | .vfadd o | .vfsub o | .vfmul o | .vfdiv o => footF2 (wideF o.ty) o.d.val o.a.val o.b
  | .vfma o =>
    let w := wideF o.ty
    { vr := pairOf w o.a.val ++ srcV w o.b ++ pairOf w o.c.val, vw := pairOf w o.d.val, sr := srcS o.b }
  | .vfmin o | .vfmax o => footF2 (wideF o.ty) o.d.val o.a.val o.b
  | .vaddmin o | .vaddmax o =>
    let w := addWide o.ty
    { vr := pairOf w o.a.val ++ srcV w o.b ++ pairOf w o.c.val, vw := pairOf w o.d.val, sr := srcS o.b }
  | .vfcmp o =>
    let w := wideF o.ty
    { vr := pairOf w o.a.val ++ srcV w o.b, sr := srcS o.b }
  | .vfclass o => { vr := pairOf (wideF o.ty) o.a.val, vw := [o.d.val] }
  | .vfrcp o | .vfrsq o | .vfsqrt o | .vfexp2 o | .vflog2 o | .vfsin o | .vfcos o | .vftanh o =>
    { vr := pairOf (wideF o.ty) o.a.val, vw := pairOf (wideF o.ty) o.d.val }
  | .vfrnd o => { vr := pairOf (wideF o.ty) o.a.val, vw := pairOf (wideF o.ty) o.d.val }
  | .vcvt o => { vr := pairOf (isWideTy o.sty) o.a.val, vw := pairOf (isWideTy o.dty) o.d.val }
  | .vqnt o => { vr := [o.a.val], vw := [o.d.val], sw := [o.sc.val] }
  | .vdqnt o => { vr := [o.a.val, o.b.val], vw := [o.d.val] }
  | .vpack o => { vr := [o.a.val, o.b.val] ++ (match o.more with | some (c, e) => [c.val, e.val] | none => [])
                  vw := [o.d.val] }
  | .vunpk o => { vr := [o.a.val], vw := addrRange o.d.val (32 / (unpackElem o.sty).2) }
  | .vshfl o =>
    { vr := pairOf o.wide o.a.val ++ srcV false o.b ++ optV o.wide o.c, vw := pairOf o.wide o.d.val, sr := srcS o.b }
  | .vbcst o =>
    { vr := pairOf o.wide o.a.val ++ optV o.wide o.c, vw := pairOf o.wide o.d.val
      sr := match o.src with | .reg r => [r.val] | .first | .imm _ => [] }
  | .vvote o => match o.dst with
    | .ballot d => { vw := [d.val] }
    | .any _ | .all _ | .uni _ => {}
  | .vmatch o => { vr := pairOf o.wide o.a.val, vw := [o.d.val] }
  | .vscan o => { vr := pairOf (redWide o.ty) o.a.val, vw := pairOf (redWide o.ty) o.d.val }
  | .vred o => { vr := pairOf (redWide o.ty) o.a.val }
  | .srdw o => match o.what with
    | .seq => { sw := [o.d.val] }
    | .wait n _ => { sr := regImmS n, sw := [o.d.val] }
  | .ptovC o => { vw := [o.d.val] }
  | .ptov o => { vw := [o.d.val] }
  | .vtopC o => { vr := [o.a.val] }
  | .vtop o => { vr := pairOf o.wide o.a.val }
  | .ppopcC o => { sw := [o.d.val] }
  | .ppopc o => { sw := [o.d.val] }
  | .ld o => footMem o.mem [] (pairOf (o.w == .n64) o.d.val)
  | .st o => footMem o.mem (pairOf (o.w == .n64) o.c.val) []
  | .ldn o => footMem o.mem [] (pairOf (o.w == .n64) o.d.val)
  | .sld o => { sr := [o.a.val], sw := [o.d.val] }
  | .sst o => { sr := [o.a.val, o.c.val] }
  | .pref o => footMem o.mem [] []
  | .clean o | .inval o => match o.what with
    | .lines m => footMem m [] []
    | .range a _ c => { sr := [a.val, c.val] }
    | .all => {}
  | .pin o => { sr := [o.a.val] }
  | .unpin o | .discard o => { sr := [o.a.val] }
  | .pgreq o => footMem o.mem [] []
  | .mapw o => { sr := o.c.val :: (match o.win with | some (a, _) => [a.val] | none => []) }
  | .kbind o => { sr := [o.a.val, o.c.val] }
  | .kacq o => { sr := optS o.wait, sw := [o.d.val] }
  | .krel o => { sw := optS o.ret }
  | .latg o => { sr := [o.a.val] }
  | .latw o => { sr := [o.a.val] }
  | .atom o => footMem o.mem (pairOf o.wide o.c.val) (pairOf o.wide o.d.val)
  | .atomf o => footMem o.mem (pairOf (o.ty == .f64) o.c.val) (pairOf (o.ty == .f64) o.d.val)
  | .cas o => footMem o.mem (pairOf o.wide o.c.val ++ pairOf o.wide o.d.val) (pairOf o.wide o.d.val)
  | .cas2 o => footMem o.mem (addrRange o.c.val 4 ++ addrRange o.d.val 4) (addrRange o.d.val 4)
  | .tinit o => { sr := regImmS o.v }
  | .ttest o => match o.what with
    | .test .. => {}
    | .phase d => { sw := [d.val] }
  | .mma o => { vr := mcandRegs o.ty (mK o.ty) o.a ++ mcandRegs o.ty (mK o.ty) o.b, sr := mcandS o.a ++ mcandS o.b }
  | .mmas o =>
    let (n, _, _, _, _) := spParams o.pat
    { vr := mcandRegs o.ty n o.a ++ mcandRegs o.ty 128 o.b, sr := o.sm.val :: mcandS o.a ++ mcandS o.b }
  | .tfill o => { sr := match o.v with | .reg r => [r.val] | .imm _ | .lit _ => [] }
  | .tident o => { sr := match o.dst with | .tile _ => [] | .stash a => [a.val] }
  | .tld o => { sr := [o.a.val, o.pack.val] }
  | .tst o => { sr := [o.a.val, o.pack.val] }
  | .tmovv o => { vw := addrRange o.v.val o.count.val }
  | .tmovt o => { vr := addrRange o.v.val o.count.val }
  | .tcls o => { sw := [o.d.val], sr := match o.src with | .tile _ => [] | .slot a => [a.val] }
  | .scld o => { sr := [o.a.val] }
  | .tscl o => match o.src with
    | .sca r => { sr := [r.val] }
    | .imm _ => {}
    | .vec r => { vr := [r.val] }
  | .tdset o | .tdget o => { sr := o.a.val :: descS o.id }
  | .tdinv o => { sr := descS o.id }
  | .cpost o => { sr := [o.a.val, o.b.val, o.c.val, o.e.val], sw := [o.d.val] }
  | .gpost o | .spost o => { vr := [o.b.val], sr := [o.a.val, o.c.val, o.e.val], sw := [o.d.val] }
  | .vremap o => { sr := match o.mode with
      | .none => [] | .mod a => [a.val] | .hash a b | .tab a b => [a.val, b.val] }
  | .cwait o => { sr := [o.b.val] }
  | .cseq o => { sw := [o.d.val] }
  | .cqry o => { sw := [o.d.val] }
  | .mpost o => { sr := [o.a.val, o.c.val], sw := [o.d.val] }
  | .xred o => { sr := [o.a.val, o.b.val, o.c.val] }
  | .xgth o => { sr := [o.a.val, o.b.val, o.c.val] }
  | .xsnd o | .xrcv o => { sr := [o.a.val, o.b.val, o.c.val] }
  | .embag o => { sr := [o.a.val, o.b.val, o.c.val, o.e.val], sw := [o.d.val] }
  | .emstat o => { sw := [o.d.val] }
  | .launch o => { sr := o.a.val :: optS o.par ++ optS o.spl, sw := [o.d.val] }
  | .lwait o => { sr := [o.b.val], sw := [o.d.val] }
  | .lsig o => { sr := [o.b.val] }
  | .lsigHinge o => { sr := [o.b.val, o.c.val] }
  | .levw o => { sr := [o.b.val], sw := [o.d.val] }
  | .ctxsw o => { sr := [o.a.val, o.b.val], sw := [o.d.val] }
  | .mfs o => match o.r with
    | .sca d => { sw := [d.val] }
    | .vec d => { vw := pairOf (sregWide o.reg) d.val }
  | .mts o => match o.r with
    | .sca a => { sr := [a.val] }
    | .vec a => { vr := pairOf (sregWide o.reg) a.val }
  | .snap o => { sw := [o.d.val] }
  | .mark o => match o.v with
    | .reg r => { sr := [r.val] }
    | .imm _ | .lit _ => {}
  | .esampC o => { sw := [o.d.val] }
  | .esamp o => { sw := [o.d.val] }
  | _ => {}

/-- What the issue rules distinguish. -/
inductive Kind where
  /-- Control flow, predicate, lower-leaf moves, system and debug. -/
  | plain
  | scalar
  /-- Vector integer and float, conversions, the lane crossbar and reductions. -/
  | vector
  /-- Loads, stores, atomics, prefetches. -/
  | memory
  /-- Memory, ordering and tumbler instructions that act at their issue, after the band's earlier operations. -/
  | ordered
  /-- The other instructions on memory and team state. -/
  | other
  | matrix
  /-- Posts of the copy engine, the collective engine and EMBAG. -/
  | post
  /-- Instructions of a sequencer alone. -/
  | sequencer
  deriving DecidableEq, Repr

def kindOf (i : Instr) : Kind :=
  match i with
  | .saddC _ | .ssubC _ | .smulC _ | .smulhC _ | .sdivC _ | .sremC _ | .sandC _ | .sorC _ | .sxorC _ | .sandnC _
  | .sshlC _ | .sshrC _ | .ssarC _ | .srotC _ | .sminC _ | .smaxC _ | .sadd _ | .ssub _ | .smul _ | .smulh _ | .sdiv _
  | .srem _ | .sand _ | .sor _ | .sxor _ | .sandn _ | .sshl _ | .sshr _ | .ssar _ | .srot _ | .smin _ | .smax _
  | .scmp _ | .ssel _ | .smovC _ | .smov _ | .sli _ | .slea _ | .spopcC _ | .spopc _ | .sclzC _ | .sclz _ | .sctzC _
  | .sctz _ | .sbfx _ | .sbfi _ | .smovv _ => .scalar
  | .vaddC _ | .vsubC _ | .vmulC _ | .vmulhC _ | .vandC _ | .vorC _ | .vxorC _ | .vandnC _ | .vshlC _ | .vshrC _
  | .vsarC _ | .vminC _ | .vmaxC _ | .vaddsC _ | .vsubsC _ | .vadd _ | .vsub _ | .vmul _ | .vmulh _ | .vand _ | .vor _
  | .vxor _ | .vandn _ | .vshl _ | .vshr _ | .vsar _ | .vmin _ | .vmax _ | .vadds _ | .vsubs _ | .vmad _ | .vmadw _
  | .vdot4 _ | .vcmp _ | .vsel _ | .vabsC _ | .vpopcC _ | .vclzC _ | .vabs _ | .vpopc _ | .vclz _ | .vbfx _ | .vbfi _
  | .vfaddC _ | .vfsubC _ | .vfmulC _ | .vfminC _ | .vfmaxC _ | .vfdivC _ | .vfadd _ | .vfsub _ | .vfmul _ | .vfdiv _
  | .vfma _ | .vfmin _ | .vfmax _ | .vaddmin _ | .vaddmax _ | .vfcmp _ | .vfclassC _ | .vfclass _ | .vfrcpC _
  | .vfrsqC _ | .vfsqrtC _ | .vfexp2C _ | .vflog2C _ | .vfsinC _ | .vfcosC _ | .vftanhC _ | .vfrcp _ | .vfrsq _
  | .vfsqrt _ | .vfexp2 _ | .vflog2 _ | .vfsin _ | .vfcos _ | .vftanh _ | .vfrnd _ | .vcvt _ | .vqnt _ | .vdqnt _
  | .vpack _ | .vunpk _ | .vshfl _ | .vmatch _ | .vscan _ | .vred _ | .srdw _ => .vector
  | .ld _ | .st _ | .ldn _ | .sld _ | .sst _ | .pref _ | .atom _ | .atomf _ | .cas _ | .cas2 _ | .fence _
  | .clean _ | .inval _ => .memory
  | .pin _ | .unpin _ | .pgreq _ | .kbind _ | .kfree _ | .latw _ | .tinit _ | .twait _ | .ttest _ | .vremap _ | .cwait _
  | .cseq _ | .cqry _ | .emstat _ => .other
  | .discard _ | .mapw _ | .mapc _ | .mapf _ | .kacq _ | .krel _ | .latg _ | .tarv _ | .tdset _ | .tdget _
  | .tdinv _ => .ordered
  | .mma _ | .mmas _ | .tzero _ | .tzeroC _ | .tfill _ | .tident _ | .tld _ | .tst _ | .tmovv _ | .tmovt _ | .tcls _
  | .scld _ | .ttopk _ | .tacc _ | .tscl _ | .tcvt _ => .matrix
  | .cpost _ | .gpost _ | .spost _ | .mpost _ | .xred _ | .xgth _ | .xsnd _ | .xrcv _ | .embag _ => .post
  | .launch _ | .lwait _ | .lsig _ | .lsigHinge _ | .lsigHost _ | .levw _ | .ctxsw _ => .sequencer
  | _ => .plain

end Sys2Proof.Machine
end

