-- ==== Sys2Proof/Machine/Energy.lean ====
section
/-! DEFINITION. Energy weights at issue (17 R457). The weights of memory work are charged where it is performed (R458). -/

namespace Sys2Proof.Machine

/-! ### Vector classes (R102, R143, R96, R104, R144, R499, R167) -/

/-- Down-slots of predicate destinations. -/
def predSlots (i : Instr) : Nat :=
  match i with
  | .vcmp _ | .vfcmp _ => 2
  | _ => 0

/-- Pipe-busy cycles at full width. The cycle of another unit that VRED and SRDW take counts as none. DESIGN CHOICE (log 104).
DESIGN CHOICE (log 104). -/
def pipeBusy (i : Instr) : Nat :=
  let int := fun (t : IntTy) => if wideInt t then 2 else 1
  let flt := fun (t : FTy) (n : Nat) => if wideF t then 2 * n else n
  match i with
  | .vadd o | .vsub o | .vmul o | .vmulh o | .vand o | .vor o | .vxor o | .vandn o | .vshl o | .vshr o | .vsar o
  | .vmin o | .vmax o | .vadds o | .vsubs o => int o.ty
  | .vmad o => int o.ty
  | .vmadw o => int o.ty
  | .vcmp o => int o.ty
  | .vsel o => int o.ty
  | .vabs o | .vpopc o | .vclz o => int o.ty
  | .vbfx o | .vbfi o => int o.ty
  | .vfadd o | .vfsub o | .vfmul o => flt o.ty 1
  | .vfdiv o => flt o.ty 8
  | .vfdivC _ | .vfsqrtC _ => 8
  | .vfma o => flt o.ty 1
  | .vfmin o | .vfmax o => flt o.ty 1
  | .vaddmin o | .vaddmax o => if addWide o.ty then 2 else 1
  | .vfcmp o => flt o.ty 1
  | .vfclass o => flt o.ty 1
  | .vfrnd o => flt o.ty 1
  | .vfsqrt o => flt o.ty 8
  | .vfrcpC _ | .vfrsqC _ | .vfexp2C _ | .vflog2C _ | .vfrcp _ | .vfrsq _ | .vfexp2 _ | .vflog2 _ => 2
  | .vfsinC _ | .vfcosC _ | .vftanhC _ | .vfsin _ | .vfcos _ | .vftanh _ => 4
  | .vcvt o => if isWideTy o.sty || isWideTy o.dty then 2 else 1
  | .vqnt _ => 2
  | .vscan _ => 2
  | .vred _ | .srdw _ => 0
  | _ => 1

/-- The weight of a vector instruction. VQNT's down-slots are 5 (R96's entry of it). -/
def vectorEnergy (i : Instr) : Nat :=
  let f := footOf false i
  let down := match i with | .vqnt _ => 5 | _ => 4 * f.vw.length + predSlots i
  let up := match i with | .vred _ | .srdw _ => 0 | _ => 2 * f.vr.length
  4 * (up + down) + 16 * pipeBusy i

/-! ### Matrix and tile (R311, R314, R352) -/

def unitWeight (slots busy : Nat) : Nat := 4 * slots + 300 * busy

/-- Stash bytes that a multiplicand crosses with. -/
def mcandCross (ty : Ty) (k : Nat) : Mcand → Nat
  | .vec _ => 0
  | .stash .. => 32 * k * mElem ty

/-- The weight of a decision: the parts of A, B and the metadata in up-slots, their stash bytes, and the least crossing
length. -/
def decisionEnergy (d : Decision) (ca cb : OpClass) (pa pb pm ba bb bm base : Nat) : Nat :=
  let live := fun (c : OpClass) (x : Nat) => match c with | .const _ => 0 | _ => x
  match d with
  | .nop => 0
  | .copy => unitWeight pm 2
  | .ident onB =>
    if onB then unitWeight (live ca pa) (max 4 (live ca ba / 128)) else unitWeight (live cb pb) (max 4 (live cb bb / 128))
  | .full => unitWeight (live ca pa + live cb pb + pm) (max base ((live ca ba + live cb bb + bm) / 128))

/-- The weight of MMA, in the state after its issue: the classes its decision read are still there. -/
def mmaEnergy (s : State) (b : Band) (o : Mma) : Nat :=
  match teamOf s b.team with
  | none => 0
  | some tm =>
    let k := mK o.ty
    let wide := decide (o.ty = .flt .f64)
    let bs := o.scales.isSome
    let ca := opClass tm o.ty k b bs true o.a
    let cb := opClass tm o.ty k b bs true o.b
    let tcNf := (pairTiles wide o.c.val).any fun t => (tileClsOf tm t).nonfinite
    let d := (decideMma o.ty bs true (decide (o.d = o.c)) tcNf ca cb).1
    let base := match o.ty with
      | .flt .f32 | .flt .f64 => 16
      | .flt _ => 8
      | .int _ | .b8 _ => if s.profileN then 4 else 8
    decisionEnergy d ca cb 32 32 0 (mcandCross o.ty k o.a) (mcandCross o.ty k o.b) 0 base

def mmasEnergy (s : State) (b : Band) (o : Mmas) : Nat :=
  match teamOf s b.team with
  | none => 0
  | some tm =>
    let (n, _, _, _, mb) := spParams o.pat
    let ca := opClass tm o.ty n b false false o.a
    let cb := opClass tm o.ty 128 b false false o.b
    let d := (decideMma o.ty false false (decide (o.d = o.c)) (tileClsOf tm o.c.val).nonfinite ca cb).1
    let (pa, pm) := match o.pat with | .s24 => (32, 8) | .s48 => (32, 16) | .s14 => (16, 4)
    decisionEnergy d ca cb pa 64 pm (mcandCross o.ty n o.a) (mcandCross o.ty 128 o.b) (32 * mb) 8

/-- The weight of a matrix or tile instruction. -/
def matrixEnergy (s : State) (b : Band) (i : Instr) : Nat :=
  -- N of R311: 8, 16 and 32 cycles
  let n := fun (w : TileW) => tileWBytes w / 4
  match i with
  | .mma o => mmaEnergy s b o
  | .mmas o => mmasEnergy s b o
  | .tzero _ | .tzeroC _ | .tfill _ => unitWeight 0 1
  | .tident o => match o.dst with
    | .tile _ => unitWeight 0 1
    | .stash _ => 0
  | .tld o => unitWeight (2 * n o.w) (n o.w)
  | .tst o => unitWeight (4 * n o.w) (n o.w)
  | .tmovt o => unitWeight (2 * o.count.val) ((o.count.val + 3) / 4)
  | .tmovv o => unitWeight (4 * o.count.val) ((o.count.val + 3) / 4)
  | .scld o => unitWeight ((o.count.val + 1) / 2) ((o.count.val + 3) / 4)
  | .tscl o => match o.src with
    | .vec _ => unitWeight 2 8
    | .sca _ | .imm _ => unitWeight 0 8
  | .tacc _ | .tcvt _ => unitWeight 0 8
  | .ttopk _ => unitWeight 0 16
  | _ => 0

/-- The weight of an instruction that a band has issued (R457); memory, ordering and team-state instructions have none of
their own. DESIGN CHOICE (log 104). -/
def issueEnergy (s : State) (b : Band) (i : Instr) : Nat :=
  match kindOf i with
  | .plain => 1
  | .scalar => match i with
    | .sdivC _ | .sremC _ | .sdiv _ | .srem _ => 8
    | _ => 2
  | .vector => vectorEnergy i
  | .matrix => matrixEnergy s b i
  | .post => 4
  | .memory | .ordered | .other | .sequencer => 0

end Sys2Proof.Machine
end

