-- ==== Sys2Proof/Machine/Ready.lean ====
section
/-! DEFINITION. Which groups and streams may issue: candidates (07 R191, R192), the scoreboard (04 R104), the order that
instructions without a memory operation of their own keep with pending ones (09 R271), holds (15 R416), stops (17 R445),
stall reasons and scheduling (15 R414, R417), and the events FORCED_PICK, STALL_SAMPLE and MEMORY_SAMPLE. -/

namespace Sys2Proof.Machine

/-! ### Candidates -/

/-- Waits at one program counter that keep their threads apart: results already captured, and waits of R191. -/
def waitClass : Wait → Wait
  | .captured v => .captured v
  | .answered => .answered
  | .polled c => if c = stLatch then .polled c else .ready
  | .key b n w => .key b n w
  | _ => .ready

/-- An instruction that has issued and waits, and so completes while its band is halted (R445). -/
def hasIssued (w : Wait) : Bool :=
  match w with
  | .answered | .captured _ | .key .. => true
  | .polled c => c == stLatch || c == stKey
  | _ => false

/-- An eligible thread that no stop holds, or the band's single step has freed, or whose instruction has issued (R191, R445, R450). -/
def issuable (b : Band) (i : Nat) : Bool :=
  eligible b i && (b.stepping.isSome || !(threadOf b i).halted || hasIssued (threadOf b i).wait)

/-- The candidate that holds a home lane (R192). DESIGN CHOICE (log 11). -/
def candidateOf (b : Band) (lane : Nat) : List Nat :=
  if !issuable b lane then []
  else
    let t := threadOf b lane
    lanesWhere b fun i u => issuable b i && u.pc == t.pc && waitClass u.wait == waitClass t.wait
      && (!issuedWait t.wait || u.waitId == t.waitId)

/-- The candidates of a band. DESIGN CHOICE (log 11). -/
def candidates (b : Band) : List (List Nat) :=
  (((List.range b.threads.length).map (candidateOf b)).filter fun c => !c.isEmpty).eraseDups

/-- The thread that a queued Engine trap is due at; none while its SRDW has its value and completes (R425). DEDUCED (log 39).
DEDUCED (log 39). -/
def dueLane (b : Band) : Option Nat :=
  if b.traps.isEmpty then none
  else
    let waits := fun t : Thread => match t.wait with | .join .. => true | _ => false
    match (lanesWhere b fun _ t => !t.exited && !waits t).head? with
    | some i =>
      let t := threadOf b i
      if t.tlevel || t.halted || (match t.wait with | .captured _ => true | _ => false) then none else some i
    | none => none

/-! ### Fetch and decode -/

/-- What a fetch found; `busy` when the page's stack takes no access (R479). -/
inductive Fetched where
  | busy
  | fault (e : Exc)
  | bad (word : Nat) (e : DecodeError)
  | ok (word len : Nat) (d : Decoded)

/-- The instruction of a group at `pc`, from its team's code (R232). DEDUCED (log 23), DEDUCED (log 39).
DEDUCED (log 23), DEDUCED (log 39). -/
def fetchGroup (s : State) (core : Nat) (tm : Team) (pc : DWord) : Fetched × State :=
  let (r, s) := fetchInstr s (clusterOfCore core) tm.ctx tm.code pc.toNat
  (match r with
    | .error none => .busy
    | .error (some e) => .fault e
    | .ok (w, bs) => match decode false s.profileN bs with
      | .ok d => .ok w bs.length d
      | .error e => .bad w e, s)

/-- `n` bytes of an instruction in one line read through the core's instruction cache and the cluster cache (R232): a line that neither
holds comes from below and is a miss of its page; a line of a window is served and not allocated (R241). DESIGN CHOICE (log 112).
DESIGN CHOICE (log 112). -/
def passLine (s : State) (core a n : Nat) : State :=
  let c := coreOf s core
  let cl := clusterOfCore core
  if c.icache.contains (a / 128) || (windowAt s a).isSome then s
  else
    let s := countCluster (setCore s core { c with icache := a / 128 :: c.icache }) cl a (holdsLine s (.cluster cl) a)
    useCluster (loadBytes s (.engine core 0 0) false a n).2 cl a .normal

/-- The lines of an instruction of `len` bytes at `pc`, where the context translates them. DESIGN CHOICE (log 112). -/
def passFetch (s : State) (core ctx pc len : Nat) : State :=
  ((List.range ((pc + len - 1) / 128 + 1 - pc / 128)).map fun i => max pc ((pc / 128 + i) * 128)).foldl (fun s va =>
    match walk s ctx va with
    | .ok l => if l.state = 0 then passLine s core (physOf l va) (min (pc + len - va) (128 - va % 128)) else s
    | .error _ => s) s

/-- The instruction of a stream, read at home. DEDUCED (log 23). DEDUCED (log 23). -/
def fetchStream (s : State) (h : Nat) (t : Stream) : Fetched × State :=
  let (r, s) := fetchInstr s (60 + h) t.ctx.toNat s.mem t.pc.toNat
  (match r with
    | .error none => .busy
    | .error (some e) => .fault e
    | .ok (w, bs) => match decode true s.profileN bs with
      | .ok d => .ok w bs.length d
      | .error e => .bad w e, s)

/-! ### The scoreboard -/

/-- Registers that an operation will deliver to: vector and scalar. -/
def deliverRegs : PendKind → List Nat × List Nat
  | .load _ w dst .. => match dst with
    | .vec r => (addrRange r (if widthBytes w = 8 then 2 else 1), [])
    | .sca r => ([], [r])
  | .atomic _ _ n _ _ dst .. => match dst with
    | .vec r => (addrRange r (max 1 (n / 4)), [])
    | .sca r => ([], [r])
  | .krel _ _ _ _ dst => ([], dst.toList)
  | .store .. | .fence .. | .clean .. | .pref .. | .latg .. | .tarv .. | .post _ => ([], [])

def lanesMeet (o : PendOp) (lanes : List Nat) : Bool := o.lanes.any fun i => lanes.contains i

/-- No register of the footprint waits for a result. -/
def scoreboardFree (s : State) (issuer : Nat) (lanes : List Nat) (f : Foot) : Bool :=
  !s.pending.any fun o =>
    o.issuer == issuer &&
      let (v, c) := deliverRegs o.kind
      (lanesMeet o lanes && v.any fun r => f.vr.contains r || f.vw.contains r)
        || c.any fun r => f.sr.contains r || f.sw.contains r

/-! ### Order with pending operations -/

/-- A pending operation of these lanes that meets `p`. -/
def pendingOf (s : State) (issuer : Nat) (lanes : List Nat) (p : PendOp → Bool) : Bool :=
  s.pending.any fun o => o.issuer == issuer && lanesMeet o lanes && p o

/-- An acquire or a CLEAN or INVAL: later operations of its threads follow it; after a FENCE.rel, writes do (R271). -/
def holdsLater (write : Bool) (o : PendOp) : Bool :=
  o.kind.acquires || match o.kind with | .fence .rel _ => write | .clean .. => true | _ => false

/-- A LATG of the group's threads that is not performed (R287). -/
def givesLatch (o : PendOp) : Bool := match o.kind with | .latg .. => true | _ => false

/-- A TARV of a tumbler that is not performed (R303). -/
def arrivesAt (t : Nat) (o : PendOp) : Bool := match o.kind with | .tarv t' .. => t' == t | _ => false

/-- An operation on bytes that `n` bytes of a context at `va` meet. -/
def onBytes (s : State) (ctx va n : Nat) (o : PendOp) : Bool :=
  match walk s ctx va with
  | .ok l => (opRanges s o).any fun r => rangesMeet (some r) (placeRange s o.agent (.phys (physOf l va) va) n)
  | .error _ => false

/-- A plain global access, which no stash byte can meet while no window is registered. -/
def plainGlobal (i : Instr) : Bool :=
  match i with
  | .ld o => !o.mem.stash && o.acq.isNone
  | .st o => !o.mem.stash && o.rel.isNone
  | .ldn o => !o.mem.stash
  | .sld o => !o.stash && o.acq.isNone
  | .sst o => !o.stash && o.rel.isNone
  | .pref _ => true
  | _ => false

def anyWindow (s : State) : Bool := s.teams.any fun t => t.2.maps.any fun e => e.2.win.isSome

/-- A matrix instruction that reads or writes the stash. -/
def matrixStash (i : Instr) : Bool :=
  let m := fun (c : Mcand) => match c with | .stash .. => true | .vec _ => false
  match i with
  | .mma o => m o.a || m o.b
  | .mmas _ | .tld _ | .tst _ | .scld _ => true
  | .tident o => match o.dst with | .stash _ => true | .tile _ => false
  | .tcls o => match o.src with | .slot _ => true | .tile _ => false
  | _ => false

/-- Matrix operations of a band, or of its team, that are not complete. -/
def bandMatrix (s : State) (k : Nat) : Bool := s.matrix.any fun m => m.band == k
def teamMatrix (s : State) (team : Nat) : Bool := s.matrix.any fun m => m.team == team

/-- An operation on bytes of the page of a virtual address (R260). -/
def onPageOf (s : State) (ctx va : Nat) (o : PendOp) : Bool :=
  match walk s ctx va with
  | .ok l => (opRanges s o).any fun r => rangesMeet (some r) (some (0, physOf l (va / 65536 * 65536), 65536))
  | .error _ => false

/-- An ordered instruction's wait for earlier operations of its threads. DESIGN CHOICE (log 14).
DESIGN CHOICE (log 14). -/
def orderedWait (s : State) (b : Band) (k : Nat) (lanes : List Nat) (i : Instr) : Bool :=
  let ctx := match teamOf s b.team with | some tm => tm.ctx | none => 0
  match i with
  | .mapw _ | .mapc _ | .mapf _ => pendingOf s k lanes fun o => onStashBytes s o || holdsLater true o || givesLatch o
  | .kacq o =>
    let word := match aFind o.k.val (ctxOf s ctx).keys with | some x => x.word | none => 0
    pendingOf s k lanes fun o => holdsLater false o || onBytes s ctx word 8 o
  | .tdset o => pendingOf s k lanes fun x => holdsLater false x || onBytes s ctx (rdS b o.a.val).toNat 64 x
  | .tdget _ => pendingOf s k lanes (holdsLater true)
  | .discard o => pendingOf s k lanes fun x => holdsLater true x || onPageOf s ctx (baseAddr (rdS b o.a.val) o.off) x
  | _ => pendingOf s k lanes (holdsLater false)

/-- The lanes whose registers an instruction of a group reads or writes: SMOVV, and the operands that are read of every lane of
the band (R114, R307, R328, R336). -/
def touchedLanes (b : Band) (live : List Nat) (i : Instr) : List Nat :=
  match i with
  | .smovv o => [match o.lane with | .reg r => (rdS b r.val).toNat % 32 | .imm l => l.val]
  | .mma _ | .mmas _ | .tmovt _ | .tscl _ => List.range b.threads.length
  | _ => live

/-- A pending fence that a later memory operation waits for at issue (R278): acquire and sc fences hold every one, the release
half holds writes. -/
def fenceHolds (i : Instr) (o : PendOp) : Bool :=
  match o.kind with
  | .fence .rel _ => (match i with
    | .ld _ | .ldn _ | .sld _ | .pref _ | .fence _ | .pgreq _ => false
    | _ => true)
  | .fence .. => true
  | _ => false

/-- A read of CWP0 to CWP3, an acquire (R272). -/
def readsCwp (i : Instr) : Bool := match i with
  | .mfs o => (match o.reg with | .cwp _ => true | _ => false)
  | _ => false

/-- A pending operation of a team's threads on bytes of a slot of its stash (R330). -/
def slotStores (s : State) (team slot : Nat) : Bool :=
  s.pending.any fun o => agentTeam o.agent == some team && o.kind.writes && match o.kind.access with
    | some (loc, n) => (match placeOf s o.agent loc true with
      | .stash k off => k == team && (slotsOf off n).contains slot
      | _ => false)
    | none => false

/-- Earlier operations that a matrix instruction waits for: those of every thread of its group on stash bytes (R316), and for
TCLS.slot every store of its team to the slot (R330). -/
def matrixWait (s : State) (b : Band) (k : Nat) (lanes : List Nat) (i : Instr) : Bool :=
  (matrixStash i && pendingOf s k lanes fun o => onStashBytes s o || holdsLater true o || givesLatch o)
    || match i with
      | .tcls o => (match o.src with | .slot r => slotStores s b.team ((rdS b r.val).toNat % 512) | .tile _ => false)
      | _ => false

/-- What a post waits for: acquires and CLEANs of its threads, and their accesses to stash bytes where it reads a remap table there
(R373). The release of the post itself is an operation (R365). -/
def postWait (s : State) (b : Band) (k : Nat) (lanes : List Nat) (i : Instr) : Bool :=
  let table := fun ch => match teamOf s b.team with
    | some tm => (match (aGet {} ch tm.channels).remap with | .tab .. => true | _ => false)
    | none => false
  let reads := match i with | .gpost o | .spost o => table o.chn.val | _ => false
  pendingOf s k lanes fun o => holdsLater false o || (reads && onStashBytes s o)

/-- What other instructions of state wait for: acquires and CLEANs of their threads; a LATG, for LATW; a TARV of the tumbler, for
instructions that read or set it (R287, R303). -/
def otherWait (s : State) (k : Nat) (lanes : List Nat) (i : Instr) : Bool :=
  pendingOf s k lanes fun o => holdsLater false o || match i with
    | .latw _ => givesLatch o
    | .tinit x => arrivesAt x.t.val o
    | .twait x => arrivesAt x.t.val o
    | .ttest x => arrivesAt x.t.val o
    | _ => false

/-- A memory instruction that may write the stash or a window of its team: it follows a LATG of its threads (R240, R287). -/
def latchChecked (s : State) (i : Instr) : Bool :=
  match i with
  | .st _ | .sst _ | .atom _ | .atomf _ | .cas _ | .cas2 _ => !(plainGlobal i && !anyWindow s)
  | _ => false

/-- An instruction after which the split stack settles, or that pushes an entry (R202, R203). -/
def usesSplit (i : Instr) : Bool :=
  match i with
  | .brd _ | .swch _ | .brk _ | .joinC | .exitC | .tretC => true
  | _ => false

/-- A spilled entry that the band may read or write next lies on a stack that takes no access (R479). -/
def spillBusy (s : State) (b : Band) : Bool :=
  match teamOf s b.team with
  | none => false
  | some tm =>
    (b.split.length == 16 || !b.spilled.isEmpty) && tm.spillBytes != 0 && (List.range (b.spilled.length + 1)).any fun j =>
      match walk s tm.ctx (spillAddr tm b j) with
      | .ok l => stackBusy s (physOf l (spillAddr tm b j))
      | .error _ => false

/-- An instruction of the group `lanes` waits for memory: for a result, an earlier operation or a stack; `live` are its threads with
a true guard. EMSTAT, like every instruction of its kind, follows its threads' acquires, fences, CLEANs and INVALs, which R394 does not
say. DESIGN CHOICE (log 14). DESIGN CHOICE (log 14). -/
def memoryWaits (s : State) (b : Band) (k : Nat) (lanes live : List Nat) (i : Instr) : Bool :=
  !scoreboardFree s k (touchedLanes b live i) (footOf false i) || (usesSplit i && spillBusy s b) ||
    match kindOf i with
    | .plain => readsCwp i && pendingOf s k live (holdsLater false)
    | .scalar | .vector | .sequencer => false
    | .memory => pendingOf s k live (fun o =>
        (match o.kind with | .clean .. => true | _ => false) || fenceHolds i o || (givesLatch o && latchChecked s i))
    | .matrix => matrixWait s b k lanes i
    | .post => postWait s b k live i
    | .ordered => orderedWait s b k live i
    | .other => otherWait s k live i

/-- It waits for a matrix operation, or MFS and MTS of FSTAT for an earlier instruction that can raise conditions (R135, R314). Posts,
ordered instructions and those of their kind, EMSTAT (R394) among them, follow the matrix operations of their band.
DESIGN CHOICE (log 14). -/
def mathWaits (s : State) (b : Band) (k : Nat) (live : List Nat) (i : Instr) : Bool :=
  match kindOf i with
  | .plain =>
    let fstat := match i with | .mfs o | .mts o => decide (o.reg = .fstat) | _ => false
    fstat && (bandMatrix s k || b.vreds.any fun v => v.lanes.any fun l => live.contains l)
  | .scalar | .vector | .sequencer => false
  | .memory => !(plainGlobal i && !anyWindow s) && bandMatrix s k
  | .matrix => teamMatrix s b.team
  | .post | .ordered | .other => bandMatrix s k

/-- An instruction of a group may issue as far as results and earlier operations go. -/
def groupFree (s : State) (b : Band) (k : Nat) (lanes live : List Nat) (i : Instr) : Bool :=
  live.isEmpty || (!memoryWaits s b k lanes live i && !mathWaits s b k live i)

/-- The same on a stream (R399, R405, R408). -/
def streamFree (s : State) (issuer : Nat) (i : Instr) : Bool :=
  scoreboardFree s issuer [0] (footOf true i) &&
    match i with
    | .exitC | .launch _ | .lsig _ | .lsigHinge _ | .lsigHost _ | .ctxsw _ => !pendingOf s issuer [0] fun _ => true
    | .levw _ | .lwait _ => !pendingOf s issuer [0] (holdsLater false)
    | _ => true

/-! ### Holds -/

/-- A die above its throttle point withholds issue (R484). -/
def dieHot (s : State) (core : Nat) : Bool := s.hot.any fun d => d / 2 == hingeOfCore core

/-- A band of a package-bound grid is held while a hinge with a team of it runs another context (R416).
DEDUCED (log 59). -/
def bandHeld (s : State) (b : Band) : Bool :=
  match teamOf s b.team with
  | none => true
  | some tm => match aFind (launchKey tm.ctx tm.lseq) s.launches with
    | some l => l.rcd.pkg && !gridRuns s tm.ctx tm.lseq
    | none => false

/-- A stop whose arrival cycle has come, and not been taken (R445). -/
def stopDue (s : State) (b : Band) : Bool :=
  match b.stop with
  | some x => !x.arrived && decide (x.arrival ≤ s.now)
  | none => false

/-- A single step issues one group, and lets it complete what waits other than R450's blocked waits. -/
def stepAllows (b : Band) (lanes : List Nat) : Bool :=
  match b.stepping with
  | none => true
  | some x =>
    let pc := (threadOf b (lanes.headD 0)).pc
    match x.issued with
    | none => x.want.all fun p => p == pc
    | some p =>
      p == pc && lanes.all fun i => x.lanes.contains i && (match (threadOf b i).wait with
        | .answered | .captured _ => true
        | .polled c => c != stLatch && c != stKey
        | _ => false)

/-- The core and the band let the candidate issue, the die's heat apart. -/
def bandOpen (s : State) (core : Nat) (b : Band) (lanes : List Nat) : Bool :=
  !lanes.isEmpty && !b.retired && !(coreOf s core).dead && !switchUnderWay s (hingeOfCore core) && !bandHeld s b && !stopDue s b
    && stepAllows b lanes

def bandFree (s : State) (core : Nat) (b : Band) (lanes : List Nat) : Bool := bandOpen s core b lanes && !dieHot s core

/-- What the instruction of a candidate waits for: memory, and a matrix operation or flags. An instruction that faults when it is
fetched or decoded waits for nothing (R417). -/
def groupWaits (s : State) (core slot : Nat) (b : Band) (lanes : List Nat) : Bool × Bool :=
  match teamOf s b.team with
  | none => (true, false)
  | some tm => match (fetchGroup s core tm (threadOf b (lanes.headD 0)).pc).1 with
    | .ok _ _ d =>
      let k := bandKey core slot
      let live := lanes.filter fun i => guardTrue d.guard (threadOf b i).preds
      (!live.isEmpty && memoryWaits s b k lanes live d.instr, !live.isEmpty && mathWaits s b k live d.instr)
    | .fault _ | .bad .. => (false, false)
    | .busy => (true, false)

/-- The candidate may issue. -/
def groupReady (s : State) (core slot : Nat) (lanes : List Nat) : Bool :=
  match bandOf s (bandKey core slot) with
  | none => false
  | some b => bandFree s core b lanes && groupWaits s core slot b lanes == (false, false)

/-- The ready candidates of a band; a band that has yielded steps aside only for another. -/
def readyGroups (s : State) (core slot : Nat) : List (List Nat) :=
  match bandOf s (bandKey core slot) with
  | none => []
  | some b => (candidates b).filter (groupReady s core slot)

/-- A group whose instruction has found its condition false; it is looked at again, and is no ready candidate before. -/
def asleep (b : Band) (lanes : List Nat) : Bool :=
  lanes.any fun i => match (threadOf b i).wait with | .polled _ | .key .. => true | _ => false

/-- The ready candidates of a band that wait for no condition. -/
def awakeGroups (s : State) (core slot : Nat) : List (List Nat) :=
  match bandOf s (bandKey core slot) with
  | none => []
  | some b => (readyGroups s core slot).filter fun c => !asleep b c

/-- A candidate of threads that are eligible by R191: not in a wait for a latch, a key or a reduction. -/
def eligibleGroup (b : Band) (lanes : List Nat) : Bool :=
  lanes.all fun i => match (threadOf b i).wait with
    | .key .. => false
    | .polled c => c != stLatch && c != stKey && c != stReduction
    | _ => true

/-- Another eligible candidate of a scheduler, which holds no lane that has yielded and which nothing stops (R213). -/
def otherEligible (s : State) (core sched : Nat) : Bool :=
  (addrRange (sched * Config.slotsPerScheduler) Config.slotsPerScheduler).any fun slot =>
    match bandOf s (bandKey core slot) with
    | none => false
    | some b => (candidates b).any fun c =>
      bandFree s core b c && eligibleGroup b c && !c.any fun i => inMask b.yielded i

/-- A candidate that has yielded waits while another is eligible. -/
def yieldHolds (s : State) (core slot : Nat) (lanes : List Nat) : Bool :=
  match bandOf s (bandKey core slot) with
  | none => false
  | some b => lanes.any (fun i => inMask b.yielded i) && otherEligible s core (slot / Config.slotsPerScheduler)

/-- A stream may issue: running, or waiting with its condition to be looked at again. -/
def streamReady (s : State) (h n : Nat) : Bool :=
  let t := streamOf s h n
  (t.state == 1 || t.state == 2) &&
    match (fetchStream s h t).1 with
    | .ok _ _ d => !guardTrue d.guard t.preds || streamFree s (streamIssuer h n) d.instr
    | .fault _ | .bad .. => true
    | .busy => false

/-! ### Scheduling (R414) -/

/-- PRIO of a band's launch. -/
def bandPrio (s : State) (b : Band) : Nat := match teamOf s b.team with | some tm => tm.prio | none => 0

/-- A ready band that a latency or a unit, or the power manager, keeps from issuing (R313, R483, R501). -/
def timeHeld (s : State) (core slot : Nat) : Bool :=
  Config.held s.tick (bandKey core slot) || Config.withheld s.tick (bandKey core slot)

/-- Cycles that a band has waited for a pick (R414). -/
def waitedOf (s : State) (b : Band) : Nat := s.now - b.since

/-- The bands of a scheduler with a ready candidate that meets `ok`, and that no time holds. -/
def readySlots (s : State) (core sched : Nat) (ok : Nat → List Nat → Bool) : List Nat :=
  (addrRange (sched * Config.slotsPerScheduler) Config.slotsPerScheduler).filter fun slot =>
    (readyGroups s core slot).any (ok slot) && !timeHeld s core slot

/-- The first slot of a list that no later one beats. -/
def bestSlot (beats : Nat → Nat → Bool) : List Nat → Option Nat
  | [] => none
  | x :: xs => match bestSlot beats xs with
    | none => some x
    | some y => if beats y x then some y else some x

/-- The pick of a scheduler among the slots `ready`: forced, then PRIO, then the longest wait, then the lowest slot.
DESIGN CHOICE (log 11). -/
def pickSlot (s : State) (core : Nat) (ready : List Nat) : Option Nat :=
  let get := fun (f : Band → Nat) slot => match bandOf s (bandKey core slot) with | some b => f b | none => 0
  let waited := get (waitedOf s)
  let prio := get (bandPrio s)
  match bestSlot (fun y x => decide (waited x < waited y)) (ready.filter fun x => decide (256 ≤ waited x)) with
  | some x => some x
  | none => bestSlot (fun y x => decide (prio x < prio y ∨ (prio x = prio y ∧ waited x < waited y))) ready

/-- How often a candidate has been passed over: as often as any of its threads (R192). -/
def ageOf (b : Band) (c : List Nat) : Nat := (c.map fun i => (threadOf b i).passed).foldl max 0

/-- The candidates among `cs`, those that could issue now, that may be picked so that none is passed over for more than 64 issues of its
band: the others still come in time, one after the other, the oldest first. Where no pick leaves that, the oldest (R192).
DESIGN CHOICE (log 11). -/
def pickable (b : Band) (cs : List (List Nat)) : List (List Nat) :=
  let insert := fun (x : Nat) (l : List Nat) => (l.filter fun y => x < y) ++ [x] ++ l.filter fun y => y ≤ x
  let inTime := fun (c : List Nat) =>
    let later := fun (x : List Nat) => ageOf b x + bit (cs.contains x)
    let ages := (((candidates b).filter fun x => x != c).map later).foldr insert []
    (mapFrom (fun j a => decide (a + j ≤ 63)) 0 ages).all id
  let ok := cs.filter inTime
  if !ok.isEmpty then ok
  else
    let top := (cs.map (ageOf b)).foldl max 0
    cs.filter fun c => ageOf b c == top

/-- The scheduler may pick the candidate that holds a lane (R192, R213, R414): no yield holds it, its band comes first among the
bands with an awake candidate that no time holds, and no other candidate of the band is passed over for too long.
DESIGN CHOICE (log 11). DESIGN CHOICE (log 11). -/
def mayPick (s : State) (core slot lane : Nat) : Bool :=
  match bandOf s (bandKey core slot) with
  | none => false
  | some b =>
    let c := candidateOf b lane
    let sched := slot / Config.slotsPerScheduler
    let ready := (addrRange (sched * Config.slotsPerScheduler) Config.slotsPerScheduler).filter fun x =>
      x == slot || (((awakeGroups s core x).any fun c => !yieldHolds s core x c) && !timeHeld s core x)
    !yieldHolds s core slot c && pickSlot s core ready == some slot
      && (pickable b (c :: (awakeGroups s core slot).filter fun x => x != c && !yieldHolds s core slot x)).contains c

/-- FORCED_PICK: a band that has waited 256 cycles with a ready candidate issues next. -/
def forcedPick (s : State) (core slot : Nat) : State :=
  match bandOf s (bandKey core slot) with
  | none => s
  | some b =>
    if waitedOf s b < 256 then s
    else match (awakeGroups s core slot).head? with
      | some c => { s with agenda := .issue core slot (c.headD 0) :: s.agenda }
      | none => s

def execForcedPick (s : State) : Host.Outcome State Fault Refusal :=
  match s.cur with
  | .event (.forcedPick core slot) => .next (forcedPick s core slot)
  | _ => .fault .noActor

/-! ### Stall reasons and samples (R417, R456) -/

/-- The candidates of a band that wait for nothing of their own. DEDUCED (log 59). -/
def stallAwake (s : State) (core slot : Nat) (b : Band) : List (List Nat) :=
  (candidates b).filter fun c => stepAllows b c && !asleep b c && groupWaits s core slot b c == (false, false)

/-- A thread that the split stack alone keeps from issuing, or that has arrived at a JOIN (R191, R417). -/
def joinWaits (b : Band) (i : Nat) : Bool :=
  let t := threadOf b i
  let outside := !t.tlevel && (b.reload.isSome || match b.split with
    | [] => !b.spilled.isEmpty
    | top :: _ => !(inMask top.mask i && !inMask top.arrived i))
  !t.exited && !t.halted && match t.wait with
    | .join .. => true
    | .tumbler .. | .rdr _ | .key .. => false
    | .polled c => outside && c != stLatch && c != stKey && c != stReduction
    | .ready | .page _ | .answered | .captured _ => outside

/-- A thread whose handler has not issued its first instruction: it may still be entering it. -/
def entering (s : State) (b : Band) : Bool :=
  let tvec := match teamOf s b.team with | some tm => (ctxOf s tm.ctx).tvec | none => 0
  b.threads.any fun t => !t.exited && t.tlevel && t.pc == tvecPc tvec && t.wait == .ready

/-- The reasons 1 to 9 and 11 that the state shows, bit code - 1 for each; a band that a stop has reached counts as halted by debug.
DESIGN CHOICE (log 71). -/
def stallBits (s : State) (core slot : Nat) (b : Band) : Nat :=
  let any := fun (p : Thread → Bool) => b.threads.any fun t => !t.exited && p t
  let wait := fun (f : Wait → Bool) => any fun t => f t.wait
  let polled := fun c => wait fun w => w == .polled c
  let waits := (candidates b).map (groupWaits s core slot b)
  let joins := (List.range b.threads.length).any (joinWaits b)
  bit (bandHalted b || stopDue s b) + 2 * bit (!b.traps.isEmpty) + 4 * bit (wait fun w => match w with | .tumbler .. => true | _ => false)
    + 8 * bit joins + 16 * bit (polled stLatch)
    + 32 * bit (polled stKey || wait fun w => match w with | .key .. => true | _ => false)
    + 64 * bit (polled stReduction || wait fun w => match w with | .rdr _ => true | _ => false)
    + 128 * bit (polled stMemory || waits.any (·.1) || wait fun w => match w with | .page _ => true | _ => false)
    + 256 * bit (polled stMath || waits.any (·.2)) + 1024 * bit (polled stUnit)

/-- The lowest code of a mask. DESIGN CHOICE (log 71). -/
def lowestCode (mask : Nat) : Nat := ((addrRange 1 13).find? fun c => mask.testBit (c - 1)).getD 0

/-- The next slot of a scheduler after `last` that holds a band. DEDUCED (log 70). -/
def nextSampled (s : State) (core sched last : Nat) : Option Nat :=
  let slots := (List.range Config.slotsPerScheduler).map fun i => sched * Config.slotsPerScheduler + (last + 1 + i) % 16
  slots.find? fun slot => match bandOf s (bandKey core slot) with | some b => !b.retired | none => false

/-- The reasons of time of an awake band, any of which it may have: arithmetic latency, KNUCKLE_SLOTS, UNIT_BUSY, IFETCH, and the
entry of a handler; at least one. DESIGN CHOICE (log 71). -/
def timeBits (s : State) (b : Band) : Nat × State :=
  let (c, s) := choose s (if entering s b then 31 else 15)
  let c := c + 1
  (256 * bit (c.testBit 0) + 512 * bit (c.testBit 1) + 1024 * bit (c.testBit 2) + 2048 * bit (c.testBit 3) + 2 * bit (c.testBit 4), s)

/-- Reasons of time that a band with a waiting candidate has as well, any or none. DESIGN CHOICE (log 71). -/
def moreTime (s : State) (b : Band) : Nat × State :=
  let (c, s) := choose s 2
  if c = 0 then (0, s) else timeBits s b

/-- A band with a candidate that waits for nothing of its own is kept from the pick: held, or by a CTXSW, a dead core, a stop, a hot die or
the power manager, or its candidates have all yielded. -/
def keptBack (s : State) (core slot : Nat) (b : Band) (awake : List (List Nat)) : Bool :=
  switchUnderWay s (hingeOfCore core) || (coreOf s core).dead || stopDue s b || dieHot s core
    || Config.withheld s.tick (bandKey core slot) || awake.all (yieldHolds s core slot)

/-- The reasons of a band at a sample: those the state shows, with NOT_SELECTED where it is held (R416). Without an awake candidate
reasons of time may join them, and NOT_SELECTED stands for none; with one, reasons of time where time holds it, NOT_SELECTED where it is
kept back, has yielded or is not picked; none where it issues in that cycle. DEDUCED (log 70), DESIGN CHOICE (log 71). -/
def stallMask (s : State) (core slot : Nat) (b : Band) : Nat × State :=
  let known := stallBits s core slot b
  let awake := stallAwake s core slot b
  if bandHeld s b then (Nat.lor known 4096, s)
  else if awake.isEmpty then
    let (x, s) := if (candidates b).isEmpty then (0, s) else moreTime s b
    let m := Nat.lor known x
    (if m = 0 then 4096 else m, s)
  else if keptBack s core slot b awake then (Nat.lor known 4096, s)
  else if Config.held s.tick (bandKey core slot) then
    let (x, s) := timeBits s b
    (Nat.lor known x, s)
  else
    let (c, s) := choose s 2
    (if c = 0 then Nat.lor known 4096 else 0, s)

/-- The sample of a period: the next band of the scheduler in turn; with no band, none. DEDUCED (log 70). -/
def samplePeriod (s : State) (core sched period : Nat) : State :=
  let c := coreOf s core
  let (lastPeriod, lastSlot) := aGet (0, 15) sched c.sampleAt
  if !c.sampEn ∨ period ≤ lastPeriod ∨ 4 ≤ sched then s
  else match nextSampled s core sched (lastSlot % 16) with
    | none => s
    | some slot =>
      match bandOf s (bandKey core slot) with
      | none => s
      | some b =>
        let s := setCore s core { c with sampleAt := aInsert sched (period, slot) c.sampleAt }
        let (mask, s) := stallMask s core slot b
        sampleRecord s core (sampleHead s 1 slot core 0 (bandLseq s b) (lowPc b) ++ leBytes 1 (lowestCode mask) ++ leBytes 1 0
          ++ leBytes 2 mask)

/-- STALL_SAMPLE: a scheduler's sample of the period, one in each 2^SP cycles. DEDUCED (log 70). DEDUCED (log 70). -/
def stallSample (s : State) (core sched : Nat) : State := samplePeriod s core sched (s.now / 2 ^ (coreOf s core).sampSp.toNat)

/-- The samples of every period that has begun since the last one, at its first cycle (R456). -/
def duePeriods (s : State) (core sched : Nat) : State :=
  let c := coreOf s core
  let last := (aGet (0, 15) sched c.sampleAt).1
  let len := 2 ^ c.sampSp.toNat
  let now := s.now
  let s := (addrRange (last + 1) (s.now / len - last)).foldl (fun s p => samplePeriod { s with now := p * len } core sched p) s
  { s with now := now }

/-- The stall samples due at every core that takes them. -/
def dueSamples (s : State) : State :=
  ((s.cores.filter fun c => c.2.sampEn).map (·.1)).foldl (fun s core => (List.range 4).foldl (fun s i => duePeriods s core i) s) s

def execStallSample (s : State) : Host.Outcome State Fault Refusal :=
  match s.cur with
  | .event (.stallSample core sched) => .next (stallSample s core sched)
  | _ => .fault .noActor

/-- REPLAYS: the stash passes beyond the first (R239), and L1 bank replays, an implementation figure (R456). -/
def replaysOf (x : MemSample) (l1 : Nat) : Nat := min 255 (x.passes - 1 + if x.l1 then l1 else 0)

/-- MEMORY_SAMPLE: the record of the oldest sampled memory instruction whose operations have all been performed. QUEUE is an
implementation figure. DEDUCED (log 77). -/
def memorySample (s : State) (core : Nat) : State :=
  let c := coreOf s core
  let done := fun (x : MemSample) => !s.pending.any fun o => o.issuer == bandKey core x.slot && o.seq == x.seq
  match c.samples.find? done with
  | none => s
  | some x =>
    let s := setCore s core { c with samples := c.samples.erase x }
    let fig := fun i => Config.figure s.tick (16 * core + i)
    let s := { s with tick := s.tick + 1 }
    sampleRecord s core (leBytes 1 2 ++ leBytes 1 x.slot ++ leBytes 2 core ++ leBytes 4 0 ++ leBytes 8 x.cycle.toNat
      ++ leBytes 8 x.lseq.toNat ++ leBytes 8 x.pc.toNat ++ leBytes 4 x.active ++ leBytes 1 x.sectors ++ leBytes 1 (replaysOf x (fig 0))
      ++ leBytes 1 x.lastLane ++ leBytes 1 x.level ++ leBytes 2 (min 65535 (fig 1)) ++ leBytes 2 (min 65535 (fig 2))
      ++ leBytes 2 (min 65535 (fig 3)) ++ leBytes 2 (min 65535 (fig 4)) ++ leBytes 4 (x.doneAt - x.issuedAt))

def execMemorySample (s : State) : Host.Outcome State Fault Refusal :=
  match s.cur with
  | .event (.memorySample core) => .next (memorySample s core)
  | _ => .fault .noActor

end Sys2Proof.Machine
end

