-- ==== Sys2Proof/Machine/IntOps.lean ====
section
/-! DEFINITION. Integer functions on patterns of a type's width (04 R107-R119). -/

namespace Sys2Proof.Machine

/-- The two-operand integer operations. -/
inductive AluOp where
  | add | sub | mul | mulh | and | or | xor | andn | min | max | shl | shr | sar | rot | div | rem | adds | subs
  deriving DecidableEq, Repr

/-- Shift left, right, arithmetic right and rotate right of a pattern (R110). -/
def shlPat (w x n : Nat) : Nat := if n < w then x * 2 ^ n % 2 ^ w else 0
def shrPat (w x n : Nat) : Nat := if n < w then x / 2 ^ n else 0
def sarPat (w x n : Nat) : Nat :=
  if n < w then wrapNat w (readInt true w x / 2 ^ n) else if 2 ^ (w - 1) ≤ x then 2 ^ w - 1 else 0
def rotPat (w x n : Nat) : Nat := let k := n % w; x / 2 ^ k + x * 2 ^ (w - k) % 2 ^ w

/-- Quotient and remainder of R109. -/
def divInt (ty : IntTy) (a b : Int) : Int :=
  if b = 0 then (if intSigned ty then -1 else 2 ^ intWidth ty - 1)
  else if intSigned ty ∧ a = intMin ty ∧ b = -1 then a
  else a.tdiv b
def remInt (ty : IntTy) (a b : Int) : Int :=
  if b = 0 then a
  else if intSigned ty ∧ a = intMin ty ∧ b = -1 then 0
  else a - b * a.tdiv b

/-- The result of an operation on patterns, before `sd := r` or `vd := r` reduces it (R107-R110, R120-R122). -/
def aluInt (op : AluOp) (ty : IntTy) (a b : Nat) : Int :=
  let w := intWidth ty
  let x := readInt (intSigned ty) w a
  let y := readInt (intSigned ty) w b
  match op with
  | .add => x + y
  | .sub => x - y
  | .mul => x * y
  | .mulh => x * y / 2 ^ w
  | .and => Nat.land a b
  | .or => Nat.lor a b
  | .xor => Nat.xor a b
  | .andn => Nat.land a (2 ^ w - 1 - b)
  | .min => if y < x then y else x
  | .max => if x < y then y else x
  | .shl => shlPat w a b
  | .shr => shrPat w a b
  | .sar => sarPat w a b
  | .rot => rotPat w a b
  | .div => divInt ty x y
  | .rem => remInt ty x y
  | .adds => clampInt (x + y) (intMin ty) (intMax ty)
  | .subs => clampInt (x - y) (intMin ty) (intMax ty)

/-- Ones among the low `n` bits. -/
def popcount : Nat → Nat → Nat
  | 0, _ => 0
  | n + 1, x => x % 2 + popcount n (x / 2)

/-- Zeros above the highest one of `n` bits. -/
def leadZeros : Nat → Nat → Nat
  | 0, _ => 0
  | n + 1, x => if x.testBit n then 0 else 1 + leadZeros n x

/-- Zeros below the lowest one of `n` bits. -/
def trailZeros : Nat → Nat → Nat
  | 0, _ => 0
  | n + 1, x => if x % 2 = 1 then 0 else 1 + trailZeros n (x / 2)

/-- Bit-field extract (R117): `x` the pattern, any position and width. -/
def bfx (ty : IntTy) (x pos width : Nat) : Int :=
  let w := intWidth ty
  if width = 0 ∨ w ≤ pos then 0
  else
    let width := min width (w - pos)
    readInt (intSigned ty) width (x / 2 ^ pos)

/-- Bit-field insert (R117): `y` the destination's pattern. -/
def bfi (ty : IntTy) (x y pos width : Nat) : Int :=
  let w := intWidth ty
  if width = 0 ∨ w ≤ pos then y
  else
    let width := min width (w - pos)
    y - bitsOf y pos width * 2 ^ pos + x % 2 ^ width * 2 ^ pos

end Sys2Proof.Machine
end

