-- ==== Sys2Proof/Machine/Scalar.lean ====
section
/-! DEFINITION. The scalar integer class (04 R97-R119). -/

namespace Sys2Proof.Machine

/-- `sd := r` of a two-operand instruction. -/
def aluS (rd : Nat → DWord) (op : AluOp) (o : SOp2) : DWord :=
  extS o.ty (aluInt op o.ty (sPat o.ty (rd o.a.val)) (ssrcPat rd o.ty o.b))

/-- The same in the compact form: type .i64, B a register (R54). -/
def aluSC (rd : Nat → DWord) (op : AluOp) (o : C3) : DWord :=
  extS .i64 (aluInt op .i64 (sPat .i64 (rd o.a.val)) (sPat .i64 (rd o.b.val)))

/-- SADD (04 R108). -/
def execSaddC (o : C3) (s : State) : Host.Outcome State Fault Refusal := scalarOp s o.d.val fun rd => aluSC rd .add o
def execSadd (o : SOp2) (s : State) : Host.Outcome State Fault Refusal := scalarOp s o.d.val fun rd => aluS rd .add o

/-- SSUB (04 R108). -/
def execSsubC (o : C3) (s : State) : Host.Outcome State Fault Refusal := scalarOp s o.d.val fun rd => aluSC rd .sub o
def execSsub (o : SOp2) (s : State) : Host.Outcome State Fault Refusal := scalarOp s o.d.val fun rd => aluS rd .sub o

/-- SMUL (04 R108). -/
def execSmulC (o : C3) (s : State) : Host.Outcome State Fault Refusal := scalarOp s o.d.val fun rd => aluSC rd .mul o
def execSmul (o : SOp2) (s : State) : Host.Outcome State Fault Refusal := scalarOp s o.d.val fun rd => aluS rd .mul o

/-- SMULH (04 R108). -/
def execSmulhC (o : C3) (s : State) : Host.Outcome State Fault Refusal := scalarOp s o.d.val fun rd => aluSC rd .mulh o
def execSmulh (o : SOp2) (s : State) : Host.Outcome State Fault Refusal := scalarOp s o.d.val fun rd => aluS rd .mulh o

/-- SDIV (04 R109). -/
def execSdivC (o : C3) (s : State) : Host.Outcome State Fault Refusal := scalarOp s o.d.val fun rd => aluSC rd .div o
def execSdiv (o : SOp2) (s : State) : Host.Outcome State Fault Refusal := scalarOp s o.d.val fun rd => aluS rd .div o

/-- SREM (04 R109). -/
def execSremC (o : C3) (s : State) : Host.Outcome State Fault Refusal := scalarOp s o.d.val fun rd => aluSC rd .rem o
def execSrem (o : SOp2) (s : State) : Host.Outcome State Fault Refusal := scalarOp s o.d.val fun rd => aluS rd .rem o

/-- SAND (04 R108). -/
def execSandC (o : C3) (s : State) : Host.Outcome State Fault Refusal := scalarOp s o.d.val fun rd => aluSC rd .and o
def execSand (o : SOp2) (s : State) : Host.Outcome State Fault Refusal := scalarOp s o.d.val fun rd => aluS rd .and o

/-- SOR (04 R108). -/
def execSorC (o : C3) (s : State) : Host.Outcome State Fault Refusal := scalarOp s o.d.val fun rd => aluSC rd .or o
def execSor (o : SOp2) (s : State) : Host.Outcome State Fault Refusal := scalarOp s o.d.val fun rd => aluS rd .or o

/-- SXOR (04 R108). -/
def execSxorC (o : C3) (s : State) : Host.Outcome State Fault Refusal := scalarOp s o.d.val fun rd => aluSC rd .xor o
def execSxor (o : SOp2) (s : State) : Host.Outcome State Fault Refusal := scalarOp s o.d.val fun rd => aluS rd .xor o

/-- SANDN (04 R108). -/
def execSandnC (o : C3) (s : State) : Host.Outcome State Fault Refusal := scalarOp s o.d.val fun rd => aluSC rd .andn o
def execSandn (o : SOp2) (s : State) : Host.Outcome State Fault Refusal := scalarOp s o.d.val fun rd => aluS rd .andn o

/-- SSHL (04 R110). -/
def execSshlC (o : C3) (s : State) : Host.Outcome State Fault Refusal := scalarOp s o.d.val fun rd => aluSC rd .shl o
def execSshl (o : SOp2) (s : State) : Host.Outcome State Fault Refusal := scalarOp s o.d.val fun rd => aluS rd .shl o

/-- SSHR (04 R110). -/
def execSshrC (o : C3) (s : State) : Host.Outcome State Fault Refusal := scalarOp s o.d.val fun rd => aluSC rd .shr o
def execSshr (o : SOp2) (s : State) : Host.Outcome State Fault Refusal := scalarOp s o.d.val fun rd => aluS rd .shr o

/-- SSAR (04 R110). -/
def execSsarC (o : C3) (s : State) : Host.Outcome State Fault Refusal := scalarOp s o.d.val fun rd => aluSC rd .sar o
def execSsar (o : SOp2) (s : State) : Host.Outcome State Fault Refusal := scalarOp s o.d.val fun rd => aluS rd .sar o

/-- SROT (04 R110). -/
def execSrotC (o : C3) (s : State) : Host.Outcome State Fault Refusal := scalarOp s o.d.val fun rd => aluSC rd .rot o
def execSrot (o : SOp2) (s : State) : Host.Outcome State Fault Refusal := scalarOp s o.d.val fun rd => aluS rd .rot o

/-- SMIN (04 R108). -/
def execSminC (o : C3) (s : State) : Host.Outcome State Fault Refusal := scalarOp s o.d.val fun rd => aluSC rd .min o
def execSmin (o : SOp2) (s : State) : Host.Outcome State Fault Refusal := scalarOp s o.d.val fun rd => aluS rd .min o

/-- SMAX (04 R108). -/
def execSmaxC (o : C3) (s : State) : Host.Outcome State Fault Refusal := scalarOp s o.d.val fun rd => aluSC rd .max o
def execSmax (o : SOp2) (s : State) : Host.Outcome State Fault Refusal := scalarOp s o.d.val fun rd => aluS rd .max o

/-- SCMP (04 R112). -/
def execScmp (o : SCmp) (s : State) : Host.Outcome State Fault Refusal :=
  scalarOp s o.d.val fun rd =>
    BitVec.ofNat 64 (bit (condHolds o.cond o.ty (sPat o.ty (rd o.a.val)) (regImmPat rd o.ty o.b)))

/-- SSEL (04 R112). -/
def execSsel (o : SSel) (s : State) : Host.Outcome State Fault Refusal :=
  scalarOp s o.d.val fun rd =>
    let w := intWidth o.ty
    let sg := intSigned o.ty
    if rd o.c.val ≠ 0 then extS o.ty (readInt sg w (sPat o.ty (rd o.a.val)))
    else extS o.ty (readInt sg w (regImmPat rd o.ty o.b))

/-- SMOV (04 R114). -/
def execSmovC (o : C2) (s : State) : Host.Outcome State Fault Refusal := scalarOp s o.d.val fun rd => rd o.a.val
def execSmov (o : SOp1) (s : State) : Host.Outcome State Fault Refusal :=
  scalarOp s o.d.val fun rd => extS o.ty (sPat o.ty (rd o.a.val))

/-- SLI (04 R114). -/
def execSli (o : SLi) (s : State) : Host.Outcome State Fault Refusal :=
  scalarOp s o.d.val fun _ => match o.v with
    | .imm v => extS o.ty (immInt o.ty v)
    | .lit v => v

/-- SLEA (04 R119). -/
def execSlea (o : SLea) (s : State) : Host.Outcome State Fault Refusal :=
  scalarOp s o.d.val fun rd =>
    let idx := readInt (intSigned o.ty) (intWidth o.ty) (sPat o.ty (rd o.b.val))
    BitVec.ofInt 64 ((rd o.a.val).toNat + idx * 2 ^ o.shift.val + readInt true 32 o.off.toNat)

/-- A count written as a 64-bit natural number (R100). -/
def countS (rd : Nat → DWord) (f : Nat → Nat → Nat) (o : SOp1) : DWord :=
  BitVec.ofNat 64 (f (intWidth o.ty) (sPat o.ty (rd o.a.val)))
def countSC (rd : Nat → DWord) (f : Nat → Nat → Nat) (o : C2) : DWord := BitVec.ofNat 64 (f 64 (rd o.a.val).toNat)

/-- SPOPC (04 R115). -/
def execSpopcC (o : C2) (s : State) : Host.Outcome State Fault Refusal := scalarOp s o.d.val fun rd => countSC rd popcount o
def execSpopc (o : SOp1) (s : State) : Host.Outcome State Fault Refusal := scalarOp s o.d.val fun rd => countS rd popcount o

/-- SCLZ (04 R115). -/
def execSclzC (o : C2) (s : State) : Host.Outcome State Fault Refusal := scalarOp s o.d.val fun rd => countSC rd leadZeros o
def execSclz (o : SOp1) (s : State) : Host.Outcome State Fault Refusal := scalarOp s o.d.val fun rd => countS rd leadZeros o

/-- SCTZ (04 R115). -/
def execSctzC (o : C2) (s : State) : Host.Outcome State Fault Refusal := scalarOp s o.d.val fun rd => countSC rd trailZeros o
def execSctz (o : SOp1) (s : State) : Host.Outcome State Fault Refusal := scalarOp s o.d.val fun rd => countS rd trailZeros o

/-- Position and width of a scalar bit field (R116). -/
def sField (rd : Nat → DWord) : SField → Nat × Nat
  | .imm p w => (p.toNat, w.toNat)
  | .reg b c => ((rd b.val).toNat % 256, (rd c.val).toNat % 256)

/-- SBFX (04 R117). -/
def execSbfx (o : SBf) (s : State) : Host.Outcome State Fault Refusal :=
  scalarOp s o.d.val fun rd =>
    extS o.ty (bfx o.ty (sPat o.ty (rd o.a.val)) (sField rd o.fld).1 (sField rd o.fld).2)

/-- SBFI (04 R117). -/
def execSbfi (o : SBf) (s : State) : Host.Outcome State Fault Refusal :=
  scalarOp s o.d.val fun rd =>
    extS o.ty (bfi o.ty (sPat o.ty (rd o.a.val)) (sPat o.ty (rd o.d.val)) (sField rd o.fld).1 (sField rd o.fld).2)

/-- SMOVV (04 R114): the register of the band's thread in the named home lane, whatever its state. -/
def execSmovv (o : SMovv) (s : State) : Host.Outcome State Fault Refusal :=
  bandOnly s fun g =>
    match rangeFault s.tick g.band.n 1 [o.a.val] with
    | some e => .error e
    | none =>
      let lane := match o.lane with
        | .reg r => (rdS g.band r.val).toNat % 32
        | .imm l => l.val
      .ok (wrS g.band o.d.val (extS o.ty (vPat o.ty (threadOf g.band lane) o.a.val)))

end Sys2Proof.Machine
end

