-- ==== Sys2Proof/Machine/Vector.lean ====
section
/-! DEFINITION. The vector integer class (04 R101-R133). -/

namespace Sys2Proof.Machine

/-- `vd := r` of a two-operand instruction in one lane. -/
def aluV (g : Grp) (t : Thread) (op : AluOp) (o : VOp2) : Thread :=
  wrVInt o.ty t o.d.val (aluInt op o.ty (vPat o.ty t o.a.val) (vsrcInt g.band t o.ty o.b))
def regsV2 (o : VOp2) : List Nat := [o.d.val, o.a.val] ++ vsrcRegs o.b

/-- The compact form: type .i32, B a vector register (R54). -/
def aluVC (t : Thread) (op : AluOp) (o : C3) : Thread :=
  wrVInt .i32 t o.d.val (aluInt op .i32 (vPat .i32 t o.a.val) (vPat .i32 t o.b.val))
def regsC3 (o : C3) : List Nat := [o.d.val, o.a.val, o.b.val]
def regsC2 (o : C2) : List Nat := [o.d.val, o.a.val]

/-- VADD (04 R121). -/
def execVaddC (o : C3) (s : State) : Host.Outcome State Fault Refusal := vecOp s (regsC3 o) fun _ _ t => aluVC t .add o
def execVadd (o : VOp2) (s : State) : Host.Outcome State Fault Refusal := vecOp s (regsV2 o) fun g _ t => aluV g t .add o

/-- VSUB (04 R121). -/
def execVsubC (o : C3) (s : State) : Host.Outcome State Fault Refusal := vecOp s (regsC3 o) fun _ _ t => aluVC t .sub o
def execVsub (o : VOp2) (s : State) : Host.Outcome State Fault Refusal := vecOp s (regsV2 o) fun g _ t => aluV g t .sub o

/-- VMUL (04 R121). -/
def execVmulC (o : C3) (s : State) : Host.Outcome State Fault Refusal := vecOp s (regsC3 o) fun _ _ t => aluVC t .mul o
def execVmul (o : VOp2) (s : State) : Host.Outcome State Fault Refusal := vecOp s (regsV2 o) fun g _ t => aluV g t .mul o

/-- VMULH (04 R121). -/
def execVmulhC (o : C3) (s : State) : Host.Outcome State Fault Refusal := vecOp s (regsC3 o) fun _ _ t => aluVC t .mulh o
def execVmulh (o : VOp2) (s : State) : Host.Outcome State Fault Refusal := vecOp s (regsV2 o) fun g _ t => aluV g t .mulh o

/-- VAND (04 R121). -/
def execVandC (o : C3) (s : State) : Host.Outcome State Fault Refusal := vecOp s (regsC3 o) fun _ _ t => aluVC t .and o
def execVand (o : VOp2) (s : State) : Host.Outcome State Fault Refusal := vecOp s (regsV2 o) fun g _ t => aluV g t .and o

/-- VOR (04 R121). -/
def execVorC (o : C3) (s : State) : Host.Outcome State Fault Refusal := vecOp s (regsC3 o) fun _ _ t => aluVC t .or o
def execVor (o : VOp2) (s : State) : Host.Outcome State Fault Refusal := vecOp s (regsV2 o) fun g _ t => aluV g t .or o

/-- VXOR (04 R121). -/
def execVxorC (o : C3) (s : State) : Host.Outcome State Fault Refusal := vecOp s (regsC3 o) fun _ _ t => aluVC t .xor o
def execVxor (o : VOp2) (s : State) : Host.Outcome State Fault Refusal := vecOp s (regsV2 o) fun g _ t => aluV g t .xor o

/-- VANDN (04 R121). -/
def execVandnC (o : C3) (s : State) : Host.Outcome State Fault Refusal := vecOp s (regsC3 o) fun _ _ t => aluVC t .andn o
def execVandn (o : VOp2) (s : State) : Host.Outcome State Fault Refusal := vecOp s (regsV2 o) fun g _ t => aluV g t .andn o

/-- VSHL (04 R122). -/
def execVshlC (o : C3) (s : State) : Host.Outcome State Fault Refusal := vecOp s (regsC3 o) fun _ _ t => aluVC t .shl o
def execVshl (o : VOp2) (s : State) : Host.Outcome State Fault Refusal := vecOp s (regsV2 o) fun g _ t => aluV g t .shl o

/-- VSHR (04 R122). -/
def execVshrC (o : C3) (s : State) : Host.Outcome State Fault Refusal := vecOp s (regsC3 o) fun _ _ t => aluVC t .shr o
def execVshr (o : VOp2) (s : State) : Host.Outcome State Fault Refusal := vecOp s (regsV2 o) fun g _ t => aluV g t .shr o

/-- VSAR (04 R122). -/
def execVsarC (o : C3) (s : State) : Host.Outcome State Fault Refusal := vecOp s (regsC3 o) fun _ _ t => aluVC t .sar o
def execVsar (o : VOp2) (s : State) : Host.Outcome State Fault Refusal := vecOp s (regsV2 o) fun g _ t => aluV g t .sar o

/-- VMIN (04 R121). -/
def execVminC (o : C3) (s : State) : Host.Outcome State Fault Refusal := vecOp s (regsC3 o) fun _ _ t => aluVC t .min o
def execVmin (o : VOp2) (s : State) : Host.Outcome State Fault Refusal := vecOp s (regsV2 o) fun g _ t => aluV g t .min o

/-- VMAX (04 R121). -/
def execVmaxC (o : C3) (s : State) : Host.Outcome State Fault Refusal := vecOp s (regsC3 o) fun _ _ t => aluVC t .max o
def execVmax (o : VOp2) (s : State) : Host.Outcome State Fault Refusal := vecOp s (regsV2 o) fun g _ t => aluV g t .max o

/-- VADDS (04 R121). -/
def execVaddsC (o : C3) (s : State) : Host.Outcome State Fault Refusal := vecOp s (regsC3 o) fun _ _ t => aluVC t .adds o
def execVadds (o : VOp2) (s : State) : Host.Outcome State Fault Refusal := vecOp s (regsV2 o) fun g _ t => aluV g t .adds o

/-- VSUBS (04 R121). -/
def execVsubsC (o : C3) (s : State) : Host.Outcome State Fault Refusal := vecOp s (regsC3 o) fun _ _ t => aluVC t .subs o
def execVsubs (o : VOp2) (s : State) : Host.Outcome State Fault Refusal := vecOp s (regsV2 o) fun g _ t => aluV g t .subs o

def regsV3 (o : VOp3) : List Nat := [o.d.val, o.a.val] ++ vsrcRegs o.b ++ [o.c.val]

/-- VMAD (04 R124). -/
def execVmad (o : VOp3) (s : State) : Host.Outcome State Fault Refusal :=
  vecOp s (regsV3 o) fun g _ t =>
    wrVInt o.ty t o.d.val (aluInt .mul o.ty (vPat o.ty t o.a.val) (vsrcInt g.band t o.ty o.b)
      + (vPat o.ty t o.c.val : Int))

/-- The type of twice the width (R124). -/
def doubleTy : IntTy → IntTy
  | .i8 => .i16 | .i16 => .i32 | .n8 => .n16 | .n16 => .n32 | .i32 | .i64 => .i64 | .n32 | .n64 => .n64

/-- VMADW (04 R124). -/
def execVmadw (o : VOp3) (s : State) : Host.Outcome State Fault Refusal :=
  vecOp s (regsV3 o) fun g _ t =>
    wrVInt (doubleTy o.ty) t o.d.val (aluInt .mul o.ty (vPat o.ty t o.a.val) (vsrcInt g.band t o.ty o.b)
      + (vPat (doubleTy o.ty) t o.c.val : Int))

/-- The sum of VDOT4 over bytes 0 to `n` - 1 (R126). -/
def dotSum (sa sb : Bool) (a b : Nat) : Nat → Int
  | 0 => 0
  | j + 1 => dotSum sa sb a b j + readInt sa 8 (a / 256 ^ j) * readInt sb 8 (b / 256 ^ j)

/-- VDOT4 (04 R126). -/
def execVdot4 (o : VDot) (s : State) : Host.Outcome State Fault Refusal :=
  vecOp s ([o.d.val, o.a.val] ++ vsrcRegs o.b ++ [o.c.val]) fun g _ t =>
    let a := (rdV t o.a.val).toNat
    let b := vsrcInt g.band t .n32 o.b
    let sum := readInt true 32 (rdV t o.c.val).toNat + dotSum (!o.unsigned) (o.unsigned == o.mix) a b 4
    wrVInt .i32 t o.d.val (if o.sat then clampInt sum (-2 ^ 31) (2 ^ 31 - 1) else sum)

/-- VCMP (04 R128). -/
def execVcmp (o : VCmp) (s : State) : Host.Outcome State Fault Refusal :=
  vecOp s ([o.a.val] ++ vsrcRegs o.b) fun g _ t =>
    wrP t o.pd.val (condHolds o.cond o.ty (vPat o.ty t o.a.val) (vsrcInt g.band t o.ty o.b))

/-- VSEL (04 R128). -/
def execVsel (o : VSel) (s : State) : Host.Outcome State Fault Refusal :=
  vecOp s ([o.d.val, o.a.val] ++ vsrcRegs o.b) fun g _ t =>
    wrVInt o.ty t o.d.val
      (if rdP t o.pc.val != o.neg then vPat o.ty t o.a.val else vsrcInt g.band t o.ty o.b)

def absInt (ty : IntTy) (x : Nat) : Int := (readInt true (intWidth ty) x).natAbs

/-- VABS (04 R129). -/
def execVabsC (o : C2) (s : State) : Host.Outcome State Fault Refusal :=
  vecOp s (regsC2 o) fun _ _ t => wrVInt .i32 t o.d.val (absInt .i32 (vPat .i32 t o.a.val))
def execVabs (o : VOp1) (s : State) : Host.Outcome State Fault Refusal :=
  vecOp s [o.d.val, o.a.val] fun _ _ t => wrVInt o.ty t o.d.val (absInt o.ty (vPat o.ty t o.a.val))

/-- VPOPC (04 R129). -/
def execVpopcC (o : C2) (s : State) : Host.Outcome State Fault Refusal :=
  vecOp s (regsC2 o) fun _ _ t => wrVInt .i32 t o.d.val (popcount 32 (vPat .i32 t o.a.val))
def execVpopc (o : VOp1) (s : State) : Host.Outcome State Fault Refusal :=
  vecOp s [o.d.val, o.a.val] fun _ _ t => wrVInt o.ty t o.d.val (popcount (intWidth o.ty) (vPat o.ty t o.a.val))

/-- VCLZ (04 R129). -/
def execVclzC (o : C2) (s : State) : Host.Outcome State Fault Refusal :=
  vecOp s (regsC2 o) fun _ _ t => wrVInt .i32 t o.d.val (leadZeros 32 (vPat .i32 t o.a.val))
def execVclz (o : VOp1) (s : State) : Host.Outcome State Fault Refusal :=
  vecOp s [o.d.val, o.a.val] fun _ _ t => wrVInt o.ty t o.d.val (leadZeros (intWidth o.ty) (vPat o.ty t o.a.val))

/-- Position and width of a vector bit field (R130). -/
def vField (b : Band) (t : Thread) : VField → Nat × Nat
  | .imm p w => (p.toNat, w.toNat)
  | .regV x c => ((rdV t x.val).toNat % 256, (rdV t c.val).toNat % 256)
  | .regS x c => ((rdS b x.val).toNat % 256, (rdV t c.val).toNat % 256)
def vFieldRegs : VField → List Nat
  | .imm _ _ => []
  | .regV x c => [x.val, c.val]
  | .regS _ c => [c.val]

/-- VBFX (04 R131). -/
def execVbfx (o : VBf) (s : State) : Host.Outcome State Fault Refusal :=
  vecOp s ([o.d.val, o.a.val] ++ vFieldRegs o.fld) fun g _ t =>
    wrVInt o.ty t o.d.val (bfx o.ty (vPat o.ty t o.a.val) (vField g.band t o.fld).1 (vField g.band t o.fld).2)

/-- VBFI (04 R131). -/
def execVbfi (o : VBf) (s : State) : Host.Outcome State Fault Refusal :=
  vecOp s ([o.d.val, o.a.val] ++ vFieldRegs o.fld) fun g _ t =>
    wrVInt o.ty t o.d.val (bfi o.ty (vPat o.ty t o.a.val) (vPat o.ty t o.d.val) (vField g.band t o.fld).1
      (vField g.band t o.fld).2)

/-- VMOVS (04 R133). -/
def execVmovsC (o : C2) (s : State) : Host.Outcome State Fault Refusal :=
  vecOp s [o.d.val] fun g _ t => wrVInt .i32 t o.d.val (sPat .i32 (rdS g.band o.a.val))
def execVmovs (o : VMovs) (s : State) : Host.Outcome State Fault Refusal :=
  vecOp s [o.d.val] fun g _ t => wrVInt o.ty t o.d.val (sPat o.ty (rdS g.band o.a.val))

/-- VLI (04 R133). -/
def execVli (o : VLi) (s : State) : Host.Outcome State Fault Refusal :=
  vecOp s [o.d.val] fun _ _ t => wrVInt o.ty t o.d.val (match o.v with
    | .imm v => immInt o.ty v
    | .lit v => litInt (intWidth o.ty) v)

/-- VIDX (04 R133). -/
def execVidxC (o : C1) (s : State) : Host.Outcome State Fault Refusal :=
  vecOp s [o.d.val] fun _ i t => wrVInt .i32 t o.d.val i
def execVidx (o : VIdx) (s : State) : Host.Outcome State Fault Refusal :=
  vecOp s ([o.d.val] ++ vsrcRegs o.b) fun g i t => wrVInt o.ty t o.d.val (vsrcInt g.band t o.ty o.b + i)

end Sys2Proof.Machine
end

