-- ==== Sys2Proof/Machine/Dispatch.lean ====
section
/-! DEFINITION. The meaning of each instruction and of each event, one arm per constructor. -/

namespace Sys2Proof.Machine

/-- What an instruction does in the state whose `cur` names who runs it. -/
def exec (i : Instr) (s : State) : Host.Outcome State Fault Refusal :=
  match i with
  | .bra o => Sys2Proof.Machine.execBra o s
  | .brx o => Sys2Proof.Machine.execBrx o s
  | .call o => Sys2Proof.Machine.execCall o s
  | .callx o => Sys2Proof.Machine.execCallx o s
  | .retC o => Sys2Proof.Machine.execRetC o s
  | .brd o => Sys2Proof.Machine.execBrd o s
  | .brk o => Sys2Proof.Machine.execBrk o s
  | .swch o => Sys2Proof.Machine.execSwch o s
  | .loop o => Sys2Proof.Machine.execLoop o s
  | .saddC o => Sys2Proof.Machine.execSaddC o s
  | .sadd o => Sys2Proof.Machine.execSadd o s
  | .ssubC o => Sys2Proof.Machine.execSsubC o s
  | .ssub o => Sys2Proof.Machine.execSsub o s
  | .smulC o => Sys2Proof.Machine.execSmulC o s
  | .smul o => Sys2Proof.Machine.execSmul o s
  | .smulhC o => Sys2Proof.Machine.execSmulhC o s
  | .smulh o => Sys2Proof.Machine.execSmulh o s
  | .sdivC o => Sys2Proof.Machine.execSdivC o s
  | .sdiv o => Sys2Proof.Machine.execSdiv o s
  | .sremC o => Sys2Proof.Machine.execSremC o s
  | .srem o => Sys2Proof.Machine.execSrem o s
  | .sandC o => Sys2Proof.Machine.execSandC o s
  | .sand o => Sys2Proof.Machine.execSand o s
  | .sorC o => Sys2Proof.Machine.execSorC o s
  | .sor o => Sys2Proof.Machine.execSor o s
  | .sxorC o => Sys2Proof.Machine.execSxorC o s
  | .sxor o => Sys2Proof.Machine.execSxor o s
  | .sandnC o => Sys2Proof.Machine.execSandnC o s
  | .sandn o => Sys2Proof.Machine.execSandn o s
  | .sshlC o => Sys2Proof.Machine.execSshlC o s
  | .sshl o => Sys2Proof.Machine.execSshl o s
  | .sshrC o => Sys2Proof.Machine.execSshrC o s
  | .sshr o => Sys2Proof.Machine.execSshr o s
  | .ssarC o => Sys2Proof.Machine.execSsarC o s
  | .ssar o => Sys2Proof.Machine.execSsar o s
  | .srotC o => Sys2Proof.Machine.execSrotC o s
  | .srot o => Sys2Proof.Machine.execSrot o s
  | .sminC o => Sys2Proof.Machine.execSminC o s
  | .smin o => Sys2Proof.Machine.execSmin o s
  | .smaxC o => Sys2Proof.Machine.execSmaxC o s
  | .smax o => Sys2Proof.Machine.execSmax o s
  | .scmp o => Sys2Proof.Machine.execScmp o s
  | .ssel o => Sys2Proof.Machine.execSsel o s
  | .smovC o => Sys2Proof.Machine.execSmovC o s
  | .smov o => Sys2Proof.Machine.execSmov o s
  | .sli o => Sys2Proof.Machine.execSli o s
  | .slea o => Sys2Proof.Machine.execSlea o s
  | .spopcC o => Sys2Proof.Machine.execSpopcC o s
  | .spopc o => Sys2Proof.Machine.execSpopc o s
  | .sclzC o => Sys2Proof.Machine.execSclzC o s
  | .sclz o => Sys2Proof.Machine.execSclz o s
  | .sctzC o => Sys2Proof.Machine.execSctzC o s
  | .sctz o => Sys2Proof.Machine.execSctz o s
  | .sbfx o => Sys2Proof.Machine.execSbfx o s
  | .sbfi o => Sys2Proof.Machine.execSbfi o s
  | .smovv o => Sys2Proof.Machine.execSmovv o s
  | .vaddC o => Sys2Proof.Machine.execVaddC o s
  | .vadd o => Sys2Proof.Machine.execVadd o s
  | .vsubC o => Sys2Proof.Machine.execVsubC o s
  | .vsub o => Sys2Proof.Machine.execVsub o s
  | .vmulC o => Sys2Proof.Machine.execVmulC o s
  | .vmul o => Sys2Proof.Machine.execVmul o s
  | .vmulhC o => Sys2Proof.Machine.execVmulhC o s
  | .vmulh o => Sys2Proof.Machine.execVmulh o s
  | .vmad o => Sys2Proof.Machine.execVmad o s
  | .vmadw o => Sys2Proof.Machine.execVmadw o s
  | .vandC o => Sys2Proof.Machine.execVandC o s
  | .vand o => Sys2Proof.Machine.execVand o s
  | .vorC o => Sys2Proof.Machine.execVorC o s
  | .vor o => Sys2Proof.Machine.execVor o s
  | .vxorC o => Sys2Proof.Machine.execVxorC o s
  | .vxor o => Sys2Proof.Machine.execVxor o s
  | .vandnC o => Sys2Proof.Machine.execVandnC o s
  | .vandn o => Sys2Proof.Machine.execVandn o s
  | .vshlC o => Sys2Proof.Machine.execVshlC o s
  | .vshl o => Sys2Proof.Machine.execVshl o s
  | .vshrC o => Sys2Proof.Machine.execVshrC o s
  | .vshr o => Sys2Proof.Machine.execVshr o s
  | .vsarC o => Sys2Proof.Machine.execVsarC o s
  | .vsar o => Sys2Proof.Machine.execVsar o s
  | .vminC o => Sys2Proof.Machine.execVminC o s
  | .vmin o => Sys2Proof.Machine.execVmin o s
  | .vmaxC o => Sys2Proof.Machine.execVmaxC o s
  | .vmax o => Sys2Proof.Machine.execVmax o s
  | .vabsC o => Sys2Proof.Machine.execVabsC o s
  | .vabs o => Sys2Proof.Machine.execVabs o s
  | .vaddsC o => Sys2Proof.Machine.execVaddsC o s
  | .vadds o => Sys2Proof.Machine.execVadds o s
  | .vsubsC o => Sys2Proof.Machine.execVsubsC o s
  | .vsubs o => Sys2Proof.Machine.execVsubs o s
  | .vcmp o => Sys2Proof.Machine.execVcmp o s
  | .vsel o => Sys2Proof.Machine.execVsel o s
  | .vpopcC o => Sys2Proof.Machine.execVpopcC o s
  | .vpopc o => Sys2Proof.Machine.execVpopc o s
  | .vclzC o => Sys2Proof.Machine.execVclzC o s
  | .vclz o => Sys2Proof.Machine.execVclz o s
  | .vbfx o => Sys2Proof.Machine.execVbfx o s
  | .vbfi o => Sys2Proof.Machine.execVbfi o s
  | .vdot4 o => Sys2Proof.Machine.execVdot4 o s
  | .vmovsC o => Sys2Proof.Machine.execVmovsC o s
  | .vmovs o => Sys2Proof.Machine.execVmovs o s
  | .vli o => Sys2Proof.Machine.execVli o s
  | .vidxC o => Sys2Proof.Machine.execVidxC o s
  | .vidx o => Sys2Proof.Machine.execVidx o s
  | .vfaddC o => Sys2Proof.Machine.execVfaddC o s
  | .vfadd o => Sys2Proof.Machine.execVfadd o s
  | .vfsubC o => Sys2Proof.Machine.execVfsubC o s
  | .vfsub o => Sys2Proof.Machine.execVfsub o s
  | .vfmulC o => Sys2Proof.Machine.execVfmulC o s
  | .vfmul o => Sys2Proof.Machine.execVfmul o s
  | .vfma o => Sys2Proof.Machine.execVfma o s
  | .vfminC o => Sys2Proof.Machine.execVfminC o s
  | .vfmin o => Sys2Proof.Machine.execVfmin o s
  | .vfmaxC o => Sys2Proof.Machine.execVfmaxC o s
  | .vfmax o => Sys2Proof.Machine.execVfmax o s
  | .vfcmp o => Sys2Proof.Machine.execVfcmp o s
  | .vfclassC o => Sys2Proof.Machine.execVfclassC o s
  | .vfclass o => Sys2Proof.Machine.execVfclass o s
  | .vfrcpC o => Sys2Proof.Machine.execVfrcpC o s
  | .vfrcp o => Sys2Proof.Machine.execVfrcp o s
  | .vfrsqC o => Sys2Proof.Machine.execVfrsqC o s
  | .vfrsq o => Sys2Proof.Machine.execVfrsq o s
  | .vfsqrtC o => Sys2Proof.Machine.execVfsqrtC o s
  | .vfsqrt o => Sys2Proof.Machine.execVfsqrt o s
  | .vfdivC o => Sys2Proof.Machine.execVfdivC o s
  | .vfdiv o => Sys2Proof.Machine.execVfdiv o s
  | .vfexp2C o => Sys2Proof.Machine.execVfexp2C o s
  | .vfexp2 o => Sys2Proof.Machine.execVfexp2 o s
  | .vflog2C o => Sys2Proof.Machine.execVflog2C o s
  | .vflog2 o => Sys2Proof.Machine.execVflog2 o s
  | .vfsinC o => Sys2Proof.Machine.execVfsinC o s
  | .vfsin o => Sys2Proof.Machine.execVfsin o s
  | .vfcosC o => Sys2Proof.Machine.execVfcosC o s
  | .vfcos o => Sys2Proof.Machine.execVfcos o s
  | .vftanhC o => Sys2Proof.Machine.execVftanhC o s
  | .vftanh o => Sys2Proof.Machine.execVftanh o s
  | .vaddmin o => Sys2Proof.Machine.execVaddmin o s
  | .vaddmax o => Sys2Proof.Machine.execVaddmax o s
  | .vfrnd o => Sys2Proof.Machine.execVfrnd o s
  | .vcvt o => Sys2Proof.Machine.execVcvt o s
  | .vqnt o => Sys2Proof.Machine.execVqnt o s
  | .vdqnt o => Sys2Proof.Machine.execVdqnt o s
  | .vpack o => Sys2Proof.Machine.execVpack o s
  | .vunpk o => Sys2Proof.Machine.execVunpk o s
  | .vshfl o => Sys2Proof.Machine.execVshfl o s
  | .vbcst o => Sys2Proof.Machine.execVbcst o s
  | .vvote o => Sys2Proof.Machine.execVvote o s
  | .vmatch o => Sys2Proof.Machine.execVmatch o s
  | .vscan o => Sys2Proof.Machine.execVscan o s
  | .vred o => Sys2Proof.Machine.execVred o s
  | .srdw o => Sys2Proof.Machine.execSrdw o s
  | .pandC o => Sys2Proof.Machine.execPandC o s
  | .pand o => Sys2Proof.Machine.execPand o s
  | .porC o => Sys2Proof.Machine.execPorC o s
  | .por o => Sys2Proof.Machine.execPor o s
  | .pxorC o => Sys2Proof.Machine.execPxorC o s
  | .pxor o => Sys2Proof.Machine.execPxor o s
  | .pnotC o => Sys2Proof.Machine.execPnotC o s
  | .pnot o => Sys2Proof.Machine.execPnot o s
  | .ptovC o => Sys2Proof.Machine.execPtovC o s
  | .ptov o => Sys2Proof.Machine.execPtov o s
  | .vtopC o => Sys2Proof.Machine.execVtopC o s
  | .vtop o => Sys2Proof.Machine.execVtop o s
  | .ppopcC o => Sys2Proof.Machine.execPpopcC o s
  | .ppopc o => Sys2Proof.Machine.execPpopc o s
  | .ld o => Sys2Proof.Machine.execLd o s
  | .st o => Sys2Proof.Machine.execSt o s
  | .sld o => Sys2Proof.Machine.execSld o s
  | .sst o => Sys2Proof.Machine.execSst o s
  | .ldn o => Sys2Proof.Machine.execLdn o s
  | .pref o => Sys2Proof.Machine.execPref o s
  | .clean o => Sys2Proof.Machine.execClean o s
  | .inval o => Sys2Proof.Machine.execInval o s
  | .pin o => Sys2Proof.Machine.execPin o s
  | .unpin o => Sys2Proof.Machine.execUnpin o s
  | .discard o => Sys2Proof.Machine.execDiscard o s
  | .pgreq o => Sys2Proof.Machine.execPgreq o s
  | .mapw o => Sys2Proof.Machine.execMapw o s
  | .mapc o => Sys2Proof.Machine.execMapc o s
  | .mapf o => Sys2Proof.Machine.execMapf o s
  | .fence o => Sys2Proof.Machine.execFence o s
  | .kbind o => Sys2Proof.Machine.execKbind o s
  | .kfree o => Sys2Proof.Machine.execKfree o s
  | .kacq o => Sys2Proof.Machine.execKacq o s
  | .krel o => Sys2Proof.Machine.execKrel o s
  | .latg o => Sys2Proof.Machine.execLatg o s
  | .latw o => Sys2Proof.Machine.execLatw o s
  | .atom o => Sys2Proof.Machine.execAtom o s
  | .atomf o => Sys2Proof.Machine.execAtomf o s
  | .cas o => Sys2Proof.Machine.execCas o s
  | .cas2 o => Sys2Proof.Machine.execCas2 o s
  | .tinit o => Sys2Proof.Machine.execTinit o s
  | .tarv o => Sys2Proof.Machine.execTarv o s
  | .twait o => Sys2Proof.Machine.execTwait o s
  | .ttest o => Sys2Proof.Machine.execTtest o s
  | .mma o => Sys2Proof.Machine.execMma o s
  | .mmas o => Sys2Proof.Machine.execMmas o s
  | .tzeroC o => Sys2Proof.Machine.execTzeroC o s
  | .tzero o => Sys2Proof.Machine.execTzero o s
  | .tfill o => Sys2Proof.Machine.execTfill o s
  | .tident o => Sys2Proof.Machine.execTident o s
  | .tld o => Sys2Proof.Machine.execTld o s
  | .tst o => Sys2Proof.Machine.execTst o s
  | .tmovv o => Sys2Proof.Machine.execTmovv o s
  | .tmovt o => Sys2Proof.Machine.execTmovt o s
  | .tcls o => Sys2Proof.Machine.execTcls o s
  | .scld o => Sys2Proof.Machine.execScld o s
  | .ttopk o => Sys2Proof.Machine.execTtopk o s
  | .tacc o => Sys2Proof.Machine.execTacc o s
  | .tscl o => Sys2Proof.Machine.execTscl o s
  | .tcvt o => Sys2Proof.Machine.execTcvt o s
  | .tdset o => Sys2Proof.Machine.execTdset o s
  | .tdget o => Sys2Proof.Machine.execTdget o s
  | .tdinv o => Sys2Proof.Machine.execTdinv o s
  | .cpost o => Sys2Proof.Machine.execCpost o s
  | .gpost o => Sys2Proof.Machine.execGpost o s
  | .spost o => Sys2Proof.Machine.execSpost o s
  | .vremap o => Sys2Proof.Machine.execVremap o s
  | .cwait o => Sys2Proof.Machine.execCwait o s
  | .cseq o => Sys2Proof.Machine.execCseq o s
  | .cqry o => Sys2Proof.Machine.execCqry o s
  | .mpost o => Sys2Proof.Machine.execMpost o s
  | .xred o => Sys2Proof.Machine.execXred o s
  | .xgth o => Sys2Proof.Machine.execXgth o s
  | .xsnd o => Sys2Proof.Machine.execXsnd o s
  | .xrcv o => Sys2Proof.Machine.execXrcv o s
  | .embag o => Sys2Proof.Machine.execEmbag o s
  | .emstat o => Sys2Proof.Machine.execEmstat o s
  | .launch o => Sys2Proof.Machine.execLaunch o s
  | .lwait o => Sys2Proof.Machine.execLwait o s
  | .lsig o => Sys2Proof.Machine.execLsig o s
  | .lsigHinge o => Sys2Proof.Machine.execLsigHinge o s
  | .lsigHost o => Sys2Proof.Machine.execLsigHost o s
  | .levw o => Sys2Proof.Machine.execLevw o s
  | .ctxsw o => Sys2Proof.Machine.execCtxsw o s
  | .trapC o => Sys2Proof.Machine.execTrapC o s
  | .trap o => Sys2Proof.Machine.execTrap o s
  | .mfs o => Sys2Proof.Machine.execMfs o s
  | .mts o => Sys2Proof.Machine.execMts o s
  | .bkptC o => Sys2Proof.Machine.execBkptC o s
  | .snap o => Sys2Proof.Machine.execSnap o s
  | .mark o => Sys2Proof.Machine.execMark o s
  | .esampC o => Sys2Proof.Machine.execEsampC o s
  | .esamp o => Sys2Proof.Machine.execEsamp o s
  | .nopC => Sys2Proof.Machine.execNopC s
  | .joinC => Sys2Proof.Machine.execJoinC s
  | .exitC => Sys2Proof.Machine.execExitC s
  | .yieldC => Sys2Proof.Machine.execYieldC s
  | .tretC => Sys2Proof.Machine.execTretC s
  | .haltC => Sys2Proof.Machine.execHaltC s
  | .vredCompletion => Sys2Proof.Machine.execVredCompletion s
  | .accessPerformed => Sys2Proof.Machine.execAccessPerformed s
  | .backgroundWriteback => Sys2Proof.Machine.execBackgroundWriteback s
  | .backgroundDiscard => Sys2Proof.Machine.execBackgroundDiscard s
  | .matrixCompletion => Sys2Proof.Machine.execMatrixCompletion s
  | .engineCommandStart => Sys2Proof.Machine.execEngineCommandStart s
  | .indexRowDelivery => Sys2Proof.Machine.execIndexRowDelivery s
  | .embagBagDelivery => Sys2Proof.Machine.execEmbagBagDelivery s
  | .commandCompletion => Sys2Proof.Machine.execCommandCompletion s
  | .heldRecordWrite => Sys2Proof.Machine.execHeldRecordWrite s
  | .pageMove => Sys2Proof.Machine.execPageMove s
  | .promotionMove => Sys2Proof.Machine.execPromotionMove s
  | .promotionCounterHalve => Sys2Proof.Machine.execPromotionCounterHalve s
  | .collectiveCompletion => Sys2Proof.Machine.execCollectiveCompletion s
  | .flitReceive => Sys2Proof.Machine.execFlitReceive s
  | .portRetrainTimeout => Sys2Proof.Machine.execPortRetrainTimeout s
  | .streamTakeEntry => Sys2Proof.Machine.execStreamTakeEntry s
  | .teamPlacement => Sys2Proof.Machine.execTeamPlacement s
  | .bandRetire => Sys2Proof.Machine.execBandRetire s
  | .teamRetire => Sys2Proof.Machine.execTeamRetire s
  | .quantumExpire => Sys2Proof.Machine.execQuantumExpire s
  | .forcedPick => Sys2Proof.Machine.execForcedPick s
  | .engineTrapTake => Sys2Proof.Machine.execEngineTrapTake s
  | .breakpointHit => Sys2Proof.Machine.execBreakpointHit s
  | .stopArrival => Sys2Proof.Machine.execStopArrival s
  | .snapshotLatch => Sys2Proof.Machine.execSnapshotLatch s
  | .stallSample => Sys2Proof.Machine.execStallSample s
  | .memorySample => Sys2Proof.Machine.execMemorySample s
  | .scrub => Sys2Proof.Machine.execScrub s
  | .knuckleParityError => Sys2Proof.Machine.execKnuckleParityError s
  | .knuckleRetry => Sys2Proof.Machine.execKnuckleRetry s
  | .stackCriticalTemperature => Sys2Proof.Machine.execStackCriticalTemperature s
  | .flushWindowEnd => Sys2Proof.Machine.execFlushWindowEnd s
  | .dieThrottle => Sys2Proof.Machine.execDieThrottle s
  | .coldReset => Sys2Proof.Machine.execColdReset s
  | .warmReset => Sys2Proof.Machine.execWarmReset s
  | .attestationRequest => Sys2Proof.Machine.execAttestationRequest s
  | .attestationReportReady => Sys2Proof.Machine.execAttestationReportReady s
  | .hostApertureRead => Sys2Proof.Machine.execHostApertureRead s
  | .hostApertureWrite => Sys2Proof.Machine.execHostApertureWrite s
  | .tlbInvalidate => Sys2Proof.Machine.execTlbInvalidate s
  | .tlbInvalidateDone => Sys2Proof.Machine.execTlbInvalidateDone s
  | .pageAnswerDone => Sys2Proof.Machine.execPageAnswerDone s
  | .pageAnswerRefused => Sys2Proof.Machine.execPageAnswerRefused s
  | .bandResume => Sys2Proof.Machine.execBandResume s
  | .bandAbort => Sys2Proof.Machine.execBandAbort s
  | .bandStep => Sys2Proof.Machine.execBandStep s
  | .stepEnd => Sys2Proof.Machine.execStepEnd s
  | .streamEnable => Sys2Proof.Machine.execStreamEnable s
  | .streamDisable => Sys2Proof.Machine.execStreamDisable s
  | .doorbell => Sys2Proof.Machine.execDoorbell s
  | .driverTrigger => Sys2Proof.Machine.execDriverTrigger s
  | .stackResume => Sys2Proof.Machine.execStackResume s
  | .portRetrain => Sys2Proof.Machine.execPortRetrain s
  | .debugRead => Sys2Proof.Machine.execDebugRead s
  | .debugWrite => Sys2Proof.Machine.execDebugWrite s
  | .tapDpacc => Sys2Proof.Machine.execTapDpacc s
  | .counterReadClear => Sys2Proof.Machine.execCounterReadClear s
  | .registerWrite => Sys2Proof.Machine.execRegisterWrite s
  | .contextCreation => Sys2Proof.Machine.execContextCreation s
  | .launchAbort => Sys2Proof.Machine.execLaunchAbort s
  | .driverHaltRequest => Sys2Proof.Machine.execDriverHaltRequest s
  | .portUp => Sys2Proof.Machine.execPortUp s
  | .portLinkFailure => Sys2Proof.Machine.execPortLinkFailure s
  | .dieTemperatureFall => Sys2Proof.Machine.execDieTemperatureFall s

end Sys2Proof.Machine
end

