-- ==== Sys2Proof/Machine/Issue.lean ====
section
/-! DEFINITION. The issue of a group (07 R192, 02 R58, R59) and of a stream's instruction (01 R39): breakpoints, fetch, decoding
faults, soft errors, the instruction, then what the end of an instruction brings: loop ends, watchpoints, stops, counters. -/

namespace Sys2Proof.Machine

/-- The fault of a rejected decoding (R59). -/
def decodeExc : DecodeError → Exc
  | .illegal | .truncated => { cause := cIllegal }
  | .privilege => { cause := cPrivilege }
  | .profile => { cause := cProfile }

/-! ### Soft errors (R426, R427) -/

/-- Register Uncorrectable: file 1 vector, 2 scalar. -/
def eccExc (file r : Nat) : Exc := { cause := cReg, info := file * 65536 + r }

def markBad (m : Option EccMark) : Bool :=
  match m with | some .double | some .poisoned => true | some .single | none => false

/-- The lanes of P that take Register Uncorrectable, with the fault. DEDUCED (log 38). DEDUCED (log 38). -/
def eccFaults (b : Band) (live : List Nat) (i : Instr) : List (Nat × Exc) :=
  let f := footOf false i
  match f.sr.find? fun r => markBad (aFind r b.sEcc) with
  | some r => live.map fun l => (l, eccExc 2 r)
  | none =>
    let badAt := fun (l : Nat) => f.vr.find? fun r => markBad (aFind (r * 32 + l) b.vEcc)
    match i with
    -- registers read of every lane: the fault is the whole group's (R328, R336)
    | .smovv _ | .mma _ | .mmas _ | .tmovt _ | .tscl _ =>
      match (touchedLanes b live i).findSome? badAt with
      | some r => live.map fun l => (l, eccExc 1 r)
      | none => []
    | _ => live.filterMap fun l => (badAt l).map fun r => (l, eccExc 1 r)

/-- Single-bit errors that the instruction reads are corrected and counted. -/
def eccCorrect (s : State) (core k : Nat) (live : List Nat) (i : Instr) : State :=
  match bandOf s k with
  | none => s
  | some b =>
    if (b.vEcc.isEmpty && b.sEcc.isEmpty) || live.isEmpty then s
    else
      let f := footOf false i
      let ls := touchedLanes b live i
      let readV := fun w => f.vr.contains (w / 32) && ls.contains (w % 32)
      let v := b.vEcc.filter fun e => e.2 == .single && readV e.1
      let c := b.sEcc.filter fun e => e.2 == .single && f.sr.contains e.1
      let gone := fun (m : AList EccMark) (x : List (Nat × EccMark)) => aFilter (fun w _ => !x.any fun e => e.1 == w) m
      addCorrected (setBand s k { b with vEcc := gone b.vEcc v, sEcc := gone b.sEcc c }) core (v.length + c.length)

/-- A write of a whole word clears its mark. -/
def eccWritten (s : State) (k : Nat) (lanes : List Nat) (i : Instr) : State :=
  match bandOf s k with
  | none => s
  | some b =>
    if b.vEcc.isEmpty then s
    else
      let f := footOf false i
      setBand s k { b with vEcc := aFilter (fun w _ => !(f.vw.contains (w / 32) && lanes.contains (w % 32))) b.vEcc }

/-- A soft error: a second one in a word that has one makes it double. DESIGN CHOICE (log 78).
DESIGN CHOICE (log 78). -/
def strike (s : State) (core slot : Nat) (scalar : Bool) (word : Nat) (two : Bool) : State :=
  match bandOf s (bandKey core slot) with
  | none => s
  | some b =>
    let m := if scalar then b.sEcc else b.vEcc
    let top := if scalar then b.sregCount else 32 * b.n
    if top ≤ word then s
    else
      let x : EccMark := match aFind word m with
        | some .poisoned => .poisoned
        | some _ => .double
        | none => if two then .double else .single
      let m := aInsert word x m
      setBand s (bandKey core slot) (if scalar then { b with sEcc := m } else { b with vEcc := m })

/-! ### After an instruction -/

/-- Branches whose taken targets make T of R217. -/
def isBranch (i : Instr) : Bool :=
  match i with
  | .bra _ | .brx _ | .brk _ | .call _ | .callx _ | .retC _ => true
  | _ => false
/-- Instructions at a loop's end that leave it unevaluated (R218). -/
def leavesLoop (i : Instr) : Bool :=
  match i with
  | .loop _ | .brd _ | .swch _ => true
  | _ => false

/-- The loop end evaluated for a group that has run the instruction at `addr`; `b0` is the band before it (R217). Threads that another
group's instruction releases at a JOIN that stands there are not evaluated. DESIGN CHOICE (log 93).
DESIGN CHOICE (log 93). -/
def loopEnd (s : State) (b0 : Band) (k : Nat) (lanes live : List Nat) (addr next : DWord) (i : Instr) : State :=
  match bandOf s k with
  | none => s
  | some b =>
    if leavesLoop i || !b.loops.any (fun e => e.fin == addr) then s
    else
      let faulted := fun l => s.faulted.testBit l
      let entered := fun l => (threadOf b l).tlevel && !(threadOf b0 l).tlevel
      let trapped := (lanesWhere b fun l t => entered l && t.tpc == next &&& 0x007FFFFFFFFFFFFC)
      -- a reload's fault follows the instruction (R500): its thread has left for TPC
      let left := fun l => if entered l then (threadOf b l).tpc else (threadOf b l).pc
      let joined := fun l => (threadOf b0 l).pc == addr && match (threadOf b0 l).wait with | .join .. => true | _ => false
      let seq := lanesWhere b fun l t =>
        (lanes.contains l || joined l) &&
          (trapped.contains l || (!faulted l && !t.exited && t.wait == .ready && t.pc == next))
      let t := if isBranch i then live.filter fun l =>
          !faulted l && !trapped.contains l && !(threadOf b l).exited && left l != next else []
      evalLoops 5 s k addr t seq trapped

/-- A single step has issued its group (R450). -/
def stepIssued (s : State) (b0 : Band) (k : Nat) (lanes : List Nat) (pc : DWord) : State :=
  match bandOf s k with
  | none => s
  | some b => match b.stepping with
    | none => s
    | some x =>
      let entered := s.faulted != 0 || lanes.any fun i => (threadOf b i).tlevel && !(threadOf b0 i).tlevel
      let x := { x with
        issued := some (x.issued.getD pc), lanes := if x.issued.isSome then x.lanes else lanes
        outcome := if entered then 8 else x.outcome }
      setBand s k { b with stepping := some x }

/-- Sectors of 32 bytes that the accesses of an issue touch; CLEAN and INVAL access none. DEDUCED (log 77).
DEDUCED (log 77). -/
def sectorsOf (s : State) (k seq : Nat) : Nat :=
  let ranges := (s.pending.filter fun o => o.issuer == k && o.seq == seq && o.kind.access.isSome).flatMap (opRanges s)
  (ranges.flatMap fun r => if r.2.2 = 0 then [] else
    (List.range ((r.2.1 + r.2.2 - 1) / 32 + 1 - r.2.1 / 32)).map fun j => (r.1, r.2.1 / 32 + j)).eraseDups.length

/-- The rotation code at a stash offset (R238). -/
def rotAt (s : State) (team off : Nat) : Nat :=
  match teamOf s team with
  | none => 0
  | some tm => match tm.maps.find? fun e => decide (e.2.first ≤ off / 1024 ∧ off / 1024 < e.2.first + e.2.count) with
    | some e => e.2.rot
    | none => 0

/-- The bank of the word at a stash offset (R238). -/
def bankOf (s : State) (team off : Nat) : Nat := (off / 4 + rotAt s team off * (off / 128)) % 32

/-- The words of stashes that the operations of an issue access, as team and word. -/
def stashWords (s : State) (k seq : Nat) : List (Nat × Nat) :=
  let ranges := (s.pending.filter fun o => o.issuer == k && o.seq == seq && o.kind.access.isSome).flatMap (opRanges s)
  ((ranges.filter fun r => r.1 != 0 && r.2.2 != 0).flatMap fun r =>
    (List.range ((r.2.1 + r.2.2 - 1) / 4 + 1 - r.2.1 / 4)).map fun j => (r.1 - 1, r.2.1 / 4 + j)).eraseDups

/-- The passes of an issue at the stash: the most distinct words in one bank (R239). DEDUCED (log 77). -/
def stashPasses (s : State) (k seq : Nat) : Nat :=
  let banks := (stashWords s k seq).map fun w => (w.1, bankOf s w.1 (4 * w.2))
  banks.foldl (fun n x => max n (banks.count x)) 0

/-- Some operation of an issue reaches memory through the L1. -/
def reachesL1 (s : State) (k seq : Nat) : Bool :=
  s.pending.any fun o => o.issuer == k && o.seq == seq && (opRanges s o).any fun r => r.1 == 0

/-- A group that waits at issue, for room, a result or a stack (R417): it has not issued. -/
def waitsToIssue (s : State) (k : Nat) (lanes : List Nat) : Bool :=
  match bandOf s k with
  | none => false
  | some b => lanes.any fun i => match (threadOf b i).wait with
    | .polled c => c != stLatch && c != stKey
    | _ => false

/-- The counters of an issue: groups, memory instructions with their samples, the skid of a stop on its way. -/
def countIssue (s : State) (b0 : Band) (core slot : Nat) (live : List Nat) (pc : DWord) (i : Instr) : State :=
  let k := bandKey core slot
  let c := coreOf s core
  let c := { c with issued := c.issued + 1 }
  let c := if kindOf i != .memory then c
    else
      let n := c.memIssued + 1
      if !c.sampEn || n % 2 ^ c.sampMp.toNat != 0 then { c with memIssued := n } else
      let x : MemSample := { slot := slot, seq := s.seq, cycle := cycleOf s core, issuedAt := s.now, lseq := bandLseq s b0
                             pc := pc, active := laneMask live, sectors := sectorsOf s k s.seq, passes := stashPasses s k s.seq
                             l1 := reachesL1 s k s.seq, doneAt := s.now }
      { c with memIssued := n, samples := c.samples ++ [x] }
  let s := setCore s core c
  match b0.stop, bandOf s k with
  | some _, some b => match b.stop with
    | some x => if x.recorded then s else setBand s k { b with stop := some { x with issued := x.issued + 1 } }
    | none => s
  | _, _ => s

/-- A single step that its group's condition blocks ends in the same cycle (R450). -/
def endBlocked (s : State) (k : Nat) : State :=
  match bandOf s k with
  | none => s
  | some b => match b.stepping with
    | some x => if stepOutcome s k b x = 7 then endStep s k else s
    | none => s

/-- What ends a step at a band: matched accesses, a stop that waits for its threads. -/
def endGroup (s : State) (b0 : Band) (k : Nat) (lanes : List Nat) (pc : DWord) : State :=
  endBlocked (settleStop (matchSeen (stepIssued s b0 k lanes pc)) k) k

/-- After the instruction of a group. `fresh` is false when it only looked again at the condition of one that has issued. -/
def afterIssue (s : State) (b0 : Band) (core slot : Nat) (lanes live : List Nat) (pc : DWord) (len : Nat) (fresh : Bool)
    (i : Instr) : State :=
  let k := bandKey core slot
  let held := waitsToIssue s k lanes
  let s := if held then s else eccWritten s k (live.filter fun l => !s.faulted.testBit l) i
  let s := loopEnd s b0 k lanes live pc (pc + BitVec.ofNat 64 len) i
  let s := if fresh && !held then
      let s := bandStarted (countIssue s b0 core slot live pc i) k
      match bandOf s k with
      | some b => addEnergy s k (issueEnergy s b i)
      | none => s
    else s
  let s := if s.pending.any fun o => o.issuer == k && o.seq == s.seq then s else settleLines s k s.seq
  endGroup s b0 k lanes pc

/-! ### A group -/

/-- A scheduler issues a band: its wait starts again after this cycle (R414), and yields are satisfied (R213). -/
def pickBand (s : State) (core slot : Nat) : State :=
  let sched := slot / Config.slotsPerScheduler
  let picked := fun (k : Nat) (b : Band) =>
    if k / Config.slotsPerCore != core || k % Config.slotsPerCore / Config.slotsPerScheduler != sched then b
    else { b with since := if k % Config.slotsPerCore == slot then s.now + 1 else b.since, yielded := 0 }
  { s with bands := aMap picked s.bands }

/-- The waits for a pick as `dt` cycles pass (R414): of a band without a ready candidate from then on; no longer for one that is withheld
(R483, R484). -/
def restWaits (dt : Nat) (s : State) : State :=
  let rest := fun (k : Nat) (b : Band) =>
    let core := k / Config.slotsPerCore
    if s.now < b.since then b
    else if Config.held s.tick k || (awakeGroups s core (k % Config.slotsPerCore)).isEmpty && !dieHot s core then { b with since := s.now + dt }
    else if Config.withheld s.tick k || dieHot s core then { b with since := b.since + dt }
    else b
  { s with bands := aMap rest s.bands }

/-- Faults that every thread of `lanes` takes before the instruction is run. -/
def faultAll (s : State) (b : Band) (k : Nat) (lanes : List Nat) (pc : DWord) (e : Exc) (info : DWord) : State :=
  let recs := lanes.map fun i =>
    ({ lane := i, cause := e.cause, addr := BitVec.ofNat 64 e.addr, info := info, pc := pc } : FaultRec)
  endGroup (bandStarted (takeTraps s k false recs) k) b k lanes pc

/-- The image faults that threads take at their first instruction (R412). DEDUCED (log 37). DEDUCED (log 37). -/
def faultOwed (s : State) (b : Band) (k : Nat) (lanes : List Nat) (pc : DWord) (word : Nat) : State :=
  let recs := lanes.filterMap fun i => (threadOf b i).owed.map fun x =>
    ({ lane := i, cause := x.1, addr := BitVec.ofNat 64 x.2.1, info := tinfoOf word x.2.2, pc := pc } : FaultRec)
  let took := recs.map (·.lane)
  let s := match bandOf s k with
    | some b => setBand s k (onLanes b took fun _ t => { t with owed := none })
    | none => s
  endGroup (bandStarted (takeTraps s k false recs) k) b k took pc

/-- Faults that threads have taken before the instruction ran, where its own faults have not taken them along (R421). -/
def takeEarly (s : State) (k : Nat) : State := if s.early.isEmpty then s else takeTraps s k false []

/-- A decoded instruction run by a group that nothing holds. A thread that takes Register Uncorrectable has no part in it; its fault
joins those of the instruction (R423). DEDUCED (log 37), DEDUCED (log 38). DEDUCED (log 37), DEDUCED (log 38). -/
def runGroup (s : State) (b : Band) (core slot : Nat) (lanes : List Nat) (pc : DWord) (word len : Nat) (d : Decoded) :
    Host.Outcome State Fault Refusal :=
  let k := bandKey core slot
  let live := lanes.filter fun i => guardTrue d.guard (threadOf b i).preds
  let fresh := lanes.all fun i => !issuedWait (threadOf b i).wait
  let bad := eccFaults b live d.instr
  let rest := lanes.filter fun i => !bad.any fun e => e.1 == i
  let s := eccCorrect s core k live d.instr
  let s := { s with early := bad.map fun e =>
    { lane := e.1, cause := e.2.cause, addr := 0, info := tinfoOf word e.2.info, pc := pc } }
  if rest.isEmpty then .next (endGroup (bandStarted (takeEarly s k) k) b k lanes pc)
  else match exec d.instr { s with cur := .band core slot rest pc len word d.guard } with
    | .next s => .next (afterIssue (takeEarly s k) b core slot rest (rest.filter live.contains) pc len fresh d.instr)
    | .fault r => .fault r
    | .refused r => .refused r

/-- The bands of a scheduler as an issue of `slot` begins: lanes that pass their breakpoint, lanes whose candidate could issue and is
passed over (R192), waiting times. -/
def beginIssue (s : State) (core slot : Nat) (lanes : List Nat) (fresh : Bool) : State :=
  let k := bandKey core slot
  let s := if fresh then pickBand s core slot else s
  let s := match bandOf s k with
    | some b =>
      let pass := fun (i : Nat) (t : Thread) =>
        if lanes.contains i then { t with noIbp := false, passed := 0 }
        else if !fresh then t
        else if !issuable b i then { t with passed := 0 }
        else if (awakeGroups s core slot).any fun c => c.contains i then { t with passed := t.passed + 1 }
        else t
      setBand s k { b with threads := mapFrom pass 0 b.threads }
    | none => s
  { s with faulted := 0, early := [], seen := [], seq := s.seq + 1 }

/-- The candidate that holds `lane` issues, if nothing holds it. A group about to issue at a breakpoint stops (R442). A thread at which
an Engine trap is due issues only to take a precise fault (R425). DESIGN CHOICE (log 12). DESIGN CHOICE (log 12). -/
def issueGroup (s : State) (core slot lane : Nat) : Host.Outcome State Fault Refusal :=
  let k := bandKey core slot
  match bandOf s k with
  | none => .next s
  | some b => match teamOf s b.team with
    | none => .next s
    | some tm =>
      let lanes := candidateOf b lane
      let pc := (threadOf b lane).pc
      if !bandFree s core b lanes then .next s
      else
        let owes := lanes.any fun i => (threadOf b i).owed.isSome
        let due := match dueLane b with | some i => if lanes.contains i then some i else none | none => none
        let hits := groupIbp s b lanes pc
        let held := fun (r : Host.Outcome State Fault Refusal) => match due with
          | some i => (match r with
            | .next s' => if hits.isEmpty && s'.faulted.testBit i then r else .next s
            | _ => r)
          | none => if hits.isEmpty then r else .next (hitIbp s core k tm.ctx pc hits)
        let (f, s1) := fetchGroup s core tm pc
        let fresh := lanes.all fun i => !issuedWait (threadOf b i).wait
        let s1 := match f with
          | .ok _ len _ => passFetch s1 core tm.ctx pc.toNat len
          | .bad w _ => passFetch s1 core tm.ctx pc.toNat (instrLength w)
          | .busy | .fault _ => s1
        let s1 := beginIssue s1 core slot lanes fresh
        match f with
        | .busy => .next s
        | .fault e => .next (faultAll s1 b k lanes pc e (BitVec.ofNat 64 e.info))
        | .bad w e =>
          held (.next (if owes then faultOwed s1 b k lanes pc w else faultAll s1 b k lanes pc (decodeExc e) (tinfoOf w 0)))
        | .ok w len d =>
          if owes then held (.next (faultOwed s1 b k lanes pc w))
          else
            let live := lanes.filter fun i => guardTrue d.guard (threadOf b i).preds
            if !groupFree s b k lanes live d.instr then .next s
            else held (runGroup s1 b core slot lanes pc w len d)

/-! ### A stream -/

/-- The instruction of a stream issues, if the stream runs and nothing holds it. -/
def issueStream (s : State) (h n : Nat) : Host.Outcome State Fault Refusal :=
  let t := streamOf s h n
  if t.state != 1 && t.state != 2 then .next s
  else
    let (f, s1) := fetchStream s h t
    let s1 := setHinge s1 h { hingeOf s1 h with lastStream := n }
    let s1 := { s1 with faulted := 0, seen := [], seq := s1.seq + 1 }
    match f with
    | .busy => .next s
    | .fault e => .next (streamTrap s1 h n e.cause (BitVec.ofNat 64 e.addr) (BitVec.ofNat 64 e.info) t.pc)
    | .bad w e => .next (streamTrap s1 h n (decodeExc e).cause 0 (tinfoOf w 0) t.pc)
    | .ok w len d =>
      if guardTrue d.guard t.preds && !streamFree s (streamIssuer h n) d.instr then .next s
      else match exec d.instr { s1 with cur := .stream h n t.pc len w d.guard } with
        | .next s => .next (matchSeen s)
        | .fault r => .fault r
        | .refused r => .refused r

end Sys2Proof.Machine
end

