-- ==== Sys2Proof/Machine/Moves.lean ====
section
/-! DEFINITION. One move of one agent: an issue, an event, or one of the moves that the machine makes of its own accord. -/

namespace Sys2Proof.Machine

/-! ### Events -/

/-- Stops that wait for threads to stop take hold (R445, R446). -/
def settleStops (s : State) : State :=
  s.bands.foldl (fun s b => if b.2.stop.isSome then settleStop s b.1 else s) s

/-- The precise fault of the thread at which an Engine trap is due, which is taken in its place (R425). -/
def preciseFirst (s : State) (e : Event) : Option State :=
  match e with
  | .engineTrapTake core slot => match bandOf s (bandKey core slot) with
    | some b => match dueLane b with
      | some i => match issueGroup { s with faulted := 0 } core slot i with
        | .next s' => if s'.faulted.testBit i then some s' else none
        | .fault _ | .refused _ => none
      | none => none
    | none => none
  | _ => none

/-- An event happens. -/
def runEvent (s : State) (e : Event) : Host.Outcome State Fault Refusal :=
  match preciseFirst s e with
  | some s => .next s
  | none => match exec e.row { s with cur := .event e, faulted := 0, early := [], seen := [] } with
    | .next s => .next (settleStops (matchSeen s))
    | .fault r => .fault r
    | .refused r => .refused r

/-- A move that names what happens. A move that cannot happen changes nothing. -/
def runMove (s : State) (m : Move) : Host.Outcome State Fault Refusal :=
  match m with
  | .free => .next s
  | .issue core slot lane => issueGroup s core slot lane
  | .issueStream h n => issueStream s h n
  | .softError core slot scalar word two => .next (strike s core slot scalar word two)
  | .event e => runEvent s e

/-! ### The machine's own moves -/

/-- A state without what belongs to one step or counts draws. -/
def quiet (s : State) : State := { s with cur := .none, faulted := 0, early := [], seen := [], walked := [], picks := [], seq := 0, tick := 0 }

/-- A move that would change something. -/
def moveActs (s : State) (m : Move) : Bool :=
  match runMove s m with
  | .next s' => decide (quiet s' ≠ quiet s)
  | .fault _ | .refused _ => true

/-- The issues that a scheduler may make: a group that waits for a condition issues only once it holds. -/
def ownIssues (s : State) (core sched : Nat) : List Move :=
  let ok := fun (slot : Nat) (c : List Nat) =>
    !yieldHolds s core slot c && match bandOf s (bandKey core slot) with
      | some b => !asleep b c || moveActs s (.issue core slot (c.headD 0))
      | none => false
  match pickSlot s core (readySlots s core sched ok) with
  | none => []
  | some slot => match bandOf s (bandKey core slot) with
    | none => []
    | some b => (pickable b ((readyGroups s core slot).filter (ok slot))).map fun c => .issue core slot (c.headD 0)

/-- The stream that a sequencer takes: the lowest-numbered ready one after the last (R39). -/
def ownStream (s : State) (h : Nat) : List Move :=
  let order := (List.range Config.streams).map fun i => ((hingeOf s h).lastStream + 1 + i) % Config.streams
  ((order.find? (streamReady s h)).map (Move.issueStream h)).toList

def bandEvents (s : State) : List Event :=
  s.bands.flatMap fun b =>
    let core := b.1 / Config.slotsPerCore
    let slot := b.1 % Config.slotsPerCore
    [.vredCompletion core slot, .engineTrapTake core slot, .stopArrival core slot, .stepEnd core slot, .bandRetire core slot]

def coreEvents (s : State) : List Event :=
  s.cores.flatMap fun c =>
    let k := c.1
    [.memorySample k, .scrub k, .knuckleRetry k true, .knuckleRetry k false] ++ (List.range 4).flatMap fun i =>
      [.stallSample k i, .engineCommandStart k i, .indexRowDelivery k i, .embagBagDelivery k i, .commandCompletion k i
       , .pageMove (.command k i), .heldRecordWrite (.channel k i)]

def hingeEvents (s : State) : List Event :=
  (List.range Config.hinges).flatMap fun h =>
    [.teamPlacement h, .quantumExpire h, .heldRecordWrite (.hub h)]
      ++ (List.range Config.streams).map (Event.streamTakeEntry h)
      ++ ((hingeOf s h).collectives.map (·.comm)).eraseDups.map fun c => .collectiveCompletion h c []

def lineEvents (l : Level) (m : AList Copy) : List Event :=
  let lines := (m.map fun e => e.1 / 128 * 128).eraseDups
  (lines.flatMap fun a => [.backgroundWriteback l a false, .backgroundWriteback l a true])
    ++ lines.map fun a => .backgroundDiscard l a

def cacheEvents (s : State) : List Event :=
  (s.cores.flatMap fun c => lineEvents (.l1 c.1) c.2.l1) ++ (s.clusters.flatMap fun c => lineEvents (.cluster c.1) c.2.cache)
    ++ s.hinges.flatMap fun h => lineEvents (.link h.1) h.2.link

def pageEvents (s : State) : List Event :=
  (s.promo.map (·.1) ++ s.remap.map (·.1)).eraseDups.flatMap fun page =>
    (List.range Config.hinges).flatMap fun h => (List.range 32).map (Event.promotionMove h page)

def otherEvents (s : State) : List Event :=
  (List.range s.pending.length).map .accessPerformed ++ (List.range s.matrix.length).map .matrixCompletion
    ++ s.teams.map (fun t => .teamRetire t.1) ++ s.contexts.map (fun c => .tlbInvalidateDone c.1)
    ++ s.triggers.map (fun t => .snapshotLatch t.number.toNat)
    ++ (List.range 16).map .flushWindowEnd ++ (List.range 18).map .portRetrainTimeout
    ++ [.promotionCounterHalve, .attestationReportReady]

/-- What the machine may do of its own accord. DESIGN CHOICE (log 79). DESIGN CHOICE (log 79). -/
def ownMoves (s : State) : List Move :=
  ((s.bands.map fun b => b.1 / Config.slotsPerCore).eraseDups.flatMap fun core =>
      (List.range 4).flatMap (ownIssues s core))
    ++ (List.range Config.hinges).flatMap (ownStream s)
    ++ (bandEvents s ++ coreEvents s ++ hingeEvents s ++ cacheEvents s ++ pageEvents s ++ otherEvents s).map .event

/-- One of the moves that act, by choice (R7); nothing when none does. -/
def freeMove (s : State) : Host.Outcome State Fault Refusal :=
  let ms := (ownMoves s).filter (moveActs s)
  let (i, s) := choose s ms.length
  runMove s (ms.getD i .free)

/-- A move of the agenda: an issue only where the scheduler may pick it (R192, R414), a stream's where it has its turn (R39). -/
def namedMove (s : State) (m : Move) : Host.Outcome State Fault Refusal :=
  match m with
  | .issue core slot lane => if mayPick s core slot lane then issueGroup s core slot lane else .next s
  | .issueStream h n => if (ownStream s h).contains (.issueStream h n) then issueStream s h n else .next s
  | .free | .softError .. | .event _ => runMove s m

/-- The move of a step: the agenda's first, or one of the machine's own. DESIGN CHOICE (log 1).
DESIGN CHOICE (log 1). -/
def nextMove (s : State) : Host.Outcome State Fault Refusal :=
  match s.agenda with
  | [] => freeMove s
  | .free :: rest => freeMove { s with agenda := rest }
  | m :: rest => namedMove { s with agenda := rest } m

/-- What time has brought by the end of a step of `dt` cycles: quanta run out (R415), promotion counters halved (R247), caches held to
their capacity, the waits of bands that are not ready restarted (R414). -/
def settleTime (dt : Nat) (s : State) : State :=
  restWaits dt (settleCaches (halveCounters ((List.range Config.hinges).foldl expireQuantum s)))

/-- What the cycles that have passed bring: snapshots latched where their trigger has arrived (R454), stall samples (R456). -/
def afterTime (s : State) : State :=
  dueSamples ((s.triggers.map (·.number.toNat)).foldl latchTrigger s)

/-- The time of a step passes, and its leftovers go. DESIGN CHOICE (log 10). DESIGN CHOICE (log 10). -/
def tickOver (s : State) : State :=
  let dt := 1 + Config.elapsed s.tick
  let s := settleTime dt s
  afterTime { s with now := s.now + dt, tick := s.tick + 1, cur := .none, faulted := 0, early := [], seen := [], walked := [], picks := [] }

end Sys2Proof.Machine
end

