-- ==== Sys2Proof/Machine/Place.lean ====
section
/-! DEFINITION. A state in which a given instruction runs next. A program comes to run by COLD_RESET, CONTEXT_CREATION, the
driver's writes of memory and registers, STREAM_ENABLE, STREAM_TAKE_ENTRY, LAUNCH and TEAM_PLACEMENT; what these leave behind is
put in place at once: page tables, a team with one band, or a running stream, and the move that issues it. -/

namespace Sys2Proof.Machine

/-- Tables at pages 1 to 3 that map virtual page 0 of context 0 to page 4, present, writable, executable (R222-R224). -/
def placeTables (mem : AList Byte) : AList Byte :=
  let entry := fun (m : AList Byte) (page v : Nat) => writeBytes 0 m (page * 65536) (leBytes 8 v)
  entry (entry (entry mem 1 (2 * 65536 + 1)) 2 (3 * 65536 + 1)) 3 (4 * 65536 + 7)

/-- The address of the instruction at home. -/
def placeHome : Nat := 4 * 65536

/-- Memory and context 0 with an instruction at virtual address 0. -/
def placeCode (s : State) (bs : List Byte) : State :=
  let s := { s with mem := writeBytes 0 (placeTables s.mem) placeHome bs, hot := []
                    remap := aInsert 4 { home := some (0, 4) } s.remap }
  let c := ctxOf s 0
  let s := setHinge s 0 { hingeOf s 0 with memStacks := aErase 0 (hingeOf s 0).memStacks }
  setCtx s 0 { c with ptbase := 65536, dbgctl := 0 }

/-- A TLB without the translations of a context's first group. -/
def withoutFirst (m : List TlbEntry) : List TlbEntry := m.filter fun e => !(e.ctx == 0 && e.group == 0)

/-- A team with one full band at core 0, slot 0, its threads at address 0, that no band of its scheduler comes before (R414). -/
def placeBand (s : State) (bs : List Byte) : State :=
  let s := placeCode s bs
  let tm : Team := {
    ctx := 0, lseq := 0, lpc := 0, team := 0, group := 0, gridIdx := 0, grouped := false, core := 0, index := 0, slots := [0]
    prio := 3, tileCount := 16, slotCount := Config.stashSlots, tumblerCount := 24, pinQuota := Config.pinPool, rows := 256
    code := writeBytes 0 [] placeHome bs }
  let b : Band := { team := 0, idx := 0, n := 256, threads := List.replicate 32 {} }
  let s := setTeam (setBand s 0 b) 0 tm
  let s := setCore s 0 { coreOf s 0 with dead := false, icache := [] }
  let s := setCluster s 0 { clusterOf s 0 with tlb := withoutFirst (clusterOf s 0).tlb }
  let s := setHinge s 0 { hingeOf s 0 with active := some 0, switching := none }
  { s with launches := aErase (launchKey 0 0) s.launches, pending := s.pending.filter fun o => o.issuer != 0
           matrix := s.matrix.filter fun m => m.team != 0, agenda := [.issue 0 0 0] }

/-- A running stream 0 of hinge 0 at address 0, whose turn it is (R39). -/
def placeStream (s : State) (bs : List Byte) : State :=
  let s := placeCode s bs
  let s := setStream s 0 0 { streamOf s 0 0 with ctx := 0, enable := true, priv := true, pc := 0, state := 1, launching := none }
  let s := setHinge s 0 { hingeOf s 0 with tlb := withoutFirst (hingeOf s 0).tlb, lastStream := 15 }
  { s with pending := s.pending.filter fun o => o.issuer != streamIssuer 0 0, agenda := [.issueStream 0 0] }

/-- The state whose next step runs the instruction of these bytes. DESIGN CHOICE (log 3). DESIGN CHOICE (log 3). -/
def placeInstr (s : State) (stream : Bool) (bs : List Byte) : State :=
  if stream then placeStream s bs else placeBand s bs

end Sys2Proof.Machine
end

