-- ==== Sys2Proof/Machine/Step.lean ====
section
/-! DEFINITION. One step: the move at the head of the agenda, or one of the machine's own; and a state whose next step runs a
given instruction. -/

namespace Sys2Proof.Machine

/-- One move of one agent, and the time it takes. DESIGN CHOICE (log 1). DESIGN CHOICE (log 1). -/
def step (s : State) : Host.Outcome State Fault Refusal :=
  match nextMove s with
  | .next s => .next (tickOver s)
  | .fault r => .fault r
  | .refused r => .refused r

/-- `s` with the instruction of a table word where the next step fetches it. DESIGN CHOICE (log 3).
DESIGN CHOICE (log 3). -/
def State.withFetchWord (s : State) (nbits w : Nat) : State := placeInstr s (tableStream w) (tableBytes nbits w)

end Sys2Proof.Machine
end

