-- ==== Sys2Proof/Safety.lean ====
section
/-! DEFINITION. Runs, and the terms of claims: what a step leaves alone, and what it leaves in a thread, a band, a stream. -/

namespace Sys2Proof

open Sys2Proof.Machine

/-- One step to a next state: neither a fault nor a refusal. -/
def Steps (s t : State) : Prop := step s = .next t

/-- A run of `n` steps without a fault or a refusal. -/
def Runs : Nat → State → State → Prop
  | 0, s, t => s = t
  | n + 1, s, t => ∃ u, Steps s u ∧ Runs n u t

/-- A state from which no run stops. -/
def Safe (s : State) : Prop := ∀ n t, Runs n s t → ∃ u, Steps t u

/-! ### What stays as it was -/

/-- A byte at home. -/
def homeByte (s : State) (a : Nat) : Byte := aGet 0 a s.mem

/-- Every part of the state but one band is as it was, memory among it. -/
structure OnlyBand (s t : State) (k : Nat) : Prop where
  rest : t = { s with bands := t.bands }
  bands : ∀ j, j ≠ k → bandOf t j = bandOf s j
  bytes : ∀ a, homeByte t a = homeByte s a

/-- Every part of the state but one stream is as it was, memory among it. -/
structure OnlyStream (s t : State) (h n : Nat) : Prop where
  rest : t = { s with hinges := t.hinges }
  hinges : ∀ j, j ≠ h → hingeOf t j = hingeOf s j
  hinge : hingeOf t h = { hingeOf s h with streams := (hingeOf t h).streams }
  streams : ∀ j, j ≠ n → streamOf t h j = streamOf s h j
  bytes : ∀ a, homeByte t a = homeByte s a

/-- A thread that goes on to an address, nothing else of it changed. -/
def moved (t : Thread) (pc : DWord) : Thread := { t with pc := pc, wait := .ready }

/-- Threads of a band outside an issue group are as they were, and threads of the group with a false guard have gone on to the
next instruction (R47). -/
structure Bystanders (g : Grp) (b' : Band) : Prop where
  size : b'.threads.length = g.band.threads.length
  outside : ∀ l, l ∉ g.lanes → threadOf b' l = threadOf g.band l
  idle : ∀ l, l < g.band.threads.length → l ∈ g.lanes → l ∉ g.live →
    threadOf b' l = moved (threadOf g.band l) g.next

/-- An instruction that acts per thread completes: each thread with a true guard is left as `P` says, and nothing but the
threads of the group changes. -/
def EachThread (i : Instr) (s : State) (g : Grp) (P : Nat → Thread → Thread → Prop) : Prop :=
  ∃ t b', exec i s = .next t ∧ OnlyBand s t g.key ∧ bandOf t g.key = some b' ∧
    b' = { g.band with threads := b'.threads } ∧ Bystanders g b' ∧
    ∀ l, l < g.band.threads.length → l ∈ g.live → P l (threadOf g.band l) (threadOf b' l)

/-- The same for an instruction that rounds: the band's rounding state is what `st` says, all else of the band as it was. -/
def EachRounding (i : Instr) (s : State) (g : Grp) (st : DWord) (P : Nat → Thread → Thread → Prop) : Prop :=
  ∃ t b', exec i s = .next t ∧ OnlyBand s t g.key ∧ bandOf t g.key = some b' ∧
    b' = { g.band with threads := b'.threads, srstate := st } ∧ Bystanders g b' ∧
    ∀ l, l < g.band.threads.length → l ∈ g.live → P l (threadOf g.band l) (threadOf b' l)

/-- A thread has gone on to `pc` with `bits` in vector register `d`, or in the pair at `d` for 64 bits; nothing else of it has
changed. -/
structure PutsV (pc : DWord) (d w : Nat) (bits : DWord) (t t' : Thread) : Prop where
  frame : t' = { moved t pc with vregs := t'.vregs }
  value : if w = 64 then rdV64 t' d = bits else rdV t' d = bits.setWidth 32
  others : ∀ r, r ≠ d → (w = 64 → r ≠ d + 1) → rdV t' r = rdV t r

/-- The same, with conditions joined to FSTAT. -/
structure PutsF (pc : DWord) (d w : Nat) (bits : DWord) (flags : FlagBits) (t t' : Thread) : Prop where
  frame : t' = { moved t pc with vregs := t'.vregs, fstat := t.fstat ||| flags }
  value : if w = 64 then rdV64 t' d = bits else rdV t' d = bits.setWidth 32
  others : ∀ r, r ≠ d → (w = 64 → r ≠ d + 1) → rdV t' r = rdV t r

/-- A thread has gone on to `pc` with `v` in predicate `d`; p15 takes no write. -/
structure PutsP (pc : DWord) (d : Nat) (v : Bool) (t t' : Thread) : Prop where
  frame : t' = { moved t pc with preds := t'.preds }
  value : d < 15 → rdP t' d = v
  others : ∀ r, r ≠ d → rdP t' r = rdP t r

/-- A band has `v` in scalar register `d`; a register at or above the count takes no write and reads zero (R97). -/
structure PutsS (d : Nat) (v : DWord) (b b' : Band) : Prop where
  value : rdS b' d = if d < b.sregCount then v else 0
  others : ∀ r, r ≠ d → rdS b' r = rdS b r

/-- An instruction that acts once per group completes and writes scalar register `d`; every thread of the group goes on. -/
def OnceScalar (i : Instr) (s : State) (g : Grp) (d : Nat) (v : DWord) : Prop :=
  ∃ t b', exec i s = .next t ∧ OnlyBand s t g.key ∧ bandOf t g.key = some b' ∧
    b' = { g.band with threads := b'.threads, sregs := b'.sregs, sEcc := b'.sEcc } ∧ Bystanders g b' ∧
    PutsS d v g.band b' ∧
    ∀ l, l < g.band.threads.length → l ∈ g.live → threadOf b' l = moved (threadOf g.band l) g.next

/-- An instruction of a stream with a true guard completes and writes scalar register `d` of the stream. -/
def StreamScalar (i : Instr) (s : State) (g : Strm) (d : Nat) (v : DWord) : Prop :=
  ∃ t x, exec i s = .next t ∧ OnlyStream s t g.hinge g.num ∧ streamOf t g.hinge g.num = x ∧
    x = { g.rcd with pc := g.next, state := 1, sregs := x.sregs } ∧
    rdStream x d = v ∧ ∀ r, r ≠ d → rdStream x r = rdStream g.rcd r

end Sys2Proof
end

