-- ==== Sys2Proof/Certificates/Slice0/Obligations.lean ====
section
/-! DEFINITION. The statements for the provers: what the instructions and the machine do, by the numbered rules of spec/. -/

namespace Sys2Proof.Claims

open Sys2Proof.Machine

/-! ### The results of the integer instructions, as the rules give them

Values are exact integers; a type's width and signedness decide how operands are read and how the result is written. -/

/-- The value of the low bits of `x` in an integer type (R100, R101). -/
def valueOf (ty : IntTy) (x : Nat) : Int :=
  if intSigned ty then (x : Int).bmod (2 ^ intWidth ty) else (x : Int) % 2 ^ intWidth ty

/-- `r` mod 2^w as a register of 64 bits holds it: sign-extended for .i types, zero-extended for .n types. -/
def asReg (ty : IntTy) (r : Int) : DWord :=
  BitVec.ofInt 64 (if intSigned ty then r.bmod (2 ^ intWidth ty) else r % 2 ^ intWidth ty)

/-- Quotient of R109. -/
def quotient (ty : IntTy) (a b : Int) : Int :=
  if b = 0 then (if intSigned ty then -1 else 2 ^ intWidth ty - 1)
  else if intSigned ty ∧ a = -2 ^ (intWidth ty - 1) ∧ b = -1 then a
  else a.tdiv b

/-- Remainder of R109. -/
def remainder (ty : IntTy) (a b : Int) : Int :=
  if b = 0 then a
  else if intSigned ty ∧ a = -2 ^ (intWidth ty - 1) ∧ b = -1 then 0
  else a - b * a.tdiv b

/-- The nearest value of the type (R121). -/
def saturated (ty : IntTy) (r : Int) : Int :=
  if intSigned ty then max (-2 ^ (intWidth ty - 1)) (min r (2 ^ (intWidth ty - 1) - 1))
  else max 0 (min r (2 ^ intWidth ty - 1))

/-- The exact result of a two-operand integer operation on patterns of the type's width (R108-R110, R121, R122). -/
def exactResult (op : AluOp) (ty : IntTy) (a b : Nat) : Int :=
  match op with
  | .add => valueOf ty a + valueOf ty b
  | .sub => valueOf ty a - valueOf ty b
  | .mul => valueOf ty a * valueOf ty b
  | .mulh => valueOf ty a * valueOf ty b / 2 ^ intWidth ty
  | .and => (a &&& b : Nat)
  | .or => (a ||| b : Nat)
  | .xor => (a ^^^ b : Nat)
  | .andn => (a &&& (b ^^^ (2 ^ intWidth ty - 1)) : Nat)
  | .min => min (valueOf ty a) (valueOf ty b)
  | .max => max (valueOf ty a) (valueOf ty b)
  | .shl => (if intWidth ty ≤ b then 0 else (a <<< b) % 2 ^ intWidth ty : Nat)
  | .shr => (if intWidth ty ≤ b then 0 else a >>> b : Nat)
  | .sar => (a : Int).bmod (2 ^ intWidth ty) / 2 ^ min b (intWidth ty - 1)
  | .rot => ((a >>> (b % intWidth ty)) ||| (a <<< (intWidth ty - b % intWidth ty)) % 2 ^ intWidth ty : Nat)
  | .div => quotient ty (valueOf ty a) (valueOf ty b)
  | .rem => remainder ty (valueOf ty a) (valueOf ty b)
  | .adds => saturated ty (valueOf ty a + valueOf ty b)
  | .subs => saturated ty (valueOf ty a - valueOf ty b)

/-- The low bits of a register of 64 bits. -/
def low (ty : IntTy) (v : DWord) : Nat := v.toNat % 2 ^ intWidth ty

/-- IMM32 as a pattern of a type (R54): extended by the type's signedness, or cut to its width. -/
def immPattern (ty : IntTy) (v : Word) : Nat :=
  (if intSigned ty then v.signExtend 64 else v.setWidth 64).toNat % 2 ^ intWidth ty

/-- The B operand of the scalar class as a pattern. -/
def scalarB (rd : Nat → DWord) (ty : IntTy) : SSrc → Nat
  | .reg r => low ty (rd r.val)
  | .imm v => immPattern ty v
  | .lit v => low ty v

def scalarRegImm (rd : Nat → DWord) (ty : IntTy) : RegImm → Nat
  | .reg r => low ty (rd r.val)
  | .imm v => immPattern ty v

/-- The two-operand scalar instructions and their operations: compact forms, of type .i64 with B a register (R54), and full
forms. -/
def scalarCompact : List ((C3 → Instr) × AluOp) :=
  [(.saddC, .add), (.ssubC, .sub), (.smulC, .mul), (.smulhC, .mulh), (.sdivC, .div), (.sremC, .rem), (.sandC, .and), (.sorC, .or),
   (.sxorC, .xor), (.sandnC, .andn), (.sshlC, .shl), (.sshrC, .shr), (.ssarC, .sar), (.srotC, .rot), (.sminC, .min),
   (.smaxC, .max)]
def scalarFull : List ((SOp2 → Instr) × AluOp) :=
  [(.sadd, .add), (.ssub, .sub), (.smul, .mul), (.smulh, .mulh), (.sdiv, .div), (.srem, .rem), (.sand, .and), (.sor, .or),
   (.sxor, .xor), (.sandn, .andn), (.sshl, .shl), (.sshr, .shr), (.ssar, .sar), (.srot, .rot), (.smin, .min), (.smax, .max)]

/-- The value that a two-operand scalar instruction writes, from the scalar registers. -/
def scalarResult (op : AluOp) (o : SOp2) (rd : Nat → DWord) : DWord :=
  asReg o.ty (exactResult op o.ty (low o.ty (rd o.a.val)) (scalarB rd o.ty o.b))
def compactResult (op : AluOp) (o : C3) (rd : Nat → DWord) : DWord :=
  asReg .i64 (exactResult op .i64 (rd o.a.val).toNat (rd o.b.val).toNat)

/-- Ones, zeros above the highest one, zeros below the lowest one among `w` bits (R115). -/
def onesIn (w x : Nat) : Nat := ((List.range w).filter fun i => x.testBit i).length
def zerosAbove (w x : Nat) : Nat := ((List.range w).takeWhile fun i => !x.testBit (w - 1 - i)).length
def zerosBelow (w x : Nat) : Nat := ((List.range w).takeWhile fun i => !x.testBit i).length

/-- Whether a comparison holds on patterns of a type (R112, R128). -/
def condTrue (c : Cond) (ty : IntTy) (a b : Nat) : Bool :=
  match c with
  | .eq => decide (valueOf ty a = valueOf ty b)
  | .ne => decide (valueOf ty a ≠ valueOf ty b)
  | .lt => decide (valueOf ty a < valueOf ty b)
  | .le => decide (valueOf ty a ≤ valueOf ty b)
  | .gt => decide (valueOf ty a > valueOf ty b)
  | .ge => decide (valueOf ty a ≥ valueOf ty b)
  | .tst => decide (a &&& b ≠ 0)
  | .ntst => decide (a &&& b = 0)

/-- The width of a bit field as it is used; 0 when the field is empty (R117). -/
def fieldWidth (ty : IntTy) (pos width : Nat) : Nat :=
  if width = 0 ∨ intWidth ty ≤ pos then 0 else min width (intWidth ty - pos)

/-- The bits of a field in place. -/
def fieldMask (ty : IntTy) (pos width : Nat) : Nat := (2 ^ fieldWidth ty pos width - 1) <<< pos

/-- The field of `x`, read by the type's signedness (R117). -/
def extracted (ty : IntTy) (x pos width : Nat) : Int :=
  let r := (x &&& fieldMask ty pos width) >>> pos
  if intSigned ty ∧ fieldWidth ty pos width ≠ 0 ∧ r.testBit (fieldWidth ty pos width - 1)
  then (r : Int) - 2 ^ fieldWidth ty pos width else r

/-- `y` with its field taken from `x` (R117). -/
def inserted (ty : IntTy) (x y pos width : Nat) : Int :=
  ((y &&& (fieldMask ty pos width ^^^ (2 ^ intWidth ty - 1))) ||| ((x <<< pos) &&& fieldMask ty pos width) : Nat)

/-- Position and width of a scalar bit field (R116). -/
def scalarField (rd : Nat → DWord) : SField → Nat × Nat
  | .imm p w => (p.toNat, w.toNat)
  | .reg b c => ((rd b.val).toNat % 256, (rd c.val).toNat % 256)

/-- A property `P i d f` of each of the other scalar instructions `i`, its destination `d` and the value `f` that it writes, from
the scalar registers (R112, R114, R115, R117, R119). -/
def ScalarOthers (P : Instr → Nat → ((Nat → DWord) → DWord) → Prop) : Prop :=
  (∀ o, P (.scmp o) o.d.val fun rd =>
    if condTrue o.cond o.ty (low o.ty (rd o.a.val)) (scalarRegImm rd o.ty o.b) then 1 else 0) ∧
  (∀ o, P (.ssel o) o.d.val fun rd =>
    asReg o.ty (if rd o.c.val ≠ 0 then low o.ty (rd o.a.val) else scalarRegImm rd o.ty o.b : Nat)) ∧
  (∀ o, P (.smovC o) o.d.val fun rd => rd o.a.val) ∧
  (∀ o, P (.smov o) o.d.val fun rd => asReg o.ty (low o.ty (rd o.a.val) : Nat)) ∧
  (∀ o, P (.sli o) o.d.val fun _ => match o.v with | .imm v => asReg o.ty (immPattern o.ty v : Nat) | .lit v => v) ∧
  (∀ o, P (.slea o) o.d.val fun rd =>
    rd o.a.val + asReg o.ty (low o.ty (rd o.b.val) : Nat) <<< o.shift.val + o.off.signExtend 64) ∧
  (∀ o, P (.spopcC o) o.d.val fun rd => BitVec.ofNat 64 (onesIn 64 (rd o.a.val).toNat)) ∧
  (∀ o, P (.spopc o) o.d.val fun rd => BitVec.ofNat 64 (onesIn (intWidth o.ty) (rd o.a.val).toNat)) ∧
  (∀ o, P (.sclzC o) o.d.val fun rd => BitVec.ofNat 64 (zerosAbove 64 (rd o.a.val).toNat)) ∧
  (∀ o, P (.sclz o) o.d.val fun rd => BitVec.ofNat 64 (zerosAbove (intWidth o.ty) (rd o.a.val).toNat)) ∧
  (∀ o, P (.sctzC o) o.d.val fun rd => BitVec.ofNat 64 (zerosBelow 64 (rd o.a.val).toNat)) ∧
  (∀ o, P (.sctz o) o.d.val fun rd => BitVec.ofNat 64 (zerosBelow (intWidth o.ty) (rd o.a.val).toNat)) ∧
  (∀ o, P (.sbfx o) o.d.val fun rd =>
    asReg o.ty (extracted o.ty (low o.ty (rd o.a.val)) (scalarField rd o.fld).1 (scalarField rd o.fld).2)) ∧
  (∀ o, P (.sbfi o) o.d.val fun rd =>
    asReg o.ty (inserted o.ty (low o.ty (rd o.a.val)) (low o.ty (rd o.d.val)) (scalarField rd o.fld).1 (scalarField rd o.fld).2))

/-! ### Vector integers -/

/-- A vector register, or pair, as a pattern of a type. -/
def lanePattern (ty : IntTy) (t : Thread) (r : Nat) : Nat :=
  if intWidth ty = 64 then (rdV64 t r).toNat else (rdV t r).toNat % 2 ^ intWidth ty

/-- The B operand of a vector instruction in a lane (R101). -/
def laneB (b : Band) (t : Thread) (ty : IntTy) : VSrc → Nat
  | .vec r => lanePattern ty t r.val
  | .sca r => low ty (rdS b r.val)
  | .imm v => immPattern ty v
  | .lit v => low ty v

/-- The vector registers that a B operand names. -/
def namedB : VSrc → List Nat
  | .vec r => [r.val]
  | _ => []

def namedField : VField → List Nat
  | .imm _ _ => []
  | .regV b c => [b.val, c.val]
  | .regS _ c => [c.val]

/-- Position and width of a vector bit field in a lane (R130). -/
def laneField (b : Band) (t : Thread) : VField → Nat × Nat
  | .imm p w => (p.toNat, w.toNat)
  | .regV x c => ((rdV t x.val).toNat % 256, (rdV t c.val).toNat % 256)
  | .regS x c => ((rdS b x.val).toNat % 256, (rdV t c.val).toNat % 256)

/-- A vector instruction whose registers the band has completes: in each thread with a true guard it writes `value` (of the
band, the home lane and the thread) to vd as a value of `ty`; threads with a false guard keep vd and go on. -/
def LaneWrites (i : Instr) (regs : List Nat) (ty : IntTy) (d : Nat) (value : Band → Nat → Thread → Int) : Prop :=
  ∀ (s : State) (g : Grp), grpOf s = some g → (∀ r ∈ regs, r < g.band.n) →
    EachThread i s g fun l t t' => PutsV g.next d (intWidth ty) (asReg ty (value g.band l t)) t t'

/-- The two-operand vector integer instructions and their operations (R120-R122). -/
def vectorCompact : List ((C3 → Instr) × AluOp) :=
  [(.vaddC, .add), (.vsubC, .sub), (.vmulC, .mul), (.vmulhC, .mulh), (.vandC, .and), (.vorC, .or), (.vxorC, .xor),
   (.vandnC, .andn), (.vshlC, .shl), (.vshrC, .shr), (.vsarC, .sar), (.vminC, .min), (.vmaxC, .max), (.vaddsC, .adds),
   (.vsubsC, .subs)]
def vectorFull : List ((VOp2 → Instr) × AluOp) :=
  [(.vadd, .add), (.vsub, .sub), (.vmul, .mul), (.vmulh, .mulh), (.vand, .and), (.vor, .or), (.vxor, .xor), (.vandn, .andn),
   (.vshl, .shl), (.vshr, .shr), (.vsar, .sar), (.vmin, .min), (.vmax, .max), (.vadds, .adds), (.vsubs, .subs)]

/-- The type of twice the width (R124). -/
def widerTy : IntTy → IntTy
  | .i8 => .i16 | .i16 => .i32 | .i32 | .i64 => .i64
  | .n8 => .n16 | .n16 => .n32 | .n32 | .n64 => .n64

/-- Byte `j` of a word by a signedness. -/
def byteValue (signed : Bool) (x j : Nat) : Int :=
  valueOf (if signed then .i8 else .n8) (x >>> (8 * j) % 256)

/-! ### Vector floats -/

/-- The rounding mode of an instruction: its field, or FCTL.RM (R137). -/
def roundingMode (b : Band) : Rnd → Mode
  | .rne => .rne
  | .rtz => .rtz
  | .rup => .rup
  | .rdn => .rdn
  | .sr => .sr
  | .dyn => if b.rm = 1 then .rtz else if b.rm = 2 then .rup else if b.rm = 3 then .rdn else if b.rm = 4 then .sr else .rne

/-- SRSTATE after an instruction of a group that rounds: SRAdvance once when the mode is .sr and a thread acts (R87). -/
def srAfter (g : Grp) (rnd : Rnd) : DWord :=
  if roundingMode g.band rnd = .sr ∧ g.live ≠ [] then g.band.srstate * 0x5851F42D4C957F2D + 0x14057B7EF767814F
  else g.band.srstate

/-- SRBits(lane, j) of R87, from the advanced state. -/
def randomBits (g : Grp) (rnd : Rnd) (lane j : Nat) : Nat := mix64 ((srAfter g rnd).toNat ^^^ (lane <<< 8) ^^^ j) >>> 32

/-- Bits of a float operand: the register, its low half, or the pair. -/
def laneFlt (ty : FTy) (t : Thread) (r : Nat) : Nat :=
  match ty with
  | .f64 => (rdV64 t r).toNat
  | .f16 | .bf16 => (rdV t r).toNat % 65536
  | .f32 | .f16x2 | .bf16x2 => (rdV t r).toNat

/-- An .f32 pattern as an .f64 pattern (R54): the same value; a NaN keeps its sign, its payload at the top and whether it is
signalling, which is the model's choice (log 98). -/
def widened (v : Nat) : Nat :=
  if (decodeFmt fmtF32 v).isNan then v / 2 ^ 31 % 2 * 2 ^ 63 + 2047 * 2 ^ 52 + v % 2 ^ 23 * 2 ^ 29
  else (roundToFormat (decodeFmt fmtF32 v) fmtF64 .rne false 0).1

/-- The B operand of the float class (R54, R138). -/
def laneFltB (b : Band) (ty : FTy) (t : Thread) : VSrc → Nat
  | .vec r => laneFlt ty t r.val
  | .sca r => (rdS b r.val).toNat % 2 ^ fltWidth ty
  | .imm v => if ty = .f64 then widened v.toNat else v.toNat % 2 ^ fltWidth ty
  | .lit v => v.toNat % 2 ^ fltWidth ty

/-- Element `j` of an operand, decoded (R138). -/
def element (ty : FTy) (bits j : Nat) : Val :=
  decodeFmt (fmtOf ty) (if ty = .f16x2 ∨ ty = .bf16x2 then bits / 65536 ^ j % 65536 else bits)

/-- The elements' results side by side and their conditions together (R138). -/
def elements (ty : FTy) (f : Nat → Nat × Flags) : DWord × Flags :=
  if ty = .f16x2 ∨ ty = .bf16x2 then (BitVec.ofNat 64 ((f 0).1 % 65536 + 65536 * (f 1).1), (f 0).2 ||| (f 1).2)
  else (BitVec.ofNat 64 (f 0).1, (f 0).2)

/-- RoundToFormat of an exact result, its conditions joined to those of the operation (R140). -/
def rounded (ty : FTy) (mode : Mode) (sr : Nat) (x : Val × Flags) : Nat × Flags :=
  ((roundToFormat x.1 (fmtOf ty) mode false sr).1, x.2 ||| (roundToFormat x.1 (fmtOf ty) mode false sr).2)

/-- A vector instruction that rounds, whose registers the band has, completes: each thread with a true guard writes the bits of
`res` (of the mode, the group, the home lane and the thread) to vd and joins its conditions to FSTAT; SRSTATE advances as R87
says. -/
def LaneRounds (i : Instr) (regs : List Nat) (rnd : Rnd) (w d : Nat) (res : Mode → Grp → Nat → Thread → DWord × Flags) : Prop :=
  ∀ (s : State) (g : Grp), grpOf s = some g → (∀ r ∈ regs, r < g.band.n) →
    EachRounding i s g (srAfter g rnd) fun l t t' =>
      let r := res (roundingMode g.band rnd) g l t
      PutsF g.next d w r.1 r.2 t t'

/-- The rounded two-operand instructions: VFADD, VFSUB, VFMUL (R147) and VFDIV (R151). -/
def floatFull : List ((FOp2 → Instr) × (Mode → Val → Val → Val × Flags)) :=
  [(.vfadd, fAdd), (.vfsub, fSub), (.vfmul, fun _ => fMul), (.vfdiv, fun _ => fDiv)]
def floatCompact : List ((C3 → Instr) × (Mode → Val → Val → Val × Flags)) :=
  [(.vfaddC, fAdd), (.vfsubC, fSub), (.vfmulC, fun _ => fMul), (.vfdivC, fun _ => fDiv)]

/-- The rounded one-operand instructions: VFSQRT (R151) and the approximate functions (R163), an element's result from the mode,
the random bits and the operand. -/
def unaryFull : List ((FOp1 → Instr) × (FTy → Mode → Nat → Val → Nat × Flags)) :=
  [(.vfsqrt, fun ty mode sr a => rounded ty mode sr (fSqrt a)), (.vfrcp, approxTo .rcp), (.vfrsq, approxTo .rsq),
   (.vfexp2, approxTo .exp2), (.vflog2, approxTo .log2), (.vfsin, approxTo .sin), (.vfcos, approxTo .cos), (.vftanh, approxTo .tanh)]
def unaryCompact : List ((C2 → Instr) × (FTy → Mode → Nat → Val → Nat × Flags)) :=
  [(.vfsqrtC, fun ty mode sr a => rounded ty mode sr (fSqrt a)), (.vfrcpC, approxTo .rcp), (.vfrsqC, approxTo .rsq),
   (.vfexp2C, approxTo .exp2), (.vflog2C, approxTo .log2), (.vfsinC, approxTo .sin), (.vfcosC, approxTo .cos),
   (.vftanhC, approxTo .tanh)]

/-- A vector instruction that neither rounds nor writes a register of integers: as `LaneWrites`, with its bits and conditions. -/
def LaneFloats (i : Instr) (regs : List Nat) (w d : Nat) (res : Band → Thread → DWord × Flags) : Prop :=
  ∀ (s : State) (g : Grp), grpOf s = some g → (∀ r ∈ regs, r < g.band.n) →
    EachThread i s g fun _ t t' => PutsF g.next d w (res g.band t).1 (res g.band t).2 t t'

/-- Minimum or maximum of one element of each operand (R153). -/
def extremum (ty : FTy) (isMax nan : Bool) (a b : Nat) : DWord × Flags :=
  elements ty fun j => fMinMax (fmtOf ty) isMax nan (elemOf ty j a) (elemOf ty j b)

/-- The class mask of R159. -/
def classMask (ty : FTy) (a : Nat) : DWord × Flags :=
  (((elements ty fun j => (2 ^ fClass (fmtOf ty) (element ty a j), 0)).1), 0)

/-! ### Conversions -/

/-- Bits of an operand of any type (R76). -/
def laneTy (ty : Ty) (t : Thread) (r : Nat) : Nat :=
  if tyBytes ty = 8 then (rdV64 t r).toNat else (rdV t r).toNat % 2 ^ (8 * tyBytes ty)

/-- One conversion: integer to integer by IntNarrow, to an integer by RoundToInteger, else by RoundToFormat (R86, R88). -/
def converted (dty sty : Ty) (mode : Mode) (sat : Bool) (sr bits : Nat) : Nat × Flags :=
  match dty, sty with
  | .int i, .int k => (intNarrow (valueOf k bits) i sat, 0)
  | .int i, _ => roundToInteger (decodeTy sty bits) i mode sat sr
  | .flt f, _ => roundToFormat (decodeTy sty bits) (fmtOf f) mode sat sr
  | .b8 f, _ => roundToFormat (decodeTy sty bits) (fmtB8 f) mode sat sr

/-- A result of a type as a register holds it (R76). -/
def extended (ty : Ty) (bits : Nat) : DWord :=
  match ty with
  | .int i => asReg i bits
  | _ => BitVec.ofNat 64 bits

/-! ### Lanes -/

/-- What VSHFL and VBCST move: the source lane's register when that lane is in P, else the fill register, else the lane's own. -/
def taken (g : Grp) (wide : Bool) (a : Nat) (c : Option (Fin 256)) (src : Option Nat) (t : Thread) : DWord :=
  let read := fun (t : Thread) (r : Nat) => if wide then rdV64 t r else (rdV t r).setWidth 64
  match src, c with
  | some l, some r => if l ∈ g.live then read (threadOf g.band l) a else read t r.val
  | some l, none => if l ∈ g.live then read (threadOf g.band l) a else read t a
  | none, some r => read t r.val
  | none, none => read t a

/-- The source lane of VSHFL, when it lies inside the segment of the lane (R169). -/
def shuffleFrom (mode : ShflMode) (seg lane b : Nat) : Option Nat :=
  let base := lane - lane % seg
  let off := lane % seg
  let src : Int := match mode with
    | .idx => base + b % seg
    | .xor => base + (off ^^^ (b % 32) : Nat)
    | .up => base + off - b
    | .down => base + off + b
  if base ≤ src ∧ src < base + seg then some src.toNat else none

def namedFill : Option (Fin 256) → List Nat
  | some c => [c.val]
  | none => []

/-- The home lanes of a group are lanes of the band, in rising order. -/
def Placed (g : Grp) : Prop := g.lanes.Pairwise (· < ·) ∧ g.band.threads.length = 32 ∧ ∀ l ∈ g.lanes, l < 32

/-- The bits of a scan or reduction operand. -/
def laneRed (ty : RedTy) (t : Thread) (r : Nat) : Nat :=
  match ty with
  | .i64 | .n64 | .f64 => (rdV64 t r).toNat
  | .i32 | .n32 | .f32 => (rdV t r).toNat

/-- The fold of R177 over operands in lane order: the first enters alone, each later one by Combine. -/
def folded (op : RedOp) (ty : RedTy) : List Nat → Option Nat
  | [] => none
  | x :: xs => some (xs.foldl (fun a b => (combine op ty a b).1) (canonRed ty x).1)

/-- What VSCAN gives a lane of P, and the conditions of its step (R177). -/
def scanned (o : Scan) (g : Grp) (lane : Nat) : Nat × Flags :=
  let seg := 32 / 2 ^ o.seg.val
  let x := fun l => laneRed o.ty (threadOf g.band l) o.a.val
  let before := folded o.op o.ty ((g.live.filter fun l => l / seg = lane / seg ∧ l < lane).map x)
  let step := match before with
    | some acc => combine o.op o.ty acc (x lane)
    | none => canonRed o.ty (x lane)
  (if o.excl then before.getD (identRed o.op o.ty) else step.1, step.2)

/-- A node of the tree of R184. -/
def treeNode (op : RedOp) (ty : RedTy) : Option Nat → Option Nat → Option Nat
  | some a, some b => some (combine op ty a b).1
  | some a, none => some (canonRed ty a).1
  | none, some b => some (canonRed ty b).1
  | none, none => none

/-- The tree of R184 over the 2^n lanes from `l` up. -/
def treeOver (op : RedOp) (ty : RedTy) (x : Nat → Option Nat) : Nat → Nat → Option Nat
  | 0, l => x l
  | n + 1, l => treeNode op ty (treeOver op ty x n l) (treeOver op ty x n (l + 2 ^ n))

/-- VALUE's layout of a result (R184). -/
def inValue (ty : RedTy) (v : Nat) : DWord :=
  match ty with
  | .i32 => BitVec.ofInt 64 ((v : Int).bmod (2 ^ 32))
  | _ => BitVec.ofNat 64 v

/-- VALUE of a band partial (R184). -/
def partialValue (o : Red) (g : Grp) : DWord :=
  let x := fun l => if l ∈ g.live then some (laneRed o.ty (threadOf g.band l) o.a.val) else none
  inValue o.ty ((treeOver o.op o.ty x 5 0).getD 0)

/-- The bits of a type. -/
def redBits : RedTy → Nat
  | .i64 | .n64 | .f64 => 64
  | .i32 | .n32 | .f32 => 32

/-- The value of a closed round (R185): its partials, in some order, joined by Combine. A partial of a narrower type is read in VALUE's
layout (log 92); the order is the model's free choice (log 82). -/
def RoundValue (op : RedOp) (ty : RedTy) (parts : List DWord) (v : DWord) : Prop :=
  ∃ y ys, (y :: ys).Perm (parts.map fun p => p.toNat % 2 ^ redBits ty) ∧
    v = inValue ty (ys.foldl (fun a b => (combine op ty a b).1) y)

/-- The executions of a band that have contributed to a round have its value and conditions. -/
def valued (rn : Bool × Nat) (v : DWord) (fl : FlagBits) (xs : List VredExec) : List VredExec :=
  xs.map fun x => if x.round = some rn ∧ x.value = none then { x with value := some v, flags := x.flags ||| fl } else x

/-! ### Control flow -/

/-- An address that a program counter can hold: inside the 55-bit space, a multiple of 4 (R48, R198). -/
def Reachable (a : DWord) : Prop := a.toNat < 2 ^ 55 ∧ a.toNat % 4 = 0

/-- The target of a direct branch (R198). -/
def targetOf (addr : DWord) (off : Word) : DWord := addr + off.signExtend 64

/-- The register that BRX and CALLX take their target from, on a core. -/
def laneBase (b : Band) (t : Thread) : BrBase → DWord
  | .sca r => rdS b r.val
  | .vec r => rdV64 t r.val

def namedBase : BrBase → List Nat
  | .sca _ => []
  | .vec r => [r.val]

/-- A thread at a new address with, for a call, the link in a register pair. -/
def Jumped (pc : DWord) (link : Option (Nat × DWord)) (t t' : Thread) : Prop :=
  match link with
  | none => t' = moved t pc
  | some (d, v) => PutsV pc d 64 v t t'

/-- A jump on a core whose targets are all reachable: each thread with a true guard is at its target. -/
def LaneJumps (i : Instr) (regs : List Nat) (target : Grp → Thread → DWord) (link : Grp → Option (Nat × DWord)) : Prop :=
  ∀ (s : State) (g : Grp), grpOf s = some g → (∀ r ∈ regs, r < g.band.n) →
    (∀ l ∈ g.live, Reachable (target g (threadOf g.band l))) →
    EachThread i s g fun _ t t' => Jumped (target g t) (link g) t t'

/-- The address after a jump instruction, 12 bytes long. -/
def linkAfter (d : Nat) (g : Grp) : Option (Nat × DWord) := some (d, g.next)

/-- A jump on a stream whose target is reachable: the stream is at its target, with the link of a call in a scalar register. -/
def StreamJumps (i : Instr) (target : Strm → DWord) (link : Option Nat) : Prop :=
  ∀ (s : State) (g : Strm), strmOf s = some g → g.live = true → Reachable (target g) →
    ∃ t x, exec i s = .next t ∧ OnlyStream s t g.hinge g.num ∧ streamOf t g.hinge g.num = x ∧
      x = { g.rcd with pc := target g, state := 1, sregs := x.sregs } ∧
      (∀ d, link = some d → rdStream x d = g.next) ∧ ∀ r, link ≠ some r → rdStream x r = rdStream g.rcd r

/-- A thread of lane `l` that runs: it keeps an entry whose mask holds it on the stack (R203, R211). -/
def Awake (b : Band) (l : Nat) : Prop :=
  l < 32 ∧ (threadOf b l).exited = false ∧ ∀ n e, (threadOf b l).wait ≠ .join n e

/-- The split entry waits for a thread of lane `l`. -/
def WaitsFor (e : SplitEntry) (l : Nat) : Prop := e.mask.getLsbD l = true ∧ e.arrived.getLsbD l = false

/-- The lanes as a mask. -/
def MaskOf (m : Word) (ls : List Nat) : Prop := ∀ l, l < 32 → (m.getLsbD l = true ↔ l ∈ ls)

/-- A band that an instruction of the split stack may act on without its spill area: nothing spilled, no reload outstanding. -/
def NoSpill (b : Band) : Prop := b.spilled = [] ∧ b.reload = none

/-- What an instruction of the split stack does in the step: a new stack, and the threads of P as `P` says. -/
def SplitStep (i : Instr) (s : State) (g : Grp) (split : List SplitEntry → Prop) (P : Nat → Thread → Thread → Prop) : Prop :=
  ∃ t b', exec i s = .next t ∧ OnlyBand s t g.key ∧ bandOf t g.key = some b' ∧
    b' = { g.band with threads := b'.threads, split := b'.split } ∧ split b'.split ∧ Bystanders g b' ∧
    ∀ l, l < g.band.threads.length → l ∈ g.live → P l (threadOf g.band l) (threadOf b' l)

/-- The address that SWCH sends a thread to (R210). -/
def caseTarget (o : Swch) (addr : DWord) (v : Word) : DWord :=
  match (List.range o.n.val).find? fun i => decide (v.toNat = bitsOf o.cases.toNat (8 * i) 8) with
  | some i => targetOf addr (o.offs.toList.getD i 0)
  | none => targetOf addr o.join

/-- The count of a LOOP (R216). -/
def loopCount (b : Band) : LoopCount → Nat
  | .reg r => (rdS b r.val).toNat % 2 ^ 32
  | .imm v => v.toNat

/-! ### Memory -/

/-- Base, scaled index and offset of a memory operand in a thread, modulo 2^64 (R53). -/
def laneAddress (b : Band) (t : Thread) (m : MemOp) : Nat :=
  let index : DWord := match m.index with
    | some (v, ix) => (rdV t v.val).signExtend 64 <<< ix.val
    | none => 0
  (rdS b m.base.val + index + m.off.signExtend 64).toNat

/-- Base and offset of a scalar memory operand. -/
def baseOffset (v : DWord) (off : Word) : Nat := (v + off.signExtend 64).toNat

/-- The vector registers that a memory operand names. -/
def namedMem (m : MemOp) : List Nat :=
  match m.index with | some (v, _) => [v.val] | none => []

/-- Bytes of an access (R52). -/
def bytesOf : Width → Nat
  | .n8 | .i8 => 1
  | .n16 | .i16 => 2
  | .n32 => 4
  | .n64 => 8

/-- A translation that the TLB does not hold, or holds as the tables give it (R226, R228). -/
def TlbSound (s : State) (id ctx va : Nat) : Prop :=
  ∀ e ∈ tlbOf s id, e.holds ctx va = true → ∃ l, walk s ctx va = .ok l ∧ e.fits va l = true

/-- A translation that needs no choice and no wait: what the TLB holds of the page is as the tables give it, and they stand on stacks in
service (R228, R479). -/
def Walkable (s : State) (id ctx va : Nat) : Prop := TlbSound s id ctx va ∧ walkBusy s ctx va = false

/-- A page that an access of a context finds present: RESIDENT, not LOST, writable for a write, on a stack in service (R225, R248,
R479), as the tables are. -/
structure Present (s : State) (id ctx va : Nat) (write : Bool) (l : Leaf) : Prop where
  space : va < 2 ^ 55
  walks : walkBusy s ctx va = false
  tlb : TlbSound s id ctx va
  leaf : walk s ctx va = .ok l
  resident : l.state = 0
  writable : write = true → l.w = true
  kept : l.sys = false → pageLost s l.ppn = false
  bus : l.sys = true → Config.hostBusError (physOf l va - 2 ^ 48) = false
  idle : stackBusy s (physOf l va) = false

/-- The location of a lane's access of `n` bytes that no check of R253 stops: in the team's stash, or in memory. -/
inductive Locates (s : State) (g : Grp) (tm : Team) (n : Nat) (write : Bool) : (stash : Bool) → Nat → Loc → Prop where
  | stash (off : Nat) : off + n ≤ 1024 * tm.slotCount → off % n = 0 →
      (write = true → (latchOf tm (off / 1024)).engine = false) →
      (∀ code, fillFault s tm off n write code = none) → windowBusy s tm off n = false →
      Locates s g tm n write true off (.stash off)
  | memory (va : Nat) (l : Leaf) : Present s (g.core / 8) tm.ctx va write l → va % n = 0 →
      (∀ line x, l1Find s g.core tm.ctx va = some (line, x) → line = physOf l va / 128) →
      (write = true → ∀ m e w, windowAt s (physOf l va) = some (g.band.team, m, e, w) →
        (latchOf tm (windowOff e w (physOf l va) / 1024)).engine = false) →
      Locates s g tm n write false va (.phys (physOf l va) va)

/-- Clusters and hinges are as they were but for their TLBs and the counters of misses and walks. -/
structure TlbsOnly (s t : State) : Prop where
  clusters : ∀ n, Machine.clusterOf t n = { Machine.clusterOf s n with tlb := (Machine.clusterOf t n).tlb, tlbMisses := (Machine.clusterOf t n).tlbMisses }
  hinges : ∀ n, hingeOf t n = { hingeOf s n with tlb := (hingeOf t n).tlb, walks := (hingeOf t n).walks }

/-- An instruction has issued the operations `ops`: but for them, the band, and what translation leaves in the TLBs, their counters
and the model's list of walks, nothing has changed; no byte and no copy of a byte. -/
structure OnlyIssued (s t : State) (k : Nat) (ops : List PendOp) : Prop where
  rest : t = { s with bands := t.bands, pending := s.pending ++ ops, clusters := t.clusters, hinges := t.hinges, tick := t.tick
                      walked := t.walked }
  bands : ∀ j, j ≠ k → bandOf t j = bandOf s j
  tlbs : TlbsOnly s t
  bytes : ∀ a, homeByte t a = homeByte s a

/-- An instruction that acts per thread completes: each thread with a true guard is left as `P` says, and nothing but the threads of
the group and what translation leaves in the TLBs changes. -/
def EachTranslated (i : Instr) (s : State) (g : Grp) (P : Nat → Thread → Thread → Prop) : Prop :=
  ∃ t b', exec i s = .next t ∧
    t = { s with bands := t.bands, clusters := t.clusters, hinges := t.hinges, tick := t.tick, walked := t.walked } ∧
    (∀ j, j ≠ g.key → bandOf t j = bandOf s j) ∧ TlbsOnly s t ∧ bandOf t g.key = some b' ∧
    b' = { g.band with threads := b'.threads } ∧ Bystanders g b' ∧
    ∀ l, l < g.band.threads.length → l ∈ g.live → P l (threadOf g.band l) (threadOf b' l)

/-- An operation of lanes of a group. -/
def opOf (s : State) (g : Grp) (tm : Team) (lanes : List Nat) (k : PendKind) : PendOp :=
  { agent := .thread g.core g.band.team tm.ctx, issuer := g.key, lanes := lanes, seq := s.seq, pc := g.addr, kind := k }

/-- A memory instruction that acts per thread issues the operations `kinds` of each lane with a true guard, in lane order, and
leaves its thread as `P` says. -/
def IssuesLanes (i : Instr) (s : State) (g : Grp) (tm : Team) (kinds : Nat → List PendKind) (P : Nat → Thread → Thread → Prop) :
    Prop :=
  ∃ t b', exec i s = .next t ∧
    OnlyIssued s t g.key (g.live.flatMap fun l => (kinds l).map (opOf s g tm [l])) ∧ bandOf t g.key = some b' ∧
    b' = { g.band with threads := b'.threads } ∧ Bystanders g b' ∧
    ∀ l, l < g.band.threads.length → l ∈ g.live → P l (threadOf g.band l) (threadOf b' l)

/-- A memory instruction that acts once per group issues one operation of some of the group's lanes, and the group goes on. -/
def IssuesFor (i : Instr) (s : State) (g : Grp) (tm : Team) (lanes : List Nat) (kind : PendKind) : Prop :=
  ∃ t b', exec i s = .next t ∧ OnlyIssued s t g.key [opOf s g tm lanes kind] ∧ bandOf t g.key = some b' ∧
    b' = { g.band with threads := b'.threads } ∧ Bystanders g b' ∧
    ∀ l, l < g.band.threads.length → l ∈ g.live → threadOf b' l = moved (threadOf g.band l) g.next

/-- The operation is of the threads with a true guard. -/
def IssuesOnce (i : Instr) (s : State) (g : Grp) (tm : Team) (kind : PendKind) : Prop := IssuesFor i s g tm g.live kind

/-- Every thread of the group, those with a true guard first. -/
def everyLane (g : Grp) : List Nat := g.live ++ g.lanes.filter fun l => !g.live.contains l

/-- The team of a group, whose threads stand each once in it. -/
def OfTeam (s : State) (g : Grp) (tm : Team) : Prop :=
  grpOf s = some g ∧ teamOf s g.band.team = some tm ∧ g.lanes.Nodup

/-- The words of registers `r` upward as one value. -/
def wordsAt (t : Thread) : Nat → Nat → Nat
  | 0, _ => 0
  | n + 1, r => (rdV t r).toNat + 2 ^ 32 * wordsAt t n (r + 1)

/-- One operation issued before another of the same issuer, and a thread has both. -/
def Earlier (x y : PendOp) : Prop := x.issuer = y.issuer ∧ x.seq < y.seq ∧ ∃ l, l ∈ x.lanes ∧ l ∈ y.lanes

/-- The reads, the writes, the acquires and the releases of R271's table. -/
def Reads : PendKind → Prop
  | .load .. | .atomic .. | .krel .. => True
  | .store .. | .fence .. | .clean .. | .pref .. | .latg .. | .tarv .. | .post _ => False
def Writes : PendKind → Prop
  | .store .. | .atomic .. | .krel .. => True
  | .load .. | .fence .. | .clean .. | .pref .. | .latg .. | .tarv .. | .post _ => False
def Acquires : PendKind → Prop
  | .load _ _ _ acq _ => acq ≠ none
  | .atomic _ _ _ _ _ _ ord _ _ => ord = .acq ∨ ord = .ar
  | .fence k _ => k = .acq ∨ k = .sc
  | .store .. | .clean .. | .pref .. | .krel .. | .latg .. | .tarv .. | .post _ => False
def Releases : PendKind → Prop
  | .store _ _ _ rel _ => rel ≠ none
  | .atomic _ _ _ _ _ _ ord _ _ => ord = .rel ∨ ord = .ar
  | .fence k _ => k = .rel ∨ k = .sc
  | .krel .. | .latg .. | .tarv .. | .post _ => True
  | .load .. | .clean .. | .pref .. => False

/-- The location and length of an access. -/
def accessOf : PendKind → Option (Loc × Nat)
  | .load loc w _ _ _ => some (loc, bytesOf w)
  | .store loc n _ _ _ => some (loc, n)
  | .atomic _ loc n _ _ _ _ _ _ => some (loc, n)
  | .krel _ _ loc _ _ => some (loc, 8)
  | .fence .. | .clean .. | .pref .. | .latg .. | .tarv .. | .post _ => none

/-- An access at an offset of a team's stash, its own or through a window. -/
def AtStash (s : State) (o : PendOp) (team off : Nat) : Prop :=
  ∃ loc n, accessOf o.kind = some (loc, n) ∧ placeOf s o.agent loc true = .stash team off

/-- A later release comes after the operation: any but a LATG; a LATG after those of its threads with a true guard, and after every access
to the stash of its group (R287). -/
def ReleasesAfter (s : State) (x y : PendOp) : Prop :=
  match y.kind with
  | .latg _ live => (∃ l ∈ x.lanes, live.testBit l = true) ∨ ∃ team off, AtStash s x team off
  | k => Releases k

/-- An access that the window of another team serves, at a slot that an engine owns (R241). -/
def HeldAtWindow (s : State) (o : PendOp) : Prop :=
  ∃ team off tm, AtStash s o team off ∧ teamOf s team = some tm ∧ (latchOf tm (off / 1024)).engine = true ∧
    ∀ core ctx, o.agent ≠ .thread core team ctx ∧ o.agent ≠ .engine core team ctx

/-- A byte that an operation accesses: of memory, or of a team's stash. -/
def OnByte (s : State) (o : PendOp) : Option Nat × Nat → Prop
  | (space, b) =>
    (∃ loc n a, accessOf o.kind = some (loc, n) ∧ a ≤ b ∧ b < a + n ∧
      ((space = none ∧ (placeOf s o.agent loc true = .mem a ∨ ∃ l, placeOf s o.agent loc true = .revive l a)) ∨
        ∃ team, space = some team ∧ placeOf s o.agent loc true = .stash team a)) ∨
    ∃ inval sc ranges all, o.kind = .clean inval sc ranges all ∧ space = none ∧
      if all = true then b < 2 ^ 112 else ∃ r ∈ ranges, r.1 ≤ b ∧ b < r.1 + r.2

/-- The value of a byte that an agent sees: at the first level of its path that holds a copy, else at home (R266, R269). -/
def seenByte (s : State) (ag : Agent) (a : Nat) : Byte := (lookByte s a (path s ag a) 0).1

/-- The bytes that an agent sees, as one number, least significant first. -/
def seenValue (s : State) (ag : Agent) (a : Nat) : Nat → Nat
  | 0 => 0
  | n + 1 => (seenByte s ag a).toNat + 256 * seenValue s ag (a + 1) n

/-- The L1 of a thread's core holds the line of an address, if it does, under the name of the access (R230). -/
def OwnName (s : State) (ag : Agent) (a va : Nat) : Prop :=
  match ag with
  | .thread core _ ctx => ∀ x, aFind (a / 128) (coreOf s core).lines = some x → x.ctx = ctx ∧ x.name = va / 128
  | _ => True

/-- An address in memory that no window serves, on a page that is not LOST or DISCARDED, its line held under the access's own
name. -/
structure Plain (s : State) (ag : Agent) (a va : Nat) : Prop where
  name : OwnName s ag a va
  window : windowAt s a = none
  kept : a < 2 ^ 48 → pageLost s (a / 65536) = false
  resident : isDiscarded s (agentCtx ag) va = false

/-- A cache has room for the line of a byte, or holds it, so that nothing of it is given up for the line (R230, R231, R234). -/
def L1Room (s : State) (core a : Nat) : Prop :=
  (∃ x, aFind (a / 128) (coreOf s core).lines = some x) ∨ (coreOf s core).lines.length < 2048
def ClusterRoom (s : State) (n a : Nat) : Prop :=
  (∃ x, aFind (a / 128) (Machine.clusterOf s n).lines = some x) ∨
    ((Machine.clusterOf s n).lines.filter fun e => e.1 % 4096 == a / 128 % 4096 && !pinnedIn s n (e.1 / 512)).length
      < freeWays s n (a / 128 % 4096)

/-- The caches of an agent have room for the line of a byte. -/
def RoomFor (s : State) (ag : Agent) (a : Nat) : Prop :=
  match ag with
  | .thread core _ _ => L1Room s core a ∧ ClusterRoom s (core / 8) a
  | .engine core _ _ => ClusterRoom s (core / 8) a
  | .hub .. | .stream .. | .host => True

/-- A cluster's cache has room for the lines of some bytes at once. -/
def RoomForAll (s : State) (n : Nat) (addrs : List Nat) : Prop :=
  let lines : List Nat := ((Machine.clusterOf s n).lines.map Prod.fst ++ addrs.map fun a => a / 128).eraseDups
  ∀ k, (lines.filter fun l => l % 4096 == k && !pinnedIn s n (l / 512)).length ≤ freeWays s n k

/-- The team's stash has no window and no engine owns a slot, so that each byte reads as it stands (R241, R289). -/
def Plainly (tm : Team) : Prop :=
  tm.early = [] ∧ (∀ e ∈ tm.latches, e.2.engine = false) ∧ ∀ e ∈ tm.maps, e.2.win = none

/-- What a load of `n` bytes finds at its location (R225, R227, R269): in memory what its agent sees once an acquire has left `u`; at
the stash, with no window and no slot of an engine, the bytes there; zeros on a page that is DISCARDED. -/
inductive Finds (s u : State) (ag : Agent) (n : Nat) : Loc → Nat → Prop where
  | memory (a va : Nat) : Plain s ag a va → RoomFor s ag a → Finds s u ag n (.phys a va) (seenValue u ag a n)
  | stash (core team ctx off : Nat) (tm : Team) : ag = .thread core team ctx → teamOf s team = some tm → Plainly tm →
      Finds s u ag n (.stash off) (leNat (readBytes 0 tm.stash off n))
  | zeros (va : Nat) (l : Leaf) : walk s (agentCtx ag) va = .ok l → l.state = 2 → windowAt s (physOf l va) = none →
      (physOf l va < 2 ^ 48 → pageLost s (physOf l va / 65536) = false) → Finds s u ag n (.again va) 0

/-- The number that a load of a width reads (R251, R255). -/
def loaded (w : Width) (v : Nat) : Int :=
  match w with
  | .i8 => (v : Int).bmod (2 ^ 8)
  | .i16 => (v : Int).bmod (2 ^ 16)
  | .n8 | .n16 | .n32 | .n64 => v

/-- A thread has what a load of a width read in a vector register, or in a pair; nothing else of it has changed. -/
def TakesV (w : Width) (d v : Nat) (t t' : Thread) : Prop :=
  t' = { t with vregs := t'.vregs } ∧
    (if w = .n64 then rdV64 t' d = BitVec.ofNat 64 v else rdV t' d = BitVec.ofInt 32 (loaded w v)) ∧
    ∀ r, r ≠ d → (w = .n64 → r ≠ d + 1) → rdV t' r = rdV t r

/-- The threads of a group have gone on, nothing else of their band changed. -/
def GoneOn (g : Grp) (b' : Band) : Prop :=
  b' = { g.band with threads := b'.threads } ∧ Bystanders g b' ∧
    ∀ l, l < g.band.threads.length → l ∈ g.live → threadOf b' l = moved (threadOf g.band l) g.next

/-- A thread that waits at its instruction, in the wait of the step's instruction or of the one that issued earlier (R217). -/
def waiting (s : State) (w : Wait) (t : Thread) : Thread :=
  { t with wait := w, waitId := if issuedWait t.wait then t.waitId else s.seq }

/-- The whole group waits at issue, the threads with a false guard too, nothing else of the state changed. -/
def GroupHolds (i : Instr) (s : State) (g : Grp) (w : Wait) : Prop :=
  ∃ t b', exec i s = .next t ∧ OnlyBand s t g.key ∧ bandOf t g.key = some b' ∧ b' = { g.band with threads := b'.threads } ∧
    b'.threads.length = g.band.threads.length ∧ (∀ l, l ∉ g.lanes → threadOf b' l = threadOf g.band l) ∧
    ∀ l, l < g.band.threads.length → l ∈ g.lanes → threadOf b' l = waiting s w (threadOf g.band l)

/-- The threads of P wait at the instruction, nothing else of the state changed. -/
def GroupWaits (i : Instr) (s : State) (g : Grp) (w : Wait) : Prop :=
  EachThread i s g fun _ t t' => t' = waiting s w t

/-- An instruction that acts once per group on its team completes: the group goes on, the team's record is as `P` says, and
nothing else changes but copies in the caches of its core and cluster, as `P` says; no byte at home changes. -/
def TeamStep (i : Instr) (s : State) (g : Grp) (P : State → Team → Band → Prop) : Prop :=
  ∃ t tm' b', exec i s = .next t ∧
    t = { s with bands := t.bands, teams := t.teams, cores := t.cores, clusters := t.clusters } ∧
    teamOf t g.band.team = some tm' ∧ (∀ j, j ≠ g.band.team → teamOf t j = teamOf s j) ∧
    (∀ j, j ≠ g.key → bandOf t j = bandOf s j) ∧ bandOf t g.key = some b' ∧ (∀ a, homeByte t a = homeByte s a) ∧
    P t tm' b'

/-- The caches are as they were. -/
def CachesKept (s t : State) : Prop := t.cores = s.cores ∧ t.clusters = s.clusters

/-- CleanBelow of all at cluster scope (R268): no dirty copy is left in the core's L1; each is in the cluster's cache. -/
def CleanedToCluster (s t : State) (core : Nat) : Prop :=
  (∀ a c, copyAt t (.l1 core) a = some c → c.dirty = false) ∧
  ∀ a c, copyAt s (.l1 core) a = some c → c.dirty = true → copyAt t (.cluster (core / 8)) a = some { value := c.value, dirty := true }

/-- DropBelow of all at cluster scope (R268): no clean copy is left in the core's L1, and every dirty one. -/
def DroppedToCluster (s t : State) (core : Nat) : Prop :=
  t.clusters = s.clusters ∧
  ∀ a, copyAt t (.l1 core) a = (match copyAt s (.l1 core) a with | some c => if c.dirty then some c else none | none => none)

/-- The byte at the point of a scope after CleanBelow (R268): the uppermost dirty copy above the point, else the first copy at or
below the point, else home. -/
def pointByte (s : State) (ag : Agent) (sc : Scope) (a : Nat) : Byte :=
  let p := (pathAbove s ag sc a).1
  let n := (pathAbove s ag sc a).2
  let dirty := fun l => match copyAt s l a with | some c => if c.dirty then some c.value else none | none => none
  match (p.take n).findSome? dirty with
  | some v => v
  | none => (lookByte s a (p.drop n) 0).1

/-- The bytes at the point, as one number. -/
def pointValue (s : State) (ag : Agent) (sc : Scope) (a : Nat) : Nat → Nat
  | 0 => 0
  | n + 1 => (pointByte s ag sc a).toNat + 256 * pointValue s ag sc (a + 1) n

/-- No level above the point holds a copy of the byte. -/
def NoneAbove (s : State) (ag : Agent) (sc : Scope) (a : Nat) : Prop :=
  ∀ l ∈ (pathAbove s ag sc a).1.take (pathAbove s ag sc a).2, copyAt s l a = none

/-- No level above the point holds a dirty copy, or a clean one, of the byte. -/
def NoDirtyAbove (s : State) (ag : Agent) (sc : Scope) (a : Nat) : Prop :=
  ∀ l ∈ (pathAbove s ag sc a).1.take (pathAbove s ag sc a).2, ∀ c, copyAt s l a = some c → c.dirty = false
def NoCleanAbove (s : State) (ag : Agent) (sc : Scope) (a : Nat) : Prop :=
  ∀ l ∈ (pathAbove s ag sc a).1.take (pathAbove s ag sc a).2, ∀ c, copyAt s l a = some c → c.dirty = true

/-- The physical addresses of a key's region, as its pages stand (R283). -/
def InRegion (s : State) (ctx : Nat) (k : Key) (a : Nat) : Prop :=
  ∃ r ∈ virtRanges s ctx k.base (4096 * k.granules), r.1 ≤ a ∧ a < r.1 + r.2

/-- Slots of a range that starts at a register (R287). -/
def InRange (first : DWord) (count : Word) (n : Nat) : Prop :=
  first.toNat % 512 ≤ n ∧ n < first.toNat % 512 + count.toNat

/-- Old number, bits [5:4] set: STATE of a leaf entry (R224). -/
def StateIs (e e' st : Nat) : Prop := e' / 16 % 4 = st ∧ e' % 16 = e % 16 ∧ e' / 64 = e / 64

/-! ### Tiles -/

/-- What the completion of a matrix instruction puts at a word of the tiles, at a byte of the scale columns, at a byte of the
stash; the last of several. -/
def wordPut (x : MatOp) (k : Nat) : Option Word := aFind k x.tiles.reverse
def scalePut (x : MatOp) (k : Nat) : Option Byte := aFind k x.scales.reverse
def bytePut (x : MatOp) (k : Nat) : Option Byte := aFind k x.stash.reverse

/-- No window is registered in the team's stash. -/
def Windowless (tm : Team) : Prop := ∀ e ∈ tm.maps, e.2.win = none

/-- A matrix or tile instruction issues: what it writes waits for its completion, the group goes on, and neither a tile nor a byte
of memory or of the stash has changed (R315). -/
def IssuesMat (i : Instr) (s : State) (g : Grp) (st : DWord) (P : State → MatOp → Prop) : Prop :=
  ∃ t x b', exec i s = .next t ∧
    t = { s with bands := t.bands, cores := t.cores, seen := t.seen, lineCosts := t.lineCosts, matrix := s.matrix ++ [x] } ∧
    (∀ j, j ≠ g.key → bandOf t j = bandOf s j) ∧ bandOf t g.key = some b' ∧
    b' = { g.band with threads := b'.threads, srstate := st } ∧ Bystanders g b' ∧
    (∀ l, l < g.band.threads.length → l ∈ g.live → threadOf b' l = moved (threadOf g.band l) g.next) ∧
    (∀ a, homeByte t a = homeByte s a) ∧ x.team = g.band.team ∧ x.band = g.key ∧ x.lanes = g.live ∧ P t x

/-- The words that a whole tile, or pair of tiles, takes, and the conditions of its elements together. -/
structure PutsTile (x : MatOp) (wide : Bool) (d : Nat) (f : Nat → Nat → Nat × Flags) : Prop where
  low : ∀ i j, i < 32 → j < 32 → wordPut x (d * 1024 + 32 * i + j) = some (BitVec.ofNat 32 (f i j).1)
  high : wide = true → ∀ i j, i < 32 → j < 32 →
    wordPut x ((d + 1) * 1024 + 32 * i + j) = some (BitVec.ofNat 32 ((f i j).1 / 2 ^ 32))
  others : ∀ k, k < d * 1024 ∨ (d + if wide then 2 else 1) * 1024 ≤ k → wordPut x k = none
  rest : x.scales = [] ∧ x.stash = []
  flags : ∀ c : Nat, x.flags.getLsbD c = true ↔ ∃ i j, i < 32 ∧ j < 32 ∧ (f i j).2.getLsbD c = true

/-- NonFiniteBits of one word (R92). -/
def nonFinite (w : Nat) : Bool :=
  decide (w / 2 ^ 23 % 256 = 255) || ([w % 65536, w / 65536].any fun h => decide (h / 2 ^ 10 % 32 = 31 ∨ h / 2 ^ 7 % 256 = 255))
    || [w % 256, w / 256 % 256, w / 65536 % 256, w / 2 ^ 24].any fun b => [0x7F, 0x80, 0xFE, 0xFF].contains b

/-- ClassAfterStore of a whole unit of `n` words (R92). -/
structure WholeUnit (n : Nat) (w : Nat → Word) (c : TileClass) : Prop where
  zero : (∀ k, k < n → w k = 0) → c = .zero
  const : (∀ k, k < n → w k = w 0) → w 0 ≠ 0 → c = .const (w 0) (nonFinite (w 0).toNat)
  general : (∃ k, k < n ∧ w k ≠ w 0) → ∃ nf, c = .general nf ∧ (nf = true ↔ ∃ k, k < n ∧ nonFinite (w k).toNat = true)

/-- The entry of a tile that an instruction leaves (R340). -/
def entryPut (x : MatOp) (t : Nat) : Option TileClass := aFind t x.tileCls.reverse

/-- Each tile that is written takes the entry of its words, and no other entry changes (R340). -/
def WholeEntries (x : MatOp) (wide : Bool) (d : Nat) : Prop :=
  ∀ t, (t = d ∨ (wide = true ∧ t = d + 1) → ∃ c, entryPut x t = some c ∧ WholeUnit 1024 (fun k => (wordPut x (t * 1024 + k)).getD 0) c) ∧
    (¬ (t = d ∨ (wide = true ∧ t = d + 1)) → entryPut x t = none)

/-- An element of a tile, or of a pair. -/
def elementOf (tm : Team) (wide : Bool) (t i j : Nat) : Nat :=
  (aGet 0 (t * 1024 + 32 * i + j) tm.tiles).toNat
    + (if wide then 2 ^ 32 * (aGet 0 ((t + 1) * 1024 + 32 * i + j) tm.tiles).toNat else 0)

/-- The offset of stored row `q` among `rows` (R308). -/
def rowAt (base pack : DWord) (rows q : Nat) : Nat :=
  base.toNat + q % (rows / 2) * (pack.toNat % 2 ^ 16) + q / (rows / 2) * (pack.toNat / 2 ^ 16 % 2 ^ 16)

/-- A stash operand that no check of R309 stops. -/
structure GoodRows (tm : Team) (base pack : DWord) (al rows len : Nat) : Prop where
  top : pack.toNat < 2 ^ 36
  start : base.toNat % al = 0
  pitch : pack.toNat % 2 ^ 16 % al = 0 ∧ pack.toNat / 2 ^ 16 % 2 ^ 16 % al = 0
  inside : ∀ q, q < rows → rowAt base pack rows q + len ≤ 1024 * tm.slotCount

/-- The bytes of a stored row of TLD and TST. -/
def tileRowBytes : TileW → Nat
  | .n8 => 32
  | .n16 => 64
  | .n32 => 128

/-- The rank order of TTOPK (R334) on columns and words: numbers before NaNs, by descending magnitude, then by column. A binary32
number's magnitude rises with its pattern without the sign. -/
def RanksBefore (int : Bool) (a b : Nat × Nat) : Prop :=
  if int then
    ((a.2 : Int).bmod (2 ^ 32)).natAbs > ((b.2 : Int).bmod (2 ^ 32)).natAbs ∨
      (((a.2 : Int).bmod (2 ^ 32)).natAbs = ((b.2 : Int).bmod (2 ^ 32)).natAbs ∧ a.1 < b.1)
  else
    let x := (decodeFmt fmtF32 a.2).isNan
    let y := (decodeFmt fmtF32 b.2).isNan
    (x = false ∧ y = true) ∨ (x = true ∧ y = true ∧ a.1 < b.1) ∨
      (x = false ∧ y = false ∧ (a.2 % 2 ^ 31 > b.2 % 2 ^ 31 ∨ (a.2 % 2 ^ 31 = b.2 % 2 ^ 31 ∧ a.1 < b.1)))

/-- The word of TCLS from its fields (R330). -/
def entryWord (c : TileClass) (pend : Bool) : DWord :=
  let pack := fun cls value nf fmt half : Nat =>
    BitVec.ofNat 64 (value + cls * 2 ^ 32 + nf * 2 ^ 34 + fmt * 2 ^ 36 + half * 2 ^ 42 + (if pend then 2 ^ 43 else 0))
  if pend then pack 3 0 1 0 0
  else match c with
    | .zero => pack 0 0 0 0 0
    | .const v nf => pack 1 v.toNat nf.toNat 0 0
    | .ident fmt half => pack 2 0 0 fmt half.toNat
    | .general nf => pack 3 0 nf.toNat 0 0

/-- The value that TFILL fills with (R54, R324). -/
def filling (b : Band) (ty : FillTy) : FillSrc → Nat
  | .reg r => (rdS b r.val).toNat
  | .lit v => v.toNat
  | .imm v => if ty = .f64 then widened v.toNat else v.toNat

/-- The 1 that TIDENT writes into a tile (R324). -/
def oneInTile : Ty → Nat
  | .int _ => 1
  | .flt .f64 => 0x3FF0000000000000
  | _ => 0x3F800000

/-- The 1 of a type in the stash, and the bytes of its element (R324). -/
def oneInStash : Ty → Nat × Nat
  | .int _ => (1, 1)
  | .flt .f64 => (0x3FF0000000000000, 8)
  | .flt .f32 => (0x3F800000, 4)
  | .flt .bf16 => (0x3F80, 2)
  | .flt _ => (0x3C00, 2)
  | .b8 f => (if f.unsigned then 0x80 else 0x40, 1)

/-! ### Matrix multiplication -/

/-- K and G of R320 and R321. -/
def depthOfTy (ty : Ty) : Nat := 64 / tyBytes ty
def groupOfTy (ty : Ty) : Nat := 32 / tyBytes ty

/-- Element `k` of row `x` of a multiplicand of `n` elements in each row, as bits (R307, R308, R320). -/
def multiplicand (b : Band) (tm : Team) (ty : Ty) (n : Nat) (c : Mcand) (x k : Nat) : Nat :=
  let es := tyBytes ty
  match c with
  | .vec r =>
    if es = 8 then (rdV64 (threadOf b x) (r.val + 2 * k)).toNat
    else (rdV (threadOf b x) (r.val + k * es / 4)).toNat / 2 ^ (8 * (k * es % 4)) % 2 ^ (8 * es)
  | .stash base pack false =>
    leNat (readBytes 0 tm.stash (rowAt (rdS b base.val) (rdS b pack.val) 32 x + k * es) es)
  | .stash base pack true =>
    leNat (readBytes 0 tm.stash (rowAt (rdS b base.val) (rdS b pack.val) n k + x * es) es)

/-- A multiplicand that no check stops. -/
def GoodOperand (b : Band) (tm : Team) (ty : Ty) (n : Nat) : Mcand → Prop
  | .vec r => r.val + n * tyBytes ty / 4 ≤ b.n
  | .stash base pack tr =>
    GoodRows tm (rdS b base.val) (rdS b pack.val) (if ty = .flt .f64 then 8 else 4) (if tr then n else 32)
      ((if tr then 32 else n) * tyBytes ty)

def inVector : Mcand → Bool
  | .vec _ => true
  | .stash .. => false

/-- Window28Sum over the first `n` K-groups, one after the other (R321). -/
def grouped (acc : Nat) (pairs : Nat → List (Val × Val)) : Nat → Nat × Flags
  | 0 => (acc, 0)
  | n + 1 => ((window28Sum (grouped acc pairs n).1 (pairs n)).1, (grouped acc pairs n).2 ||| (window28Sum (grouped acc pairs n).1 (pairs n)).2)

/-- The chain of .f64 over the first `n` products, each rounded once (R321). -/
def chained (acc : Nat) (pair : Nat → Val × Val) : Nat → Nat × Flags
  | 0 => (acc, 0)
  | n + 1 =>
    let x := chained acc pair n
    let r := rounded .f64 .rne 0 (fMa .rne false false (pair n).1 (pair n).2 (decodeFmt fmtF64 x.1))
    (r.1, x.2 ||| r.2)

/-- The sum of `f` below `n`. -/
def sumBelow (f : Nat → Int) : Nat → Int
  | 0 => 0
  | n + 1 => sumBelow f n + f n

/-- An element times its block's factor (R89, R320). -/
def blockScaled (tm : Team) (col : Option Nat) (x k : Nat) (v : Val) : Val :=
  match col with
  | none => v
  | some c =>
    let e := (aGet 127 ((c + k / 32) % 512 * 32 + x) tm.scales).toNat
    if e = 255 then .nan false else v.scale (e - 127 : Int)

/-- Element (i, j) of an MMA (R321). -/
def productAt (o : Mma) (b : Band) (tm : Team) (i j : Nat) : Nat × Flags :=
  let n := depthOfTy o.ty
  let a := fun k => blockScaled tm (o.scales.map fun c => 2 * c.1.toNat) i k (decodeTy o.ty (multiplicand b tm o.ty n o.a i k))
  let c := fun k => blockScaled tm (o.scales.map fun c => 2 * c.2.toNat) j k (decodeTy o.ty (multiplicand b tm o.ty n o.b j k))
  let acc := elementOf tm (decide (o.ty = .flt .f64)) o.c.val i j
  if o.ty = .flt .f64 then chained acc (fun k => (a k, c k)) 8
  else if o.ty = .int .i8 ∧ o.scales = none then
    (((acc + sumBelow (fun k => ((multiplicand b tm o.ty n o.a i k : Int).bmod 256)
      * ((multiplicand b tm o.ty n o.b j k : Int).bmod 256)) n) % 2 ^ 32).toNat, 0)
  else grouped acc (fun q => (List.range (groupOfTy o.ty)).map fun x => (a (groupOfTy o.ty * q + x), c (groupOfTy o.ty * q + x)))
    (n / groupOfTy o.ty)

/-- Kept values of a row, kept in a group, group size, field bits and metadata bytes of a row (R322). -/
def patternOf : Sparsity → Nat × Nat × Nat × Nat × Nat
  | .s24 => (64, 2, 4, 2, 16)
  | .s14 => (32, 1, 4, 2, 8)
  | .s48 => (64, 4, 8, 4, 32)

/-- The field of kept value `v` of row `i`, and its logical position. -/
def fieldAt (o : Mmas) (b : Band) (tm : Team) (i v : Nat) : Nat :=
  let p := patternOf o.pat
  leNat (readBytes 0 tm.stash ((rdS b o.sm.val).toNat + i * p.2.2.2.2) p.2.2.2.2) / 2 ^ (p.2.2.2.1 * v) % 2 ^ p.2.2.2.1
def positionAt (o : Mmas) (b : Band) (tm : Team) (i v : Nat) : Nat :=
  let p := patternOf o.pat
  v / p.2.1 * p.2.2.1 + fieldAt o b tm i v

/-- Element (i, j) of an MMAS (R322). -/
def sparseAt (o : Mmas) (b : Band) (tm : Team) (i j : Nat) : Nat × Flags :=
  let n := (patternOf o.pat).1
  let a := fun v => multiplicand b tm o.ty n o.a i v
  let c := fun v => multiplicand b tm o.ty 128 o.b j (positionAt o b tm i v)
  let acc := elementOf tm false o.c.val i j
  if o.ty = .int .i8 then
    (((acc + sumBelow (fun v => ((a v : Int).bmod 256) * ((c v : Int).bmod 256)) n) % 2 ^ 32).toNat, 0)
  else grouped acc (fun q => ((List.range n).filter fun v => positionAt o b tm i v / 32 = q).map fun v =>
    (decodeTy o.ty (a v), decodeTy o.ty (c v))) 4

/-- A slot that counts as PENDING (R343). -/
def SlotOpen (tm : Team) (k : Nat) : Prop :=
  slotPending tm k = true ∨ ((latchOf tm k).engine = true ∧ (latchOf tm k).count ≠ 0)

/-- A slot that holds a byte that a stash multiplicand reads (R308). -/
def OperandSlot (b : Band) (ty : Ty) (n : Nat) (c : Mcand) (k : Nat) : Prop :=
  ∃ base pack tr q o, c = .stash base pack tr ∧ (q < if tr = true then n else 32) ∧
    rowAt (rdS b base.val) (rdS b pack.val) (if tr = true then n else 32) q ≤ o ∧
    o < rowAt (rdS b base.val) (rdS b pack.val) (if tr = true then n else 32) q + (if tr = true then 32 else n) * tyBytes ty ∧ k = o / 1024

/-- A multiplicand that is ZERO, one that has NONFINITE, one that is IDENT (R343, R344). -/
def ZeroOperand (tm : Team) (b : Band) (ty : Ty) (n : Nat) (c : Mcand) : Prop :=
  inVector c = false ∧ ∀ k, OperandSlot b ty n c k → ¬ SlotOpen tm k ∧ slotClsOf tm k = .zero
def NonfiniteOperand (tm : Team) (b : Band) (ty : Ty) (n : Nat) (c : Mcand) : Prop :=
  inVector c = true ∨ ∃ k, OperandSlot b ty n c k ∧ (SlotOpen tm k ∨ (slotClsOf tm k).nonfinite = true)
def IdentOperand (tm : Team) (b : Band) (ty : Ty) (c : Mcand) : Prop :=
  ∃ base pack, c = .stash base pack false ∧ (rdS b pack.val).toNat % 2 ^ 16 = 64 ∧ (rdS b pack.val).toNat / 2 ^ 16 % 2 ^ 16 = 1024 ∧
    (rdS b base.val).toNat % 1024 = 0 ∧ let n := (rdS b base.val).toNat / 1024
      ¬ SlotOpen tm n ∧ ¬ SlotOpen tm (n + 1) ∧ slotClsOf tm n = .ident (tyCode ty) false ∧ slotClsOf tm (n + 1) = .ident (tyCode ty) true

/-- OtherNF of an operand X (R346), `y` being the other one. -/
def OtherNonfinite (tm : Team) (b : Band) (ty : Ty) (n : Nat) (y : Mcand) : Prop :=
  ty ≠ .int .i8 ∧ ¬ ZeroOperand tm b ty n y ∧ NonfiniteOperand tm b ty n y

/-- A ZERO multiplicand that the other lets decide (R346). -/
def ZeroDecides (tm : Team) (b : Band) (ty : Ty) (nx ny : Nat) (x y : Mcand) : Prop :=
  ZeroOperand tm b ty nx x ∧ ¬ OtherNonfinite tm b ty ny y
/-- An IDENT multiplicand that the other lets decide (R346). -/
def IdentDecides (tm : Team) (b : Band) (ty : Ty) (n : Nat) (x y : Mcand) : Prop :=
  IdentOperand tm b ty x ∧ ¬ OtherNonfinite tm b ty n y

/-- An element of a COPY (R348). -/
def copied (int : Bool) (acc : Nat) : Nat × Flags :=
  if int = false ∧ (decodeFmt fmtF32 acc).isNan = true then (0x7FC00000, flagIf (decodeFmt fmtF32 acc).isSig flagNV) else (acc, 0)

/-- An element of an IDENT decision on A, or on B (R349). -/
def identAt (o : Mma) (b : Band) (tm : Team) (onB : Bool) (i j : Nat) : Nat × Flags :=
  let n := depthOfTy o.ty
  let acc := elementOf tm false o.c.val i j
  let k := if onB then j else i
  let v := if onB then multiplicand b tm o.ty n o.a i k else multiplicand b tm o.ty n o.b j k
  if o.ty = .int .i8 then ((((acc : Int) + if k < n then (v : Int).bmod 256 else 0) % 2 ^ 32).toNat, 0)
  else if n ≤ k then window28Sum acc []
  else
    let one := decodeFmt fmtF32 0x3F800000
    window28Sum acc [if onB then (decodeTy o.ty v, one) else (one, decodeTy o.ty v)]

/-- Nothing is written and no condition raised. -/
def WritesNothing (x : MatOp) : Prop := x.tiles = [] ∧ x.tileCls = [] ∧ x.scales = [] ∧ x.stash = [] ∧ x.flags = 0

/-- What NOP and COPY do (R346-R348, R354): the tile that is its own accumulator keeps its words where no NaN could be made canonical;
else the accumulator is copied. -/
def ZeroElided (s t : State) (core : Nat) (x : MatOp) (tm : Team) (int : Bool) (d c : Nat) : Prop :=
  (d = c ∧ (int = true ∨ (tileClsOf tm c).nonfinite = false) →
    WritesNothing x ∧ (coreOf t core).elznop = (coreOf s core).elznop + 1 ∧ (coreOf t core).elzcopy = (coreOf s core).elzcopy) ∧
  (¬ (d = c ∧ (int = true ∨ (tileClsOf tm c).nonfinite = false)) →
    PutsTile x false d (fun i j => copied int (elementOf tm false c i j)) ∧
      (coreOf t core).elzcopy = (coreOf s core).elzcopy + 1 ∧ (coreOf t core).elznop = (coreOf s core).elznop)

/-! ### Engines -/

/-- A slot holds a byte of one of the ranges (offset, length). -/
def Touches (ranges : List (Nat × Nat)) (n : Nat) : Prop := ∃ r ∈ ranges, ∃ o, r.1 ≤ o ∧ o < r.1 + r.2 ∧ o / 1024 = n

/-- A range inside the team's allocation whose slots the engines own (R285), or that a LATG of a thread of the group has still to give
(R287). -/
def EngineOwned (s : State) (g : Grp) (tm : Team) (r : Nat × Nat) : Prop :=
  r.1 + r.2 ≤ 1024 * tm.slotCount ∧ ∀ o, r.1 ≤ o → o < r.1 + r.2 → (latchOf tm (o / 1024)).engine = true ∨
    ∃ x ∈ s.pending, ∃ slots live, x.kind = .latg slots live ∧ x.issuer = g.key ∧ (∃ l ∈ x.lanes, l ∈ g.live) ∧ o / 1024 ∈ slots

/-- Where a team keeps how many bytes of a channel a thread has observed (log 47, DEDUCED). -/
def seenAt (band lane ch : Nat) : Nat := (band * 32 + lane) * 4 + ch

/-- A tumbler that an engine may arrive at. -/
def TumblerReady (tm : Team) (t : Nat) : Prop := t < tm.tumblerCount ∧ (tumblerOf tm t).expect ≠ 0

/-- The scalar form of a group that has gone on: sd written, threads at the next instruction. -/
def GoneWith (g : Grp) (b' : Band) (d : Nat) (v : DWord) : Prop :=
  b' = { g.band with threads := b'.threads, sregs := b'.sregs, sEcc := b'.sEcc } ∧ Bystanders g b' ∧ PutsS d v g.band b' ∧
    ∀ l, l < g.band.threads.length → l ∈ g.live → threadOf b' l = moved (threadOf g.band l) g.next

/-- Room in the queue of a channel, or in the context's chain, whose next record's stack takes accesses (R357, R479). -/
def Room (s : State) (core ch ctx : Nat) : Prop :=
  ((coreChan s core ch).chain = [] ∧ (coreChan s core ch).queue.length < 16) ∨
    (((coreChan s core ch).chain.filter fun c => c.ctx == ctx).length < (ctxOf s ctx).chainLen.toNat ∧
      stackBusy s (chainPlace s ctx core ch (coreChan s core ch).chained) = false)

/-- The global bytes that a posted command may write, as virtual addresses and lengths: a box stored, rows scattered (R341). -/
def MayWrite (x : Command) (va n : Nat) : Prop :=
  match x.kind with
  | .box true origin ext off pitch =>
    ∃ i, i < boxCount ext ∧ inBounds x.desc (boxElem x.desc.es origin ext off pitch i).1 = true ∧
      va = elemAddr x.desc (boxElem x.desc.es origin ext off pitch i).1 ∧ n = x.desc.es
  | .rows true c0 c2 c3 e0 _ _ elems =>
    ∃ e ∈ elems, ∃ r i, e.2.2 = some r ∧ (i, va) ∈ rowElems x.desc c0 c2 c3 e0 r ∧ n = x.desc.es
  | .box .. | .rows .. | .move .. | .embag .. => False

/-- Slot `k` of team `j` belongs to a registered window, and a byte of it is one that `W` holds of (R341). -/
def WindowSlot (s : State) (ctx : Nat) (W : Nat → Nat → Prop) (j k : Nat) : Prop :=
  ∃ tm m e w, (j, tm) ∈ s.teams ∧ (m, e) ∈ tm.maps ∧ e.win = some w ∧ e.first ≤ k ∧ k < e.first + e.count ∧
    ∃ va n l, W va n ∧ walk s ctx va = .ok l ∧ physOf l va < w.base + 1024 * (k - e.first) + 1024 ∧
      w.base + 1024 * (k - e.first) < physOf l va + n

/-- A post (R357-R359, R365): with room, the command is the channel's newest with the next sequence number, which sd takes; the
slots that it names count it; those that it may write, and those of registered windows that it may write, are pending (R341); its
release to the cluster issues, which the command waits for. A chained one's record stands at home, in the model's layout and place
(log 52). Without room the whole group waits. -/
def Posts (i : Instr) (s : State) (g : Grp) (tm : Team) (ch d : Nat) (named writes : List (Nat × Nat)) (kind : CmdKind)
    (desc : Desc) (tumb : Option Nat) : Prop :=
  let q := coreChan s g.core ch
  let n := (chanOf tm ch).posted + 1
  (¬ Room s g.core ch tm.ctx → ∃ code, GroupHolds i s g (.polled code)) ∧
  (Room s g.core ch tm.ctx →
    ∃ t tm' b' x, exec i s = .next t ∧ bandOf t g.key = some b' ∧ GoneWith g b' d n ∧
      (∀ j, j ≠ g.key → bandOf t j = bandOf s j) ∧ teamOf t g.band.team = some tm' ∧
      t.pending = s.pending ++ [opOf s g tm g.live (.post .cluster)] ∧
      tm' = { tm with channels := tm'.channels, latches := tm'.latches, pending := tm'.pending } ∧
      chanOf tm' ch = { chanOf tm ch with posted := n } ∧ (∀ c, c ≠ ch → chanOf tm' c = chanOf tm c) ∧
      (∀ k, (Touches named k → latchOf tm' k = { latchOf tm k with count := (latchOf tm k).count + 1 }) ∧
        (¬ Touches named k → latchOf tm' k = latchOf tm k) ∧
        (slotPending tm' k = true ↔ slotPending tm k = true ∨ Touches writes k ∨ (g.band.team, k) ∈ x.aimed)) ∧
      (∀ j u, j ≠ g.band.team → teamOf s j = some u → ∃ u', teamOf t j = some u' ∧ u' = { u with pending := u'.pending } ∧
        ∀ k, slotPending u' k = true ↔ slotPending u k = true ∨ (j, k) ∈ x.aimed) ∧
      (∀ j, teamOf s j = none → teamOf t j = none) ∧
      (q.queue.length < 16 ∧ q.chain = [] → coreChan t g.core ch = { q with queue := q.queue ++ [x] } ∧
        ∀ a, homeByte t a = homeByte s a) ∧
      (¬ (q.queue.length < 16 ∧ q.chain = []) →
        coreChan t g.core ch = { q with chain := q.chain ++ [x], chained := q.chained + 1 } ∧
        let place := chainPlace s tm.ctx g.core ch q.chained
        homeRead t place 64 = chainRecord x ∧ ∀ a, a < place ∨ place + 64 ≤ a → homeByte t a = homeByte s a) ∧
      x = { team := g.band.team, band := g.key, ctx := tm.ctx, seq := n, desc := desc, kind := kind, tumb := tumb
            slots := x.slots, chan := ch, aimed := x.aimed, issue := s.seq, posted := false } ∧
      x.slots.Nodup ∧ (∀ k, k ∈ x.slots ↔ Touches named k) ∧
      (∀ j k, (j, k) ∈ x.aimed ↔ WindowSlot s tm.ctx (MayWrite x) j k) ∧
      ∀ l a, copyAt t l a = copyAt s l a)

/-- The 64 bytes of an entry of the context's descriptor area (R362); the place of an entry in it is the model's choice (log 88). -/
def descBytes (s : State) (ctx id : Nat) : Nat := leNat (homeRead s ((ctxOf s ctx).descBase.toNat + 64 * id) 64)

/-- A valid entry of the context's descriptor table: TDSET has written it since the context's creation, VALID, bit 80, is 1, and its
stack takes accesses. -/
def HasDesc (s : State) (ctx id : Nat) (d : Desc) : Prop :=
  id ∈ (ctxOf s ctx).descs ∧ (descBytes s ctx id).testBit 80 = true ∧ d = descOf (descBytes s ctx id) ∧
    stackBusy s ((ctxOf s ctx).descBase.toNat + 64 * id) = false

/-- The pitch in use (R370, R372, R387). -/
def pitchOf (pitch row : Nat) : Nat := if pitch = 0 then row else pitch

/-- The number that a descriptor operand names (R369). -/
def namedDesc (b : Band) : DescId → Nat
  | .imm id => id.val
  | .reg r => (rdS b r.val).toNat % 1024

/-- An instruction that changes one channel's state of its team completes, with a value in sd. -/
def ChannelStep (i : Instr) (s : State) (g : Grp) (tm : Team) (ch : Nat) (d : Option Nat) (v : DWord) (drop : Bool)
    (c' : TeamChannel) : Prop :=
  TeamStep i s g fun t tm' b' =>
    (∀ r, d = some r → GoneWith g b' r v) ∧ (d = none → GoneOn g b') ∧ tm' = { tm with channels := tm'.channels } ∧
    chanOf tm' ch = c' ∧ (∀ c, c ≠ ch → chanOf tm' c = chanOf tm c) ∧
    (drop = false → CachesKept s t) ∧ (drop = true → DroppedToCluster s t g.core)

/-- The word of CQRY (R377) for a channel whose head command stalls on this team or not. -/
def queryWord (c : TeamChannel) (stall : Option Nat) : DWord :=
  BitVec.ofNat 64 ((match stall with | some off => 2 ^ 63 + off % 2 ^ 32 | none => 0) + (if c.err then 2 ^ 62 else 0)
    + c.cause.toNat * 2 ^ 48 + min 65535 (c.posted - c.csq).toNat * 2 ^ 32)

/-- A collective that its poster has filled in. -/
def posted (x : Collective) (g : Grp) (tm : Team) (system : Bool) (comm : Nat) (c : Comm) (t : Option Nat) : Collective :=
  { x with ctx := tm.ctx, team := g.band.team, band := g.key, hinge := g.core / 120, system := system, comm := comm, entry := c
           tumb := t }

/-- A collective that passes the checks of R382, its communicator's entry on stacks that take accesses, is posted: it is the hinge's
newest, the window slots that it may write are pending (R341), and its release to the package's, or the system's, point issues, which
it waits for; with 64 outstanding the whole group waits. -/
def PostsCollective (i : Instr) (s : State) (g : Grp) (tm : Team) (system : Bool) (comm : Nat) (peer : Option Nat)
    (count limit : Nat) (bufs : List (Nat × Nat)) (tumb : Option Nat) (make : Collective) : Prop :=
  ∀ c r, commAt s tm.ctx comm = some c → hingeRank c (g.core / 120) = some r → r < c.count →
    (∀ p, peer = some p → p < c.count ∧ p < 4096 ∧ reachable c p = true) →
    (peer = none → ∀ p, p < c.count → reachable c p = true) → 0 < count → count ≤ limit →
    (∀ b ∈ bufs, b.1 % b.2 = 0 ∧ b.1 < 2 ^ 55) → (∀ t, tumb = some t → TumblerReady tm t) →
    let h := hingeOf s (g.core / 120)
    let entry := (ctxOf s tm.ctx).commBase.toNat + 512 * comm
    stackBusy s entry = false → stackBusy s (entry + 511) = false →
    let sc : Scope := if system then .system else .package
    let y := posted make g tm system comm c tumb
    (64 ≤ h.collectives.length → ∃ code, GroupHolds i s g (.polled code)) ∧
    (h.collectives.length < 64 →
      ∃ t b' x, exec i s = .next t ∧ bandOf t g.key = some b' ∧ GoneOn g b' ∧ (∀ j, j ≠ g.key → bandOf t j = bandOf s j) ∧
        (hingeOf t (g.core / 120)).collectives = h.collectives ++ [x] ∧
        x = { y with aimed := x.aimed, issue := s.seq, posted := false } ∧
        t.pending = s.pending ++ [opOf s g tm g.live (.post sc)] ∧
        (∀ j k, (j, k) ∈ x.aimed ↔ WindowSlot s tm.ctx (fun va n => y.b ≤ va ∧ va < y.b + y.span ∧ n = 1) j k) ∧
        (∀ j u, teamOf s j = some u → ∃ u', teamOf t j = some u' ∧ u' = { u with pending := u'.pending } ∧
          ∀ k, slotPending u' k = true ↔ slotPending u k = true ∨ (j, k) ∈ x.aimed) ∧
        (∀ j, teamOf s j = none → teamOf t j = none) ∧ (∀ a, homeByte t a = homeByte s a) ∧
        ∀ l a, copyAt t l a = copyAt s l a)

/-- A collective before its poster is filled in, without a combination. -/
def unposted (kind : CollKind) (a b count : Nat) : Collective :=
  { ctx := 0, team := 0, band := 0, hinge := 0, system := false, comm := 0, entry := { count := 0, ranks := [], routes := [] }
    kind := kind, op := .add, ty := 0, a := a, b := b, count := count, tumb := none }

/-- Bytes of a context that lie in one line, on a RESIDENT page that is not LOST, in no window; no stack that is busy holds them or a
table that a walk reads. -/
structure OneLine (s : State) (ctx va n : Nat) (write : Bool) (l : Leaf) : Prop where
  space : va < 2 ^ 55
  line : va % 128 + n ≤ 128
  walks : walkBusy s ctx va = false
  leaf : walk s ctx va = .ok l
  resident : l.state = 0
  writable : write = true → l.w = true
  kept : l.sys = false → pageLost s l.ppn = false
  bus : l.sys = true → Config.hostBusError (physOf l va - 2 ^ 48) = false
  window : ∀ k, k < n → windowAt s (physOf l va + k) = none
  idle : stackBusy s (physOf l va) = false

/-- The tumbler of a command or collective has taken one arrival below its EXPECT, or there is none. -/
def ArrivedOnce (tm tm' : Team) (t : Option Nat) : Prop :=
  match t with
  | none => tm'.tumblers = tm.tumblers
  | some n => tumblerOf tm' n = { tumblerOf tm n with arrived := (tumblerOf tm n).arrived + 1 } ∧
      ∀ k, k ≠ n → tumblerOf tm' k = tumblerOf tm k

/-- The tumbler's next arrival does not flip it. -/
def OneShort (tm : Team) (t : Option Nat) : Prop :=
  ∀ n, t = some n → (tumblerOf tm n).arrived.toNat + 1 < (tumblerOf tm n).expect.toNat

/-! ### Streams -/

/-- A stream has gone on with `v` in scalar register `d`, if one is named; the other streams are as they were. -/
structure StreamGoes (s t : State) (g : Strm) (d : Option Nat) (v : DWord) : Prop where
  frame : streamOf t g.hinge g.num = { g.rcd with pc := g.next, state := 1, sregs := (streamOf t g.hinge g.num).sregs }
  regs : ∀ r, rdStream (streamOf t g.hinge g.num) r = if d = some r then v else rdStream g.rcd r
  others : ∀ h n, h ≠ g.hinge ∨ n ≠ g.num → streamOf t h n = streamOf s h n

/-- Only a stream changes in the step, and only as `x` says. -/
def StreamBecomes (i : Instr) (s : State) (g : Strm) (x : Stream) : Prop :=
  ∃ t, exec i s = .next t ∧ OnlyStream s t g.hinge g.num ∧ streamOf t g.hinge g.num = x

/-- A stream waits at its instruction (R397). -/
def StreamWaits (i : Instr) (s : State) (g : Strm) : Prop := StreamBecomes i s g { g.rcd with state := 2 }

/-- A stream after a fault or trap (R421, R423): in its handler, or in FAULT at TLEVEL 1 or without one. -/
def trappedStream (x : Stream) (cause : Nat) (addr info pc : DWord) : Stream :=
  if x.tlevel = true ∨ x.tvec.getLsbD 0 = false then { x with state := 3, cause := BitVec.ofNat 8 cause, launching := none }
  else { x with
    tpc := pc &&& 0x007FFFFFFFFFFFFC, tcause := BitVec.ofNat 9 cause, taddr := addr, tinfo := info, tlevel := true
    pc := x.tvec &&& 0x007FFFFFFFFFFFFC, state := 1, launching := none }

/-- A stream takes a fault or trap, and nothing else happens, but that hinges that it had stopped for a CTXSW run again (log 61,
DESIGN CHOICE). -/
def StreamTraps (i : Instr) (s : State) (g : Strm) (cause : Nat) (addr info pc : DWord) : Prop :=
  ∃ t, exec i s = .next t ∧ t = { s with hinges := t.hinges } ∧
    streamOf t g.hinge g.num = trappedStream g.rcd cause addr info pc ∧
    (∀ h n, h ≠ g.hinge ∨ n ≠ g.num → streamOf t h n = streamOf s h n) ∧
    ∀ h, hingeOf t h = { hingeOf s h with
      streams := (hingeOf t h).streams
      switching := if (hingeOf s h).switching = some (g.hinge * 16 + g.num) then none else (hingeOf s h).switching }

/-- TINFO of a precise fault (R419): the first word above the cause's own bits. -/
def infoOf (word low : Nat) : DWord := BitVec.ofNat 64 (word * 2 ^ 32 + low)

/-- CleanBelow of all (R268): no dirty copy is left above the point, where each byte is what its uppermost dirty copy was. -/
def PointCleaned (s t : State) (ag : Agent) (sc : Scope) : Prop :=
  ∀ a, NoDirtyAbove t ag sc a ∧ pointByte t ag sc a = pointByte s ag sc a

/-- DropBelow of all (R268): no clean copy is left above the point; dirty ones, home and what stands at the point are as they were. -/
def PointDropped (s t : State) (ag : Agent) (sc : Scope) : Prop :=
  (∀ a, NoCleanAbove t ag sc a ∧ pointByte t ag sc a = pointByte s ag sc a) ∧ (∀ l a c, copyAt s l a = some c → c.dirty = true → copyAt t l a = some c) ∧
    ∀ a, homeByte t a = homeByte s a

/-- An event counter (R407). -/
def counterOf (s : State) (h e : Nat) : DWord := aGet 0 e (hingeOf s h).ev

/-- The state after the release of a LAUNCH (R405). -/
def released (s : State) (g : Strm) : State := cleanAll s (.stream g.hinge g.rcd.ctx.toNat) .package

/-- `8 * n` bytes of a context that a stream of a hinge can read at home, on the leaves `f`, outside every window. -/
def Readable (s : State) (h ctx va n : Nat) (f : Nat → Leaf) : Prop :=
  ∀ k, k < n → Present s (60 + h) ctx (va + 8 * k) false (f k) ∧ windowAt s (physOf (f k) (va + 8 * k)) = none

/-- Those bytes. -/
def bytesAt (s : State) (va n : Nat) (f : Nat → Leaf) : List Byte :=
  (List.range n).flatMap fun k => homeRead s (physOf (f k) (va + 8 * k)) 8

/-- The record that LAUNCH reads: 256 bytes, with the parameter block in place of PARAM0 to PARAM15 when PAR is 1 (R405). -/
def launchBytes (s : State) (g : Strm) (o : Sys2Proof.Launch) (f p : Nat → Leaf) : List Byte :=
  let bytes := bytesAt s (rdStream g.rcd o.a.val).toNat 32 f
  match o.par with
  | none => bytes
  | some b => bytes.take 64 ++ bytesAt s (rdStream g.rcd b.val).toNat 16 p ++ bytes.drop 192

/-- Operands of a LAUNCH that the checks before the record pass, and its record readable. -/
structure LaunchReads (s : State) (g : Strm) (o : Sys2Proof.Launch) (f p : Nat → Leaf) : Prop where
  space : (rdStream g.rcd o.a.val).toNat < 2 ^ 55
  align : (rdStream g.rcd o.a.val).toNat % 64 = 0
  par : ∀ b, o.par = some b → (rdStream g.rcd b.val).toNat % 8 = 0 ∧
    Readable (released s g) g.hinge g.rcd.ctx.toNat (rdStream g.rcd b.val).toNat 16 p
  spl : ∀ c, o.spl = some c → (rdStream g.rcd c.val).toNat % 64 = 0
  bytes : Readable (released s g) g.hinge g.rcd.ctx.toNat (rdStream g.rcd o.a.val).toNat 32 f

/-- A LAUNCH has released what it orders and leaves the stream as `x`; no launch is queued. -/
structure LaunchReleased (s t : State) (g : Strm) (x : Stream) : Prop where
  stream : streamOf t g.hinge g.num = x
  others : ∀ h n, h ≠ g.hinge ∨ n ≠ g.num → streamOf t h n = streamOf s h n
  rest : t.bands = s.bands ∧ t.teams = s.teams ∧ t.launches = s.launches ∧ t.contexts = s.contexts
  cleaned : PointCleaned s t (.stream g.hinge g.rcd.ctx.toNat) .package

/-- A launch of the stream's context queued under the context's next number, which sd takes; the stream remembers it. -/
structure LaunchQueued (s t : State) (g : Strm) (d : Nat) (r : LaunchRec) (spill : Nat) : Prop where
  stream : let x := streamOf t g.hinge g.num
    let n := (ctxOf s g.rcd.ctx.toNat).nextLseq
    x = { g.rcd with pc := g.next, state := 1, sregs := x.sregs, outstanding := g.rcd.outstanding ++ [n.toNat], launching := none } ∧
      ∀ q, rdStream x q = if q = d then n else rdStream g.rcd q
  others : ∀ h n, h ≠ g.hinge ∨ n ≠ g.num → streamOf t h n = streamOf s h n
  launch : let n := (ctxOf s g.rcd.ctx.toNat).nextLseq
    aFind (launchKey g.rcd.ctx.toNat n) t.launches = some { ctx := g.rcd.ctx.toNat, lseq := n, lpc := g.addr, hinge := g.hinge
                                                            stream := g.num, rcd := r, spill := spill }
  queue : ∀ k, k ≠ launchKey g.rcd.ctx.toNat (ctxOf s g.rcd.ctx.toNat).nextLseq → aFind k t.launches = aFind k s.launches
  number : ctxOf t g.rcd.ctx.toNat = { ctxOf s g.rcd.ctx.toNat with nextLseq := (ctxOf s g.rcd.ctx.toNat).nextLseq + 1 }
  contexts : ∀ c, c ≠ g.rcd.ctx.toNat → ctxOf t c = ctxOf s c
  rest : t.bands = s.bands ∧ t.teams = s.teams

/-- A stream has 32 launches outstanding, or the bound hinge's queue holds 256. -/
def LaunchesFull (s : State) (g : Strm) (r : LaunchRec) : Prop :=
  32 ≤ g.rcd.outstanding.length ∨ 256 ≤ (queuedLaunches s (if r.pkg then 0 else r.hinge)).length

/-! ### Special registers -/

/-- CAPS (R433): installed modules, ports, stepping, profile. -/
def capsValue (s : State) : DWord :=
  BitVec.ofNat 64 (((List.range 16).filter fun n => (moduleOf s n).ranks != 0).length * 2 ^ 24 + s.links * 2 ^ 16
    + s.stepping.toNat * 2 ^ 8 + if s.profileN then 2 else 1)

/-- CYCLE (R453, R475): it counts from the cold reset, of each agent from its own cycle, which is the model's choice (log 32). -/
def clockOf (s : State) (agent : Nat) : DWord := BitVec.ofNat 64 (s.now - s.bootTime - Config.cycleOffset s.bootTime agent)

/-- A special register as a thread of a band reads it (R432-R434). -/
def special (s : State) (g : Grp) (tm : Team) (lane : Nat) (r : Sreg) : DWord :=
  let t := threadOf g.band lane
  let c := ctxOf s tm.ctx
  let k := coreOf s g.core
  match r with
  | .lane => BitVec.ofNat 64 lane
  | .band => BitVec.ofNat 64 g.band.idx
  | .team => BitVec.ofNat 64 tm.team
  | .group => BitVec.ofNat 64 tm.group
  | .lseq => tm.lseq
  | .lpc => tm.lpc
  | .cycle => clockOf s g.core
  | .caps => capsValue s
  | .corecaps => BitVec.ofNat 64 (k.kdecl.toNat * 2 ^ 48 + g.core * 2 ^ 32 + g.core / 120 * 2 ^ 20 + g.core / 8 % 15 * 2 ^ 16
      + g.core % 8 * 2 ^ 8 + (if k.hcause then 4 else 0) + (if k.half && k.grp then 2 else 0) + if k.half then 1 else 0)
  | .ctxnum => BitVec.ofNat 64 tm.ctx
  | .ptbase => c.ptbase &&& 0x0000FFFFFFFF0000
  | .restores => BitVec.ofNat 64 (tm.winfail.toNat * 2 ^ 32 + tm.restores.toNat)
  | .fstat => t.fstat.setWidth 64
  | .fctl => g.band.rm.setWidth 64
  | .srstate => g.band.srstate
  | .tvec => c.tvec
  | .tcause => t.tcause.setWidth 64
  | .tpc => t.tpc
  | .taddr => t.taddr
  | .tinfo => t.tinfo
  | .tlevel => if t.tlevel then 1 else 0
  | .cwp n => (chanOf tm n.val).cwp
  | .csq n => (chanOf tm n.val).csq
  | .dbgctl => c.dbgctl.setWidth 64
  | .energy => g.band.energy

/-- The registers of 64 bits (R432). -/
def specialBits : Sreg → Nat
  | .lane | .band | .team | .group | .ctxnum | .fstat | .tcause | .tlevel => 32
  | _ => 64

/-- MFS on a core completes: the band as `P` says; by MFS of CWPn the threads have observed the bytes that the channel has written, as
many as it counts (R289; log 47, DEDUCED). -/
def ReadsSpecial (o : Msr) (s : State) (g : Grp) (tm : Team) (P : Band → Prop) : Prop :=
  ∃ t tm' b', exec (.mfs o) s = .next t ∧ t = { s with bands := t.bands, teams := t.teams } ∧
    (∀ j, j ≠ g.key → bandOf t j = bandOf s j) ∧ bandOf t g.key = some b' ∧
    (∀ j, j ≠ g.band.team → teamOf t j = teamOf s j) ∧ teamOf t g.band.team = some tm' ∧
    tm' = { tm with observed := tm'.observed } ∧ ((∀ n, o.reg ≠ .cwp n) → tm' = tm) ∧
    (∀ n, o.reg = .cwp n →
      (∀ l ∈ g.live, aGet 0 (seenAt g.key l n.val) tm'.observed =
        max (chanOf tm n.val).cwp.toNat (aGet 0 (seenAt g.key l n.val) tm.observed)) ∧
      ∀ k, (∀ l ∈ g.live, k ≠ seenAt g.key l n.val) → aGet 0 k tm'.observed = aGet 0 k tm.observed) ∧ P b'

/-- A register of thread scope that MTS writes (R434, R435). -/
def specialSet (r : Sreg) (v : DWord) (t : Thread) : Thread :=
  match r with
  | .fstat => { t with fstat := v.setWidth 5 }
  | .tcause => { t with tcause := v.setWidth 9 }
  | .tpc => { t with tpc := v &&& 0x007FFFFFFFFFFFFC }
  | .taddr => { t with taddr := v }
  | .tinfo => { t with tinfo := v }
  | _ => t

/-- The trap registers of a stream. -/
def specialSetStream (r : Sreg) (v : DWord) (t : Stream) : Stream :=
  match r with
  | .tvec => { t with tvec := v &&& 0x007FFFFFFFFFFFFD }
  | .tcause => { t with tcause := v.setWidth 9 }
  | .tpc => { t with tpc := v &&& 0x007FFFFFFFFFFFFC }
  | .taddr => { t with taddr := v }
  | .tinfo => { t with tinfo := v }
  | _ => t

/-! ### Traps -/

/-- A thread in its handler (R421): nothing of it changes but its trap registers, TLEVEL and program counter, and a halt, which does
not hold it there unless HSTOP is 1 or its band is stopped under R423: `stays` (R446). -/
def InHandler (tvec : DWord) (stays : Bool) (cause : Nat) (addr info pc : DWord) (t t' : Thread) : Prop :=
  t' = { t with
    tpc := pc &&& 0x007FFFFFFFFFFFFC, tcause := BitVec.ofNat 9 cause, taddr := addr, tinfo := info, tlevel := true
    pc := tvec &&& 0x007FFFFFFFFFFFFC, wait := .ready, halted := stays && t.halted }

/-- A halt holds a thread of a band in its handler: HSTOP of its context, or a stop of R423. -/
def haltStays (s : State) (b : Band) (ctx : Nat) : Bool := b.stopped || (ctxOf s ctx).dbgctl.getLsbD 0

/-- The threads of P can enter a handler: TVEC.EN is 1 and they are at TLEVEL 0 (R421); no fault of their registers' errors is taken in
the same step (R427). -/
def CanTrap (s : State) (g : Grp) (tm : Team) : Prop :=
  OfTeam s g tm ∧ s.early = [] ∧ (ctxOf s tm.ctx).tvec.getLsbD 0 = true ∧ ∀ l ∈ g.live, (threadOf g.band l).tlevel = false

/-- The step's instruction leaves each thread of P in its handler, and nothing else changed but the threads with a false guard,
which have gone on. -/
def AllTrap (i : Instr) (s : State) (g : Grp) (tm : Team) (cause : Nat) (addr info pc : DWord) : Prop :=
  ∃ t b', exec i s = .next t ∧ t = { s with bands := t.bands, faulted := t.faulted } ∧
    (∀ j, j ≠ g.key → bandOf t j = bandOf s j) ∧ bandOf t g.key = some b' ∧ b' = { g.band with threads := b'.threads } ∧
    Bystanders g b' ∧ ∀ l, l < g.band.threads.length → l ∈ g.live →
      InHandler (ctxOf s tm.ctx).tvec (haltStays s g.band tm.ctx) cause addr info pc (threadOf g.band l) (threadOf b' l)

/-- A precise fault of the whole of P at its instruction. -/
def AllFault (i : Instr) (s : State) (g : Grp) (tm : Team) (cause : Nat) (addr : DWord) (low : Nat) : Prop :=
  AllTrap i s g tm cause addr (infoOf g.word low) g.addr

/-- Eight bytes of a record at home. -/
def recordWord (s : State) (base i : Nat) : Nat := leNat (homeRead s (base + 8 * i) 8)

/-- The place of a ring's next record of `n` bytes (R467). -/
def ringPlace (r : Ring) (n : Nat) : Nat := r.base.toNat + if r.size = 0 then 0 else r.prod.toNat * n % r.size.toNat

/-- A ring has taken one record, or, full, has counted it in OVF. -/
def RingTook (r r' : Ring) (n : Nat) : Prop :=
  (ringFull r n = false → r' = { r with prod := r.prod + 1 }) ∧
  (ringFull r n = true → r' = { r with ovf := if r.ovf = BitVec.allOnes 32 then r.ovf else r.ovf + 1 })

/-- A stop on its way to a band (R444-R448). -/
def stopOf (cause trigger : Nat) (addr pc : DWord) (arrival : Nat) : Stop :=
  { cause := cause, source := 0, trigger := trigger, lane := 0, addr := addr, pc := pc, arrival := arrival, arrived := false
    issued := 0, hits := 0, recorded := false }

/-! ### Events -/

/-- An event happens: its row's meaning answers a state of which `P` holds. -/
def Happens (i : Instr) (e : Event) (s : State) (P : State → Prop) : Prop :=
  s.cur = .event e → ∃ t, exec i s = .next t ∧ P t

/-- The bands of a team, and the others, after it. -/
def holdsBand (tm : Team) (k : Nat) : Prop := ∃ n ∈ tm.slots, k = bandKey tm.core n

/-- A command or collective of a team is not complete (R359). -/
def HasPosted (s : State) (key : Nat) (tm : Team) : Prop :=
  (∃ c ∈ (coreOf s tm.core).channels, ∃ x ∈ c.2.queue ++ c.2.chain, x.team = key) ∨
    ∃ h ∈ s.hinges, ∃ x ∈ h.2.collectives, x.team = key

/-- The teams of a launch. -/
def teamsOf (r : LaunchRec) : Nat := if r.groups = 0 then r.teams else r.groups * r.teams

/-- Whether a launch stands in a hinge's queue, may be placed there, and is bound to the hinge alone. -/
def Waiting (s : State) (h : Nat) (ctx : Nat) (l : Machine.Launch) : Prop :=
  (∃ k, (k, l) ∈ s.launches) ∧ l.ctx = ctx ∧ l.rcd.pkg = false ∧ l.rcd.hinge = h ∧ l.aborted = false ∧ l.next < l.rcd.units

/-- The first word of a record of the hinge event ring, and its other words (R478); with HEVEC.EN its vector is raised. -/
def HingeRecorded (s t : State) (h kind unit group v : Nat) : Prop :=
  let ring := (hingeOf s h).events
  let base := ringPlace ring 32
  let vec := (hingeOf s h).heVec.toNat
  RingTook ring (hingeOf t h).events 32 ∧
  (ringFull ring 32 = false →
    recordWord t base 0 = kind % 256 + h % 256 * 2 ^ 8 + unit % 2 ^ 16 * 2 ^ 16 + group % 2 ^ 32 * 2 ^ 32 ∧
    recordWord t base 1 = (clockOf s (480 + h)).toNat ∧
    recordWord t base 2 = v % 2 ^ 64 ∧ recordWord t base 3 = 0 ∧ ∀ a, a < base ∨ base + 32 ≤ a → homeByte t a = homeByte s a) ∧
  ((hingeOf s h).heEn = false → t.sent = s.sent ∧ t.pba = s.pba) ∧
  ((hingeOf s h).heEn = true → msixMasked s vec = false → t.sent = s.sent ++ [.msi vec] ∧ t.pba = s.pba) ∧
  ((hingeOf s h).heEn = true → msixMasked s vec = true → t.sent = s.sent ∧ ∀ n, n < 64 → t.pba.getLsbD n = (s.pba.getLsbD n || n == vec))

/-- A band that is halted by debug, its record written and its threads halted, or stopped (R445, R423). -/
def Halted (b : Band) : Prop :=
  b.stopped = true ∨ ∃ x, b.stop = some x ∧ x.recorded = true ∧ ∀ th ∈ b.threads, th.exited = true ∨ th.halted = true

/-- The bands of a band command's set that hold a place: of the context, not retired (R470). -/
def Named (s : State) (ctx : Nat) (x : BandSet) (k : Nat) : Prop :=
  ∃ key tm n b, bandOf s k = some b ∧ b.retired = false ∧ tm.ctx = ctx ∧ n ∈ tm.slots ∧ (
    match x.scope with
    | .band => (key, tm) ∈ s.teams ∧ k = bandKey tm.core n ∧ tm.core = x.core ∧ k = bandKey x.core x.slot
    | .team => teamOf s (teamKey x.core x.tslot) = some tm ∧ k = bandKey x.core n
    | .cluster => (key, tm) ∈ s.teams ∧ k = bandKey tm.core n ∧ tm.core / 8 = x.core / 8
    | .hinge => (key, tm) ∈ s.teams ∧ k = bandKey tm.core n ∧ tm.core / 120 = x.core / 120)

/-- A band of the command that BANDCMD accepted last is in a step, or is resumed, has issued nothing since, which takes it out of the
command, and has a thread that has not exited (R470; DEDUCED, log 63). -/
def CommandBusy (s : State) (ctx : Nat) : Prop :=
  ∃ k ∈ (ctxOf s ctx).cmdBands, ∃ b tm, bandOf s k = some b ∧ teamOf s b.team = some tm ∧ tm.ctx = ctx ∧
    (b.stepping ≠ none ∨ b.stop = none ∧ b.stopped = false ∧ ∃ th ∈ b.threads, th.exited = false)

/-- A band command that changes each named halted band by `f`, and no other (R449, R423); ignored while BANDCMD is busy. `cmd` says
what becomes of the context's last command. -/
def OnNamed (i : Instr) (e : Event) (s : State) (ctx : Nat) (x : BandSet) (f : Band → Band) (cmd : State → Prop) : Prop :=
  (CommandBusy s ctx → Happens i e s fun t => t = s) ∧
  (¬ CommandBusy s ctx → Happens i e s fun t =>
    t = { s with bands := t.bands, contexts := t.contexts } ∧ cmd t ∧ ∀ k, (bandOf s k = none → bandOf t k = none) ∧
      ∀ b, bandOf s k = some b →
        (Named s ctx x k → Halted b → b.stepping = none → bandOf t k = some (f b)) ∧
        (¬ (Named s ctx x k ∧ Halted b ∧ b.stepping = none) → bandOf t k = some b))

/-- Cycles on the trigger network from the detecting core to a core (R444). -/
def coreDelay (det k : Nat) : Nat := if k = det then 2 else if k / 8 = det / 8 then 6 else if k / 120 = det / 120 then 12 else 40

/-- A block that a trigger of a scope, 0 a core's to 3 the package's, reaches: a core, a cluster or a hinge, its number, and the cycle
at which the trigger arrives (R444, R454; the delays to clusters and hinges are log 76, DEDUCED). -/
def Reaches (scope core now : Nat) (b : Nat × Nat × Nat) : Prop :=
  let k := b.2.1
  (b.1 = 0 ∧ k < 480 ∧ (scope = 0 → k = core) ∧ (scope = 1 → k / 8 = core / 8) ∧ (scope = 2 → k / 120 = core / 120) ∧
    b.2.2 = now + coreDelay core k) ∨
  (b.1 = 1 ∧ k < 60 ∧ 1 ≤ scope ∧ (scope = 1 → k = core / 8) ∧ (scope = 2 → k / 15 = core / 120) ∧
    b.2.2 = now + if k = core / 8 then 6 else if k / 15 = core / 120 then 12 else 40) ∨
  (b.1 = 2 ∧ k < 4 ∧ 2 ≤ scope ∧ (scope = 2 → k = core / 120) ∧ b.2.2 = now + if k = core / 120 then 12 else 40)

/-- A trigger has taken the next number, and waits to latch its blocks. -/
def Triggered (s t : State) (scope core : Nat) : Prop :=
  ∃ x, t.triggers = s.triggers ++ [x] ∧ x.number = s.trigcnt ∧ t.trigcnt = s.trigcnt + 1 ∧
    ∀ b, b ∈ x.blocks ↔ Reaches scope core s.now b

/-- The bands that a context's BANDCMD has accepted are those of which `p` holds; other contexts are as they were. -/
def CommandOf (s t : State) (ctx : Nat) (p : Nat → Prop) : Prop :=
  ctxOf t ctx = { ctxOf s ctx with cmdBands := (ctxOf t ctx).cmdBands } ∧ (∀ k, k ∈ (ctxOf t ctx).cmdBands ↔ p k) ∧
    ∀ c, c ≠ ctx → ctxOf t c = ctxOf s c

/-- A band after a stop has been recorded on it or a step has ended: its threads that have not exited are halted. -/
def AllHalted (b b' : Band) : Prop :=
  b'.threads.length = b.threads.length ∧ ∀ l, l < b.threads.length →
    (threadOf b' l).exited = (threadOf b l).exited ∧ (threadOf b' l).pc = (threadOf b l).pc ∧
      ((threadOf b l).exited = false → (threadOf b' l).halted = true)

/-- Bits [s+w-1:s] hold 0. -/
def zeroBits (v : DWord) (s w : Nat) : Prop := v.toNat / 2 ^ s % 2 ^ w = 0

/-- What the scrubber leaves at a word (R428). -/
def scrubbed (m : AList EccMark) (w : Nat) (x : EccMark) : Prop :=
  x = .poisoned ∧ ∃ y, (w, y) ∈ m ∧ y ≠ .single

/-- Single errors of the bands of a core. -/
def singles (s : State) (core : Nat) : Nat :=
  ((List.range 64).map fun slot => match bandOf s (bandKey core slot) with
    | some b => (b.vEcc.filter fun e => e.2 == .single).length + (b.sEcc.filter fun e => e.2 == .single).length
    | none => 0).sum

/-- Registers of the control window that read back what was written, with their writable bits, in blocks of hinge `h`, stream
`n`, context `c` (R397, R440, R467, R468, R470-R472). -/
def windowRegs (h n c i : Nat) : List (Nat × Nat) :=
  let hb := 0x100000 + 0x100000 * h
  let cb := 0x800000 + 0x1000 * c
  let all := 2 ^ 64 - 1
  [(0x00000, 0xFFFFFFFC00000000), (hb + 0x40 * n + 0x08, 0x007FFFFFFFFFFFE0), (hb + 0x40 * n + 0x18, 0xFFFFFFFF),
   (hb + 0x40 * n + 0x28, 0x007FFFFFFFFFFFF8), (hb + 0x1000 + 8 * (4 * n + i % 4), all), (hb + 0x2000, all), (hb + 0x2040, all),
   (hb + 0x2068, 0x13F), (hb + 0x3000 + 16 * n, 0x80000000FFFFFFFF), (hb + 0x3008 + 16 * n, 0xFFFFFFFF),
   (cb, 0x0000FFFFFFFF0000), (cb + 0x08, all), (cb + 0x10, all), (cb + 0x18, all), (cb + 0x20, all), (cb + 0x28, all),
   (cb + 0x30, all), (cb + 0x50, all), (cb + 0x78, all), (cb + 0x100, 0x007FFFFFFFFFFFFF),
   (cb + 0x200 + 8 * i, 0x0F7FFFFFFFFFFFFC), (cb + 0x240 + 8 * i, 0x007FFFFFFFFFFFFF),
   (cb + 0x280 + 8 * i, 0x000001FFF3FFF001), (cb + 0x308, 0x007FFFFFFFFFFFFC)]

/-- The counters of R354 and the corrected-error count of a core, in the order of its block (R473). -/
def coreCounter (c : Core) : Nat → Nat
  | 0 => c.mmacnt.toNat | 1 => c.elznop.toNat | 2 => c.elzcopy.toNat | 3 => c.elident.toNat | 4 => c.elconst.toNat
  | 5 => c.elrefuse.toNat | _ => c.corrErr.toNat

/-- A stack of near memory (R472). -/
def stackAt (s : State) (n : Nat) : Stack := aGet {} (n % 4) (hingeOf s (n / 4)).memStacks
/-- A Tarnex port by its number (R32). -/
def portHinge (p : Nat) : Nat := if p < 5 then 0 else if p < 9 then 1 else if p < 14 then 2 else 3
def portAt (s : State) (p : Nat) : Port := aGet {} p (hingeOf s (portHinge p)).ports

/-- No cache, link buffer or window of the package holds a dirty byte. -/
def AllClean (s : State) : Prop :=
  (∀ c ∈ s.cores, ∀ e ∈ c.2.l1, e.2.dirty = false) ∧ (∀ c ∈ s.clusters, ∀ e ∈ c.2.cache, e.2.dirty = false) ∧
    (∀ h ∈ s.hinges, ∀ e ∈ h.2.link, e.2.dirty = false) ∧ ∀ e ∈ s.teams, ∀ m ∈ e.2.maps, m.2.win = none

/-- The level below one, for a byte; none where it is home (R266, R267). -/
def levelBelow (s : State) (a : Nat) : Level → Option Level
  | .l1 c => some (.cluster (c / 8))
  | .cluster n => if remote s (n / 15) a then some (.link (n / 15)) else none
  | .link _ => none

/-- A byte of a page that a cluster pins stays in its cache (R235). -/
def Pinned (s : State) (l : Level) (a : Nat) : Prop :=
  ∃ n, l = .cluster n ∧ ∃ e ∈ s.teams, e.2.core / 8 = n ∧ a / 65536 ∈ e.2.pins

/-- The chain value after firmware stages (R481). -/
def chainOf (images : List (List Byte)) : BitVec 512 :=
  images.foldl (fun m i => Config.shake256 (leBytes 64 m.toNat ++ leBytes 64 (Config.shake256 i).toNat)) 0

/-- The fused repair of a core: whether a group is removed, and which survives (R24). -/
def fusedHalf (repair : List (Nat × Bool)) (n : Nat) : Bool := (repair.find? fun r => r.1 == n).isSome
def fusedGroup (repair : List (Nat × Bool)) (n : Nat) : Bool :=
  match repair.find? fun r => r.1 == n with | some x => x.2 | none => false

/-- What a reset, cold or warm, leaves of a package (R475, R476, R480, R481): no context, team, launch or stream, every ring and
event counter at zero, the fused widths, the firmware measured. -/
def FreshlyBooted (t : State) (b : Boot) (repair : List (Nat × Bool)) : Prop :=
  t.bands = [] ∧ t.teams = [] ∧ t.contexts = [] ∧ t.launches = [] ∧ t.pending = [] ∧ t.matrix = [] ∧ t.plimit = 2400 ∧
    t.apbase = 0 ∧ (t.bootState = if (bootResult b).2 = 0 then 1 else 2) ∧ t.bootError = BitVec.ofNat 4 (bootResult b).2 ∧
    t.mchain = chainOf (bootResult b).1 ∧
    (∀ n, n < 8 → n < (bootResult b).1.length → t.meas[n]? = some (chainOf ((bootResult b).1.take (n + 1)))) ∧
    (∀ h n, streamOf t h n = {}) ∧ (∀ h e, counterOf t h e = 0) ∧ (∀ h, (hingeOf t h).sample = {} ∧ (hingeOf t h).events = {}) ∧
    ∀ n, n < 480 → (coreOf t n).half = fusedHalf repair n ∧ (coreOf t n).grp = fusedGroup repair n ∧ (coreOf t n).hcause = false ∧
      (coreOf t n).dead = false ∧ (coreOf t n).l1 = [] ∧ (coreOf t n).lines = []

/-- The check that stage `n` of the firmware fails, as BOOTSTAT.ERROR numbers them, 0 for none (R480): its format, its signature, its
key, which the fuses hold for the first stage and the stage before lists for another, and its security version. -/
def stageCheck (b : Boot) (n : Nat) (x : BootStage) : Nat :=
  if x.formatOk = false then 4
  else if Config.verifies x.key x.image x.signature = false then 1
  else if (match n with
    | 0 => Config.shake256 x.key == b.keyHash
    | n + 1 => b.stages[n]?.all fun y => y.keys.contains x.key) = false then 2
  else if x.version < b.minVersion then 3
  else 0

/-! ### Steps, fetching, encodings -/

/-- A processor of the kind (`stream`) executes the opcode of these words (R40, R55). -/
def RunsOn (stream : Bool) (ws : List Nat) : Prop :=
  let op := ws.headD 0 / 4 % 256
  if stream then opOnStream op = true else streamOnly op = false

/-- An instruction with no guard. -/
def plainly (i : Instr) : Decoded := { guard := { p := 15, neg := false }, instr := i }

/-- The bytes of a word from fields of a C form (R43): LEN 0, OP, G, D, A, B from the lowest bit up. -/
def wordC (op g d a b : Nat) : Nat := op * 2 ^ 2 + g * 2 ^ 10 + d * 2 ^ 14 + a * 2 ^ 20 + b * 2 ^ 26

/-- The guard's lanes of an issue group. -/
def guarded (b : Band) (d : Decoded) (lanes : List Nat) : List Nat :=
  lanes.filter fun i => guardTrue d.guard (threadOf b i).preds

/-- The group of the band at a lane is free to issue its instruction: the core and the band let it, the scheduler may pick it (R192,
R213, R414; which candidate it picks is the model's choice, log 11), no breakpoint, due trap or owed fault holds it, and it reads no register word with an error it cannot correct. -/
structure GroupGoes (s : State) (core slot lane : Nat) (b : Band) (tm : Team) (d : Decoded) : Prop where
  band : bandOf s (bandKey core slot) = some b
  team : teamOf s b.team = some tm
  free : bandFree s core b (candidateOf b lane) = true
  pick : mayPick s core slot lane = true
  breakpoint : groupIbp s b (candidateOf b lane) (threadOf b lane).pc = []
  trap : ∀ i, dueLane b = some i → i ∉ candidateOf b lane
  owed : ∀ i ∈ candidateOf b lane, (threadOf b i).owed = none
  order : groupFree s b (bandKey core slot) (candidateOf b lane) (guarded b d (candidateOf b lane)) d.instr = true
  clean : eccFaults b (guarded b d (candidateOf b lane)) d.instr = []

/-- An outcome with its next state changed. -/
def thenState (r : Host.Outcome State Fault Refusal) (f : State → State) : Host.Outcome State Fault Refusal :=
  match r with
  | .next s => .next (f s)
  | .fault x => .fault x
  | .refused x => .refused x


/-! ### Float results as real numbers -/

/-- Precision, the exponent of the smallest subnormal, and the width of an IEEE format, a packed type's element by element (R77). -/
def precision : FTy → Nat
  | .f16 | .f16x2 => 11 | .bf16 | .bf16x2 => 8 | .f32 => 24 | .f64 => 53
def smallest : FTy → Int
  | .f16 | .f16x2 => -24 | .bf16 | .bf16x2 => -133 | .f32 => -149 | .f64 => -1074
def elemBits : FTy → Nat
  | .f16 | .f16x2 | .bf16 | .bf16x2 => 16 | .f32 => 32 | .f64 => 64

/-- The sign, exponent and trailing fields of a pattern (R77). -/
def signField (f : FTy) (b : Nat) : Bool := decide (2 ^ (elemBits f - 1) ≤ b)
def expField (f : FTy) (b : Nat) : Nat := b / 2 ^ (precision f - 1) % 2 ^ (elemBits f - precision f)
def trailField (f : FTy) (b : Nat) : Nat := b % 2 ^ (precision f - 1)
def topExp (f : FTy) : Nat := 2 ^ (elemBits f - precision f) - 1

/-- Infinities, NaNs and signalling NaNs (R77, R78). -/
def isInfinity (f : FTy) (b : Nat) : Prop := expField f b = topExp f ∧ trailField f b = 0
def isNaN (f : FTy) (b : Nat) : Prop := expField f b = topExp f ∧ trailField f b ≠ 0
def isSignalling (f : FTy) (b : Nat) : Prop := isNaN f b ∧ trailField f b < 2 ^ (precision f - 2)
def canonicalNaN (f : FTy) : Nat := 2 ^ (elemBits f - 1) - 2 ^ (precision f - 2)

/-- A pattern of the format is finite, with a sign and a magnitude (R77). -/
def Denotes (f : FTy) (b : Nat) (neg : Bool) (a : ℝ) : Prop :=
  b < 2 ^ elemBits f ∧ signField f b = neg ∧ expField f b ≠ topExp f ∧
    a = if expField f b = 0 then (trailField f b : ℝ) * 2 ^ smallest f
        else ((2 ^ (precision f - 1) + trailField f b : Nat) : ℝ) * 2 ^ (smallest f + expField f b - 1)

/-- Grid(fmt) of R86. -/
def OnGrid (f : FTy) (a : ℝ) : Prop := ∃ (m : Nat) (q : Int), m < 2 ^ precision f ∧ smallest f ≤ q ∧ a = (m : ℝ) * 2 ^ q

/-- The trailing significand of a magnitude of the grid is even. -/
def EvenOnGrid (f : FTy) (a : ℝ) : Prop :=
  ∃ (m : Nat) (q : Int), m < 2 ^ precision f ∧ (2 ^ (precision f - 1) ≤ m ∧ smallest f ≤ q ∨ q = smallest f) ∧ m % 2 = 0 ∧
    a = (m : ℝ) * 2 ^ q

/-- The upper of two neighbours is taken for a magnitude between them (R85-R87). -/
def TakesUpper (mode : Mode) (neg : Bool) (sr : Nat) (a lo hi : ℝ) (even : Prop) : Prop :=
  match mode with
  | .rne => hi - a < a - lo ∨ (a - lo = hi - a ∧ ¬ even)
  | .rtz => False
  | .rup => neg = false
  | .rdn => neg = true
  | .sr => (sr : Int) < ⌊(a - lo) / (hi - lo) * 2 ^ 32⌋

/-- The largest finite magnitude and the smallest normal one (R77). -/
def LargestFinite (f : FTy) (a : ℝ) : Prop := a = ((2 ^ precision f - 1 : Nat) : ℝ) * 2 ^ (smallest f + topExp f - 2)
def MinNormal (f : FTy) (a : ℝ) : Prop := a = (2 : ℝ) ^ (smallest f + precision f - 1)

/-- The bits and conditions that an exact result other than 0 gives, rounded once (R86, R140). -/
def Rounds (f : FTy) (mode : Mode) (sr : Nat) (x : ℝ) (r : Nat × Flags) : Prop :=
  ∀ (neg : Bool) (lo hi m top normal : ℝ), (neg = true ↔ x < 0) → OnGrid f lo → OnGrid f hi → lo ≤ |x| → |x| < hi →
    (∀ y, OnGrid f y → y ≤ lo ∨ hi ≤ y) → LargestFinite f top → MinNormal f normal →
    let inexact := |x| ≠ lo
    let up := inexact ∧ TakesUpper mode neg sr |x| lo hi (EvenOnGrid f lo)
    (up → m = hi) → (¬ up → m = lo) →
    let toZero := mode = .rtz ∨ (mode = .rdn ∧ neg = false) ∨ (mode = .rup ∧ neg = true)
    (m ≤ top → Denotes f r.1 neg m) ∧ (top < m → toZero → Denotes f r.1 neg top) ∧
    (top < m → ¬ toZero → r.1 < 2 ^ elemBits f ∧ isInfinity f r.1 ∧ signField f r.1 = neg) ∧
    r.2.getLsbD 0 = false ∧ r.2.getLsbD 1 = false ∧ (r.2.getLsbD 2 = true ↔ top < m) ∧
    (r.2.getLsbD 3 = true ↔ inexact ∧ |x| < normal) ∧ (r.2.getLsbD 4 = true ↔ inexact ∨ top < m)

/-- A magnitude with its sign. -/
def signed (neg : Bool) (a : ℝ) (x : ℝ) : Prop := x = if neg then -a else a

/-- The order of patterns that are no NaN, -0 below +0, or with the zeros equal. -/
def orderKey (f : FTy) (apart : Bool) (b : Nat) : Int :=
  if signField f b then -((b : Int) - 2 ^ (elemBits f - 1)) - (if apart then 1 else 0) else b

/-- The truth of a condition of VFCMP (R157). -/
def ordered (c : FCond) (x y : Int) : Prop :=
  match c with
  | .eq => x = y | .ne => x ≠ y | .lt => x < y | .le => x ≤ y | .gt => y < x | .ge => y ≤ x | .ord => True | .uno => False

/-! ### Faults of operands -/

/-- Vector registers as numbers that an allocation bounds. -/
def vregs (rs : List Nat) : List (Nat × Nat) := rs.map fun r => (1, r)

/-- A tumbler, where a post names one. -/
def tumblerNamed (t : Option (Fin 24)) : List (Nat × Nat) :=
  match t with | some t => [(4, t.val)] | none => []

/-- A tile, or the pair of a wide element. -/
def tilesNamed (wide : Bool) (t : Fin 16) : List (Nat × Nat) := if wide then [(2, t.val), (2, t.val + 1)] else [(2, t.val)]

/-- The registers of a vector block of `k` elements a lane. -/
def blockNamed (ty : Ty) (k : Nat) : Mcand → List (Nat × Nat)
  | .vec r => vregs ((List.range (k * tyBytes ty / 4)).map (r.val + ·))
  | .stash .. => []

/-- The numbers that an instruction names and that an allocation bounds, each with its kind of R419: 1 a vector register, of a 64-bit
pair the even one, 2 a tile, 3 a scale column, 4 a tumbler (R46, R303, R305). -/
def ranged : Instr → List (Nat × Nat)
  | .vaddC o | .vsubC o | .vmulC o | .vmulhC o | .vandC o | .vorC o | .vxorC o | .vandnC o | .vshlC o | .vshrC o | .vsarC o
  | .vminC o | .vmaxC o | .vaddsC o | .vsubsC o | .vfaddC o | .vfsubC o | .vfmulC o | .vfminC o | .vfmaxC o | .vfdivC o =>
    vregs [o.d.val, o.a.val, o.b.val]
  | .vadd o | .vsub o | .vmul o | .vmulh o | .vand o | .vor o | .vxor o | .vandn o | .vshl o | .vshr o | .vsar o | .vmin o | .vmax o
  | .vadds o | .vsubs o => vregs ([o.d.val, o.a.val] ++ namedB o.b)
  | .vmad o | .vmadw o => vregs ([o.d.val, o.a.val] ++ namedB o.b ++ [o.c.val])
  | .vdot4 o => vregs ([o.d.val, o.a.val] ++ namedB o.b ++ [o.c.val])
  | .vcmp o => vregs (o.a.val :: namedB o.b)
  | .vsel o => vregs ([o.d.val, o.a.val] ++ namedB o.b)
  | .vabsC o | .vpopcC o | .vclzC o | .vfclassC o | .vfrcpC o | .vfrsqC o | .vfsqrtC o | .vfexp2C o | .vflog2C o | .vfsinC o
  | .vfcosC o | .vftanhC o => vregs [o.d.val, o.a.val]
  | .vabs o | .vpopc o | .vclz o => vregs [o.d.val, o.a.val]
  | .vbfx o | .vbfi o => vregs ([o.d.val, o.a.val] ++ namedField o.fld)
  | .vmovsC o => vregs [o.d.val]
  | .vmovs o => vregs [o.d.val]
  | .vli o => vregs [o.d.val]
  | .vidxC o => vregs [o.d.val]
  | .vidx o => vregs (o.d.val :: namedB o.b)
  | .smovv o => vregs [o.a.val]
  | .vfadd o | .vfsub o | .vfmul o | .vfdiv o => vregs ([o.d.val, o.a.val] ++ namedB o.b)
  | .vfma o => vregs ([o.d.val, o.a.val] ++ namedB o.b ++ [o.c.val])
  | .vaddmin o | .vaddmax o => vregs ([o.d.val, o.a.val] ++ namedB o.b ++ [o.c.val])
  | .vfmin o | .vfmax o => vregs ([o.d.val, o.a.val] ++ namedB o.b)
  | .vfcmp o => vregs (o.a.val :: namedB o.b)
  | .vfclass o => vregs [o.d.val, o.a.val]
  | .vfrcp o | .vfrsq o | .vfsqrt o | .vfexp2 o | .vflog2 o | .vfsin o | .vfcos o | .vftanh o => vregs [o.d.val, o.a.val]
  | .vfrnd o => vregs [o.d.val, o.a.val]
  | .vcvt o => vregs [o.d.val, o.a.val]
  | .vqnt o => vregs [o.d.val, o.a.val]
  | .vdqnt o => vregs [o.d.val, o.a.val, o.b.val]
  | .vpack o => vregs ([o.d.val, o.a.val, o.b.val] ++ (match o.more with | some (c, e) => [c.val, e.val] | none => []))
  | .vunpk o => vregs [o.d.val + 32 / (unpackElem o.sty).2 - 1, o.a.val]
  | .vshfl o => vregs ([o.d.val, o.a.val] ++ namedB o.b ++ namedFill o.c)
  | .vbcst o => vregs ([o.d.val, o.a.val] ++ namedFill o.c)
  | .vvote o => match o.dst with | .ballot d => vregs [d.val] | _ => []
  | .vmatch o => vregs [o.d.val, o.a.val]
  | .vscan o => vregs [o.d.val, o.a.val]
  | .vred o => vregs [o.a.val]
  | .ptovC o => vregs [o.d.val]
  | .ptov o => vregs [o.d.val]
  | .vtopC o => vregs [o.a.val]
  | .vtop o => vregs [o.a.val]
  | .brx o => vregs (namedBase o.base)
  | .call o => vregs [o.d.val]
  | .callx o => vregs (o.d.val :: namedBase o.base)
  | .retC o => vregs [o.a.val]
  | .swch o => vregs [o.a.val]
  | .ld o => vregs (o.d.val :: namedMem o.mem)
  | .st o => vregs (o.c.val :: namedMem o.mem)
  | .ldn o => vregs (o.d.val :: namedMem o.mem)
  | .pref o => vregs (namedMem o.mem)
  | .clean o | .inval o => match o.what with | .lines m => vregs (namedMem m) | _ => []
  | .pgreq o => vregs (namedMem o.mem)
  | .atom o => vregs ([o.d.val, o.c.val] ++ namedMem o.mem)
  | .atomf o => vregs ([o.d.val, o.c.val] ++ namedMem o.mem)
  | .cas o => vregs ([o.d.val, o.c.val] ++ namedMem o.mem)
  | .cas2 o => vregs ([o.d.val, o.c.val] ++ namedMem o.mem)
  | .tinit o => [(4, o.t.val)]
  | .tarv o => [(4, o.t.val)]
  | .twait o => [(4, o.t.val)]
  | .ttest o => [(4, o.t.val)]
  | .mma o =>
    let k := match o.ty with | .flt .f32 => 16 | .flt .f64 => 8 | .flt _ => 32 | .int _ | .b8 _ => 64
    blockNamed o.ty k o.a ++ blockNamed o.ty k o.b ++ tilesNamed (o.ty == .flt .f64) o.d ++ tilesNamed (o.ty == .flt .f64) o.c ++
      match o.scales with
      | some (a, b) => [(3, 2 * a.toNat), (3, (2 * a.toNat + 1) % 512), (3, 2 * b.toNat), (3, (2 * b.toNat + 1) % 512)]
      | none => []
  | .mmas o =>
    blockNamed o.ty (match o.pat with | .s24 | .s48 => 64 | .s14 => 32) o.a ++ blockNamed o.ty 128 o.b ++
      tilesNamed false o.d ++ tilesNamed false o.c
  | .tzeroC o => tilesNamed false o.d
  | .tzero o => tilesNamed false o.d
  | .tfill o => tilesNamed (o.ty == .n64 || o.ty == .f64) o.d
  | .tident o => match o.dst with | .tile d => tilesNamed (o.ty == .flt .f64) d | .stash _ => []
  | .tld o => tilesNamed false o.d
  | .tst o => tilesNamed false o.c
  | .tmovv o | .tmovt o => vregs ((List.range o.count.val).map (o.v.val + ·)) ++ tilesNamed false o.t
  | .tcls o => match o.src with | .tile a => tilesNamed false a | .slot _ => []
  | .scld o => (List.range o.count.val).map fun i => (3, o.col.val + i)
  | .ttopk o => tilesNamed false o.d ++ tilesNamed false o.c ++ tilesNamed false o.a
  | .tacc o =>
    tilesNamed (o.ty == .f64) o.d ++ tilesNamed (o.ty == .f64) o.a ++ tilesNamed (o.ty == .f64) o.b
  | .tscl o => (match o.src with | .vec r => vregs [r.val] | _ => []) ++ tilesNamed false o.d ++ tilesNamed false o.a
  | .tcvt o => tilesNamed false o.d ++ tilesNamed false o.a
  | .cpost o => tumblerNamed o.tumb
  | .gpost o | .spost o => vregs [o.b.val] ++ tumblerNamed (some o.t)
  | .embag o => tumblerNamed o.t
  | .xred o => tumblerNamed o.t
  | .xgth o => tumblerNamed o.t
  | .xsnd o | .xrcv o => tumblerNamed o.t
  | .mfs o | .mts o => match o.r with | .vec r => vregs [r.val] | .sca _ => []
  | _ => []

/-- What bounds the numbers of a kind. -/
def bound (g : Grp) (tm : Team) (kind : Nat) : Nat :=
  if kind = 1 then g.band.n else if kind = 2 then tm.tileCount else if kind = 3 then 32 * tm.tileCount else tm.tumblerCount

/-- A page that an access may not use (R225, R248): the cause, and the low word of TINFO, with ACCESS `code` (R419). LDN takes a
NONRESIDENT page. -/
inductive PageRefuses (s : State) (ctx va : Nat) (write : Bool) (code : Nat) : Nat → Nat → Prop where
  | absent (k : Nat) : walk s ctx va = .error k → PageRefuses s ctx va write code 0x07 (code * 256 + k)
  | readOnly (l : Leaf) : walk s ctx va = .ok l → write = true → l.w = false →
      PageRefuses s ctx va write code 0x07 (code * 256 + 3)
  | away (l : Leaf) : walk s ctx va = .ok l → (write = true → l.w = true) → l.state = 1 → code ≠ 4 →
      PageRefuses s ctx va write code 0x07 (code * 256 + 5)
  | lost (l : Leaf) : walk s ctx va = .ok l → (write = true → l.w = true) → l.state = 3 →
      PageRefuses s ctx va write code 0x08 (code * 256)
  | remapped (l : Leaf) : walk s ctx va = .ok l → (write = true → l.w = true) → l.state = 0 ∨ (l.state = 2 ∧ write = true) →
      l.sys = false → pageLost s l.ppn = true → PageRefuses s ctx va write code 0x08 (code * 256)

/-- An access of `n` bytes of a group's thread, with ACCESS `code`, that a check of R253 stops: the cause, TADDR and the low word of
TINFO, for an offset of the stash or an address. The checks come in the order of R253. -/
inductive Refused (s : State) (g : Grp) (tm : Team) (n : Nat) (write : Bool) (code : Nat) :
    (stash : Bool) → (at_ cause addr low : Nat) → Prop where
  | outside (off : Nat) : 1024 * tm.slotCount < off + n → Refused s g tm n write code true off 0x05 off 0
  | misplaced (off : Nat) : off + n ≤ 1024 * tm.slotCount → off % n ≠ 0 → Refused s g tm n write code true off 0x06 off 0
  | unfilled (off m cause low : Nat) (e : MapEntry) (w : Window) : off + n ≤ 1024 * tm.slotCount → off % n = 0 → n < 128 →
      128 % n = 0 → windowAtSlot tm (off / 1024) = some (m, e, w) → w.filled.testBit ((off - e.first * 1024) / 128) = false →
      e.first * 1024 ≤ off → PageRefuses s tm.ctx (w.va + (off - e.first * 1024)) false code cause low →
      Refused s g tm n write code true off cause (w.va + (off - e.first * 1024)) low
  | given (off : Nat) : off + n ≤ 1024 * tm.slotCount → off % n = 0 → (∀ c, fillFault s tm off n write c = none) → write = true →
      (latchOf tm (off / 1024)).engine = true → Refused s g tm n write code true off 0x09 off 0
  | space (va : Nat) : 2 ^ 55 ≤ va → Refused s g tm n write code false va 0x05 va 0
  | unaligned (va : Nat) : va < 2 ^ 55 → va % n ≠ 0 → Refused s g tm n write code false va 0x06 va 0
  | page (va cause low : Nat) : va < 2 ^ 55 → va % n = 0 → l1Find s g.core tm.ctx va = none → Walkable s (g.core / 8) tm.ctx va →
      PageRefuses s tm.ctx va write code cause low → Refused s g tm n write code false va cause va low
  | window (va m : Nat) (l : Leaf) (e : MapEntry) (w : Window) : write = true → Present s (g.core / 8) tm.ctx va true l →
      va % n = 0 → (∀ line x, l1Find s g.core tm.ctx va = some (line, x) → line = physOf l va / 128) →
      windowAt s (physOf l va) = some (g.band.team, m, e, w) →
      (latchOf tm (windowOff e w (physOf l va) / 1024)).engine = true →
      Refused s g tm n write code false va 0x09 (windowOff e w (physOf l va)) 0

/-- A map word whose entry can be made (R263): its fields, with the other bits zero, the entry free, and the slots inside the allocation
and under no entry. -/
def Mappable (tm : Team) (m : Nat) (v : DWord) (first count : Nat) : Prop :=
  (∃ rot, rot < 16 ∧ v.toNat = first + count * 2 ^ 16 + rot * 2 ^ 24) ∧ first < 512 ∧ 0 < count ∧ count ≤ 64 ∧
    first + count ≤ tm.slotCount ∧ aFind m tm.maps = none ∧
    ∀ k e, (k, e) ∈ tm.maps → e.first + e.count ≤ first ∨ first + count ≤ e.first

/-- The lowest number of a range for which `p` holds. -/
def Lowest (n : Nat) (p : Nat → Prop) (i : Nat) : Prop := i < n ∧ p i ∧ ∀ j, j < i → ¬ p j

end Sys2Proof.Claims

open Sys2Proof Sys2Proof.Machine Sys2Proof.Claims

/-- Scalar arithmetic on a band (R98, R100, R108-R110): with a thread of a true guard, the instruction writes the result of its
operation to sd, once for the group, and the threads of the group go on; a register at or above the count takes no write; nothing
else changes. -/
def Sys2Proof.Claims.ScalarAluOnBand : Prop :=
  ∀ (s : State) (g : Grp), grpOf s = some g → g.live ≠ [] →
    (∀ p ∈ scalarCompact, ∀ o, OnceScalar (p.1 o) s g o.d.val (compactResult p.2 o (rdS g.band))) ∧
    (∀ p ∈ scalarFull, ∀ o, OnceScalar (p.1 o) s g o.d.val (scalarResult p.2 o (rdS g.band)))

/-- The other scalar instructions on a band (R112, R114, R115, R117, R119). -/
def Sys2Proof.Claims.ScalarOtherOnBand : Prop :=
  ∀ (s : State) (g : Grp), grpOf s = some g → g.live ≠ [] →
    ScalarOthers fun i d f => OnceScalar i s g d (f (rdS g.band))

/-- The scalar class on a sequencer stream (R98): the stream's own registers take the place of the band's. -/
def Obligations.ScalarOnStream : Prop :=
  ∀ (s : State) (g : Strm), strmOf s = some g → g.live = true →
    (∀ p ∈ scalarCompact, ∀ o, StreamScalar (p.1 o) s g o.d.val (compactResult p.2 o (rdStream g.rcd))) ∧
    (∀ p ∈ scalarFull, ∀ o, StreamScalar (p.1 o) s g o.d.val (scalarResult p.2 o (rdStream g.rcd))) ∧
    ScalarOthers fun i d f => StreamScalar i s g d (f (rdStream g.rcd))

/-- SMOVV (R114): the register of the band's thread in the named home lane, whatever state that thread is in. -/
def Sys2Proof.Claims.ScalarFromLane : Prop :=
  ∀ (s : State) (g : Grp) (o : SMovv), grpOf s = some g → g.live ≠ [] → o.a.val < g.band.n →
    let lane := match o.lane with | .reg r => (rdS g.band r.val).toNat % 32 | .imm l => l.val
    OnceScalar (.smovv o) s g o.d.val (asReg o.ty (lanePattern o.ty (threadOf g.band lane) o.a.val : Nat))

/-- Two-operand vector arithmetic (R101, R121, R122): each thread of the group with a true guard writes its result; a thread with
a false guard keeps its destination and goes on. -/
def Sys2Proof.Claims.VectorAlu : Prop :=
  (∀ p ∈ vectorCompact, ∀ o, LaneWrites (p.1 o) [o.d.val, o.a.val, o.b.val] .i32 o.d.val fun _ _ t =>
    exactResult p.2 .i32 (lanePattern .i32 t o.a.val) (lanePattern .i32 t o.b.val)) ∧
  (∀ p ∈ vectorFull, ∀ o, LaneWrites (p.1 o) ([o.d.val, o.a.val] ++ namedB o.b) o.ty o.d.val fun b _ t =>
    exactResult p.2 o.ty (lanePattern o.ty t o.a.val) (laneB b t o.ty o.b))

/-- The other vector integer instructions that write a register (R124, R126, R128, R129, R131, R133). -/
def Sys2Proof.Claims.VectorOther : Prop :=
  (∀ o, LaneWrites (.vmad o) ([o.d.val, o.a.val] ++ namedB o.b ++ [o.c.val]) o.ty o.d.val fun b _ t =>
      valueOf o.ty (lanePattern o.ty t o.a.val) * valueOf o.ty (laneB b t o.ty o.b)
        + valueOf o.ty (lanePattern o.ty t o.c.val)) ∧
  (∀ o, LaneWrites (.vmadw o) ([o.d.val, o.a.val] ++ namedB o.b ++ [o.c.val]) (widerTy o.ty) o.d.val fun b _ t =>
      valueOf o.ty (lanePattern o.ty t o.a.val) * valueOf o.ty (laneB b t o.ty o.b)
        + valueOf (widerTy o.ty) (lanePattern (widerTy o.ty) t o.c.val)) ∧
  (∀ o, LaneWrites (.vdot4 o) ([o.d.val, o.a.val] ++ namedB o.b ++ [o.c.val]) .i32 o.d.val fun b _ t =>
      let x := (rdV t o.a.val).toNat
      let y := laneB b t .n32 o.b
      let product := fun j => byteValue (!o.unsigned) x j * byteValue (o.unsigned == o.mix) y j
      let sum := valueOf .i32 (rdV t o.c.val).toNat + product 0 + product 1 + product 2 + product 3
      if o.sat then saturated .i32 sum else sum) ∧
  (∀ o, LaneWrites (.vsel o) ([o.d.val, o.a.val] ++ namedB o.b) o.ty o.d.val fun b _ t =>
      (if rdP t o.pc.val != o.neg then lanePattern o.ty t o.a.val else laneB b t o.ty o.b : Nat)) ∧
  (∀ o, LaneWrites (.vabsC o) [o.d.val, o.a.val] .i32 o.d.val fun _ _ t =>
      |((lanePattern .i32 t o.a.val : Nat) : Int).bmod (2 ^ 32)|) ∧
  (∀ o, LaneWrites (.vabs o) [o.d.val, o.a.val] o.ty o.d.val fun _ _ t =>
      |((lanePattern o.ty t o.a.val : Nat) : Int).bmod (2 ^ intWidth o.ty)|) ∧
  (∀ o, LaneWrites (.vpopcC o) [o.d.val, o.a.val] .i32 o.d.val fun _ _ t => onesIn 32 (lanePattern .i32 t o.a.val)) ∧
  (∀ o, LaneWrites (.vpopc o) [o.d.val, o.a.val] o.ty o.d.val fun _ _ t =>
      onesIn (intWidth o.ty) (lanePattern o.ty t o.a.val)) ∧
  (∀ o, LaneWrites (.vclzC o) [o.d.val, o.a.val] .i32 o.d.val fun _ _ t => zerosAbove 32 (lanePattern .i32 t o.a.val)) ∧
  (∀ o, LaneWrites (.vclz o) [o.d.val, o.a.val] o.ty o.d.val fun _ _ t =>
      zerosAbove (intWidth o.ty) (lanePattern o.ty t o.a.val)) ∧
  (∀ o, LaneWrites (.vbfx o) ([o.d.val, o.a.val] ++ namedField o.fld) o.ty o.d.val fun b _ t =>
      extracted o.ty (lanePattern o.ty t o.a.val) (laneField b t o.fld).1 (laneField b t o.fld).2) ∧
  (∀ o, LaneWrites (.vbfi o) ([o.d.val, o.a.val] ++ namedField o.fld) o.ty o.d.val fun b _ t =>
      inserted o.ty (lanePattern o.ty t o.a.val) (lanePattern o.ty t o.d.val) (laneField b t o.fld).1 (laneField b t o.fld).2) ∧
  (∀ o, LaneWrites (.vmovsC o) [o.d.val] .i32 o.d.val fun b _ _ => (low .i32 (rdS b o.a.val) : Nat)) ∧
  (∀ o, LaneWrites (.vmovs o) [o.d.val] o.ty o.d.val fun b _ _ => (low o.ty (rdS b o.a.val) : Nat)) ∧
  (∀ o, LaneWrites (.vli o) [o.d.val] o.ty o.d.val fun _ _ _ =>
      match o.v with | .imm v => (immPattern o.ty v : Nat) | .lit v => (low o.ty v : Nat)) ∧
  (∀ o, LaneWrites (.vidxC o) [o.d.val] .i32 o.d.val fun _ l _ => l) ∧
  (∀ o, LaneWrites (.vidx o) ([o.d.val] ++ namedB o.b) o.ty o.d.val fun b l t => laneB b t o.ty o.b + l)

/-- VCMP (R128): pd takes the truth of the condition in each thread with a true guard. -/
def Sys2Proof.Claims.VectorCompare : Prop :=
  ∀ (s : State) (g : Grp) (o : VCmp), grpOf s = some g → (∀ r ∈ o.a.val :: namedB o.b, r < g.band.n) →
    EachThread (.vcmp o) s g fun _ t t' =>
      PutsP g.next o.pd.val (condTrue o.cond o.ty (lanePattern o.ty t o.a.val) (laneB g.band t o.ty o.b)) t t'
/-- Rounded arithmetic on two operands (R137, R138, R140, R147, R151): VFADD, VFSUB, VFMUL, VFDIV, full and compact (.f32, .rne). -/
def Sys2Proof.Claims.FloatArithmetic : Prop :=
  (∀ p ∈ floatFull, ∀ o, LaneRounds (p.1 o) ([o.d.val, o.a.val] ++ namedB o.b) o.rnd (fltWidth o.ty) o.d.val fun m g l t =>
    elements o.ty fun j => rounded o.ty m (randomBits g o.rnd l j)
      (p.2 m (element o.ty (laneFlt o.ty t o.a.val) j) (element o.ty (laneFltB g.band o.ty t o.b) j))) ∧
  (∀ p ∈ floatCompact, ∀ o, LaneRounds (p.1 o) [o.d.val, o.a.val, o.b.val] .rne 32 o.d.val fun _ _ _ t =>
    elements .f32 fun _ => rounded .f32 .rne 0
      (p.2 .rne (decodeFmt fmtF32 (rdV t o.a.val).toNat) (decodeFmt fmtF32 (rdV t o.b.val).toNat)))

/-- VFSQRT (R151) and the approximate functions (R163). -/
def Sys2Proof.Claims.FloatUnary : Prop :=
  (∀ p ∈ unaryFull, ∀ o, LaneRounds (p.1 o) [o.d.val, o.a.val] o.rnd (fltWidth o.ty) o.d.val fun m g l t =>
    elements o.ty fun j => p.2 o.ty m (randomBits g o.rnd l j) (element o.ty (laneFlt o.ty t o.a.val) j)) ∧
  (∀ p ∈ unaryCompact, ∀ o, LaneRounds (p.1 o) [o.d.val, o.a.val] .rne 32 o.d.val fun _ g l t =>
    elements .f32 fun j => p.2 .f32 .rne (randomBits g .rne l j) (decodeFmt fmtF32 (rdV t o.a.val).toNat))

/-- VFMA (R149), VFRND (R161), and VADDMIN and VADDMAX (R155), whose integer forms clamp the sum and raise nothing. -/
def Sys2Proof.Claims.FloatTernary : Prop :=
  (∀ o, LaneRounds (.vfma o) ([o.d.val, o.a.val] ++ namedB o.b ++ [o.c.val]) o.rnd (fltWidth o.ty) o.d.val fun m g l t =>
    elements o.ty fun j => rounded o.ty m (randomBits g o.rnd l j)
      (fMa m o.negProd o.negAdd (element o.ty (laneFlt o.ty t o.a.val) j) (element o.ty (laneFltB g.band o.ty t o.b) j)
        (element o.ty (laneFlt o.ty t o.c.val) j))) ∧
  (∀ o, LaneRounds (.vfrnd o) [o.d.val, o.a.val] o.rnd (fltWidth o.ty) o.d.val fun m g l t =>
    elements o.ty fun j => fRnd (fmtOf o.ty) m o.exact (randomBits g o.rnd l j) (element o.ty (laneFlt o.ty t o.a.val) j)) ∧
  (∀ p ∈ [(Instr.vaddmin, false), (Instr.vaddmax, true)], ∀ (o : FAddMin) ty, o.ty = .flt ty →
    LaneRounds (p.1 o) ([o.d.val, o.a.val] ++ namedB o.b ++ [o.c.val]) o.rnd (fltWidth ty) o.d.val fun m g l t =>
      elements ty fun j =>
        let sum := rounded ty m (randomBits g o.rnd l j)
          (fAdd m (element ty (laneFlt ty t o.a.val) j) (element ty (laneFltB g.band ty t o.b) j))
        let r := fMinMax (fmtOf ty) p.2 o.nan sum.1 (elemOf ty j (laneFlt ty t o.c.val))
        (r.1, sum.2 ||| r.2)) ∧
  (∀ p ∈ [(Instr.vaddmin, false), (Instr.vaddmax, true)], ∀ (o : FAddMin) ty, o.ty = .int ty →
    LaneWrites (p.1 o) ([o.d.val, o.a.val] ++ namedB o.b ++ [o.c.val]) ty o.d.val fun b _ t =>
      let sum := saturated ty (valueOf ty (lanePattern ty t o.a.val) + valueOf ty (laneB b t ty o.b))
      let c := valueOf ty (lanePattern ty t o.c.val)
      if p.2 then max sum c else min sum c)

/-- VFMIN and VFMAX (R153), VFCLASS (R159) and VFCMP (R157). -/
def Sys2Proof.Claims.FloatSelect : Prop :=
  (∀ p ∈ [(Instr.vfmin, false), (Instr.vfmax, true)], ∀ o : FMinMax,
    LaneFloats (p.1 o) ([o.d.val, o.a.val] ++ namedB o.b) (fltWidth o.ty) o.d.val fun b t =>
      extremum o.ty p.2 o.nan (laneFlt o.ty t o.a.val) (laneFltB b o.ty t o.b)) ∧
  (∀ p ∈ [(Instr.vfminC, false), (Instr.vfmaxC, true)], ∀ o : C3,
    LaneFloats (p.1 o) [o.d.val, o.a.val, o.b.val] 32 o.d.val fun _ t =>
      extremum .f32 p.2 false (rdV t o.a.val).toNat (rdV t o.b.val).toNat) ∧
  (∀ o, LaneFloats (.vfclass o) [o.d.val, o.a.val] 32 o.d.val fun _ t => classMask o.ty (laneFlt o.ty t o.a.val)) ∧
  (∀ o, LaneFloats (.vfclassC o) [o.d.val, o.a.val] 32 o.d.val fun _ t => classMask .f32 (rdV t o.a.val).toNat) ∧
  (∀ (o : FCmp) (s : State) (g : Grp), grpOf s = some g → (∀ r ∈ o.a.val :: namedB o.b, r < g.band.n) →
    EachThread (.vfcmp o) s g fun _ t t' =>
      let r := fCmp o.cond (element o.ty (laneFlt o.ty t o.a.val) 0) (element o.ty (laneFltB g.band o.ty t o.b) 0)
      t' = { moved t g.next with preds := t'.preds, fstat := t.fstat ||| r.2 } ∧
        (o.pd.val < 15 → rdP t' o.pd.val = r.1) ∧ ∀ q, q ≠ o.pd.val → rdP t' q = rdP t q)

/-- Special operands (R78, R141, R151): NaNs, infinities, zeros and their conditions. -/
def Sys2Proof.Claims.FloatSpecialOperands : Prop :=
  ∀ (m : Mode) (n n' : Bool) (e e' : Int) (k : Nat) (x : Val),
    (∀ sig, fAdd m (.nan sig) x = (.nan false, flagIf (sig || x.isSig) flagNV) ∧
      fAdd m x (.nan sig) = (.nan false, flagIf (sig || x.isSig) flagNV) ∧
      fMul (.nan sig) x = (.nan false, flagIf (sig || x.isSig) flagNV) ∧
      fMul x (.nan sig) = (.nan false, flagIf (sig || x.isSig) flagNV) ∧
      fDiv (.nan sig) x = (.nan false, flagIf (sig || x.isSig) flagNV) ∧
      fDiv x (.nan sig) = (.nan false, flagIf (sig || x.isSig) flagNV) ∧ fSqrt (.nan sig) = (.nan false, flagIf sig flagNV)) ∧
    fAdd m (.inf n) (.inf n') = (if n = n' then (.inf n, 0) else (.nan false, flagNV)) ∧
    fSub m (.inf n) (.inf n') = (if n = n' then (.nan false, flagNV) else (.inf n, 0)) ∧
    fMul (.inf n) (.fin n' 0 e false) = (.nan false, flagNV) ∧ fMul (.fin n 0 e false) (.inf n') = (.nan false, flagNV) ∧
    fDiv (.inf n) (.inf n') = (.nan false, flagNV) ∧ fDiv (.fin n 0 e false) (.fin n' 0 e' false) = (.nan false, flagNV) ∧
    (0 < k → fDiv (.fin n k e false) (.fin n' 0 e' false) = (.inf (n != n'), flagDZ)) ∧
    fDiv (.fin n k e false) (.inf n') = (.fin (n != n') 0 0 false, 0) ∧
    fDiv (.inf n) (.fin n' k e false) = (.inf (n != n'), 0) ∧
    (0 < k → fSqrt (.fin true k e false) = (.nan false, flagNV)) ∧ fSqrt (.inf true) = (.nan false, flagNV) ∧
    fSqrt (.inf false) = (.inf false, 0) ∧ fSqrt (.fin n 0 e false) = (.fin n 0 0 false, 0) ∧
    fAdd m (.fin n 0 e false) (.fin n' 0 e' false) = (.fin (if n = n' then n else decide (m = .rdn)) 0 0 false, 0) ∧
    (0 < k → fAdd m (.fin n k e false) (.fin (!n) k e false) = (.fin (decide (m = .rdn)) 0 0 false, 0)) ∧
    fMul (.fin n k e false) (.fin n' 0 e' false) = (.fin (n != n') 0 (e + e') false, 0)

/-- A value of an IEEE format that RoundToFormat is given back unchanged under every mode, with no condition (R86): the
conversion of an exact value is exact. -/
def Sys2Proof.Claims.RoundingKeepsExactValues : Prop :=
  ∀ (f : FTy) (m : Mode) (sat : Bool) (sr bits : Nat), bits < 2 ^ (fmtOf f).width →
    (∀ neg mag e, decodeFmt (fmtOf f) bits = .fin neg mag e false →
      roundToFormat (.fin neg mag e false) (fmtOf f) m sat sr = (bits, 0))

/-- Finite operands (R86, R140, R147, R149, R151): the sum, difference, product, quotient, square root and fused product and sum, formed
exactly and other than 0, are rounded once. -/
def Sys2Proof.Claims.FloatFiniteResults : Prop :=
  ∀ (f : FTy) (mode : Mode) (sr a b c : Nat) (na nb nc : Bool) (A B C X Y Z : ℝ),
    Denotes f a na A → Denotes f b nb B → Denotes f c nc C → signed na A X → signed nb B Y → signed nc C Z →
    let va := decodeFmt (fmtOf f) a
    let vb := decodeFmt (fmtOf f) b
    let vc := decodeFmt (fmtOf f) c
    (X + Y ≠ 0 → Rounds f mode sr (X + Y) (rounded f mode sr (fAdd mode va vb))) ∧
    (X - Y ≠ 0 → Rounds f mode sr (X - Y) (rounded f mode sr (fSub mode va vb))) ∧
    (X * Y ≠ 0 → Rounds f mode sr (X * Y) (rounded f mode sr (fMul va vb))) ∧
    (X ≠ 0 → Y ≠ 0 → Rounds f mode sr (X / Y) (rounded f mode sr (fDiv va vb))) ∧
    (0 < X → Rounds f mode sr (Real.sqrt X) (rounded f mode sr (fSqrt va))) ∧
    ∀ (np nd : Bool) (P Q : ℝ), signed np (X * Y) P → signed nd Z Q → P + Q ≠ 0 →
      Rounds f mode sr (P + Q) (rounded f mode sr (fMa mode np nd va vb vc))

/-- VFRND, VFMIN, VFMAX, VFCMP and VFCLASS on an element (R153, R157, R159, R161). -/
def Sys2Proof.Claims.FloatComparisons : Prop :=
  ∀ (f : FTy) (a b : Nat), a < 2 ^ elemBits f → b < 2 ^ elemBits f →
    let va := decodeFmt (fmtOf f) a
    let vb := decodeFmt (fmtOf f) b
    let nan := isNaN f a ∨ isNaN f b
    let sig := isSignalling f a ∨ isSignalling f b
    (∀ (mode : Mode) (x : Bool) (sr : Nat) (neg : Bool) (A : ℝ), Denotes f a neg A →
      let n := ⌊A⌋₊
      let inexact := A ≠ n
      let up := inexact ∧ TakesUpper mode neg sr A n (n + 1) (n % 2 = 0)
      let r := fRnd (fmtOf f) mode x sr va
      (up → Denotes f r.1 neg (n + 1 : Nat)) ∧ (¬ up → Denotes f r.1 neg n) ∧
        (x = true → inexact → r.2 = flagNX) ∧ (x = false ∨ ¬ inexact → r.2 = 0)) ∧
    (∀ (mode : Mode) (x : Bool) (sr : Nat),
      (isInfinity f a → fRnd (fmtOf f) mode x sr va = (a, 0)) ∧
      (isNaN f a → (fRnd (fmtOf f) mode x sr va).1 = canonicalNaN f ∧
        ((fRnd (fmtOf f) mode x sr va).2 = flagNV ↔ isSignalling f a) ∧
        ((fRnd (fmtOf f) mode x sr va).2 = 0 ↔ ¬ isSignalling f a))) ∧
    (∀ (isMax strict : Bool), let r := fMinMax (fmtOf f) isMax strict a b
      (sig → r.2 = flagNV) ∧ (¬ sig → r.2 = 0) ∧
      (isNaN f a → isNaN f b ∨ strict = true → r.1 = canonicalNaN f) ∧ (isNaN f b → strict = true → r.1 = canonicalNaN f) ∧
      (isNaN f a → ¬ isNaN f b → strict = false → r.1 = b) ∧ (¬ isNaN f a → isNaN f b → strict = false → r.1 = a) ∧
      (¬ nan → (orderKey f true a ≤ orderKey f true b → r.1 = if isMax then b else a) ∧
        (orderKey f true b ≤ orderKey f true a → r.1 = if isMax then a else b))) ∧
    (∀ c : FCond, let r := fCmp c va vb
      (¬ nan → (r.1 = true ↔ ordered c (orderKey f false a) (orderKey f false b)) ∧ r.2 = 0) ∧
      (nan → (r.1 = true ↔ c = .ne ∨ c = .uno) ∧
        (sig ∨ c = .lt ∨ c = .le ∨ c = .gt ∨ c = .ge → r.2 = flagNV) ∧
        (¬ sig → c = .eq ∨ c = .ne ∨ c = .ord ∨ c = .uno → r.2 = 0))) ∧
    let k := fClass (fmtOf f) va
    let class_ := fun (p : Prop) (neg pos : Nat) => p → k = if signField f a then neg else pos
    (isSignalling f a → k = 0) ∧ (isNaN f a → ¬ isSignalling f a → k = 1) ∧ class_ (isInfinity f a) 2 9 ∧
      class_ (expField f a = 0 ∧ trailField f a = 0) 5 6 ∧ class_ (expField f a = 0 ∧ trailField f a ≠ 0) 4 7 ∧
      class_ (expField f a ≠ 0 ∧ expField f a ≠ topExp f) 3 8

/-- VCVT, VDQNT, VPACK and VUNPK (R76, R86-R89): each thread with a true guard writes its converted value, extended as its type
says, and joins the conditions. -/
def Obligations.Conversions : Prop :=
  (∀ o, LaneRounds (.vcvt o) [o.d.val, o.a.val] o.rnd (8 * tyBytes o.dty) o.d.val fun m g l t =>
    let r := converted o.dty o.sty m o.sat (randomBits g o.rnd l 0) (laneTy o.sty t o.a.val)
    (extended o.dty r.1, r.2)) ∧
  (∀ (o : Dqnt) f, fmtOfTy o.dty = some f →
    LaneRounds (.vdqnt o) [o.d.val, o.a.val, o.b.val] o.rnd (8 * tyBytes o.dty) o.d.val fun m g l t =>
      let e := (rdV t o.b.val).toNat % 256
      let r := if e = 255 then (f.nanCode, 0)
        else roundToFormat ((decodeTy o.sty ((rdV t o.a.val).toNat % 256)).scale (e - 127 : Int)) f m o.sat
          (randomBits g o.rnd l 0)
      (BitVec.ofNat 64 r.1, r.2)) ∧
  (∀ o, LaneRounds (.vpack o) ([o.d.val, o.a.val, o.b.val] ++ (match o.more with | some (c, e) => [c.val, e.val] | none => []))
      o.rnd 32 o.d.val fun m g l t =>
    let regs := [o.a.val, o.b.val] ++ (match o.more with | some (c, e) => [c.val, e.val] | none => [])
    let r := packFrom (packElem o.dty).1 (packElem o.dty).2 o.sty m o.sat (fun j => randomBits g o.rnd l j) 0
      (regs.map (laneTy o.sty t))
    (BitVec.ofNat 64 r.1, r.2)) ∧
  (∀ (o : Unpk) (s : State) (g : Grp), grpOf s = some g → o.a.val < g.band.n →
    o.d.val + 32 / (unpackElem o.sty).2 - 1 < g.band.n →
    EachThread (.vunpk o) s g fun _ t t' =>
      let w := (unpackElem o.sty).2
      let r := fun j => converted o.dty (unpackElem o.sty).1 .rne false 0 (bitsOf (rdV t o.a.val).toNat (w * j) w)
      t' = { moved t g.next with vregs := t'.vregs, fstat := (List.range (32 / w)).foldl (fun f j => f ||| (r j).2) t.fstat } ∧
        (tyBytes o.dty ≤ 4 → ∀ j, j < 32 / w → rdV t' (o.d.val + j) = (extended o.dty (r j).1).setWidth 32) ∧
        (tyBytes o.dty ≤ 4 → ∀ q, q < o.d.val ∨ o.d.val + 32 / w ≤ q → rdV t' q = rdV t q))

/-- VSHFL and VBCST (R169, R171): each lane of P takes its source lane's register as it was before any is written. -/
def Sys2Proof.Claims.LaneMoves : Prop :=
  (∀ (o : Shfl) (s : State) (g : Grp), grpOf s = some g →
    (∀ r ∈ [o.d.val, o.a.val] ++ namedB o.b ++ namedFill o.c, r < g.band.n) →
    EachThread (.vshfl o) s g fun l t t' => PutsV g.next o.d.val (if o.wide then 64 else 32)
      (taken g o.wide o.a.val o.c (shuffleFrom o.mode (32 / 2 ^ o.seg.val) l (laneB g.band t .n32 o.b)) t) t t') ∧
  (∀ (o : Bcst) (s : State) (g : Grp), grpOf s = some g → (∀ r ∈ [o.d.val, o.a.val] ++ namedFill o.c, r < g.band.n) →
    EachThread (.vbcst o) s g fun _ t t' => PutsV g.next o.d.val (if o.wide then 64 else 32)
      (taken g o.wide o.a.val o.c (match o.src with
        | .first => g.live.head?
        | .reg r => some ((rdS g.band r.val).toNat % 32)
        | .imm l => some l.val) t) t t')

/-- VMATCH, VVOTE and VSCAN (R173, R175, R177), over the set P of lanes with a true guard. -/
def Sys2Proof.Claims.LaneSets : Prop :=
  ∀ (s : State) (g : Grp), grpOf s = some g → Placed g →
    (∀ o : Match, (∀ r ∈ [o.d.val, o.a.val], r < g.band.n) → EachThread (.vmatch o) s g fun _ t t' =>
      t' = { moved t g.next with vregs := t'.vregs } ∧ (∀ r, r ≠ o.d.val → rdV t' r = rdV t r) ∧
        ∀ l, l < 32 → (rdV t' o.d.val).getLsbD l = decide (l ∈ g.live ∧
          getWide o.wide (threadOf g.band l) o.a.val = getWide o.wide t o.a.val)) ∧
    (∀ (o : Vote) (d : Fin 256), o.dst = .ballot d → d.val < g.band.n → EachThread (.vvote o) s g fun _ t t' =>
      t' = { moved t g.next with vregs := t'.vregs } ∧ (∀ r, r ≠ d.val → rdV t' r = rdV t r) ∧
        ∀ l, l < 32 → (rdV t' d.val).getLsbD l = decide (l ∈ g.live ∧ rdP (threadOf g.band l) o.a.val ≠ o.neg)) ∧
    (∀ (o : Vote) (pd : Fin 16), o.dst = .any pd → EachThread (.vvote o) s g fun _ t t' =>
      PutsP g.next pd.val (decide (∃ l ∈ g.live, rdP (threadOf g.band l) o.a.val ≠ o.neg)) t t') ∧
    (∀ (o : Vote) (pd : Fin 16), o.dst = .all pd → EachThread (.vvote o) s g fun _ t t' =>
      PutsP g.next pd.val (decide (∀ l ∈ g.live, rdP (threadOf g.band l) o.a.val ≠ o.neg)) t t') ∧
    (∀ (o : Vote) (pd : Fin 16), o.dst = .uni pd → EachThread (.vvote o) s g fun _ t t' =>
      PutsP g.next pd.val
        (decide (∀ l ∈ g.live, ∀ k ∈ g.live, rdP (threadOf g.band l) o.a.val = rdP (threadOf g.band k) o.a.val)) t t') ∧
    (∀ o : Scan, (∀ r ∈ [o.d.val, o.a.val], r < g.band.n) → EachThread (.vscan o) s g fun l t t' =>
      PutsF g.next o.d.val (redWidth o.ty) (BitVec.ofNat 64 (scanned o g l).1) (scanned o g l).2 t t')

/-- Predicate logic, PTOV, VTOP and PPOPC (R179, R181). -/
def Sys2Proof.Claims.Predicates : Prop :=
  ∀ (s : State) (g : Grp), grpOf s = some g →
    (∀ p ∈ [(Instr.pand, fun a b : Bool => a && b), (Instr.por, fun a b => a || b), (Instr.pxor, fun a b => a ^^ b)],
      ∀ o : POp2, EachThread (p.1 o) s g fun _ t t' =>
        PutsP g.next o.d.val (p.2 (rdP t o.a.val ^^ o.na) (rdP t o.b.val ^^ o.nb)) t t') ∧
    (∀ p ∈ [(Instr.pandC, fun a b : Bool => a && b), (Instr.porC, fun a b => a || b), (Instr.pxorC, fun a b => a ^^ b)],
      ∀ o : CP3, EachThread (p.1 o) s g fun _ t t' =>
        PutsP g.next o.d.val (p.2 (rdP t o.a.val) (rdP t o.b.val)) t t') ∧
    (∀ o : POp1, EachThread (.pnot o) s g fun _ t t' => PutsP g.next o.d.val (!(rdP t o.a.val ^^ o.na)) t t') ∧
    (∀ o : CP2, EachThread (.pnotC o) s g fun _ t t' => PutsP g.next o.d.val (!rdP t o.a.val) t t') ∧
    (∀ o : Ptov, o.d.val < g.band.n → EachThread (.ptov o) s g fun _ t t' =>
      PutsV g.next o.d.val 32 (if rdP t o.a.val then (if o.ones then 0xFFFFFFFF else 1) else 0) t t') ∧
    (∀ o : CRP, o.d.val < g.band.n → EachThread (.ptovC o) s g fun _ t t' =>
      PutsV g.next o.d.val 32 (if rdP t o.a.val then 1 else 0) t t') ∧
    (∀ o : Vtop, o.a.val < g.band.n → EachThread (.vtop o) s g fun _ t t' =>
      PutsP g.next o.d.val (if o.wide then rdV64 t o.a.val != 0 else rdV t o.a.val != 0) t t') ∧
    (∀ o : CPR, o.a.val < g.band.n → EachThread (.vtopC o) s g fun _ t t' =>
      PutsP g.next o.d.val (rdV t o.a.val != 0) t t') ∧
    (g.live ≠ [] → ∀ o : Ppopc, OnceScalar (.ppopc o) s g o.d.val
      (BitVec.ofNat 64 (g.live.countP fun l => rdP (threadOf g.band l) o.a.val ^^ o.neg))) ∧
    (g.live ≠ [] → ∀ o : CRP, OnceScalar (.ppopcC o) s g o.d.val
      (BitVec.ofNat 64 (g.live.countP fun l => rdP (threadOf g.band l) o.a.val)))

/-- VQNT (R89, R90): the active lanes form one block; its scale byte goes to sc, each lane takes its element divided by the
scale; a NaN or an infinity in the block makes the scale byte 255. -/
def Obligations.QuantizeBlock : Prop :=
  ∀ (s : State) (g : Grp) (o : Qnt), grpOf s = some g → g.live ≠ [] → (∀ r ∈ [o.d.val, o.a.val], r < g.band.n) →
    let val := fun l => decodeTy o.sty (laneTy o.sty (threadOf g.band l) o.a.val)
    let bad := ∃ l ∈ g.live, (val l).isNan ∨ (val l).isInf
    let top := maxMag (g.live.map val)
    let e := blockScale top.1 top.2 o.dty
    ∃ t b', exec (.vqnt o) s = .next t ∧ OnlyBand s t g.key ∧ bandOf t g.key = some b' ∧
      b' = { g.band with threads := b'.threads, sregs := b'.sregs, sEcc := b'.sEcc, srstate := srAfter g o.rnd } ∧
      Bystanders g b' ∧ (bad → PutsS o.sc.val 255 g.band b') ∧ (¬ bad → PutsS o.sc.val (BitVec.ofNat 64 e) g.band b') ∧
      ∀ l, l < g.band.threads.length → l ∈ g.live →
        (bad → PutsF g.next o.d.val (8 * tyBytes o.dty) 0 (flagIf ((val l).isInf || (val l).isSig) flagNV)
          (threadOf g.band l) (threadOf b' l)) ∧
        (¬ bad → ∀ f, fmtOfTy o.dty = some f →
          let r := roundToFormat ((val l).scale (127 - e : Int)) f (roundingMode g.band o.rnd) o.sat (randomBits g o.rnd l 0)
          PutsF g.next o.d.val (8 * tyBytes o.dty) (BitVec.ofNat 64 r.1) r.2 (threadOf g.band l) (threadOf b' l)) ∧
        (¬ bad → ∀ k, o.dty = .int k →
          let r := roundToInteger ((val l).scale (127 - e : Int)) k (roundingMode g.band o.rnd) o.sat (randomBits g o.rnd l 0)
          PutsF g.next o.d.val (8 * tyBytes o.dty) (asReg k r.1) r.2 (threadOf g.band l) (threadOf b' l))

/-- VRED at band scope (R184, R187): with fewer than 8 incomplete, one more VRED of the band holds the tree's value, and the
threads of the group go on. -/
def Sys2Proof.Claims.ReduceInBand : Prop :=
  ∀ (s : State) (g : Grp) (o : Red), grpOf s = some g → g.live ≠ [] → o.a.val < g.band.n → g.band.vreds.length < 8 →
    o.scope = .band →
    ∃ t b' x, exec (.vred o) s = .next t ∧ OnlyBand s t g.key ∧ bandOf t g.key = some b' ∧
      b' = { g.band with threads := b'.threads, vreds := g.band.vreds ++ [x] } ∧ Bystanders g b' ∧
      x.round = none ∧ x.lanes = g.live ∧ x.value = some (partialValue o g) ∧
      ∀ l, l < g.band.threads.length → l ∈ g.live → threadOf b' l = moved (threadOf g.band l) g.next

/-- VRED at team scope (R185): a contribution that does not fill its round opens or joins the round of its slot in the team with
the band's partial, and the execution has no value yet. -/
def Sys2Proof.Claims.ReduceInTeam : Prop :=
  ∀ (s : State) (g : Grp) (o : Red) (tm : Team) (slot : Fin 16) (count : BitVec 16), grpOf s = some g → g.live ≠ [] →
    o.a.val < g.band.n → g.band.vreds.length < 8 → o.scope = .team slot count → teamOf s g.band.team = some tm →
    let parts := match aFind slot.val tm.rounds with | some r => r.parts | none => []
    let full := match aFind slot.val tm.rounds with | some r => r.count | none => count.toNat
    parts.length + 1 < full →
    ∃ t b' x r, exec (.vred o) s = .next t ∧ t = { s with bands := t.bands, teams := t.teams } ∧
      (∀ j, j ≠ g.key → bandOf t j = bandOf s j) ∧ (∀ j, j ≠ g.band.team → teamOf t j = teamOf s j) ∧
      teamOf t g.band.team = some { tm with rounds := aInsert slot.val r tm.rounds } ∧
      r.parts = parts ++ [(g.key, partialValue o g)] ∧ r.count = full ∧ bandOf t g.key = some b' ∧
      b' = { g.band with threads := b'.threads, vreds := g.band.vreds ++ [x] } ∧ Bystanders g b' ∧
      x.round = some (false, slot.val) ∧ x.lanes = g.live ∧ x.value = none ∧
      ∀ l, l < g.band.threads.length → l ∈ g.live → threadOf b' l = moved (threadOf g.band l) g.next

/-- VRED at cluster scope (R185, R186): the same with the rounds of the core's cluster, in the entry of the group's open round of that
slot, else the lowest free of 64; with none free the whole group waits at issue. -/
def Sys2Proof.Claims.ReduceInCluster : Prop :=
  ∀ (s : State) (g : Grp) (o : Red) (tm : Team) (slot : Fin 16) (count : BitVec 16), grpOf s = some g → g.live ≠ [] →
    o.a.val < g.band.n → g.band.vreds.length < 8 → o.scope = .cluster slot count → teamOf s g.band.team = some tm →
    let cl := Machine.clusterOf s (g.core / 8)
    let owner := (tm.lseq.toNat, if tm.grouped then tm.group else 2 ^ 63 + tm.gridIdx)
    let same := fun r : Round => r.owner = owner ∧ r.slot = slot.val ∧ r.ctx = tm.ctx
    let free := fun e => e < 64 ∧ aFind e cl.rounds = none ∧ (∀ x ∈ cl.rounds, ¬ same x.2) ∧ ∀ j, j < e → aFind j cl.rounds ≠ none
    (∀ e parts full, (free e ∧ parts = [] ∧ full = count.toNat) ∨
        (∃ r l1 l2, cl.rounds = l1 ++ (e, r) :: l2 ∧ (∀ x ∈ l1, x.1 ≠ e ∧ ¬ same x.2) ∧ same r ∧ parts = r.parts ∧ full = r.count) →
      parts.length + 1 < full →
      ∃ t b' x r, exec (.vred o) s = .next t ∧ t = { s with bands := t.bands, clusters := t.clusters } ∧
        (∀ j, j ≠ g.key → bandOf t j = bandOf s j) ∧ (∀ j, j ≠ g.core / 8 → Machine.clusterOf t j = Machine.clusterOf s j) ∧
        Machine.clusterOf t (g.core / 8) = { cl with rounds := aInsert e r cl.rounds } ∧
        r.parts = parts ++ [(g.key, partialValue o g)] ∧ r.count = full ∧ same r ∧ bandOf t g.key = some b' ∧
        b' = { g.band with threads := b'.threads, vreds := g.band.vreds ++ [x] } ∧ Bystanders g b' ∧
        x.round = some (true, e) ∧ x.lanes = g.live ∧ x.value = none ∧
        ∀ l, l < g.band.threads.length → l ∈ g.live → threadOf b' l = moved (threadOf g.band l) g.next) ∧
    ((∀ x ∈ cl.rounds, ¬ same x.2) → (∀ e, e < 64 → aFind e cl.rounds ≠ none) → ∃ code, GroupHolds (.vred o) s g (.polled code))

/-- The contribution that closes a round, of a team or of a cluster (R185): the round is gone, and every execution that contributed has
the value of its partials, joined in an order that the model leaves free (log 82). Of a band that has eight incomplete VREDs the whole
group waits at issue (R187). -/
def Sys2Proof.Claims.ReductionCloses : Prop :=
  (∀ (s : State) (g : Grp) (o : Red) (tm : Team) (r : Round) (rn : Bool × Nat) (slot : Fin 16) (count : BitVec 16),
    grpOf s = some g → g.live ≠ [] → o.a.val < g.band.n → g.band.vreds.length < 8 → teamOf s g.band.team = some tm →
    let cl := Machine.clusterOf s (g.core / 8)
    let rs := if rn.1 then cl.rounds else tm.rounds
    (o.scope = .team slot count ∧ rn = (false, slot.val)) ∨
      (o.scope = .cluster slot count ∧ rn.1 = true ∧
        clusterEntry cl.rounds (groupOwner tm) slot.val tm.ctx = some rn.2) →
    aFind rn.2 rs = some r ∨ (aFind rn.2 rs = none ∧ r.parts = [] ∧ r.op = o.op ∧ r.ty = o.ty ∧ r.count = count.toNat) →
    r.count ≤ r.parts.length + 1 →
    ∃ t b' x v fl, exec (.vred o) s = .next t ∧ t = { s with bands := t.bands, teams := t.teams, clusters := t.clusters, tick := t.tick } ∧
      RoundValue r.op r.ty ((r.parts ++ [(g.key, partialValue o g)]).map (·.2)) v ∧
      (rn.1 = false → t.clusters = s.clusters ∧ teamOf t g.band.team = some { tm with rounds := aErase rn.2 tm.rounds }) ∧
      (rn.1 = true → t.teams = s.teams ∧ Machine.clusterOf t (g.core / 8) = { cl with rounds := aErase rn.2 cl.rounds }) ∧
      bandOf t g.key = some b' ∧ b' = { g.band with threads := b'.threads, vreds := valued rn v fl (g.band.vreds ++ [x]) } ∧
      x.round = some rn ∧ x.lanes = g.live ∧ x.value = none ∧ Bystanders g b' ∧
      (∀ l, l < g.band.threads.length → l ∈ g.live → threadOf b' l = moved (threadOf g.band l) g.next) ∧
      ∀ k, k ≠ g.key → bandOf t k = (match bandOf s k with
        | some b => some (if k ∈ r.parts.map (·.1) then { b with vreds := valued rn v fl b.vreds } else b)
        | none => none)) ∧
  ∀ (s : State) (g : Grp) (o : Red), grpOf s = some g → g.live ≠ [] → o.a.val < g.band.n → 8 ≤ g.band.vreds.length →
    ∃ code, GroupHolds (.vred o) s g (.polled code)

/-- VRED_COMPLETION (R187): the band's oldest VRED, once its value is known, writes VALUE and raises SEQ by one, its conditions
reach FSTAT of its threads, and a group that waits in SRDW for that number has the value. -/
def Sys2Proof.Claims.ReductionCompletes : Prop :=
  ∀ (s : State) (core slot : Nat) (b : Band) (x : VredExec) (rest : List VredExec) (v : DWord),
    s.cur = .event (.vredCompletion core slot) → bandOf s (core * 64 + slot) = some b → b.vreds = x :: rest →
    x.value = some v →
    ∃ t b', exec .vredCompletion s = .next t ∧ OnlyBand s t (core * 64 + slot) ∧ bandOf t (core * 64 + slot) = some b' ∧
      b' = { b with threads := b'.threads, vreds := rest, rdrValue := v, rdrSeq := b.rdrSeq + 1 } ∧
      ∀ l, l < b.threads.length →
        (threadOf b' l).fstat = (if l ∈ x.lanes then (threadOf b l).fstat ||| x.flags else (threadOf b l).fstat) ∧
        (threadOf b' l).wait = (if (threadOf b l).wait = .rdr (b.rdrSeq + 1) then .captured v else (threadOf b l).wait) ∧
        (threadOf b' l).pc = (threadOf b l).pc ∧ (threadOf b' l).vregs = (threadOf b l).vregs

/-- SRDW (R190): the .seq form reads SEQ; the waiting form gives VALUE when SEQ has reached n, the captured value after a wait,
the present VALUE with ok false when no pending VRED reaches n; else the whole group waits at the instruction. -/
def Sys2Proof.Claims.ReductionRead : Prop :=
  ∀ (s : State) (g : Grp) (o : Rdw), grpOf s = some g → g.live ≠ [] →
    (o.what = .seq → OnceScalar (.srdw o) s g o.d.val (g.band.rdrSeq.setWidth 64)) ∧
    (∀ n pc, o.what = .wait n pc → (∀ l ∈ g.live, ∀ v, (threadOf g.band l).wait ≠ .captured v) →
      let number : BitVec 16 := match n with | .reg r => (rdS g.band r.val).setWidth 16 | .imm v => v.setWidth 16
      (number = g.band.rdrSeq ∨ g.band.vreds.length < (number - g.band.rdrSeq).toNat →
        ∃ t b', exec (.srdw o) s = .next t ∧ OnlyBand s t g.key ∧ bandOf t g.key = some b' ∧
          b' = { g.band with threads := b'.threads, sregs := b'.sregs, sEcc := b'.sEcc } ∧ Bystanders g b' ∧
          PutsS o.d.val g.band.rdrValue g.band b' ∧
          ∀ l, l < g.band.threads.length → l ∈ g.live →
            (pc = none → threadOf b' l = moved (threadOf g.band l) g.next) ∧
            ∀ p : Fin 16, pc = some p →
              PutsP g.next p.val (decide (number = g.band.rdrSeq)) (threadOf g.band l) (threadOf b' l)) ∧
      (number ≠ g.band.rdrSeq → (number - g.band.rdrSeq).toNat ≤ g.band.vreds.length →
        GroupHolds (.srdw o) s g (.rdr number))) ∧
    (∀ n pc v, o.what = .wait n pc → (threadOf g.band (g.live.headD 0)).wait = .captured v →
      ∃ t b', exec (.srdw o) s = .next t ∧ OnlyBand s t g.key ∧ bandOf t g.key = some b' ∧ PutsS o.d.val v g.band b' ∧
        ∀ l, l < g.band.threads.length → l ∈ g.live → ∀ p : Fin 16, pc = some p →
          PutsP g.next p.val true (threadOf g.band l) (threadOf b' l))

/-- NOP and YIELD (R196, R213): each thread with a true guard only goes on; YIELD notes that another candidate goes first. -/
def Sys2Proof.Claims.NopAndYield : Prop :=
  ∀ (s : State) (g : Grp), grpOf s = some g →
    EachThread .nopC s g (fun _ t t' => t' = moved t g.next) ∧
    ∃ t b', exec .yieldC s = .next t ∧ OnlyBand s t g.key ∧ bandOf t g.key = some b' ∧
      b' = { g.band with threads := b'.threads, yielded := BitVec.ofNat 32 (laneMask g.live) } ∧ Bystanders g b' ∧
      ∀ l, l < g.band.threads.length → l ∈ g.live → threadOf b' l = moved (threadOf g.band l) g.next

/-- BRA, BRX, CALL, CALLX and RET on a core (R198, R200): with reachable targets, each thread with a true guard is at its own
target, and a call leaves the address of the next instruction in its link pair; the target is read before the link is written. -/
def Sys2Proof.Claims.JumpsOnCore : Prop :=
  (∀ o, LaneJumps (.bra o) [] (fun g _ => targetOf g.addr o.off) fun _ => none) ∧
  (∀ o, LaneJumps (.brx o) (namedBase o.base) (fun g t => laneBase g.band t o.base + o.off.signExtend 64) fun _ => none) ∧
  (∀ o, LaneJumps (.call o) [o.d.val] (fun g _ => targetOf g.addr o.off) (linkAfter o.d.val)) ∧
  (∀ o, LaneJumps (.callx o) (o.d.val :: namedBase o.base) (fun g t => laneBase g.band t o.base + o.off.signExtend 64)
    (linkAfter o.d.val)) ∧
  (∀ o, LaneJumps (.retC o) [o.a.val] (fun _ t => rdV64 t o.a.val) fun _ => none)

/-- The control-flow instructions of a sequencer stream (R201): scalar registers hold targets and links; NOP only goes on. -/
def Sys2Proof.Claims.JumpsOnStream : Prop :=
  (∀ o, StreamJumps (.bra o) (fun g => targetOf g.addr o.off) none) ∧
  (∀ (o : Brx) r, o.base = .sca r →
    StreamJumps (.brx o) (fun g => rdStream g.rcd r.val + o.off.signExtend 64) none) ∧
  (∀ o, StreamJumps (.call o) (fun g => targetOf g.addr o.off) (some o.d.val)) ∧
  (∀ (o : Callx) r, o.base = .sca r →
    StreamJumps (.callx o) (fun g => rdStream g.rcd r.val + o.off.signExtend 64) (some o.d.val)) ∧
  (∀ o, StreamJumps (.retC o) (fun g => rdStream g.rcd o.a.val) none) ∧
  (∀ (s : State) (g : Strm), strmOf s = some g → g.live = true →
    ∃ t x, exec .nopC s = .next t ∧ OnlyStream s t g.hinge g.num ∧ streamOf t g.hinge g.num = x ∧
      x = { g.rcd with pc := g.next, state := 1 })

/-- BRD and SWCH below the hardware stack's end (R205, R210): the threads of P are the new top entry, with no thread arrived, and
each goes to the side its predicate, or its case, selects. -/
def Sys2Proof.Claims.SplitPush : Prop :=
  ∀ (s : State) (g : Grp) (tm : Team), grpOf s = some g → Placed g → g.live ≠ [] → g.band.reload = none →
    (∀ l ∈ g.live, (threadOf g.band l).exited = false) → teamOf s g.band.team = some tm →
    g.band.split.length < 16 → g.band.split.length + g.band.spilled.length < 16 + tm.spillBytes / 16 →
    (∀ o : Brd, (targetOf g.addr o.off).toNat < 2 ^ 55 → (g.addr + (o.joff.signExtend 64) * 4).toNat < 2 ^ 55 →
      SplitStep (.brd o) s g
        (fun st => ∃ e, st = e :: g.band.split ∧ e.join = g.addr + (o.joff.signExtend 64) * 4 ∧ MaskOf e.mask g.live ∧
          e.arrived = 0)
        fun _ t t' => t' = moved t (if rdP t o.pa.val ≠ o.neg then targetOf g.addr o.off else g.next)) ∧
    (∀ o : Swch, o.a.val < g.band.n → (targetOf g.addr o.join).toNat < 2 ^ 55 →
      (∀ i, i < o.n.val → (targetOf g.addr (o.offs.toList.getD i 0)).toNat < 2 ^ 55) →
      SplitStep (.swch o) s g
        (fun st => ∃ e, st = e :: g.band.split ∧ e.join = targetOf g.addr o.join ∧ MaskOf e.mask g.live ∧ e.arrived = 0)
        fun _ t t' => t' = moved t (caseTarget o g.addr (rdV t o.a.val)))

/-- JOIN (R203, R206): outside its region it only goes on; at the top entry's join address the threads arrive and wait while a
thread of the entry still runs; the last to arrive pop the entry and release its threads together. -/
def Sys2Proof.Claims.Joins : Prop :=
  ∀ (s : State) (g : Grp) (tm : Team), grpOf s = some g → Placed g → g.live ≠ [] → NoSpill g.band →
    teamOf s g.band.team = some tm →
    ((∀ e ∈ g.band.split, e.join ≠ g.addr) →
      (∀ e rest, g.band.split = e :: rest → ∃ l, WaitsFor e l ∧ l < 32 ∧ (threadOf g.band l).exited = false ∧
        (l ∈ g.live ∨ Awake g.band l)) →
      SplitStep .joinC s g (fun st => st = g.band.split) fun _ t t' => t' = moved t g.next) ∧
    (∀ e rest, g.band.split = e :: rest → e.join = g.addr → (∀ l ∈ g.live, e.mask.getLsbD l = true) →
      (∃ l, WaitsFor e l ∧ l ∉ g.lanes ∧ Awake g.band l) →
      SplitStep .joinC s g
        (fun st => ∃ e', st = e' :: rest ∧ e'.join = e.join ∧ e'.mask = e.mask ∧
          ∀ l, l < 32 → (e'.arrived.getLsbD l = true ↔ e.arrived.getLsbD l = true ∨ l ∈ g.live))
        fun _ t t' => t' = { t with wait := .join s.now false }) ∧
    (∀ e rest, g.band.split = e :: rest → e.join = g.addr → (∀ l ∈ g.live, e.mask.getLsbD l = true) →
      (∀ l, l < 32 → WaitsFor e l → (threadOf g.band l).exited = false → l ∈ g.live) →
      (∀ l ∈ g.live, (threadOf g.band l).exited = false) →
      (∀ f r, rest = f :: r → ∃ l, l < 32 ∧ WaitsFor f l ∧ e.mask.getLsbD l = true ∧ (threadOf g.band l).exited = false) →
      ∃ t b', exec .joinC s = .next t ∧ OnlyBand s t g.key ∧ bandOf t g.key = some b' ∧
        b' = { g.band with threads := b'.threads, split := rest } ∧
        ∀ l, l < 32 → e.mask.getLsbD l = true → (threadOf g.band l).exited = false →
          threadOf b' l = moved (threadOf g.band l) (g.addr + 4))

/-- BRK and EXIT with the stack in hardware (R208, R212): BRK takes the threads of P out of the top n entries and sends them to
its target; EXIT marks them exited; the entry on top stays while another of its threads runs. -/
def Sys2Proof.Claims.BreakAndExit : Prop :=
  ∀ (s : State) (g : Grp), grpOf s = some g → Placed g → g.live ≠ [] → NoSpill g.band →
    (∀ o : Brk, 0 < o.n.val → o.n.val ≤ g.band.split.length → (targetOf g.addr o.off).toNat < 2 ^ 55 →
      (∀ e rest, g.band.split = e :: rest → ∃ l, WaitsFor e l ∧ l ∉ g.lanes ∧ Awake g.band l) →
      SplitStep (.brk o) s g
        (fun st => st.length = g.band.split.length ∧ ∀ j e, g.band.split[j]? = some e → ∃ e', st[j]? = some e' ∧
          e'.join = e.join ∧ ∀ l, l < 32 →
            (e'.mask.getLsbD l = (e.mask.getLsbD l && (decide (o.n.val ≤ j) || decide (l ∉ g.live)))) ∧
            (e'.arrived.getLsbD l = (e.arrived.getLsbD l && (decide (o.n.val ≤ j) || decide (l ∉ g.live)))))
        fun _ t t' => t' = moved t (targetOf g.addr o.off)) ∧
    ((∀ e rest, g.band.split = e :: rest → ∃ l, WaitsFor e l ∧ l ∉ g.lanes ∧ Awake g.band l) →
      SplitStep .exitC s g (fun st => st = g.band.split) fun _ t t' => t' = { t with exited := true, wait := .ready })

/-- After every settle the top entry, if there is one, waits for a thread that has not exited (R203). -/
def Obligations.SettledStack : Prop :=
  ∀ (s : State) (k word : Nat) (p : List Nat) (b : Band), bandOf (settle s k p word) k = some b →
    ∀ e rest, b.split = e :: rest → ∃ l, l < 32 ∧ WaitsFor e l ∧ (threadOf b l).exited = false

/-- LOOP with a count (R216): below four entries it pushes the entry and goes on into the body. -/
def Sys2Proof.Claims.LoopStart : Prop :=
  ∀ (s : State) (g : Grp) (tm : Team) (o : Sys2Proof.Loop), grpOf s = some g → g.live ≠ [] → teamOf s g.band.team = some tm →
    g.band.loops.length < 4 → loopCount g.band o.count ≠ 0 →
    ∃ t b', exec (.loop o) s = .next t ∧ OnlyBand s t g.key ∧ bandOf t g.key = some b' ∧
      b' = { g.band with
        threads := b'.threads
        loops := { start := g.next, fin := targetOf g.addr o.off, remaining := BitVec.ofNat 32 (loopCount g.band o.count) }
          :: g.band.loops } ∧
      Bystanders g b' ∧ ∀ l, l < g.band.threads.length → l ∈ g.live → threadOf b' l = moved (threadOf g.band l) g.next

/-- The end of a loop's body (R217), for a group that leaves its end in order: a pass is taken from the count and the group goes
to the start; the last pass, and a taken branch, remove the entry. -/
def Sys2Proof.Claims.LoopEnd : Prop :=
  ∀ (s : State) (k : Nat) (b : Band) (e : LoopEntry) (rest : List LoopEntry) (gone seq : List Nat),
    bandOf s k = some b → b.loops = e :: rest → (∀ f r, rest = f :: r → f.fin ≠ e.fin) →
    (gone ≠ [] ∨ (seq ≠ [] ∧ e.remaining = 1) → evalLoops 5 s k e.fin gone seq [] = setBand s k { b with loops := rest }) ∧
    (gone = [] → seq ≠ [] → e.remaining ≠ 1 →
      ∃ b', evalLoops 5 s k e.fin gone seq [] = setBand s k b' ∧
        b' = { b with threads := b'.threads, loops := { e with remaining := e.remaining - 1 } :: rest } ∧
        (∀ l, l < b.threads.length → l ∈ seq → threadOf b' l = { threadOf b l with pc := e.start }) ∧
        ∀ l, l ∉ seq → threadOf b' l = threadOf b l)

/-- LD, ST and LDN (R253, R255, R256): accesses that pass every check are issued, one for each thread with a true guard. LDN of
a page that is not resident gives 0 and a false predicate, every other LDN a true one. -/
def Sys2Proof.Claims.VectorMemory : Prop :=
  ∀ (s : State) (g : Grp) (tm : Team) (loc : Nat → Loc), OfTeam s g tm →
    (∀ o : Ld, (∀ r ∈ o.d.val :: namedMem o.mem, r < g.band.n) →
      (∀ l ∈ g.live, Locates s g tm (bytesOf o.w) false o.mem.stash (laneAddress g.band (threadOf g.band l) o.mem) (loc l)) →
      IssuesLanes (.ld o) s g tm (fun l => [.load (loc l) o.w (.vec o.d.val) o.acq o.ch]) fun _ t t' => t' = moved t g.next) ∧
    (∀ o : St, (∀ r ∈ o.c.val :: namedMem o.mem, r < g.band.n) →
      (∀ l ∈ g.live, Locates s g tm (bytesOf o.w) true o.mem.stash (laneAddress g.band (threadOf g.band l) o.mem) (loc l)) →
      IssuesLanes (.st o) s g tm
        (fun l => [.store (loc l) (bytesOf o.w)
          ((if o.w = .n64 then (rdV64 (threadOf g.band l) o.c.val).toNat else (rdV (threadOf g.band l) o.c.val).toNat)
            % 2 ^ (8 * bytesOf o.w)) o.rel o.ch])
        fun _ t t' => t' = moved t g.next) ∧
    (∀ o : Ldn, o.mem.stash = false → (∀ r ∈ o.d.val :: namedMem o.mem, r < g.band.n) →
      (∀ l ∈ g.live, Locates s g tm (bytesOf o.w) false false (laneAddress g.band (threadOf g.band l) o.mem) (loc l)) →
      IssuesLanes (.ldn o) s g tm (fun l => [.load (loc l) o.w (.vec o.d.val) none o.ch]) fun _ t t' =>
        PutsP g.next o.pc.val true t t') ∧
    (∀ o : Ldn, o.mem.stash = false → (∀ r ∈ o.d.val :: namedMem o.mem, r < g.band.n) →
      (∀ l ∈ g.live, let va := laneAddress g.band (threadOf g.band l) o.mem
        va < 2 ^ 55 ∧ va % bytesOf o.w = 0 ∧ l1Find s g.core tm.ctx va = none ∧ TlbSound s (g.core / 8) tm.ctx va ∧
          walkWaits s (g.core / 8) tm.ctx va = false ∧ ∃ f, walk s tm.ctx va = .ok f ∧ f.state = 1) →
      IssuesLanes (.ldn o) s g tm (fun _ => []) fun _ t t' =>
        t' = { moved t g.next with vregs := t'.vregs, preds := t'.preds } ∧ rdV t' o.d.val = 0 ∧
          (o.w = .n64 → rdV t' (o.d.val + 1) = 0) ∧ (o.pc.val < 15 → rdP t' o.pc.val = false) ∧
          (∀ r, r ≠ o.d.val → (o.w = .n64 → r ≠ o.d.val + 1) → rdV t' r = rdV t r) ∧
          ∀ q, q ≠ o.pc.val → rdP t' q = rdP t q)

/-- SLD and SST (R255): one access for the group, or for the stream, whose own registers give base and value. -/
def Sys2Proof.Claims.ScalarMemory : Prop :=
  (∀ (s : State) (g : Grp) (tm : Team) (loc : Loc), OfTeam s g tm → g.live ≠ [] →
    (∀ o : Sld, Locates s g tm (bytesOf o.w) false o.stash (baseOffset (rdS g.band o.a.val) o.off) loc →
      IssuesOnce (.sld o) s g tm (.load loc o.w (.sca o.d.val) o.acq o.ch)) ∧
    (∀ o : Sst, Locates s g tm (bytesOf o.w) true o.stash (baseOffset (rdS g.band o.a.val) o.off) loc →
      IssuesOnce (.sst o) s g tm
        (.store loc (bytesOf o.w) ((rdS g.band o.c.val).toNat % 2 ^ (8 * bytesOf o.w)) o.rel o.ch))) ∧
  (∀ (s : State) (g : Strm) (l : Leaf), strmOf s = some g → g.live = true →
    let op := fun k : PendKind =>
      ({ agent := .stream g.hinge g.rcd.ctx.toNat, issuer := 2 ^ 20 + g.hinge * 16 + g.num, lanes := [0], seq := s.seq
         pc := g.addr, kind := k } : PendOp)
    let done := fun (i : Instr) (k : PendKind) => ∃ t, exec i s = .next t ∧ t.pending = s.pending ++ [op k] ∧
      t = { s with pending := t.pending, hinges := t.hinges, walked := t.walked } ∧
      (∀ h, h ≠ g.hinge → hingeOf t h = hingeOf s h) ∧ streamOf t g.hinge g.num = { g.rcd with pc := g.next, state := 1 } ∧
      (∀ n, n ≠ g.num → streamOf t g.hinge n = streamOf s g.hinge n) ∧ ∀ a, homeByte t a = homeByte s a
    (∀ o : Sld, let va := baseOffset (rdStream g.rcd o.a.val) o.off
      va % bytesOf o.w = 0 → Present s (60 + g.hinge) g.rcd.ctx.toNat va false l →
      done (.sld o) (.load (.phys (physOf l va) va) o.w (.sca o.d.val) o.acq o.ch)) ∧
    (∀ o : Sst, let va := baseOffset (rdStream g.rcd o.a.val) o.off
      va % bytesOf o.w = 0 → Present s (60 + g.hinge) g.rcd.ctx.toNat va true l →
      done (.sst o) (.store (.phys (physOf l va) va) (bytesOf o.w)
        ((rdStream g.rcd o.c.val).toNat % 2 ^ (8 * bytesOf o.w)) o.rel o.ch)))

/-- The atomics (R291, R298): one atomic for each thread with a true guard, with its operand, and its expected value for CAS, from
the registers, unless a system-scope atomic meets a SYS page that cannot carry it. -/
def Sys2Proof.Claims.AtomicIssue : Prop :=
  ∀ (s : State) (g : Grp) (tm : Team) (loc : Nat → Loc), OfTeam s g tm →
    let does := fun (i : Instr) (fn : AtomFn) (n d c : Nat) (m : MemOp) (ord : Order) (sc : Scope) (ch : Hint) =>
      (∀ r ∈ [d, c] ++ namedMem m, r < g.band.n) →
      (∀ l ∈ g.live, Locates s g tm n true m.stash (laneAddress g.band (threadOf g.band l) m) (loc l) ∧
        ∀ a va, loc l = .phys a va → a < 2 ^ 48 ∨ sc ≠ .system) →
      IssuesLanes i s g tm
        (fun l => [.atomic fn (loc l) n (wordsAt (threadOf g.band l) (n / 4) c) (wordsAt (threadOf g.band l) (n / 4) d) (.vec d)
          ord sc ch])
        fun _ t t' => t' = moved t g.next
    (∀ o, does (.atom o) (.int o.op) (if o.wide then 8 else 4) o.d.val o.c.val o.mem o.ord o.sc o.ch) ∧
    (∀ o, does (.atomf o) (.flt o.op o.ty) (if o.ty = .f64 then 8 else 4) o.d.val o.c.val o.mem o.ord o.sc o.ch) ∧
    (∀ o, does (.cas o) .cas (if o.wide then 8 else 4) o.d.val o.c.val o.mem o.ord o.sc o.ch) ∧
    (∀ o, does (.cas2 o) .cas 16 o.d.val o.c.val o.mem o.ord o.sc o.ch)

/-- FENCE, PREF, CLEAN and INVAL (R257, R258, R278): the operations of each thread, or of the group; PREF drops an address that
would fault; FENCE.ar is its two halves. -/
def Sys2Proof.Claims.FenceAndCacheIssue : Prop :=
  ∀ (s : State) (g : Grp) (tm : Team), OfTeam s g tm →
    (∀ o : Fence, IssuesLanes (.fence o) s g tm
      (fun _ => if o.kind = .ar then [.fence .acq o.sc, .fence .rel o.sc] else [.fence o.kind o.sc])
      fun _ t t' => t' = moved t g.next) ∧
    (∀ (o : Pref) (f : Nat → Leaf), (∀ r ∈ namedMem o.mem, r < g.band.n) →
      (∀ l ∈ g.live, let va := laneAddress g.band (threadOf g.band l) o.mem
        Present s (g.core / 8) tm.ctx va false (f l) ∧ windowAt s (physOf (f l) va) = none ∧
          ∀ line x, l1Find s g.core tm.ctx va = some (line, x) → line = physOf (f l) va / 128) →
      IssuesLanes (.pref o) s g tm
        (fun l => let va := laneAddress g.band (threadOf g.band l) o.mem
          [.pref o.cc (physOf (f l) va) va o.ch])
        fun _ t t' => t' = moved t g.next) ∧
    (∀ o : Pref, (∀ r ∈ namedMem o.mem, r < g.band.n) →
      (∀ l ∈ g.live, 2 ^ 55 ≤ laneAddress g.band (threadOf g.band l) o.mem) →
      IssuesLanes (.pref o) s g tm (fun _ => []) fun _ t t' => t' = moved t g.next) ∧
    (∀ p ∈ [(Instr.clean, false), (Instr.inval, true)], ∀ o : Clean,
      (∀ m, o.what = .lines m → (∀ r ∈ namedMem m, r < g.band.n) →
        (∀ l ∈ g.live, let va := laneAddress g.band (threadOf g.band l) m
          va < 2 ^ 55 ∧ Walkable s (g.core / 8) tm.ctx (va / 128 * 128)) →
        IssuesLanes (p.1 o) s g tm
          (fun l => let line := laneAddress g.band (threadOf g.band l) m / 128 * 128
            [.clean p.2 o.sc (match walk s tm.ctx line with
              | .ok f => if f.state = 0 then [(physOf f line, 128)] else []
              | .error _ => []) false])
          fun _ t t' => t' = moved t g.next) ∧
      (∀ a off c, o.what = .range a off c → g.live ≠ [] →
        let va := baseOffset (rdS g.band a.val) off
        let n := (rdS g.band c.val).toNat
        va < 2 ^ 55 → va + n ≤ 2 ^ 55 →
        (∀ x, va / 128 * 128 ≤ x → x < (va + n + 127) / 128 * 128 → Walkable s (g.core / 8) tm.ctx x) →
        ∃ ranges, IssuesOnce (p.1 o) s g tm (.clean p.2 o.sc ranges false) ∧
          ∀ a, (∃ r ∈ ranges, r.1 ≤ a ∧ a < r.1 + r.2) ↔
            0 < n ∧ ∃ x f, va / 128 * 128 ≤ x ∧ x < (va + n + 127) / 128 * 128 ∧ walk s tm.ctx x = .ok f ∧ f.state = 0 ∧ a = physOf f x) ∧
      (o.what = .all → g.live ≠ [] → IssuesOnce (p.1 o) s g tm (.clean p.2 o.sc [] true)))

/-- A byte stored by an agent is the byte it sees, and every other byte is seen as before, by whatever plain accesses (R269). -/
def Sys2Proof.Claims.StoreThenLoad : Prop :=
  ∀ (s : State) (ag : Agent) (na : Bool) (a : Nat) (bs : List Byte),
    (∀ j, (h : j < bs.length) → seenByte (storeBytes s ag na a bs) ag (a + j) = bs[j]) ∧
    (∀ b, b < a ∨ a + bs.length ≤ b → seenByte (storeBytes s ag na a bs) ag b = seenByte s ag b ∧
      homeByte (storeBytes s ag na a bs) b = homeByte s b) ∧
    (∀ na' n, seenValue s ag a n = leNat (loadBytes s ag na' a n).1) ∧
    ∀ na' n b, seenByte (loadBytes s ag na' a n).2 ag b = seenByte s ag b ∧
      homeByte (loadBytes s ag na' a n).2 b = homeByte s b

/-- When an operation may be performed (R271, with R241, R252, R287 and R293): each of two operations of one issuer that share a thread,
the earlier an acquire, the later a release, a read before FENCE.acq, FENCE.rel before a write, or both on a common byte, is performed in
the order in which they issued; so are the writes of two lanes of one instruction to a common byte, the lower lane first; an access that
another team's window serves waits while an engine owns the slot; and no other order or wait holds an operation back. That KREL, LATG,
TARV and posts are release operations is log 13's and log 14's reading (DESIGN CHOICE). -/
def Sys2Proof.Claims.OperationOrder : Prop :=
  ∀ (s : State) (i : Nat) (o : PendOp), s.pending[i]? = some o →
    (mayPerform s i = true ↔ ¬ HeldAtWindow s o ∧
      ∀ x ∈ s.pending, ¬ (Earlier x o ∧ (Acquires x.kind ∨ ReleasesAfter s x o ∨ (Reads x.kind ∧ ∃ sc, o.kind = .fence .acq sc) ∨
          ((∃ sc, x.kind = .fence .rel sc) ∧ Writes o.kind) ∨ opsMeet s x o = true)) ∧
        ¬ (x.issuer = o.issuer ∧ x.seq = o.seq ∧ Writes x.kind ∧ Writes o.kind ∧ laneMask x.lanes < laneMask o.lanes ∧ opsMeet s x o = true)) ∧
    (∀ x ∈ s.pending, Earlier x o → (∃ b, OnByte s x b ∧ OnByte s o b) → mayPerform s i = false)

/-- ACCESS_PERFORMED (R269, R271) for an operation of any kind: those that R271 and R241 let be performed now, the operation with
the lanes of its instruction that are performed with it (R252, R293), leave the pending ones; one that must wait stays, and nothing
changes. -/
def Sys2Proof.Claims.OperationPerformed : Prop :=
  ∀ (s : State) (i : Nat), s.cur = .event (.accessPerformed i) →
    (∀ o, s.pending[i]? = some o → mayPerform s i = true → setMay s (performSet s o) = true →
      ∃ t, exec .accessPerformed s = .next t ∧ t.pending = s.pending.filter (fun x => !(performSet s o).contains x)) ∧
    (mayPerform s i = false ∨ (∃ o, s.pending[i]? = some o ∧ setMay s (performSet s o) = false) →
      exec .accessPerformed s = .next s)

/-- ACCESS_PERFORMED of a load (R251, R255, R269): the operation leaves the pending ones and its register takes the value that its
agent finds at the location, after the copies above the scope are dropped for an acquire: a lane's vector register, extended to 32
bits by the width, or a pair; a scalar register of the band, or of the stream, extended to 64. The register's errors are gone (R427);
no other register changes, no byte at home, and no byte as the agent sees it. -/
def Sys2Proof.Claims.LoadPerformed : Prop :=
  ∀ (s : State) (i v : Nat) (o : PendOp) (w : Width) (loc : Loc) (dst : Dest) (acq : Option Scope) (hint : Hint),
    s.cur = .event (.accessPerformed i) → s.pending[i]? = some o → mayPerform s i = true → performSet s o = [o] →
    o.kind = .load loc w dst acq hint →
    let u := match acq with | some sc => dropAll s o.agent sc | none => s
    Finds s u o.agent (bytesOf w) loc v →
    ∃ t, exec .accessPerformed s = .next t ∧ t.pending = s.pending.filter (fun x => x ≠ o) ∧
      (∀ x, homeByte t x = homeByte s x ∧ seenByte t o.agent x = seenByte u o.agent x) ∧
      (∀ core team ctx b, o.agent = .thread core team ctx → bandOf s o.issuer = some b →
        ∃ b', bandOf t o.issuer = some b' ∧
          (∀ d, dst = .vec d → b' = { b with threads := b'.threads, vEcc := b'.vEcc, energy := b'.energy } ∧
            (∀ l, l < b.threads.length → l ∈ o.lanes → TakesV w d v (threadOf b l) (threadOf b' l)) ∧
            (∀ l, l ∉ o.lanes → threadOf b' l = threadOf b l) ∧
            ∀ l, l < 32 → l ∈ o.lanes → aFind (d * 32 + l) b'.vEcc = none ∧ (w = .n64 → aFind ((d + 1) * 32 + l) b'.vEcc = none)) ∧
          (∀ d, dst = .sca d →
            b' = { b with sregs := b'.sregs, sEcc := b'.sEcc, energy := b'.energy } ∧ PutsS d (BitVec.ofInt 64 (loaded w v)) b b')) ∧
      (∀ h ctx n d, o.agent = .stream h ctx → o.issuer = 2 ^ 20 + h * 16 + n → n < 16 → dst = .sca d →
        let x := streamOf t h n
        x = { streamOf s h n with sregs := x.sregs } ∧ rdStream x d = BitVec.ofInt 64 (loaded w v) ∧
          (∀ r, r ≠ d → rdStream x r = rdStream (streamOf s h n) r) ∧ ∀ m, m ≠ n → streamOf t h m = streamOf s h m)

/-- Lanes of one load that read common bytes are performed together (R252): each takes the value that the agent saw. -/
def Sys2Proof.Claims.LanesLoadTogether : Prop :=
  ∀ (s : State) (i d core team ctx : Nat) (o : PendOp) (w : Width) (hint : Hint) (b : Band) (a va : Nat → Nat),
    s.cur = .event (.accessPerformed i) → s.pending[i]? = some o → mayPerform s i = true → setMay s (performSet s o) = true →
    (∀ x ∈ performSet s o, ∃ l, x.agent = .thread core team ctx ∧ x.lanes = [l] ∧
      x.kind = .load (.phys (a l) (va l)) w (.vec d) none hint ∧ Plain s x.agent (a l) (va l)) →
    (∀ l l', a l / 128 = a l' / 128 ∧ va l / 128 = va l' / 128) → RoomFor s (.thread core team ctx) (a 0) →
    ((performSet s o).map (·.lanes)).Nodup → bandOf s o.issuer = some b →
    ∃ t b', exec .accessPerformed s = .next t ∧ bandOf t o.issuer = some b' ∧
      ∀ x ∈ performSet s o, ∀ l ∈ x.lanes, l < b.threads.length →
        TakesV w d (seenValue s (.thread core team ctx) (a l) (bytesOf w)) (threadOf b l) (threadOf b' l)

/-- ACCESS_PERFORMED of a store (R255, R269): its agent sees the stored bytes, and every other byte as before; a thread's plain store
leaves home as it was, for its caches take it. A release has first cleaned all above its scope, and its value stands at the point.
A store at the stash changes those bytes there and no copy, but for a release's cleaning. -/
def Sys2Proof.Claims.StorePerformed : Prop :=
  ∀ (s : State) (i n v : Nat) (o : PendOp) (loc : Loc) (rel : Option Scope) (hint : Hint),
    s.cur = .event (.accessPerformed i) → s.pending[i]? = some o → mayPerform s i = true →
    o.kind = .store loc n v rel hint →
    let u := match rel with | some sc => cleanAll s o.agent sc | none => s
    (∀ a va, loc = .phys a va → Plain s o.agent a va → Plain u o.agent a va → RoomFor s o.agent a →
      ∃ t, exec .accessPerformed s = .next t ∧ t.pending = s.pending.filter (fun x => x ≠ o) ∧
        (∀ j, j < n → (seenByte t o.agent (a + j)).toNat = v / 256 ^ j % 256) ∧
        (∀ x, x < a ∨ a + n ≤ x → seenByte t o.agent x = seenByte u o.agent x) ∧
        (∀ core team ctx, o.agent = .thread core team ctx → rel = none → ∀ x, homeByte t x = homeByte s x) ∧
        (∀ sc, rel = some sc → (∀ x, NoDirtyAbove t o.agent sc x) ∧
          (∀ j, j < n → (pointByte t o.agent sc (a + j)).toNat = v / 256 ^ j % 256) ∧
          ∀ x, x < a ∨ a + n ≤ x → pointByte t o.agent sc x = pointByte s o.agent sc x) ∧
        t.teams = s.teams ∧ ∀ j, bandOf t j = none ↔ bandOf s j = none) ∧
    (∀ off core team ctx tm, loc = .stash off → o.agent = .thread core team ctx → teamOf s team = some tm →
      (∀ e ∈ tm.maps, e.2.win = none) →
      ∃ t tm', exec .accessPerformed s = .next t ∧ t.pending = s.pending.filter (fun x => x ≠ o) ∧ teamOf t team = some tm' ∧
        tm' = { tm with stash := tm'.stash, slotCls := tm'.slotCls } ∧
        (∀ j, j < n → (aGet 0 (off + j) tm'.stash).toNat = v / 256 ^ j % 256) ∧
        (∀ x, x < off ∨ off + n ≤ x → aGet 0 x tm'.stash = aGet 0 x tm.stash) ∧
        (∀ k, k ≠ team → teamOf t k = teamOf s k) ∧
        (∀ sc, rel = some sc → PointCleaned s t o.agent sc) ∧
        (rel = none → ∀ l x, copyAt t l x = copyAt s l x) ∧ (rel = none → ∀ x, homeByte t x = homeByte s x))

/-- ACCESS_PERFORMED of an atomic (R291-R293, R298): the lane's registers take the value at the point of its scope, after a release's
cleaning, and the point holds the new value; an acquire has then dropped every clean copy above its scope. Of two lanes on one
location the lower acts first, and the higher finds what it left. -/
def Sys2Proof.Claims.AtomicPerformed : Prop :=
  ∀ (s : State) (i a va n d core team ctx : Nat) (o : PendOp) (fn : AtomFn) (x cmp : Nat) (ord : Order) (sc : Scope) (hint : Hint)
    (b : Band), s.cur = .event (.accessPerformed i) → s.pending[i]? = some o → mayPerform s i = true →
    o.agent = .thread core team ctx → o.kind = .atomic fn (.phys a va) n x cmp (.vec d) ord sc hint → n ∈ [4, 8, 16] →
    bandOf s o.issuer = some b → Plain s o.agent a va → RoomFor s o.agent a →
    let u := if ord = .rel ∨ ord = .ar then cleanAll s o.agent sc else s
    Plain u o.agent a va →
    (performSet s o = [o] →
      let old := pointValue u o.agent sc a n
      ∃ t b', exec .accessPerformed s = .next t ∧ t.pending = s.pending.filter (fun y => y ≠ o) ∧ bandOf t o.issuer = some b' ∧
        b' = { b with threads := b'.threads, vEcc := b'.vEcc, energy := b'.energy } ∧
        (∀ l, l < b.threads.length → l ∈ o.lanes → wordsAt (threadOf b' l) (n / 4) d = old) ∧
        (∀ l, l ∉ o.lanes → threadOf b' l = threadOf b l) ∧
        pointValue t o.agent sc a n = (match atomNew fn n x cmp old with | some v => v % 2 ^ (8 * n) | none => old) ∧
        (ord = .acq ∨ ord = .ar → ∀ y, NoCleanAbove t o.agent sc y) ∧
        (ord = .rel ∨ ord = .ar → ∀ y, NoDirtyAbove t o.agent sc y) ∧
        ∀ y, y < a ∨ a + n ≤ y → pointByte t o.agent sc y = pointByte u o.agent sc y) ∧
    (∀ (l l' x' va' : Nat) (o' : PendOp), ord = .none → performSet s o = [o, o'] → setMay s [o, o'] = true → o.lanes = [l] →
      o' = { o with lanes := [l'], kind := .atomic fn (.phys a va') n x' cmp (.vec d) .none sc hint } → l < l' →
      l' < b.threads.length → va' / 128 = va / 128 →
      Plain (placeStep s o.agent sc (.mem a) n (atomNew fn n x cmp)).2 o.agent a va' →
      let old := pointValue s o.agent sc a n
      let mid := match atomNew fn n x cmp old with | some v => v % 2 ^ (8 * n) | none => old
      ∃ t b', exec .accessPerformed s = .next t ∧ bandOf t o.issuer = some b' ∧
        wordsAt (threadOf b' l) (n / 4) d = old ∧ wordsAt (threadOf b' l') (n / 4) d = mid ∧
        pointValue t o.agent sc a n = (match atomNew fn n x' cmp mid with | some v => v % 2 ^ (8 * n) | none => mid))

/-- ACCESS_PERFORMED of a fence (R278): an acquire drops every clean copy above its scope, a release cleans every dirty one down to
it, .sc does both; nothing that an agent sees at the point changes. -/
def Sys2Proof.Claims.FencePerformed : Prop :=
  ∀ (s : State) (i : Nat) (o : PendOp) (k : FenceKind) (sc : Scope),
    s.cur = .event (.accessPerformed i) → s.pending[i]? = some o → mayPerform s i = true → o.kind = .fence k sc →
    ∃ t, exec .accessPerformed s = .next t ∧ t.pending = s.pending.filter (fun x => x ≠ o) ∧ t.teams = s.teams ∧
      (k = .acq → PointDropped s t o.agent sc) ∧ (k = .rel → PointCleaned s t o.agent sc) ∧
      (k = .sc ∨ k = .ar → ∀ x, NoneAbove t o.agent sc x ∧ pointByte t o.agent sc x = pointByte s o.agent sc x)

/-- ACCESS_PERFORMED of the release of a post (R357, R365): every dirty copy above its scope is cleaned down to it, and the command, or
the collective, of its instruction may begin; no other changes. -/
def Sys2Proof.Claims.PostPerformed : Prop :=
  ∀ (s : State) (i core team ctx : Nat) (o : PendOp) (sc : Scope),
    s.cur = .event (.accessPerformed i) → s.pending[i]? = some o → mayPerform s i = true → o.kind = .post sc →
    o.agent = .thread core team ctx →
    ∃ t, exec .accessPerformed s = .next t ∧ t.pending = s.pending.filter (fun x => x ≠ o) ∧ PointCleaned s t o.agent sc ∧
      t.teams = s.teams ∧
      (∀ k, coreChan t core k = { coreChan s core k with
        queue := (coreChan s core k).queue.map fun c => if c.issue = o.seq then { c with posted := true } else c
        chain := (coreChan s core k).chain.map fun c => if c.issue = o.seq then { c with posted := true } else c }) ∧
      (∀ n, n ≠ core → (coreOf t n).channels = (coreOf s n).channels) ∧
      ∀ h, (hingeOf t h).collectives = if h = core / 120 then
          (hingeOf s h).collectives.map fun c => if c.issue = o.seq then { c with posted := true } else c
        else (hingeOf s h).collectives

/-- The step of an atomic at its scope's point (R292, R298): the old bytes are those at the point after CleanBelow, the new ones
stand there alone, and no other byte changes. -/
def Obligations.AtomicStep : Prop :=
  ∀ (s : State) (ag : Agent) (a n x cmp : Nat) (fn : AtomFn) (sc : Scope),
    let old := pointValue s ag sc a n
    let r := placeStep s ag sc (.mem a) n (atomNew fn n x cmp)
    r.1 = old ∧
    (∀ v, atomNew fn n x cmp old = some v → pointValue r.2 ag sc a n = v % 2 ^ (8 * n)) ∧
    (atomNew fn n x cmp old = none → pointValue r.2 ag sc a n = old) ∧
    (∀ j, j < n → NoneAbove r.2 ag sc (a + j)) ∧
    (∀ b, b < a ∨ a + n ≤ b → homeByte r.2 b = homeByte s b ∧ seenByte r.2 ag b = seenByte s ag b) ∧
    atomNew (.int .add) n x cmp old = some ((old + x) % 2 ^ (8 * n)) ∧ atomNew (.int .exch) n x cmp old = some x ∧
    atomNew (.int .umin) n x cmp old = some (min old x) ∧ atomNew (.int .umax) n x cmp old = some (max old x) ∧
    atomNew (.int .and) n x cmp old = some (old &&& x) ∧ atomNew (.int .or) n x cmp old = some (old ||| x) ∧
    (∃ v, atomNew (.int .smin) n x cmp old = some v ∧ (v = old ∨ v = x) ∧
      readInt true (8 * n) v = min (readInt true (8 * n) old) (readInt true (8 * n) x)) ∧
    (∃ v, atomNew (.int .smax) n x cmp old = some v ∧ (v = old ∨ v = x) ∧
      readInt true (8 * n) v = max (readInt true (8 * n) old) (readInt true (8 * n) x)) ∧
    atomNew .cas n x cmp old = if old = cmp then some x else none

/-- PIN and UNPIN of a RESIDENT page (R236, R259): PIN puts the page among the team's pins and answers true, or answers false
where the quota or the twelve ways of its sets are taken; UNPIN takes it out. -/
def Sys2Proof.Claims.PinAndUnpin : Prop :=
  ∀ (s : State) (g : Grp) (tm : Team) (l : Leaf) (a : Fin 64) (off : Word), OfTeam s g tm → g.live ≠ [] →
    let va := baseOffset (rdS g.band a.val) off
    Present s (g.core / 8) tm.ctx va false l →
    let page := physOf l va / 65536
    let held := (pinnedPages s (g.core / 8)).filter fun p => p % 8 == page % 8
    let answers := fun (i : Instr) (pd : Nat) (v : Bool) (pins : List Nat) =>
      ∃ t tm' b', exec i s = .next t ∧ teamOf t g.band.team = some tm' ∧ tm' = { tm with pins := pins } ∧
        (∀ j, j ≠ g.band.team → teamOf t j = teamOf s j) ∧ (∀ j, j ≠ g.key → bandOf t j = bandOf s j) ∧
        bandOf t g.key = some b' ∧ b' = { g.band with threads := b'.threads } ∧ Bystanders g b' ∧
        (∀ x, homeByte t x = homeByte s x) ∧
        ∀ n, n < g.band.threads.length → n ∈ g.live → PutsP g.next pd v (threadOf g.band n) (threadOf b' n)
    (∀ o : Pin, o.a = a → o.off = off →
      (page ∈ tm.pins → answers (.pin o) o.pd.val true tm.pins) ∧
      (page ∉ tm.pins → tm.pinQuota ≤ tm.pins.length → answers (.pin o) o.pd.val false tm.pins) ∧
      (page ∉ tm.pins → tm.pins.length < tm.pinQuota → page ∉ pinnedPages s (g.core / 8) → 12 ≤ held.length →
        answers (.pin o) o.pd.val false tm.pins) ∧
      (page ∉ tm.pins → tm.pins.length < tm.pinQuota → page ∈ pinnedPages s (g.core / 8) ∨ held.length < 12 →
        answers (.pin o) o.pd.val true (tm.pins ++ [page]))) ∧
    (∀ o : PageOp, o.a = a → o.off = off →
      ∃ t b', exec (.unpin o) s = .next t ∧
        t = { s with bands := t.bands, teams := t.teams, clusters := t.clusters, hinges := t.hinges, tick := t.tick, walked := t.walked } ∧
        TlbsOnly s t ∧ (∀ j, j ≠ g.key → bandOf t j = bandOf s j) ∧ bandOf t g.key = some b' ∧ GoneOn g b' ∧
        teamOf t g.band.team = some { tm with pins := tm.pins.filter fun p => p != page } ∧
        ∀ j, j ≠ g.band.team → teamOf t j = teamOf s j)

/-- DISCARD of a writable page (R260): the leaf's STATE becomes DISCARDED, every cached copy of the page is dropped without a
write-back, no team has it pinned, and nothing else in memory changes. -/
def Sys2Proof.Claims.DiscardPage : Prop :=
  ∀ (s : State) (g : Grp) (tm : Team) (l : Leaf) (o : PageOp), OfTeam s g tm → g.live ≠ [] →
    let va := baseOffset (rdS g.band o.a.val) o.off
    let base := physOf l (va / 65536 * 65536)
    va < 2 ^ 55 → walkBusy s tm.ctx va = false → walk s tm.ctx va = .ok l → l.w = true → l.state < 3 → (l.sys = false → pageLost s l.ppn = false) →
    overlapsWindow s base 65536 = false → stackBusy s base = false →
    ∃ t b', exec (.discard o) s = .next t ∧ (∀ j, j ≠ g.key → bandOf t j = bandOf s j) ∧ bandOf t g.key = some b' ∧
      GoneOn g b' ∧ StateIs (leNat (homeRead s l.pte 8)) (leNat (homeRead t l.pte 8)) 2 ∧
      (∀ a, a < l.pte ∨ l.pte + 8 ≤ a → homeByte t a = homeByte s a) ∧
      (∀ v a, base ≤ a → a < base + 65536 → copyAt t v a = none) ∧
      (∀ v a, a < base ∨ base + 65536 ≤ a → copyAt t v a = copyAt s v a) ∧
      ∀ k tm0, teamOf s k = some tm0 → teamOf t k = some { tm0 with pins := tm0.pins.filter fun p => p != base / 65536 }

/-- PGREQ (R261, R262): true where the page is RESIDENT or DISCARDED; else the request is recorded in the context's ring once, and
the plain form answers false while .wait waits for the answer; with a request outstanding no second one is made. -/
def Sys2Proof.Claims.PageRequest : Prop :=
  ∀ (s : State) (g : Grp) (tm : Team) (o : Pgreq), OfTeam s g tm → (∀ r ∈ namedMem o.mem, r < g.band.n) →
    let va := fun l => laneAddress g.band (threadOf g.band l) o.mem
    let x := ctxOf s tm.ctx
    (∀ l ∈ g.live, va l < 2 ^ 55 ∧ TlbSound s (g.core / 8) tm.ctx (va l) ∧ walkBusy s tm.ctx (va l) = false) →
    ((∀ l ∈ g.live, ∃ f, walk s tm.ctx (va l) = .ok f ∧ (f.state = 0 ∨ f.state = 2)) →
      EachTranslated (.pgreq o) s g fun _ t t' => PutsP g.next o.pd.val true t t') ∧
    ((∀ l ∈ g.live, (threadOf g.band l).wait ≠ .answered ∧ va l / 65536 ∈ x.outstanding ∧
        ∃ f, walk s tm.ctx (va l) = .ok f ∧ f.state = 1) →
      EachTranslated (.pgreq o) s g fun l t t' =>
        (o.wait = false → PutsP g.next o.pd.val false t t') ∧ (o.wait = true → t' = waiting s (.page (va l / 65536)) t)) ∧
    (∀ l f, g.live = [l] → (threadOf g.band l).wait ≠ .answered → va l / 65536 ∉ x.outstanding →
      walk s tm.ctx (va l) = .ok f → f.state = 1 → x.requests.size ≠ 0 →
      (x.requests.prod - x.requests.cons).toNat ≠ x.requests.size.toNat / 16 →
      let at_ := x.requests.base.toNat + x.requests.prod.toNat * 16 % x.requests.size.toNat
      ∃ t b', exec (.pgreq o) s = .next t ∧
        t = { s with bands := t.bands, contexts := t.contexts, mem := t.mem, clusters := t.clusters, hinges := t.hinges, walked := t.walked } ∧
        TlbsOnly s t ∧ (∀ j, j ≠ g.key → bandOf t j = bandOf s j) ∧ bandOf t g.key = some b' ∧
        b' = { g.band with threads := b'.threads } ∧ Bystanders g b' ∧
        (o.wait = false → l < g.band.threads.length → PutsP g.next o.pd.val false (threadOf g.band l) (threadOf b' l)) ∧
        (o.wait = true → l < g.band.threads.length →
          threadOf b' l = waiting s (.page (va l / 65536)) (threadOf g.band l)) ∧
        ctxOf t tm.ctx = { x with
          requests := { x.requests with prod := x.requests.prod + 1 }, recordSeq := x.recordSeq + 1
          outstanding := x.outstanding ++ [va l / 65536] } ∧
        (∀ j, j ≠ tm.ctx → ctxOf t j = ctxOf s j) ∧
        leNat (homeRead t at_ 8) = (va l / 65536 * 65536 + tm.ctx * 256 + 1) % 2 ^ 64 ∧
        leNat (homeRead t (at_ + 8) 4) = (g.slot * 512 + g.core) % 2 ^ 32 ∧
        leNat (homeRead t (at_ + 12) 4) = x.recordSeq.toNat ∧
        ∀ a, a < at_ ∨ at_ + 16 ≤ a → homeByte t a = homeByte s a)

/-- MAPW (R263): FIRST, COUNT and ROT of the map word, in range and free, become the entry; with .win the entry has a window on
the region, nothing of it filled, its slots are GENERAL, and no cache of the package holds a byte of the region (R242). -/
def Sys2Proof.Claims.MapSlots : Prop :=
  ∀ (s : State) (g : Grp) (tm : Team) (o : Mapw) (first count rot : Nat), OfTeam s g tm → g.live ≠ [] →
    (rdS g.band o.c.val).toNat = first + count * 2 ^ 16 + rot * 2 ^ 24 → first < 512 → 0 < count → count ≤ 64 → rot < 16 →
    first + count ≤ tm.slotCount → aFind o.m.val tm.maps = none →
    (∀ k e, (k, e) ∈ tm.maps → e.first + e.count ≤ first ∨ first + count ≤ e.first) →
    (∀ i, i < count → (latchOf tm (first + i)).engine = false) →
    (o.win = none → TeamStep (.mapw o) s g fun t tm' b' => GoneOn g b' ∧ CachesKept s t ∧
      tm' = { tm with maps := aInsert o.m.val { first := first, count := count, rot := rot, win := none } tm.maps }) ∧
    (∀ a off l, o.win = some (a, off) →
      let va := baseOffset (rdS g.band a.val) off
      Present s (g.core / 8) tm.ctx va true l → va % 128 = 0 → va % 65536 + 1024 * count ≤ 65536 →
      overlapsWindow s (physOf l va) (1024 * count) = false →
      ∃ t tm' b', exec (.mapw o) s = .next t ∧ (∀ j, j ≠ g.key → bandOf t j = bandOf s j) ∧ bandOf t g.key = some b' ∧
        GoneOn g b' ∧ teamOf t g.band.team = some tm' ∧ (∀ j, j ≠ g.band.team → teamOf t j = teamOf s j) ∧
        tm' = { tm with
          maps := aInsert o.m.val
            { first := first, count := count, rot := rot, win := some { base := physOf l va, va := va, filled := 0, dirty := 0 } }
            tm.maps
          slotCls := tm'.slotCls } ∧
        (∀ i, i < count → slotClsOf tm' (first + i) = .general true) ∧
        (∀ n, n < first ∨ first + count ≤ n → slotClsOf tm' n = slotClsOf tm n) ∧
        (∀ v x, physOf l va ≤ x → x < physOf l va + 1024 * count → copyAt t v x = none) ∧
        ∀ x, x < physOf l va ∨ physOf l va + 1024 * count ≤ x → homeByte t x = homeByte s x)

/-- MAPC and MAPF (R264): the dirty granules of a window whose page is RESIDENT go to memory, and no other byte of memory changes;
MAPC frees the entry, MAPF keeps it with no dirty granule. -/
def Sys2Proof.Claims.WriteBackWindow : Prop :=
  ∀ (s : State) (g : Grp) (tm : Team) (o : MapOp) (free : Bool), OfTeam s g tm → g.live ≠ [] →
    let i : Instr := if free then .mapc o else .mapf o
    ((∀ e, aFind o.m.val tm.maps = some e → e.win = none) →
      TeamStep i s g fun t tm' b' => GoneOn g b' ∧ CachesKept s t ∧
        tm' = { tm with maps := if free then aErase o.m.val tm.maps else tm.maps }) ∧
    (∀ e w l, aFind o.m.val tm.maps = some e → e.win = some w → walk s tm.ctx w.va = .ok l → l.state = 0 →
      (w.base < 2 ^ 48 → pageLost s (w.base / 65536) = false) → stackBusy s w.base = false →
      ∃ t tm' b', exec i s = .next t ∧
        t = { s with bands := t.bands, teams := t.teams, mem := t.mem, seen := t.seen } ∧
        (∀ j, j ≠ g.key → bandOf t j = bandOf s j) ∧ bandOf t g.key = some b' ∧ GoneOn g b' ∧
        teamOf t g.band.team = some tm' ∧ (∀ j, j ≠ g.band.team → teamOf t j = teamOf s j) ∧
        tm' = { tm with maps := tm'.maps } ∧
        (free = true → tm'.maps = aErase o.m.val tm.maps) ∧
        (free = false → ∃ d, aFind o.m.val tm'.maps = some { e with win := some { w with dirty := d } } ∧
          ∀ n, n < 8 * e.count → d.testBit n = false) ∧
        (∀ n j, n < 8 * e.count → j < 128 →
          homeByte t (w.base + 128 * n + j) =
            (if w.dirty.testBit n then aGet 0 (e.first * 1024 + 128 * n + j) tm.stash
             else homeByte s (w.base + 128 * n + j))) ∧
        ∀ a, a < w.base ∨ w.base + 1024 * e.count ≤ a → homeByte t a = homeByte s a)

/-- KBIND and KFREE (R281): a key of the context is bound to a region and a word, or is free. -/
def Sys2Proof.Claims.BindKeys : Prop :=
  ∀ (s : State) (g : Grp) (tm : Team), OfTeam s g tm → g.live ≠ [] →
    let x := ctxOf s tm.ctx
    let keys := fun (i : Instr) (ks : AList Key) => ∃ t b', exec i s = .next t ∧
      t = { s with bands := t.bands, contexts := t.contexts } ∧ (∀ j, j ≠ g.key → bandOf t j = bandOf s j) ∧
      bandOf t g.key = some b' ∧ GoneOn g b' ∧ ctxOf t tm.ctx = { x with keys := ks } ∧
      (∀ j, j ≠ tm.ctx → ctxOf t j = ctxOf s j) ∧ ∀ a, homeByte t a = homeByte s a
    (∀ o : Kbind,
      let a := (rdS g.band o.a.val).toNat
      let c := (rdS g.band o.c.val).toNat
      a < 2 ^ 55 → a + 4096 * o.granules.toNat ≤ 2 ^ 55 → a % 4096 = 0 → c < 2 ^ 55 → c % 8 = 0 → aFind o.k.val x.keys = none →
      keys (.kbind o) (aInsert o.k.val { base := a, granules := o.granules.toNat, word := c } x.keys)) ∧
    ∀ o : Kfree, keys (.kfree o) (aErase o.k.val x.keys)

/-- KACQ and KREL on a word in memory (R281, R283), with the binding that the group found, when it began to wait or now: KACQ reads
the word at the scope's point and drops the clean copies of the region above it, or waits, with its binding, while the word is behind
its operand; KREL issues its operation for every thread of the group. -/
def Sys2Proof.Claims.KeyOrder : Prop :=
  ∀ (s : State) (g : Grp) (tm : Team) (n : Nat) (k : Key) (l : Leaf) (sc : Scope) (write : Bool), OfTeam s g tm → g.live ≠ [] →
    k.word % 8 = 0 → Present s (g.core / 8) tm.ctx k.word write l →
    (∀ line x, l1Find s g.core tm.ctx k.word = some (line, x) → line = physOf l k.word / 128) →
    let a := physOf l k.word
    let ag : Agent := .thread g.core g.band.team tm.ctx
    a < 2 ^ 48 ∨ sc ≠ .system → Plain s ag a k.word → RoomFor s ag a →
    let v := pointValue s ag sc a 8
    let bound := aFind n (ctxOf s tm.ctx).keys = some k ∧ ∀ l ∈ g.live, ∀ x y z, (threadOf g.band l).wait ≠ .key x y z
    let waits := ∀ l ∈ g.live, (threadOf g.band l).wait = .key k.base k.granules k.word
    (∀ o : Kacq, o.k.val = n → o.sc = sc → bound ∨ waits →
      ((∀ c, o.wait = some c → (BitVec.ofNat 64 v - rdS g.band c.val).getLsbD 63 = false) →
        ∃ t b', exec (.kacq o) s = .next t ∧ bandOf t g.key = some b' ∧ (∀ j, j ≠ g.key → bandOf t j = bandOf s j) ∧
          GoneWith g b' o.d.val (BitVec.ofNat 64 v) ∧ t.pending = s.pending ∧
          (∀ x, InRegion t tm.ctx k x → NoCleanAbove t ag sc x) ∧ ∀ x, x < a ∨ a + 8 ≤ x → homeByte t x = homeByte s x) ∧
      (∀ c, o.wait = some c → (BitVec.ofNat 64 v - rdS g.band c.val).getLsbD 63 = true →
        GroupWaits (.kacq o) s g (.key k.base k.granules k.word))) ∧
    (∀ o : Krel, o.k.val = n → o.sc = sc → write = true → bound →
      IssuesFor (.krel o) s g tm (everyLane g) (.krel k.base k.granules (.phys a k.word) sc (o.ret.map (·.val))))

/-- A KREL's operation is performed after every earlier operation of the group's threads (R283). -/
def Sys2Proof.Claims.KeyReleaseWaits : Prop :=
  ∀ (s : State) (i base granules : Nat) (loc : Loc) (sc : Scope) (dst : Option Nat) (o x : PendOp), s.pending[i]? = some o →
    o.kind = .krel base granules loc sc dst → x ∈ s.pending → Earlier x o → mayPerform s i = false

/-- ACCESS_PERFORMED of a KREL (R283): the dirty copies of the region are written down to the scope's point, the word there rises by
one, and the register that the instruction names, if it names one, takes the new value. -/
def Sys2Proof.Claims.KeyReleased : Prop :=
  ∀ (s : State) (i a : Nat) (o : PendOp) (k : Key) (sc : Scope) (dst : Option Nat) (core team ctx : Nat) (b : Band),
    s.cur = .event (.accessPerformed i) → s.pending[i]? = some o → mayPerform s i = true → o.agent = .thread core team ctx →
    o.kind = .krel k.base k.granules (.phys a k.word) sc dst → bandOf s o.issuer = some b → Plain s o.agent a k.word → RoomFor s o.agent a →
    Plain (cleanAddrs s o.agent sc (regionHeld s o.agent k.base k.granules)) o.agent a k.word →
    let v := pointValue s o.agent sc a 8
    ∃ t b', exec .accessPerformed s = .next t ∧ t.pending = s.pending.filter (fun x => x ≠ o) ∧ bandOf t o.issuer = some b' ∧
      b' = { b with sregs := b'.sregs, sEcc := b'.sEcc, energy := b'.energy } ∧
      (∀ d, dst = some d → PutsS d (BitVec.ofNat 64 (v + 1)) b b') ∧ (dst = none → b'.sregs = b.sregs) ∧
      pointValue t o.agent sc a 8 = (v + 1) % 2 ^ 64 ∧ (∀ x, InRegion s ctx k x → NoDirtyAbove t o.agent sc x) ∧
      ∀ x, ¬ InRegion s ctx k x → x < a ∨ a + 8 ≤ x → homeByte t x = homeByte s x

/-- LATG and LATW (R287): a LATG issues the operation that gives the slots of the range to the engines; of a LATW the slots go back to the
threads when no slot of them has a command outstanding, else the group waits. -/
def Sys2Proof.Claims.Latches : Prop :=
  ∀ (s : State) (g : Grp) (tm : Team), OfTeam s g tm → g.live ≠ [] →
    (∀ o : Latg, (rdS g.band o.a.val).toNat % 512 + o.count.toNat ≤ tm.slotCount →
      ∃ slots, (∀ n, n ∈ slots ↔ InRange (rdS g.band o.a.val) o.count n) ∧
        IssuesFor (.latg o) s g tm (everyLane g) (.latg slots (laneMask g.live))) ∧
    (∀ o : Latw, (rdS g.band o.a.val).toNat % 512 + o.count.toNat ≤ tm.slotCount →
      ((∀ n, InRange (rdS g.band o.a.val) o.count n → (latchOf tm n).engine = true → (latchOf tm n).count = 0) →
        TeamStep (.latw o) s g fun t tm' b' => GoneOn g b' ∧
          (o.cluster = false → CachesKept s t) ∧ (o.cluster = true → DroppedToCluster s t g.core) ∧
          tm' = { tm with latches := tm'.latches, early := tm'.early } ∧
          ∀ n, (InRange (rdS g.band o.a.val) o.count n → (latchOf tm' n).engine = false) ∧
            (¬ InRange (rdS g.band o.a.val) o.count n → latchOf tm' n = latchOf tm n)) ∧
      ((∃ n, InRange (rdS g.band o.a.val) o.count n ∧ (latchOf tm n).engine = true ∧ (latchOf tm n).count ≠ 0) →
        ∃ code, GroupWaits (.latw o) s g (.polled code)))

/-- ACCESS_PERFORMED of a LATG (R287): its slots belong to the engines, and nothing else changes. -/
def Sys2Proof.Claims.LatchGiven : Prop :=
  ∀ (s : State) (i core team ctx live : Nat) (o : PendOp) (slots : List Nat) (tm : Team), s.cur = .event (.accessPerformed i) →
    s.pending[i]? = some o → mayPerform s i = true → o.agent = .thread core team ctx → o.kind = .latg slots live →
    teamOf s team = some tm → s.lineCosts = [] →
    ∃ t tm', exec .accessPerformed s = .next t ∧
      t = { s with pending := s.pending.filter (fun x => x ≠ o), teams := t.teams, picks := [] } ∧
      (∀ j, j ≠ team → teamOf t j = teamOf s j) ∧ teamOf t team = some tm' ∧ tm' = { tm with latches := tm'.latches } ∧
      ∀ n, (n ∈ slots → latchOf tm' n = { latchOf tm n with engine := true }) ∧ (n ∉ slots → latchOf tm' n = latchOf tm n)

/-- ACCESS_PERFORMED of a TARV (R300, R303): below EXPECT it adds its units, and the last unit flips the phase, empties ARRIVED and
completes the waits of other bands; PEXP of its band takes the phase that its last unit counted toward. -/
def Sys2Proof.Claims.TumblerArrival : Prop :=
  ∀ (s : State) (i core team ctx k n : Nat) (cluster : Bool) (o : PendOp) (tm : Team) (b : Band), s.cur = .event (.accessPerformed i) →
    s.pending[i]? = some o → mayPerform s i = true → o.agent = .thread core team ctx → o.kind = .tarv k n cluster → k < 24 →
    teamOf s team = some tm → bandOf s o.issuer = some b → s.lineCosts = [] →
    let x := tumblerOf tm k
    (x.arrived.toNat + n < x.expect.toNat →
      ∃ t tm' b', exec .accessPerformed s = .next t ∧
        t = { s with bands := t.bands, teams := t.teams, cores := t.cores, clusters := t.clusters
                     pending := s.pending.filter (fun x => x ≠ o), picks := [] } ∧
        (∀ j, j ≠ team → teamOf t j = teamOf s j) ∧ (∀ j, j ≠ o.issuer → bandOf t j = bandOf s j) ∧ teamOf t team = some tm' ∧
        bandOf t o.issuer = some b' ∧ b' = { b with pexp := b'.pexp } ∧ pexpOf b' k = x.phase ∧
        (∀ q, q ≠ k → pexpOf b' q = pexpOf b q) ∧ (∀ a, homeByte t a = homeByte s a) ∧
        (cluster = false → CachesKept s t) ∧ (cluster = true → CleanedToCluster s t core) ∧
        tm' = { tm with tumblers := tm'.tumblers } ∧
        tumblerOf tm' k = { x with arrived := x.arrived + BitVec.ofNat 16 n } ∧ ∀ q, q ≠ k → tumblerOf tm' q = tumblerOf tm q) ∧
    (0 < n → x.arrived.toNat + n = x.expect.toNat → x.arrived.toNat < x.expect.toNat →
      ∃ t tm' b', exec .accessPerformed s = .next t ∧ teamOf t team = some tm' ∧ bandOf t o.issuer = some b' ∧
        tm' = { tm with tumblers := tm'.tumblers, observed := tm'.observed } ∧
        tumblerOf tm' k = { x with arrived := 0, phase := !x.phase } ∧ pexpOf b' k = x.phase ∧
        ∀ slot ∈ tm.slots, ∀ c, tm.core * 64 + slot ≠ o.issuer → bandOf s (tm.core * 64 + slot) = some c → c.loops = [] →
          ∃ c', bandOf t (tm.core * 64 + slot) = some c' ∧ ∀ l, l < c.threads.length →
            (∀ d, (threadOf c l).wait = .tumbler k d → threadOf c' l = moved (threadOf c l) ((threadOf c l).pc + 12)) ∧
            ((∀ d, (threadOf c l).wait ≠ .tumbler k d) → threadOf c' l = threadOf c l))

/-- Tumblers (R299-R303): TINIT sets EXPECT and clears ARRIVED; TARV issues its arrival; TWAIT goes on in the other phase, its threads
having observed the stash bytes that running commands have counted there (R288, R289), as log 47 (DEDUCED) keeps them, and waits in the
same; TTEST reads without waiting. -/
def Sys2Proof.Claims.Tumblers : Prop :=
  ∀ (s : State) (g : Grp) (tm : Team), OfTeam s g tm → g.live ≠ [] →
    (∀ o : Tinit, o.t.val < tm.tumblerCount →
      let v := match o.v with | .reg r => (rdS g.band r.val).toNat | .imm v => v.toNat
      0 < v → v < 65536 →
      TeamStep (.tinit o) s g fun t tm' b' => GoneOn g b' ∧ CachesKept s t ∧ tm' = { tm with tumblers := tm'.tumblers } ∧
        tumblerOf tm' o.t.val = { expect := BitVec.ofNat 16 v, arrived := 0, phase := (tumblerOf tm o.t.val).phase } ∧
        ∀ n, n ≠ o.t.val → tumblerOf tm' n = tumblerOf tm n) ∧
    (∀ o : Tarv, o.t.val < tm.tumblerCount →
      0 < (tumblerOf tm o.t.val).expect.toNat →
      IssuesOnce (.tarv o) s g tm
        (.tarv o.t.val (match o.count with | some c => c.toNat | none => g.live.length) o.cluster)) ∧
    (∀ o : Twait, o.t.val < tm.tumblerCount →
      let expected := match o.parity with | some p => p | none => g.band.pexp.getLsbD o.t.val
      ((tumblerOf tm o.t.val).phase ≠ expected →
        TeamStep (.twait o) s g fun t tm' b' => GoneOn g b' ∧ (o.cluster = false → CachesKept s t) ∧
          (o.cluster = true → DroppedToCluster s t g.core) ∧ tm' = { tm with observed := tm'.observed } ∧
          ((coreOf s tm.core).channels = [] → tm' = tm) ∧ (∀ k, aGet 0 k tm.observed ≤ aGet 0 k tm'.observed) ∧
          ∀ ch q c rest, (ch, q) ∈ (coreOf s tm.core).channels → q.queue = c :: rest → c.team = g.band.team → c.tumb = some o.t.val →
            ∀ l ∈ g.live, c.counted ≤ aGet 0 (seenAt g.key l ch) tm'.observed) ∧
      ((tumblerOf tm o.t.val).phase = expected → GroupWaits (.twait o) s g (.tumbler o.t.val o.cluster))) ∧
    (∀ o : Ttest, o.t.val < tm.tumblerCount →
      let x := tumblerOf tm o.t.val
      (∀ pd parity, o.what = .test pd parity →
        let expected := match parity with | some p => p | none => g.band.pexp.getLsbD o.t.val
        EachThread (.ttest o) s g fun _ t t' => PutsP g.next pd.val (decide (x.phase ≠ expected)) t t') ∧
      ∀ d, o.what = .phase d → OnceScalar (.ttest o) s g d.val
        (BitVec.ofNat 64 (x.arrived.toNat + x.expect.toNat * 2 ^ 16 + (if x.phase then 2 ^ 32 else 0)
          + if g.band.pexp.getLsbD o.t.val then 2 ^ 33 else 0)))

/-- Known tiles (R324): TZERO, TFILL and TIDENT write every word of their tile, or pair. -/
def Sys2Proof.Claims.KnownTiles : Prop :=
  ∀ (s : State) (g : Grp) (tm : Team), OfTeam s g tm → g.live ≠ [] →
    let puts := fun (i : Instr) (wide : Bool) (d : Nat) (f : Nat → Nat → Nat) (entries : MatOp → Prop) =>
      d + (if wide then 2 else 1) ≤ tm.tileCount →
      IssuesMat i s g g.band.srstate fun t x => t.cores = s.cores ∧ PutsTile x wide d (fun i j => (f i j, 0)) ∧ entries x
    (∀ o, puts (.tzero o) false o.d.val (fun _ _ => 0) fun x => WholeEntries x false o.d.val) ∧
    (∀ o, puts (.tzeroC o) false o.d.val (fun _ _ => 0) fun x => WholeEntries x false o.d.val) ∧
    (∀ o, let wide := o.ty == .n64 || o.ty == .f64
      puts (.tfill o) wide o.d.val (fun _ _ =>
        filling g.band o.ty o.v % 2 ^ (if o.ty = .n64 ∨ o.ty = .f64 then 64 else 32)) fun x => WholeEntries x wide o.d.val) ∧
    (∀ (o : Tident) d, o.dst = .tile d → o.ty = .int .i32 ∨ o.ty = .flt .f32 ∨ o.ty = .flt .f64 →
      let wide := decide (o.ty = .flt .f64)
      puts (.tident o) wide d.val (fun i j => if i = j then oneInTile o.ty else 0) fun x => ∀ t,
        entryPut x t = if t = d.val then some (.ident (tyCode o.ty) false)
          else if wide = true ∧ t = d.val + 1 then some (.ident (tyCode o.ty) true) else none)

/-- TIDENT to the stash and SCLD (R324, R332): 2,048 bytes of an identity of the type, and scale columns from the stash. -/
def Sys2Proof.Claims.StashIdentityAndScales : Prop :=
  ∀ (s : State) (g : Grp) (tm : Team), OfTeam s g tm → g.live ≠ [] →
    (∀ (o : Tident) a, o.dst = .stash a → o.ty ∈ [Ty.int .i8, .flt .f16, .flt .bf16, .flt .f32, .flt .f64] ∨ (∃ f, o.ty = .b8 f) →
      let sa := (rdS g.band a.val).toNat
      sa % 1024 = 0 → sa + 2048 ≤ 1024 * tm.slotCount → (latchOf tm (sa / 1024)).engine = false →
      (latchOf tm (sa / 1024 + 1)).engine = false → (∀ code, fillFault s tm sa 2048 true code = none) → windowBusy s tm sa 2048 = false →
      IssuesMat (.tident o) s g g.band.srstate fun t x => t.cores = s.cores ∧ x.tiles = [] ∧ x.scales = [] ∧ x.flags = 0 ∧
        (∀ r c, r < 32 → c < 64 → bytePut x (sa + 64 * r + c) =
          some (if c / (oneInStash o.ty).2 = r then BitVec.ofNat 8 ((oneInStash o.ty).1 / 256 ^ (c % (oneInStash o.ty).2)) else 0)) ∧
        ∀ k, k < sa ∨ sa + 2048 ≤ k → bytePut x k = none) ∧
    (∀ o : Scld, Plainly tm →
      let sa := (rdS g.band o.a.val).toNat
      o.col.val + o.count.val ≤ 32 * tm.tileCount → sa % 4 = 0 → sa + 32 * o.count.val ≤ 1024 * tm.slotCount →
      IssuesMat (.scld o) s g g.band.srstate fun t x => t.cores = s.cores ∧ x.tiles = [] ∧ x.stash = [] ∧ x.flags = 0 ∧
        (∀ c i, c < o.count.val → i < 32 →
          scalePut x ((o.col.val + c) * 32 + i) = some (aGet 0 (sa + 32 * c + i) tm.stash)) ∧
        ∀ k, k < o.col.val * 32 ∨ (o.col.val + o.count.val) * 32 ≤ k → scalePut x k = none)

/-- TLD and TST (R308, R326): tile words from stored rows, and stored rows from tile words; where rows overlap the higher wins. -/
def Sys2Proof.Claims.TileLoadStore : Prop :=
  ∀ (s : State) (g : Grp) (tm : Team), OfTeam s g tm → g.live ≠ [] →
    (∀ o : Tld, Plainly tm → o.d.val < tm.tileCount →
      let base := rdS g.band o.a.val
      let pack := rdS g.band o.pack.val
      GoodRows tm base pack 4 32 (tileRowBytes o.w) → (o.transposed = true → o.w = .n32) →
      IssuesMat (.tld o) s g g.band.srstate fun t x => t.cores = s.cores ∧ WholeEntries x false o.d.val ∧ PutsTile x false o.d.val fun i j =>
        (if o.transposed then leNat (readBytes 0 tm.stash (rowAt base pack 32 j + 4 * i) 4)
         else if 4 * j < tileRowBytes o.w then leNat (readBytes 0 tm.stash (rowAt base pack 32 i + 4 * j) 4) else 0, 0)) ∧
    (∀ o : Tst, o.c.val < tm.tileCount →
      let base := rdS g.band o.a.val
      let pack := rdS g.band o.pack.val
      let inRow := fun q k => rowAt base pack 32 q ≤ k ∧ k < rowAt base pack 32 q + tileRowBytes o.w
      GoodRows tm base pack 4 32 (tileRowBytes o.w) →
      (∀ q k, q < 32 → inRow q k → (latchOf tm (k / 1024)).engine = false) →
      (∀ q code, q < 32 → fillFault s tm (rowAt base pack 32 q) (tileRowBytes o.w) true code = none) →
      (∀ q, q < 32 → windowBusy s tm (rowAt base pack 32 q) (tileRowBytes o.w) = false) →
      IssuesMat (.tst o) s g g.band.srstate fun t x => t.cores = s.cores ∧ x.tiles = [] ∧ x.scales = [] ∧ x.flags = 0 ∧
        (∀ q k, q < 32 → inRow q k → (∀ p, q < p → p < 32 → ¬ inRow p k) →
          let c := k - rowAt base pack 32 q
          bytePut x k = some (BitVec.ofNat 8
            ((if o.transposed then elementOf tm false o.c.val (c / 4) q else elementOf tm false o.c.val q (c / 4))
              / 256 ^ (c % 4)))) ∧
        ∀ k, (∀ q, q < 32 → ¬ inRow q k) → bytePut x k = none)

/-- TMOVV, TMOVT and TCLS (R328, R330): columns of a tile to registers and back, and the entry of a tile or slot. -/
def Sys2Proof.Claims.TileMoves : Prop :=
  ∀ (s : State) (g : Grp) (tm : Team), OfTeam s g tm → g.live ≠ [] →
    (∀ o : Tmov, o.t.val < tm.tileCount → o.v.val + o.count.val ≤ g.band.n → o.col.val + o.count.val ≤ 32 →
      EachThread (.tmovv o) s g (fun l t t' => t' = { moved t g.next with vregs := t'.vregs } ∧
        (∀ j, j < o.count.val → rdV t' (o.v.val + j) = aGet 0 (o.t.val * 1024 + 32 * l + (o.col.val + j)) tm.tiles) ∧
        ∀ r, r < o.v.val ∨ o.v.val + o.count.val ≤ r → rdV t' r = rdV t r) ∧
      IssuesMat (.tmovt o) s g g.band.srstate fun t x => t.cores = s.cores ∧ x.scales = [] ∧ x.stash = [] ∧ x.flags = 0 ∧
        (∀ i j, i < 32 → j < o.count.val →
          wordPut x (o.t.val * 1024 + 32 * i + (o.col.val + j)) = some (rdV (threadOf g.band i) (o.v.val + j))) ∧
        ∀ k, (∀ i j, i < 32 → j < o.count.val → k ≠ o.t.val * 1024 + 32 * i + (o.col.val + j)) → wordPut x k = none) ∧
    (∀ (o : Tcls) a, o.src = .tile a → a.val < tm.tileCount →
      OnceScalar (.tcls o) s g o.d.val (entryWord (tileClsOf tm a.val) false)) ∧
    (∀ (o : Tcls) a, o.src = .slot a →
      let n := (rdS g.band a.val).toNat % 512
      n < tm.slotCount →
      OnceScalar (.tcls o) s g o.d.val (entryWord (slotClsOf tm n)
        (slotPending tm n || ((latchOf tm n).engine && decide ((latchOf tm n).count ≠ 0)))))

/-- TACC, TSCL and TCVT (R336): one rounding to an element. -/
def Sys2Proof.Claims.TileArithmetic : Prop :=
  ∀ (s : State) (g : Grp) (tm : Team), OfTeam s g tm → g.live ≠ [] →
    (∀ o : Tacc, let wide := decide (o.ty = .f64)
      (∀ t ∈ [o.d, o.a, o.b], t.val + (if wide then 2 else 1) ≤ tm.tileCount) →
      IssuesMat (.tacc o) s g (srAfter g o.rnd) fun t x => t.cores = s.cores ∧ WholeEntries x wide o.d.val ∧ PutsTile x wide o.d.val fun i j =>
        let a := elementOf tm wide o.a.val i j
        let b := elementOf tm wide o.b.val i j
        let m := roundingMode g.band o.rnd
        match o.ty with
        | .i32 => ((a + b) % 2 ^ 32, 0)
        | .f32 => rounded .f32 m (randomBits g o.rnd i j) (fAdd m (decodeFmt fmtF32 a) (decodeFmt fmtF32 b))
        | .f64 => rounded .f64 m (randomBits g o.rnd i j) (fAdd m (decodeFmt fmtF64 a) (decodeFmt fmtF64 b))) ∧
    (∀ o : Tscl, o.d.val < tm.tileCount → o.a.val < tm.tileCount → (∀ r, o.src = .vec r → r.val < g.band.n) →
      IssuesMat (.tscl o) s g (srAfter g o.rnd) fun t x => t.cores = s.cores ∧ WholeEntries x false o.d.val ∧ PutsTile x false o.d.val fun i j =>
        let f := match o.src with
          | .sca r => (rdS g.band r.val).toNat % 2 ^ 32
          | .imm v => v.toNat
          | .vec r => (rdV (threadOf g.band i) r.val).toNat
        rounded .f32 (roundingMode g.band o.rnd) (randomBits g o.rnd i j)
          (fMul (decodeFmt fmtF32 (elementOf tm false o.a.val i j)) (decodeFmt fmtF32 f))) ∧
    (∀ o : Tcvt, tyBytes o.dty ≤ 4 → o.d.val < tm.tileCount → o.a.val < tm.tileCount →
      let w := 8 * tyBytes o.dty
      let r := fun i j => converted o.dty (if o.int then .int .i32 else .flt .f32) (roundingMode g.band o.rnd) o.sat
        (randomBits g o.rnd i j) (elementOf tm false o.a.val i j)
      IssuesMat (.tcvt o) s g (srAfter g o.rnd) fun t x => t.cores = s.cores ∧ WholeEntries x false o.d.val ∧ x.scales = [] ∧ x.stash = [] ∧
        (∀ i j, i < 32 → j < 32 → ∃ v, wordPut x (o.d.val * 1024 + 32 * i + j / (32 / w)) = some v ∧
          v.toNat / 2 ^ (w * (j % (32 / w))) % 2 ^ w = (r i j).1 % 2 ^ w) ∧
        (∀ i j, i < 32 → j < 32 → w ≤ j → wordPut x (o.d.val * 1024 + 32 * i + j) = some 0) ∧
        (∀ k, k < o.d.val * 1024 ∨ (o.d.val + 1) * 1024 ≤ k → wordPut x k = none) ∧
        ∀ c : Nat, x.flags.getLsbD c = true ↔ ∃ i j, i < 32 ∧ j < 32 ∧ (r i j).2.getLsbD c = true)

/-- TTOPK (R334): the columns of each row in rank order; the values of the first k, and their columns. -/
def Sys2Proof.Claims.TopValues : Prop :=
  ∀ (s : State) (g : Grp) (tm : Team) (o : Ttopk), OfTeam s g tm → g.live ≠ [] → o.d.val ≠ o.c.val →
    (∀ t ∈ [o.d, o.a, o.c], t.val < tm.tileCount) →
    let word := fun i j => (aGet 0 (o.a.val * 1024 + 32 * i + j) tm.tiles : Word)
    let nan := fun w : Word => !o.int && (decodeFmt fmtF32 w.toNat).isNan
    IssuesMat (.ttopk o) s g g.band.srstate fun t x => t.cores = s.cores ∧ x.scales = [] ∧ x.stash = [] ∧
      ∃ rank : Nat → List Nat,
        (∀ i, i < 32 → (rank i).Perm (List.range 32) ∧
          (rank i).Pairwise fun a b => RanksBefore o.int (a, (word i a).toNat) (b, (word i b).toNat)) ∧
        (∀ i r, i < 32 → r < 32 →
          (wordPut x (o.d.val * 1024 + 32 * i + r) = some (if o.k.val ≤ r then 0
            else if nan (word i ((rank i).getD r 0)) then 0x7FC00000 else word i ((rank i).getD r 0))) ∧
          wordPut x (o.c.val * 1024 + 32 * i + r) =
            some (if o.k.val ≤ r then 0xFFFFFFFF else BitVec.ofNat 32 ((rank i).getD r 0))) ∧
        (∀ k, k / 1024 ≠ o.d.val → k / 1024 ≠ o.c.val → wordPut x k = none) ∧
        (x.flags = 0 ∨ x.flags = flagNV) ∧
        (x.flags = flagNV ↔ o.int = false ∧ ∃ i r, i < 32 ∧ r < o.k.val ∧
          (decodeFmt fmtF32 (word i ((rank i).getD r 0)).toNat).isSig = true)

/-- MMA (R320, R321, R343-R349): with operands that pass their checks it issues a write of its tile, or pair, and of nothing else. Each
element is the sum of its products with block scales, with .f64, or where no operand decides an elision; a ZERO operand, if the other has
no NONFINITE, makes the instruction write nothing or a copy of its accumulator; else an IDENT operand, A before B, makes each element the
accumulator's with the other operand's one element. That the operands and the accumulator are read at issue is log 84 (DEDUCED). -/
def Sys2Proof.Claims.MatrixMultiply : Prop :=
  ∀ (s : State) (g : Grp) (tm : Team) (o : Mma), OfTeam s g tm → g.live ≠ [] → Plainly tm →
    o.ty ∈ [Ty.flt .f16, .flt .bf16, .flt .f32, .flt .f64, .int .i8] ∨ (∃ f, o.ty = .b8 f) →
    let wide := decide (o.ty = .flt .f64)
    (∀ t ∈ [o.d, o.c], t.val + (if wide then 2 else 1) ≤ tm.tileCount) →
    (∀ c, o.scales = some c → ∀ x ∈ [c.1, c.2], 2 * x.toNat < 32 * tm.tileCount ∧ (2 * x.toNat + 1) % 512 < 32 * tm.tileCount) →
    GoodOperand g.band tm o.ty (depthOfTy o.ty) o.a → GoodOperand g.band tm o.ty (depthOfTy o.ty) o.b →
    IssuesMat (.mma o) s g g.band.srstate fun t x =>
      (coreOf t g.core).mmacnt = (coreOf s g.core).mmacnt + 1 ∧
      let n := depthOfTy o.ty
      let zero := ZeroDecides tm g.band o.ty n n o.a o.b ∨ ZeroDecides tm g.band o.ty n n o.b o.a
      let elidable := o.ty ≠ .flt .f64 ∧ o.scales = none
      let identA := IdentDecides tm g.band o.ty n o.a o.b
      let identB := IdentDecides tm g.band o.ty n o.b o.a
      (elidable → zero → ZeroElided s t g.core x tm (decide (o.ty = .int .i8)) o.d.val o.c.val) ∧
      (elidable → ¬ zero → identA ∨ identB → (coreOf t g.core).elident = (coreOf s g.core).elident + 1) ∧
      (elidable → ¬ zero → identA → PutsTile x false o.d.val (identAt o g.band tm false)) ∧
      (elidable → ¬ zero → ¬ identA → identB → PutsTile x false o.d.val (identAt o g.band tm true)) ∧
      (¬ elidable ∨ (¬ zero ∧ ¬ identA ∧ ¬ identB) →
        WholeEntries x wide o.d.val ∧ PutsTile x wide o.d.val (productAt o g.band tm))

/-- MMAS (R322, R343-R348): the same for kept values and their positions in the metadata; no operand of it is IDENT. -/
def Sys2Proof.Claims.SparseMultiply : Prop :=
  ∀ (s : State) (g : Grp) (tm : Team) (o : Mmas), OfTeam s g tm → g.live ≠ [] → Plainly tm →
    o.ty = .int .i8 ∨ (∃ f, o.ty = .b8 f) → o.d.val < tm.tileCount → o.c.val < tm.tileCount →
    (∀ r b, o.a ≠ .stash r b true) →
    GoodOperand g.band tm o.ty (patternOf o.pat).1 o.a → GoodOperand g.band tm o.ty 128 o.b →
    (o.pat = .s48 → ∀ i v, i < 32 → v < 64 → fieldAt o g.band tm i v < 8) →
    (rdS g.band o.sm.val).toNat % 4 = 0 →
    (rdS g.band o.sm.val).toNat + 32 * (patternOf o.pat).2.2.2.2 ≤ 1024 * tm.slotCount →
    IssuesMat (.mmas o) s g g.band.srstate fun t x =>
      (coreOf t g.core).mmacnt = (coreOf s g.core).mmacnt + 1 ∧
      let n := (patternOf o.pat).1
      let zero := ZeroDecides tm g.band o.ty n 128 o.a o.b ∨ ZeroDecides tm g.band o.ty 128 n o.b o.a
      (zero → ZeroElided s t g.core x tm (decide (o.ty = .int .i8)) o.d.val o.c.val) ∧
      (¬ zero → WholeEntries x false o.d.val ∧ PutsTile x false o.d.val (sparseAt o g.band tm))

/-- MATRIX_COMPLETION (R315, R340): the oldest instruction of its team puts its words, scale bytes and stash bytes in place in one step,
with the directory entries: a tile's as the instruction formed it; a slot's of TIDENT its identity; another slot's by all of its 1,024
bytes, or, written in part, kept where each byte is the entry's own and GENERAL else. Its conditions reach FSTAT of its threads. Nothing
else changes but the band's energy, the accesses noted for the watchpoints and their lines' cost. -/
def Obligations.MatrixCompletion : Prop :=
  ∀ (s : State) (i : Nat) (x : MatOp) (tm : Team) (b : Band), s.cur = .event (.matrixCompletion i) → s.matrix[i]? = some x →
    (∀ j y, j < i → s.matrix[j]? = some y → y.team ≠ x.team) → teamOf s x.team = some tm → Plainly tm →
    bandOf s x.band = some b →
    ∃ t tm' b', exec .matrixCompletion s = .next t ∧
      t = { s with bands := t.bands, teams := t.teams, matrix := s.matrix.eraseIdx i, seen := t.seen, lineCosts := t.lineCosts } ∧
      teamOf t x.team = some tm' ∧
      tm' = { tm with tiles := tm'.tiles, scales := tm'.scales, stash := tm'.stash, tileCls := tm'.tileCls, slotCls := tm'.slotCls } ∧
      (∀ j, j ≠ x.team → teamOf t j = teamOf s j) ∧ bandOf t x.band = some b' ∧
      (∀ j, j ≠ x.band → bandOf t j = bandOf s j) ∧ (∀ a, homeByte t a = homeByte s a) ∧
      (∀ k, tileClsOf tm' k = (entryPut x k).getD (tileClsOf tm k)) ∧
      (∀ n, let wrote := fun o => 1024 * n ≤ o ∧ o < 1024 * n + 1024 ∧ bytePut x o ≠ none
        let word := fun o => BitVec.ofNat 32 (leNat (readBytes 0 tm'.stash (o / 4 * 4) 4))
        ((∀ o, ¬ wrote o) → slotClsOf tm' n = slotClsOf tm n) ∧
        ((∃ o, wrote o) →
          (∀ n0 code, x.ident = some (n0, code) → slotClsOf tm' n = .ident code (decide (n ≠ n0))) ∧
          (x.ident = none → (∀ o, 1024 * n ≤ o → o < 1024 * n + 1024 → wrote o) →
            WholeUnit 256 (fun k => word (1024 * n + 4 * k)) (slotClsOf tm' n)) ∧
          (x.ident = none → (∃ o, 1024 * n ≤ o ∧ o < 1024 * n + 1024 ∧ ¬ wrote o) →
            let keeps := (∀ nf, slotClsOf tm n ≠ .general nf) ∧
              ∀ o, wrote o → aGet 0 o tm'.stash = imageSlotByte (slotClsOf tm n) (o - 1024 * n)
            (keeps → slotClsOf tm' n = slotClsOf tm n) ∧
            (¬ keeps → ∃ nf, slotClsOf tm' n = .general nf ∧
              (nf = true ↔ (slotClsOf tm n).nonfinite = true ∨ ∃ o, wrote o ∧ nonFinite (word o).toNat = true))))) ∧
      (∀ k, aGet 0 k tm'.tiles = (wordPut x k).getD (aGet 0 k tm.tiles)) ∧
      (∀ k, aGet 127 k tm'.scales = (scalePut x k).getD (aGet 127 k tm.scales)) ∧
      (∀ k, aGet 0 k tm'.stash = (bytePut x k).getD (aGet 0 k tm.stash)) ∧
      b' = { b with threads := b'.threads, energy := b'.energy } ∧
      ∀ l, l < b.threads.length → threadOf b' l =
        if l ∈ x.lanes then { threadOf b l with fstat := (threadOf b l).fstat ||| x.flags } else threadOf b l

/-- The descriptor table (R361, R369): TDSET takes 64 bytes of memory that make a valid descriptor, TDGET stores an
entry's, TDINV makes one invalid; while the entry's stack takes no access each of them waits (R479). Where an entry lies in the area at
DESCBASE is log 88 (DESIGN CHOICE). -/
def Sys2Proof.Claims.DescriptorTable : Prop :=
  ∀ (s : State) (g : Grp) (tm : Team) (l : Leaf), OfTeam s g tm → g.live ≠ [] →
    let x := ctxOf s tm.ctx
    let place := fun id => x.descBase.toNat + 64 * id
    (∀ o : Td, let va := (rdS g.band o.a.val).toNat
      let id := namedDesc g.band o.id
      let ag : Agent := .thread g.core g.band.team tm.ctx
      va % 64 = 0 → Present s (g.core / 8) tm.ctx va false l →
      (∀ line y, l1Find s g.core tm.ctx va = some (line, y) → line = physOf l va / 128) → Plain s ag (physOf l va) va →
      (stackBusy s (place id) = true → ∃ code, GroupHolds (.tdset o) s g (.polled code)) ∧
      (stackBusy s (place id) = false →
      let v := seenValue s ag (physOf l va) 64
      imageInvalid v = false → ((descOf v).ty = 11 → s.profileN = false) →
      ∃ t b', exec (.tdset o) s = .next t ∧ bandOf t g.key = some b' ∧ GoneOn g b' ∧
        (∀ j, j ≠ g.key → bandOf t j = bandOf s j) ∧ t.teams = s.teams ∧
        descBytes t tm.ctx id = v + (if v.testBit 80 then 0 else 2 ^ 80) ∧
        (∀ a, a < place id ∨ place id + 64 ≤ a → homeByte t a = homeByte s a) ∧
        ctxOf t tm.ctx = { x with descs := (ctxOf t tm.ctx).descs } ∧ (∀ c, c ≠ tm.ctx → ctxOf t c = ctxOf s c) ∧
        ∀ j, j ∈ (ctxOf t tm.ctx).descs ↔ j ∈ x.descs ∨ j = id)) ∧
    (∀ (o : Td) (loc : Loc), Locates s g tm 64 true false (rdS g.band o.a.val).toNat loc →
      (stackBusy s (place (namedDesc g.band o.id)) = true → ∃ code, GroupHolds (.tdget o) s g (.polled code)) ∧
      (stackBusy s (place (namedDesc g.band o.id)) = false → IssuesOnce (.tdget o) s g tm (.store loc 64
        (if namedDesc g.band o.id ∈ x.descs then descBytes s tm.ctx (namedDesc g.band o.id) else 0) none .normal))) ∧
    (∀ o : Tdinv, let id := namedDesc g.band o.id
      (stackBusy s (place id) = true → ∃ code, GroupHolds (.tdinv o) s g (.polled code)) ∧
      (stackBusy s (place id) = false → ∃ t b', exec (.tdinv o) s = .next t ∧ t = { s with bands := t.bands, contexts := t.contexts, mem := t.mem } ∧
      bandOf t g.key = some b' ∧ GoneOn g b' ∧ (∀ j, j ≠ g.key → bandOf t j = bandOf s j) ∧
      (∀ c, c ≠ tm.ctx → ctxOf t c = ctxOf s c) ∧ ctxOf t tm.ctx = x ∧
      (∀ a, a < place id ∨ place id + 64 ≤ a → homeByte t a = homeByte s a) ∧
      (id ∈ x.descs → descBytes t tm.ctx id = descBytes s tm.ctx id - if (descBytes s tm.ctx id).testBit 80 then 2 ^ 80 else 0) ∧
      (id ∉ x.descs → t.mem = s.mem)))

/-- CPOST, GPOST, SPOST, MPOST and EMBAG (R370-R372, R378, R387, R388): operands that pass the checks post their command, which joins
its channel's queue or chain (R357), and issue a release of their threads, which the command waits for (R365). Each slot that it names
counts one command more; the slots that it writes are PENDING, those of windows too (R341). A GPOST or SPOST with PITCH 0 is log 49
(DEDUCED); the place and the layout of a chained record is log 52 (DESIGN CHOICE). -/
def Obligations.Posting : Prop :=
  ∀ (s : State) (g : Grp) (tm : Team) (d : Desc), OfTeam s g tm → g.live ≠ [] →
    (∀ (o : Cpost) (e0 e1 e2 e3 off pitch : Nat), HasDesc s tm.ctx o.desc.val d →
      (rdS g.band o.c.val).toNat = e0 + e1 * 2 ^ 16 + e2 * 2 ^ 32 + e3 * 2 ^ 48 →
      (∀ e ∈ [e0, e1, e2, e3], 0 < e ∧ e < 2 ^ 16) →
      (d.rank ≤ 0 → e0 = 1) → (d.rank ≤ 1 → e1 = 1) → (d.rank ≤ 2 → e2 = 1) → (d.rank ≤ 3 → e3 = 1) →
      (rdS g.band o.e.val).toNat = off + pitch * 2 ^ 32 → off < 2 ^ 19 → pitch < 2 ^ 16 →
      pitch = 0 ∨ e0 * d.es ≤ pitch → off % d.es = 0 → pitch % d.es = 0 →
      let p := pitchOf pitch (e0 * d.es)
      let range := (off, (e1 * e2 * e3 - 1) * p + e0 * d.es)
      let a := (rdS g.band o.a.val).toNat
      let b := (rdS g.band o.b.val).toNat
      EngineOwned s g tm range → (∀ t, o.tumb = some t → TumblerReady tm t.val) →
      Posts (.cpost o) s g tm o.chn.val o.d.val [range] (if o.store then [] else [range])
        (.box o.store [a % 2 ^ 32, a / 2 ^ 32, b % 2 ^ 32, b / 2 ^ 32] [e0, e1, e2, e3] off p) d (o.tumb.map (·.val))) ∧
    (∀ (scatter : Bool) (o : Gpost) (off pitch e0 : Nat) (f : Nat → Leaf), HasDesc s tm.ctx o.desc.val d → d.rank ≠ 1 →
      o.b.val < g.band.n → (rdS g.band o.c.val).toNat = e0 → 0 < e0 → e0 < 2 ^ 16 →
      (rdS g.band o.e.val).toNat = off + pitch * 2 ^ 32 → off < 2 ^ 19 → pitch < 2 ^ 16 →
      pitch = 0 ∨ e0 * d.es ≤ pitch → off % 8 = 0 → pitch % 8 = 0 → (chanOf tm o.chn.val).remap = .none →
      let p := pitchOf pitch (e0 * d.es)
      let a := (rdS g.band o.a.val).toNat
      let row := fun l => (rdV (threadOf g.band l) o.b.val).toNat
      let first := rowElems d (a % 2 ^ 32) (a / 2 ^ 32 % 2 ^ 16) (a / 2 ^ 48) e0 (row (g.live.headD 0))
      EngineOwned s g tm (off, 32 * p + 8) → TumblerReady tm o.t.val → row (g.live.headD 0) < d.dim 1 →
      (∀ x ∈ first, Present s (g.core / 8) tm.ctx x.2 scatter (f x.2)) →
      Posts (if scatter then .spost o else .gpost o) s g tm o.chn.val o.d.val [(off, 32 * p + 8)]
        ((off + 32 * p, 8) :: if scatter then [] else g.live.map fun l => (off + l * p, e0 * d.es))
        (.rows scatter (a % 2 ^ 32) (a / 2 ^ 32 % 2 ^ 16) (a / 2 ^ 48) e0 off p
          (g.live.map fun l => (l, rdV (threadOf g.band l) o.b.val, if row l < d.dim 1 then some (row l) else none)))
        d (some o.t.val)) ∧
    (∀ o : Mpost,
      let va := (rdS g.band o.a.val).toNat
      let n := (rdS g.band o.c.val).toNat
      va < 2 ^ 55 → va / 65536 * 65536 + n * 65536 ≤ 2 ^ 55 → 0 < n → n < 65536 →
      Posts (.mpost o) s g tm o.chn.val o.d.val [] [] (.move (va / 65536 * 65536) n o.home.val)
        { base := 0, ty := 4, rank := 0, dims := [], strides := [] } none) ∧
    (∀ (o : Embag) (ioff woff boff nb doff pitch ni : Nat), HasDesc s tm.ctx o.desc.val d → embagDesc d = true →
      (rdS g.band o.a.val).toNat = ioff + woff * 2 ^ 32 → (rdS g.band o.b.val).toNat = boff + nb * 2 ^ 32 →
      (rdS g.band o.c.val).toNat = doff + pitch * 2 ^ 32 → (rdS g.band o.e.val).toNat = ni →
      ioff < 2 ^ 19 → woff < 2 ^ 19 → boff < 2 ^ 19 → doff < 2 ^ 19 → pitch < 2 ^ 16 → (o.wgt = false → woff = 0) →
      0 < nb → nb ≤ 4096 → 0 < ni → ni ≤ 98304 → pitch = 0 ∨ 4 * d.dim 0 ≤ pitch →
      ioff % 4 = 0 → woff % 4 = 0 → boff % 4 = 0 → doff % 4 = 0 → pitch % 4 = 0 →
      let p := pitchOf pitch (4 * d.dim 0)
      let lists := [(ioff, 4 * ni), (boff, 4 * (nb + 1))] ++ if o.wgt then [(woff, 4 * ni)] else []
      let bags := (List.range nb).map fun i => (doff + i * p, 4 * d.dim 0)
      (∀ x ∈ bags, ∀ y ∈ lists, x.1 + x.2 ≤ y.1 ∨ y.1 + y.2 ≤ x.1) →
      (∀ x ∈ lists ++ [(doff, (nb - 1) * p + 4 * d.dim 0)], EngineOwned s g tm x) →
      (∀ t, o.t = some t → TumblerReady tm t.val) →
      Posts (.embag o) s g tm o.chn.val o.d.val (lists ++ [(doff, (nb - 1) * p + 4 * d.dim 0)]) bags
        (.embag o.wgt ioff woff boff nb doff p ni) d (o.t.map (·.val)))

/-- VREMAP, CWAIT, CSEQ, CQRY and EMSTAT (R376, R377, R395). -/
def Sys2Proof.Claims.ChannelState : Prop :=
  ∀ (s : State) (g : Grp) (tm : Team), OfTeam s g tm → g.live ≠ [] →
    (∀ (o : Vremap) (r : Remap),
      (match o.mode with
        | .none => r = .none
        | .mod a => 0 < (rdS g.band a.val).toNat ∧ (rdS g.band a.val).toNat < 2 ^ 32 ∧ r = .mod (rdS g.band a.val).toNat
        | .hash a b => 0 < (rdS g.band a.val).toNat ∧ (rdS g.band a.val).toNat < 2 ^ 32 ∧
            r = .hash (rdS g.band a.val).toNat (rdS g.band b.val)
        | .tab a b => 0 < (rdS g.band a.val).toNat ∧ (rdS g.band a.val).toNat < 2 ^ 32 ∧ (rdS g.band b.val).toNat < 2 ^ 19 ∧
            (rdS g.band b.val).toNat % 4 = 0 ∧
            (rdS g.band b.val).toNat + 4 * (rdS g.band a.val).toNat ≤ 1024 * tm.slotCount ∧
            r = .tab (rdS g.band a.val).toNat (rdS g.band b.val).toNat) →
      ChannelStep (.vremap o) s g tm o.chn.val none 0 false { chanOf tm o.chn.val with remap := r }) ∧
    (∀ o : Cwait, let c := chanOf tm o.chn.val
      ((c.csq - rdS g.band o.b.val).getLsbD 63 = false → ChannelStep (.cwait o) s g tm o.chn.val none 0 o.cluster c) ∧
      ((c.csq - rdS g.band o.b.val).getLsbD 63 = true → ∃ code, GroupWaits (.cwait o) s g (.polled code))) ∧
    (∀ o : Cseq, ChannelStep (.cseq o) s g tm o.chn.val (some o.d.val) (chanOf tm o.chn.val).csq o.cluster
      (chanOf tm o.chn.val)) ∧
    (∀ (o : Cqry) (stall : Option Nat),
      (stall = match (coreChan s tm.core o.chn.val).queue with
        | x :: _ => if x.team = g.band.team ∧ x.stall ≠ none then some (x.desc.es * x.pos) else none
        | [] => none) →
      ChannelStep (.cqry o) s g tm o.chn.val (some o.d.val) (queryWord (chanOf tm o.chn.val) stall) false
        { chanOf tm o.chn.val with err := false, cause := 0 }) ∧
    (∀ o : Emstat, OnceScalar (.emstat o) s g o.d.val
      (if o.addr then (chanOf tm o.chn.val).emaddr else (chanOf tm o.chn.val).emstat))

/-- XRED, XGTH, XSND and XRCV (R380-R382): operands that pass the checks post a collective at the team's hinge and issue a release of
their threads, which it waits for; the window slots that it may write are PENDING (R341). With 64 collectives outstanding the group
waits. -/
def Obligations.CollectivePosting : Prop :=
  ∀ (s : State) (g : Grp) (tm : Team), OfTeam s g tm → g.live ≠ [] →
    (∀ o : Xred, (o.op ∈ [RedOp.and, .or, .xor] → ∃ t, o.ty = .int t) →
      let a := (rdS g.band o.a.val).toNat
      let b := (rdS g.band o.b.val).toNat
      let c := (rdS g.band o.c.val).toNat
      PostsCollective (.xred o) s g tm o.system o.comm.val none c (2 ^ 28) [(a, tyBytes o.ty), (b, tyBytes o.ty)]
        (o.t.map (·.val)) { unposted .red a b c with op := o.op, ty := tyCode o.ty }) ∧
    (∀ o : Xgth,
      let a := (rdS g.band o.a.val).toNat
      let b := (rdS g.band o.b.val).toNat
      let c := (rdS g.band o.c.val).toNat
      PostsCollective (.xgth o) s g tm o.system o.comm.val none c (2 ^ 28) [(a, tyBytes o.ty), (b, tyBytes o.ty)]
        (o.t.map (·.val)) { unposted .gth a b c with ty := tyCode o.ty }) ∧
    (∀ o : Xsr,
      let a := (rdS g.band o.a.val).toNat
      let b := (rdS g.band o.b.val).toNat
      let c := (rdS g.band o.c.val).toNat
      PostsCollective (.xsnd o) s g tm o.system o.comm.val (some b) c (2 ^ 32 - 1) [(a, 1)] (o.t.map (·.val))
        (unposted .snd a b c) ∧
      PostsCollective (.xrcv o) s g tm o.system o.comm.val (some a) c (2 ^ 32 - 1) [(b, 1)] (o.t.map (·.val))
        (unposted .rcv a b c))

/-- A box goes on (R366, R371) once its post has been performed, with every in-bounds element on a page that is present and in no
window: a number of its elements, at least one, is copied, which the model leaves free (log 48). Loaded, each element's stash bytes
are those that the engine sees, or what an early read has seen of them (R289), an element out of bounds zeros, and CWP counts them;
stored, the engine sees at each in-bounds element's address its stash bytes, those of the last of several elements at a byte, and no
other byte otherwise. -/
def Sys2Proof.Claims.BoxElementsCopied : Prop :=
  ∀ (s : State) (core ch : Nat) (c : Command) (rest : List Command) (tm : Team) (store : Bool) (origin ext : List Nat)
    (off pitch : Nat) (f : Nat → Leaf),
    s.cur = .event (.engineCommandStart core ch) → (coreChan s core ch).queue = c :: rest → teamOf s c.team = some tm →
    tm.core = core → Windowless tm → c.kind = .box store origin ext off pitch → c.posted = true → c.ended = none → c.stall = none → 0 < c.desc.es →
    c.pos < boxCount ext → ext.getD 0 1 * c.desc.es ≤ pitch →
    let es := c.desc.es
    let spot := fun i => boxElem es origin ext off pitch i
    let va := fun i => elemAddr c.desc (spot i).1
    let p := fun i => physOf (f i) (va i)
    let inside := fun i => inBounds c.desc (spot i).1 = true
    let ag : Agent := .engine core c.team tm.ctx
    (∀ i, c.pos ≤ i → i < boxCount ext → inside i →
      Present s (core / 8) tm.ctx (va i) store (f i) ∧ windowAt s (p i) = none) →
    RoomForAll s (core / 8) (((List.range (boxCount ext)).filter fun i => decide (c.pos ≤ i) && inBounds c.desc (spot i).1).map p) →
    let early := fun o b => (aFind o c.ahead).getD b
    ∃ t tm' m, exec .engineCommandStart s = .next t ∧ c.pos < m ∧ m ≤ boxCount ext ∧ teamOf t c.team = some tm' ∧
      (∃ w, (coreChan t core ch).queue =
        { c with running := true, pos := m, written := w, ended := if boxCount ext ≤ m then some (0, 0, 0, 0) else none } :: rest) ∧
      (∀ a, homeByte t a = homeByte s a) ∧
      (store = false →
        (∀ i j, c.pos ≤ i → i < m → j < es →
          (inside i → aGet 0 ((spot i).2 + j) tm'.stash = early ((spot i).2 + j) (seenByte s ag (p i + j))) ∧
          (¬ inside i → aGet 0 ((spot i).2 + j) tm'.stash = early ((spot i).2 + j) 0)) ∧
        (∀ a, (∀ i, c.pos ≤ i → i < m → a < (spot i).2 ∨ (spot i).2 + es ≤ a) → aGet 0 a tm'.stash = aGet 0 a tm.stash) ∧
        (chanOf tm' ch).cwp = (chanOf tm ch).cwp + BitVec.ofNat 64 (es * (m - c.pos)) ∧
        ∀ a, seenByte t ag a = seenByte s ag a) ∧
      (store = true → tm' = tm ∧
        (∀ i j, c.pos ≤ i → i < m → j < es → inside i →
          (∀ k, i < k → k < m → inside k → p i + j < p k ∨ p k + es ≤ p i + j) →
          seenByte t ag (p i + j) = aGet 0 ((spot i).2 + j) tm.stash) ∧
        ∀ a, (∀ i, c.pos ≤ i → i < m → inside i → a < p i ∨ p i + es ≤ a) → seenByte t ag a = seenByte s ag a)

/-- A row of an index command goes on (R372, R374), with its in-bounds elements on pages that are present and in no window: a number of
its elements, at least one, is moved, which the model leaves free (log 48). Gathered, their stash bytes are those that the engine
sees, or what an early read has seen of them (R289), and zeros out of bounds, counted in CWP; scattered, the engine sees at each
in-bounds element's address its stash bytes, those of the last of several at a byte. With its last element the row is delivered: it
is counted and arrives. -/
def Sys2Proof.Claims.RowsCopied : Prop :=
  ∀ (s : State) (core ch : Nat) (c : Command) (rest : List Command) (tm : Team) (scatter : Bool)
    (c0 c2 c3 e0 off pitch l x : Nat) (idx : Word) (elems : List (Nat × Word × Option Nat)) (f : Nat → Leaf),
    s.cur = .event (.indexRowDelivery core ch) → (coreChan s core ch).queue = c :: rest → teamOf s c.team = some tm →
    tm.core = core → Windowless tm → c.kind = .rows scatter c0 c2 c3 e0 off pitch elems → c.running = true → c.ended = none →
    elems[c.pos]? = some (l, idx, some x) → OneShort tm c.tumb → c.part < e0 →
    let es := c.desc.es
    let va := fun i => elemAddr c.desc [c0 + i, x, c2, c3]
    let p := fun i => physOf (f i) (va i)
    let inside := fun i => inBounds c.desc [c0 + i, x, c2, c3] = true
    let ag : Agent := .engine core c.team tm.ctx
    let o := off + l * pitch
    (∀ i, i < e0 → inside i → Present s (core / 8) tm.ctx (va i) scatter (f i) ∧ windowAt s (p i) = none) →
    (c.part = 0 ∨ ∀ i, i < e0 → inside i →
      c.pages.find? (fun y => y.1 == va i / 65536) = some (va i / 65536, 0, p i - va i % 65536)) →
    RoomForAll s (core / 8) (((List.range e0).filter fun i => decide (c.part ≤ i) && inBounds c.desc [c0 + i, x, c2, c3]).map p) →
    let early := fun k b => (aFind k c.ahead).getD b
    ∃ t tm' m w pages, exec .indexRowDelivery s = .next t ∧ teamOf t c.team = some tm' ∧ c.part < m ∧ m ≤ e0 ∧
      (m < e0 → tm'.tumblers = tm.tumblers ∧
        (coreChan t core ch).queue = { c with part := m, pages := pages, written := w } :: rest) ∧
      (m = e0 → ArrivedOnce tm tm' c.tumb ∧
        (coreChan t core ch).queue =
          { c with pos := c.pos + 1, part := 0, pages := [], mask := c.mask ||| BitVec.ofNat 32 (2 ^ l), delivered := c.delivered + 1
                   counted := (chanOf tm' ch).cwp.toNat, written := w } :: rest) ∧
      (∀ a, homeByte t a = homeByte s a) ∧
      (scatter = false →
        (∀ i j, c.part ≤ i → i < m → j < es →
          (inside i → aGet 0 (o + es * i + j) tm'.stash = early (o + es * i + j) (seenByte s ag (p i + j))) ∧
          (¬ inside i → aGet 0 (o + es * i + j) tm'.stash = early (o + es * i + j) 0)) ∧
        (∀ a, a < o + es * c.part ∨ o + es * m ≤ a → aGet 0 a tm'.stash = aGet 0 a tm.stash) ∧
        (chanOf tm' ch).cwp = (chanOf tm ch).cwp + BitVec.ofNat 64 (es * (m - c.part)) ∧ ∀ a, seenByte t ag a = seenByte s ag a) ∧
      (scatter = true → tm'.stash = tm.stash ∧
        (∀ i j, c.part ≤ i → i < m → j < es → inside i →
          (∀ k, i < k → k < m → inside k → p i + j < p k ∨ p k + es ≤ p i + j) →
          seenByte t ag (p i + j) = aGet 0 (o + es * i + j) tm.stash) ∧
        ∀ a, (∀ i, c.part ≤ i → i < m → inside i → a < p i ∨ p i + es ≤ a) → seenByte t ag a = seenByte s ag a)

/-- A bag of one position (R385, R387, R390): until every line of its row has been read, a step may only read a line, in an order that
the model leaves free (log 55); the bag's vector is then the row's elements, scaled where the type is of 8 bits, each times the
weight and rounded once. -/
def Sys2Proof.Claims.BagsPooled : Prop :=
  ∀ (s : State) (core ch : Nat) (c : Command) (rest : List Command) (tm : Team) (wgt : Bool)
    (ioff woff boff nb doff pitch ni : Nat) (ty : Ty) (f : Nat → Leaf),
    s.cur = .event (.embagBagDelivery core ch) → (coreChan s core ch).queue = c :: rest → teamOf s c.team = some tm →
    tm.core = core → Windowless tm → c.kind = .embag wgt ioff woff boff nb doff pitch ni → c.running = true → c.ended = none →
    c.pos < nb → c.lines = [] → tyOfCode c.desc.ty = some ty → OneShort tm c.tumb →
    let word := fun o => leNat (readBytes 0 tm.stash o 4)
    let lo := word (boff + 4 * c.pos)
    let x := word (ioff + 4 * lo)
    let ra := elemAddr c.desc [0, x, 0, 0]
    let es := tyBytes ty
    let len := es * c.desc.dim 0 + if c.desc.ty < 0x24 then 0 else 1
    let row := fun k => homeByte s (physOf (f k) (ra + k))
    word (boff + 4 * (c.pos + 1)) = lo + 1 → lo < ni → x < c.desc.dim 1 → len ≤ 65536 →
    (∀ k, k < len → Present s (core / 8) tm.ctx (ra + k) false (f k) ∧ (f k).sys = false ∧
      windowAt s (physOf (f k) (ra + k)) = none) →
    let term := fun j =>
      let v := decodeTy ty (leNat ((List.range es).map fun i => row (es * j + i)))
      let e := (row (es * c.desc.dim 0)).toNat
      let v := if c.desc.ty < 0x24 then v else if e = 255 then .nan false else v.scale (e - 127 : Int)
      (rounded .f32 .rne 0 (fMul (decodeFmt fmtF32 (if wgt then word (woff + 4 * lo) else 0x3F800000)) v)).1
    ∃ t tm', exec .embagBagDelivery s = .next t ∧ teamOf t c.team = some tm' ∧ (∀ a, homeByte t a = homeByte s a) ∧
      ((tm' = tm ∧ ∃ m, (coreChan t core ch).queue = { c with lines := m } :: rest ∧ m ≠ []) ∨
        (ArrivedOnce tm tm' c.tumb ∧
          (∃ w, (coreChan t core ch).queue =
            { c with pos := c.pos + 1, delivered := c.delivered + 1, counted := (chanOf tm' ch).cwp.toNat, written := w } :: rest) ∧
          (∀ j, j < c.desc.dim 0 → leNat (readBytes 0 tm'.stash (doff + c.pos * pitch + 4 * j) 4) = term j) ∧
          (∀ a, a < doff + c.pos * pitch ∨ doff + c.pos * pitch + 4 * c.desc.dim 0 ≤ a →
            aGet 0 a tm'.stash = aGet 0 a tm.stash) ∧
          (chanOf tm' ch).cwp = (chanOf tm ch).cwp + BitVec.ofNat 64 (4 * c.desc.dim 0)))

/-- A command is still the one that it was. -/
structure SameCommand (c c' : Command) : Prop where
  rest : c' = { c with running := c'.running, pos := c'.pos, part := c'.part, pages := c'.pages, counted := c'.counted, mask := c'.mask, delivered := c'.delivered, written := c'.written
                       stall := c'.stall, lines := c'.lines, ended := c'.ended, aborted := c'.aborted }
  on : c.pos ≤ c'.pos

/-- The engines' own steps (R356, R359, R365, R371, R374, R385, R391): a command starts or goes on once its post has been performed; the
next row or bag goes on, is delivered, or ends its command, or waits; a bag whose list is out of order, or that is empty; a row with a
bad index; a page of an MPOST waits for its stacks (R479), or is moved to a frame of its home that the model leaves free (logs 25 and
51), whose page takes the place that it had, or skipped (R246, R378); a held request record is written (R262). -/
def Sys2Proof.Claims.EngineProgress : Prop :=
  ∀ (s : State) (core ch : Nat) (c : Command) (rest : List Command) (tm : Team),
    (coreChan s core ch).queue = c :: rest → teamOf s c.team = some tm → tm.core = core →
    (s.cur = .event (.engineCommandStart core ch) → c.posted = false → exec .engineCommandStart s = .next s) ∧
    (s.cur = .event (.engineCommandStart core ch) → c.posted = true → c.ended = none → c.stall = none →
      (∃ t c', exec .engineCommandStart s = .next t ∧ (coreChan t core ch).queue = c' :: rest ∧ SameCommand c c' ∧
        c'.running = true) ∧
      ((∀ store origin ext off pitch, c.kind ≠ .box store origin ext off pitch) →
        ∃ t, exec .engineCommandStart s = .next t ∧ t = { s with cores := t.cores } ∧
          (coreChan t core ch).queue = { c with running := true } :: rest)) ∧
    (s.cur = .event (.indexRowDelivery core ch) → c.running = true → c.ended = none →
      ∀ scatter c0 c2 c3 e0 off pitch elems l idx r, c.kind = .rows scatter c0 c2 c3 e0 off pitch elems →
      elems[c.pos]? = some (l, idx, r) →
      (∃ t c', exec .indexRowDelivery s = .next t ∧ (coreChan t core ch).queue = c' :: rest ∧ SameCommand c c' ∧
        ((c'.pos = c.pos ∧ c'.ended = none ∧ c.part ≤ c'.part) ∨ (c'.pos = c.pos + 1 ∧ c'.part = 0) ∨
          ∃ cause, c' = { c with ended := some (cause, l, 0, 0) })) ∧
      (r = none → ∃ t, exec .indexRowDelivery s = .next t ∧ t = { s with cores := t.cores } ∧
        (coreChan t core ch).queue = { c with ended := some (1, l, 0, 0) } :: rest)) ∧
    (s.cur = .event (.embagBagDelivery core ch) → c.running = true → c.ended = none →
      ∀ wgt ioff woff boff nb doff pitch ni, c.kind = .embag wgt ioff woff boff nb doff pitch ni → c.pos < nb →
      (∃ t c', exec .embagBagDelivery s = .next t ∧ (coreChan t core ch).queue = c' :: rest ∧ SameCommand c c' ∧
        (c'.pos = c.pos ∨ c'.pos = c.pos + 1)) ∧
      (Windowless tm →
        let lo := leNat (readBytes 0 tm.stash (boff + 4 * c.pos) 4)
        let hi := leNat (readBytes 0 tm.stash (boff + 4 * (c.pos + 1)) 4)
        (hi < lo ∨ ni < hi ∨ 65535 < hi - lo →
          ∃ t, exec .embagBagDelivery s = .next t ∧ t.teams = s.teams ∧ (∀ a, homeByte t a = homeByte s a) ∧
            (coreChan t core ch).queue = { c with ended := some (6, 0, c.pos, 0) } :: rest) ∧
        (hi = lo → hi ≤ ni → OneShort tm c.tumb →
          ∃ t tm', exec .embagBagDelivery s = .next t ∧ teamOf t c.team = some tm' ∧
            (∀ a, aGet 0 a tm'.stash = if doff + c.pos * pitch ≤ a ∧ a < doff + c.pos * pitch + 4 * c.desc.dim 0 then 0
              else aGet 0 a tm.stash) ∧
            ArrivedOnce tm tm' c.tumb ∧ (∀ a, homeByte t a = homeByte s a) ∧
            ∃ c', (coreChan t core ch).queue = c' :: rest ∧ c'.pos = c.pos + 1 ∧ c'.delivered = c.delivered + 1 ∧
              c'.ended = none))) ∧
    (∀ va pages home l, s.cur = .event (.pageMove (.command core ch)) → c.running = true → c.kind = .move va pages home →
      c.pos < pages → home < 32 → (s.remap.map (·.1)).Nodup → Walkable s (core / 8) c.ctx (va + 65536 * c.pos) →
      walk s c.ctx (va + 65536 * c.pos) = .ok l →
      (l.state = 0 → l.sys = false → homeOfPage s l.ppn ≠ home → moveWaits s l.ppn home = true → exec .pageMove s = .next s) ∧
      ((l.state = 0 → l.sys = false → homeOfPage s l.ppn ≠ home → moveWaits s l.ppn home = false) →
        ∃ t, exec .pageMove s = .next t ∧ (coreChan t core ch).queue = { c with pos := c.pos + 1 } :: rest ∧
          (l.state ≠ 0 ∨ l.sys = true ∨ homeOfPage s l.ppn = home → t.remap = s.remap ∧ t.mem = s.mem) ∧
          (l.state = 0 → l.sys = false →
            (t.remap = s.remap ∨ ∃ frame, placeOfPage t l.ppn = (home, frame) ∧ frame < framesOf s home ∧
              ∀ p, p ≠ l.ppn → placeOfPage t p = placeOfPage s p ∨ (placeOfPage s p = (home, frame) ∧
                pageUnused s p = true ∧ placeOfPage t p = placeOfPage s l.ppn)) ∧
            (∀ p, pageLost t p = pageLost s p) ∧ ∀ a, a / 65536 ≠ l.ppn → homeByte t a = homeByte s a))) ∧
    (∀ l1 l2 r, s.cur = .event (.heldRecordWrite (.channel core ch)) → (coreChan s core ch).held = l1 ++ r :: l2 →
      (∀ y ∈ l1, ringFull (ctxOf s y.ctx).requests 16 = true) →
      let ring := (ctxOf s r.ctx).requests
      ringFull ring 16 = false →
      ∃ t, exec .heldRecordWrite s = .next t ∧ coreChan t core ch = { coreChan s core ch with held := l1 ++ l2 } ∧
        (ctxOf t r.ctx).requests = { ring with prod := ring.prod + 1 } ∧ r.vpage ∈ (ctxOf t r.ctx).outstanding) ∧
    (∀ st, s.cur = .event (.heldRecordWrite (.channel core ch)) → c.stall = some st → st.held = true →
      (∀ y ∈ (coreChan s core ch).held, ringFull (ctxOf s y.ctx).requests 16 = true) →
      let ring := (ctxOf s c.ctx).requests
      ringFull ring 16 = false →
      ∃ t, exec .heldRecordWrite s = .next t ∧ (coreChan t core ch).queue = { c with stall := some { st with held := false } } :: rest ∧
        (ctxOf t c.ctx).requests = { ring with prod := ring.prod + 1 } ∧ st.vpage ∈ (ctxOf t c.ctx).outstanding ∧
        recordWord t (ringPlace ring 16) 0 = (st.vpage * 65536 + c.ctx * 256 + 2) % 2 ^ 64 ∧
        recordWord t (ringPlace ring 16) 1 % 2 ^ 32 = (ch * 512 + core) % 2 ^ 32) ∧
    (∀ h l1 l2 r, s.cur = .event (.heldRecordWrite (.hub h)) → (hingeOf s h).held = l1 ++ r :: l2 →
      (∀ y ∈ l1, ringFull (ctxOf s y.ctx).requests 16 = true) →
      let ring := (ctxOf s r.ctx).requests
      ringFull ring 16 = false →
      ∃ t, exec .heldRecordWrite s = .next t ∧ (hingeOf t h).held = l1 ++ l2 ∧
        (ctxOf t r.ctx).requests = { ring with prod := ring.prod + 1 } ∧ r.vpage ∈ (ctxOf t r.ctx).outstanding)

/-- COMMAND_COMPLETION of any finished command (R359, R367, R374, R395) whose arrivals do not flip its tumbler: an index command's
status bytes follow its rows, an EMBAG's status is for EMSTAT; the slots that it names count one command less, those with none go back
to the threads; PENDING clears there, and on its team's window slots that no outstanding command names, where none may write the slot
(R341); the other arrivals are counted; CSQ rises by one; after an abort ERR is 1 with CAUSE and an Engine trap stands at the posting band; the next
command leaves the chain. -/
def Sys2Proof.Claims.CommandCompletes : Prop :=
  ∀ (s : State) (core ch : Nat) (c : Command) (rest : List Command) (tm : Team),
    s.cur = .event (.commandCompletion core ch) → (coreChan s core ch).queue = c :: rest → teamOf s c.team = some tm →
    tm.core = core → Windowless tm → cmdFinished c = true → c.slots.Nodup →
    let n := match c.kind with
      | .rows _ _ _ _ _ _ _ elems => elems.length - c.delivered
      | .box .. => 1
      | .move .. | .embag .. => 0
    (∀ k, c.tumb = some k → (tumblerOf tm k).arrived.toNat + n < (tumblerOf tm k).expect.toNat) →
    (c.aborted = true → ∃ b, bandOf s c.band = some b ∧ b.retired = false ∧ (∃ th ∈ b.threads, th.exited = false) ∧ b.traps.length < 4) →
    ∃ t tm', exec .commandCompletion s = .next t ∧ teamOf t c.team = some tm' ∧
      (coreChan t core ch).queue = rest ++ (coreChan s core ch).chain.head?.toList ∧
      (coreChan t core ch).chain = (coreChan s core ch).chain.tail ∧ (∀ a, homeByte t a = homeByte s a) ∧
      (chanOf tm' ch).csq = (chanOf tm ch).csq + 1 ∧ (chanOf tm' ch).posted = (chanOf tm ch).posted ∧
      (c.aborted = false → (chanOf tm' ch).err = (chanOf tm ch).err ∧ (chanOf tm' ch).cause = (chanOf tm ch).cause) ∧
      (c.aborted = true → ∀ cause lane pos fa, c.ended = some (cause, lane, pos, fa) →
        (chanOf tm' ch).err = true ∧ (chanOf tm' ch).cause = BitVec.ofNat 8 cause ∧
        ∀ b, bandOf s c.band = some b → ∃ b', bandOf t c.band = some b' ∧
          b' = { b with energy := b'.energy, traps := b.traps ++
            [{ cause := cause, unit := ch, seq := c.seq.setWidth 32, comm := 0, addr := BitVec.ofNat 64 pos }] }) ∧
      (∀ k, (k ∈ c.slots → (latchOf tm k).count ≤ 1 → latchOf tm' k = { engine := false, count := 0 } ∧
          slotPending tm' k = (slotPending tm k && isAimed t (c.team, k))) ∧
        (k ∈ c.slots → 1 < (latchOf tm k).count →
          latchOf tm' k = { latchOf tm k with count := (latchOf tm k).count - 1 } ∧ slotPending tm' k = slotPending tm k) ∧
        (k ∉ c.slots → latchOf tm' k = latchOf tm k ∧
          slotPending tm' k = (slotPending tm k
            && !(decide ((c.team, k) ∈ c.aimed ∧ (latchOf tm k).count = 0) && !isAimed t (c.team, k))))) ∧
      (∀ k, c.tumb = some k → tumblerOf tm' k = { tumblerOf tm k with arrived := (tumblerOf tm k).arrived + BitVec.ofNat 16 n }) ∧
      (∀ k, c.tumb ≠ some k → tumblerOf tm' k = tumblerOf tm k) ∧
      (∀ scatter c0 c2 c3 e0 off pitch elems, c.kind = .rows scatter c0 c2 c3 e0 off pitch elems →
        leNat (readBytes 0 tm'.stash (off + 32 * pitch) 8) =
          (c.mask.toNat + (match c.ended with | some e => e.1 * 2 ^ 32 + e.2.1 * 2 ^ 40 | none => 0)) % 2 ^ 64 ∧
        (∀ a, a < off + 32 * pitch ∨ off + 32 * pitch + 8 ≤ a → aGet 0 a tm'.stash = aGet 0 a tm.stash) ∧
        (chanOf tm' ch).cwp = (chanOf tm ch).cwp + 8) ∧
      ((∀ scatter c0 c2 c3 e0 off pitch elems, c.kind ≠ .rows scatter c0 c2 c3 e0 off pitch elems) →
        tm'.stash = tm.stash ∧ (chanOf tm' ch).cwp = (chanOf tm ch).cwp) ∧
      (∀ wgt ioff woff boff nb doff pitch ni, c.kind = .embag wgt ioff woff boff nb doff pitch ni →
        let e := c.ended.getD (0, 0, 0, 0)
        (chanOf tm' ch).emstat = BitVec.ofNat 64 (c.delivered * 2 ^ 51 + e.1 * 2 ^ 48 + c.seq.toNat % 2 ^ 16 * 2 ^ 32 + e.2.2.1 % 2 ^ 32) ∧
        (chanOf tm' ch).emaddr = BitVec.ofNat 64 (if 2 ≤ e.1 ∧ e.1 ≤ 5 then e.2.2.2 % 2 ^ 55 else 0))

/-- The steps of the copy engines (R356-R378, R385-R391). -/
def Obligations.EngineSteps : Prop :=
  Sys2Proof.Claims.BoxElementsCopied ∧ Sys2Proof.Claims.RowsCopied ∧ Sys2Proof.Claims.BagsPooled ∧
    Sys2Proof.Claims.EngineProgress ∧ Sys2Proof.Claims.CommandCompletes

/-- Combine on a type of XRED (R381, R177): a float sum rounds with .rne; conditions are discarded. -/
def unite (op : RedOp) (ty : Ty) (a b : Nat) : Nat :=
  match ty with
  | .flt t => match op with
    | .min => (fMinMax (fmtOf t) false false a b).1
    | .max => (fMinMax (fmtOf t) true false a b).1
    | .add | .and | .or | .xor => (rounded t .rne 0 (fAdd .rne (decodeFmt (fmtOf t) a) (decodeFmt (fmtOf t) b))).1
  | .int t =>
    let v := readInt (intSigned t) (intWidth t)
    match op with
    | .add => (a + b) % 2 ^ intWidth t
    | .min => if v a ≤ v b then a else b
    | .max => if v b ≤ v a then a else b
    | .and => a &&& b
    | .or => a ||| b
    | .xor => a ^^^ b
  | .b8 _ => a

/-- Values joined two at a time, in whatever order, until one is left (R318). -/
inductive Combined (f : Nat → Nat → Nat) : List Nat → Nat → Prop where
  | one (v : Nat) : Combined f [v] v
  | pair (vs rest : List Nat) (a b v : Nat) : vs.Perm (a :: b :: rest) → Combined f (f a b :: rest) v → Combined f vs v

/-- COLLECTIVE_COMPLETION (R379, R381, R382), for buffers inside a line, of a collective whose post has been performed: XSND's bytes
reach the peer's hinge, XRCV writes the next bytes of its rank. XRED and XGTH of a package's hinges, which agree, take the members'
contributions in one step: gathered, the parts of all ranks in rank order; reduced, each element of all ranks combined, in an order
that is open. Each member then writes its result, and the collective ends with its arrival. That contributions are taken once all have
posted, and how a peer package's come, is log 53 (DEDUCED). -/
def Obligations.CollectiveSteps : Prop :=
  ∀ (s : State) (h comm ctx : Nat) (peers : List PeerPost) (c : Collective) (rest : List Collective) (tm : Team) (l : Leaf),
    s.cur = .event (.collectiveCompletion h comm peers) → (hingeOf s h).active = some ctx →
    (hingeOf s h).collectives = c :: rest → c.ctx = ctx → c.comm = comm → c.hinge = h → teamOf s c.team = some tm →
    OneShort tm c.tumb →
    let ends := fun (P : State → Prop) => ∃ t tm', exec .collectiveCompletion s = .next t ∧
      (hingeOf t h).collectives = rest ∧ teamOf t c.team = some tm' ∧ ArrivedOnce tm tm' c.tumb ∧ P t
    (c.posted = false → exec .collectiveCompletion s = .next s) ∧
    (c.posted = true →
      (∀ n, c.kind = .snd → c.part = none → rankHinge c.entry c.b = some n → n ≠ h → OneLine s ctx c.a c.count false l →
        ends fun t => (hingeOf t n).inbox = (hingeOf s n).inbox ++
            [{ ctx := ctx, comm := comm, rank := (hingeRank c.entry h).getD 0, bytes := homeRead s (physOf l c.a) c.count }] ∧
          ∀ a, homeByte t a = homeByte s a) ∧
      (∀ n m, c.kind = .snd → c.part = none → rankHinge c.entry c.b = some n → n ≠ h → c.count ≠ 0 → c.a < 2 ^ 55 →
        walkBusy s ctx c.a = false → walk s ctx c.a = .ok m → m.state = 1 →
        (∃ b, bandOf s c.band = some b ∧ b.retired = false ∧ ∃ th ∈ b.threads, th.exited = false) →
        ends fun t => (hingeOf t n).inbox = (hingeOf s n).inbox ++
            [{ ctx := ctx, comm := comm, rank := (hingeRank c.entry h).getD 0, bytes := [] }] ∧ ∀ a, homeByte t a = homeByte s a) ∧
      (∀ n, n < 4 → c.kind = .red ∨ c.kind = .gth → c.ready = false → (hingeRank c.entry n).isSome = true →
        (∀ x ∈ (hingeOf s n).collectives, ¬ (x.ctx = ctx ∧ x.comm = comm)) → exec .collectiveCompletion s = .next s) ∧
      (∀ x more, c.kind = .rcv → (rankHinge c.entry c.a).isSome = true → (hingeOf s h).inbox = x :: more → x.ctx = ctx →
        x.comm = comm → x.rank = c.a → x.bytes.length ≤ c.count → OneLine s ctx c.b x.bytes.length true l →
        ends fun t => (hingeOf t h).inbox = more ∧ homeRead t (physOf l c.b) x.bytes.length = x.bytes ∧
          ∀ a, a < physOf l c.b ∨ physOf l c.b + x.bytes.length ≤ a → homeByte t a = homeByte s a) ∧
      (∀ (m : Nat → Collective) (f : Nat → Leaf) (ty : Ty), c.kind = .red ∨ c.kind = .gth → c.ready = false → peers = [] →
        0 < c.entry.count → (∀ r, r < c.entry.count → (rankHinge c.entry r).isSome = true) →
        (∀ n r, n < 4 → hingeRank c.entry n = some r → rankHinge c.entry r = some n) →
        tyOfCode c.ty = some ty → (∀ q, ty ≠ .b8 q) →
        let es := tyBytes ty
        (∀ n r, n < 4 → hingeRank c.entry n = some r →
          headColl s n ctx comm = some (m n) ∧ (m n).hinge = n ∧ (m n).ctx = ctx ∧ (m n).comm = comm ∧ (m n).posted = true ∧
            (m n).kind = c.kind ∧ (m n).op = c.op ∧ (m n).ty = c.ty ∧ (m n).count = c.count ∧ (m n).entry = c.entry ∧
            (m n).part = none ∧ OneLine s ctx (m n).a (c.count * es) false (f n)) →
        let part := fun n => homeRead s (physOf (f n) (m n).a) (c.count * es)
        let ranked := (List.range c.entry.count).map fun r => part ((rankHinge c.entry r).getD 0)
        ∃ t, exec .collectiveCompletion s = .next t ∧ (∀ a, homeByte t a = homeByte s a) ∧
          ∀ n r, n < 4 → hingeRank c.entry n = some r → ∃ data, headColl t n ctx comm =
              some { m n with part := some (part n), outbox := [], ready := true, data := data, cause := 0, faddr := 0 } ∧
            (c.kind = .gth → data = ranked.flatten) ∧
            (c.kind = .red → data.length = c.count * es ∧ ∀ k, k < c.count → ∃ v,
              Combined (unite c.op ty) (ranked.map fun p => leNat ((p.drop (es * k)).take es)) v ∧
                leNat ((data.drop (es * k)).take es) = v % 2 ^ (8 * es))) ∧
      (c.kind = .red ∨ c.kind = .gth → c.ready = true → c.outbox = [] → c.cause = 0 → OneLine s ctx c.b c.data.length true l →
        ends fun t => homeRead t (physOf l c.b) c.data.length = c.data ∧
          ∀ a, a < physOf l c.b ∨ physOf l c.b + c.data.length ≤ a → homeByte t a = homeByte s a))

/-- LAUNCH (R401, R403, R405): it releases, reads its record, and queues a valid one; with the stream's or the hinge's queue full it
waits with the record it has read, and reads nothing again; a record that is not valid raises Launch Invalid. The fields of a valid
record are those of R401. That the model reads the record in one step is log 60 (DEDUCED). -/
def Obligations.Launching : Prop :=
  (∀ (s : State) (g : Strm) (o : Sys2Proof.Launch), strmOf s = some g → g.live = true → g.rcd.launching = none →
    let a := (rdStream g.rcd o.a.val).toNat
    (2 ^ 55 ≤ a → StreamTraps (.launch o) s g 0x05 (rdStream g.rcd o.a.val) (infoOf g.word 0) g.addr) ∧
    (a < 2 ^ 55 → a % 64 ≠ 0 → StreamTraps (.launch o) s g 0x06 (rdStream g.rcd o.a.val) (infoOf g.word 0) g.addr) ∧
    ∀ f p : Nat → Leaf, LaunchReads s g o f p →
      let rcd := launchRec (launchBytes (released s g) g o f p)
      let spill := match o.spl with | some c => (rdStream g.rcd c.val).toNat | none => 0
      (∀ r, rcd = some r → r.splitSpill = 0 ∨ o.spl ≠ none →
        (LaunchesFull s g r → ∃ t, exec (.launch o) s = .next t ∧
          LaunchReleased s t g { g.rcd with state := 2, launching := some (r, spill) }) ∧
        (¬ LaunchesFull s g r → ∃ t, exec (.launch o) s = .next t ∧ LaunchQueued s t g o.d.val r spill ∧
          PointCleaned s t (.stream g.hinge g.rcd.ctx.toNat) .package)) ∧
      (rcd = none ∨ (∃ r, rcd = some r ∧ r.splitSpill ≠ 0 ∧ o.spl = none) →
        ∃ t, exec (.launch o) s = .next t ∧ LaunchReleased s t g (trappedStream g.rcd 0x14 0 (infoOf g.word 0) g.addr))) ∧
  (∀ (s : State) (g : Strm) (o : Sys2Proof.Launch) (r : LaunchRec) (spill : Nat), strmOf s = some g → g.live = true →
    g.rcd.launching = some (r, spill) →
    (LaunchesFull s g r → StreamWaits (.launch o) s g) ∧
    (¬ LaunchesFull s g r → ∃ t, exec (.launch o) s = .next t ∧ LaunchQueued s t g o.d.val r spill ∧
      t = { s with hinges := t.hinges, contexts := t.contexts, launches := t.launches })) ∧
  (∀ bs r, bs.length = 256 → launchRec bs = some r →
    let f := fun off n => leNat ((bs.drop off).take n)
    r.entry = f 0 8 ∧ r.entry < 2 ^ 55 ∧ r.entry % 64 = 0 ∧ r.stashImg = f 8 8 ∧ r.stashLen = f 16 4 ∧ r.pinQuota = f 20 4 ∧
      r.teams = f 24 4 ∧ 1 ≤ r.teams ∧ r.groups = f 28 2 ∧ r.bands = f 30 1 ∧ r.prio = f 31 1 / 64 ∧
      (r.pkg = true ↔ f 31 1 / 4 % 2 = 1) ∧ r.hinge = f 31 1 % 4 ∧ r.splitSpill = f 32 2 ∧ r.regs = 8 * f 34 1 ∧
      r.sregs = 8 * f 35 1 ∧ r.tiles = f 36 1 ∧ r.tumblers = f 37 1 ∧ r.stashSlots = f 38 2 ∧ r.roles.length = f 46 1 ∧
      r.params = (List.range 16).map fun k => BitVec.ofNat 64 (f (64 + 8 * k) 8))

/-- LWAIT (R406), LSIG, LSIG.hinge, LSIG.host and LEVW (R408): status words and event counters, with the release or
acquire. The MSI-X table behind LSIG.host is laid out as log 8 (PRESUMED) says. -/
def Sys2Proof.Claims.LaunchWaitsAndEvents : Prop :=
  ∀ (s : State) (g : Strm), strmOf s = some g → g.live = true →
    let ag : Agent := .stream g.hinge g.rcd.ctx.toNat
    (∀ o : Lwait, let n := rdStream g.rcd o.b.val
      (n.toNat ∈ g.rcd.outstanding → o.poll = true → StreamScalar (.lwait o) s g o.d.val 0xFFFFFFFFFFFFFFFF) ∧
      (n.toNat ∈ g.rcd.outstanding → o.poll = false → StreamWaits (.lwait o) s g) ∧
      (n.toNat ∉ g.rcd.outstanding → (∀ f ∈ g.rcd.finished, f.1 ≠ n) →
        StreamScalar (.lwait o) s g o.d.val 0x8000000000000000) ∧
      (∀ st, n.toNat ∉ g.rcd.outstanding → g.rcd.finished.find? (fun f => f.1 == n) = some (n, st) →
        ∃ t, exec (.lwait o) s = .next t ∧ t = { s with hinges := t.hinges } ∧ StreamGoes s t g (some o.d.val) st ∧
          PointDropped s t ag .system)) ∧
    (∀ o : Lsig, ∃ t, exec (.lsig o) s = .next t ∧ t = { s with hinges := t.hinges, mem := t.mem } ∧ StreamGoes s t g none 0 ∧
      PointCleaned s t ag .package ∧
      ∀ h e, counterOf t h e = if h = g.hinge ∧ e = o.ev.val then counterOf s h e + rdStream g.rcd o.b.val else counterOf s h e) ∧
    (∀ o : LsigHinge, let to_ := (rdStream g.rcd o.c.val).toNat
      (to_ < 4 → ∃ t, exec (.lsigHinge o) s = .next t ∧ t = { s with hinges := t.hinges, mem := t.mem } ∧
        StreamGoes s t g none 0 ∧ PointCleaned s t ag .package ∧
        ∀ h e, counterOf t h e = if h = to_ ∧ e = o.ev.val then counterOf s h e + rdStream g.rcd o.b.val else counterOf s h e) ∧
      (4 ≤ to_ → StreamTraps (.lsigHinge o) s g 0x11 0 (infoOf g.word 0) g.addr)) ∧
    (∀ o : LsigHost, ∃ t, exec (.lsigHost o) s = .next t ∧ StreamGoes s t g none 0 ∧ PointCleaned s t ag .system ∧
      (msixMasked s o.vec.val = false → t = { s with hinges := t.hinges, mem := t.mem, sent := s.sent ++ [.msi o.vec.val] }) ∧
      (msixMasked s o.vec.val = true → t = { s with hinges := t.hinges, mem := t.mem, pba := t.pba } ∧
        ∀ n, n < 64 → t.pba.getLsbD n = (s.pba.getLsbD n || n == o.vec.val))) ∧
    (∀ o : Levw, let v := counterOf s g.hinge o.ev.val
      ((v - rdStream g.rcd o.b.val).toNat < 2 ^ 63 →
        ∃ t, exec (.levw o) s = .next t ∧ t = { s with hinges := t.hinges } ∧ StreamGoes s t g (some o.d.val) v ∧
          PointDropped s t ag .package) ∧
      (2 ^ 63 ≤ (v - rdStream g.rcd o.b.val).toNat → StreamWaits (.levw o) s g))

/-- CTXSW (R418), with nothing in flight: a stream without SCTL.PRIV takes Privilege; a number above 511 is Operand Invalid; while
another stream's CTXSW holds one of its hinges it waits. Else the hinges whose context leaves stop first, and the stream waits for the
drain, until every engine stands at rest (log 61, DESIGN CHOICE); then each hinge that it acts on runs the context named, or is idle, its quantum loaded and EV61 counted, no team
of the context that it left on its cores; sd takes the code of the executing hinge's context. -/
def Obligations.ContextSwitch : Prop :=
  ∀ (s : State) (g : Strm) (o : Ctxsw), strmOf s = some g → g.live = true →
    let a := (rdStream g.rcd o.a.val).toNat
    let q := rdStream g.rcd o.b.val
    let id := g.hinge * 16 + g.num
    let acts := fun h => h < 4 ∧ (o.all = true ∨ h = g.hinge)
    let next := if a < 256 then some a else none
    let leaves := fun h => acts h ∧ (hingeOf s h).active ≠ none ∧ (hingeOf s h).active ≠ next
    (g.rcd.priv = false → StreamTraps (.ctxsw o) s g 0x02 0 (infoOf g.word 0) g.addr) ∧
    (g.rcd.priv = true → 512 ≤ a → StreamTraps (.ctxsw o) s g 0x11 0 (infoOf g.word 0) g.addr) ∧
    (g.rcd.priv = true → a < 512 → g.hinge < 4 →
      ((∃ h, acts h ∧ switchUnderWay s h = true ∧ (hingeOf s h).switching ≠ some id) → StreamWaits (.ctxsw o) s g) ∧
      ((∀ h, acts h → switchUnderWay s h = true → (hingeOf s h).switching = some id) → s.pending = [] → s.matrix = [] →
        ((∃ h, leaves h ∧ ((hingeOf s h).switching ≠ some id ∨ enginesRest s h = false)) →
          ∃ t, exec (.ctxsw o) s = .next t ∧ streamOf t g.hinge g.num = { g.rcd with state := 2 } ∧ t.bands = s.bands ∧
            (∀ k, (teamOf t k).isSome = (teamOf s k).isSome) ∧
            ∀ h, (hingeOf t h).active = (hingeOf s h).active ∧ (leaves h → (hingeOf t h).switching = some id) ∧
              (¬ leaves h → (hingeOf t h).switching = (hingeOf s h).switching)) ∧
        ((∀ h, leaves h → (hingeOf s h).switching = some id ∧ enginesRest s h = true) → (∀ c, ∀ x ∈ (ctxOf s c).saved, x.team.ctx = c) →
          ∃ t, exec (.ctxsw o) s = .next t ∧ (streamOf t g.hinge g.num).pc = g.next ∧ (streamOf t g.hinge g.num).state = 1 ∧
            rdStream (streamOf t g.hinge g.num) o.d.val =
              (match (hingeOf s g.hinge).active with | some c => BitVec.ofNat 64 c | none => 256) ∧
            ∀ h, h < 4 →
              (acts h → (hingeOf t h).active = next ∧ counterOf t h 61 = counterOf s h 61 + 1 ∧
                ((hingeOf t h).quantum = if q = 0 then none else some (s.now + q.toNat)) ∧
                (leaves h → (hingeOf t h).switching = none) ∧
                ∀ c, (hingeOf s h).active = some c → next ≠ some c → ∀ k tm, teamOf t k = some tm → tm.core / 120 = h → tm.ctx ≠ c) ∧
              (¬ acts h → (hingeOf t h).active = (hingeOf s h).active ∧ counterOf t h 61 = counterOf s h 61 ∧
                (hingeOf t h).quantum = (hingeOf s h).quantum))))

/-- EXIT on a stream (R399): after CleanBelow to the system's point the completion word is written at home, the count
and HEAD advance, and the stream is IDLE; a completion word on a NONRESIDENT page raises Page with nothing written.
HALT on a stream stops it with cause 0xFF (R430). The completion's MSI-X message is log 8 (PRESUMED). -/
def Sys2Proof.Claims.StreamEnds : Prop :=
  ∀ (s : State) (g : Strm), strmOf s = some g → g.live = true →
    let u := cleanAll s (.stream g.hinge g.rcd.ctx.toNat) .system
    let n := g.rcd.completed + 1
    let va := g.rcd.doneaddr.toNat
    (∀ l, Present u (60 + g.hinge) g.rcd.ctx.toNat va true l →
      ∃ t, exec .exitC s = .next t ∧ PointCleaned s u (.stream g.hinge g.rcd.ctx.toNat) .system ∧
        streamOf t g.hinge g.num = { g.rcd with completed := n, head := g.rcd.head + 1, state := 0 } ∧
        (∀ h k, h ≠ g.hinge ∨ k ≠ g.num → streamOf t h k = streamOf s h k) ∧
        leNat (homeRead t (physOf l va) 8) = n.toNat ∧
        (∀ b, b < physOf l va ∨ physOf l va + 8 ≤ b → homeByte t b = homeByte u b) ∧ t.bands = s.bands ∧ t.teams = s.teams) ∧
    (∀ l, Walkable u (60 + g.hinge) g.rcd.ctx.toNat va → walk u g.rcd.ctx.toNat va = .ok l → l.state = 1 → l.w = true →
      StreamTraps .exitC s g 0x07 (BitVec.ofNat 64 va) (infoOf g.word 0x105) g.addr) ∧
    StreamBecomes .haltC s g { g.rcd with state := 3, cause := 0xFF }

/-- TRAP (R430) takes its trap with TPC after it; TRET goes back to TPC at TLEVEL 0, and at TLEVEL 0 raises Illegal Instruction: on
a core and on a stream. When a thread that returns came from Divergence Deadlock, or from a reload's fault, the group's return
settles the stack (R203, R500). -/
def Obligations.TrapAndReturn : Prop :=
  (∀ (s : State) (g : Grp) (tm : Team), CanTrap s g tm → g.live ≠ [] →
    (∀ o : Sys2Proof.Trap, AllTrap (.trap o) s g tm (0x40 + o.code.val) 0 (infoOf g.word o.code.val) g.next) ∧
    (∀ o : C1, AllTrap (.trapC o) s g tm (0x40 + o.d.val) 0 (infoOf g.word o.d.val) g.next) ∧
    AllFault .tretC s g tm 0x01 0 0) ∧
  (∀ (s : State) (g : Grp), grpOf s = some g →
    (∀ l ∈ g.live, (threadOf g.band l).tlevel = true) →
    let back := fun t t' : Thread => t' = { t with pc := t.tpc, tlevel := false, wait := .ready }
    let settles := fun l => (threadOf g.band l).tcause = 0x0C#9 ∨ ∃ m, g.band.reload = some m ∧ m.getLsbD l = true
    ((∀ l ∈ g.live, ¬ settles l) → EachThread .tretC s g fun _ => back) ∧
    ((∃ l ∈ g.live, settles l) → s.early = [] →
      ∃ u b', exec .tretC s = .next (settle u g.key g.live g.word) ∧ OnlyBand s u g.key ∧ bandOf u g.key = some b' ∧ b' = { g.band with threads := b'.threads } ∧ Bystanders g b' ∧
      ∀ l, l < g.band.threads.length → l ∈ g.live → back (threadOf g.band l) (threadOf b' l))) ∧
  (∀ (s : State) (g : Strm), strmOf s = some g → g.live = true →
    (∀ o : Sys2Proof.Trap, StreamTraps (.trap o) s g (0x40 + o.code.val) 0 (infoOf g.word o.code.val) g.next) ∧
    (∀ o : C1, StreamTraps (.trapC o) s g (0x40 + o.d.val) 0 (infoOf g.word o.d.val) g.next) ∧
    (g.rcd.tlevel = true → StreamBecomes .tretC s g { g.rcd with pc := g.rcd.tpc, tlevel := false, state := 1 }) ∧
    (g.rcd.tlevel = false → StreamTraps .tretC s g 0x01 0 (infoOf g.word 0) g.addr))

/-- MFS (R432-R435): the register's value to sd once for the group, or to vd of each thread with a true guard. The
offset of CYCLE is log 32 (DESIGN CHOICE). -/
def Sys2Proof.Claims.SpecialReads : Prop :=
  (∀ (s : State) (g : Grp) (tm : Team) (r : Sreg), OfTeam s g tm → g.live ≠ [] →
    (∀ d, threadScope r = false →
      ReadsSpecial ⟨r, .sca d⟩ s g tm fun b' => GoneWith g b' d.val (special s g tm (g.live.headD 0) r)) ∧
    (∀ d, d.val < g.band.n →
      ReadsSpecial ⟨r, .vec d⟩ s g tm fun b' => b' = { g.band with threads := b'.threads } ∧ Bystanders g b' ∧
        ∀ l, l < g.band.threads.length → l ∈ g.live →
          PutsV g.next d.val (specialBits r) (special s g tm l r) (threadOf g.band l) (threadOf b' l))) ∧
  (∀ (s : State) (g : Strm), strmOf s = some g → g.live = true →
    ∀ d : Fin 64, ∀ p ∈ [(Sreg.cycle, clockOf s (480 + g.hinge)), (.caps, capsValue s),
      (.ctxnum, g.rcd.ctx.setWidth 64), (.tvec, g.rcd.tvec), (.tcause, g.rcd.tcause.setWidth 64), (.tpc, g.rcd.tpc),
      (.taddr, g.rcd.taddr), (.tinfo, g.rcd.tinfo), (.tlevel, if g.rcd.tlevel then 1 else 0)],
      StreamScalar (.mfs ⟨p.1, .sca d⟩) s g d.val p.2)

/-- MTS (R432-R435): a register of thread scope in each thread with a true guard, another one once; RM takes no reserved value;
reserved bits are not kept. -/
def Sys2Proof.Claims.SpecialWrites : Prop :=
  (∀ (s : State) (g : Grp), grpOf s = some g → ∀ r ∈ [Sreg.fstat, .tcause, .tpc, .taddr, .tinfo],
    (∀ a, EachThread (.mts ⟨r, .sca a⟩) s g fun _ t t' => t' = moved (specialSet r (rdS g.band a.val) t) g.next) ∧
    (∀ a, a.val < g.band.n → EachThread (.mts ⟨r, .vec a⟩) s g fun _ t t' =>
      t' = moved (specialSet r (if specialBits r = 64 then rdV64 t a.val else (rdV t a.val).setWidth 64) t) g.next)) ∧
  (∀ (s : State) (g : Grp) (tm : Team), OfTeam s g tm → g.live ≠ [] → ∀ a : Fin 64,
    let v := rdS g.band a.val
    let goes := fun (b b' : Band) => b' = { b with threads := b'.threads } ∧ Bystanders g b' ∧
      ∀ l, l < g.band.threads.length → l ∈ g.live → threadOf b' l = moved (threadOf g.band l) g.next
    (∃ t b', exec (.mts ⟨.fctl, .sca a⟩) s = .next t ∧ OnlyBand s t g.key ∧ bandOf t g.key = some b' ∧
      goes { g.band with rm := if v.toNat % 8 < 5 then v.setWidth 3 else g.band.rm } b') ∧
    (∃ t b', exec (.mts ⟨.srstate, .sca a⟩) s = .next t ∧ OnlyBand s t g.key ∧ bandOf t g.key = some b' ∧
      goes { g.band with srstate := v } b') ∧
    (∀ p ∈ [(Sreg.tvec, { ctxOf s tm.ctx with tvec := v &&& 0x007FFFFFFFFFFFFD }),
        (.dbgctl, { ctxOf s tm.ctx with dbgctl := v.setWidth 8 &&& 0xFD })],
      ∃ t b', exec (.mts ⟨p.1, .sca a⟩) s = .next t ∧ t = { s with bands := t.bands, contexts := t.contexts } ∧
        (∀ j, j ≠ g.key → bandOf t j = bandOf s j) ∧ bandOf t g.key = some b' ∧ goes g.band b' ∧
        ctxOf t tm.ctx = p.2 ∧ ∀ c, c ≠ tm.ctx → ctxOf t c = ctxOf s c)) ∧
  (∀ (s : State) (g : Strm), strmOf s = some g → g.live = true → ∀ r ∈ [Sreg.tvec, .tcause, .tpc, .taddr, .tinfo], ∀ a : Fin 64,
    StreamBecomes (.mts ⟨r, .sca a⟩) s g { specialSetStream r (rdStream g.rcd a.val) g.rcd with pc := g.next, state := 1 })

/-- Register Range (R59 step 8, R303, R305, R419): an instruction that names a number beyond its allocation faults in every thread of
P, and TINFO names one such number. Which one of several, and of a pair its first register, is log 21 (DESIGN CHOICE). -/
def Sys2Proof.Claims.RegisterRanges : Prop :=
  ∀ (s : State) (g : Grp) (tm : Team) (i : Instr), CanTrap s g tm → g.live ≠ [] → (∃ x ∈ ranged i, bound g tm x.1 ≤ x.2) →
    ∃ x ∈ ranged i, bound g tm x.1 ≤ x.2 ∧ AllFault i s g tm 0x04 0 (x.1 * 0x10000 + x.2)

/-- Jumps on a core (R198, R200, R205, R210): a thread whose own target is not reachable faults and keeps its registers, the others
jump; BRD and SWCH fault as a group for a target or join address outside the space, or with the stack at its limit. -/
def Sys2Proof.Claims.JumpFaults : Prop :=
  (∀ (s : State) (g : Grp) (tm : Team), CanTrap s g tm →
    let jumps := fun (i : Instr) (regs : List Nat) (target : Thread → DWord) (link : Option (Nat × DWord)) =>
      (∀ r ∈ regs, r < g.band.n) →
      ∃ t b', exec i s = .next t ∧ t = { s with bands := t.bands, faulted := t.faulted } ∧
        (∀ j, j ≠ g.key → bandOf t j = bandOf s j) ∧ bandOf t g.key = some b' ∧ b' = { g.band with threads := b'.threads } ∧
        Bystanders g b' ∧ ∀ l, l < g.band.threads.length → l ∈ g.live →
          let x := threadOf g.band l
          (Reachable (target x) → Jumped (target x) link x (threadOf b' l)) ∧
          (¬ Reachable (target x) →
            InHandler (ctxOf s tm.ctx).tvec (haltStays s g.band tm.ctx) 0x05 (target x) (infoOf g.word 0) g.addr x (threadOf b' l))
    (∀ o, jumps (.bra o) [] (fun _ => targetOf g.addr o.off) none) ∧
    (∀ o, jumps (.brx o) (namedBase o.base) (fun t => laneBase g.band t o.base + o.off.signExtend 64) none) ∧
    (∀ o, jumps (.call o) [o.d.val] (fun _ => targetOf g.addr o.off) (linkAfter o.d.val g)) ∧
    (∀ o, jumps (.callx o) (o.d.val :: namedBase o.base) (fun t => laneBase g.band t o.base + o.off.signExtend 64)
      (linkAfter o.d.val g)) ∧
    (∀ o, jumps (.retC o) [o.a.val] (fun t => rdV64 t o.a.val) none)) ∧
  (∀ (s : State) (g : Grp) (tm : Team), CanTrap s g tm → g.live ≠ [] →
    let depth := g.band.split.length + g.band.spilled.length
    let far := fun a : DWord => 2 ^ 55 ≤ a.toNat
    (∀ o : Brd, let join := g.addr + (o.joff.signExtend 64) * 4
      (far (targetOf g.addr o.off) → AllFault (.brd o) s g tm 0x05 (targetOf g.addr o.off) 0) ∧
      (¬ far (targetOf g.addr o.off) → far join → AllFault (.brd o) s g tm 0x05 join 0) ∧
      (¬ far (targetOf g.addr o.off) → ¬ far join → 16 + tm.spillBytes / 16 ≤ depth → AllFault (.brd o) s g tm 0x0A 0 depth)) ∧
    (∀ o : Swch, o.a.val < g.band.n →
      let target := fun i => targetOf g.addr (o.offs.toList.getD i 0)
      (∀ i, Lowest o.n.val (fun i => far (target i)) i → AllFault (.swch o) s g tm 0x05 (target i) 0) ∧
      ((∀ i, i < o.n.val → ¬ far (target i)) →
        (far (targetOf g.addr o.join) → AllFault (.swch o) s g tm 0x05 (targetOf g.addr o.join) 0) ∧
        (¬ far (targetOf g.addr o.join) → 16 + tm.spillBytes / 16 ≤ depth → AllFault (.swch o) s g tm 0x0A 0 depth))) ∧
    (∀ o : Sys2Proof.Loop, 4 ≤ g.band.loops.length → AllFault (.loop o) s g tm 0x0D 0 0) ∧
    (∀ o : Brk, (targetOf g.addr o.off).toNat < 2 ^ 55 → depth < o.n.val → AllFault (.brk o) s g tm 0x0B 0 o.n.val))

/-- Accesses to memory and to the stash (R253, R419): of LD, ST, LDN and the atomics each thread faults alone, at the first check that
its access fails, while the others issue theirs; SLD, SST, TDSET, TDGET, KACQ and KREL fault in every thread of P; SLD and SST of a
stream fault in the stream. An atomic or a key word on a SYS page has checks of its own (R291), left out here. -/
def Sys2Proof.Claims.MemoryFaults : Prop :=
  (∀ (s : State) (g : Grp) (tm : Team) (bad : Nat → Bool) (loc : Nat → Loc) (cause addr low : Nat → Nat), CanTrap s g tm →
    let does := fun (i : Instr) (regs : List Nat) (n : Nat) (write : Bool) (code : Nat) (m : MemOp) (system : Bool)
        (kind : Nat → PendKind) (P : Thread → Thread → Prop) =>
      (∀ r ∈ regs ++ namedMem m, r < g.band.n) →
      (∀ l ∈ g.live, let x := laneAddress g.band (threadOf g.band l) m
        (bad l = false → Locates s g tm n write m.stash x (loc l) ∧
          (system = true → ∀ a va, loc l = .phys a va → a < 2 ^ 48)) ∧
        (bad l = true → Refused s g tm n write code m.stash x (cause l) (addr l) (low l) ∧
          (system = true → m.stash = false → ∀ f, walk s tm.ctx x = .ok f → physOf f x < 2 ^ 48))) →
      ∃ t b', exec i s = .next t ∧
        t = { s with
          bands := t.bands, clusters := t.clusters, hinges := t.hinges, tick := t.tick, walked := t.walked, faulted := t.faulted
          pending := s.pending ++ (g.live.filter fun l => !bad l).map fun l => opOf s g tm [l] (kind l) } ∧
        TlbsOnly s t ∧ (∀ j, j ≠ g.key → bandOf t j = bandOf s j) ∧ bandOf t g.key = some b' ∧
        b' = { g.band with threads := b'.threads } ∧ Bystanders g b' ∧
        ∀ l, l < g.band.threads.length → l ∈ g.live →
          (bad l = false → P (threadOf g.band l) (threadOf b' l)) ∧
          (bad l = true → InHandler (ctxOf s tm.ctx).tvec (haltStays s g.band tm.ctx) (cause l) (BitVec.ofNat 64 (addr l))
            (infoOf g.word (low l)) g.addr (threadOf g.band l) (threadOf b' l))
    let goes := fun (t t' : Thread) => t' = moved t g.next
    let atomic := fun (i : Instr) (fn : AtomFn) (n d c : Nat) (m : MemOp) (ord : Order) (sc : Scope) (ch : Hint) =>
      does i [d, c] n true 3 m (sc == .system) (fun l =>
        .atomic fn (loc l) n (wordsAt (threadOf g.band l) (n / 4) c) (wordsAt (threadOf g.band l) (n / 4) d) (.vec d) ord sc ch) goes
    (∀ o : Ld, does (.ld o) [o.d.val] (bytesOf o.w) false 0 o.mem false (fun l => .load (loc l) o.w (.vec o.d.val) o.acq o.ch) goes) ∧
    (∀ o : St, does (.st o) [o.c.val] (bytesOf o.w) true 1 o.mem false
      (fun l => .store (loc l) (bytesOf o.w)
        ((if o.w = .n64 then (rdV64 (threadOf g.band l) o.c.val).toNat else (rdV (threadOf g.band l) o.c.val).toNat)
          % 2 ^ (8 * bytesOf o.w)) o.rel o.ch) goes) ∧
    (∀ o : Ldn, o.mem.stash = false → does (.ldn o) [o.d.val] (bytesOf o.w) false 4 o.mem false
      (fun l => .load (loc l) o.w (.vec o.d.val) none o.ch) (PutsP g.next o.pc.val true)) ∧
    (∀ o, atomic (.atom o) (.int o.op) (if o.wide then 8 else 4) o.d.val o.c.val o.mem o.ord o.sc o.ch) ∧
    (∀ o, atomic (.atomf o) (.flt o.op o.ty) (if o.ty = .f64 then 8 else 4) o.d.val o.c.val o.mem o.ord o.sc o.ch) ∧
    (∀ o, atomic (.cas o) .cas (if o.wide then 8 else 4) o.d.val o.c.val o.mem o.ord o.sc o.ch) ∧
    (∀ o, atomic (.cas2 o) .cas 16 o.d.val o.c.val o.mem o.ord o.sc o.ch)) ∧
  (∀ (s : State) (g : Grp) (tm : Team) (cause addr low : Nat), CanTrap s g tm → g.live ≠ [] →
    let stops := fun (i : Instr) (n : Nat) (write : Bool) (code : Nat) (stash : Bool) (x : Nat) =>
      Refused s g tm n write code stash x cause addr low → AllFault i s g tm cause (BitVec.ofNat 64 addr) low
    (∀ o : Sld, stops (.sld o) (bytesOf o.w) false 0 o.stash (baseOffset (rdS g.band o.a.val) o.off)) ∧
    (∀ o : Sst, stops (.sst o) (bytesOf o.w) true 1 o.stash (baseOffset (rdS g.band o.a.val) o.off)) ∧
    (∀ o : Td, stops (.tdset o) 64 false 0 false (rdS g.band o.a.val).toNat ∧
      stops (.tdget o) 64 true 1 false (rdS g.band o.a.val).toNat) ∧
    (∀ k : Key, (∀ f, walk s tm.ctx k.word = .ok f → physOf f k.word < 2 ^ 48) → (∀ l ∈ g.live, ∀ x y z, (threadOf g.band l).wait ≠ .key x y z) →
      (∀ o : Kacq, aFind o.k.val (ctxOf s tm.ctx).keys = some k → stops (.kacq o) 8 false 7 false k.word) ∧
      ∀ o : Krel, aFind o.k.val (ctxOf s tm.ctx).keys = some k → stops (.krel o) 8 true 7 false k.word)) ∧
  (∀ (s : State) (g : Strm), strmOf s = some g → g.live = true →
    let stops := fun (i : Instr) (n : Nat) (write : Bool) (va : Nat) =>
      (2 ^ 55 ≤ va → StreamTraps i s g 0x05 (BitVec.ofNat 64 va) (infoOf g.word 0) g.addr) ∧
      (va < 2 ^ 55 → va % n ≠ 0 → StreamTraps i s g 0x06 (BitVec.ofNat 64 va) (infoOf g.word 0) g.addr) ∧
      (∀ cause low, va < 2 ^ 55 → va % n = 0 → Walkable s (60 + g.hinge) g.rcd.ctx.toNat va →
        PageRefuses s g.rcd.ctx.toNat va write (if write then 1 else 0) cause low →
        StreamTraps i s g cause (BitVec.ofNat 64 va) (infoOf g.word low) g.addr)
    (∀ o : Sld, stops (.sld o) (bytesOf o.w) false (baseOffset (rdStream g.rcd o.a.val) o.off)) ∧
    (∀ o : Sst, stops (.sst o) (bytesOf o.w) true (baseOffset (rdStream g.rcd o.a.val) o.off)))

/-- Pages, windows, keys, latches and tumblers (R259, R260, R263, R281, R283, R287, R303): the faults of operands that a group's
threads take together, each at the first check that fails. -/
def Sys2Proof.Claims.ResourceFaults : Prop :=
  ∀ (s : State) (g : Grp) (tm : Team), CanTrap s g tm → g.live ≠ [] →
    let x := ctxOf s tm.ctx
    let faults := fun (i : Instr) (cause addr low : Nat) => AllFault i s g tm cause (BitVec.ofNat 64 addr) low
    (∀ o : Pin, let va := baseOffset (rdS g.band o.a.val) o.off
      (2 ^ 55 ≤ va → faults (.pin o) 0x05 va 0) ∧
      ∀ cause low, va < 2 ^ 55 → Walkable s (g.core / 8) tm.ctx va → PageRefuses s tm.ctx va false 0 cause low →
        faults (.pin o) cause va low) ∧
    (∀ o : PageOp, let va := baseOffset (rdS g.band o.a.val) o.off
      (2 ^ 55 ≤ va → faults (.unpin o) 0x05 va 0 ∧ faults (.discard o) 0x05 va 0) ∧
      (va < 2 ^ 55 → walkBusy s tm.ctx va = false →
        (∀ k, walk s tm.ctx va = .error k → faults (.discard o) 0x07 va (256 + k)) ∧
        ∀ l, walk s tm.ctx va = .ok l →
          let lost := l.state = 3 ∨ (l.state ≠ 1 ∧ l.sys = false ∧ pageLost s l.ppn = true)
          (l.w = false → faults (.discard o) 0x07 va 0x103) ∧
          (l.w = true → lost → faults (.discard o) 0x08 va 0x100) ∧
          (l.w = true → ¬ lost → overlapsWindow s (physOf l (va / 65536 * 65536)) 65536 = true → faults (.discard o) 0x0E 0 0))) ∧
    (∀ o : Mapw, let v := rdS g.band o.c.val
      let owned := fun first i => (latchOf tm (first + i)).engine = true
      (o.win = none →
        ((¬ ∃ first count, Mappable tm o.m.val v first count) → faults (.mapw o) 0x0E 0 o.m.val) ∧
        ∀ first count i, Mappable tm o.m.val v first count → Lowest count (owned first) i →
          faults (.mapw o) 0x09 (1024 * (first + i)) 0) ∧
      ∀ a off, o.win = some (a, off) →
        let va := baseOffset (rdS g.band a.val) off
        let fits := fun first count => Mappable tm o.m.val v first count ∧ va % 128 = 0 ∧ va % 65536 + 1024 * count ≤ 65536 ∧
          ∀ l, walk s tm.ctx va = .ok l → overlapsWindow s (physOf l va) (1024 * count) = false
        (2 ^ 55 ≤ va → faults (.mapw o) 0x05 va 0) ∧
        (va < 2 ^ 55 → Walkable s (g.core / 8) tm.ctx va →
          ((¬ ∃ first count, fits first count) → faults (.mapw o) 0x0E 0 o.m.val) ∧
          (∀ first count cause low, fits first count → PageRefuses s tm.ctx va true 1 cause low → faults (.mapw o) cause va low) ∧
          ∀ first count i l, fits first count → Present s (g.core / 8) tm.ctx va true l → Lowest count (owned first) i →
            faults (.mapw o) 0x09 (1024 * (first + i)) 0)) ∧
    (∀ o : Kbind,
      let a := (rdS g.band o.a.val).toNat
      let c := (rdS g.band o.c.val).toNat
      let inside := a < 2 ^ 55 ∧ a + 4096 * o.granules.toNat ≤ 2 ^ 55
      (¬ inside → faults (.kbind o) 0x05 a 0) ∧
      (inside → a % 4096 ≠ 0 → faults (.kbind o) 0x0F 0 o.k.val) ∧
      (inside → a % 4096 = 0 → 2 ^ 55 ≤ c → faults (.kbind o) 0x05 c 0) ∧
      (inside → a % 4096 = 0 → c < 2 ^ 55 → c % 8 ≠ 0 → faults (.kbind o) 0x06 c 0) ∧
      (inside → a % 4096 = 0 → c < 2 ^ 55 → c % 8 = 0 → aFind o.k.val x.keys ≠ none → faults (.kbind o) 0x0F 0 o.k.val)) ∧
    ((∀ l ∈ g.live, ∀ p q r, (threadOf g.band l).wait ≠ .key p q r) →
      ∀ o : Kacq, aFind o.k.val x.keys = none → faults (.kacq o) 0x0F 0 o.k.val) ∧
    (∀ o : Krel, aFind o.k.val x.keys = none → faults (.krel o) 0x0F 0 o.k.val) ∧
    (∀ o : Latg, let first := (rdS g.band o.a.val).toNat % 512
      tm.slotCount < first + o.count.toNat → faults (.latg o) 0x05 (1024 * first) 0) ∧
    (∀ o : Latw, let first := (rdS g.band o.a.val).toNat % 512
      tm.slotCount < first + o.count.toNat → faults (.latw o) 0x05 (1024 * first) 0) ∧
    (∀ o : Tinit, o.t.val < tm.tumblerCount →
      let v := match o.v with | .reg r => (rdS g.band r.val).toNat | .imm v => v.toNat
      v = 0 ∨ 65536 ≤ v → faults (.tinit o) 0x10 0 o.t.val) ∧
    (∀ o : Tarv, o.t.val < tm.tumblerCount → (tumblerOf tm o.t.val).expect = 0 →
      ((∃ p ∈ s.pending, p.issuer = g.key ∧ ∃ l ∈ p.lanes, l ∈ g.live) → ∃ code, GroupHolds (.tarv o) s g (.polled code)) ∧
      ((∀ p ∈ s.pending, p.issuer = g.key → ∀ l ∈ p.lanes, l ∉ g.live) → faults (.tarv o) 0x10 0 o.t.val))

/-- Posts, remaps, descriptors and tiles (R322, R326, R369, R371, R374, R376, R378, R382, R388, R392): Descriptor Invalid, Operand
Invalid, Alignment, Address, Latch and Tumbler, where the checks before pass. -/
def Sys2Proof.Claims.PostFaults : Prop :=
  ∀ (s : State) (g : Grp) (tm : Team), CanTrap s g tm → g.live ≠ [] →
    let x := ctxOf s tm.ctx
    let place := fun id => x.descBase.toNat + 64 * id
    let faults := fun (i : Instr) (cause addr low : Nat) => AllFault i s g tm cause (BitVec.ofNat 64 addr) low
    let has := fun t : Option (Fin 24) => ∀ k, t = some k → k.val < tm.tumblerCount
    let invalid := fun id => stackBusy s (place id) = false ∧ (id ∉ x.descs ∨ (descBytes s tm.ctx id).testBit 80 = false)
    let missing := fun comm => commAt s tm.ctx comm = none ∧ stackBusy s (x.commBase.toNat + 512 * comm) = false ∧
      stackBusy s (x.commBase.toNat + 512 * comm + 511) = false
    let tiles := fun (i : Instr) (t : Fin 16) (a pack : Fin 64) => t.val < tm.tileCount →
      let base := (rdS g.band a.val).toNat
      let p := (rdS g.band pack.val).toNat
      (2 ^ 36 ≤ p → faults i 0x11 0 0) ∧
      (p < 2 ^ 36 → base % 4 ≠ 0 ∨ p % 2 ^ 16 % 4 ≠ 0 ∨ p / 2 ^ 16 % 2 ^ 16 % 4 ≠ 0 → faults i 0x06 base 0)
    (∀ o : Cpost, has o.tumb →
      let v := (rdS g.band o.c.val).toNat
      let e := fun i => v / 2 ^ (16 * i) % 2 ^ 16
      let w := (rdS g.band o.e.val).toNat
      let off := w % 2 ^ 19
      let pitch := w / 2 ^ 32 % 2 ^ 16
      (invalid o.desc.val → faults (.cpost o) 0x12 0 o.desc.val) ∧
      ∀ d, HasDesc s tm.ctx o.desc.val d →
        let good := (∀ i, i < 4 → e i ≠ 0 ∧ (d.rank ≤ i → e i = 1)) ∧ w = off + pitch * 2 ^ 32 ∧ (pitch = 0 ∨ e 0 * d.es ≤ pitch)
        let range := (off, (e 1 * e 2 * e 3 - 1) * pitchOf pitch (e 0 * d.es) + e 0 * d.es)
        (¬ good → faults (.cpost o) 0x11 0 0) ∧
        (good → off % d.es ≠ 0 → faults (.cpost o) 0x06 off 0) ∧
        (good → off % d.es = 0 → pitch % d.es ≠ 0 → faults (.cpost o) 0x06 (off + pitch) 0) ∧
        (good → off % d.es = 0 → pitch % d.es = 0 → 1024 * tm.slotCount < range.1 + range.2 →
          faults (.cpost o) 0x05 (max (1024 * tm.slotCount) off) 0) ∧
        (good → off % d.es = 0 → pitch % d.es = 0 → EngineOwned s g tm range → ∀ t, o.tumb = some t →
          (tumblerOf tm t.val).expect = 0 → faults (.cpost o) 0x10 0 t.val) ∧
        (good → off % d.es = 0 → pitch % d.es = 0 → range.1 + range.2 ≤ 1024 * tm.slotCount →
          ∀ n, Lowest tm.slotCount (fun n => Touches [range] n ∧ ¬ EngineOwned s g tm (1024 * n, 1)) n →
            faults (.cpost o) 0x09 (1024 * n) 0)) ∧
    (∀ o : Gpost, o.b.val < g.band.n → o.t.val < tm.tumblerCount → ∀ i, i = Instr.gpost o ∨ i = .spost o →
      (invalid o.desc.val → faults i 0x12 0 o.desc.val) ∧
      ∀ d, HasDesc s tm.ctx o.desc.val d →
        (d.rank = 1 → faults i 0x12 0 o.desc.val) ∧
        (d.rank ≠ 1 → (rdS g.band o.c.val).toNat = 0 ∨ 65535 < (rdS g.band o.c.val).toNat → faults i 0x11 0 0)) ∧
    (∀ o : Embag, has o.t →
      (invalid o.desc.val → faults (.embag o) 0x12 0 o.desc.val) ∧
      ∀ d, HasDesc s tm.ctx o.desc.val d → embagDesc d = false → faults (.embag o) 0x12 0 o.desc.val) ∧
    (∀ o : Mpost, let va := (rdS g.band o.a.val).toNat
      let n := (rdS g.band o.c.val).toNat
      let inside := va < 2 ^ 55 ∧ va / 65536 * 65536 + n * 65536 ≤ 2 ^ 55
      (¬ inside → faults (.mpost o) 0x05 va 0) ∧ (inside → n = 0 ∨ 65535 < n → faults (.mpost o) 0x11 0 0)) ∧
    (∀ (o : Vremap) (a : Fin 64), o.mode = .mod a ∨ (∃ b, o.mode = .hash a b) ∨ (∃ b, o.mode = .tab a b) →
      let m := (rdS g.band a.val).toNat
      (m = 0 ∨ 2 ^ 32 ≤ m → faults (.vremap o) 0x11 0 0) ∧
      ∀ b, o.mode = .tab a b → 0 < m → m < 2 ^ 32 →
        let t := (rdS g.band b.val).toNat
        (2 ^ 19 ≤ t ∨ t % 4 ≠ 0 → faults (.vremap o) 0x11 0 0) ∧
        (t < 2 ^ 19 → t % 4 = 0 → 1024 * tm.slotCount < t + 4 * m → faults (.vremap o) 0x05 (max (1024 * tm.slotCount) t) 0)) ∧
    (∀ o : Xred, has o.t → missing o.comm.val → faults (.xred o) 0x11 0 0) ∧
    (∀ o : Xgth, has o.t → missing o.comm.val → faults (.xgth o) 0x11 0 0) ∧
    (∀ o : Xsr, has o.t → missing o.comm.val → faults (.xsnd o) 0x11 0 0 ∧ faults (.xrcv o) 0x11 0 0) ∧
    (∀ (o : Td) (l : Leaf), let va := (rdS g.band o.a.val).toNat
      let id := namedDesc g.band o.id
      let ag : Agent := .thread g.core g.band.team tm.ctx
      va % 64 = 0 → Present s (g.core / 8) tm.ctx va false l →
      (∀ line y, l1Find s g.core tm.ctx va = some (line, y) → line = physOf l va / 128) → Plain s ag (physOf l va) va →
      stackBusy s (place id) = false →
      (imageInvalid (seenValue s ag (physOf l va) 64) = true → faults (.tdset o) 0x12 0 id) ∧
      (imageInvalid (seenValue s ag (physOf l va) 64) = false → (descOf (seenValue s ag (physOf l va) 64)).ty = 11 →
        s.profileN = true → faults (.tdset o) 0x03 0 0)) ∧
    (∀ o : Tld, tiles (.tld o) o.d o.a o.pack) ∧ ∀ o : Tst, tiles (.tst o) o.c o.a o.pack

/-- Faults of a group whose threads can enter their handler (R419-R421): the thread's registers are as they were before the
instruction, TCAUSE, TADDR, TINFO and TPC hold the fault, and it goes on in its handler. -/
def Obligations.FaultsEnterHandlers : Prop :=
  Sys2Proof.Claims.RegisterRanges ∧ Sys2Proof.Claims.JumpFaults ∧ Sys2Proof.Claims.MemoryFaults ∧
    Sys2Proof.Claims.ResourceFaults ∧ Sys2Proof.Claims.PostFaults

/-- A trap without a handler, or at TLEVEL 1, stops the band (R421, R423): every thread that has not exited halts, those that faulted at
their instruction, which issues again, and one record
of R424 goes to the context's error ring, with the launch marked ERR. -/
def Obligations.DoubleFaultStopsBand : Prop :=
  ∀ (s : State) (g : Grp) (tm : Team) (o : Sys2Proof.Trap), OfTeam s g tm → g.live ≠ [] → (∀ l ∈ g.live, l < g.band.threads.length) →
    s.early = [] → g.lanes.Pairwise (· < ·) →
    (∀ l ∈ g.live, (threadOf g.band l).tlevel = true) ∨ (ctxOf s tm.ctx).tvec.getLsbD 0 = false ∧
      (∀ l ∈ g.live, (threadOf g.band l).tlevel = false) →
    let ring := (ctxOf s tm.ctx).errors
    let base := ringPlace ring 64
    let first := threadOf g.band (g.live.headD 0)
    ∃ t b', exec (.trap o) s = .next t ∧ bandOf t g.key = some b' ∧ (∀ j, j ≠ g.key → bandOf t j = bandOf s j) ∧
      b'.stopped = true ∧ b'.sregs = g.band.sregs ∧
      (∀ l, l < g.band.threads.length → (threadOf b' l).exited = (threadOf g.band l).exited ∧
        ((threadOf b' l).exited = false → (threadOf b' l).halted = true)) ∧
      (∀ l ∈ g.live, (threadOf g.band l).exited = false →
        threadOf b' l = { threadOf g.band l with halted := true, wait := .ready }) ∧
      RingTook ring (ctxOf t tm.ctx).errors 64 ∧
      (∀ k x, k = launchKey tm.ctx tm.lseq → aFind k s.launches = some x → aFind k t.launches = some { x with err := true }) ∧
      (ringFull ring 64 = false →
        recordWord t base 0 = tm.lseq.toNat ∧ recordWord t base 1 = tm.lpc.toNat ∧
        recordWord t base 2 = tm.gridIdx % 2 ^ 32 + tm.core % 2 ^ 16 * 2 ^ 32 + g.key % 64 * 2 ^ 48
          + (if first.tlevel then 1 else 2) * 2 ^ 56 ∧
        recordWord t base 3 = laneMask g.live % 2 ^ 32 + (if first.tlevel then first.tcause.toNat % 256 else 0) * 2 ^ 32
          + (0x40 + o.code.val) * 2 ^ 40 ∧
        ∀ a, a < base ∨ base + 64 ≤ a → homeByte t a = homeByte s a)

/-- BKPT (R463), HALT (R430), SNAP, MARK and ESAMP (R463). The CYCLE and the sums in an ESAMP or MARK record rest on
logs 32 and 72 (DESIGN CHOICE), the numbers that a trigger takes on log 74 (DEDUCED), the cycles at which its blocks
latch on log 76 (DEDUCED). -/
def Obligations.DebugInstructions : Prop :=
  (∀ (s : State) (g : Grp) (tm : Team), OfTeam s g tm → g.live ≠ [] → g.band.stop = none → g.band.stopped = false →
    g.band.retired = false → (∃ th ∈ g.band.threads, th.exited = false) →
    let c := ctxOf s tm.ctx
    let own := fun (i : Instr) (cause : Nat) (addr : DWord) (alone : Prop) =>
      ∃ t b', exec i s = .next t ∧ t = { s with bands := t.bands, trigcnt := s.trigcnt + 1 } ∧ bandOf t g.key = some b' ∧
        (alone → ∀ j, j ≠ g.key → bandOf t j = bandOf s j) ∧
        b' = { g.band with threads := b'.threads, stop := some (stopOf cause s.trigcnt.toNat addr g.addr s.now) } ∧
        Bystanders g b' ∧ ∀ l, l < g.band.threads.length → l ∈ g.live → threadOf b' l = moved (threadOf g.band l) g.next
    own .haltC 4 0 True ∧
    (∀ o : C1, c.dbgctl.getLsbD 6 = true → c.dbgctl.getLsbD 5 = false → c.dbgctl.getLsbD 4 = false →
      own (.bkptC o) 3 (BitVec.ofNat 64 o.d.val) True) ∧
    (∀ o : C1, c.dbgctl.getLsbD 6 = true → c.dbgctl.getLsbD 5 = false → c.dbgctl.getLsbD 4 = true →
      (tm.slots.map (bandKey tm.core)).Nodup → g.key ∈ tm.slots.map (bandKey tm.core) →
      own (.bkptC o) 3 (BitVec.ofNat 64 o.d.val) False ∧
      ∀ t, exec (.bkptC o) s = .next t → ∀ k b, k ∈ tm.slots.map (bandKey tm.core) → k ≠ g.key → bandOf s k = some b → b.stop = none →
        b.stopped = false → b.retired = false → (∃ th ∈ b.threads, th.exited = false) →
        bandOf t k = some { b with stop := some (stopOf 3 s.trigcnt.toNat (BitVec.ofNat 64 o.d.val) 0 (s.now + 2)) })) ∧
  (∀ (s : State) (g : Grp) (tm : Team), OfTeam s g tm → g.live ≠ [] →
    let c := ctxOf s tm.ctx
    (∀ o : C1, c.dbgctl.getLsbD 6 = false →
      ∃ t b', exec (.bkptC o) s = .next t ∧ OnlyBand s t g.key ∧ bandOf t g.key = some b' ∧ GoneOn g b') ∧
    (∀ o : Snap, g.core < 480 → ∃ t b', exec (.snap o) s = .next t ∧
      t = { s with bands := t.bands, trigcnt := t.trigcnt, triggers := t.triggers } ∧
      Triggered s t (match o.scope with | .core => 0 | .cluster => 1 | .hinge => 2 | .package => 3) g.core ∧
      (∀ j, j ≠ g.key → bandOf t j = bandOf s j) ∧ bandOf t g.key = some b' ∧ GoneWith g b' o.d.val (s.trigcnt.setWidth 64)) ∧
    (∀ o : Mark,
      let v : DWord := match o.v with | .reg b => rdS g.band b.val | .imm v => v.setWidth 64 | .lit v => v
      let ring := (hingeOf s (g.core / 120)).sample
      let base := ringPlace ring 64
      ∃ t b', exec (.mark o) s = .next t ∧ bandOf t g.key = some b' ∧ (∀ j, j ≠ g.key → bandOf t j = bandOf s j) ∧ GoneOn g b' ∧
        (c.dbgctl.getLsbD 7 = false → OnlyBand s t g.key) ∧
        (c.dbgctl.getLsbD 7 = true →
          t = { s with bands := t.bands, hinges := t.hinges, mem := t.mem } ∧
          RingTook ring (hingeOf t (g.core / 120)).sample 64 ∧
          (ringFull ring 64 = false →
            recordWord t base 0 = 3 + g.slot % 256 * 2 ^ 8 + g.core % 2 ^ 16 * 2 ^ 16 ∧
            recordWord t base 1 = (clockOf s g.core).toNat ∧
            recordWord t base 2 = tm.lseq.toNat ∧ recordWord t base 3 = g.addr.toNat ∧ recordWord t base 4 = v.toNat ∧
            (∀ i, 5 ≤ i → i < 8 → recordWord t base i = 0) ∧
            ∀ a, a < base ∨ base + 64 ≤ a → homeByte t a = homeByte s a))) ∧
    (∀ o : C1, OnceScalar (.esampC o) s g o.d.val g.band.energy) ∧
    (∀ o : Esamp, OnceScalar (.esamp o) s g o.d.val (if o.core then (coreOf s g.core).energy else g.band.energy)))

/-- BAND_RETIRE (R212, R459), the last of a team once its commands are complete (R359), and TEAM_RETIRE (R406, R407, R413), which writes
the team's windows back first; the team's index in an energy record is log 72; when the two happen, as moves of their own, is log 80 (DESIGN CHOICE). -/
def Obligations.Retirement : Prop :=
  (∀ (s : State) (core slot : Nat) (b : Band), let k := bandKey core slot
    bandOf s k = some b → b.retired = false →
    (∀ tm, teamOf s b.team = some tm → (∀ x ∈ b.threads, x.exited = true) → (∀ o ∈ s.pending, o.issuer ≠ k) →
      (∀ m ∈ s.matrix, m.band ≠ k) → b.vreds = [] → b.traps = [] → b.stepping = none →
      (¬ HasPosted s b.team tm ∨ ∃ j b', holdsBand tm j ∧ j ≠ k ∧ bandOf s j = some b' ∧ b'.retired = false) →
      Happens .bandRetire (.bandRetire core slot) s fun t =>
        let ring := (ctxOf s tm.ctx).energyRing
        let base := ringPlace ring 32
        t = { s with bands := t.bands, contexts := t.contexts, mem := t.mem } ∧
        bandOf t k = some { b with retired := true, split := [], spilled := [], reload := none, loops := [] } ∧
        (∀ j, j ≠ k → bandOf t j = bandOf s j) ∧
        ctxOf t tm.ctx = { ctxOf s tm.ctx with energyRing := (ctxOf t tm.ctx).energyRing } ∧
        (∀ c, c ≠ tm.ctx → ctxOf t c = ctxOf s c) ∧ RingTook ring (ctxOf t tm.ctx).energyRing 32 ∧
        (ringFull ring 32 = false → recordWord t base 0 = tm.lseq.toNat ∧
          recordWord t base 1 = tm.gridIdx % 2 ^ 32 + b.idx % 256 * 2 ^ 32 + tm.core % 2 ^ 16 * 2 ^ 48 ∧
          recordWord t base 2 = b.energy.toNat ∧ recordWord t base 3 = 0 ∧
          ∀ a, a < base ∨ base + 32 ≤ a → homeByte t a = homeByte s a)) ∧
    ((∃ x ∈ b.threads, x.exited = false) ∨ b.vreds ≠ [] ∨ b.stepping ≠ none ∨
        (∃ tm, teamOf s b.team = some tm ∧ HasPosted s b.team tm ∧
          ∀ j b', holdsBand tm j → j ≠ k → bandOf s j = some b' → b'.retired = true) →
      Happens .bandRetire (.bandRetire core slot) s fun t => t = s)) ∧
  (∀ (s : State) (key : Nat) (tm : Team) (l : Machine.Launch), teamOf s key = some tm →
    (∀ k b, holdsBand tm k → bandOf s k = some b → b.retired = true) →
    (∀ c ∈ (coreOf s tm.core).channels, ∀ x ∈ c.2.queue ++ c.2.chain, x.team ≠ key) →
    (∀ h ∈ s.hinges, ∀ x ∈ h.2.collectives, x.team ≠ key) → (∀ e ∈ tm.maps, e.2.win = none) →
    aFind (launchKey tm.ctx tm.lseq) s.launches = some l → l.aborted = false →
    Happens .teamRetire (.teamRetire key) s fun t =>
      teamOf t key = none ∧ (∀ j, j ≠ key → teamOf t j = teamOf s j) ∧ (∀ k, holdsBand tm k → bandOf t k = none) ∧
      (∀ k, ¬ holdsBand tm k → bandOf t k = bandOf s k) ∧ PointCleaned s t (.thread tm.core key tm.ctx) .system ∧
      (l.retired + 1 < teamsOf l.rcd →
        aFind (launchKey tm.ctx tm.lseq) t.launches = some { l with retired := l.retired + 1 } ∧
        ∀ h, counterOf t h 62 = counterOf s h 62) ∧
      (teamsOf l.rcd ≤ l.retired + 1 →
        aFind (launchKey tm.ctx tm.lseq) t.launches = none ∧
        streamOf t l.hinge l.stream = { streamOf s l.hinge l.stream with
          outstanding := (streamOf s l.hinge l.stream).outstanding.erase l.lseq.toNat
          finished := ((l.lseq, if l.err then 1 else 0) :: (streamOf s l.hinge l.stream).finished).take 32 } ∧
        ∀ h, counterOf t h 62 = if h = (if l.rcd.pkg then 0 else l.rcd.hinge) then counterOf s h 62 + 1 else counterOf s h 62)) ∧
  (∀ (s : State) (key : Nat) (tm : Team) (k : Nat) (b : Band), teamOf s key = some tm → holdsBand tm k → bandOf s k = some b →
    b.retired = false → Happens .teamRetire (.teamRetire key) s fun t => t = s) ∧
  (∀ (s : State) (key m : Nat) (tm : Team) (e : MapEntry) (w : Window), teamOf s key = some tm → (m, e) ∈ tm.maps →
    e.win = some w → w.dirty ≠ 0 → Happens .teamRetire (.teamRetire key) s fun t =>
      (∃ tm', teamOf t key = some tm' ∧ tm'.slots = tm.slots) ∧ t.bands = s.bands)

/-- STREAM_TAKE_ENTRY (R398, R399), TEAM_PLACEMENT of teams bound to the grid (R97, R409-R412) and QUANTUM_EXPIRE
(R407, R415). The slots of a scheduler are log 56, an image address 0 log 57 (DEDUCED); when the events happen is log
80, the offset of CYCLE log 32 (DESIGN CHOICE). -/
def Obligations.Dispatching : Prop :=
  (∀ (s : State) (h n : Nat) (f : Nat → Leaf), let x := streamOf s h n
    x.enable = true → x.state = 0 → x.head ≠ x.tail →
    let u := dropAll s (.stream h x.ctx.toNat) .system
    let va := x.chbase.toNat + 32 * (x.head.toNat % 2 ^ x.chlog2.toNat)
    Readable u h x.ctx.toNat va 4 f →
    let w := fun i => leNat (((bytesAt u va 4 f).drop (8 * i)).take 8)
    Happens .streamTakeEntry (.streamTakeEntry h n) s fun t =>
      t = { s with hinges := t.hinges, walked := t.walked } ∧ PointDropped s t (.stream h x.ctx.toNat) .system ∧
      (∀ h' n', h' ≠ h ∨ n' ≠ n → streamOf t h' n' = streamOf s h' n') ∧
      (w 0 < 2 ^ 55 → w 0 % 4 = 0 → w 3 = 0 →
        streamOf t h n = { x with pc := BitVec.ofNat 64 (w 0), state := 1, sregs := (streamOf t h n).sregs } ∧
        ∀ r, rdStream (streamOf t h n) r = if r = 0 then x.completed + 1 else if r = 1 then BitVec.ofNat 64 (w 1)
          else if r = 2 then BitVec.ofNat 64 (w 2) else rdStream x r) ∧
      (¬ (w 0 < 2 ^ 55 ∧ w 0 % 4 = 0 ∧ w 3 = 0) → streamOf t h n = { x with state := 3, cause := 0x14 })) ∧
  (∀ (s : State) (h : Nat) (l : Machine.Launch), queueHead s h = some l →
    (hingeOf s h).active = some l.ctx ∧ l.aborted = false ∧ l.next < l.rcd.units ∧
    ∀ x : Machine.Launch, Waiting s h l.ctx x → x.rcd.prio < l.rcd.prio ∨ (x.rcd.prio = l.rcd.prio ∧ l.lseq.toNat ≤ x.lseq.toNat)) ∧
  (∀ (s : State) (h c : Nat) (l : Machine.Launch), queueHead s h = some l → switchUnderWay s h = false →
    l.rcd.groups = 0 → l.rcd.stashImg = 0 →
    (rotated 120 (hingeOf s h).corePtr).find? (fun c => coreTakes s (h * 120 + c) l.rcd) = some c →
    let core := h * 120 + c
    Happens .teamPlacement (.teamPlacement h) s fun t =>
      ∃ i tm, i < 16 ∧ (∀ e ∈ s.teams, e.2.core = core → e.2.index ≠ i) ∧ teamOf t (teamKey core i) = some tm ∧
        (∀ j, j ≠ teamKey core i → teamOf t j = teamOf s j) ∧
        tm = { ctx := l.ctx, lseq := l.lseq, lpc := l.lpc, team := l.next, group := 0, gridIdx := l.next, grouped := false
               core := core, index := i, slots := tm.slots, prio := l.rcd.prio, tileCount := l.rcd.tiles
               slotCount := l.rcd.stashSlots, tumblerCount := l.rcd.tumblers, pinQuota := l.rcd.pinQuota, rows := l.rcd.rows
               slotCls := tm.slotCls, spill := l.spill, spillBytes := l.rcd.splitSpill, code := s.mem } ∧
        tm.slots.length = l.rcd.bands ∧ tm.slots.Nodup ∧
        (∀ n ∈ tm.slots, n < 64 ∧ ∀ e ∈ s.teams, e.2.core = core → n ∉ e.2.slots) ∧
        (∀ b n, tm.slots[b]? = some n → ∃ x, bandOf t (bandKey core n) = some x ∧
          x = { team := teamKey core i, idx := b, n := x.n, sregCount := l.rcd.sregs
                threads := List.replicate 32 { pc := BitVec.ofNat 64 l.rcd.entry }, sregs := x.sregs, srstate := x.srstate
                since := s.now + 1 } ∧
          (l.rcd.roles = [] → x.n = l.rcd.regs) ∧
          (∀ r, rdS x r = if r < l.rcd.sregs then l.rcd.params.getD r 0 else 0) ∧
          x.srstate = BitVec.ofNat 64 (mix64 ((l.lseq.toNat * 2 ^ 24 + l.next * 32 + b) % 2 ^ 64))) ∧
        (coreOf t core).icache = [] ∧ aFind (launchKey l.ctx l.lseq) t.launches = some { l with next := l.next + 1 } ∧
        (hingeOf t h).corePtr = (c + 1) % 120) ∧
  (∀ (s : State) (h : Nat), switchUnderWay s h = true ∨ queueHead s h = none →
    Happens .teamPlacement (.teamPlacement h) s fun t => t = s) ∧
  (∀ (s : State) (h : Nat) (q : Nat), (hingeOf s h).quantum = some q →
    (q ≤ s.now → Happens .quantumExpire (.quantumExpire h) s fun t => t = { s with hinges := t.hinges } ∧
      (hingeOf t h).quantum = none ∧ ∀ k e, counterOf t k e = if k = h ∧ e = 63 then counterOf s k e + 1 else counterOf s k e) ∧
    (s.now < q → Happens .quantumExpire (.quantumExpire h) s fun t => t = s))

/-- ENGINE_TRAP_TAKE (R425): the band's lowest thread that has not exited and does not wait at a JOIN takes the oldest
queued trap, with IMPRECISE and LOSTTRAPS, if it is at TLEVEL 0. What a due trap holds is log 39, a trap without a
handler log 40 (DEDUCED); when the event happens is log 80 (DESIGN CHOICE). -/
def Sys2Proof.Claims.EngineTraps : Prop :=
  ∀ (s : State) (core slot i : Nat) (b : Band) (tm : Team) (x : EngineTrap) (rest : List EngineTrap), let k := bandKey core slot
    let th := threadOf b i
    let atJoin := fun l => ∃ n e, (threadOf b l).wait = .join n e
    bandOf s k = some b → b.traps = x :: rest → i < b.threads.length → th.exited = false → ¬ atJoin i →
    (∀ l, l < i → (threadOf b l).exited = true ∨ atJoin l) →
    (th.tlevel = true → Happens .engineTrapTake (.engineTrapTake core slot) s fun t => t = s) ∧
    (th.tlevel = false → th.halted = false → (∀ v, th.wait ≠ .captured v) → teamOf s b.team = some tm →
      (ctxOf s tm.ctx).tvec.getLsbD 0 = true →
      Happens .engineTrapTake (.engineTrapTake core slot) s fun t =>
        t = { s with bands := t.bands, faulted := t.faulted } ∧ (∀ j, j ≠ k → bandOf t j = bandOf s j) ∧
        ∃ b', bandOf t k = some b' ∧ b' = { b with threads := b'.threads, traps := rest, lostTraps := 0 } ∧
          b'.threads.length = b.threads.length ∧ (∀ l, l ≠ i → threadOf b' l = threadOf b l) ∧
          InHandler (ctxOf s tm.ctx).tvec (haltStays s b tm.ctx) 0x116 x.addr
            (BitVec.ofNat 64 (x.seq.toNat * 2 ^ 32 + x.comm % 256 * 2 ^ 24 + x.cause % 256 * 2 ^ 16 + x.unit % 256 * 2 ^ 8
              + b.lostTraps.toNat)) th.pc th (threadOf b' i))

/-- BREAKPOINT_HIT (R442, R444, R455) of band scope; STOP_ARRIVAL (R445, R446, R448, R456), of which a
band that has exited takes no record (R496); DRIVER_HALT_REQUEST (R448). The order of a hit's trigger numbers is log 74 (DEDUCED); when the events happen is log 80 (DESIGN CHOICE). -/
def Sys2Proof.Claims.Stops : Prop :=
  (∀ (s : State) (core slot n i : Nat) (b : Band) (tm : Team), let k := bandKey core slot
    let w := aGet 0 n (ctxOf s tm.ctx).ibp
    let th := threadOf b i
    bandOf s k = some b → teamOf s b.team = some tm → n < 8 → (ctxOf s tm.ctx).dbgctl.getLsbD 2 = true →
    w.getLsbD 56 = true → w.getLsbD 57 = false → zeroBits w 58 2 →
    b.stop = none → b.stopped = false → b.retired = false → b.stepping = none → b.split = [] → b.spilled = [] → b.reload = none →
    i < b.threads.length → th.pc = w &&& 0x007FFFFFFFFFFFFC → th.exited = false → th.halted = false → th.wait = .ready →
    th.tlevel = false → th.noIbp = false →
    (∀ m, m < 8 → m ≠ n → let x := aGet 0 m (ctxOf s tm.ctx).ibp
      ¬ (x.getLsbD 56 = true ∧ x &&& 0x007FFFFFFFFFFFFC = th.pc)) →
    Happens .breakpointHit (.breakpointHit core slot n) s fun t =>
      t = { s with bands := t.bands, trigcnt := s.trigcnt + 1 } ∧ (∀ j, j ≠ k → bandOf t j = bandOf s j) ∧
      bandOf t k = some { b with stop := some { stopOf 1 s.trigcnt.toNat 0 th.pc s.now with source := n } }) ∧
  (∀ (s : State) (core slot : Nat) (b : Band) (tm : Team) (x : Stop), let k := bandKey core slot
    bandOf s k = some b → teamOf s b.team = some tm → b.stop = some x → x.arrived = false → x.recorded = false → b.stepping = none →
    (s.now < x.arrival → Happens .stopArrival (.stopArrival core slot) s fun t => t = s) ∧
    (x.arrival ≤ s.now → (∃ th ∈ b.threads, th.exited = false) →
      ((ctxOf s tm.ctx).dbgctl.getLsbD 0 = true ∨ ∀ th ∈ b.threads, th.exited = true ∨ th.tlevel = false ∨ th.halted = true) →
      Happens .stopArrival (.stopArrival core slot) s fun t =>
        let ring := (hingeOf s (core / 120)).sample
        let base := ringPlace ring 64
        ∃ b', bandOf t k = some b' ∧ (∀ j, j ≠ k → bandOf t j = bandOf s j) ∧ AllHalted b b' ∧
          b' = { b with
            threads := b'.threads, stop := some { x with arrived := true, recorded := true }
            skid0 := BitVec.ofNat 64 (x.trigger * 2 ^ 32 + min 65535 x.issued * 2 ^ 16 + x.hits * 2 ^ 8 + x.source * 2 ^ 4 + x.cause)
            skid1 := BitVec.ofNat 64 (x.lane * 2 ^ 59 + x.addr.toNat % 2 ^ 55), skid2 := BitVec.ofNat 64 (x.pc.toNat % 2 ^ 55) } ∧
          (slot < 64 → RingTook ring (hingeOf t (core / 120)).sample 64 ∧
            (ringFull ring 64 = false → recordWord t base 0 = 4 + slot * 2 ^ 8 + core % 2 ^ 16 * 2 ^ 16 + x.trigger % 2 ^ 32 * 2 ^ 32 ∧
              recordWord t base 2 = tm.lseq.toNat ∧ recordWord t base 4 = x.cause % 256 + min 65535 x.issued * 2 ^ 16))) ∧
    (x.arrival ≤ s.now → (ctxOf s tm.ctx).dbgctl.getLsbD 0 = false →
      (∃ th ∈ b.threads, th.exited = false ∧ th.tlevel = true ∧ th.halted = false) →
      Happens .stopArrival (.stopArrival core slot) s fun t =>
        ∃ b', bandOf t k = some b' ∧ t = { s with bands := t.bands } ∧
          b' = { b with threads := b'.threads, stop := some { x with arrived := true } } ∧
          ∀ l, l < b.threads.length → threadOf b' l =
            if (threadOf b l).exited = false ∧ (threadOf b l).tlevel = false then { threadOf b l with halted := true }
            else threadOf b l) ∧
    (x.arrival ≤ s.now → (∀ th ∈ b.threads, th.exited = true) →
      Happens .stopArrival (.stopArrival core slot) s fun t =>
        t = { s with bands := t.bands } ∧ bandOf t k = some { b with stop := some { x with arrived := true } })) ∧
  (∀ (s : State) (ctx : Nat) (x : BandSet), (setBands s ctx x).Nodup →
    Happens .driverHaltRequest (.driverHaltRequest ctx x) s fun t =>
      t = { s with bands := t.bands, trigcnt := s.trigcnt + 1 } ∧
      ∀ k b, bandOf s k = some b → b.stop = none → b.stopped = false →
        (Named s ctx x k → (∃ th ∈ b.threads, th.exited = false) →
          let core := k / 64
          let wait := match x.scope with
            | .band | .team => 2
            | .cluster | .hinge => coreDelay x.core core
          bandOf t k = some { b with stop := some (stopOf 5 s.trigcnt.toNat 0 0 (s.now + wait)) }) ∧
        (¬ Named s ctx x k ∨ (∀ th ∈ b.threads, th.exited = true) → bandOf t k = some b))

/-- BAND_RESUME and BAND_ABORT (R423, R449, R470), BAND_STEP and STEP_END (R448, R450, R470). When BANDCMD is busy is
log 63 (DEDUCED); when the events happen is log 80 (DESIGN CHOICE). -/
def Obligations.BandCommands : Prop :=
  (∀ (s : State) (ctx : Nat) (x : BandSet),
    OnNamed .bandResume (.bandResume ctx x) s ctx x (fun b => { b with
      stop := none, stopped := false
      threads := b.threads.map fun t => if t.exited then t else { t with halted := false, noIbp := true } })
      (fun t => CommandOf s t ctx fun k => Named s ctx x k ∧ ∃ b, bandOf s k = some b ∧ Halted b ∧ b.stepping = none) ∧
    OnNamed .bandAbort (.bandAbort ctx x) s ctx x (fun b => { b with
      stop := none, stopped := false
      threads := b.threads.map fun t => { t with exited := true, halted := false, wait := .ready } })
      (fun t => t.contexts = s.contexts)) ∧
  (∀ (s : State) (ctx core slot : Nat) (pc : Option DWord) (b : Band), let k := bandKey core slot
    let named := Named s ctx { scope := .band, core := core, tslot := 0, slot := slot } k
    let may := ∃ i, i < b.threads.length ∧ eligible b i = true ∧ ∀ p, pc = some p → (threadOf b i).pc = p
    let goes := named ∧ may ∧ b.stopped = false ∧ Halted b ∧ b.stepping = none
    bandOf s k = some b →
    (CommandBusy s ctx ∨ ¬ goes → Happens .bandStep (.bandStep ctx core slot pc) s fun t => t = s) ∧
    (¬ CommandBusy s ctx → goes → Happens .bandStep (.bandStep ctx core slot pc) s fun t =>
      t = { s with bands := t.bands, contexts := t.contexts } ∧ (∀ j, j ≠ k → bandOf t j = bandOf s j) ∧
      bandOf t k = some { b with stepping := some { want := pc, issued := none, lanes := [], outcome := 0 } } ∧
      CommandOf s t ctx (fun j => j = k) ∧ ((∃ tm, teamOf s b.team = some tm ∧ tm.ctx = ctx) → CommandBusy t ctx))) ∧
  (∀ (s : State) (core slot : Nat) (b : Band) (tm : Team) (x : StepInfo) (pc : DWord), let k := bandKey core slot
    bandOf s k = some b → teamOf s b.team = some tm → b.stepping = some x → x.issued = some pc →
    let ends := fun (cause : Nat) => Happens .stepEnd (.stepEnd core slot) s fun t =>
      t = { s with bands := t.bands } ∧ (∀ j, j ≠ k → bandOf t j = bandOf s j) ∧
      ((ctxOf s tm.ctx).cmdBands = [k] → ¬ CommandBusy t tm.ctx) ∧
      ∃ b', bandOf t k = some b' ∧ AllHalted b b' ∧ Halted b' ∧ b'.stepping = none ∧
        b'.skid0 = BitVec.ofNat 64 cause ∧ b'.skid1 = 0 ∧ b'.skid2 = BitVec.ofNat 64 (pc.toNat % 2 ^ 55)
    (x.outcome = 8 ∨ b.stopped = true → ends 8) ∧
    (x.outcome ≠ 8 → b.stopped = false →
      ((∃ l ∈ x.lanes, (threadOf b l).exited = true) → ends 9) ∧
      ((∀ l ∈ x.lanes, (threadOf b l).exited = false) →
        (∃ l ∈ x.lanes, (∃ n c, (threadOf b l).wait = .tumbler n c) ∨ (∃ n, (threadOf b l).wait = .rdr n) ∨
          (∃ p n w, (threadOf b l).wait = .key p n w) ∨ (threadOf b l).wait = .polled 5) → ends 7) ∧
      ((∀ l ∈ x.lanes, (threadOf b l).exited = false ∧ ((threadOf b l).wait = .ready ∨ ∃ n e, (threadOf b l).wait = .join n e)) →
        (∀ o ∈ s.pending, o.issuer ≠ k) → (∀ m ∈ s.matrix, m.band ≠ k) → ends 6)))

/-- SNAPSHOT_LATCH (R454): the blocks at which a trigger has arrived latch their words, the last four kept (log 67,
DESIGN CHOICE), the others stay to come (log 76, DEDUCED). DRIVER_TRIGGER (R455). STALL_SAMPLE and MEMORY_SAMPLE
(R456): which reasons a sample shows and its lowest code are logs 70 and 71, the sectors of a memory sample log 77,
its other figures log 29; the CYCLE of a record is log 32 (DESIGN CHOICE). The weights behind ENERGY are log 72
(DESIGN CHOICE). -/
def Sys2Proof.Claims.SnapshotsAndSamples : Prop :=
  (∀ (s : State) (tr : Trigger), s.triggers.Pairwise (fun x y => x.number ≠ y.number) → tr ∈ s.triggers →
    tr.blocks.Pairwise (fun x y => (x.1, x.2.1) ≠ (y.1, y.2.1)) → (∀ b ∈ tr.blocks, b.1 ≤ 2) →
    let due := fun kind k => ∃ c, (kind, k, c) ∈ tr.blocks ∧ c ≤ s.now
    let left := tr.blocks.filter fun b => !decide (b.2.2 ≤ s.now)
    Happens .snapshotLatch (.snapshotLatch tr.number.toNat) s fun t =>
      t = { s with cores := t.cores, clusters := t.clusters, hinges := t.hinges, triggers := t.triggers } ∧
      (∀ x, x ∈ t.triggers ↔ (x ∈ s.triggers ∧ x ≠ tr) ∨ (x = { tr with blocks := left } ∧ left ≠ [])) ∧
      (∀ k, ¬ due 0 k → coreOf t k = coreOf s k) ∧ (∀ k, ¬ due 1 k → Machine.clusterOf t k = Machine.clusterOf s k) ∧
      (∀ k, ¬ due 2 k → hingeOf t k = hingeOf s k) ∧
      (∀ k, due 0 k → let c := coreOf s k
        ∃ x, coreOf t k = { c with snaps := (x :: c.snaps).take 4 } ∧ x.trigger = tr.number ∧ x.words.length = 22 ∧
          x.words[0]? = some (clockOf s k) ∧ x.words[1]? = some c.issued ∧
          x.words.drop 15 = [c.mmacnt.setWidth 64, c.elznop.setWidth 64, c.elzcopy.setWidth 64, c.elident.setWidth 64,
            c.elconst.setWidth 64, c.elrefuse.setWidth 64, c.energy]) ∧
      (∀ k, due 1 k → let c := Machine.clusterOf s k
        ∃ x, Machine.clusterOf t k = { c with snaps := (x :: c.snaps).take 4 } ∧ x.trigger = tr.number ∧
          x.words = [clockOf s (k * 8), c.hits, c.misses, c.writebacks, c.tlbMisses,
            BitVec.ofNat 64 (512 * (pinnedPages s k).length)]) ∧
      (∀ k, due 2 k → let h := hingeOf s k
        ∃ x, hingeOf t k = { h with snaps := (x :: h.snaps).take 4 } ∧ x.trigger = tr.number ∧
          x.words = [clockOf s (480 + k), h.walks, h.promotions, h.copyBytes, h.collBytes, h.embagBytes, h.bags])) ∧
  (∀ s : State, Happens .driverTrigger .driverTrigger s fun t =>
    t = { s with trigcnt := t.trigcnt, triggers := t.triggers } ∧ Triggered s t 3 0) ∧
  (∀ (s : State) (core sched slot : Nat) (b : Band) (tm : Team), let c := coreOf s core
    let period := s.now / 2 ^ c.sampSp.toNat
    c.sampEn = true → sched < 4 → slot / 16 = sched → (aGet (0, 15) sched c.sampleAt).1 < period →
    bandOf s (bandKey core slot) = some b → b.retired = false → teamOf s b.team = some tm →
    (∀ n x, n / 16 = sched → n ≠ slot → bandOf s (bandKey core n) = some x → x.retired = true) →
    let ring := (hingeOf s (core / 120)).sample
    let base := ringPlace ring 64
    Happens .stallSample (.stallSample core sched) s fun t =>
      t.bands = s.bands ∧ aGet (0, 15) sched (coreOf t core).sampleAt = (period, slot) ∧
      RingTook ring (hingeOf t (core / 120)).sample 64 ∧
      (ringFull ring 64 = false →
        let reason := recordWord t base 4 % 256
        let mask := recordWord t base 4 / 2 ^ 16 % 2 ^ 16
        recordWord t base 0 = 1 + slot * 2 ^ 8 + core % 2 ^ 16 * 2 ^ 16 ∧
        recordWord t base 1 = (clockOf s core).toNat ∧
        recordWord t base 2 = tm.lseq.toNat ∧ (mask = 0 → reason = 0) ∧
        ((∀ th ∈ b.threads, th.exited = true ∨ ∃ n c, th.wait = .tumbler n c) → (∃ th ∈ b.threads, th.exited = false) →
          mask.testBit 2 = true) ∧
        (bandHeld s b = true → mask.testBit 12 = true) ∧
        (bandHeld s b = false → stallAwake s core slot b ≠ [] → (∀ c ∈ stallAwake s core slot b, yieldHolds s core slot c = true) →
          mask.testBit 12 = true) ∧
        (mask ≠ 0 → 1 ≤ reason ∧ mask.testBit (reason - 1) = true ∧ ∀ j, j + 1 < reason → mask.testBit j = false))) ∧
  (∀ (s : State) (core : Nat) (x : MemSample) (rest : List MemSample), (coreOf s core).samples = x :: rest →
    (∀ o ∈ s.pending, ¬ (o.issuer = bandKey core x.slot ∧ o.seq = x.seq)) →
    let ring := (hingeOf s (core / 120)).sample
    let base := ringPlace ring 64
    Happens .memorySample (.memorySample core) s fun t =>
      coreOf t core = { coreOf s core with samples := rest } ∧ t.bands = s.bands ∧
      RingTook ring (hingeOf t (core / 120)).sample 64 ∧
      (ringFull ring 64 = false → recordWord t base 0 = 2 + x.slot % 256 * 2 ^ 8 + core % 2 ^ 16 * 2 ^ 16 ∧
        recordWord t base 1 = x.cycle.toNat ∧ recordWord t base 2 = x.lseq.toNat ∧ recordWord t base 3 = x.pc.toNat ∧
        recordWord t base 4 % 2 ^ 40 = x.active % 2 ^ 32 + x.sectors % 256 * 2 ^ 32 ∧
        recordWord t base 4 / 2 ^ 48 = x.lastLane % 256 + x.level % 256 * 2 ^ 8 ∧
        (x.l1 = false → recordWord t base 4 / 2 ^ 40 % 2 ^ 8 = min 255 (x.passes - 1)) ∧
        recordWord t base 6 = (x.doneAt - x.issuedAt) % 2 ^ 32))

/-- The pick of a scheduler (R414): among the bands with a ready candidate one that has waited 256 cycles, the longest; else the one
of highest PRIO, that has waited longest, in the lowest slot. FORCED_PICK puts such a band's issue first. -/
def Sys2Proof.Claims.SchedulerPicks : Prop :=
  (∀ (s : State) (core x : Nat) (ready : List Nat), ready.Pairwise (· < ·) →
    pickSlot s core ready = some x →
    let waited := fun k => match bandOf s (bandKey core k) with | some b => s.now - b.since | none => 0
    let prio := fun k => match bandOf s (bandKey core k) with
      | some b => (match teamOf s b.team with | some tm => tm.prio | none => 0)
      | none => 0
    x ∈ ready ∧
    ((∃ k ∈ ready, 256 ≤ waited k) → 256 ≤ waited x ∧ ∀ k ∈ ready, waited k < waited x ∨ (waited k = waited x ∧ x ≤ k)) ∧
    ((∀ k ∈ ready, waited k < 256) → ∀ k ∈ ready, prio k < prio x ∨ (prio k = prio x ∧ (waited k < waited x ∨ (waited k = waited x ∧ x ≤ k))))) ∧
  (∀ (s : State) (core slot : Nat) (b : Band) (c : List Nat), bandOf s (bandKey core slot) = some b →
    (256 ≤ s.now - b.since → (awakeGroups s core slot).head? = some c →
      Happens .forcedPick (.forcedPick core slot) s fun t => t = { s with agenda := .issue core slot (c.headD 0) :: s.agenda }) ∧
    (s.now - b.since < 256 → Happens .forcedPick (.forcedPick core slot) s fun t => t = s))

/-- SCRUB (R426, R428), KNUCKLE_PARITY_ERROR and KNUCKLE_RETRY (R23, R25, R477). When an error strikes is log 78, the
numbers of the knuckles of a group log 99, the CYCLE of a hinge record log 32 (DESIGN CHOICE); the vector of its MSI-X
message is log 8 (PRESUMED). -/
def Obligations.SoftErrors : Prop :=
  (∀ (s : State) (core : Nat), Happens .scrub (.scrub core) s fun t =>
    t = { s with bands := t.bands, cores := t.cores } ∧
    coreOf t core = { coreOf s core with corrErr := BitVec.ofNat 32 (min (2 ^ 32 - 1) ((coreOf s core).corrErr.toNat + singles s core)) } ∧
    (∀ n, n ≠ core → coreOf t n = coreOf s n) ∧
    ∀ k b, bandOf s k = some b → ∃ b', bandOf t k = some b' ∧ b' = { b with vEcc := b'.vEcc, sEcc := b'.sEcc } ∧
      (k / 64 ≠ core → b' = b) ∧
      (k / 64 = core → (∀ w x, (w, x) ∈ b'.vEcc ↔ scrubbed b.vEcc w x) ∧ ∀ w x, (w, x) ∈ b'.sEcc ↔ scrubbed b.sEcc w x)) ∧
  (∀ (s : State) (core k : Nat), let c := coreOf s core
    core < 480 → k < 16 → c.dead = false → c.beat = none → (c.half = true → c.grp = decide (8 ≤ k)) →
    Happens .knuckleParityError (.knuckleParityError core k) s fun t =>
      t = { s with cores := t.cores } ∧ coreOf t core = { c with beat := some k } ∧ ∀ n, n ≠ core → coreOf t n = coreOf s n) ∧
  (∀ (s : State) (core k : Nat), let c := coreOf s core
    let side := if 8 ≤ k then 1 else 0
    c.beat = some k →
    Happens .knuckleRetry (.knuckleRetry core true) s (fun t => t = { s with cores := t.cores } ∧
      coreOf t core = { c with beat := none, corrErr := BitVec.ofNat 32 (min (2 ^ 32 - 1) (c.corrErr.toNat + 1)) }) ∧
    Happens .knuckleRetry (.knuckleRetry core false) s (fun t => t.bands = s.bands ∧ t.teams = s.teams ∧
      (c.half = false → coreOf t core = { c with
          beat := none, half := true, grp := decide (k < 8), hcause := true, kdecl := if c.kdecl = 255 then 255 else c.kdecl + 1 } ∧
        HingeRecorded s t (core / 120) 1 core side 0) ∧
      (c.half = true → coreOf t core = { c with beat := none, dead := true } ∧ HingeRecorded s t (core / 120) 2 core side 0)))

/-- DEBUG_READ, DEBUG_WRITE and TAP_DPACC (R437, R451, R452): the program counter, FSTAT with the predicates, and the
scalar registers of a halted band's record, and RDR in its band block, whose order is log 30 (DESIGN CHOICE); what
becomes of the low and high bits of a written program counter is log 75 (DEDUCED); an access to a band that is not
halted fails and reads zero. -/
def Obligations.DebugPort : Prop :=
  ∀ (s : State) (n core slot off : Nat) (b : Band) (v : DWord), core < 480 → slot < 64 → off < 2 ^ 28 → off % 8 = 0 →
    let k := bandKey core slot
    let a := core * 2 ^ 39 + slot * 2 ^ 33 + off
    bandOf s k = some b →
    (Halted b → b.stepping = none → ∀ x : DWord,
      (∃ l, l < 32 ∧ ((off = 48 * l ∧ x = (threadOf b l).pc) ∨
        (off = 48 * l + 32 ∧ x = BitVec.ofNat 64 ((threadOf b l).fstat.toNat + (threadOf b l).preds.toNat * 2 ^ 32
          + (threadOf b l).tcause.toNat * 2 ^ 48)))) ∨
      (∃ r, r < b.sregCount ∧ off = 0xA00 + 8 * r ∧ x = rdS b r) ∨
      (off = 0x760 ∧ x = b.rdrValue) ∨ (off = 0x768 ∧ x = b.rdrSeq.setWidth 64) →
      ((coreOf s n).dbgAddr.toNat = a → Happens .debugRead (.debugRead n) s fun t =>
        t = { s with cores := t.cores, sent := s.sent ++ [.debug x false] } ∧ coreOf t n = { coreOf s n with dbgFail := false }) ∧
      Happens .tapDpacc (.tapDpacc false a v) s fun t => t = { s with sent := s.sent ++ [.debug x false] }) ∧
    (Halted b → b.stepping = none →
      let wrote := fun (t : State) => ∃ b', bandOf t k = some b' ∧ (∀ j, j ≠ k → bandOf t j = bandOf s j) ∧
        (∀ l, l < 32 → l < b.threads.length → off = 48 * l →
          b' = { b with threads := b'.threads } ∧
            ((∃ n e, (threadOf b l).wait = .join n e) → threadOf b' l = { threadOf b l with pc := v &&& 0x007FFFFFFFFFFFFC }) ∧
            ((∀ n e, (threadOf b l).wait ≠ .join n e) → threadOf b' l = moved (threadOf b l) (v &&& 0x007FFFFFFFFFFFFC)) ∧
            ∀ i, i ≠ l → threadOf b' i = threadOf b i) ∧
        (∀ l, l < 32 → l < b.threads.length → off = 48 * l + 32 →
          b' = { b with threads := b'.threads } ∧
            threadOf b' l = { threadOf b l with fstat := v.setWidth 5, preds := (v >>> 32).setWidth 15 } ∧
            ∀ i, i ≠ l → threadOf b' i = threadOf b i) ∧
        (∀ r, r < b.sregCount → off = 0xA00 + 8 * r → b'.threads = b.threads ∧ ∀ q, rdS b' q = if q = r then v else rdS b q) ∧
        ((∃ l i, l < 32 ∧ off = 48 * l + 8 * i ∧ (i = 1 ∨ i = 2 ∨ i = 3 ∨ i = 5)) → b' = b)
      off < 2560 + 8 * b.sregCount →
      ((coreOf s n).dbgAddr.toNat = a → Happens .debugWrite (.debugWrite n v) s fun t =>
        wrote t ∧ coreOf t n = { coreOf s n with dbgFail := false }) ∧
      Happens .tapDpacc (.tapDpacc true a v) s fun t => wrote t ∧ t.sent = s.sent ++ [.debug v false]) ∧
    (¬ Halted b ∨ b.stepping ≠ none →
      ((coreOf s n).dbgAddr.toNat = a → Happens .debugRead (.debugRead n) s (fun t =>
          t = { s with cores := t.cores, sent := s.sent ++ [.debug 0 true] } ∧ coreOf t n = { coreOf s n with dbgFail := true }) ∧
        Happens .debugWrite (.debugWrite n v) s (fun t =>
          t = { s with cores := t.cores } ∧ coreOf t n = { coreOf s n with dbgFail := true })) ∧
      Happens .tapDpacc (.tapDpacc false a v) s fun t => t = { s with sent := s.sent ++ [.debug 0 true] })

/-- REGISTER_WRITE and COUNTER_READ_CLEAR (R13, R466, R467, R471-R473): what a driver writes to a register of the
window it reads back in the register's own bits; offsets that are not aligned, and read-only registers, ignore a
write; a read of an RC counter returns and clears it. What is served before boot ends is log 62 (DEDUCED), the MSI-X
table log 8 (PRESUMED). -/
def Obligations.DriverRegisters : Prop :=
  (∀ (s : State) (h n c i : Nat) (v : DWord), s.bootState = 1 → h < 4 → n < 16 → c < 256 → i < 8 →
    ∀ p ∈ windowRegs h n c i, Happens .registerWrite (.registerWrite p.1 v) s fun t =>
      (readReg t p.1).1 = v &&& BitVec.ofNat 64 p.2 ∧ t.bands = s.bands ∧ t.teams = s.teams ∧ ∀ a, homeByte t a = homeByte s a) ∧
  (∀ (s : State) (off : Nat) (v : DWord),
    off % 8 ≠ 0 ∨ off ∈ [0x10, 0x20, 0x300, 0xF8000] ∨ (∃ n, n < 480 ∧ (off = 0x1000000 + 0x1000 * n + 0x40 ∨
      ∃ i, i < 6 ∧ off = 0x1000000 + 0x1000 * n + 8 * i)) →
    Happens .registerWrite (.registerWrite off v) s fun t => t = s) ∧
  (∀ (s : State) (n i : Nat), s.bootState = 1 → n < 480 → i < 6 ∨ i = 8 →
    let off := 0x1000000 + 0x1000 * n + 8 * i
    Happens .counterReadClear (.counterReadClear off) s fun t =>
      t = { s with cores := t.cores, sent := s.sent ++ [.hostRead off (leBytes 8 (coreCounter (coreOf s n) i))] } ∧
      coreCounter (coreOf t n) i = 0 ∧ (∀ j, j < 7 → j ≠ min i 6 → coreCounter (coreOf t n) j = coreCounter (coreOf s n) j) ∧
      ∀ m, m ≠ n → coreOf t m = coreOf s m)

/-- STREAM_ENABLE and STREAM_DISABLE (R397), DOORBELL (R407, R466), STACK_RESUME (R472, R479), PORT_RETRAIN, PORT_UP,
PORT_LINK_FAILURE, PORT_RETRAIN_TIMEOUT, after which a port stays down until it is retrained, and FLIT_RECEIVE (R474, R478). What
enabling and disabling clear is log 64, the cycles of 1 ms log 69 (DEDUCED); what a flit holds is log 54, its check log 86, when the events happen log 80, the
CYCLE of a record log 32 (DESIGN CHOICE); MSI-X is log 8 (PRESUMED). -/
def Obligations.StreamsAndPorts : Prop :=
  (∀ (s : State) (h n : Nat) (v : DWord), h < 4 → n < 16 → s.bootState = 1 → let x := streamOf s h n
    (v.getLsbD 8 = true → x.enable = false → Happens .streamEnable (.streamEnable h n v) s fun t =>
      t = { s with hinges := t.hinges, pending := t.pending } ∧ (∀ h' n', h' ≠ h ∨ n' ≠ n → streamOf t h' n' = streamOf s h' n') ∧
      streamOf t h n = { x with
        ctx := v.setWidth 8, priv := v.getLsbD 9, enable := true, head := x.tail, completed := 0, pc := 0, sregs := [], preds := 0
        tvec := 0, tpc := 0, tcause := 0, taddr := 0, tinfo := 0, tlevel := false, state := 0, cause := 0, launching := none }) ∧
    (v.getLsbD 8 = false → x.enable = true → Happens .streamDisable (.streamDisable h n v) s fun t =>
      t = { s with hinges := t.hinges } ∧ (∀ h' n', h' ≠ h ∨ n' ≠ n → streamOf t h' n' = streamOf s h' n') ∧
      streamOf t h n = { x with
        ctx := v.setWidth 8, priv := v.getLsbD 9, enable := false, state := 0, cause := 0, launching := none } ∧
      ∀ j, (hingeOf t j).switching = if (hingeOf s j).switching = some (h * 16 + n) then none else (hingeOf s j).switching) ∧
    Happens .doorbell (.doorbell h) s (fun t => t = { s with hinges := t.hinges } ∧
      ∀ k e, counterOf t k e = if k = h ∧ e = 60 then counterOf s k e + 1 else counterOf s k e)) ∧
  (∀ (s : State) (n : Nat), n < 16 →
    ((stackAt s n).state = 2 → Happens .stackResume (.stackResume n) s fun t =>
      t = { s with hinges := t.hinges } ∧ stackAt t n = { stackAt s n with state := 0 }) ∧
    ((stackAt s n).state ≠ 2 → Happens .stackResume (.stackResume n) s fun t => t = s)) ∧
  (∀ (s : State) (p : Nat), p < 18 → let x := portAt s p
    (s.bootState = 1 → Happens .portRetrain (.portRetrain p) s fun t =>
      t = { s with hinges := t.hinges } ∧ portAt t p = { x with up := false, down := false, deadline := some (s.now + 1700000) }) ∧
    (x.up = true → Happens .portLinkFailure (.portLinkFailure p) s fun t =>
      t = { s with hinges := t.hinges } ∧ portAt t p = { x with up := false, down := false, deadline := some (s.now + 1700000) }) ∧
    (x.up = false → x.down = false → p < s.links → Happens .portUp (.portUp p) s fun t =>
      portAt t p = { x with up := true, deadline := none } ∧ HingeRecorded s t (portHinge p) 7 p 0 0) ∧
    (x.down = true → Happens .portUp (.portUp p) s fun t => t = s) ∧
    (∀ d, x.deadline = some d →
      (d ≤ s.now → Happens .portRetrainTimeout (.portRetrainTimeout p) s fun t =>
        portAt t p = { x with deadline := none, down := true } ∧ HingeRecorded s t (portHinge p) 6 p 0 0) ∧
      (s.now < d → Happens .portRetrainTimeout (.portRetrainTimeout p) s fun t => t = s)) ∧
    (∀ f : Flit,
      (f.crcOk = false ∨ f.seq ≠ x.expect → Happens .flitReceive (.flitReceive p f) s fun t => t = s) ∧
      (x.up = true → f.crcOk = true → f.seq = x.expect → f.type = 1 → f.vc < 8 → Happens .flitReceive (.flitReceive p f) s fun t =>
        t = { s with hinges := t.hinges } ∧ (portAt t p).expect = x.expect + 1 ∧ (portAt t p).received = x.received ++ [f] ∧
        ∀ vc, aGet 0 vc (portAt t p).credits = aGet 0 vc x.credits + if vc = f.vc then f.credits else 0)))

/-- HOST_APERTURE_READ and HOST_APERTURE_WRITE (R464, R465): at home, past every cache. TLB_INVALIDATE and
TLB_INVALIDATE_DONE (R468), PAGE_ANSWER_DONE and PAGE_ANSWER_REFUSED (R261, R366, R469), of commands that a CTXSW has saved too. What an answer clears is log
65, when an invalidation is done log 66 (DEDUCED), which host accesses and answers come log 79 (DESIGN CHOICE). -/
def Sys2Proof.Claims.HostMemory : Prop :=
  (∀ (s : State) (off : Nat) (bs : List Byte), let a := s.apbase.toNat + off
    s.bootState = 1 → off + bs.length ≤ 2 ^ 34 → a + bs.length ≤ 2 ^ 48 → stackBusy s a = false →
    (bs ≠ [] → stackBusy s (a + bs.length - 1) = false) → (∀ i, i < bs.length → pageLost s ((a + i) / 65536) = false) →
    Happens .hostApertureRead (.hostApertureRead off bs.length) s (fun t =>
      t = { s with tick := t.tick, sent := s.sent ++ [.hostRead off (homeRead s a bs.length)] }) ∧
    Happens .hostApertureWrite (.hostApertureWrite off bs) s (fun t =>
      t = { s with mem := t.mem } ∧ homeRead t a bs.length = bs ∧
        ∀ b, b < a ∨ a + bs.length ≤ b → homeByte t b = homeByte s b)) ∧
  (∀ (s : State) (c : Nat),
    ((ctxOf s c).tlbGo = none → Happens .tlbInvalidate (.tlbInvalidate c) s fun t =>
      t = { s with contexts := t.contexts } ∧ ctxOf t c = { ctxOf s c with
        tlbGo := some ((ctxOf s c).tlbInva.toNat / 2 ^ 16 % 2 ^ 39, (ctxOf s c).tlbInva.toNat % 2 ^ 16) }) ∧
    (∀ first count, (ctxOf s c).tlbGo = some (first, count) →
      (Happens .tlbInvalidate (.tlbInvalidate c) s fun t => t = s) ∧
      (s.pending = [] → Happens .tlbInvalidateDone (.tlbInvalidateDone c) s fun t =>
        (ctxOf t c).tlbGo = none ∧ t.mem = s.mem ∧ t.bands = s.bands ∧
        ∀ id va, let named := count = 0 ∨ (first ≤ va / 65536 ∧ va / 65536 < first + count)
          (named → tlbFind t id c va = none) ∧
          (¬ named → (tlbFind t id c va).map (leafOfTlb · va) = (tlbFind s id c va).map (leafOfTlb · va)) ∧
          ∀ d, d ≠ c → tlbFind t id d va = tlbFind s id d va))) ∧
  (∀ (s : State) (c page : Nat) (refused : Bool),
    Happens (if refused then .pageAnswerRefused else .pageAnswerDone)
      (if refused then .pageAnswerRefused c page else .pageAnswerDone c page) s fun t =>
      t.mem = s.mem ∧ t.teams = s.teams ∧
      (∀ p, p ∈ (ctxOf t c).outstanding ↔ p ∈ (ctxOf s c).outstanding ∧ p ≠ page) ∧
      (∀ k b tm, bandOf s k = some b → teamOf s b.team = some tm → ∃ b', bandOf t k = some b' ∧
        (tm.ctx ≠ c → b' = b) ∧
        (tm.ctx = c → b' = { b with threads := b'.threads } ∧ ∀ l, threadOf b' l =
          if (threadOf b l).wait = .page page then { threadOf b l with wait := .answered } else threadOf b l)) ∧
      let answered := fun x : Command =>
        if x.ctx = c ∧ (∃ st, x.stall = some st ∧ st.vpage = page) then
          (if refused then { x with stall := none, aborted := true, ended := some (2, 0, x.desc.es * x.pos, 0) }
            else { x with stall := none })
        else x
      (∀ core ch, (coreChan t core ch).queue.length = (coreChan s core ch).queue.length ∧ ∀ (j : Nat) (x : Command), (coreChan s core ch).queue[j]? = some x →
        (coreChan t core ch).queue[j]? = some (answered x)) ∧
      ∀ (j k : Nat) (x : Command), (ctxOf s c).savedCmds[j]? = some (k, x) → (ctxOf t c).savedCmds[j]? = some (k, answered x))

/-- CONTEXT_CREATION (R279, R403, R434) and LAUNCH_ABORT (R406). What creation keeps of the block is log 5 (DESIGN
CHOICE), what an abort leaves to place log 58 (DEDUCED), how it comes log 68 (DESIGN CHOICE). -/
def Sys2Proof.Claims.ContextsAndAborts : Prop :=
  (∀ (s : State) (n : Nat) (tvec : DWord), n < 256 → let c := ctxOf s n
    Happens .contextCreation (.contextCreation n tvec) s fun t =>
      t = { s with contexts := t.contexts } ∧ (∀ m, m ≠ n → ctxOf t m = ctxOf s m) ∧
      ctxOf t n = { ptbase := c.ptbase, saveBase := c.saveBase, descBase := c.descBase, engBase := c.engBase, chainLen := c.chainLen
                    commBase := c.commBase, requests := c.requests, errors := c.errors, energyRing := c.energyRing
                    tlbInva := c.tlbInva, tlbGo := c.tlbGo, bandPc := c.bandPc, keys := [], descs := [], nextLseq := 1, recordSeq := 0
                    dbgctl := 0, tvec := tvec &&& 0x007FFFFFFFFFFFFD }) ∧
  (∀ (s : State) (ctx lseq : Nat) (l : Machine.Launch), let k := ctx * 2 ^ 64 + lseq
    aFind k s.launches = some l → l.retired = 0 →
    (l.next = 0 → Happens .launchAbort (.launchAbort ctx lseq) s fun t =>
      aFind k t.launches = none ∧ (∀ j, j ≠ k → aFind j t.launches = aFind j s.launches) ∧
      (streamOf t l.hinge l.stream).finished =
        ((l.lseq, if l.err then 3 else 2) :: (streamOf s l.hinge l.stream).finished).take 32 ∧
      ∀ h, counterOf t h 62 = if h = (if l.rcd.pkg then 0 else l.rcd.hinge) then counterOf s h 62 + 1 else counterOf s h 62) ∧
    (0 < l.next → l.rcd.groups = 0 → Happens .launchAbort (.launchAbort ctx lseq) s fun t =>
      t = { s with launches := t.launches } ∧ aFind k t.launches = some { l with aborted := true } ∧
      ∀ j, j ≠ k → aFind j t.launches = aFind j s.launches))

/-- PROMOTION_MOVE and PROMOTION_COUNTER_HALVE (R247): an enabled page goes near or away as its count asks, to a free
frame, and an unused page that had the frame takes its own; the counts at which it does are log 96, the frames log 25 (DESIGN CHOICE). What a cache may give up is log 45
(DEDUCED). BACKGROUND_WRITEBACK and BACKGROUND_DISCARD (R235, R270) of a line. -/
def Obligations.CachesAndPromotion : Prop :=
  (∀ (s : State) (h page home : Nat), h < 4 → home < 32 → (s.remap.map (·.1)).Nodup →
    let n := (aGet 0 page s.promo).toNat
    let may := promEnabled s h page = true ∧ pageLost s page = false ∧ homeBusy s (homeOfPage s page) = false ∧ homeBusy s home = false ∧
      (home < 16 → 16 ≤ homeOfPage s page ∧ Config.promoteFrom.toNat ≤ n) ∧
      (16 ≤ home → homeOfPage s page < 16 ∧ n ≤ Config.demoteTo.toNat)
    (¬ may → Happens .promotionMove (.promotionMove h page home) s fun t => t = s) ∧
    (may → Happens .promotionMove (.promotionMove h page home) s fun t => match (freeFrame s home).1 with
      | none => t = { s with tick := t.tick }
      | some f => placeOfPage t page = (home, f) ∧ f < framesOf s home ∧
        (∀ p, p ≠ page → placeOfPage t p = placeOfPage s p ∨
          (placeOfPage s p = (home, f) ∧ pageUnused s p = true ∧ placeOfPage t p = placeOfPage s page)) ∧ (∀ p, pageLost t p = pageLost s p) ∧
        (hingeOf t h).promotions = (hingeOf s h).promotions + 1 ∧
        (∀ k a, k < 4 → a / 65536 = page → copyAt t (.link k) a = none) ∧ (∀ a, a / 65536 ≠ page → homeByte t a = homeByte s a) ∧
        ((∀ k a c, k < 4 → a / 65536 = page → copyAt s (.link k) a = some c → c.dirty = false) → ∀ a, homeByte t a = homeByte s a) ∧
        t.bands = s.bands ∧ t.teams = s.teams ∧ t.cores = s.cores ∧ t.clusters = s.clusters)) ∧
  (∀ s : State, aSorted s.promo = true → let n := (s.now - s.bootTime) / 2 ^ 20
    (n ≤ s.halved → Happens .promotionCounterHalve .promotionCounterHalve s fun t => t = s) ∧
    (s.halved < n → Happens .promotionCounterHalve .promotionCounterHalve s fun t =>
      t = { s with promo := t.promo, halved := n } ∧ ∀ p, aGet 0 p t.promo = aGet 0 p s.promo >>> (n - s.halved))) ∧
  (∀ (s : State) (l : Level) (line : Nat) (discard : Bool), Happens .backgroundWriteback (.backgroundWriteback l line discard) s fun t =>
    (∀ a c, a / 128 = line / 128 → copyAt s l a = some c → c.dirty = true →
      (discard = true → ¬ Pinned s l a → copyAt t l a = none) ∧
      (discard = false ∨ Pinned s l a → copyAt t l a = some { value := c.value, dirty := false }) ∧
      (∀ m, levelBelow s a l = some m → copyAt t m a = some { value := c.value, dirty := true } ∧ homeByte t a = homeByte s a) ∧
      (levelBelow s a l = none → homeByte t a = c.value)) ∧
    (∀ a, a / 128 ≠ line / 128 → homeByte t a = homeByte s a ∧ ∀ m, copyAt t m a = copyAt s m a) ∧
    (∀ a c, copyAt s l a = some c → c.dirty = false → copyAt t l a = some c) ∧ t.bands = s.bands ∧ t.teams = s.teams) ∧
  (∀ (s : State) (l : Level) (a : Nat), aSorted (levelMap s l) = true →
    (¬ Pinned s l a → Happens .backgroundDiscard (.backgroundDiscard l a) s fun t =>
      (∀ b, b / 128 = a / 128 → copyAt t l b = (copyAt s l b).filter (·.dirty)) ∧
      (∀ m b, m ≠ l ∨ b / 128 ≠ a / 128 → copyAt t m b = copyAt s m b) ∧ ∀ b, homeByte t b = homeByte s b) ∧
    (Pinned s l a → Happens .backgroundDiscard (.backgroundDiscard l a) s fun t => t = s))

/-- STACK_CRITICAL_TEMPERATURE and FLUSH_WINDOW_END (R478, R479), DIE_THROTTLE and DIE_TEMPERATURE_FALL (R484),
ATTESTATION_REQUEST and ATTESTATION_REPORT_READY (R482). That a window does not end before what has issued on its stack is
performed is log 46 (DEDUCED). The CYCLE of a hinge record is log 32, the values of the hash and the signature log
28, when the events happen log 80 (DESIGN CHOICE); MSI-X is log 8 (PRESUMED). -/
def Obligations.HeatAndAttestation : Prop :=
  (∀ (s : State) (n : Nat), n < 16 →
    ((stackAt s n).state = 0 → Happens .stackCriticalTemperature (.stackCriticalTemperature n) s fun t =>
      stackAt t n = { state := 1, windowEnd := s.now + 68000 } ∧ HingeRecorded s t (n / 4) 3 n 0 0) ∧
    ((stackAt s n).state = 1 → s.now < (stackAt s n).windowEnd → Happens .flushWindowEnd (.flushWindowEnd n) s fun t => t = s) ∧
    ((stackAt s n).state = 1 → (∃ o ∈ s.pending, opOnStack s n o = true) →
      Happens .flushWindowEnd (.flushWindowEnd n) s fun t => t = s) ∧
    ((stackAt s n).state = 1 → (stackAt s n).windowEnd ≤ s.now → (∀ o ∈ s.pending, opOnStack s n o = false) → AllClean s →
      s.warmWanted = none → Happens .flushWindowEnd (.flushWindowEnd n) s fun t =>
        stackAt t n = { state := 2, windowEnd := 0 } ∧ t.remap = s.remap ∧ HingeRecorded s t (n / 4) 4 n 0 0)) ∧
  (∀ (s : State) (d : Nat),
    Happens .dieThrottle (.dieThrottle d) s (fun t => t = { s with hot := t.hot } ∧ d ∈ t.hot ∧ (∀ x ∈ s.hot, x ∈ t.hot) ∧
      ∀ core slot lanes, core / 120 = d / 2 → groupReady t core slot lanes = false) ∧
    Happens .dieTemperatureFall (.dieTemperatureFall d) s (fun t =>
      t = { s with hot := t.hot } ∧ ∀ x, x ∈ t.hot ↔ x ∈ s.hot ∧ x ≠ d)) ∧
  (∀ s : State,
    (s.attGo = false → Happens .attestationRequest .attestationRequest s fun t => t = { s with attGo := true }) ∧
    (s.attGo = true → (Happens .attestationRequest .attestationRequest s fun t => t = s) ∧
      Happens .attestationReportReady .attestationReportReady s fun t =>
        t = { s with attGo := false, attRep := t.attRep } ∧ t.attRep.length = 3437 ∧ leNat (t.attRep.take 32) = s.attNonce.toNat ∧
        leNat ((t.attRep.drop 32).take 64) = s.mchain.toNat ∧ leNat ((t.attRep.drop 96).take 8) = (capsValue s).toNat ∧
        leNat ((t.attRep.drop 104).take 16) = Config.serial.toNat ∧ leNat ((t.attRep.drop 120).take 8) = s.bootCount % 2 ^ 64))

/-- COLD_RESET (R24, R475, R480, R481) and WARM_RESET (R23, R476) of a package whose caches and windows hold nothing dirty; and the
stages that run and are measured: those before the first that a check fails, whose error ends the boot (R480). What the cold reset does
with device memory, which R475 leaves unspecified, what a stage holds, and CYCLE right after the reset, are the model's choices (logs 4,
7, 32, 85). -/
def Obligations.Resets : Prop :=
  (∀ (b : Boot), b.stages ≠ [] → ∃ n, n ≤ b.stages.length ∧ (bootResult b).1 = (b.stages.take n).map (·.image) ∧
    (∀ i x, i < n → b.stages[i]? = some x → stageCheck b i x = 0) ∧
    (∀ x, b.stages[n]? = some x → stageCheck b n x ≠ 0 ∧ (bootResult b).2 = stageCheck b n x) ∧
    (n = b.stages.length → (bootResult b).2 = if b.trained then 0 else 5)) ∧
  (∀ (s : State) (b : Boot), Happens .coldReset (.coldReset b) s fun t =>
    FreshlyBooted t b b.repair ∧ t.trigcnt = 1 ∧ (∀ a, clockOf t a = 0) ∧ t.links = b.links ∧
    t.profileN = b.profileN ∧ t.stepping = b.stepping ∧
    ∀ n, n < 480 → (coreOf t n).energy = 0 ∧ (coreOf t n).kdecl = if fusedHalf b.repair n then 1 else 0) ∧
  (∀ (s : State) (b : Boot), AllClean s → s.seen = [] → (∀ h ∈ s.hinges, ∀ k ∈ h.2.memStacks, k.2.state ≠ 1) →
    Happens .warmReset (.warmReset b) s fun t =>
      FreshlyBooted t b s.repair ∧ t.trigcnt = s.trigcnt ∧ t.remap = s.remap ∧ t.bootCount = s.bootCount + 1 ∧
      (∀ a, homeByte t a = homeByte s a) ∧
      ∀ n, n < 480 → (coreOf t n).kdecl = (coreOf s n).kdecl ∧ (coreOf t n).energy = (coreOf s n).energy)

/-- Words written out from the encodings of 02 to 16, and what they decode to; OP 0xE8 to 0xEC on a core and an unassigned OP are
rejected by name (R59). -/
def Obligations.KnownWords : Prop :=
  decodeWords false false [wordC 0x10 15 1 2 3] = .ok (plainly (.saddC { d := 1, a := 2, b := 3 })) ∧
  decodeWords false false [0x0E0004A2, 0x00000605, 0x00000C08] =
    .ok { guard := { p := 1, neg := false }, instr := .sbfx { ty := .n64, d := 5, a := 6, fld := .imm 8 12 } } ∧
  decodeWords false false [0x0C207D88] = .ok (plainly (.vfmulC { d := 1, a := 2, b := 3 })) ∧
  decodeWords false false [0x00010C26, 0, 0x2C] =
    .ok { guard := { p := 3, neg := false }, instr := .brk { n := 2, off := 0x2C } } ∧
  decodeWords true false [0x00013FAA, 0, 3] = .ok (plainly (.lsigHost { vec := 3 })) ∧
  decodeWords false false [wordC 0x0F 15 0 0 0] = .error .illegal ∧
  decodeWords false false [0x00013FAA, 0, 3] = .error .privilege ∧
  decodeWords true false [0x0C207D88] = .error .illegal

/-- Decoding the words of a well-formed instruction gives it back, guard and every operand, on each kind of processor and each
profile that has the instruction (R42-R59). -/
def Obligations.DecodeOfEncode : Prop :=
  ∀ (stream profileN : Bool) (d : Decoded), d.wellFormed stream = true →
    (∀ ws, encode d = some ws → RunsOn stream ws) → (profileN = true → namesF64 d.instr = false) →
    ∃ ws, encode d = some ws ∧ ws.length * 4 = instrLength (ws.headD 0) ∧ decodeWords stream profileN ws = .ok d ∧
      decode stream profileN (wordsToBytes ws) = .ok d

/-- The same of the two-operand scalar instructions, compact and full, for every guard and every operand that the encoding
admits (R43-R47, R54, R107). -/
def Obligations.ScalarEncoding : Prop :=
  ∀ (stream profileN : Bool) (g : Guard),
    (∀ p ∈ scalarCompact, ∀ o, guardFits g (p.1 o) = true →
      ∃ w, encode { guard := g, instr := p.1 o } = some [w] ∧
        decodeWords stream profileN [w] = .ok { guard := g, instr := p.1 o }) ∧
    (∀ p ∈ scalarFull, ∀ o, okSOp2 o = true → guardFits g (p.1 o) = true →
      ∃ ws, encode { guard := g, instr := p.1 o } = some ws ∧ ws.length = 3 ∧
        decodeWords stream profileN ws = .ok { guard := g, instr := p.1 o })

/-- The bytes of an instruction (R42, R58, R83): as many as the length that the first word gives, from the code at the translated
address; past the virtual space, or where translation or permission fails, the fault names the first word. -/
def Obligations.InstructionBytes : Prop :=
  ∀ (s : State) (id ctx addr : Nat) (code : AList Byte),
    (∀ w bs t, fetchInstr s id ctx code addr = (.ok (w, bs), t) → bs.length = instrLength w) ∧
    (Config.vaLimit < addr + 4 → fetchInstr s id ctx code addr = (.error (some { cause := cAddress, addr := addr }), s)) ∧
    (∀ e t, addr + 4 ≤ Config.vaLimit → access s id ctx addr .fetch = (.error e, t) →
      (fetchInstr s id ctx code addr).1 = .error (some { e with addr := addr })) ∧
    ∀ a t u, let w := leNat (readBytes 0 code a 4)
      addr % 65536 + instrLength w ≤ 65536 → addr + instrLength w ≤ Config.vaLimit →
      access s id ctx addr .fetch = (.ok (.bytes a), t) → access t id ctx addr .fetch = (.ok (.bytes a), u) →
      fetchInstr s id ctx code addr = (.ok (w, readBytes 0 code a (instrLength w)), u)

/-- A step runs the decoded instruction: a group's, from the code of its team, whose lines it reads through the caches (R232), with what
the issue and the end of an instruction add around it (R192, R217, R414, R426, R443); that of the lowest-numbered ready stream after the
last (R39); and an event, but an Engine trap in whose place
its thread takes a precise fault (R425). The agenda, and the home bytes that a stream fetches at each issue, are the
model's choices (logs 1 and 23), as are the passing of time (log 10), the instruction cache (log 112) and groups that are never merged (log 12). -/
def Obligations.StepRunsDecoded : Prop :=
  (∀ (s s1 : State) (core slot lane w : Nat) (rest : List Move) (b : Band) (tm : Team) (bs : List Byte) (d : Decoded),
    s.agenda = .issue core slot lane :: rest → GroupGoes { s with agenda := rest } core slot lane b tm d →
    fetchInstr { s with agenda := rest } (clusterOfCore core) tm.ctx tm.code (threadOf b lane).pc.toNat = (.ok (w, bs), s1) →
    decode false s1.profileN bs = .ok d →
      let lanes := candidateOf b lane
      let live := guarded b d lanes
      let fresh := lanes.all fun i => !issuedWait (threadOf b i).wait
      let pc := (threadOf b lane).pc
      let passed := passFetch s1 core tm.ctx pc.toNat bs.length
      let begun := eccCorrect (beginIssue passed core slot lanes fresh) core (bandKey core slot) live d.instr
      step s = thenState (exec d.instr { begun with cur := .band core slot lanes pc bs.length w d.guard }) fun t =>
        tickOver (afterIssue (takeEarly t (bandKey core slot)) b core slot lanes live pc bs.length fresh d.instr)) ∧
  (∀ (s s1 : State) (h n w : Nat) (rest : List Move) (bs : List Byte) (d : Decoded),
    let x := streamOf { s with agenda := rest } h n
    let last := (hingeOf s h).lastStream
    s.agenda = .issueStream h n :: rest → n < 16 → (x.state = 1 ∨ x.state = 2) →
    (∀ j, j < (n + 15 - last % 16) % 16 → streamReady { s with agenda := rest } h ((last + 1 + j) % 16) = false) →
    fetchInstr { s with agenda := rest } (60 + h) x.ctx.toNat s.mem x.pc.toNat = (.ok (w, bs), s1) →
    decode true s1.profileN bs = .ok d → (guardTrue d.guard x.preds = true →
      streamFree { s with agenda := rest } (streamIssuer h n) d.instr = true) →
      let begun := setHinge s1 h { hingeOf s1 h with lastStream := n }
      step s = thenState (exec d.instr { begun with
        faulted := 0, seen := [], seq := s1.seq + 1, cur := .stream h n x.pc bs.length w d.guard }) fun t => tickOver (matchSeen t)) ∧
  (∀ (s : State) (e : Event) (rest : List Move), s.agenda = .event e :: rest →
    ((∀ core slot, e ≠ .engineTrapTake core slot) ∨ preciseFirst { s with agenda := rest } e = none) →
    step s = thenState (exec e.row { s with agenda := rest, cur := .event e, faulted := 0, early := [], seen := [] }) fun t =>
      tickOver (settleStops (matchSeen t)))

/-- Every step of the device that is no instruction happens: its row's meaning answers a next state. -/
def Sys2Proof.Claims.EventsComplete : Prop :=
  ∀ (s : State) (e : Event), s.cur = .event e → ∃ t, exec e.row s = .next t

/-- With nothing on the agenda a step is one of the machine's own moves, one that changes something if there is one (R7). -/
def Sys2Proof.Claims.OwnMove : Prop :=
  ∀ (s : State), s.agenda = [] →
    (∃ m ∈ ownMoves s, moveActs s m = true ∧ ∃ k, step s = thenState (runMove { s with tick := k } m) tickOver) ∨
      ((∀ m ∈ ownMoves s, moveActs s m = false) ∧ step s = .next (tickOver s))

/-- The machine's own moves (R7), and every step that no instruction makes. What the machine does of its own accord is log 79. -/
def Obligations.OwnMoves : Prop := Sys2Proof.Claims.OwnMove ∧ Sys2Proof.Claims.EventsComplete

/-- The state right after reset (R397, R471-R473, R475): memory lists nothing, no context, team, launch or band exists, every
register with a stated reset value holds it. -/
def Obligations.ResetState : Prop :=
  let s := State.reset
  Memory.wf s.mem = true ∧ s.mem = [] ∧ s.contexts = [] ∧ s.teams = [] ∧ s.bands = [] ∧ s.launches = [] ∧ s.pending = [] ∧
    s.apbase = 0 ∧ s.plimit = 2400 ∧ s.trigcnt = 1 ∧ s.bootState = 0 ∧ s.bootError = 0 ∧ s.bootStages = 0 ∧ s.mchain = 0 ∧
    s.attNonce = 0 ∧ s.attGo = false ∧ s.attRep = [] ∧ s.pba = 0 ∧
    (∀ h n, let x := streamOf s h n
      x.enable = false ∧ x.priv = false ∧ x.ctx = 0 ∧ x.chbase = 0 ∧ x.chlog2 = 2 ∧ x.tail = 0 ∧ x.head = 0 ∧ x.doneaddr = 0 ∧
        x.cause = 0 ∧ x.state = 0) ∧
    (∀ h, (hingeOf s h).heVec = 0 ∧ (hingeOf s h).heEn = false ∧ (hingeOf s h).prom = [] ∧ ∀ e, counterOf s h e = 0) ∧
    ∀ n, (coreOf s n).sampEn = false ∧ (coreOf s n).sampSp = 0 ∧ (coreOf s n).sampMp = 0

/-- Every step keeps the memory in its canonical form, so that equal memories are equal data; this form is the model's own. -/
def Obligations.MemoryStaysCanonical : Prop :=
  ∀ (s t : State), Memory.wf s.mem = true → Steps s t → Memory.wf t.mem = true

/-- The scalar class on a band (R98, R108-R119): what each instruction writes, once for the group; nothing else changes. -/
def Obligations.ScalarOnBand : Prop :=
  Sys2Proof.Claims.ScalarAluOnBand ∧ Sys2Proof.Claims.ScalarOtherOnBand ∧ Sys2Proof.Claims.ScalarFromLane

/-- The vector integer class (R121-R133): what each thread with a true guard writes; nothing else changes. -/
def Obligations.VectorIntegers : Prop :=
  Sys2Proof.Claims.VectorAlu ∧ Sys2Proof.Claims.VectorOther ∧ Sys2Proof.Claims.VectorCompare

/-- The vector float class (R137-R163): results, conditions and rounding state. -/
def Obligations.FloatInstructions : Prop :=
  Sys2Proof.Claims.FloatArithmetic ∧ Sys2Proof.Claims.FloatUnary ∧ Sys2Proof.Claims.FloatTernary ∧ Sys2Proof.Claims.FloatSelect

/-- The elements that the float instructions compute: special operands (R141, R151), finite results rounded once with their conditions
(R86, R140), exact values kept, and comparisons, minima, classes and integral values (R153-R161). -/
def Obligations.FloatValues : Prop :=
  Sys2Proof.Claims.FloatSpecialOperands ∧ Sys2Proof.Claims.FloatFiniteResults ∧ Sys2Proof.Claims.RoundingKeepsExactValues ∧
    Sys2Proof.Claims.FloatComparisons

/-- The cross-lane and predicate instructions without a reduction (R169-R181). -/
def Obligations.LaneOperations : Prop :=
  Sys2Proof.Claims.LaneMoves ∧ Sys2Proof.Claims.LaneSets ∧ Sys2Proof.Claims.Predicates

/-- The issue of VRED at each scope, and the contribution that closes a round (R184-R187). -/
def Obligations.Reductions : Prop :=
  Sys2Proof.Claims.ReduceInBand ∧ Sys2Proof.Claims.ReduceInTeam ∧ Sys2Proof.Claims.ReduceInCluster ∧
    Sys2Proof.Claims.ReductionCloses

/-- The completion of VRED (R187) and SRDW (R190). -/
def Obligations.ReductionResults : Prop :=
  Sys2Proof.Claims.ReductionCompletes ∧ Sys2Proof.Claims.ReductionRead

/-- NOP and YIELD (R196, R213), jumps, calls and returns on a core and on a stream (R198, R200, R201). -/
def Obligations.Jumps : Prop :=
  Sys2Proof.Claims.NopAndYield ∧ Sys2Proof.Claims.JumpsOnCore ∧ Sys2Proof.Claims.JumpsOnStream

/-- BRD, SWCH, BRK, JOIN and EXIT with the split stack in hardware (R205-R212). -/
def Obligations.SplitStack : Prop :=
  Sys2Proof.Claims.SplitPush ∧ Sys2Proof.Claims.BreakAndExit ∧ Sys2Proof.Claims.Joins

/-- Hardware loops (R216, R217). -/
def Obligations.Loops : Prop :=
  Sys2Proof.Claims.LoopStart ∧ Sys2Proof.Claims.LoopEnd

/-- What the memory, atomic, fence and cache instructions leave at their issue: the operations they start (R255-R298). -/
def Obligations.MemoryIssue : Prop :=
  Sys2Proof.Claims.VectorMemory ∧ Sys2Proof.Claims.ScalarMemory ∧ Sys2Proof.Claims.AtomicIssue ∧ Sys2Proof.Claims.FenceAndCacheIssue

/-- When an operation that has issued may be performed (R271), and what it does then (R269). -/
def Obligations.MemoryPerformed : Prop :=
  Sys2Proof.Claims.StoreThenLoad ∧ Sys2Proof.Claims.OperationOrder ∧ Sys2Proof.Claims.OperationPerformed ∧
    Sys2Proof.Claims.LoadPerformed ∧ Sys2Proof.Claims.LanesLoadTogether ∧ Sys2Proof.Claims.StorePerformed ∧
    Sys2Proof.Claims.AtomicPerformed ∧ Sys2Proof.Claims.FencePerformed ∧ Sys2Proof.Claims.PostPerformed

/-- PIN, UNPIN, DISCARD and PGREQ (R259-R262). -/
def Obligations.PageInstructions : Prop :=
  Sys2Proof.Claims.PinAndUnpin ∧ Sys2Proof.Claims.DiscardPage ∧ Sys2Proof.Claims.PageRequest

/-- MAPW, MAPC and MAPF (R263, R264). -/
def Obligations.StashWindows : Prop :=
  Sys2Proof.Claims.MapSlots ∧ Sys2Proof.Claims.WriteBackWindow

/-- KBIND, KFREE, KACQ and KREL (R281, R283). -/
def Obligations.RegionKeys : Prop :=
  Sys2Proof.Claims.BindKeys ∧ Sys2Proof.Claims.KeyOrder ∧ Sys2Proof.Claims.KeyReleaseWaits ∧ Sys2Proof.Claims.KeyReleased

/-- Stash latches (R287) and tumblers (R299-R303). -/
def Obligations.LatchesAndTumblers : Prop :=
  Sys2Proof.Claims.Latches ∧ Sys2Proof.Claims.LatchGiven ∧ Sys2Proof.Claims.Tumblers ∧ Sys2Proof.Claims.TumblerArrival

/-- TZERO, TFILL, TIDENT and SCLD (R324, R332). -/
def Obligations.TileClasses : Prop :=
  Sys2Proof.Claims.KnownTiles ∧ Sys2Proof.Claims.StashIdentityAndScales

/-- TLD, TST, TMOVV, TMOVT and TCLS (R308, R326-R330). -/
def Obligations.TileTraffic : Prop :=
  Sys2Proof.Claims.TileLoadStore ∧ Sys2Proof.Claims.TileMoves

/-- TACC, TSCL, TCVT and TTOPK (R334, R336). -/
def Obligations.TileResults : Prop :=
  Sys2Proof.Claims.TileArithmetic ∧ Sys2Proof.Claims.TopValues

/-- MMA and MMAS (R320-R322). -/
def Obligations.MatrixProducts : Prop :=
  Sys2Proof.Claims.MatrixMultiply ∧ Sys2Proof.Claims.SparseMultiply

/-- TDSET, TDGET and TDINV (R361, R369), VREMAP, CWAIT, CSEQ, CQRY and EMSTAT (R376, R377, R395). -/
def Obligations.DescriptorsAndChannels : Prop :=
  Sys2Proof.Claims.DescriptorTable ∧ Sys2Proof.Claims.ChannelState

/-- LWAIT, LSIG, LEVW (R406, R408) and the end of a stream's entry (R399). -/
def Obligations.LaunchSupport : Prop :=
  Sys2Proof.Claims.LaunchWaitsAndEvents ∧ Sys2Proof.Claims.StreamEnds

/-- MFS and MTS for every special register (R432-R435). -/
def Obligations.SpecialRegisters : Prop :=
  Sys2Proof.Claims.SpecialReads ∧ Sys2Proof.Claims.SpecialWrites

/-- Engine traps (R425), breakpoints, stop arrivals and the driver's halt (R442-R448). -/
def Obligations.EngineTrapsAndStops : Prop :=
  Sys2Proof.Claims.EngineTraps ∧ Sys2Proof.Claims.Stops

/-- Snapshots and samples (R454-R456) and the scheduler's pick (R414). -/
def Obligations.SamplesAndScheduling : Prop :=
  Sys2Proof.Claims.SnapshotsAndSamples ∧ Sys2Proof.Claims.SchedulerPicks

/-- Host accesses to memory, TLB invalidation and page answers (R464-R469), contexts and aborts (R403, R406). -/
def Obligations.HostAndContexts : Prop :=
  Sys2Proof.Claims.HostMemory ∧ Sys2Proof.Claims.ContextsAndAborts
end

