-- ==== Sys2Proof/Laws/Dispatch.lean ====
section
/-! SUPPORT. Each instruction's meaning, as `exec` finds it. -/

namespace Sys2Proof.Machine

section
variable (s : State)
@[simp] theorem exec_bra (o : Sys2Proof.Bra) : exec (.bra o) s = execBra o s := rfl
@[simp] theorem exec_brx (o : Sys2Proof.Brx) : exec (.brx o) s = execBrx o s := rfl
@[simp] theorem exec_call (o : Sys2Proof.Call) : exec (.call o) s = execCall o s := rfl
@[simp] theorem exec_callx (o : Sys2Proof.Callx) : exec (.callx o) s = execCallx o s := rfl
@[simp] theorem exec_retC (o : Sys2Proof.CRet) : exec (.retC o) s = execRetC o s := rfl
@[simp] theorem exec_brd (o : Sys2Proof.Brd) : exec (.brd o) s = execBrd o s := rfl
@[simp] theorem exec_brk (o : Sys2Proof.Brk) : exec (.brk o) s = execBrk o s := rfl
@[simp] theorem exec_swch (o : Sys2Proof.Swch) : exec (.swch o) s = execSwch o s := rfl
@[simp] theorem exec_loop (o : Sys2Proof.Loop) : exec (.loop o) s = execLoop o s := rfl
@[simp] theorem exec_saddC (o : Sys2Proof.C3) : exec (.saddC o) s = execSaddC o s := rfl
@[simp] theorem exec_sadd (o : Sys2Proof.SOp2) : exec (.sadd o) s = execSadd o s := rfl
@[simp] theorem exec_ssubC (o : Sys2Proof.C3) : exec (.ssubC o) s = execSsubC o s := rfl
@[simp] theorem exec_ssub (o : Sys2Proof.SOp2) : exec (.ssub o) s = execSsub o s := rfl
@[simp] theorem exec_smulC (o : Sys2Proof.C3) : exec (.smulC o) s = execSmulC o s := rfl
@[simp] theorem exec_smul (o : Sys2Proof.SOp2) : exec (.smul o) s = execSmul o s := rfl
@[simp] theorem exec_smulhC (o : Sys2Proof.C3) : exec (.smulhC o) s = execSmulhC o s := rfl
@[simp] theorem exec_smulh (o : Sys2Proof.SOp2) : exec (.smulh o) s = execSmulh o s := rfl
@[simp] theorem exec_sdivC (o : Sys2Proof.C3) : exec (.sdivC o) s = execSdivC o s := rfl
@[simp] theorem exec_sdiv (o : Sys2Proof.SOp2) : exec (.sdiv o) s = execSdiv o s := rfl
@[simp] theorem exec_sremC (o : Sys2Proof.C3) : exec (.sremC o) s = execSremC o s := rfl
@[simp] theorem exec_srem (o : Sys2Proof.SOp2) : exec (.srem o) s = execSrem o s := rfl
@[simp] theorem exec_sandC (o : Sys2Proof.C3) : exec (.sandC o) s = execSandC o s := rfl
@[simp] theorem exec_sand (o : Sys2Proof.SOp2) : exec (.sand o) s = execSand o s := rfl
@[simp] theorem exec_sorC (o : Sys2Proof.C3) : exec (.sorC o) s = execSorC o s := rfl
@[simp] theorem exec_sor (o : Sys2Proof.SOp2) : exec (.sor o) s = execSor o s := rfl
@[simp] theorem exec_sxorC (o : Sys2Proof.C3) : exec (.sxorC o) s = execSxorC o s := rfl
@[simp] theorem exec_sxor (o : Sys2Proof.SOp2) : exec (.sxor o) s = execSxor o s := rfl
@[simp] theorem exec_sandnC (o : Sys2Proof.C3) : exec (.sandnC o) s = execSandnC o s := rfl
@[simp] theorem exec_sandn (o : Sys2Proof.SOp2) : exec (.sandn o) s = execSandn o s := rfl
@[simp] theorem exec_sshlC (o : Sys2Proof.C3) : exec (.sshlC o) s = execSshlC o s := rfl
@[simp] theorem exec_sshl (o : Sys2Proof.SOp2) : exec (.sshl o) s = execSshl o s := rfl
@[simp] theorem exec_sshrC (o : Sys2Proof.C3) : exec (.sshrC o) s = execSshrC o s := rfl
@[simp] theorem exec_sshr (o : Sys2Proof.SOp2) : exec (.sshr o) s = execSshr o s := rfl
@[simp] theorem exec_ssarC (o : Sys2Proof.C3) : exec (.ssarC o) s = execSsarC o s := rfl
@[simp] theorem exec_ssar (o : Sys2Proof.SOp2) : exec (.ssar o) s = execSsar o s := rfl
@[simp] theorem exec_srotC (o : Sys2Proof.C3) : exec (.srotC o) s = execSrotC o s := rfl
@[simp] theorem exec_srot (o : Sys2Proof.SOp2) : exec (.srot o) s = execSrot o s := rfl
@[simp] theorem exec_sminC (o : Sys2Proof.C3) : exec (.sminC o) s = execSminC o s := rfl
@[simp] theorem exec_smin (o : Sys2Proof.SOp2) : exec (.smin o) s = execSmin o s := rfl
@[simp] theorem exec_smaxC (o : Sys2Proof.C3) : exec (.smaxC o) s = execSmaxC o s := rfl
@[simp] theorem exec_smax (o : Sys2Proof.SOp2) : exec (.smax o) s = execSmax o s := rfl
@[simp] theorem exec_scmp (o : Sys2Proof.SCmp) : exec (.scmp o) s = execScmp o s := rfl
@[simp] theorem exec_ssel (o : Sys2Proof.SSel) : exec (.ssel o) s = execSsel o s := rfl
@[simp] theorem exec_smovC (o : Sys2Proof.C2) : exec (.smovC o) s = execSmovC o s := rfl
@[simp] theorem exec_smov (o : Sys2Proof.SOp1) : exec (.smov o) s = execSmov o s := rfl
@[simp] theorem exec_sli (o : Sys2Proof.SLi) : exec (.sli o) s = execSli o s := rfl
@[simp] theorem exec_slea (o : Sys2Proof.SLea) : exec (.slea o) s = execSlea o s := rfl
@[simp] theorem exec_spopcC (o : Sys2Proof.C2) : exec (.spopcC o) s = execSpopcC o s := rfl
@[simp] theorem exec_spopc (o : Sys2Proof.SOp1) : exec (.spopc o) s = execSpopc o s := rfl
@[simp] theorem exec_sclzC (o : Sys2Proof.C2) : exec (.sclzC o) s = execSclzC o s := rfl
@[simp] theorem exec_sclz (o : Sys2Proof.SOp1) : exec (.sclz o) s = execSclz o s := rfl
@[simp] theorem exec_sctzC (o : Sys2Proof.C2) : exec (.sctzC o) s = execSctzC o s := rfl
@[simp] theorem exec_sctz (o : Sys2Proof.SOp1) : exec (.sctz o) s = execSctz o s := rfl
@[simp] theorem exec_sbfx (o : Sys2Proof.SBf) : exec (.sbfx o) s = execSbfx o s := rfl
@[simp] theorem exec_sbfi (o : Sys2Proof.SBf) : exec (.sbfi o) s = execSbfi o s := rfl
@[simp] theorem exec_smovv (o : Sys2Proof.SMovv) : exec (.smovv o) s = execSmovv o s := rfl
@[simp] theorem exec_vaddC (o : Sys2Proof.C3) : exec (.vaddC o) s = execVaddC o s := rfl
@[simp] theorem exec_vadd (o : Sys2Proof.VOp2) : exec (.vadd o) s = execVadd o s := rfl
@[simp] theorem exec_vsubC (o : Sys2Proof.C3) : exec (.vsubC o) s = execVsubC o s := rfl
@[simp] theorem exec_vsub (o : Sys2Proof.VOp2) : exec (.vsub o) s = execVsub o s := rfl
@[simp] theorem exec_vmulC (o : Sys2Proof.C3) : exec (.vmulC o) s = execVmulC o s := rfl
@[simp] theorem exec_vmul (o : Sys2Proof.VOp2) : exec (.vmul o) s = execVmul o s := rfl
@[simp] theorem exec_vmulhC (o : Sys2Proof.C3) : exec (.vmulhC o) s = execVmulhC o s := rfl
@[simp] theorem exec_vmulh (o : Sys2Proof.VOp2) : exec (.vmulh o) s = execVmulh o s := rfl
@[simp] theorem exec_vmad (o : Sys2Proof.VOp3) : exec (.vmad o) s = execVmad o s := rfl
@[simp] theorem exec_vmadw (o : Sys2Proof.VOp3) : exec (.vmadw o) s = execVmadw o s := rfl
@[simp] theorem exec_vandC (o : Sys2Proof.C3) : exec (.vandC o) s = execVandC o s := rfl
@[simp] theorem exec_vand (o : Sys2Proof.VOp2) : exec (.vand o) s = execVand o s := rfl
@[simp] theorem exec_vorC (o : Sys2Proof.C3) : exec (.vorC o) s = execVorC o s := rfl
@[simp] theorem exec_vor (o : Sys2Proof.VOp2) : exec (.vor o) s = execVor o s := rfl
@[simp] theorem exec_vxorC (o : Sys2Proof.C3) : exec (.vxorC o) s = execVxorC o s := rfl
@[simp] theorem exec_vxor (o : Sys2Proof.VOp2) : exec (.vxor o) s = execVxor o s := rfl
@[simp] theorem exec_vandnC (o : Sys2Proof.C3) : exec (.vandnC o) s = execVandnC o s := rfl
@[simp] theorem exec_vandn (o : Sys2Proof.VOp2) : exec (.vandn o) s = execVandn o s := rfl
@[simp] theorem exec_vshlC (o : Sys2Proof.C3) : exec (.vshlC o) s = execVshlC o s := rfl
@[simp] theorem exec_vshl (o : Sys2Proof.VOp2) : exec (.vshl o) s = execVshl o s := rfl
@[simp] theorem exec_vshrC (o : Sys2Proof.C3) : exec (.vshrC o) s = execVshrC o s := rfl
@[simp] theorem exec_vshr (o : Sys2Proof.VOp2) : exec (.vshr o) s = execVshr o s := rfl
@[simp] theorem exec_vsarC (o : Sys2Proof.C3) : exec (.vsarC o) s = execVsarC o s := rfl
@[simp] theorem exec_vsar (o : Sys2Proof.VOp2) : exec (.vsar o) s = execVsar o s := rfl
@[simp] theorem exec_vminC (o : Sys2Proof.C3) : exec (.vminC o) s = execVminC o s := rfl
@[simp] theorem exec_vmin (o : Sys2Proof.VOp2) : exec (.vmin o) s = execVmin o s := rfl
@[simp] theorem exec_vmaxC (o : Sys2Proof.C3) : exec (.vmaxC o) s = execVmaxC o s := rfl
@[simp] theorem exec_vmax (o : Sys2Proof.VOp2) : exec (.vmax o) s = execVmax o s := rfl
@[simp] theorem exec_vabsC (o : Sys2Proof.C2) : exec (.vabsC o) s = execVabsC o s := rfl
@[simp] theorem exec_vabs (o : Sys2Proof.VOp1) : exec (.vabs o) s = execVabs o s := rfl
@[simp] theorem exec_vaddsC (o : Sys2Proof.C3) : exec (.vaddsC o) s = execVaddsC o s := rfl
@[simp] theorem exec_vadds (o : Sys2Proof.VOp2) : exec (.vadds o) s = execVadds o s := rfl
@[simp] theorem exec_vsubsC (o : Sys2Proof.C3) : exec (.vsubsC o) s = execVsubsC o s := rfl
@[simp] theorem exec_vsubs (o : Sys2Proof.VOp2) : exec (.vsubs o) s = execVsubs o s := rfl
@[simp] theorem exec_vcmp (o : Sys2Proof.VCmp) : exec (.vcmp o) s = execVcmp o s := rfl
@[simp] theorem exec_vsel (o : Sys2Proof.VSel) : exec (.vsel o) s = execVsel o s := rfl
@[simp] theorem exec_vpopcC (o : Sys2Proof.C2) : exec (.vpopcC o) s = execVpopcC o s := rfl
@[simp] theorem exec_vpopc (o : Sys2Proof.VOp1) : exec (.vpopc o) s = execVpopc o s := rfl
@[simp] theorem exec_vclzC (o : Sys2Proof.C2) : exec (.vclzC o) s = execVclzC o s := rfl
@[simp] theorem exec_vclz (o : Sys2Proof.VOp1) : exec (.vclz o) s = execVclz o s := rfl
@[simp] theorem exec_vbfx (o : Sys2Proof.VBf) : exec (.vbfx o) s = execVbfx o s := rfl
@[simp] theorem exec_vbfi (o : Sys2Proof.VBf) : exec (.vbfi o) s = execVbfi o s := rfl
@[simp] theorem exec_vdot4 (o : Sys2Proof.VDot) : exec (.vdot4 o) s = execVdot4 o s := rfl
@[simp] theorem exec_vmovsC (o : Sys2Proof.C2) : exec (.vmovsC o) s = execVmovsC o s := rfl
@[simp] theorem exec_vmovs (o : Sys2Proof.VMovs) : exec (.vmovs o) s = execVmovs o s := rfl
@[simp] theorem exec_vli (o : Sys2Proof.VLi) : exec (.vli o) s = execVli o s := rfl
@[simp] theorem exec_vidxC (o : Sys2Proof.C1) : exec (.vidxC o) s = execVidxC o s := rfl
@[simp] theorem exec_vidx (o : Sys2Proof.VIdx) : exec (.vidx o) s = execVidx o s := rfl
@[simp] theorem exec_vfaddC (o : Sys2Proof.C3) : exec (.vfaddC o) s = execVfaddC o s := rfl
@[simp] theorem exec_vfadd (o : Sys2Proof.FOp2) : exec (.vfadd o) s = execVfadd o s := rfl
@[simp] theorem exec_vfsubC (o : Sys2Proof.C3) : exec (.vfsubC o) s = execVfsubC o s := rfl
@[simp] theorem exec_vfsub (o : Sys2Proof.FOp2) : exec (.vfsub o) s = execVfsub o s := rfl
@[simp] theorem exec_vfmulC (o : Sys2Proof.C3) : exec (.vfmulC o) s = execVfmulC o s := rfl
@[simp] theorem exec_vfmul (o : Sys2Proof.FOp2) : exec (.vfmul o) s = execVfmul o s := rfl
@[simp] theorem exec_vfma (o : Sys2Proof.FMa) : exec (.vfma o) s = execVfma o s := rfl
@[simp] theorem exec_vfminC (o : Sys2Proof.C3) : exec (.vfminC o) s = execVfminC o s := rfl
@[simp] theorem exec_vfmin (o : Sys2Proof.FMinMax) : exec (.vfmin o) s = execVfmin o s := rfl
@[simp] theorem exec_vfmaxC (o : Sys2Proof.C3) : exec (.vfmaxC o) s = execVfmaxC o s := rfl
@[simp] theorem exec_vfmax (o : Sys2Proof.FMinMax) : exec (.vfmax o) s = execVfmax o s := rfl
@[simp] theorem exec_vfcmp (o : Sys2Proof.FCmp) : exec (.vfcmp o) s = execVfcmp o s := rfl
@[simp] theorem exec_vfclassC (o : Sys2Proof.C2) : exec (.vfclassC o) s = execVfclassC o s := rfl
@[simp] theorem exec_vfclass (o : Sys2Proof.FClass) : exec (.vfclass o) s = execVfclass o s := rfl
@[simp] theorem exec_vfrcpC (o : Sys2Proof.C2) : exec (.vfrcpC o) s = execVfrcpC o s := rfl
@[simp] theorem exec_vfrcp (o : Sys2Proof.FOp1) : exec (.vfrcp o) s = execVfrcp o s := rfl
@[simp] theorem exec_vfrsqC (o : Sys2Proof.C2) : exec (.vfrsqC o) s = execVfrsqC o s := rfl
@[simp] theorem exec_vfrsq (o : Sys2Proof.FOp1) : exec (.vfrsq o) s = execVfrsq o s := rfl
@[simp] theorem exec_vfsqrtC (o : Sys2Proof.C2) : exec (.vfsqrtC o) s = execVfsqrtC o s := rfl
@[simp] theorem exec_vfsqrt (o : Sys2Proof.FOp1) : exec (.vfsqrt o) s = execVfsqrt o s := rfl
@[simp] theorem exec_vfdivC (o : Sys2Proof.C3) : exec (.vfdivC o) s = execVfdivC o s := rfl
@[simp] theorem exec_vfdiv (o : Sys2Proof.FOp2) : exec (.vfdiv o) s = execVfdiv o s := rfl
@[simp] theorem exec_vfexp2C (o : Sys2Proof.C2) : exec (.vfexp2C o) s = execVfexp2C o s := rfl
@[simp] theorem exec_vfexp2 (o : Sys2Proof.FOp1) : exec (.vfexp2 o) s = execVfexp2 o s := rfl
@[simp] theorem exec_vflog2C (o : Sys2Proof.C2) : exec (.vflog2C o) s = execVflog2C o s := rfl
@[simp] theorem exec_vflog2 (o : Sys2Proof.FOp1) : exec (.vflog2 o) s = execVflog2 o s := rfl
@[simp] theorem exec_vfsinC (o : Sys2Proof.C2) : exec (.vfsinC o) s = execVfsinC o s := rfl
@[simp] theorem exec_vfsin (o : Sys2Proof.FOp1) : exec (.vfsin o) s = execVfsin o s := rfl
@[simp] theorem exec_vfcosC (o : Sys2Proof.C2) : exec (.vfcosC o) s = execVfcosC o s := rfl
@[simp] theorem exec_vfcos (o : Sys2Proof.FOp1) : exec (.vfcos o) s = execVfcos o s := rfl
@[simp] theorem exec_vftanhC (o : Sys2Proof.C2) : exec (.vftanhC o) s = execVftanhC o s := rfl
@[simp] theorem exec_vftanh (o : Sys2Proof.FOp1) : exec (.vftanh o) s = execVftanh o s := rfl
@[simp] theorem exec_vaddmin (o : Sys2Proof.FAddMin) : exec (.vaddmin o) s = execVaddmin o s := rfl
@[simp] theorem exec_vaddmax (o : Sys2Proof.FAddMin) : exec (.vaddmax o) s = execVaddmax o s := rfl
@[simp] theorem exec_vfrnd (o : Sys2Proof.FRnd) : exec (.vfrnd o) s = execVfrnd o s := rfl
@[simp] theorem exec_vcvt (o : Sys2Proof.Cvt) : exec (.vcvt o) s = execVcvt o s := rfl
@[simp] theorem exec_vqnt (o : Sys2Proof.Qnt) : exec (.vqnt o) s = execVqnt o s := rfl
@[simp] theorem exec_vdqnt (o : Sys2Proof.Dqnt) : exec (.vdqnt o) s = execVdqnt o s := rfl
@[simp] theorem exec_vpack (o : Sys2Proof.Pack) : exec (.vpack o) s = execVpack o s := rfl
@[simp] theorem exec_vunpk (o : Sys2Proof.Unpk) : exec (.vunpk o) s = execVunpk o s := rfl
@[simp] theorem exec_vshfl (o : Sys2Proof.Shfl) : exec (.vshfl o) s = execVshfl o s := rfl
@[simp] theorem exec_vbcst (o : Sys2Proof.Bcst) : exec (.vbcst o) s = execVbcst o s := rfl
@[simp] theorem exec_vvote (o : Sys2Proof.Vote) : exec (.vvote o) s = execVvote o s := rfl
@[simp] theorem exec_vmatch (o : Sys2Proof.Match) : exec (.vmatch o) s = execVmatch o s := rfl
@[simp] theorem exec_vscan (o : Sys2Proof.Scan) : exec (.vscan o) s = execVscan o s := rfl
@[simp] theorem exec_vred (o : Sys2Proof.Red) : exec (.vred o) s = execVred o s := rfl
@[simp] theorem exec_srdw (o : Sys2Proof.Rdw) : exec (.srdw o) s = execSrdw o s := rfl
@[simp] theorem exec_pandC (o : Sys2Proof.CP3) : exec (.pandC o) s = execPandC o s := rfl
@[simp] theorem exec_pand (o : Sys2Proof.POp2) : exec (.pand o) s = execPand o s := rfl
@[simp] theorem exec_porC (o : Sys2Proof.CP3) : exec (.porC o) s = execPorC o s := rfl
@[simp] theorem exec_por (o : Sys2Proof.POp2) : exec (.por o) s = execPor o s := rfl
@[simp] theorem exec_pxorC (o : Sys2Proof.CP3) : exec (.pxorC o) s = execPxorC o s := rfl
@[simp] theorem exec_pxor (o : Sys2Proof.POp2) : exec (.pxor o) s = execPxor o s := rfl
@[simp] theorem exec_pnotC (o : Sys2Proof.CP2) : exec (.pnotC o) s = execPnotC o s := rfl
@[simp] theorem exec_pnot (o : Sys2Proof.POp1) : exec (.pnot o) s = execPnot o s := rfl
@[simp] theorem exec_ptovC (o : Sys2Proof.CRP) : exec (.ptovC o) s = execPtovC o s := rfl
@[simp] theorem exec_ptov (o : Sys2Proof.Ptov) : exec (.ptov o) s = execPtov o s := rfl
@[simp] theorem exec_vtopC (o : Sys2Proof.CPR) : exec (.vtopC o) s = execVtopC o s := rfl
@[simp] theorem exec_vtop (o : Sys2Proof.Vtop) : exec (.vtop o) s = execVtop o s := rfl
@[simp] theorem exec_ppopcC (o : Sys2Proof.CRP) : exec (.ppopcC o) s = execPpopcC o s := rfl
@[simp] theorem exec_ppopc (o : Sys2Proof.Ppopc) : exec (.ppopc o) s = execPpopc o s := rfl
@[simp] theorem exec_ld (o : Sys2Proof.Ld) : exec (.ld o) s = execLd o s := rfl
@[simp] theorem exec_st (o : Sys2Proof.St) : exec (.st o) s = execSt o s := rfl
@[simp] theorem exec_sld (o : Sys2Proof.Sld) : exec (.sld o) s = execSld o s := rfl
@[simp] theorem exec_sst (o : Sys2Proof.Sst) : exec (.sst o) s = execSst o s := rfl
@[simp] theorem exec_ldn (o : Sys2Proof.Ldn) : exec (.ldn o) s = execLdn o s := rfl
@[simp] theorem exec_pref (o : Sys2Proof.Pref) : exec (.pref o) s = execPref o s := rfl
@[simp] theorem exec_clean (o : Sys2Proof.Clean) : exec (.clean o) s = execClean o s := rfl
@[simp] theorem exec_inval (o : Sys2Proof.Clean) : exec (.inval o) s = execInval o s := rfl
@[simp] theorem exec_pin (o : Sys2Proof.Pin) : exec (.pin o) s = execPin o s := rfl
@[simp] theorem exec_unpin (o : Sys2Proof.PageOp) : exec (.unpin o) s = execUnpin o s := rfl
@[simp] theorem exec_discard (o : Sys2Proof.PageOp) : exec (.discard o) s = execDiscard o s := rfl
@[simp] theorem exec_pgreq (o : Sys2Proof.Pgreq) : exec (.pgreq o) s = execPgreq o s := rfl
@[simp] theorem exec_mapw (o : Sys2Proof.Mapw) : exec (.mapw o) s = execMapw o s := rfl
@[simp] theorem exec_mapc (o : Sys2Proof.MapOp) : exec (.mapc o) s = execMapc o s := rfl
@[simp] theorem exec_mapf (o : Sys2Proof.MapOp) : exec (.mapf o) s = execMapf o s := rfl
@[simp] theorem exec_fence (o : Sys2Proof.Fence) : exec (.fence o) s = execFence o s := rfl
@[simp] theorem exec_kbind (o : Sys2Proof.Kbind) : exec (.kbind o) s = execKbind o s := rfl
@[simp] theorem exec_kfree (o : Sys2Proof.Kfree) : exec (.kfree o) s = execKfree o s := rfl
@[simp] theorem exec_kacq (o : Sys2Proof.Kacq) : exec (.kacq o) s = execKacq o s := rfl
@[simp] theorem exec_krel (o : Sys2Proof.Krel) : exec (.krel o) s = execKrel o s := rfl
@[simp] theorem exec_latg (o : Sys2Proof.Latg) : exec (.latg o) s = execLatg o s := rfl
@[simp] theorem exec_latw (o : Sys2Proof.Latw) : exec (.latw o) s = execLatw o s := rfl
@[simp] theorem exec_atom (o : Sys2Proof.Atom) : exec (.atom o) s = execAtom o s := rfl
@[simp] theorem exec_atomf (o : Sys2Proof.Atomf) : exec (.atomf o) s = execAtomf o s := rfl
@[simp] theorem exec_cas (o : Sys2Proof.Cas) : exec (.cas o) s = execCas o s := rfl
@[simp] theorem exec_cas2 (o : Sys2Proof.Cas2) : exec (.cas2 o) s = execCas2 o s := rfl
@[simp] theorem exec_tinit (o : Sys2Proof.Tinit) : exec (.tinit o) s = execTinit o s := rfl
@[simp] theorem exec_tarv (o : Sys2Proof.Tarv) : exec (.tarv o) s = execTarv o s := rfl
@[simp] theorem exec_twait (o : Sys2Proof.Twait) : exec (.twait o) s = execTwait o s := rfl
@[simp] theorem exec_ttest (o : Sys2Proof.Ttest) : exec (.ttest o) s = execTtest o s := rfl
@[simp] theorem exec_mma (o : Sys2Proof.Mma) : exec (.mma o) s = execMma o s := rfl
@[simp] theorem exec_mmas (o : Sys2Proof.Mmas) : exec (.mmas o) s = execMmas o s := rfl
@[simp] theorem exec_tzeroC (o : Sys2Proof.CTile) : exec (.tzeroC o) s = execTzeroC o s := rfl
@[simp] theorem exec_tzero (o : Sys2Proof.TileG) : exec (.tzero o) s = execTzero o s := rfl
@[simp] theorem exec_tfill (o : Sys2Proof.Tfill) : exec (.tfill o) s = execTfill o s := rfl
@[simp] theorem exec_tident (o : Sys2Proof.Tident) : exec (.tident o) s = execTident o s := rfl
@[simp] theorem exec_tld (o : Sys2Proof.Tld) : exec (.tld o) s = execTld o s := rfl
@[simp] theorem exec_tst (o : Sys2Proof.Tst) : exec (.tst o) s = execTst o s := rfl
@[simp] theorem exec_tmovv (o : Sys2Proof.Tmov) : exec (.tmovv o) s = execTmovv o s := rfl
@[simp] theorem exec_tmovt (o : Sys2Proof.Tmov) : exec (.tmovt o) s = execTmovt o s := rfl
@[simp] theorem exec_tcls (o : Sys2Proof.Tcls) : exec (.tcls o) s = execTcls o s := rfl
@[simp] theorem exec_scld (o : Sys2Proof.Scld) : exec (.scld o) s = execScld o s := rfl
@[simp] theorem exec_ttopk (o : Sys2Proof.Ttopk) : exec (.ttopk o) s = execTtopk o s := rfl
@[simp] theorem exec_tacc (o : Sys2Proof.Tacc) : exec (.tacc o) s = execTacc o s := rfl
@[simp] theorem exec_tscl (o : Sys2Proof.Tscl) : exec (.tscl o) s = execTscl o s := rfl
@[simp] theorem exec_tcvt (o : Sys2Proof.Tcvt) : exec (.tcvt o) s = execTcvt o s := rfl
@[simp] theorem exec_tdset (o : Sys2Proof.Td) : exec (.tdset o) s = execTdset o s := rfl
@[simp] theorem exec_tdget (o : Sys2Proof.Td) : exec (.tdget o) s = execTdget o s := rfl
@[simp] theorem exec_tdinv (o : Sys2Proof.Tdinv) : exec (.tdinv o) s = execTdinv o s := rfl
@[simp] theorem exec_cpost (o : Sys2Proof.Cpost) : exec (.cpost o) s = execCpost o s := rfl
@[simp] theorem exec_gpost (o : Sys2Proof.Gpost) : exec (.gpost o) s = execGpost o s := rfl
@[simp] theorem exec_spost (o : Sys2Proof.Gpost) : exec (.spost o) s = execSpost o s := rfl
@[simp] theorem exec_vremap (o : Sys2Proof.Vremap) : exec (.vremap o) s = execVremap o s := rfl
@[simp] theorem exec_cwait (o : Sys2Proof.Cwait) : exec (.cwait o) s = execCwait o s := rfl
@[simp] theorem exec_cseq (o : Sys2Proof.Cseq) : exec (.cseq o) s = execCseq o s := rfl
@[simp] theorem exec_cqry (o : Sys2Proof.Cqry) : exec (.cqry o) s = execCqry o s := rfl
@[simp] theorem exec_mpost (o : Sys2Proof.Mpost) : exec (.mpost o) s = execMpost o s := rfl
@[simp] theorem exec_xred (o : Sys2Proof.Xred) : exec (.xred o) s = execXred o s := rfl
@[simp] theorem exec_xgth (o : Sys2Proof.Xgth) : exec (.xgth o) s = execXgth o s := rfl
@[simp] theorem exec_xsnd (o : Sys2Proof.Xsr) : exec (.xsnd o) s = execXsnd o s := rfl
@[simp] theorem exec_xrcv (o : Sys2Proof.Xsr) : exec (.xrcv o) s = execXrcv o s := rfl
@[simp] theorem exec_embag (o : Sys2Proof.Embag) : exec (.embag o) s = execEmbag o s := rfl
@[simp] theorem exec_emstat (o : Sys2Proof.Emstat) : exec (.emstat o) s = execEmstat o s := rfl
@[simp] theorem exec_launch (o : Sys2Proof.Launch) : exec (.launch o) s = execLaunch o s := rfl
@[simp] theorem exec_lwait (o : Sys2Proof.Lwait) : exec (.lwait o) s = execLwait o s := rfl
@[simp] theorem exec_lsig (o : Sys2Proof.Lsig) : exec (.lsig o) s = execLsig o s := rfl
@[simp] theorem exec_lsigHinge (o : Sys2Proof.LsigHinge) : exec (.lsigHinge o) s = execLsigHinge o s := rfl
@[simp] theorem exec_lsigHost (o : Sys2Proof.LsigHost) : exec (.lsigHost o) s = execLsigHost o s := rfl
@[simp] theorem exec_levw (o : Sys2Proof.Levw) : exec (.levw o) s = execLevw o s := rfl
@[simp] theorem exec_ctxsw (o : Sys2Proof.Ctxsw) : exec (.ctxsw o) s = execCtxsw o s := rfl
@[simp] theorem exec_trapC (o : Sys2Proof.C1) : exec (.trapC o) s = execTrapC o s := rfl
@[simp] theorem exec_trap (o : Sys2Proof.Trap) : exec (.trap o) s = execTrap o s := rfl
@[simp] theorem exec_mfs (o : Sys2Proof.Msr) : exec (.mfs o) s = execMfs o s := rfl
@[simp] theorem exec_mts (o : Sys2Proof.Msr) : exec (.mts o) s = execMts o s := rfl
@[simp] theorem exec_bkptC (o : Sys2Proof.C1) : exec (.bkptC o) s = execBkptC o s := rfl
@[simp] theorem exec_snap (o : Sys2Proof.Snap) : exec (.snap o) s = execSnap o s := rfl
@[simp] theorem exec_mark (o : Sys2Proof.Mark) : exec (.mark o) s = execMark o s := rfl
@[simp] theorem exec_esampC (o : Sys2Proof.C1) : exec (.esampC o) s = execEsampC o s := rfl
@[simp] theorem exec_esamp (o : Sys2Proof.Esamp) : exec (.esamp o) s = execEsamp o s := rfl
@[simp] theorem exec_nopC : exec .nopC s = execNopC s := rfl
@[simp] theorem exec_joinC : exec .joinC s = execJoinC s := rfl
@[simp] theorem exec_exitC : exec .exitC s = execExitC s := rfl
@[simp] theorem exec_yieldC : exec .yieldC s = execYieldC s := rfl
@[simp] theorem exec_tretC : exec .tretC s = execTretC s := rfl
@[simp] theorem exec_haltC : exec .haltC s = execHaltC s := rfl
@[simp] theorem exec_vredCompletion : exec .vredCompletion s = execVredCompletion s := rfl
@[simp] theorem exec_accessPerformed : exec .accessPerformed s = execAccessPerformed s := rfl
@[simp] theorem exec_backgroundWriteback : exec .backgroundWriteback s = execBackgroundWriteback s := rfl
@[simp] theorem exec_backgroundDiscard : exec .backgroundDiscard s = execBackgroundDiscard s := rfl
@[simp] theorem exec_matrixCompletion : exec .matrixCompletion s = execMatrixCompletion s := rfl
@[simp] theorem exec_engineCommandStart : exec .engineCommandStart s = execEngineCommandStart s := rfl
@[simp] theorem exec_indexRowDelivery : exec .indexRowDelivery s = execIndexRowDelivery s := rfl
@[simp] theorem exec_embagBagDelivery : exec .embagBagDelivery s = execEmbagBagDelivery s := rfl
@[simp] theorem exec_commandCompletion : exec .commandCompletion s = execCommandCompletion s := rfl
@[simp] theorem exec_heldRecordWrite : exec .heldRecordWrite s = execHeldRecordWrite s := rfl
@[simp] theorem exec_pageMove : exec .pageMove s = execPageMove s := rfl
@[simp] theorem exec_promotionMove : exec .promotionMove s = execPromotionMove s := rfl
@[simp] theorem exec_promotionCounterHalve : exec .promotionCounterHalve s = execPromotionCounterHalve s := rfl
@[simp] theorem exec_collectiveCompletion : exec .collectiveCompletion s = execCollectiveCompletion s := rfl
@[simp] theorem exec_flitReceive : exec .flitReceive s = execFlitReceive s := rfl
@[simp] theorem exec_portRetrainTimeout : exec .portRetrainTimeout s = execPortRetrainTimeout s := rfl
@[simp] theorem exec_streamTakeEntry : exec .streamTakeEntry s = execStreamTakeEntry s := rfl
@[simp] theorem exec_teamPlacement : exec .teamPlacement s = execTeamPlacement s := rfl
@[simp] theorem exec_bandRetire : exec .bandRetire s = execBandRetire s := rfl
@[simp] theorem exec_teamRetire : exec .teamRetire s = execTeamRetire s := rfl
@[simp] theorem exec_quantumExpire : exec .quantumExpire s = execQuantumExpire s := rfl
@[simp] theorem exec_forcedPick : exec .forcedPick s = execForcedPick s := rfl
@[simp] theorem exec_engineTrapTake : exec .engineTrapTake s = execEngineTrapTake s := rfl
@[simp] theorem exec_breakpointHit : exec .breakpointHit s = execBreakpointHit s := rfl
@[simp] theorem exec_stopArrival : exec .stopArrival s = execStopArrival s := rfl
@[simp] theorem exec_snapshotLatch : exec .snapshotLatch s = execSnapshotLatch s := rfl
@[simp] theorem exec_stallSample : exec .stallSample s = execStallSample s := rfl
@[simp] theorem exec_memorySample : exec .memorySample s = execMemorySample s := rfl
@[simp] theorem exec_scrub : exec .scrub s = execScrub s := rfl
@[simp] theorem exec_knuckleParityError : exec .knuckleParityError s = execKnuckleParityError s := rfl
@[simp] theorem exec_knuckleRetry : exec .knuckleRetry s = execKnuckleRetry s := rfl
@[simp] theorem exec_stackCriticalTemperature : exec .stackCriticalTemperature s = execStackCriticalTemperature s := rfl
@[simp] theorem exec_flushWindowEnd : exec .flushWindowEnd s = execFlushWindowEnd s := rfl
@[simp] theorem exec_dieThrottle : exec .dieThrottle s = execDieThrottle s := rfl
@[simp] theorem exec_coldReset : exec .coldReset s = execColdReset s := rfl
@[simp] theorem exec_warmReset : exec .warmReset s = execWarmReset s := rfl
@[simp] theorem exec_attestationRequest : exec .attestationRequest s = execAttestationRequest s := rfl
@[simp] theorem exec_attestationReportReady : exec .attestationReportReady s = execAttestationReportReady s := rfl
@[simp] theorem exec_hostApertureRead : exec .hostApertureRead s = execHostApertureRead s := rfl
@[simp] theorem exec_hostApertureWrite : exec .hostApertureWrite s = execHostApertureWrite s := rfl
@[simp] theorem exec_tlbInvalidate : exec .tlbInvalidate s = execTlbInvalidate s := rfl
@[simp] theorem exec_tlbInvalidateDone : exec .tlbInvalidateDone s = execTlbInvalidateDone s := rfl
@[simp] theorem exec_pageAnswerDone : exec .pageAnswerDone s = execPageAnswerDone s := rfl
@[simp] theorem exec_pageAnswerRefused : exec .pageAnswerRefused s = execPageAnswerRefused s := rfl
@[simp] theorem exec_bandResume : exec .bandResume s = execBandResume s := rfl
@[simp] theorem exec_bandAbort : exec .bandAbort s = execBandAbort s := rfl
@[simp] theorem exec_bandStep : exec .bandStep s = execBandStep s := rfl
@[simp] theorem exec_stepEnd : exec .stepEnd s = execStepEnd s := rfl
@[simp] theorem exec_streamEnable : exec .streamEnable s = execStreamEnable s := rfl
@[simp] theorem exec_streamDisable : exec .streamDisable s = execStreamDisable s := rfl
@[simp] theorem exec_doorbell : exec .doorbell s = execDoorbell s := rfl
@[simp] theorem exec_driverTrigger : exec .driverTrigger s = execDriverTrigger s := rfl
@[simp] theorem exec_stackResume : exec .stackResume s = execStackResume s := rfl
@[simp] theorem exec_portRetrain : exec .portRetrain s = execPortRetrain s := rfl
@[simp] theorem exec_debugRead : exec .debugRead s = execDebugRead s := rfl
@[simp] theorem exec_debugWrite : exec .debugWrite s = execDebugWrite s := rfl
@[simp] theorem exec_tapDpacc : exec .tapDpacc s = execTapDpacc s := rfl
@[simp] theorem exec_counterReadClear : exec .counterReadClear s = execCounterReadClear s := rfl
@[simp] theorem exec_registerWrite : exec .registerWrite s = execRegisterWrite s := rfl
@[simp] theorem exec_contextCreation : exec .contextCreation s = execContextCreation s := rfl
@[simp] theorem exec_launchAbort : exec .launchAbort s = execLaunchAbort s := rfl
@[simp] theorem exec_driverHaltRequest : exec .driverHaltRequest s = execDriverHaltRequest s := rfl
@[simp] theorem exec_portUp : exec .portUp s = execPortUp s := rfl
@[simp] theorem exec_portLinkFailure : exec .portLinkFailure s = execPortLinkFailure s := rfl
@[simp] theorem exec_dieTemperatureFall : exec .dieTemperatureFall s = execDieTemperatureFall s := rfl
end

end Sys2Proof.Machine
end

