-- ==== Sys2Proof/Laws/Sparse.lean ====
section
/-! SUPPORT. Laws of the finite maps: reading after a write, and the canonical form. -/

namespace Sys2Proof.Machine

variable {β : Type}

@[simp] theorem aFind_nil (k : Nat) : aFind k ([] : AList β) = none := rfl

theorem aFind_cons (k j : Nat) (v : β) (m : AList β) :
    aFind k ((j, v) :: m) = if j = k then some v else aFind k m := rfl

@[simp] theorem aFind_aInsert_self (k : Nat) (v : β) (m : AList β) : aFind k (aInsert k v m) = some v := by
  induction m with
  | nil => simp [aInsert, aFind]
  | cons e m ih =>
    obtain ⟨j, w⟩ := e
    simp only [aInsert]
    split
    · simp [aFind]
    · split
      · simp [aFind]
      · simp [aFind, *]

theorem aFind_aInsert_ne {k j : Nat} (h : j ≠ k) (v : β) (m : AList β) :
    aFind j (aInsert k v m) = aFind j m := by
  induction m with
  | nil => simp [aInsert, aFind, Ne.symm h]
  | cons e m ih =>
    obtain ⟨i, w⟩ := e
    simp only [aInsert]
    split
    · simp [aFind, Ne.symm h]
    · split
      · subst_vars; simp [aFind, Ne.symm h]
      · simp only [aFind, ih]

theorem aFind_aInsert (k j : Nat) (v : β) (m : AList β) :
    aFind j (aInsert k v m) = if j = k then some v else aFind j m := by
  split
  · subst_vars; simp
  · exact aFind_aInsert_ne ‹_› v m

@[simp] theorem aFind_aErase_self (k : Nat) (m : AList β) : aFind k (aErase k m) = none := by
  induction m with
  | nil => rfl
  | cons e m ih =>
    obtain ⟨j, w⟩ := e
    simp only [aErase]
    split
    · exact ih
    · simp [aFind, *]

theorem aFind_aErase_ne {k j : Nat} (h : j ≠ k) (m : AList β) : aFind j (aErase k m) = aFind j m := by
  induction m with
  | nil => rfl
  | cons e m ih =>
    obtain ⟨i, w⟩ := e
    simp only [aErase]
    split
    · subst_vars; simp [aFind, ih, Ne.symm h]
    · simp only [aFind, ih]

@[simp] theorem aGet_nil (d : β) (k : Nat) : aGet d k [] = d := rfl

@[simp] theorem aGet_aInsert_self (d : β) (k : Nat) (v : β) (m : AList β) : aGet d k (aInsert k v m) = v := by
  simp [aGet]

theorem aGet_aInsert_ne {k j : Nat} (h : j ≠ k) (d v : β) (m : AList β) :
    aGet d j (aInsert k v m) = aGet d j m := by
  simp [aGet, aFind_aInsert_ne h]

@[simp] theorem aGet_aErase_self (d : β) (k : Nat) (m : AList β) : aGet d k (aErase k m) = d := by
  simp [aGet]

theorem aGet_aErase_ne {k j : Nat} (h : j ≠ k) (d : β) (m : AList β) :
    aGet d j (aErase k m) = aGet d j m := by
  simp [aGet, aFind_aErase_ne h]

@[simp] theorem aGet_aSet_self [DecidableEq β] (d : β) (k : Nat) (v : β) (m : AList β) :
    aGet d k (aSet d k v m) = v := by
  unfold aSet
  split
  · subst_vars; simp
  · simp

theorem aGet_aSet_ne [DecidableEq β] {k j : Nat} (h : j ≠ k) (d v : β) (m : AList β) :
    aGet d j (aSet d k v m) = aGet d j m := by
  unfold aSet
  split
  · exact aGet_aErase_ne h d m
  · exact aGet_aInsert_ne h d v m

theorem aGet_aSet [DecidableEq β] (d : β) (k j : Nat) (v : β) (m : AList β) :
    aGet d j (aSet d k v m) = if j = k then v else aGet d j m := by
  split
  · subst_vars; simp
  · exact aGet_aSet_ne ‹_› d v m

/-! ### The canonical form -/

theorem aRising_mono {lo lo' : Nat} (h : lo' ≤ lo) {m : AList β} (hm : aRising lo m = true) :
    aRising lo' m = true := by
  cases m with
  | nil => rfl
  | cons e m =>
    obtain ⟨j, w⟩ := e
    simp only [aRising, Bool.and_eq_true, decide_eq_true_eq] at hm ⊢
    exact ⟨h.trans hm.1, hm.2⟩

theorem aRising_aInsert {lo k : Nat} (h : lo ≤ k) (v : β) {m : AList β} (hm : aRising lo m = true) :
    aRising lo (aInsert k v m) = true := by
  induction m generalizing lo with
  | nil => simp [aInsert, aRising, h]
  | cons e m ih =>
    obtain ⟨j, w⟩ := e
    simp only [aRising, Bool.and_eq_true, decide_eq_true_eq] at hm
    simp only [aInsert]
    split
    · simp only [aRising, Bool.and_eq_true, decide_eq_true_eq]
      exact ⟨h, by omega, hm.2⟩
    · split
      · subst_vars
        simp only [aRising, Bool.and_eq_true, decide_eq_true_eq]
        exact hm
      · simp only [aRising, Bool.and_eq_true, decide_eq_true_eq]
        exact ⟨hm.1, ih (by omega) hm.2⟩

theorem aRising_aErase {lo : Nat} (k : Nat) {m : AList β} (hm : aRising lo m = true) :
    aRising lo (aErase k m) = true := by
  induction m generalizing lo with
  | nil => rfl
  | cons e m ih =>
    obtain ⟨j, w⟩ := e
    simp only [aRising, Bool.and_eq_true, decide_eq_true_eq] at hm
    simp only [aErase]
    split
    · exact aRising_mono (by omega) (ih hm.2)
    · simp only [aRising, Bool.and_eq_true, decide_eq_true_eq]
      exact ⟨hm.1, ih hm.2⟩

theorem aRising_aFilter {lo : Nat} (p : Nat → β → Bool) {m : AList β} (hm : aRising lo m = true) :
    aRising lo (aFilter p m) = true := by
  induction m generalizing lo with
  | nil => rfl
  | cons e m ih =>
    obtain ⟨j, w⟩ := e
    simp only [aRising, Bool.and_eq_true, decide_eq_true_eq] at hm
    simp only [aFilter]
    split
    · simp only [aRising, Bool.and_eq_true, decide_eq_true_eq]
      exact ⟨hm.1, ih hm.2⟩
    · exact aRising_mono (by omega) (ih hm.2)

theorem aRising_aMap {lo : Nat} (f : Nat → β → β) {m : AList β} (hm : aRising lo m = true) :
    aRising lo (aMap f m) = true := by
  induction m generalizing lo with
  | nil => rfl
  | cons e m ih =>
    obtain ⟨j, w⟩ := e
    simp only [aRising, Bool.and_eq_true, decide_eq_true_eq] at hm
    simp only [aMap, aRising, Bool.and_eq_true, decide_eq_true_eq]
    exact ⟨hm.1, ih hm.2⟩

theorem all_aInsert (q : Nat × β → Bool) {k : Nat} {v : β} {m : AList β} (hv : q (k, v) = true)
    (hm : m.all q = true) : (aInsert k v m).all q = true := by
  induction m with
  | nil => simp [aInsert, hv]
  | cons e m ih =>
    obtain ⟨j, w⟩ := e
    simp only [List.all_cons, Bool.and_eq_true] at hm
    simp only [aInsert]
    split
    · simp only [List.all_cons, Bool.and_eq_true]; exact ⟨hv, hm⟩
    · split
      · simp only [List.all_cons, Bool.and_eq_true]; exact ⟨hv, hm.2⟩
      · simp only [List.all_cons, Bool.and_eq_true]; exact ⟨hm.1, ih hm.2⟩

theorem all_aErase (q : Nat × β → Bool) (k : Nat) {m : AList β} (hm : m.all q = true) :
    (aErase k m).all q = true := by
  induction m with
  | nil => rfl
  | cons e m ih =>
    obtain ⟨j, w⟩ := e
    simp only [List.all_cons, Bool.and_eq_true] at hm
    simp only [aErase]
    split
    · exact ih hm.2
    · simp only [List.all_cons, Bool.and_eq_true]; exact ⟨hm.1, ih hm.2⟩

theorem all_aFilter (q : Nat × β → Bool) (p : Nat → β → Bool) {m : AList β} (hm : m.all q = true) :
    (aFilter p m).all q = true := by
  induction m with
  | nil => rfl
  | cons e m ih =>
    obtain ⟨j, w⟩ := e
    simp only [List.all_cons, Bool.and_eq_true] at hm
    simp only [aFilter]
    split
    · simp only [List.all_cons, Bool.and_eq_true]; exact ⟨hm.1, ih hm.2⟩
    · exact ih hm.2

/-- A write keeps the canonical form. -/
theorem aCanonical_aSet [DecidableEq β] {d : β} {m : AList β} (k : Nat) (v : β) (hm : aCanonical d m = true) :
    aCanonical d (aSet d k v m) = true := by
  simp only [aCanonical, aSorted, Bool.and_eq_true] at hm ⊢
  unfold aSet
  split
  · exact ⟨aRising_aErase k hm.1, all_aErase _ k hm.2⟩
  · exact ⟨aRising_aInsert (Nat.zero_le k) v hm.1, all_aInsert _ (by simpa using ‹_›) hm.2⟩

/-- Dropping entries keeps the canonical form. -/
theorem aCanonical_aFilter [DecidableEq β] {d : β} {m : AList β} (p : Nat → β → Bool) (hm : aCanonical d m = true) :
    aCanonical d (aFilter p m) = true := by
  simp only [aCanonical, aSorted, Bool.and_eq_true] at hm ⊢
  exact ⟨aRising_aFilter p hm.1, all_aFilter _ p hm.2⟩

/-- A key below every listed one is not listed. -/
theorem aFind_lt_rising {lo k : Nat} {m : AList β} (hm : aRising lo m = true) (h : k < lo) : aFind k m = none := by
  induction m generalizing lo with
  | nil => rfl
  | cons e m ih =>
    obtain ⟨j, w⟩ := e
    simp only [aRising, Bool.and_eq_true, decide_eq_true_eq] at hm
    simp only [aFind]
    split
    · omega
    · exact ih hm.2 (by omega)

end Sys2Proof.Machine
end

