-- ==== Sys2Proof/Laws/State.lean ====
section
/-! SUPPORT. Laws of the state's parts: what each update leaves alone, field by field, and what a read finds after a write. -/

namespace Sys2Proof.Machine

/-! ### setCore -/

section
variable (s : State) (n : Nat) (x : Core)
@[simp] theorem setCore_mem : (setCore s n x).mem = s.mem := rfl
@[simp] theorem setCore_remap : (setCore s n x).remap = s.remap := rfl
@[simp] theorem setCore_promo : (setCore s n x).promo = s.promo := rfl
@[simp] theorem setCore_bands : (setCore s n x).bands = s.bands := rfl
@[simp] theorem setCore_teams : (setCore s n x).teams = s.teams := rfl
@[simp] theorem setCore_clusters : (setCore s n x).clusters = s.clusters := rfl
@[simp] theorem setCore_hinges : (setCore s n x).hinges = s.hinges := rfl
@[simp] theorem setCore_contexts : (setCore s n x).contexts = s.contexts := rfl
@[simp] theorem setCore_launches : (setCore s n x).launches = s.launches := rfl
@[simp] theorem setCore_pending : (setCore s n x).pending = s.pending := rfl
@[simp] theorem setCore_matrix : (setCore s n x).matrix = s.matrix := rfl
@[simp] theorem setCore_triggers : (setCore s n x).triggers = s.triggers := rfl
@[simp] theorem setCore_seq : (setCore s n x).seq = s.seq := rfl
@[simp] theorem setCore_now : (setCore s n x).now = s.now := rfl
@[simp] theorem setCore_bootTime : (setCore s n x).bootTime = s.bootTime := rfl
@[simp] theorem setCore_tick : (setCore s n x).tick = s.tick := rfl
@[simp] theorem setCore_cur : (setCore s n x).cur = s.cur := rfl
@[simp] theorem setCore_faulted : (setCore s n x).faulted = s.faulted := rfl
@[simp] theorem setCore_early : (setCore s n x).early = s.early := rfl
@[simp] theorem setCore_walked : (setCore s n x).walked = s.walked := rfl
@[simp] theorem setCore_halved : (setCore s n x).halved = s.halved := rfl
@[simp] theorem setCore_seen : (setCore s n x).seen = s.seen := rfl
@[simp] theorem setCore_wpHits : (setCore s n x).wpHits = s.wpHits := rfl
@[simp] theorem setCore_lineCosts : (setCore s n x).lineCosts = s.lineCosts := rfl
@[simp] theorem setCore_agenda : (setCore s n x).agenda = s.agenda := rfl
@[simp] theorem setCore_sent : (setCore s n x).sent = s.sent := rfl
@[simp] theorem setCore_profileN : (setCore s n x).profileN = s.profileN := rfl
@[simp] theorem setCore_stepping : (setCore s n x).stepping = s.stepping := rfl
@[simp] theorem setCore_links : (setCore s n x).links = s.links := rfl
@[simp] theorem setCore_repair : (setCore s n x).repair = s.repair := rfl
@[simp] theorem setCore_apbase : (setCore s n x).apbase = s.apbase := rfl
@[simp] theorem setCore_bootStages : (setCore s n x).bootStages = s.bootStages := rfl
@[simp] theorem setCore_bootError : (setCore s n x).bootError = s.bootError := rfl
@[simp] theorem setCore_bootState : (setCore s n x).bootState = s.bootState := rfl
@[simp] theorem setCore_warmWanted : (setCore s n x).warmWanted = s.warmWanted := rfl
@[simp] theorem setCore_boot : (setCore s n x).boot = s.boot := rfl
@[simp] theorem setCore_plimit : (setCore s n x).plimit = s.plimit := rfl
@[simp] theorem setCore_hot : (setCore s n x).hot = s.hot := rfl
@[simp] theorem setCore_trigcnt : (setCore s n x).trigcnt = s.trigcnt := rfl
@[simp] theorem setCore_meas : (setCore s n x).meas = s.meas := rfl
@[simp] theorem setCore_mchain : (setCore s n x).mchain = s.mchain := rfl
@[simp] theorem setCore_attNonce : (setCore s n x).attNonce = s.attNonce := rfl
@[simp] theorem setCore_attGo : (setCore s n x).attGo = s.attGo := rfl
@[simp] theorem setCore_attRep : (setCore s n x).attRep = s.attRep := rfl
@[simp] theorem setCore_bootCount : (setCore s n x).bootCount = s.bootCount := rfl
@[simp] theorem setCore_msix : (setCore s n x).msix = s.msix := rfl
@[simp] theorem setCore_pba : (setCore s n x).pba = s.pba := rfl
@[simp] theorem setCore_picks : (setCore s n x).picks = s.picks := rfl
end

/-! ### setCluster -/

section
variable (s : State) (n : Nat) (x : Cluster)
@[simp] theorem setCluster_mem : (setCluster s n x).mem = s.mem := rfl
@[simp] theorem setCluster_remap : (setCluster s n x).remap = s.remap := rfl
@[simp] theorem setCluster_promo : (setCluster s n x).promo = s.promo := rfl
@[simp] theorem setCluster_bands : (setCluster s n x).bands = s.bands := rfl
@[simp] theorem setCluster_teams : (setCluster s n x).teams = s.teams := rfl
@[simp] theorem setCluster_cores : (setCluster s n x).cores = s.cores := rfl
@[simp] theorem setCluster_hinges : (setCluster s n x).hinges = s.hinges := rfl
@[simp] theorem setCluster_contexts : (setCluster s n x).contexts = s.contexts := rfl
@[simp] theorem setCluster_launches : (setCluster s n x).launches = s.launches := rfl
@[simp] theorem setCluster_pending : (setCluster s n x).pending = s.pending := rfl
@[simp] theorem setCluster_matrix : (setCluster s n x).matrix = s.matrix := rfl
@[simp] theorem setCluster_triggers : (setCluster s n x).triggers = s.triggers := rfl
@[simp] theorem setCluster_seq : (setCluster s n x).seq = s.seq := rfl
@[simp] theorem setCluster_now : (setCluster s n x).now = s.now := rfl
@[simp] theorem setCluster_bootTime : (setCluster s n x).bootTime = s.bootTime := rfl
@[simp] theorem setCluster_tick : (setCluster s n x).tick = s.tick := rfl
@[simp] theorem setCluster_cur : (setCluster s n x).cur = s.cur := rfl
@[simp] theorem setCluster_faulted : (setCluster s n x).faulted = s.faulted := rfl
@[simp] theorem setCluster_early : (setCluster s n x).early = s.early := rfl
@[simp] theorem setCluster_walked : (setCluster s n x).walked = s.walked := rfl
@[simp] theorem setCluster_halved : (setCluster s n x).halved = s.halved := rfl
@[simp] theorem setCluster_seen : (setCluster s n x).seen = s.seen := rfl
@[simp] theorem setCluster_wpHits : (setCluster s n x).wpHits = s.wpHits := rfl
@[simp] theorem setCluster_lineCosts : (setCluster s n x).lineCosts = s.lineCosts := rfl
@[simp] theorem setCluster_agenda : (setCluster s n x).agenda = s.agenda := rfl
@[simp] theorem setCluster_sent : (setCluster s n x).sent = s.sent := rfl
@[simp] theorem setCluster_profileN : (setCluster s n x).profileN = s.profileN := rfl
@[simp] theorem setCluster_stepping : (setCluster s n x).stepping = s.stepping := rfl
@[simp] theorem setCluster_links : (setCluster s n x).links = s.links := rfl
@[simp] theorem setCluster_repair : (setCluster s n x).repair = s.repair := rfl
@[simp] theorem setCluster_apbase : (setCluster s n x).apbase = s.apbase := rfl
@[simp] theorem setCluster_bootStages : (setCluster s n x).bootStages = s.bootStages := rfl
@[simp] theorem setCluster_bootError : (setCluster s n x).bootError = s.bootError := rfl
@[simp] theorem setCluster_bootState : (setCluster s n x).bootState = s.bootState := rfl
@[simp] theorem setCluster_warmWanted : (setCluster s n x).warmWanted = s.warmWanted := rfl
@[simp] theorem setCluster_boot : (setCluster s n x).boot = s.boot := rfl
@[simp] theorem setCluster_plimit : (setCluster s n x).plimit = s.plimit := rfl
@[simp] theorem setCluster_hot : (setCluster s n x).hot = s.hot := rfl
@[simp] theorem setCluster_trigcnt : (setCluster s n x).trigcnt = s.trigcnt := rfl
@[simp] theorem setCluster_meas : (setCluster s n x).meas = s.meas := rfl
@[simp] theorem setCluster_mchain : (setCluster s n x).mchain = s.mchain := rfl
@[simp] theorem setCluster_attNonce : (setCluster s n x).attNonce = s.attNonce := rfl
@[simp] theorem setCluster_attGo : (setCluster s n x).attGo = s.attGo := rfl
@[simp] theorem setCluster_attRep : (setCluster s n x).attRep = s.attRep := rfl
@[simp] theorem setCluster_bootCount : (setCluster s n x).bootCount = s.bootCount := rfl
@[simp] theorem setCluster_msix : (setCluster s n x).msix = s.msix := rfl
@[simp] theorem setCluster_pba : (setCluster s n x).pba = s.pba := rfl
@[simp] theorem setCluster_picks : (setCluster s n x).picks = s.picks := rfl
end

/-! ### setHinge -/

section
variable (s : State) (n : Nat) (x : Hinge)
@[simp] theorem setHinge_mem : (setHinge s n x).mem = s.mem := rfl
@[simp] theorem setHinge_remap : (setHinge s n x).remap = s.remap := rfl
@[simp] theorem setHinge_promo : (setHinge s n x).promo = s.promo := rfl
@[simp] theorem setHinge_bands : (setHinge s n x).bands = s.bands := rfl
@[simp] theorem setHinge_teams : (setHinge s n x).teams = s.teams := rfl
@[simp] theorem setHinge_cores : (setHinge s n x).cores = s.cores := rfl
@[simp] theorem setHinge_clusters : (setHinge s n x).clusters = s.clusters := rfl
@[simp] theorem setHinge_contexts : (setHinge s n x).contexts = s.contexts := rfl
@[simp] theorem setHinge_launches : (setHinge s n x).launches = s.launches := rfl
@[simp] theorem setHinge_pending : (setHinge s n x).pending = s.pending := rfl
@[simp] theorem setHinge_matrix : (setHinge s n x).matrix = s.matrix := rfl
@[simp] theorem setHinge_triggers : (setHinge s n x).triggers = s.triggers := rfl
@[simp] theorem setHinge_seq : (setHinge s n x).seq = s.seq := rfl
@[simp] theorem setHinge_now : (setHinge s n x).now = s.now := rfl
@[simp] theorem setHinge_bootTime : (setHinge s n x).bootTime = s.bootTime := rfl
@[simp] theorem setHinge_tick : (setHinge s n x).tick = s.tick := rfl
@[simp] theorem setHinge_cur : (setHinge s n x).cur = s.cur := rfl
@[simp] theorem setHinge_faulted : (setHinge s n x).faulted = s.faulted := rfl
@[simp] theorem setHinge_early : (setHinge s n x).early = s.early := rfl
@[simp] theorem setHinge_walked : (setHinge s n x).walked = s.walked := rfl
@[simp] theorem setHinge_halved : (setHinge s n x).halved = s.halved := rfl
@[simp] theorem setHinge_seen : (setHinge s n x).seen = s.seen := rfl
@[simp] theorem setHinge_wpHits : (setHinge s n x).wpHits = s.wpHits := rfl
@[simp] theorem setHinge_lineCosts : (setHinge s n x).lineCosts = s.lineCosts := rfl
@[simp] theorem setHinge_agenda : (setHinge s n x).agenda = s.agenda := rfl
@[simp] theorem setHinge_sent : (setHinge s n x).sent = s.sent := rfl
@[simp] theorem setHinge_profileN : (setHinge s n x).profileN = s.profileN := rfl
@[simp] theorem setHinge_stepping : (setHinge s n x).stepping = s.stepping := rfl
@[simp] theorem setHinge_links : (setHinge s n x).links = s.links := rfl
@[simp] theorem setHinge_repair : (setHinge s n x).repair = s.repair := rfl
@[simp] theorem setHinge_apbase : (setHinge s n x).apbase = s.apbase := rfl
@[simp] theorem setHinge_bootStages : (setHinge s n x).bootStages = s.bootStages := rfl
@[simp] theorem setHinge_bootError : (setHinge s n x).bootError = s.bootError := rfl
@[simp] theorem setHinge_bootState : (setHinge s n x).bootState = s.bootState := rfl
@[simp] theorem setHinge_warmWanted : (setHinge s n x).warmWanted = s.warmWanted := rfl
@[simp] theorem setHinge_boot : (setHinge s n x).boot = s.boot := rfl
@[simp] theorem setHinge_plimit : (setHinge s n x).plimit = s.plimit := rfl
@[simp] theorem setHinge_hot : (setHinge s n x).hot = s.hot := rfl
@[simp] theorem setHinge_trigcnt : (setHinge s n x).trigcnt = s.trigcnt := rfl
@[simp] theorem setHinge_meas : (setHinge s n x).meas = s.meas := rfl
@[simp] theorem setHinge_mchain : (setHinge s n x).mchain = s.mchain := rfl
@[simp] theorem setHinge_attNonce : (setHinge s n x).attNonce = s.attNonce := rfl
@[simp] theorem setHinge_attGo : (setHinge s n x).attGo = s.attGo := rfl
@[simp] theorem setHinge_attRep : (setHinge s n x).attRep = s.attRep := rfl
@[simp] theorem setHinge_bootCount : (setHinge s n x).bootCount = s.bootCount := rfl
@[simp] theorem setHinge_msix : (setHinge s n x).msix = s.msix := rfl
@[simp] theorem setHinge_pba : (setHinge s n x).pba = s.pba := rfl
@[simp] theorem setHinge_picks : (setHinge s n x).picks = s.picks := rfl
end

/-! ### setCtx -/

section
variable (s : State) (n : Nat) (x : Context)
@[simp] theorem setCtx_mem : (setCtx s n x).mem = s.mem := rfl
@[simp] theorem setCtx_remap : (setCtx s n x).remap = s.remap := rfl
@[simp] theorem setCtx_promo : (setCtx s n x).promo = s.promo := rfl
@[simp] theorem setCtx_bands : (setCtx s n x).bands = s.bands := rfl
@[simp] theorem setCtx_teams : (setCtx s n x).teams = s.teams := rfl
@[simp] theorem setCtx_cores : (setCtx s n x).cores = s.cores := rfl
@[simp] theorem setCtx_clusters : (setCtx s n x).clusters = s.clusters := rfl
@[simp] theorem setCtx_hinges : (setCtx s n x).hinges = s.hinges := rfl
@[simp] theorem setCtx_launches : (setCtx s n x).launches = s.launches := rfl
@[simp] theorem setCtx_pending : (setCtx s n x).pending = s.pending := rfl
@[simp] theorem setCtx_matrix : (setCtx s n x).matrix = s.matrix := rfl
@[simp] theorem setCtx_triggers : (setCtx s n x).triggers = s.triggers := rfl
@[simp] theorem setCtx_seq : (setCtx s n x).seq = s.seq := rfl
@[simp] theorem setCtx_now : (setCtx s n x).now = s.now := rfl
@[simp] theorem setCtx_bootTime : (setCtx s n x).bootTime = s.bootTime := rfl
@[simp] theorem setCtx_tick : (setCtx s n x).tick = s.tick := rfl
@[simp] theorem setCtx_cur : (setCtx s n x).cur = s.cur := rfl
@[simp] theorem setCtx_faulted : (setCtx s n x).faulted = s.faulted := rfl
@[simp] theorem setCtx_early : (setCtx s n x).early = s.early := rfl
@[simp] theorem setCtx_walked : (setCtx s n x).walked = s.walked := rfl
@[simp] theorem setCtx_halved : (setCtx s n x).halved = s.halved := rfl
@[simp] theorem setCtx_seen : (setCtx s n x).seen = s.seen := rfl
@[simp] theorem setCtx_wpHits : (setCtx s n x).wpHits = s.wpHits := rfl
@[simp] theorem setCtx_lineCosts : (setCtx s n x).lineCosts = s.lineCosts := rfl
@[simp] theorem setCtx_agenda : (setCtx s n x).agenda = s.agenda := rfl
@[simp] theorem setCtx_sent : (setCtx s n x).sent = s.sent := rfl
@[simp] theorem setCtx_profileN : (setCtx s n x).profileN = s.profileN := rfl
@[simp] theorem setCtx_stepping : (setCtx s n x).stepping = s.stepping := rfl
@[simp] theorem setCtx_links : (setCtx s n x).links = s.links := rfl
@[simp] theorem setCtx_repair : (setCtx s n x).repair = s.repair := rfl
@[simp] theorem setCtx_apbase : (setCtx s n x).apbase = s.apbase := rfl
@[simp] theorem setCtx_bootStages : (setCtx s n x).bootStages = s.bootStages := rfl
@[simp] theorem setCtx_bootError : (setCtx s n x).bootError = s.bootError := rfl
@[simp] theorem setCtx_bootState : (setCtx s n x).bootState = s.bootState := rfl
@[simp] theorem setCtx_warmWanted : (setCtx s n x).warmWanted = s.warmWanted := rfl
@[simp] theorem setCtx_boot : (setCtx s n x).boot = s.boot := rfl
@[simp] theorem setCtx_plimit : (setCtx s n x).plimit = s.plimit := rfl
@[simp] theorem setCtx_hot : (setCtx s n x).hot = s.hot := rfl
@[simp] theorem setCtx_trigcnt : (setCtx s n x).trigcnt = s.trigcnt := rfl
@[simp] theorem setCtx_meas : (setCtx s n x).meas = s.meas := rfl
@[simp] theorem setCtx_mchain : (setCtx s n x).mchain = s.mchain := rfl
@[simp] theorem setCtx_attNonce : (setCtx s n x).attNonce = s.attNonce := rfl
@[simp] theorem setCtx_attGo : (setCtx s n x).attGo = s.attGo := rfl
@[simp] theorem setCtx_attRep : (setCtx s n x).attRep = s.attRep := rfl
@[simp] theorem setCtx_bootCount : (setCtx s n x).bootCount = s.bootCount := rfl
@[simp] theorem setCtx_msix : (setCtx s n x).msix = s.msix := rfl
@[simp] theorem setCtx_pba : (setCtx s n x).pba = s.pba := rfl
@[simp] theorem setCtx_picks : (setCtx s n x).picks = s.picks := rfl
end

/-! ### setBand -/

section
variable (s : State) (k : Nat) (x : Band)
@[simp] theorem setBand_mem : (setBand s k x).mem = s.mem := rfl
@[simp] theorem setBand_remap : (setBand s k x).remap = s.remap := rfl
@[simp] theorem setBand_promo : (setBand s k x).promo = s.promo := rfl
@[simp] theorem setBand_teams : (setBand s k x).teams = s.teams := rfl
@[simp] theorem setBand_cores : (setBand s k x).cores = s.cores := rfl
@[simp] theorem setBand_clusters : (setBand s k x).clusters = s.clusters := rfl
@[simp] theorem setBand_hinges : (setBand s k x).hinges = s.hinges := rfl
@[simp] theorem setBand_contexts : (setBand s k x).contexts = s.contexts := rfl
@[simp] theorem setBand_launches : (setBand s k x).launches = s.launches := rfl
@[simp] theorem setBand_pending : (setBand s k x).pending = s.pending := rfl
@[simp] theorem setBand_matrix : (setBand s k x).matrix = s.matrix := rfl
@[simp] theorem setBand_triggers : (setBand s k x).triggers = s.triggers := rfl
@[simp] theorem setBand_seq : (setBand s k x).seq = s.seq := rfl
@[simp] theorem setBand_now : (setBand s k x).now = s.now := rfl
@[simp] theorem setBand_bootTime : (setBand s k x).bootTime = s.bootTime := rfl
@[simp] theorem setBand_tick : (setBand s k x).tick = s.tick := rfl
@[simp] theorem setBand_cur : (setBand s k x).cur = s.cur := rfl
@[simp] theorem setBand_faulted : (setBand s k x).faulted = s.faulted := rfl
@[simp] theorem setBand_early : (setBand s k x).early = s.early := rfl
@[simp] theorem setBand_walked : (setBand s k x).walked = s.walked := rfl
@[simp] theorem setBand_halved : (setBand s k x).halved = s.halved := rfl
@[simp] theorem setBand_seen : (setBand s k x).seen = s.seen := rfl
@[simp] theorem setBand_wpHits : (setBand s k x).wpHits = s.wpHits := rfl
@[simp] theorem setBand_lineCosts : (setBand s k x).lineCosts = s.lineCosts := rfl
@[simp] theorem setBand_agenda : (setBand s k x).agenda = s.agenda := rfl
@[simp] theorem setBand_sent : (setBand s k x).sent = s.sent := rfl
@[simp] theorem setBand_profileN : (setBand s k x).profileN = s.profileN := rfl
@[simp] theorem setBand_stepping : (setBand s k x).stepping = s.stepping := rfl
@[simp] theorem setBand_links : (setBand s k x).links = s.links := rfl
@[simp] theorem setBand_repair : (setBand s k x).repair = s.repair := rfl
@[simp] theorem setBand_apbase : (setBand s k x).apbase = s.apbase := rfl
@[simp] theorem setBand_bootStages : (setBand s k x).bootStages = s.bootStages := rfl
@[simp] theorem setBand_bootError : (setBand s k x).bootError = s.bootError := rfl
@[simp] theorem setBand_bootState : (setBand s k x).bootState = s.bootState := rfl
@[simp] theorem setBand_warmWanted : (setBand s k x).warmWanted = s.warmWanted := rfl
@[simp] theorem setBand_boot : (setBand s k x).boot = s.boot := rfl
@[simp] theorem setBand_plimit : (setBand s k x).plimit = s.plimit := rfl
@[simp] theorem setBand_hot : (setBand s k x).hot = s.hot := rfl
@[simp] theorem setBand_trigcnt : (setBand s k x).trigcnt = s.trigcnt := rfl
@[simp] theorem setBand_meas : (setBand s k x).meas = s.meas := rfl
@[simp] theorem setBand_mchain : (setBand s k x).mchain = s.mchain := rfl
@[simp] theorem setBand_attNonce : (setBand s k x).attNonce = s.attNonce := rfl
@[simp] theorem setBand_attGo : (setBand s k x).attGo = s.attGo := rfl
@[simp] theorem setBand_attRep : (setBand s k x).attRep = s.attRep := rfl
@[simp] theorem setBand_bootCount : (setBand s k x).bootCount = s.bootCount := rfl
@[simp] theorem setBand_msix : (setBand s k x).msix = s.msix := rfl
@[simp] theorem setBand_pba : (setBand s k x).pba = s.pba := rfl
@[simp] theorem setBand_picks : (setBand s k x).picks = s.picks := rfl
end

/-! ### setTeam -/

section
variable (s : State) (k : Nat) (x : Team)
@[simp] theorem setTeam_mem : (setTeam s k x).mem = s.mem := rfl
@[simp] theorem setTeam_remap : (setTeam s k x).remap = s.remap := rfl
@[simp] theorem setTeam_promo : (setTeam s k x).promo = s.promo := rfl
@[simp] theorem setTeam_bands : (setTeam s k x).bands = s.bands := rfl
@[simp] theorem setTeam_cores : (setTeam s k x).cores = s.cores := rfl
@[simp] theorem setTeam_clusters : (setTeam s k x).clusters = s.clusters := rfl
@[simp] theorem setTeam_hinges : (setTeam s k x).hinges = s.hinges := rfl
@[simp] theorem setTeam_contexts : (setTeam s k x).contexts = s.contexts := rfl
@[simp] theorem setTeam_launches : (setTeam s k x).launches = s.launches := rfl
@[simp] theorem setTeam_pending : (setTeam s k x).pending = s.pending := rfl
@[simp] theorem setTeam_matrix : (setTeam s k x).matrix = s.matrix := rfl
@[simp] theorem setTeam_triggers : (setTeam s k x).triggers = s.triggers := rfl
@[simp] theorem setTeam_seq : (setTeam s k x).seq = s.seq := rfl
@[simp] theorem setTeam_now : (setTeam s k x).now = s.now := rfl
@[simp] theorem setTeam_bootTime : (setTeam s k x).bootTime = s.bootTime := rfl
@[simp] theorem setTeam_tick : (setTeam s k x).tick = s.tick := rfl
@[simp] theorem setTeam_cur : (setTeam s k x).cur = s.cur := rfl
@[simp] theorem setTeam_faulted : (setTeam s k x).faulted = s.faulted := rfl
@[simp] theorem setTeam_early : (setTeam s k x).early = s.early := rfl
@[simp] theorem setTeam_walked : (setTeam s k x).walked = s.walked := rfl
@[simp] theorem setTeam_halved : (setTeam s k x).halved = s.halved := rfl
@[simp] theorem setTeam_seen : (setTeam s k x).seen = s.seen := rfl
@[simp] theorem setTeam_wpHits : (setTeam s k x).wpHits = s.wpHits := rfl
@[simp] theorem setTeam_lineCosts : (setTeam s k x).lineCosts = s.lineCosts := rfl
@[simp] theorem setTeam_agenda : (setTeam s k x).agenda = s.agenda := rfl
@[simp] theorem setTeam_sent : (setTeam s k x).sent = s.sent := rfl
@[simp] theorem setTeam_profileN : (setTeam s k x).profileN = s.profileN := rfl
@[simp] theorem setTeam_stepping : (setTeam s k x).stepping = s.stepping := rfl
@[simp] theorem setTeam_links : (setTeam s k x).links = s.links := rfl
@[simp] theorem setTeam_repair : (setTeam s k x).repair = s.repair := rfl
@[simp] theorem setTeam_apbase : (setTeam s k x).apbase = s.apbase := rfl
@[simp] theorem setTeam_bootStages : (setTeam s k x).bootStages = s.bootStages := rfl
@[simp] theorem setTeam_bootError : (setTeam s k x).bootError = s.bootError := rfl
@[simp] theorem setTeam_bootState : (setTeam s k x).bootState = s.bootState := rfl
@[simp] theorem setTeam_warmWanted : (setTeam s k x).warmWanted = s.warmWanted := rfl
@[simp] theorem setTeam_boot : (setTeam s k x).boot = s.boot := rfl
@[simp] theorem setTeam_plimit : (setTeam s k x).plimit = s.plimit := rfl
@[simp] theorem setTeam_hot : (setTeam s k x).hot = s.hot := rfl
@[simp] theorem setTeam_trigcnt : (setTeam s k x).trigcnt = s.trigcnt := rfl
@[simp] theorem setTeam_meas : (setTeam s k x).meas = s.meas := rfl
@[simp] theorem setTeam_mchain : (setTeam s k x).mchain = s.mchain := rfl
@[simp] theorem setTeam_attNonce : (setTeam s k x).attNonce = s.attNonce := rfl
@[simp] theorem setTeam_attGo : (setTeam s k x).attGo = s.attGo := rfl
@[simp] theorem setTeam_attRep : (setTeam s k x).attRep = s.attRep := rfl
@[simp] theorem setTeam_bootCount : (setTeam s k x).bootCount = s.bootCount := rfl
@[simp] theorem setTeam_msix : (setTeam s k x).msix = s.msix := rfl
@[simp] theorem setTeam_pba : (setTeam s k x).pba = s.pba := rfl
@[simp] theorem setTeam_picks : (setTeam s k x).picks = s.picks := rfl
end

/-! ### setStream -/

section
variable (s : State) (h n : Nat) (x : Stream)
@[simp] theorem setStream_mem : (setStream s h n x).mem = s.mem := rfl
@[simp] theorem setStream_remap : (setStream s h n x).remap = s.remap := rfl
@[simp] theorem setStream_promo : (setStream s h n x).promo = s.promo := rfl
@[simp] theorem setStream_bands : (setStream s h n x).bands = s.bands := rfl
@[simp] theorem setStream_teams : (setStream s h n x).teams = s.teams := rfl
@[simp] theorem setStream_cores : (setStream s h n x).cores = s.cores := rfl
@[simp] theorem setStream_clusters : (setStream s h n x).clusters = s.clusters := rfl
@[simp] theorem setStream_contexts : (setStream s h n x).contexts = s.contexts := rfl
@[simp] theorem setStream_launches : (setStream s h n x).launches = s.launches := rfl
@[simp] theorem setStream_pending : (setStream s h n x).pending = s.pending := rfl
@[simp] theorem setStream_matrix : (setStream s h n x).matrix = s.matrix := rfl
@[simp] theorem setStream_triggers : (setStream s h n x).triggers = s.triggers := rfl
@[simp] theorem setStream_seq : (setStream s h n x).seq = s.seq := rfl
@[simp] theorem setStream_now : (setStream s h n x).now = s.now := rfl
@[simp] theorem setStream_bootTime : (setStream s h n x).bootTime = s.bootTime := rfl
@[simp] theorem setStream_tick : (setStream s h n x).tick = s.tick := rfl
@[simp] theorem setStream_cur : (setStream s h n x).cur = s.cur := rfl
@[simp] theorem setStream_faulted : (setStream s h n x).faulted = s.faulted := rfl
@[simp] theorem setStream_early : (setStream s h n x).early = s.early := rfl
@[simp] theorem setStream_walked : (setStream s h n x).walked = s.walked := rfl
@[simp] theorem setStream_halved : (setStream s h n x).halved = s.halved := rfl
@[simp] theorem setStream_seen : (setStream s h n x).seen = s.seen := rfl
@[simp] theorem setStream_wpHits : (setStream s h n x).wpHits = s.wpHits := rfl
@[simp] theorem setStream_lineCosts : (setStream s h n x).lineCosts = s.lineCosts := rfl
@[simp] theorem setStream_agenda : (setStream s h n x).agenda = s.agenda := rfl
@[simp] theorem setStream_sent : (setStream s h n x).sent = s.sent := rfl
@[simp] theorem setStream_profileN : (setStream s h n x).profileN = s.profileN := rfl
@[simp] theorem setStream_stepping : (setStream s h n x).stepping = s.stepping := rfl
@[simp] theorem setStream_links : (setStream s h n x).links = s.links := rfl
@[simp] theorem setStream_repair : (setStream s h n x).repair = s.repair := rfl
@[simp] theorem setStream_apbase : (setStream s h n x).apbase = s.apbase := rfl
@[simp] theorem setStream_bootStages : (setStream s h n x).bootStages = s.bootStages := rfl
@[simp] theorem setStream_bootError : (setStream s h n x).bootError = s.bootError := rfl
@[simp] theorem setStream_bootState : (setStream s h n x).bootState = s.bootState := rfl
@[simp] theorem setStream_warmWanted : (setStream s h n x).warmWanted = s.warmWanted := rfl
@[simp] theorem setStream_boot : (setStream s h n x).boot = s.boot := rfl
@[simp] theorem setStream_plimit : (setStream s h n x).plimit = s.plimit := rfl
@[simp] theorem setStream_hot : (setStream s h n x).hot = s.hot := rfl
@[simp] theorem setStream_trigcnt : (setStream s h n x).trigcnt = s.trigcnt := rfl
@[simp] theorem setStream_meas : (setStream s h n x).meas = s.meas := rfl
@[simp] theorem setStream_mchain : (setStream s h n x).mchain = s.mchain := rfl
@[simp] theorem setStream_attNonce : (setStream s h n x).attNonce = s.attNonce := rfl
@[simp] theorem setStream_attGo : (setStream s h n x).attGo = s.attGo := rfl
@[simp] theorem setStream_attRep : (setStream s h n x).attRep = s.attRep := rfl
@[simp] theorem setStream_bootCount : (setStream s h n x).bootCount = s.bootCount := rfl
@[simp] theorem setStream_msix : (setStream s h n x).msix = s.msix := rfl
@[simp] theorem setStream_pba : (setStream s h n x).pba = s.pba := rfl
@[simp] theorem setStream_picks : (setStream s h n x).picks = s.picks := rfl
end

/-! ### homeWrite -/

section
variable (s : State) (a : Nat) (bs : List Byte)
@[simp] theorem homeWrite_remap : (homeWrite s a bs).remap = s.remap := rfl
@[simp] theorem homeWrite_promo : (homeWrite s a bs).promo = s.promo := rfl
@[simp] theorem homeWrite_bands : (homeWrite s a bs).bands = s.bands := rfl
@[simp] theorem homeWrite_teams : (homeWrite s a bs).teams = s.teams := rfl
@[simp] theorem homeWrite_cores : (homeWrite s a bs).cores = s.cores := rfl
@[simp] theorem homeWrite_clusters : (homeWrite s a bs).clusters = s.clusters := rfl
@[simp] theorem homeWrite_hinges : (homeWrite s a bs).hinges = s.hinges := rfl
@[simp] theorem homeWrite_contexts : (homeWrite s a bs).contexts = s.contexts := rfl
@[simp] theorem homeWrite_launches : (homeWrite s a bs).launches = s.launches := rfl
@[simp] theorem homeWrite_pending : (homeWrite s a bs).pending = s.pending := rfl
@[simp] theorem homeWrite_matrix : (homeWrite s a bs).matrix = s.matrix := rfl
@[simp] theorem homeWrite_triggers : (homeWrite s a bs).triggers = s.triggers := rfl
@[simp] theorem homeWrite_seq : (homeWrite s a bs).seq = s.seq := rfl
@[simp] theorem homeWrite_now : (homeWrite s a bs).now = s.now := rfl
@[simp] theorem homeWrite_bootTime : (homeWrite s a bs).bootTime = s.bootTime := rfl
@[simp] theorem homeWrite_tick : (homeWrite s a bs).tick = s.tick := rfl
@[simp] theorem homeWrite_cur : (homeWrite s a bs).cur = s.cur := rfl
@[simp] theorem homeWrite_faulted : (homeWrite s a bs).faulted = s.faulted := rfl
@[simp] theorem homeWrite_early : (homeWrite s a bs).early = s.early := rfl
@[simp] theorem homeWrite_walked : (homeWrite s a bs).walked = s.walked := rfl
@[simp] theorem homeWrite_halved : (homeWrite s a bs).halved = s.halved := rfl
@[simp] theorem homeWrite_seen : (homeWrite s a bs).seen = s.seen := rfl
@[simp] theorem homeWrite_wpHits : (homeWrite s a bs).wpHits = s.wpHits := rfl
@[simp] theorem homeWrite_lineCosts : (homeWrite s a bs).lineCosts = s.lineCosts := rfl
@[simp] theorem homeWrite_agenda : (homeWrite s a bs).agenda = s.agenda := rfl
@[simp] theorem homeWrite_sent : (homeWrite s a bs).sent = s.sent := rfl
@[simp] theorem homeWrite_profileN : (homeWrite s a bs).profileN = s.profileN := rfl
@[simp] theorem homeWrite_stepping : (homeWrite s a bs).stepping = s.stepping := rfl
@[simp] theorem homeWrite_links : (homeWrite s a bs).links = s.links := rfl
@[simp] theorem homeWrite_repair : (homeWrite s a bs).repair = s.repair := rfl
@[simp] theorem homeWrite_apbase : (homeWrite s a bs).apbase = s.apbase := rfl
@[simp] theorem homeWrite_bootStages : (homeWrite s a bs).bootStages = s.bootStages := rfl
@[simp] theorem homeWrite_bootError : (homeWrite s a bs).bootError = s.bootError := rfl
@[simp] theorem homeWrite_bootState : (homeWrite s a bs).bootState = s.bootState := rfl
@[simp] theorem homeWrite_warmWanted : (homeWrite s a bs).warmWanted = s.warmWanted := rfl
@[simp] theorem homeWrite_boot : (homeWrite s a bs).boot = s.boot := rfl
@[simp] theorem homeWrite_plimit : (homeWrite s a bs).plimit = s.plimit := rfl
@[simp] theorem homeWrite_hot : (homeWrite s a bs).hot = s.hot := rfl
@[simp] theorem homeWrite_trigcnt : (homeWrite s a bs).trigcnt = s.trigcnt := rfl
@[simp] theorem homeWrite_meas : (homeWrite s a bs).meas = s.meas := rfl
@[simp] theorem homeWrite_mchain : (homeWrite s a bs).mchain = s.mchain := rfl
@[simp] theorem homeWrite_attNonce : (homeWrite s a bs).attNonce = s.attNonce := rfl
@[simp] theorem homeWrite_attGo : (homeWrite s a bs).attGo = s.attGo := rfl
@[simp] theorem homeWrite_attRep : (homeWrite s a bs).attRep = s.attRep := rfl
@[simp] theorem homeWrite_bootCount : (homeWrite s a bs).bootCount = s.bootCount := rfl
@[simp] theorem homeWrite_msix : (homeWrite s a bs).msix = s.msix := rfl
@[simp] theorem homeWrite_pba : (homeWrite s a bs).pba = s.pba := rfl
@[simp] theorem homeWrite_picks : (homeWrite s a bs).picks = s.picks := rfl
end

/-! ### Reads after writes -/

section
variable (s : State)

@[simp] theorem bandOf_setBand (k : Nat) (b : Band) : bandOf (setBand s k b) k = some b := by simp [bandOf, setBand]
theorem bandOf_setBand_ne {k j : Nat} (h : j ≠ k) (b : Band) : bandOf (setBand s k b) j = bandOf s j := by
  simp [bandOf, setBand, aFind_aInsert_ne h]
@[simp] theorem teamOf_setTeam (k : Nat) (t : Team) : teamOf (setTeam s k t) k = some t := by simp [teamOf, setTeam]
theorem teamOf_setTeam_ne {k j : Nat} (h : j ≠ k) (t : Team) : teamOf (setTeam s k t) j = teamOf s j := by
  simp [teamOf, setTeam, aFind_aInsert_ne h]
@[simp] theorem coreOf_setCore (k : Nat) (c : Core) : coreOf (setCore s k c) k = c := by simp [coreOf, setCore]
theorem coreOf_setCore_ne {k j : Nat} (h : j ≠ k) (c : Core) : coreOf (setCore s k c) j = coreOf s j := by
  simp [coreOf, setCore, aGet_aInsert_ne h]
@[simp] theorem clusterOf_setCluster (k : Nat) (c : Cluster) : clusterOf (setCluster s k c) k = c := by
  simp [clusterOf, setCluster]
theorem clusterOf_setCluster_ne {k j : Nat} (h : j ≠ k) (c : Cluster) :
    clusterOf (setCluster s k c) j = clusterOf s j := by
  simp [clusterOf, setCluster, aGet_aInsert_ne h]
@[simp] theorem hingeOf_setHinge (k : Nat) (x : Hinge) : hingeOf (setHinge s k x) k = x := by simp [hingeOf, setHinge]
theorem hingeOf_setHinge_ne {k j : Nat} (h : j ≠ k) (x : Hinge) : hingeOf (setHinge s k x) j = hingeOf s j := by
  simp [hingeOf, setHinge, aGet_aInsert_ne h]
@[simp] theorem ctxOf_setCtx (k : Nat) (c : Context) : ctxOf (setCtx s k c) k = c := by simp [ctxOf, setCtx]
theorem ctxOf_setCtx_ne {k j : Nat} (h : j ≠ k) (c : Context) : ctxOf (setCtx s k c) j = ctxOf s j := by
  simp [ctxOf, setCtx, aGet_aInsert_ne h]
@[simp] theorem streamOf_setStream (h n : Nat) (t : Stream) : streamOf (setStream s h n t) h n = t := by
  simp [streamOf, setStream]
theorem streamOf_setStream_ne {h n j : Nat} (hj : j ≠ n) (t : Stream) :
    streamOf (setStream s h n t) h j = streamOf s h j := by
  simp [streamOf, setStream, aGet_aInsert_ne hj]

/-- Reads of one part after a write of another. -/
@[simp] theorem teamOf_setBand (k j : Nat) (b : Band) : teamOf (setBand s k b) j = teamOf s j := rfl
@[simp] theorem coreOf_setBand (k j : Nat) (b : Band) : coreOf (setBand s k b) j = coreOf s j := rfl
@[simp] theorem clusterOf_setBand (k j : Nat) (b : Band) : clusterOf (setBand s k b) j = clusterOf s j := rfl
@[simp] theorem hingeOf_setBand (k j : Nat) (b : Band) : hingeOf (setBand s k b) j = hingeOf s j := rfl
@[simp] theorem ctxOf_setBand (k j : Nat) (b : Band) : ctxOf (setBand s k b) j = ctxOf s j := rfl
@[simp] theorem bandOf_setTeam (k j : Nat) (t : Team) : bandOf (setTeam s k t) j = bandOf s j := rfl
@[simp] theorem bandOf_setCore (k j : Nat) (c : Core) : bandOf (setCore s k c) j = bandOf s j := rfl
@[simp] theorem bandOf_setCtx (k j : Nat) (c : Context) : bandOf (setCtx s k c) j = bandOf s j := rfl
@[simp] theorem bandOf_setHinge (k j : Nat) (x : Hinge) : bandOf (setHinge s k x) j = bandOf s j := rfl
@[simp] theorem bandOf_setCluster (k j : Nat) (c : Cluster) : bandOf (setCluster s k c) j = bandOf s j := rfl
@[simp] theorem teamOf_setCore (k j : Nat) (c : Core) : teamOf (setCore s k c) j = teamOf s j := rfl
@[simp] theorem ctxOf_setTeam (k j : Nat) (t : Team) : ctxOf (setTeam s k t) j = ctxOf s j := rfl
@[simp] theorem coreOf_setTeam (k j : Nat) (t : Team) : coreOf (setTeam s k t) j = coreOf s j := rfl
end

end Sys2Proof.Machine
end

