-- ==== Sys2Proof/Laws/Memory.lean ====
section
/-! SUPPORT. Laws of memory: what a write leaves to be read, and that every operation over home memory keeps its canonical
form. -/

namespace Sys2Proof.Machine

/-! ### Read after write -/

/-- A byte outside a write reads as before. -/
theorem aGet_writeBytes_out (d : Byte) (m : AList Byte) (a : Nat) (bs : List Byte) {k : Nat}
    (h : k < a ∨ a + bs.length ≤ k) : aGet d k (writeBytes d m a bs) = aGet d k m := by
  induction bs generalizing m a with
  | nil => rfl
  | cons b bs ih =>
    simp only [List.length_cons] at h
    rw [writeBytes, ih _ _ (by omega), aGet_aSet_ne (by omega)]

/-- A byte inside a write reads as written. -/
theorem aGet_writeBytes_in (d : Byte) (m : AList Byte) (a : Nat) (bs : List Byte) {i : Nat} (h : i < bs.length) :
    aGet d (a + i) (writeBytes d m a bs) = bs[i] := by
  induction bs generalizing m a i with
  | nil => simp at h
  | cons b bs ih =>
    cases i with
    | zero => rw [writeBytes, aGet_writeBytes_out _ _ _ _ (by omega)]; simp
    | succ i =>
      simp only [List.length_cons] at h
      rw [writeBytes, show a + (i + 1) = a + 1 + i by omega, ih _ _ (by omega)]
      simp

/-- A read over bytes that agree gives the same bytes. -/
theorem readBytes_congr (d : Byte) {m m' : AList Byte} {a n : Nat}
    (h : ∀ i, i < n → aGet d (a + i) m = aGet d (a + i) m') : readBytes d m a n = readBytes d m' a n := by
  induction n generalizing a with
  | zero => rfl
  | succ n ih =>
    simp only [readBytes]
    rw [ih fun i hi => by simpa [Nat.add_assoc, Nat.add_comm 1 i] using h (i + 1) (by omega)]
    simpa using h 0 (by omega)

/-- A read of what was written gives it. -/
theorem readBytes_writeBytes (d : Byte) (m : AList Byte) (a : Nat) (bs : List Byte) :
    readBytes d (writeBytes d m a bs) a bs.length = bs := by
  induction bs generalizing m a with
  | nil => rfl
  | cons b bs ih =>
    rw [List.length_cons, readBytes, writeBytes, ih, aGet_writeBytes_out _ _ _ _ (by omega)]
    simp

/-- A read beside a write gives what it gave before. -/
theorem readBytes_writeBytes_out (d : Byte) (m : AList Byte) (a : Nat) (bs : List Byte) {k n : Nat}
    (h : k + n ≤ a ∨ a + bs.length ≤ k) : readBytes d (writeBytes d m a bs) k n = readBytes d m k n :=
  readBytes_congr d fun i hi => aGet_writeBytes_out d m a bs (by omega)

@[simp] theorem homeRead_homeWrite (s : State) (a : Nat) (bs : List Byte) :
    homeRead (homeWrite s a bs) a bs.length = bs := readBytes_writeBytes 0 s.mem a bs

theorem homeRead_homeWrite_out (s : State) (a : Nat) (bs : List Byte) {k n : Nat}
    (h : k + n ≤ a ∨ a + bs.length ≤ k) : homeRead (homeWrite s a bs) k n = homeRead s k n :=
  readBytes_writeBytes_out 0 s.mem a bs h

/-! ### The canonical form -/

theorem wf_reset : Memory.wf State.reset.mem = true := rfl

theorem wf_writeBytes {m : AList Byte} (a : Nat) (bs : List Byte) (h : Memory.wf m = true) :
    Memory.wf (writeBytes 0 m a bs) = true := by
  induction bs generalizing m a with
  | nil => exact h
  | cons b bs ih => exact ih (a + 1) (aCanonical_aSet a b h)

theorem wf_homeWrite {s : State} (a : Nat) (bs : List Byte) (h : Memory.wf s.mem = true) :
    Memory.wf (homeWrite s a bs).mem = true := wf_writeBytes a bs h

theorem filter_eq_aFilter {β : Type} (p : Nat × β → Bool) (m : AList β) : m.filter p = aFilter (fun k v => p (k, v)) m := by
  induction m with
  | nil => rfl
  | cons e m ih => simp only [List.filter_cons, aFilter, ih]

theorem wf_filter {m : AList Byte} (p : Nat × Byte → Bool) (h : Memory.wf m = true) : Memory.wf (m.filter p) = true := by
  rw [filter_eq_aFilter]
  exact aCanonical_aFilter _ h

theorem ringWrite_wf {s : State} (r : Ring) (rcd : List Byte) (h : Memory.wf s.mem = true) :
    Memory.wf (ringWrite s r rcd).1.mem = true := wf_homeWrite _ _ h

theorem ringPut_wf {s : State} (r : Ring) (rcd : List Byte) (h : Memory.wf s.mem = true) :
    Memory.wf (ringPut s r rcd).1.mem = true := by
  unfold ringPut
  split
  · exact h
  · exact ringWrite_wf r rcd h

theorem raiseMsi_mem (s : State) (vec : Nat) : (raiseMsi s vec).mem = s.mem := by
  unfold raiseMsi
  split <;> rfl

theorem hingeEvent_wf {s : State} (n kind unit group v : Nat) (h : Memory.wf s.mem = true) :
    Memory.wf (hingeEvent s n kind unit group v).mem = true := by
  simp only [hingeEvent]
  split
  · rw [raiseMsi_mem]; exact ringPut_wf _ _ h
  · exact ringPut_wf _ _ h

theorem errorRecord_wf {s : State} (tm : Team) (slot kind lanes first second : Nat) (tpc taddr tinfo : DWord)
    (h : Memory.wf s.mem = true) :
    Memory.wf (errorRecord s tm slot kind lanes first second tpc taddr tinfo).mem = true := by
  simp only [errorRecord]
  split <;> exact ringPut_wf _ _ h

theorem setLevel_mem (s : State) (l : Level) (m : AList Copy) : (setLevel s l m).mem = s.mem := by cases l <;> rfl

theorem putCopy_mem (s : State) (l : Level) (a : Nat) (c : Copy) : (putCopy s l a c).mem = s.mem := setLevel_mem ..

theorem cleanByte_wf (a : Nat) (p : List Level) (n : Nat) {s : State} (h : Memory.wf s.mem = true) :
    Memory.wf (cleanByte a p n s).mem = true := by
  induction p generalizing n s with
  | nil => exact h
  | cons l rest ih =>
    cases n with
    | zero => exact h
    | succ n =>
      simp only [cleanByte]
      split
      · split
        · apply ih
          rw [putCopy_mem]
          split
          · exact wf_homeWrite _ _ h
          · rw [putCopy_mem]; exact h
        · exact ih n h
      · exact ih n h

theorem setLeafState_wf {s : State} (pte state : Nat) (h : Memory.wf s.mem = true) :
    Memory.wf (setLeafState s pte state).mem = true := wf_homeWrite _ _ h

theorem revivePage_wf {s : State} (l : Leaf) (h : Memory.wf s.mem = true) : Memory.wf (revivePage s l).mem = true :=
  setLeafState_wf _ _ (aCanonical_aFilter _ h)

theorem writeAperture_wf (a : Nat) (bs : List Byte) {s : State} (h : Memory.wf s.mem = true) :
    Memory.wf (writeAperture s a bs).mem = true := by
  induction bs generalizing a s with
  | nil => exact h
  | cons b bs ih =>
    apply ih
    split
    · exact h
    · exact wf_homeWrite _ _ h

theorem withBoot_mem (s : State) (b : Boot) : (withBoot s b).mem = s.mem := rfl

theorem coldReset_wf {s : State} (b : Boot) (h : Memory.wf s.mem = true) : Memory.wf (coldReset s b).mem = true := by
  rw [coldReset, withBoot_mem]
  exact wf_filter _ h

theorem placeCode_wf {s : State} (bs : List Byte) (h : Memory.wf s.mem = true) : Memory.wf (placeCode s bs).mem = true :=
  wf_writeBytes _ _ (wf_writeBytes _ _ (wf_writeBytes _ _ (wf_writeBytes _ _ h)))

end Sys2Proof.Machine
end

