-- ==== Sys2Proof/Laws/Ops.lean ====
section
/-! SUPPORT. Laws of the shared operations: registers, lanes, and one lemma for each way in which an instruction acts. -/

namespace Sys2Proof.Machine

/-! ### Registers -/

@[simp] theorem rdV_wrV (t : Thread) (d : Nat) (v : Word) : rdV (wrV t d v) d = v := by simp [rdV, wrV]
theorem rdV_wrV_ne {d r : Nat} (h : r ≠ d) (t : Thread) (v : Word) : rdV (wrV t d v) r = rdV t r := by
  simp [rdV, wrV, aGet_aSet_ne h]
@[simp] theorem rdV64_wrV64 (t : Thread) (d : Nat) (v : DWord) : rdV64 (wrV64 t d v) d = v := by
  have h : d ≠ d + 1 := by omega
  rw [rdV64, wrV64, rdV_wrV, rdV_wrV_ne h, rdV_wrV]
  ext i hi
  simp only [BitVec.getElem_append, BitVec.getElem_setWidth, BitVec.getLsbD_ushiftRight]
  split
  · simp [BitVec.getLsbD_eq_getElem hi]
  · have : 32 + (i - 32) = i := by omega
    simp [this, BitVec.getLsbD_eq_getElem hi]
theorem rdV_wrV64_ne {d r : Nat} (h : r ≠ d) (h' : r ≠ d + 1) (t : Thread) (v : DWord) :
    rdV (wrV64 t d v) r = rdV t r := by
  rw [wrV64, rdV_wrV_ne h', rdV_wrV_ne h]

@[simp] theorem rdS_wrS (b : Band) (d : Nat) (v : DWord) : rdS (wrS b d v) d = if d < b.sregCount then v else 0 := by
  by_cases h : d < b.sregCount <;> simp [rdS, wrS, h]
theorem rdS_wrS_ne {d r : Nat} (h : r ≠ d) (b : Band) (v : DWord) : rdS (wrS b d v) r = rdS b r := by
  by_cases hd : d < b.sregCount <;> simp [rdS, wrS, hd, aGet_aSet_ne h]
theorem wrS_frame (b : Band) (d : Nat) (v : DWord) :
    wrS b d v = { b with sregs := (wrS b d v).sregs, sEcc := (wrS b d v).sEcc } := by
  by_cases hd : d < b.sregCount <;> simp [wrS, hd]
@[simp] theorem wrS_threads (b : Band) (d : Nat) (v : DWord) : (wrS b d v).threads = b.threads := by
  by_cases hd : d < b.sregCount <;> simp [wrS, hd]
@[simp] theorem wrS_sregCount (b : Band) (d : Nat) (v : DWord) : (wrS b d v).sregCount = b.sregCount := by
  by_cases hd : d < b.sregCount <;> simp [wrS, hd]

@[simp] theorem rdStream_wrStream (t : Stream) (d : Nat) (v : DWord) : rdStream (wrStream t d v) d = v := by
  simp [rdStream, wrStream]
theorem rdStream_wrStream_ne {d r : Nat} (h : r ≠ d) (t : Stream) (v : DWord) :
    rdStream (wrStream t d v) r = rdStream t r := by
  simp [rdStream, wrStream, aGet_aSet_ne h]

/-! ### Lanes -/

@[simp] theorem mapFrom_length {α β : Type} (f : Nat → α → β) (i : Nat) (xs : List α) :
    (mapFrom f i xs).length = xs.length := by
  induction xs generalizing i with
  | nil => rfl
  | cons x xs ih => simp [mapFrom, ih]

theorem mapFrom_getD {α β : Type} (f : Nat → α → β) (i l : Nat) (xs : List α) (d : β) (d' : α) (h : l < xs.length) :
    (mapFrom f i xs).getD l d = f (i + l) (xs.getD l d') := by
  induction xs generalizing i l with
  | nil => simp at h
  | cons x xs ih =>
    cases l with
    | zero => simp [mapFrom]
    | succ l =>
      simp only [List.length_cons] at h
      simp only [mapFrom, List.getD_cons_succ]
      rw [ih (i + 1) l (by omega)]
      congr 1
      omega

theorem threadOf_ge {b : Band} {l : Nat} (h : b.threads.length ≤ l) : threadOf b l = {} := by
  exact List.getD_eq_default _ _ h

theorem threadOf_mapFrom (b : Band) (f : Nat → Thread → Thread) {l : Nat} (h : l < b.threads.length) :
    threadOf { b with threads := mapFrom f 0 b.threads } l = f l (threadOf b l) := by
  have := mapFrom_getD f 0 l b.threads {} {} h
  simpa [threadOf] using this

@[simp] theorem onLanes_length (b : Band) (ls : List Nat) (f : Nat → Thread → Thread) :
    (onLanes b ls f).threads.length = b.threads.length := by simp [onLanes]
theorem onLanes_frame (b : Band) (ls : List Nat) (f : Nat → Thread → Thread) :
    onLanes b ls f = { b with threads := (onLanes b ls f).threads } := rfl
theorem threadOf_onLanes_in (b : Band) {ls : List Nat} (f : Nat → Thread → Thread) {l : Nat} (h : l ∈ ls)
    (hl : l < b.threads.length) : threadOf (onLanes b ls f) l = f l (threadOf b l) := by
  rw [onLanes, threadOf_mapFrom b _ hl]
  simp [h]
theorem threadOf_onLanes_out (b : Band) {ls : List Nat} (f : Nat → Thread → Thread) {l : Nat} (h : l ∉ ls) :
    threadOf (onLanes b ls f) l = threadOf b l := by
  by_cases hl : l < b.threads.length
  · rw [onLanes, threadOf_mapFrom b _ hl]; simp [h]
  · rw [threadOf_ge (by simpa using hl), threadOf_ge (by simpa using hl)]

/-! ### The issue group -/

theorem grpOf_band {s : State} {g : Grp} (h : grpOf s = some g) : bandOf s g.key = some g.band := by
  unfold grpOf at h
  split at h
  · split at h
    · simp only [Option.some.injEq] at h; subst h; assumption
    · cases h
  · cases h
theorem grpOf_live {s : State} {g : Grp} (h : grpOf s = some g) {l : Nat} (hl : l ∈ g.live) : l ∈ g.lanes := by
  unfold grpOf at h
  split at h
  · split at h
    · simp only [Option.some.injEq] at h; subst h; exact List.mem_of_mem_filter hl
    · cases h
  · cases h
theorem grpOf_cur {s : State} {g : Grp} (h : grpOf s = some g) :
    ∃ guard, s.cur = .band g.core g.slot g.lanes g.addr g.len g.word guard := by
  unfold grpOf at h
  split at h
  · split at h
    · simp only [Option.some.injEq] at h; subst h; exact ⟨_, by assumption⟩
    · cases h
  · cases h
theorem strmOf_cur {s : State} {g : Strm} (h : strmOf s = some g) :
    ∃ guard, s.cur = .stream g.hinge g.num g.addr g.len g.word guard := by
  unfold strmOf at h
  split at h
  · simp only [Option.some.injEq] at h; subst h; exact ⟨_, by assumption⟩
  · cases h
theorem strmOf_rcd {s : State} {g : Strm} (h : strmOf s = some g) : g.rcd = streamOf s g.hinge g.num := by
  unfold strmOf at h
  split at h
  · simp only [Option.some.injEq] at h; subst h; rfl
  · cases h
theorem strmOf_word {s : State} {g : Strm} (h : strmOf s = some g) : strmOf s = some g := h

theorem onlyBand_setBand (s : State) (k : Nat) (b : Band) : OnlyBand s (setBand s k b) k :=
  ⟨rfl, fun _ h => bandOf_setBand_ne s h b, fun _ => rfl⟩
theorem onlyStream_setStream (s : State) (h n : Nat) (x : Stream) : OnlyStream s (setStream s h n x) h n := by
  refine ⟨rfl, fun j hj => ?_, ?_, fun j hj => streamOf_setStream_ne s hj x, fun _ => rfl⟩
  · simp [setStream, hingeOf_setHinge_ne s hj]
  · simp [setStream]

/-! ### How an instruction acts -/

/-- An instruction that acts per thread and faults in no thread with a true guard. -/
theorem perThreadTo_ok {s : State} {g : Grp} (hg : grpOf s = some g) (f : Grp → Nat → Thread → LaneRes)
    (r : Nat → Thread) (h : ∀ l ∈ g.live, f g l (threadOf g.band l) = .ok (r l)) :
    ∃ t b', perThreadTo s f = .next t ∧ OnlyBand s t g.key ∧ bandOf t g.key = some b' ∧
      b' = { g.band with threads := b'.threads } ∧ Bystanders g b' ∧
      ∀ l, l < g.band.threads.length → l ∈ g.live → threadOf b' l = { r l with wait := .ready } := by
  have hf : (g.live.filterMap fun i => laneFault g i (f g i (threadOf g.band i))) = [] := by
    rw [List.filterMap_eq_nil_iff]
    intro l hl
    rw [h l hl]
    rfl
  simp only [perThreadTo, hg, hf, List.isEmpty_nil, if_true]
  refine ⟨_, _, rfl, onlyBand_setBand .., bandOf_setBand .., rfl, ⟨by simp, fun l hl => ?_, fun l hlt hl hn => ?_⟩, fun l hlt hl => ?_⟩
  · rw [threadOf_onLanes_out _ _ hl]
  · rw [threadOf_onLanes_in _ _ hl hlt]; simp [hn, moved]
  · rw [threadOf_onLanes_in _ _ (grpOf_live hg hl) hlt]; simp [hl, h l hl, laneAfter]

theorem perThread_ok {s : State} {g : Grp} (hg : grpOf s = some g) (f : Grp → Nat → Thread → LaneRes)
    (r : Nat → Thread) (h : ∀ l ∈ g.live, f g l (threadOf g.band l) = .ok (r l)) :
    ∃ t b', perThread s f = .next t ∧ OnlyBand s t g.key ∧ bandOf t g.key = some b' ∧
      b' = { g.band with threads := b'.threads } ∧ Bystanders g b' ∧
      ∀ l, l < g.band.threads.length → l ∈ g.live → threadOf b' l = moved (r l) g.next :=
  perThreadTo_ok hg _ (fun l => { r l with pc := g.next }) fun l hl => by simp [h l hl]

theorem rangeFault_none {tick n kind : Nat} {regs : List Nat} (h : ∀ r ∈ regs, r < n) :
    rangeFault tick n kind regs = none := by
  have : (regs.filter fun r => decide (n ≤ r)) = [] := by
    rw [List.filter_eq_nil_iff]
    intro r hr
    have := h r hr
    simp; omega
  simp [rangeFault, this]

/-- An instruction of a vector class whose registers the band has. -/
theorem vecOp_ok {s : State} {g : Grp} (hg : grpOf s = some g) {regs : List Nat} (hr : ∀ r ∈ regs, r < g.band.n)
    (f : Grp → Nat → Thread → Thread) :
    ∃ t b', vecOp s regs f = .next t ∧ OnlyBand s t g.key ∧ bandOf t g.key = some b' ∧
      b' = { g.band with threads := b'.threads } ∧ Bystanders g b' ∧
      ∀ l, l < g.band.threads.length → l ∈ g.live → threadOf b' l = moved (f g l (threadOf g.band l)) g.next :=
  perThread_ok hg _ (fun l => f g l (threadOf g.band l)) fun l _ => by simp [rangeFault_none hr]

/-- A per-group instruction that changes the band only, with a thread of a true guard. -/
theorem perGroup_band {s : State} {g : Grp} (hg : grpOf s = some g) (hl : g.live ≠ []) {b : Band}
    (hb : b.threads = g.band.threads) :
    ∃ t b', (perGroup s fun _ => .ok (setBand s g.key b)) = .next t ∧ OnlyBand s t g.key ∧ bandOf t g.key = some b' ∧
      b' = { b with threads := b'.threads } ∧ Bystanders g b' ∧
      ∀ l, l < g.band.threads.length → l ∈ g.live → threadOf b' l = moved (threadOf g.band l) g.next := by
  have he : g.live.isEmpty = false := by simpa using hl
  have ht : ∀ l, threadOf b l = threadOf g.band l := fun l => by simp [threadOf, hb]
  simp only [perGroup, perGroupTo, hg, he, gotoBand, bandOf_setBand, Bool.false_eq_true, if_false]
  refine ⟨_, gotoLanes b g.lanes g.next, rfl, ⟨rfl, fun j hj => ?_, fun _ => rfl⟩, bandOf_setBand .., rfl,
    ⟨by simp [gotoLanes, hb], fun l hl => ?_, fun l hlt hl hn => ?_⟩, fun l hlt hl => ?_⟩
  · rw [bandOf_setBand_ne _ hj, bandOf_setBand_ne _ hj]
  · rw [gotoLanes, threadOf_onLanes_out _ _ hl, ht]
  · rw [gotoLanes, threadOf_onLanes_in _ _ hl (by simpa [hb] using hlt), ht]; rfl
  · rw [gotoLanes, threadOf_onLanes_in _ _ (grpOf_live hg hl) (by simpa [hb] using hlt), ht]; rfl

/-- A group whose guards are all false only goes on. -/
theorem perGroupTo_idle {s : State} {g : Grp} (hg : grpOf s = some g) (hl : g.live = []) (hn : g.lanes ≠ [])
    (f : Grp → State → GrpRes) : perGroupTo s f = .next (gotoBand s g.key g.lanes g.next) := by
  have hf : (g.lanes.filter fun i => !g.live.contains i) = g.lanes := by simp [hl]
  have he : g.lanes.isEmpty = false := by simpa using hn
  simp only [perGroupTo, hg, hf, he, List.isEmpty_iff.2 hl, if_true, Bool.false_eq_true, if_false]

/-- An instruction of the scalar class on a band. -/
theorem scalarOp_band {s : State} {g : Grp} (hg : grpOf s = some g) (hl : g.live ≠ []) (d : Nat)
    (f : (Nat → DWord) → DWord) :
    ∃ t b', scalarOp s d f = .next t ∧ OnlyBand s t g.key ∧ bandOf t g.key = some b' ∧
      b' = { g.band with threads := b'.threads, sregs := b'.sregs, sEcc := b'.sEcc } ∧ Bystanders g b' ∧
      PutsS d (f (rdS g.band)) g.band b' ∧
      ∀ l, l < g.band.threads.length → l ∈ g.live → threadOf b' l = moved (threadOf g.band l) g.next := by
  obtain ⟨guard, hc⟩ := grpOf_cur hg
  have hs : scalarOp s d f = perGroup s fun g => .ok (setBand s g.key (wrS g.band d (f (rdS g.band)))) := by
    simp only [scalarOp, hc]
  have hs' : (perGroup s fun g => .ok (setBand s g.key (wrS g.band d (f (rdS g.band))))) =
      perGroup s fun _ => .ok (setBand s g.key (wrS g.band d (f (rdS g.band)))) := by
    simp only [perGroup, perGroupTo, hg]
  rw [hs, hs']
  obtain ⟨t, b', h1, h2, h3, h4, h5, h6⟩ := perGroup_band hg hl (wrS_threads g.band d (f (rdS g.band)))
  have hr : ∀ r, rdS b' r = rdS (wrS g.band d (f (rdS g.band))) r := fun r => by rw [h4]; rfl
  refine ⟨t, b', h1, h2, h3, ?_, h5, ⟨?_, fun r hr' => ?_⟩, h6⟩
  · rw [h4, wrS_frame]
  · rw [hr, rdS_wrS]
  · rw [hr, rdS_wrS_ne hr']

/-- An instruction of the scalar class on a stream with a true guard. -/
theorem scalarOp_stream {s : State} {g : Strm} (hg : strmOf s = some g) (hl : g.live = true) (d : Nat)
    (f : (Nat → DWord) → DWord) :
    ∃ t x, scalarOp s d f = .next t ∧ OnlyStream s t g.hinge g.num ∧ streamOf t g.hinge g.num = x ∧
      x = { g.rcd with pc := g.next, state := 1, sregs := x.sregs } ∧
      rdStream x d = f (rdStream g.rcd) ∧ ∀ r, r ≠ d → rdStream x r = rdStream g.rcd r := by
  obtain ⟨guard, hc⟩ := strmOf_cur hg
  have hs : scalarOp s d f = onStream s fun g => .ok (setStream s g.hinge g.num (wrStream g.rcd d (f (rdStream g.rcd)))) := by
    simp only [scalarOp, hc]
  rw [hs]
  simp only [onStream, hg, hl, Bool.not_true, Bool.false_eq_true, if_false, streamOf_setStream]
  refine ⟨_, _, rfl, ?_, streamOf_setStream .., rfl, ?_, fun r hr => ?_⟩
  · refine ⟨rfl, fun j hj => ?_, ?_, fun j hj => ?_, fun _ => rfl⟩
    · simp [setStream, hingeOf_setHinge_ne _ hj]
    · simp [setStream]
    · rw [streamOf_setStream_ne _ hj, streamOf_setStream_ne _ hj]
  · exact rdStream_wrStream ..
  · exact rdStream_wrStream_ne hr ..

end Sys2Proof.Machine
end

