-- ==== Sys2Proof/Laws/Traps.lean ====
section
/-! SUPPORT. Laws of choices, of taking a trap, and of the ways in which an instruction acts: what each does when it traps, and that
each keeps memory in canonical form. -/

namespace Sys2Proof.Machine

/-! ### Choices and energy -/

/-- A choice changes nothing but the counter of choices. -/
theorem choose_frame (s : State) (n : Nat) : (choose s n).2 = { s with tick := (choose s n).2.tick } := by
  unfold choose
  split <;> rfl

@[simp] theorem choose_mem (s : State) (n : Nat) : (choose s n).2.mem = s.mem := by rw [choose_frame]

/-- A choice among some outcomes is one of them. -/
theorem choose_lt (s : State) {n : Nat} (h : 0 < n) : (choose s n).1 < n := by
  unfold choose
  split
  · exact h
  · exact Nat.mod_lt _ h

/-- Energy changes bands and cores alone. -/
theorem addEnergy_frame (s : State) (k n : Nat) :
    addEnergy s k n = { s with bands := (addEnergy s k n).bands, cores := (addEnergy s k n).cores } := by
  unfold addEnergy
  split <;> rfl

@[simp] theorem addEnergy_mem (s : State) (k n : Nat) : (addEnergy s k n).mem = s.mem := by rw [addEnergy_frame]

/-! ### Taking a trap (R421, R423) -/

/-- A thread in its handler: what is saved and where it goes; its other registers are as they were. -/
theorem enterHandler_eq (tvec : DWord) (imprecise : Bool) (f : FaultRec) (t : Thread) :
    enterHandler tvec imprecise f t =
      { t with tpc := f.pc &&& 0x007FFFFFFFFFFFFC, tcause := BitVec.ofNat 9 (f.cause + 256 * bit imprecise), taddr := f.addr
               tinfo := f.info, tlevel := true, pc := tvec &&& 0x007FFFFFFFFFFFFC, wait := .ready } := rfl

/-- Sorting by lane keeps the faults. -/
theorem mem_byLane {x : FaultRec} {fs : List FaultRec} : x ∈ byLane fs ↔ x ∈ fs := by
  induction fs with
  | nil => simp [byLane]
  | cons f fs ih =>
    simp only [byLane, List.mem_append, List.mem_filter, List.mem_cons, ih, decide_eq_true_eq]
    have := Nat.lt_or_ge x.lane f.lane
    tauto

/-- Faults of threads at TLEVEL 0 with a handler: each thread enters it, and nothing but the band and the step's list of faults
changes. -/
theorem takeTraps_enter {s : State} {k : Nat} {b : Band} {tm : Team} (hb : bandOf s k = some b)
    (ht : teamOf s b.team = some tm) (imprecise : Bool) (faults : List FaultRec) (he : s.early = [])
    (hv : tvecOn (ctxOf s tm.ctx).tvec = true) (hl : ∀ f ∈ faults, (threadOf b f.lane).tlevel = false) :
    takeTraps s k imprecise faults =
      setBand { s with faulted := Nat.lor s.faulted (laneMask ((byLane faults).map (·.lane))) } k
        { b with threads := mapFrom (fun i t => match (byLane faults).find? (fun f => f.lane == i) with
            | some f => handled (ctxOf s tm.ctx).tvec imprecise (b.stopped || (ctxOf s tm.ctx).dbgctl.getLsbD 0) f t
            | none => t) 0 b.threads } := by
  have hs : (if imprecise = true then s.early else []) = s.early := by cases imprecise <;> simp [he]
  have hf : (if imprecise = true then faults else s.early ++ faults) = faults := by simp [he]
  have hb' : bandOf { s with faulted := Nat.lor s.faulted (laneMask ((byLane faults).map (·.lane))) } k = some b := hb
  have ht' : teamOf { s with faulted := Nat.lor s.faulted (laneMask ((byLane faults).map (·.lane))) } b.team = some tm := ht
  have hc : ctxOf { s with faulted := Nat.lor s.faulted (laneMask ((byLane faults).map (·.lane))) } tm.ctx = ctxOf s tm.ctx := rfl
  have hfind : (byLane faults).find? (fun f => (threadOf b f.lane).tlevel || !tvecOn (ctxOf s tm.ctx).tvec) = none := by
    rw [List.find?_eq_none]
    intro f hf
    simp [hl f (mem_byLane.mp hf), hv]
  have hfilter : (byLane faults).filter (fun f => !((threadOf b f.lane).tlevel || !tvecOn (ctxOf s tm.ctx).tvec)) = byLane faults := by
    rw [List.filter_eq_self]
    intro f hf
    simp [hl f (mem_byLane.mp hf), hv]
  simp only [takeTraps, hs, hf, hb', ht', hc, hfind, hfilter]
  all_goals rfl

/-- A stream without a CTXSW under way stops no hinge. -/
theorem endSwitch_none {s : State} {id : Nat} (h : s.hinges.all (fun x => x.2.switching != some id) = true) : endSwitch s id = s := by
  simp only [endSwitch, h, if_true]

@[simp] theorem endSwitch_mem (s : State) (id : Nat) : (endSwitch s id).mem = s.mem := by
  unfold endSwitch
  split <;> rfl

/-- A fault of a stream at TLEVEL 0 with a handler. -/
theorem streamTrap_enter {s : State} {h n : Nat} (hl : (streamOf s h n).tlevel = false)
    (hv : tvecOn (streamOf s h n).tvec = true) (cause : Nat) (addr info pc : DWord) :
    streamTrap s h n cause addr info pc = setStream (endSwitch s (h * Config.streams + n)) h n { streamOf s h n with
      tpc := pc &&& 0x007FFFFFFFFFFFFC, tcause := BitVec.ofNat 9 cause, taddr := addr, tinfo := info, tlevel := true
      pc := tvecPc (streamOf s h n).tvec, state := 1, launching := none } := by
  simp [streamTrap, hl, hv]

/-- A fault of a stream at TLEVEL 1 or without a handler. -/
theorem streamTrap_stop {s : State} {h n : Nat}
    (hs : (streamOf s h n).tlevel = true ∨ tvecOn (streamOf s h n).tvec = false) (cause : Nat) (addr info pc : DWord) :
    streamTrap s h n cause addr info pc =
      setStream (endSwitch s (h * Config.streams + n)) h n { streamOf s h n with state := 3, cause := BitVec.ofNat 8 cause, launching := none } := by
  rcases hs with hs | hs <;> simp [streamTrap, hs]

/-! ### Memory stays canonical -/

theorem stopBand_wf {s : State} (k : Nat) (faults : List FaultRec) (f : FaultRec) (double : Bool)
    (h : Memory.wf s.mem = true) : Memory.wf (stopBand s k faults f double).mem = true := by
  simp only [stopBand]
  split
  · exact h
  · split
    · exact h
    · exact errorRecord_wf _ _ _ _ _ _ _ _ _ h

theorem takeTraps_wf {s : State} (k : Nat) (imprecise : Bool) (faults : List FaultRec) (h : Memory.wf s.mem = true) :
    Memory.wf (takeTraps s k imprecise faults).mem = true := by
  simp only [takeTraps]
  split
  · exact h
  · split
    · exact h
    · split
      · exact stopBand_wf _ _ _ _ h
      · exact stopBand_wf _ _ _ _ h

theorem faultLanes_wf {s : State} (g : Grp) (ls : List Nat) (e : Exc) (h : Memory.wf s.mem = true) :
    Memory.wf (faultLanes s g ls e).mem = true := takeTraps_wf _ _ _ h

@[simp] theorem streamTrap_mem (s : State) (h n cause : Nat) (addr info pc : DWord) :
    (streamTrap s h n cause addr info pc).mem = s.mem := by
  simp only [streamTrap]
  split <;> exact endSwitch_mem s _

@[simp] theorem gotoBand_mem (s : State) (k : Nat) (ls : List Nat) (pc : DWord) : (gotoBand s k ls pc).mem = s.mem := by
  unfold gotoBand
  split <;> rfl

@[simp] theorem waitLanes_mem (s : State) (g : Grp) (ls : List Nat) (w : Wait) : (waitLanes s g ls w).mem = s.mem := by
  unfold waitLanes
  split <;> rfl

/-- An instruction that acts per thread keeps memory canonical: only the record of a stop is written. -/
theorem perThreadTo_wf {s t : State} (f : Grp → Nat → Thread → LaneRes) (h : Memory.wf s.mem = true)
    (hn : perThreadTo s f = .next t) : Memory.wf t.mem = true := by
  unfold perThreadTo at hn
  split at hn
  · cases hn
  · injection hn with hn
    subst hn
    split
    · exact h
    · exact takeTraps_wf _ _ _ h

theorem perThread_wf {s t : State} (f : Grp → Nat → Thread → LaneRes) (h : Memory.wf s.mem = true)
    (hn : perThread s f = .next t) : Memory.wf t.mem = true := perThreadTo_wf _ h hn

/-- An instruction that acts once for its group keeps memory canonical when its own part does. -/
theorem perGroupTo_wf {s t : State} {f : Grp → State → GrpRes} (h : Memory.wf s.mem = true)
    (hf : ∀ g u u', grpOf s = some g → Memory.wf u.mem = true → f g u = .ok u' → Memory.wf u'.mem = true)
    (hn : perGroupTo s f = .next t) : Memory.wf t.mem = true := by
  unfold perGroupTo at hn
  split at hn
  · cases hn
  case h_2 g hg =>
    have hu : Memory.wf (if (g.lanes.filter fun i => !g.live.contains i).isEmpty then s
        else gotoBand s g.key (g.lanes.filter fun i => !g.live.contains i) g.next).mem = true := by
      split
      · exact h
      · rw [gotoBand_mem]; exact h
    simp only at hn
    split at hn
    · injection hn with hn; subst hn; exact hu
    · split at hn
      · injection hn with hn; subst hn; exact hf _ _ _ hg hu (by assumption)
      · injection hn with hn; subst hn; exact faultLanes_wf _ _ _ hu
      · injection hn with hn; subst hn; rw [waitLanes_mem]; exact hu
      · injection hn with hn; subst hn; rw [waitLanes_mem]; exact h

theorem perGroup_wf {s t : State} {f : Grp → GrpRes} (h : Memory.wf s.mem = true)
    (hf : ∀ g u, grpOf s = some g → f g = .ok u → Memory.wf u.mem = true) (hn : perGroup s f = .next t) :
    Memory.wf t.mem = true := by
  refine perGroupTo_wf h (fun g u u' hg _ he => ?_) hn
  revert he
  cases hv : f g with
  | ok v => intro he; injection he with he; subst he; rw [gotoBand_mem]; exact hf g v hg hv
  | exc e => intro he; cases he
  | wait w => intro he; cases he
  | hold w => intro he; cases he

theorem bandOnly_wf {s t : State} {f : Grp → Except Exc Band} (h : Memory.wf s.mem = true) (hn : bandOnly s f = .next t) :
    Memory.wf t.mem = true := by
  refine perGroup_wf h (fun g u _ he => ?_) hn
  revert he
  cases f g with
  | ok b => intro he; injection he with he; subst he; exact h
  | error e => intro he; cases he

/-- An instruction of a stream keeps memory canonical when its own part does. -/
theorem onStream_wf {s t : State} {f : Strm → StrmRes} (h : Memory.wf s.mem = true)
    (hf : ∀ g u, strmOf s = some g → f g = .ok u ∨ f g = .jump u ∨ (∃ e, f g = .trap u e) → Memory.wf u.mem = true)
    (hn : onStream s f = .next t) :
    Memory.wf t.mem = true := by
  unfold onStream at hn
  split at hn
  · cases hn
  case h_2 g hg =>
    simp only at hn
    split at hn
    · injection hn with hn; subst hn; exact h
    · cases hv : f g <;> rw [hv] at hn <;> injection hn with hn <;> subst hn
      case ok u => exact hf g u hg (.inl hv)
      case jump u => exact hf g u hg (.inr (.inl hv))
      case trap u e => rw [streamTrap_mem]; exact hf g u hg (.inr (.inr ⟨e, hv⟩))
      case exc e => rw [streamTrap_mem]; exact h
      case wait => exact h

theorem scalarOp_wf {s t : State} (d : Nat) (f : (Nat → DWord) → DWord) (h : Memory.wf s.mem = true)
    (hn : scalarOp s d f = .next t) : Memory.wf t.mem = true := by
  unfold scalarOp at hn
  split at hn
  · refine onStream_wf h (fun g u _ he => ?_) hn
    rcases he with he | he | ⟨e, he⟩
    · injection he with he; subst he; exact h
    · cases he
    · cases he
  · refine perGroup_wf h (fun g u _ he => ?_) hn
    injection he with he; subst he; exact h

end Sys2Proof.Machine
end

