-- ==== Sys2Proof/Tests/Slice0.lean ====
section
/-! SUPPORT. Tests: ill-formed terms refused, words written out from the encodings, single steps of the manual's examples, and for
every statement with hypotheses a state and operands that meet them. -/

namespace Sys2Proof.Tests

open Sys2Proof Sys2Proof.Machine Sys2Proof.Claims

-- one test after the other: each evaluates a step, and many at once take more threads than a small machine has memory for
set_option Elab.async false

/-! ### Small states -/

def always : Guard := { p := 15, neg := false }
def band0 : Band := { team := 0, idx := 0, n := 16, threads := List.replicate 32 {} }
def team0 : Team := {
  ctx := 0, lseq := 1, lpc := 0, team := 0, group := 0, gridIdx := 0, grouped := false, core := 0, index := 0, slots := [0]
  prio := 0, tileCount := 16, slotCount := 384, tumblerCount := 24, pinQuota := 96, rows := 16 }
/-- Tables at pages 1 to 3: virtual page 0 on page 4, RESIDENT; page 1 NONRESIDENT; page 2 DISCARDED. -/
def tables : AList Byte :=
  writeBytes 0 (writeBytes 0 (placeTables []) (3 * 65536 + 8) (leBytes 8 (5 * 65536 + 0x17)))
    (3 * 65536 + 16) (leBytes 8 (6 * 65536 + 0x27))
/-- The state in which the lanes `lanes` of a band of a team issue. -/
def issuing (b : Band) (tm : Team) (lanes : List Nat) : State :=
  { State.reset with
    mem := tables, remap := [(4, { home := some (0, 4) }), (5, { home := some (0, 5) }), (6, { home := some (0, 6) })]
    contexts := [(0, { ptbase := 65536 })], bands := [(0, b)], teams := [(0, tm)]
    cur := .band 0 0 lanes 0x1000 12 0 always }
def group (b : Band) (lanes : List Nat) : Grp :=
  { core := 0, slot := 0, key := 0, lanes := lanes, live := lanes, addr := 0x1000, len := 12, word := 0, band := b }
theorem issuing_grp (b : Band) (tm : Team) (lanes : List Nat) : grpOf (issuing b tm lanes) = some (group b lanes) := by
  show some _ = some _
  congr 1
  show Grp.mk _ _ _ _ _ _ _ _ _ = Grp.mk _ _ _ _ _ _ _ _ _
  congr 1
  exact List.filter_eq_self.2 fun _ _ => rfl
theorem team_at {s : State} {b : Band} {tm : Team} (hc : s.cur = .band 0 0 [0] 0x1000 12 0 always) (hb : s.bands = [(0, b)])
    (ht : s.teams = [(0, tm)]) (h : b.team = 0) : OfTeam s (group b [0]) tm := by
  refine ⟨?_, ?_, List.nodup_singleton _⟩
  · simp only [grpOf, hc, bandOf, hb]
    rfl
  · show aFind b.team s.teams = _
    rw [h, ht]; rfl
theorem issuing_team (tm : Team) (b : Band) (h : b.team = 0) : OfTeam (issuing b tm [0]) (group b [0]) tm :=
  ⟨issuing_grp .., by show aFind b.team _ = _; rw [h]; rfl, List.nodup_singleton _⟩
/-- The state in which stream 0 of hinge 0 issues. -/
def streaming (x : Stream) : State :=
  { State.reset with
    mem := tables, remap := [(4, { home := some (0, 4) })], contexts := [(0, { ptbase := 65536 })]
    hinges := [(0, { streams := [(0, x)] })], cur := .stream 0 0 0x1000 12 0 always }
def stream (x : Stream) : Strm := { hinge := 0, num := 0, addr := 0x1000, len := 12, word := 0, live := true, rcd := x }
theorem streaming_strm (x : Stream) : strmOf (streaming x) = some (stream x) := rfl
/-- The group of lane 0 of `band0`. -/
abbrev g0 : Grp := group band0 [0]
abbrev s0 : State := issuing band0 team0 [0]
theorem of_team : OfTeam s0 g0 team0 := issuing_team _ _ rfl
def leaf0 : Leaf := { ppn := 4, sys := false, state := 0, w := true, x := true, pte := 196608 }
theorem leaf_first : walk s0 0 0 = .ok leaf0 := by decide
theorem leaf_last : walk s0 0 65472 = .ok leaf0 := by decide
/-- No stack is in its flush window or self-refresh. -/
theorem idle {s : State} (h : (s.hinges.any fun h => h.2.memStacks.any fun k => k.2.state != 0) = false) (a : Nat) :
    stackBusy s a = false := by
  unfold stackBusy
  rw [h]
  rfl
theorem idle_band (b : Band) (tm : Team) (l : List Nat) (a : Nat) : stackBusy (issuing b tm l) a = false := idle rfl a
theorem idle_stream (x : Stream) (a : Nat) : stackBusy (streaming x) a = false := idle rfl a
theorem walk_idle {s : State} (h : ∀ a, stackBusy s a = false) (va : Nat) : ∀ n table, walkBusyFrom s va n table = false := by
  intro n
  induction n with
  | zero => exact fun _ => rfl
  | succ n ih => intro table; simp [walkBusyFrom, h, ih]
/-- With empty TLBs and no stack out of service every translation can be walked. -/
theorem walkable {s : State} {id ctx va : Nat} (ht : tlbOf s id = []) (hi : ∀ a, stackBusy s a = false) : Walkable s id ctx va :=
  ⟨(by intro e h; rw [ht] at h; cases h), walk_idle hi _ _ _⟩
theorem present {s : State} {id ctx va : Nat} {write : Bool} (hv : va < 2 ^ 55) (ht : tlbOf s id = []) (hw : walk s ctx va = .ok leaf0)
    (hr : pageLost s 4 = false) (hi : ∀ a, stackBusy s a = false) : Present s id ctx va write leaf0 :=
  ⟨hv, walk_idle hi _ _ _, (by intro e h; rw [ht] at h; cases h), hw, rfl, fun _ => rfl, fun _ => hr, nofun, hi _⟩
theorem kept_page {s : State} {ctx va : Nat} (h : walk s ctx va = .ok leaf0) : isDiscarded s ctx va = false := by
  unfold isDiscarded
  rw [h]
  rfl
theorem leaves : ∀ va ∈ [0, 3, 8, 9, 10, 11, 12, 13, 14, 15, 65472], walk s0 0 va = .ok leaf0 := by decide
theorem present0 (b : Band) (tm : Team) (va : Nat) (write : Bool) (h : va = 0 ∨ va = 65472) :
    Present (issuing b tm [0]) 0 0 va write leaf0 := by
  rcases h with rfl | rfl
  · exact present (by decide) rfl ((show _ = walk s0 0 0 from rfl).trans leaf_first) rfl (idle_band _ _ _)
  · exact present (by decide) rfl ((show _ = walk s0 0 65472 from rfl).trans leaf_last) rfl (idle_band _ _ _)
theorem present_stream (x : Stream) (va : Nat) (write : Bool) (h : va = 0 ∨ va = 65472) :
    Present (streaming x) 60 0 va write leaf0 := by
  rcases h with rfl | rfl
  · exact present (by decide) rfl ((show _ = walk s0 0 0 from rfl).trans leaf_first) rfl (idle_stream _)
  · exact present (by decide) rfl ((show _ = walk s0 0 65472 from rfl).trans leaf_last) rfl (idle_stream _)

/-! ### Ill-formed terms: for each check of WellFormed one that it refuses -/

/-- Refused by the checks of instructions, on a core and on a stream. -/
def refused (is : List Instr) : Bool := is.all fun i => !i.wellFormed false && !i.wellFormed true
def b0 : B8 := ⟨0, false, false⟩
def mem0 (stash : Bool) : MemOp := { base := 0, index := none, off := 0, stash := stash }
theorem test_illFormed_flow : refused [
    .bra ⟨2⟩, .call ⟨1, 6⟩, .brd ⟨1, false, 0, 16⟩, .brd ⟨1, false, 4, 1⟩, .brk ⟨0, 16⟩, .swch ⟨0, 1, 0, Vector.replicate 8 0, 16⟩,
    .swch ⟨1, 1, 0, Vector.replicate 8 16, 16⟩, .swch ⟨2, 1, 0, Vector.replicate 8 0, 18⟩, .loop ⟨.imm 1, 8⟩, .loop ⟨.imm 1, 14⟩,
    .loop ⟨.imm 1, 0xFFFFFFF0⟩] = true := by decide
theorem test_illFormed_integers : refused [
    .sadd ⟨.i32, 1, 2, .lit 5⟩, .sli ⟨.i8, 1, .lit 5⟩, .slea ⟨.i16, 1, 2, 3, 0, 0⟩, .sbfx ⟨.i8, 1, 2, .imm 1 8⟩, .sbfi ⟨.i8, 1, 2, .imm 0 0⟩,
    .vadd ⟨.i64, 2, 4, .lit 5⟩, .vadd ⟨.i32, 64, 1, .lit 5⟩, .vmadw ⟨.n64, 1, 2, .vec 3, 4⟩, .vdot4 ⟨false, false, false, 1, 2, .lit 3, 4⟩,
    .vcmp ⟨.eq, .i32, 15, 1, .vec 2⟩, .vsel ⟨.i32, 1, 2, .lit 3, 1, false⟩, .vabs ⟨.n32, 1, 2⟩, .vbfx ⟨.n16, 1, 2, .imm 9 8⟩,
    .vbfi ⟨.n16, 1, 2, .imm 9 8⟩, .vli ⟨.i32, 64, .lit 5⟩, .vidx ⟨.i8, 1, .vec 2⟩, .vadd ⟨.i64, 3, 4, .vec 6⟩] = true := by decide
theorem test_illFormed_floats : refused [
    .vfadd ⟨.f16, .rne, 1, 2, .imm 0x10000⟩, .vfadd ⟨.f32, .rup, 1, 2, .lit 0⟩, .vfma ⟨.bf16, .rne, false, false, 1, 2, .imm 0x10000, 3⟩,
    .vfmin ⟨.f32, true, 1, 2, .lit 0⟩, .vaddmin ⟨.int .i32, true, .rne, 1, 2, .vec 3, 4⟩, .vfcmp ⟨.eq, .f16x2, 1, 1, .vec 2⟩,
    .vfrcp ⟨.f64, .rne, 2, 4⟩, .vfrsq ⟨.f32, .rup, 1, 2⟩, .vcvt ⟨.flt .f32, .flt .f32, .rne, false, 1, 2⟩,
    .vcvt ⟨.flt .f32, .flt .f16, .rup, false, 1, 2⟩, .vcvt ⟨.int .i8, .int .i32, .rtz, false, 1, 2⟩, .vcvt ⟨.b8 b0, .flt .f32, .rne, false, 1, 2⟩,
    .vqnt ⟨.int .i16, .flt .f32, .rne, true, 1, 2, 3⟩, .vdqnt ⟨.flt .f64, .int .i8, .rne, false, 2, 4, 6⟩,
    .vpack ⟨.int .i8, .int .i32, .rne, true, 1, 2, 3, none⟩, .vunpk ⟨.int .i16, .int .i8, 1, 2⟩] = true := by decide
theorem test_illFormed_lanes : refused [
    .vshfl ⟨.idx, 0, false, 1, 2, .lit 3, none⟩, .vvote ⟨.any 15, 1, false⟩, .vscan ⟨.xor, false, 0, .f32, 1, 2⟩,
    .vred ⟨.and, .f32, 1, .band⟩, .vred ⟨.add, .i32, 1, .team 0 33⟩, .vred ⟨.add, .i32, 1, .cluster 0 257⟩,
    .srdw ⟨1, .wait (.imm 0x10000) none⟩, .srdw ⟨1, .wait (.reg 2) (some 15)⟩, .pandC ⟨15, 1, 2⟩, .pnotC ⟨15, 1⟩, .vtopC ⟨15, 1⟩,
    .pand ⟨false, false, 15, 1, 2⟩, .pnot ⟨false, 15, 1⟩, .vtop ⟨false, 15, 1⟩] = true := by decide
theorem test_illFormed_memory : refused [
    .ld ⟨.n32, some .cluster, .normal, 1, mem0 true⟩, .st ⟨.i8, none, .normal, mem0 false, 1⟩, .sld ⟨.n64, some .package, .normal, 1, 2, 0, true⟩,
    .sst ⟨.i16, none, .normal, 1, 0, false, 2⟩, .ldn ⟨.n32, .normal, 1, mem0 false, 15⟩, .ldn ⟨.n32, .normal, 1, mem0 true, 1⟩,
    .pref ⟨false, .normal, mem0 true⟩, .clean ⟨.package, .lines (mem0 true)⟩, .pin ⟨15, 1, 0⟩, .pgreq ⟨true, 15, mem0 false⟩,
    .kbind ⟨1, 2, 3, 0⟩, .kbind ⟨1, 2, 3, 1048577⟩, .latg ⟨1, 385⟩, .latw ⟨false, 1, 0⟩,
    .atom ⟨.add, false, .none, .cluster, .normal, 1, mem0 true, 2⟩, .atomf ⟨.add, .f32, .none, .team, .ef, 1, mem0 true, 2⟩,
    .cas ⟨false, .none, .package, .normal, 1, mem0 true, 2⟩, .cas2 ⟨.none, .package, .normal, 2, mem0 true, 4⟩, .tinit ⟨1, .imm 0⟩,
    .tinit ⟨1, .imm 0x10000⟩, .tarv ⟨false, 1, some 0⟩, .ttest ⟨1, .test 15 none⟩] = true := by decide
theorem test_illFormed_tiles : refused [
    .mma ⟨.int .i16, 0, .vec 0, .vec 0, 0, none⟩, .mma ⟨.flt .f16, 0, .vec 0, .vec 0, 0, some (0, 0)⟩, .mma ⟨.flt .f64, 1, .vec 0, .vec 0, 2, none⟩,
    .mmas ⟨.s24, .flt .f16, 0, .vec 0, .vec 0, 0, 1⟩, .mmas ⟨.s24, .int .i8, 0, .stash 0 1 true, .vec 0, 0, 1⟩, .tfill ⟨.f64, 1, .imm 0⟩,
    .tfill ⟨.n32, 1, .lit 0⟩, .tident ⟨.flt .f16, .tile 0⟩, .tident ⟨.int .i32, .stash 0⟩, .tld ⟨.n16, true, 0, 1, 2⟩, .tst ⟨.n8, true, 1, 2, 0⟩,
    .tmovv ⟨0, 0, 0, 0⟩, .tmovt ⟨0, 0, 31, 2⟩, .scld ⟨0, 511, 2⟩, .ttopk ⟨true, 1, 2, 1, 4⟩, .ttopk ⟨true, 1, 2, 3, 0⟩,
    .tacc ⟨.i32, .rup, 0, 1, 2⟩, .tacc ⟨.f64, .rne, 1, 2, 4⟩, .tcvt ⟨.flt .f64, true, .rne, false, 0, 1⟩,
    .tcvt ⟨.flt .f32, false, .rne, false, 0, 1⟩] = true := by decide
theorem test_illFormed_system : refused [
    .xred ⟨false, 0, .add, .int .i8, 1, 2, 3, none⟩, .xgth ⟨false, 0, .b8 b0, 1, 2, 3, none⟩, .mts ⟨.lane, .vec 1⟩,
    .accessPerformed, .warmReset] = true ∧ Instr.wellFormed false (.mfs ⟨.fstat, .sca 1⟩) = false ∧
    Instr.wellFormed true (.mfs ⟨.lane, .sca 1⟩) = false ∧ Instr.wellFormed false (.mts ⟨.fctl, .vec 1⟩) = false ∧
    Instr.wellFormed true (.mts ⟨.tpc, .vec 2⟩) = false ∧ Instr.wellFormed true (.brx ⟨.vec 2, 0⟩) = false ∧
    Instr.wellFormed true (.call ⟨64, 4⟩) = false ∧ Instr.wellFormed true (.callx ⟨1, .vec 2, 0⟩) = false ∧
    Instr.wellFormed true (.smovv ⟨.i32, 1, 2, .imm 0⟩) = false ∧
    Instr.wellFormed true (.sld ⟨.n64, none, .normal, 1, 2, 0, true⟩) = false ∧
    Instr.wellFormed true (.sst ⟨.n64, none, .normal, 1, 0, true, 2⟩) = false := by decide
/-- G = 15 with GN; a compact form with GN; a guarded JOIN. -/
theorem test_illFormed_guards : Decoded.wellFormed false ⟨⟨15, true⟩, .sadd ⟨.i64, 1, 2, .reg 3⟩⟩ = false ∧
    Decoded.wellFormed false ⟨⟨1, true⟩, .nopC⟩ = false ∧ Decoded.wellFormed false ⟨⟨1, false⟩, .joinC⟩ = false ∧
    Decoded.wellFormed false ⟨⟨1, true⟩, .sadd ⟨.i64, 1, 2, .lit 3⟩⟩ = false := by decide

/-! ### Words written out from the encodings of 03 to 16 -/

/-- What a core of profile F reads, and what a stream reads. -/
def reads (ws : List Nat) : Except DecodeError Decoded := decodeWords false false ws
def readsStream (ws : List Nat) : Except DecodeError Decoded := decodeWords true false ws
theorem test_decode_flow :
    reads [0x00003C1E, 0x00190100, 0x24] = .ok (plainly (.brd ⟨1, false, 0x19, 0x24⟩)) ∧
    reads [0x00003C20] = .ok (plainly .joinC) ∧
    reads [0x00003C2E, 0x600, 0x18] = .ok (plainly (.loop ⟨.reg 6, 0x18⟩)) ∧
    reads [0x0000BC2E, 0x00020000, 0x24] = .ok (plainly (.loop ⟨.imm 2, 0x24⟩)) ∧
    reads [0x0050BC29, 0x703, 0, 0x30, 0x40, 0, 0, 0, 0, 0, 0, 0x50] =
      .ok (plainly (.swch ⟨2, 5, 0x703, #v[0x30, 0x40, 0, 0, 0, 0, 0, 0], 0x50⟩)) := by decide
theorem test_decode_integers : reads [0x1440FC48] = .ok (plainly (.smulC ⟨3, 4, 5⟩)) ∧
    reads [0x15003D02, 0x00020908, 0] = .ok (plainly (.vadds ⟨.n16, 8, 9, .sca 2⟩)) ∧
    reads [0x0401BC92, 0x00030208, 0x00000010] = .ok (plainly (.slea ⟨.i32, 8, 2, 3, 3, 0x10⟩)) ∧
    reads [0x0000BD22, 0x0F0E0D0C, 0] = .ok (plainly (.vdot4 ⟨false, true, false, 12, 13, .vec 14, 15⟩)) := by decide
theorem test_decode_floats :
    reads [0x34013D82, 0x00040302, 0] = .ok (plainly (.vfadd ⟨.bf16x2, .rup, 2, 3, .vec 4⟩)) ∧
    reads [0x28003DC6, 0x07060504, 0] = .ok (plainly (.vaddmin ⟨.flt .f32, false, .rne, 4, 5, .vec 6, 7⟩)) := by decide
theorem test_decode_lanes :
    reads [0x1A828A42, 0x0A000908, 1] = .ok ⟨⟨2, false⟩, .vshfl ⟨.up, 2, false, 8, 9, .imm 1, some 10⟩⟩ := by decide
theorem test_decode_memory :
    reads [0x50983E82, 0x00020408, 0x10] = .ok (plainly (.ld ⟨.n32, some .cluster, .normal, 8, ⟨4, some (2, 2), 16, false⟩⟩)) ∧
    reads [0x009C3E86, 0x09030600, 0] = .ok (plainly (.st ⟨.n32, none, .normal, ⟨6, some (3, 2), 0, true⟩, 9⟩)) := by decide
theorem test_decode_order : reads [0x90003EBE, 0, 0] = .ok (plainly (.fence ⟨.rel, .cluster⟩)) ∧
    reads [0x18003ECA, 0x705, 0] = .ok (plainly (.kacq ⟨.hinge, 5, 7, none⟩)) ∧
    reads [0x18003ECE, 0x700, 0] = .ok (plainly (.krel ⟨.hinge, 7, none⟩)) ∧
    reads [0x0000BEEE, 2, 0] = .ok (plainly (.tarv ⟨false, 2, none⟩)) ∧
    reads [0x10003EF2, 2, 0] = .ok (plainly (.twait ⟨true, 2, none⟩)) := by decide
theorem test_decode_tiles :
    reads [0x0004BF02, 0x02100002, 0] = .ok (plainly (.mma ⟨.flt .bf16, 2, .vec 0, .vec 16, 2, none⟩)) ∧
    reads [0xD8183F02, 0x040A0804, 0x14040B09] =
      .ok (plainly (.mma ⟨.b8 ⟨4, false, false⟩, 4, .stash 8 9 false, .stash 10 11 true, 4, some (4, 20)⟩)) := by decide
theorem test_decode_engines :
    reads [0x00003F82, 0x00000300, 7] = .ok (plainly (.tdset ⟨3, .imm 7⟩)) ∧
    reads [0x00013F62, 0x0403020A, 0x00070105] = .ok (plainly (.cpost ⟨0, false, 10, 7, 2, 3, 4, 5, some 1⟩)) ∧
    reads [0x90003F72, 0x00040000, 0] = .ok (plainly (.cwait ⟨2, true, 4⟩)) ∧
    reads [0x20003F8E, 0x06050400, 0x000A0103] = .ok (plainly (.xred ⟨false, 3, .add, .flt .f32, 4, 5, 6, some 1⟩)) ∧
    reads [0x40403F92, 0x0403020A, 0x00090305] = .ok (plainly (.embag ⟨1, true, 10, 9, 2, 3, 4, 5, some 3⟩)) := by decide
theorem test_decode_system : reads [0x00017FD4] = .ok (plainly (.bkptC ⟨5⟩)) ∧
    reads [0x00013FDA, 7, 0x12] = .ok (plainly (.snap ⟨.hinge, 7, 0x12⟩)) ∧
    reads [0x0000BFDE, 0x00090000, 0] = .ok (plainly (.mark ⟨.reg 9⟩)) ∧
    reads [0x0000BFE2, 5, 0] = .ok (plainly (.esamp ⟨true, 5⟩)) ∧
    readsStream [0x0000BFA2, 0x0001040A, 0] = .ok (plainly (.launch ⟨10, 4, some 1, none⟩)) ∧
    readsStream [0x00003FAE, 0x00060005, 0x3F] = .ok (plainly (.levw ⟨63, 5, 6⟩)) ∧
    reads [0x0000BFCA, 0x3C, 0x00210000] = .ok (plainly (.mfs ⟨.tcause, .vec 60⟩)) := by decide

/-! ### Single steps: the manual's examples -/

/-- The first step after reset on the words of an instruction, with scalar registers and the registers of lane 0 of its band. -/
def run (w0 w1 w2 : Nat) (sregs : AList DWord) (vregs : AList Word) : Option Band :=
  let s := State.reset.withFetchWord 96 (w0 + w1 * 2 ^ 32 + w2 * 2 ^ 64)
  match bandOf s 0 with
  | some b => match step (setBand s 0 { b with sregs := sregs, threads := { vregs := vregs } :: b.threads.tail }) with
    | .next t => bandOf t 0
    | _ => none
  | none => none
def scalarAfter (b : Option Band) (r : Nat) : Option DWord := b.map fun b => rdS b r
def vectorAfter (b : Option Band) (r : Nat) : Option Word := b.map fun b => rdV (threadOf b 0) r
/-- 04, SBFX. -/
theorem test_sbfx : scalarAfter (run 0x0E003CA2 0x605 0xC08 [(6, 0xABCD123)] []) 5 = some 0xCD1 := by decide +kernel
/-- 04, SLEA: the index as .i32. -/
theorem test_slea : scalarAfter (run 0x0401BC92 0x00030208 0x10 [(2, 0x40000000), (3, 0xFFFFFFFF)] []) 8 = some 0x40000008 := by decide +kernel
/-- 04, VDOT4.mix. -/
theorem test_vdot4 : vectorAfter (run 0x0000BD22 0x0F0E0D0C 0 [] [(13, 0x80FF0203), (14, 0x7F01FC05), (15, 100)]) 12 = some 0xFFFFC2EA := by
  decide +kernel
/-- 05, VADDMIN: the sum rounds to 1.0 with NX, and the minimum is 0.5. -/
theorem test_vaddmin : let b := run 0x28003DC6 0x07060504 0 [] [(5, 0x3F800000), (6, 0x33800000), (7, 0x3F000000)]
    vectorAfter b 4 = some 0x3F000000 ∧ b.map (fun b => (threadOf b 0).fstat) = some flagNX := by decide +kernel

/-! ### Witnesses: states and operands that meet the hypotheses of the statements, for each of their clauses -/


theorem witness_scalar : grpOf s0 = some g0 ∧ g0.live ≠ [] ∧ 15 < g0.band.n ∧ Placed g0 ∧ OfTeam s0 g0 team0 :=
  ⟨issuing_grp .., by decide, by decide, by unfold Placed; decide, of_team⟩
theorem witness_stream : strmOf (streaming {}) = some (stream {}) ∧ (stream {}).live = true := ⟨rfl, rfl⟩
theorem witness_decodeOfEncode : ∃ d : Decoded, d.wellFormed false = true ∧
    (∀ ws, encode d = some ws → RunsOn false ws) ∧ namesF64 d.instr = false := by
  refine ⟨plainly (.saddC { d := 1, a := 2, b := 63 }), by decide, ?_, by decide⟩
  intro ws h
  cases h
  show streamOnly _ = false
  decide
theorem witness_decodeOfEncode_stream : ∃ d : Decoded, d.wellFormed true = true ∧
    (∀ ws, encode d = some ws → RunsOn true ws) ∧ namesF64 d.instr = false := by
  refine ⟨plainly (.lsigHost { vec := 63 }), by decide, ?_, by decide⟩
  intro ws h
  cases h
  show opOnStream _ = true
  decide
theorem witness_scalarEncoding : ∃ o : SOp2, okSOp2 o = true ∧ guardFits { p := 0, neg := true } (.sadd o) = true :=
  ⟨{ ty := .n8, d := 63, a := 63, b := .reg 63 }, by decide, by decide⟩
theorem witness_exactValue : ∃ bits neg mag e, bits < 2 ^ (fmtOf .f32).width ∧
    decodeFmt (fmtOf .f32) bits = .fin neg mag e false := ⟨0x80000001, true, 1, -149, by decide, by decide⟩
/-- 1.0 of .f16, -0.0 and the largest finite number; an infinity and NaNs. -/
theorem witness_denotes : Denotes .f16 0x3C00 false 1 ∧ Denotes .f16 0x8000 true 0 ∧ Denotes .f16 0x7BFF false 65504 ∧
    LargestFinite .f16 65504 ∧ MinNormal .f16 (1 / 16384) ∧ signed true 1 (-1) := by
  refine ⟨⟨by decide, by decide, by decide, ?_⟩, ⟨by decide, by decide, by decide, ?_⟩, ⟨by decide, by decide, by decide, ?_⟩, ?_, ?_, by simp [signed]⟩
  all_goals norm_num [expField, trailField, precision, elemBits, smallest, LargestFinite, MinNormal, topExp]
theorem witness_notNumbers : isInfinity .f32 0xFF800000 ∧ isSignalling .f32 0x7F800001 ∧ isNaN .f16 0x7E00 ∧ ¬ isSignalling .f16 0x7E00 := by
  unfold isInfinity isSignalling isNaN; decide
/-- The neighbours of 2^-25 of .f16. -/
theorem witness_neighbours : OnGrid .f16 0 ∧ OnGrid .f16 ((1 : ℝ) * 2 ^ (-24 : Int)) ∧ (0 : ℝ) ≤ 2 ^ (-25 : Int) ∧ (2 : ℝ) ^ (-25 : Int) < 1 * 2 ^ (-24 : Int) ∧
    ∀ y, OnGrid .f16 y → y ≤ 0 ∨ (1 : ℝ) * 2 ^ (-24 : Int) ≤ y := by
  refine ⟨⟨0, -24, by decide, by decide, by norm_num⟩, ⟨1, -24, by decide, by decide, by norm_num⟩, by positivity, ?_, ?_⟩
  · rw [one_mul]
    exact zpow_lt_zpow_right₀ (by norm_num) (by norm_num)
  · rintro y ⟨m, q, _, hq, rfl⟩
    rcases Nat.eq_zero_or_pos m with rfl | h
    · left; simp
    · right
      have h1 : (1 : ℝ) ≤ m := by exact_mod_cast h
      have h2 : (2 : ℝ) ^ (-24 : Int) ≤ 2 ^ q := zpow_le_zpow_right₀ (by norm_num) hq
      exact mul_le_mul h1 h2 (by positivity) (by positivity)

/-- A VRED of `band0` whose value is known; a round of its team with one contribution of three. -/
def reducing : Band := { band0 with vreds := [{ round := none, lanes := [0], value := some 5, flags := 0 }] }
def rounds : Team := { team0 with rounds := [(3, {
  op := .add, ty := .i32, count := 3, parts := [(9, 1)], owner := (0, 0), slot := 3, ctx := 0 })] }
theorem witness_reduceInTeam : OfTeam (issuing band0 rounds [0]) g0 rounds ∧ g0.band.vreds.length < 8 ∧
    (aFind 3 rounds.rounds).isSome = true ∧ (aFind 4 rounds.rounds) = none := ⟨issuing_team _ _ rfl, by decide, rfl, rfl⟩
def poolRound (slot ctx : Nat) : Round :=
  { op := .add, ty := .i32, count := 3, parts := [(9, 1)], owner := (1, 2 ^ 63), slot := slot, ctx := ctx }
def pooled (l : AList Round) : State := { s0 with clusters := [(0, { rounds := l })] }
/-- The group's open round in entry 63; no round and entry 0 free; no entry free. -/
theorem witness_reduceInCluster : ((Machine.clusterOf (pooled [(63, poolRound 15 0)]) (g0.core / 8)).rounds = [] ++ (63, poolRound 15 0) :: [] ∧
      (poolRound 15 0).owner = (team0.lseq.toNat, 2 ^ 63 + team0.gridIdx) ∧ (poolRound 15 0).parts.length + 1 < (poolRound 15 0).count) ∧
    (0 < 64 ∧ aFind 0 (Machine.clusterOf s0 (g0.core / 8)).rounds = none ∧ ([] : List (Nat × DWord)).length + 1 < (2 : BitVec 16).toNat) ∧
    (∀ x ∈ (Machine.clusterOf (pooled ((List.range 64).map fun i => (i, poolRound 15 1))) (g0.core / 8)).rounds, x.2.ctx ≠ team0.ctx) ∧
    ∀ e, e < 64 → aFind e (Machine.clusterOf (pooled ((List.range 64).map fun i => (i, poolRound 15 1))) (g0.core / 8)).rounds ≠ none := by
  decide
/-- The last contribution to a round of a team, to one of a cluster, and to one that it opens; a band with eight VREDs. -/
theorem witness_reductionCloses : (∃ r, aFind 3 ({ team0 with rounds := [(3, { poolRound 3 0 with count := 2 })] } : Team).rounds = some r ∧
      r.count ≤ r.parts.length + 1) ∧
    clusterEntry [(63, poolRound 15 0)] (groupOwner team0) 15 team0.ctx = some 63 ∧
    (aFind 4 team0.rounds = none ∧ (1 : BitVec 16).toNat ≤ ([] : List (Nat × DWord)).length + 1) ∧
    8 ≤ ({ band0 with vreds := List.replicate 8 { round := none, lanes := [0], value := none, flags := 0 } } : Band).vreds.length :=
  ⟨⟨_, rfl, by decide⟩, by decide, by decide, by decide⟩
theorem witness_reductionCompletes :
    let s := { issuing reducing team0 [0] with cur := .event (.vredCompletion 0 0) }
    bandOf s (0 * 64 + 0) = some reducing ∧ reducing.vreds = [{ round := none, lanes := [0], value := some 5, flags := 0 }] :=
  ⟨rfl, rfl⟩
/-- SRDW with a number reached, one not pending, one pending, and after a wait. -/
theorem witness_reductionRead : (0 : BitVec 16) = g0.band.rdrSeq ∧
    g0.band.vreds.length < ((1 : BitVec 16) - g0.band.rdrSeq).toNat ∧
    ((1 : BitVec 16) ≠ reducing.rdrSeq ∧ ((1 : BitVec 16) - reducing.rdrSeq).toNat ≤ reducing.vreds.length) ∧
    (threadOf { band0 with threads := [{ wait := .captured 5 }] } 0).wait = .captured 5 ∧
    ∀ l ∈ g0.live, ∀ v, (threadOf g0.band l).wait ≠ .captured v := by
  refine ⟨rfl, by decide, by decide, rfl, ?_⟩
  intro l h v
  cases h with
  | head => nofun
  | tail _ h => cases h

theorem witness_jumps : Reachable (targetOf g0.addr 0xFFFFF000) ∧ Reachable (targetOf g0.addr 0x7FFFFFFC) ∧
    (∀ l ∈ g0.live, Reachable (laneBase g0.band (threadOf g0.band l) (.vec 14) + 0)) ∧
    (∀ l ∈ g0.live, Reachable (rdV64 (threadOf g0.band l) 14)) ∧ Reachable (rdStream (stream {}).rcd 63 + 4) := by
  unfold Reachable; decide

theorem witness_splitPush : Placed g0 ∧ g0.live ≠ [] ∧ g0.band.reload = none ∧ (∀ l ∈ g0.live, (threadOf g0.band l).exited = false) ∧
    teamOf s0 g0.band.team = some team0 ∧ g0.band.split.length < 16 ∧
    g0.band.split.length + g0.band.spilled.length < 16 + team0.spillBytes / 16 ∧ (targetOf g0.addr 12).toNat < 2 ^ 55 ∧
    (g0.addr + ((0xFFFF : BitVec 16).signExtend 64) * 4).toNat < 2 ^ 55 ∧
    ∀ i, i < (8 : Fin 9).val → (targetOf g0.addr ((Vector.replicate 8 (0x30 : Word)).toList.getD i 0)).toNat < 2 ^ 55 := by
  unfold Placed; decide

/-- `band0` with split entries, its second thread running. -/
def inside (join : DWord) (mask : Word) : Band := { band0 with split := [{ join := join, mask := mask, arrived := 0 }] }
theorem runs_on (join : DWord) : ∀ e rest, (inside join 3).split = e :: rest →
    ∃ l, WaitsFor e l ∧ l ∉ (group (inside join 3) [0]).lanes ∧ Awake (inside join 3) l := by
  intro e rest h
  cases h
  exact ⟨1, ⟨(by decide : (3 : Word).getLsbD 1 = true), (by decide : (0 : Word).getLsbD 1 = false)⟩, by simp [group], by decide, rfl, nofun⟩
theorem witness_joins_outside : ∃ b, grpOf (issuing b team0 [0]) = some (group b [0]) ∧ Placed (group b [0]) ∧ NoSpill b ∧
    (∀ e ∈ b.split, e.join ≠ 0x1000) ∧ b.split ≠ [] ∧
    ∀ e rest, b.split = e :: rest → ∃ l, WaitsFor e l ∧ l < 32 ∧ (threadOf b l).exited = false ∧ (l ∈ [0] ∨ Awake b l) := by
  refine ⟨inside 0x2000 3, issuing_grp .., by unfold Placed; decide, ⟨rfl, rfl⟩, by decide, by decide, ?_⟩
  intro e rest h
  cases h
  exact ⟨0, by unfold WaitsFor; decide, by decide, rfl, .inl (by decide)⟩
theorem witness_joins_wait : ∃ b e, grpOf (issuing b team0 [0]) = some (group b [0]) ∧ NoSpill b ∧ b.split = [e] ∧
    e.join = (group b [0]).addr ∧ (∀ l ∈ [0], e.mask.getLsbD l = true) ∧
    ∃ l, WaitsFor e l ∧ l ∉ (group b [0]).lanes ∧ Awake b l :=
  ⟨inside 0x1000 3, _, issuing_grp .., ⟨rfl, rfl⟩, rfl, rfl, by decide, runs_on 0x1000 _ _ rfl⟩
theorem witness_joins_release : ∃ b e, grpOf (issuing b team0 [0]) = some (group b [0]) ∧ NoSpill b ∧ b.split = [e] ∧
    e.join = (group b [0]).addr ∧ (∀ l ∈ [0], e.mask.getLsbD l = true) ∧
    (∀ l, l < 32 → WaitsFor e l → (threadOf b l).exited = false → l ∈ (group b [0]).live) ∧
    ∀ l ∈ [0], (threadOf b l).exited = false :=
  ⟨inside 0x1000 1, _, issuing_grp .., ⟨rfl, rfl⟩, rfl, rfl, by decide, by unfold WaitsFor; decide, by decide⟩
theorem witness_break : ∃ b, Placed (group b [0]) ∧ NoSpill b ∧ 0 < (1 : Fin 64).val ∧ (1 : Fin 64).val ≤ b.split.length ∧
    ∀ e rest, b.split = e :: rest → ∃ l, WaitsFor e l ∧ l ∉ (group b [0]).lanes ∧ Awake b l :=
  ⟨inside 0x2000 3, by unfold Placed; decide, ⟨rfl, rfl⟩, by decide, by decide, runs_on 0x2000⟩
theorem witness_settled : ∃ b, bandOf (settle (issuing (inside 0x2000 3) team0 [0]) 0 [0] 0) 0 = some b ∧ b.split ≠ [] :=
  ⟨inside 0x2000 3, by decide, by decide⟩

def looping : Band := { band0 with loops := [{ start := 0x100C, fin := 0x1000, remaining := 1 }] }
theorem witness_loops : band0.loops.length < 4 ∧ loopCount band0 (.imm 0xFFFF) ≠ 0 ∧ bandOf (issuing looping team0 [0]) 0 = some looping ∧
    (∃ e, looping.loops = [e] ∧ e.remaining = 1) ∧ ∃ b e, bandOf (issuing b team0 [0]) 0 = some b ∧ b.loops = [e] ∧ e.remaining ≠ 1 :=
  ⟨by decide, by decide, rfl, ⟨_, rfl, rfl⟩,
    { band0 with loops := [{ start := 0, fin := 0x1000, remaining := 0xFFFFFFFF }] }, _, rfl, rfl, by decide⟩

/-! Memory -/

def memory : MemOp := { base := 0, index := none, off := 65472, stash := false }
def stashed : MemOp := { base := 0, index := some (0, 4), off := 393152, stash := true }
/-- The last eight bytes of a page's last line, and of the team's stash. -/
theorem witness_locates : Locates s0 g0 team0 8 true false (laneAddress band0 (threadOf band0 0) memory) (.phys (4 * 65536 + 65472) 65472) ∧
    Locates s0 g0 team0 8 true true (laneAddress band0 (threadOf band0 0) stashed) (.stash 393152) :=
  ⟨.memory 65472 leaf0 (present0 _ _ _ _ (.inr rfl)) (by decide) nofun (fun _ _ _ _ h => by cases h),
    .stash 393152 (by decide) (by decide) (fun _ => rfl) (fun _ => rfl) rfl⟩
theorem witness_ldn : (65536 : Nat) < 2 ^ 55 ∧ TlbSound s0 0 0 65536 ∧ walkWaits s0 0 0 65536 = false ∧ ∃ f, walk s0 0 65536 = .ok f ∧ f.state = 1 :=
  ⟨by decide, nofun, by decide, { leaf0 with ppn := 5, state := 1, pte := 196616 }, rfl, rfl⟩
theorem witness_scalarMemory : Present (streaming {}) (60 + 0) (stream {}).rcd.ctx.toNat
    (baseOffset (rdStream (stream {}).rcd 63) 65472) true leaf0 := present_stream _ _ _ (.inr (by decide))
theorem witness_pref : Present s0 0 0 (laneAddress band0 (threadOf band0 0) memory) false leaf0 ∧
    windowAt s0 (physOf leaf0 65472) = none ∧ 2 ^ 55 ≤ laneAddress band0 (threadOf band0 0) { memory with off := 0xFFFFFF80 } ∧
    laneAddress band0 (threadOf band0 0) memory < 2 ^ 55 ∧ baseOffset (rdS band0 0) 65472 + 0 ≤ 2 ^ 55 :=
  ⟨present0 _ _ _ _ (.inr rfl), rfl, by decide, by decide, by decide⟩
def waitingLoad : PendOp := {
  agent := .thread 0 0 0, issuer := 0, lanes := [0], seq := 0, pc := 0x1000
  kind := .load (.phys (4 * 65536) 0) .n64 (.vec 14) none .normal }
def waitingStore : PendOp := { waitingLoad with kind := .store (.phys (4 * 65536 + 65472) 65472) 8 7 none .normal }
def performing (o : PendOp) : State := { s0 with cur := .event (.accessPerformed 0), pending := [o] }
def loading (loc : Loc) (w : Width) (dst : Dest) (acq : Option Scope) : PendOp := { waitingLoad with kind := .load loc w dst acq .normal }
def lastWord : Loc := .phys (4 * 65536 + 65472) 65472
/-- Loads of each kind of place and destination, and with an acquire. -/
def loads : List PendOp := [waitingLoad, loading lastWord .i8 (.vec 15) (some .cluster), loading (.stash 393208) .n64 (.vec 14) none,
  loading (.again 131072) .n32 (.vec 15) none, loading lastWord .i16 (.sca 63) (some .system)]
/-- A stream's load. -/
def streamLoad : PendOp := { agent := .stream 0 0, issuer := 2 ^ 20, lanes := [], seq := 0, pc := 0x1000, kind := .load lastWord .n32 (.sca 63) none .normal }
def streamPerforming : State := { streaming {} with cur := .event (.accessPerformed 0), pending := [streamLoad] }
theorem witness_loadPerformed : (∀ o ∈ loads, (performing o).pending[0]? = some o ∧ mayPerform (performing o) 0 = true ∧
      performSet (performing o) o = [o] ∧ bandOf (performing o) o.issuer = some band0) ∧
    mayPerform streamPerforming 0 = true ∧ performSet streamPerforming streamLoad = [streamLoad] ∧ streamLoad.issuer = 2 ^ 20 + 0 * 16 + 0 := by
  decide
theorem plain0 (o : PendOp) (a va : Nat) (h : (a = 4 * 65536 ∧ va = 0) ∨ (a = 4 * 65536 + 65472 ∧ va = 65472)) :
    Plain (performing o) (.thread 0 0 0) a va := by
  rcases h with ⟨rfl, rfl⟩ | ⟨rfl, rfl⟩
  · exact ⟨nofun, rfl, fun _ => (show pageLost s0 4 = false by decide), kept_page ((show _ = walk s0 0 0 from rfl).trans leaf_first)⟩
  · exact ⟨nofun, rfl, fun _ => (show pageLost s0 4 = false by decide), kept_page ((show _ = walk s0 0 65472 from rfl).trans leaf_last)⟩
/-- Empty caches have room. -/
theorem room0 (o : PendOp) (a : Nat) : RoomFor (performing o) (.thread 0 0 0) a :=
  ⟨.inr (show 0 < 2048 by decide), .inr (show 0 < freeWays (performing o) 0 (a / 128 % 4096) from by
    simp [freeWays, performing, issuing, team0, clusterOfCore])⟩
theorem witness_finds : (∃ v, Finds (performing waitingLoad) (performing waitingLoad) (.thread 0 0 0) 8 (.phys (4 * 65536) 0) v) ∧
    (∃ u v, Finds (performing waitingLoad) u (.thread 0 0 0) 1 lastWord v) ∧
    (∃ v, Finds (performing waitingLoad) s0 (.thread 0 0 0) 8 (.stash 393208) v) ∧
    Finds (performing waitingLoad) s0 (.thread 0 0 0) 4 (.again 131072) 0 ∧ ∃ v, Finds streamPerforming streamPerforming (.stream 0 0) 4 lastWord v := by
  refine ⟨⟨_, .memory _ _ (plain0 _ _ _ (.inl ⟨rfl, rfl⟩)) (room0 _ _)⟩, ⟨dropAll (performing waitingLoad) (.thread 0 0 0) .cluster, _, .memory _ _ (plain0 _ _ _ (.inr ⟨rfl, rfl⟩)) (room0 _ _)⟩,
    ⟨_, .stash 0 0 0 _ team0 rfl rfl ⟨rfl, nofun, nofun⟩⟩, ?_, ⟨_, .memory _ _ ⟨trivial, rfl, fun _ => by decide, by decide⟩ trivial⟩⟩
  exact .zeros _ { leaf0 with ppn := 6, state := 2, pte := 196624 } (show walk s0 0 131072 = _ from rfl) rfl rfl fun _ => (show pageLost s0 6 = false by decide)
/-- Lanes 0 and 1 of one load read the same bytes; so do two atomics of one instruction. -/
def twoLoads : List PendOp := [waitingLoad, { waitingLoad with lanes := [1] }]
def adding (x lane : Nat) (ord : Order) : PendOp :=
  { waitingLoad with lanes := [lane], kind := .atomic (.int .add) lastWord 4 x 0 (.vec 15) ord .cluster .normal }
def twoAtoms : List PendOp := [adding 1 0 .none, adding 2 1 .none]
def together (l : List PendOp) : State := { performing waitingLoad with pending := l }
theorem witness_performedTogether : mayPerform (together twoLoads) 0 = true ∧ performSet (together twoLoads) waitingLoad = twoLoads ∧
    setMay (together twoLoads) twoLoads = true ∧ (twoLoads.map (·.lanes)).Nodup ∧
    mayPerform (together twoAtoms) 0 = true ∧ performSet (together twoAtoms) (adding 1 0 .none) = twoAtoms ∧
    setMay (together twoAtoms) twoAtoms = true ∧ RoomFor (together twoLoads) (.thread 0 0 0) (4 * 65536) ∧
    ∀ ord ∈ [Order.none, .acq, .rel, .ar], mayPerform (performing (adding 1 0 ord)) 0 = true ∧
      performSet (performing (adding 1 0 ord)) (adding 1 0 ord) = [adding 1 0 ord] :=
  ⟨by decide, by decide, by decide, by decide, by decide, by decide, by decide, room0 waitingLoad _, by decide⟩
/-- The second of two accesses that meet must wait for the first. -/
theorem witness_operationPerformed :
    mayPerform { performing waitingLoad with pending := [waitingLoad, { waitingLoad with seq := 1 }] } 1 = false ∧
    setMay (performing waitingLoad) (performSet (performing waitingLoad) waitingLoad) = true := by decide
def storing (loc : Loc) (rel : Option Scope) : PendOp := { waitingLoad with kind := .store loc 8 7 rel .normal }
theorem witness_storePerformed : (∀ o ∈ [storing lastWord none, storing lastWord (some .hinge), storing (.stash 393208) (some .cluster)],
      (performing o).pending[0]? = some o ∧ mayPerform (performing o) 0 = true) ∧
    Plain (performing waitingStore) (.thread 0 0 0) (4 * 65536 + 65472) 65472 ∧ (∀ e ∈ team0.maps, e.2.win = none) :=
  ⟨by decide, plain0 _ _ _ (.inr ⟨rfl, rfl⟩), nofun⟩
/-- With nothing in a cache a cleaning leaves the state as it was. -/
theorem witness_cleaned : Plain (cleanAll (performing waitingStore) (.thread 0 0 0) .hinge) (.thread 0 0 0) (4 * 65536 + 65472) 65472 ∧
    ∃ v, Plain (placeStep (performing (adding 1 0 .none)) (.thread 0 0 0) .cluster (.mem (4 * 65536 + 65472)) 4 v).2 (.thread 0 0 0)
      (4 * 65536 + 65472) 65472 :=
  ⟨⟨by unfold OwnName; exact fun x h => by revert h; decide +revert, by decide, fun _ => by decide, by decide⟩, fun _ => none,
    ⟨by unfold OwnName; exact fun x h => by revert h; decide +revert, by decide, fun _ => by decide, by decide⟩⟩
theorem witness_fencePerformed : ∀ k ∈ [FenceKind.acq, .rel, .sc, .ar], ∀ sc ∈ [Scope.cluster, .hinge, .package, .system],
    mayPerform (performing { waitingLoad with kind := .fence k sc }) 0 = true := by decide
theorem witness_keyReleased : ∃ o : PendOp, ∃ k : Key, o.kind = .krel k.base k.granules (.phys (4 * 65536 + 65472) k.word) .cluster (some 63) ∧
    (performing o).pending[0]? = some o ∧ mayPerform (performing o) 0 = true ∧
    Plain (cleanAddrs (performing o) (.thread 0 0 0) .cluster (regionHeld (performing o) (.thread 0 0 0) k.base k.granules)) (.thread 0 0 0)
      (4 * 65536 + 65472) k.word :=
  ⟨{ waitingLoad with kind := .krel 0 1 (.phys (4 * 65536 + 65472) 65472) .cluster (some 63) }, { base := 0, granules := 1, word := 65472 }, rfl, rfl,
    by decide, ⟨by unfold OwnName; exact fun x h => by revert h; decide +revert, by decide, fun _ => by decide, by decide⟩⟩

theorem witness_pins : Present s0 (g0.core / 8) team0.ctx (baseOffset (rdS band0 0) 65472) false leaf0 ∧
    (physOf leaf0 65472 / 65536) ∉ team0.pins ∧ team0.pins.length < team0.pinQuota ∧
    (physOf leaf0 65472 / 65536) ∈ ({ team0 with pins := [4] } : Team).pins ∧
    ({ team0 with pinQuota := 0 } : Team).pinQuota ≤ team0.pins.length ∧
    ∃ tm : Team, 4 ∉ tm.pins ∧ tm.pins.length < tm.pinQuota ∧ 4 ∉ pinnedPages (issuing band0 tm [0]) 0 ∧
      12 ≤ ((pinnedPages (issuing band0 tm [0]) 0).filter fun p => p % 8 == 4 % 8).length :=
  ⟨present0 _ _ _ _ (.inr (by decide)), by decide, by decide, by decide, by decide,
    { team0 with pins := (List.range 12).map fun i => 12 + 8 * i }, by decide, by decide, by decide, by decide⟩
theorem witness_discard : walkBusy s0 0 (baseOffset (rdS band0 0) 65472) = false ∧ walk s0 0 (baseOffset (rdS band0 0) 65472) = .ok leaf0 ∧ leaf0.w = true ∧ leaf0.state < 3 ∧
    pageLost s0 leaf0.ppn = false ∧ overlapsWindow s0 (physOf leaf0 0) 65536 = false ∧ stackBusy s0 (physOf leaf0 0) = false :=
  ⟨walk_idle (idle_band _ _ _) _ _ _, rfl, rfl, by decide, by decide, rfl, idle_band _ _ _ _⟩
/-- A page-request ring of four records, empty. -/
def requests : State := { s0 with contexts := [(0, { ptbase := 65536, requests := { base := 0x70000, size := 64 } })] }
theorem witness_pageRequest : (∀ va, TlbSound requests 0 0 va ∧ walkBusy requests 0 va = false) ∧ (∃ f, walk s0 0 65472 = .ok f ∧ (f.state = 0 ∨ f.state = 2)) ∧
    (∃ f, walk s0 0 131072 = .ok f ∧ (f.state = 0 ∨ f.state = 2)) ∧ (∃ f, walk requests 0 65536 = .ok f ∧ f.state = 1) ∧
    (threadOf band0 0).wait ≠ .answered ∧ 65536 / 65536 ∉ (ctxOf requests 0).outstanding ∧ (ctxOf requests 0).requests.size ≠ 0 ∧
    ((ctxOf requests 0).requests.prod - (ctxOf requests 0).requests.cons).toNat ≠ (ctxOf requests 0).requests.size.toNat / 16 ∧
    1 ∈ (ctxOf { s0 with contexts := [(0, { ptbase := 65536, outstanding := [1] })] } 0).outstanding :=
  ⟨fun _ => ⟨nofun, walk_idle (idle rfl) _ _ _⟩, ⟨leaf0, rfl, .inl rfl⟩, ⟨{ leaf0 with ppn := 6, state := 2, pte := 196624 }, rfl, .inr rfl⟩,
    ⟨{ leaf0 with ppn := 5, state := 1, pte := 196616 }, rfl, rfl⟩, nofun, by decide, by decide, by decide, by decide⟩
theorem witness_mapSlots : ∃ b : Band, (rdS b 1).toNat = 320 + 64 * 2 ^ 16 + 15 * 2 ^ 24 ∧ OfTeam (issuing b team0 [0]) (group b [0]) team0 ∧
    320 + 64 ≤ team0.slotCount ∧ aFind 15 team0.maps = none ∧ (∀ i, i < 64 → (latchOf team0 (320 + i)).engine = false) ∧
    Present (issuing b team0 [0]) 0 0 (baseOffset (rdS b 0) 0) true leaf0 ∧ 0 % 65536 + 1024 * 64 ≤ 65536 ∧
    overlapsWindow (issuing b team0 [0]) (physOf leaf0 0) (1024 * 64) = false :=
  ⟨{ band0 with sregs := [(1, 320 + 64 * 2 ^ 16 + 15 * 2 ^ 24)] }, by decide, issuing_team _ _ rfl, by decide, rfl, fun _ _ => rfl,
    present0 _ _ _ _ (.inl (by decide)), by decide, rfl⟩
/-- A team with a window on page 0, one granule dirty. -/
def windowed : Team := { team0 with maps := [(2, { first := 0, count := 1, rot := 0, win := some { base := 262144, va := 0, filled := 1, dirty := 1 } })] }
theorem witness_windows : (∀ e, aFind 2 team0.maps = some e → e.win = none) ∧
    ∃ e w, aFind 2 windowed.maps = some e ∧ e.win = some w ∧ walk (issuing band0 windowed [0]) 0 w.va = .ok leaf0 ∧ leaf0.state = 0 ∧
      pageLost (issuing band0 windowed [0]) (w.base / 65536) = false ∧ stackBusy (issuing band0 windowed [0]) w.base = false :=
  ⟨nofun, _, _, rfl, rfl, rfl, rfl, by decide, idle_band _ _ _ _⟩
theorem witness_keys : ∃ b : Band, (rdS b 1).toNat + 4096 * 1048576 ≤ 2 ^ 55 ∧ (rdS b 1).toNat % 4096 = 0 ∧
    (rdS b 2).toNat = 2 ^ 55 - 8 ∧ (rdS b 2).toNat % 8 = 0 ∧ aFind 63 (ctxOf s0 0).keys = none :=
  ⟨{ band0 with sregs := [(1, 2 ^ 55 - 2 ^ 32), (2, 2 ^ 55 - 8)] }, by decide, by decide, by decide, by decide, rfl⟩
/-- A bound key whose word lies on page 0. -/
def keyed : State := { s0 with contexts := [(0, { ptbase := 65536, keys := [(7, { base := 0, granules := 1, word := 65472 })] })] }
theorem witness_keyOrder : OfTeam keyed g0 team0 ∧ (∃ k : Key, aFind 7 (ctxOf keyed 0).keys = some k ∧ k.word % 8 = 0 ∧
    Present keyed (g0.core / 8) team0.ctx k.word true leaf0 ∧ l1Find keyed g0.core team0.ctx k.word = none ∧
    Plain keyed (.thread 0 0 0) (physOf leaf0 k.word) k.word ∧ RoomFor keyed (.thread 0 0 0) (physOf leaf0 k.word)) ∧
    (∀ l ∈ g0.live, ∀ x y z, (threadOf g0.band l).wait ≠ .key x y z) ∧
    (∀ l ∈ [0], (threadOf { band0 with threads := [{ wait := .key 0 1 65472 }] } l).wait = .key 0 1 65472) ∧
    (BitVec.ofNat 64 0 - rdS band0 63).getLsbD 63 = false ∧ (BitVec.ofNat 64 0 - (1 : DWord)).getLsbD 63 = true := by
  have w : walk keyed 0 65472 = .ok leaf0 := (show _ = walk s0 0 65472 from rfl).trans leaf_last
  refine ⟨of_team, ⟨_, rfl, by decide, present (by decide) rfl w rfl (idle rfl), rfl, ⟨nofun, rfl, fun _ => by decide, kept_page w⟩,
    room0 waitingLoad (4 * 65536 + 65472)⟩, ?_, by decide, by decide, by decide⟩
  intro l h x y z
  cases List.mem_singleton.1 h
  nofun
def latched (count : Nat) : Team := { team0 with latches := [(383, { engine := true, count := count })] }
theorem witness_latches : (383 : Nat) % 512 + 1 ≤ team0.slotCount ∧ InRange 383 1 383 ∧ (latchOf (latched 0) 383).engine = true ∧
    (latchOf (latched 0) 383).count = 0 ∧ (latchOf (latched 1) 383).engine = true ∧ (latchOf (latched 1) 383).count ≠ 0 := by
  unfold InRange; decide
def tumbling : Team := { team0 with tumblers := [(23, { expect := 2, arrived := 1, phase := false })] }
theorem witness_tumblers : (23 : Fin 24).val < tumbling.tumblerCount ∧ (0xFFFF : Word).toNat < 65536 ∧ 0 < (1 : BitVec 16).toNat ∧
    (tumblerOf tumbling 23).arrived.toNat + 1 = (tumblerOf tumbling 23).expect.toNat ∧
    (tumblerOf tumbling 23).arrived.toNat < (tumblerOf tumbling 23).expect.toNat ∧ (tumblerOf tumbling 23).phase ≠ true ∧
    ∃ tm : Team, (tumblerOf tm 23).arrived.toNat + 1 < (tumblerOf tm 23).expect.toNat :=
  ⟨by decide, by decide, by decide, by decide, by decide, by decide,
    { team0 with tumblers := [(23, { expect := 65535, arrived := 65533, phase := true })] }, by decide⟩

theorem witness_cacheLines : (laneAddress band0 (threadOf band0 0) memory < 2 ^ 55 ∧
      Walkable s0 0 0 (laneAddress band0 (threadOf band0 0) memory / 128 * 128)) ∧
    ∀ x, 65472 / 128 * 128 ≤ x → x < (65472 + 64 + 127) / 128 * 128 → Walkable s0 0 0 x :=
  ⟨⟨by decide, walkable rfl (idle_band _ _ _)⟩, fun _ _ _ => walkable rfl (idle_band _ _ _)⟩
/-- A later operation of the thread of `waitingLoad`. -/
def later (k : PendKind) : PendOp := { waitingLoad with seq := 1, kind := k }
/-- Two operations of one thread that have each order of R271's table, or a byte in common; one that an engine's slot holds back. -/
theorem witness_operationOrder : Earlier waitingLoad (later waitingStore.kind) ∧
    (OnByte (performing waitingLoad) waitingLoad (none, 4 * 65536 + 7) ∧
      OnByte (performing waitingLoad) (later (.store (.phys (4 * 65536 + 7) 7) 1 7 none .normal)) (none, 4 * 65536 + 7)) ∧
    OnByte (performing waitingLoad) (storing (.stash 393208) none) (some 0, 393215) ∧
    OnByte (performing waitingLoad) (later (.clean false .hinge [(0, 8)] false)) (none, 7) ∧
    OnByte (performing waitingLoad) (later (.clean false .hinge [] true)) (none, 2 ^ 112 - 1) ∧
    Acquires (loading lastWord .i8 (.vec 15) (some .cluster)).kind ∧ ReleasesAfter s0 waitingLoad (later (.tarv 0 1 false)) ∧
    ReleasesAfter s0 waitingLoad (later (.latg [0] 1)) ∧ ReleasesAfter s0 (storing (.stash 393208) none) (later (.latg [0] 0)) ∧
    Reads waitingLoad.kind ∧ Writes waitingStore.kind ∧ laneMask [0] < laneMask [31] :=
  ⟨⟨rfl, by decide, 0, by decide, by decide⟩, ⟨.inl ⟨_, _, 4 * 65536, rfl, by decide, by decide, .inl ⟨rfl, .inl (by decide)⟩⟩,
    .inl ⟨_, _, 4 * 65536 + 7, rfl, by decide, by decide, .inl ⟨rfl, .inl (by decide)⟩⟩⟩,
    .inl ⟨_, _, 393208, rfl, by decide, by decide, .inr ⟨0, rfl, by decide⟩⟩,
    .inr ⟨_, _, _, _, rfl, rfl, _, List.mem_singleton.2 rfl, by decide, by decide⟩,
    .inr ⟨_, _, _, _, rfl, rfl, (by decide : 2 ^ 112 - 1 < 2 ^ 112)⟩, nofun, trivial, .inl ⟨0, by decide, by decide⟩,
    .inr ⟨0, _, _, _, rfl, rfl⟩, trivial, trivial, by decide⟩
theorem witness_heldAtWindow : ∃ s o, HeldAtWindow s o :=
  ⟨issuing band0 { windowed with latches := [(0, { engine := true, count := 1 })] } [0], { waitingLoad with agent := .thread 0 1 0 }, 0, 0,
    _, ⟨_, _, rfl, by decide⟩, rfl, by decide, fun _ _ => ⟨nofun, nofun⟩⟩
theorem witness_ordered : ∃ k x, mayPerform (performing k) 0 = true ∧ k.kind = .post .cluster ∧ Earlier x (later (.krel 0 1 lastWord .cluster none)) :=
  ⟨{ waitingLoad with kind := .post .cluster }, waitingLoad, by decide, rfl, rfl, by decide, 0, by decide, by decide⟩
/-- A team whose tumbler 23 expects one more arrival, or two; its other band waits at it. -/
def arriving (tm : Team) (o : PendOp) : State := { issuing band0 { tm with slots := [0, 63] } [0] with
  bands := [(0, band0), (63, { band0 with threads := [{ wait := .tumbler 23 true }] })], cur := .event (.accessPerformed 0), pending := [o] }
theorem witness_arrives : let o := { waitingLoad with kind := .tarv 23 1 true }
    mayPerform (arriving tumbling o) 0 = true ∧ (teamOf (arriving tumbling o) 0).isSome = true ∧ (tumblerOf tumbling 23).arrived.toNat + 1 = (tumblerOf tumbling 23).expect.toNat ∧
    (bandOf (arriving tumbling o) 63).isSome = true ∧ (arriving tumbling o).lineCosts = [] ∧
    mayPerform (performing { waitingLoad with kind := .latg [383] 1 }) 0 = true := by decide

/-! Tiles -/

/-- Bands with registers 1 and 2 for operands of the stash: a start, and pitches of 128 and 2,048. -/
def rowsBand (start : DWord) : Band := { band0 with sregs := [(1, start), (2, 0x8000080)] }
theorem witness_knownTiles : OfTeam s0 g0 team0 ∧ g0.live ≠ [] ∧ (15 : Fin 16).val + 1 ≤ team0.tileCount ∧
    (14 : Fin 16).val + 2 ≤ team0.tileCount ∧
    ∃ o : Tident, o.dst = .tile 14 ∧ (o.ty = .int .i32 ∨ o.ty = .flt .f32 ∨ o.ty = .flt .f64) :=
  ⟨of_team, by decide, by decide, by decide, ⟨.flt .f64, .tile 14⟩, rfl, .inr (.inr rfl)⟩
/-- TIDENT to the last two slots; SCLD of the last column from the last bytes. -/
theorem witness_stashIdentity : ∃ b : Band, OfTeam (issuing b team0 [0]) (group b [0]) team0 ∧ Plainly team0 ∧
    (let sa := (rdS b 1).toNat; sa % 1024 = 0 ∧ sa + 2048 ≤ 1024 * team0.slotCount ∧ (latchOf team0 (sa / 1024)).engine = false ∧
      (latchOf team0 (sa / 1024 + 1)).engine = false) ∧
    511 + 1 ≤ 32 * team0.tileCount ∧ (rdS b 3).toNat % 4 = 0 ∧ (rdS b 3).toNat + 32 * 1 ≤ 1024 * team0.slotCount ∧
    ∃ f : B8, (Ty.b8 f ∈ [Ty.int .i8, .flt .f16, .flt .bf16, .flt .f32, .flt .f64] ∨ ∃ g, Ty.b8 f = .b8 g) :=
  ⟨{ band0 with sregs := [(1, 391168), (3, 393184)] }, issuing_team _ _ rfl, ⟨rfl, nofun, nofun⟩, by decide, by decide, by decide, by decide,
    ⟨7, true, false⟩, .inr ⟨_, rfl⟩⟩
/-- Thirty-two rows of 128 bytes that end where the stash ends. -/
theorem witness_tileRows : let b := rowsBand 389120
    OfTeam (issuing b team0 [0]) (group b [0]) team0 ∧ Plainly team0 ∧
    GoodRows team0 (rdS b 1) (rdS b 2) 4 32 (tileRowBytes .n32) ∧ ∀ k, (latchOf team0 k).engine = false :=
  ⟨issuing_team _ _ rfl, ⟨rfl, nofun, nofun⟩, ⟨by decide, by decide, by decide, by decide⟩, fun _ => rfl⟩
theorem witness_tileMoves : (15 : Nat) < team0.tileCount ∧ 0 + 16 ≤ g0.band.n ∧ 16 + 16 ≤ 32 ∧
    (rdS g0.band 63).toNat % 512 < team0.slotCount := by decide
theorem witness_tileArithmetic : (∀ t ∈ [(14 : Fin 16), 12, 14], t.val + 2 ≤ team0.tileCount) ∧ tyBytes (.flt .f32) ≤ 4 ∧
    (15 : Fin 16).val < team0.tileCount ∧ (∀ r, SclSrc.vec 15 = .vec r → r.val < g0.band.n) :=
  ⟨by decide, by decide, by decide, fun r h => by cases h; decide⟩
theorem witness_topValues : (0 : Fin 16).val ≠ (15 : Fin 16).val ∧ ∀ t ∈ [(0 : Fin 16), 0, 15], t.val < team0.tileCount := by decide
/-- An MMA with a multiplicand in registers and one in the last rows of the stash; one of .f64; block scales of the last columns. -/
theorem witness_matrixMultiply : let b := rowsBand 389120
    OfTeam (issuing b team0 [0]) (group b [0]) team0 ∧ Plainly team0 ∧
    GoodOperand b team0 (.flt .f16) (depthOfTy (.flt .f16)) (.vec 0) ∧
    GoodOperand b team0 (.flt .f64) (depthOfTy (.flt .f64)) (.stash 1 2 false) ∧
    GoodOperand (rowsBand 0) team0 (.flt .f64) (depthOfTy (.flt .f64)) (.stash 1 2 true) ∧
    (∀ t ∈ [(14 : Fin 16), 14], t.val + 2 ≤ team0.tileCount) ∧
    ∀ x ∈ [(255 : Byte), 0], 2 * x.toNat < 32 * team0.tileCount ∧ (2 * x.toNat + 1) % 512 < 32 * team0.tileCount := by
  refine ⟨issuing_team _ _ rfl, ⟨rfl, nofun, nofun⟩, by unfold GoodOperand; decide, ⟨by decide, by decide, by decide, by decide⟩,
    ⟨by decide, by decide, by decide, by decide⟩, by decide, by decide⟩
theorem witness_sparseMultiply : ∃ o : Mmas, (∃ f, o.ty = .b8 f) ∧ (∀ r b, o.a ≠ .stash r b true) ∧ o.pat = .s48 ∧
    GoodOperand { band0 with n := 32 } team0 o.ty (patternOf o.pat).1 o.a ∧ GoodOperand { band0 with n := 32 } team0 o.ty 128 o.b ∧
    (∀ i v, i < 32 → v < 64 → fieldAt o { band0 with n := 32 } team0 i v < 8) ∧
    (rdS band0 o.sm.val).toNat + 32 * (patternOf o.pat).2.2.2.2 ≤ 1024 * team0.slotCount := by
  refine ⟨⟨.s48, .b8 ⟨4, false, false⟩, 15, .vec 16, .vec 0, 15, 63⟩, ⟨_, rfl⟩, nofun, rfl, ?_, ?_, ?_, by decide⟩
  · unfold GoodOperand; decide
  · unfold GoodOperand; decide
  · have h : ∀ i, i < 32 → ∀ v, v < 64 → fieldAt ⟨.s48, .b8 ⟨4, false, false⟩, 15, .vec 16, .vec 0, 15, 63⟩
        { band0 with n := 32 } team0 i v < 8 := by decide +kernel
    exact fun i v hi hv => h i hi v hv
def completing : MatOp := {
  team := 0, band := 0, lanes := [0], flags := 1, tiles := [(0, 1), (1024, 2)], tileCls := [], scales := [], stash := [(7, 3)]
  ident := none, pc := 0x1000 }
theorem witness_matrixCompletion : let s := { s0 with cur := .event (.matrixCompletion 0), matrix := [completing] }
    s.matrix[0]? = some completing ∧ (∀ j y, j < 0 → s.matrix[j]? = some y → y.team ≠ completing.team) ∧
    teamOf s completing.team = some team0 ∧ Plainly team0 ∧ bandOf s completing.band = some band0 :=
  ⟨rfl, nofun, rfl, ⟨rfl, nofun, nofun⟩, rfl⟩

theorem fill_plain {s : State} {tm : Team} (h : tm.maps = []) (off n : Nat) (w : Bool) (c : Nat) : fillFault s tm off n w c = none := by
  unfold fillFault
  rw [List.findSome?_eq_none_iff]
  intro x _
  have e : windowAtSlot tm x = none := by unfold windowAtSlot mapAt; rw [h]; rfl
  rw [e]
theorem witness_stashWrites : (∀ code, fillFault s0 team0 391168 2048 true code = none) ∧ windowBusy s0 team0 391168 2048 = false ∧
    (∀ q code, q < 32 → fillFault s0 team0 (rowAt 389120 0x8000080 32 q) (tileRowBytes .n32) true code = none) ∧
    ∀ q, q < 32 → windowBusy s0 team0 (rowAt 389120 0x8000080 32 q) (tileRowBytes .n32) = false :=
  ⟨fun _ => rfl, rfl, fun _ _ _ => fill_plain rfl _ _ _ _, by decide⟩
/-- The stash of `team0` is zeros; of `identTeam` its first two slots hold an identity of .f16; of `nanTeam` the first has NONFINITE. -/
def identTeam : Team := { team0 with slotCls := [(0, .ident (tyCode (.flt .f16)) false), (1, .ident (tyCode (.flt .f16)) true)] }
def nanTeam : Team := { team0 with slotCls := [(0, .general true)] }
/-- A band whose register 1 holds the start of an operand at offset 0, register 2 pitches of 64 and 1,024. -/
def identBand : Band := { band0 with sregs := [(1, 0), (2, 0x4000040)] }
def operand : Mcand := .stash 1 2 false
theorem closed {tm : Team} (hp : tm.pending = []) (hl : tm.latches = []) (k : Nat) : ¬ SlotOpen tm k := by
  rintro (h | ⟨h, _⟩)
  · unfold slotPending at h
    rw [hp] at h
    cases h
  · unfold latchOf at h
    rw [hl] at h
    cases h
theorem witness_elisions : ZeroDecides team0 identBand (.flt .f16) 32 32 operand operand ∧
    IdentDecides identTeam identBand (.flt .f16) 32 operand operand ∧
    (¬ ZeroDecides identTeam identBand (.flt .f16) 32 32 operand operand ∧ ¬ ZeroDecides team0 identBand (.flt .f16) 32 32 (.vec 0) (.vec 0)) ∧
    ¬ IdentDecides team0 identBand (.flt .f16) 32 (.vec 0) (.vec 0) ∧
    OtherNonfinite nanTeam identBand (.flt .f16) 32 operand ∧ (tileClsOf team0 15).nonfinite = false ∧
    (tileClsOf { team0 with tileCls := [(15, .general true)] } 15).nonfinite = true := by
  have first : OperandSlot identBand (.flt .f16) 32 operand 0 := ⟨1, 2, false, 0, 0, rfl, by decide, by decide, by decide, rfl⟩
  have z : ZeroOperand team0 identBand (.flt .f16) 32 operand := ⟨rfl, fun k _ => ⟨closed rfl rfl k, rfl⟩⟩
  refine ⟨⟨z, fun h => h.2.1 z⟩, ⟨⟨1, 2, rfl, by decide, by decide, by decide, closed rfl rfl _, closed rfl rfl _, by decide, by decide⟩, ?_⟩,
    ⟨fun h => ?_, fun h => ?_⟩, ?_, ⟨nofun, fun h => ?_, .inr ⟨0, first, .inr (by decide)⟩⟩, by decide, by decide⟩
  · rintro ⟨_, _, h | ⟨k, _, h | h⟩⟩
    · cases h
    · exact closed rfl rfl k h
    · revert h
      match k with
      | 0 => exact nofun
      | 1 => exact nofun
      | k + 2 => simp [slotClsOf, identTeam, aGet, aFind, TileClass.nonfinite]
  · exact absurd (h.1.2 0 first).2 (by decide)
  · cases h.1.1
  · rintro ⟨⟨_, _, h, _⟩, _⟩; cases h
  · exact absurd (h.2 0 first).2 (by decide)
/-- An instruction that writes all of a slot, one that leaves the stash, and one that writes an identity. -/
def wholeSlot : MatOp := { completing with stash := (List.range 1024).map fun o => (1024 + o, 5) }
theorem listed : ∀ (l : AList Byte) (k : Nat), k ∈ l.map Prod.fst → aFind k l ≠ none := by
  intro l k h
  induction l with
  | nil => cases h
  | cons x l ih =>
    unfold aFind
    split
    · nofun
    · rename_i e
      rw [List.map_cons, List.mem_cons] at h
      exact ih (h.resolve_left fun c => e c.symm)
theorem witness_slotEntries : (∀ o, ¬ (1024 * 1 ≤ o ∧ o < 1024 * 1 + 1024 ∧ bytePut completing o ≠ none)) ∧
    ((1024 * 0 ≤ 7 ∧ 7 < 1024 * 0 + 1024 ∧ bytePut completing 7 ≠ none) ∧ bytePut completing 8 = none ∧ completing.ident = none) ∧
    (∀ o, 1024 * 1 ≤ o → o < 1024 * 1 + 1024 → bytePut wholeSlot o ≠ none) ∧ ({ completing with ident := some (0, 1) } : MatOp).ident = some (0, 1) := by
  have h : bytePut completing 8 = none := rfl
  refine ⟨?_, ⟨by decide, h, rfl⟩, ?_, rfl⟩
  · rintro o ⟨a, _, b⟩
    refine b ?_
    unfold bytePut
    show aFind o [(7, 3)] = none
    simp only [aFind, if_neg (show ¬ 7 = o by omega)]
  · exact fun o a b => listed _ o (by simp [wholeSlot]; exact ⟨o - 1024, by omega, by omega⟩)

/-! Engines -/

/-- Descriptors 5 and 1023 of a context: four .i8 in a line; two rows of four .bf16. -/
def image1 : BitVec 512 := BitVec.ofNat 512 0x400000000000001000000000000000000
def image2 : BitVec 512 := BitVec.ofNat 512 0x400000000000000010000000000000000000000020000000400000000000002090000000000000000
def d1 : Desc := descOf (image1.toNat + 2 ^ 80)
def d2 : Desc := descOf (image2.toNat + 2 ^ 80)
/-- The descriptor area, with VALID, bit 80, set in both. -/
def area : AList Byte :=
  writeBytes 0 (writeBytes 0 tables (8 * 65536 + 64 * 5) (leBytes 64 (image1.toNat + 2 ^ 80))) (8 * 65536 + 64 * 1023)
    (leBytes 64 (image2.toNat + 2 ^ 80))
def tabled : Context := { ptbase := 65536, descBase := 8 * 65536, descs := [5, 1023] }
/-- The stash's last slot belongs to the engines; tumbler 23 expects two arrivals. -/
def engaged : Team := { team0 with latches := [(383, { engine := true, count := 0 })], tumblers := [(23, { expect := 2, arrived := 0, phase := false })] }
/-- A band with the operands of posts: extents, offsets at the end of the stash, numbers of pages, rows and bags. -/
def poster : Band := { band0 with sregs := [
  (1, 0x1000100010004), (2, 393212), (3, 1), (4, 393144), (5, 0x7FFFFFFFFFFFFF), (6, 1), (7, 0x5FFE00005FFEC), (8, 0x10005FFE4), (9, 393200)] }
def posting : State := { issuing poster engaged [0] with mem := area, contexts := [(0, tabled)] }
theorem desc1 : HasDesc posting 0 5 d1 := ⟨by decide, by decide +kernel, by decide +kernel⟩
theorem desc2 : HasDesc posting 0 1023 d2 := ⟨by decide, by decide +kernel, by decide +kernel⟩
theorem posting_leaf : walk posting 0 0 = .ok leaf0 := by decide +kernel
theorem posting_team : OfTeam posting (group poster [0]) engaged := team_at rfl rfl rfl rfl
theorem owned (r : Nat × Nat) (h1 : 392192 ≤ r.1) (h2 : r.1 + r.2 ≤ 393216) : EngineOwned posting (group poster [0]) engaged r := by
  refine ⟨h2, fun o h3 h4 => .inl ?_⟩
  rw [show o / 1024 = 383 by omega]
  rfl

/-- Page 0 begins with a valid image. -/
def described : State := { s0 with mem := writeBytes 0 tables (4 * 65536) (leBytes 64 image1.toNat) }
theorem witness_descriptorTable : OfTeam described g0 team0 ∧ (rdS band0 63).toNat % 64 = 0 ∧ Present described 0 0 0 false leaf0 ∧
    l1Find described g0.core team0.ctx 0 = none ∧ Plain described (.thread 0 0 0) (physOf leaf0 0) 0 ∧
    imageInvalid (seenValue described (.thread 0 0 0) (physOf leaf0 0) 64) = false ∧
    (descOf (seenValue described (.thread 0 0 0) (physOf leaf0 0) 64)).ty ≠ 11 ∧
    Locates described g0 team0 64 true false 0 (.phys (physOf leaf0 0) 0) ∧ 5 ∈ (ctxOf posting 0).descs ∧ 5 ∉ (ctxOf described 0).descs := by
  have h : walk described 0 0 = .ok leaf0 := by decide +kernel
  have v : seenValue described (.thread 0 0 0) (physOf leaf0 0) 64 = image1.toNat := by decide +kernel
  have p : ∀ w, Present described 0 0 0 w leaf0 := fun w => present (by decide) rfl h rfl (idle rfl)
  exact ⟨team_at rfl rfl rfl rfl, by decide, p _, rfl, ⟨nofun, rfl, fun _ => by decide, kept_page h⟩,
    (congrArg imageInvalid v).trans (by decide +kernel),
    fun e => absurd ((congrArg (fun x => (descOf x).ty) v).symm.trans e) (by decide +kernel),
    .memory 0 leaf0 (p _) (by decide) nofun (fun _ _ _ _ h => by cases h), by decide, by decide⟩
theorem witness_cpost : OfTeam posting (group poster [0]) engaged ∧ HasDesc posting 0 5 d1 ∧
    (rdS poster 1).toNat = 4 + 1 * 2 ^ 16 + 1 * 2 ^ 32 + 1 * 2 ^ 48 ∧ (rdS poster 2).toNat = 393212 + 0 * 2 ^ 32 ∧
    d1.rank = 1 ∧ 393212 % d1.es = 0 ∧
    EngineOwned posting (group poster [0]) engaged (393212, (1 * 1 * 1 - 1) * pitchOf 0 (4 * d1.es) + 4 * d1.es) ∧
    TumblerReady engaged 23 :=
  ⟨posting_team, desc1, by decide, by decide, by decide +kernel, by decide +kernel, owned _ (by decide) (by decide +kernel), by decide,
    by decide⟩
theorem witness_gpost : HasDesc posting 0 1023 d2 ∧ d2.rank ≠ 1 ∧ 15 < poster.n ∧
    (rdS poster 3).toNat = 1 ∧ (rdS poster 4).toNat = 393144 + 0 * 2 ^ 32 ∧ 393144 % 8 = 0 ∧ (chanOf engaged 3).remap = .none ∧
    EngineOwned posting (group poster [0]) engaged (393144, 32 * pitchOf 0 (1 * d2.es) + 8) ∧ TumblerReady engaged 23 ∧
    (rdV (threadOf poster 0) 15).toNat < d2.dim 1 ∧
    ∀ x ∈ rowElems d2 0 0 0 1 (rdV (threadOf poster 0) 15).toNat, Present posting 0 0 x.2 true leaf0 := by
  have r : rowElems d2 0 0 0 1 (rdV (threadOf poster 0) 15).toNat = [(0, 0)] := by decide +kernel
  refine ⟨desc2, by decide +kernel, by decide, by decide, by decide, by decide, by decide, owned _ (by decide) (by decide +kernel),
    ⟨by decide, by decide⟩, by decide +kernel, ?_⟩
  intro x hx
  rw [r] at hx
  cases List.mem_singleton.1 hx
  exact present (by decide) rfl posting_leaf rfl (idle rfl)
theorem witness_mpost : (rdS poster 5).toNat < 2 ^ 55 ∧ (rdS poster 5).toNat / 65536 * 65536 + (rdS poster 6).toNat * 65536 ≤ 2 ^ 55 ∧
    0 < (rdS poster 6).toNat ∧ (rdS poster 6).toNat < 65536 := by decide
theorem witness_embag : HasDesc posting 0 1023 d2 ∧ embagDesc d2 = true ∧
    (rdS poster 7).toNat = 393196 + 393184 * 2 ^ 32 ∧ (rdS poster 8).toNat = 393188 + 1 * 2 ^ 32 ∧
    (rdS poster 9).toNat = 393200 + 0 * 2 ^ 32 ∧ (rdS poster 6).toNat = 1 ∧
    (∀ x ∈ [(393200 + 0 * 16, 4 * d2.dim 0)], ∀ y ∈ [(393196, 4 * 1), (393188, 4 * (1 + 1)), (393184, 4 * 1)],
      x.1 + x.2 ≤ y.1 ∨ y.1 + y.2 ≤ x.1) ∧
    ∀ x ∈ [(393196, 4 * 1), (393188, 4 * (1 + 1)), (393184, 4 * 1)] ++ [(393200, (1 - 1) * 16 + 4 * d2.dim 0)],
      EngineOwned posting (group poster [0]) engaged x := by
  refine ⟨desc2, by decide +kernel, by decide, by decide, by decide, by decide, by decide +kernel, ?_⟩
  intro x hx
  have h : 392192 ≤ x.1 ∧ x.1 + x.2 ≤ 393216 := by revert x; decide +kernel
  exact owned x h.1 h.2
def command : Command := {
  team := 0, band := 0, ctx := 0, seq := 1, desc := d1, kind := .box false [4, 0, 0, 0] [1, 1, 1, 1] 393215 1
  tumb := some 23, slots := [383] }
/-- Room in a channel, and none: sixteen commands, and no chain. -/
theorem witness_room : Room posting 0 3 0 ∧
    ¬ Room { posting with cores := [(0, { channels := [(3, { queue := List.replicate 16 command })] })] } 0 3 0 :=
  ⟨.inl (by decide), by unfold Room; decide⟩
theorem witness_channelState : let b : Band := { band0 with sregs := [(1, 2 ^ 32 - 1), (2, 393212), (3, 1)] }
    0 < (rdS b 1).toNat ∧ (rdS b 1).toNat < 2 ^ 32 ∧ (rdS b 2).toNat < 2 ^ 19 ∧ (rdS b 2).toNat % 4 = 0 ∧
    (rdS b 2).toNat + 4 * (rdS b 3).toNat ≤ 1024 * team0.slotCount ∧
    ((chanOf team0 3).csq - rdS b 63).getLsbD 63 = false ∧ ((chanOf team0 3).csq - rdS b 3).getLsbD 63 = true := by decide
/-- A communicator of two ranks, on hinges 0 and 1. -/
def entry : Nat := 2 + 2 ^ 16 + 0x8000 * 2 ^ 64 + 0x8001 * 2 ^ 80
def communing : State := { s0 with mem := writeBytes 0 tables (4 * 65536) (leBytes 512 entry), contexts := [(0, { ptbase := 65536, commBase := 4 * 65536 })] }
def comm0 : Comm := { count := 2, ranks := [some 0, some 1, none, none], routes := [] }
theorem witness_postsCollective : OfTeam communing g0 team0 ∧ commAt communing 0 0 = some comm0 ∧ hingeRank comm0 (0 / 120) = some 0 ∧
    (∀ p, p < 2 → reachable comm0 p = true) ∧ (∀ b ∈ [(2 ^ 55 - 4, 4), (0, 4)], b.1 % b.2 = 0 ∧ b.1 < 2 ^ 55) ∧
    TumblerReady engaged 23 ∧ (hingeOf communing 0).collectives.length < 64 :=
  ⟨team_at rfl rfl rfl rfl, by decide +kernel, by decide, by decide, by decide, ⟨by decide, by decide⟩, by decide⟩

/-- The engine of core 0, channel 3, with a command at its head. -/
def working (tm : Team) (c : Command) (e : Event) : State :=
  { issuing band0 tm [] with cores := [(0, { channels := [(3, { queue := [c] })] })], cur := .event e }
/-- The first element of a box is the last of its row, the second out of bounds. -/
def copying (store : Bool) : Command := { command with kind := .box store [3, 0, 0, 0] [2, 1, 1, 1] 393214 2 }
theorem witness_boxElements (store : Bool) : let c := copying store
    let s := working engaged c (.engineCommandStart 0 3)
    (coreChan s 0 3).queue = c :: [] ∧ teamOf s c.team = some engaged ∧ engaged.core = 0 ∧ Windowless engaged ∧ c.ended = none ∧
    c.stall = none ∧ 0 < c.desc.es ∧ c.pos < boxCount [2, 1, 1, 1] ∧ 2 * c.desc.es ≤ 2 ∧
    (∀ i, c.pos ≤ i → i < boxCount [2, 1, 1, 1] → inBounds d1 (boxElem d1.es [3, 0, 0, 0] [2, 1, 1, 1] 393214 2 i).1 = true →
      Present s 0 0 (elemAddr d1 (boxElem d1.es [3, 0, 0, 0] [2, 1, 1, 1] 393214 2 i).1) store leaf0 ∧
      windowAt s (physOf leaf0 (elemAddr d1 (boxElem d1.es [3, 0, 0, 0] [2, 1, 1, 1] 393214 2 i).1)) = none) ∧
    inBounds d1 (boxElem d1.es [3, 0, 0, 0] [2, 1, 1, 1] 393214 2 0).1 = true ∧
    inBounds d1 (boxElem d1.es [3, 0, 0, 0] [2, 1, 1, 1] 393214 2 1).1 = false := by
  have e : ∀ i, i < boxCount [2, 1, 1, 1] → inBounds d1 (boxElem d1.es [3, 0, 0, 0] [2, 1, 1, 1] 393214 2 i).1 = true →
      elemAddr d1 (boxElem d1.es [3, 0, 0, 0] [2, 1, 1, 1] 393214 2 i).1 = 0 := by decide +kernel
  refine ⟨rfl, rfl, rfl, nofun, rfl, rfl, (show 0 < d1.es by decide +kernel), (show 0 < 2 by decide), (show 2 * d1.es ≤ 2 by decide +kernel), ?_,
    by decide +kernel, by decide +kernel⟩
  intro i _ h hb
  rw [e i h hb]
  exact ⟨present (by decide) rfl ((show _ = walk s0 0 0 from rfl).trans leaf_first) rfl (idle rfl), rfl⟩
/-- A gathering or scattering whose first row is bad; of the second the first element is in bounds, the other is not. -/
def rowPairs : List (Nat × Word × Option Nat) := [(0, 7, none), (31, 1, some 1)]
def rows (scatter : Bool) (pos : Nat) : Command := { command with
  desc := d2, kind := .rows scatter 3 0 0 2 393144 2 rowPairs, running := true, pos := pos }
theorem witness_rowsCopied (scatter : Bool) : let c := rows scatter 1
    let s := working engaged c (.indexRowDelivery 0 3)
    rowPairs[c.pos]? = some (31, 1, some 1) ∧ rowPairs[(rows scatter 0).pos]? = some (0, 7, none) ∧ OneShort engaged (some 23) ∧
    (∀ i, i < 2 → inBounds d2 [3 + i, 1, 0, 0] = true → Present s 0 0 (elemAddr d2 [3 + i, 1, 0, 0]) scatter leaf0 ∧
      windowAt s (physOf leaf0 (elemAddr d2 [3 + i, 1, 0, 0])) = none) ∧
    inBounds d2 [3 + 0, 1, 0, 0] = true ∧ inBounds d2 [3 + 1, 1, 0, 0] = false := by
  have e : ∀ i, i < 2 → inBounds d2 [3 + i, 1, 0, 0] = true → elemAddr d2 [3 + i, 1, 0, 0] = 14 := by decide +kernel
  refine ⟨rfl, rfl, fun n h => by cases h; decide, ?_, by decide +kernel, by decide +kernel⟩
  intro i h hb
  rw [e i h hb]
  exact ⟨present (by decide) rfl ((show _ = walk s0 0 14 from rfl).trans (leaves 14 (by decide))) rfl (idle rfl), rfl⟩
/-- The boundaries of a bag, and its one index. -/
def bags (lo hi : Nat) : Team :=
  { engaged with stash := writeBytes 0 (writeBytes 0 [] 393188 (leBytes 4 lo ++ leBytes 4 hi)) 393196 (leBytes 4 1) }
def pooling : Command := { command with desc := d2, kind := .embag true 393196 393184 393188 1 393200 16 1, running := true }
theorem witness_bagsPooled : let s := working (bags 0 1) pooling (.embagBagDelivery 0 3)
    leNat (readBytes 0 (bags 0 1).stash (393188 + 4 * pooling.pos) 4) = 0 ∧ leNat (readBytes 0 (bags 0 1).stash (393188 + 4 * (pooling.pos + 1)) 4) = 0 + 1 ∧
    leNat (readBytes 0 (bags 0 1).stash (393196 + 4 * 0) 4) = 1 ∧ tyOfCode d2.ty = some (.flt .bf16) ∧ 1 < d2.dim 1 ∧ pooling.pos < 1 ∧
    pooling.lines = [] ∧ OneShort (bags 0 1) pooling.tumb ∧ Windowless (bags 0 1) ∧ tyBytes (.flt .bf16) * d2.dim 0 = 8 ∧
    ∀ k, k < 8 → Present s 0 0 (elemAddr d2 [0, 1, 0, 0] + k) false leaf0 ∧ leaf0.sys = false ∧
      windowAt s (physOf leaf0 (elemAddr d2 [0, 1, 0, 0] + k)) = none := by
  have e : elemAddr d2 [0, 1, 0, 0] = 8 := by decide +kernel
  refine ⟨by decide, by decide, by decide, by decide +kernel, by decide +kernel, by decide, rfl, fun n h => by cases h; decide, nofun,
    by decide +kernel, ?_⟩
  intro k h
  rw [e]
  refine ⟨present (by omega) rfl ((show _ = walk s0 0 (8 + k) from rfl).trans (leaves (8 + k) ?_)) rfl (idle rfl), rfl, rfl⟩
  revert k
  decide
/-- Bags whose boundaries fall, and that are empty. -/
theorem witness_engineProgress :
    (let lo := leNat (readBytes 0 (bags 1 0).stash 393188 4); let hi := leNat (readBytes 0 (bags 1 0).stash 393192 4); hi < lo) ∧
    (let lo := leNat (readBytes 0 (bags 1 1).stash 393188 4); let hi := leNat (readBytes 0 (bags 1 1).stash 393192 4)
     hi = lo ∧ hi ≤ 1) ∧ Windowless (bags 1 1) ∧ OneShort (bags 1 1) (some 23) ∧
    (∀ store origin ext off pitch, pooling.kind ≠ .box store origin ext off pitch) :=
  ⟨by decide, by decide, nofun, fun n h => by cases h; decide, nofun⟩
/-- Commands of each kind that are finished; one that has aborted, with a band to take the trap. -/
def finished : List Command := [{ command with running := true, ended := some (0, 0, 0, 0) }, { rows true 2 with delivered := 1, mask := 2 },
  { rows false 0 with delivered := 1, ended := some (1, 0, 0, 0) }, { pooling with pos := 1, delivered := 1 },
  { command with running := true, ended := some (6, 0, 0, 0), aborted := true }, { command with kind := .move 0 2 5, running := true, pos := 2 }]
theorem witness_commandCompletes : (∀ c ∈ finished, cmdFinished c = true ∧ c.slots.Nodup) ∧ Windowless engaged ∧
    (∀ c ∈ finished, ∀ k, c.tumb = some k → (tumblerOf engaged k).arrived.toNat + (match c.kind with
      | .rows _ _ _ _ _ _ _ elems => elems.length - c.delivered
      | .box .. => 1
      | .move .. | .embag .. => 0) < (tumblerOf engaged k).expect.toNat) ∧
    (∃ b, bandOf (working engaged command (.commandCompletion 0 3)) 0 = some b ∧ b.retired = false ∧ (∃ th ∈ b.threads, th.exited = false) ∧
      b.traps.length < 4) ∧
    (latchOf engaged 383).count ≤ 1 ∧ 1 < (latchOf { engaged with latches := [(383, { engine := true, count := 2 })] } 383).count := by
  refine ⟨by decide +kernel, nofun, ?_, ⟨band0, rfl, rfl, ⟨{}, by decide, rfl⟩, by decide⟩, by decide, by decide⟩
  intro c hc k hk
  simp only [finished, List.mem_cons, List.not_mem_nil, or_false] at hc
  rcases hc with rfl | rfl | rfl | rfl | rfl | rfl <;> cases hk <;> decide +kernel
/-- A command whose counted rows a TWAIT observes, and no command. -/
theorem witness_observed : (3, { queue := [command] }) ∈ (coreOf (working tumbling command .driverTrigger) tumbling.core).channels ∧
    command.team = 0 ∧ command.tumb = some 23 ∧ (coreOf s0 team0.core).channels = [] :=
  ⟨List.mem_singleton.2 rfl, rfl, rfl, rfl⟩
def moving : Command := { command with kind := .move 0 2 5, running := true }
theorem witness_pageMove : let s := working team0 moving (.pageMove (.command 0 3))
    moving.pos < 2 ∧ TlbSound s (0 / 8) moving.ctx (0 + 65536 * moving.pos) ∧ walk s moving.ctx (0 + 65536 * moving.pos) = .ok leaf0 ∧
    leaf0.state = 0 ∧ leaf0.sys = false :=
  ⟨by decide, nofun, (show _ = walk s0 0 0 from rfl).trans leaf_first, rfl, rfl⟩
theorem witness_heldRecord : let c := { command with stall := some { vpage := 1, held := true } }
    let r : PageRecord := { ctx := 0, vpage := 1, source := 1, unit := 0, core := 0 }
    let s := { working team0 c (.heldRecordWrite (.channel 0 3)) with
      contexts := [(0, { ptbase := 65536, requests := { base := 0x70000, size := 64 } })], hinges := [(0, { held := [r] })] }
    c.stall = some { vpage := 1, held := true } ∧ ringFull (ctxOf s c.ctx).requests 16 = false ∧ (hingeOf s 0).held = [] ++ r :: [] :=
  ⟨rfl, by decide, rfl⟩
/-- Collectives of rank 0 on hinge 0, with buffers of a line's last eight bytes. -/
def collecting (kind : CollKind) (ready : Bool) : Collective := { unposted kind (if kind = .rcv then 1 else 120) (if kind = .snd then 1 else 120) 8 with
  entry := comm0, ready := ready, data := leBytes 8 1 }
def gathered (c : Collective) : State := { issuing band0 team0 [] with
  hinges := [(0, { active := some 0, collectives := [c], inbox := [{ ctx := 0, comm := 0, rank := 1, bytes := leBytes 8 9 }] })], cur := .event (.collectiveCompletion 0 0 []) }
theorem witness_oneLine : OneLine (gathered (collecting .snd false)) 0 120 8 false leaf0 ∧
    OneLine (gathered (collecting .rcv false)) 0 120 8 true leaf0 ∧ OneLine (gathered (collecting .red true)) 0 120 8 true leaf0 := by
  have w : ∀ c, walk (gathered c) 0 120 = .ok leaf0 := fun c => (show _ = walk s0 0 120 from rfl).trans (by decide)
  have o : ∀ c write, OneLine (gathered c) 0 120 8 write leaf0 := fun c _ =>
    ⟨by decide, by decide, walk_idle (idle rfl) _ _ _, w c, rfl, fun _ => rfl, fun _ => rfl, nofun, fun _ _ => rfl, idle rfl _⟩
  exact ⟨o _ _, o _ _, o _ _⟩
theorem witness_collectiveSteps : (hingeOf (gathered (collecting .snd false)) 0).active = some 0 ∧
    rankHinge (collecting .snd false).entry 1 = some 1 ∧ (collecting .snd false).b = 1 ∧
    (rankHinge (collecting .rcv false).entry (collecting .rcv false).a).isSome = true ∧ (collecting .rcv false).a = 1 ∧
    (leBytes 8 9).length ≤ (collecting .rcv false).count ∧ (collecting .red true).ready = true ∧ (collecting .red true).cause = 0 ∧
    (collecting .red true).data.length = 8 ∧ OneShort team0 none ∧
    (∃ m, walk (gathered { collecting .snd false with a := 65536 }) 0 65536 = .ok m ∧ m.state = 1) ∧
    (hingeRank comm0 1).isSome = true ∧ ∀ x ∈ (hingeOf (gathered (collecting .red false)) 1).collectives, ¬ (x.ctx = 0 ∧ x.comm = 0) := by
  refine ⟨rfl, by decide, rfl, by decide, rfl, by decide, rfl, rfl, by decide, nofun, ⟨{ leaf0 with ppn := 5, state := 1, pte := 196616 }, rfl, rfl⟩,
    by decide, ?_⟩
  decide

/-- The queue is full, and the context's chain has room. -/
theorem witness_chain : let s := { posting with contexts := [(0, { tabled with chainLen := 1 })], cores := [(0, { channels := [(3, { queue := List.replicate 16 command })] })] }
    Room s 0 3 0 ∧ ¬ ((coreChan s 0 3).queue.length < 16 ∧ (coreChan s 0 3).chain = []) := by
  refine ⟨.inr ⟨by decide, idle rfl _⟩, by decide⟩
/-- Stack 0, which holds page 8, in self-refresh, and every stack in service. -/
theorem witness_tableBusy : stackBusy posting ((ctxOf posting 0).descBase.toNat + 64 * 5) = false ∧
    (∃ s : State, ctxOf s 0 = tabled ∧ stackBusy s ((ctxOf s 0).descBase.toNat + 64 * 5) = true) ∧
    stackBusy communing ((ctxOf communing 0).commBase.toNat + 512 * 0) = false ∧
    stackBusy communing ((ctxOf communing 0).commBase.toNat + 512 * 0 + 511) = false :=
  ⟨idle rfl _, ⟨{ posting with remap := [(8, { home := some (0, 8) })], hinges := [(0, { memStacks := [(0, { state := 2 })] })] }, rfl,
    by decide⟩, idle rfl _, idle rfl _⟩
/-- Empty caches have room for the lines of a box and of a row. -/
theorem witness_boxRoom (store : Bool) : let c := copying store
    let s := working engaged c (.engineCommandStart 0 3)
    c.posted = true ∧ c.ahead = [] ∧ RoomForAll s 0 (((List.range (boxCount [2, 1, 1, 1])).filter fun i =>
      decide (c.pos ≤ i) && inBounds d1 (boxElem d1.es [3, 0, 0, 0] [2, 1, 1, 1] 393214 2 i).1).map fun i =>
        physOf leaf0 (elemAddr d1 (boxElem d1.es [3, 0, 0, 0] [2, 1, 1, 1] 393214 2 i).1)) := by
  refine ⟨rfl, rfl, fun k => Nat.le_trans (List.length_filter_le _ _) ?_⟩
  show _ ≤ 16
  decide +kernel +revert
theorem witness_rowRoom (scatter : Bool) : let c := rows scatter 1
    let s := working engaged c (.indexRowDelivery 0 3)
    c.part < 2 ∧ c.part = 0 ∧ RoomForAll s 0 (((List.range 2).filter fun i => decide (c.part ≤ i) && inBounds d2 [3 + i, 1, 0, 0]).map fun i =>
      physOf leaf0 (elemAddr d2 [3 + i, 1, 0, 0])) := by
  refine ⟨show 0 < 2 by decide, rfl, fun k => Nat.le_trans (List.length_filter_le _ _) ?_⟩
  show _ ≤ 16
  decide +kernel +revert
/-- A row one of whose elements has moved, its page as its checks found it. -/
theorem witness_rowGoesOn : let c := { rows false 1 with part := 1, pages := [(0, 0, 4 * 65536)] }
    c.part < 2 ∧ ∀ i, i < 2 → inBounds d2 [3 + i, 1, 0, 0] = true → c.pages.find? (fun y => y.1 == elemAddr d2 [3 + i, 1, 0, 0] / 65536) =
      some (elemAddr d2 [3 + i, 1, 0, 0] / 65536, 0, physOf leaf0 (elemAddr d2 [3 + i, 1, 0, 0]) - elemAddr d2 [3 + i, 1, 0, 0] % 65536) := by
  refine ⟨by decide, ?_⟩
  decide +kernel
/-- A command whose post is still to be performed; a move that its home takes, and one that its page's home refuses. -/
theorem witness_moves : ({ command with posted := false } : Command).posted = false ∧
    moveWaits (working team0 moving (.pageMove (.command 0 3))) 4 5 = false ∧
    (∃ s : State, s.remap = [(4, { home := some (0, 4) })] ∧ moveWaits s 4 5 = true) ∧
    ((working team0 moving (.pageMove (.command 0 3))).remap.map (·.1)).Nodup ∧
    Walkable (working team0 moving (.pageMove (.command 0 3))) 0 0 (0 + 65536 * moving.pos) :=
  ⟨rfl, by decide, ⟨{ State.reset with remap := [(4, { home := some (0, 4) })], hinges := [(0, { memStacks := [(0, { state := 1 })] })] }, rfl, by decide⟩,
    by decide, ⟨nofun, walk_idle (idle rfl) _ _ _⟩⟩
/-- A record that a channel holds for a command that is no longer its head. -/
theorem witness_heldOfChannel : let r : PageRecord := { ctx := 0, vpage := 1, source := 1, unit := 0, core := 0 }
    let s := { s0 with contexts := [(0, { ptbase := 65536, requests := { base := 0x70000, size := 64 } })], cores := [(0, { channels := [(3, { queue := [command], held := [r] })] })] }
    (coreChan s 0 3).held = [] ++ r :: [] ∧ ringFull (ctxOf s r.ctx).requests 16 = false ∧
    ∀ y ∈ (coreChan (working team0 command .driverTrigger) 0 3).held, ringFull (ctxOf s y.ctx).requests 16 = true :=
  ⟨rfl, by decide, nofun⟩
/-- Reductions of ranks 0 and 1, on hinges 0 and 1, at the heads of their hinges' collectives. -/
def reduction (n : Nat) : Collective := { collecting .red false with hinge := n, ty := tyCode (.int .i32), count := 2 }
def reductions : State := { gathered (reduction 0) with
  hinges := [(0, { active := some 0, collectives := [reduction 0] }), (1, { active := some 0, collectives := [reduction 1] })] }
theorem witness_contributions : ((∀ r, r < comm0.count → (rankHinge comm0 r).isSome = true) ∧
      (∀ n r, n < 4 → hingeRank comm0 n = some r → rankHinge comm0 r = some n)) ∧
    tyOfCode (reduction 0).ty = some (.int .i32) ∧ (∀ q, (Ty.int .i32) ≠ .b8 q) ∧
    (∀ n r, n < 4 → hingeRank comm0 n = some r → headColl reductions n 0 0 = some (reduction n) ∧ (reduction n).hinge = n ∧
      (reduction n).posted = true ∧ (reduction n).part = none ∧ OneLine reductions 0 (reduction n).a (2 * 4) false leaf0) ∧
    (collecting .snd false).part = none ∧ (collecting .red true).outbox = [] ∧
    ({ collecting .snd false with posted := false } : Collective).posted = false ∧
    walkBusy (gathered { collecting .snd false with a := 65536 }) 0 65536 = false ∧
    ∃ b, bandOf (gathered (collecting .snd false)) (collecting .snd false).band = some b ∧ b.retired = false ∧ ∃ th ∈ b.threads, th.exited = false := by
  have w : walk reductions 0 120 = .ok leaf0 := (show _ = walk s0 0 120 from rfl).trans (by decide)
  have o : OneLine reductions 0 120 (2 * 4) false leaf0 :=
    ⟨by decide, by decide, walk_idle (idle rfl) _ _ _, w, rfl, nofun, fun _ => rfl, nofun, fun _ _ => rfl, idle rfl _⟩
  have h : ∀ n, n < 4 → ∀ r, hingeRank comm0 n = some r → rankHinge comm0 r = some n ∧ (n = 0 ∨ n = 1) := by decide
  refine ⟨⟨by decide, fun n r a b => (h n a r b).1⟩, by decide +kernel, nofun, ?_, rfl, rfl, rfl, walk_idle (idle rfl) _ _ _,
    ⟨band0, rfl, rfl, {}, by decide, rfl⟩⟩
  intro n r hn hr
  rcases (h n hn r hr).2 with rfl | rfl
  · exact ⟨rfl, rfl, rfl, rfl, o⟩
  · exact ⟨rfl, rfl, rfl, rfl, o⟩

/-! Streams, special registers, traps -/

/-- A launch record of one team of one band, at virtual address 0, and its parameters 256 bytes up. -/
def launchImage : Nat := 0x10200000001000000000001000000000000000000000000000000000000000000000040
def launching (x : Stream) : State := { streaming x with mem := writeBytes 0 tables (4 * 65536) (leBytes 36 launchImage) }
theorem witness_launchReads : let x : Stream := { sregs := [(1, 256)] }
    strmOf (launching x) = some (stream x) ∧ (stream x).live = true ∧
    LaunchReads (launching x) (stream x) { d := 2, a := 63, par := some 1, spl := some 63 } (fun _ => leaf0) (fun _ => leaf0) := by
  intro x
  have w : ∀ k, k < 48 → walk (released (launching x) (stream x)) 0 (0 + 8 * k) = .ok leaf0 := by decide +kernel
  have p : ∀ k, k < 48 → Present (released (launching x) (stream x)) 60 0 (0 + 8 * k) false leaf0 := fun k h =>
    present (by omega) rfl (w k h) rfl (idle rfl)
  refine ⟨rfl, rfl, by decide, by decide, ?_, by intro c h; cases h; decide, fun k h => ⟨p k (by omega), rfl⟩⟩
  intro b h
  cases h
  refine ⟨by decide, fun k h => ⟨?_, rfl⟩⟩
  have q := p (32 + k) (by omega)
  rw [show 0 + 8 * (32 + k) = 256 + 8 * k by omega] at q
  have e : (rdStream (stream x).rcd 1).toNat = 256 := by decide
  show Present _ 60 0 ((rdStream (stream x).rcd 1).toNat + 8 * k) false leaf0
  rw [e]
  exact q
/-- The record is valid, with and without a parameter block; one of zeros is not; queues with room, and none. -/
theorem witness_launching : let s := launching {}
    (∃ r, launchRec (launchBytes (released s (stream {})) (stream {}) ⟨2, 63, none, none⟩ (fun _ => leaf0) (fun _ => leaf0)) = some r ∧
      r.splitSpill = 0 ∧ ¬ LaunchesFull s (stream {}) r ∧
      LaunchesFull s (stream { outstanding := List.range 32 }) r) ∧
    launchRec (launchBytes (released (streaming {}) (stream {})) (stream {}) ⟨2, 63, none, none⟩ (fun _ => leaf0) (fun _ => leaf0)) = none ∧
    (leBytes 256 launchImage).length = 256 ∧ (launchRec (leBytes 256 launchImage)).isSome = true := by
  refine ⟨⟨_, Option.some_get (by decide +kernel : (launchRec (launchBytes (released (launching {}) (stream {})) (stream {}) ⟨2, 63, none, none⟩ (fun _ => leaf0) (fun _ => leaf0))).isSome = true) |>.symm, by decide +kernel, ?_, ?_⟩, by decide +kernel,
    by decide +kernel, by decide +kernel⟩
  · unfold LaunchesFull; decide
  · unfold LaunchesFull; decide
/-- Addresses that LAUNCH refuses; a record that names a spill area where the instruction names none; a record that waits. -/
theorem witness_launchRefused : (stream { sregs := [(1, 2 ^ 55), (2, 32)] }).rcd.launching = none ∧
    2 ^ 55 ≤ (rdStream ({ sregs := [(1, 2 ^ 55), (2, 32)] } : Stream) 1).toNat ∧
    (rdStream ({ sregs := [(1, 2 ^ 55), (2, 32)] } : Stream) 2).toNat % 64 ≠ 0 ∧
    (∃ r, launchRec (leBytes 256 (launchImage + 64 * 2 ^ 256)) = some r ∧ r.splitSpill ≠ 0) ∧
    ∃ r x, x = stream { launching := some (r, 0) } ∧ x.rcd.launching = some (r, 0) := by
  have h : (launchRec (leBytes 256 launchImage)).isSome = true := by decide +kernel
  exact ⟨rfl, by decide, by decide, ⟨_, (Option.some_get (by decide +kernel : (launchRec (leBytes 256 (launchImage + 64 * 2 ^ 256))).isSome = true)).symm,
    by decide +kernel⟩, (launchRec (leBytes 256 launchImage)).get h, _, rfl, rfl⟩
theorem witness_launchWaits : (0 : DWord).toNat ∈ ({ outstanding := [0] } : Stream).outstanding ∧
    (0 : DWord).toNat ∉ ({} : Stream).outstanding ∧ (∀ f ∈ ({} : Stream).finished, f.1 ≠ 0) ∧
    ({ finished := [(0, 1)] } : Stream).finished.find? (fun f => f.1 == 0) = some ((0 : DWord), 1) ∧
    (rdStream ({ sregs := [(1, 3)] } : Stream) 1).toNat < 4 ∧ 4 ≤ (rdStream ({ sregs := [(1, 4)] } : Stream) 1).toNat ∧
    msixMasked (streaming {}) 63 = true ∧ msixMasked { streaming {} with msix := [(127, 0)] } 63 = false ∧
    (counterOf (streaming {}) 0 63 - rdStream {} 1).toNat < 2 ^ 63 ∧
    2 ^ 63 ≤ (counterOf (streaming {}) 0 63 - rdStream { sregs := [(1, 1)] } 1).toNat := by
  refine ⟨by decide, by decide, nofun, by decide, by decide, by decide, by decide, by decide, by decide, by decide⟩
def switcher : Stream := { priv := true, sregs := [(1, 511), (2, 512)], state := 2 }
/-- A hinge that context 0 leaves: no switch begun, one begun by stream 0, one by another stream. -/
def leaving (sw : Option Nat) : State := { streaming switcher with
  hinges := [(0, { streams := [(0, switcher), (5, { state := 2 })], active := some 0, switching := sw })] }
theorem witness_contextSwitch : (stream switcher).rcd.priv = true ∧ (rdStream (stream switcher).rcd 1).toNat < 512 ∧
    512 ≤ (rdStream (stream switcher).rcd 2).toNat ∧ (leaving none).pending = [] ∧ (leaving none).matrix = [] ∧ (stream switcher).hinge < 4 ∧
    (switchUnderWay (leaving (some 5)) 0 = true ∧ (hingeOf (leaving (some 5)) 0).switching ≠ some 0) ∧
    ((hingeOf (leaving none) 0).active ≠ none ∧ switchUnderWay (leaving none) 0 = false ∧ (hingeOf (leaving none) 0).switching ≠ some 0) ∧
    (∀ h, h < 4 → (hingeOf (leaving (some 0)) h).active ≠ none → (hingeOf (leaving (some 0)) h).switching = some 0) ∧
    ∀ c, ∀ y ∈ (ctxOf (leaving (some 0)) c).saved, y.team.ctx = c := by
  refine ⟨rfl, by decide, by decide, rfl, rfl, by decide, by decide, by decide, by decide, ?_⟩
  intro c y h
  have e : (ctxOf (leaving (some 0)) c).saved = [] := by
    cases c <;> rfl
  rw [e] at h
  cases h
/-- Completion words in the last bytes of a resident page and on a page that is not. -/
theorem witness_streamEnds : let s := streaming { doneaddr := 65528 }
    (Present (cleanAll s (.stream 0 0) .system) 60 0 65528 true leaf0) ∧
    Walkable (cleanAll (launching { doneaddr := 65536 }) (.stream 0 0) .system) 60 0 65536 ∧
    ∃ l, walk (cleanAll (launching { doneaddr := 65536 }) (.stream 0 0) .system) 0 65536 = .ok l ∧ l.state = 1 ∧ l.w = true :=
  ⟨present (by decide) rfl (by decide) rfl (idle rfl), walkable rfl (idle rfl),
    ⟨{ leaf0 with ppn := 5, state := 1, pte := 196616 }, by decide, rfl, rfl⟩⟩
/-- A band whose context has a handler, and threads in it. -/
def handling (b : Band) : State := { issuing b team0 [0] with contexts := [(0, { ptbase := 65536, tvec := 0x2001 })] }
def inHandler (cause : BitVec 9) : Band := { band0 with threads := List.replicate 32 { tlevel := true, tcause := cause } }
theorem can_trap (b : Band) (h : b.team = 0) (ht : (threadOf b 0).tlevel = false) : CanTrap (handling b) (group b [0]) team0 :=
  ⟨team_at rfl rfl rfl h, rfl, by show (0x2001#64).getLsbD 0 = true; decide, by intro l hl; cases List.mem_singleton.1 hl; exact ht⟩
theorem witness_trapAndReturn : CanTrap (handling band0) g0 team0 ∧
    (∀ l ∈ (group (inHandler 1) [0]).live, (threadOf (inHandler 1) l).tlevel = true ∧ (threadOf (inHandler 1) l).tcause ≠ 0x0C#9) ∧
    (inHandler 1).reload = none ∧ (∃ l ∈ (group (inHandler 0x0C) [0]).live, (threadOf (inHandler 0x0C) l).tcause = 0x0C#9) ∧
    (∃ m, ({ inHandler 1 with reload := some 1 } : Band).reload = some m ∧ m.getLsbD 0 = true) ∧ (stream { tlevel := true }).rcd.tlevel = true ∧ (stream {}).rcd.tlevel = false :=
  ⟨can_trap _ rfl rfl, by decide, rfl, ⟨0, by decide, rfl⟩, ⟨1, rfl, by decide⟩, rfl, rfl⟩
theorem witness_specialReads : threadScope (.csq 3) = false ∧ (15 : Fin 256).val < g0.band.n := by decide
theorem witness_faults : (¬ ∀ r ∈ [16, 0] ++ namedB (.vec 0), r < g0.band.n) ∧ ¬ Reachable (targetOf g0.addr 0x80000000) ∧
    4 ≤ ({ band0 with loops := List.replicate 4 { start := 0, fin := 0, remaining := 1 } } : Band).loops.length ∧
    (targetOf g0.addr 12).toNat < 2 ^ 55 ∧ g0.band.split.length + g0.band.spilled.length < (1 : Fin 64).val := by
  unfold Reachable; decide
theorem witness_doubleFault : (∀ l ∈ (group (inHandler 1) [0]).live, l < (inHandler 1).threads.length) ∧
    (∀ l ∈ (group (inHandler 1) [0]).live, (threadOf (inHandler 1) l).tlevel = true) ∧
    (ctxOf s0 0).tvec.getLsbD 0 = false ∧ (∀ l ∈ g0.live, (threadOf g0.band l).tlevel = false) ∧
    s0.early = [] ∧ g0.lanes.Pairwise (· < ·) ∧
    ringFull (ctxOf { s0 with contexts := [(0, { errors := { base := 0x70000, size := 64 } })] } 0).errors 64 = false := by decide
theorem witness_debug : g0.band.stop = none ∧ g0.band.stopped = false ∧ g0.band.retired = false ∧
    (∃ th ∈ g0.band.threads, th.exited = false) ∧ g0.core < 480 ∧
    (∃ d : BitVec 8, d.getLsbD 6 = true ∧ d.getLsbD 5 = false ∧ d.getLsbD 4 = true) ∧ (0x40#8).getLsbD 4 = false ∧
    (team0.slots.map (bandKey team0.core)).Nodup ∧ g0.key ∈ team0.slots.map (bandKey team0.core) :=
  ⟨rfl, rfl, rfl, ⟨{}, by decide, rfl⟩, by decide, ⟨0x50, by decide⟩, by decide, by decide, by decide⟩

/-- Numbers just beyond the allocation of each kind. -/
theorem witness_registerRanges : (∃ x ∈ ranged (.vaddC ⟨0, 0, 16⟩), x = (1, 16) ∧ bound g0 team0 x.1 ≤ x.2) ∧
    (∃ x ∈ ranged (.tfill ⟨.n64, 15, .imm 0⟩), x = (2, 16) ∧ bound g0 team0 x.1 ≤ x.2) ∧
    (∃ x ∈ ranged (.scld ⟨1, 511, 2⟩), x = (3, 512) ∧ bound g0 team0 x.1 ≤ x.2) ∧
    (∃ x ∈ ranged (.tinit ⟨23, .imm 1⟩), x = (4, 23) ∧ bound g0 { team0 with tumblerCount := 23 } x.1 ≤ x.2) := by
  decide
/-- A branch whose register holds, for lane 0, an address that can be reached, or not. -/
theorem witness_jumpFaults : (¬ Reachable 0x80000000000000 ∧ ¬ Reachable 2) ∧ Reachable 0x7FFFFFFFFFFFFC ∧
    2 ^ 55 ≤ (targetOf g0.addr 0xFFFFE000).toNat ∧ ¬ 2 ^ 55 ≤ (targetOf g0.addr 0).toNat ∧
    2 ^ 55 ≤ (g0.addr + ((0x8000 : BitVec 16).signExtend 64) * 4).toNat ∧
    16 + team0.spillBytes / 16 ≤ ({ band0 with split := List.replicate 16 { join := 0, mask := 1, arrived := 0 } } : Band).split.length ∧
    Lowest 8 (fun i => 2 ^ 55 ≤ (targetOf g0.addr ((#v[0, 0, 0, 0, 0, 0, 0, (0xFFFFE000 : Word)]).toList.getD i 0)).toNat) 7 := by
  unfold Reachable Lowest; decide
/-- Page 3 read-only, page 4 LOST by its entry, page 0 LOST by the remap table; page 5 absent. -/
def badPages : State := { s0 with
  mem := writeBytes 0 (writeBytes 0 tables (3 * 65536 + 24) (leBytes 8 (6 * 65536 + 5))) (3 * 65536 + 32) (leBytes 8 (6 * 65536 + 0x37))
  remap := [(4, { home := some (0, 4), lost := true }), (5, { home := some (0, 5) }), (6, { home := some (0, 6) })] }
theorem witness_pageRefuses : PageRefuses badPages 0 (5 * 65536) false 0 0x07 1 ∧ PageRefuses badPages 0 (3 * 65536) true 1 0x07 0x103 ∧
    PageRefuses badPages 0 65536 false 0 0x07 5 ∧ PageRefuses badPages 0 (4 * 65536 + 65528) true 3 0x08 0x300 ∧
    PageRefuses badPages 0 0 false 4 0x08 0x400 :=
  ⟨.absent 1 (by decide), .readOnly { leaf0 with ppn := 6, w := false, pte := 196632 } (by decide) rfl rfl,
    .away { leaf0 with ppn := 5, state := 1, pte := 196616 } (by decide) nofun rfl nofun,
    .lost { leaf0 with ppn := 6, state := 3, pte := 196640 } (by decide) (fun _ => rfl) rfl,
    .remapped leaf0 (by decide) nofun (.inl rfl) rfl (by decide)⟩
/-- A window on the NONRESIDENT page, its first granule filled; one on page 0, at a slot that an engine owns. -/
def awayWindow : Team := { team0 with maps := [(2, { first := 0, count := 1, rot := 0, win := some { base := 5 * 65536, va := 65536, filled := 1, dirty := 0 } })] }
def ownedWindow : Team := { windowed with latches := [(0, { engine := true, count := 0 })] }
theorem witness_refused : Refused s0 g0 team0 8 false 0 true 393209 0x05 393209 0 ∧ Refused s0 g0 team0 8 false 0 true 393204 0x06 393204 0 ∧
    Refused (issuing band0 awayWindow [0]) g0 awayWindow 8 true 1 true 128 0x07 65664 0x105 ∧
    Refused s0 g0 (latched 0) 8 true 1 true 393208 0x09 393208 0 ∧ Refused s0 g0 team0 4 true 3 false (2 ^ 55) 0x05 (2 ^ 55) 0 ∧
    Refused s0 g0 team0 4 true 3 false (2 ^ 55 - 1) 0x06 (2 ^ 55 - 1) 0 ∧
    Refused badPages g0 team0 4 true 3 false (4 * 65536 + 65528) 0x08 (4 * 65536 + 65528) 0x300 ∧
    Refused (issuing band0 ownedWindow [0]) g0 ownedWindow 8 true 1 false 0 0x09 0 0 := by
  refine ⟨.outside _ (by decide), .misplaced _ (by decide) (by decide), ?_, .given _ (by decide) (by decide) (fun _ => rfl) rfl (by decide),
    .space _ (by decide), .unaligned _ (by decide) (by decide),
    .page _ _ _ (by decide) (by decide) (by decide) (walkable rfl (idle rfl)) witness_pageRefuses.2.2.2.1, ?_⟩
  · exact Refused.unfilled (s := issuing band0 awayWindow [0]) (g := g0) (tm := awayWindow) (n := 8) (write := true) (code := 1)
      128 2 0x07 0x105 { first := 0, count := 1, rot := 0, win := some { base := 5 * 65536, va := 65536, filled := 1, dirty := 0 } }
      { base := 5 * 65536, va := 65536, filled := 1, dirty := 0 } (by decide) (by decide) (by decide) (by decide) (by decide) (by decide)
      (by decide) (.away { leaf0 with ppn := 5, state := 1, pte := 196616 } (by decide) nofun rfl nofun)
  · exact Refused.window (s := issuing band0 ownedWindow [0]) (g := g0) (tm := ownedWindow) (n := 8) (write := true) (code := 1)
      0 2 leaf0 { first := 0, count := 1, rot := 0, win := some { base := 262144, va := 0, filled := 1, dirty := 1 } }
      { base := 262144, va := 0, filled := 1, dirty := 1 } rfl (present0 _ _ _ _ (.inl rfl)) (by decide) nofun (by decide) (by decide)
theorem witness_resources : (walk badPages 0 (3 * 65536) = .ok { leaf0 with ppn := 6, w := false, pte := 196632 }) ∧
    overlapsWindow (issuing band0 windowed [0]) (physOf leaf0 0) 65536 = true ∧ (¬ ∃ first count, Mappable team0 0 0 first count) ∧
    Mappable { team0 with maps := [(0, { first := 0, count := 320, rot := 0, win := none })] } 15 (320 + 64 * 2 ^ 16 + 15 * 2 ^ 24) 320 64 ∧
    Lowest 64 (fun i => (latchOf (latched 0) (320 + i)).engine = true) 63 ∧ 2 ^ 55 < (2 ^ 55 - 4096) + 4096 * (2 : Nat) ∧
    aFind 7 (ctxOf keyed 0).keys ≠ none ∧ aFind 7 (ctxOf s0 0).keys = none ∧ team0.slotCount < 384 + 1 ∧
    (tumblerOf team0 23).expect = 0 ∧ (∃ p ∈ (performing waitingLoad).pending, p.issuer = g0.key ∧ ∃ l ∈ p.lanes, l ∈ g0.live) ∧ s0.pending = [] := by
  refine ⟨by decide, by decide, ?_, ?_, ?_, by decide, by decide, rfl, by decide, by decide, ⟨waitingLoad, by decide, rfl, 0, by decide, by decide⟩, rfl⟩
  · rintro ⟨f, c, ⟨r, _, h⟩, _, h2, _⟩
    have : (0 : DWord).toNat = 0 := rfl
    omega
  · exact ⟨⟨15, by decide, by decide⟩, by decide, by decide, by decide, by decide, by decide, fun k e h => by
      cases List.mem_singleton.1 h; exact .inl (by decide)⟩
  · unfold Lowest; decide
/-- Descriptor 6 has never been set; 5 of `stale` is not valid, of elements of two bytes; a record of no communicator. -/
def stale : State := { posting with mem := tables }
theorem witness_postRefused : (stackBusy posting ((ctxOf posting 0).descBase.toNat + 64 * 6) = false ∧ 6 ∉ (ctxOf posting 0).descs) ∧
    (descBytes stale 0 5).testBit 80 = false ∧ 5 ∈ (ctxOf stale 0).descs ∧ d1.rank = 1 ∧ embagDesc d1 = false ∧ d2.es = 2 ∧ 393215 % d2.es ≠ 0 ∧
    1024 * engaged.slotCount < 393215 + 2 ∧ (tumblerOf engaged 22).expect = 0 ∧
    Lowest 384 (fun n => Touches [(391168, 2048)] n ∧ ¬ EngineOwned posting (group poster [0]) engaged (1024 * n, 1)) 382 ∧
    commAt s0 0 0 = none ∧ stackBusy s0 ((ctxOf s0 0).commBase.toNat + 511) = false := by
  refine ⟨⟨idle rfl _, by decide⟩, by decide +kernel, by decide, by decide +kernel, by decide +kernel, by decide +kernel, by decide +kernel, by decide, by decide,
    ⟨by decide, ⟨⟨_, List.mem_singleton.2 rfl, 391168, by decide, by decide, by decide⟩, ?_⟩, ?_⟩, by decide +kernel, idle rfl _⟩
  · rintro ⟨_, h⟩
    rcases h 391168 (by decide) (by decide) with h | ⟨_, h, _⟩
    · exact absurd h (by decide)
    · cases h
  · rintro j hj ⟨⟨r, hr, o, h1, h2, h3⟩, _⟩
    cases List.mem_singleton.1 hr
    simp at h1 h2
    omega
/-- Registers at the bounds of the posts' and the tiles' operands; an image that is no descriptor, and one of .f64. -/
theorem witness_postOperands : (let b : Band := { band0 with sregs := [(1, 2 ^ 55), (2, 2 ^ 32), (3, 2 ^ 19), (4, 2 ^ 36), (5, 2), (6, 65536), (7, 2 ^ 19 - 4)] }
    2 ^ 55 ≤ (rdS b 1).toNat ∧ (rdS b 63).toNat = 0 ∧ 65535 < (rdS b 6).toNat ∧ 2 ^ 32 ≤ (rdS b 2).toNat ∧ 2 ^ 19 ≤ (rdS b 3).toNat ∧
    (rdS b 5).toNat % 4 ≠ 0 ∧ 2 ^ 36 ≤ (rdS b 4).toNat ∧ 1024 * team0.slotCount < (rdS b 7).toNat + 4 * 1) ∧
    imageInvalid 0 = true ∧ imageInvalid (image1.toNat + (11 - d1.ty) * 2 ^ 64) = false ∧ (descOf (image1.toNat + (11 - d1.ty) * 2 ^ 64)).ty = 11 := by
  decide +kernel

/-! Events -/

/-- A launch of one team of one band, nothing placed. -/
def record0 : LaunchRec := {
  entry := 0x40, stashImg := 0, stashLen := 0, pinQuota := 0, teams := 2, groups := 0, bands := 1, prio := 0, pkg := false, hinge := 0
  splitSpill := 0, regs := 16, sregs := 8, tiles := 0, tumblers := 0, stashSlots := 0, roles := [], params := List.replicate 16 1 }
def launch0 : Machine.Launch := { ctx := 0, lseq := 1, lpc := 0, hinge := 0, stream := 0, rcd := record0, spill := 0 }
def happening (b : Band) (tm : Team) (e : Event) : State := { issuing b tm [] with cur := .event e }
def exited : Band := { band0 with threads := List.replicate 32 { exited := true } }
def stepping (outcome : Nat) (t : Thread) : Band := { band0 with
  threads := List.replicate 32 t, stepping := some { want := none, issued := some 0, lanes := [0], outcome := outcome } }
theorem witness_bandRetire : bandOf (happening exited team0 (.bandRetire 0 0)) (bandKey 0 0) = some exited ∧ exited.retired = false ∧
    teamOf (happening exited team0 (.bandRetire 0 0)) exited.team = some team0 ∧ (∀ x ∈ exited.threads, x.exited = true) ∧
    exited.vreds = [] ∧ exited.traps = [] ∧ (∃ x ∈ band0.threads, x.exited = false) ∧
    (happening exited team0 (.bandRetire 0 0)).pending = [] ∧ (happening exited team0 (.bandRetire 0 0)).matrix = [] ∧
    exited.stepping = none ∧ (stepping 8 {}).stepping ≠ none := by
  refine ⟨rfl, rfl, rfl, by decide, rfl, rfl, ⟨{}, by decide, rfl⟩, rfl, rfl, rfl, nofun⟩
theorem witness_teamRetire : let s := { happening { exited with retired := true } team0 (.teamRetire 0) with launches := [(launchKey 0 1, launch0)] }
    teamOf s 0 = some team0 ∧ (∀ k b, holdsBand team0 k → bandOf s k = some b → b.retired = true) ∧
    (∀ c ∈ (coreOf s team0.core).channels, ∀ x ∈ c.2.queue ++ c.2.chain, x.team ≠ 0) ∧
    (∀ h ∈ s.hinges, ∀ x ∈ h.2.collectives, x.team ≠ 0) ∧ (∀ e ∈ team0.maps, e.2.win = none) ∧
    aFind (launchKey team0.ctx team0.lseq) s.launches = some launch0 ∧ launch0.aborted = false ∧
    launch0.retired + 1 < teamsOf launch0.rcd ∧ teamsOf record0 ≤ ({ launch0 with retired := 1 } : Machine.Launch).retired + 1 := by
  refine ⟨rfl, ?_, nofun, nofun, nofun, rfl, rfl, by decide, by decide⟩
  intro k b ⟨n, hn, hk⟩ hb
  cases List.mem_singleton.1 hn
  subst hk
  cases hb
  rfl
theorem witness_teamRetire_early : holdsBand team0 0 ∧ bandOf (happening band0 team0 (.teamRetire 0)) 0 = some band0 ∧
    band0.retired = false := ⟨⟨0, by decide, rfl⟩, rfl, rfl⟩
theorem witness_teamRetire_window : ∃ e w, teamOf (happening exited windowed (.teamRetire 0)) 0 = some windowed ∧ (2, e) ∈ windowed.maps ∧
    e.win = some w ∧ w.dirty ≠ 0 := ⟨_, _, rfl, List.mem_singleton.2 rfl, rfl, by decide⟩
def taking : Stream := { enable := true, tail := 1 }
/-- An entry of zeros, which is valid, and one whose first word is 1. -/
theorem witness_takeEntry : let u := dropAll (streaming taking) (.stream 0 0) .system
    (streamOf (streaming taking) 0 0).enable = true ∧ (streamOf (streaming taking) 0 0).state = 0 ∧ taking.head ≠ taking.tail ∧
    Readable u 0 0 (taking.chbase.toNat + 32 * (taking.head.toNat % 2 ^ taking.chlog2.toNat)) 4 (fun _ => leaf0) ∧
    leNat ((bytesAt u 0 4 (fun _ => leaf0)).drop 0 |>.take 8) = 0 ∧
    ¬ leNat ((bytesAt { u with mem := writeBytes 0 tables (4 * 65536) [1] } 0 4 (fun _ => leaf0)).drop 0 |>.take 8) % 4 = 0 := by
  intro u
  have w : ∀ k, k < 4 → walk u 0 (0 + 8 * k) = .ok leaf0 := by decide
  rw [show taking.chbase.toNat + 32 * (taking.head.toNat % 2 ^ taking.chlog2.toNat) = 0 by decide]
  refine ⟨rfl, rfl, by decide, fun k h => ⟨present (by omega) rfl (w k h) rfl (idle rfl), rfl⟩, by decide, by decide⟩
def placing : State := { State.reset with
  launches := [(launchKey 0 1, launch0)], hinges := [(0, { active := some 0, quantum := some 7 })], now := 7, cur := .event (.teamPlacement 0) }
theorem witness_placement : queueHead placing 0 = some launch0 ∧ launch0.rcd.groups = 0 ∧ launch0.rcd.stashImg = 0 ∧
    (rotated 120 (hingeOf placing 0).corePtr).find? (fun c => coreTakes placing (0 * 120 + c) launch0.rcd) = some 0 ∧
    switchUnderWay placing 0 = false ∧ switchUnderWay (leaving (some 5)) 0 = true ∧ queueHead State.reset 0 = none ∧
    (hingeOf placing 0).quantum = some 7 ∧ 7 ≤ placing.now ∧ ({ placing with now := 6 } : State).now < 7 := by decide
def trapping (level : Bool) : Band := { band0 with
  threads := { exited := true } :: { wait := .join 1 false } :: List.replicate 30 { tlevel := level }
  traps := [{ cause := 6, unit := 0, seq := 1, comm := 0, addr := 0 }] }
theorem witness_engineTraps : (trapping false).traps ≠ [] ∧ 2 < (trapping false).threads.length ∧ (threadOf (trapping false) 2).exited = false ∧
    (¬ ∃ n e, (threadOf (trapping false) 2).wait = .join n e) ∧ (threadOf (trapping false) 0).exited = true ∧
    (∃ n e, (threadOf (trapping false) 1).wait = .join n e) ∧ (threadOf (trapping true) 2).tlevel = true ∧
    (threadOf (trapping false) 2).tlevel = false ∧ (threadOf (trapping false) 2).halted = false ∧
    (∀ v, (threadOf (trapping false) 2).wait ≠ .captured v) ∧ (ctxOf (handling (trapping false)) 0).tvec.getLsbD 0 = true := by
  refine ⟨nofun, by decide, rfl, nofun, rfl, ⟨1, false, rfl⟩, rfl, rfl, rfl, nofun, ?_⟩
  show (0x2001#64).getLsbD 0 = true
  decide
/-- Breakpoint 3 at the threads' address, the others off. -/
def breaking : Context := { ibp := [(3, 0x100000000000000)], dbgctl := 4 }
theorem witness_breakpoint : (aGet 0 3 breaking.ibp).getLsbD 56 = true ∧ (aGet 0 3 breaking.ibp).getLsbD 57 = false ∧
    zeroBits (aGet 0 3 breaking.ibp) 58 2 ∧ (threadOf band0 31).pc = aGet 0 3 breaking.ibp &&& 0x007FFFFFFFFFFFFC ∧
    breaking.dbgctl.getLsbD 2 = true ∧ band0.stop = none ∧ band0.stepping = none ∧ band0.split = [] ∧ band0.spilled = [] ∧
    31 < band0.threads.length ∧ (threadOf band0 31).wait = .ready ∧ (threadOf band0 31).noIbp = false ∧
    ∀ m, m < 8 → m ≠ 3 → (aGet 0 m breaking.ibp).getLsbD 56 = false := by
  refine ⟨by decide, by decide, by unfold zeroBits; decide, by decide, by decide, rfl, rfl, rfl, rfl, by decide, rfl, rfl, by decide⟩
def stopped0 : Band := { band0 with stop := some (stopOf 1 1 0 0 7) }
theorem witness_stopArrival : bandOf (happening stopped0 team0 (.stopArrival 0 0)) 0 = some stopped0 ∧
    (stopOf 1 1 0 0 7).arrived = false ∧ (stopOf 1 1 0 0 7).recorded = false ∧ State.reset.now < (stopOf 1 1 0 0 7).arrival ∧
    (stopOf 1 1 0 0 7).arrival ≤ placing.now ∧ (∃ th ∈ stopped0.threads, th.exited = false) ∧
    (∀ th ∈ stopped0.threads, th.exited = true ∨ th.tlevel = false) ∧ (∀ th ∈ exited.threads, th.exited = true) ∧
    (∃ th ∈ (inHandler 1).threads, th.exited = false ∧ th.tlevel = true ∧ th.halted = false) := by
  refine ⟨rfl, rfl, rfl, by decide, by decide, ⟨{}, by decide, rfl⟩, by decide, by decide,
    ⟨{ tlevel := true, tcause := 1 }, by decide, rfl, rfl, rfl⟩⟩
theorem witness_haltRequest : (setBands s0 0 ⟨.band, 0, 0, 0⟩).Nodup ∧ (setBands s0 0 ⟨.team, 0, 0, 0⟩).Nodup ∧
    (setBands s0 0 ⟨.cluster, 7, 0, 0⟩).Nodup ∧ (setBands s0 0 ⟨.hinge, 119, 0, 0⟩).Nodup ∧ Named s0 0 ⟨.hinge, 119, 0, 0⟩ 0 :=
  ⟨by decide, by decide, by decide, by decide, 0, team0, 0, band0, rfl, rfl, rfl, by decide, by decide, rfl, rfl⟩
def haltedBand : Band := { band0 with
  threads := List.replicate 32 { halted := true }, stop := some { stopOf 5 1 0 0 0 with arrived := true, recorded := true } }
theorem halted : Halted haltedBand := .inr ⟨_, rfl, rfl, by decide⟩
/-- A band that BANDCMD has put into a step; one that it has resumed, which has issued nothing since. -/
def commanded (b : Band) : State := { issuing b team0 [] with contexts := [(0, { ptbase := 65536, cmdBands := [0] })] }
def resumedBand : Band := { band0 with threads := List.replicate 32 { noIbp := true } }
theorem witness_bandCommands : CommandBusy (commanded (stepping 0 {})) 0 ∧ CommandBusy (commanded resumedBand) 0 ∧ ¬ CommandBusy s0 0 ∧
    Halted haltedBand ∧ haltedBand.stepping = none ∧ haltedBand.stopped = false ∧
    Named (issuing haltedBand team0 []) 0 ⟨.band, 0, 0, 0⟩ (bandKey 0 0) ∧
    (∃ i, i < haltedBand.threads.length ∧ eligible haltedBand i = true ∧ (threadOf haltedBand i).pc = 0) ∧
    (∀ i, i < haltedBand.threads.length → (threadOf haltedBand i).pc ≠ 4) ∧ ¬ CommandBusy (issuing haltedBand team0 []) 0 := by
  refine ⟨⟨0, by decide, _, team0, rfl, rfl, rfl, .inl nofun⟩, ⟨0, by decide, _, team0, rfl, rfl, rfl, .inr ⟨rfl, rfl, ⟨{ noIbp := true }, by decide, rfl⟩⟩⟩, ?_,
    halted, rfl, rfl, ⟨0, team0, 0, haltedBand, rfl, rfl, rfl, by decide, by decide, rfl, rfl, rfl⟩, ⟨0, by decide, by decide, rfl⟩,
    by decide, ?_⟩
  · rintro ⟨_, h, _⟩; cases h
  · rintro ⟨_, h, _⟩; cases h
theorem witness_stepEnd : (stepping 8 {}).stepping = some { want := none, issued := some 0, lanes := [0], outcome := 8 } ∧
    (threadOf (stepping 0 { exited := true }) 0).exited = true ∧
    (∃ n c, (threadOf (stepping 0 { wait := .tumbler 1 true }) 0).wait = .tumbler n c) ∧
    (∃ n, (threadOf (stepping 0 { wait := .rdr 1 }) 0).wait = .rdr n) ∧
    (∃ p n w, (threadOf (stepping 0 { wait := .key 0 1 8 }) 0).wait = .key p n w) ∧
    (threadOf (stepping 0 { wait := .polled 5 }) 0).wait = .polled 5 ∧
    (threadOf (stepping 0 {}) 0).exited = false ∧ (threadOf (stepping 0 {}) 0).wait = .ready ∧
    (ctxOf (commanded (stepping 0 {})) 0).cmdBands = [bandKey 0 0] :=
  ⟨rfl, rfl, ⟨_, _, rfl⟩, ⟨_, rfl⟩, ⟨_, _, _, rfl⟩, rfl, rfl, rfl, rfl⟩
/-- A sampled core in its second period, a trigger of a core, and a sample whose instruction is done. -/
def sampledTrigger : Trigger := { number := 7, blocks := [(0, 479, 2), (1, 59, 2), (2, 3, 12), (0, 0, 40)] }
def sampling : State := { s0 with
  now := 2, cores := [(0, { sampEn := true, sampSp := 1, samples := [{ slot := 0, seq := 5, cycle := 0, issuedAt := 0, lseq := 1, pc := 0, active := 1, sectors := 1, passes := 2, l1 := false, doneAt := 1 }] })]
  triggers := [sampledTrigger] }
/-- Two blocks that the trigger has reached, of a core and of a cluster, and two that it has not. -/
theorem witness_snapshots : (sampling.triggers.Pairwise (fun x y => x.number ≠ y.number) ∧ sampledTrigger ∈ sampling.triggers ∧
      sampledTrigger.blocks.Pairwise (fun x y => (x.1, x.2.1) ≠ (y.1, y.2.1)) ∧ (∀ b ∈ sampledTrigger.blocks, b.1 ≤ 2) ∧
      2 ≤ sampling.now ∧ sampling.now < 12) ∧
    (coreOf sampling 0).sampEn = true ∧ 0 / 16 = 0 ∧ (aGet (0, 15) 0 (coreOf sampling 0).sampleAt).1 < sampling.now / 2 ^ (coreOf sampling 0).sampSp.toNat ∧
    bandOf sampling (bandKey 0 0) = some band0 ∧ (∀ n x, n / 16 = 0 → n ≠ 0 → bandOf sampling (bandKey 0 n) = some x → x.retired = true) ∧
    (∃ x, (coreOf sampling 0).samples = [x]) ∧ sampling.pending = [] := by
  refine ⟨by decide, rfl, rfl, by decide, rfl, ?_, ⟨_, rfl⟩, rfl⟩
  intro n x _ h2 h3
  have e : bandOf sampling (bandKey 0 n) = none := by
    unfold bandKey
    cases n with
    | zero => exact absurd rfl h2
    | succ n => show aFind (0 * 64 + (n + 1)) [(0, band0)] = none; simp [aFind]
  rw [e] at h3
  cases h3
theorem witness_stallSample : ∃ b : Band, (∀ th ∈ b.threads, th.exited = true ∨ ∃ n c, th.wait = .tumbler n c) ∧
    ∃ th ∈ b.threads, th.exited = false :=
  ⟨{ band0 with threads := [{ exited := true }, { wait := .tumbler 1 false }] },
    fun th h => by rcases List.mem_cons.1 h with rfl | h
                   · exact .inl rfl
                   · exact .inr ⟨1, false, by rw [List.mem_singleton.1 h]⟩,
    { wait := .tumbler 1 false }, by decide, rfl⟩
theorem witness_scheduler : [0, 3].Pairwise (· < ·) ∧ pickSlot s0 0 [0, 3] = some 0 ∧ pickSlot { s0 with now := 256 } 0 [0, 3] = some 0 ∧
    256 ≤ ({ s0 with now := 256 } : State).now - band0.since ∧ s0.now - band0.since < 256 ∧
    (awakeGroups { s0 with cur := .event (.forcedPick 0 0), now := 256 } 0 0).head? = some (List.range 32) := by
  decide
theorem witness_softErrors : let c : Core := { half := true, grp := true }
    (479 : Nat) < 480 ∧ (15 : Nat) < 16 ∧ c.dead = false ∧ c.beat = none ∧ (c.half = true → c.grp = decide (8 ≤ 15)) ∧
    ({ c with beat := some 15 } : Core).beat = some 15 ∧ ({ beat := some 0 } : Core).half = false := by decide
theorem witness_debugPort : Halted haltedBand ∧ ¬ Halted band0 ∧ ((0x760 : Nat) < 2 ^ 28 ∧ 0x768 % 8 = 0) ∧
    (∃ n e, (threadOf { haltedBand with threads := [{ wait := .join 1 true }] } 0).wait = .join n e) ∧
    (∀ n e, (threadOf haltedBand 0).wait ≠ .join n e) ∧ (0 : Nat) < haltedBand.sregCount ∧ 48 * 31 + 32 < 2 ^ 28 ∧
    (48 * 31 + 32) % 8 = 0 ∧ 0xA00 + 8 * 63 < 2560 + 8 * haltedBand.sregCount ∧
    (coreOf { s0 with cores := [(479, { dbgAddr := 0xA00 })] } 479).dbgAddr.toNat = 0 * 2 ^ 39 + 0 * 2 ^ 33 + 0xA00 := by
  refine ⟨halted, ?_, by decide, ⟨1, true, rfl⟩, nofun, by decide, by decide, by decide, by decide, by decide⟩
  rintro (h | ⟨_, h, _⟩) <;> cases h
theorem witness_windowRegs : ({ State.reset with bootState := 1 } : State).bootState = 1 ∧ (windowRegs 3 15 255 7).length = 24 ∧
    (0x20 : Nat) ∈ [0x10, 0x20, 0x300, 0xF8000] ∧ (9 : Nat) % 8 ≠ 0 ∧ (8 = 8 ∨ 8 < 6) := by decide
theorem witness_streamsAndPorts : (0x100 : DWord).getLsbD 8 = true ∧ (streamOf s0 3 15).enable = false ∧ (0 : DWord).getLsbD 8 = false ∧
    taking.enable = true ∧ (stackAt { s0 with hinges := [(3, { memStacks := [(3, { state := 2 })] })] } 15).state = 2 ∧
    (stackAt s0 15).state ≠ 2 ∧ (portAt s0 17).up = false ∧
    (portAt { s0 with hinges := [(3, { ports := [(17, { up := true, deadline := some 7 })] })] } 17).up = true ∧
    17 < ({ s0 with links := 18 } : State).links ∧ (portAt { s0 with hinges := [(3, { ports := [(17, { deadline := some 7 })] })] } 17).deadline = some 7 ∧
    (∃ f : Flit, f.crcOk = false) ∧ ∃ f : Flit, f.crcOk = true ∧ f.seq = ({} : Port).expect ∧ f.type = 1 ∧ f.vc < 8 :=
  ⟨by decide, rfl, by decide, rfl, by decide, by decide, rfl, rfl, by decide, rfl,
    ⟨⟨1, 0, 0, 0, 0, [], false⟩, rfl⟩, ⟨⟨1, 7, 3, 0, 0, [], true⟩, rfl, rfl, rfl, by decide⟩⟩
theorem witness_hostMemory : let s := { s0 with bootState := 1 }
    s.bootState = 1 ∧ 65536 * 4 + 65528 + 8 ≤ 2 ^ 34 ∧ s.apbase.toNat + (65536 * 4 + 65528) + 8 ≤ 2 ^ 48 ∧
    stackBusy s (s.apbase.toNat + (65536 * 4 + 65528)) = false ∧ stackBusy s (s.apbase.toNat + (65536 * 4 + 65528) + 8 - 1) = false ∧
    (∀ i, i < 8 → pageLost s ((s.apbase.toNat + (65536 * 4 + 65528) + i) / 65536) = false) ∧ (ctxOf s 0).tlbGo = none ∧
    (ctxOf { s with contexts := [(0, { tlbGo := some (1, 2) })] } 0).tlbGo = some (1, 2) ∧ s.pending = [] ∧
    (coreChan (working team0 { command with stall := some { vpage := 1, held := false } } (.pageAnswerDone 0 1)) 0 3).queue ≠ [] := by
  decide
theorem witness_launchAbort : aFind (0 * 2 ^ 64 + 1) placing.launches = some launch0 ∧ launch0.retired = 0 ∧ launch0.next = 0 ∧
    0 < ({ launch0 with next := 1 } : Machine.Launch).next ∧ launch0.rcd.groups = 0 := by decide
/-- A hinge whose promotion range 0 holds page 4, which is near and whose count is 0; the same page with the highest count, in module 31. -/
def promoting (home count : Nat) : State := { s0 with
  remap := [(4, { home := some (home, 4) })], hinges := [(3, { prom := [(0, 0x8000000000000004, 1)] })], promo := [(4, BitVec.ofNat 8 count)] }
theorem witness_promotion : promEnabled s0 3 4 = false ∧ promEnabled (promoting 0 0) 3 4 = true ∧ pageLost (promoting 0 0) 4 = false ∧
    stackBusy (promoting 0 0) (4 * 65536) = false ∧ homeOfPage (promoting 0 0) 4 < 16 ∧
    (aGet 0 4 (promoting 0 0).promo).toNat ≤ Config.demoteTo.toNat ∧ 16 ≤ homeOfPage (promoting 31 255) 4 ∧
    Config.promoteFrom.toNat ≤ (aGet 0 4 (promoting 31 255).promo).toNat ∧ stackBusy (promoting 31 255) (4 * 65536) = false ∧
    ({ s0 with now := 2 ^ 20 } : State).halved < (2 ^ 20 - s0.bootTime) / 2 ^ 20 ∧ (s0.now - s0.bootTime) / 2 ^ 20 ≤ s0.halved :=
  ⟨by decide, by decide, by decide, by decide, by decide, Nat.zero_le _, by decide, Nat.le_of_lt_succ (BitVec.isLt Config.promoteFrom), by decide,
    by decide, by decide⟩
theorem witness_caches : aSorted s0.promo = true ∧
    copyAt { s0 with cores := [(0, { l1 := [(0, { value := 1, dirty := true })] })] } (.l1 0) 0 = some { value := 1, dirty := true } ∧
    copyAt { s0 with cores := [(0, { l1 := [(0, { value := 1, dirty := false })] })] } (.l1 0) 0 = some { value := 1, dirty := false } ∧
    aSorted (levelMap { s0 with cores := [(0, { l1 := [(0, { value := 1, dirty := false })] })] } (.l1 0)) = true ∧
    (¬ Pinned s0 (.l1 0) 0) ∧ Pinned (issuing band0 { team0 with pins := [4] } [0]) (.cluster 0) (4 * 65536) := by
  refine ⟨by decide, by decide, by decide, by decide, ?_, 0, rfl, _, List.mem_singleton.2 rfl, rfl, by decide⟩
  rintro ⟨_, h, _⟩
  cases h
theorem witness_heat : (stackAt s0 15).state = 0 ∧
    (stackAt { s0 with hinges := [(3, { memStacks := [(3, { state := 1, windowEnd := 1 })] })] } 15).state = 1 ∧
    s0.now < (stackAt { s0 with hinges := [(3, { memStacks := [(3, { state := 1, windowEnd := 1 })] })] } 15).windowEnd ∧
    (∃ o ∈ (performing waitingLoad).pending, opOnStack (performing waitingLoad) 0 o = true) ∧
    AllClean s0 ∧ s0.warmWanted = none ∧ s0.attGo = false ∧ ({ s0 with attGo := true } : State).attGo = true :=
  ⟨by decide, by decide, by decide, ⟨waitingLoad, List.mem_singleton.2 rfl, by decide⟩, ⟨nofun, nofun, nofun, fun e h => by cases List.mem_singleton.1 h; nofun⟩, rfl, rfl, rfl⟩
theorem witness_warmReset : AllClean State.reset ∧ State.reset.seen = [] ∧
    ∀ h ∈ State.reset.hinges, ∀ k ∈ h.2.memStacks, k.2.state ≠ 1 := ⟨⟨nofun, nofun, nofun, nofun⟩, rfl, nofun⟩

/-- Firmware of one stage, whose format is sound or not. -/
theorem witness_boot : ({ profileN := false, stepping := 0, links := 18, repair := [], modules := [], keyHash := 0, minVersion := 1, trained := true
                          stages := [{ image := [], key := [], signature := [], version := 0, keys := [], formatOk := false }] } : Boot).stages ≠ [] :=
  nofun

/-- Hinge 0 stopped for stream 0's CTXSW, its engines at rest, and one that moves the elements of a row. -/
theorem witness_switchDrains : enginesRest (leaving (some 0)) 0 = true ∧
    enginesRest { leaving (some 0) with teams := [(0, engaged)]
                                        cores := [(0, { channels := [(3, { queue := [{ rows false 1 with part := 1, pages := [(0, 0, 4 * 65536)] }] })] })] } 0 = false := by
  decide +kernel
theorem witness_trapReturns : (handling (inHandler 0x0C)).early = [] := rfl
/-- A team with a command outstanding, with a collective, and with none; its other band has not retired. -/
theorem witness_lastBand : ¬ HasPosted (happening exited team0 (.bandRetire 0 0)) 0 team0 ∧ HasPosted (working team0 command (.bandRetire 0 0)) 0 team0 ∧
    HasPosted (gathered (collecting .snd false)) 0 team0 ∧ (∀ j b', holdsBand team0 j → j ≠ 0 →
      bandOf (happening exited team0 (.bandRetire 0 0)) j = some b' → b'.retired = true) ∧
    ∃ j, holdsBand { team0 with slots := [0, 1] } j ∧ j ≠ 0 := by
  refine ⟨?_, .inl ⟨_, List.mem_singleton.2 rfl, command, List.mem_append.2 (.inl (List.mem_singleton.2 rfl)), rfl⟩, .inr ⟨_, List.mem_singleton.2 rfl, collecting .snd false, List.mem_singleton.2 rfl, rfl⟩, ?_,
    ⟨1, ⟨1, by decide, rfl⟩, by decide⟩⟩
  · rintro (⟨_, h, _⟩ | ⟨_, h, _⟩)
    · cases h
    · cases h
  · rintro j b ⟨n, hn, rfl⟩ h
    cases List.mem_singleton.1 hn
    exact absurd rfl h
/-- A band of a package-bound grid of which a hinge runs another context; one whose only candidate has yielded, beside a band that is eligible. -/
theorem witness_notSelected : (∃ s : State, bandHeld s band0 = true ∧ teamOf s 0 = some team0) ∧ bandHeld s0 band0 = false ∧
    ∃ s b, bandHeld s b = false ∧ bandOf s 0 = some b ∧ stallAwake s 0 0 b ≠ [] ∧ ∀ c ∈ stallAwake s 0 0 b, yieldHolds s 0 0 c = true := by
  refine ⟨⟨{ s0 with launches := [(launchKey 0 1, { launch0 with rcd := { record0 with pkg := true } })], teams := [(0, team0)] }, by decide, rfl⟩, by decide,
    { s0 with bands := [(0, { band0 with yielded := 1 }), (1, band0)], teams := [(0, { team0 with slots := [0, 1] })] }, { band0 with yielded := 1 }, by decide, rfl, by decide, by decide⟩
theorem witness_ports : (portAt { s0 with hinges := [(3, { ports := [(17, { down := true })] })] } 17).down = true ∧ (portAt s0 17).down = false := by decide
theorem witness_savedAnswer : ((ctxOf { s0 with contexts := [(0, { savedCmds := [(0, { command with stall := some { vpage := 1, held := false } })] })] } 0).savedCmds[0]?).isSome = true := by
  decide
theorem witness_promotes : ((promoting 0 0).remap.map (·.1)).Nodup ∧ homeBusy (promoting 0 0) (homeOfPage (promoting 0 0) 4) = false ∧
    homeBusy (promoting 0 0) 31 = false ∧ homeBusy { s0 with hinges := [(3, { memStacks := [(3, { state := 1 })] })] } 15 = true := by decide
theorem witness_stepsApart : haltedBand.stepping = none ∧ (stepping 0 {}).stepping ≠ none ∧ stopped0.stepping = none ∧
    (∀ th ∈ ({ inHandler 1 with threads := List.replicate 32 { tlevel := true, halted := true } } : Band).threads,
      th.exited = true ∨ th.tlevel = false ∨ th.halted = true) := ⟨rfl, nofun, rfl, by decide⟩

/-! Steps -/

/-- `sadd.n64 s1, s2, s3` where the first step after reset fetches it. -/
def fetching : State := State.reset.withFetchWord 32 (wordC 0x10 15 1 2 3)
def sadd : Decoded := plainly (.saddC { d := 1, a := 2, b := 3 })
def fetchingBand : Band := { team := 0, idx := 0, n := 256, threads := List.replicate 32 {} }
theorem witness_groupGoes : ∃ b tm, fetching.agenda = .issue 0 0 0 :: [] ∧ GroupGoes { fetching with agenda := [] } 0 0 0 b tm sadd := by
  refine ⟨fetchingBand, (teamOf fetching 0).get (by decide), rfl, ?_⟩
  exact ⟨by decide, by decide, by decide, by decide, by decide, by decide,
    by decide, by decide, by decide⟩
theorem witness_groupFetches : ∃ w bs s1, fetchInstr { fetching with agenda := [] } (clusterOfCore 0) 0 (writeBytes 0 [] placeHome (leBytes 4 (wordC 0x10 15 1 2 3))) 0 =
    (.ok (w, bs), s1) ∧ decode false s1.profileN bs = .ok sadd := by
  refine ⟨_, _, (fetchInstr { fetching with agenda := [] } (clusterOfCore 0) 0 (writeBytes 0 [] placeHome (leBytes 4 (wordC 0x10 15 1 2 3))) 0).2,
    Prod.ext (show _ = Except.ok (wordC 0x10 15 1 2 3, leBytes 4 (wordC 0x10 15 1 2 3)) from by decide) rfl, by decide⟩
/-- LSIG.host #3 on a stream. -/
def fetchingStream : State := State.reset.withFetchWord 96 (0x00013FAA + 3 * 2 ^ 64)
theorem witness_streamFetches : fetchingStream.agenda = .issueStream 0 0 :: [] ∧
    (streamOf { fetchingStream with agenda := [] } 0 0).state = 1 ∧
    (∃ w bs s1, fetchInstr { fetchingStream with agenda := [] } (60 + 0) 0 fetchingStream.mem 0 = (.ok (w, bs), s1) ∧
      decode true s1.profileN bs = .ok (plainly (.lsigHost { vec := 3 }))) ∧
    streamFree { fetchingStream with agenda := [] } (streamIssuer 0 0) (.lsigHost { vec := 3 }) = true := by
  refine ⟨rfl, by decide, ⟨_, _, (fetchInstr { fetchingStream with agenda := [] } (60 + 0) 0 fetchingStream.mem 0).2,
    Prod.ext (show _ = Except.ok (0x00013FAA, leBytes 12 (0x00013FAA + 3 * 2 ^ 64)) from by decide) rfl, by decide⟩, by decide⟩
/-- The streams between the one that issued last and the next ready one; a group that goes on from a wait. -/
theorem witness_streamTurn : let x := { fetchingStream with agenda := [] }
    ∀ j, j < (0 + 15 - (hingeOf x 0).lastStream % 16) % 16 → streamReady x 0 (((hingeOf x 0).lastStream + 1 + j) % 16) = false := by decide
theorem with_first {α β : Type} {p : α × β} {a : α} (h : p.1 = a) : p = (a, p.2) := h ▸ rfl
/-- Code in a page, past the virtual space, and on a page that is not mapped. -/
theorem witness_instructionBytes : 0 % 65536 + instrLength (wordC 0x10 15 1 2 3) ≤ 65536 ∧ 0 + instrLength (wordC 0x10 15 1 2 3) ≤ Config.vaLimit ∧
    Config.vaLimit < (2 ^ 55 - 3) + 4 ∧ (∃ a t, access fetching 0 0 0 .fetch = (.ok (.bytes a), t) ∧ (access t 0 0 0 .fetch).1 = .ok (.bytes a)) ∧
    ∃ e t, 65536 + 4 ≤ Config.vaLimit ∧ access fetching 0 0 65536 .fetch = (.error e, t) := by
  have first : (access fetching 0 0 0 .fetch).1 = .ok (.bytes (4 * 65536)) := by decide +kernel
  have again : (access (access fetching 0 0 0 .fetch).2 0 0 0 .fetch).1 = .ok (.bytes (4 * 65536)) := by decide +kernel
  refine ⟨by decide, by decide, by decide, ⟨4 * 65536, (access fetching 0 0 0 .fetch).2, with_first first, again⟩,
    { cause := 7, addr := 65536, info := 513 }, _, by decide, Prod.ext (by rfl) rfl⟩
theorem witness_events : (∃ s : State, ∃ e, s.cur = .event e) ∧ (∀ core slot, Event.driverTrigger ≠ .engineTrapTake core slot) ∧
    preciseFirst s0 (.engineTrapTake 0 0) = none := ⟨⟨performing waitingLoad, _, rfl⟩, nofun, by decide⟩
theorem witness_ownMoves : State.reset.agenda = [] := rfl
theorem witness_memoryStaysCanonical : ∃ s t, Memory.wf s.mem = true ∧ Steps s t :=
  ⟨{ State.reset with agenda := [.event .attestationRequest] }, _, rfl, rfl⟩

end Sys2Proof.Tests
end

section
/-! SUPPORT. Steps that no instruction makes (R7): the machine's own moves, and the events of the device. -/

namespace Sys2Proof.Proofs

open Sys2Proof.Machine Sys2Proof.Claims

/-! ### A step with nothing on the agenda -/

/-- A step is the move that comes next, and the time it takes. -/
theorem step_eq_thenState (s : State) : step s = thenState (nextMove s) tickOver := by
  unfold step
  cases nextMove s <;> rfl

theorem nextMove_idle {s : State} (h : s.agenda = []) : nextMove s = freeMove s := by
  simp only [nextMove, h]

/-- The machine rests when no move of its own acts. -/
theorem freeMove_rests {s : State} (h : (ownMoves s).filter (moveActs s) = []) : freeMove s = .next s := by
  simp [freeMove, h, choose, runMove]

/-- Where some move of its own acts, the machine makes one of those that do; only the counter of choices differs before it. -/
theorem freeMove_acts {s : State} (h : (ownMoves s).filter (moveActs s) ≠ []) :
    ∃ m ∈ (ownMoves s).filter (moveActs s), ∃ k, freeMove s = runMove { s with tick := k } m := by
  have hi := choose_lt s (List.length_pos_of_ne_nil h)
  refine ⟨_, List.getElem_mem hi, (choose s ((ownMoves s).filter (moveActs s)).length).2.tick, ?_⟩
  rw [← choose_frame, ← List.getD_eq_getElem _ .free hi]
  rfl

theorem ownMove : OwnMove := by
  intro s hidle
  rw [step_eq_thenState, nextMove_idle hidle]
  by_cases h : (ownMoves s).filter (moveActs s) = []
  · right
    rw [freeMove_rests h]
    exact ⟨by simpa [List.filter_eq_nil_iff] using h, rfl⟩
  · left
    obtain ⟨m, hm, k, hk⟩ := freeMove_acts h
    obtain ⟨hown, hacts⟩ := List.mem_filter.1 hm
    exact ⟨m, hown, hacts, k, by rw [hk]⟩

/-! ### Events -/

/-- A delivery of a reduction's value answers a state, whichever of the band, the reduction and the value are there (R187). -/
theorem execVredCompletion_next {s : State} {core slot : Nat} (h : s.cur = .event (.vredCompletion core slot)) :
    ∃ t, execVredCompletion s = .next t := by
  simp only [execVredCompletion, h]
  cases bandOf s (bandKey core slot) with
  | none => exact ⟨_, rfl⟩
  | some b =>
    dsimp only
    rcases b.vreds with _ | ⟨⟨_, _, _ | v, _⟩, rest⟩ <;> exact ⟨_, rfl⟩

/-- A matrix operation completes in its team's order, and otherwise nothing happens (R314). -/
theorem execMatrixCompletion_next {s : State} {i : Nat} (h : s.cur = .event (.matrixCompletion i)) :
    ∃ t, execMatrixCompletion s = .next t := by
  simp only [execMatrixCompletion, h]
  cases s.matrix[i]? with
  | none => exact ⟨_, rfl⟩
  | some o =>
    dsimp only
    split <;> exact ⟨_, rfl⟩

theorem execPageMove_next {s : State} {m : Mover} (h : s.cur = .event (.pageMove m)) : ∃ t, execPageMove s = .next t := by
  cases m <;> simp only [execPageMove, h] <;> exact ⟨_, rfl⟩

theorem execTapDpacc_next {s : State} {write : Bool} {a : Nat} {v : DWord} (h : s.cur = .event (.tapDpacc write a v)) :
    ∃ t, execTapDpacc s = .next t := by
  cases write <;> simp only [execTapDpacc, h] <;> exact ⟨_, rfl⟩

/-- The row of the event under way answers a state: outright in all rows but four, which ask first what is there. -/
theorem exec_row_next (s : State) (e : Event) : ∃ t, exec e.row { s with cur := .event e } = .next t := by
  have h : { s with cur := .event e }.cur = .event e := rfl
  cases e with
  | vredCompletion core slot => exact execVredCompletion_next h
  | matrixCompletion i => exact execMatrixCompletion_next h
  | pageMove m => exact execPageMove_next h
  | tapDpacc write a v => exact execTapDpacc_next h
  | _ => exact ⟨_, rfl⟩

theorem eventsComplete : EventsComplete := by
  intro s e h
  have hs : { s with cur := .event e } = s := by rw [← h]
  simpa only [hs] using exec_row_next s e

/-- Settles O6: the first half by the list of own moves that act, empty or not; the second row by row. -/
theorem ownMoves : Obligations.OwnMoves := ⟨ownMove, eventsComplete⟩

end Sys2Proof.Proofs
end

section
/-! SUPPORT. The control window (R466): which block an offset lies in, what a write of each register leaves and a read
gives, and the counters that a read clears. -/

namespace Sys2Proof.Proofs

open Sys2Proof.Machine Sys2Proof.Claims

/-! ### Blocks (R466) -/

theorem blockOf_unaligned (s : State) {off : Nat} (h : off % 8 ≠ 0) : blockOf s off = .none := by
  simp [blockOf, h]

theorem blockOf_global (s : State) {off : Nat} (h : off < 0x100000) (ha : off % 8 = 0) : blockOf s off = .global off := by
  simp [blockOf, h, ha]

theorem blockOf_hinge {s : State} {h o : Nat} (hr : s.bootState = 1) (hh : h < 4) (ho : o < 0x100000) (ha : o % 8 = 0) :
    blockOf s (0x100000 + 0x100000 * h + o) = .hinge h o := by
  have hb : (0x100000 + 0x100000 * h + o) / 0x100000 - 1 = h := by omega
  have hm : (0x100000 + 0x100000 * h + o) % 0x100000 = o := by omega
  rw [blockOf, if_neg (by omega), if_neg (by omega), if_neg (by simp [ready, hr]), if_pos (by omega), hb, hm]

theorem blockOf_ctx {s : State} {c o : Nat} (hr : s.bootState = 1) (hc : c < 256) (ho : o < 0x1000) (ha : o % 8 = 0) :
    blockOf s (0x800000 + 0x1000 * c + o) = .ctx c o := by
  have hb : (0x800000 + 0x1000 * c + o - 0x800000) / 0x1000 = c := by omega
  have hm : (0x800000 + 0x1000 * c + o) % 0x1000 = o := by omega
  rw [blockOf, if_neg (by omega), if_neg (by omega), if_neg (by simp [ready, hr]), if_neg (by omega), if_pos (by omega), hb, hm]

/-- The block of a core, which is served once boot has ended. -/
theorem blockOf_core (s : State) {n o : Nat} (hn : n < 480) (ho : o < 0x1000) (ha : o % 8 = 0) :
    blockOf s (0x1000000 + 0x1000 * n + o) = if s.bootState = 1 then .core n o else .none := by
  have hb : (0x1000000 + 0x1000 * n + o - 0x1000000) / 0x1000 = n := by omega
  have hm : (0x1000000 + 0x1000 * n + o) % 0x1000 = o := by omega
  rw [blockOf, if_neg (by omega), if_neg (by omega)]
  by_cases hr : s.bootState = 1
  · rw [if_neg (by simp [ready, hr]), if_neg (by omega), if_neg (by omega), if_pos (by simp only [Config.cores]; omega), hb, hm,
      if_pos hr]
  · rw [if_pos (by simpa [ready] using hr), if_neg hr]

/-! ### Streams and promotion windows of a hinge's block (R397, R472) -/

section
variable (s : State) (h : Nat) {n : Nat} (hn : n < 16) (v : DWord)
include hn

theorem readHinge_stream {i : Nat} (hi : i < 64) : readHinge s h (64 * n + i) = (readStream (streamOf s h n) i, s) := by
  have hd : (64 * n + i) / 64 = n := by omega
  have hm : (64 * n + i) % 64 = i := by omega
  rw [readHinge, if_pos (by omega), hd, hm]

theorem writeHinge_chbase : writeHinge s h (64 * n + 0x08) v =
    setStream s h n { streamOf s h n with chbase := v &&& 0x007FFFFFFFFFFFE0 } := by
  have hd : (64 * n + 0x08) / 64 = n := by omega
  have hm : (64 * n + 0x08) % 64 = 0x08 := by omega
  simp only [writeHinge, if_pos (show 64 * n + 0x08 < 0x400 by omega), hd, hm]

theorem writeHinge_tail : writeHinge s h (64 * n + 0x18) v = setStream s h n { streamOf s h n with tail := v.setWidth 32 } := by
  have hd : (64 * n + 0x18) / 64 = n := by omega
  have hm : (64 * n + 0x18) % 64 = 0x18 := by omega
  simp only [writeHinge, if_pos (show 64 * n + 0x18 < 0x400 by omega), hd, hm]

theorem writeHinge_doneaddr : writeHinge s h (64 * n + 0x28) v =
    setStream s h n { streamOf s h n with doneaddr := v &&& 0x007FFFFFFFFFFFF8 } := by
  have hd : (64 * n + 0x28) / 64 = n := by omega
  have hm : (64 * n + 0x28) % 64 = 0x28 := by omega
  simp only [writeHinge, if_pos (show 64 * n + 0x28 < 0x400 by omega), hd, hm]

omit hn in
/-- The ports' registers end below the promotion windows. -/
theorem portsOf_le : portsOf h ≤ 18 := by
  have : firstPort (h + 1) ≤ 18 := by unfold firstPort; split <;> decide
  unfold portsOf
  omega

theorem readHinge_promFirst : readHinge s h (0x3000 + 16 * n) = ((aGet (0, 0) n (hingeOf s h).prom).1, s) := by
  have hp := portsOf_le h
  simp (disch := omega) only [readHinge, if_neg, if_pos, Nat.add_sub_cancel_left, Nat.mul_div_cancel_left]

theorem readHinge_promCount : readHinge s h (0x3008 + 16 * n) = ((aGet (0, 0) n (hingeOf s h).prom).2, s) := by
  have hp := portsOf_le h
  have hd : (0x3008 + 16 * n - 0x3000) / 16 = n := by omega
  simp (disch := omega) only [readHinge, if_neg, if_pos, hd]

theorem writeHinge_promFirst : writeHinge s h (0x3000 + 16 * n) v = setHinge s h { hingeOf s h with
    prom := aInsert n (v &&& promMask false, (aGet (0, 0) n (hingeOf s h).prom).2) (hingeOf s h).prom } := by
  have hp := portsOf_le h
  simp (disch := omega) only [writeHinge, if_neg, if_pos, Nat.add_sub_cancel_left, Nat.mul_div_cancel_left]

theorem writeHinge_promCount : writeHinge s h (0x3008 + 16 * n) v = setHinge s h { hingeOf s h with
    prom := aInsert n ((aGet (0, 0) n (hingeOf s h).prom).1, v &&& promMask true) (hingeOf s h).prom } := by
  have hp := portsOf_le h
  have hd : (0x3008 + 16 * n - 0x3000) / 16 = n := by omega
  simp (disch := omega) only [writeHinge, if_neg, if_pos, hd]
end

/-! ### Event counters and HEVEC (R407, R472, R478) -/

section
variable (s : State) (h : Nat) (v : DWord)

theorem readHinge_counter {e : Nat} (he : e < 64) : readHinge s h (0x1000 + 8 * e) = (aGet 0 e (hingeOf s h).ev, s) := by
  simp (disch := omega) only [readHinge, if_neg, if_pos, Nat.add_sub_cancel_left, Nat.mul_div_cancel_left]

theorem writeHinge_counter {e : Nat} (he : e < 64) : writeHinge s h (0x1000 + 8 * e) v = setEv s h e v := by
  simp (disch := omega) only [writeHinge, if_neg, if_pos, Nat.add_sub_cancel_left, Nat.mul_div_cancel_left]

theorem readHinge_hevec : readHinge s h 0x2068 = (hevecWord (hingeOf s h), s) := by
  simp [readHinge]

theorem writeHinge_hevec : writeHinge s h 0x2068 v =
    setHinge s h { hingeOf s h with heVec := v.setWidth 6, heEn := v.getLsbD 8 } := by
  simp [writeHinge]

/-- VEC in bits [5:0] and EN in bit 8 hold what was written there. -/
theorem hevecWord_written (x : Hinge) :
    hevecWord { x with heVec := v.setWidth 6, heEn := v.getLsbD 8 } = v &&& 0x13F := by
  have hbit : bit (v.getLsbD 8) = (v.toNat.testBit 8).toNat := by rw [BitVec.getLsbD]; cases v.toNat.testBit 8 <;> rfl
  have hle := Bool.toNat_le (v.toNat.testBit 8)
  have hmask : v.toNat &&& 0x13F = 2 ^ 8 * (v.toNat.testBit 8).toNat + v.toNat % 2 ^ 6 := calc
    v.toNat &&& 0x13F = v.toNat &&& 2 ^ 8 ||| v.toNat &&& 2 ^ 6 - 1 := Nat.and_or_distrib_left v.toNat (2 ^ 8) (2 ^ 6 - 1)
    _ = 2 ^ 8 * (v.toNat.testBit 8).toNat ||| v.toNat % 2 ^ 6 := by
      rw [Nat.and_two_pow, Nat.and_two_pow_sub_one_eq_mod, mul_comm]
    _ = 2 ^ 8 * (v.toNat.testBit 8).toNat + v.toNat % 2 ^ 6 := (Nat.two_pow_add_eq_or_of_lt (by omega) _).symm
  apply BitVec.eq_of_toNat_eq
  rw [BitVec.toNat_and, show BitVec.toNat (0x13F : DWord) = 0x13F from rfl, hmask]
  simp only [hevecWord, hbit, BitVec.toNat_ofNat, BitVec.toNat_setWidth]
  omega
end

/-! ### A write read back -/

theorem exec_registerWrite (s : State) : exec .registerWrite s = execRegisterWrite s := rfl

theorem happens_registerWrite {s : State} {off : Nat} {v : DWord} {P : State → Prop} (h : P (writeReg s off v)) :
    Happens .registerWrite (.registerWrite off v) s P :=
  fun hc => ⟨writeReg s off v, by simp only [exec_registerWrite, execRegisterWrite, hc], h⟩

/-- After a driver's write of `v` at `off` the register there reads `w`; bands, teams and home bytes are as they were. -/
structure ReadsBack (s : State) (off : Nat) (v w : DWord) : Prop where
  value : (readReg (writeReg s off v) off).1 = w
  bands : (writeReg s off v).bands = s.bands
  teams : (writeReg s off v).teams = s.teams
  mem : (writeReg s off v).mem = s.mem

theorem ReadsBack.happens {s : State} {off : Nat} {v w : DWord} (h : ReadsBack s off v w) :
    Happens .registerWrite (.registerWrite off v) s fun t =>
      (readReg t off).1 = w ∧ t.bands = s.bands ∧ t.teams = s.teams ∧ ∀ a, homeByte t a = homeByte s a :=
  happens_registerWrite ⟨h.value, h.bands, h.teams, fun a => by rw [homeByte, h.mem, homeByte]⟩

/-- A register of a hinge's block whose write sets the hinge alone. -/
theorem ReadsBack.of_hinge {s : State} {off h o : Nat} {v w : DWord} {x : Hinge} (hr : s.bootState = 1) (hh : h < 4)
    (ho : o < 0x100000) (ha : o % 8 = 0) (hw : writeHinge s h o v = setHinge s h x)
    (hv : (readHinge (setHinge s h x) h o).1 = w) (hoff : off = 0x100000 + 0x100000 * h + o) : ReadsBack s off v w := by
  subst hoff
  have hs : writeReg s (0x100000 + 0x100000 * h + o) v = setHinge s h x := by simp only [writeReg, blockOf_hinge hr hh ho ha, hw]
  have hr' : (setHinge s h x).bootState = 1 := hr
  exact ⟨by simp only [hs, readReg, blockOf_hinge hr' hh ho ha, hv], by rw [hs]; rfl, by rw [hs]; rfl, by rw [hs]; rfl⟩

/-- A register of a context's block whose write sets the context alone. -/
theorem ReadsBack.of_ctx {s : State} {off c o : Nat} {v w : DWord} {x : Context} (hr : s.bootState = 1) (hc : c < 256)
    (ho : o < 0x1000) (ha : o % 8 = 0) (hw : writeCtx s c o v = setCtx s c x)
    (hv : (readCtx (setCtx s c x) c o).1 = w) (hoff : off = 0x800000 + 0x1000 * c + o) : ReadsBack s off v w := by
  subst hoff
  have hs : writeReg s (0x800000 + 0x1000 * c + o) v = setCtx s c x := by simp only [writeReg, blockOf_ctx hr hc ho ha, hw]
  have hr' : (setCtx s c x).bootState = 1 := hr
  exact ⟨by simp only [hs, readReg, blockOf_ctx hr' hc ho ha, hv], by rw [hs]; rfl, by rw [hs]; rfl, by rw [hs]; rfl⟩

/-- APBASE (R464, R471). -/
theorem readsBack_apbase (s : State) (v : DWord) : ReadsBack s 0 v (v &&& apMask) := by
  have hw : writeReg s 0 v = { s with apbase := v &&& apMask } := by
    simp [writeReg, blockOf_global, writeGlobal]
  exact ⟨by rw [hw]; simp [readReg, blockOf_global, readGlobal], by rw [hw], by rw [hw], by rw [hw]⟩

/-- A register whose bits can all be written. -/
theorem ReadsBack.whole {s : State} {off : Nat} {v : DWord} (h : ReadsBack s off v v) :
    ReadsBack s off v (v &&& BitVec.ofNat 64 (2 ^ 64 - 1)) := by
  rwa [show BitVec.ofNat 64 (2 ^ 64 - 1) = BitVec.allOnes 64 from rfl, BitVec.and_allOnes]

/-! ### The registers of a hinge's block -/

section
variable {s : State} {h n : Nat} (v : DWord) (hr : s.bootState = 1) (hh : h < 4)
include hr hh

theorem readsBack_chbase (hn : n < 16) :
    ReadsBack s (0x100000 + 0x100000 * h + 0x40 * n + 0x08) v (v &&& 0x007FFFFFFFFFFFE0) :=
  .of_hinge hr hh (by omega) (by omega) (writeHinge_chbase s h hn v)
    (by rw [readHinge_stream _ _ hn (by omega)]; exact congrArg Stream.chbase (streamOf_setStream ..)) (by omega)

theorem readsBack_tail (hn : n < 16) : ReadsBack s (0x100000 + 0x100000 * h + 0x40 * n + 0x18) v (v &&& 0xFFFFFFFF) := by
  have hlow : (v.setWidth 32).setWidth 64 = v &&& 0xFFFFFFFF := by
    apply BitVec.eq_of_toNat_eq
    rw [BitVec.toNat_and, show BitVec.toNat (0xFFFFFFFF : DWord) = 2 ^ 32 - 1 from rfl, Nat.and_two_pow_sub_one_eq_mod]
    simp only [BitVec.toNat_setWidth]
    omega
  refine .of_hinge hr hh (by omega) (by omega) (writeHinge_tail s h hn v) ?_ (by omega)
  rw [readHinge_stream _ _ hn (by omega), ← hlow]
  exact congrArg (fun x : Stream => x.tail.setWidth 64) (streamOf_setStream ..)

theorem readsBack_doneaddr (hn : n < 16) :
    ReadsBack s (0x100000 + 0x100000 * h + 0x40 * n + 0x28) v (v &&& 0x007FFFFFFFFFFFF8) :=
  .of_hinge hr hh (by omega) (by omega) (writeHinge_doneaddr s h hn v)
    (by rw [readHinge_stream _ _ hn (by omega)]; exact congrArg Stream.doneaddr (streamOf_setStream ..)) (by omega)

theorem readsBack_counter {e : Nat} (he : e < 64) : ReadsBack s (0x100000 + 0x100000 * h + 0x1000 + 8 * e) v v :=
  .of_hinge hr hh (by omega) (by omega) (writeHinge_counter s h v he) (by rw [readHinge_counter _ _ he]; simp) (by omega)

theorem readsBack_sampleBase : ReadsBack s (0x100000 + 0x100000 * h + 0x2000) v v :=
  .of_hinge (x := { hingeOf s h with sample := { (hingeOf s h).sample with base := v } }) hr hh (by omega) (by omega)
    (by simp [writeHinge, writeRing]) (by simp [readHinge, readRing]) rfl

theorem readsBack_eventBase : ReadsBack s (0x100000 + 0x100000 * h + 0x2040) v v :=
  .of_hinge (x := { hingeOf s h with events := { (hingeOf s h).events with base := v } }) hr hh (by omega) (by omega)
    (by simp [writeHinge, writeRing]) (by simp [readHinge, readRing]) rfl

theorem readsBack_hevec : ReadsBack s (0x100000 + 0x100000 * h + 0x2068) v (v &&& 0x13F) :=
  .of_hinge hr hh (by omega) (by omega) (writeHinge_hevec s h v) (by rw [readHinge_hevec, hingeOf_setHinge, hevecWord_written]) rfl

theorem readsBack_promFirst (hn : n < 16) :
    ReadsBack s (0x100000 + 0x100000 * h + 0x3000 + 16 * n) v (v &&& promMask false) :=
  .of_hinge hr hh (by omega) (by omega) (writeHinge_promFirst s h hn v) (by rw [readHinge_promFirst _ _ hn]; simp) (by omega)

theorem readsBack_promCount (hn : n < 16) :
    ReadsBack s (0x100000 + 0x100000 * h + 0x3008 + 16 * n) v (v &&& promMask true) :=
  .of_hinge hr hh (by omega) (by omega) (writeHinge_promCount s h hn v) (by rw [readHinge_promCount _ _ hn]; simp) (by omega)
end

/-! ### The registers of a context's block (R440, R467-R470) -/

section
variable {s : State} {c i : Nat} (v : DWord) (hr : s.bootState = 1) (hc : c < 256)
include hr hc

/-- The bases and the chain length of a context, the pages that TLBINVA names and the PC that BANDCMD takes. -/
theorem readsBack_ctxWords : let cb := 0x800000 + 0x1000 * c
    ReadsBack s (cb + 0x00) v (v &&& ptbaseMask) ∧ ReadsBack s (cb + 0x08) v v ∧ ReadsBack s (cb + 0x10) v v ∧
      ReadsBack s (cb + 0x18) v v ∧ ReadsBack s (cb + 0x20) v v ∧ ReadsBack s (cb + 0x28) v v ∧
      ReadsBack s (cb + 0x100) v (v &&& wpaMask) ∧ ReadsBack s (cb + 0x308) v (v &&& pcMask) := by
  refine ⟨?_, ?_, ?_, ?_, ?_, ?_, ?_, ?_⟩ <;>
    exact .of_ctx hr hc (by omega) (by omega) rfl (by simp [readCtx]) rfl

/-- The bases of the request, error and energy rings (R467). -/
theorem readsBack_ctxRings : let cb := 0x800000 + 0x1000 * c
    ReadsBack s (cb + 0x30) v v ∧ ReadsBack s (cb + 0x50) v v ∧ ReadsBack s (cb + 0x78) v v := by
  refine ⟨?_, ?_, ?_⟩ <;>
    exact .of_ctx hr hc (by omega) (by omega) rfl (by simp [readCtx, readRing, writeRing]) rfl

/-- The instruction breakpoints and the watchpoints (R440). -/
theorem readsBack_breakpoints (hi : i < 8) : let cb := 0x800000 + 0x1000 * c
    ReadsBack s (cb + 0x200 + 8 * i) v (v &&& ibpMask) ∧ ReadsBack s (cb + 0x240 + 8 * i) v (v &&& wpaMask) ∧
      ReadsBack s (cb + 0x280 + 8 * i) v (v &&& wpcMask) := by
  let x := ctxOf s c
  refine ⟨.of_ctx (o := 0x200 + 8 * i) (x := { x with ibp := aSet 0 i (v &&& ibpMask) x.ibp })
      hr hc (by omega) (by omega) ?_ ?_ (by omega),
    .of_ctx (o := 0x240 + 8 * i) (x := { x with wpa := aSet 0 i (v &&& wpaMask) x.wpa })
      hr hc (by omega) (by omega) ?_ ?_ (by omega),
    .of_ctx (o := 0x280 + 8 * i) (x := { x with wpc := aSet 0 i (v &&& wpcMask) x.wpc })
      hr hc (by omega) (by omega) ?_ ?_ (by omega)⟩ <;>
    simp (disch := omega) only [writeCtx, readCtx, if_neg, if_pos, Nat.add_sub_cancel_left, Nat.mul_div_cancel_left,
      ctxOf_setCtx, aGet_aSet_self, x]
end

/-- Every register of the list reads back its own bits. -/
theorem readsBack_windowRegs {s : State} {h n c i : Nat} (v : DWord) (hr : s.bootState = 1) (hh : h < 4) (hn : n < 16)
    (hc : c < 256) (hi : i < 8) : ∀ p ∈ windowRegs h n c i, ReadsBack s p.1 v (v &&& BitVec.ofNat 64 p.2) := by
  obtain ⟨hptbase, hsave, hdesc, heng, hchain, hcomm, htlb, hpc⟩ := readsBack_ctxWords v hr hc
  obtain ⟨hrequests, herrors, henergy⟩ := readsBack_ctxRings v hr hc
  obtain ⟨hibp, hwpa, hwpc⟩ := readsBack_breakpoints v hr hc hi
  simp only [windowRegs, List.forall_mem_cons]
  exact ⟨readsBack_apbase s v, readsBack_chbase v hr hh hn, readsBack_tail v hr hh hn, readsBack_doneaddr v hr hh hn,
    (readsBack_counter v hr hh (by omega)).whole, (readsBack_sampleBase v hr hh).whole, (readsBack_eventBase v hr hh).whole,
    readsBack_hevec v hr hh, readsBack_promFirst v hr hh hn, readsBack_promCount v hr hh hn, hptbase, hsave.whole, hdesc.whole,
    heng.whole, hchain.whole, hcomm.whole, hrequests.whole, herrors.whole, henergy.whole, htlb, hibp, hwpa, hwpc,
    hpc, List.forall_mem_nil _⟩

/-! ### Writes that are ignored (R466, R471, R473) -/

theorem writeReg_unaligned (s : State) {off : Nat} (v : DWord) (h : off % 8 ≠ 0) : writeReg s off v = s := by
  simp only [writeReg, blockOf_unaligned s h]

theorem writeReg_readOnlyGlobal (s : State) {off : Nat} (v : DWord) (h : off ∈ [0x10, 0x20, 0x300, 0xF8000]) :
    writeReg s off v = s := by
  simp only [List.mem_cons, List.not_mem_nil, or_false] at h
  rcases h with rfl | rfl | rfl | rfl <;> simp [writeReg, blockOf_global, writeGlobal]

/-- The counters of a core's block take no write, before boot ends and after. -/
theorem writeReg_coreCounter (s : State) {n o : Nat} (v : DWord) (hn : n < 480) (ho : o ≤ 0x40) (ha : o % 8 = 0) :
    writeReg s (0x1000000 + 0x1000 * n + o) v = s := by
  rw [writeReg, blockOf_core s hn (by omega) ha]
  by_cases hr : s.bootState = 1
  · rw [if_pos hr]
    simp (disch := omega) only [writeCore, if_neg]
  · rw [if_neg hr]

/-! ### Counters that clear when they are read (R13, R354, R473) -/

/-- A core with the counter at place `i` of its block cleared. -/
def clearCounter (c : Core) : Nat → Core
  | 0 => { c with mmacnt := 0 } | 1 => { c with elznop := 0 } | 2 => { c with elzcopy := 0 } | 3 => { c with elident := 0 }
  | 4 => { c with elconst := 0 } | 5 => { c with elrefuse := 0 } | _ => { c with corrErr := 0 }

theorem coreCounter_clearCounter (c : Core) (i j : Nat) :
    coreCounter (clearCounter c i) j = if min j 6 = min i 6 then 0 else coreCounter c j := by
  rcases i with _ | _ | _ | _ | _ | _ | i <;> rcases j with _ | _ | _ | _ | _ | _ | j <;> simp [clearCounter, coreCounter]

theorem coreCounter_lt (c : Core) (i : Nat) : coreCounter c i < 2 ^ 64 := by
  unfold coreCounter
  split <;> omega

theorem readCore_counter (s : State) (n : Nat) {i : Nat} (hi : i < 6 ∨ i = 8) :
    readCore s n (8 * i) = (BitVec.ofNat 64 (coreCounter (coreOf s n) i), setCore s n (clearCounter (coreOf s n) i)) := by
  rcases hi with hi | rfl
  · interval_cases i <;> simp [readCore, coreCounter, clearCounter]
  · simp [readCore, coreCounter, clearCounter]

theorem readReg_coreCounter {s : State} {n i : Nat} (hr : s.bootState = 1) (hn : n < 480) (hi : i < 6 ∨ i = 8) :
    readReg s (0x1000000 + 0x1000 * n + 8 * i) =
      (BitVec.ofNat 64 (coreCounter (coreOf s n) i), setCore s n (clearCounter (coreOf s n) i)) := by
  simp only [readReg, blockOf_core s hn (show 8 * i < 0x1000 by omega) (by omega), if_pos hr, readCore_counter s n hi]

theorem exec_counterReadClear (s : State) : exec .counterReadClear s = execCounterReadClear s := rfl

/-- A read of a counter sends its value, and changes nothing but that it clears it. -/
theorem exec_counterRead {s : State} {n i : Nat} (hr : s.bootState = 1) (hn : n < 480) (hi : i < 6 ∨ i = 8)
    (hc : s.cur = .event (.counterReadClear (0x1000000 + 0x1000 * n + 8 * i))) :
    exec .counterReadClear s = .next { setCore s n (clearCounter (coreOf s n) i) with
      sent := s.sent ++ [.hostRead (0x1000000 + 0x1000 * n + 8 * i) (leBytes 8 (coreCounter (coreOf s n) i))] } := by
  simp only [exec_counterReadClear, execCounterReadClear, hc, readReg_coreCounter hr hn hi, BitVec.toNat_ofNat,
    Nat.mod_eq_of_lt (coreCounter_lt (coreOf s n) i), setCore_sent]

theorem counterReadClear_clears {s : State} {n i : Nat} (hr : s.bootState = 1) (hn : n < 480) (hi : i < 6 ∨ i = 8) :
    let off := 0x1000000 + 0x1000 * n + 8 * i
    Happens .counterReadClear (.counterReadClear off) s fun t =>
      t = { s with cores := t.cores, sent := s.sent ++ [.hostRead off (leBytes 8 (coreCounter (coreOf s n) i))] } ∧
      coreCounter (coreOf t n) i = 0 ∧ (∀ j, j < 7 → j ≠ min i 6 → coreCounter (coreOf t n) j = coreCounter (coreOf s n) j) ∧
      ∀ m, m ≠ n → coreOf t m = coreOf s m := by
  intro off hc
  refine ⟨_, exec_counterRead hr hn hi hc, rfl, ?_, fun j hj hne => ?_, fun m hm => coreOf_setCore_ne s hm _⟩
  · exact (congrArg (coreCounter · i) (coreOf_setCore s n _)).trans (by simp [coreCounter_clearCounter])
  · refine (congrArg (coreCounter · j) (coreOf_setCore s n _)).trans ?_
    rw [coreCounter_clearCounter, if_neg (by omega)]

/-- Settles O55: each register's write and read by the equations of its block, the counters by what a read clears. -/
theorem driverRegisters : Obligations.DriverRegisters := by
  refine ⟨fun s h n c i v hr hh hn hc hi p hp => (readsBack_windowRegs v hr hh hn hc hi p hp).happens,
    fun s off v hoff => happens_registerWrite ?_, fun s n i hr hn hi => counterReadClear_clears hr hn hi⟩
  rcases hoff with hoff | hoff | ⟨n, hn, rfl | ⟨i, hi, rfl⟩⟩
  · exact writeReg_unaligned s v hoff
  · exact writeReg_readOnlyGlobal s v hoff
  · exact writeReg_coreCounter s v hn (by omega) (by omega)
  · exact writeReg_coreCounter s v hn (by omega) (by omega)

end Sys2Proof.Proofs
end

section
/-! SUPPORT. Cold and warm reset (R475, R476): the stages that run and what they measure, the fused cores, and that a flush of a
package with nothing dirty only discards clean copies. -/

namespace Sys2Proof.Proofs

open Sys2Proof.Machine Sys2Proof.Claims

/-! ### Firmware (R480) -/

/-- The keys that stage `n` of a list may use: the first those of `trusts`, another those that the stage before lists. -/
def trustedAt (trusts : List Byte → Bool) (xs : List BootStage) : Nat → List Byte → Bool
  | 0 => trusts
  | n + 1 => fun k => xs[n]?.all fun y => y.keys.contains k

theorem trustedAt_tail (trusts : List Byte → Bool) (x : BootStage) (xs : List BootStage) (n : Nat) :
    trustedAt x.keys.contains xs n = trustedAt trusts (x :: xs) (n + 1) := by
  cases n <;> rfl

theorem stageCheck_eq_stageError (b : Boot) (n : Nat) (x : BootStage) :
    stageCheck b n x = stageError b.minVersion (trustedAt (fun k => Config.shake256 k == b.keyHash) b.stages n) x := by
  cases n <;> simp only [stageCheck, stageError, trustedAt, Bool.not_eq_true']

theorem verifyStages_cons_fails {v : Nat} {trusts : List Byte → Bool} {x : BootStage} (h : stageError v trusts x ≠ 0)
    (xs : List BootStage) : verifyStages v trusts (x :: xs) = ([], stageError v trusts x) := by
  simp only [verifyStages, if_pos h]

theorem verifyStages_cons_runs {v : Nat} {trusts : List Byte → Bool} {x : BootStage} (h : stageError v trusts x = 0)
    (xs : List BootStage) : verifyStages v trusts (x :: xs) =
      (x.image :: (verifyStages v x.keys.contains xs).1, (verifyStages v x.keys.contains xs).2) := by
  simp only [verifyStages, h, ne_eq, not_true_eq_false, if_false]

/-- The stages before the first that a check fails run, and the error is that stage's, 0 if there is none. -/
theorem verifyStages_spec (v : Nat) (trusts : List Byte → Bool) (xs : List BootStage) :
    ∃ n, n ≤ xs.length ∧ (verifyStages v trusts xs).1 = (xs.take n).map (·.image) ∧
      (∀ i x, i < n → xs[i]? = some x → stageError v (trustedAt trusts xs i) x = 0) ∧
      (∀ x, xs[n]? = some x → stageError v (trustedAt trusts xs n) x ≠ 0 ∧
        (verifyStages v trusts xs).2 = stageError v (trustedAt trusts xs n) x) ∧
      (n = xs.length → (verifyStages v trusts xs).2 = 0) := by
  induction xs generalizing trusts with
  | nil => exact ⟨0, le_rfl, rfl, nofun, nofun, fun _ => rfl⟩
  | cons x xs ih =>
    by_cases h : stageError v trusts x = 0
    · obtain ⟨n, hn, himages, hruns, hfails, hall⟩ := ih x.keys.contains
      simp only [verifyStages_cons_runs h]
      refine ⟨n + 1, Nat.succ_le_succ hn, by rw [himages]; rfl, fun i y hi hy => ?_, fun y hy => ?_, fun hl => hall (Nat.succ.inj hl)⟩
      · cases i with
        | zero => exact Option.some.inj hy ▸ h
        | succ i => exact trustedAt_tail trusts x xs i ▸ hruns i y (Nat.lt_of_succ_lt_succ hi) hy
      · exact trustedAt_tail trusts x xs n ▸ hfails y hy
    · simp only [verifyStages_cons_fails h]
      exact ⟨0, Nat.zero_le _, rfl, nofun, fun y hy => Option.some.inj hy ▸ ⟨h, rfl⟩, nofun⟩

theorem bootResult_error {b : Boot} (h : b.stages ≠ []) : (bootResult b).2 =
    let e := (verifyStages b.minVersion (fun k => Config.shake256 k == b.keyHash) b.stages).2
    if e ≠ 0 then e else if b.trained then 0 else 5 :=
  if_neg (by simpa using h)

theorem bootResult_spec {b : Boot} (h : b.stages ≠ []) :
    ∃ n, n ≤ b.stages.length ∧ (bootResult b).1 = (b.stages.take n).map (·.image) ∧
      (∀ i x, i < n → b.stages[i]? = some x → stageCheck b i x = 0) ∧
      (∀ x, b.stages[n]? = some x → stageCheck b n x ≠ 0 ∧ (bootResult b).2 = stageCheck b n x) ∧
      (n = b.stages.length → (bootResult b).2 = if b.trained then 0 else 5) := by
  obtain ⟨n, hn, himages, hruns, hfails, hall⟩ :=
    verifyStages_spec b.minVersion (fun k => Config.shake256 k == b.keyHash) b.stages
  simp only [stageCheck_eq_stageError, bootResult_error h]
  refine ⟨n, hn, himages, hruns, fun x hx => ?_, fun hl => if_neg (not_not.2 (hall hl))⟩
  obtain ⟨hne, he⟩ := hfails x hx
  exact ⟨hne, (if_pos (he ▸ hne)).trans he⟩

/-! ### Measurements (R481) -/

/-- The chain value after one more image: the step of `chainOf`. -/
def chainStep (m : BitVec 512) (image : List Byte) : BitVec 512 :=
  Config.shake256 (leBytes 64 m.toNat ++ leBytes 64 (Config.shake256 image).toNat)

theorem measure_cons (m : BitVec 512) (i : List Byte) (is : List (List Byte)) :
    measure m (i :: is) = (chainStep m i :: (measure (chainStep m i) is).1, (measure (chainStep m i) is).2) := rfl

theorem measure_chain (m : BitVec 512) (is : List (List Byte)) : (measure m is).2 = is.foldl chainStep m := by
  induction is generalizing m with
  | nil => rfl
  | cons i is ih => rw [measure_cons, List.foldl_cons, ih]

theorem measure_stage (m : BitVec 512) {is : List (List Byte)} {n : Nat} (h : n < is.length) :
    (measure m is).1[n]? = some ((is.take (n + 1)).foldl chainStep m) := by
  induction is generalizing m n with
  | nil => exact absurd h (Nat.not_lt_zero n)
  | cons i is ih =>
    rw [measure_cons, List.take_succ_cons, List.foldl_cons]
    cases n with
    | zero => rfl
    | succ n => exact ih _ (Nat.lt_of_succ_lt_succ h)

theorem withBoot_mchain (s : State) (b : Boot) : (withBoot s b).mchain = chainOf (bootResult b).1 :=
  measure_chain 0 (bootResult b).1

theorem withBoot_meas (s : State) {b : Boot} {n : Nat} (h8 : n < 8) (hn : n < (bootResult b).1.length) :
    (withBoot s b).meas[n]? = some (chainOf ((bootResult b).1.take (n + 1))) :=
  (List.getElem?_take_of_lt h8).trans (measure_stage 0 hn)

/-! ### Cores and hinges after a reset (R24, R383) -/

theorem aGet_cons {β : Type} (d : β) (k j : Nat) (v : β) (m : AList β) :
    aGet d k ((j, v) :: m) = if j = k then v else aGet d k m := by
  simp only [aGet, aFind_cons]
  split <;> rfl

/-- Values listed for some keys, but those that are the default. -/
theorem aGet_foldr_listed {β : Type} [DecidableEq β] (d : β) (f : Nat → β) (ks : List Nat) (k : Nat) :
    aGet d k (ks.foldr (fun n m => if f n = d then m else (n, f n) :: m) []) = if k ∈ ks then f k else d := by
  induction ks with
  | nil => rfl
  | cons n ks ih =>
    rw [List.foldr_cons]
    by_cases hd : f n = d
    · rw [if_pos hd, ih]
      by_cases hk : k = n <;> simp [hk, hd]
    · rw [if_neg hd, aGet_cons, ih]
      by_cases hk : k = n <;> simp [hk, eq_comm (a := n)]

/-- The record of a core after a reset. -/
def fusedCore (repair : List (Nat × Bool)) (kept : Nat → Bool → BitVec 8 × DWord) (n : Nat) : Core :=
  { half := fusedHalf repair n, grp := fusedGroup repair n, kdecl := (kept n (fusedHalf repair n)).1
    energy := (kept n (fusedHalf repair n)).2 }

theorem aGet_fusedCores (repair : List (Nat × Bool)) (kept : Nat → Bool → BitVec 8 × DWord) {n : Nat} (h : n < 480) :
    aGet {} n (fusedCores repair kept) = fusedCore repair kept n :=
  (aGet_foldr_listed {} (fusedCore repair kept) _ n).trans (if_pos (List.mem_range.2 h))

theorem mem_of_aFind {β : Type} {k : Nat} {v : β} {m : AList β} (h : aFind k m = some v) : (k, v) ∈ m := by
  induction m with
  | nil => cases h
  | cons e m ih =>
    obtain ⟨j, w⟩ := e
    rw [aFind_cons] at h
    split at h
    · subst_vars; cases h; exact List.mem_cons_self
    · exact List.mem_cons_of_mem _ (ih h)

/-- What is read of a map is the default or listed. -/
theorem aGet_ind {β : Type} {P : β → Prop} {d : β} {m : AList β} (hd : P d) (hm : ∀ e ∈ m, P e.2) (k : Nat) : P (aGet d k m) := by
  unfold aGet
  cases h : aFind k m with
  | none => exact hd
  | some v => exact hm _ (mem_of_aFind h)

/-- A hinge after a reset holds its modules alone. -/
theorem aGet_hingesWith (mods : List (Nat × (Nat × Nat))) (h : Nat) :
    ∃ ms, aGet {} h (hingesWith mods) = { modules := ms } := by
  refine aGet_ind (P := fun x : Hinge => ∃ ms, x = { modules := ms }) ⟨[], rfl⟩ (fun e he => ?_) h
  obtain ⟨n, -, hn⟩ := List.mem_filterMap.1 he
  dsimp only at hn
  split at hn
  · cases hn
  · cases hn; exact ⟨_, rfl⟩

/-! ### What both resets leave (R475, R476) -/

/-- The machine right after reset, with fused cores and installed modules, and the rest of what a reset can keep as `s` has it. -/
def resetKeeping (s : State) (repair : List (Nat × Bool)) (kept : Nat → Bool → BitVec 8 × DWord) (mods : List (Nat × (Nat × Nat))) :
    State :=
  { State.reset with
    mem := s.mem, remap := s.remap, cores := fusedCores repair kept, hinges := hingesWith mods
    seq := s.seq, now := s.now, bootTime := s.bootTime, tick := s.tick, cur := s.cur, agenda := s.agenda, sent := s.sent
    profileN := s.profileN, stepping := s.stepping, links := s.links, repair := s.repair
    hot := s.hot, trigcnt := s.trigcnt, bootCount := s.bootCount }

theorem coldReset_eq (s : State) (b : Boot) : coldReset s b =
    withBoot (resetKeeping { s with
      mem := s.mem.filter fun e => decide (sysBase ≤ e.1), remap := [], bootTime := s.now, trigcnt := 1, bootCount := 1
      profileN := b.profileN, stepping := b.stepping, links := b.links, repair := b.repair }
      b.repair (fun _ removed => (if removed then 1 else 0, 0)) b.modules) b := rfl

/-- A warm reset of a package that is flushed. -/
def warmFrom (u : State) (b : Boot) : State :=
  withBoot (resetKeeping { u with bootCount := u.bootCount + 1 } u.repair
    (fun n _ => ((coreOf u n).kdecl, (coreOf u n).energy)) (modulesOf u)) b

theorem warmReset_eq (s : State) (b : Boot) : warmReset s b = warmFrom (matchSeen (flushAll s)) b := rfl

section
variable (s : State) (repair : List (Nat × Bool)) (kept : Nat → Bool → BitVec 8 × DWord)
  (mods : List (Nat × (Nat × Nat))) (b : Boot)

theorem coreOf_reset {n : Nat} (h : n < 480) :
    coreOf (withBoot (resetKeeping s repair kept mods) b) n = fusedCore repair kept n := aGet_fusedCores repair kept h

theorem hingeOf_reset (h : Nat) : ∃ ms, hingeOf (withBoot (resetKeeping s repair kept mods) b) h = { modules := ms } :=
  aGet_hingesWith mods h

theorem freshlyBooted_reset : FreshlyBooted (withBoot (resetKeeping s repair kept mods) b) b repair := by
  refine ⟨rfl, rfl, rfl, rfl, rfl, rfl, rfl, rfl, rfl, rfl, withBoot_mchain _ b, fun n h8 hn => withBoot_meas _ h8 hn,
    fun h n => ?_, fun h e => ?_, fun h => ?_, fun n hn => ?_⟩
  · obtain ⟨ms, hh⟩ := hingeOf_reset s repair kept mods b h
    rw [streamOf, hh]; rfl
  · obtain ⟨ms, hh⟩ := hingeOf_reset s repair kept mods b h
    rw [counterOf, hh]; rfl
  · obtain ⟨ms, hh⟩ := hingeOf_reset s repair kept mods b h
    rw [hh]; exact ⟨rfl, rfl⟩
  · rw [coreOf_reset s repair kept mods b hn]; exact ⟨rfl, rfl, rfl, rfl, rfl, rfl⟩
end

theorem clockOf_at_boot {s : State} (h : s.bootTime = s.now) (a : Nat) : clockOf s a = 0 := by
  simp [clockOf, h]

/-! ### A flush with nothing dirty (R242, R476) -/

/-- No level holds a dirty byte. -/
def LevelsClean (s : State) : Prop := ∀ l, ∀ e ∈ levelMap s l, e.2.dirty = false

theorem levelsClean_of_allClean {s : State} (h : AllClean s) : LevelsClean s := by
  obtain ⟨hcores, hclusters, hhinges, -⟩ := h
  intro l
  cases l with
  | l1 c => exact aGet_ind (P := fun x : Core => ∀ e ∈ x.l1, e.2.dirty = false) (List.forall_mem_nil _) hcores c
  | cluster n => exact aGet_ind (P := fun x : Cluster => ∀ e ∈ x.cache, e.2.dirty = false) (List.forall_mem_nil _) hclusters n
  | link h => exact aGet_ind (P := fun x : Hinge => ∀ e ∈ x.link, e.2.dirty = false) (List.forall_mem_nil _) hhinges h

/-- From `s` to `t` nothing happens but that copies are discarded and hits of watchpoints forgotten. -/
structure Discards (s t : State) : Prop where
  frame : t = { s with cores := t.cores, clusters := t.clusters, hinges := t.hinges, wpHits := t.wpHits }
  copies : ∀ l, levelMap t l ⊆ levelMap s l
  core : ∀ n, (coreOf t n).kdecl = (coreOf s n).kdecl ∧ (coreOf t n).energy = (coreOf s n).energy

theorem Discards.refl (s : State) : Discards s s := ⟨rfl, fun _ => List.Subset.refl _, fun _ => ⟨rfl, rfl⟩⟩

theorem Discards.trans {s t u : State} (h : Discards s t) (h' : Discards t u) : Discards s u where
  frame := h'.frame.trans (by rw [h.frame])
  copies l _ he := h.copies l (h'.copies l he)
  core n := ⟨(h'.core n).1.trans (h.core n).1, (h'.core n).2.trans (h.core n).2⟩

theorem Discards.mem {s t : State} (h : Discards s t) : t.mem = s.mem := by rw [h.frame]
theorem Discards.remap {s t : State} (h : Discards s t) : t.remap = s.remap := by rw [h.frame]
theorem Discards.seen {s t : State} (h : Discards s t) : t.seen = s.seen := by rw [h.frame]
theorem Discards.repair {s t : State} (h : Discards s t) : t.repair = s.repair := by rw [h.frame]
theorem Discards.trigcnt {s t : State} (h : Discards s t) : t.trigcnt = s.trigcnt := by rw [h.frame]
theorem Discards.bootCount {s t : State} (h : Discards s t) : t.bootCount = s.bootCount := by rw [h.frame]

theorem levelMap_setLevel_self (s : State) (l : Level) (m : AList Copy) : levelMap (setLevel s l m) l = m := by
  cases l <;> simp [levelMap, setLevel]

theorem levelMap_setLevel_ne (s : State) {l k : Level} (h : k ≠ l) (m : AList Copy) :
    levelMap (setLevel s l m) k = levelMap s k := by
  cases l with
  | l1 c => cases k with
    | l1 j => exact congrArg Core.l1 (coreOf_setCore_ne s (fun e => h (congrArg Level.l1 e)) _)
    | cluster _ | link _ => rfl
  | cluster n => cases k with
    | cluster j => exact congrArg Cluster.cache (clusterOf_setCluster_ne s (fun e => h (congrArg Level.cluster e)) _)
    | l1 _ | link _ => rfl
  | link n => cases k with
    | link j => exact congrArg Hinge.link (hingeOf_setHinge_ne s (fun e => h (congrArg Level.link e)) _)
    | l1 _ | cluster _ => rfl

/-- The copies of a level are no part of what a reset keeps of a core. -/
theorem coreOf_setLevel_kept (s : State) (l : Level) (m : AList Copy) (n : Nat) :
    (coreOf (setLevel s l m) n).kdecl = (coreOf s n).kdecl ∧ (coreOf (setLevel s l m) n).energy = (coreOf s n).energy := by
  cases l with
  | l1 c =>
    by_cases h : n = c
    · subst h; simp [setLevel]
    · rw [setLevel, coreOf_setCore_ne s h]; exact ⟨rfl, rfl⟩
  | cluster _ | link _ => exact ⟨rfl, rfl⟩

theorem aErase_subset {β : Type} (k : Nat) (m : AList β) : aErase k m ⊆ m := by
  induction m with
  | nil => exact List.Subset.refl _
  | cons e m ih =>
    simp only [aErase]
    split
    · exact List.subset_cons_of_subset _ ih
    · exact List.cons_subset_cons _ ih

theorem discards_dropCopy (s : State) (l : Level) (a : Nat) : Discards s (dropCopy s l a) where
  frame := by cases l <;> rfl
  copies k := by
    by_cases h : k = l
    · subst h
      rw [dropCopy, levelMap_setLevel_self]
      exact aErase_subset a _
    · rw [dropCopy, levelMap_setLevel_ne s h]
      exact List.Subset.refl _
  core := coreOf_setLevel_kept s l _

theorem LevelsClean.discards {s t : State} (h : LevelsClean s) (hd : Discards s t) : LevelsClean t :=
  fun l e he => h l e (hd.copies l he)

/-- A level without dirty bytes has nothing to pass on. -/
theorem cleanByte_clean {s : State} (h : LevelsClean s) (a : Nat) (l : Level) (rest : List Level) :
    cleanByte a (l :: rest) 1 s = s := by
  have hend : cleanByte a rest 0 s = s := by cases rest <;> rfl
  rw [cleanByte]
  split
  next c hc => rw [if_neg (by rw [h l _ (mem_of_aFind hc)]; exact Bool.false_ne_true), hend]
  next => exact hend

/-- A level that is flushed byte by byte, with `next` below it. -/
theorem discards_flushLevel {s t : State} (hs : LevelsClean s) (hd : Discards s t) (l : Level)
    (next : State → Nat × Copy → List Level) (es : List (Nat × Copy)) :
    Discards s (es.foldl (fun u e => discardByte e.1 [l] 1 (cleanByte e.1 (l :: next u e) 1 u)) t) := by
  refine List.foldlRecOn es _ hd fun u hu e _ => ?_
  rw [cleanByte_clean (hs.discards hu)]
  exact hu.trans (discards_dropCopy u l e.1)

theorem discards_flushRange {s : State} (hs : LevelsClean s) (base n : Nat) : Discards s (flushRange s base n) := by
  unfold flushRange
  refine List.foldlRecOn _ _ (List.foldlRecOn _ _ (List.foldlRecOn _ _ (.refl s) fun t ht c _ => ?_) fun t ht c _ => ?_)
    fun t ht c _ => ?_
  · exact discards_flushLevel hs ht _ _ _
  · have hclean : (Machine.clusterOf t c.1).cache.filter (fun e => decide (base ≤ e.1 ∧ e.1 < base + n) && e.2.dirty) = [] := by
      have hd := hs.discards ht (.cluster c.1)
      exact List.filter_eq_nil_iff.2 fun e he => by simp [hd e he]
    simp only [hclean]
    exact discards_flushLevel hs ht _ _ _
  · exact discards_flushLevel hs ht _ _ _

/-- Where no window is open there is none to write back. -/
theorem writeBackWindow_none {s : State} (h : ∀ e ∈ s.teams, ∀ m ∈ e.2.maps, m.2.win = none) (key m : Nat) :
    writeBackWindow s key m = (none, s) := by
  unfold writeBackWindow
  cases ht : teamOf s key with
  | none => rfl
  | some tm =>
    dsimp only
    cases he : aFind m tm.maps with
    | none => rfl
    | some e =>
      have hwin : e.win = none := h _ (mem_of_aFind ht) _ (mem_of_aFind he)
      simp only [hwin]

theorem backAll_none {s : State} (h : ∀ e ∈ s.teams, ∀ m ∈ e.2.maps, m.2.win = none) (key : Nat) (ms : List Nat) :
    backAll key ms s = (none, s) := by
  induction ms with
  | nil => rfl
  | cons m ms ih => simp only [backAll, writeBackWindow_none h, ih]; rfl

theorem closeWindows_none {s : State} (h : ∀ e ∈ s.teams, ∀ m ∈ e.2.maps, m.2.win = none) (key : Nat) :
    closeWindows s key = s := by
  unfold closeWindows
  split
  · rfl
  · simp only [backAll_none h]

theorem discards_flushAll {s : State} (h : AllClean s) : Discards s (flushAll s) := by
  have ⟨_, _, _, hmaps⟩ := h
  have hwindows : (s.teams.map (·.1)).foldl closeWindows s = s := List.foldl_fixed' (closeWindows_none hmaps) _
  rw [flushAll, hwindows]
  exact discards_flushRange (levelsClean_of_allClean h) 0 (2 ^ 112)

/-- With no access in the step, no watchpoint is hit. -/
theorem discards_matchSeen {s : State} (h : s.seen = []) : Discards s (matchSeen s) := by
  simp only [matchSeen, h, withCauses, List.flatMap_nil, List.foldl_nil]
  exact ⟨by rw [h], fun _ => List.Subset.refl _, fun _ => ⟨rfl, rfl⟩⟩

/-- What a warm reset goes on from. -/
theorem discards_settled {s : State} (hclean : AllClean s) (hseen : s.seen = []) : Discards s (matchSeen (flushAll s)) :=
  have hd := discards_flushAll hclean
  hd.trans (discards_matchSeen (hd.seen.trans hseen))

theorem wantWarm_of_no_flush {s : State} (h : ∀ h ∈ s.hinges, ∀ k ∈ h.2.memStacks, k.2.state ≠ 1) (b : Boot) :
    wantWarm s b = warmReset s b := by
  have hf : flushing s = false := by simpa [flushing] using fun i x hx j k hk => h (i, x) hx (j, k) hk
  simp only [wantWarm, hf, Bool.false_eq_true, if_false]

/-! ### The resets -/

theorem happens_coldReset (s : State) (b : Boot) : Happens .coldReset (.coldReset b) s fun t =>
    FreshlyBooted t b b.repair ∧ t.trigcnt = 1 ∧ (∀ a, clockOf t a = 0) ∧ t.links = b.links ∧
    t.profileN = b.profileN ∧ t.stepping = b.stepping ∧
    ∀ n, n < 480 → (coreOf t n).energy = 0 ∧ (coreOf t n).kdecl = if fusedHalf b.repair n then 1 else 0 := by
  intro hc
  refine ⟨coldReset s b, by rw [exec_coldReset, execColdReset, hc], ?_⟩
  rw [coldReset_eq]
  refine ⟨freshlyBooted_reset _ _ _ _ b, rfl, clockOf_at_boot rfl, rfl, rfl, rfl, fun n hn => ?_⟩
  rw [coreOf_reset _ _ _ _ b hn]
  exact ⟨rfl, rfl⟩

theorem happens_warmReset {s : State} (b : Boot) (hclean : AllClean s) (hseen : s.seen = [])
    (hflush : ∀ h ∈ s.hinges, ∀ k ∈ h.2.memStacks, k.2.state ≠ 1) :
    Happens .warmReset (.warmReset b) s fun t =>
      FreshlyBooted t b s.repair ∧ t.trigcnt = s.trigcnt ∧ t.remap = s.remap ∧ t.bootCount = s.bootCount + 1 ∧
      (∀ a, homeByte t a = homeByte s a) ∧
      ∀ n, n < 480 → (coreOf t n).kdecl = (coreOf s n).kdecl ∧ (coreOf t n).energy = (coreOf s n).energy := by
  intro hc
  refine ⟨warmReset s b, by rw [exec_warmReset, execWarmReset, hc, ← wantWarm_of_no_flush hflush], ?_⟩
  have hu := discards_settled hclean hseen
  rw [warmReset_eq]
  generalize matchSeen (flushAll s) = u at hu
  refine ⟨hu.repair ▸ freshlyBooted_reset _ _ _ _ b, hu.trigcnt, hu.remap, congrArg (· + 1) hu.bootCount,
    fun a => congrArg (aGet 0 a) hu.mem, fun n hn => ?_⟩
  rw [warmFrom, coreOf_reset _ _ _ _ b hn]
  exact hu.core n

/-- Settles O60: the stages by induction on the list of them; a warm reset by what a flush of clean levels leaves alone. -/
theorem resets : Obligations.Resets :=
  ⟨fun _ h => bootResult_spec h, happens_coldReset, fun _ b hclean hseen hflush => happens_warmReset b hclean hseen hflush⟩

end Sys2Proof.Proofs
end

section
/-! SUPPORT. Words and bytes of an instruction (R42-R45): fields that fit their places come back from the words they make, and
words come back from their bytes. -/

namespace Sys2Proof.Proofs

open Sys2Proof.Machine Sys2Proof.Claims

/-! ### Fields that fit their places -/

/-- What follows the first word of a C, CL or SWCH form: nothing, or a literal and the branch words of SWCH (R44, R209). -/
def tailFits (op : Nat) (br : List Nat) : Option Nat → Prop
  | none => br = []
  | some l => l < 2 ^ 64 ∧ br.length = if op = 0x0A then 9 else 0

/-- The fields of a C or CL word fit their bits (R43). -/
structure FitsC (f : CFields) : Prop where
  g : f.g < 16
  d : f.d < 64
  a : f.a < 64
  b : f.b < 64
  tail : tailFits f.op f.br f.lit
  words : ∀ w ∈ f.br, w < 2 ^ 32

/-- The fields of an X or XL instruction fit their bits (R45). -/
structure FitsX (x : XFields) : Prop where
  g : x.g < 16
  gn : x.gn < 2
  mod : x.mod < 1024
  sub : x.sub < 128
  d : x.d < 256
  a : x.a < 256
  b : x.b < 256
  c : x.c < 256
  imm : x.imm < 2 ^ 32
  lit : ∀ l ∈ x.lit, l < 2 ^ 64

def Fits : Fields → Prop
  | .c f => FitsC f
  | .x x => FitsX x

theorem opUnassigned_of_big {op : Nat} (h : 256 ≤ op) : opUnassigned op = true := by
  have : 0xF9 ≤ op := by omega
  simp [opUnassigned, this]

theorem lt_of_assigned {op : Nat} (h : opUnassigned op = false) : op < 256 := by
  by_contra hbig
  simp [opUnassigned_of_big (not_lt.1 hbig)] at h

/-! ### The first word -/

/-- The first word of a C or CL form but its LEN. -/
def headC (f : CFields) : Nat := f.b * 2 ^ 26 + f.a * 2 ^ 20 + f.d * 2 ^ 14 + f.g * 1024 + f.op * 4

/-- The first word of an X or XL form but its LEN. -/
def headX (x : XFields) : Nat := x.mod * 2 ^ 22 + x.sub * 2 ^ 15 + x.gn * 2 ^ 14 + x.g * 1024 + x.op * 4

/-- The word of the four operand bytes. -/
def regsX (x : XFields) : Nat := x.c * 2 ^ 24 + x.b * 2 ^ 16 + x.a * 2 ^ 8 + x.d

theorem cWords_none {f : CFields} (h : f.lit = none) : cWords f = [headC f] := by simp only [cWords, h, headC]

theorem cWords_some {f : CFields} {l : Nat} (h : f.lit = some l) :
    cWords f = (headC f + 1) :: (l % 2 ^ 32) :: (l / 2 ^ 32) :: f.br := by simp only [cWords, h, headC]

theorem xWords_none {x : XFields} (h : x.lit = none) : xWords x = [headX x + 2, regsX x, x.imm] := by
  simp only [xWords, h, headX, regsX]

theorem xWords_some {x : XFields} {l : Nat} (h : x.lit = some l) :
    xWords x = [headX x + 3, regsX x, x.imm, l % 2 ^ 32, l / 2 ^ 32] := by
  simp only [xWords, h, headX, regsX]

section
variable {f : CFields} {x : XFields} {k : Nat}

theorem headC_len (f : CFields) (hk : k < 4) : (headC f + k) % 4 = k := by simp only [headC]; omega

theorem headC_plain (f : CFields) : headC f % 4 = 0 := by simpa only [Nat.add_zero] using headC_len f (k := 0) (by omega)

theorem headC_op (hop : f.op < 256) (hk : k < 4) : (headC f + k) / 4 % 256 = f.op := by simp only [headC]; omega

theorem headC_plain_op (hop : f.op < 256) : headC f / 4 % 256 = f.op := by
  simpa only [Nat.add_zero] using headC_op (k := 0) hop (by omega)

theorem headX_len (x : XFields) (hk : k < 4) : (headX x + k) % 4 = k := by simp only [headX]; omega

theorem headX_op (hop : x.op < 256) (hk : k < 4) : (headX x + k) / 4 % 256 = x.op := by simp only [headX]; omega

theorem headC_lt (h : FitsC f) (hop : f.op < 256) (hk : k < 4) : headC f + k < 2 ^ 32 := by
  obtain ⟨hg, hd, ha, hb, -, -⟩ := h
  simp only [headC]; omega

theorem headX_lt (h : FitsX x) (hop : x.op < 256) (hk : k < 4) : headX x + k < 2 ^ 32 := by
  obtain ⟨hg, hgn, hmod, hsub, -⟩ := h
  simp only [headX]; omega

theorem regsX_lt (h : FitsX x) : regsX x < 2 ^ 32 := by
  obtain ⟨-, -, -, -, hd, ha, hb, hc, -, -⟩ := h
  simp only [regsX]; omega

/-- The fields of a first word are those it was made of, whatever its LEN. -/
theorem cFields_headC (h : FitsC f) (hop : f.op < 256) (hk : k < 4) : cFields (headC f + k) f.lit f.br = f := by
  obtain ⟨hg, hd, ha, hb, -, -⟩ := h
  obtain ⟨op, g, d, a, b, lit, br⟩ := f
  simp only [cFields, headC, CFields.mk.injEq, and_true] at *
  omega

theorem xFields_headX (h : FitsX x) (hop : x.op < 256) (hk : k < 4) :
    xFields (headX x + k) (regsX x) x.imm x.lit = x := by
  obtain ⟨hg, hgn, hmod, hsub, hd, ha, hb, hc, -, -⟩ := h
  obtain ⟨op, g, gn, mod, sub, d, a, b, c, imm, lit⟩ := x
  simp only [xFields, headX, regsX, XFields.mk.injEq, and_true] at *
  omega

end

/-- The two words of a literal (R44). -/
theorem literal_split (l : Nat) : l % 2 ^ 32 + l / 2 ^ 32 * 2 ^ 32 = l := by omega

/-! ### The words of fields -/

theorem fieldsOf_cWords {f : CFields} (h : FitsC f) (hop : f.op < 256) : fieldsOf (cWords f) = some (.c f) := by
  have htail := h.tail
  have hfields (k) (hk : k < 4) := cFields_headC h hop hk
  have hlen (k) (hk : k < 4) := headC_len f hk
  have hopc (k) (hk : k < 4) := headC_op hop hk
  cases hl : f.lit with
  | none =>
    simp only [hl, tailFits] at htail
    have h0 := hfields 0 (by omega)
    simp only [hl, htail, Nat.add_zero] at h0
    rw [cWords_none hl, fieldsOf, if_pos (headC_plain f), h0]
  | some l =>
    simp only [hl, tailFits] at htail
    have h1 := hfields 1 (by omega)
    rw [hl] at h1
    rw [cWords_some hl]
    by_cases hsw : f.op = 0x0A
    · rw [if_pos hsw] at htail
      obtain ⟨-, hbr⟩ := htail
      match hb : f.br, hbr with
      | [b0, b1, b2, b3, b4, b5, b6, b7, b8], _ =>
        rw [hb] at h1
        rw [fieldsOf, if_pos ⟨hlen 1 (by omega), (hopc 1 (by omega)).trans hsw⟩, literal_split, h1]
    · rw [if_neg hsw, List.length_eq_zero_iff] at htail
      obtain ⟨-, hbr⟩ := htail
      rw [hbr] at h1 ⊢
      rw [fieldsOf, if_neg (by rw [hlen 1 (by omega)]; decide),
        if_pos ⟨hlen 1 (by omega), (hopc 1 (by omega)).trans_ne hsw⟩, literal_split, h1]

theorem fieldsOf_xWords {x : XFields} (h : FitsX x) (hop : x.op < 256) : fieldsOf (xWords x) = some (.x x) := by
  have hfields (k) (hk : k < 4) := xFields_headX h hop hk
  cases hl : x.lit with
  | none =>
    have h2 := hfields 2 (by omega)
    rw [hl] at h2
    rw [xWords_none hl, fieldsOf, if_pos (headX_len x (by omega)), h2]
  | some l =>
    have h3 := hfields 3 (by omega)
    rw [hl] at h3
    rw [xWords_some hl, fieldsOf, if_pos (headX_len x (by omega)), literal_split, h3]

/-- Fields that fit their places come back from their words. -/
theorem fieldsOf_wordsOf {f : Fields} (h : Fits f) (hop : opOf f < 256) : fieldsOf (wordsOf f) = some f := by
  cases f with
  | c f => exact fieldsOf_cWords h hop
  | x x => exact fieldsOf_xWords h hop

/-- The opcode stands in the first word. -/
theorem wordsOf_op {f : Fields} (hop : opOf f < 256) : (wordsOf f).headD 0 / 4 % 256 = opOf f := by
  cases f with
  | c f =>
    cases hl : f.lit with
    | none => rw [wordsOf, cWords_none hl, List.headD_cons]; exact headC_plain_op hop
    | some l => rw [wordsOf, cWords_some hl, List.headD_cons]; exact headC_op hop (by omega)
  | x x =>
    cases hl : x.lit with
    | none => rw [wordsOf, xWords_none hl, List.headD_cons]; exact headX_op hop (by omega)
    | some l => rw [wordsOf, xWords_some hl, List.headD_cons]; exact headX_op hop (by omega)

theorem cWords_length {f : CFields} (h : FitsC f) (hop : f.op < 256) :
    (cWords f).length * 4 = instrLength ((cWords f).headD 0) := by
  have htail := h.tail
  cases hl : f.lit with
  | none =>
    rw [cWords_none hl]
    simp only [List.length_singleton, List.headD_cons, instrLength, lengthOf, headC_plain, if_true, Nat.one_mul]
  | some l =>
    simp only [hl, tailFits] at htail
    simp only [cWords_some hl, List.length_cons, htail.2, List.headD_cons, instrLength, headC_len f (k := 1) (by omega),
      headC_op hop (k := 1) (by omega), lengthOf]
    split <;> rfl

/-- As many words as the length of the first gives (R42). -/
theorem wordsOf_length {f : Fields} (h : Fits f) (hop : opOf f < 256) :
    (wordsOf f).length * 4 = instrLength ((wordsOf f).headD 0) := by
  cases f with
  | c f => exact cWords_length h hop
  | x x =>
    cases hl : x.lit with
    | none =>
      simp only [wordsOf, xWords_none hl, List.headD_cons, instrLength, headX_len x (k := 2) (by omega), lengthOf]
      rfl
    | some l =>
      simp only [wordsOf, xWords_some hl, List.headD_cons, instrLength, headX_len x (k := 3) (by omega), lengthOf]
      rfl

theorem literal_words_lt {l : Nat} (h : l < 2 ^ 64) : l % 2 ^ 32 < 2 ^ 32 ∧ l / 2 ^ 32 < 2 ^ 32 := by omega

theorem wordsOf_lt {f : Fields} (h : Fits f) (hop : opOf f < 256) : ∀ w ∈ wordsOf f, w < 2 ^ 32 := by
  cases f with
  | c f =>
    have hhead (k) (hk : k < 4) := headC_lt h hop hk
    cases hl : f.lit with
    | none =>
      rw [wordsOf, cWords_none hl]
      simpa using hhead 0 (by omega)
    | some l =>
      have htail := h.tail
      simp only [hl, tailFits] at htail
      obtain ⟨hlo, hhi⟩ := literal_words_lt htail.1
      simp only [wordsOf, cWords_some hl, List.forall_mem_cons]
      exact ⟨hhead 1 (by omega), hlo, hhi, h.words⟩
  | x x =>
    have hhead (k) (hk : k < 4) := headX_lt h hop hk
    cases hl : x.lit with
    | none =>
      simp only [wordsOf, xWords_none hl, List.forall_mem_cons]
      exact ⟨hhead 2 (by omega), regsX_lt h, h.imm, by simp⟩
    | some l =>
      obtain ⟨hlo, hhi⟩ := literal_words_lt (h.lit l hl)
      simp only [wordsOf, xWords_some hl, List.forall_mem_cons]
      exact ⟨hhead 3 (by omega), regsX_lt h, h.imm, hlo, hhi, by simp⟩

/-! ### The bytes of words (R5) -/

theorem word_of_wordBytes {w : Nat} (h : w < 2 ^ 32) :
    (BitVec.ofNat 8 w).toNat + (BitVec.ofNat 8 (w / 2 ^ 8)).toNat * 2 ^ 8 + (BitVec.ofNat 8 (w / 2 ^ 16)).toNat * 2 ^ 16 +
      (BitVec.ofNat 8 (w / 2 ^ 24)).toNat * 2 ^ 24 = w := by
  simp only [BitVec.toNat_ofNat]; omega

/-- Words come back from their bytes. -/
theorem bytesToWords_wordsToBytes {ws : List Nat} (h : ∀ w ∈ ws, w < 2 ^ 32) : bytesToWords (wordsToBytes ws) = some ws := by
  induction ws with
  | nil => rfl
  | cons w ws ih =>
    obtain ⟨hw, hws⟩ := List.forall_mem_cons.1 h
    simp only [wordsToBytes, wordBytes, List.cons_append, List.nil_append, bytesToWords, ih hws, Option.map_some,
      word_of_wordBytes hw]

/-! ### Decoding fields -/

/-- The fields fit their places, their opcode is assigned, and they parse to the instruction; C and CL forms are compact. -/
structure Parses (f : Fields) (i : Instr) : Prop where
  fits : Fits f
  assigned : opUnassigned (opOf f) = false
  parse : parse f = some i
  compact : ∀ c, f = .c c → compactForm i = true

/-- The guard is no part of what fields parse to. -/
theorem parse_withGuard (g : Guard) (f : Fields) : parse (withGuard g f) = parse f := by cases f <;> rfl

theorem opOf_withGuard (g : Guard) (f : Fields) : opOf (withGuard g f) = opOf f := by cases f <;> rfl

theorem bit_lt (b : Bool) : bit b < 2 := by cases b <;> decide

theorem fits_withGuard {f : Fields} (h : Fits f) (g : Guard) : Fits (withGuard g f) := by
  cases f with
  | c f => exact { h with g := g.p.isLt }
  | x x => exact { h with g := g.p.isLt, gn := bit_lt g.neg }

theorem guardOf_withGuard {f : Fields} {g : Guard} (h : ∀ c, f = .c c → g.neg = false) : guardOf (withGuard g f) = some g := by
  obtain ⟨p, neg⟩ := g
  cases f with
  | c f =>
    obtain rfl : neg = false := h f rfl
    simp [guardOf, withGuard, toFin]
  | x x => cases neg <;> simp [guardOf, withGuard, toFin, bit]

section
variable {f : Fields} {i : Instr} {g : Guard} {stream profileN : Bool}

theorem Parses.guard_plain (h : Parses f i) (hg : guardFits g i = true) : ∀ c, f = .c c → g.neg = false := by
  intro c hc
  simp only [guardFits, h.compact c hc, Bool.true_and, Bool.and_eq_true, Bool.not_eq_true'] at hg
  exact hg.1.2

/-- Where the opcode may stand on a processor of the kind (R40, R59, steps 2 and 3). -/
def OpRuns (stream : Bool) (op : Nat) : Prop := if stream then opOnStream op = true else streamOnly op = false

theorem decodeFields_eq (hop : opUnassigned (opOf f) = false) (hruns : OpRuns stream (opOf f))
    (hparse : parse f = some i) (hguard : guardOf f = some g) (hg : guardFits g i = true)
    (hwf : i.wellFormed stream = true) (hN : profileN = true → namesF64 i = false) :
    decodeFields stream profileN f = .ok { guard := g, instr := i } := by
  simp only [Instr.wellFormed, Bool.and_eq_true] at hwf
  obtain ⟨⟨-, hfields⟩, hpairs⟩ := hwf
  have hprofile : (profileN && namesF64 i) = false := by
    cases profileN with
    | false => rfl
    | true => simp [hN rfl]
  cases stream
  · simp only [OpRuns, streamOnly, Bool.false_eq_true, if_false] at hruns
    simp [decodeFields, hop, hruns, hparse, hguard, hg, hfields, hprofile, hpairs]
  · simp only [OpRuns, if_true] at hruns
    simp [decodeFields, hop, hruns, hparse, hguard, hg, hfields, hprofile, hpairs]

/-- An instruction whose fields parse back decodes from its words and from its bytes. -/
theorem Parses.decode (h : Parses f i) (hg : guardFits g i = true) (hruns : OpRuns stream (opOf f))
    (hwf : i.wellFormed stream = true) (hN : profileN = true → namesF64 i = false) :
    let ws := wordsOf (withGuard g f)
    ws.length * 4 = instrLength (ws.headD 0) ∧ decodeWords stream profileN ws = .ok { guard := g, instr := i } ∧
      decode stream profileN (wordsToBytes ws) = .ok { guard := g, instr := i } := by
  have hfits := fits_withGuard h.fits g
  have hop : opOf (withGuard g f) < 256 := opOf_withGuard g f ▸ lt_of_assigned h.assigned
  have hwords : decodeWords stream profileN (wordsOf (withGuard g f)) = .ok { guard := g, instr := i } := by
    rw [decodeWords, fieldsOf_wordsOf hfits hop]
    exact decodeFields_eq (opOf_withGuard g f ▸ h.assigned) (opOf_withGuard g f ▸ hruns)
      (parse_withGuard g f ▸ h.parse) (guardOf_withGuard (h.guard_plain hg)) hg hwf hN
  refine ⟨wordsOf_length hfits hop, hwords, ?_⟩
  rw [Sys2Proof.decode, bytesToWords_wordsToBytes (wordsOf_lt hfits hop)]
  exact hwords

end

end Sys2Proof.Proofs
end

section
/-! SUPPORT. The codes of the field types (R49-R53) and the fields of each class of instruction: what a reader of a field gives on the
fields that the encoder of the same operand writes. -/

namespace Sys2Proof.Proofs

open Sys2Proof.Machine Sys2Proof.Claims

-- one lemma after the other: so many short ones at once take more threads than a small machine has memory for
set_option Elab.async false

/-! ### Numbers, words and flags -/

@[simp] theorem toFin_val {n : Nat} (a : Fin n) : toFin n a.val = some a := by simp [toFin]

@[simp] theorem need_true {α : Type} (k : Option α) : need true k = k := rfl

@[simp] theorem word_toNat (v : Word) : word v.toNat = v := by simp [word]

@[simp] theorem dword_toNat (v : DWord) : dword v.toNat = v := by simp [dword]

@[simp] theorem bit_true : bit true = 1 := rfl

@[simp] theorem bit_false : bit false = 0 := rfl

@[simp] theorem bit_lt_of_le {n : Nat} (hn : 2 ≤ n) (b : Bool) : bit b < n := (bit_lt b).trans_le hn

@[simp] theorem bit_le_one (b : Bool) : bit b ≤ 1 := Nat.le_of_lt_succ (bit_lt b)

@[simp] theorem toNat_lt_of_le {w n : Nat} (hn : 2 ^ w ≤ n) (v : BitVec w) : v.toNat < n := v.isLt.trans_le hn

@[simp] theorem bit_beq_one (b : Bool) : (bit b == 1) = b := by cases b <;> rfl

@[simp] theorem highByte_lt (v : BitVec 16) : v.toNat / 256 < 256 := by omega

/-- A flag above a field of the size `m`. -/
theorem flag_above {k m : Nat} (hk : k < m) (b : Bool) :
    (k + m * bit b) % m = k ∧ (k + m * bit b) / m = bit b ∧ k + m * bit b < 2 * m := by
  refine ⟨by rw [Nat.add_mul_mod_self_left, Nat.mod_eq_of_lt hk], ?_, ?_⟩
  · rw [Nat.add_mul_div_left _ _ (by omega), Nat.div_eq_of_lt hk, Nat.zero_add]
  · cases b <;> simp only [bit_true, bit_false] <;> omega

/-- A 16-bit number from its two bytes. -/
theorem ofNat_bytes (v : BitVec 16) : BitVec.ofNat 16 (v.toNat / 256 * 256 + v.toNat % 256) = v := by
  rw [Nat.div_add_mod']; simp

/-! ### Codes -/

@[simp] theorem intOfCode_intCode (t : IntTy) : intOfCode (intCode t) = some t := by cases t <;> rfl
@[simp] theorem fltOfCode_fltCode (t : FTy) : fltOfCode (fltCode t) = some t := by cases t <;> rfl
@[simp] theorem rndOf_rndCode (r : Rnd) : rndOf (rndCode r) = some r := by cases r <;> rfl
@[simp] theorem scopeOf_scopeCode (s : Scope) : scopeOf (scopeCode s) = some s := by cases s <;> rfl
@[simp] theorem orderOf_orderCode (o : Order) : orderOf (orderCode o) = o := by cases o <;> rfl
@[simp] theorem hintOf_hintCode (h : Hint) : hintOf (hintCode h) = h := by cases h <;> rfl
@[simp] theorem widthOf_widthCode (w : Width) : widthOf (widthCode w) = some w := by cases w <;> rfl
@[simp] theorem condOf_condCode (c : Cond) : condOf (condCode c) = some c := by cases c <;> rfl
@[simp] theorem fcondOf_fcondCode (c : FCond) : fcondOf (fcondCode c) = some c := by cases c <;> rfl
@[simp] theorem redOpOf_redOpCode (o : RedOp) : redOpOf (redOpCode o) = some o := by cases o <;> rfl
@[simp] theorem redTyOf_redTyCode (t : RedTy) : redTyOf (redTyCode t) = some t := by cases t <;> rfl
@[simp] theorem shflOf_shflCode (m : ShflMode) : shflOf (shflCode m) = m := by cases m <;> rfl
@[simp] theorem atomOpOf_atomOpCode (o : AtomOp) : atomOpOf (atomOpCode o) = some o := by cases o <;> rfl
@[simp] theorem atomfOpOf_atomfOpCode (o : AtomfOp) : atomfOpOf (atomfOpCode o) = some o := by cases o <;> rfl
@[simp] theorem atomfTyOf_atomfTyCode (t : AtomfTy) : atomfTyOf (atomfTyCode t) = some t := by cases t <;> rfl
@[simp] theorem sparOf_sparCode (s : Sparsity) : sparOf (sparCode s) = some s := by cases s <;> rfl
@[simp] theorem fillOf_fillCode (t : FillTy) : fillOf (fillCode t) = some t := by cases t <;> rfl
@[simp] theorem tileWOf_tileWCode (w : TileW) : tileWOf (tileWCode w) = some w := by cases w <;> rfl
@[simp] theorem accOf_accCode (t : AccTy) : accOf (accCode t) = some t := by cases t <;> rfl
@[simp] theorem snapOf_snapCode (s : SnapScope) : snapOf (snapCode s) = s := by cases s <;> rfl
@[simp] theorem fenceOf_fenceCode (k : FenceKind) : fenceOf (fenceCode k).1 (fenceCode k).2 = some k := by cases k <;> rfl
@[simp] theorem wideOf_wideCode (w : Bool) : wideOf (wideCode w) = some w := by cases w <;> rfl
@[simp] theorem wideW_widthW (w : Bool) : wideW (widthW w) = some w := by cases w <;> rfl
@[simp] theorem clusterOf_clusterMod (c : Bool) : clusterOf (clusterMod c) = some c := by cases c <;> rfl
@[simp] theorem parityOf_bit (b : Bool) : parityOf (bit b) = some b := by cases b <;> rfl

/-- The number of a special register names it (R432). -/
@[simp] theorem sregOfNum_sregNum (r : Sreg) : sregOfNum (sregNum r) = some r := by
  cases r with
  | cwp n => revert n; decide
  | csq n => revert n; decide
  | _ => rfl

@[simp] theorem addTyOf_addTyCode (t : AddTy) : addTyOf (addTyCode t) = some t := by
  cases t with
  | int t => cases t <;> rfl
  | flt t => cases t <;> rfl

/-- The code of a binary8 format gives back its precision and its two flags (R79). -/
theorem tyOfCode_b8 {f : B8} (h : b8Ok f = true) : tyOfCode (tyCode (.b8 f)) = some (.b8 f) := by
  obtain ⟨p, u, fin⟩ := f
  revert p u fin
  decide

/-- A type code gives back its type, a binary8 one if its precision is not 0. -/
theorem tyOfCode_tyCode {t : Ty} (h : tyOk t = true) : tyOfCode (tyCode t) = some t := by
  cases t with
  | int t => cases t <;> rfl
  | flt t => cases t <;> rfl
  | b8 f => exact tyOfCode_b8 h

section
variable {n : Nat}

@[simp] theorem intCode_lt (hn : 8 ≤ n) (t : IntTy) : intCode t < n := by cases t <;> simp only [intCode] <;> omega
@[simp] theorem fltCode_lt (hn : 14 ≤ n) (t : FTy) : fltCode t < n := by cases t <;> simp only [fltCode] <;> omega
@[simp] theorem rndCode_lt (hn : 6 ≤ n) (r : Rnd) : rndCode r < n := by cases r <;> simp only [rndCode] <;> omega
@[simp] theorem scopeCode_lt (hn : 6 ≤ n) (s : Scope) : scopeCode s < n := by cases s <;> simp only [scopeCode] <;> omega
@[simp] theorem orderCode_lt (hn : 4 ≤ n) (o : Order) : orderCode o < n := by cases o <;> simp only [orderCode] <;> omega
@[simp] theorem hintCode_lt (hn : 4 ≤ n) (h : Hint) : hintCode h < n := by cases h <;> simp only [hintCode] <;> omega
@[simp] theorem widthCode_lt (hn : 6 ≤ n) (w : Width) : widthCode w < n := by cases w <;> simp only [widthCode] <;> omega
@[simp] theorem condCode_lt (hn : 8 ≤ n) (c : Cond) : condCode c < n := by cases c <;> simp only [condCode] <;> omega
@[simp] theorem fcondCode_lt (hn : 8 ≤ n) (c : FCond) : fcondCode c < n := by cases c <;> simp only [fcondCode] <;> omega
@[simp] theorem redOpCode_lt (hn : 6 ≤ n) (o : RedOp) : redOpCode o < n := by cases o <;> simp only [redOpCode] <;> omega
@[simp] theorem redTyCode_lt (hn : 12 ≤ n) (t : RedTy) : redTyCode t < n := by cases t <;> simp only [redTyCode] <;> omega
@[simp] theorem shflCode_lt (hn : 4 ≤ n) (m : ShflMode) : shflCode m < n := by cases m <;> simp only [shflCode] <;> omega
@[simp] theorem atomOpCode_lt (hn : 8 ≤ n) (o : AtomOp) : atomOpCode o < n := by cases o <;> simp only [atomOpCode] <;> omega
@[simp] theorem atomfOpCode_lt (hn : 3 ≤ n) (o : AtomfOp) : atomfOpCode o < n := by cases o <;> simp only [atomfOpCode] <;> omega
@[simp] theorem atomfTyCode_lt (hn : 4 ≤ n) (t : AtomfTy) : atomfTyCode t < n := by cases t <;> simp only [atomfTyCode] <;> omega
@[simp] theorem sparCode_lt (hn : 3 ≤ n) (s : Sparsity) : sparCode s < n := by cases s <;> simp only [sparCode] <;> omega
@[simp] theorem fillCode_lt (hn : 12 ≤ n) (t : FillTy) : fillCode t < n := by cases t <;> simp only [fillCode] <;> omega
@[simp] theorem tileWCode_lt (hn : 7 ≤ n) (w : TileW) : tileWCode w < n := by cases w <;> simp only [tileWCode] <;> omega
@[simp] theorem accCode_lt (hn : 12 ≤ n) (t : AccTy) : accCode t < n := by cases t <;> simp only [accCode] <;> omega
@[simp] theorem snapCode_lt (hn : 4 ≤ n) (s : SnapScope) : snapCode s < n := by cases s <;> simp only [snapCode] <;> omega
@[simp] theorem wideCode_lt (hn : 8 ≤ n) (w : Bool) : wideCode w < n := by unfold wideCode; split <;> omega
@[simp] theorem widthW_lt (hn : 4 ≤ n) (w : Bool) : widthW w < n := by unfold widthW; split <;> omega
@[simp] theorem clusterMod_lt (hn : 65 ≤ n) (c : Bool) : clusterMod c < n := by unfold clusterMod; split <;> omega
@[simp] theorem colMod_lt (hn : 161 ≤ n) (s : Bool) : colMod s < n := by unfold colMod; split <;> omega
@[simp] theorem sregNum_lt (hn : 66 ≤ n) (r : Sreg) : sregNum r < n := by cases r <;> simp only [sregNum] <;> omega

@[simp] theorem addTyCode_lt (hn : 14 ≤ n) (t : AddTy) : addTyCode t < n := by
  cases t with
  | int t => exact intCode_lt (by omega) t
  | flt t => exact fltCode_lt hn t

@[simp] theorem tyCode_lt (hn : 64 ≤ n) (t : Ty) : tyCode t < n := by
  cases t with
  | int t => exact intCode_lt (by omega) t
  | flt t => exact fltCode_lt (by omega) t
  | b8 f =>
    have hu := bit_lt f.unsigned
    have hf := bit_lt f.finite
    simp only [tyCode]
    omega

@[simp] theorem fence_ord_lt (k : FenceKind) : (fenceCode k).1 < 4 := by cases k <;> decide
@[simp] theorem fence_sub_lt (hn : 2 ≤ n) (k : FenceKind) : (fenceCode k).2 < n := by
  cases k <;> simp only [fenceCode] <;> omega

end

/-! ### The B operand (R49, R54, R101, R107) -/

@[simp] theorem ssrcOf_ssrcFields {b : SSrc} (h : ssrcLit b = false) :
    ssrcOf (ssrcFields b).1 (ssrcFields b).2.1 (ssrcFields b).2.2 = some b := by
  cases b with
  | reg r => simp [ssrcOf, ssrcFields]
  | imm v => simp [ssrcOf, ssrcFields]
  | lit v => cases h

@[simp] theorem regImmOf_regImmFields (b : RegImm) :
    regImmOf (regImmFields b).1 (regImmFields b).2.1 (regImmFields b).2.2 = some b := by
  cases b <;> simp [regImmOf, regImmFields]

@[simp] theorem vsrcOf_vsrcFields {b : VSrc} (h : noLit b = true) :
    vsrcOf (vsrcFields b).1 (vsrcFields b).2.1 (vsrcFields b).2.2 = some b := by
  cases b with
  | lit v => cases h
  | _ => simp [vsrcOf, vsrcFields]

section
variable {n : Nat}
@[simp] theorem ssrc_bi_le (b : SSrc) : (ssrcFields b).1 ≤ 1 := by cases b <;> simp [ssrcFields]
@[simp] theorem ssrc_b_lt (b : SSrc) : (ssrcFields b).2.1 < 256 := by
  cases b <;> simp [ssrcFields, Fin.val_lt_of_le]
@[simp] theorem ssrc_imm_lt (hn : 2 ^ 32 ≤ n) (b : SSrc) : (ssrcFields b).2.2 < n := by
  cases b <;> simp only [ssrcFields] <;> omega
@[simp] theorem regImm_bi_le (b : RegImm) : (regImmFields b).1 ≤ 1 := by cases b <;> simp [regImmFields]
@[simp] theorem regImm_b_lt (b : RegImm) : (regImmFields b).2.1 < 256 := by
  cases b <;> simp [regImmFields, Fin.val_lt_of_le]
@[simp] theorem regImm_imm_lt (hn : 2 ^ 32 ≤ n) (b : RegImm) : (regImmFields b).2.2 < n := by
  cases b <;> simp only [regImmFields] <;> omega
@[simp] theorem vsrc_bsrc_lt (b : VSrc) : (vsrcFields b).1 < 4 := by cases b <;> simp [vsrcFields]
@[simp] theorem vsrc_b_lt (b : VSrc) : (vsrcFields b).2.1 < 256 := by
  cases b <;> simp [vsrcFields, Fin.val_lt_of_le]
@[simp] theorem vsrc_imm_lt (hn : 2 ^ 32 ≤ n) (b : VSrc) : (vsrcFields b).2.2 < n := by
  cases b <;> simp only [vsrcFields] <;> omega
theorem vsrcLit_lt (b : VSrc) : ∀ l ∈ vsrcLit b, l < 2 ^ 64 := by
  cases b <;> simp [vsrcLit]
end

/-! ### Packed fields: MOD and SUB of each class -/

section
variable {op g gn mod sub d a b c imm : Nat} {lit : Option Nat}

-- scalar integer (R106)
section
variable {bi ty : Nat}
theorem sMod_ty (h : ty < 64) : sMod bi ty / 8 % 64 = ty := by simp only [sMod]; omega
theorem sMod_low : sMod bi ty % 8 = 0 := by simp only [sMod]; omega
@[simp] theorem sMod_lt (hb : bi ≤ 1) (h : ty < 64) : sMod bi ty < 1024 := by simp only [sMod]; omega
end

@[simp] theorem sTy_mk (bi : Nat) (t : IntTy) : sTy ⟨op, g, gn, sMod bi (intCode t), sub, d, a, b, c, imm, lit⟩ = some t := by
  simp [sTy, sMod_low, sMod_ty]

@[simp] theorem sBi_mk (bi : Nat) (t : IntTy) : sBi ⟨op, g, gn, sMod bi (intCode t), sub, d, a, b, c, imm, lit⟩ = bi := by
  have := intCode_lt (n := 64) (by omega) t
  simp only [sBi, sMod]
  omega

-- vectors (R120, R139)
section
variable {ty bs : Nat}
@[simp] theorem vMod_low (ty bs : Nat) : vMod ty bs % 4 = 0 := by simp only [vMod]; omega
@[simp] theorem vMod_ty (h : bs < 4) : vMod ty bs / 16 = ty := by simp only [vMod]; omega
@[simp] theorem vMod_lt (ht : ty < 64) (h : bs < 4) : vMod ty bs < 1024 := by simp only [vMod]; omega
@[simp] theorem vBsrc_mk (h : bs < 4) : vBsrc ⟨op, g, gn, vMod ty bs, sub, d, a, b, c, imm, lit⟩ = bs := by
  simp only [vBsrc, vMod]; omega
end

@[simp] theorem vTy_mk {bs : Nat} (h : bs < 4) (t : IntTy) :
    vTy ⟨op, g, gn, vMod (intCode t) bs, sub, d, a, b, c, imm, lit⟩ = some t := by simp [vTy, h]

@[simp] theorem fTy_mk {bs : Nat} (h : bs < 4) (t : FTy) :
    fTy ⟨op, g, gn, vMod (fltCode t) bs, sub, d, a, b, c, imm, lit⟩ = some t := by simp [fTy, h]

/-- A source that may be a literal of XL (R123). -/
@[simp] theorem vsrcXL_mk (s : VSrc) (ty : Nat) : vsrcXL ⟨op, g, gn, vMod ty (vsrcFields s).1, sub, d, a, (vsrcFields s).2.1, c,
    (vsrcFields s).2.2, vsrcLit s⟩ = some s := by
  cases s <;> simp [vsrcXL, vsrcLit, vsrcFields, vsrcOf]

-- RND and FN (R139)
section
variable {fn r : Nat}
@[simp] theorem fSub_rnd (h : r < 8) : fSub' fn r % 8 = r := by simp only [fSub']; omega
@[simp] theorem fSub_lt (hf : fn < 16) (h : r < 8) : fSub' fn r < 128 := by simp only [fSub']; omega
@[simp] theorem fFn_mk (h : r < 8) : fFn ⟨op, g, gn, mod, fSub' fn r, d, a, b, c, imm, lit⟩ = fn := by
  simp only [fFn, fSub']; omega
@[simp] theorem fRnd_mk (fn : Nat) (r : Rnd) : fRnd? ⟨op, g, gn, mod, fSub' fn (rndCode r), d, a, b, c, imm, lit⟩ = some r := by
  simp [fRnd?]
end

-- conversions (R93)
section
variable {dty r : Nat}
@[simp] theorem cvMod_lt (hd : dty < 64) (hr : r < 8) (sat : Bool) : cvMod dty r sat < 1024 := by
  have := bit_lt sat
  simp only [cvMod]; omega
theorem cvMod_dty (hr : r < 8) (sat : Bool) : cvMod dty r sat / 16 = dty := by
  have := bit_lt sat
  simp only [cvMod]; omega
theorem cvMod_rnd (hr : r < 8) (sat : Bool) : cvMod dty r sat / 2 % 8 = r := by
  have := bit_lt sat
  simp only [cvMod]; omega
end

@[simp] theorem cvD_mk {t : Ty} (ht : tyOk t = true) {r : Nat} (hr : r < 8) (sat : Bool) :
    cvD ⟨op, g, gn, cvMod (tyCode t) r sat, sub, d, a, b, c, imm, lit⟩ = some t := by
  simp only [cvD, cvMod_dty hr, tyOfCode_tyCode ht]

@[simp] theorem cvS_mk {t : Ty} (ht : tyOk t = true) : cvS ⟨op, g, gn, mod, tyCode t, d, a, b, c, imm, lit⟩ = some t := by
  simp only [cvS, tyOfCode_tyCode ht]

@[simp] theorem cvRnd_mk (dty : Nat) (r : Rnd) (sat : Bool) :
    cvRnd ⟨op, g, gn, cvMod dty (rndCode r) sat, sub, d, a, b, c, imm, lit⟩ = some r := by
  simp [cvRnd, cvMod_rnd]

@[simp] theorem cvSat_mk (dty r : Nat) (sat : Bool) :
    cvSat ⟨op, g, gn, cvMod dty r sat, sub, d, a, b, c, imm, lit⟩ = sat := by
  have h : cvMod dty r sat % 2 = bit sat := by
    have := bit_lt sat
    simp only [cvMod]; omega
  simp [cvSat, h]

-- memory (R249)
section
variable {ord sc ch w : Nat}
@[simp] theorem mMod_lt (ho : ord < 4) (hs : sc < 8) (hc : ch < 4) (hw : w < 8) : mMod ord sc ch w < 1024 := by
  simp only [mMod]; omega
@[simp] theorem mOrd_mk (hs : sc < 8) (hc : ch < 4) (hw : w < 8) :
    mOrd ⟨op, g, gn, mMod ord sc ch w, sub, d, a, b, c, imm, lit⟩ = ord := by simp only [mOrd, mMod]; omega
@[simp] theorem mSc_mk (hs : sc < 8) (hc : ch < 4) (hw : w < 8) :
    mSc ⟨op, g, gn, mMod ord sc ch w, sub, d, a, b, c, imm, lit⟩ = sc := by simp only [mSc, mMod]; omega
@[simp] theorem mCh_mk (hc : ch < 4) (hw : w < 8) :
    mCh ⟨op, g, gn, mMod ord sc ch w, sub, d, a, b, c, imm, lit⟩ = ch := by simp only [mCh, mMod]; omega
@[simp] theorem mW_mk (hw : w < 8) :
    mW ⟨op, g, gn, mMod ord sc ch w, sub, d, a, b, c, imm, lit⟩ = w := by simp only [mW, mMod]; omega
@[simp] theorem mMod_scope (ord sc : Nat) : mMod ord sc 0 0 % 32 = 0 := by simp only [mMod]; omega
end

section
variable {ix sp var : Nat}
@[simp] theorem mSub_lt (hi : ix < 8) (hs : sp < 2) (hv : var < 8) : mSub ix sp var < 128 := by simp only [mSub]; omega
@[simp] theorem mIx_mk (hs : sp < 2) (hv : var < 8) :
    mIx ⟨op, g, gn, mod, mSub ix sp var, d, a, b, c, imm, lit⟩ = ix := by simp only [mIx, mSub]; omega
@[simp] theorem mSp_mk (hs : sp < 2) (hv : var < 8) :
    mSp ⟨op, g, gn, mod, mSub ix sp var, d, a, b, c, imm, lit⟩ = sp := by simp only [mSp, mSub]; omega
@[simp] theorem mVar_mk (hv : var < 8) :
    mVar ⟨op, g, gn, mod, mSub ix sp var, d, a, b, c, imm, lit⟩ = var := by simp only [mVar, mSub]; omega
end

@[simp] theorem memIx_lt (m : MemOp) : memIx m < 8 := by
  unfold memIx; split <;> omega

@[simp] theorem memB_lt (m : MemOp) : memB m < 256 := by
  unfold memB; split <;> omega

/-- A memory operand comes back from A, B, IX, SP and the third word (R53). -/
@[simp] theorem memOf_fields (m : MemOp) : memOf m.base.val (memB m) (memIx m) (bit m.stash) m.off.toNat = some m := by
  obtain ⟨base, index, off, stash⟩ := m
  rcases index with - | ⟨v, s⟩ <;> simp [memOf, memB, memIx]

@[simp] theorem scopeOpt_lt {n : Nat} (hn : 6 ≤ n) (s : Option Scope) : scopeOpt s < n := by
  cases s with
  | none => exact lt_of_lt_of_le (by decide) hn
  | some s => exact scopeCode_lt hn s

/-- SC is there exactly with the ordering (R249). -/
theorem accScope_mk {o ch w : Nat} (ho : o ≠ 0) (hc : ch < 4) (hw : w < 8) (s : Option Scope) :
    accScope o ⟨op, g, gn, mMod (o * bit s.isSome) (scopeOpt s) ch w, sub, d, a, b, c, imm, lit⟩ = some s := by
  cases s with
  | none => simp [accScope, hc, hw, scopeOpt]
  | some s => simp [accScope, hc, hw, ho, scopeOpt]

@[simp] theorem accScope_acquire {ch w : Nat} (hc : ch < 4) (hw : w < 8) (s : Option Scope) :
    accScope 1 ⟨op, g, gn, mMod (bit s.isSome) (scopeOpt s) ch w, sub, d, a, b, c, imm, lit⟩ = some s := by
  simpa using accScope_mk (o := 1) (by omega) hc hw s

@[simp] theorem accScope_release {ch w : Nat} (hc : ch < 4) (hw : w < 8) (s : Option Scope) :
    accScope 2 ⟨op, g, gn, mMod (2 * bit s.isSome) (scopeOpt s) ch w, sub, d, a, b, c, imm, lit⟩ = some s :=
  accScope_mk (by omega) hc hw s

@[simp] theorem two_bit_lt (b : Bool) : 2 * bit b < 4 := by cases b <;> decide

-- the third word: E, F and AUX (R45)
section
variable {x e f : Nat}
@[simp] theorem mkImm_lt {n : Nat} (hn : 2 ^ 32 ≤ n) (he : e < 256) (hf : f < 256) (hx : x < 65536) : mkImm x f e < n := by
  simp only [mkImm]; omega
@[simp] theorem lowE_mk (he : e < 256) : lowE ⟨op, g, gn, mod, sub, d, a, b, c, mkImm x f e, lit⟩ = e := by
  simp only [lowE, mkImm]; omega
@[simp] theorem lowF_mk (he : e < 256) (hf : f < 256) : lowF ⟨op, g, gn, mod, sub, d, a, b, c, mkImm x f e, lit⟩ = f := by
  simp only [lowF, mkImm]; omega
@[simp] theorem aux_mk (he : e < 256) (hf : f < 256) : aux ⟨op, g, gn, mod, sub, d, a, b, c, mkImm x f e, lit⟩ = x := by
  simp only [aux, mkImm]; omega
end

@[simp] theorem mkImm_aux_low (x : Nat) : mkImm x 0 0 % 65536 = 0 := by simp [mkImm]

@[simp] theorem noLitX_none : noLitX ⟨op, g, gn, mod, sub, d, a, b, c, imm, none⟩ = true := rfl

-- engines (R363)
@[simp] theorem tumbCode_lt (t : Option (Fin 24)) : tumbCode t < 256 := by
  unfold tumbCode; split <;> omega

@[simp] theorem tumbOf_tumbCode (t : Option (Fin 24)) : tumbOf (tumbCode t) = some t := by
  cases t with
  | none => rfl
  | some t =>
    have : t.val ≠ 255 := by omega
    simp [tumbOf, tumbCode, this]

@[simp] theorem chn_lt (n : Fin 4) : n.val * 256 < 1024 := by omega

@[simp] theorem chn_cluster_lt (n : Fin 4) (cl : Bool) : n.val * 256 + clusterMod cl < 1024 := by
  have := clusterMod_lt (n := 256) (by omega) cl
  omega

@[simp] theorem eChn_mk (n : Fin 4) : eChn ⟨op, g, gn, n.val * 256, sub, d, a, b, c, imm, lit⟩ = some n := by simp [eChn]

@[simp] theorem eChnCl_mk (n : Fin 4) (cl : Bool) :
    eChnCl ⟨op, g, gn, n.val * 256 + clusterMod cl, sub, d, a, b, c, imm, lit⟩ = some (n, cl) := by
  have hcl := clusterMod_lt (n := 256) (by omega) cl
  have hn : (n.val * 256 + clusterMod cl) / 256 = n.val := by omega
  have hc : (n.val * 256 + clusterMod cl) % 256 = clusterMod cl := by omega
  simp [eChnCl, hn, hc]

@[simp] theorem colSc_mk (s : Bool) : colSc ⟨op, g, gn, colMod s, sub, d, a, b, c, imm, lit⟩ = some s := by
  cases s <;> rfl

end

@[simp] theorem descIdOf_fields (i : DescId) : descIdOf (descIdFields i).1 (descIdFields i).2.1 (descIdFields i).2.2 = some i := by
  cases i <;> simp [descIdOf, descIdFields]

@[simp] theorem desc_sub_lt (i : DescId) : (descIdFields i).1 < 128 := by cases i <;> simp [descIdFields]
@[simp] theorem desc_b_lt (i : DescId) : (descIdFields i).2.1 < 256 := by
  cases i <;> simp [descIdFields, Fin.val_lt_of_le]
@[simp] theorem desc_imm_lt {n : Nat} (hn : 2 ^ 32 ≤ n) (i : DescId) : (descIdFields i).2.2 < n := by
  cases i <;> simp only [descIdFields] <;> omega

@[simp] theorem svRegOf_fields (r : SvReg) : svRegOf (svFields r).1 (svFields r).2 = some r := by
  cases r <;> simp [svRegOf, svFields]
@[simp] theorem sv_sub_lt (r : SvReg) : (svFields r).1 < 128 := by cases r <;> simp [svFields]
@[simp] theorem sv_reg_lt (r : SvReg) : (svFields r).2 < 256 := by cases r <;> simp [svFields, Fin.val_lt_of_le]

@[simp] theorem brBaseOf_fields (r : BrBase) : brBaseOf (brBaseFields r).1 (brBaseFields r).2 = some r := by
  cases r <;> simp [brBaseOf, brBaseFields]
@[simp] theorem brBase_sub_lt (r : BrBase) : (brBaseFields r).1 < 128 := by cases r <;> simp [brBaseFields]
@[simp] theorem brBase_reg_lt (r : BrBase) : (brBaseFields r).2 < 256 := by cases r <;> simp [brBaseFields, Fin.val_lt_of_le]

@[simp] theorem fillVal_lt (c : Option (Fin 256)) : fillVal c < 256 := by
  unfold fillVal; split <;> omega

@[simp] theorem fillReg_fillVal (c : Option (Fin 256)) : fillReg c.isSome (fillVal c) = some c := by
  cases c <;> simp [fillReg, fillVal]

@[simp] theorem optReg_lt (r : Option (Fin 64)) : optReg r < 256 := by
  unfold optReg; split <;> omega

/-! ### Multiplicands (R320) -/

@[simp] theorem mcandOf_fields (m : Mcand) :
    mcandOf (mcandFields m).1 (mcandFields m).2.1 (mcandFields m).2.2.1 (mcandFields m).2.2.2 = some m := by
  cases m <;> simp [mcandOf, mcandFields]

@[simp] theorem mcand_st_lt (m : Mcand) : (mcandFields m).1 < 2 := by cases m <;> simp [mcandFields]
@[simp] theorem mcand_dir_lt (m : Mcand) : (mcandFields m).2.1 < 2 := by
  cases m with
  | vec r => exact Nat.two_pos
  | stash b p t => exact bit_lt t
@[simp] theorem mcand_reg_lt (m : Mcand) : (mcandFields m).2.2.1 < 256 := by
  cases m <;> simp [mcandFields, Fin.val_lt_of_le]
@[simp] theorem mcand_pack_lt (m : Mcand) : (mcandFields m).2.2.2 < 256 := by
  cases m <;> simp [mcandFields, Fin.val_lt_of_le]

section
variable {sc low : Nat} (a b : Mcand)

theorem mmaMod_lt (hs : sc < 2) (hl : low < 32) : mmaMod (mcandFields a) (mcandFields b) sc low < 1024 := by
  have := mcand_st_lt a; have := mcand_st_lt b; have := mcand_dir_lt a; have := mcand_dir_lt b
  simp only [mmaMod]; omega

/-- MOD of MMA and MMAS: AST, BST, ADIR, BDIR, BSC and the low five bits. -/
theorem mmaMod_fields (hs : sc < 2) (hl : low < 32) :
    let m := mmaMod (mcandFields a) (mcandFields b) sc low
    m / 512 = (mcandFields a).1 ∧ m / 256 % 2 = (mcandFields b).1 ∧ m / 128 % 2 = (mcandFields a).2.1 ∧
      m / 64 % 2 = (mcandFields b).2.1 ∧ m / 32 % 2 = sc ∧ m % 32 = low := by
  have := mcand_st_lt a; have := mcand_st_lt b; have := mcand_dir_lt a; have := mcand_dir_lt b
  simp only [mmaMod]; omega

end

end Sys2Proof.Proofs
end

section
/-! SUPPORT. What the reader of each class of operands makes of the fields that its encoder writes (R43-R57): the operands. -/

namespace Sys2Proof.Proofs

open Sys2Proof.Machine Sys2Proof.Claims

-- one lemma after the other: so many short ones at once take more threads than a small machine has memory for
set_option Elab.async false

/-! ### What it is to read operands back -/

/-- `f` are X or XL fields with opcode `op` that fit, and `read` makes `o` of them. -/
def ReadsX {α : Type} (read : XFields → Option α) (op : Nat) (f : Fields) (o : α) : Prop :=
  ∃ x, f = .x x ∧ x.op = op ∧ FitsX x ∧ read x = some o

/-- The same of the fields of a compact form. -/
def ReadsC {α : Type} (read : CFields → Option α) (op : Nat) (f : Fields) (o : α) : Prop :=
  ∃ c, f = .c c ∧ c.op = op ∧ c.lit = none ∧ FitsC c ∧ read c = some o

/-- The same of the fields of a compact form with a literal. -/
def ReadsCL {α : Type} (read : CFields → Nat → Option α) (op : Nat) (f : Fields) (o : α) : Prop :=
  ∃ c l, f = .c c ∧ c.op = op ∧ c.lit = some l ∧ FitsC c ∧ read c l = some o

/-- Reading back what `encX` writes; that the fields fit is mostly that registers, codes and words do. -/
theorem ReadsX.encX {α : Type} {read : XFields → Option α} {o : α} {op mod sub d a b c imm : Nat} {lit : Option Nat}
    (hread : read ⟨op, 15, 0, mod, sub, d, a, b, c, imm, lit⟩ = some o)
    (hfits : mod < 1024 ∧ sub < 128 ∧ d < 256 ∧ a < 256 ∧ b < 256 ∧ c < 256 ∧ imm < 2 ^ 32 ∧ ∀ l ∈ lit, l < 2 ^ 64 := by
      simp [Fin.val_lt_of_le]) :
    ReadsX read op (encX op mod sub d a b c imm lit) o := by
  obtain ⟨hmod, hsub, hd, ha, hb, hc, himm, hlit⟩ := hfits
  exact ⟨_, rfl, rfl, ⟨by simp, by simp, hmod, hsub, hd, ha, hb, hc, himm, hlit⟩, hread⟩

theorem ReadsC.encC {α : Type} {read : CFields → Option α} {o : α} {op d a b : Nat}
    (hread : read ⟨op, 15, d, a, b, none, []⟩ = some o) (hfits : d < 64 ∧ a < 64 ∧ b < 64 := by simp [Fin.val_lt_of_le]) :
    ReadsC read op (encC op d a b) o := by
  obtain ⟨hd, ha, hb⟩ := hfits
  exact ⟨_, rfl, rfl, rfl, ⟨by simp, hd, ha, hb, rfl, by simp⟩, hread⟩

theorem ReadsCL.encCL {α : Type} {read : CFields → Nat → Option α} {o : α} {op d a : Nat} {v : DWord} (hop : op ≠ 0x0A)
    (hfits : d < 64 ∧ a < 64) (hread : read ⟨op, 15, d, a, 0, some v.toNat, []⟩ v.toNat = some o) :
    ReadsCL read op (encCL op d a v) o := by
  obtain ⟨hd, ha⟩ := hfits
  exact ⟨_, _, rfl, rfl, rfl, ⟨by simp, hd, ha, by simp, by simp [tailFits, hop], by simp⟩, hread⟩

/-! ### Compact forms (R43, R57) -/

section
variable (op : Nat)

theorem reads_bareC (i : Instr) : ReadsC (bareC · i) op (encC op 0 0 0) i := .encC (by simp [bareC])
theorem reads_c3 (o : C3) : ReadsC c3Of op (encC3 op o) o := .encC (by simp [c3Of])
theorem reads_c2 (o : C2) : ReadsC c2Of op (encC2 op o) o := .encC (by simp [c2Of])
theorem reads_c1 (o : C1) : ReadsC c1Of op (encC1 op o) o := .encC (by simp [c1Of])
theorem reads_cRet (o : CRet) : ReadsC cRetOf op (encC op 0 o.a.val 0) o := .encC (by simp [cRetOf])
theorem reads_cp3 (o : CP3) : ReadsC cp3Of op (encCP3 op o) o := .encC (by simp [cp3Of])
theorem reads_cp2 (o : CP2) : ReadsC cp2Of op (encCP2 op o) o := .encC (by simp [cp2Of])
theorem reads_crp (o : CRP) : ReadsC crpOf op (encCRP op o) o := .encC (by simp [crpOf])
theorem reads_cpr (o : CPR) : ReadsC cprOf op (encCPR op o) o := .encC (by simp [cprOf])
theorem reads_cTile (o : CTile) : ReadsC cTileOf op (encC op o.d.val 0 0) o := .encC (by simp [cTileOf])

end

/-! ### Control flow (R197-R215) -/

theorem reads_bra (o : Bra) : ReadsX braOf 0x02 (encBra o) o := .encX (by simp [braOf])

theorem reads_brx (o : Brx) : ReadsX brxOf 0x03 (encBrx o) o := .encX (by simp [brxOf])

theorem reads_call (o : Call) : ReadsX callOf 0x04 (encCall o) o := .encX (by simp [callOf])

theorem reads_callx (o : Callx) : ReadsX callxOf 0x05 (encCallx o) o := .encX (by simp [callxOf])

theorem reads_brd (o : Brd) : ReadsX brdOf 0x07 (encBrd o) o :=
  .encX (by simp [brdOf, ofNat_bytes]) (by simp [Fin.val_lt_of_le, Nat.mod_lt])

theorem reads_brk (o : Brk) : ReadsX brkOf 0x09 (encBrk o) o := .encX (by simp [brkOf])

/-- LOOP: the count in A, or in B and C (R215). -/
theorem reads_loop (o : Loop) : ReadsX loopOf 0x0B (encLoop o) o := by
  obtain ⟨count, off⟩ := o
  cases count with
  | reg r => exact .encX (by simp [loopOf])
  | imm v => exact .encX (by simp [loopOf, ofNat_bytes]) (by simp [Nat.mod_lt])

/-- SWCH: the case bytes are the literal, and nine offsets follow (R209). -/
theorem reads_swch (o : Swch) : ReadsCL swchOf 0x0A (encSwch o) o := by
  obtain ⟨n, a, cases, offs, join⟩ := o
  obtain ⟨⟨l⟩, hl⟩ := offs
  match l, hl with
  | [w0, w1, w2, w3, w4, w5, w6, w7], hl =>
    refine ⟨_, _, rfl, rfl, rfl, ⟨by simp, ?_, a.isLt, by simp, ⟨cases.isLt, rfl⟩, ?_⟩, ?_⟩
    · exact n.isLt.trans (by decide)
    · simp
    · simp [swchOf]

/-! ### Scalar integer (R106-R118) -/

theorem reads_sOp2 {o : SOp2} (h : ssrcLit o.b = false) (op : Nat) : ReadsX sOp2Of op (encSOp2 op o) o := by
  obtain ⟨ty, d, a, b⟩ := o
  have henc : encSOp2 op ⟨ty, d, a, b⟩ = encX op (sMod (ssrcFields b).1 (intCode ty)) 0 d.val a.val (ssrcFields b).2.1 0
      (ssrcFields b).2.2 := by
    cases b with
    | lit v => cases h
    | _ => rfl
  rw [henc]
  exact .encX (by simp [sOp2Of, ssrcOf_ssrcFields h])

theorem reads_sOp2_lit {op : Nat} (hop : op ≠ 0x0A) (d a : Fin 64) (v : DWord) :
    ReadsCL clSOp2 op (encSOp2 op ⟨.i64, d, a, .lit v⟩) ⟨.i64, d, a, .lit v⟩ :=
  .encCL hop (by simp) (by simp [clSOp2])

theorem reads_sCmp (o : SCmp) : ReadsX sCmpOf 0x20 (encSCmp o) o := .encX (by simp [sCmpOf])

theorem reads_sSel (o : SSel) : ReadsX sSelOf 0x21 (encSSel o) o := .encX (by simp [sSelOf])

theorem reads_sOp1 (op : Nat) (o : SOp1) : ReadsX sOp1Of op (encSOp1 op o) o :=
  .encX (by simp [sOp1Of])

theorem reads_sLi (ty : IntTy) (d : Fin 64) (v : Word) : ReadsX sLiOf 0x23 (encSLi ⟨ty, d, .imm v⟩) ⟨ty, d, .imm v⟩ :=
  .encX (by simp [sLiOf])

theorem reads_sLi_lit (d : Fin 64) (v : DWord) : ReadsCL clSLi 0x23 (encSLi ⟨.i64, d, .lit v⟩) ⟨.i64, d, .lit v⟩ :=
  .encCL (by decide) (by simp) (by simp [clSLi])

theorem reads_sLea (o : SLea) : ReadsX sLeaOf 0x24 (encSLea o) o := .encX (by simp [sLeaOf])

theorem reads_sBf (op : Nat) (o : SBf) : ReadsX sBfOf op (encSBf op o) o := by
  obtain ⟨ty, d, a, fld⟩ := o
  cases fld with
  | imm p w => exact .encX (by simp [sBfOf, sFieldOf])
  | reg b c => exact .encX (by simp [sBfOf, sFieldOf])

theorem reads_sMovv (o : SMovv) : ReadsX sMovvOf 0x2A (encSMovv o) o := by
  obtain ⟨ty, d, a, lane⟩ := o
  cases lane with
  | reg r => exact .encX (by simp [sMovvOf])
  | imm l => exact .encX (by simp [sMovvOf])

/-! ### Vector integer (R120-R132) -/

theorem reads_vOp2 {o : VOp2} (h : noLit o.b = true) (op : Nat) : ReadsX vOp2Of op (encVOp2 op o) o := by
  obtain ⟨ty, d, a, b⟩ := o
  have henc : encVOp2 op ⟨ty, d, a, b⟩ = encX op (vMod (intCode ty) (vsrcFields b).1) 0 d.val a.val (vsrcFields b).2.1 0
      (vsrcFields b).2.2 := by
    cases b with
    | lit v => cases h
    | _ => rfl
  rw [henc]
  exact .encX (by simp [vOp2Of, vsrcOf_vsrcFields h])

theorem reads_vOp2_lit {op : Nat} (hop : op ≠ 0x0A) {d a : Fin 256} (hd : d.val < 64) (ha : a.val < 64) (v : DWord) :
    ReadsCL clVOp2 op (encVOp2 op ⟨.i32, d, a, .lit v⟩) ⟨.i32, d, a, .lit v⟩ :=
  .encCL hop ⟨hd, ha⟩ (by simp [clVOp2])

theorem reads_vOp3 (op : Nat) (o : VOp3) : ReadsX vOp3Of op (encVOp3 op o) o :=
  .encX (by simp [vOp3Of]) (by simpa using vsrcLit_lt o.b)

theorem reads_vDot {o : VDot} (h : okVDot o = true) : ReadsX vDotOf 0x48 (encVDot o) o := by
  obtain ⟨u, mix, sat, d, a, b, c⟩ := o
  have hb : noLit b = true := h
  obtain ⟨hmix, hsat, hlt⟩ := flag_above (bit_lt mix) sat
  have hty : (if u = true then 4 else 0) = intCode (if u = true then .n8 else .i8) := by cases u <;> rfl
  simp only [encVDot, hty]
  refine .encX ?_ ⟨by simp, hlt.trans (by decide), by simp⟩
  cases u <;> simp [vDotOf, hb, hmix, hsat, hlt]

theorem reads_vCmp {o : VCmp} (h : okVCmp o = true) : ReadsX vCmpOf 0x42 (encVCmp o) o := by
  have hb : noLit o.b = true := (Bool.and_eq_true_iff.1 h).2
  exact .encX (by simp [vCmpOf, hb])

theorem reads_vSel {o : VSel} (h : okVSel o = true) : ReadsX vSelOf 0x43 (encVSel o) o :=
  .encX (by simp [vSelOf, vsrcOf_vsrcFields h])

theorem reads_vOp1 (op : Nat) (o : VOp1) : ReadsX vOp1Of op (encVOp1 op o) o := .encX (by simp [vOp1Of])

theorem reads_vBf (op : Nat) (o : VBf) : ReadsX vBfOf op (encVBf op o) o := by
  obtain ⟨ty, d, a, fld⟩ := o
  cases fld with
  | imm p w => exact .encX (by simp [vBfOf, vFieldOf])
  | regV b c => exact .encX (by simp [vBfOf, vFieldOf])
  | regS b c => exact .encX (by simp [vBfOf, vFieldOf])

theorem reads_vMovs (o : VMovs) : ReadsX vMovsOf 0x49 (encVMovs o) o := .encX (by simp [vMovsOf])

theorem reads_vLi (ty : IntTy) (d : Fin 256) (v : Word) : ReadsX vLiOf 0x4A (encVLi ⟨ty, d, .imm v⟩) ⟨ty, d, .imm v⟩ :=
  .encX (by simp [vLiOf])

theorem reads_vLi_lit {d : Fin 256} (hd : d.val < 64) (v : DWord) :
    ReadsCL clVLi 0x4A (encVLi ⟨.i32, d, .lit v⟩) ⟨.i32, d, .lit v⟩ :=
  .encCL (by decide) (by simp [hd]) (by simp [clVLi])

theorem reads_vIdx {o : VIdx} (h : okVIdx o = true) : ReadsX vIdxOf 0x4B (encVIdx o) o := by
  have hb : noLit o.b = true := (Bool.and_eq_true_iff.1 h).1
  exact .encX (by simp [vIdxOf, hb])

/-! ### Vector float (R139) -/

theorem reads_fOp2 {o : FOp2} (h : noLit o.b = true) (op : Nat) : ReadsX fOp2Of op (encFOp2 op o) o := by
  obtain ⟨ty, rnd, d, a, b⟩ := o
  have henc : encFOp2 op ⟨ty, rnd, d, a, b⟩ = encX op (vMod (fltCode ty) (vsrcFields b).1) (fSub' 0 (rndCode rnd)) d.val a.val
      (vsrcFields b).2.1 0 (vsrcFields b).2.2 := by
    cases b with
    | lit v => cases h
    | _ => rfl
  rw [henc]
  exact .encX (by simp [fOp2Of, vsrcOf_vsrcFields h])

theorem reads_fOp2_lit {op : Nat} (hop : op ≠ 0x0A) {d a : Fin 256} (hd : d.val < 64) (ha : a.val < 64) (v : DWord) :
    ReadsCL clFOp2 op (encFOp2 op ⟨.f32, .rne, d, a, .lit v⟩) ⟨.f32, .rne, d, a, .lit v⟩ :=
  .encCL hop ⟨hd, ha⟩ (by simp [clFOp2])

theorem reads_fMa (o : FMa) : ReadsX fMaOf 0x63 (encFMa o) o := by
  obtain ⟨hadd, hprod, hlt⟩ := flag_above (bit_lt o.negAdd) o.negProd
  rw [Nat.add_comm] at hadd hprod hlt
  have hfn : 2 * bit o.negProd + bit o.negAdd < 16 := hlt.trans (by decide)
  exact .encX (by simp [fMaOf, hadd, hprod, hlt]) (by simpa [hfn] using vsrcLit_lt o.b)

theorem reads_fMinMax {o : FMinMax} (h : noLit o.b = true) (op : Nat) : ReadsX fMinMaxOf op (encFMinMax op o) o := by
  obtain ⟨ty, nan, d, a, b⟩ := o
  have henc : encFMinMax op ⟨ty, nan, d, a, b⟩ = encX op (vMod (fltCode ty) (vsrcFields b).1) (fSub' (bit nan) 0) d.val a.val
      (vsrcFields b).2.1 0 (vsrcFields b).2.2 := by
    cases b with
    | lit v => cases h
    | _ => rfl
  rw [henc]
  exact .encX (by simp [fMinMaxOf, vsrcOf_vsrcFields h])

theorem reads_fMinMax_lit {op : Nat} (hop : op ≠ 0x0A) {d a : Fin 256} (hd : d.val < 64) (ha : a.val < 64) (v : DWord) :
    ReadsCL clFMinMax op (encFMinMax op ⟨.f32, false, d, a, .lit v⟩) ⟨.f32, false, d, a, .lit v⟩ :=
  .encCL hop ⟨hd, ha⟩ (by simp [clFMinMax])

theorem reads_fAddMin (op : Nat) (o : FAddMin) : ReadsX fAddMinOf op (encFAddMin op o) o :=
  .encX (by simp [fAddMinOf]) (by simpa using vsrcLit_lt o.b)

theorem reads_fCmp {o : FCmp} (h : okFCmp o = true) : ReadsX fCmpOf 0x66 (encFCmp o) o := by
  simp only [okFCmp, Bool.and_eq_true] at h
  obtain ⟨⟨⟨-, hb⟩, -⟩, -⟩ := h
  exact .encX (by simp [fCmpOf, hb])

theorem reads_fOp1 (op : Nat) (o : FOp1) : ReadsX fOp1Of op (encFOp1 op o) o := .encX (by simp [fOp1Of])

theorem reads_fRnd (o : FRnd) : ReadsX fRndOf 0x73 (encFRnd o) o := .encX (by simp [fRndOf])

theorem reads_fClass (o : FClass) : ReadsX fClassOf 0x67 (encFClass o) o := .encX (by simp [fClassOf])

end Sys2Proof.Proofs
end

section
/-! SUPPORT. The same of the conversions, lanes, memory, ordering, tiles, engines and the system. -/

namespace Sys2Proof.Proofs

open Sys2Proof.Machine Sys2Proof.Claims

-- one lemma after the other: so many short ones at once take more threads than a small machine has memory for
set_option Elab.async false

/-! ### Conversions (R93)

The types that the forms admit are those whose codes give them back. -/

theorem tyOk_of_isB8 {t : Ty} (h : isB8 t = true) : tyOk t = true := by
  cases t with
  | b8 f => exact h
  | _ => rfl

theorem tyOk_of_byteTy {t : Ty} (h : byteTy t = true) : tyOk t = true := by
  cases t with
  | b8 f => exact h
  | _ => rfl

theorem tyOk_of_mmaTy {t : Ty} (h : mmaTy t = true) : tyOk t = true := by
  cases t with
  | b8 f => exact h
  | _ => rfl

theorem tyOk_of_narrowFlt {t : Ty} (h : narrowFlt t = true) : tyOk t = true := by
  cases t with
  | b8 f => cases h
  | _ => rfl

theorem tyOk_of_xredTy {t : Ty} (h : xredTy t = true) : tyOk t = true := by
  cases t with
  | b8 f => cases h
  | _ => rfl

/-- A type of VQNT's and VDQNT's 8-bit elements. -/
theorem tyOk_of_eight {t : Ty} (h : (isB8 t || t == .int .i8) = true) : tyOk t = true := by
  rcases Bool.or_eq_true_iff.1 h with h | h
  · exact tyOk_of_isB8 h
  · rw [beq_iff_eq.1 h]; rfl

theorem reads_cvt {o : Cvt} (h : okCvt o = true) : ReadsX cvtOf 0x80 (encCvt o) o := by
  simp only [okCvt, Bool.and_eq_true] at h
  obtain ⟨⟨⟨⟨⟨⟨hd, hs⟩, -⟩, -⟩, -⟩, -⟩, -⟩ := h
  exact .encX (by simp [cvtOf, hd, hs])

theorem reads_qnt {o : Qnt} (h : okQnt o = true) : ReadsX qntOf 0x81 (encQnt o) o := by
  obtain ⟨hd, hs⟩ := Bool.and_eq_true_iff.1 h
  exact .encX (by simp [qntOf, tyOk_of_eight hd, tyOk_of_narrowFlt hs])

theorem reads_dqnt {o : Dqnt} (h : okDqnt o = true) : ReadsX dqntOf 0x82 (encDqnt o) o := by
  obtain ⟨hs, hd⟩ := Bool.and_eq_true_iff.1 h
  exact .encX (by simp [dqntOf, tyOk_of_eight hs, tyOk_of_narrowFlt hd])

/-- VPACK names two sources more exactly where its elements have 8 bits. -/
theorem okPack_types {o : Pack} (h : okPack o = true) :
    tyOk o.dty = true ∧ tyOk o.sty = true ∧ (o.more.isSome = true ↔ tyBytes o.dty = 1) := by
  obtain ⟨dty, sty, rnd, sat, d, a, b, more⟩ := o
  unfold okPack at h
  split at h <;> simp_all [tyOk, tyBytes, intWidth]

/-- VPACK of 8-bit elements: C and the low byte of the third word are read. -/
theorem packOf_mk {op g gn : Nat} {dty sty : Ty} (hd : tyOk dty = true) (hs : tyOk sty = true) (hb : tyBytes dty = 1)
    (rnd : Rnd) (sat : Bool) (d a b c e : Fin 256) :
    packOf ⟨op, g, gn, cvMod (tyCode dty) (rndCode rnd) sat, tyCode sty, d, a, b, c, mkImm 0 0 e.val, none⟩ =
      some ⟨dty, sty, rnd, sat, d, a, b, some (c, e)⟩ := by
  simp [packOf, hd, hs, hb]

theorem reads_pack {o : Pack} (h : okPack o = true) : ReadsX packOf 0x83 (encPack o) o := by
  obtain ⟨hd, hs, hmore⟩ := okPack_types h
  obtain ⟨dty, sty, rnd, sat, d, a, b, more⟩ := o
  cases more with
  | none =>
    have hb : tyBytes dty ≠ 1 := by simpa using hmore
    exact .encX (by simp [packOf, hd, hs, hb])
  | some ce =>
    have hb : tyBytes dty = 1 := by simpa using hmore
    obtain ⟨c, e⟩ := ce
    have himm : mkImm 0 0 e.val = e.val := by simp [mkImm]
    have hread := packOf_mk (op := 0x83) (g := 15) (gn := 0) hd hs hb rnd sat d a b c e
    rw [himm] at hread
    exact .encX hread

theorem okUnpk_types {o : Unpk} (h : okUnpk o = true) : tyOk o.dty = true ∧ tyOk o.sty = true := by
  obtain ⟨dty, sty, d, a⟩ := o
  unfold okUnpk unpackCount at h
  split at h <;> simp_all [tyOk]

theorem reads_unpk {o : Unpk} (h : okUnpk o = true) : ReadsX unpkOf 0x84 (encUnpk o) o := by
  obtain ⟨hd, hs⟩ := okUnpk_types h
  have hlow : cvMod (tyCode o.dty) 0 false % 16 = 0 := by simp [cvMod]
  exact .encX (by simp [unpkOf, hd, hs, hlow])

/-! ### Lanes, predicates and reductions (R168-R189) -/

/-- MOD of the lane forms: a type, BSRC and two low bits. -/
theorem lane_fields {k bs s : Nat} (hk : k < 64) (hb : bs < 4) (hs : s < 4) : let m := k * 16 + bs * 4 + s
    m < 1024 ∧ m / 16 = k ∧ m / 4 % 4 = bs ∧ m % 4 = s := by omega

theorem reads_shfl {o : Shfl} (h : okShfl o = true) : ReadsX shflOf' 0x90 (encShfl o) o := by
  have hb : noLit o.b = true := h
  obtain ⟨hmod, hty, hbs, hseg⟩ := lane_fields (wideCode_lt (by omega) o.wide) (vsrc_bsrc_lt o.b) o.seg.isLt
  obtain ⟨hmode, hfill, hsub⟩ := flag_above (shflCode_lt (le_refl 4) o.mode) o.c.isSome
  exact .encX (by simp [shflOf', vBsrc, hty, hbs, hseg, hmode, hfill, hsub, hb]) ⟨hmod, hsub.trans (by decide), by simp⟩

/-- VBCST: SUB [0] for the first lane, else the lane in B or in the third word (R171). -/
theorem reads_bcst (o : Bcst) : ReadsX bcstOf 0x91 (encBcst o) o := by
  obtain ⟨wide, d, a, src, c⟩ := o
  have hwide := wideCode_lt (n := 64) (by omega) wide
  cases src with
  | first =>
    obtain ⟨hmod, hty, hbs, hlow⟩ := lane_fields hwide (bs := 0) (s := 0) (by omega) (by omega)
    obtain ⟨hfirst, hfill, hsub⟩ := flag_above (k := 1) (m := 2) (by omega) c.isSome
    exact .encX (by simp_all [bcstOf, vBsrc]) ⟨hmod, hsub.trans (by decide), by simp⟩
  | reg r =>
    obtain ⟨hmod, hty, hbs, hlow⟩ := lane_fields hwide (bs := 1) (s := 0) (by omega) (by omega)
    obtain ⟨hfirst, hfill, hsub⟩ := flag_above (k := 0) (m := 2) (by omega) c.isSome
    exact .encX (by simp_all [bcstOf, vBsrc]) ⟨hmod, hsub.trans (by decide), by simp [Fin.val_lt_of_le]⟩
  | imm l =>
    obtain ⟨hmod, hty, hbs, hlow⟩ := lane_fields hwide (bs := 2) (s := 0) (by omega) (by omega)
    obtain ⟨hfirst, hfill, hsub⟩ := flag_above (k := 0) (m := 2) (by omega) c.isSome
    exact .encX (by simp_all [bcstOf, vBsrc]) ⟨hmod, hsub.trans (by decide), by simp [Fin.val_lt_of_le]⟩

theorem reads_vote (o : Vote) : ReadsX voteOf 0x92 (encVote o) o := by
  obtain ⟨dst, a, neg⟩ := o
  cases dst <;> cases neg <;> exact .encX (by simp [voteOf])

theorem wideMod_lt (w : Bool) : wideCode w * 16 < 1024 := by
  have := wideCode_lt (n := 8) (by omega) w
  omega

theorem reads_match (o : Match) : ReadsX matchOf 0x93 (encMatch o) o := .encX (by simp [matchOf]) (by simp [wideMod_lt])

theorem reads_scan (o : Scan) : ReadsX scanOf 0x94 (encScan o) o := by
  obtain ⟨hmod, hty, hbs, hseg⟩ := lane_fields (bs := 0) (redTyCode_lt (by omega) o.ty) (by omega) o.seg.isLt
  rw [Nat.zero_mul, Nat.add_zero] at hmod hty hbs hseg
  obtain ⟨hop, hexcl, hsub⟩ := flag_above (redOpCode_lt (n := 8) (by omega) o.op) o.excl
  exact .encX (by simp [scanOf, vBsrc, hty, hbs, hseg, hop, hexcl, hsub]) ⟨hmod, hsub.trans (by decide), by simp⟩

/-- VRED's scope, in the two low bits of MOD, the slot in E and the count in AUX (R183). -/
theorem reads_red (o : Red) : ReadsX redOf 0x95 (encRed o) o := by
  obtain ⟨op, ty, a, scope⟩ := o
  have hmod {s : Nat} (hs : s < 4) := lane_fields (bs := 0) (redTyCode_lt (by omega) ty) (by omega) hs
  simp only [Nat.zero_mul, Nat.add_zero] at hmod
  cases scope with
  | band =>
    obtain ⟨hlt, hty, hbs, hs⟩ := hmod (s := 0) (by omega)
    exact .encX (by simp only [redOf, redScopeOf, vBsrc, hty, hbs, hs]; simp) ⟨hlt, by simp⟩
  | team s n =>
    obtain ⟨hlt, hty, hbs, hs⟩ := hmod (s := 1) (by omega)
    exact .encX (by simp only [redOf, redScopeOf, vBsrc, hty, hbs, hs]; simp [Fin.val_lt_of_le])
      ⟨hlt, by simp [Fin.val_lt_of_le]⟩
  | cluster s n =>
    obtain ⟨hlt, hty, hbs, hs⟩ := hmod (s := 2) (by omega)
    exact .encX (by simp only [redOf, redScopeOf, vBsrc, hty, hbs, hs]; simp [Fin.val_lt_of_le])
      ⟨hlt, by simp [Fin.val_lt_of_le]⟩

/-- SRDW: the count in B or in the third word, by BSRC 1 or 2 (R190). -/
theorem reads_rdw (o : Rdw) : ReadsX rdwOf 0x96 (encRdw o) o := by
  obtain ⟨d, what⟩ := o
  rcases what with - | ⟨n, - | p⟩
  · exact .encX (by simp [rdwOf, vBsrc])
  · cases n <;> exact .encX (by simp [rdwOf, vBsrc, regImmFields, regImmOf]) (by simp [regImmFields, Fin.val_lt_of_le])
  · cases n <;> exact .encX (by simp [rdwOf, vBsrc, regImmFields, regImmOf]) (by simp [regImmFields, Fin.val_lt_of_le])

theorem reads_pOp2 (op : Nat) (o : POp2) : ReadsX pOp2Of op (encPOp2 op o) o := by
  obtain ⟨ha, hb, hlt⟩ := flag_above (bit_lt o.na) o.nb
  exact .encX (by simp [pOp2Of, ha, hb, hlt]) ⟨by simp, hlt.trans (by decide), by simp [Fin.val_lt_of_le]⟩

theorem reads_pOp1 (o : POp1) : ReadsX pOp1Of 0x9A (encPOp1 o) o := .encX (by simp [pOp1Of])

theorem reads_ptov (o : Ptov) : ReadsX ptovOf 0x9B (encPtov o) o := .encX (by simp [ptovOf])

theorem reads_vtop (o : Vtop) : ReadsX vtopOf 0x9C (encVtop o) o :=
  .encX (by simp [vtopOf]) (by simp [wideMod_lt, Fin.val_lt_of_le])

theorem reads_ppopc (o : Ppopc) : ReadsX ppopcOf 0x9D (encPpopc o) o := .encX (by simp [ppopcOf])

/-! ### Memory (R249) -/

theorem reads_ld (o : Ld) : ReadsX ldOf 0xA0 (encLd o) o :=
  .encX (by simp [ldOf])

theorem reads_st (o : St) : ReadsX stOf 0xA1 (encSt o) o :=
  .encX (by simp [stOf])

theorem reads_sld (o : Sld) : ReadsX sldOf 0xA2 (encSld o) o :=
  .encX (by simp [sldOf])

theorem reads_sst (o : Sst) : ReadsX sstOf 0xA3 (encSst o) o :=
  .encX (by simp [sstOf])

theorem reads_ldn (o : Ldn) : ReadsX ldnOf 0xA4 (encLdn o) o := .encX (by simp [ldnOf])

theorem reads_pref (o : Pref) : ReadsX prefOf 0xA5 (encPref o) o := .encX (by simp [prefOf])

theorem reads_clean (op : Nat) (o : Clean) : ReadsX cleanOf op (encClean op o) o := by
  obtain ⟨sc, what⟩ := o
  cases what with
  | lines m => exact .encX (by simp [cleanOf])
  | range a off c => exact .encX (by simp [cleanOf, mVar, mIx, mSp])
  | all => exact .encX (by simp [cleanOf, mVar, mIx, mSp])

theorem reads_pin (o : Pin) : ReadsX pinOf 0xA8 (encPin o) o := .encX (by simp [pinOf])

theorem reads_pageOp (op : Nat) (o : PageOp) : ReadsX pageOpOf op (encPageOp op o) o :=
  .encX (by simp [pageOpOf])

theorem reads_pgreq (o : Pgreq) : ReadsX pgreqOf 0xAB (encPgreq o) o := .encX (by simp [pgreqOf])

theorem reads_mapw (o : Mapw) : ReadsX mapwOf 0xAC (encMapw o) o := by
  obtain ⟨m, c, - | ⟨a, off⟩⟩ := o
  · exact .encX (by simp [mapwOf])
  · exact .encX (by simp [mapwOf])

theorem reads_mapOp (op : Nat) (o : MapOp) : ReadsX mapOpOf op (encMapOp op o) o :=
  .encX (by simp [mapOpOf])

/-! ### Ordering (R277-R286) -/

theorem reads_fence (o : Fence) : ReadsX fenceOf' 0xAF (encFence o) o := .encX (by simp [fenceOf'])

theorem reads_kbind (o : Kbind) : ReadsX kbindOf 0xB0 (encKbind o) o := .encX (by simp [kbindOf])

theorem reads_kfree (o : Kfree) : ReadsX kfreeOf 0xB1 (encKfree o) o := .encX (by simp [kfreeOf])

theorem reads_kacq (o : Kacq) : ReadsX kacqOf 0xB2 (encKacq o) o := by
  obtain ⟨sc, d, k, - | c⟩ := o
  · exact .encX (by simp [kacqOf, scOnly])
  · exact .encX (by simp [kacqOf, scOnly])

theorem reads_krel (o : Krel) : ReadsX krelOf 0xB3 (encKrel o) o := by
  obtain ⟨sc, k, - | d⟩ := o
  · exact .encX (by simp [krelOf, scOnly])
  · exact .encX (by simp [krelOf, scOnly])

theorem reads_latg (o : Latg) : ReadsX latgOf 0xB4 (encLatg o) o := .encX (by simp [latgOf])

theorem reads_latw (o : Latw) : ReadsX latwOf 0xB5 (encLatw o) o := .encX (by simp [latwOf])

/-! ### Atomics and tumblers (R297, R302) -/

theorem reads_atom (o : Atom) : ReadsX atomOf 0xB6 (encAtom o) o := .encX (by simp [atomOf])

theorem reads_atomf (o : Atomf) : ReadsX atomfOf 0xB7 (encAtomf o) o := .encX (by simp [atomfOf])

theorem reads_cas (o : Cas) : ReadsX casOf 0xB8 (encCas o) o := .encX (by simp [casOf])

theorem reads_cas2 (o : Cas2) : ReadsX cas2Of 0xB9 (encCas2 o) o := .encX (by simp [cas2Of])

theorem reads_tinit (o : Tinit) : ReadsX tinitOf 0xBA (encTinit o) o := by
  obtain ⟨t, v⟩ := o
  cases v <;> exact .encX (by simp [tinitOf])

theorem reads_tarv (o : Tarv) : ReadsX tarvOf 0xBB (encTarv o) o := by
  obtain ⟨cluster, t, - | n⟩ := o
  · exact .encX (by simp [tarvOf])
  · exact .encX (by simp [tarvOf])

theorem reads_twait (o : Twait) : ReadsX twaitOf 0xBC (encTwait o) o := by
  obtain ⟨cluster, t, - | p⟩ := o
  · exact .encX (by simp [twaitOf])
  · exact .encX (by simp [twaitOf])

theorem reads_ttest (o : Ttest) : ReadsX ttestOf 0xBD (encTtest o) o := by
  obtain ⟨t, ⟨p, - | q⟩ | s⟩ := o
  · exact .encX (by simp [ttestOf])
  · exact .encX (by simp [ttestOf])
  · exact .encX (by simp [ttestOf])

/-! ### Matrix and tile (R319-R335) -/

section
variable {op g gn mod d a b c imm : Nat} {lit : Option Nat}

@[simp] theorem mTy_mk {t : Ty} (h : tyOk t = true) : mTy ⟨op, g, gn, mod, tyCode t, d, a, b, c, imm, lit⟩ = some t :=
  tyOfCode_tyCode h

end

theorem okMma_ty {o : Mma} (h : okMma o = true) : tyOk o.ty = true := by
  simp only [okMma, Bool.and_eq_true] at h
  exact tyOk_of_mmaTy h.1.1.1

/-- AUX of a block-scaled form: its two columns. -/
theorem scale_columns (p q : Byte) : p.toNat + q.toNat * 256 < 65536 ∧ (p.toNat + q.toNat * 256) % 256 = p.toNat ∧
    (p.toNat + q.toNat * 256) / 256 = q.toNat := by omega

theorem reads_mma {o : Mma} (h : okMma o = true) : ReadsX mmaOf 0xC0 (encMma o) o := by
  have hty := okMma_ty h
  obtain ⟨ty, d, a, b, c, scales⟩ := o
  rcases scales with - | ⟨p, q⟩
  · obtain ⟨ha, hb, hda, hdb, hs, hl⟩ := mmaMod_fields a b (sc := 0) (low := 0) (by omega) (by omega)
    exact .encX (by simp [mmaOf, hty, ha, hb, hda, hdb, hs, hl]) (by simp [mmaMod_lt, Fin.val_lt_of_le])
  · obtain ⟨ha, hb, hda, hdb, hs, hl⟩ := mmaMod_fields a b (sc := 1) (low := 0) (by omega) (by omega)
    obtain ⟨hlt, hp, hq⟩ := scale_columns p q
    exact .encX (by simp [mmaOf, hty, ha, hb, hda, hdb, hs, hl, hp, hq]) (by simp [mmaMod_lt, Fin.val_lt_of_le, hlt])

theorem reads_mmas {o : Mmas} (h : okMmas o = true) : ReadsX mmasOf 0xC1 (encMmas o) o := by
  have hty : tyOk o.ty = true := tyOk_of_byteTy (Bool.and_eq_true_iff.1 h).1
  obtain ⟨ha, hb, hda, hdb, hs, hl⟩ := mmaMod_fields o.a o.b (sc := 0) (by omega) (sparCode_lt (n := 32) (by omega) o.pat)
  exact .encX (by simp [mmasOf, hty, ha, hb, hda, hdb, hs, hl]) (by simp [mmaMod_lt, Fin.val_lt_of_le])

theorem reads_tileG (o : TileG) : ReadsX tileGOf 0xC2 (encTileG o) o := .encX (by simp [tileGOf])

theorem reads_tfill (o : Tfill) : ReadsX tfillOf 0xC3 (encTfill o) o := by
  obtain ⟨ty, d, v⟩ := o
  cases v <;> exact .encX (by simp [tfillOf])

theorem okTident_ty {o : Tident} (h : okTident o = true) : tyOk o.ty = true := by
  obtain ⟨ty, dst⟩ := o
  cases dst with
  | tile d =>
    cases ty with
    | b8 f => simp [okTident] at h
    | _ => rfl
  | stash a => exact tyOk_of_mmaTy h

theorem reads_tident {o : Tident} (h : okTident o = true) : ReadsX tidentOf 0xC4 (encTident o) o := by
  have hty := okTident_ty h
  obtain ⟨ty, dst⟩ := o
  cases dst <;> exact .encX (by simp [tidentOf, hty])

theorem reads_tld (o : Tld) : ReadsX tldOf 0xC5 (encTld o) o := by
  obtain ⟨w, t, d, a, pack⟩ := o
  cases t <;> exact .encX (by simp [tldOf])

theorem reads_tst (o : Tst) : ReadsX tstOf 0xC6 (encTst o) o := by
  obtain ⟨w, t, a, pack, c⟩ := o
  cases t <;> exact .encX (by simp [tstOf])

theorem reads_tmovv (o : Tmov) : ReadsX (fun x => tmovOf x.d x.a x) 0xC7 (encTmovv o) o :=
  .encX (by simp [tmovOf, Fin.val_lt_of_le])

theorem reads_tmovt (o : Tmov) : ReadsX (fun x => tmovOf x.a x.d x) 0xC8 (encTmovt o) o :=
  .encX (by simp [tmovOf, Fin.val_lt_of_le])

theorem reads_tcls (o : Tcls) : ReadsX tclsOf 0xC9 (encTcls o) o := by
  obtain ⟨d, src⟩ := o
  cases src <;> exact .encX (by simp [tclsOf])

theorem reads_scld (o : Scld) : ReadsX scldOf 0xCA (encScld o) o := by
  have hcol : (o.col.val + o.count.val * 65536) % 65536 = o.col.val := by omega
  have hcount : (o.col.val + o.count.val * 65536) / 65536 = o.count.val := by omega
  have hlt : o.col.val + o.count.val * 65536 < 4294967296 := by omega
  exact .encX (by simp [scldOf, hcol, hcount]) (by simp [Fin.val_lt_of_le, hlt])

theorem reads_ttopk (o : Ttopk) : ReadsX ttopkOf 0xCB (encTtopk o) o := by
  obtain ⟨int, d, a, c, k⟩ := o
  cases int <;> exact .encX (by simp [ttopkOf])

theorem reads_tacc (o : Tacc) : ReadsX taccOf 0xCC (encTacc o) o := .encX (by simp [taccOf])

/-- MOD of TSCL: the source and RND. -/
theorem tscl_mod (r : Rnd) {k : Nat} (hk : k < 3) :
    k * 8 + rndCode r < 1024 ∧ (k * 8 + rndCode r) % 8 = rndCode r ∧ (k * 8 + rndCode r) / 8 = k := by
  have := rndCode_lt (n := 8) (by omega) r
  omega

theorem reads_tscl (o : Tscl) : ReadsX tsclOf 0xCD (encTscl o) o := by
  obtain ⟨rnd, d, a, src⟩ := o
  cases src with
  | sca b =>
    obtain ⟨hlt, hrnd, hsrc⟩ := tscl_mod rnd (k := 0) (by omega)
    exact .encX (by simp only [tsclOf, hrnd, hsrc]; simp) ⟨hlt, by simp [Fin.val_lt_of_le]⟩
  | imm v =>
    obtain ⟨hlt, hrnd, hsrc⟩ := tscl_mod rnd (k := 1) (by omega)
    exact .encX (by simp only [tsclOf, hrnd, hsrc]; simp) ⟨hlt, by simp [Fin.val_lt_of_le]⟩
  | vec b =>
    obtain ⟨hlt, hrnd, hsrc⟩ := tscl_mod rnd (k := 2) (by omega)
    exact .encX (by simp only [tsclOf, hrnd, hsrc]; simp) ⟨hlt, by simp [Fin.val_lt_of_le]⟩

/-- MOD of TCVT: the source type, SAT and RND. -/
theorem tcvt_mod (int sat : Bool) (r : Rnd) : let m := bit int * 16 + bit sat * 8 + rndCode r
    m < 32 ∧ m / 16 = bit int ∧ m / 8 % 2 = bit sat ∧ m % 8 = rndCode r := by
  have := rndCode_lt (n := 8) (by omega) r
  have := bit_lt int
  have := bit_lt sat
  omega

theorem reads_tcvt {o : Tcvt} (h : okTcvt o = true) : ReadsX tcvtOf 0xCE (encTcvt o) o := by
  obtain ⟨dty, int, rnd, sat, d, a⟩ := o
  have hty : tyOk dty = true := by
    cases dty with
    | b8 f => exact h
    | _ => rfl
  obtain ⟨hlt, hint, hsat, hrnd⟩ := tcvt_mod int sat rnd
  exact .encX (by simp [tcvtOf, hty, hlt, hint, hsat, hrnd]) ⟨hlt.trans (by decide), by simp [Fin.val_lt_of_le]⟩

/-! ### Engines (R363, R386, R393) -/

theorem reads_td (op : Nat) (o : Td) : ReadsX tdOf op (encTd op o) o := .encX (by simp [tdOf])

theorem reads_tdinv (o : Tdinv) : ReadsX tdinvOf 0xE2 (encTdinv o) o := .encX (by simp [tdinvOf])

theorem reads_cpost (o : Cpost) : ReadsX cpostOf 0xD8 (encCpost o) o := by
  obtain ⟨chn, store, d, desc, a, b, c, e, - | t⟩ := o
  · exact .encX (by cases store <;> simp [cpostOf, Fin.val_lt_of_le]) (by cases store <;> simp [Fin.val_lt_of_le])
  · exact .encX (by cases store <;> simp [cpostOf, Fin.val_lt_of_le]) (by cases store <;> simp [Fin.val_lt_of_le])

theorem reads_gpost (op : Nat) (o : Gpost) : ReadsX gpostOf op (encGpost op o) o :=
  .encX (by simp [gpostOf, Fin.val_lt_of_le])

theorem reads_vremap (o : Vremap) : ReadsX vremapOf 0xDB (encVremap o) o := by
  obtain ⟨chn, mode⟩ := o
  cases mode <;> exact .encX (by simp [vremapOf])

theorem reads_cwait (o : Cwait) : ReadsX cwaitOf 0xDC (encCwait o) o :=
  .encX (by simp [cwaitOf])

theorem reads_cseq (o : Cseq) : ReadsX cseqOf 0xDD (encCseq o) o :=
  .encX (by simp [cseqOf])

theorem reads_cqry (o : Cqry) : ReadsX cqryOf 0xDE (encCqry o) o :=
  .encX (by simp [cqryOf])

theorem reads_mpost (o : Mpost) : ReadsX mpostOf 0xDF (encMpost o) o :=
  .encX (by simp [mpostOf])

/-- A form that SUB tells from others of its opcode. -/
def onSub {α : Type} (k : Nat) (read : XFields → Option α) (x : XFields) : Option α := if x.sub = k then read x else none

theorem onSub_eq_some {α : Type} {k : Nat} {read : XFields → Option α} {x : XFields} {o : α} :
    onSub k read x = some o ↔ x.sub = k ∧ read x = some o := by simp [onSub]

theorem reads_xred {o : Xred} (h : okXred o = true) : ReadsX (onSub 0 xredOf) 0xE3 (encXred o) o := by
  have hty := tyOfCode_tyCode (tyOk_of_xredTy h)
  have htyLt := tyCode_lt (le_refl 64) o.ty
  have hopLt := redOpCode_lt (le_refl 6) o.op
  have hlt : tyCode o.ty + redOpCode o.op * 64 < 65536 := by omega
  have hlo : (tyCode o.ty + redOpCode o.op * 64) % 64 = tyCode o.ty := by omega
  have hhi : (tyCode o.ty + redOpCode o.op * 64) / 64 = redOpCode o.op := by omega
  exact .encX (by simp [onSub, xredOf, Fin.val_lt_of_le, hlo, hhi, hty]) (by simp [Fin.val_lt_of_le, hlt])

theorem reads_xgth {o : Xgth} (h : okXgth o = true) : ReadsX (onSub 1 xgthOf) 0xE3 (encXgth o) o :=
  .encX (by simp [onSub, xgthOf, Fin.val_lt_of_le, tyOfCode_tyCode h])

theorem reads_xsr {sub : Nat} (hsub : sub < 128) (o : Xsr) : ReadsX (onSub sub xsrOf) 0xE3 (encXsr sub o) o :=
  .encX (by simp [onSub, xsrOf, Fin.val_lt_of_le]) (by simp [Fin.val_lt_of_le, hsub])

/-- MOD of EMBAG: the channel and the flag of weights. -/
theorem embag_mod (n : Fin 4) (w : Bool) : let m := n.val * 256 + bit w
    m < 1024 ∧ m / 256 = n.val ∧ m % 256 = bit w := by
  have := bit_lt w
  omega

theorem reads_embag (o : Embag) : ReadsX embagOf 0xE4 (encEmbag o) o := by
  obtain ⟨hlt, hchn, hwgt⟩ := embag_mod o.chn o.wgt
  exact .encX (by simp [embagOf, Fin.val_lt_of_le, hchn, hwgt]) ⟨hlt, by simp [Fin.val_lt_of_le]⟩

theorem reads_emstat (o : Emstat) : ReadsX emstatOf 0xE5 (encEmstat o) o :=
  .encX (by simp [emstatOf])

/-! ### Sequencer, system and debug (R404, R429, R431, R462) -/

theorem reads_launch (o : Launch) : ReadsX launchOf 0xE8 (encLaunch o) o := by
  obtain ⟨d, a, par, spl⟩ := o
  cases par <;> cases spl <;> exact .encX (by simp [launchOf, optReg])

theorem reads_lwait (o : Lwait) : ReadsX lwaitOf 0xE9 (encLwait o) o := .encX (by simp [lwaitOf])

theorem reads_lsig (o : Lsig) : ReadsX (onSub 0 lsigOf) 0xEA (encLsig o) o :=
  .encX (by simp [onSub, lsigOf])

theorem reads_lsigHinge (o : LsigHinge) : ReadsX (onSub 1 lsigHingeOf) 0xEA (encLsigHinge o) o :=
  .encX (by simp [onSub, lsigHingeOf])

theorem reads_lsigHost (o : LsigHost) : ReadsX (onSub 2 lsigHostOf) 0xEA (encLsigHost o) o :=
  .encX (by simp [onSub, lsigHostOf])

theorem reads_levw (o : Levw) : ReadsX levwOf 0xEB (encLevw o) o := .encX (by simp [levwOf])

theorem reads_ctxsw (o : Ctxsw) : ReadsX ctxswOf 0xEC (encCtxsw o) o := .encX (by simp [ctxswOf])

theorem reads_trap (o : Trap) : ReadsX trapOf 0xF0 (encTrap o) o := .encX (by simp [trapOf])

theorem reads_mfs (o : Msr) : ReadsX (fun x => msrOf x.d x.a x) 0xF2 (encMfs o) o :=
  .encX (by simp [msrOf])

theorem reads_mts (o : Msr) : ReadsX (fun x => msrOf x.a x.d x) 0xF3 (encMts o) o :=
  .encX (by simp [msrOf])

theorem reads_snap (o : Snap) : ReadsX snapOf' 0xF6 (encSnap o) o := .encX (by simp [snapOf'])

theorem reads_mark (o : Mark) : ReadsX markOf 0xF7 (encMark o) o := by
  obtain ⟨v⟩ := o
  cases v <;> exact .encX (by simp [markOf])

theorem reads_esamp (o : Esamp) : ReadsX esampOf 0xF8 (encEsamp o) o := .encX (by simp [esampOf])

end Sys2Proof.Proofs
end

section
/-! SUPPORT. Every instruction parses back from the fields of its encoding, and so decodes from its words and its bytes (R42-R59). -/

namespace Sys2Proof.Proofs

open Sys2Proof.Machine Sys2Proof.Claims

-- one lemma after the other: so many short ones at once take more threads than a small machine has memory for
set_option Elab.async false

/-! ### From operands to instructions -/

/-- The encoding of an instruction is fields that parse back to it. -/
def Encoded (i : Instr) : Prop := ∃ f, fieldsOfInstr i = some f ∧ Parses f i

/-- What `fieldsOfInstr` does with the fields of an encoding: opcode 0 of a compact form is none. -/
def assignedFields (f : Fields) : Option Fields :=
  match f with
  | .c c => if c.op = 0 then none else some f
  | .x _ => some f

theorem assignedFields_eq {f : Fields} (h : opUnassigned (opOf f) = false) : assignedFields f = some f := by
  cases f with
  | c c =>
    have : c.op ≠ 0 := by rintro h0; simp [opOf, h0, opUnassigned] at h
    simp [assignedFields, this]
  | x x => rfl

theorem eq_of_assignedFields {f f' : Fields} (h : assignedFields f = some f') : f = f' := by
  cases f with
  | c c =>
    unfold assignedFields at h
    split at h
    next c' hc =>
      split at h
      · cases h
      · exact Option.some.inj h
    next => exact Option.some.inj h
  | x x => exact Option.some.inj h

section
variable {α : Type} {op : Nat} {f : Fields} {o : α} {mk : α → Instr}

theorem Encoded.x {read : XFields → Option α} (h : ReadsX read op f o)
    (henc : fieldsOfInstr (mk o) = assignedFields f := by rfl) (hop : opUnassigned op = false := by rfl)
    (hparse : ∀ x : XFields, parseX { x with op := op } = (read { x with op := op }).map mk := by exact fun _ => rfl) :
    Encoded (mk o) := by
  obtain ⟨x, rfl, rfl, hfits, hread⟩ := h
  exact ⟨_, henc.trans (assignedFields_eq hop), hfits, hop, (hparse x).trans (congrArg _ hread), by rintro _ ⟨⟩⟩

/-- The forms that SUB tells apart. -/
theorem Encoded.sub {read : XFields → Option α} {k : Nat} (h : ReadsX (onSub k read) op f o)
    (henc : fieldsOfInstr (mk o) = assignedFields f := by rfl) (hop : opUnassigned op = false := by rfl)
    (hparse : ∀ x : XFields, parseX { x with op := op, sub := k } = (read { x with op := op, sub := k }).map mk := by
      exact fun _ => rfl) : Encoded (mk o) := by
  obtain ⟨x, rfl, rfl, hfits, hread⟩ := h
  obtain ⟨rfl, hsub⟩ := onSub_eq_some.1 hread
  exact ⟨_, henc.trans (assignedFields_eq hop), hfits, hop, (hparse x).trans (congrArg _ hsub), by rintro _ ⟨⟩⟩

theorem Encoded.c {read : CFields → Option α} (h : ReadsC read op f o)
    (henc : fieldsOfInstr (mk o) = assignedFields f := by rfl) (hop : opUnassigned op = false := by rfl)
    (hcompact : compactForm (mk o) = true := by rfl)
    (hparse : ∀ c : CFields, parseC { c with op := op } = (read { c with op := op }).map mk := by exact fun _ => rfl) :
    Encoded (mk o) := by
  obtain ⟨c, rfl, rfl, hlit, hfits, hread⟩ := h
  refine ⟨_, henc.trans (assignedFields_eq hop), hfits, hop, ?_, fun _ _ => hcompact⟩
  rw [parse, hlit]
  exact (hparse c).trans (congrArg _ hread)

/-- The forms without operands. -/
theorem Encoded.bare {i : Instr} (henc : fieldsOfInstr i = assignedFields (encC op 0 0 0) := by rfl)
    (hop : opUnassigned op = false := by rfl) (hcompact : compactForm i = true := by rfl)
    (hparse : ∀ c : CFields, parseC { c with op := op } = bareC { c with op := op } i := by exact fun _ => rfl) :
    Encoded i :=
  .c (mk := id) (reads_bareC op i) henc hop hcompact fun c => (hparse c).trans Option.map_id_apply.symm

theorem Encoded.cl {read : CFields → Nat → Option α} (h : ReadsCL read op f o)
    (henc : fieldsOfInstr (mk o) = assignedFields f := by rfl) (hop : opUnassigned op = false := by rfl)
    (hcompact : compactForm (mk o) = true := by rfl)
    (hparse : ∀ (c : CFields) l, parseCL { c with op := op } l = (read { c with op := op } l).map mk := by
      exact fun _ _ => rfl) :
    Encoded (mk o) := by
  obtain ⟨c, l, rfl, rfl, hlit, hfits, hread⟩ := h
  refine ⟨_, henc.trans (assignedFields_eq hop), hfits, hop, ?_, fun _ _ => hcompact⟩
  rw [parse, hlit]
  exact (hparse c l).trans (congrArg _ hread)

/-- Operands with a form of each kind: XL or X, and CL where the B operand is a literal (R54). -/
theorem Encoded.xOrCL {read : XFields → Option α} {readCL : CFields → Nat → Option α} {lit : Bool}
    (h : op ≠ 0x0A → ReadsX read op f o ∨ lit = true ∧ ReadsCL readCL op f o)
    (henc : fieldsOfInstr (mk o) = assignedFields f := by rfl) (hswch : op ≠ 0x0A := by decide) (hop : opUnassigned op = false := by rfl)
    (hcompact : compactForm (mk o) = lit := by rfl)
    (hparse : ∀ x : XFields, parseX { x with op := op } = (read { x with op := op }).map mk := by exact fun _ => rfl)
    (hparseCL : ∀ (c : CFields) l, parseCL { c with op := op } l = (readCL { c with op := op } l).map mk := by
      exact fun _ _ => rfl) : Encoded (mk o) := by
  rcases h hswch with h | ⟨hlit, h⟩
  · exact .x h henc hop hparse
  · exact .cl h henc hop (hcompact.trans hlit) hparseCL

end

/-! ### The classes with a compact form for their literals (R54) -/

section
variable {op : Nat}

theorem reads_sOp2_any {o : SOp2} (h : okSOp2 o = true) (hop : op ≠ 0x0A) :
    ReadsX sOp2Of op (encSOp2 op o) o ∨ ssrcLit o.b = true ∧ ReadsCL clSOp2 op (encSOp2 op o) o := by
  obtain ⟨ty, d, a, b⟩ := o
  cases b with
  | lit v =>
    obtain rfl : ty = .i64 := beq_iff_eq.1 h
    exact .inr ⟨rfl, reads_sOp2_lit hop d a v⟩
  | _ => exact .inl (reads_sOp2 rfl op)

theorem reads_sLi_any {o : SLi} (h : okSLi o = true) :
    ReadsX sLiOf 0x23 (encSLi o) o ∨ immLit o.v = true ∧ ReadsCL clSLi 0x23 (encSLi o) o := by
  obtain ⟨ty, d, v⟩ := o
  cases v with
  | lit v =>
    obtain rfl : ty = .i64 := beq_iff_eq.1 h
    exact .inr ⟨rfl, reads_sLi_lit d v⟩
  | imm v => exact .inl (reads_sLi ty d v)

/-- A literal of a CL form of the vector classes comes with the class's default type and registers below 64. -/
theorem vLitOk_lit {dflt : Bool} {d a : Fin 256} {v : DWord} (h : vLitOk dflt d a (.lit v) = true) :
    dflt = true ∧ d.val < 64 ∧ a.val < 64 := by
  simpa [vLitOk, and_assoc] using h

theorem reads_vOp2_any {o : VOp2} (h : okVOp2 o = true) (hop : op ≠ 0x0A) :
    ReadsX vOp2Of op (encVOp2 op o) o ∨ vsrcIsLit o.b = true ∧ ReadsCL clVOp2 op (encVOp2 op o) o := by
  obtain ⟨ty, d, a, b⟩ := o
  cases b with
  | lit v =>
    obtain ⟨hty, hd, ha⟩ := vLitOk_lit h
    obtain rfl : ty = .i32 := beq_iff_eq.1 hty
    exact .inr ⟨rfl, reads_vOp2_lit hop hd ha v⟩
  | _ => exact .inl (reads_vOp2 rfl op)

theorem reads_vLi_any {o : VLi} (h : okVLi o = true) :
    ReadsX vLiOf 0x4A (encVLi o) o ∨ immLit o.v = true ∧ ReadsCL clVLi 0x4A (encVLi o) o := by
  obtain ⟨ty, d, v⟩ := o
  cases v with
  | lit v =>
    obtain ⟨hty, hd⟩ := Bool.and_eq_true_iff.1 h
    obtain rfl : ty = .i32 := beq_iff_eq.1 hty
    exact .inr ⟨rfl, reads_vLi_lit (of_decide_eq_true hd) v⟩
  | imm v => exact .inl (reads_vLi ty d v)

theorem reads_fOp2_any {o : FOp2} (h : okFOp2 o = true) (hop : op ≠ 0x0A) :
    ReadsX fOp2Of op (encFOp2 op o) o ∨ vsrcIsLit o.b = true ∧ ReadsCL clFOp2 op (encFOp2 op o) o := by
  obtain ⟨ty, rnd, d, a, b⟩ := o
  cases b with
  | lit v =>
    obtain ⟨-, hlit⟩ := Bool.and_eq_true_iff.1 h
    obtain ⟨hdflt, hd, ha⟩ := vLitOk_lit hlit
    obtain ⟨hty, hrnd⟩ := Bool.and_eq_true_iff.1 hdflt
    obtain rfl : ty = .f32 := beq_iff_eq.1 hty
    obtain rfl : rnd = .rne := beq_iff_eq.1 hrnd
    exact .inr ⟨rfl, reads_fOp2_lit hop hd ha v⟩
  | _ => exact .inl (reads_fOp2 rfl op)

theorem reads_fMinMax_any {o : FMinMax} (h : okFMinMax o = true) (hop : op ≠ 0x0A) :
    ReadsX fMinMaxOf op (encFMinMax op o) o ∨ vsrcIsLit o.b = true ∧ ReadsCL clFMinMax op (encFMinMax op o) o := by
  obtain ⟨ty, nan, d, a, b⟩ := o
  cases b with
  | lit v =>
    obtain ⟨-, hlit⟩ := Bool.and_eq_true_iff.1 h
    obtain ⟨hdflt, hd, ha⟩ := vLitOk_lit hlit
    obtain ⟨hty, hnan⟩ := Bool.and_eq_true_iff.1 hdflt
    obtain rfl : ty = .f32 := beq_iff_eq.1 hty
    obtain rfl : nan = false := by simpa using hnan
    exact .inr ⟨rfl, reads_fMinMax_lit hop hd ha v⟩
  | _ => exact .inl (reads_fMinMax rfl op)

end

/-! ### Every instruction -/

/-- The encoding of an instruction whose fields hold no reserved value is fields that parse back to it; an event has none. -/
theorem encoded_of_fieldsOk {stream : Bool} {i : Instr} (hev : i.isEvent = false) (h : fieldsOk stream i = true) :
    Encoded i := by
  cases i with
  | nopC | joinC | exitC | yieldC | tretC | haltC => exact .bare
  | saddC o | ssubC o | smulC o | smulhC o | sdivC o | sremC o | sandC o | sorC o | sxorC o | sandnC o | sshlC o | sshrC o
  | ssarC o | srotC o | sminC o | smaxC o | vaddC o | vsubC o | vmulC o | vmulhC o | vandC o | vorC o | vxorC o | vandnC o
  | vshlC o | vshrC o | vsarC o | vminC o | vmaxC o | vaddsC o | vsubsC o | vfaddC o | vfsubC o | vfmulC o | vfminC o
  | vfmaxC o | vfdivC o => exact .c (reads_c3 _ o)
  | smovC o | spopcC o | sclzC o | sctzC o | vabsC o | vpopcC o | vclzC o | vmovsC o | vfclassC o | vfrcpC o | vfrsqC o
  | vfsqrtC o | vfexp2C o | vflog2C o | vfsinC o | vfcosC o | vftanhC o => exact .c (reads_c2 _ o)
  | vidxC o | trapC o | bkptC o | esampC o => exact .c (reads_c1 _ o)
  | retC o => exact .c (reads_cRet _ o)
  | pandC o | porC o | pxorC o => exact .c (reads_cp3 _ o)
  | pnotC o => exact .c (reads_cp2 _ o)
  | ptovC o | ppopcC o => exact .c (reads_crp _ o)
  | vtopC o => exact .c (reads_cpr _ o)
  | tzeroC o => exact .c (reads_cTile _ o)
  | bra o => exact .x (reads_bra o)
  | brx o => exact .x (reads_brx o)
  | call o => exact .x (reads_call o)
  | callx o => exact .x (reads_callx o)
  | brd o => exact .x (reads_brd o)
  | brk o => exact .x (reads_brk o)
  | swch o => exact .cl (reads_swch o)
  | loop o => exact .x (reads_loop o)
  | sadd o | ssub o | smul o | smulh o | sdiv o | srem o | sand o | sor o | sxor o | sandn o | sshl o | sshr o | ssar o
  | srot o | smin o | smax o => exact .xOrCL (reads_sOp2_any h)
  | scmp o => exact .x (reads_sCmp o)
  | ssel o => exact .x (reads_sSel o)
  | smov o | spopc o | sclz o | sctz o => exact .x (reads_sOp1 _ o)
  | sli o => exact .xOrCL fun _ => reads_sLi_any h
  | slea o => exact .x (reads_sLea o)
  | sbfx o | sbfi o => exact .x (reads_sBf _ o)
  | smovv o => exact .x (reads_sMovv o)
  | vadd o | vsub o | vmul o | vmulh o | vand o | vor o | vxor o | vandn o | vmin o | vmax o | vadds o | vsubs o | vshl o
  | vshr o | vsar o => exact .xOrCL (reads_vOp2_any h)
  | vmad o | vmadw o => exact .x (reads_vOp3 _ o)
  | vdot4 o => exact .x (reads_vDot h)
  | vcmp o => exact .x (reads_vCmp h)
  | vsel o => exact .x (reads_vSel h)
  | vabs o | vpopc o | vclz o => exact .x (reads_vOp1 _ o)
  | vbfx o | vbfi o => exact .x (reads_vBf _ o)
  | vmovs o => exact .x (reads_vMovs o)
  | vli o => exact .xOrCL fun _ => reads_vLi_any h
  | vidx o => exact .x (reads_vIdx h)
  | vfadd o | vfsub o | vfmul o | vfdiv o => exact .xOrCL (reads_fOp2_any h)
  | vfma o => exact .x (reads_fMa o)
  | vfmin o | vfmax o => exact .xOrCL (reads_fMinMax_any h)
  | vaddmin o | vaddmax o => exact .x (reads_fAddMin _ o)
  | vfcmp o => exact .x (reads_fCmp h)
  | vfclass o => exact .x (reads_fClass o)
  | vfrcp o | vfrsq o | vfsqrt o | vfexp2 o | vflog2 o | vfsin o | vfcos o | vftanh o => exact .x (reads_fOp1 _ o)
  | vfrnd o => exact .x (reads_fRnd o)
  | vcvt o => exact .x (reads_cvt h)
  | vqnt o => exact .x (reads_qnt h)
  | vdqnt o => exact .x (reads_dqnt h)
  | vpack o => exact .x (reads_pack h)
  | vunpk o => exact .x (reads_unpk h)
  | vshfl o => exact .x (reads_shfl h)
  | vbcst o => exact .x (reads_bcst o)
  | vvote o => exact .x (reads_vote o)
  | vmatch o => exact .x (reads_match o)
  | vscan o => exact .x (reads_scan o)
  | vred o => exact .x (reads_red o)
  | srdw o => exact .x (reads_rdw o)
  | pand o | por o | pxor o => exact .x (reads_pOp2 _ o)
  | pnot o => exact .x (reads_pOp1 o)
  | ptov o => exact .x (reads_ptov o)
  | vtop o => exact .x (reads_vtop o)
  | ppopc o => exact .x (reads_ppopc o)
  | ld o => exact .x (reads_ld o)
  | st o => exact .x (reads_st o)
  | sld o => exact .x (reads_sld o)
  | sst o => exact .x (reads_sst o)
  | ldn o => exact .x (reads_ldn o)
  | pref o => exact .x (reads_pref o)
  | clean o | inval o => exact .x (reads_clean _ o)
  | pin o => exact .x (reads_pin o)
  | unpin o | discard o => exact .x (reads_pageOp _ o)
  | pgreq o => exact .x (reads_pgreq o)
  | mapw o => exact .x (reads_mapw o)
  | mapc o | mapf o => exact .x (reads_mapOp _ o)
  | fence o => exact .x (reads_fence o)
  | kbind o => exact .x (reads_kbind o)
  | kfree o => exact .x (reads_kfree o)
  | kacq o => exact .x (reads_kacq o)
  | krel o => exact .x (reads_krel o)
  | latg o => exact .x (reads_latg o)
  | latw o => exact .x (reads_latw o)
  | atom o => exact .x (reads_atom o)
  | atomf o => exact .x (reads_atomf o)
  | cas o => exact .x (reads_cas o)
  | cas2 o => exact .x (reads_cas2 o)
  | tinit o => exact .x (reads_tinit o)
  | tarv o => exact .x (reads_tarv o)
  | twait o => exact .x (reads_twait o)
  | ttest o => exact .x (reads_ttest o)
  | mma o => exact .x (reads_mma h)
  | mmas o => exact .x (reads_mmas h)
  | tzero o => exact .x (reads_tileG o)
  | tfill o => exact .x (reads_tfill o)
  | tident o => exact .x (reads_tident h)
  | tld o => exact .x (reads_tld o)
  | tst o => exact .x (reads_tst o)
  | tmovv o => exact .x (reads_tmovv o)
  | tmovt o => exact .x (reads_tmovt o)
  | tcls o => exact .x (reads_tcls o)
  | scld o => exact .x (reads_scld o)
  | ttopk o => exact .x (reads_ttopk o)
  | tacc o => exact .x (reads_tacc o)
  | tscl o => exact .x (reads_tscl o)
  | tcvt o => exact .x (reads_tcvt h)
  | tdset o | tdget o => exact .x (reads_td _ o)
  | tdinv o => exact .x (reads_tdinv o)
  | cpost o => exact .x (reads_cpost o)
  | gpost o | spost o => exact .x (reads_gpost _ o)
  | vremap o => exact .x (reads_vremap o)
  | cwait o => exact .x (reads_cwait o)
  | cseq o => exact .x (reads_cseq o)
  | cqry o => exact .x (reads_cqry o)
  | mpost o => exact .x (reads_mpost o)
  | xred o => exact .sub (reads_xred h)
  | xgth o => exact .sub (reads_xgth h)
  | xsnd o => exact .sub (reads_xsr (sub := 2) (by decide) o)
  | xrcv o => exact .sub (reads_xsr (sub := 3) (by decide) o)
  | embag o => exact .x (reads_embag o)
  | emstat o => exact .x (reads_emstat o)
  | launch o => exact .x (reads_launch o)
  | lwait o => exact .x (reads_lwait o)
  | lsig o => exact .sub (reads_lsig o)
  | lsigHinge o => exact .sub (reads_lsigHinge o)
  | lsigHost o => exact .sub (reads_lsigHost o)
  | levw o => exact .x (reads_levw o)
  | ctxsw o => exact .x (reads_ctxsw o)
  | trap o => exact .x (reads_trap o)
  | mfs o => exact .x (reads_mfs o)
  | mts o => exact .x (reads_mts o)
  | snap o => exact .x (reads_snap o)
  | mark o => exact .x (reads_mark o)
  | esamp o => exact .x (reads_esamp o)
  | _ => cases hev

theorem encoded_of_wellFormed {stream : Bool} {i : Instr} (h : i.wellFormed stream = true) : Encoded i := by
  simp only [Instr.wellFormed, Bool.and_eq_true, Bool.not_eq_true'] at h
  obtain ⟨⟨hev, hfields⟩, -⟩ := h
  exact encoded_of_fieldsOk hev hfields

end Sys2Proof.Proofs
end

section
/-! SUPPORT. The statements about encodings (R42-R59): words written out, decode of encode, and the bytes that a fetch brings. -/

namespace Sys2Proof.Proofs

open Sys2Proof.Machine Sys2Proof.Claims

/-! ### Decode of encode -/

theorem encode_eq {g : Guard} {i : Instr} {f : Fields} (h : fieldsOfInstr i = some f) :
    encode { guard := g, instr := i } = some (wordsOf (withGuard g f)) := by
  simp only [encode, h, Option.map_some]

/-- The opcode of the words decides which processors run them (R40, R55). -/
theorem runsOn_wordsOf {stream : Bool} {f : Fields} (hop : opUnassigned (opOf f) = false) (g : Guard) :
    RunsOn stream (wordsOf (withGuard g f)) ↔ OpRuns stream (opOf f) := by
  have hword : (wordsOf (withGuard g f)).headD 0 / 4 % 256 = opOf f := by
    rw [wordsOf_op (by rw [opOf_withGuard]; exact lt_of_assigned hop), opOf_withGuard]
  simp only [RunsOn, OpRuns, hword]

/-- Settles O2: the fields of every encoding parse back to the instruction, the fields come back from their words and the words
from their bytes, and the checks of R59 are those that make the instruction well formed. -/
theorem decodeOfEncode : Obligations.DecodeOfEncode := by
  intro stream profileN ⟨g, i⟩ hd hruns hN
  obtain ⟨hg, hwf⟩ := Bool.and_eq_true_iff.1 hd
  obtain ⟨f, henc, hparses⟩ := encoded_of_wellFormed hwf
  have hrun := (runsOn_wordsOf hparses.assigned g).1 (hruns _ (encode_eq henc))
  exact ⟨_, encode_eq henc, hparses.decode hg hrun hwf hN⟩

/-! ### The two-operand scalar instructions (R107) -/

/-- What a two-operand scalar instruction is to the encoder and to the checks of R59: its opcode is one of R107's, and its fields
hold no reserved value where `ok`. -/
structure ScalarForm (i : Instr) (fields : Nat → Fields) (ok : Bool) : Prop where
  opcode : ∃ op, 0x10 ≤ op ∧ op ≤ 0x1F ∧ fieldsOfInstr i = assignedFields (fields op)
  event : i.isEvent = false
  fieldsOk : ∀ stream, fieldsOk stream i = ok
  pairsOk : ∀ stream, pairsOk stream i = true
  f64 : namesF64 i = false

theorem scalarCompact_form (o : C3) : ∀ p ∈ scalarCompact, ScalarForm (p.1 o) (encC3 · o) true := by
  simp only [scalarCompact, List.forall_mem_cons]
  and_intros
  on_goal 17 => exact List.forall_mem_nil _
  all_goals exact ⟨⟨_, by decide, by decide, rfl⟩, rfl, fun _ => rfl, fun _ => rfl, rfl⟩

theorem scalarFull_form (o : SOp2) : ∀ p ∈ scalarFull, ScalarForm (p.1 o) (encSOp2 · o) (okSOp2 o) := by
  simp only [scalarFull, List.forall_mem_cons]
  and_intros
  on_goal 17 => exact List.forall_mem_nil _
  all_goals exact ⟨⟨_, by decide, by decide, rfl⟩, rfl, fun _ => rfl, fun _ => rfl, rfl⟩

/-- The opcodes of R107 run on a core and on a stream (R40). -/
theorem opRuns_scalar {op : Nat} (hlo : 0x10 ≤ op) (hhi : op ≤ 0x1F) (stream : Bool) : OpRuns stream op := by
  cases stream
  · have : ¬ 0xE8 ≤ op := by omega
    simp [OpRuns, streamOnly, this]
  · have : op ≤ 0x2F := by omega
    simp [OpRuns, opOnStream, hlo, this]

theorem ScalarForm.decode {i : Instr} {fields : Nat → Fields} (h : ScalarForm i fields true)
    (hop : ∀ op, opOf (fields op) = op) {g : Guard} (hg : guardFits g i = true) :
    ∃ op, encode { guard := g, instr := i } = some (wordsOf (withGuard g (fields op))) ∧
      ∀ stream profileN, decodeWords stream profileN (wordsOf (withGuard g (fields op))) = .ok { guard := g, instr := i } := by
  obtain ⟨op, hlo, hhi, henc⟩ := h.opcode
  obtain ⟨f, hf, hparses⟩ := encoded_of_fieldsOk h.event (h.fieldsOk false)
  obtain rfl : fields op = f := eq_of_assignedFields (henc ▸ hf)
  refine ⟨op, encode_eq hf, fun stream profileN => ?_⟩
  have hwf : i.wellFormed stream = true := by simp [Instr.wellFormed, h.event, h.fieldsOk, h.pairsOk]
  exact (hparses.decode hg ((hop op).symm ▸ opRuns_scalar hlo hhi stream) hwf fun _ => h.f64).2.1

theorem opOf_encSOp2 (o : SOp2) (op : Nat) : opOf (encSOp2 op o) = op := by
  obtain ⟨ty, d, a, b⟩ := o
  cases b <;> rfl

/-- A full form of the class has three words, with a literal or without (R44, R45). -/
theorem words_encSOp2 (g : Guard) (o : SOp2) (op : Nat) : (wordsOf (withGuard g (encSOp2 op o))).length = 3 := by
  obtain ⟨ty, d, a, b⟩ := o
  cases b <;> rfl

/-- Settles O3: decode of encode, for the opcodes that every processor runs, with the words counted. -/
theorem scalarEncoding : Obligations.ScalarEncoding := by
  intro stream profileN g
  refine ⟨fun p hp o hg => ?_, fun p hp o hok hg => ?_⟩
  · obtain ⟨op, henc, hdec⟩ := (scalarCompact_form o p hp).decode (fun _ => rfl) hg
    exact ⟨_, henc, hdec stream profileN⟩
  · obtain ⟨op, henc, hdec⟩ := (hok ▸ scalarFull_form o p hp).decode (opOf_encSOp2 o) hg
    exact ⟨_, henc, words_encSOp2 g o op, hdec stream profileN⟩

/-! ### The bytes of an instruction (R42, R58, R83) -/

theorem length_readBytes (d : Byte) (m : AList Byte) (a n : Nat) : (readBytes d m a n).length = n := by
  induction n generalizing a with
  | zero => rfl
  | succ n ih => simp only [readBytes, List.length_cons, ih]

theorem four_le_instrLength (w : Nat) : 4 ≤ instrLength w := by
  unfold instrLength lengthOf
  split_ifs <;> omega

section
variable {s t : State} {id ctx at_ addr n : Nat} {code : AList Byte}

theorem fetchPage_error {e : Exc} {va : Nat} (h : access s id ctx va .fetch = (.error e, t)) :
    fetchPage s id ctx at_ va = (.error (some { e with addr := at_ }), t) := by
  simp only [fetchPage, h]

theorem fetchPage_bytes {a va : Nat} (h : access s id ctx va .fetch = (.ok (.bytes a), t)) :
    fetchPage s id ctx at_ va = (.ok a, t) := by
  simp only [fetchPage, h]

theorem fetchBytes_outside (h : Config.vaLimit < addr + n) :
    fetchBytes s id ctx code at_ addr n = (.error (some { cause := cAddress, addr := at_ }), s) := by
  rw [fetchBytes, if_pos h]

/-- A fault of the first page is the fetch's, and names the first word. -/
theorem fetchBytes_error {e : Exc} (hin : addr + n ≤ Config.vaLimit) (h : access s id ctx addr .fetch = (.error e, t)) :
    fetchBytes s id ctx code at_ addr n = (.error (some { e with addr := at_ }), t) := by
  rw [fetchBytes, if_neg (not_lt.2 hin)]
  simp only [fetchPage_error h]

/-- Bytes that lie in one page are the code's at the translated address. -/
theorem fetchBytes_in_page {a : Nat} (hin : addr + n ≤ Config.vaLimit) (hpage : addr % 65536 + n ≤ 65536)
    (h : access s id ctx addr .fetch = (.ok (.bytes a), t)) :
    fetchBytes s id ctx code at_ addr n = (.ok (readBytes 0 code a n), t) := by
  have hfirst : min n (65536 - addr % 65536) = n := by omega
  rw [fetchBytes, if_neg (not_lt.2 hin)]
  simp only [fetchPage_bytes h, hfirst, if_true]

/-- A fetch brings as many bytes as it was asked for, from one page or from two. -/
theorem length_of_fetchBytes {bs : List Byte} (h : fetchBytes s id ctx code at_ addr n = (.ok bs, t)) : bs.length = n := by
  rw [fetchBytes] at h
  split at h
  · cases h
  rcases hlow : fetchPage s id ctx at_ addr with ⟨e | a, s1⟩
  · simp [hlow] at h
  simp only [hlow] at h
  split at h
  next hone =>
    cases h
    rw [length_readBytes, hone]
  next =>
    rcases hhigh : fetchPage s1 id ctx at_ (addr + min n (65536 - addr % 65536)) with ⟨e | a', s2⟩
    · simp [hhigh] at h
    simp only [hhigh] at h
    cases h
    rw [List.length_append, length_readBytes, length_readBytes]
    omega

theorem fetchInstr_first_error {e : Option Exc} (h : fetchBytes s id ctx code addr addr 4 = (.error e, t)) :
    fetchInstr s id ctx code addr = (.error e, t) := by
  simp only [fetchInstr, fetchWord, h]

/-- After the first word, the instruction's bytes are fetched by its length. -/
theorem fetchInstr_of_first {bs : List Byte} (h : fetchBytes s id ctx code addr addr 4 = (.ok bs, t)) :
    fetchInstr s id ctx code addr =
      ((fetchBytes t id ctx code addr addr (instrLength (leNat bs))).1.map fun b => (leNat bs, b),
        (fetchBytes t id ctx code addr addr (instrLength (leNat bs))).2) := by
  simp only [fetchInstr, fetchWord, h]
  obtain ⟨r, u⟩ := fetchBytes t id ctx code addr addr (instrLength (leNat bs))
  cases r <;> rfl

/-- A fetch that brings an instruction brings as many bytes as its first word's length. -/
theorem length_of_fetchInstr {w : Nat} {bs : List Byte} (h : fetchInstr s id ctx code addr = (.ok (w, bs), t)) :
    bs.length = instrLength w := by
  rcases hfirst : fetchBytes s id ctx code addr addr 4 with ⟨e | ws, s1⟩
  · rw [fetchInstr_first_error hfirst] at h
    cases h
  rw [fetchInstr_of_first hfirst] at h
  rcases hall : fetchBytes s1 id ctx code addr addr (instrLength (leNat ws)) with ⟨e | bs', s2⟩ <;> rw [hall] at h <;> cases h
  exact length_of_fetchBytes hall

end

/-- Settles O4: the first word and the whole instruction are each fetched as bytes, and each clause is one of how those are. -/
theorem instructionBytes : Obligations.InstructionBytes := by
  intro s id ctx addr code
  refine ⟨fun w bs t => length_of_fetchInstr, fun hout => fetchInstr_first_error (fetchBytes_outside hout),
    fun e t hin hacc => by rw [fetchInstr_first_error (fetchBytes_error hin hacc)], ?_⟩
  intro a t u w hpage hin hfirst hall
  have hlen := four_le_instrLength w
  rw [fetchInstr_of_first (fetchBytes_in_page (by omega) (by omega) hfirst), fetchBytes_in_page hin hpage hall]
  rfl

/-! ### Words written out -/

/-- Settles O1: the decoder evaluated on each of the words. -/
theorem knownWords : Obligations.KnownWords := by
  refine ⟨?_, ?_, ?_, ?_, ?_, ?_, ?_, ?_⟩ <;> decide

end Sys2Proof.Proofs
end

section
/-! SUPPORT. Instructions that round (R87, R137) and the conversions (R84-R90): the mode and the random bits that a lane gets, a result
of a type as a register holds it, and one lemma for how such an instruction leaves each thread. -/

namespace Sys2Proof.Proofs

open Sys2Proof.Machine Sys2Proof.Claims

/-! ### Patterns of the integer types (R75, R76) -/

theorem intWidth_pos (ty : IntTy) : 0 < intWidth ty := by cases ty <;> decide

theorem readInt_true_eq_bmod {w : Nat} (hw : 0 < w) (x : Nat) : readInt true w x = (x : Int).bmod (2 ^ w) := by
  obtain ⟨k, rfl⟩ : ∃ k, w = k + 1 := ⟨w - 1, by omega⟩
  have hhalf : ((2 : Int) ^ (k + 1) + 1) / 2 = 2 ^ k := by rw [pow_succ]; omega
  have hcast : 2 ^ k ≤ x % 2 ^ (k + 1) ↔ ¬ ((x : Int) % 2 ^ (k + 1) < 2 ^ k) := by
    rw [not_lt]
    exact_mod_cast Iff.rfl
  simp only [readInt, Int.bmod, Bool.true_and, decide_eq_true_eq, Nat.add_sub_cancel, Nat.cast_pow, Nat.cast_ofNat, hhalf, hcast,
    Int.natCast_emod, ite_not]

/-- The model's reading of a pattern is the value of R75. -/
theorem readInt_eq_valueOf (ty : IntTy) (x : Nat) : readInt (intSigned ty) (intWidth ty) x = valueOf ty x := by
  cases hs : intSigned ty
  · simp [readInt, valueOf, hs]
  · simp [valueOf, hs, readInt_true_eq_bmod (intWidth_pos ty)]

theorem wrapNat_lt (w : Nat) (i : Int) : wrapNat w i < 2 ^ w := by
  have h := Int.emod_lt_of_pos i (show (0 : Int) < 2 ^ w by positivity)
  have h0 := Int.emod_nonneg i (show (2 : Int) ^ w ≠ 0 by positivity)
  zify [wrapNat]
  rwa [Int.toNat_of_nonneg h0]

theorem ofNat_wrapNat (w : Nat) (z : Int) : BitVec.ofNat w (wrapNat w z) = BitVec.ofInt w z := by
  apply BitVec.eq_of_toNat_eq
  rw [BitVec.toNat_ofNat, Nat.mod_eq_of_lt (wrapNat_lt w z), BitVec.toNat_ofInt]
  simp [wrapNat]

theorem setWidth_ofInt (z : Int) : (BitVec.ofInt 64 z).setWidth 32 = BitVec.ofInt 32 z := by
  apply BitVec.eq_of_toNat_eq
  simp
  omega

theorem ofInt_bmod {w v : Nat} (h : w ≤ v) (z : Int) : BitVec.ofInt w (z.bmod (2 ^ v)) = BitVec.ofInt w z := by
  apply BitVec.eq_of_toInt_eq
  rw [BitVec.toInt_ofInt, BitVec.toInt_ofInt]
  exact Int.bmod_bmod_of_dvd (pow_dvd_pow 2 h)

theorem tyBytes_int (i : IntTy) : 8 * tyBytes (.int i) = intWidth i := by cases i <;> rfl

theorem tyBits_eq_laneTy (ty : Ty) (t : Thread) (r : Nat) : tyBits ty t r = laneTy ty t r := by
  have h : 8 * tyBytes ty = 64 ↔ tyBytes ty = 8 := by omega
  simp only [tyBits, laneTy, vBits, h]

/-! ### A result of a type as a register holds it (R76) -/

/-- Bits that fit a type: below two to its width, where it is an integer type. -/
def FitsTy (ty : Ty) (bits : Nat) : Prop := ∀ i, ty = .int i → bits < 2 ^ intWidth i

theorem fitsTy_of_fmt {ty : Ty} {f : Fmt} (h : fmtOfTy ty = some f) (bits : Nat) : FitsTy ty bits := by
  rintro i rfl
  cases h

theorem extended_of_fmt {ty : Ty} {f : Fmt} (h : fmtOfTy ty = some f) (bits : Nat) : extended ty bits = BitVec.ofNat 64 bits := by
  cases ty with
  | int i => cases h
  | flt x => rfl
  | b8 x => rfl

theorem extended_zero (ty : Ty) : extended ty 0 = 0 := by
  cases ty with
  | int i => cases i <;> rfl
  | flt x => rfl
  | b8 x => rfl

/-- A widened integer, in a register of 32 bits or a pair, is the integer that the pattern stands for. -/
theorem ofNat_widen {i : IntTy} {W bits : Nat} (h : bits < 2 ^ intWidth i) (hnarrow : intWidth i < 32 → W = 32)
    (hwide : 32 ≤ intWidth i → W ≤ intWidth i) : BitVec.ofNat W (widen (.int i) bits) =
      BitVec.ofInt W (if intSigned i then (bits : Int).bmod (2 ^ intWidth i) else bits % 2 ^ intWidth i) := by
  cases hs : intSigned i
  · have hmod : (bits : Int) % 2 ^ intWidth i = bits := Int.emod_eq_of_lt (by omega) (by exact_mod_cast h)
    simp [widen, hs, hmod]
  · by_cases hw : intWidth i < 32
    · obtain rfl := hnarrow hw
      simp only [widen, hs, hw, decide_true, Bool.and_self, if_true, ofNat_wrapNat, readInt_true_eq_bmod (intWidth_pos i)]
    · simp only [widen, hw, hs, decide_false, Bool.false_and, Bool.false_eq_true, if_false, if_true,
        ofInt_bmod (hwide (by omega)), BitVec.ofInt_natCast]

/-- Widening a result gives the register that the type says: a pair the whole, one register its low half. -/
theorem widen_eq_extended {ty : Ty} {bits : Nat} (h : FitsTy ty bits) :
    (8 * tyBytes ty = 64 → BitVec.ofNat 64 (widen ty bits) = extended ty bits) ∧
      (8 * tyBytes ty ≠ 64 → BitVec.ofNat 32 (widen ty bits) = (extended ty bits).setWidth 32) := by
  cases ty with
  | int i =>
    rw [extended, asReg, setWidth_ofInt, tyBytes_int]
    have hsizes : intWidth i = 64 ∨ intWidth i ≤ 32 := by cases i <;> decide
    refine ⟨fun hw => ofNat_widen (h i rfl) ?_ ?_, fun hw => ofNat_widen (h i rfl) ?_ ?_⟩ <;> omega
  | flt x => exact ⟨fun _ => rfl, fun _ => by simp [widen, extended, BitVec.setWidth_ofNat_of_le]⟩
  | b8 x => exact ⟨fun _ => rfl, fun _ => by simp [widen, extended, BitVec.setWidth_ofNat_of_le]⟩

theorem putTy_pair {ty : Ty} (hw : 8 * tyBytes ty = 64) (t : Thread) (d : Nat) (r : Nat × Flags) :
    putTy ty t d r = raiseFlags (wrV64 t d (BitVec.ofNat 64 (widen ty r.1))) r.2 := by
  simp only [putTy, wrVFlt, hw, if_true]

theorem putTy_one {ty : Ty} (hw : 8 * tyBytes ty ≠ 64) (t : Thread) (d : Nat) (r : Nat × Flags) :
    putTy ty t d r = raiseFlags (wrV t d (BitVec.ofNat 32 (widen ty r.1))) r.2 := by
  simp only [putTy, wrVFlt, hw, if_false]

/-- A result of a type in a register, with its conditions, in a thread that has gone on. -/
theorem putsF_putTy {ty : Ty} {r : Nat × Flags} (h : FitsTy ty r.1) (pc : DWord) (t : Thread) (d : Nat) :
    PutsF pc d (8 * tyBytes ty) (extended ty r.1) r.2 t (moved (putTy ty t d r) pc) := by
  obtain ⟨hpair, hone⟩ := widen_eq_extended h
  by_cases hw : 8 * tyBytes ty = 64
  · rw [putTy_pair hw, hpair hw]
    refine ⟨rfl, ?_, fun q hq hq' => rdV_wrV64_ne hq (hq' hw) ..⟩
    rw [if_pos hw]
    exact rdV64_wrV64 ..
  · rw [putTy_one hw, hone hw]
    refine ⟨rfl, ?_, fun q hq _ => rdV_wrV_ne hq ..⟩
    rw [if_neg hw]
    exact rdV_wrV ..

/-! ### Conversions of one element (R86, R88) -/

theorem roundToInteger_lt (x : Val) (t : IntTy) (m : Mode) (sat : Bool) (sr : Nat) :
    (roundToInteger x t m sat sr).1 < 2 ^ intWidth t := by
  cases x with
  | nan sig => simp [roundToInteger]
  | inf neg => cases sat <;> simp [roundToInteger, wrapNat_lt]
  | fin neg k e rest =>
    simp only [roundToInteger, apply_ite Prod.fst]
    split_ifs <;> exact wrapNat_lt _ _

theorem convertOne_eq_converted (dty sty : Ty) (m : Mode) (sat : Bool) (sr bits : Nat) :
    convertOne dty sty m sat sr bits = converted dty sty m sat sr bits := by
  cases dty with
  | int i =>
    cases sty with
    | int k => rw [convertOne, readInt_eq_valueOf]; rfl
    | flt x => rfl
    | b8 x => rfl
  | flt f => cases sty <;> rfl
  | b8 f => cases sty <;> rfl

theorem fitsTy_converted (dty sty : Ty) (m : Mode) (sat : Bool) (sr bits : Nat) :
    FitsTy dty (converted dty sty m sat sr bits).1 := by
  rintro i rfl
  cases sty with
  | int k => exact wrapNat_lt _ _
  | flt x => exact roundToInteger_lt ..
  | b8 x => exact roundToInteger_lt ..

/-! ### The mode and the random bits of a group (R87, R137) -/

theorem modeOf_eq_roundingMode (b : Band) (rnd : Rnd) : modeOf b.rm rnd = roundingMode b rnd := by
  cases rnd with
  | dyn =>
    simp only [modeOf, modeOfRm, roundingMode]
    generalize b.rm = rm
    revert rm
    decide
  | rne | rtz | rup | rdn | sr => rfl

theorem ofNat_srAdvance (v : DWord) :
    BitVec.ofNat 64 (srAdvance v.toNat) = v * 0x5851F42D4C957F2D + 0x14057B7EF767814F := by
  apply BitVec.eq_of_toNat_eq
  rw [srAdvance, BitVec.toNat_ofNat, BitVec.toNat_add, BitVec.toNat_mul, BitVec.ofNat_eq_ofNat, BitVec.ofNat_eq_ofNat,
    BitVec.toNat_ofNat, BitVec.toNat_ofNat, Nat.mod_mod, Nat.mod_add_mod]

/-- The group with its rounding state as the instruction leaves it. -/
def advanced (g : Grp) (rnd : Rnd) : Grp := { g with band := { g.band with srstate := srAfter g rnd } }

theorem advanced_of_idle {g : Grp} (h : g.live = []) (rnd : Rnd) : advanced g rnd = g := by
  have hsame : srAfter g rnd = g.band.srstate := by simp [srAfter, h]
  rw [advanced, hsame]

theorem srStep_eq_advanced {g : Grp} (h : g.live ≠ []) (rnd : Rnd) :
    srStep g.band (roundingMode g.band rnd) = (advanced g rnd).band := by
  by_cases hm : roundingMode g.band rnd = .sr
  · have hnext : srAfter g rnd = BitVec.ofNat 64 (srAdvance g.band.srstate.toNat) := by
      rw [ofNat_srAdvance, srAfter, if_pos ⟨hm, h⟩]
    rw [srStep, if_pos hm, advanced, hnext]
  · have hsame : srAfter g rnd = g.band.srstate := by rw [srAfter, if_neg fun hc => hm hc.1]
    rw [srStep, if_neg hm, advanced, hsame]

theorem srOf_advanced (g : Grp) (rnd : Rnd) (l j : Nat) : srOf (advanced g rnd).band l j = randomBits g rnd l j := by
  rw [srOf, srBits, randomBits, Nat.shiftRight_eq_div_pow, Nat.shiftLeft_eq]
  rfl

/-! ### How an instruction that rounds acts -/

/-- A change of the band that leaves the threads alone leaves the group as it is. -/
theorem grpOf_setBand {s : State} {g : Grp} (hg : grpOf s = some g) {b : Band} (hb : b.threads = g.band.threads) :
    grpOf (setBand s g.key b) = some { g with band := b } := by
  unfold grpOf at hg ⊢
  split at hg
  next core slot lanes addr len word guard hcur =>
    split at hg
    next b0 hb0 =>
      cases hg
      have hthread : ∀ l, threadOf b l = threadOf b0 l := fun l => by rw [threadOf, threadOf, hb]
      have hcur' : (setBand s (bandKey core slot) b).cur = s.cur := rfl
      simp only [hcur', hcur, bandOf_setBand, hthread]
    next => cases hg
  next => cases hg

theorem onlyBand_trans {s t u : State} {k : Nat} (h : OnlyBand s t k) (h' : OnlyBand t u k) : OnlyBand s u k where
  rest := by rw [h'.rest, h.rest]
  bands j hj := (h'.bands j hj).trans (h.bands j hj)
  bytes a := (h'.bytes a).trans (h.bytes a)

/-- An instruction that rounds acts per thread in the state with the rounding state advanced. -/
theorem fltOp_eq_vecOp {s : State} {g : Grp} (hg : grpOf s = some g) {regs : List Nat} (hr : ∀ r ∈ regs, r < g.band.n)
    (rnd : Rnd) (f : Grp → Mode → Nat → Thread → Thread) :
    ∃ u, grpOf u = some (advanced g rnd) ∧ OnlyBand s u g.key ∧
      fltOp s regs rnd f = vecOp u regs fun g i t => f g (roundingMode g.band rnd) i t := by
  simp only [fltOp, hg, rangeFault_none hr, modeOf_eq_roundingMode, Option.isSome_none, Bool.or_false]
  by_cases hl : g.live = []
  · exact ⟨s, by rw [advanced_of_idle hl, hg], ⟨rfl, fun _ _ => rfl, fun _ => rfl⟩, by simp [hl]⟩
  · refine ⟨setBand s g.key (advanced g rnd).band, grpOf_setBand hg rfl, onlyBand_setBand .., ?_⟩
    rw [if_neg (by simpa using hl), srStep_eq_advanced hl]

section
variable {i : Instr} {s : State} {g : Grp} (hg : grpOf s = some g) {P : Nat → Thread → Thread → Prop} {regs : List Nat}
include hg

/-- An instruction that rounds, whose registers the band has, leaves each thread with a true guard as its part says. -/
theorem eachRounding_of_fltOp {rnd : Rnd} {f : Grp → Mode → Nat → Thread → Thread} (hi : exec i s = fltOp s regs rnd f)
    (hr : ∀ r ∈ regs, r < g.band.n)
    (hP : ∀ l t, P l t (moved (f (advanced g rnd) (roundingMode g.band rnd) l t) g.next)) :
    EachRounding i s g (srAfter g rnd) P := by
  obtain ⟨u, hu, hsu, hop⟩ := fltOp_eq_vecOp hg hr rnd f
  obtain ⟨t, b', hnext, honly, hband, hb', hby, hlive⟩ := vecOp_ok hu hr fun g i t => f g (roundingMode g.band rnd) i t
  refine ⟨t, b', hi.trans (hop.trans hnext), onlyBand_trans hsu honly, hband, hb', ⟨hby.size, hby.outside, hby.idle⟩,
    fun l hl hm => ?_⟩
  rw [hlive l hl hm]
  exact hP l _

/-- An instruction of a vector class, whose registers the band has, leaves each thread with a true guard as its part says. -/
theorem eachThread_of_vecOp {f : Grp → Nat → Thread → Thread} (hi : exec i s = vecOp s regs f) (hr : ∀ r ∈ regs, r < g.band.n)
    (hP : ∀ l t, P l t (moved (f g l t) g.next)) : EachThread i s g P := by
  obtain ⟨t, b', hnext, honly, hband, hb', hby, hlive⟩ := vecOp_ok hg hr f
  refine ⟨t, b', hi.trans hnext, honly, hband, hb', hby, fun l hl hm => ?_⟩
  rw [hlive l hl hm]
  exact hP l _

end

/-! ### VCVT, VDQNT, VPACK and VUNPK -/

theorem vcvt_rounds (o : Cvt) : LaneRounds (.vcvt o) [o.d.val, o.a.val] o.rnd (8 * tyBytes o.dty) o.d.val fun m g l t =>
    let r := converted o.dty o.sty m o.sat (randomBits g o.rnd l 0) (laneTy o.sty t o.a.val)
    (extended o.dty r.1, r.2) := by
  intro s g hg hr
  refine eachRounding_of_fltOp hg (exec_vcvt s o) hr fun l t => ?_
  rw [convertOne_eq_converted, srOf_advanced, tyBits_eq_laneTy]
  exact putsF_putTy (fitsTy_converted _ _ _ _ _ _) ..

theorem vdqnt_rounds (o : Dqnt) (f : Fmt) (hf : fmtOfTy o.dty = some f) :
    LaneRounds (.vdqnt o) [o.d.val, o.a.val, o.b.val] o.rnd (8 * tyBytes o.dty) o.d.val fun m g l t =>
      let e := (rdV t o.b.val).toNat % 256
      let r := if e = 255 then (f.nanCode, 0)
        else roundToFormat ((decodeTy o.sty ((rdV t o.a.val).toNat % 256)).scale (e - 127 : Int)) f m o.sat
          (randomBits g o.rnd l 0)
      (BitVec.ofNat 64 r.1, r.2) := by
  intro s g hg hr
  refine eachRounding_of_fltOp hg (exec_vdqnt s o) hr fun l t => ?_
  simp only [hf, srOf_advanced, ← extended_of_fmt hf]
  exact putsF_putTy (fitsTy_of_fmt hf _) ..

/-- VPACK's word in a register, with the conditions of its elements. -/
theorem putsF_word (pc : DWord) (t : Thread) (d : Nat) (r : Nat × Flags) :
    PutsF pc d 32 (BitVec.ofNat 64 r.1) r.2 t (moved (raiseFlags (wrV t d (BitVec.ofNat 32 r.1)) r.2) pc) := by
  refine ⟨rfl, ?_, fun q hq _ => rdV_wrV_ne hq ..⟩
  rw [if_neg (by decide), BitVec.setWidth_ofNat_of_le (by decide)]
  exact rdV_wrV ..

/-- The registers that VPACK reads. -/
def packSources (o : Pack) : List Nat := [o.a.val, o.b.val] ++ (match o.more with | some (c, e) => [c.val, e.val] | none => [])

theorem exec_vpack_eq (o : Pack) (s : State) : exec (.vpack o) s = fltOp s (o.d.val :: packSources o) o.rnd fun g m i t =>
    let r := packFrom (packElem o.dty).1 (packElem o.dty).2 o.sty m o.sat (srOf g.band i) 0 ((packSources o).map (tyBits o.sty t))
    raiseFlags (wrV t o.d.val (BitVec.ofNat 32 r.1)) r.2 := rfl

theorem vpack_rounds (o : Pack) : LaneRounds (.vpack o) (o.d.val :: packSources o) o.rnd 32 o.d.val fun m g l t =>
    let r := packFrom (packElem o.dty).1 (packElem o.dty).2 o.sty m o.sat (fun j => randomBits g o.rnd l j) 0
      ((packSources o).map (laneTy o.sty t))
    (BitVec.ofNat 64 r.1, r.2) := by
  intro s g hg hr
  refine eachRounding_of_fltOp hg (exec_vpack_eq o s) hr fun l t => ?_
  have hsr : srOf (advanced g o.rnd).band l = fun j => randomBits g o.rnd l j := funext (srOf_advanced g o.rnd l)
  have hbits : tyBits o.sty t = laneTy o.sty t := funext (tyBits_eq_laneTy o.sty t)
  simp only [hsr, hbits]
  exact putsF_word ..

section
variable {dty elem : Ty} {w word : Nat}

/-- Element `j` of a word, as VUNPK converts it. -/
def unpacked (dty elem : Ty) (w word j : Nat) : Nat × Flags := converted dty elem .rne false 0 (bitsOf word (w * j) w)

theorem fitsTy_unpacked (dty elem : Ty) (w word j : Nat) : FitsTy dty (unpacked dty elem w word j).1 := fitsTy_converted _ _ _ _ _ _

theorem unpackFrom_succ (n j d : Nat) (t : Thread) : unpackFrom dty elem w word (n + 1) j d t =
    unpackFrom dty elem w word n (j + 1) (d + 1) (putTy dty t d (unpacked dty elem w word j)) := by
  rw [unpackFrom, convertOne_eq_converted]
  rfl

/-- VUNPK changes registers, and joins the conditions of its elements in turn. -/
theorem unpackFrom_frame (n j d : Nat) (t : Thread) : unpackFrom dty elem w word n j d t =
    { t with vregs := (unpackFrom dty elem w word n j d t).vregs
             fstat := (List.range' j n).foldl (fun f j => f ||| (unpacked dty elem w word j).2) t.fstat } := by
  induction n generalizing j d t with
  | zero => rfl
  | succ n ih =>
    rw [unpackFrom_succ, ih]
    by_cases hw : 8 * tyBytes dty = 64
    · rw [putTy_pair hw]; rfl
    · rw [putTy_one hw]; rfl

theorem rdV_unpackFrom_out (hw : 8 * tyBytes dty ≠ 64) {n j d q : Nat} (h : q < d ∨ d + n ≤ q) (t : Thread) :
    rdV (unpackFrom dty elem w word n j d t) q = rdV t q := by
  induction n generalizing j d t with
  | zero => rfl
  | succ n ih =>
    rw [unpackFrom_succ, ih (by omega), putTy_one hw]
    exact rdV_wrV_ne (by omega) ..

theorem rdV_unpackFrom (hw : 8 * tyBytes dty ≠ 64) {n j d i : Nat} (h : i < n) (t : Thread) :
    rdV (unpackFrom dty elem w word n j d t) (d + i) = (extended dty (unpacked dty elem w word (j + i)).1).setWidth 32 := by
  induction n generalizing j d i t with
  | zero => exact absurd h (Nat.not_lt_zero i)
  | succ n ih =>
    rw [unpackFrom_succ]
    cases i with
    | zero =>
      rw [rdV_unpackFrom_out hw (by omega), putTy_one hw, (widen_eq_extended (fitsTy_unpacked _ _ _ _ _)).2 hw]
      exact rdV_wrV ..
    | succ i =>
      rw [← Nat.add_assoc, Nat.add_right_comm, ih (by omega), Nat.add_right_comm, Nat.add_assoc]

end

theorem vunpk_converts (o : Unpk) (s : State) (g : Grp) (hg : grpOf s = some g) (ha : o.a.val < g.band.n)
    (hd : o.d.val + 32 / (unpackElem o.sty).2 - 1 < g.band.n) :
    EachThread (.vunpk o) s g fun _ t t' =>
      let w := (unpackElem o.sty).2
      let r := fun j => converted o.dty (unpackElem o.sty).1 .rne false 0 (bitsOf (rdV t o.a.val).toNat (w * j) w)
      t' = { moved t g.next with vregs := t'.vregs, fstat := (List.range (32 / w)).foldl (fun f j => f ||| (r j).2) t.fstat } ∧
        (tyBytes o.dty ≤ 4 → ∀ j, j < 32 / w → rdV t' (o.d.val + j) = (extended o.dty (r j).1).setWidth 32) ∧
        (tyBytes o.dty ≤ 4 → ∀ q, q < o.d.val ∨ o.d.val + 32 / w ≤ q → rdV t' q = rdV t q) := by
  have hregs : ∀ r ∈ [o.d.val + 32 / (unpackElem o.sty).2 - 1, o.a.val], r < g.band.n :=
    List.forall_mem_cons.2 ⟨hd, List.forall_mem_singleton.2 ha⟩
  refine eachThread_of_vecOp hg (exec_vunpk s o) hregs fun l t => ⟨?_, fun h j hj => ?_, fun h q hq => ?_⟩
  · rw [List.range_eq_range']
    exact congrArg (moved · g.next) (unpackFrom_frame _ 0 o.d.val t)
  · have helem := rdV_unpackFrom (elem := (unpackElem o.sty).1) (w := (unpackElem o.sty).2)
      (word := (rdV t o.a.val).toNat) (j := 0) (d := o.d.val)
      (show 8 * tyBytes o.dty ≠ 64 by omega) hj t
    rwa [Nat.zero_add] at helem
  · exact rdV_unpackFrom_out (show 8 * tyBytes o.dty ≠ 64 by omega) hq t

/-- Settles O14: each conversion by what its result is in a register. -/
theorem conversions : Obligations.Conversions :=
  ⟨vcvt_rounds, vdqnt_rounds, vpack_rounds, vunpk_converts⟩

/-! ### VQNT (R89, R90) -/

section
variable {s : State} {g : Grp} (o : Qnt)

/-- The element of a lane that VQNT reads, and whether the block has a NaN or an infinity. -/
def quantized (t : Thread) : Val := decodeTy o.sty (laneTy o.sty t o.a.val)
def badBlock (g : Grp) : Bool := (g.live.map fun l => quantized o (threadOf g.band l)).any fun v => v.isNan || v.isInf

/-- The scale byte of a block without NaN and infinity. -/
def blockByte (g : Grp) : Nat :=
  let top := maxMag (g.live.map fun l => quantized o (threadOf g.band l))
  blockScale top.1 top.2 o.dty

/-- One element divided by the scale, in the type of the result. -/
def quantizedTo (m : Mode) (sr e : Nat) (v : Val) : Nat × Flags :=
  match o.dty with
  | .int k => roundToInteger (v.scale (127 - e : Int)) k m o.sat sr
  | _ => match fmtOfTy o.dty with
    | some f => roundToFormat (v.scale (127 - e : Int)) f m o.sat sr
    | none => (0, 0)

/-- What VQNT writes in a lane, and in `sc`. -/
def quantizedLane (g : Grp) (l : Nat) (t : Thread) : Nat × Flags :=
  if badBlock o g then (0, flagIf ((quantized o t).isInf || (quantized o t).isSig) flagNV)
  else quantizedTo o (roundingMode g.band o.rnd) (randomBits g o.rnd l 0) (blockByte o g) (quantized o t)
def quantizedScale (g : Grp) : DWord := if badBlock o g then 255 else BitVec.ofNat 64 (blockByte o g)

variable {o}

theorem badBlock_iff : badBlock o g = true ↔
    ∃ l ∈ g.live, (quantized o (threadOf g.band l)).isNan = true ∨ (quantized o (threadOf g.band l)).isInf = true := by
  simp [badBlock]

theorem quantizedTo_int {k : IntTy} (h : o.dty = .int k) (m : Mode) (sr e : Nat) (v : Val) :
    quantizedTo o m sr e v = roundToInteger (v.scale (127 - e : Int)) k m o.sat sr := by
  simp only [quantizedTo, h]

theorem quantizedTo_fmt {f : Fmt} (h : fmtOfTy o.dty = some f) (m : Mode) (sr e : Nat) (v : Val) :
    quantizedTo o m sr e v = roundToFormat (v.scale (127 - e : Int)) f m o.sat sr := by
  rcases o with ⟨dty, _⟩
  cases dty with
  | int k => cases h
  | flt x => cases h; rfl
  | b8 x => cases h; rfl

theorem fitsTy_quantizedLane (l : Nat) (t : Thread) : FitsTy o.dty (quantizedLane o g l t).1 := by
  intro k hk
  unfold quantizedLane
  split
  · positivity
  · rw [quantizedTo_int hk]
    exact roundToInteger_lt ..

/-- The band that VQNT leaves before its threads go on. -/
def quantizedBand (o : Qnt) (g : Grp) : Band :=
  wrS (onLanes (advanced g o.rnd).band g.live fun l t => putTy o.dty t o.d.val (quantizedLane o g l t)) o.sc.val (quantizedScale o g)

/-- VQNT changes the band alone. -/
theorem execVqnt_eq (hg : grpOf s = some g) (hl : g.live ≠ []) (hr : ∀ r ∈ [o.d.val, o.a.val], r < g.band.n) :
    exec (.vqnt o) s = bandOnly s fun _ => .ok (quantizedBand o g) := by
  have hmode : srStep g.band (modeOf g.band.rm o.rnd) = (advanced g o.rnd).band := by
    rw [modeOf_eq_roundingMode, srStep_eq_advanced hl]
  have hthread : ∀ l, threadOf (advanced g o.rnd).band l = threadOf g.band l := fun _ => rfl
  have hrm : (advanced g o.rnd).band.rm = g.band.rm := rfl
  rw [exec_vqnt, execVqnt, bandOnly, bandOnly]
  simp only [perGroup, perGroupTo, hg, rangeFault_none hr, hmode, hthread, tyBits_eq_laneTy]
  unfold quantizedBand quantizedLane quantizedScale
  by_cases hbad : badBlock o g
  · have hany := hbad
    unfold badBlock quantized at hany
    simp only [hbad, hany, if_true] <;> rfl
  · have hany := hbad
    unfold badBlock quantized at hany
    simp only [hbad, hany, srOf_advanced, modeOf_eq_roundingMode] <;> rfl

/-- An instruction that acts once for its group on the band, and changes threads with a true guard only. -/
theorem bandOnly_ok (hg : grpOf s = some g) (hl : g.live ≠ []) {b : Band} (hsize : b.threads.length = g.band.threads.length)
    (hout : ∀ l, l ∉ g.live → threadOf b l = threadOf g.band l) :
    ∃ t b', (bandOnly s fun _ => .ok b) = .next t ∧ OnlyBand s t g.key ∧ bandOf t g.key = some b' ∧
      b' = { b with threads := b'.threads } ∧ Bystanders g b' ∧
      ∀ l, l < g.band.threads.length → l ∈ g.live → threadOf b' l = moved (threadOf b l) g.next := by
  have hlive : g.live.isEmpty = false := by simpa using hl
  simp only [bandOnly, perGroup, perGroupTo, hg, hlive, gotoBand, bandOf_setBand, Bool.false_eq_true, if_false]
  refine ⟨_, gotoLanes b g.lanes g.next, rfl, onlyBand_trans (onlyBand_setBand ..) (onlyBand_setBand ..), bandOf_setBand .., rfl,
    ⟨?_, fun l hn => ?_, fun l hlt hin hn => ?_⟩, fun l hlt hin => ?_⟩
  · rw [gotoLanes, onLanes_length, hsize]
  · rw [gotoLanes, threadOf_onLanes_out _ _ hn, hout l fun hlive => hn (grpOf_live hg hlive)]
  · rw [gotoLanes, threadOf_onLanes_in _ _ hin (by omega), hout l hn]
    rfl
  · rw [gotoLanes, threadOf_onLanes_in _ _ (grpOf_live hg hin) (by omega)]
    rfl

theorem threadOf_quantizedBand_in {l : Nat} (h : l ∈ g.live) (hlt : l < g.band.threads.length) :
    threadOf (quantizedBand o g) l = putTy o.dty (threadOf g.band l) o.d.val (quantizedLane o g l (threadOf g.band l)) := by
  rw [quantizedBand, threadOf, wrS_threads]
  exact threadOf_onLanes_in _ _ h hlt

theorem threadOf_quantizedBand_out {l : Nat} (h : l ∉ g.live) : threadOf (quantizedBand o g) l = threadOf g.band l := by
  rw [quantizedBand, threadOf, wrS_threads]
  exact threadOf_onLanes_out _ _ h

/-- VQNT writes its scale byte, and in each thread with a true guard its element. -/
theorem vqnt_writes (hg : grpOf s = some g) (hl : g.live ≠ []) (hr : ∀ r ∈ [o.d.val, o.a.val], r < g.band.n) :
    ∃ t b', exec (.vqnt o) s = .next t ∧ OnlyBand s t g.key ∧ bandOf t g.key = some b' ∧
      b' = { g.band with threads := b'.threads, sregs := b'.sregs, sEcc := b'.sEcc, srstate := srAfter g o.rnd } ∧
      Bystanders g b' ∧ PutsS o.sc.val (quantizedScale o g) g.band b' ∧
      ∀ l, l < g.band.threads.length → l ∈ g.live → PutsF g.next o.d.val (8 * tyBytes o.dty)
        (extended o.dty (quantizedLane o g l (threadOf g.band l)).1) (quantizedLane o g l (threadOf g.band l)).2
        (threadOf g.band l) (threadOf b' l) := by
  rw [execVqnt_eq hg hl hr]
  have hsize : (quantizedBand o g).threads.length = g.band.threads.length := by
    rw [quantizedBand, wrS_threads, onLanes_length, advanced]
  obtain ⟨t, b', hnext, honly, hband, hb', hby, hlive⟩ := bandOnly_ok hg hl hsize fun l => threadOf_quantizedBand_out
  have hsc : ∀ r, rdS b' r = rdS (quantizedBand o g) r := fun r => by rw [hb']; rfl
  refine ⟨t, b', hnext, honly, hband, ?_, hby, ⟨?_, fun r hne => ?_⟩, fun l hlt hin => ?_⟩
  · rw [hb', quantizedBand, wrS_frame]
    rfl
  · rw [hsc, quantizedBand, rdS_wrS]
    rfl
  · rw [hsc, quantizedBand, rdS_wrS_ne hne]
    rfl
  · rw [hlive l hlt hin, threadOf_quantizedBand_in hin hlt]
    exact putsF_putTy (fitsTy_quantizedLane l _) ..

end

/-- Settles O16: the block is bad or not, and each lane's element and the scale byte are those of the case. -/
theorem quantizeBlock : Obligations.QuantizeBlock := by
  intro s g o hg hl hr val bad top e
  have hiff : badBlock o g = true ↔ bad := badBlock_iff
  obtain ⟨t, b', hnext, honly, hband, hb', hby, hsc, hlive⟩ := vqnt_writes hg hl hr
  refine ⟨t, b', hnext, honly, hband, hb', hby, fun hbad => ?_, fun hgood => ?_, fun l hlt hin =>
    ⟨fun hbad => ?_, fun hgood f hf => ?_, fun hgood k hk => ?_⟩⟩
  · rwa [quantizedScale, if_pos (hiff.2 hbad)] at hsc
  · rwa [quantizedScale, if_neg (mt hiff.1 hgood)] at hsc
  · have hput := hlive l hlt hin
    rwa [quantizedLane, if_pos (hiff.2 hbad), extended_zero] at hput
  · have hput := hlive l hlt hin
    rwa [quantizedLane, if_neg (mt hiff.1 hgood), quantizedTo_fmt hf, extended_of_fmt hf] at hput
  · have hput := hlive l hlt hin
    rwa [quantizedLane, if_neg (mt hiff.1 hgood), quantizedTo_int hk, hk, extended, ← hk] at hput

end Sys2Proof.Proofs
end

section
/-! SUPPORT. The IEEE formats (R77, R78): the sign and the magnitude code of a pattern, what a pattern decodes to, and the magnitudes
that the codes denote, which rise with the codes and are the grid of R86. -/

namespace Sys2Proof.Proofs

open Sys2Proof.Machine Sys2Proof.Claims

/-! ### The sizes of the formats (R77) -/

/-- The code of the infinities. -/
def infinityCode (f : FTy) : Nat := topExp f * 2 ^ (precision f - 1)

section
variable (f : FTy)

theorem fmtOf_p : (fmtOf f).p = precision f := by cases f <;> rfl
theorem fmtOf_emin : (fmtOf f).emin = smallest f := by cases f <;> rfl
theorem fmtOf_width : (fmtOf f).width = elemBits f := by cases f <;> rfl
theorem fmtOf_signed : (fmtOf f).signed = true := by cases f <;> rfl
theorem fmtOf_ieee : (fmtOf f).ieee = true := by cases f <;> rfl
theorem fmtOf_nanCode : (fmtOf f).nanCode = canonicalNaN f := by cases f <;> rfl
theorem fmtOf_infCode : (fmtOf f).infCode = some (infinityCode f) := by cases f <;> rfl
theorem fmtOf_maxCode : (fmtOf f).maxCode = infinityCode f - 1 := by cases f <;> rfl

theorem precision_bounds : 8 ≤ precision f ∧ precision f ≤ 53 ∧ precision f + 5 ≤ elemBits f := by
  cases f <;> decide

/-- The numbers up to two to the precision are on the grid, and none is as large as the largest finite number. -/
theorem smallest_bounds : smallest f ≤ 0 ∧ 3 ≤ smallest f + topExp f := by
  cases f <;> decide

/-- The exponent field of the infinities, above those of the finite numbers. -/
theorem topExp_succ : topExp f + 1 = 2 ^ (elemBits f - precision f) :=
  Nat.sub_add_cancel (Nat.one_le_two_pow)

end

/-! ### Sign and magnitude code of a pattern -/

/-- The pattern without its sign. -/
def magCode (f : FTy) (b : Nat) : Nat := b % 2 ^ (elemBits f - 1)

section
variable {f : FTy} {b : Nat}

theorem two_pow_elemBits : 2 ^ elemBits f = 2 ^ (elemBits f - 1) + 2 ^ (elemBits f - 1) := by
  obtain ⟨_, _, h⟩ := precision_bounds f
  rw [← two_mul, ← pow_succ']
  congr 1
  omega

theorem pow_codes : 2 ^ (elemBits f - 1) = 2 ^ (precision f - 1) * 2 ^ (elemBits f - precision f) := by
  obtain ⟨_, _, h⟩ := precision_bounds f
  rw [← pow_add]
  congr 1
  omega

theorem infinityCode_lt : infinityCode f < 2 ^ (elemBits f - 1) := by
  rw [pow_codes, ← topExp_succ, infinityCode, mul_comm]
  exact Nat.mul_lt_mul_of_pos_left (Nat.lt_succ_self _) (by positivity)

theorem magCode_lt (f : FTy) (b : Nat) : magCode f b < 2 ^ (elemBits f - 1) := Nat.mod_lt _ (by positivity)

theorem magCode_of_sign (h : b < 2 ^ elemBits f) :
    b = (if signField f b then 2 ^ (elemBits f - 1) else 0) + magCode f b := by
  rw [two_pow_elemBits] at h
  by_cases hs : 2 ^ (elemBits f - 1) ≤ b
  · simp only [signField, hs, magCode, decide_true, if_true]
    rw [Nat.mod_eq_sub_mod hs, Nat.mod_eq_of_lt (by omega)]
    omega
  · simp only [signField, hs, magCode, decide_false]
    rw [Nat.mod_eq_of_lt (by omega)]
    simp

theorem expField_eq (f : FTy) (b : Nat) : expField f b = magCode f b / 2 ^ (precision f - 1) := by
  rw [expField, magCode, pow_codes, Nat.mod_mul_right_div_self]

theorem trailField_eq (f : FTy) (b : Nat) : trailField f b = magCode f b % 2 ^ (precision f - 1) := by
  rw [trailField, magCode, pow_codes, Nat.mod_mul_right_mod]

/-- The exponent field is at its top from the code of the infinities up. -/
theorem expField_eq_top : expField f b = topExp f ↔ infinityCode f ≤ magCode f b := by
  have hlt : magCode f b / 2 ^ (precision f - 1) < topExp f + 1 := by
    rw [Nat.div_lt_iff_lt_mul (by positivity), topExp_succ, mul_comm, ← pow_codes]
    exact magCode_lt f b
  rw [expField_eq, infinityCode, ← Nat.le_div_iff_mul_le (by positivity)]
  omega

theorem trailField_of_top (h : infinityCode f ≤ magCode f b) : magCode f b = infinityCode f + trailField f b := by
  have hexp := expField_eq_top.2 h
  rw [expField_eq] at hexp
  rw [trailField_eq, infinityCode, ← hexp, Nat.div_add_mod']

/-! ### What a pattern decodes to -/

theorem isInfinity_iff : isInfinity f b ↔ magCode f b = infinityCode f := by
  rw [isInfinity, expField_eq_top]
  refine ⟨fun ⟨h, h0⟩ => by rw [trailField_of_top h, h0, Nat.add_zero], fun h => ⟨h.ge, ?_⟩⟩
  have := trailField_of_top h.ge
  omega

theorem isNaN_iff : isNaN f b ↔ infinityCode f < magCode f b := by
  rw [isNaN, expField_eq_top]
  refine ⟨fun ⟨h, h0⟩ => ?_, fun h => ⟨h.le, ?_⟩⟩
  · have := trailField_of_top h
    omega
  · have := trailField_of_top h.le
    omega

theorem isSignalling_iff : isSignalling f b ↔ infinityCode f < magCode f b ∧ magCode f b - infinityCode f < 2 ^ (precision f - 2) := by
  rw [isSignalling, isNaN_iff]
  refine and_congr_right fun h => ?_
  rw [trailField_of_top h.le, Nat.add_sub_cancel_left]

theorem finite_iff : expField f b ≠ topExp f ↔ magCode f b < infinityCode f := by
  rw [Ne, expField_eq_top, not_le]

/-- Decode of a pattern, by its magnitude code. -/
theorem decodeFmt_eq (h : b < 2 ^ elemBits f) : decodeFmt (fmtOf f) b =
    if magCode f b = infinityCode f then .inf (signField f b)
    else if infinityCode f < magCode f b then .nan (decide (magCode f b - infinityCode f < 2 ^ (precision f - 2)))
    else .fin (signField f b) (codeMag (fmtOf f) (magCode f b)).1 (codeMag (fmtOf f) (magCode f b)).2 false := by
  simp only [decodeFmt, fmtOf_signed, fmtOf_ieee, fmtOf_infCode, fmtOf_width, fmtOf_p, Nat.mod_eq_of_lt h, if_true, Bool.true_and,
    signField, magCode]
  rfl

theorem decode_infinity (h : b < 2 ^ elemBits f) (hb : isInfinity f b) : decodeFmt (fmtOf f) b = .inf (signField f b) := by
  rw [decodeFmt_eq h, if_pos (isInfinity_iff.1 hb)]

theorem decode_nan (h : b < 2 ^ elemBits f) (hb : isNaN f b) :
    ∃ sig, decodeFmt (fmtOf f) b = .nan sig ∧ (sig = true ↔ isSignalling f b) := by
  have hlt := isNaN_iff.1 hb
  rw [decodeFmt_eq h, if_neg hlt.ne', if_pos hlt]
  refine ⟨_, rfl, ?_⟩
  rw [decide_eq_true_iff, isSignalling_iff]
  exact ⟨fun hs => ⟨hlt, hs⟩, And.right⟩

theorem decode_finite (h : b < 2 ^ elemBits f) (hb : magCode f b < infinityCode f) : decodeFmt (fmtOf f) b =
    .fin (signField f b) (codeMag (fmtOf f) (magCode f b)).1 (codeMag (fmtOf f) (magCode f b)).2 false := by
  rw [decodeFmt_eq h, if_neg hb.ne, if_neg (by omega)]

end

/-! ### The magnitudes of the codes -/

/-- The magnitude that a code denotes. -/
noncomputable def magnitude (f : FTy) (c : Nat) : ℝ := ((codeMag (fmtOf f) c).1 : ℝ) * 2 ^ (codeMag (fmtOf f) c).2

section
variable {f : FTy}

/-- A code as a place in a binade: a significand, and the exponent of its unit above the smallest. -/
structure AtPlace (f : FTy) (c k m : Nat) : Prop where
  code : c = k * 2 ^ (precision f - 1) + m
  bound : m < 2 ^ precision f
  normal : k = 0 ∨ 2 ^ (precision f - 1) ≤ m

theorem two_pow_precision : 2 ^ precision f = 2 ^ (precision f - 1) + 2 ^ (precision f - 1) := by
  obtain ⟨h, _, _⟩ := precision_bounds f
  rw [← two_mul, ← pow_succ']
  congr 1
  omega

theorem codeMag_of_subnormal {m : Nat} (h : m < 2 ^ (precision f - 1)) : codeMag (fmtOf f) m = (m, smallest f) := by
  simp only [codeMag, fmtOf_p, fmtOf_emin, Nat.div_eq_of_lt h, Nat.mod_eq_of_lt h, if_true]

theorem codeMag_of_normal {k m : Nat} (h : m < 2 ^ (precision f - 1)) :
    codeMag (fmtOf f) ((k + 1) * 2 ^ (precision f - 1) + m) = (2 ^ (precision f - 1) + m, smallest f + k) := by
  have hdiv : ((k + 1) * 2 ^ (precision f - 1) + m) / 2 ^ (precision f - 1) = k + 1 := by
    rw [mul_comm, Nat.mul_add_div (by positivity), Nat.div_eq_of_lt h, Nat.add_zero]
  have hmod : ((k + 1) * 2 ^ (precision f - 1) + m) % 2 ^ (precision f - 1) = m := by
    rw [mul_comm, Nat.mul_add_mod, Nat.mod_eq_of_lt h]
  simp only [codeMag, fmtOf_p, fmtOf_emin, hdiv, hmod, Nat.add_one_ne_zero, if_false]
  push_cast
  congr 1
  ring

theorem codeMag_of_place {c k m : Nat} (h : AtPlace f c k m) : codeMag (fmtOf f) c = (m, smallest f + k) := by
  obtain ⟨rfl, hbound, hnormal⟩ := h
  rw [two_pow_precision] at hbound
  by_cases hm : m < 2 ^ (precision f - 1)
  · obtain rfl : k = 0 := by omega
    simpa using codeMag_of_subnormal hm
  · obtain ⟨t, rfl⟩ := Nat.exists_eq_add_of_le (not_lt.1 hm)
    have := codeMag_of_normal (f := f) (k := k) (m := t) (by omega)
    rw [show k * 2 ^ (precision f - 1) + (2 ^ (precision f - 1) + t) = (k + 1) * 2 ^ (precision f - 1) + t by ring, this]

theorem exists_place (f : FTy) (c : Nat) : ∃ k m, AtPlace f c k m := by
  have hp : 0 < 2 ^ (precision f - 1) := by positivity
  have hmod := Nat.mod_lt c hp
  have hsplit := Nat.div_add_mod' c (2 ^ (precision f - 1))
  rcases hdiv : c / 2 ^ (precision f - 1) with _ | k
  · rw [hdiv, zero_mul, zero_add] at hsplit
    exact ⟨0, c, by rw [zero_mul, zero_add], by rw [two_pow_precision]; omega, .inl rfl⟩
  · refine ⟨k, 2 ^ (precision f - 1) + c % 2 ^ (precision f - 1), ?_, by rw [two_pow_precision]; omega, .inr (by omega)⟩
    rw [hdiv] at hsplit
    linarith

theorem magnitude_of_place {c k m : Nat} (h : AtPlace f c k m) : magnitude f c = (m : ℝ) * 2 ^ (smallest f + k) := by
  rw [magnitude, codeMag_of_place h]

/-- The code after a place denotes one unit more, also where the next binade begins. -/
theorem magnitude_succ_of_place {c k m : Nat} (h : AtPlace f c k m) :
    magnitude f (c + 1) = ((m : ℝ) + 1) * 2 ^ (smallest f + k) := by
  obtain ⟨hcode, hbound, hnormal⟩ := h
  by_cases hm : m + 1 < 2 ^ precision f
  · rw [magnitude_of_place (k := k) (m := m + 1) ⟨by omega, hm, by omega⟩, Nat.cast_add_one]
  · have hlast : m + 1 = 2 ^ precision f := by omega
    have hnext : AtPlace f (c + 1) (k + 1) (2 ^ (precision f - 1)) := by
      rw [two_pow_precision] at hlast
      refine ⟨?_, by rw [two_pow_precision]; have : 0 < 2 ^ (precision f - 1) := by positivity
                     omega, .inr le_rfl⟩
      rw [hcode, Nat.add_assoc, hlast]
      ring
    have hcast : (m : ℝ) + 1 = 2 ^ (precision f - 1) * 2 := by
      rw [← pow_succ, Nat.sub_add_cancel (by have := precision_bounds f; omega)]
      exact_mod_cast hlast
    rw [magnitude_of_place hnext, hcast, Nat.cast_add_one, ← add_assoc, zpow_add_one₀ (by norm_num)]
    push_cast
    ring

theorem magnitude_strictMono (f : FTy) : StrictMono (magnitude f) := by
  refine strictMono_nat_of_lt_succ fun c => ?_
  obtain ⟨k, m, h⟩ := exists_place f c
  rw [magnitude_of_place h, magnitude_succ_of_place h]
  have : (0 : ℝ) < 2 ^ (smallest f + k) := by positivity
  nlinarith

theorem magnitude_zero (f : FTy) : magnitude f 0 = 0 := by
  rw [magnitude_of_place (k := 0) (m := 0) ⟨by simp, by positivity, .inl rfl⟩, Nat.cast_zero, zero_mul]

theorem magnitude_nonneg (f : FTy) (c : Nat) : 0 ≤ magnitude f c := by
  rw [magnitude]
  positivity

/-! ### The grid (R86) -/

theorem onGrid_magnitude (f : FTy) (c : Nat) : OnGrid f (magnitude f c) := by
  obtain ⟨k, m, h⟩ := exists_place f c
  exact ⟨m, smallest f + k, h.bound, by omega, magnitude_of_place h⟩

/-- No magnitude of the grid lies between those of a code and the next. -/
theorem grid_between {y : ℝ} (hy : OnGrid f y) (c : Nat) : y ≤ magnitude f c ∨ magnitude f (c + 1) ≤ y := by
  obtain ⟨m, q, hm, hq, rfl⟩ := hy
  obtain ⟨k, M, hplace⟩ := exists_place f c
  rw [magnitude_of_place hplace, magnitude_succ_of_place hplace]
  have hunit : (0 : ℝ) < 2 ^ (smallest f + k) := by positivity
  by_cases hle : smallest f + k ≤ q
  · obtain ⟨j, rfl⟩ := Int.le.dest hle
    have hy : (m : ℝ) * 2 ^ (smallest f + k + (j : Int)) = (m * 2 ^ j : Nat) * 2 ^ (smallest f + k) := by
      rw [zpow_add₀ (by norm_num), zpow_natCast]
      push_cast
      ring
    rw [hy]
    rcases Nat.lt_or_ge M (m * 2 ^ j) with h | h
    · exact .inr (mul_le_mul_of_nonneg_right (by exact_mod_cast h) hunit.le)
    · exact .inl (mul_le_mul_of_nonneg_right (by exact_mod_cast h) hunit.le)
  · left
    have hM : 2 ^ (precision f - 1) ≤ M := hplace.normal.resolve_left (by omega)
    have hhalf : (2 : ℝ) ^ q * 2 ≤ 2 ^ (smallest f + k) := by
      rw [← zpow_add_one₀ (by norm_num)]
      exact zpow_le_zpow_right₀ (by norm_num) (by omega)
    have hm2 : (m : ℝ) ≤ M * 2 := by
      rw [two_pow_precision] at hm
      exact_mod_cast (by omega : m ≤ M * 2)
    calc (m : ℝ) * 2 ^ q ≤ M * 2 * 2 ^ q := mul_le_mul_of_nonneg_right hm2 (by positivity)
      _ = M * (2 ^ q * 2) := by ring
      _ ≤ M * 2 ^ (smallest f + k) := mul_le_mul_of_nonneg_left hhalf (by positivity)

/-- The neighbours of a magnitude on the grid are a code's and the next code's. -/
theorem neighbours_eq {a lo hi : ℝ} {c : Nat} (hc : magnitude f c ≤ a) (hc' : a < magnitude f (c + 1)) (hlo : OnGrid f lo)
    (hhi : OnGrid f hi) (hla : lo ≤ a) (hah : a < hi) (hgap : ∀ y, OnGrid f y → y ≤ lo ∨ hi ≤ y) :
    lo = magnitude f c ∧ hi = magnitude f (c + 1) := by
  have hlo' := (grid_between hlo c).resolve_right (by linarith)
  have hhi' := (grid_between hhi c).resolve_left (by linarith)
  have hclo := (hgap _ (onGrid_magnitude f c)).resolve_right (by linarith)
  have hchi := (hgap _ (onGrid_magnitude f (c + 1))).resolve_left (by linarith)
  exact ⟨le_antisymm hlo' hclo, le_antisymm hchi hhi'⟩

theorem eq_magnitude_of_grid {a : ℝ} {c : Nat} (ha : OnGrid f a) (hc : magnitude f c ≤ a) (hc' : a < magnitude f (c + 1)) :
    a = magnitude f c := le_antisymm ((grid_between ha c).resolve_right (by linarith)) hc

theorem parity_of_place {c k m : Nat} (h : AtPlace f c k m) : c % 2 = m % 2 := by
  have hp : 2 ^ (precision f - 1) = 2 * 2 ^ (precision f - 2) := by
    rw [← pow_succ']
    congr 1
    have := precision_bounds f
    omega
  rw [h.code, hp, mul_left_comm, Nat.mul_add_mod]

theorem evenOnGrid_magnitude (f : FTy) (c : Nat) : EvenOnGrid f (magnitude f c) ↔ c % 2 = 0 := by
  constructor
  · rintro ⟨m, q, hm, hq, heven, heq⟩
    obtain ⟨k, rfl⟩ := Int.le.dest (show smallest f ≤ q by omega)
    have hplace : AtPlace f (k * 2 ^ (precision f - 1) + m) k m := ⟨rfl, hm, by omega⟩
    rw [← magnitude_of_place hplace] at heq
    rw [(magnitude_strictMono f).injective heq, parity_of_place hplace, heven]
  · intro heven
    obtain ⟨k, m, h⟩ := exists_place f c
    refine ⟨m, smallest f + k, h.bound, ?_, (parity_of_place h).symm.trans heven, magnitude_of_place h⟩
    rcases h.normal with rfl | hn
    · exact .inr (by simp)
    · exact .inl ⟨hn, by omega⟩

/-! ### Finite numbers (R77) -/

theorem two_le_topExp (f : FTy) : 2 ≤ topExp f := by cases f <;> decide

theorem infinityCode_pos (f : FTy) : 0 < infinityCode f :=
  Nat.mul_pos (by have := two_le_topExp f; omega) (by positivity)

theorem place_maxCode (f : FTy) : AtPlace f (infinityCode f - 1) (topExp f - 2) (2 ^ precision f - 1) := by
  obtain ⟨n, hn⟩ := Nat.exists_eq_add_of_le (two_le_topExp f)
  have hp : 0 < 2 ^ (precision f - 1) := by positivity
  have hcode : infinityCode f = n * 2 ^ (precision f - 1) + 2 * 2 ^ (precision f - 1) := by rw [infinityCode, hn]; ring
  refine ⟨?_, Nat.sub_lt (by positivity) one_pos, ?_⟩
  · rw [hcode, hn, Nat.add_sub_cancel_left, two_pow_precision]
    omega
  · right
    rw [two_pow_precision]
    omega

theorem largestFinite_iff {top : ℝ} : LargestFinite f top ↔ top = magnitude f (infinityCode f - 1) := by
  have h2 := two_le_topExp f
  rw [magnitude_of_place (place_maxCode f), LargestFinite, Nat.cast_sub h2]
  push_cast
  rw [show smallest f + (topExp f : Int) - 2 = smallest f + ((topExp f : Int) - 2) by ring]

theorem denotes_iff {b : Nat} {neg : Bool} {a : ℝ} : Denotes f b neg a ↔
    b < 2 ^ elemBits f ∧ signField f b = neg ∧ magCode f b < infinityCode f ∧ a = magnitude f (magCode f b) := by
  rw [Denotes, finite_iff]
  refine and_congr_right fun _ => and_congr_right fun _ => and_congr_right fun _ => ?_
  suffices h : magnitude f (magCode f b) = if expField f b = 0 then (trailField f b : ℝ) * 2 ^ smallest f
      else ((2 ^ (precision f - 1) + trailField f b : Nat) : ℝ) * 2 ^ (smallest f + expField f b - 1) by rw [h]
  rw [magnitude, codeMag, fmtOf_p, fmtOf_emin, ← expField_eq, ← trailField_eq]
  split_ifs
  · rfl
  · rw [show smallest f + ((expField f b : Int) - 1) = smallest f + expField f b - 1 by ring]

theorem encodeSign_eq (f : FTy) (neg : Bool) (c : Nat) :
    encodeSign (fmtOf f) neg c = (if neg then 2 ^ (elemBits f - 1) else 0) + c := by
  cases neg <;> simp [encodeSign, fmtOf_signed, fmtOf_ieee, fmtOf_width]

section
variable {c : Nat} (h : c < 2 ^ (elemBits f - 1)) (neg : Bool)
include h

theorem encodeSign_lt : encodeSign (fmtOf f) neg c < 2 ^ elemBits f := by
  rw [encodeSign_eq, two_pow_elemBits]
  split_ifs <;> omega

theorem magCode_encodeSign : magCode f (encodeSign (fmtOf f) neg c) = c := by
  rw [encodeSign_eq, magCode]
  split_ifs
  · rw [Nat.add_mod_left, Nat.mod_eq_of_lt h]
  · rw [Nat.zero_add, Nat.mod_eq_of_lt h]

theorem signField_encodeSign : signField f (encodeSign (fmtOf f) neg c) = neg := by
  rw [encodeSign_eq, signField]
  cases neg <;> simp [h]

end

theorem encodeSign_magCode {b : Nat} (h : b < 2 ^ elemBits f) : encodeSign (fmtOf f) (signField f b) (magCode f b) = b := by
  rw [encodeSign_eq, ← magCode_of_sign h]

theorem denotes_encodeSign {c : Nat} (h : c < infinityCode f) (neg : Bool) :
    Denotes f (encodeSign (fmtOf f) neg c) neg (magnitude f c) := by
  have hlt : c < 2 ^ (elemBits f - 1) := h.trans infinityCode_lt
  rw [denotes_iff, magCode_encodeSign hlt]
  exact ⟨encodeSign_lt hlt neg, signField_encodeSign hlt neg, h, rfl⟩

end

end Sys2Proof.Proofs
end

section
/-! SUPPORT. Rounding to an IEEE format (R85, R86): how a cut at a unit stands to the exact magnitude, and the code that RoundToFormat
gives. -/

namespace Sys2Proof.Proofs

open Sys2Proof.Machine Sys2Proof.Claims

/-! ### Exact magnitudes -/

/-- The magnitude that a significand and exponent stand for: exact, or with a rest below one unit, and then with far more bits than
a format holds. -/
def StandsFor (m : Nat) (e : Int) (rest : Bool) (a : ℝ) : Prop :=
  ∃ ρ : ℝ, 0 ≤ ρ ∧ ρ < 1 ∧ (rest = true ↔ ρ ≠ 0) ∧ (rest = true → 2 ^ 109 ≤ m) ∧ a = (m + ρ) * 2 ^ e

theorem standsFor_exact (m : Nat) (e : Int) : StandsFor m e false (m * 2 ^ e) :=
  ⟨0, le_rfl, one_pos, by simp, by simp, by rw [add_zero]⟩

/-- A cut of a magnitude on the grid of unit 2^q: its lower neighbour, whether it is exact, where it lies in the unit. -/
structure CutsAt (c : Cut) (a : ℝ) (q : Int) : Prop where
  lower : (c.m : ℝ) * 2 ^ q ≤ a
  upper : a < (c.m + 1) * 2 ^ q
  exact_iff : c.exact = true ↔ a = c.m * 2 ^ q
  below_iff : c.half = .lt ↔ a - c.m * 2 ^ q < (c.m + 1) * 2 ^ q - a
  tie_iff : c.half = .eq ↔ a - c.m * 2 ^ q = (c.m + 1) * 2 ^ q - a
  frac_eq : (c.frac32 : Int) = ⌊(a - c.m * 2 ^ q) / ((c.m + 1) * 2 ^ q - c.m * 2 ^ q) * 2 ^ 32⌋

/-- A cut by its place in the unit: the part of the unit above the lower neighbour. -/
theorem cutsAt_of_part {c : Cut} {a δ : ℝ} {q : Int} (ha : a = (c.m + δ) * 2 ^ q) (h0 : 0 ≤ δ) (h1 : δ < 1)
    (hexact : c.exact = true ↔ δ = 0) (hbelow : c.half = .lt ↔ δ < 1 - δ) (htie : c.half = .eq ↔ δ = 1 - δ)
    (hfrac : (c.frac32 : Int) = ⌊δ * 2 ^ 32⌋) : CutsAt c a q := by
  have hunit : (0 : ℝ) < 2 ^ q := by positivity
  have hlo : a - c.m * 2 ^ q = δ * 2 ^ q := by rw [ha]; ring
  have hhi : (c.m + 1) * 2 ^ q - a = (1 - δ) * 2 ^ q := by rw [ha]; ring
  have hwhole : ((c.m : ℝ) + 1) * 2 ^ q - c.m * 2 ^ q = 2 ^ q := by ring
  refine ⟨?_, ?_, ?_, ?_, ?_, ?_⟩
  · rw [← sub_nonneg, hlo]
    positivity
  · rw [← sub_pos, hhi]
    exact mul_pos (by linarith) hunit
  · rw [hexact, ← sub_eq_zero (a := a), hlo, mul_eq_zero, or_iff_left hunit.ne']
  · rw [hlo, hhi, hbelow, mul_lt_mul_iff_left₀ hunit]
  · rw [hlo, hhi, htie, mul_left_inj' hunit.ne']
  · rw [hlo, hwhole, mul_div_cancel_right₀ _ hunit.ne', hfrac]

/-! ### The part of a unit of 2^k steps in which `r` whole steps and a rest lie -/

section
variable {r k : Nat} {ρ : ℝ} (h0 : 0 ≤ ρ) (h1 : ρ < 1)
include h0 h1

omit h0 in
theorem part_lt_one (hr : r < 2 ^ k) : (r + ρ) / 2 ^ k < 1 := by
  have hstep : (r : ℝ) + 1 ≤ 2 ^ k := by exact_mod_cast hr
  rw [div_lt_one (by positivity)]
  linarith

omit h1 in
theorem part_eq_zero : (r + ρ) / 2 ^ k = 0 ↔ r = 0 ∧ ρ = 0 := by
  have hk : (2 : ℝ) ^ k ≠ 0 := by positivity
  rw [div_eq_zero_iff, or_iff_left hk, add_eq_zero_iff_of_nonneg (Nat.cast_nonneg r) h0, Nat.cast_eq_zero]

/-- A rest below one step does not reach the half of an even number of steps. -/
theorem part_lt_half (hk : k ≠ 0) : (r + ρ) / 2 ^ k < 1 - (r + ρ) / 2 ^ k ↔ 2 * r < 2 ^ k := by
  obtain ⟨j, rfl⟩ := Nat.exists_eq_add_one_of_ne_zero hk
  have hpos : (0 : ℝ) < 2 ^ (j + 1) := by positivity
  rw [lt_sub_iff_add_lt, ← two_mul, ← mul_div_assoc, div_lt_one hpos, pow_succ, pow_succ, mul_comm (2 : ℝ),
    mul_lt_mul_iff_left₀ (by norm_num), mul_comm 2, Nat.mul_lt_mul_right (by norm_num)]
  constructor
  · intro h
    have : (r : ℝ) < 2 ^ j := by linarith
    exact_mod_cast this
  · intro h
    have : (r : ℝ) + 1 ≤ 2 ^ j := by exact_mod_cast h
    linarith

theorem part_eq_half (hk : k ≠ 0) : (r + ρ) / 2 ^ k = 1 - (r + ρ) / 2 ^ k ↔ 2 * r = 2 ^ k ∧ ρ = 0 := by
  obtain ⟨j, rfl⟩ := Nat.exists_eq_add_one_of_ne_zero hk
  have hpos : (2 : ℝ) ^ (j + 1) ≠ 0 := by positivity
  rw [eq_sub_iff_add_eq, ← two_mul, ← mul_div_assoc, div_eq_one_iff_eq hpos, pow_succ, pow_succ, mul_comm (2 : ℝ),
    mul_left_inj' (by norm_num), mul_comm 2, Nat.mul_left_inj (by norm_num)]
  constructor
  · intro h
    have hle : r ≤ 2 ^ j := by exact_mod_cast (by linarith : (r : ℝ) ≤ 2 ^ j)
    have hge : 2 ^ j < r + 1 := by exact_mod_cast (by linarith : (2 : ℝ) ^ j < r + 1)
    have hr : r = 2 ^ j := by omega
    refine ⟨hr, ?_⟩
    rw [hr] at h
    push_cast at h
    linarith
  · rintro ⟨hr, hρ⟩
    rw [hr, hρ]
    push_cast
    ring

/-- With a unit of 2^32 steps or more, a rest does not change the 32 bits that SRBits is compared with. -/
theorem floor_part (hk : ρ ≠ 0 → 32 ≤ k) : ((r * 2 ^ 32 / 2 ^ k : Nat) : Int) = ⌊(r + ρ) / 2 ^ k * 2 ^ 32⌋ := by
  have hpos : (0 : ℝ) < 2 ^ k := by positivity
  have hle := Nat.div_mul_le_self (r * 2 ^ 32) (2 ^ k)
  have hlt := Nat.lt_div_mul_add (a := r * 2 ^ 32) (b := 2 ^ k) (by positivity)
  generalize r * 2 ^ 32 / 2 ^ k = n at hle hlt
  have hleR : (n : ℝ) * 2 ^ k ≤ r * 2 ^ 32 := by exact_mod_cast hle
  symm
  rw [Int.floor_eq_iff, div_mul_eq_mul_div, le_div_iff₀ hpos, div_lt_iff₀ hpos, Int.cast_natCast]
  refine ⟨by linarith, ?_⟩
  by_cases hρ : ρ = 0
  · rw [hρ, add_zero, add_mul, one_mul]
    exact_mod_cast hlt
  · obtain ⟨j, rfl⟩ := Nat.exists_eq_add_of_le (hk hρ)
    have hstep : r < (n + 1) * 2 ^ j := by
      rw [pow_add] at hlt
      nlinarith
    have hstepR : (r : ℝ) + 1 ≤ (n + 1) * 2 ^ j := by exact_mod_cast hstep
    rw [pow_add]
    nlinarith

end

theorem cutAt_above {k : Nat} (hk : k ≠ 0) (m : Nat) (e : Int) (rest : Bool) : cutAt m e rest (e + k) =
    { m := m / 2 ^ k, exact := decide (m % 2 ^ k = 0) && !rest
      half := if 2 * (m % 2 ^ k) < 2 ^ k then .lt else if 2 * (m % 2 ^ k) = 2 ^ k ∧ rest = false then .eq else .gt
      frac32 := m % 2 ^ k * 2 ^ 32 / 2 ^ k } := by
  have hlt : ¬ e + (k : Int) ≤ e := by omega
  simp [cutAt, hlt]

/-- The neighbours that `cutAt` gives are those on the grid, where a magnitude with a rest is cut 32 bits or more above it. -/
theorem cutsAt_cutAt {m : Nat} {e q : Int} {rest : Bool} {a : ℝ} (h : StandsFor m e rest a) (hrest : rest = true → e + 32 ≤ q) :
    CutsAt (cutAt m e rest q) a q := by
  obtain ⟨ρ, h0, h1, hρ, -, rfl⟩ := h
  by_cases hqe : q ≤ e
  · obtain ⟨j, rfl⟩ := Int.le.dest hqe
    obtain rfl : rest = false := by
      by_contra hr
      have := hrest (by simpa using hr)
      omega
    obtain rfl : ρ = 0 := by simpa using hρ
    rw [cutAt, if_pos hqe]
    refine cutsAt_of_part (δ := 0) ?_ le_rfl one_pos (by simp) (by simp) (by simp) (by simp)
    rw [show (q + (j : Int) - q).toNat = j by omega, zpow_add₀ (by norm_num), zpow_natCast]
    push_cast
    ring
  · obtain ⟨k, rfl⟩ := Int.le.dest (not_le.1 hqe).le
    have hk : k ≠ 0 := by rintro rfl; simp at hqe
    have hsteps : (2 : ℝ) ^ k ≠ 0 := by positivity
    have hr := Nat.mod_lt m (show 0 < 2 ^ k by positivity)
    have hm : (m : ℝ) = (m / 2 ^ k : Nat) * 2 ^ k + (m % 2 ^ k : Nat) := by exact_mod_cast (Nat.div_add_mod' m (2 ^ k)).symm
    have hρ0 : rest = false ↔ ρ = 0 := by rw [← not_iff_not, Bool.not_eq_false, hρ]
    rw [cutAt_above hk]
    refine cutsAt_of_part (δ := ((m % 2 ^ k : Nat) + ρ) / 2 ^ k) ?_ (by positivity) (part_lt_one h1 hr) ?_ ?_ ?_ ?_
    · rw [zpow_add₀ (by norm_num), zpow_natCast, hm]
      field_simp
      ring
    · rw [part_eq_zero h0, ← hρ0]
      simp
    · rw [part_lt_half h0 h1 hk]
      dsimp only
      split_ifs with hlt <;> simp [hlt]
    · rw [part_eq_half h0 h1 hk, ← hρ0]
      dsimp only
      split_ifs with hlt htie
      · simp [hlt.ne]
      · simp [htie]
      · simp [htie]
    · exact floor_part h0 h1 fun h => by have := hrest (hρ.2 h); omega

/-- The upper neighbour is taken as R86 says. -/
theorem takesUp_iff {c : Cut} {a : ℝ} {q : Int} (h : CutsAt c a q) (mode : Mode) (neg even : Bool) (sr : Nat) :
    takesUp mode neg c even sr = true ↔
      a ≠ c.m * 2 ^ q ∧ TakesUpper mode neg sr a (c.m * 2 ^ q) ((c.m + 1) * 2 ^ q) (even = true) := by
  simp only [takesUp, Bool.and_eq_true, Bool.not_eq_true', ← Bool.not_eq_true, h.exact_iff]
  refine and_congr_right fun _ => ?_
  cases mode with
  | rne =>
    have hbelow := h.below_iff
    have htie := h.tie_iff
    simp only [TakesUpper, ← htie]
    rcases hhalf : c.half with _ | _ | _
    · have := hbelow.1 hhalf
      simp [this.le]
    · simp [htie.1 hhalf]
    · have hupper : (c.m + 1) * 2 ^ q - a < a - c.m * 2 ^ q := by
        refine lt_of_le_of_ne (not_lt.1 fun hlt => ?_) fun heq => ?_
        · simpa [hhalf] using hbelow.2 hlt
        · simpa [hhalf] using htie.2 heq.symm
      simp [hupper]
  | rtz => simp [TakesUpper]
  | rup => simp [TakesUpper]
  | rdn => simp [TakesUpper]
  | sr =>
    simp only [TakesUpper, ← h.frac_eq]
    simp

/-! ### The code that RoundToFormat gives (R86) -/

/-- A code put into a pattern: past the largest finite number the infinity, or that number, with the condition of overflow. -/
def placed (f : FTy) (neg : Bool) (mode : Mode) (sat : Bool) (code : Nat) (fl : Flags) : Nat × Flags :=
  if infinityCode f ≤ code then
    if sat || towardZero mode neg then (encodeSign (fmtOf f) neg (infinityCode f - 1), fl ||| flagOF ||| flagNX)
    else (encodeSign (fmtOf f) neg (infinityCode f), fl ||| flagOF ||| flagNX)
  else (encodeSign (fmtOf f) neg code, fl)

/-- A magnitude between those of a code and the next, whether it is inexact, below the normal numbers, and rounded up. -/
structure Between (f : FTy) (neg : Bool) (mode : Mode) (sr : Nat) (a : ℝ) (c : Nat) (up inexact tiny : Bool) : Prop where
  lower : magnitude f c ≤ a
  upper : a < magnitude f (c + 1)
  inexact_iff : inexact = true ↔ a ≠ magnitude f c
  tiny_iff : tiny = true ↔ a < 2 ^ (smallest f + precision f - 1)
  up_iff : up = true ↔ inexact = true ∧ TakesUpper mode neg sr a (magnitude f c) (magnitude f (c + 1)) (c % 2 = 0)

/-- The leading bit of a significand bounds the magnitude. -/
theorem standsFor_bounds {m : Nat} {e : Int} {rest : Bool} {a : ℝ} (h : StandsFor m e rest a) (hm : m ≠ 0) :
    2 ^ ((m.log2 : Int) + e) ≤ a ∧ a < 2 ^ ((m.log2 : Int) + e + 1) := by
  obtain ⟨ρ, h0, h1, -, -, rfl⟩ := h
  have hlow : (2 : ℝ) ^ m.log2 ≤ m := by exact_mod_cast Nat.log2_self_le hm
  have hhigh : (m : ℝ) + 1 ≤ 2 ^ (m.log2 + 1) := by exact_mod_cast Nat.lt_log2_self
  have hunit : (0 : ℝ) < 2 ^ e := by positivity
  rw [add_right_comm, zpow_add₀ (by norm_num), zpow_add₀ (by norm_num) _ e, zpow_natCast, ← Nat.cast_add_one, zpow_natCast,
    mul_le_mul_iff_left₀ hunit, mul_lt_mul_iff_left₀ hunit]
  constructor <;> linarith

section
variable {f : FTy} {m : Nat} {e : Int} {rest : Bool} {a : ℝ}

/-- The exponent of the unit of R86. -/
def unitOf (f : FTy) (m : Nat) (e : Int) : Int := max ((m.log2 : Int) + e - ((precision f : Int) - 1)) (smallest f)

theorem roundToFormat_eq (f : FTy) (neg : Bool) (hm : m ≠ 0) (mode : Mode) (sat : Bool) (sr : Nat) :
    let c := cutAt m e rest (unitOf f m e)
    roundToFormat (.fin neg m e rest) (fmtOf f) mode sat sr = placed f neg mode sat
      ((unitOf f m e - smallest f).toNat * 2 ^ (precision f - 1) + if takesUp mode neg c (c.m % 2 == 0) sr then c.m + 1 else c.m)
      (flagIf (!c.exact) flagNX ||| flagIf (!c.exact && decide ((m.log2 : Int) + e < smallest f + ((precision f : Int) - 1))) flagUF) := by
  have hp : 1 < precision f := by have := precision_bounds f; omega
  have hinf := infinityCode_pos f
  have hover : ∀ code, infinityCode f - 1 < code ↔ infinityCode f ≤ code := by omega
  simp only [roundToFormat, placed, fmtOf_signed, fmtOf_p, fmtOf_emin, fmtOf_infCode, fmtOf_maxCode, hm, hp, hover, unitOf,
    Bool.not_true, Bool.and_false, Bool.false_eq_true, if_false, if_true]
  rfl

theorem unitOf_cut (h : StandsFor m e rest a) (hm : m ≠ 0) : CutsAt (cutAt m e rest (unitOf f m e)) a (unitOf f m e) := by
  obtain ⟨_, hp, _⟩ := precision_bounds f
  refine cutsAt_cutAt h fun hrest => ?_
  obtain ⟨_, _, _, _, hbits, _⟩ := h
  have : 109 ≤ m.log2 := (Nat.le_log2 hm).2 (hbits hrest)
  simp only [unitOf]
  omega

/-- The lower neighbour on the grid of the unit is in its place in the format. -/
theorem atPlace_cut (h : StandsFor m e rest a) (hm : m ≠ 0) :
    let k := (unitOf f m e - smallest f).toNat
    let c := cutAt m e rest (unitOf f m e)
    AtPlace f (k * 2 ^ (precision f - 1) + c.m) k c.m := by
  have hcut := unitOf_cut (f := f) h hm
  obtain ⟨hlow, hhigh⟩ := standsFor_bounds h hm
  have hp := precision_bounds f
  have hunit : (0 : ℝ) < 2 ^ unitOf f m e := by positivity
  refine ⟨rfl, ?_, ?_⟩
  · have hlt : ((cutAt m e rest (unitOf f m e)).m : ℝ) * 2 ^ unitOf f m e < 2 ^ precision f * 2 ^ unitOf f m e := by
      refine (hcut.lower.trans_lt hhigh).trans_le ?_
      rw [← zpow_natCast, ← zpow_add₀ (by norm_num)]
      refine zpow_le_zpow_right₀ (by norm_num) ?_
      simp only [unitOf]
      omega
    exact_mod_cast lt_of_mul_lt_mul_right hlt hunit.le
  · by_cases hsub : unitOf f m e = smallest f
    · left; simp [hsub]
    · right
      have hq : (m.log2 : Int) + e = ((precision f - 1 : Nat) : Int) + unitOf f m e := by
        simp only [unitOf] at hsub ⊢
        omega
      have hlt : (2 : ℝ) ^ (precision f - 1) * 2 ^ unitOf f m e < ((cutAt m e rest (unitOf f m e)).m + 1) * 2 ^ unitOf f m e := by
        refine lt_of_le_of_lt ?_ hcut.upper
        rwa [← zpow_natCast, ← zpow_add₀ (by norm_num), ← hq]
      have := lt_of_mul_lt_mul_right hlt hunit.le
      exact Nat.lt_succ_iff.1 (by exact_mod_cast this)

/-- RoundToFormat gives the code of a neighbour, chosen as R86 says. -/
theorem roundToFormat_between (h : StandsFor m e rest a) (hm : m ≠ 0) (neg : Bool) (mode : Mode) (sat : Bool) (sr : Nat) :
    ∃ c up inexact tiny, Between f neg mode sr a c up inexact tiny ∧
      roundToFormat (.fin neg m e rest) (fmtOf f) mode sat sr =
        placed f neg mode sat (c + up.toNat) (flagIf inexact flagNX ||| flagIf (inexact && tiny) flagUF) := by
  have hplace := atPlace_cut (f := f) h hm
  have hcut := unitOf_cut (f := f) h hm
  have htiny := standsFor_bounds h hm
  have hp := precision_bounds f
  rw [roundToFormat_eq f neg hm]
  have hq : unitOf f m e = smallest f + ((unitOf f m e - smallest f).toNat : Int) := by
    simp only [unitOf]
    omega
  generalize (unitOf f m e - smallest f).toNat = k at hplace hq ⊢
  generalize cutAt m e rest (unitOf f m e) = c at hplace hcut ⊢
  rw [hq] at hcut
  have hlower := magnitude_of_place hplace
  have hupper := magnitude_succ_of_place hplace
  have heven : (k * 2 ^ (precision f - 1) + c.m) % 2 = c.m % 2 := parity_of_place hplace
  have hup := takesUp_iff hcut mode neg (c.m % 2 == 0) sr
  rw [← hlower, ← hupper, beq_iff_eq] at hup
  have hinexact : (!c.exact) = true ↔ a ≠ magnitude f (k * 2 ^ (precision f - 1) + c.m) := by
    rw [Bool.not_eq_true', ← Bool.not_eq_true, hcut.exact_iff, hlower]
  refine ⟨k * 2 ^ (precision f - 1) + c.m, takesUp mode neg c (c.m % 2 == 0) sr, !c.exact,
    decide ((m.log2 : Int) + e < smallest f + ((precision f : Int) - 1)), ⟨?_, ?_, hinexact, ?_, ?_⟩, ?_⟩
  · rw [hlower]
    exact hcut.lower
  · rw [hupper]
    exact hcut.upper
  · rw [decide_eq_true_iff, ← add_sub_assoc]
    exact ⟨fun hlt => htiny.2.trans_le (zpow_le_zpow_right₀ (by norm_num) (by omega)),
      fun hlt => (zpow_lt_zpow_iff_right₀ (by norm_num)).1 (htiny.1.trans_lt hlt)⟩
  · rw [hup, hinexact, heven]
  · congr 1
    cases takesUp mode neg c (c.m % 2 == 0) sr <;> simp [Nat.add_assoc]

end

end Sys2Proof.Proofs
end

section
/-! SUPPORT. Exact results rounded once (R86, R140): what the exact results of the float operations stand for (R147-R151), the bits and
conditions of a rounding, and that an exact value comes back unchanged. -/

namespace Sys2Proof.Proofs

open Sys2Proof.Machine Sys2Proof.Claims

/-! ### The bits and conditions of a rounding -/

theorem placed_fst (f : FTy) (neg : Bool) (mode : Mode) (sat : Bool) (code : Nat) (fl : Flags) :
    (placed f neg mode sat code fl).1 = encodeSign (fmtOf f) neg (if infinityCode f ≤ code then
      (if sat || towardZero mode neg then infinityCode f - 1 else infinityCode f) else code) := by
  unfold placed
  split_ifs <;> rfl

theorem placed_snd (f : FTy) (neg : Bool) (mode : Mode) (sat : Bool) (code : Nat) (fl : Flags) :
    (placed f neg mode sat code fl).2 = fl ||| flagIf (decide (infinityCode f ≤ code)) (flagOF ||| flagNX) := by
  unfold placed
  split_ifs with h <;> simp [h, flagIf, BitVec.or_assoc]

/-- The conditions of a rounding, one by one. -/
theorem conditions_bits (inexact tiny past : Bool) :
    let fl := (flagIf inexact flagNX ||| flagIf (inexact && tiny) flagUF) ||| flagIf past (flagOF ||| flagNX)
    fl.getLsbD 0 = false ∧ fl.getLsbD 1 = false ∧ fl.getLsbD 2 = past ∧ fl.getLsbD 3 = (inexact && tiny) ∧
      fl.getLsbD 4 = (inexact || past) := by
  revert inexact tiny past
  decide

theorem towardZero_iff (mode : Mode) (neg : Bool) :
    towardZero mode neg = true ↔ mode = .rtz ∨ (mode = .rdn ∧ neg = false) ∨ (mode = .rup ∧ neg = true) := by
  cases mode <;> cases neg <;> decide

section
variable {f : FTy} {neg up inexact tiny : Bool} {mode : Mode} {sr c : Nat} {x : ℝ}

/-- A magnitude between two codes, put into a pattern, is rounded as R86 says. -/
theorem rounds_of_between (h : Between f neg mode sr |x| c up inexact tiny) (hneg : neg = true ↔ x < 0) :
    Rounds f mode sr x
      (placed f neg mode false (c + up.toNat) (flagIf inexact flagNX ||| flagIf (inexact && tiny) flagUF)) := by
  intro neg' lo hi m top normal hneg' hlo hhi hla hah hgap htop hnormal inexact' up' hup hdown toZero
  obtain ⟨rfl, rfl⟩ := neighbours_eq h.lower h.upper hlo hhi hla hah hgap
  obtain rfl : neg' = neg := Bool.eq_iff_iff.2 (hneg'.trans hneg.symm)
  obtain rfl := largestFinite_iff.1 htop
  obtain rfl : normal = _ := hnormal
  have hinexact : inexact' ↔ inexact = true := h.inexact_iff.symm
  have hupper : up' ↔ up = true := by
    rw [h.up_iff, ← hinexact, ← propext (evenOnGrid_magnitude f c)]
  obtain rfl : m = magnitude f (c + up.toNat) := by
    cases up
    · exact hdown (by simp [hupper])
    · exact hup (by simp [hupper])
  have hle : magnitude f (c + up.toNat) ≤ magnitude f (infinityCode f - 1) ↔ ¬ infinityCode f ≤ c + up.toNat := by
    rw [(magnitude_strictMono f).le_iff_le]
    have := infinityCode_pos f
    omega
  have hover : magnitude f (infinityCode f - 1) < magnitude f (c + up.toNat) ↔ infinityCode f ≤ c + up.toNat := by
    rw [← not_le, hle, not_not]
  have hzero : toZero ↔ towardZero mode neg' = true := (towardZero_iff mode neg').symm
  rw [placed_fst, placed_snd, hle, hover, hzero, hinexact, ← h.tiny_iff]
  obtain ⟨hnv, hdz, hof, huf, hnx⟩ := conditions_bits inexact tiny (decide (infinityCode f ≤ c + up.toNat))
  refine ⟨fun hfin => ?_, fun hinf htz => ?_, fun hinf htz => ?_, hnv, hdz, ?_, ?_, ?_⟩
  · rw [if_neg hfin]
    exact denotes_encodeSign (not_le.1 hfin) neg'
  · rw [if_pos hinf, htz, Bool.or_true, if_pos rfl]
    exact denotes_encodeSign (Nat.sub_lt (infinityCode_pos f) one_pos) neg'
  · rw [if_pos hinf, Bool.eq_false_of_not_eq_true htz, Bool.or_false, if_neg Bool.false_ne_true]
    exact ⟨encodeSign_lt infinityCode_lt neg', isInfinity_iff.2 (magCode_encodeSign infinityCode_lt neg'),
      signField_encodeSign infinityCode_lt neg'⟩
  · rw [hof, decide_eq_true_iff]
  · rw [huf, Bool.and_eq_true]
  · rw [hnx, Bool.or_eq_true, decide_eq_true_iff]

end

/-! ### Exact results -/

/-- An exact result other than 0, with no condition, that stands for `x`. -/
def Stands (r : Val × Flags) (x : ℝ) : Prop :=
  ∃ neg m e rest, r = (.fin neg m e rest, 0) ∧ m ≠ 0 ∧ (neg = true ↔ x < 0) ∧ StandsFor m e rest |x|

theorem rounds_of_stands {r : Val × Flags} {x : ℝ} (h : Stands r x) (f : FTy) (mode : Mode) (sr : Nat) :
    Rounds f mode sr x (rounded f mode sr r) := by
  obtain ⟨neg, m, e, rest, rfl, hm, hneg, hx⟩ := h
  obtain ⟨c, up, inexact, tiny, hbetween, heq⟩ := roundToFormat_between (f := f) hx hm neg mode false sr
  have hrounded : rounded f mode sr (.fin neg m e rest, 0) = roundToFormat (.fin neg m e rest) (fmtOf f) mode false sr := by
    simp [rounded]
  rw [hrounded, heq]
  exact rounds_of_between hbetween hneg

/-- A finite exact value. -/
def IsFin (v : Val) (x : ℝ) : Prop := ∃ neg m e, v = .fin neg m e false ∧ signed neg ((m : ℝ) * 2 ^ e) x

theorem signed_neg_iff {neg : Bool} {a x : ℝ} (h : signed neg a x) (ha : 0 < a) : neg = true ↔ x < 0 := by
  cases neg <;> simp only [signed] at h <;> simp [h] <;> linarith

theorem signed_abs {neg : Bool} {a x : ℝ} (h : signed neg a x) (ha : 0 ≤ a) : |x| = a := by
  cases neg <;> simp only [signed] at h <;> simp [h, abs_of_nonneg ha]

theorem signed_eq_zero {neg : Bool} {a x : ℝ} (h : signed neg a x) : x = 0 ↔ a = 0 := by
  cases neg <;> simp only [signed] at h <;> simp [h]

theorem signed_mul {n n' : Bool} {a b x y : ℝ} (h : signed n a x) (h' : signed n' b y) : signed (n != n') (a * b) (x * y) := by
  cases n <;> cases n' <;> simp_all [signed]

theorem signed_div {n n' : Bool} {a b x y : ℝ} (h : signed n a x) (h' : signed n' b y) : signed (n != n') (a / b) (x / y) := by
  cases n <;> cases n' <;> simp_all [signed, neg_div, div_neg]

theorem significand_ne_zero {neg : Bool} {m : Nat} {e : Int} {x : ℝ} (h : signed neg ((m : ℝ) * 2 ^ e) x) (hx : x ≠ 0) : m ≠ 0 := by
  rintro rfl
  exact hx ((signed_eq_zero h).2 (by simp))

theorem stands_of_isFin {v : Val} {x : ℝ} (h : IsFin v x) (hx : x ≠ 0) : Stands (v, 0) x := by
  obtain ⟨neg, m, e, rfl, hs⟩ := h
  have hm := significand_ne_zero hs hx
  refine ⟨neg, m, e, false, rfl, hm, signed_neg_iff hs (by positivity), ?_⟩
  rw [signed_abs hs (by positivity)]
  exact standsFor_exact m e

theorem isFin_of_denotes {f : FTy} {b : Nat} {neg : Bool} {a x : ℝ} (h : Denotes f b neg a) (hs : signed neg a x) :
    IsFin (decodeFmt (fmtOf f) b) x := by
  obtain ⟨hb, rfl, hfin, rfl⟩ := denotes_iff.1 h
  exact ⟨_, _, _, decode_finite hb hfin, hs⟩

theorem isFin_negIf {v : Val} {x y : ℝ} {n : Bool} (h : IsFin v x) (hy : signed n x y) : IsFin (v.negIf n) y := by
  obtain ⟨neg, m, e, rfl, hs⟩ := h
  refine ⟨neg != n, m, e, rfl, ?_⟩
  cases neg <;> cases n <;> simp_all [signed]

theorem isFin_times {v w : Val} {x y : ℝ} (h : IsFin v x) (h' : IsFin w y) : IsFin (v.times w) (x * y) := by
  obtain ⟨n, m, e, rfl, hs⟩ := h
  obtain ⟨n', m', e', rfl, hs'⟩ := h'
  refine ⟨n != n', m * m', e + e', rfl, ?_⟩
  rw [Nat.cast_mul, zpow_add₀ (by norm_num), mul_mul_mul_comm]
  exact signed_mul hs hs'

theorem fMul_of_isFin {v w : Val} {x y : ℝ} (h : IsFin v x) (h' : IsFin w y) : fMul v w = (v.times w, 0) := by
  obtain ⟨n, m, e, rfl, -⟩ := h
  obtain ⟨n', m', e', rfl, -⟩ := h'
  simp [fMul, Val.isNan, Val.isInf]

/-- A significand brought to a lower exponent. -/
theorem lowered (m : Nat) {e e1 : Int} (h : e ≤ e1) : ((m * 2 ^ (e1 - e).toNat : Nat) : ℝ) * 2 ^ e = m * 2 ^ e1 := by
  obtain ⟨k, rfl⟩ := Int.le.dest h
  rw [show (e + (k : Int) - e).toNat = k by omega, zpow_add₀ (by norm_num), zpow_natCast]
  push_cast
  ring

/-- The integer that a sign and a significand at a lower exponent give. -/
def loweredInt (n : Bool) (m : Nat) (e1 e : Int) : Int :=
  if n then -((m * 2 ^ (e1 - e).toNat : Nat) : Int) else (m * 2 ^ (e1 - e).toNat : Nat)

theorem loweredInt_mul {n : Bool} {m : Nat} {e1 e : Int} {x : ℝ} (h : e ≤ e1) (hs : signed n ((m : ℝ) * 2 ^ e1) x) :
    (loweredInt n m e1 e : ℝ) * 2 ^ e = x := by
  rw [hs, ← lowered m h, loweredInt]
  cases n <;> simp

theorem stands_fAdd {v w : Val} {x y : ℝ} (h : IsFin v x) (h' : IsFin w y) (hne : x + y ≠ 0) (mode : Mode) :
    Stands (fAdd mode v w) (x + y) := by
  obtain ⟨n1, m1, e1, rfl, hs⟩ := h
  obtain ⟨n2, m2, e2, rfl, hs'⟩ := h'
  have hsum : ((loweredInt n1 m1 e1 (min e1 e2) + loweredInt n2 m2 e2 (min e1 e2) : Int) : ℝ) * 2 ^ min e1 e2 = x + y := by
    rw [Int.cast_add, add_mul, loweredInt_mul (min_le_left ..) hs, loweredInt_mul (min_le_right ..) hs']
  have hzeros : ¬ (m1 = 0 ∧ m2 = 0) := by
    rintro ⟨rfl, rfl⟩
    rw [signed, Nat.cast_zero, zero_mul, neg_zero, ite_self] at hs hs'
    exact hne (by rw [hs, hs', add_zero])
  have hadd : fAdd mode (.fin n1 m1 e1 false) (.fin n2 m2 e2 false) =
      (if loweredInt n1 m1 e1 (min e1 e2) + loweredInt n2 m2 e2 (min e1 e2) = 0 then .fin (decide (mode = .rdn)) 0 0 false
      else .fin (decide (loweredInt n1 m1 e1 (min e1 e2) + loweredInt n2 m2 e2 (min e1 e2) < 0))
        (loweredInt n1 m1 e1 (min e1 e2) + loweredInt n2 m2 e2 (min e1 e2)).natAbs (min e1 e2) false, 0) := by
    simp only [fAdd, addFin, hzeros, if_false]
    rfl
  rw [hadd]
  generalize loweredInt n1 m1 e1 (min e1 e2) + loweredInt n2 m2 e2 (min e1 e2) = s at hsum
  have hs0 : s ≠ 0 := by
    rintro rfl
    exact hne (by rw [← hsum, Int.cast_zero, zero_mul])
  have hunit : (0 : ℝ) < 2 ^ min e1 e2 := by positivity
  rw [if_neg hs0, ← hsum]
  refine ⟨_, _, _, _, rfl, by simpa using hs0, ?_, ?_⟩
  · rw [decide_eq_true_iff, mul_neg_iff, and_iff_left hunit]
    simp [hunit.not_gt]
  · rw [abs_mul, abs_of_pos hunit, ← Int.cast_abs, Int.abs_eq_natAbs, Int.cast_natCast]
    exact standsFor_exact _ _

theorem stands_fMul {v w : Val} {x y : ℝ} (h : IsFin v x) (h' : IsFin w y) (hne : x * y ≠ 0) : Stands (fMul v w) (x * y) := by
  rw [fMul_of_isFin h h']
  exact stands_of_isFin (isFin_times h h') hne

theorem fMa_of_isFin {u v w : Val} {x y z : ℝ} (hu : IsFin u x) (hv : IsFin v y) (hw : IsFin w z) (mode : Mode) (np nd : Bool) :
    fMa mode np nd u v w = fAdd mode ((u.times v).negIf np) (w.negIf nd) := by
  have hp := fMul_of_isFin hu hv
  obtain ⟨n, m, e, rfl, -⟩ := hu
  obtain ⟨n', m', e', rfl, -⟩ := hv
  obtain ⟨n'', m'', e'', rfl, -⟩ := hw
  simp only [fMa, hp, Val.isNan, Val.times, Bool.or_self, Bool.false_eq_true, if_false]

theorem quotient_bits {m n : Nat} (hm : m ≠ 0) (hn : n ≠ 0) : 2 ^ 109 ≤ m * 2 ^ (110 + n.log2) / n := by
  rw [Nat.le_div_iff_mul_le (Nat.pos_of_ne_zero hn)]
  calc 2 ^ 109 * n ≤ 2 ^ 109 * 2 ^ (n.log2 + 1) := Nat.mul_le_mul_left _ Nat.lt_log2_self.le
    _ = 1 * 2 ^ (110 + n.log2) := by ring
    _ ≤ m * 2 ^ (110 + n.log2) := Nat.mul_le_mul_right _ (Nat.one_le_iff_ne_zero.2 hm)

/-- A quotient of significands has 110 bits or more, and a rest where the division leaves a remainder. -/
theorem standsFor_quotient {m n : Nat} (hm : m ≠ 0) (hn : n ≠ 0) (d e : Int) :
    StandsFor (m * 2 ^ (110 + n.log2) / n) (d - e - (110 + n.log2 : Nat)) (m * 2 ^ (110 + n.log2) % n != 0)
      ((m : ℝ) * 2 ^ d / (n * 2 ^ e)) := by
  have hnR : (0 : ℝ) < n := by positivity
  have hbits := quotient_bits hm hn
  have hsplit : (m : ℝ) * 2 ^ (110 + n.log2) =
      (m * 2 ^ (110 + n.log2) / n : Nat) * n + (m * 2 ^ (110 + n.log2) % n : Nat) := by
    exact_mod_cast (Nat.div_add_mod' _ n).symm
  have hrem := Nat.mod_lt (m * 2 ^ (110 + n.log2)) (Nat.pos_of_ne_zero hn)
  generalize m * 2 ^ (110 + n.log2) / n = q at hbits hsplit ⊢
  generalize m * 2 ^ (110 + n.log2) % n = r at hrem hsplit ⊢
  refine ⟨(r : ℝ) / n, by positivity, ?_, ?_, fun _ => hbits, ?_⟩
  · rw [div_lt_one hnR]
    exact_mod_cast hrem
  · simp [hn]
  · rw [zpow_sub₀ (by norm_num), zpow_sub₀ (by norm_num), zpow_natCast]
    field_simp
    linarith

theorem stands_fDiv {v w : Val} {x y : ℝ} (h : IsFin v x) (h' : IsFin w y) (hx : x ≠ 0) (hy : y ≠ 0) :
    Stands (fDiv v w) (x / y) := by
  obtain ⟨neg, m, d, rfl, hs⟩ := h
  obtain ⟨neg', n, e, rfl, hs'⟩ := h'
  have hm := significand_ne_zero hs hx
  have hn := significand_ne_zero hs' hy
  have hdiv : fDiv (.fin neg m d false) (.fin neg' n e false) = (.fin (neg != neg') (m * 2 ^ (110 + n.log2) / n)
      (d - e - (110 + n.log2 : Nat)) (m * 2 ^ (110 + n.log2) % n != 0), 0) := by
    simp only [fDiv, Val.isNan, Val.isNeg, hm, hn, Bool.or_self, Bool.false_eq_true, if_false]
    rfl
  refine ⟨_, _, _, _, hdiv, ?_, signed_neg_iff (signed_div hs hs') (by positivity), ?_⟩
  · exact (lt_of_lt_of_le (by norm_num) (quotient_bits hm hn)).ne'
  · rw [signed_abs (signed_div hs hs') (by positivity)]
    exact standsFor_quotient hm hn d e

/-! ### Square roots -/

/-- The bits found so far and those to come bound the root. -/
theorem isqrtFrom_eq {n : Nat} : ∀ {i r : Nat}, r * r ≤ n → n < (r + 2 ^ i) * (r + 2 ^ i) → isqrtFrom i r n = Nat.sqrt n := by
  intro i
  induction i with
  | zero => exact fun hlo hhi => Nat.eq_sqrt.2 ⟨hlo, hhi⟩
  | succ i ih =>
    intro r hlo hhi
    rw [isqrtFrom]
    split
    · refine ih (by assumption) ?_
      rwa [add_assoc, ← two_mul, ← pow_succ']
    · exact ih hlo (by omega)

theorem isqrt_eq_sqrt (n : Nat) : isqrt n = Nat.sqrt n := by
  refine isqrtFrom_eq (Nat.zero_le n) (Nat.lt_log2_self.trans_le ?_)
  rw [zero_add, ← pow_add]
  exact Nat.pow_le_pow_right (by norm_num) (by omega)

/-- A root of a significand of 220 bits or more has 110 bits or more, and a rest where the significand is no square. -/
theorem standsFor_sqrt {v : Nat} (hv : 2 ^ 220 ≤ v) (e : Int) :
    StandsFor (Nat.sqrt v) e (Nat.sqrt v * Nat.sqrt v != v) (Real.sqrt (v * 2 ^ (2 * e))) := by
  have hlo := Real.nat_sqrt_le_real_sqrt (a := v)
  have hhi := Real.real_sqrt_lt_nat_sqrt_succ (a := v)
  refine ⟨Real.sqrt v - Nat.sqrt v, by linarith, by linarith, ?_, fun _ => Nat.le_sqrt.2 ?_, ?_⟩
  · rw [bne_iff_ne, Ne, Ne, sub_eq_zero, not_iff_not, Real.sqrt_eq_iff_mul_self_eq (by positivity) (by positivity), eq_comm]
    exact_mod_cast Iff.rfl
  · exact le_trans (by norm_num) hv
  · rw [Real.sqrt_mul (by positivity), mul_comm 2 e, zpow_mul, zpow_ofNat, Real.sqrt_sq (by positivity)]
    ring

theorem stands_fSqrt {v : Val} {x : ℝ} (h : IsFin v x) (hx : 0 < x) : Stands (fSqrt v) (Real.sqrt x) := by
  obtain ⟨neg, m, e, rfl, hs⟩ := h
  have hm := significand_ne_zero hs hx.ne'
  obtain rfl : neg = false := by
    rw [← Bool.not_eq_true, signed_neg_iff hs (by positivity)]
    exact hx.not_gt
  obtain rfl : x = m * 2 ^ e := hs
  obtain ⟨k, hk, heven, hsqrt⟩ : ∃ k : Nat, 220 ≤ k ∧ e = 2 * ((e - k) / 2) + k ∧ fSqrt (.fin false m e false) =
      (.fin false (Nat.sqrt (m * 2 ^ k)) ((e - k) / 2) (Nat.sqrt (m * 2 ^ k) * Nat.sqrt (m * 2 ^ k) != m * 2 ^ k), 0) := by
    refine ⟨if e % 2 = 0 then 220 else 221, by split_ifs <;> norm_num, by split_ifs <;> omega, ?_⟩
    simp only [fSqrt, hm, isqrt_eq_sqrt, if_false, Bool.false_eq_true]
    rfl
  have hbits : 2 ^ 220 ≤ m * 2 ^ k := le_trans (Nat.pow_le_pow_right (by norm_num) hk) (Nat.le_mul_of_pos_left _ (Nat.pos_of_ne_zero hm))
  have hroot : (m : ℝ) * 2 ^ e = (m * 2 ^ k : Nat) * 2 ^ (2 * ((e - k) / 2)) := by
    conv_lhs => rw [heven, zpow_add₀ (by norm_num), zpow_natCast]
    push_cast
    ring
  have hnonneg := Real.sqrt_nonneg ((m : ℝ) * 2 ^ e)
  rw [hsqrt]
  refine ⟨_, _, _, _, rfl, ?_, ⟨fun h => absurd h Bool.false_ne_true, fun h => absurd h hnonneg.not_gt⟩, ?_⟩
  · exact (Nat.sqrt_pos.2 (by omega)).ne'
  · rw [abs_of_nonneg hnonneg, hroot]
    exact standsFor_sqrt hbits _

/-! ### The statements of O13 on finite results -/

theorem floatFiniteResults : FloatFiniteResults := by
  intro f mode sr a b c na nb nc A B C X Y Z hA hB hC hX hY hZ va vb vc
  have ha : IsFin va X := isFin_of_denotes hA hX
  have hb : IsFin vb Y := isFin_of_denotes hB hY
  have hc : IsFin vc Z := isFin_of_denotes hC hZ
  refine ⟨fun hne => ?_, fun hne => ?_, fun hne => ?_, fun hx hy => ?_, fun hx => ?_, fun np nd P Q hP hQ hne => ?_⟩
  · exact rounds_of_stands (stands_fAdd ha hb hne mode) f mode sr
  · rw [sub_eq_add_neg] at hne ⊢
    exact rounds_of_stands (stands_fAdd ha (isFin_negIf (n := true) hb rfl) hne mode) f mode sr
  · exact rounds_of_stands (stands_fMul ha hb hne) f mode sr
  · exact rounds_of_stands (stands_fDiv ha hb hx hy) f mode sr
  · exact rounds_of_stands (stands_fSqrt ha hx) f mode sr
  · rw [fMa_of_isFin ha hb hc]
    exact rounds_of_stands (stands_fAdd (isFin_negIf (isFin_times ha hb) hP) (isFin_negIf hc hQ) hne mode) f mode sr

/-- A finite value of the format is rounded to its own code, under every mode. -/
theorem roundToFormat_magnitude {f : FTy} {m c : Nat} {e : Int} (hm : (m : ℝ) * 2 ^ e = magnitude f c) (hc : c < infinityCode f)
    (neg : Bool) (mode : Mode) (sat : Bool) (sr : Nat) :
    roundToFormat (.fin neg m e false) (fmtOf f) mode sat sr = (encodeSign (fmtOf f) neg c, 0) := by
  by_cases h0 : m = 0
  · obtain rfl : c = 0 := (magnitude_strictMono f).injective (by rw [← hm, h0, magnitude_zero, Nat.cast_zero, zero_mul])
    subst h0
    simp [roundToFormat, fmtOf_signed]
  · obtain ⟨c', up, inexact, tiny, hbetween, heq⟩ := roundToFormat_between (f := f) (standsFor_exact m e) h0 neg mode sat sr
    have hlower := hbetween.lower
    have hupper := hbetween.upper
    rw [hm, (magnitude_strictMono f).le_iff_le] at hlower
    rw [hm, (magnitude_strictMono f).lt_iff_lt] at hupper
    obtain rfl : c' = c := by omega
    have hexact : inexact = false := by
      rw [← Bool.not_eq_true, hbetween.inexact_iff, hm]
      simp
    have hdown : up = false := by
      rw [← Bool.not_eq_true, hbetween.up_iff, hexact]
      simp
    rw [heq, hexact, hdown, placed, if_neg (by simpa using hc)]
    simp [flagIf]

theorem roundingKeepsExactValues : RoundingKeepsExactValues := by
  intro f m sat sr bits hbits neg mag e hdec
  rw [fmtOf_width] at hbits
  have hfin : magCode f bits < infinityCode f := by
    rw [decodeFmt_eq hbits] at hdec
    split_ifs at hdec
    omega
  rw [decode_finite hbits hfin] at hdec
  obtain ⟨rfl, rfl, rfl, -⟩ := Val.fin.inj hdec
  rw [roundToFormat_magnitude rfl hfin, encodeSign_magCode hbits]

end Sys2Proof.Proofs
end

section
/-! SUPPORT. Elements that are compared, classed or made integral (R153-R161), and the special operands (R78, R141, R151). -/

namespace Sys2Proof.Proofs

open Sys2Proof.Machine Sys2Proof.Claims

/-! ### Special operands -/

theorem fAdd_nan (m : Mode) (sig : Bool) (x : Val) : fAdd m (.nan sig) x = (.nan false, flagIf (sig || x.isSig) flagNV) := rfl

theorem fAdd_nan_right (m : Mode) (sig : Bool) (x : Val) : fAdd m x (.nan sig) = (.nan false, flagIf (sig || x.isSig) flagNV) := by
  cases x with
  | nan s => simp [fAdd, nanOf, Val.isSig, Bool.or_comm]
  | inf n => rfl
  | fin n k e r => rfl

theorem floatSpecialOperands : FloatSpecialOperands := by
  intro m n n' e e' k x
  have hnan : ∀ sig, fMul (.nan sig) x = (.nan false, flagIf (sig || x.isSig) flagNV) ∧
      fMul x (.nan sig) = (.nan false, flagIf (sig || x.isSig) flagNV) ∧
      fDiv (.nan sig) x = (.nan false, flagIf (sig || x.isSig) flagNV) ∧
      fDiv x (.nan sig) = (.nan false, flagIf (sig || x.isSig) flagNV) := by
    intro sig
    simp [fMul, fDiv, nanOf, Val.isNan, Val.isSig, Bool.or_comm]
  refine ⟨fun sig => ?_, rfl, ?_, rfl, ?_, rfl, ?_, fun hk => ?_, ?_, rfl, fun hk => ?_, rfl, rfl, ?_, ?_, fun hk => ?_, ?_⟩
  · obtain ⟨h1, h2, h3, h4⟩ := hnan sig
    exact ⟨fAdd_nan m sig x, fAdd_nan_right m sig x, h1, h2, h3, h4, rfl⟩
  · cases n <;> cases n' <;> rfl
  · simp [fMul, invalid, Val.isNan, Val.isInf, Val.isZero]
  · simp [fDiv, invalid, Val.isNan]
  · simp [fDiv, Val.isNan, Val.isNeg, hk.ne']
  · rfl
  · simp [fSqrt, invalid, hk.ne']
  · rfl
  · rfl
  · cases n <;> simp [fAdd, addFin, hk.ne']
  · simp [fMul, Val.isNan, Val.isInf, Val.times]

/-! ### Integral values (R161) -/

theorem magnitude_infinityCode (f : FTy) :
    magnitude f (infinityCode f) = 2 ^ precision f * 2 ^ (smallest f + (topExp f - 2 : Nat)) := by
  have h := magnitude_succ_of_place (place_maxCode f)
  rw [Nat.sub_add_cancel (infinityCode_pos f)] at h
  rw [h, Nat.cast_sub Nat.one_le_two_pow]
  push_cast
  ring

/-- A natural number up to two to the precision is finite in the format. -/
theorem exists_code_of_nat {f : FTy} {i : Nat} (h : i ≤ 2 ^ precision f) : ∃ c, c < infinityCode f ∧ (i : ℝ) = magnitude f c := by
  obtain ⟨hsmall, htop⟩ := smallest_bounds f
  obtain ⟨hp, -, -⟩ := precision_bounds f
  rcases Nat.eq_zero_or_pos i with rfl | hi
  · exact ⟨0, infinityCode_pos f, by rw [magnitude_zero, Nat.cast_zero]⟩
  · have hgrid : OnGrid f i := by
      rcases h.lt_or_eq with hlt | rfl
      · exact ⟨i, 0, hlt, hsmall, by simp⟩
      · refine ⟨2 ^ (precision f - 1), 1, Nat.pow_lt_pow_right (by norm_num) (by omega), by omega, ?_⟩
        rw [zpow_one, two_pow_precision]
        push_cast
        ring
    obtain ⟨c, _, _, _, hbetween, -⟩ := roundToFormat_between (f := f) (standsFor_exact i 0) hi.ne' false .rne false 0
    rw [zpow_zero, mul_one] at hbetween
    have hc := eq_magnitude_of_grid hgrid hbetween.lower hbetween.upper
    refine ⟨c, (magnitude_strictMono f).lt_iff_lt.1 ?_, hc⟩
    have hi2 : (i : ℝ) ≤ 2 ^ precision f := by exact_mod_cast h
    have hexp : (1 : ℝ) < 2 ^ (smallest f + (topExp f - 2 : Nat)) := one_lt_zpow₀ (by norm_num) (by omega)
    have hpos : (0 : ℝ) < 2 ^ precision f := by positivity
    rw [← hc, magnitude_infinityCode]
    nlinarith

/-- A finite number that is no integer lies below two to the precision. -/
theorem floor_lt_of_inexact {f : FTy} {c : Nat} (h : magnitude f c ≠ ⌊magnitude f c⌋₊) : ⌊magnitude f c⌋₊ < 2 ^ precision f := by
  obtain ⟨k, m, hplace⟩ := exists_place f c
  have hneg : smallest f + (k : Int) < 0 := by
    by_contra hge
    obtain ⟨j, hj⟩ := Int.le.dest (not_lt.1 hge)
    refine h ?_
    rw [magnitude_of_place hplace, ← hj, zero_add, zpow_natCast]
    have : (m : ℝ) * 2 ^ j = (m * 2 ^ j : Nat) := by push_cast; rfl
    rw [this, Nat.floor_natCast]
  have hlt : (2 : ℝ) ^ (smallest f + (k : Int)) ≤ 1 := zpow_le_one_of_nonpos₀ (by norm_num) hneg.le
  have hm : (m : ℝ) < 2 ^ precision f := by exact_mod_cast hplace.bound
  rw [Nat.floor_lt (magnitude_nonneg f c), magnitude_of_place hplace]
  push_cast
  nlinarith [Nat.cast_nonneg (α := ℝ) m]

/-- The integers about a finite number are finite numbers, the upper one where it is no integer. -/
theorem exists_code_of_floor {f : FTy} {c : Nat} (hc : c < infinityCode f) {up : Bool}
    (hup : up = true → magnitude f c ≠ ⌊magnitude f c⌋₊) :
    ∃ c', c' < infinityCode f ∧ ((⌊magnitude f c⌋₊ + up.toNat : Nat) : ℝ) = magnitude f c' := by
  by_cases hint : magnitude f c = ⌊magnitude f c⌋₊
  · obtain rfl : up = false := Bool.eq_false_iff.2 fun h => hup h hint
    exact ⟨c, hc, hint.symm⟩
  · have hlt := floor_lt_of_inexact hint
    have hone := Bool.toNat_le up
    exact exists_code_of_nat (by omega)

/-- The integer that a mode chooses, and whether it is the value. -/
theorem roundIntegral_spec (neg : Bool) (m : Nat) (e : Int) (mode : Mode) (sr : Nat) {A : ℝ} (hA : A = m * 2 ^ e) :
    ∃ up exact : Bool, roundIntegral neg m e false mode sr = (⌊A⌋₊ + up.toNat, exact) ∧ (exact = true ↔ A = ⌊A⌋₊) ∧
      (up = true ↔ A ≠ ⌊A⌋₊ ∧ TakesUpper mode neg sr A ⌊A⌋₊ (⌊A⌋₊ + 1) (⌊A⌋₊ % 2 = 0)) := by
  have hcut : CutsAt (cutAt m e false 0) A 0 := hA ▸ cutsAt_cutAt (standsFor_exact m e) fun h => absurd h Bool.false_ne_true
  rw [roundIntegral]
  generalize cutAt m e false 0 = c at hcut
  have hfloor : ⌊A⌋₊ = c.m := by
    rw [Nat.floor_eq_iff (hA ▸ by positivity)]
    simpa using And.intro hcut.lower hcut.upper
  have hexact := hcut.exact_iff
  have hup := takesUp_iff hcut mode neg (c.m % 2 == 0) sr
  rw [zpow_zero, mul_one] at hexact hup
  rw [mul_one, beq_iff_eq] at hup
  rw [hfloor]
  refine ⟨takesUp mode neg c (c.m % 2 == 0) sr, c.exact, ?_, hexact, hup⟩
  cases takesUp mode neg c (c.m % 2 == 0) sr <;> rfl

section
variable {f : FTy} {a : Nat}

theorem fRnd_finite {neg : Bool} {A : ℝ} (h : Denotes f a neg A) (mode : Mode) (x : Bool) (sr : Nat) :
    let n := ⌊A⌋₊
    let inexact := A ≠ n
    let up := inexact ∧ TakesUpper mode neg sr A n (n + 1) (n % 2 = 0)
    let r := fRnd (fmtOf f) mode x sr (decodeFmt (fmtOf f) a)
    (up → Denotes f r.1 neg (n + 1 : Nat)) ∧ (¬ up → Denotes f r.1 neg n) ∧
      (x = true → inexact → r.2 = flagNX) ∧ (x = false ∨ ¬ inexact → r.2 = 0) := by
  obtain ⟨hb, rfl, hfin, rfl⟩ := denotes_iff.1 h
  obtain ⟨up, exact, hround, hexact, hup⟩ := roundIntegral_spec (signField f a) (codeMag (fmtOf f) (magCode f a)).1
    (codeMag (fmtOf f) (magCode f a)).2 mode sr (A := magnitude f (magCode f a)) rfl
  obtain ⟨c, hc, heq⟩ := exists_code_of_floor hfin (up := up) fun h => (hup.1 h).1
  have hbits := roundToFormat_magnitude (m := ⌊magnitude f (magCode f a)⌋₊ + up.toNat) (e := 0) (by rw [zpow_zero, mul_one, heq]) hc
    (signField f a) .rne false 0
  have hden := denotes_encodeSign hc (signField f a)
  rw [← heq] at hden
  intro n inexact up' r
  have hr : r = (encodeSign (fmtOf f) (signField f a) c, flagIf (x && !exact) flagNX) := by
    simp only [r, decode_finite hb hfin, fRnd, hround, hbits]
  have hin : inexact ↔ ¬ exact = true := not_congr hexact.symm
  have hup' : up' ↔ up = true := hup.symm
  rw [hr, hin, hup']
  refine ⟨fun hu => ?_, fun hu => ?_, fun hx he => ?_, fun hx => ?_⟩
  · simpa [hu] using hden
  · simpa [hu] using hden
  · simp [hx, he, flagIf]
  · rcases hx with rfl | hx
    · rfl
    · simp [not_not.1 hx, flagIf]

theorem fRnd_special (ha : a < 2 ^ elemBits f) (mode : Mode) (x : Bool) (sr : Nat) :
    (isInfinity f a → fRnd (fmtOf f) mode x sr (decodeFmt (fmtOf f) a) = (a, 0)) ∧
      (isNaN f a → (fRnd (fmtOf f) mode x sr (decodeFmt (fmtOf f) a)).1 = canonicalNaN f ∧
        ((fRnd (fmtOf f) mode x sr (decodeFmt (fmtOf f) a)).2 = flagNV ↔ isSignalling f a) ∧
        ((fRnd (fmtOf f) mode x sr (decodeFmt (fmtOf f) a)).2 = 0 ↔ ¬ isSignalling f a)) := by
  refine ⟨fun h => ?_, fun h => ?_⟩
  · rw [decode_infinity ha h, fRnd, roundToFormat, fmtOf_signed, fmtOf_infCode, ← isInfinity_iff.1 h]
    simp [encodeSign_magCode ha]
  · obtain ⟨sig, hdec, hsig⟩ := decode_nan ha h
    rw [hdec, fRnd, fmtOf_nanCode, ← hsig]
    cases sig <;> simp [flagIf, flagNV]

end

/-! ### Order (R153, R157) -/

theorem orderKey_eq {f : FTy} {b : Nat} (hb : b < 2 ^ elemBits f) (apart : Bool) : orderKey f apart b =
    if signField f b then -(magCode f b : Int) - (if apart then 1 else 0) else magCode f b := by
  have h : (b : Int) = (if signField f b then 2 ^ (elemBits f - 1) else 0) + magCode f b := by exact_mod_cast magCode_of_sign hb
  rw [orderKey]
  split_ifs at h ⊢ <;> linarith

theorem compare_congr {α β : Type} [LinearOrder α] [LinearOrder β] {a b : α} {c d : β} (h : a < b ↔ c < d) (h' : b < a ↔ d < c) :
    compare a b = compare c d := by
  rcases lt_trichotomy a b with hlt | rfl | hlt
  · rw [compare_lt_iff_lt.2 hlt, compare_lt_iff_lt.2 (h.1 hlt)]
  · have := h.not.1 (lt_irrefl _)
    have := h'.not.1 (lt_irrefl _)
    rw [compare_eq_iff_eq.2 rfl, compare_eq_iff_eq.2 (le_antisymm (not_lt.1 ‹¬ d < c›) (not_lt.1 ‹¬ c < d›))]
  · rw [compare_gt_iff_gt.2 hlt, compare_gt_iff_gt.2 (h'.1 hlt)]

/-- The number of a key: magnitude and sign. -/
noncomputable def keyValue (f : FTy) (k : Int) : ℝ := if k < 0 then -magnitude f k.natAbs else magnitude f k.natAbs

theorem keyValue_strictMono (f : FTy) : StrictMono (keyValue f) := by
  refine strictMono_of_odd_strictMonoOn_nonneg (fun k => ?_) fun j hj k hk hlt => ?_
  · rcases lt_trichotomy k 0 with h | rfl | h
    · simp [keyValue, h, h.not_gt]
    · simp [keyValue, magnitude_zero]
    · simp [keyValue, h, h.not_gt]
  · simp only [Set.mem_Ici] at hj hk
    simp only [keyValue, hj.not_gt, hk.not_gt, if_false]
    exact magnitude_strictMono f (by omega)

theorem keyValue_signed (f : FTy) (n : Bool) (c : Nat) : signed n (magnitude f c) (keyValue f (if n then -(c : Int) else c)) := by
  cases n
  · simp [signed, keyValue]
  · rcases Nat.eq_zero_or_pos c with rfl | h
    · simp [signed, keyValue, magnitude_zero]
    · simp [signed, keyValue, h]

/-- A comparison of finite values is that of their keys. -/
theorem fCompare_fin {f : FTy} {n1 n2 : Bool} {m1 m2 : Nat} {e1 e2 k1 k2 : Int} (h1 : signed n1 ((m1 : ℝ) * 2 ^ e1) (keyValue f k1))
    (h2 : signed n2 ((m2 : ℝ) * 2 ^ e2) (keyValue f k2)) :
    fCompare (.fin n1 m1 e1 false) (.fin n2 m2 e2 false) = compare k1 k2 := by
  have hunit : (0 : ℝ) < 2 ^ min e1 e2 := by positivity
  have h1' := loweredInt_mul (min_le_left e1 e2) h1
  have h2' := loweredInt_mul (min_le_right e1 e2) h2
  have hcompare : fCompare (.fin n1 m1 e1 false) (.fin n2 m2 e2 false) =
      compare (loweredInt n1 m1 e1 (min e1 e2)) (loweredInt n2 m2 e2 (min e1 e2)) := rfl
  rw [hcompare]
  apply compare_congr
  · rw [← (keyValue_strictMono f).lt_iff_lt (a := k1), ← h1', ← h2', mul_lt_mul_iff_left₀ hunit, Int.cast_lt]
  · rw [← (keyValue_strictMono f).lt_iff_lt (a := k2), ← h1', ← h2', mul_lt_mul_iff_left₀ hunit, Int.cast_lt]

section
variable {f : FTy} {a b : Nat} (ha : a < 2 ^ elemBits f) (hb : b < 2 ^ elemBits f)
include ha hb

/-- A comparison of two patterns that are no NaN is that of their keys. -/
theorem fCompare_eq (hna : ¬ isNaN f a) (hnb : ¬ isNaN f b) :
    fCompare (decodeFmt (fmtOf f) a) (decodeFmt (fmtOf f) b) = compare (orderKey f false a) (orderKey f false b) := by
  rw [isNaN_iff, not_lt] at hna hnb
  have hinf := infinityCode_pos f
  have hka : orderKey f false a = if signField f a then -(magCode f a : Int) else magCode f a := by simpa using orderKey_eq ha false
  have hkb : orderKey f false b = if signField f b then -(magCode f b : Int) else magCode f b := by simpa using orderKey_eq hb false
  rcases hna.lt_or_eq with hfa | hia <;> rcases hnb.lt_or_eq with hfb | hib
  · rw [decode_finite ha hfa, decode_finite hb hfb, hka, hkb]
    exact fCompare_fin (keyValue_signed f _ _) (keyValue_signed f _ _)
  · rw [decode_finite ha hfa, decode_infinity hb (isInfinity_iff.2 hib), fCompare]
    · cases hs : signField f b <;> simp only [hs, Bool.false_eq_true, if_true, if_false] at hkb ⊢
      · exact (compare_lt_iff_lt.2 (by split_ifs at hka <;> omega)).symm
      · exact (compare_gt_iff_gt.2 (by split_ifs at hka <;> omega)).symm
    · intro n h; cases h
  · rw [decode_infinity ha (isInfinity_iff.2 hia), decode_finite hb hfb, fCompare]
    · cases hs : signField f a <;> simp only [hs, Bool.false_eq_true, if_true, if_false] at hka ⊢
      · exact (compare_gt_iff_gt.2 (by split_ifs at hkb <;> omega)).symm
      · exact (compare_lt_iff_lt.2 (by split_ifs at hkb <;> omega)).symm
    · intro n h; cases h
  · rw [decode_infinity ha (isInfinity_iff.2 hia), decode_infinity hb (isInfinity_iff.2 hib), hka, hkb, hia, hib]
    cases signField f a <;> cases signField f b <;> simp only [fCompare, Bool.false_eq_true, if_true, if_false, reduceCtorEq]
    · exact (compare_eq_iff_eq.2 rfl).symm
    · exact (compare_gt_iff_gt.2 (by omega)).symm
    · exact (compare_lt_iff_lt.2 (by omega)).symm
    · exact (compare_eq_iff_eq.2 rfl).symm

end

/-! ### Minimum, maximum and comparison (R153, R157) -/

section
variable {f : FTy} {a b : Nat}

theorem decode_isNaN (ha : a < 2 ^ elemBits f) : (decodeFmt (fmtOf f) a).isNan = true ↔ isNaN f a := by
  rw [isNaN_iff, decodeFmt_eq ha]
  split_ifs <;> simp [Val.isNan] <;> omega

theorem decode_isSig (ha : a < 2 ^ elemBits f) : (decodeFmt (fmtOf f) a).isSig = true ↔ isSignalling f a := by
  rw [isSignalling_iff, decodeFmt_eq ha]
  split_ifs with h h' <;> simp [Val.isSig] <;> omega

theorem decode_isNeg (ha : a < 2 ^ elemBits f) (hn : ¬ isNaN f a) : (decodeFmt (fmtOf f) a).isNeg = signField f a := by
  rw [isNaN_iff] at hn
  rw [decodeFmt_eq ha, if_neg hn]
  split_ifs <;> rfl

/-- The keys with -0 below +0 are those with equal zeros, negative numbers one lower. -/
theorem orderKey_apart (ha : a < 2 ^ elemBits f) : orderKey f true a = orderKey f false a - (if signField f a then 1 else 0) := by
  rw [orderKey_eq ha, orderKey_eq ha]
  cases signField f a <;> simp

theorem orderKey_sign (ha : a < 2 ^ elemBits f) :
    if signField f a then orderKey f false a ≤ 0 else 0 ≤ orderKey f false a := by
  rw [orderKey_eq ha]
  split_ifs <;> omega

variable (ha : a < 2 ^ elemBits f) (hb : b < 2 ^ elemBits f)
include ha hb

/-- The order of R153 is that of the keys with -0 below +0. -/
theorem fBelow_iff (hna : ¬ isNaN f a) (hnb : ¬ isNaN f b) :
    fBelow (decodeFmt (fmtOf f) a) (decodeFmt (fmtOf f) b) = true ↔ orderKey f true a < orderKey f true b := by
  have hsa := orderKey_sign ha
  have hsb := orderKey_sign hb
  rw [fBelow, fCompare_eq ha hb hna hnb, decode_isNeg ha hna, decode_isNeg hb hnb, orderKey_apart ha, orderKey_apart hb]
  generalize orderKey f false a = k at *
  generalize orderKey f false b = k' at *
  rcases lt_trichotomy k k' with hlt | rfl | hlt
  · rw [compare_lt_iff_lt.2 hlt]
    refine iff_of_true rfl ?_
    split_ifs at * <;> omega
  · rw [compare_eq_iff_eq.2 rfl]
    cases signField f a <;> cases signField f b <;> simp
  · rw [compare_gt_iff_gt.2 hlt]
    refine iff_of_false Bool.false_ne_true ?_
    split_ifs at * <;> omega

theorem orderKey_injective (h : orderKey f true a = orderKey f true b) : a = b := by
  have hsa := magCode_of_sign ha
  have hsb := magCode_of_sign hb
  rw [orderKey_eq ha, orderKey_eq hb] at h
  simp only [if_true] at h
  split_ifs at h hsa hsb <;> omega

/-- VFMIN and VFMAX on two elements, at least one of them a NaN (R153). -/
theorem fMinMax_nan (isMax strict : Bool) : let r := fMinMax (fmtOf f) isMax strict a b
    (isNaN f a → isNaN f b ∨ strict = true → r.1 = canonicalNaN f) ∧ (isNaN f b → strict = true → r.1 = canonicalNaN f) ∧
      (isNaN f a → ¬ isNaN f b → strict = false → r.1 = b) ∧ (¬ isNaN f a → isNaN f b → strict = false → r.1 = a) := by
  simp only [← decode_isNaN ha, ← decode_isNaN hb, fMinMax, fmtOf_nanCode, fmtOf_width, Nat.mod_eq_of_lt ha, Nat.mod_eq_of_lt hb]
  cases (decodeFmt (fmtOf f) a).isNan <;> cases (decodeFmt (fmtOf f) b).isNan <;> cases strict <;> simp

omit ha hb in
theorem fMinMax_flags (isMax strict : Bool) : (fMinMax (fmtOf f) isMax strict a b).2 =
    flagIf ((decodeFmt (fmtOf f) a).isSig || (decodeFmt (fmtOf f) b).isSig) flagNV := by
  simp only [fMinMax]
  split_ifs <;> rfl

/-- VFMIN and VFMAX on two numbers. -/
theorem fMinMax_number (hna : ¬ isNaN f a) (hnb : ¬ isNaN f b) (isMax strict : Bool) :
    let r := fMinMax (fmtOf f) isMax strict a b
    (orderKey f true a ≤ orderKey f true b → r.1 = if isMax then b else a) ∧
      (orderKey f true b ≤ orderKey f true a → r.1 = if isMax then a else b) := by
  have hr : (fMinMax (fmtOf f) isMax strict a b).1 =
      if (fBelow (decodeFmt (fmtOf f) a) (decodeFmt (fmtOf f) b) != isMax) = true then a else b := by
    rw [← decode_isNaN ha, Bool.not_eq_true] at hna
    rw [← decode_isNaN hb, Bool.not_eq_true] at hnb
    simp [fMinMax, hna, hnb, fmtOf_width, Nat.mod_eq_of_lt ha, Nat.mod_eq_of_lt hb]
  have hbelow := fBelow_iff ha hb hna hnb
  intro r
  simp only [r, hr]
  refine ⟨fun hle => ?_, fun hle => ?_⟩
  · rcases hle.lt_or_eq with hlt | heq
    · rw [hbelow.2 hlt]
      cases isMax <;> rfl
    · rw [orderKey_injective ha hb heq, ite_self, ite_self]
  · rw [Bool.eq_false_iff.2 (mt hbelow.1 hle.not_gt)]
    cases isMax <;> rfl

/-- VFCMP on two numbers: the condition on their keys, and no condition raised (R157). -/
theorem fCmp_number (hna : ¬ isNaN f a) (hnb : ¬ isNaN f b) (c : FCond) :
    let r := fCmp c (decodeFmt (fmtOf f) a) (decodeFmt (fmtOf f) b)
    (r.1 = true ↔ ordered c (orderKey f false a) (orderKey f false b)) ∧ r.2 = 0 := by
  have hsa : (decodeFmt (fmtOf f) a).isSig = false := Bool.eq_false_iff.2 fun h => hna ((decode_isSig ha).1 h).1
  have hsb : (decodeFmt (fmtOf f) b).isSig = false := Bool.eq_false_iff.2 fun h => hnb ((decode_isSig hb).1 h).1
  have hcompare := fCompare_eq ha hb hna hnb
  rw [← decode_isNaN ha, Bool.not_eq_true] at hna
  rw [← decode_isNaN hb, Bool.not_eq_true] at hnb
  cases c <;> simp [fCmp, ordered, hna, hnb, hsa, hsb, hcompare, flagIf, compare_lt_iff_lt, compare_gt_iff_gt]

/-- VFCMP with a NaN. -/
theorem fCmp_nan (hn : isNaN f a ∨ isNaN f b) (c : FCond) :
    let r := fCmp c (decodeFmt (fmtOf f) a) (decodeFmt (fmtOf f) b)
    let sig := isSignalling f a ∨ isSignalling f b
    (r.1 = true ↔ c = .ne ∨ c = .uno) ∧ (sig ∨ c = .lt ∨ c = .le ∨ c = .gt ∨ c = .ge → r.2 = flagNV) ∧
      (¬ sig → c = .eq ∨ c = .ne ∨ c = .ord ∨ c = .uno → r.2 = 0) := by
  have hun : ((decodeFmt (fmtOf f) a).isNan || (decodeFmt (fmtOf f) b).isNan) = true := by
    rwa [Bool.or_eq_true, decode_isNaN ha, decode_isNaN hb]
  have hsig : isSignalling f a ∨ isSignalling f b ↔ ((decodeFmt (fmtOf f) a).isSig || (decodeFmt (fmtOf f) b).isSig) = true := by
    rw [Bool.or_eq_true, decode_isSig ha, decode_isSig hb]
  intro r sig
  simp only [r, sig, hsig, fCmp, hun]
  cases c <;> cases ((decodeFmt (fmtOf f) a).isSig || (decodeFmt (fmtOf f) b).isSig) <;> simp [flagIf]

end

/-! ### Classes (R159) -/

section
variable {f : FTy} {a k m : Nat}

/-- The fields of a finite number from its place: the exponent field is 0 below the normal numbers. -/
theorem place_fields (h : AtPlace f (magCode f a) k m) :
    (expField f a = 0 ↔ m < 2 ^ (precision f - 1)) ∧ (m < 2 ^ (precision f - 1) → trailField f a = m) := by
  have hpos : 0 < 2 ^ (precision f - 1) := by positivity
  rw [expField_eq, trailField_eq, h.code, Nat.div_eq_zero_iff_lt hpos]
  rcases h.normal with rfl | hn
  · rw [zero_mul, zero_add]
    exact ⟨Iff.rfl, Nat.mod_eq_of_lt⟩
  · exact ⟨⟨fun h => by omega, fun h => by omega⟩, fun h => by omega⟩

/-- The class of a finite number by its place. -/
theorem fClass_place {c : Nat} (h : AtPlace f c k m) (n : Bool) : fClass (fmtOf f) (.fin n m (smallest f + k) false) =
    if m = 0 then (if n then 5 else 6) else if m < 2 ^ (precision f - 1) then (if n then 4 else 7) else if n then 3 else 8 := by
  have hp := precision_bounds f
  by_cases h0 : m = 0
  · simp only [fClass, h0, if_true]
  · have hlog : m.log2 < precision f - 1 ↔ m < 2 ^ (precision f - 1) := Nat.log2_lt h0
    have hk := h.normal
    have hsub : (m.log2 : Int) + (smallest f + k) < smallest f + ((precision f : Int) - 1) ↔ m < 2 ^ (precision f - 1) := by omega
    simp only [fClass, fmtOf_emin, fmtOf_p, h0, hsub, if_false]

end

theorem fClass_spec {f : FTy} {a : Nat} (ha : a < 2 ^ elemBits f) :
    let k := fClass (fmtOf f) (decodeFmt (fmtOf f) a)
    let class_ := fun (p : Prop) (neg pos : Nat) => p → k = if signField f a then neg else pos
    (isSignalling f a → k = 0) ∧ (isNaN f a → ¬ isSignalling f a → k = 1) ∧ class_ (isInfinity f a) 2 9 ∧
      class_ (expField f a = 0 ∧ trailField f a = 0) 5 6 ∧ class_ (expField f a = 0 ∧ trailField f a ≠ 0) 4 7 ∧
      class_ (expField f a ≠ 0 ∧ expField f a ≠ topExp f) 3 8 := by
  obtain ⟨k, m, hplace⟩ := exists_place f (magCode f a)
  obtain ⟨hexp, htrail⟩ := place_fields hplace
  have hfinite : expField f a ≠ topExp f → fClass (fmtOf f) (decodeFmt (fmtOf f) a) =
      if m = 0 then (if signField f a then 5 else 6) else if m < 2 ^ (precision f - 1) then (if signField f a then 4 else 7)
      else if signField f a then 3 else 8 := by
    intro h
    rw [decode_finite ha (finite_iff.1 h), codeMag_of_place hplace]
    exact fClass_place hplace _
  have hzero : expField f a = 0 → expField f a ≠ topExp f := by
    have := two_le_topExp f
    omega
  refine ⟨fun h => ?_, fun h hs => ?_, fun h => ?_, fun ⟨h, ht⟩ => ?_, fun ⟨h, ht⟩ => ?_, fun ⟨h, ht⟩ => ?_⟩
  · obtain ⟨sig, hdec, hsig⟩ := decode_nan ha h.1
    rw [hdec, hsig.2 h]
    rfl
  · obtain ⟨sig, hdec, hsig⟩ := decode_nan ha h
    rw [hdec, Bool.eq_false_iff.2 (mt hsig.1 hs)]
    rfl
  · rw [decode_infinity ha h]
    rfl
  · rw [htrail (hexp.1 h)] at ht
    rw [hfinite (hzero h), if_pos ht]
  · rw [htrail (hexp.1 h)] at ht
    rw [hfinite (hzero h), if_neg ht, if_pos (hexp.1 h)]
  · have hm := mt hexp.2 h
    have hpos : 0 < 2 ^ (precision f - 1) := by positivity
    rw [hfinite ht, if_neg (by omega), if_neg hm]

theorem floatComparisons : FloatComparisons := by
  intro f a b ha hb va vb nan sig
  have hsig : sig ↔ (va.isSig || vb.isSig) = true := by
    rw [Bool.or_eq_true, decode_isSig ha, decode_isSig hb]
  refine ⟨fun mode x sr neg A h => fRnd_finite h mode x sr, fun mode x sr => fRnd_special ha mode x sr, fun isMax strict => ?_,
    fun c => ⟨fun hn => fCmp_number ha hb (mt .inl hn) (mt .inr hn) c, fun hn => fCmp_nan ha hb hn c⟩, fClass_spec ha⟩
  obtain ⟨h1, h2, h3, h4⟩ := fMinMax_nan ha hb isMax strict
  refine ⟨fun hs => ?_, fun hs => ?_, h1, h2, h3, h4,
    fun hn => fMinMax_number ha hb (mt .inl hn) (mt .inr hn) isMax strict⟩
  · rw [fMinMax_flags, flagIf, if_pos (hsig.1 hs)]
  · rw [fMinMax_flags, flagIf, if_neg (mt hsig.2 hs)]
    rfl

/-- Settles O13: the special operands case by case; a finite result by the two codes between whose magnitudes it lies; an exact value
by its own code; comparisons and classes by the magnitude codes of the patterns. -/
theorem floatValues : Obligations.FloatValues :=
  ⟨floatSpecialOperands, floatFiniteResults, roundingKeepsExactValues, floatComparisons⟩

end Sys2Proof.Proofs
end

section
/-! SUPPORT. Integers of a type (R75, R100-R110, R121, R122): the register that an integer is written to depends on it modulo two to
the width, and the model's reading of patterns and its arithmetic on them are those of the rules. -/

namespace Sys2Proof.Proofs

open Sys2Proof.Machine Sys2Proof.Claims

/-! ### The register that holds an integer (R100, R101) -/

/-- Two integers that a type's registers hold alike: equal modulo two to the width. -/
abbrev SameIn (ty : IntTy) (r r' : Int) : Prop := r ≡ r' [ZMOD 2 ^ intWidth ty]

theorem asReg_congr {ty : IntTy} {r r' : Int} (h : SameIn ty r r') : asReg ty r = asReg ty r' := by
  have hbmod : r.bmod (2 ^ intWidth ty) = r'.bmod (2 ^ intWidth ty) := by
    rw [Int.bmod_eq_emod, Int.bmod_eq_emod]
    simp only [Nat.cast_pow, Nat.cast_ofNat, h.eq]
  rw [asReg, asReg, hbmod, h.eq]

/-- Reading a pattern by either signedness changes it by a multiple of two to the width. -/
theorem readInt_modEq (signed : Bool) (w x : Nat) : readInt signed w x ≡ x [ZMOD 2 ^ w] := by
  have hx : ((x % 2 ^ w : Nat) : Int) ≡ x [ZMOD 2 ^ w] := by
    push_cast
    exact Int.mod_modEq _ _
  rw [readInt]
  split
  · exact (Int.sub_modulus_modEq_iff).2 hx
  · exact hx

theorem valueOf_modEq (ty : IntTy) (x : Nat) : SameIn ty (valueOf ty x) x := by
  rw [← readInt_eq_valueOf]
  exact readInt_modEq ..

theorem natCast_wrapNat (w : Nat) (r : Int) : (wrapNat w r : Int) = r % 2 ^ w :=
  Int.toNat_of_nonneg (Int.emod_nonneg r (by positivity))

/-- What the model writes for an integer: the type's reading of its wrapped pattern. -/
theorem asReg_eq_ofInt (ty : IntTy) (r : Int) :
    asReg ty r = BitVec.ofInt 64 (readInt (intSigned ty) (intWidth ty) (wrapNat (intWidth ty) r)) := by
  have hbmod := Int.emod_bmod (x := r) (n := 2 ^ intWidth ty)
  rw [Nat.cast_pow, Nat.cast_ofNat] at hbmod
  rw [readInt_eq_valueOf, valueOf, natCast_wrapNat, hbmod, Int.emod_emod, asReg]

theorem extS_eq_asReg (ty : IntTy) (r : Int) : extS ty r = asReg ty r := (asReg_eq_ofInt ty r).symm

/-- An integer written to a vector register or pair, in a thread that has gone on. -/
theorem putsV_wrVInt {ty : IntTy} {r r' : Int} (h : SameIn ty r r') (pc : DWord) (t : Thread) (d : Nat) :
    PutsV pc d (intWidth ty) (asReg ty r') t (moved (wrVInt ty t d r) pc) := by
  rw [← asReg_congr h, asReg_eq_ofInt]
  by_cases hw : intWidth ty = 64
  · simp only [wrVInt, if_pos hw]
    refine ⟨rfl, ?_, fun q hq hq' => rdV_wrV64_ne hq (hq' hw) ..⟩
    rw [if_pos hw]
    exact rdV64_wrV64 ..
  · simp only [wrVInt, if_neg hw]
    refine ⟨rfl, ?_, fun q hq _ => rdV_wrV_ne hq ..⟩
    rw [if_neg hw, setWidth_ofInt]
    exact rdV_wrV ..

/-! ### Operands -/

theorem intWidth_le (ty : IntTy) : intWidth ty ≤ 64 := by cases ty <;> decide

theorem low_lt (ty : IntTy) (v : DWord) : low ty v < 2 ^ intWidth ty := Nat.mod_lt _ (by positivity)

theorem sPat_eq_low (ty : IntTy) (v : DWord) : sPat ty v = low ty v := rfl

theorem low_i64 (v : DWord) : low .i64 v = v.toNat := Nat.mod_eq_of_lt v.isLt

theorem lanePattern_lt (ty : IntTy) (t : Thread) (r : Nat) : lanePattern ty t r < 2 ^ intWidth ty := by
  rw [lanePattern]
  split
  next h => rw [h]; exact (rdV64 t r).isLt
  next => exact Nat.mod_lt _ (by positivity)

theorem immPattern_lt (ty : IntTy) (v : Word) : immPattern ty v < 2 ^ intWidth ty := Nat.mod_lt _ (by positivity)

/-- A 32-bit word as the model reads it is what extending it to 64 bits stands for. -/
theorem readInt_word (signed : Bool) (v : Word) : readInt signed 32 v.toNat = if signed then v.toInt else v.toNat := by
  cases signed
  · rw [readInt, Bool.false_and, if_neg Bool.false_ne_true, Nat.mod_eq_of_lt v.isLt, if_neg Bool.false_ne_true]
  · rw [readInt_true_eq_bmod (by decide), if_pos rfl, BitVec.toInt_eq_toNat_bmod]

theorem immInt_eq_immPattern (ty : IntTy) (v : Word) : immInt ty v = immPattern ty v := by
  have hdvd : (2 : Int) ^ intWidth ty ∣ 2 ^ 64 := pow_dvd_pow 2 (intWidth_le ty)
  zify [immInt, immPattern]
  rw [natCast_wrapNat, readInt_word]
  split
  · rw [BitVec.signExtend, BitVec.toNat_ofInt, Int.toNat_of_nonneg (by omega)]
    exact (Int.emod_emod_of_dvd _ hdvd).symm
  · rw [BitVec.toNat_setWidth_of_le (by decide)]

theorem ssrcPat_eq_scalarB (rd : Nat → DWord) (ty : IntTy) (b : SSrc) : ssrcPat rd ty b = scalarB rd ty b := by
  cases b with
  | reg r => rfl
  | imm v => exact immInt_eq_immPattern ty v
  | lit v => rfl

theorem regImmPat_eq_scalarRegImm (rd : Nat → DWord) (ty : IntTy) (b : RegImm) : regImmPat rd ty b = scalarRegImm rd ty b := by
  cases b with
  | reg r => rfl
  | imm v => exact immInt_eq_immPattern ty v

theorem vsrcInt_eq_laneB (b : Band) (t : Thread) (ty : IntTy) (x : VSrc) : vsrcInt b t ty x = laneB b t ty x := by
  cases x with
  | vec r => rfl
  | sca r => rfl
  | imm v => exact immInt_eq_immPattern ty v
  | lit v => rfl

theorem scalarB_lt (rd : Nat → DWord) (ty : IntTy) (b : SSrc) : scalarB rd ty b < 2 ^ intWidth ty := by
  cases b with
  | reg r => exact low_lt ..
  | imm v => exact immPattern_lt ..
  | lit v => exact low_lt ..

theorem laneB_lt (b : Band) (t : Thread) (ty : IntTy) (x : VSrc) : laneB b t ty x < 2 ^ intWidth ty := by
  cases x with
  | vec r => exact lanePattern_lt ..
  | sca r => exact low_lt ..
  | imm v => exact immPattern_lt ..
  | lit v => exact low_lt ..

/-! ### Arithmetic on two patterns (R108-R110, R121, R122) -/

theorem shlPat_eq (w a b : Nat) : shlPat w a b = if w ≤ b then 0 else (a <<< b) % 2 ^ w := by
  rw [shlPat, Nat.shiftLeft_eq]
  split_ifs <;> omega

theorem shrPat_eq (w a b : Nat) : shrPat w a b = if w ≤ b then 0 else a >>> b := by
  rw [shrPat, Nat.shiftRight_eq_div_pow]
  split_ifs <;> omega

/-- An arithmetic shift by the width or more leaves copies of the sign, as a shift by one less does (R110). -/
theorem sarPat_modEq {w a : Nat} (hw : 0 < w) (ha : a < 2 ^ w) (b : Nat) :
    (sarPat w a b : Int) ≡ (a : Int).bmod (2 ^ w) / 2 ^ min b (w - 1) [ZMOD 2 ^ w] := by
  rw [sarPat, ← readInt_true_eq_bmod hw]
  have hhalf : 2 ^ w = 2 * 2 ^ (w - 1) := by rw [← pow_succ', Nat.sub_add_cancel hw]
  split
  · rw [natCast_wrapNat, min_eq_left (by omega)]
    exact Int.mod_modEq _ _
  · rw [min_eq_right (by omega), readInt, Nat.mod_eq_of_lt ha]
    simp only [Bool.true_and, decide_eq_true_eq]
    have hhalf' : (2 : Int) ^ w = 2 * 2 ^ (w - 1) := by exact_mod_cast hhalf
    split_ifs with hneg
    · have ha' : (a : Int) < 2 ^ w := by exact_mod_cast ha
      have hneg' : (2 : Int) ^ (w - 1) ≤ a := by exact_mod_cast hneg
      have hquot : ((a : Int) - 2 ^ w) / 2 ^ (w - 1) = -1 := by
        have hshift : (a : Int) - 2 ^ w = ((a : Int) - 2 ^ (w - 1)) + -1 * 2 ^ (w - 1) := by omega
        rw [hshift, Int.add_mul_ediv_right _ _ (by positivity), Int.ediv_eq_zero_of_lt (by omega) (by omega)]
        rfl
      rw [hquot, Nat.cast_sub Nat.one_le_two_pow]
      exact Int.modEq_iff_dvd.2 ⟨-1, by push_cast; ring⟩
    · rw [Int.ediv_eq_zero_of_lt (by omega) (by exact_mod_cast not_le.1 hneg)]
      rfl

/-- A rotate joins two parts that share no bit (R110). -/
theorem rotPat_eq {w a : Nat} (hw : 0 < w) (ha : a < 2 ^ w) (b : Nat) :
    rotPat w a b = (a >>> (b % w)) ||| (a <<< (w - b % w)) % 2 ^ w := by
  have hk := Nat.mod_lt b hw
  have hsplit : 2 ^ w = 2 ^ (w - b % w) * 2 ^ (b % w) := by rw [← pow_add, Nat.sub_add_cancel hk.le]
  have hhigh : a * 2 ^ (w - b % w) % 2 ^ w = 2 ^ (w - b % w) * (a % 2 ^ (b % w)) := by
    rw [hsplit, mul_comm a, Nat.mul_mod_mul_left]
  have hlow : a / 2 ^ (b % w) < 2 ^ (w - b % w) := Nat.div_lt_of_lt_mul (by rwa [mul_comm, ← hsplit])
  simp only [rotPat, Nat.shiftRight_eq_div_pow, Nat.shiftLeft_eq]
  rw [hhigh, add_comm, Nat.two_pow_add_eq_or_of_lt hlow, Nat.or_comm]

theorem clampInt_eq_saturated (ty : IntTy) (r : Int) : clampInt r (intMin ty) (intMax ty) = saturated ty r := by
  have hpos : (0 : Int) < 2 ^ (intWidth ty - 1) := by positivity
  have hpos' : (0 : Int) < 2 ^ intWidth ty := by positivity
  cases hs : intSigned ty <;> simp only [clampInt, intMin, intMax, saturated, hs, if_true, Bool.false_eq_true, if_false] <;> omega

/-- What is left of all ones is the complement. -/
theorem ones_sub_eq_xor {w b : Nat} (hb : b < 2 ^ w) : 2 ^ w - 1 - b = b ^^^ (2 ^ w - 1) := by
  rw [Nat.sub_sub, Nat.add_comm 1 b]
  apply Nat.eq_of_testBit_eq
  intro i
  rw [Nat.testBit_two_pow_sub_succ hb, Nat.testBit_xor, Nat.testBit_two_pow_sub_one]
  by_cases hi : i < w
  · simp [hi]
  · simp [hi, Nat.testBit_lt_two_pow (hb.trans_le (Nat.pow_le_pow_right two_pos (not_lt.1 hi)))]

/-- Division differs from truncation for a divisor of zero, and for the one quotient that leaves the type (R109). -/
theorem divInt_eq_quotient (ty : IntTy) (a b : Int) : divInt ty a b = quotient ty a b := by
  cases hs : intSigned ty <;> simp [divInt, quotient, intMin, hs]

theorem remInt_eq_remainder (ty : IntTy) (a b : Int) : remInt ty a b = remainder ty a b := by
  cases hs : intSigned ty <;> simp [remInt, remainder, intMin, hs]

/-- On patterns of the type's width the model's arithmetic gives the exact result, but for an arithmetic shift, which gives its
pattern. -/
theorem aluInt_eq_exactResult {op : AluOp} (hop : op ≠ .sar) {ty : IntTy} {a b : Nat} (ha : a < 2 ^ intWidth ty)
    (hb : b < 2 ^ intWidth ty) : aluInt op ty a b = exactResult op ty a b := by
  cases op <;> simp only [aluInt, exactResult, readInt_eq_valueOf]
  case andn => rw [ones_sub_eq_xor hb]; rfl
  case min => rw [min_comm, min_def_lt]
  case max => rw [max_def_lt]
  case shl => rw [shlPat_eq]
  case shr => rw [shrPat_eq]
  case sar => exact absurd rfl hop
  case rot => rw [rotPat_eq (intWidth_pos ty) ha]
  case div => exact divInt_eq_quotient ty _ _
  case rem => exact remInt_eq_remainder ty _ _
  case adds | subs => exact clampInt_eq_saturated ty _
  all_goals rfl

theorem aluInt_sameIn (op : AluOp) {ty : IntTy} {a b : Nat} (ha : a < 2 ^ intWidth ty) (hb : b < 2 ^ intWidth ty) :
    SameIn ty (aluInt op ty a b) (exactResult op ty a b) := by
  by_cases hop : op = .sar
  · subst hop
    exact sarPat_modEq (intWidth_pos ty) ha b
  · rw [aluInt_eq_exactResult hop ha hb]

end Sys2Proof.Proofs
end

section
/-! SUPPORT. Counts, bit fields and comparisons on patterns of a type (R112, R115, R117): the model's recursion or arithmetic against
the bits that the rules name. -/

namespace Sys2Proof.Proofs

open Sys2Proof.Machine Sys2Proof.Claims

/-! ### Counts of bits (R115): they see the low bits only -/

/-- Two numbers with the same low bits. -/
def AgreeBelow (n x y : Nat) : Prop := ∀ i < n, x.testBit i = y.testBit i

theorem agreeBelow_mod (n x : Nat) : AgreeBelow n (x % 2 ^ n) x := fun i hi => by
  rw [Nat.testBit_mod_two_pow, decide_eq_true hi, Bool.true_and]

theorem AgreeBelow.half {n x y : Nat} (h : AgreeBelow (n + 1) x y) : AgreeBelow n (x / 2) (y / 2) := fun i hi => by
  rw [Nat.testBit_div_two, Nat.testBit_div_two, h (i + 1) (by omega)]

theorem AgreeBelow.of_succ {n x y : Nat} (h : AgreeBelow (n + 1) x y) : AgreeBelow n x y := fun i hi => h i (by omega)

theorem onesIn_succ (n x : Nat) : onesIn (n + 1) x = x % 2 + onesIn n (x / 2) := by
  have htail : (fun i => x.testBit i) ∘ Nat.succ = fun i => (x / 2).testBit i := funext fun i => Nat.testBit_succ x i
  rw [onesIn, List.range_succ_eq_map, List.filter_cons, List.filter_map, htail, Nat.testBit_zero, onesIn]
  rcases Nat.mod_two_eq_zero_or_one x with h | h <;> simp [h, Nat.add_comm]

theorem popcount_eq_onesIn {n x y : Nat} (h : AgreeBelow n x y) : popcount n x = onesIn n y := by
  induction n generalizing x y with
  | zero => rfl
  | succ n ih =>
    have hbit := h 0 (by omega)
    rw [Nat.testBit_zero, Nat.testBit_zero, decide_eq_decide] at hbit
    rw [popcount, onesIn_succ, ih h.half]
    omega

/-- How far a property holds from 0 on: it holds of 0, and then of the numbers after it. -/
theorem length_takeWhile_range_succ (p : Nat → Bool) (n : Nat) : ((List.range (n + 1)).takeWhile p).length =
    if p 0 then 1 + ((List.range n).takeWhile fun i => p (i + 1)).length else 0 := by
  rw [List.range_succ_eq_map, List.takeWhile_cons]
  split
  · rw [List.takeWhile_map, List.length_cons, List.length_map, Nat.add_comm]
    rfl
  · rfl

theorem leadZeros_eq_zerosAbove {n x y : Nat} (h : AgreeBelow n x y) : leadZeros n x = zerosAbove n y := by
  induction n with
  | zero => rfl
  | succ n ih =>
    rw [zerosAbove, length_takeWhile_range_succ, leadZeros, ih h.of_succ, h n (by omega)]
    simp only [Nat.add_sub_cancel, Nat.sub_zero, zerosAbove, Nat.sub_right_comm n _ 1, ← Nat.sub_sub]
    cases y.testBit n <;> rfl

theorem trailZeros_eq_zerosBelow {n x y : Nat} (h : AgreeBelow n x y) : trailZeros n x = zerosBelow n y := by
  induction n generalizing x y with
  | zero => rfl
  | succ n ih =>
    have hbit : x % 2 = 1 ↔ y.testBit 0 = true := by rw [← h 0 (by omega), Nat.mod_two_eq_one_iff_testBit_zero]
    rw [zerosBelow, length_takeWhile_range_succ, trailZeros, ih h.half]
    simp only [hbit, Nat.testBit_add_one, zerosBelow]
    cases y.testBit 0 <;> rfl

/-! ### Bit fields (R117) -/

section
variable (ty : IntTy) (pos width : Nat)

theorem fieldWidth_le : pos < intWidth ty → pos + fieldWidth ty pos width ≤ intWidth ty := by
  intro h
  rw [fieldWidth]
  split <;> omega

theorem fieldWidth_beyond (h : intWidth ty ≤ pos) : fieldWidth ty pos width = 0 := by rw [fieldWidth, if_pos (.inr h)]

theorem field_eq (x : Nat) : (x &&& fieldMask ty pos width) >>> pos = x / 2 ^ pos % 2 ^ fieldWidth ty pos width := by
  rw [fieldMask, Nat.shiftRight_and_distrib, Nat.shiftLeft_shiftRight, Nat.and_two_pow_sub_one_eq_mod, Nat.shiftRight_eq_div_pow]

theorem testBit_fieldMask (i : Nat) :
    (fieldMask ty pos width).testBit i = (decide (pos ≤ i) && decide (i - pos < fieldWidth ty pos width)) := by
  rw [fieldMask, Nat.testBit_shiftLeft, Nat.testBit_two_pow_sub_one]

/-- The model's extract reads a field of the width in use; an empty field reads as zero. -/
theorem bfx_eq_readInt (x : Nat) : bfx ty x pos width = readInt (intSigned ty) (fieldWidth ty pos width) (x / 2 ^ pos) := by
  rw [bfx, fieldWidth]
  split
  · simp [readInt, Nat.mod_one]
  · rfl

/-- The top bit of a number of `k + 1` bits. -/
theorem testBit_top {r k : Nat} (h : r < 2 ^ (k + 1)) : r.testBit k = decide (2 ^ k ≤ r) := by
  by_cases hr : 2 ^ k ≤ r
  · rw [decide_eq_true hr, Nat.testBit_of_two_pow_le_and_two_pow_add_one_gt hr h]
  · rw [decide_eq_false hr, Nat.testBit_lt_two_pow (not_le.1 hr)]

theorem bfx_eq_extracted (x : Nat) : bfx ty x pos width = extracted ty x pos width := by
  rw [bfx_eq_readInt, extracted, field_eq, readInt]
  generalize fieldWidth ty pos width = n
  cases n with
  | zero => simp [Nat.mod_one]
  | succ k =>
    simp only [Nat.add_sub_cancel, testBit_top (Nat.mod_lt _ (by positivity : 0 < 2 ^ (k + 1))), Bool.and_eq_true, ne_eq,
      Nat.add_eq_zero_iff, one_ne_zero, and_false, not_false_eq_true, true_and]

/-- The model's insert takes the old field out and puts the new one in. -/
theorem bfi_eq_sub_add (x y : Nat) : bfi ty x y pos width = y - bitsOf y pos (fieldWidth ty pos width) * 2 ^ pos +
    x % 2 ^ fieldWidth ty pos width * 2 ^ pos := by
  rw [bfi, fieldWidth]
  split
  · simp [bitsOf, Nat.mod_one]
  · simp

/-- A number cut at a field: what lies above it, the field, what lies below it. -/
theorem cut_at_field (y pos n : Nat) :
    y = 2 ^ pos * (2 ^ n * (y / 2 ^ (pos + n)) + bitsOf y pos n) + y % 2 ^ pos := by
  rw [bitsOf, pow_add, ← Nat.div_div_eq_div_mul, Nat.div_add_mod, Nat.div_add_mod]

theorem bfi_eq_inserted {y : Nat} (hy : y < 2 ^ intWidth ty) (x : Nat) : bfi ty x y pos width = inserted ty x y pos width := by
  have hput : bfi ty x y pos width = (2 ^ pos * (2 ^ fieldWidth ty pos width * (y / 2 ^ (pos + fieldWidth ty pos width)) +
      x % 2 ^ fieldWidth ty pos width) + y % 2 ^ pos : Nat) := by
    have hcut := congrArg (Nat.cast (R := Int)) (cut_at_field y pos (fieldWidth ty pos width))
    rw [bfi_eq_sub_add, hcut]
    push_cast
    ring
  rw [hput, inserted, Nat.cast_inj]
  apply Nat.eq_of_testBit_eq
  intro i
  simp only [Nat.testBit_or, Nat.testBit_and, Nat.testBit_xor, testBit_fieldMask, Nat.testBit_shiftLeft,
    Nat.testBit_two_pow_sub_one]
  rw [Nat.testBit_two_pow_mul_add _ (Nat.mod_lt _ (by positivity)), Nat.testBit_two_pow_mul_add _ (Nat.mod_lt _ (by positivity)),
    Nat.testBit_mod_two_pow, Nat.testBit_mod_two_pow, Nat.testBit_div_two_pow]
  have hin : (y.testBit i && decide (i < intWidth ty)) = y.testBit i := by
    by_cases hi : i < intWidth ty
    · simp [hi]
    · simp [Nat.testBit_lt_two_pow (hy.trans_le (Nat.pow_le_pow_right two_pos (not_lt.1 hi)))]
  by_cases hlow : i < pos
  · simp [hlow, not_le.2 hlow, hin]
  · have hpos := not_lt.1 hlow
    by_cases hmid : i - pos < fieldWidth ty pos width
    · have hi : i < intWidth ty := by
        by_contra hi
        have := fieldWidth_le ty pos width
        have := fieldWidth_beyond ty pos width
        omega
      simp [hlow, hmid, hpos, hi]
    · have hback : i - pos - fieldWidth ty pos width + (pos + fieldWidth ty pos width) = i := by omega
      simp [hlow, hmid, hback, hin]

end

/-! ### Comparisons (R112) -/

theorem condHolds_eq_condTrue (c : Cond) (ty : IntTy) (a b : Nat) : condHolds c ty a b = condTrue c ty a b := by
  cases c <;> simp only [condHolds, condTrue, readInt_eq_valueOf]
  case tst => exact (decide_not (p := a &&& b = 0)).symm
  all_goals rfl

end Sys2Proof.Proofs
end

section
/-! SUPPORT. The scalar integer class (R97-R119): each instruction computes one value from the scalar registers, whichever agent they
belong to; a band and a stream then write it by one law each. -/

namespace Sys2Proof.Proofs

open Sys2Proof.Machine Sys2Proof.Claims

/-- An instruction writes `f` of the scalar registers to `d`, on a band once for the group, on a stream once. -/
def Computes (i : Instr) (d : Nat) (f : (Nat → DWord) → DWord) : Prop := ∀ s, exec i s = scalarOp s d f

/-! ### What each instruction computes -/

theorem computes_of_exec {i : Instr} {d : Nat} {f f' : (Nat → DWord) → DWord} (hi : ∀ s, exec i s = scalarOp s d f)
    (hf : ∀ rd, f rd = f' rd) : Computes i d f' := fun s => by rw [hi, funext hf]

theorem aluS_eq_scalarResult (rd : Nat → DWord) (op : AluOp) (o : SOp2) : aluS rd op o = scalarResult op o rd := by
  rw [aluS, extS_eq_asReg, ssrcPat_eq_scalarB]
  exact asReg_congr (aluInt_sameIn op (low_lt ..) (scalarB_lt ..))

theorem aluSC_eq_compactResult (rd : Nat → DWord) (op : AluOp) (o : C3) : aluSC rd op o = compactResult op o rd := by
  rw [aluSC, extS_eq_asReg, compactResult, ← low_i64, ← low_i64]
  exact asReg_congr (aluInt_sameIn op (low_lt ..) (low_lt ..))

theorem exec_scalarCompact : ∀ p ∈ scalarCompact, ∀ o s, exec (p.1 o) s = scalarOp s o.d.val fun rd => aluSC rd p.2 o := by
  intro p hp
  fin_cases hp <;> exact fun _ _ => rfl

theorem exec_scalarFull : ∀ p ∈ scalarFull, ∀ o s, exec (p.1 o) s = scalarOp s o.d.val fun rd => aluS rd p.2 o := by
  intro p hp
  fin_cases hp <;> exact fun _ _ => rfl

theorem computes_scalarCompact : ∀ p ∈ scalarCompact, ∀ o, Computes (p.1 o) o.d.val (compactResult p.2 o) := fun p hp o =>
  computes_of_exec (exec_scalarCompact p hp o) fun rd => aluSC_eq_compactResult rd p.2 o

theorem computes_scalarFull : ∀ p ∈ scalarFull, ∀ o, Computes (p.1 o) o.d.val (scalarResult p.2 o) := fun p hp o =>
  computes_of_exec (exec_scalarFull p hp o) fun rd => aluS_eq_scalarResult rd p.2 o

/-- The address that SLEA forms: base, scaled index, offset (R119). -/
theorem ofInt_slea (base : DWord) (ty : IntTy) (index : Nat) (shift : Nat) (off : Word) :
    BitVec.ofInt 64 (base.toNat + readInt (intSigned ty) (intWidth ty) index * 2 ^ shift + readInt true 32 off.toNat) =
      base + asReg ty index <<< shift + off.signExtend 64 := by
  have hindex : BitVec.ofInt 64 (readInt (intSigned ty) (intWidth ty) index) = asReg ty index := by
    rw [readInt_eq_valueOf]
    rfl
  have hscale : BitVec.ofInt 64 (2 ^ shift) = BitVec.twoPow 64 shift := by
    apply BitVec.eq_of_toNat_eq
    rw [BitVec.toNat_ofInt, BitVec.toNat_twoPow]
    exact_mod_cast Int.toNat_natCast (2 ^ shift % 2 ^ 64)
  rw [BitVec.ofInt_add, BitVec.ofInt_add, BitVec.ofInt_mul, hindex, hscale, BitVec.shiftLeft_eq_mul_twoPow, readInt_word, if_pos rfl,
    BitVec.ofInt_natCast, BitVec.ofNat_toNat, BitVec.setWidth_eq]
  rfl

theorem sField_eq_scalarField (rd : Nat → DWord) (x : SField) : sField rd x = scalarField rd x := by cases x <;> rfl

/-- A count of the low bits of a register is a count of the register's own (R100, R115). -/
theorem countS_eq {f f' : Nat → Nat → Nat} (h : ∀ {n x y}, AgreeBelow n x y → f n x = f' n y) (rd : Nat → DWord) (o : SOp1) :
    countS rd f o = BitVec.ofNat 64 (f' (intWidth o.ty) (rd o.a.val).toNat) := by
  rw [countS, sPat, h (agreeBelow_mod _ _)]

theorem countSC_eq {f f' : Nat → Nat → Nat} (h : ∀ {n x y}, AgreeBelow n x y → f n x = f' n y) (rd : Nat → DWord) (o : C2) :
    countSC rd f o = BitVec.ofNat 64 (f' 64 (rd o.a.val).toNat) := by
  rw [countSC, h fun _ _ => rfl]

/-- The other instructions of the class, one by one (R112, R114, R115, R117, R119). -/
theorem computes_scalarOthers : ScalarOthers Computes := by
  refine ⟨fun o => ?scmp, fun o => ?ssel, fun o => ?smovC, fun o => ?smov, fun o => ?sli, fun o => ?slea, fun o => ?spopcC,
    fun o => ?spopc, fun o => ?sclzC, fun o => ?sclz, fun o => ?sctzC, fun o => ?sctz, fun o => ?sbfx, fun o => ?sbfi⟩
  case scmp =>
    refine computes_of_exec (exec_scmp · o) fun rd => ?_
    rw [condHolds_eq_condTrue, regImmPat_eq_scalarRegImm, bit, apply_ite (BitVec.ofNat 64)]
    rfl
  case ssel =>
    refine computes_of_exec (exec_ssel · o) fun rd => ?_
    simp only [readInt_eq_valueOf, extS_eq_asReg, asReg_congr (valueOf_modEq ..), regImmPat_eq_scalarRegImm]
    split_ifs <;> rfl
  case smovC => exact (exec_smovC · o)
  case smov => exact computes_of_exec (exec_smov · o) fun rd => extS_eq_asReg ..
  case sli =>
    refine computes_of_exec (exec_sli · o) fun rd => ?_
    cases o.v with
    | imm v => exact (extS_eq_asReg ..).trans (by rw [immInt_eq_immPattern])
    | lit v => rfl
  case slea => exact computes_of_exec (exec_slea · o) fun rd => ofInt_slea ..
  case spopcC => exact computes_of_exec (exec_spopcC · o) fun rd => countSC_eq popcount_eq_onesIn rd o
  case spopc => exact computes_of_exec (exec_spopc · o) fun rd => countS_eq popcount_eq_onesIn rd o
  case sclzC => exact computes_of_exec (exec_sclzC · o) fun rd => countSC_eq leadZeros_eq_zerosAbove rd o
  case sclz => exact computes_of_exec (exec_sclz · o) fun rd => countS_eq leadZeros_eq_zerosAbove rd o
  case sctzC => exact computes_of_exec (exec_sctzC · o) fun rd => countSC_eq trailZeros_eq_zerosBelow rd o
  case sctz => exact computes_of_exec (exec_sctz · o) fun rd => countS_eq trailZeros_eq_zerosBelow rd o
  case sbfx =>
    exact computes_of_exec (exec_sbfx · o) fun rd => by rw [extS_eq_asReg, bfx_eq_extracted, sField_eq_scalarField]; rfl
  case sbfi =>
    refine computes_of_exec (exec_sbfi · o) fun rd => ?_
    rw [extS_eq_asReg, sField_eq_scalarField, sPat_eq_low, sPat_eq_low, bfi_eq_inserted (hy := low_lt ..)]

theorem scalarOthers_mono {P Q : Instr → Nat → ((Nat → DWord) → DWord) → Prop} (h : ∀ {i d f}, P i d f → Q i d f) :
    ScalarOthers P → ScalarOthers Q := by
  rintro ⟨hscmp, hssel, hsmovC, hsmov, hsli, hslea, hspopcC, hspopc, hsclzC, hsclz, hsctzC, hsctz, hsbfx, hsbfi⟩
  exact ⟨fun o => h (hscmp o), fun o => h (hssel o), fun o => h (hsmovC o), fun o => h (hsmov o), fun o => h (hsli o),
    fun o => h (hslea o), fun o => h (hspopcC o), fun o => h (hspopc o), fun o => h (hsclzC o), fun o => h (hsclz o),
    fun o => h (hsctzC o), fun o => h (hsctz o), fun o => h (hsbfx o), fun o => h (hsbfi o)⟩

/-! ### On a band -/

theorem onceScalar_of_exec {i : Instr} {s : State} {g : Grp} {d : Nat} {f : (Nat → DWord) → DWord} (hg : grpOf s = some g)
    (hl : g.live ≠ []) (hi : exec i s = scalarOp s d f) : OnceScalar i s g d (f (rdS g.band)) := by
  rw [OnceScalar, hi]
  exact scalarOp_band hg hl d f

/-- The home lane that SMOVV names (R114). -/
def namedLane (b : Band) : LaneSrc → Nat
  | .reg r => (rdS b r.val).toNat % 32
  | .imm l => l.val

/-- On a band SMOVV writes its register as an instruction of the class would, though it reads a thread. -/
theorem execSmovv_eq_scalarOp {s : State} {g : Grp} (hg : grpOf s = some g) {o : SMovv} (ha : o.a.val < g.band.n) :
    execSmovv o s = scalarOp s o.d.val fun _ =>
      asReg o.ty (lanePattern o.ty (threadOf g.band (namedLane g.band o.lane)) o.a.val : Nat) := by
  obtain ⟨guard, hcur⟩ := grpOf_cur hg
  have hrange : rangeFault s.tick g.band.n 1 [o.a.val] = none := rangeFault_none (by simpa using ha)
  simp only [execSmovv, bandOnly, scalarOp, hcur, perGroup, perGroupTo, hg, hrange, extS_eq_asReg]
  rfl

theorem scalarAluOnBand : ScalarAluOnBand := fun _ _ hg hl =>
  ⟨fun p hp o => onceScalar_of_exec hg hl (computes_scalarCompact p hp o _),
    fun p hp o => onceScalar_of_exec hg hl (computes_scalarFull p hp o _)⟩

theorem scalarOtherOnBand : ScalarOtherOnBand := fun s _ hg hl =>
  scalarOthers_mono (fun h => onceScalar_of_exec hg hl (h s)) computes_scalarOthers

theorem scalarFromLane : ScalarFromLane := fun s _ o hg hl ha =>
  onceScalar_of_exec hg hl ((exec_smovv s o).trans (execSmovv_eq_scalarOp hg ha))

/-- Settles O9: what each instruction computes from the scalar registers, written on the band by one law; SMOVV reads a thread
besides. -/
theorem scalarOnBand : Obligations.ScalarOnBand := ⟨scalarAluOnBand, scalarOtherOnBand, scalarFromLane⟩

/-! ### On a stream -/

theorem streamScalar_of_computes {i : Instr} {d : Nat} {f : (Nat → DWord) → DWord} (hi : Computes i d f) {s : State} {g : Strm}
    (hg : strmOf s = some g) (hl : g.live = true) : StreamScalar i s g d (f (rdStream g.rcd)) := by
  rw [StreamScalar, hi s]
  exact scalarOp_stream hg hl d f

/-- Settles O10: the same values from the stream's registers, written by the law of a stream. -/
theorem scalarOnStream : Obligations.ScalarOnStream := fun _ _ hg hl =>
  ⟨fun p hp o => streamScalar_of_computes (computes_scalarCompact p hp o) hg hl,
    fun p hp o => streamScalar_of_computes (computes_scalarFull p hp o) hg hl,
    scalarOthers_mono (fun h => streamScalar_of_computes h hg hl) computes_scalarOthers⟩

end Sys2Proof.Proofs
end

section
/-! SUPPORT. The vector integer class (R101, R120-R133): each instruction writes an integer of a type in each lane, and VCMP a
predicate; what a lane's result is modulo two to the width is all that its register shows. -/

namespace Sys2Proof.Proofs

open Sys2Proof.Machine Sys2Proof.Claims

/-- An instruction of the class that writes an integer in each lane, the same as a value modulo two to the width. -/
theorem laneWrites_of_exec {i : Instr} {regs : List Nat} {ty : IntTy} {d : Nat} {f : Grp → Nat → Thread → Int}
    {value : Band → Nat → Thread → Int} (hi : ∀ s, exec i s = vecOp s regs fun g l t => wrVInt ty t d (f g l t))
    (hf : ∀ g l t, SameIn ty (f g l t) (value g.band l t)) : LaneWrites i regs ty d value := fun s _ hg hr =>
  eachThread_of_vecOp hg (hi s) hr fun _ _ => putsV_wrVInt (hf ..) ..

theorem laneWrites_of_eq {i : Instr} {regs : List Nat} {ty : IntTy} {d : Nat} {f : Grp → Nat → Thread → Int}
    {value : Band → Nat → Thread → Int} (hi : ∀ s, exec i s = vecOp s regs fun g l t => wrVInt ty t d (f g l t))
    (hf : ∀ g l t, f g l t = value g.band l t) : LaneWrites i regs ty d value :=
  laneWrites_of_exec hi fun g l t => by rw [hf]

/-! ### Two operands (R121, R122) -/

theorem vPat_eq_lanePattern (ty : IntTy) (t : Thread) (r : Nat) : vPat ty t r = lanePattern ty t r := rfl

theorem exec_vectorCompact : ∀ p ∈ vectorCompact, ∀ o s,
    exec (p.1 o) s = vecOp s [o.d.val, o.a.val, o.b.val] fun _ _ t => aluVC t p.2 o := by
  intro p hp
  fin_cases hp <;> exact fun _ _ => rfl

theorem exec_vectorFull : ∀ p ∈ vectorFull, ∀ o s,
    exec (p.1 o) s = vecOp s ([o.d.val, o.a.val] ++ namedB o.b) fun g _ t => aluV g t p.2 o := by
  intro p hp
  fin_cases hp <;> exact fun _ _ => rfl

theorem vectorAlu : VectorAlu := by
  refine ⟨fun p hp o => laneWrites_of_exec (exec_vectorCompact p hp o) fun g l t => ?_,
    fun p hp o => laneWrites_of_exec (exec_vectorFull p hp o) fun g l t => ?_⟩
  · exact aluInt_sameIn p.2 (lanePattern_lt ..) (lanePattern_lt ..)
  · rw [vsrcInt_eq_laneB]
    exact aluInt_sameIn p.2 (lanePattern_lt ..) (laneB_lt ..)

/-! ### Products (R124, R126) -/

theorem doubleTy_eq_widerTy (ty : IntTy) : doubleTy ty = widerTy ty := by cases ty <;> rfl

theorem aluInt_mul (ty : IntTy) (a b : Nat) : aluInt .mul ty a b = valueOf ty a * valueOf ty b := by
  rw [aluInt, readInt_eq_valueOf, readInt_eq_valueOf]

/-- A product added to a pattern shows as the product added to what the pattern stands for. -/
theorem sameIn_add_pattern (ty : IntTy) (r : Int) (c : Nat) : SameIn ty (r + c) (r + valueOf ty c) :=
  (valueOf_modEq ty c).symm.add_left r

theorem readInt_byte (signed : Bool) (x j : Nat) : readInt signed 8 (x / 256 ^ j) = byteValue signed x j := by
  have hpow : 256 ^ j = 2 ^ (8 * j) := by rw [pow_mul]; rfl
  have hmod : readInt signed 8 (x >>> (8 * j) % 256) = readInt signed 8 (x >>> (8 * j)) := by
    simp only [readInt, Nat.reducePow, Nat.mod_mod]
  rw [hpow, ← Nat.shiftRight_eq_div_pow, ← hmod, byteValue, ← readInt_eq_valueOf]
  cases signed <;> rfl

theorem dotSum_eq (sa sb : Bool) (x y : Nat) : dotSum sa sb x y 4 = byteValue sa x 0 * byteValue sb y 0 +
    byteValue sa x 1 * byteValue sb y 1 + byteValue sa x 2 * byteValue sb y 2 + byteValue sa x 3 * byteValue sb y 3 := by
  simp only [dotSum, readInt_byte, zero_add]

/-! ### The other instructions -/

theorem absInt_eq (ty : IntTy) (x : Nat) : absInt ty x = |(x : Int).bmod (2 ^ intWidth ty)| := by
  rw [absInt, readInt_true_eq_bmod (intWidth_pos ty), Int.natCast_natAbs]

theorem vField_eq_laneField (b : Band) (t : Thread) (x : VField) : vField b t x = laneField b t x := by cases x <;> rfl

theorem vectorOther : VectorOther := by
  refine ⟨fun o => ?vmad, fun o => ?vmadw, fun o => ?vdot4, fun o => ?vsel, fun o => ?vabsC, fun o => ?vabs, fun o => ?vpopcC,
    fun o => ?vpopc, fun o => ?vclzC, fun o => ?vclz, fun o => ?vbfx, fun o => ?vbfi, fun o => ?vmovsC, fun o => ?vmovs,
    fun o => ?vli, fun o => ?vidxC, fun o => ?vidx⟩
  case vmad =>
    refine laneWrites_of_exec (exec_vmad · o) fun g l t => ?_
    rw [aluInt_mul, vsrcInt_eq_laneB]
    exact sameIn_add_pattern ..
  case vmadw =>
    rw [← doubleTy_eq_widerTy]
    refine laneWrites_of_exec (exec_vmadw · o) fun g l t => ?_
    rw [aluInt_mul, vsrcInt_eq_laneB]
    exact sameIn_add_pattern ..
  case vdot4 =>
    refine laneWrites_of_eq (exec_vdot4 · o) fun g l t => ?_
    have hc : readInt true 32 (rdV t o.c.val).toNat = valueOf .i32 (rdV t o.c.val).toNat := readInt_eq_valueOf .i32 _
    have hsat : ∀ r, clampInt r (-2 ^ 31) (2 ^ 31 - 1) = saturated .i32 r := clampInt_eq_saturated .i32
    simp only [dotSum_eq, vsrcInt_eq_laneB, hc, hsat, add_assoc]
  case vsel =>
    refine laneWrites_of_eq (exec_vsel · o) fun g l t => ?_
    rw [vsrcInt_eq_laneB, vPat_eq_lanePattern, Nat.cast_ite]
  case vabsC => exact laneWrites_of_eq (exec_vabsC · o) fun g l t => absInt_eq .i32 _
  case vabs => exact laneWrites_of_eq (exec_vabs · o) fun g l t => absInt_eq ..
  case vpopcC => exact laneWrites_of_eq (exec_vpopcC · o) fun g l t => congrArg _ (popcount_eq_onesIn fun _ _ => rfl)
  case vpopc => exact laneWrites_of_eq (exec_vpopc · o) fun g l t => congrArg _ (popcount_eq_onesIn fun _ _ => rfl)
  case vclzC => exact laneWrites_of_eq (exec_vclzC · o) fun g l t => congrArg _ (leadZeros_eq_zerosAbove fun _ _ => rfl)
  case vclz => exact laneWrites_of_eq (exec_vclz · o) fun g l t => congrArg _ (leadZeros_eq_zerosAbove fun _ _ => rfl)
  case vbfx =>
    refine laneWrites_of_eq (exec_vbfx · o) fun g l t => ?_
    rw [bfx_eq_extracted, vField_eq_laneField, vPat_eq_lanePattern]
  case vbfi =>
    refine laneWrites_of_eq (exec_vbfi · o) fun g l t => ?_
    rw [vField_eq_laneField, vPat_eq_lanePattern, vPat_eq_lanePattern, bfi_eq_inserted (hy := lanePattern_lt ..)]
  case vmovsC => exact laneWrites_of_eq (exec_vmovsC · o) fun _ _ _ => rfl
  case vmovs => exact laneWrites_of_eq (exec_vmovs · o) fun _ _ _ => rfl
  case vli =>
    refine laneWrites_of_eq (exec_vli · o) fun g l t => ?_
    cases o.v with
    | imm v => exact congrArg _ (immInt_eq_immPattern ..)
    | lit v => rfl
  case vidxC => exact laneWrites_of_eq (exec_vidxC · o) fun _ _ _ => rfl
  case vidx => exact laneWrites_of_eq (exec_vidx · o) fun g l t => by rw [vsrcInt_eq_laneB]

/-! ### VCMP (R128) -/

/-- A write to p15 finds no bit to set (R35). -/
theorem getLsbD_setPredBit (ps : BitVec 15) (d r : Nat) (v : Bool) :
    (setPredBit ps d v).getLsbD r = if r = d ∧ d < 15 then v else ps.getLsbD r := by
  have hbit : (BitVec.ofNat 15 (2 ^ d)).getLsbD r = decide (r = d ∧ d < 15) := by
    rw [BitVec.getLsbD_ofNat, Nat.testBit_two_pow, ← Bool.decide_and, decide_eq_decide]
    omega
  cases v
  · rw [setPredBit, if_neg Bool.false_ne_true, BitVec.getLsbD_and, BitVec.getLsbD_not, hbit]
    by_cases h : r = d ∧ d < 15
    · simp [h]
    · simpa [h] using BitVec.lt_of_getLsbD
  · rw [setPredBit, if_pos rfl, BitVec.getLsbD_or, hbit]
    by_cases h : r = d ∧ d < 15 <;> simp [h]

theorem rdP_wrP_ne {d r : Nat} (h : r ≠ d) (t : Thread) (v : Bool) : rdP (wrP t d v) r = rdP t r := by
  rw [rdP, rdP, predBit, predBit, wrP, getLsbD_setPredBit, if_neg (by omega)]

theorem rdP_wrP {d : Nat} (h : d < 15) (t : Thread) (v : Bool) : rdP (wrP t d v) d = v := by
  rw [rdP, predBit, wrP, getLsbD_setPredBit, if_pos ⟨rfl, h⟩, beq_eq_false_iff_ne.2 (by omega), Bool.false_or]

theorem putsP_wrP (pc : DWord) (t : Thread) (d : Nat) (v : Bool) : PutsP pc d v t (moved (wrP t d v) pc) :=
  ⟨rfl, fun h => rdP_wrP h t v, fun _ h => rdP_wrP_ne h t v⟩

theorem vectorCompare : VectorCompare := fun s _ o hg hr =>
  eachThread_of_vecOp hg (exec_vcmp s o) hr fun l t => by
    rw [condHolds_eq_condTrue, vsrcInt_eq_laneB]
    exact putsP_wrP ..

/-- Settles O11: an instruction of a vector class leaves each lane as its part says, and its parts are the rules' values modulo two
to the width. -/
theorem vectorIntegers : Obligations.VectorIntegers := ⟨vectorAlu, vectorOther, vectorCompare⟩

end Sys2Proof.Proofs
end

section
/-! SUPPORT. The vector float class (R134-R163): operands and results of a float type as a lane's registers hold them, one lemma for
each way in which an instruction of the class acts, and the instructions themselves. -/

namespace Sys2Proof.Proofs

open Sys2Proof.Machine Sys2Proof.Claims

/-! ### Operands (R54, R138) -/

theorem vBits_eq_laneFlt (ty : FTy) (t : Thread) (r : Nat) : vBits (fltWidth ty) t r = laneFlt ty t r := by
  cases ty with
  | f16 | bf16 | f64 => rfl
  | f32 | f16x2 | bf16x2 => exact Nat.mod_eq_of_lt (rdV t r).isLt

theorem vsrcFlt_eq_laneFltB (b : Band) (t : Thread) (ty : FTy) (x : VSrc) : vsrcFlt b t ty x = laneFltB b ty t x := by
  cases x with
  | vec r => exact vBits_eq_laneFlt ..
  | sca r => rfl
  | imm v => rfl
  | lit v => rfl

theorem fltElems_eq_two_iff (ty : FTy) : fltElems ty = 2 ↔ ty = .f16x2 ∨ ty = .bf16x2 := by cases ty <;> decide

theorem decodeFmt_elemOf (ty : FTy) (j bits : Nat) : decodeFmt (fmtOf ty) (elemOf ty j bits) = element ty bits j := by
  have hhalf : bitsOf bits (16 * j) 16 = bits / 65536 ^ j % 65536 := by rw [bitsOf, pow_mul]; rfl
  simp only [elemOf, element, fltElems_eq_two_iff, hhalf]

/-- A format reads the bits of its width only. -/
theorem decodeFmt_mod (f : Fmt) (bits : Nat) : decodeFmt f (bits % 2 ^ f.width) = decodeFmt f bits := by
  simp only [decodeFmt, Nat.mod_mod]

theorem decodeFmt_eq_element_zero (ty : FTy) (bits : Nat) : decodeFmt (fmtOf ty) bits = element ty bits 0 := by
  rw [element, pow_zero, Nat.div_one]
  split
  next h => rcases h with rfl | rfl <;> exact (decodeFmt_mod _ bits).symm
  next => rfl

/-! ### Results (R76, R138) -/

theorem tyBytes_flt (ty : FTy) : 8 * tyBytes (.flt ty) = fltWidth ty := by cases ty <;> rfl

theorem elements_eq_eachElem (ty : FTy) (f : Nat → Nat × Flags) :
    elements ty f = (BitVec.ofNat 64 (eachElem ty f).1, (eachElem ty f).2) := by
  simp only [eachElem, elements, fltElems_eq_two_iff]
  split <;> rfl

/-- The elements' results in a register or pair, with their conditions, in a thread that has gone on. -/
theorem putsF_putFlt (pc : DWord) (ty : FTy) (t : Thread) (d : Nat) (f : Nat → Nat × Flags) :
    PutsF pc d (fltWidth ty) (elements ty f).1 (elements ty f).2 t (moved (putFlt ty t d (eachElem ty f)) pc) := by
  have hfits : FitsTy (.flt ty) (eachElem ty f).1 := fitsTy_of_fmt rfl _
  have hput : putFlt ty t d (eachElem ty f) = putTy (.flt ty) t d (eachElem ty f) := by rw [putTy, tyBytes_flt]; rfl
  rw [elements_eq_eachElem, hput, ← tyBytes_flt]
  exact putsF_putTy hfits ..

theorem raiseFlags_zero (t : Thread) : raiseFlags t 0 = t := by simp [raiseFlags]

/-! ### Instructions that round (R87, R137, R140) -/

theorem fRound_eq_rounded (x : FRes) (ty : FTy) (m : Mode) (sr : Nat) : fRound x (fmtOf ty) m sr = rounded ty m sr x := rfl

/-- Rounding to nearest takes no random bits. -/
theorem rounded_rne (ty : FTy) (sr sr' : Nat) (x : Val × Flags) : rounded ty .rne sr x = rounded ty .rne sr' x := by
  obtain ⟨v, fl⟩ := x
  cases v <;> rfl

section
variable {i : Instr} {regs : List Nat} {rnd : Rnd} {d : Nat}

/-- An instruction that rounds, whose every element is `res` of the mode, the group, the home lane and the thread. -/
theorem laneRounds_of_exec {ty : FTy} {f : Grp → Mode → Nat → Thread → Nat → Nat × Flags}
    {res : Mode → Grp → Nat → Thread → Nat → Nat × Flags}
    (hi : ∀ s, exec i s = fltOp s regs rnd fun g m l t => putFlt ty t d (eachElem ty (f g m l t)))
    (hf : ∀ m g l t j, f (advanced g rnd) m l t j = res m g l t j) :
    LaneRounds i regs rnd (fltWidth ty) d fun m g l t => elements ty (res m g l t) := fun s g hg hr =>
  eachRounding_of_fltOp hg (hi s) hr fun l t => by
    have hres : res (roundingMode g.band rnd) g l t = f (advanced g rnd) (roundingMode g.band rnd) l t :=
      (funext (hf _ g l t)).symm
    simp only [hres]
    exact putsF_putFlt ..

/-- Only the results under the instruction's own mode matter. -/
theorem laneRounds_congr {w : Nat} {res res' : Mode → Grp → Nat → Thread → DWord × Flags} (h : LaneRounds i regs rnd w d res)
    (hres : ∀ g l t, res (roundingMode g.band rnd) g l t = res' (roundingMode g.band rnd) g l t) :
    LaneRounds i regs rnd w d res' := by
  intro s g hg hr
  simpa only [hres] using h s g hg hr

end

/-! ### Two operands (R147, R151) -/

theorem flt2_rounds {i : Instr} {o : FOp2} {op : Mode → Val → Val → Val × Flags} (hi : ∀ s, exec i s = flt2 o op s) :
    LaneRounds i ([o.d.val, o.a.val] ++ namedB o.b) o.rnd (fltWidth o.ty) o.d.val fun m g l t =>
      elements o.ty fun j => rounded o.ty m (randomBits g o.rnd l j)
        (op m (element o.ty (laneFlt o.ty t o.a.val) j) (element o.ty (laneFltB g.band o.ty t o.b) j)) := by
  refine laneRounds_of_exec hi fun m g l t j => ?_
  rw [decodeFmt_elemOf, decodeFmt_elemOf, vBits_eq_laneFlt, vsrcFlt_eq_laneFltB, srOf_advanced]
  rfl

theorem exec_floatFull : ∀ p ∈ floatFull, ∀ o s, exec (p.1 o) s = flt2 o p.2 s := by
  intro p hp
  fin_cases hp <;> exact fun _ _ => rfl

theorem exec_floatCompact : ∀ p ∈ floatCompact, ∀ o s, exec (p.1 o) s = flt2 (fop2OfC o) p.2 s := by
  intro p hp
  fin_cases hp <;> exact fun _ _ => rfl

theorem floatArithmetic : FloatArithmetic :=
  ⟨fun p hp o => flt2_rounds (exec_floatFull p hp o),
    fun p hp o => laneRounds_congr (flt2_rounds (exec_floatCompact p hp o)) fun _ _ _ =>
      congrArg (elements .f32) (funext fun _ => rounded_rne ..)⟩

/-! ### One operand (R151, R161, R163) -/

theorem flt1_rounds {i : Instr} {o : FOp1} {op : Mode → Nat → Val → Nat × Flags} (hi : ∀ s, exec i s = flt1 o op s) :
    LaneRounds i [o.d.val, o.a.val] o.rnd (fltWidth o.ty) o.d.val fun m g l t =>
      elements o.ty fun j => op m (randomBits g o.rnd l j) (element o.ty (laneFlt o.ty t o.a.val) j) := by
  refine laneRounds_of_exec hi fun m g l t j => ?_
  rw [decodeFmt_elemOf, vBits_eq_laneFlt, srOf_advanced]

theorem exec_unaryFull : ∀ p ∈ unaryFull, ∀ o s, exec (p.1 o) s = flt1 o (p.2 o.ty) s := by
  intro p hp
  fin_cases hp <;> exact fun _ _ => rfl

theorem exec_unaryCompact : ∀ p ∈ unaryCompact, ∀ o s, exec (p.1 o) s = flt1 (fop1OfC o) (p.2 .f32) s := by
  intro p hp
  fin_cases hp <;> exact fun _ _ => rfl

theorem floatUnary : FloatUnary :=
  ⟨fun p hp o => flt1_rounds (exec_unaryFull p hp o),
    fun p hp o => laneRounds_congr (flt1_rounds (exec_unaryCompact p hp o)) fun _ _ _ => rfl⟩

/-! ### Three operands (R149, R155) -/

theorem exec_addMinMax : ∀ p ∈ [(Instr.vaddmin, false), (Instr.vaddmax, true)], ∀ o s, exec (p.1 o) s = addMinMax p.2 o s := by
  intro p hp
  fin_cases hp <;> exact fun _ _ => rfl

theorem floatTernary : FloatTernary := by
  refine ⟨fun o => ?fma, fun o => flt1_rounds (exec_vfrnd · o), fun p hp o ty hty => ?floats, fun p hp o ty hty => ?integers⟩
  case fma =>
    refine laneRounds_of_exec (exec_vfma · o) fun m g l t j => ?_
    simp only [decodeFmt_elemOf, vBits_eq_laneFlt, vsrcFlt_eq_laneFltB, srOf_advanced, fRound_eq_rounded]
    rfl
  case floats =>
    have hexec := exec_addMinMax p hp o
    simp only [addMinMax, hty] at hexec
    refine laneRounds_of_exec hexec fun m g l t j => ?_
    simp only [decodeFmt_elemOf, vBits_eq_laneFlt, vsrcFlt_eq_laneFltB, srOf_advanced, fRound_eq_rounded]
    rfl
  case integers =>
    have hexec := exec_addMinMax p hp o
    simp only [addMinMax, hty] at hexec
    refine laneWrites_of_eq hexec fun g l t => ?_
    simp only [readInt_eq_valueOf, vPat_eq_lanePattern, vsrcInt_eq_laneB, clampInt_eq_saturated]

/-! ### Selections, classes and comparisons (R153, R157, R159) -/

theorem minMaxV_floats {i : Instr} {o : FMinMax} {isMax : Bool} (hi : ∀ s, exec i s = minMaxV isMax o s) :
    LaneFloats i ([o.d.val, o.a.val] ++ namedB o.b) (fltWidth o.ty) o.d.val fun b t =>
      extremum o.ty isMax o.nan (laneFlt o.ty t o.a.val) (laneFltB b o.ty t o.b) := fun s g hg hr =>
  eachThread_of_vecOp hg (hi s) hr fun l t => by
    rw [vBits_eq_laneFlt, vsrcFlt_eq_laneFltB]
    exact putsF_putFlt ..

theorem exec_minMax : ∀ p ∈ [(Instr.vfmin, false), (Instr.vfmax, true)], ∀ o s, exec (p.1 o) s = minMaxV p.2 o s := by
  intro p hp
  fin_cases hp <;> exact fun _ _ => rfl

theorem exec_minMaxC : ∀ p ∈ [(Instr.vfminC, false), (Instr.vfmaxC, true)], ∀ o s,
    exec (p.1 o) s = minMaxV p.2 (minMaxOfC o) s := by
  intro p hp
  fin_cases hp <;> exact fun _ _ => rfl

theorem classMask_eq (ty : FTy) (a : Nat) : classMask ty a =
    (BitVec.ofNat 64 (eachElem ty fun j => (2 ^ fClass (fmtOf ty) (element ty a j), 0)).1, 0) := by
  rw [classMask, elements_eq_eachElem]

/-- A class mask is one register, whatever the type, and raises no condition. -/
theorem classV_floats {i : Instr} {o : FClass} (hi : ∀ s, exec i s = classV o s) :
    LaneFloats i [o.d.val, o.a.val] 32 o.d.val fun _ t => classMask o.ty (laneFlt o.ty t o.a.val) := fun s g hg hr =>
  eachThread_of_vecOp hg (hi s) hr fun l t => by
    simp only [decodeFmt_elemOf, vBits_eq_laneFlt, classMask_eq]
    rw [← raiseFlags_zero (wrV _ _ _)]
    exact putsF_word g.next t o.d.val (_, 0)

theorem vfcmp_compares (o : FCmp) (s : State) (g : Grp) (hg : grpOf s = some g) (hr : ∀ r ∈ o.a.val :: namedB o.b, r < g.band.n) :
    EachThread (.vfcmp o) s g fun _ t t' =>
      let r := fCmp o.cond (element o.ty (laneFlt o.ty t o.a.val) 0) (element o.ty (laneFltB g.band o.ty t o.b) 0)
      t' = { moved t g.next with preds := t'.preds, fstat := t.fstat ||| r.2 } ∧
        (o.pd.val < 15 → rdP t' o.pd.val = r.1) ∧ ∀ q, q ≠ o.pd.val → rdP t' q = rdP t q :=
  eachThread_of_vecOp hg (exec_vfcmp s o) hr fun l t => by
    simp only [decodeFmt_eq_element_zero, vBits_eq_laneFlt, vsrcFlt_eq_laneFltB]
    exact ⟨rfl, fun h => rdP_wrP h t _, fun _ h => rdP_wrP_ne h t _⟩

theorem floatSelect : FloatSelect :=
  ⟨fun p hp o => minMaxV_floats (exec_minMax p hp o), fun p hp o => minMaxV_floats (exec_minMaxC p hp o),
    fun o => classV_floats (exec_vfclass · o), fun o => classV_floats (exec_vfclassC · o), vfcmp_compares⟩

/-- Settles O12: an instruction of the class leaves each lane the results of its elements side by side, and joins their
conditions to FSTAT; what an element's result is, its part says. -/
theorem floatInstructions : Obligations.FloatInstructions := ⟨floatArithmetic, floatUnary, floatTernary, floatSelect⟩

end Sys2Proof.Proofs
end

section
/-! SUPPORT. Moves between lanes (R169, R171) and predicates (R179, R181): a register or pair of a width as a lane holds it, the
source lane of a shuffle, and one lemma for each way in which an instruction of these writes. -/

namespace Sys2Proof.Proofs

open Sys2Proof.Machine Sys2Proof.Claims

/-! ### Bits of a width in a register or pair -/

/-- Bits of a width in a register or pair, with conditions, in a thread that has gone on. -/
theorem putsF_wrVFlt (pc : DWord) (w : Nat) (t : Thread) (d bits : Nat) (fl : Flags) :
    PutsF pc d w (BitVec.ofNat 64 bits) fl t (moved (raiseFlags (wrVFlt w t d bits) fl) pc) := by
  by_cases hw : w = 64
  · simp only [wrVFlt, if_pos hw]
    refine ⟨rfl, ?_, fun q hq hq' => rdV_wrV64_ne hq (hq' hw) ..⟩
    rw [if_pos hw]
    exact rdV64_wrV64 ..
  · simp only [wrVFlt, if_neg hw]
    refine ⟨rfl, ?_, fun q hq _ => rdV_wrV_ne hq ..⟩
    rw [if_neg hw, BitVec.setWidth_ofNat_of_le (by decide)]
    exact rdV_wrV ..

theorem putsV_wrVFlt (pc : DWord) (w : Nat) (t : Thread) (d bits : Nat) :
    PutsV pc d w (BitVec.ofNat 64 bits) t (moved (wrVFlt w t d bits) pc) := by
  obtain ⟨hframe, hvalue, hothers⟩ := putsF_wrVFlt pc w t d bits 0
  rw [raiseFlags_zero] at hframe hvalue hothers
  exact ⟨by rw [hframe]; simp [moved], hvalue, hothers⟩

theorem putsV_wrV (pc : DWord) (t : Thread) (d : Nat) (v : Word) : PutsV pc d 32 (v.setWidth 64) t (moved (wrV t d v) pc) := by
  refine ⟨rfl, ?_, fun q hq _ => rdV_wrV_ne hq ..⟩
  rw [if_neg (by decide), BitVec.setWidth_setWidth_of_le _ (by decide), BitVec.setWidth_eq]
  exact rdV_wrV ..

theorem putWide_eq_wrVFlt (wide : Bool) (t : Thread) (d v : Nat) : putWide wide t d v = wrVFlt (if wide then 64 else 32) t d v := by
  cases wide <;> rfl

theorem getWide_wide (t : Thread) (r : Nat) : getWide true t r = (rdV64 t r).toNat := rfl

theorem getWide_narrow (t : Thread) (r : Nat) : getWide false t r = (rdV t r).toNat := Nat.mod_eq_of_lt (rdV t r).isLt

theorem bne_toNat_zero {n : Nat} (v : BitVec n) : (v.toNat != 0) = (v != 0) := by
  rw [Bool.eq_iff_iff, bne_iff_ne, bne_iff_ne, Ne, Ne, ← BitVec.toNat_inj]
  rfl

theorem getWide_ne_zero (wide : Bool) (t : Thread) (r : Nat) :
    (getWide wide t r != 0) = if wide then rdV64 t r != 0 else rdV t r != 0 := by
  cases wide
  · rw [getWide_narrow]
    exact bne_toNat_zero _
  · rw [getWide_wide]
    exact bne_toNat_zero _

/-! ### VSHFL and VBCST (R169, R171) -/

theorem ofNat_getWide (wide : Bool) (t : Thread) (r : Nat) :
    BitVec.ofNat 64 (getWide wide t r) = if wide then rdV64 t r else (rdV t r).setWidth 64 := by
  cases wide
  · simp [getWide_narrow]
  · simp [getWide_wide]

/-- A lane has what VSHFL and VBCST move: the source lane's register when that is in P, else the fill. -/
theorem takeLane_puts (pc : DWord) (g : Grp) (wide : Bool) (t : Thread) (d a : Nat) (c : Option (Fin 256)) (src : Option Nat) :
    PutsV pc d (if wide then 64 else 32) (taken g wide a c src t) t (moved (takeLane g wide t d a c src) pc) := by
  unfold takeLane
  rw [putWide_eq_wrVFlt]
  convert putsV_wrVFlt .. using 1
  cases src with
  | none => cases c <;> exact (ofNat_getWide ..).symm
  | some l =>
    by_cases hl : l ∈ g.live <;> cases c <;> simp [taken, hl, ofNat_getWide]

/-- A source lane outside the segment is the same as none (R169). -/
theorem shflSrc_eq_shuffleFrom (mode : ShflMode) {w : Nat} (hw : 0 < w) (lane b : Nat) :
    shflSrc mode w lane b = shuffleFrom mode w lane b := by
  have hoff := Nat.mod_lt lane hw
  cases mode <;> simp only [shflSrc, shuffleFrom]
  case idx =>
    have hb := Nat.mod_lt b hw
    rw [if_pos (by omega)]
    rfl
  case xor =>
    generalize hx : lane % w ^^^ b % 32 = x
    rw [show Nat.xor (lane % w) (b % 32) = x from hx]
    by_cases h : x < w
    · rw [if_pos h, if_pos (by omega)]
      rfl
    · rw [if_neg h, if_neg (by omega)]
  case up =>
    by_cases h : b ≤ lane % w
    · rw [if_pos h, if_pos (by omega)]
      congr 1
      omega
    · rw [if_neg h, if_neg (by omega)]
  case down =>
    by_cases h : lane % w + b < w
    · rw [if_pos h, if_pos (by omega)]
      rfl
    · rw [if_neg h, if_neg (by omega)]

theorem segWidth_pos (c : Fin 4) : 0 < segWidth c := by revert c; decide

theorem laneMoves : LaneMoves := by
  refine ⟨fun o s g hg hr => ?shuffle, fun o s g hg hr => ?broadcast⟩
  case shuffle =>
    refine eachThread_of_vecOp hg (exec_vshfl s o) hr fun l t => ?_
    rw [vsrcInt_eq_laneB, shflSrc_eq_shuffleFrom _ (segWidth_pos _)]
    exact takeLane_puts ..
  case broadcast =>
    refine eachThread_of_vecOp hg (exec_vbcst s o) hr fun l t => ?_
    cases o.src <;> exact takeLane_puts ..

/-! ### Predicates (R179, R181) -/

theorem exec_logicP : ∀ p ∈ [(Instr.pand, fun a b : Bool => a && b), (Instr.por, fun a b => a || b),
    (Instr.pxor, fun a b => a ^^ b)], ∀ o s, exec (p.1 o) s = logicP p.2 o s := by
  intro p hp
  fin_cases hp <;> exact fun _ _ => rfl

theorem exec_logicPC : ∀ p ∈ [(Instr.pandC, fun a b : Bool => a && b), (Instr.porC, fun a b => a || b),
    (Instr.pxorC, fun a b => a ^^ b)], ∀ o s, exec (p.1 o) s = logicP p.2 (pop2OfC o) s := by
  intro p hp
  fin_cases hp <;> exact fun _ _ => rfl

section
variable {i : Instr} {s : State} {g : Grp} (hg : grpOf s = some g)
include hg

/-- A per-thread instruction that writes a predicate. -/
theorem eachThread_of_wrP {regs : List Nat} {d : Nat} {v : Grp → Thread → Bool} {v' : Thread → Bool}
    (hi : exec i s = vecOp s regs fun g _ t => wrP t d (v g t)) (hr : ∀ r ∈ regs, r < g.band.n) (hv : ∀ t, v g t = v' t) :
    EachThread i s g fun _ t t' => PutsP g.next d (v' t) t t' :=
  eachThread_of_vecOp hg hi hr fun _ t => hv t ▸ putsP_wrP ..

theorem logicP_puts {f : Bool → Bool → Bool} {o : POp2} (hi : exec i s = logicP f o s) : EachThread i s g fun _ t t' =>
    PutsP g.next o.d.val (f (rdP t o.a.val ^^ o.na) (rdP t o.b.val ^^ o.nb)) t t' :=
  eachThread_of_wrP hg hi (by simp) fun _ => rfl

theorem notP_puts {o : POp1} (hi : exec i s = notP o s) : EachThread i s g fun _ t t' =>
    PutsP g.next o.d.val (!(rdP t o.a.val ^^ o.na)) t t' :=
  eachThread_of_wrP hg hi (by simp) fun _ => rfl

theorem ptovV_puts {ones : Bool} {d a : Nat} (hi : exec i s = ptovV ones d a s) (hd : d < g.band.n) : EachThread i s g fun _ t t' =>
    PutsV g.next d 32 (if rdP t a then (if ones then 0xFFFFFFFF else 1) else 0) t t' := by
  refine eachThread_of_vecOp hg hi (by simpa using hd) fun l t => ?_
  convert putsV_wrV .. using 1
  cases rdP t a <;> cases ones <;> rfl

theorem vtopV_puts {wide : Bool} {d a : Nat} (hi : exec i s = vtopV wide d a s) (ha : a < g.band.n) : EachThread i s g fun _ t t' =>
    PutsP g.next d (if wide then rdV64 t a != 0 else rdV t a != 0) t t' :=
  eachThread_of_wrP hg hi (by simpa using ha) fun t => getWide_ne_zero wide t a

/-- PPOPC writes its register as a scalar instruction would, though it reads threads. -/
theorem ppopcS_puts {neg : Bool} {d a : Nat} (hi : exec i s = ppopcS neg d a s) (hl : g.live ≠ []) :
    OnceScalar i s g d (BitVec.ofNat 64 (g.live.countP fun l => rdP (threadOf g.band l) a ^^ neg)) := by
  refine onceScalar_of_exec (f := fun _ => _) hg hl (hi.trans ?_)
  obtain ⟨guard, hcur⟩ := grpOf_cur hg
  simp only [ppopcS, bandOnly, scalarOp, hcur, perGroup, perGroupTo, hg, List.countP_eq_length_filter]
  rfl

end

theorem predicates : Predicates := by
  refine fun s g hg => ⟨fun p hp o => logicP_puts hg (exec_logicP p hp o s), fun p hp o => ?compact,
    fun o => notP_puts hg (exec_pnot s o), fun o => ?notCompact, fun o => ptovV_puts hg (exec_ptov s o),
    fun o => ptovV_puts (ones := false) hg (exec_ptovC s o),
    fun o => vtopV_puts hg (exec_vtop s o), fun o => vtopV_puts (wide := false) hg (exec_vtopC s o),
    fun hl o => ppopcS_puts hg (exec_ppopc s o) hl, fun hl o => ?countCompact⟩
  case compact => simpa [pop2OfC] using logicP_puts hg (exec_logicPC p hp o s)
  case notCompact => simpa using notP_puts hg (exec_pnotC s o)
  case countCompact => simpa using ppopcS_puts hg (exec_ppopcC s o) hl

end Sys2Proof.Proofs
end

section
/-! SUPPORT. The sets of lanes that VMATCH, VVOTE and VSCAN work on (R173, R175, R177): a mask of lanes bit by bit, and the fold of a
scan as the fold over the lanes before each lane. -/

namespace Sys2Proof.Proofs

open Sys2Proof.Machine Sys2Proof.Claims

/-! ### Masks of lanes -/

theorem laneMask_eq_sum (ls : List Nat) : laneMask ls = (ls.map (2 ^ ·)).sum := by
  induction ls with
  | nil => rfl
  | cons l ls ih => rw [laneMask, ih, List.map_cons, List.sum_cons]

theorem testBit_laneMask {ls : List Nat} (h : ls.Pairwise (· < ·)) (l : Nat) : (laneMask ls).testBit l = decide (l ∈ ls) := by
  rw [Bool.eq_iff_iff, decide_eq_true_eq, ← Nat.mem_bitIndices, laneMask_eq_sum, Nat.bitIndices_sum_map_two_pow h.sortedLT]

section
variable {s : State} {g : Grp} (hg : grpOf s = some g)
include hg

/-- The lanes of P are lanes of the group, in the group's order. -/
theorem grpOf_live_sublist : g.live.Sublist g.lanes := by
  unfold grpOf at hg
  split at hg
  · split at hg
    · simp only [Option.some.injEq] at hg
      subst hg
      exact List.filter_sublist
    · cases hg
  · cases hg

theorem live_pairwise (hp : Placed g) : g.live.Pairwise (· < ·) := hp.1.sublist (grpOf_live_sublist hg)

end

/-- A mask of some lanes of P, in a register of a thread that has gone on. -/
theorem laneMask_written {live : List Nat} (h : live.Pairwise (· < ·)) (p : Nat → Bool) (pc : DWord) (t : Thread) (d : Nat) :
    let t' := moved (wrV t d (BitVec.ofNat 32 (laneMask (live.filter p)))) pc
    t' = { moved t pc with vregs := t'.vregs } ∧ (∀ r, r ≠ d → rdV t' r = rdV t r) ∧
      ∀ l, l < 32 → (rdV t' d).getLsbD l = decide (l ∈ live ∧ p l = true) := by
  refine ⟨rfl, fun r hr => rdV_wrV_ne hr .., fun l hl => ?_⟩
  have hread : rdV (moved (wrV t d (BitVec.ofNat 32 (laneMask (live.filter p)))) pc) d =
      BitVec.ofNat 32 (laneMask (live.filter p)) := rdV_wrV ..
  rw [hread, BitVec.getLsbD_ofNat, testBit_laneMask (h.sublist List.filter_sublist)]
  simp [hl, List.mem_filter]

/-! ### VMATCH (R173) -/

theorem vmatch_masks {s : State} {g : Grp} (hg : grpOf s = some g) (hp : Placed g) (o : Match)
    (hr : ∀ r ∈ [o.d.val, o.a.val], r < g.band.n) : EachThread (.vmatch o) s g fun _ t t' =>
      t' = { moved t g.next with vregs := t'.vregs } ∧ (∀ r, r ≠ o.d.val → rdV t' r = rdV t r) ∧
        ∀ l, l < 32 → (rdV t' o.d.val).getLsbD l = decide (l ∈ g.live ∧
          getWide o.wide (threadOf g.band l) o.a.val = getWide o.wide t o.a.val) :=
  eachThread_of_vecOp hg (exec_vmatch s o) hr fun _ t => by
    simpa only [beq_iff_eq] using laneMask_written (live_pairwise hg hp)
      (fun l => getWide o.wide (threadOf g.band l) o.a.val == getWide o.wide t o.a.val) g.next t o.d.val

/-! ### VVOTE (R175) -/

section
variable {s : State} {g : Grp} (hg : grpOf s = some g) (o : Vote)
include hg

theorem vvote_ballot (hp : Placed g) (d : Fin 256) (ho : o.dst = .ballot d) (hd : d.val < g.band.n) :
    EachThread (.vvote o) s g fun _ t t' =>
      t' = { moved t g.next with vregs := t'.vregs } ∧ (∀ r, r ≠ d.val → rdV t' r = rdV t r) ∧
        ∀ l, l < 32 → (rdV t' d.val).getLsbD l = decide (l ∈ g.live ∧ rdP (threadOf g.band l) o.a.val ≠ o.neg) := by
  have hexec := exec_vvote s o
  simp only [execVvote, ho] at hexec
  refine eachThread_of_vecOp hg hexec (by simpa using hd) fun _ t => ?_
  simpa only [bne_iff_ne] using laneMask_written (live_pairwise hg hp)
    (fun l => rdP (threadOf g.band l) o.a.val != o.neg) g.next t d.val

theorem vvote_any (pd : Fin 16) (ho : o.dst = .any pd) : EachThread (.vvote o) s g fun _ t t' =>
    PutsP g.next pd.val (decide (∃ l ∈ g.live, rdP (threadOf g.band l) o.a.val ≠ o.neg)) t t' := by
  have hexec := exec_vvote s o
  simp only [execVvote, ho] at hexec
  refine eachThread_of_wrP hg hexec (by simp) fun _ => ?_
  rw [Bool.eq_iff_iff]
  simp [List.any_eq_true]

theorem vvote_all (pd : Fin 16) (ho : o.dst = .all pd) : EachThread (.vvote o) s g fun _ t t' =>
    PutsP g.next pd.val (decide (∀ l ∈ g.live, rdP (threadOf g.band l) o.a.val ≠ o.neg)) t t' := by
  have hexec := exec_vvote s o
  simp only [execVvote, ho] at hexec
  refine eachThread_of_wrP hg hexec (by simp) fun _ => ?_
  rw [Bool.eq_iff_iff]
  simp [List.all_eq_true]

end

/-- All of some bits are alike when all are set or none is. -/
theorem all_or_not_any_iff (ls : List Nat) (p : Nat → Bool) (neg : Bool) :
    (ls.all (fun l => p l != neg) || !ls.any (fun l => p l != neg)) = true ↔ ∀ l ∈ ls, ∀ k ∈ ls, p l = p k := by
  simp only [Bool.or_eq_true, Bool.not_eq_true', List.all_eq_true, List.any_eq_false, bne_iff_ne, ne_eq, not_not]
  constructor
  · rintro (h | h) l hl k hk
    · rw [Bool.eq_not.2 (h l hl), Bool.eq_not.2 (h k hk)]
    · rw [h l hl, h k hk]
  · intro h
    by_cases hall : ∀ l ∈ ls, ¬ p l = neg
    · exact Or.inl hall
    · push Not at hall
      obtain ⟨k, hk, hpk⟩ := hall
      exact Or.inr fun l hl => (h l hl k hk).trans hpk

theorem vvote_uni {s : State} {g : Grp} (hg : grpOf s = some g) (o : Vote) (pd : Fin 16) (ho : o.dst = .uni pd) :
    EachThread (.vvote o) s g fun _ t t' => PutsP g.next pd.val
      (decide (∀ l ∈ g.live, ∀ k ∈ g.live, rdP (threadOf g.band l) o.a.val = rdP (threadOf g.band k) o.a.val)) t t' := by
  have hexec := exec_vvote s o
  simp only [execVvote, ho] at hexec
  refine eachThread_of_wrP hg hexec (by simp) fun _ => ?_
  rw [Bool.eq_iff_iff, decide_eq_true_eq]
  exact all_or_not_any_iff ..

/-! ### VSCAN (R177) -/

theorem vBits_eq_laneRed (ty : RedTy) (t : Thread) (r : Nat) : vBits (redWidth ty) t r = laneRed ty t r := by
  cases ty with
  | i64 | n64 | f64 => rfl
  | i32 | n32 | f32 => exact Nat.mod_eq_of_lt (rdV t r).isLt

section
variable (op : RedOp) (ty : RedTy)

/-- One step of a fold in lane order: a first operand enters alone, a later one by Combine. -/
def foldStep (before : Option Nat) (x : Nat) : Nat × Flags :=
  match before with
  | some v => combine op ty v x
  | none => canonRed ty x

/-- What a scan gives a lane that holds `x`, from the fold of the lanes before it in its segment. -/
def scanGives (excl : Bool) (before : Option Nat) (x : Nat) : Nat × Flags :=
  (if excl then before.getD (identRed op ty) else (foldStep op ty before x).1, (foldStep op ty before x).2)

theorem folded_append (xs : List Nat) (y : Nat) : folded op ty (xs ++ [y]) = some (foldStep op ty (folded op ty xs) y).1 := by
  cases xs with
  | nil => rfl
  | cons x xs => simp [folded, foldStep, List.foldl_append]

/-- The running value of a scan, where it is of the segment `seg`. -/
def carriedTo (acc : Option (Nat × Nat)) (seg : Nat) : Option Nat :=
  match acc with
  | some (seg', v) => if seg' = seg then some v else none
  | none => none

variable {op ty} {excl : Bool} {w : Nat} {x : Nat → Nat}

theorem scanFrom_cons (acc : Option (Nat × Nat)) (l : Nat) (ls : List Nat) :
    scanFrom op ty excl w x acc (l :: ls) = (l, scanGives op ty excl (carriedTo acc (l / w)) (x l)) ::
      scanFrom op ty excl w x (some (l / w, (foldStep op ty (carriedTo acc (l / w)) (x l)).1)) ls := by
  rcases acc with _ | ⟨seg, v⟩
  · rfl
  · by_cases h : seg = l / w <;> simp [scanFrom, carriedTo, scanGives, foldStep, h]

/-- The running value after the lanes `pre` is, in the segment of any lane above them, the fold of those of `pre` in that
segment. -/
def Carries (op : RedOp) (ty : RedTy) (w : Nat) (x : Nat → Nat) (pre : List Nat) (acc : Option (Nat × Nat)) : Prop :=
  ∀ l, (∀ k ∈ pre, k < l) → carriedTo acc (l / w) = folded op ty ((pre.filter fun k => k / w = l / w).map x)

theorem carries_nil : Carries op ty w x [] none := fun _ _ => rfl

/-- A lane above a segment has nothing of it; a lane in the segment of the last has its fold and the last's operand. -/
theorem carries_append {pre : List Nat} {acc : Option (Nat × Nat)} {l : Nat} (h : Carries op ty w x pre acc)
    (hpre : ∀ k ∈ pre, k < l) : Carries op ty w x (pre ++ [l]) (some (l / w, (foldStep op ty (carriedTo acc (l / w)) (x l)).1)) := by
  intro j hj
  have hlj : l < j := hj l (by simp)
  by_cases hseg : l / w = j / w
  · rw [List.filter_append, List.map_append, h l hpre]
    simp [carriedTo, hseg, folded_append]
  · have hlt : l / w < j / w := lt_of_le_of_ne (Nat.div_le_div_right hlj.le) hseg
    have hnone : (pre ++ [l]).filter (fun k => k / w = j / w) = [] := by
      refine List.filter_eq_nil_iff.2 fun k hk => ?_
      have hkl : k ≤ l := (List.mem_append.1 hk).elim (fun hk => (hpre k hk).le) fun hk => (List.mem_singleton.1 hk).le
      have := Nat.div_le_div_right (c := w) hkl
      simp only [decide_eq_true_eq]
      omega
    rw [hnone]
    simp [carriedTo, hseg, folded]

/-- Of lanes in rising order, those before a lane in its segment stand before it. -/
theorem filter_before {pre ls : List Nat} {l : Nat} (h : (pre ++ l :: ls).Pairwise (· < ·)) :
    (pre ++ l :: ls).filter (fun k => k / w = l / w ∧ k < l) = pre.filter fun k => k / w = l / w := by
  obtain ⟨-, hls, hpre⟩ := List.pairwise_append.1 h
  have hafter : (l :: ls).filter (fun k => k / w = l / w ∧ k < l) = [] := by
    refine List.filter_eq_nil_iff.2 fun k hk => ?_
    have hlk : l ≤ k := (List.mem_cons.1 hk).elim (fun h => h.ge) fun hk => (List.rel_of_pairwise_cons hls hk).le
    simp [hlk]
  rw [List.filter_append, hafter, List.append_nil]
  refine List.filter_congr fun k hk => ?_
  simp [hpre k hk l List.mem_cons_self]

/-- What a scan lists for a lane: the fold of the lanes before it in its segment decides. -/
theorem find_scanFrom {ls : List Nat} : ∀ {pre : List Nat} {acc : Option (Nat × Nat)} {l : Nat},
    (pre ++ ls).Pairwise (· < ·) → Carries op ty w x pre acc → l ∈ ls → (scanFrom op ty excl w x acc ls).find? (fun r => r.1 == l) =
      some (l, scanGives op ty excl (folded op ty (((pre ++ ls).filter fun k => k / w = l / w ∧ k < l).map x)) (x l)) := by
  induction ls with
  | nil => exact fun _ _ hl => absurd hl List.not_mem_nil
  | cons k ls ih =>
    intro pre acc l hsorted hacc hl
    obtain ⟨-, hls, hpre⟩ := List.pairwise_append.1 hsorted
    have hbelow : ∀ j ∈ pre, j < k := fun j hj => hpre j hj k List.mem_cons_self
    rw [scanFrom_cons]
    by_cases hkl : k = l
    · subst hkl
      rw [List.find?_cons_of_pos (by simp), filter_before hsorted, hacc k hbelow]
    · rw [List.find?_cons_of_neg (by simpa using hkl)]
      have hmem : l ∈ ls := (List.mem_cons.1 hl).resolve_left fun h => hkl h.symm
      have hstep := ih (by simpa using hsorted) (carries_append hacc hbelow) hmem
      simpa using hstep

end

theorem scanned_eq (o : Scan) (g : Grp) (lane : Nat) : scanned o g lane = scanGives o.op o.ty o.excl
    (folded o.op o.ty ((g.live.filter fun k => k / segWidth o.seg = lane / segWidth o.seg ∧ k < lane).map
      fun l => laneRed o.ty (threadOf g.band l) o.a.val)) (laneRed o.ty (threadOf g.band lane) o.a.val) := rfl

theorem vscan_puts {s : State} {g : Grp} (hg : grpOf s = some g) (hp : Placed g) (o : Scan)
    (hr : ∀ r ∈ [o.d.val, o.a.val], r < g.band.n) : EachThread (.vscan o) s g fun l t t' =>
      PutsF g.next o.d.val (redWidth o.ty) (BitVec.ofNat 64 (scanned o g l).1) (scanned o g l).2 t t' := by
  have hexec := exec_vscan s o
  simp only [execVscan, vBits_eq_laneRed] at hexec
  obtain ⟨t, b', hnext, honly, hband, hb', hby, hlive⟩ := vecOp_ok hg hr _
  refine ⟨t, b', hexec.trans hnext, honly, hband, hb', hby, fun l hl hm => ?_⟩
  rw [hlive l hl hm, find_scanFrom (pre := []) (live_pairwise hg hp) carries_nil hm, List.nil_append, ← scanned_eq]
  exact putsF_wrVFlt ..

theorem laneSets : LaneSets := fun _ _ hg hp =>
  ⟨vmatch_masks hg hp, fun o => vvote_ballot hg o hp, vvote_any hg, vvote_all hg, vvote_uni hg, vscan_puts hg hp⟩

/-- Settles O15: moves between lanes, the sets of lanes that P's registers and predicates form, and the predicates themselves. -/
theorem laneOperations : Obligations.LaneOperations := ⟨laneMoves, laneSets, predicates⟩

end Sys2Proof.Proofs
end

section
/-! SUPPORT. The values of reductions (R184, R185): the levels of the band's tree as one recursion over lanes, VALUE's layout, and a
round's partials joined in an order of the model's choice. -/

namespace Sys2Proof.Proofs

open Sys2Proof.Machine Sys2Proof.Claims

/-! ### Values of a reduction's type, and VALUE's layout (R177, R184) -/

theorem redWidth_eq_redBits (ty : RedTy) : redWidth ty = redBits ty := by cases ty <;> rfl

theorem redBits_of_redInt {ty : RedTy} {i : IntTy} (h : redInt ty = some i) : redBits ty = intWidth i := by
  cases ty <;> cases h <;> rfl

/-- Bits that fit a reduction's type: below two to its width, where it is an integer type. -/
def FitsRed (ty : RedTy) (v : Nat) : Prop := ∀ i, redInt ty = some i → v < 2 ^ intWidth i

theorem fitsRed_of_lt {ty : RedTy} {v : Nat} (h : v < 2 ^ redBits ty) : FitsRed ty v := fun _ hi => redBits_of_redInt hi ▸ h

theorem fitsRed_zero (ty : RedTy) : FitsRed ty 0 := fun _ _ => by positivity

theorem laneRed_lt (ty : RedTy) (t : Thread) (r : Nat) : laneRed ty t r < 2 ^ redBits ty := by
  cases ty with
  | i64 | n64 | f64 => exact (rdV64 t r).isLt
  | i32 | n32 | f32 => exact (rdV t r).isLt

theorem fitsRed_combine {op : RedOp} {ty : RedTy} {a b : Nat} (ha : FitsRed ty a) (hb : FitsRed ty b) :
    FitsRed ty (combine op ty a b).1 := by
  intro i hi
  have ha' := ha i hi
  have hb' := hb i hi
  cases op <;> simp only [combine, hi]
  case add => exact wrapNat_lt ..
  case min => split <;> assumption
  case max => split <;> assumption
  case and => exact Nat.and_lt_two_pow a hb'
  case or => exact Nat.or_lt_two_pow ha' hb'
  case xor => exact Nat.xor_lt_two_pow ha' hb'

theorem fitsRed_canonRed {ty : RedTy} {a : Nat} (ha : FitsRed ty a) : FitsRed ty (canonRed ty a).1 := by
  intro i hi
  simp only [canonRed, hi]
  exact ha i hi

theorem fitsRed_foldl {op : RedOp} {ty : RedTy} {xs : List Nat} (hxs : ∀ x ∈ xs, FitsRed ty x) :
    ∀ {a : Nat}, FitsRed ty a → FitsRed ty (xs.foldl (fun a b => (combine op ty a b).1) a) := by
  induction xs with
  | nil => exact id
  | cons x xs ih =>
    intro a ha
    exact ih (fun y hy => hxs y (List.mem_cons_of_mem x hy)) (fitsRed_combine ha (hxs x List.mem_cons_self))

/-- A result in VALUE: a signed one extended by its sign, any other by zeros. -/
theorem redValue_eq_inValue {ty : RedTy} {v : Nat} (h : FitsRed ty v) : redValue ty v = inValue ty v := by
  have hnatural : ∀ {w : Nat}, v < 2 ^ w → BitVec.ofInt 64 (readInt false w v) = BitVec.ofNat 64 v := fun {w} hv => by
    rw [readInt, Bool.false_and, if_neg Bool.false_ne_true, Nat.mod_eq_of_lt hv, BitVec.ofInt_natCast]
  cases ty with
  | i32 => exact congrArg (BitVec.ofInt 64) (readInt_true_eq_bmod (w := 32) (by decide) v)
  | n32 => exact hnatural (w := 32) (h .n32 rfl)
  | i64 =>
    refine (congrArg (BitVec.ofInt 64) (readInt_true_eq_bmod (by decide) v)).trans ?_
    rw [ofInt_bmod (by decide), BitVec.ofInt_natCast]
    rfl
  | n64 => exact hnatural (w := 64) (h .n64 rfl)
  | f32 | f64 => rfl

/-! ### The tree of a band (R184) -/

section
variable (op : RedOp) (ty : RedTy)

theorem treeLevel_cons_cons (a b : Option Nat) (xs : List (Option Nat)) :
    (treeLevel op ty (a :: b :: xs)).1 = treeNode op ty a b :: (treeLevel op ty xs).1 := by
  cases a <;> cases b <;> rfl

/-- The nodes one level above the leaves `x`. -/
def nodesAbove (x : Nat → Option Nat) (i : Nat) : Option Nat := treeNode op ty (x (2 * i)) (x (2 * i + 1))

theorem treeLevel_range' (x : Nat → Option Nat) (l n : Nat) :
    (treeLevel op ty ((List.range' (2 * l) (2 * n)).map x)).1 = (List.range' l n).map (nodesAbove op ty x) := by
  induction n generalizing l with
  | zero => rfl
  | succ n ih =>
    rw [Nat.mul_succ, List.range'_succ, List.range'_succ, List.map_cons, List.map_cons, treeLevel_cons_cons,
      List.range'_succ, List.map_cons, ← ih]
    rfl

/-- A tree is the tree one level lower over the nodes above its leaves. -/
theorem treeOver_succ (x : Nat → Option Nat) (n l : Nat) :
    treeOver op ty x (n + 1) (2 * l) = treeOver op ty (nodesAbove op ty x) n l := by
  induction n generalizing l with
  | zero => rfl
  | succ n ih =>
    have hright : 2 * l + 2 ^ (n + 1) = 2 * (l + 2 ^ n) := by rw [pow_succ]; omega
    rw [treeOver, hright, ih, ih]
    rfl

theorem treeFold_eq_treeOver (n : Nat) (x : Nat → Option Nat) :
    (treeFold op ty n ((List.range' 0 (2 ^ n)).map x)).1 = (treeOver op ty x n 0).getD 0 := by
  induction n generalizing x with
  | zero => rfl
  | succ n ih =>
    have hlevel := treeLevel_range' op ty x 0 (2 ^ n)
    rw [← pow_succ'] at hlevel
    rw [treeFold]
    exact (congrArg (fun xs => (treeFold op ty n xs).1) hlevel).trans ((ih _).trans (by rw [← treeOver_succ]))

variable {op ty}

theorem fitsRed_treeNode {a b : Option Nat} (ha : ∀ v ∈ a, FitsRed ty v) (hb : ∀ v ∈ b, FitsRed ty v) :
    ∀ v ∈ treeNode op ty a b, FitsRed ty v := by
  rintro v hv
  cases a with
  | none =>
    cases b with
    | none => cases hv
    | some b => cases hv; exact fitsRed_canonRed (hb b rfl)
  | some a =>
    cases b with
    | none => cases hv; exact fitsRed_canonRed (ha a rfl)
    | some b => cases hv; exact fitsRed_combine (ha a rfl) (hb b rfl)

theorem fitsRed_treeOver {x : Nat → Option Nat} (hx : ∀ l, ∀ v ∈ x l, FitsRed ty v) (n l : Nat) :
    ∀ v ∈ treeOver op ty x n l, FitsRed ty v := by
  induction n generalizing l with
  | zero => exact hx l
  | succ n ih => exact fitsRed_treeNode (ih _) (ih _)

end

/-- The leaves of a VRED's tree: the operands of the lanes of P. -/
def redLeaves (o : Red) (g : Grp) (l : Nat) : Option Nat :=
  if l ∈ g.live then some (laneRed o.ty (threadOf g.band l) o.a.val) else none

theorem redLeaves_fits (o : Red) (g : Grp) (l : Nat) : ∀ v ∈ redLeaves o g l, FitsRed o.ty v := by
  intro v hv
  unfold redLeaves at hv
  split at hv
  · cases hv
    exact fitsRed_of_lt (laneRed_lt ..)
  · cases hv

/-- The leaves as the model lists them. -/
def redList (o : Red) (g : Grp) : List (Option Nat) :=
  (List.range 32).map fun l => if g.live.contains l then some (vBits (redWidth o.ty) (threadOf g.band l) o.a.val) else none

theorem redList_eq (o : Red) (g : Grp) : redList o g = (List.range' 0 (2 ^ 5)).map (redLeaves o g) := by
  have hleaf : (fun l => if g.live.contains l then some (vBits (redWidth o.ty) (threadOf g.band l) o.a.val) else none) =
      redLeaves o g := by
    funext l
    simp only [redLeaves, vBits_eq_laneRed, List.contains_iff_mem]
  rw [redList, hleaf, List.range_eq_range']
  rfl

theorem redValue_treeFold (o : Red) (g : Grp) : redValue o.ty (treeFold o.op o.ty 5 (redList o g)).1 = partialValue o g := by
  have hfits : FitsRed o.ty ((treeOver o.op o.ty (redLeaves o g) 5 0).getD 0) := by
    cases h : treeOver o.op o.ty (redLeaves o g) 5 0 with
    | none => exact fitsRed_zero _
    | some v => exact fitsRed_treeOver (redLeaves_fits o g) 5 0 v h
  rw [redList_eq, treeFold_eq_treeOver, redValue_eq_inValue hfits]
  rfl

/-! ### The partials of a round (R185) -/

/-- The states before and after differ in the counter of choices at most. -/
theorem tick_frame_trans {s t u : State} (h : t = { s with tick := t.tick }) (h' : u = { t with tick := u.tick }) :
    u = { s with tick := u.tick } := by
  rw [h', h]

theorem foldRound_frame (op : RedOp) (ty : RedTy) (n : Nat) (s : State) (acc : Nat) (ps : List Nat) :
    (foldRound op ty n s acc ps).2 = { s with tick := (foldRound op ty n s acc ps).2.tick } := by
  induction n generalizing s acc ps with
  | zero => rfl
  | succ n ih =>
    cases ps with
    | nil => rfl
    | cons p ps => exact tick_frame_trans (choose_frame s (p :: ps).length) (ih ..)

/-- The part of a list that a choice takes out, put before the rest, is the list in another order. -/
theorem choice_cons_eraseIdx_perm {ps : List Nat} {c : Nat} (h : c < ps.length) : (ps.getD c 0 :: ps.eraseIdx c).Perm ps := by
  rw [List.getD_eq_getElem _ _ h]
  exact List.getElem_cons_eraseIdx_perm h

/-- Partials joined one at a time, each taken by choice: a fold over them in some order. -/
theorem foldRound_value (op : RedOp) (ty : RedTy) (n : Nat) (s : State) (acc : Nat) (ps : List Nat) (hn : ps.length ≤ n) :
    ∃ ys : List Nat, ys.Perm ps ∧ (foldRound op ty n s acc ps).1.1 = ys.foldl (fun a b => (combine op ty a b).1) acc := by
  induction n generalizing s acc ps with
  | zero => exact ⟨[], by rw [List.length_eq_zero_iff.1 (Nat.le_zero.1 hn)], rfl⟩
  | succ n ih =>
    cases ps with
    | nil => exact ⟨[], .nil, rfl⟩
    | cons p ps =>
      have hc := choose_lt s (n := (p :: ps).length) (by simp)
      have hlen : ((p :: ps).eraseIdx (choose s (p :: ps).length).1).length ≤ n := by
        rw [List.length_eraseIdx_of_lt hc]
        omega
      obtain ⟨ys, hperm, hvalue⟩ := ih (choose s (p :: ps).length).2
        (combine op ty acc ((p :: ps).getD (choose s (p :: ps).length).1 0)).1 _ hlen
      exact ⟨(p :: ps).getD (choose s (p :: ps).length).1 0 :: ys, (hperm.cons _).trans (choice_cons_eraseIdx_perm hc), hvalue⟩

/-- All partials joined, the first by choice too: a fold over them in some order. -/
theorem foldRound_all (op : RedOp) (ty : RedTy) (s : State) {ps : List Nat} (hps : ps ≠ []) :
    ∃ y ys, (y :: ys).Perm ps ∧ (foldRound op ty ps.length (choose s ps.length).2 (ps.getD (choose s ps.length).1 0)
      (ps.eraseIdx (choose s ps.length).1)).1.1 = ys.foldl (fun a b => (combine op ty a b).1) y := by
  obtain ⟨ys, hperm, hvalue⟩ := foldRound_value op ty ps.length (choose s ps.length).2 (ps.getD (choose s ps.length).1 0) _
    (List.length_eraseIdx_le ps (choose s ps.length).1)
  exact ⟨_, ys, (hperm.cons _).trans (choice_cons_eraseIdx_perm (choose_lt s (List.length_pos_of_ne_nil hps))), hvalue⟩

theorem closeValue_frame (s : State) (r : Round) : (closeValue s r).2 = { s with tick := (closeValue s r).2.tick } :=
  tick_frame_trans (choose_frame ..) (foldRound_frame ..)

/-- A closed round's value: its partials joined in some order (log 82). -/
theorem closeValue_roundValue (s : State) {r : Round} (hr : r.parts ≠ []) :
    RoundValue r.op r.ty (r.parts.map (·.2)) (closeValue s r).1.1 := by
  have hparts : (r.parts.map (·.2)).map (fun p => p.toNat % 2 ^ redBits r.ty) =
      r.parts.map fun p => p.2.toNat % 2 ^ redWidth r.ty := by
    rw [List.map_map, redWidth_eq_redBits]
    rfl
  obtain ⟨y, ys, hperm, hvalue⟩ := foldRound_all r.op r.ty s (ps := r.parts.map fun p => p.2.toNat % 2 ^ redWidth r.ty)
    (by simpa using hr)
  have hfits : ∀ x ∈ y :: ys, FitsRed r.ty x := fun x hx => by
    obtain ⟨p, -, rfl⟩ := List.mem_map.1 (hperm.mem_iff.1 hx)
    exact fitsRed_of_lt (redWidth_eq_redBits r.ty ▸ Nat.mod_lt _ (by positivity))
  refine ⟨y, ys, hparts ▸ hperm, ?_⟩
  have hfold := fitsRed_foldl (op := r.op) (fun x hx => hfits x (List.mem_cons_of_mem y hx)) (hfits y List.mem_cons_self)
  rw [← redValue_eq_inValue hfold, ← hvalue]
  rfl

end Sys2Proof.Proofs
end

section
/-! SUPPORT. VRED (R184-R187): what it notes in its band, the round of its team or its cluster that it contributes to, and what a
contribution that leaves the round open does. -/

namespace Sys2Proof.Proofs

open Sys2Proof.Machine Sys2Proof.Claims

/-! ### How an instruction acts once for its group -/

section
variable {s : State} {g : Grp} (hg : grpOf s = some g)
include hg

theorem perGroup_at (f : Grp → GrpRes) : perGroup s f = perGroup s fun _ => f g := by
  simp only [perGroup, perGroupTo, hg]

/-- An instruction that acts once for its group, and leaves the group's threads with a false guard alone. -/
theorem perGroup_ok (hl : g.live ≠ []) {u : State} {b : Band} (hb : bandOf u g.key = some b)
    (hsize : b.threads.length = g.band.threads.length) (hout : ∀ l, l ∉ g.live → threadOf b l = threadOf g.band l) :
    ∃ t b', (perGroup s fun _ => .ok u) = .next t ∧ OnlyBand u t g.key ∧ bandOf t g.key = some b' ∧
      b' = { b with threads := b'.threads } ∧ Bystanders g b' ∧
      ∀ l, l < g.band.threads.length → l ∈ g.live → threadOf b' l = moved (threadOf b l) g.next := by
  have hlive : g.live.isEmpty = false := by simpa using hl
  simp only [perGroup, perGroupTo, hg, hlive, gotoBand, hb, Bool.false_eq_true, if_false]
  refine ⟨_, gotoLanes b g.lanes g.next, rfl, onlyBand_setBand .., bandOf_setBand .., rfl,
    ⟨?_, fun l hn => ?_, fun l hlt hin hn => ?_⟩, fun l hlt hin => ?_⟩
  · rw [gotoLanes, onLanes_length, hsize]
  · rw [gotoLanes, threadOf_onLanes_out _ _ hn, hout l fun hlive => hn (grpOf_live hg hlive)]
  · rw [gotoLanes, threadOf_onLanes_in _ _ hin (by omega), hout l hn]
    rfl
  · rw [gotoLanes, threadOf_onLanes_in _ _ (grpOf_live hg hin) (by omega)]
    rfl

/-- An instruction that holds its whole group at issue. -/
theorem groupHolds_of_perGroup {i : Instr} (hl : g.live ≠ []) {w : Wait} (hi : exec i s = perGroup s fun _ => .hold w) :
    GroupHolds i s g w := by
  have hlive : g.live.isEmpty = false := by simpa using hl
  rw [GroupHolds, hi]
  simp only [perGroup, perGroupTo, hg, hlive, waitLanes, grpOf_band hg, Bool.false_eq_true, if_false]
  refine ⟨_, _, rfl, onlyBand_setBand .., bandOf_setBand .., rfl, onLanes_length .., fun l hn => ?_, fun l hlt hin => ?_⟩
  · rw [threadOf_onLanes_out _ _ hn]
  · rw [threadOf_onLanes_in _ _ hin hlt]
    rfl

end

/-! ### What VRED notes in its band (R187) -/

/-- A VRED that its band has not completed: of these lanes, in this round or with this value. -/
def noted (o : Red) (g : Grp) (round : Option (Bool × Nat)) (value : Option DWord) : VredExec :=
  { round := round, lanes := g.live, value := value, flags := (treeFold o.op o.ty 5 (redList o g)).2 }

def bandWith (g : Grp) (x : VredExec) : Band := { g.band with vreds := g.band.vreds ++ [x] }

/-! ### Rounds (R185, R186) -/

/-- The entry of the round that a VRED of a group of `tm` contributes to: of the team, or of the core's cluster. -/
def RoundAt (o : Red) (s : State) (g : Grp) (tm : Team) (slot : Fin 16) (count : BitVec 16) (rn : Bool × Nat) : Prop :=
  (o.scope = .team slot count ∧ rn = (false, slot.val)) ∨
    (o.scope = .cluster slot count ∧ rn.1 = true ∧
      clusterEntry (Machine.clusterOf s (g.core / 8)).rounds (groupOwner tm) slot.val tm.ctx = some rn.2)

/-- The open rounds of a team, or of its core's cluster. -/
def roundsOf (s : State) (g : Grp) (tm : Team) (pooled : Bool) : AList Round :=
  if pooled then (Machine.clusterOf s (g.core / 8)).rounds else tm.rounds

def setRounds (s : State) (g : Grp) (tm : Team) (pooled : Bool) (rs : AList Round) : State :=
  if pooled then setCluster s (g.core / 8) { Machine.clusterOf s (g.core / 8) with rounds := rs }
  else setTeam s g.band.team { tm with rounds := rs }

/-- A round as its first contribution opens it, with no partial yet. -/
def openRound (o : Red) (tm : Team) (slot : Fin 16) (count : BitVec 16) : Round :=
  { op := o.op, ty := o.ty, count := count.toNat, parts := [], owner := groupOwner tm, slot := slot.val, ctx := tm.ctx }

/-- The round with the band's partial. -/
def joined (o : Red) (s : State) (g : Grp) (tm : Team) (slot : Fin 16) (count : BitVec 16) (rn : Bool × Nat) : Round :=
  (contribute (roundsOf s g tm rn.1) rn.2 (openRound o tm slot count) g.key (partialValue o g)).2

/-- The state after a contribution to a round, before the group goes on. -/
def contributed (o : Red) (s : State) (g : Grp) (tm : Team) (rn : Bool × Nat) (r : Round) : State :=
  let u := setBand s g.key (bandWith g (noted o g (some rn) none))
  let rs := aInsert rn.2 r (roundsOf s g tm rn.1)
  if r.parts.length < r.count then setRounds u g tm rn.1 rs
  else
    let c := closeValue (setRounds u g tm rn.1 (aErase rn.2 rs)) r
    deliverRound c.2 (r.parts.map (·.1)) rn c.1.1 c.1.2

section
variable {s : State} {g : Grp} {o : Red} {tm : Team} {slot : Fin 16} {count : BitVec 16} {rn : Bool × Nat}

theorem joined_of_none (h : aFind rn.2 (roundsOf s g tm rn.1) = none) :
    joined o s g tm slot count rn = { openRound o tm slot count with parts := [(g.key, partialValue o g)] } := by
  simp only [joined, contribute, h]

theorem joined_of_some {r : Round} (h : aFind rn.2 (roundsOf s g tm rn.1) = some r) :
    joined o s g tm slot count rn = { r with parts := r.parts ++ [(g.key, partialValue o g)] } := by
  simp only [joined, contribute, h]

/-! ### VRED as an instruction that acts once for its group -/

theorem vred_inRange (ha : o.a.val < g.band.n) {tick : Nat} : rangeFault tick g.band.n 1 [o.a.val] = none :=
  rangeFault_none (by simpa using ha)

variable (hg : grpOf s = some g) (ha : o.a.val < g.band.n)
include hg ha

/-- Of a band with eight incomplete VREDs the group waits (R187). -/
theorem execVred_of_full (h8 : 8 ≤ g.band.vreds.length) : execVred o s = perGroup s fun _ => .hold (.polled stReduction) := by
  rw [execVred, perGroup_at hg]
  simp only [vred_inRange ha, h8, if_true]

variable (h8 : g.band.vreds.length < 8)
include h8

theorem execVred_band (ho : o.scope = .band) : execVred o s = perGroup s fun _ =>
    .ok (setBand s g.key (bandWith g (noted o g none (some (partialValue o g))))) := by
  rw [execVred, perGroup_at hg]
  simp only [vred_inRange ha, if_neg (not_le.2 h8), ho, grpOf_band hg, ← redValue_treeFold]
  rfl

variable (htm : teamOf s g.band.team = some tm)
include htm

/-- With no entry for its round the group waits at issue (R186). -/
theorem execVred_of_no_entry (ho : o.scope = .cluster slot count)
    (hnone : clusterEntry (Machine.clusterOf s (g.core / 8)).rounds (groupOwner tm) slot.val tm.ctx = none) :
    execVred o s = perGroup s fun _ => .hold (.polled stReduction) := by
  have hnone' : clusterEntry (Machine.clusterOf s (clusterOfCore g.core)).rounds (groupOwner tm) slot.val tm.ctx = none := hnone
  rw [execVred, perGroup_at hg]
  simp only [vred_inRange ha, if_neg (not_le.2 h8), ho, htm, hnone']

theorem execVred_contributes (hat : RoundAt o s g tm slot count rn) :
    execVred o s = perGroup s fun _ => .ok (contributed o s g tm rn (joined o s g tm slot count rn)) := by
  obtain ⟨pooled, e⟩ := rn
  rw [execVred, perGroup_at hg]
  rcases hat with ⟨ho, hrn⟩ | ⟨ho, rfl, hent⟩
  · obtain ⟨rfl, rfl⟩ := Prod.mk.inj hrn
    simp only [vred_inRange ha, if_neg (not_le.2 h8), ho, htm, grpOf_band hg, contributed,
      joined, ← redValue_treeFold, apply_ite GrpRes.ok]
    rfl
  · have hent' : clusterEntry (Machine.clusterOf s (clusterOfCore g.core)).rounds (groupOwner tm) slot.val tm.ctx = some e := hent
    simp only [vred_inRange ha, if_neg (not_le.2 h8), ho, htm, hent', grpOf_band hg, contributed,
      joined, ← redValue_treeFold, apply_ite GrpRes.ok]
    rfl

end

section
variable {s : State} {g : Grp} {o : Red} {tm : Team} {slot : Fin 16} {count : BitVec 16} {rn : Bool × Nat}

/-! ### A contribution that leaves its round open (R185) -/

theorem bandOf_setRounds (u : State) (pooled : Bool) (rs : AList Round) (k : Nat) :
    bandOf (setRounds u g tm pooled rs) k = bandOf u k := by
  cases pooled <;> rfl

variable (hg : grpOf s = some g) (hl : g.live ≠ []) (ha : o.a.val < g.band.n) (h8 : g.band.vreds.length < 8)
include hg hl ha h8

/-- VRED at band scope has its value at once (R187). -/
theorem vred_band (ho : o.scope = .band) : ∃ t b' x, exec (.vred o) s = .next t ∧ OnlyBand s t g.key ∧
    bandOf t g.key = some b' ∧ b' = { g.band with threads := b'.threads, vreds := g.band.vreds ++ [x] } ∧ Bystanders g b' ∧
    x.round = none ∧ x.lanes = g.live ∧ x.value = some (partialValue o g) ∧
    ∀ l, l < g.band.threads.length → l ∈ g.live → threadOf b' l = moved (threadOf g.band l) g.next := by
  obtain ⟨t, b', hnext, honly, hband, hb', hby, hlive⟩ := perGroup_ok hg hl
    (bandOf_setBand s g.key (bandWith g (noted o g none (some (partialValue o g))))) rfl fun _ _ => rfl
  exact ⟨t, b', noted o g none (some (partialValue o g)), (execVred_band hg ha h8 ho).trans hnext,
    onlyBand_trans (onlyBand_setBand ..) honly, hband, hb', hby, rfl, rfl, rfl, hlive⟩

variable (htm : teamOf s g.band.team = some tm)
include htm

/-- A contribution that does not fill its round leaves the round with the band's partial, and no value yet. -/
theorem vred_joins (hat : RoundAt o s g tm slot count rn)
    (hopen : (joined o s g tm slot count rn).parts.length < (joined o s g tm slot count rn).count) :
    ∃ t b' x, exec (.vred o) s = .next t ∧
      OnlyBand (setRounds s g tm rn.1 (aInsert rn.2 (joined o s g tm slot count rn) (roundsOf s g tm rn.1))) t g.key ∧
      bandOf t g.key = some b' ∧ b' = { g.band with threads := b'.threads, vreds := g.band.vreds ++ [x] } ∧ Bystanders g b' ∧
      x.round = some rn ∧ x.lanes = g.live ∧ x.value = none ∧
      ∀ l, l < g.band.threads.length → l ∈ g.live → threadOf b' l = moved (threadOf g.band l) g.next := by
  have hleft : contributed o s g tm rn (joined o s g tm slot count rn) = setBand
      (setRounds s g tm rn.1 (aInsert rn.2 (joined o s g tm slot count rn) (roundsOf s g tm rn.1))) g.key
      (bandWith g (noted o g (some rn) none)) := by
    rw [contributed, if_pos hopen]
    cases rn.1 <;> rfl
  obtain ⟨t, b', hnext, honly, hband, hb', hby, hlive⟩ := perGroup_ok hg hl (b := bandWith g (noted o g (some rn) none))
    ((congrArg (bandOf · g.key) hleft).trans (bandOf_setBand ..)) rfl fun _ _ => rfl
  exact ⟨t, b', noted o g (some rn) none, (execVred_contributes hg ha h8 htm hat).trans hnext,
    onlyBand_trans (onlyBand_setBand ..) (hleft ▸ honly), hband, hb', hby, rfl, rfl, rfl, hlive⟩

end

/-- A team's rounds are its own: beside the band only its record has changed. -/
theorem onlyBand_team {s t : State} {g : Grp} {tm : Team} {rs : AList Round} (h : OnlyBand (setRounds s g tm false rs) t g.key) :
    t = { s with bands := t.bands, teams := t.teams } ∧ (∀ j, j ≠ g.band.team → teamOf t j = teamOf s j) ∧
      teamOf t g.band.team = some { tm with rounds := rs } := by
  have hteams : t.teams = (setTeam s g.band.team { tm with rounds := rs }).teams := by
    rw [h.rest]
    rfl
  refine ⟨?_, fun j hj => ?_, ?_⟩
  · rw [hteams]
    exact h.rest
  · rw [teamOf, hteams]
    exact teamOf_setTeam_ne s hj _
  · rw [teamOf, hteams]
    exact teamOf_setTeam ..

/-- The same for the pool of a cluster. -/
theorem onlyBand_cluster {s t : State} {g : Grp} {tm : Team} {rs : AList Round} (h : OnlyBand (setRounds s g tm true rs) t g.key) :
    t = { s with bands := t.bands, clusters := t.clusters } ∧
      (∀ j, j ≠ g.core / 8 → Machine.clusterOf t j = Machine.clusterOf s j) ∧
      Machine.clusterOf t (g.core / 8) = { Machine.clusterOf s (g.core / 8) with rounds := rs } := by
  have hclusters : t.clusters = (setCluster s (g.core / 8) { Machine.clusterOf s (g.core / 8) with rounds := rs }).clusters := by
    rw [h.rest]
    rfl
  refine ⟨?_, fun j hj => ?_, ?_⟩
  · rw [hclusters]
    exact h.rest
  · rw [Machine.clusterOf, hclusters]
    exact clusterOf_setCluster_ne s hj _
  · rw [Machine.clusterOf, hclusters]
    exact clusterOf_setCluster ..

theorem reduceInBand : ReduceInBand := fun _ _ _ hg hl ha h8 ho => vred_band hg hl ha h8 ho

theorem reduceInTeam : ReduceInTeam := by
  intro s g o tm slot count hg hl ha h8 ho htm parts full hopen
  have hat : RoundAt o s g tm slot count (false, slot.val) := Or.inl ⟨ho, rfl⟩
  have hjoined : (joined o s g tm slot count (false, slot.val)).parts = parts ++ [(g.key, partialValue o g)] ∧
      (joined o s g tm slot count (false, slot.val)).count = full := by
    cases hr : aFind slot.val tm.rounds with
    | none => simp [joined_of_none (rn := (false, slot.val)) hr, openRound, parts, full, hr]
    | some r => simp [joined_of_some (rn := (false, slot.val)) hr, parts, full, hr]
  obtain ⟨hparts, hcount⟩ := hjoined
  obtain ⟨t, b', x, hnext, honly, hband, hb', hby, hx⟩ := vred_joins hg hl ha h8 htm hat (by
    rw [hparts, hcount, List.length_append]
    exact hopen)
  obtain ⟨hrest, hothers, hteam⟩ := onlyBand_team honly
  exact ⟨t, b', x, _, hnext, hrest, honly.bands, hothers, hteam, hparts, hcount, hband, hb', hby, hx⟩

/-! ### Entries of the pool of a cluster (R186) -/

section
variable {rs : AList Round} {owner : Nat × Nat} {slot ctx : Nat}

/-- A group's open round has the entry it stands in. -/
theorem clusterEntry_of_open {e : Nat} {r : Round} {l1 l2 : AList Round} (hrs : rs = l1 ++ (e, r) :: l2)
    (hl1 : ∀ x ∈ l1, ¬ (x.2.owner = owner ∧ x.2.slot = slot ∧ x.2.ctx = ctx))
    (hr : r.owner = owner ∧ r.slot = slot ∧ r.ctx = ctx) :
    clusterEntry rs owner slot ctx = some e := by
  have hfind : rs.find? (fun r => r.2.owner == owner && r.2.slot == slot && r.2.ctx == ctx) = some (e, r) := by
    rw [hrs, List.find?_append, List.find?_eq_none.2 (by simpa [and_assoc] using hl1), List.find?_cons_of_pos (by simp [hr])]
    rfl
  rw [clusterEntry, hfind]

/-- A group with no open round of the slot takes the lowest free entry. -/
theorem clusterEntry_of_closed (hrs : ∀ x ∈ rs, ¬ (x.2.owner = owner ∧ x.2.slot = slot ∧ x.2.ctx = ctx)) :
    clusterEntry rs owner slot ctx = (List.range 64).find? fun n => (aFind n rs).isNone := by
  rw [clusterEntry, List.find?_eq_none.2 (by simpa [and_assoc] using hrs)]

theorem aFind_append {β : Type} {l1 l2 : AList β} {e : Nat} {v : β} (h : ∀ x ∈ l1, x.1 ≠ e) :
    aFind e (l1 ++ (e, v) :: l2) = some v := by
  induction l1 with
  | nil => exact if_pos rfl
  | cons x l1 ih =>
    rw [List.cons_append, aFind_cons, if_neg (h x List.mem_cons_self)]
    exact ih fun y hy => h y (List.mem_cons_of_mem x hy)

end

theorem reduceInCluster : ReduceInCluster := by
  intro s g o tm slot count hg hl ha h8 ho htm cl owner same free
  refine ⟨fun e parts full hentry hopen => ?joins, fun hclosed hfull => ?waits⟩
  case waits =>
    have hnone : clusterEntry cl.rounds (groupOwner tm) slot.val tm.ctx = none :=
      (clusterEntry_of_closed hclosed).trans (List.find?_eq_none.2 fun e he => by simpa using hfull e (List.mem_range.1 he))
    exact ⟨_, groupHolds_of_perGroup hg hl (execVred_of_no_entry hg ha h8 htm ho hnone)⟩
  case joins =>
    have hentered : RoundAt o s g tm slot count (true, e) ∧
        (joined o s g tm slot count (true, e)).parts = parts ++ [(g.key, partialValue o g)] ∧
        (joined o s g tm slot count (true, e)).count = full ∧ same (joined o s g tm slot count (true, e)) := by
      rcases hentry with ⟨⟨he, hnone, hclosed, hlow⟩, rfl, rfl⟩ | ⟨r, l1, l2, hrs, hl1, hr, rfl, rfl⟩
      · rw [joined_of_none (rn := (true, e)) hnone]
        have hlowest : (List.range 64).find? (fun n => (aFind n cl.rounds).isNone) = some e :=
          List.find?_range_eq_some.2 ⟨by simpa using hnone, by simpa using he,
            fun j hj => by simpa [Option.isSome_iff_ne_none] using hlow j hj⟩
        exact ⟨Or.inr ⟨ho, rfl, (clusterEntry_of_closed hclosed).trans hlowest⟩, rfl, rfl, rfl, rfl, rfl⟩
      · have hfind : aFind e cl.rounds = some r := hrs ▸ aFind_append fun x hx => (hl1 x hx).1
        rw [joined_of_some (rn := (true, e)) hfind]
        exact ⟨Or.inr ⟨ho, rfl, clusterEntry_of_open hrs (fun x hx => (hl1 x hx).2) hr⟩, rfl, rfl, hr⟩
    obtain ⟨hat, hparts, hcount, hsame⟩ := hentered
    obtain ⟨t, b', x, hnext, honly, hband, hb', hby, hx⟩ := vred_joins hg hl ha h8 htm hat (by
      rw [hparts, hcount, List.length_append]
      exact hopen)
    obtain ⟨hrest, hothers, hcluster⟩ := onlyBand_cluster honly
    exact ⟨t, b', x, _, hnext, hrest, honly.bands, hothers, hcluster, hparts, hcount, hsame, hband, hb', hby, hx⟩

end Sys2Proof.Proofs
end

section
/-! SUPPORT. The contribution that closes a round (R185): the round is gone, and its value is delivered to the executions that
contributed. -/

namespace Sys2Proof.Proofs

open Sys2Proof.Machine Sys2Proof.Claims

/-! ### Delivery of a round's value -/

/-- An execution takes a round's value once. -/
theorem valued_valued (rn : Bool × Nat) (v : DWord) (fl : FlagBits) (xs : List VredExec) :
    valued rn v fl (valued rn v fl xs) = valued rn v fl xs := by
  rw [valued, valued, List.map_map]
  refine List.map_congr_left fun x _ => ?_
  by_cases h : x.round = some rn ∧ x.value = none <;> simp [h]

theorem deliverRound_frame (s : State) (bs : List Nat) (rn : Bool × Nat) (v : DWord) (fl : Flags) :
    deliverRound s bs rn v fl = { s with bands := (deliverRound s bs rn v fl).bands } := by
  induction bs generalizing s with
  | nil => rfl
  | cons k bs ih =>
    rw [deliverRound, List.foldl_cons]
    cases hb : bandOf s k with
    | none => exact ih s
    | some b => exact ih (setBand s k _)

/-- The bands of a delivery have the value in their executions of the round; any other band is as it was. -/
theorem bandOf_deliverRound (s : State) (bs : List Nat) (rn : Bool × Nat) (v : DWord) (fl : Flags) (k : Nat) :
    bandOf (deliverRound s bs rn v fl) k =
      (bandOf s k).map fun b => if k ∈ bs then { b with vreds := valued rn v fl b.vreds } else b := by
  induction bs generalizing s with
  | nil => simp [deliverRound]
  | cons j bs ih =>
    rw [deliverRound, List.foldl_cons]
    cases hb : bandOf s j with
    | none =>
      refine (ih s).trans ?_
      by_cases hk : k = j
      · simp [hk, hb]
      · simp [hk]
    | some b =>
      refine (ih (setBand s j { b with vreds := valued rn v fl b.vreds })).trans ?_
      by_cases hk : k = j
      · simp [hk, hb, valued_valued]
      · simp [hk, bandOf_setBand_ne s hk]

/-! ### The close -/

theorem aErase_aInsert {β : Type} (k : Nat) (v : β) (m : AList β) : aErase k (aInsert k v m) = aErase k m := by
  induction m with
  | nil => simp [aInsert, aErase]
  | cons e m ih =>
    obtain ⟨j, w⟩ := e
    simp only [aInsert]
    split
    · simp [aErase]
    · split
      next h => simp [aErase, h]
      next h => simp [aErase, h, ih]

section
variable {s : State} {g : Grp} {o : Red} {tm : Team} {slot : Fin 16} {count : BitVec 16} {rn : Bool × Nat}

/-- The round that a contribution closes, as the statement names it, with the band's partial. -/
theorem joined_of_closing {r : Round} (h : aFind rn.2 (roundsOf s g tm rn.1) = some r ∨
      (aFind rn.2 (roundsOf s g tm rn.1) = none ∧ r.parts = [] ∧ r.op = o.op ∧ r.ty = o.ty ∧ r.count = count.toNat)) :
    (joined o s g tm slot count rn).parts = r.parts ++ [(g.key, partialValue o g)] ∧
      (joined o s g tm slot count rn).count = r.count ∧ (joined o s g tm slot count rn).op = r.op ∧
      (joined o s g tm slot count rn).ty = r.ty := by
  rcases h with h | ⟨h, hparts, hop, hty, hcount⟩
  · rw [joined_of_some h]
    exact ⟨rfl, rfl, rfl, rfl⟩
  · rw [joined_of_none h, hparts, hop, hty, hcount]
    exact ⟨rfl, rfl, rfl, rfl⟩

/-- The state in which a round is closed, its record gone, and no value delivered yet. -/
def closing (o : Red) (s : State) (g : Grp) (tm : Team) (rn : Bool × Nat) : State :=
  setRounds (setBand s g.key (bandWith g (noted o g (some rn) none))) g tm rn.1 (aErase rn.2 (roundsOf s g tm rn.1))

theorem contributed_of_full {r : Round} (h : ¬ r.parts.length < r.count) : contributed o s g tm rn r =
    deliverRound (closeValue (closing o s g tm rn) r).2 (r.parts.map (·.1)) rn (closeValue (closing o s g tm rn) r).1.1
      (closeValue (closing o s g tm rn) r).1.2 := by
  rw [contributed, if_neg h, aErase_aInsert]
  rfl

variable (hg : grpOf s = some g) (hl : g.live ≠ []) (ha : o.a.val < g.band.n) (h8 : g.band.vreds.length < 8)
  (htm : teamOf s g.band.team = some tm)
include hg hl ha h8 htm

theorem vred_closes (hat : RoundAt o s g tm slot count rn) {r : Round} (hr : r = joined o s g tm slot count rn)
    (hparts : g.key ∈ r.parts.map (·.1)) (hfull : ¬ r.parts.length < r.count) :
    ∃ t b' x v fl, exec (.vred o) s = .next t ∧
      t = { closing o s g tm rn with bands := t.bands, tick := t.tick } ∧ RoundValue r.op r.ty (r.parts.map (·.2)) v ∧
      bandOf t g.key = some b' ∧ b' = { g.band with threads := b'.threads, vreds := valued rn v fl (g.band.vreds ++ [x]) } ∧
      x.round = some rn ∧ x.lanes = g.live ∧ x.value = none ∧ Bystanders g b' ∧
      (∀ l, l < g.band.threads.length → l ∈ g.live → threadOf b' l = moved (threadOf g.band l) g.next) ∧
      ∀ k, k ≠ g.key → bandOf t k = (bandOf s k).map fun b =>
        if k ∈ r.parts.map (·.1) then { b with vreds := valued rn v fl b.vreds } else b := by
  have hvalue := closeValue_roundValue (closing o s g tm rn) (r := r) (by rintro hnil; simp [hnil] at hparts)
  have hframe := closeValue_frame (closing o s g tm rn) r
  have hexec := execVred_contributes hg ha h8 htm hat
  rw [← hr, contributed_of_full hfull] at hexec
  generalize (closeValue (closing o s g tm rn) r).1.1 = v at hexec hvalue
  generalize (closeValue (closing o s g tm rn) r).1.2 = fl at hexec
  generalize (closeValue (closing o s g tm rn) r).2 = u at hexec hframe
  have hbands : ∀ k, bandOf u k = bandOf (setBand s g.key (bandWith g (noted o g (some rn) none))) k := fun k => by
    rw [hframe]
    exact bandOf_setRounds ..
  have hown : bandOf (deliverRound u (r.parts.map (·.1)) rn v fl) g.key =
      some { g.band with vreds := valued rn v fl (g.band.vreds ++ [noted o g (some rn) none]) } := by
    rw [bandOf_deliverRound, hbands, bandOf_setBand, Option.map_some, if_pos hparts]
    rfl
  obtain ⟨t, b', hnext, honly, hband, hb', hby, hlive⟩ := perGroup_ok hg hl hown rfl fun _ _ => rfl
  refine ⟨t, b', noted o g (some rn) none, v, fl, hexec.trans hnext, ?_, hvalue, hband, hb', rfl, rfl, rfl, hby, hlive,
    fun k hk => ?_⟩
  · rw [honly.rest, deliverRound_frame, hframe]
  · rw [honly.bands k hk, bandOf_deliverRound, hbands, bandOf_setBand_ne s hk]

end

/-- The closed round's record is gone from its team, or from its cluster. -/
theorem closing_rounds (o : Red) (s : State) (g : Grp) (tm : Team) (rn : Bool × Nat) {t : State}
    (ht : t = { closing o s g tm rn with bands := t.bands, tick := t.tick }) :
    t = { s with bands := t.bands, teams := t.teams, clusters := t.clusters, tick := t.tick } ∧
      (rn.1 = false → t.clusters = s.clusters ∧ teamOf t g.band.team = some { tm with rounds := aErase rn.2 tm.rounds }) ∧
      (rn.1 = true → t.teams = s.teams ∧ Machine.clusterOf t (g.core / 8) =
        { Machine.clusterOf s (g.core / 8) with rounds := aErase rn.2 (Machine.clusterOf s (g.core / 8)).rounds }) := by
  have hteams : t.teams = (closing o s g tm rn).teams := by rw [ht]
  have hclusters : t.clusters = (closing o s g tm rn).clusters := by rw [ht]
  obtain ⟨pooled, e⟩ := rn
  cases pooled with
  | false =>
    refine ⟨?_, fun _ => ⟨hclusters, ?_⟩, nofun⟩
    · rw [hteams, hclusters]
      exact ht
    · rw [teamOf, hteams]
      exact aFind_aInsert_self ..
  | true =>
    refine ⟨?_, nofun, fun _ => ⟨hteams, ?_⟩⟩
    · rw [hteams, hclusters]
      exact ht
    · rw [Machine.clusterOf, hclusters]
      exact aGet_aInsert_self ..

theorem reductionCloses : ReductionCloses := by
  refine ⟨?closes, fun s g o hg hl ha h8 => ?waits⟩
  case waits => exact ⟨_, groupHolds_of_perGroup hg hl (execVred_of_full hg ha h8)⟩
  case closes =>
    intro s g o tm r rn slot count hg hl ha h8 htm cl rs hat hr hfull
    obtain ⟨hparts, hcount, hop, hty⟩ := joined_of_closing (slot := slot) hr
    obtain ⟨t, b', x, v, fl, hnext, hframe, hvalue, hband, hb', hround, hlanes, hnone, hby, hlive, hothers⟩ :=
      vred_closes hg hl ha h8 htm hat rfl (by simp [hparts]) (by
        rw [hparts, hcount, List.length_append]
        exact not_lt.2 hfull)
    rw [hparts, hop, hty] at hvalue
    obtain ⟨hrest, hteam, hpool⟩ := closing_rounds o s g tm rn hframe
    refine ⟨t, b', x, v, fl, hnext, hrest, hvalue, hteam, hpool, hband, hb', hround, hlanes, hnone, hby, hlive, fun k hk => ?_⟩
    have hmem : k ∈ (joined o s g tm slot count rn).parts.map (·.1) ↔ k ∈ r.parts.map (·.1) := by simp [hparts, hk]
    rw [hothers k hk]
    simp only [hmem]
    cases bandOf s k <;> rfl

/-- Settles O17: VRED at each scope by what it notes in its band and its round; the close by the delivery of the round's value. -/
theorem reductions : Obligations.Reductions := ⟨reduceInBand, reduceInTeam, reduceInCluster, reductionCloses⟩

end Sys2Proof.Proofs
end

section
/-! SUPPORT. The completion of VRED (R187), and SRDW (R190): what each leaves in the band, and when SRDW waits. -/

namespace Sys2Proof.Proofs

open Sys2Proof.Machine Sys2Proof.Claims

/-! ### The completion of VRED (R187) -/

theorem threadOf_map (b : Band) (f : Thread → Thread) {l : Nat} (h : l < b.threads.length) :
    threadOf { b with threads := b.threads.map f } l = f (threadOf b l) := by
  simp [threadOf, h]

/-- A thread that waits in SRDW for the number `seq` has the value `v`. -/
def captures (seq : BitVec 16) (v : DWord) (t : Thread) : Thread := if t.wait = .rdr seq then { t with wait := .captured v } else t

theorem captures_wait (seq : BitVec 16) (v : DWord) (t : Thread) :
    (captures seq v t).wait = if t.wait = .rdr seq then .captured v else t.wait := by
  rw [captures]
  split <;> rfl

theorem captures_frame (seq : BitVec 16) (v : DWord) (t : Thread) :
    captures seq v t = { t with wait := (captures seq v t).wait } := by
  rw [captures]
  split <;> rfl

/-- The band after its oldest VRED has completed. -/
def completed (b : Band) (x : VredExec) (rest : List VredExec) (v : DWord) : Band :=
  { b with
    threads := (onLanes b x.lanes fun _ t => raiseFlags t x.flags).threads.map (captures (b.rdrSeq + 1) v)
    vreds := rest, rdrValue := v, rdrSeq := b.rdrSeq + 1 }

theorem execVredCompletion_eq {s : State} {core slot : Nat} {b : Band} {x : VredExec} {rest : List VredExec} {v : DWord}
    (hcur : s.cur = .event (.vredCompletion core slot)) (hb : bandOf s (core * 64 + slot) = some b) (hx : b.vreds = x :: rest)
    (hv : x.value = some v) : execVredCompletion s = .next (setBand s (core * 64 + slot) (completed b x rest v)) := by
  have hb' : bandOf s (bandKey core slot) = some b := hb
  simp only [execVredCompletion, hcur, hb', hx, hv]
  rfl

theorem threadOf_completed (b : Band) (x : VredExec) (rest : List VredExec) (v : DWord) {l : Nat} (h : l < b.threads.length) :
    threadOf (completed b x rest v) l =
      captures (b.rdrSeq + 1) v (if l ∈ x.lanes then raiseFlags (threadOf b l) x.flags else threadOf b l) := by
  refine (threadOf_map (onLanes b x.lanes fun _ t => raiseFlags t x.flags) _ (by simpa using h)).trans (congrArg _ ?_)
  split
  next hin => exact threadOf_onLanes_in _ _ hin h
  next hout => exact threadOf_onLanes_out _ _ hout

theorem reductionCompletes : ReductionCompletes := by
  intro s core slot b x rest v hcur hb hx hv
  refine ⟨_, completed b x rest v, execVredCompletion_eq hcur hb hx hv, onlyBand_setBand .., bandOf_setBand .., rfl,
    fun l hl => ?_⟩
  rw [threadOf_completed b x rest v hl, captures_wait, captures_frame]
  split <;> exact ⟨rfl, rfl, rfl, rfl⟩

/-! ### SRDW (R190) -/

/-- The band with the value of SRDW, and the predicate where it names one, in the lanes of P. -/
def readDone (o : Rdw) (g : Grp) (pc : Option (Fin 16)) (v : DWord) (ok : Bool) : Band :=
  match pc with
  | some p => onLanes (wrS g.band o.d.val v) g.live fun _ t => wrP t p.val ok
  | none => wrS g.band o.d.val v

section
variable {s : State} {g : Grp} (hg : grpOf s = some g) (o : Rdw)
include hg

theorem execSrdw_seq (ho : o.what = .seq) : execSrdw o s = scalarOp s o.d.val fun _ => g.band.rdrSeq.setWidth 64 := by
  obtain ⟨guard, hcur⟩ := grpOf_cur hg
  simp only [execSrdw, scalarOp, hcur, perGroup, perGroupTo, hg, ho]

variable {n : RegImm} {pc : Option (Fin 16)} (ho : o.what = .wait n pc)
include ho

/-- After a wait SRDW gives the captured value. -/
theorem execSrdw_captured {v : DWord} (hw : (threadOf g.band (g.live.headD 0)).wait = .captured v) :
    execSrdw o s = perGroup s fun _ => .ok (setBand s g.key (readDone o g pc v true)) := by
  rw [execSrdw, perGroup_at hg]
  simp only [ho, hw]
  rfl

/-- Before a wait the number decides: reached, pending or neither. -/
theorem execSrdw_fresh (hw : ∀ v, (threadOf g.band (g.live.headD 0)).wait ≠ .captured v) :
    execSrdw o s = perGroup s fun _ =>
      if rdwNumber g.band n - g.band.rdrSeq = 0 then .ok (setBand s g.key (readDone o g pc g.band.rdrValue true))
      else if (rdwNumber g.band n - g.band.rdrSeq).toNat ≤ g.band.vreds.length then .hold (.rdr (rdwNumber g.band n))
      else .ok (setBand s g.key (readDone o g pc g.band.rdrValue false)) := by
  rw [execSrdw, perGroup_at hg]
  simp only [ho]
  generalize (threadOf g.band (g.live.headD 0)).wait = w at hw
  cases w with
  | captured v => exact absurd rfl (hw v)
  | _ => rfl

end

theorem readDone_frame (o : Rdw) (g : Grp) (pc : Option (Fin 16)) (v : DWord) (ok : Bool) :
    readDone o g pc v ok = { g.band with
      threads := (readDone o g pc v ok).threads, sregs := (wrS g.band o.d.val v).sregs, sEcc := (wrS g.band o.d.val v).sEcc } := by
  cases pc with
  | none => rw [readDone, wrS_frame]
  | some p => rw [readDone, onLanes_frame, wrS_frame]

theorem readDone_length (o : Rdw) (g : Grp) (pc : Option (Fin 16)) (v : DWord) (ok : Bool) :
    (readDone o g pc v ok).threads.length = g.band.threads.length := by
  cases pc with
  | none => rw [readDone, wrS_threads]
  | some p => rw [readDone, onLanes_length, wrS_threads]

theorem threadOf_wrS (b : Band) (d : Nat) (v : DWord) (l : Nat) : threadOf (wrS b d v) l = threadOf b l := by
  rw [threadOf, wrS_threads]
  rfl

theorem threadOf_readDone_out (o : Rdw) (g : Grp) (pc : Option (Fin 16)) (v : DWord) (ok : Bool) {l : Nat} (h : l ∉ g.live) :
    threadOf (readDone o g pc v ok) l = threadOf g.band l := by
  cases pc with
  | none => exact threadOf_wrS ..
  | some p => exact (threadOf_onLanes_out _ _ h).trans (threadOf_wrS ..)

theorem threadOf_readDone_some (o : Rdw) (g : Grp) (p : Fin 16) (v : DWord) (ok : Bool) {l : Nat} (h : l ∈ g.live)
    (hlt : l < g.band.threads.length) : threadOf (readDone o g (some p) v ok) l = wrP (threadOf g.band l) p.val ok := by
  refine (threadOf_onLanes_in _ _ h (by rwa [wrS_threads])).trans ?_
  rw [threadOf_wrS]

/-- SRDW that does not wait: its register, its predicate in each thread of P, and nothing else. -/
theorem srdw_reads {s : State} {g : Grp} (hg : grpOf s = some g) (hl : g.live ≠ []) {o : Rdw} {pc : Option (Fin 16)} {v : DWord}
    {ok : Bool} (hi : execSrdw o s = perGroup s fun _ => .ok (setBand s g.key (readDone o g pc v ok))) :
    ∃ t b', exec (.srdw o) s = .next t ∧ OnlyBand s t g.key ∧ bandOf t g.key = some b' ∧
      b' = { g.band with threads := b'.threads, sregs := b'.sregs, sEcc := b'.sEcc } ∧ Bystanders g b' ∧
      PutsS o.d.val v g.band b' ∧
      ∀ l, l < g.band.threads.length → l ∈ g.live →
        (pc = none → threadOf b' l = moved (threadOf g.band l) g.next) ∧
        ∀ p : Fin 16, pc = some p → PutsP g.next p.val ok (threadOf g.band l) (threadOf b' l) := by
  obtain ⟨t, b', hnext, honly, hband, hb', hby, hlive⟩ := perGroup_ok hg hl (bandOf_setBand s g.key (readDone o g pc v ok))
    (readDone_length ..) fun l h => threadOf_readDone_out o g pc v ok h
  have hreg : ∀ r, rdS b' r = rdS (wrS g.band o.d.val v) r := fun r => by
    rw [hb', readDone_frame, wrS_frame]
    rfl
  refine ⟨t, b', hi.trans hnext, onlyBand_trans (onlyBand_setBand ..) honly, hband, ?_, hby, ⟨?_, fun r hr => ?_⟩,
    fun l hlt hin => ⟨?_, ?_⟩⟩
  · rw [hb', readDone_frame]
  · rw [hreg, rdS_wrS]
  · rw [hreg, rdS_wrS_ne hr]
  · rintro rfl
    rw [hlive l hlt hin]
    exact congrArg (moved · g.next) (threadOf_wrS ..)
  · rintro p rfl
    rw [hlive l hlt hin, threadOf_readDone_some o g p v ok hin hlt]
    exact putsP_wrP ..

theorem reductionRead : ReductionRead := by
  intro s g o hg hl
  refine ⟨fun ho => onceScalar_of_exec (f := fun _ => _) hg hl (execSrdw_seq hg o ho), fun n pc ho hfresh => ?fresh,
    fun n pc v ho hw => ?captured⟩
  case captured =>
    obtain ⟨t, b', hnext, honly, hband, -, -, hput, hlive⟩ := srdw_reads hg hl (execSrdw_captured hg o ho hw)
    exact ⟨t, b', hnext, honly, hband, hput, fun l hlt hin p hp => (hlive l hlt hin).2 p hp⟩
  case fresh =>
    intro number
    have hnumber : rdwNumber g.band n = number := by cases n <;> rfl
    have hhead : g.live.headD 0 ∈ g.live := by
      obtain ⟨l, ls, h⟩ := List.exists_cons_of_ne_nil hl
      simp [h]
    have hexec := execSrdw_fresh hg o ho (hfresh _ hhead)
    rw [hnumber] at hexec
    have hzero : number - g.band.rdrSeq = 0 ↔ number = g.band.rdrSeq := sub_eq_zero
    refine ⟨fun hdone => ?_, fun hne hpending => ?_⟩
    · by_cases heq : number = g.band.rdrSeq
      · rw [if_pos (hzero.2 heq)] at hexec
        rw [decide_eq_true heq]
        exact srdw_reads hg hl hexec
      · rw [if_neg (mt hzero.1 heq), if_neg (not_le.2 (hdone.resolve_left heq))] at hexec
        rw [decide_eq_false heq]
        exact srdw_reads hg hl hexec
    · rw [if_neg (mt hzero.1 hne), if_pos hpending] at hexec
      exact groupHolds_of_perGroup hg hl hexec

/-- Settles O18: the completion by what it makes of the band; SRDW by the number it names and whether it has waited. -/
theorem reductionResults : Obligations.ReductionResults := ⟨reductionCompletes, reductionRead⟩

end Sys2Proof.Proofs
end

section
/-! SUPPORT. NOP and YIELD (R196, R213), and jumps, calls and returns (R198, R200, R201): the address that a target is, and one
lemma for a jump of threads and one for a jump of a stream. -/

namespace Sys2Proof.Proofs

open Sys2Proof.Machine Sys2Proof.Claims

/-! ### Targets (R198) -/

/-- An offset added in the integers and taken modulo 2^64 is the offset added as a 64-bit word. -/
theorem wrapNat_add_signed (a : DWord) (off : Int) : wrapNat 64 (a.toNat + off) = (a + BitVec.ofInt 64 off).toNat := by
  rw [← Nat.mod_eq_of_lt (wrapNat_lt 64 (a.toNat + off)), ← BitVec.toNat_ofNat, ofNat_wrapNat, BitVec.ofInt_add,
    BitVec.ofInt_natCast, BitVec.ofNat_toNat, BitVec.setWidth_eq]

theorem branchTo_eq_targetOf (addr : DWord) (off : Word) : branchTo addr off = (targetOf addr off).toNat := by
  rw [branchTo, readInt_word, if_pos rfl, wrapNat_add_signed]
  rfl

theorem ofNat_branchTo (addr : DWord) (off : Word) : BitVec.ofNat 64 (branchTo addr off) = targetOf addr off := by
  rw [branchTo_eq_targetOf, BitVec.ofNat_toNat, BitVec.setWidth_eq]

theorem baseAddr_eq_targetOf (base : DWord) (off : Word) : baseAddr base off = (targetOf base off).toNat :=
  branchTo_eq_targetOf base off

theorem badTarget_of_reachable {a : DWord} (h : Reachable a) : badTarget a.toNat = false := by
  obtain ⟨hlt, hmod⟩ := h
  have hlimit : ¬ Config.vaLimit ≤ a.toNat := not_le.2 hlt
  simp [badTarget, hlimit, hmod]

/-! ### On a core -/

theorem putsV_wrV64 (pc : DWord) (t : Thread) (d : Nat) (v : DWord) : PutsV pc d 64 v t (moved (wrV64 t d v) pc) :=
  ⟨rfl, rdV64_wrV64 .., fun _ hr hr' => rdV_wrV64_ne hr (hr' rfl) ..⟩

/-- An instruction that acts per thread, sets its program counter and faults in no thread with a true guard. -/
theorem eachThread_of_perThreadTo {i : Instr} {s : State} {g : Grp} (hg : grpOf s = some g) {f : Grp → Nat → Thread → LaneRes}
    (hi : exec i s = perThreadTo s f) {r : Nat → Thread} (hf : ∀ l ∈ g.live, f g l (threadOf g.band l) = .ok (r l))
    {P : Nat → Thread → Thread → Prop} (hP : ∀ l, P l (threadOf g.band l) { r l with wait := .ready }) : EachThread i s g P := by
  obtain ⟨t, b', hnext, honly, hband, hb', hby, hlive⟩ := perThreadTo_ok hg f r hf
  refine ⟨t, b', hi.trans hnext, honly, hband, hb', hby, fun l hlt hin => ?_⟩
  rw [hlive l hlt hin]
  exact hP l

/-- A thread with the link of a call in its link pair. -/
def linked (link : Option Nat) (next : DWord) (t : Thread) : Thread :=
  match link with
  | some d => wrV64 t d next
  | none => t

theorem jumped_linked (link : Option Nat) (pc next : DWord) (t : Thread) :
    Jumped pc (link.map (·, next)) t (moved (linked link next t) pc) := by
  cases link with
  | none => exact rfl
  | some d => exact putsV_wrV64 ..

/-- A jump of threads whose registers the band has. -/
theorem laneJumps_of_threadJump {i : Instr} {regs : List Nat} {link : Option Nat} {dest : Grp → Thread → Nat}
    {target : Grp → Thread → DWord} (hi : ∀ s g, grpOf s = some g → exec i s = threadJump s regs link dest)
    (hdest : ∀ g t, dest g t = (target g t).toNat) : LaneJumps i regs target fun g => link.map (·, g.next) := by
  intro s g hg hregs hreach
  refine eachThread_of_perThreadTo hg (hi s g hg)
    (r := fun l => { linked link g.next (threadOf g.band l) with pc := target g (threadOf g.band l) })
    (fun l hl => ?_) fun l => jumped_linked ..
  simp only [rangeFault_none hregs, hdest, badTarget_of_reachable (hreach l hl), BitVec.ofNat_toNat, BitVec.setWidth_eq,
    Bool.false_eq_true, if_false]
  cases link <;> rfl

theorem brBaseRegs_eq_namedBase (base : BrBase) : brBaseRegs base = namedBase base := by cases base <;> rfl

theorem brBaseVal_eq_laneBase (b : Band) (t : Thread) (base : BrBase) : brBaseVal b t base = laneBase b t base := by
  cases base <;> rfl

section
variable {s : State} {g : Grp} (hg : grpOf s = some g)
include hg

theorem exec_bra_band (o : Bra) : exec (.bra o) s = threadJump s [] none fun g _ => branchTo g.addr o.off := by
  obtain ⟨guard, hcur⟩ := grpOf_cur hg
  simp only [exec_bra, execBra, hcur]

theorem exec_brx_band (o : Brx) : exec (.brx o) s =
    threadJump s (namedBase o.base) none fun g t => baseAddr (laneBase g.band t o.base) o.off := by
  obtain ⟨guard, hcur⟩ := grpOf_cur hg
  simp only [exec_brx, execBrx, hcur, brBaseRegs_eq_namedBase, brBaseVal_eq_laneBase]

theorem exec_call_band (o : Call) : exec (.call o) s = threadJump s [o.d.val] (some o.d.val) fun g _ => branchTo g.addr o.off := by
  obtain ⟨guard, hcur⟩ := grpOf_cur hg
  simp only [exec_call, execCall, hcur]

theorem exec_callx_band (o : Callx) : exec (.callx o) s =
    threadJump s (o.d.val :: namedBase o.base) (some o.d.val) fun g t => baseAddr (laneBase g.band t o.base) o.off := by
  obtain ⟨guard, hcur⟩ := grpOf_cur hg
  simp only [exec_callx, execCallx, hcur, brBaseRegs_eq_namedBase, brBaseVal_eq_laneBase]

theorem exec_retC_band (o : CRet) : exec (.retC o) s = threadJump s [o.a.val] none fun _ t => (rdV64 t o.a.val).toNat := by
  obtain ⟨guard, hcur⟩ := grpOf_cur hg
  simp only [exec_retC, execRetC, hcur]

end

theorem jumpsOnCore : JumpsOnCore :=
  ⟨fun o => laneJumps_of_threadJump (fun _ _ hg => exec_bra_band hg o) fun _ _ => branchTo_eq_targetOf ..,
    fun o => laneJumps_of_threadJump (fun _ _ hg => exec_brx_band hg o) fun _ _ => baseAddr_eq_targetOf ..,
    fun o => laneJumps_of_threadJump (fun _ _ hg => exec_call_band hg o) fun _ _ => branchTo_eq_targetOf ..,
    fun o => laneJumps_of_threadJump (fun _ _ hg => exec_callx_band hg o) fun _ _ => baseAddr_eq_targetOf ..,
    fun o => laneJumps_of_threadJump (fun _ _ hg => exec_retC_band hg o) fun _ _ => rfl⟩

/-! ### NOP and YIELD (R196, R213) -/

theorem execNopC_band {s : State} {g : Grp} (hg : grpOf s = some g) : execNopC s = vecOp s [] fun _ _ t => t := by
  obtain ⟨guard, hcur⟩ := grpOf_cur hg
  simp only [execNopC, hcur]

theorem yield_yields {s : State} {g : Grp} (hg : grpOf s = some g) : ∃ t b', exec .yieldC s = .next t ∧ OnlyBand s t g.key ∧
    bandOf t g.key = some b' ∧
    b' = { g.band with threads := b'.threads, yielded := BitVec.ofNat 32 (laneMask g.live) } ∧ Bystanders g b' ∧
    ∀ l, l < g.band.threads.length → l ∈ g.live → threadOf b' l = moved (threadOf g.band l) g.next := by
  obtain ⟨t, b, hnext, honly, hband, hb, ⟨hsize, hout, hidle⟩, hlive⟩ := vecOp_ok hg (List.forall_mem_nil _) fun _ _ t => t
  refine ⟨_, { b with yielded := BitVec.ofNat 32 (laneMask g.live) }, ?_, onlyBand_trans honly (onlyBand_setBand ..),
    bandOf_setBand .., ?_, ⟨hsize, hout, hidle⟩, hlive⟩
  · rw [exec_yieldC, execYieldC, hnext]
    simp only [hg, hband]
  · rw [hb]

theorem nopAndYield : NopAndYield := fun _ _ hg =>
  ⟨eachThread_of_vecOp hg (execNopC_band hg) (List.forall_mem_nil _) fun _ _ => rfl, yield_yields hg⟩

/-! ### On a stream (R201) -/

/-- A stream with the link of a call in its link register. -/
def linkedStream (link : Option Nat) (next : DWord) (x : Stream) : Stream :=
  match link with
  | some d => wrStream x d next
  | none => x

theorem linkedStream_frame (link : Option Nat) (next : DWord) (x : Stream) :
    linkedStream link next x = { x with sregs := (linkedStream link next x).sregs } := by
  cases link <;> rfl

theorem rdStream_linkedStream (link : Option Nat) (next : DWord) (x : Stream) (r : Nat) :
    rdStream (linkedStream link next x) r = if link = some r then next else rdStream x r := by
  cases link with
  | none => exact rfl
  | some d =>
    by_cases hr : r = d
    · rw [hr, if_pos rfl]; exact rdStream_wrStream ..
    · rw [if_neg fun h => hr (Option.some.inj h).symm]; exact rdStream_wrStream_ne hr ..

/-- A jump of a stream. -/
theorem streamJumps_of_streamJump {i : Instr} {link : Option Nat} {dest : Strm → Nat} {target : Strm → DWord}
    (hi : ∀ s g, strmOf s = some g → exec i s = streamJump s link dest) (hdest : ∀ g, dest g = (target g).toNat) :
    StreamJumps i target link := by
  intro s g hg hlive hreach
  have hexec : exec i s = .next (setStream s g.hinge g.num { linkedStream link g.next g.rcd with pc := target g, state := 1 }) := by
    simp only [hi s g hg, streamJump, onStream, hg, hlive, hdest, badTarget_of_reachable hreach, BitVec.ofNat_toNat,
      BitVec.setWidth_eq, Bool.not_true, Bool.false_eq_true, if_false]
    cases link <;> rfl
  have hread := rdStream_linkedStream link g.next g.rcd
  refine ⟨_, _, hexec, onlyStream_setStream .., streamOf_setStream .., ?_, fun d hd => ?_, fun r hr => ?_⟩
  · rw [linkedStream_frame]
  · exact (hread d).trans (if_pos hd)
  · exact (hread r).trans (if_neg hr)

section
variable {s : State} {g : Strm} (hg : strmOf s = some g)
include hg

theorem exec_bra_stream (o : Bra) : exec (.bra o) s = streamJump s none fun g => branchTo g.addr o.off := by
  obtain ⟨guard, hcur⟩ := strmOf_cur hg
  simp only [exec_bra, execBra, hcur]

theorem exec_brx_stream {o : Brx} {r : Fin 64} (ho : o.base = .sca r) :
    exec (.brx o) s = streamJump s none fun g => baseAddr (rdStream g.rcd r.val) o.off := by
  obtain ⟨guard, hcur⟩ := strmOf_cur hg
  simp only [exec_brx, execBrx, hcur, ho, brBaseStream]

theorem exec_call_stream (o : Call) : exec (.call o) s = streamJump s (some o.d.val) fun g => branchTo g.addr o.off := by
  obtain ⟨guard, hcur⟩ := strmOf_cur hg
  simp only [exec_call, execCall, hcur]

theorem exec_callx_stream {o : Callx} {r : Fin 64} (ho : o.base = .sca r) :
    exec (.callx o) s = streamJump s (some o.d.val) fun g => baseAddr (rdStream g.rcd r.val) o.off := by
  obtain ⟨guard, hcur⟩ := strmOf_cur hg
  simp only [exec_callx, execCallx, hcur, ho, brBaseStream]

theorem exec_retC_stream (o : CRet) : exec (.retC o) s = streamJump s none fun g => (rdStream g.rcd o.a.val).toNat := by
  obtain ⟨guard, hcur⟩ := strmOf_cur hg
  simp only [exec_retC, execRetC, hcur]

theorem exec_nopC_stream (hlive : g.live = true) :
    exec .nopC s = .next (setStream s g.hinge g.num { g.rcd with pc := g.next, state := 1 }) := by
  obtain ⟨guard, hcur⟩ := strmOf_cur hg
  simp only [exec_nopC, execNopC, hcur, onStream, hg, hlive, ← strmOf_rcd hg, Bool.not_true, Bool.false_eq_true, if_false]

end

theorem jumpsOnStream : JumpsOnStream :=
  ⟨fun o => streamJumps_of_streamJump (fun _ _ hg => exec_bra_stream hg o) fun _ => branchTo_eq_targetOf ..,
    fun _ _ ho => streamJumps_of_streamJump (fun _ _ hg => exec_brx_stream hg ho) fun _ => baseAddr_eq_targetOf ..,
    fun o => streamJumps_of_streamJump (fun _ _ hg => exec_call_stream hg o) fun _ => branchTo_eq_targetOf ..,
    fun _ _ ho => streamJumps_of_streamJump (fun _ _ hg => exec_callx_stream hg ho) fun _ => baseAddr_eq_targetOf ..,
    fun o => streamJumps_of_streamJump (fun _ _ hg => exec_retC_stream hg o) fun _ => rfl,
    fun _ _ hg hlive => ⟨_, _, exec_nopC_stream hg hlive, onlyStream_setStream .., streamOf_setStream .., rfl⟩⟩

/-- Settles O19: every jump is a jump of threads or of a stream, with its target read before its link is written. -/
theorem jumps : Obligations.Jumps := ⟨nopAndYield, jumpsOnCore, jumpsOnStream⟩

end Sys2Proof.Proofs
end

section
/-! SUPPORT. What leaves bands and teams alone: translation and accesses, the copies of bytes, a record in a ring, a page revived. -/

namespace Sys2Proof.Proofs

open Sys2Proof.Machine Sys2Proof.Claims

/-- Bands and teams are as they were. -/
structure KeepsBands (s t : State) : Prop where
  bands : t.bands = s.bands
  teams : t.teams = s.teams

theorem KeepsBands.refl (s : State) : KeepsBands s s := ⟨rfl, rfl⟩

theorem KeepsBands.trans {s t u : State} (h : KeepsBands s t) (h' : KeepsBands t u) : KeepsBands s u :=
  ⟨h'.bands.trans h.bands, h'.teams.trans h.teams⟩

theorem KeepsBands.bandOf {s t : State} (h : KeepsBands s t) (k : Nat) : bandOf t k = bandOf s k :=
  congrArg (aFind k) h.bands

theorem KeepsBands.teamOf {s t : State} (h : KeepsBands s t) (k : Nat) : teamOf t k = teamOf s k :=
  congrArg (aFind k) h.teams

/-! ### Translation and accesses (R222-R228) -/

theorem keepsBands_choose (s : State) (n : Nat) : KeepsBands s (choose s n).2 := by
  rw [choose_frame]
  exact ⟨rfl, rfl⟩

theorem keepsBands_setTlb (s : State) (id : Nat) (m : List TlbEntry) : KeepsBands s (setTlb s id m) := by
  unfold setTlb
  split <;> exact ⟨rfl, rfl⟩

theorem keepsBands_fillTlb (s : State) (id ctx va : Nat) (l : Leaf) : KeepsBands s (fillTlb s id ctx va l) := by
  unfold fillTlb
  dsimp only
  split
  · exact (keepsBands_choose ..).trans (keepsBands_setTlb ..)
  · exact keepsBands_setTlb ..

theorem keepsBands_countWalk (s : State) (id ctx va : Nat) : KeepsBands s (countWalk s id ctx va) := by
  unfold countWalk
  by_cases hid : id < 60
  · simp only [hid, if_true]
    split <;> exact ⟨rfl, rfl⟩
  · simp only [hid, if_false]
    split <;> exact ⟨rfl, rfl⟩

/-- A walk that a miss makes, and the fill of the TLB with the leaf that it found. -/
theorem keepsBands_walked (s : State) (id ctx va : Nat) (l : Leaf) :
    KeepsBands s (if l.state = 0 then fillTlb (countWalk s id ctx va) id ctx va l else countWalk s id ctx va) := by
  split
  · exact (keepsBands_countWalk ..).trans (keepsBands_fillTlb ..)
  · exact keepsBands_countWalk ..

theorem keepsBands_translate (s : State) (id ctx va : Nat) : KeepsBands s (Machine.translate s id ctx va).2 := by
  unfold Machine.translate
  dsimp only
  cases tlbFind s id ctx va <;> cases walk s ctx va
  case none.error => exact keepsBands_countWalk ..
  case none.ok l => exact keepsBands_walked ..
  case some.error e _ =>
    simp only [Bool.false_eq_true, if_false]
    split
    · exact keepsBands_choose ..
    · exact (keepsBands_choose ..).trans (keepsBands_countWalk ..)
  case some.ok e l =>
    dsimp only
    split
    · exact .refl s
    · split
      · exact keepsBands_choose ..
      · exact (keepsBands_choose ..).trans (keepsBands_walked ..)

theorem keepsBands_access (s : State) (id ctx va : Nat) (acc : Acc) : KeepsBands s (access s id ctx va acc).2 := by
  unfold access
  split
  · exact .refl s
  · exact keepsBands_translate ..

theorem keepsBands_revivePage (s : State) (l : Leaf) : KeepsBands s (revivePage s l) := ⟨rfl, rfl⟩

end Sys2Proof.Proofs
end

section
/-! SUPPORT. The split stack with its spill area (R202, R203, R500): what leaves the region at the top alone, and that a settle ends
with a top entry that waits for a thread that has not exited. -/

namespace Sys2Proof.Proofs

open Sys2Proof.Machine Sys2Proof.Claims

/-! ### The spill area (R202, R500) -/

theorem keepsBands_spillPage (s : State) (core : Nat) (tm : Team) (va : Nat) (isWrite : Bool) :
    KeepsBands s (spillPage s core tm va isWrite).2 := by
  unfold spillPage
  split
  · exact .refl s
  · exact keepsBands_access ..

theorem keepsBands_spillWrite {s t : State} {core : Nat} {tm : Team} {b : Band} {j : Nat} {e : SplitEntry}
    (h : spillWrite s core tm b j e = .ok t) : KeepsBands s t := by
  unfold spillWrite at h
  have hpage := keepsBands_spillPage s core tm (spillAddr tm b j) true
  revert h
  dsimp only
  split
  · exact nofun
  next a discarded hr =>
    rintro ⟨⟩
    refine hpage.trans ?_
    split
    · exact ⟨rfl, rfl⟩
    · exact ⟨rfl, rfl⟩

theorem keepsBands_spillRead (s : State) (core : Nat) (tm : Team) (b : Band) (j : Nat) (x : SpilledEntry) :
    KeepsBands s (spillRead s core tm b j x).2 := by
  have hpage := keepsBands_spillPage s core tm (spillAddr tm b j) false
  unfold spillRead
  dsimp only
  split
  · exact hpage
  next a discarded hr =>
    generalize splitOfBytes _ = found
    split
    · exact hpage
    · exact hpage.trans (keepsBands_choose ..)

/-- A reload moves entries into the hardware stack; the band stays, as deep as it was. -/
theorem depthOf_reloadSplits (fuel : Nat) {s : State} {k : Nat} {b : Band} (hb : bandOf s k = some b) :
    ∃ b', bandOf (reloadSplits fuel s k).2 k = some b' ∧ depthOf b' = depthOf b := by
  induction fuel generalizing s b with
  | zero => exact ⟨b, hb, rfl⟩
  | succ fuel ih =>
    simp only [reloadSplits, hb]
    split
    next x rest tm hspilled hteam =>
      split
      · exact ⟨b, hb, rfl⟩
      · have hread := keepsBands_spillRead s (k / Config.slotsPerCore) tm b rest.length x
        split
        · exact ⟨b, (hread.bandOf k).trans hb, rfl⟩
        next e he =>
          obtain ⟨b', hb', hdepth⟩ := ih (bandOf_setBand (spillRead s (k / Config.slotsPerCore) tm b rest.length x).2 k
            { b with split := b.split ++ [e], spilled := rest })
          refine ⟨b', hb', hdepth.trans ?_⟩
          simp only [depthOf, hspilled, List.length_append, List.length_cons, List.length_nil]
          omega
    · exact ⟨b, hb, rfl⟩

/-- A change of the spilled entries leaves a band's threads and its hardware stack. -/
theorem bandOf_changeSpilled (core : Nat) (f : Nat → SplitEntry → SplitEntry) (xs : List SpilledEntry) {s : State} {k : Nat}
    {b : Band} (hb : bandOf s k = some b) : ∃ ys, bandOf (changeSpilled core f xs s k) k = some { b with spilled := ys } := by
  induction xs generalizing s b with
  | nil => exact ⟨b.spilled, hb⟩
  | cons x xs ih =>
    have hput : ∀ t zs, ∃ ys, bandOf (changeSpilled core f xs (setBand t k { b with spilled := zs }) k) k =
        some { b with spilled := ys } := fun t zs => ih (b := { b with spilled := zs }) (bandOf_setBand ..)
    simp only [changeSpilled, hb]
    split
    · exact ih hb
    · cases teamOf s b.team with
      | none =>
        simp only [hb]
        exact hput ..
      | some tm =>
        dsimp only
        cases hw : spillWrite s core tm b xs.length (f (b.spilled.length - 1 - xs.length) x.entry) with
        | error e =>
          simp only [hb]
          exact hput ..
        | ok t =>
          simp only [((keepsBands_spillWrite hw).bandOf k).trans hb]
          exact hput ..

theorem bandOf_clearSpilled (core : Nat) (mask : Bool) (ls : List Nat) (n : Nat) {s : State} {k : Nat} {b : Band}
    (hb : bandOf s k = some b) : ∃ ys, bandOf (clearSpilled core mask ls n s k) k = some { b with spilled := ys } := by
  simp only [clearSpilled, hb]
  exact bandOf_changeSpilled core _ b.spilled hb

/-! ### Regions left alone by traps (R421, R423) -/

/-- The hardware stack is as it was, and so are the threads that have exited. -/
structure SameRegions (b b' : Band) : Prop where
  split : b'.split = b.split
  exited : ∀ l, (threadOf b' l).exited = (threadOf b l).exited

/-- Threads changed one by one, none of them to exit or to run again. -/
theorem sameRegions_mapFrom {b b' : Band} {f : Nat → Thread → Thread} (hthreads : b'.threads = mapFrom f 0 b.threads)
    (hsplit : b'.split = b.split) (hf : ∀ i t, (f i t).exited = t.exited) : SameRegions b b' := by
  refine ⟨hsplit, fun l => ?_⟩
  by_cases hl : l < b.threads.length
  · rw [threadOf, hthreads, mapFrom_getD f 0 l b.threads {} {} hl, hf]
    rfl
  · rw [threadOf_ge (not_lt.1 hl), threadOf_ge (by rw [hthreads, mapFrom_length]; exact not_lt.1 hl)]

theorem map_eq_mapFrom {α β : Type} (f : α → β) (i : Nat) (xs : List α) : xs.map f = mapFrom (fun _ => f) i xs := by
  induction xs generalizing i with
  | nil => rfl
  | cons x xs ih => rw [List.map_cons, mapFrom, ih (i + 1)]

theorem SameRegions.trans {a b c : Band} (h : SameRegions a b) (h' : SameRegions b c) : SameRegions a c :=
  ⟨h'.split.trans h.split, fun l => (h'.exited l).trans (h.exited l)⟩

theorem keepsBands_errorRecord (s : State) (tm : Team) (slot kind lanes first second : Nat) (tpc taddr tinfo : DWord) :
    KeepsBands s (errorRecord s tm slot kind lanes first second tpc taddr tinfo) := by
  have hput : ∀ (r : Ring) (bs : List Byte), KeepsBands s (ringPut s r bs).1 := fun r bs => by
    unfold ringPut
    split <;> exact ⟨rfl, rfl⟩
  simp only [errorRecord]
  split <;> exact (hput ..).trans ⟨rfl, rfl⟩

/-- A stop leaves the regions of the band that it stops. -/
theorem stopBand_regions {s : State} {k : Nat} {b : Band} (hb : bandOf s k = some b) (faults : List FaultRec) (f : FaultRec)
    (double : Bool) : ∃ b', bandOf (stopBand s k faults f double) k = some b' ∧ SameRegions b b' := by
  have hregions := sameRegions_mapFrom (b := b)
    (b' := { b with stopped := true, threads := b.threads.map fun t => if t.exited then t else { t with halted := true } })
    (map_eq_mapFrom _ 0 b.threads) rfl fun _ t => by split <;> rfl
  simp only [stopBand, hb]
  split
  · exact ⟨_, bandOf_setBand .., hregions⟩
  · exact ⟨_, (KeepsBands.bandOf (keepsBands_errorRecord ..) k).trans (bandOf_setBand ..), hregions⟩

/-- So does any trap. -/
theorem takeTraps_regions {s : State} {k : Nat} {b : Band} (hb : bandOf s k = some b) (imprecise : Bool) (faults : List FaultRec) :
    ∃ b', bandOf (takeTraps s k imprecise faults) k = some b' ∧ SameRegions b b' := by
  have hb' : ∀ n e, bandOf { s with faulted := n, early := e } k = some b := fun _ _ => hb
  simp only [takeTraps, hb']
  split
  · refine ⟨_, bandOf_setBand .., sameRegions_mapFrom rfl rfl fun i t => ?_⟩
    split <;> rfl
  next f hf =>
    generalize hstop : stopBand _ k _ f _ = u
    obtain ⟨b1, hb1, hregions⟩ : ∃ b1, bandOf u k = some b1 ∧ SameRegions b b1 := hstop ▸ stopBand_regions (hb' ..) ..
    simp only [hb1]
    refine ⟨_, bandOf_setBand .., hregions.trans (sameRegions_mapFrom rfl rfl fun i t => ?_)⟩
    split
    · rfl
    · generalize List.any _ _ = taken
      cases taken <;> rfl

/-! ### The loop of a settle (R203) -/

/-- The top entry, if there is one, waits for a thread that has not exited. -/
def TopWaits (b : Band) : Prop :=
  ∀ e rest, b.split = e :: rest → ∃ l, l < 32 ∧ WaitsFor e l ∧ (threadOf b l).exited = false

theorem mem_maskLanes {m : Word} {l : Nat} : l ∈ maskLanes m ↔ l < 32 ∧ m.getLsbD l = true := by
  simp [maskLanes, inMask]

/-- The lanes of an entry whose threads have not exited. -/
def running (b : Band) (e : SplitEntry) : List Nat := (maskLanes e.mask).filter fun l => !(threadOf b l).exited

theorem mem_running {b : Band} {e : SplitEntry} {l : Nat} :
    l ∈ running b e ↔ l < 32 ∧ e.mask.getLsbD l = true ∧ (threadOf b l).exited = false := by
  simp [running, mem_maskLanes, and_assoc]

theorem topWaits_of_not_all {b : Band} {e : SplitEntry} {rest : List SplitEntry} (hsplit : b.split = e :: rest)
    (h : ¬ (running b e).all (fun l => inMask e.arrived l) = true) : TopWaits b := by
  simp only [List.all_eq_true, not_forall, Bool.not_eq_true, mem_running] at h
  obtain ⟨l, ⟨hl, hmask, hexited⟩, harrived⟩ := h
  rintro e' rest' h'
  obtain ⟨rfl, rfl⟩ := List.cons.inj (hsplit.symm.trans h')
  exact ⟨l, hl, ⟨hmask, harrived⟩, hexited⟩

/-- With fuel for every entry the loop ends at a top entry that waits. -/
theorem settleLoop_waits (fuel : Nat) {k : Nat} {tryLoad : Bool} {r : Settled}
    (hfuel : ∀ b, bandOf r.state k = some b → depthOf b < fuel) :
    ∀ b, bandOf (settleLoop fuel k tryLoad r).state k = some b → TopWaits b := by
  induction fuel generalizing tryLoad r with
  | zero => exact fun b hb => absurd (hfuel b hb) (Nat.not_lt_zero _)
  | succ fuel ih =>
    cases hb : bandOf r.state k with
    | none => simp only [settleLoop, hb]; exact nofun
    | some b =>
      cases hsplit : b.split with
      | nil =>
        simp only [settleLoop, hb, hsplit]
        rintro b' ⟨⟩ e rest h
        rw [hsplit] at h
        cases h
      | cons e rest =>
        have hdepth : rest.length + b.spilled.length < fuel := by
          have := hfuel b hb
          simp only [depthOf, hsplit, List.length_cons] at this
          omega
        have hreloaded : ∀ c : Band, c.spilled = b.spilled → ∀ d,
            bandOf (reloadSplits 17 (setBand r.state k { c with split := rest }) k).2 k = some d → depthOf d < fuel := by
          intro c hc d hd
          obtain ⟨b', hb', hdepth'⟩ := depthOf_reloadSplits 17 (bandOf_setBand r.state k { c with split := rest })
          cases hd.symm.trans hb'
          rw [hdepth', depthOf, hc]
          exact hdepth
        have hkept : ∀ c : Band, c.spilled = b.spilled → ∀ d,
            bandOf (setBand r.state k { c with split := rest }) k = some d → depthOf d < fuel := by
          intro c hc d hd
          cases (bandOf_setBand ..).symm.trans hd
          rw [depthOf, hc]
          exact hdepth
        simp only [settleLoop, hb, hsplit]
        split
        · split
          · exact ih (hreloaded b rfl)
          · exact ih (hkept b rfl)
        · split
          · split
            · exact ih (hreloaded _ rfl)
            · exact ih (hkept _ rfl)
          next hall =>
            rintro b' hb'
            cases hb.symm.trans hb'
            exact topWaits_of_not_all hsplit hall

/-! ### What a settle leaves (R203, R211, R500) -/

/-- Lanes cleared from arrived masks leave an entry to wait for the threads that it waited for. -/
theorem topWaits_clearArrived {b : Band} (h : TopWaits b) (ls : List Nat) : TopWaits (clearArrived b ls) := by
  rintro e rest hsplit
  obtain ⟨e', rest', hb, rfl, -⟩ := List.map_eq_cons_iff.1 (show b.split.map _ = e :: rest from hsplit)
  obtain ⟨l, hl, ⟨hmask, harrived⟩, hexited⟩ := h e' rest' hb
  exact ⟨l, hl, ⟨hmask, by simp [harrived]⟩, hexited⟩

theorem SameRegions.topWaits {b b' : Band} (h : SameRegions b b') (hb : TopWaits b) : TopWaits b' := by
  intro e rest hsplit
  obtain ⟨l, hl, hwaits, hexited⟩ := hb e rest (h.split ▸ hsplit)
  exact ⟨l, hl, hwaits, (h.exited l).trans hexited⟩

/-- The band is there, and its top entry, if there is one, waits. -/
def WaitsAt (s : State) (k : Nat) : Prop := ∃ b, bandOf s k = some b ∧ TopWaits b

theorem waitsAt_setBand (s : State) (k : Nat) {b : Band} (h : TopWaits b) : WaitsAt (setBand s k b) k := ⟨b, bandOf_setBand .., h⟩

theorem WaitsAt.clearSpilled {s : State} {k : Nat} (h : WaitsAt s k) (core : Nat) (mask : Bool) (ls : List Nat) (n : Nat) :
    WaitsAt (clearSpilled core mask ls n s k) k := by
  obtain ⟨b, hb, hwaits⟩ := h
  obtain ⟨ys, hys⟩ := bandOf_clearSpilled core mask ls n hb
  exact ⟨_, hys, hwaits⟩

theorem WaitsAt.takeTraps {s : State} {k : Nat} (h : WaitsAt s k) (imprecise : Bool) (faults : List FaultRec) :
    WaitsAt (takeTraps s k imprecise faults) k := by
  obtain ⟨b, hb, hwaits⟩ := h
  obtain ⟨b', hb', hregions⟩ := takeTraps_regions hb imprecise faults
  exact ⟨b', hb', hregions.topWaits hwaits⟩

theorem WaitsAt.of_bandOf {s : State} {k : Nat} (h : WaitsAt s k) {b : Band} (hb : bandOf s k = some b) : TopWaits b := by
  obtain ⟨b', hb', hwaits⟩ := h
  cases hb.symm.trans hb'
  exact hwaits

/-- Lanes that fault in a deadlock leave every arrived mask (R211). -/
theorem waitsAt_cleared {b : Band} (h : TopWaits b) (s : State) (k : Nat) (ls : List Nat) (core n : Nat) :
    WaitsAt (if ls.isEmpty then setBand s k (clearArrived b ls)
      else clearSpilled core false ls n (setBand s k (clearArrived b ls)) k) k := by
  have hcleared := waitsAt_setBand s k (topWaits_clearArrived h ls)
  split
  · exact hcleared
  · exact hcleared.clearSpilled ..

theorem WaitsAt.trapped {s : State} {k : Nat} (h : WaitsAt s k) (quiet : Bool) (faults : List FaultRec) (faulted : Nat) :
    WaitsAt (if quiet then s else { Machine.takeTraps s k false faults with faulted := faulted }) k := by
  split
  · exact h
  · exact h.takeTraps false faults

/-- The reload that a settle first tries again leaves the band as deep as it was (R500). -/
theorem depthOf_reloaded {s : State} {k : Nat} {b0 : Band} (hb : bandOf s k = some b0) {pre : Option Exc} {u : State}
    (hu : (if b0.reload.isSome then reloadSplits 17 s k else (none, s)) = (pre, u)) :
    ∃ b, bandOf u k = some b ∧ depthOf b = depthOf b0 := by
  split at hu
  · obtain ⟨b, hb, hdepth⟩ := depthOf_reloadSplits 17 hb
    rw [hu] at hb
    exact ⟨b, hb, hdepth⟩
  · cases hu
    exact ⟨b0, hb, rfl⟩

theorem settle_topWaits {s : State} {k word : Nat} {p : List Nat} {b : Band} (hb : bandOf (settle s k p word) k = some b) :
    TopWaits b := by
  revert hb
  unfold settle
  cases hb0 : bandOf s k with
  | none => simp only [hb0]; exact nofun
  | some b0 =>
    dsimp only
    generalize hu : (if b0.reload.isSome then reloadSplits 17 s k else (none, s)) = preloaded
    obtain ⟨pre, u⟩ := preloaded
    obtain ⟨b1, hb1, hdepth⟩ := depthOf_reloaded hb0 hu
    simp only [hb1]
    generalize hr : settleLoop (depthOf b0 + 1) k _ _ = r
    have hwaits : ∀ b, bandOf r.state k = some b → TopWaits b := by
      rw [← hr]
      refine settleLoop_waits _ fun b hb => ?_
      have hdepth' : depthOf b = depthOf b0 := by
        revert hb
        dsimp only
        split
        · rintro hb
          cases (bandOf_setBand ..).symm.trans hb
          exact hdepth
        · rintro hb
          cases hb1.symm.trans hb
          exact hdepth
      omega
    cases hb2 : bandOf r.state k with
    | none => simp only [hb2]; exact nofun
    | some b2 =>
      intro hb
      refine WaitsAt.of_bandOf (.trapped (waitsAt_cleared ?_ ..) ..) hb
      split <;> exact hwaits b2 hb2

/-- Settles O21: the loop of R203 has fuel for every entry, and nothing after it touches a region. -/
theorem settledStack : Obligations.SettledStack := fun _ _ _ _ _ hb => settle_topWaits hb

end Sys2Proof.Proofs
end

section
/-! SUPPORT. The split stack with nothing spilled (R203-R212): a settle whose top entry waits for a thread that runs changes nothing,
and one whose top entry has its last arrival pops it and releases its threads. -/

namespace Sys2Proof.Proofs

open Sys2Proof.Machine Sys2Proof.Claims

/-! ### Settles of a stack in hardware (R203, R211) -/

/-- The top entry, if there is one, waits for a thread that runs. -/
def TopAwake (b : Band) : Prop := ∀ e rest, b.split = e :: rest → ∃ l, WaitsFor e l ∧ Awake b l

theorem settleLoop_rests (fuel : Nat) {k : Nat} {tryLoad : Bool} {r : Settled} {b : Band} (hb : bandOf r.state k = some b)
    (h : TopAwake b) : settleLoop (fuel + 1) k tryLoad r = r := by
  cases hsplit : b.split with
  | nil => simp only [settleLoop, hb, hsplit]
  | cons e rest =>
    obtain ⟨l, ⟨hmask, harrived⟩, hl, hexited, -⟩ := h e rest hsplit
    have hrunning : l ∈ running b e := mem_running.2 ⟨hl, hmask, hexited⟩
    have hne : (running b e).isEmpty = false := by
      rw [List.isEmpty_eq_false_iff_exists_mem]
      exact ⟨l, hrunning⟩
    have hall : ((running b e).all fun i => inMask e.arrived i) = false := by
      rw [List.all_eq_false]
      exact ⟨l, hrunning, by simp [inMask, harrived]⟩
    simp only [running] at hne hall
    simp only [settleLoop, hb, hsplit, hne, hall, Bool.false_eq_true, if_false]

/-- A thread that arrived early waits at a JOIN. -/
theorem wait_of_mem_earlyArrivals {b : Band} {x : Nat × Nat} (h : x ∈ earlyArrivals b) : (threadOf b x.2).wait = .join x.1 true := by
  obtain ⟨l, -, hl⟩ := List.mem_filterMap.1 h
  revert hl
  dsimp only
  split
  next since hwait =>
    intro hx
    cases (Option.ite_none_left_eq_some.1 hx).2
    exact hwait
  · exact nofun

theorem deadlocked_of_topAwake {b : Band} (h : TopAwake b) : deadlocked b = none := by
  cases hsplit : b.split with
  | nil => simp only [deadlocked, hsplit]
  | cons e rest =>
    obtain ⟨l, ⟨hmask, harrived⟩, hl, hexited, hawake⟩ := h e rest hsplit
    have hnot : ((maskLanes e.mask).filter fun i => !(threadOf b i).exited && !inMask e.arrived i).all
        (fun i => (earlyArrivals b).any fun x => x.2 == i) = false := by
      rw [List.all_eq_false]
      refine ⟨l, List.mem_filter.2 ⟨mem_maskLanes.2 ⟨hl, hmask⟩, by rw [hexited, inMask, harrived]; rfl⟩, ?_⟩
      simp only [List.any_eq_true, beq_iff_eq, not_exists, not_and]
      rintro x hx rfl
      exact hawake _ _ (wait_of_mem_earlyArrivals hx)
    simp only [deadlocked, hsplit, hnot, Bool.false_eq_true, if_false, ite_self]

theorem clearArrived_nil (b : Band) : clearArrived b [] = b := by
  have hid : (fun e : SplitEntry => { e with arrived := e.arrived &&& ~~~ BitVec.ofNat 32 (laneMask []) }) = id := by
    funext e
    have hall : ~~~ BitVec.ofNat 32 (laneMask []) = BitVec.allOnes 32 := rfl
    rw [hall, BitVec.and_allOnes]
    rfl
  simp only [clearArrived, hid, List.map_id]

/-- The loop of a settle on a band with no reload outstanding. -/
def looped (s : State) (k : Nat) (b : Band) : Settled :=
  settleLoop (depthOf b + 1) k true { released := [], fault := none, state := setBand s k b }

/-- A settle without a fault, at whose end the top entry waits for a thread that runs, is its loop. -/
theorem settle_eq_looped {s : State} {k : Nat} {b b' : Band} (hb : bandOf s k = some b) (hreload : b.reload = none)
    (hfault : (looped s k b).fault = none) (hb' : bandOf (looped s k b).state k = some b') (h : TopAwake b') (p : List Nat)
    (word : Nat) : settle s k p word = setBand (looped s k b).state k b' := by
  have hsame : { b with reload := none } = b := by rw [← hreload]
  simp only [settle, hb, hreload, hsame, Option.isSome_none, Option.isNone_none, Bool.false_eq_true, if_false, if_true]
  simp only [looped] at hfault hb'
  simp only [looped, hfault, hb', deadlocked_of_topAwake h, clearArrived_nil, List.isEmpty_nil, List.map_nil, Bool.and_self, if_true]

/-- One band is a given one, and every other part of the state is as it was. -/
def BandBecomes (s t : State) (k : Nat) (b : Band) : Prop := OnlyBand s t k ∧ bandOf t k = some b

theorem bandBecomes_setBand (s : State) (k : Nat) (b : Band) : BandBecomes s (setBand s k b) k b :=
  ⟨onlyBand_setBand .., bandOf_setBand ..⟩

theorem bandBecomes_refl {s : State} {k : Nat} {b : Band} (hb : bandOf s k = some b) : BandBecomes s s k b :=
  ⟨⟨rfl, fun _ _ => rfl, fun _ => rfl⟩, hb⟩

theorem BandBecomes.trans {s t u : State} {k : Nat} {b c : Band} (h : BandBecomes s t k b) (h' : BandBecomes t u k c) :
    BandBecomes s u k c := ⟨onlyBand_trans h.1 h'.1, h'.2⟩

/-- The top entry waits for a thread that runs: nothing happens. -/
theorem settle_rests {s : State} {k : Nat} {b : Band} (hb : bandOf s k = some b) (hreload : b.reload = none) (h : TopAwake b)
    (p : List Nat) (word : Nat) : BandBecomes s (settle s k p word) k b := by
  have hloop : looped s k b = { released := [], fault := none, state := setBand s k b } :=
    settleLoop_rests _ (bandOf_setBand ..) h
  rw [settle_eq_looped hb hreload (by rw [hloop]) (by rw [hloop]; exact bandOf_setBand ..) h, hloop]
  exact (bandBecomes_setBand ..).trans (bandBecomes_setBand ..)

/-- The band after its top entry has been popped: the entry's threads that have not exited go on behind its JOIN. -/
def popped (b : Band) (e : SplitEntry) (rest : List SplitEntry) : Band :=
  { gotoLanes b (running b e) (e.join + 4) with split := rest }

theorem reloadSplits_none (fuel : Nat) {s : State} {k : Nat} {b : Band} (hb : bandOf s k = some b) (h : b.spilled = []) :
    reloadSplits fuel s k = (none, s) := by
  cases fuel with
  | zero => rfl
  | succ fuel => simp only [reloadSplits, hb, h]

/-- The top entry has its last arrival: it is popped, and its threads are released together. -/
theorem settle_pops {s : State} {k : Nat} {b : Band} {e : SplitEntry} {rest : List SplitEntry} (hb : bandOf s k = some b)
    (hspill : NoSpill b) (hsplit : b.split = e :: rest) (hne : running b e ≠ []) (hall : ∀ l ∈ running b e, e.arrived.getLsbD l = true)
    (h : TopAwake (popped b e rest)) (p : List Nat) (word : Nat) : BandBecomes s (settle s k p word) k (popped b e rest) := by
  obtain ⟨hspilled, hreload⟩ := hspill
  have hempty : (running b e).isEmpty = false := by simpa using hne
  have hall' : ((running b e).all fun l => inMask e.arrived l) = true := List.all_eq_true.2 hall
  have hdepth : depthOf b = rest.length + 1 := by rw [depthOf, hsplit, hspilled]; rfl
  have hloop : looped s k b = { released := [] ++ running b e, fault := none, state := setBand (setBand s k b) k (popped b e rest) } := by
    have hend := settleLoop_rests rest.length (k := k) (tryLoad := true)
      (r := ⟨[] ++ running b e, none, setBand (setBand s k b) k (popped b e rest)⟩) (bandOf_setBand ..) h
    rw [looped, hdepth, settleLoop]
    have hload := reloadSplits_none 17 (bandOf_setBand (setBand s k b) k (popped b e rest)) hspilled
    simp only [popped, running] at hempty hall' hload
    simp only [bandOf_setBand, hsplit, hempty, hall', Bool.false_eq_true, if_false, if_true]
    rw [hload]
    exact hend
  rw [settle_eq_looped hb hreload (by rw [hloop]) (by rw [hloop]; exact bandOf_setBand ..) h, hloop]
  exact ((bandBecomes_setBand ..).trans (bandBecomes_setBand ..)).trans (bandBecomes_setBand ..)

/-! ### How an instruction of the split stack acts -/

theorem onLanes_nil (b : Band) (f : Nat → Thread → Thread) : onLanes b [] f = b := by
  have hid : (fun (i : Nat) (t : Thread) => if ([] : List Nat).contains i then f i t else t) = fun _ t => id t := rfl
  rw [onLanes, hid, ← map_eq_mapFrom, List.map_id]

/-- The band of a group after its threads with a false guard have gone on (R47). -/
def pastIdle (g : Grp) : Band := gotoLanes g.band (g.lanes.filter fun l => !g.live.contains l) g.next

theorem perGroupTo_advanced {s : State} {g : Grp} (hg : grpOf s = some g) (hl : g.live ≠ []) (f : Grp → State → GrpRes) :
    ∃ u, BandBecomes s u g.key (pastIdle g) ∧ ∀ t, f g u = .ok t → perGroupTo s f = .next t := by
  have hlive : g.live.isEmpty = false := by simpa using hl
  have hu : BandBecomes s (if (g.lanes.filter fun l => !g.live.contains l).isEmpty then s
      else gotoBand s g.key (g.lanes.filter fun l => !g.live.contains l) g.next) g.key (pastIdle g) := by
    split
    next h =>
      rw [pastIdle, List.isEmpty_iff.1 h, gotoLanes, onLanes_nil]
      exact bandBecomes_refl (grpOf_band hg)
    next =>
      simp only [gotoBand, grpOf_band hg]
      exact bandBecomes_setBand ..
  refine ⟨_, hu, fun t ht => ?_⟩
  simp only [perGroupTo, hg, hlive, Bool.false_eq_true, if_false, ht]

/-- An instruction that acts once for its group, on the band after its threads with a false guard have gone on. -/
theorem exec_of_perGroupTo {s : State} {g : Grp} (hg : grpOf s = some g) (hl : g.live ≠ []) {i : Instr} {F : Grp → State → GrpRes}
    (hi : exec i s = perGroupTo s F) {b : Band}
    (hF : ∀ u, BandBecomes s u g.key (pastIdle g) → ∃ t, F g u = .ok t ∧ BandBecomes u t g.key b) :
    ∃ t, exec i s = .next t ∧ BandBecomes s t g.key b := by
  obtain ⟨u, hu, hnext⟩ := perGroupTo_advanced hg hl F
  obtain ⟨t, ht, hb⟩ := hF u hu
  exact ⟨t, hi.trans (hnext t ht), hu.trans hb⟩

/-- The band after an instruction of the split stack: a new stack, and the threads of P each changed by `f`. -/
def acted (g : Grp) (st : List SplitEntry) (f : Thread → Thread) : Band :=
  onLanes { pastIdle g with split := st } g.live fun _ => f

section
variable {g : Grp} (st : List SplitEntry) (f : Thread → Thread)

theorem acted_length : (acted g st f).threads.length = g.band.threads.length := by
  rw [acted, onLanes_length]
  exact onLanes_length ..

theorem threadOf_acted_outside {l : Nat} (h : l ∉ g.lanes) (hlive : l ∉ g.live) : threadOf (acted g st f) l = threadOf g.band l :=
  (threadOf_onLanes_out _ _ hlive).trans (threadOf_onLanes_out g.band _ fun h' => h (List.mem_of_mem_filter h'))

theorem threadOf_acted_idle {l : Nat} (hl : l < g.band.threads.length) (h : l ∈ g.lanes) (hlive : l ∉ g.live) :
    threadOf (acted g st f) l = moved (threadOf g.band l) g.next :=
  (threadOf_onLanes_out _ _ hlive).trans (threadOf_onLanes_in g.band _ (List.mem_filter.2 ⟨h, by simpa using hlive⟩) hl)

theorem threadOf_acted_live {l : Nat} (hl : l < g.band.threads.length) (h : l ∈ g.live) :
    threadOf (acted g st f) l = f (threadOf g.band l) := by
  refine (threadOf_onLanes_in _ _ h (by simpa [pastIdle, gotoLanes] using hl)).trans (congrArg f ?_)
  refine threadOf_onLanes_out g.band _ fun h' => ?_
  simpa [h] using (List.mem_filter.1 h').2

end

section
variable {s : State} {g : Grp} (hg : grpOf s = some g)
include hg

theorem bystanders_acted (st : List SplitEntry) (f : Thread → Thread) : Bystanders g (acted g st f) :=
  ⟨acted_length st f, fun _ h => threadOf_acted_outside st f h fun h' => h (grpOf_live hg h'),
    fun _ hlt => threadOf_acted_idle st f hlt⟩

/-- An instruction of the split stack after which the top entry waits for a thread that runs. -/
theorem splitStep_of_settle (hl : g.live ≠ []) (hreload : g.band.reload = none) {i : Instr} {F : Grp → State → GrpRes}
    {st : List SplitEntry} {f : Thread → Thread} {split : List SplitEntry → Prop} {P : Nat → Thread → Thread → Prop}
    (hi : exec i s = perGroupTo s F)
    (hF : ∀ u, BandBecomes s u g.key (pastIdle g) →
      ∃ v, BandBecomes u v g.key (acted g st f) ∧ F g u = .ok (settle v g.key g.live g.word))
    (hawake : TopAwake (acted g st f)) (hsplit : split st) (hP : ∀ l, P l (threadOf g.band l) (f (threadOf g.band l))) :
    SplitStep i s g split P := by
  obtain ⟨t, hexec, honly, hband⟩ := exec_of_perGroupTo hg hl hi fun u hu => by
    obtain ⟨v, hv, hFu⟩ := hF u hu
    exact ⟨_, hFu, hv.trans (settle_rests hv.2 hreload hawake g.live g.word)⟩
  refine ⟨t, _, hexec, honly, hband, rfl, hsplit,
    bystanders_acted hg .., fun l hlt h => ?_⟩
  rw [threadOf_acted_live _ _ hlt h]
  exact hP l

/-- A thread outside the group runs on. -/
theorem awake_acted {l : Nat} (h : l ∉ g.lanes) (hawake : Awake g.band l) (st : List SplitEntry) (f : Thread → Thread) :
    Awake (acted g st f) l := by
  rw [Awake, threadOf_acted_outside _ _ h fun h' => h (grpOf_live hg h')]
  exact hawake

end

end Sys2Proof.Proofs
end

section
/-! SUPPORT. BRD and SWCH (R205, R210), BRK and EXIT (R208, R212) with the split stack in hardware. -/

namespace Sys2Proof.Proofs

open Sys2Proof.Machine Sys2Proof.Claims

theorem teamOf_of_onlyBand {s u : State} {k : Nat} (h : OnlyBand s u k) (j : Nat) : teamOf u j = teamOf s j := by rw [h.rest]; rfl

theorem firstBad_none {as : List Nat} (h : ∀ a ∈ as, a < 2 ^ 55) : firstBad as = none :=
  List.find?_eq_none.2 fun a ha => by rw [decide_eq_true_eq]; exact not_le.2 (h a ha)

/-! ### Pushes (R205, R210) -/

/-- The entry that BRD or SWCH pushes for its threads. -/
def regionOf (g : Grp) (join : Nat) : SplitEntry :=
  { join := BitVec.ofNat 64 join, mask := BitVec.ofNat 32 (laneMask g.live), arrived := 0 }

/-- The band after the push. -/
def pushed (g : Grp) (join : Nat) : Band := { pastIdle g with split := regionOf g join :: g.band.split }

section
variable {s u : State} {g : Grp} (hg : grpOf s = some g)
include hg

theorem maskOf_regionOf (hp : Placed g) (join : Nat) : MaskOf (regionOf g join).mask g.live := by
  intro l hl
  rw [regionOf, BitVec.getLsbD_ofNat, testBit_laneMask (live_pairwise hg hp)]
  simp [hl]

theorem live_lt (hp : Placed g) {l : Nat} (h : l ∈ g.live) : l < 32 := hp.2.2 l (grpOf_live hg h)

variable {tm : Team} (hteam : teamOf s g.band.team = some tm) (h16 : g.band.split.length < 16)
  (hdepth : g.band.split.length + g.band.spilled.length < 16 + tm.spillBytes / 16)
include hteam h16 hdepth

omit hg in
theorem pushRegion_eq (hu : BandBecomes s u g.key (pastIdle g)) (join : Nat) :
    pushRegion u g join = .ok (setBand u g.key (pushed g join)) := by
  have hroom : ¬ depthLimit tm ≤ depthOf (pastIdle g) := not_le.2 hdepth
  have hfits : (pastIdle g).split.length < 16 := h16
  simp only [pushRegion, hu.2, (teamOf_of_onlyBand hu.1 _).trans hteam, hroom, if_false, pushSplit, hfits, if_true]
  rfl

/-- A push after which each thread of P goes where `f` says. -/
theorem splitStep_of_push (hp : Placed g) (hl : g.live ≠ []) (hreload : g.band.reload = none)
    (hrun : ∀ l ∈ g.live, (threadOf g.band l).exited = false) {i : Instr} {F : Grp → State → GrpRes} {join : Nat}
    {f : Thread → DWord} (hi : exec i s = perGroupTo s F)
    (hF : ∀ u v, pushRegion u g join = .ok v → F g u = .ok (settle (goWhere v g f) g.key g.live g.word)) :
    SplitStep i s g (fun st => ∃ e, st = e :: g.band.split ∧ e.join = BitVec.ofNat 64 join ∧ MaskOf e.mask g.live ∧ e.arrived = 0)
      fun _ t t' => t' = moved t (f t) := by
  refine splitStep_of_settle hg hl hreload (st := regionOf g join :: g.band.split) (f := fun t => moved t (f t)) hi (fun u hu => ?_)
    ?_ ⟨_, rfl, rfl, maskOf_regionOf hg hp join, rfl⟩ fun _ => rfl
  · have hgone : goWhere (setBand u g.key (pushed g join)) g f = setBand (setBand u g.key (pushed g join)) g.key
        (acted g (regionOf g join :: g.band.split) fun t => moved t (f t)) := by
      simp only [goWhere, bandOf_setBand]
      rfl
    exact ⟨_, (bandBecomes_setBand u g.key (pushed g join)).trans (bandBecomes_setBand ..),
      hgone ▸ hF u _ (pushRegion_eq hteam h16 hdepth hu join)⟩
  rintro e rest hsplit
  obtain ⟨rfl, rfl⟩ := List.cons.inj hsplit
  obtain ⟨l, ls, hlive⟩ := List.exists_cons_of_ne_nil hl
  have hin : l ∈ g.live := by simp [hlive]
  have hlt := live_lt hg hp hin
  have hthread := threadOf_acted_live (regionOf g join :: g.band.split) (fun t => moved t (f t)) (by rw [hp.2.1]; exact hlt) hin
  refine ⟨l, ⟨(maskOf_regionOf hg hp join l hlt).2 hin, BitVec.getLsbD_zero⟩, hlt, ?_, ?_⟩
  · rw [hthread]
    exact hrun l hin
  · rw [hthread]
    exact nofun

end

/-! ### BRD (R205) -/

theorem readInt_offset (v : BitVec 16) : readInt true 16 v.toNat = v.toInt := by
  rw [readInt_true_eq_bmod (by decide), BitVec.toInt_eq_toNat_bmod]

/-- The join address of BRD, whose offset counts words. -/
theorem joinAddr_eq (addr : DWord) (joff : BitVec 16) :
    wrapNat 64 (addr.toNat + 4 * readInt true 16 joff.toNat) = (addr + joff.signExtend 64 * 4).toNat := by
  rw [readInt_offset, wrapNat_add_signed, mul_comm 4, BitVec.ofInt_mul]
  rfl

theorem brd_splits {s : State} {g : Grp} {tm : Team} (hg : grpOf s = some g) (hp : Placed g) (hl : g.live ≠ [])
    (hreload : g.band.reload = none) (hrun : ∀ l ∈ g.live, (threadOf g.band l).exited = false)
    (hteam : teamOf s g.band.team = some tm) (h16 : g.band.split.length < 16)
    (hdepth : g.band.split.length + g.band.spilled.length < 16 + tm.spillBytes / 16) (o : Brd)
    (hdest : (targetOf g.addr o.off).toNat < 2 ^ 55) (hjoin : (g.addr + (o.joff.signExtend 64) * 4).toNat < 2 ^ 55) :
    SplitStep (.brd o) s g
      (fun st => ∃ e, st = e :: g.band.split ∧ e.join = g.addr + (o.joff.signExtend 64) * 4 ∧ MaskOf e.mask g.live ∧ e.arrived = 0)
      fun _ t t' => t' = moved t (if rdP t o.pa.val ≠ o.neg then targetOf g.addr o.off else g.next) := by
  have hstep := splitStep_of_push hg hteam h16 hdepth hp hl hreload hrun (exec_brd s o)
    (join := (g.addr + (o.joff.signExtend 64) * 4).toNat)
    (f := fun t => if rdP t o.pa.val ≠ o.neg then targetOf g.addr o.off else g.next) fun u v hv => ?_
  · rwa [BitVec.ofNat_toNat, BitVec.setWidth_eq] at hstep
  · have hgood := firstBad_none (as := [(targetOf g.addr o.off).toNat, (g.addr + (o.joff.signExtend 64) * 4).toNat])
      (List.forall_mem_cons.2 ⟨hdest, List.forall_mem_singleton.2 hjoin⟩)
    simp only [branchTo_eq_targetOf, joinAddr_eq, hgood, hv, BitVec.ofNat_toNat, BitVec.setWidth_eq, bne_iff_ne]

/-! ### SWCH (R210) -/

theorem caseOf_eq_find (cases v n i : Nat) :
    caseOf cases v n i = (List.range' i n).find? fun j => decide (v = bitsOf cases (8 * j) 8) := by
  induction n generalizing i with
  | zero => rfl
  | succ n ih =>
    rw [caseOf, List.range'_succ, List.find?_cons, ih]
    by_cases h : v = bitsOf cases (8 * i) 8
    · simp [h]
    · simp [h, Ne.symm h]

/-- The side that SWCH sends a thread to, by the case found. -/
def caseSide (o : Swch) (addr : DWord) : Option Nat → DWord
  | some i => BitVec.ofNat 64 (branchTo addr (o.offs.toList.getD i 0))
  | none => BitVec.ofNat 64 (branchTo addr o.join)

theorem caseSide_caseOf (o : Swch) (addr : DWord) (v : Word) :
    caseSide o addr (caseOf o.cases.toNat v.toNat o.n.val 0) = caseTarget o addr v := by
  rw [caseOf_eq_find, ← List.range_eq_range', caseTarget]
  split
  next i hfound => rw [hfound, caseSide, ofNat_branchTo]
  next hfound => rw [hfound, caseSide, ofNat_branchTo]

theorem swch_splits {s : State} {g : Grp} {tm : Team} (hg : grpOf s = some g) (hp : Placed g) (hl : g.live ≠ [])
    (hreload : g.band.reload = none) (hrun : ∀ l ∈ g.live, (threadOf g.band l).exited = false)
    (hteam : teamOf s g.band.team = some tm) (h16 : g.band.split.length < 16)
    (hdepth : g.band.split.length + g.band.spilled.length < 16 + tm.spillBytes / 16) (o : Swch) (ha : o.a.val < g.band.n)
    (hjoin : (targetOf g.addr o.join).toNat < 2 ^ 55)
    (hcases : ∀ i, i < o.n.val → (targetOf g.addr (o.offs.toList.getD i 0)).toNat < 2 ^ 55) :
    SplitStep (.swch o) s g
      (fun st => ∃ e, st = e :: g.band.split ∧ e.join = targetOf g.addr o.join ∧ MaskOf e.mask g.live ∧ e.arrived = 0)
      fun _ t t' => t' = moved t (caseTarget o g.addr (rdV t o.a.val)) := by
  have hstep := splitStep_of_push hg hteam h16 hdepth hp hl hreload hrun (exec_swch s o) (join := (targetOf g.addr o.join).toNat)
    (f := fun t => caseTarget o g.addr (rdV t o.a.val)) fun u v hv => ?_
  · rwa [BitVec.ofNat_toNat, BitVec.setWidth_eq] at hstep
  · have hgood := firstBad_none (as := (List.range o.n.val).map (fun i => branchTo g.addr (o.offs.toList.getD i 0)) ++
        [branchTo g.addr o.join]) (by
      simp only [List.mem_append, List.mem_map, List.mem_range, List.mem_singleton, branchTo_eq_targetOf]
      rintro a (⟨i, hi, rfl⟩ | rfl)
      · exact hcases i hi
      · exact hjoin)
    have hrange : rangeFault u.tick g.band.n 1 [o.a.val] = none := rangeFault_none (by simpa using ha)
    have hpush : pushRegion u g (branchTo g.addr o.join) = .ok v := by rw [branchTo_eq_targetOf, hv]
    simp only [hrange, hgood, hpush, ← caseSide_caseOf]
    rfl

theorem splitPush : SplitPush := fun _ _ _ hg hp hl hreload hrun hteam h16 hdepth =>
  ⟨brd_splits hg hp hl hreload hrun hteam h16 hdepth, swch_splits hg hp hl hreload hrun hteam h16 hdepth⟩

end Sys2Proof.Proofs
end

section
/-! SUPPORT. BRK and EXIT (R208, R212), and JOIN (R206), with the split stack in hardware. -/

namespace Sys2Proof.Proofs

open Sys2Proof.Machine Sys2Proof.Claims

/-- The top entry waits for a thread outside the group that runs: it does so whatever the group's instruction makes of P, where it
leaves the lanes outside P in the entry. -/
theorem topAwake_acted {s : State} {g : Grp} (hg : grpOf s = some g) {st : List SplitEntry} (f : Thread → Thread)
    (h : ∀ e rest, st = e :: rest → ∃ l, WaitsFor e l ∧ l ∉ g.lanes ∧ Awake g.band l) : TopAwake (acted g st f) := by
  intro e rest hst
  obtain ⟨l, hwaits, hout, hawake⟩ := h e rest hst
  exact ⟨l, hwaits, awake_acted hg hout hawake st f⟩

/-! ### BRK (R208) -/

/-- An entry without some lanes. -/
def without (ls : List Nat) (e : SplitEntry) : SplitEntry :=
  { e with mask := e.mask &&& ~~~ BitVec.ofNat 32 (laneMask ls), arrived := e.arrived &&& ~~~ BitVec.ofNat 32 (laneMask ls) }

theorem getLsbD_and_not_laneMask (m : Word) {ls : List Nat} (hls : ls.Pairwise (· < ·)) {l : Nat} (hl : l < 32) :
    (m &&& ~~~ BitVec.ofNat 32 (laneMask ls)).getLsbD l = (m.getLsbD l && decide (l ∉ ls)) := by
  rw [BitVec.getLsbD_and, BitVec.getLsbD_not, BitVec.getLsbD_ofNat, testBit_laneMask hls]
  simp [hl]

/-- A stack without some lanes in its top `n` entries. -/
def withoutTop (ls : List Nat) (n : Nat) (st : List SplitEntry) : List SplitEntry := (st.take n).map (without ls) ++ st.drop n

theorem withoutTop_length (ls : List Nat) (n : Nat) (st : List SplitEntry) : (withoutTop ls n st).length = st.length := by
  rw [withoutTop, List.length_append, List.length_map, ← List.length_append, List.take_append_drop]

theorem withoutTop_getElem? (ls : List Nat) (n : Nat) {st : List SplitEntry} {j : Nat} {e : SplitEntry} (h : st[j]? = some e) :
    (withoutTop ls n st)[j]? = some (if j < n then without ls e else e) := by
  obtain ⟨hj, -⟩ := List.getElem?_eq_some_iff.1 h
  split
  next hn =>
    rw [withoutTop, List.getElem?_append_left (by simp; omega), List.getElem?_map, List.getElem?_take_of_lt hn, h]
    rfl
  next hn =>
    have hlen : ((st.take n).map (without ls)).length = n := by simp; omega
    rw [withoutTop, List.getElem?_append_right (by omega), hlen, List.getElem?_drop, Nat.add_sub_of_le (not_lt.1 hn), h]

/-- An entry of the stack after BRK, lane by lane. -/
theorem withoutTop_entry {ls : List Nat} (hls : ls.Pairwise (· < ·)) (n j : Nat) (e : SplitEntry) :
    let e' := if j < n then without ls e else e
    e'.join = e.join ∧ ∀ l, l < 32 →
      (e'.mask.getLsbD l = (e.mask.getLsbD l && (decide (n ≤ j) || decide (l ∉ ls)))) ∧
      (e'.arrived.getLsbD l = (e.arrived.getLsbD l && (decide (n ≤ j) || decide (l ∉ ls)))) := by
  intro e'
  dsimp only [e']
  split
  next hn =>
    have hnj : decide (n ≤ j) = false := decide_eq_false (not_le.2 hn)
    refine ⟨rfl, fun l hl => ?_⟩
    rw [hnj, Bool.false_or]
    exact ⟨getLsbD_and_not_laneMask _ hls hl, getLsbD_and_not_laneMask _ hls hl⟩
  next hn =>
    have hnj : decide (n ≤ j) = true := decide_eq_true (not_lt.1 hn)
    simp [hnj]

/-- The band after BRK has taken the threads of P out of the top entries. -/
def brokenOut (g : Grp) (n : Nat) : Band := { pastIdle g with split := withoutTop g.live n (pastIdle g).split }

theorem clearSpilled_none {s : State} {k : Nat} {b : Band} (hb : bandOf s k = some b) (h : b.spilled = []) (core : Nat) (mask : Bool)
    (ls : List Nat) (n : Nat) : clearSpilled core mask ls n s k = s := by
  simp only [clearSpilled, hb, h, changeSpilled]

section
variable {s : State} {g : Grp} (hg : grpOf s = some g) (hp : Placed g) (hl : g.live ≠ []) (hspill : NoSpill g.band)
  (hrest : ∀ e rest, g.band.split = e :: rest → ∃ l, WaitsFor e l ∧ l ∉ g.lanes ∧ Awake g.band l)
include hg hp hl hspill hrest

theorem brk_breaks {o : Brk} (h0 : 0 < o.n.val) (hn : o.n.val ≤ g.band.split.length)
    (hdest : (targetOf g.addr o.off).toNat < 2 ^ 55) :
    SplitStep (.brk o) s g
      (fun st => st.length = g.band.split.length ∧ ∀ j e, g.band.split[j]? = some e → ∃ e', st[j]? = some e' ∧
        e'.join = e.join ∧ ∀ l, l < 32 →
          (e'.mask.getLsbD l = (e.mask.getLsbD l && (decide (o.n.val ≤ j) || decide (l ∉ g.live)))) ∧
          (e'.arrived.getLsbD l = (e.arrived.getLsbD l && (decide (o.n.val ≤ j) || decide (l ∉ g.live)))))
      fun _ t t' => t' = moved t (targetOf g.addr o.off) := by
  have hpair := live_pairwise hg hp
  obtain ⟨hspilled, hreload⟩ := hspill
  have hgood : decide (Config.vaLimit ≤ (targetOf g.addr o.off).toNat) = false := decide_eq_false (not_le.2 hdest)
  have hdeep : ¬ depthOf (pastIdle g) < o.n.val := not_lt.2 (hn.trans (Nat.le_add_right ..))
  refine splitStep_of_settle hg hl hreload (st := withoutTop g.live o.n.val g.band.split)
    (f := fun t => moved t (targetOf g.addr o.off)) (exec_brk s o) (fun u hu => ?_) ?_
    ⟨withoutTop_length .., fun j e hj => ⟨_, withoutTop_getElem? _ _ hj, withoutTop_entry hpair ..⟩⟩ fun _ => rfl
  · have hclear := clearSpilled_none (bandOf_setBand u g.key (brokenOut g o.n.val)) hspilled g.core true g.live
      (o.n.val - (pastIdle g).split.length)
    refine ⟨_, (bandBecomes_setBand u g.key (brokenOut g o.n.val)).trans (bandBecomes_setBand ..), ?_⟩
    trans .ok (settle (gotoBand (clearSpilled g.core true g.live (o.n.val - (pastIdle g).split.length)
      (setBand u g.key (brokenOut g o.n.val)) g.key) g.key g.live (targetOf g.addr o.off)) g.key g.live g.word)
    · simp only [branchTo_eq_targetOf, hgood, Bool.false_eq_true, if_false, hu.2, hdeep, BitVec.ofNat_toNat, BitVec.setWidth_eq]
      rfl
    · rw [hclear]
      simp only [gotoBand, bandOf_setBand]
      rfl
  · refine topAwake_acted hg _ fun e rest hst => ?_
    cases hsplit : g.band.split with
    | nil => rw [hsplit] at hn; exact absurd h0 (not_lt.2 hn)
    | cons e0 rest0 =>
      obtain ⟨l, ⟨hmask, harrived⟩, hout, hawake⟩ := hrest e0 rest0 hsplit
      have htop : e = without g.live e0 := by
        have := withoutTop_getElem? g.live o.n.val (st := g.band.split) (j := 0) (e := e0) (by rw [hsplit]; rfl)
        rw [hst, if_pos h0] at this
        exact Option.some.inj this
      have hnot : decide (l ∉ g.live) = true := decide_eq_true fun h => hout (grpOf_live hg h)
      refine ⟨l, ⟨?_, ?_⟩, hout, hawake⟩
      · rw [htop, without, getLsbD_and_not_laneMask _ hpair hawake.1, hmask, hnot]
        rfl
      · rw [htop, without, getLsbD_and_not_laneMask _ hpair hawake.1, harrived, Bool.false_and]

/-! ### EXIT (R212) -/

omit hp in
theorem exit_exits : SplitStep .exitC s g (fun st => st = g.band.split) fun _ t t' => t' = { t with exited := true, wait := .ready } := by
  obtain ⟨guard, hcur⟩ := grpOf_cur hg
  refine splitStep_of_settle hg hl hspill.2 (st := g.band.split) (f := fun t => { t with exited := true, wait := .ready })
    (by rw [exec_exitC, execExitC, hcur]) (fun u hu => ⟨_, bandBecomes_setBand .., ?_⟩) (topAwake_acted hg _ hrest) rfl fun _ => rfl
  simp only [hu.2]
  rfl

end

theorem breakAndExit : BreakAndExit := fun _ _ hg hp hl hspill =>
  ⟨fun _ h0 hn hdest hrest => brk_breaks hg hp hl hspill hrest h0 hn hdest, exit_exits hg hl hspill⟩

/-! ### JOIN (R206) -/

theorem mapFrom_mapFrom {α β γ : Type} (f : Nat → β → γ) (h : Nat → α → β) (i : Nat) (xs : List α) :
    mapFrom f i (mapFrom h i xs) = mapFrom (fun j x => f j (h j x)) i xs := by
  induction xs generalizing i with
  | nil => rfl
  | cons x xs ih => rw [mapFrom, mapFrom, mapFrom, ih]

/-- Lanes changed one after the other, by a change that made twice is the same, are changed together. -/
theorem onLanes_cons {b : Band} {l : Nat} {ls : List Nat} {f : Thread → Thread} (hf : ∀ t, f (f t) = f t) :
    onLanes (onLanes b [l] fun _ => f) ls (fun _ => f) = onLanes b (l :: ls) fun _ => f := by
  have hcomp : (fun (i : Nat) (t : Thread) => if ls.contains i then f (if [l].contains i then f t else t)
      else if [l].contains i then f t else t) = fun i t => if (l :: ls).contains i then f t else t := by
    funext i t
    by_cases hls : i ∈ ls <;> by_cases hl : i = l <;> simp [hls, hl, hf]
  simp only [onLanes, mapFrom_mapFrom, hcomp]

theorem gotoLanes_cons (b : Band) (l : Nat) (ls : List Nat) (pc : DWord) :
    gotoLanes (gotoLanes b [l] pc) ls pc = gotoLanes b (l :: ls) pc := onLanes_cons (f := (moved · pc)) fun _ => rfl

/-- Threads that meet a JOIN of no entry of the stack go on. -/
theorem foldl_joinLane_outside {g : Grp} (ls : List Nat) {u : State} {b : Band} (hu : bandOf u g.key = some b)
    (hspilled : b.spilled = []) (hsplit : ∀ e ∈ b.split, e.join ≠ g.addr) :
    BandBecomes u (ls.foldl (joinLane g) u) g.key (gotoLanes b ls g.next) := by
  induction ls generalizing u b with
  | nil =>
    rw [gotoLanes, onLanes_nil]
    exact bandBecomes_refl hu
  | cons l ls ih =>
    have hnone : b.split.findIdx? (fun e => inMask e.mask l && e.join == g.addr) = none :=
      List.findIdx?_eq_none_iff.2 fun e he => by simp [hsplit e he]
    have hlane : joinLane g u l = setBand u g.key (gotoLanes b [l] g.next) := by
      simp only [joinLane, hu, hnone, hspilled, List.findIdx?_nil, gotoBand]
    rw [List.foldl_cons, hlane, ← gotoLanes_cons b l ls]
    exact (bandBecomes_setBand ..).trans (ih (b := gotoLanes b [l] g.next) (bandOf_setBand ..) hspilled hsplit)

/-- A thread waits at a JOIN where it has arrived in order. -/
def atJoin (now : Nat) (t : Thread) : Thread := { t with wait := .join now false }

/-- An entry with a thread arrived. -/
def arriving (e : SplitEntry) (l : Nat) : SplitEntry := { e with arrived := e.arrived ||| BitVec.ofNat 32 (2 ^ l) }

theorem foldl_arriving (ls : List Nat) (e : SplitEntry) :
    (ls.foldl arriving e).join = e.join ∧ (ls.foldl arriving e).mask = e.mask ∧
      ∀ l, l < 32 → ((ls.foldl arriving e).arrived.getLsbD l = true ↔ e.arrived.getLsbD l = true ∨ l ∈ ls) := by
  induction ls generalizing e with
  | nil => simp
  | cons i ls ih =>
    obtain ⟨hjoin, hmask, harrived⟩ := ih (arriving e i)
    refine ⟨hjoin, hmask, fun l hl => (harrived l hl).trans ?_⟩
    have hbit : (BitVec.ofNat 32 (2 ^ i)).getLsbD l = decide (i = l) := by
      rw [BitVec.getLsbD_ofNat, Nat.testBit_two_pow]
      simp [hl]
    rw [arriving, BitVec.getLsbD_or, hbit, List.mem_cons]
    simp only [Bool.or_eq_true, decide_eq_true_eq, or_assoc, @eq_comm _ i l]

/-- Threads of the top entry that meet its JOIN arrive and wait. -/
theorem foldl_joinLane_top {g : Grp} {now : Nat} {rest : List SplitEntry} (ls : List Nat) {u : State} {b : Band} {e : SplitEntry}
    (hu : bandOf u g.key = some b) (hnow : u.now = now) (hsplit : b.split = e :: rest) (hjoin : e.join = g.addr)
    (hmask : ∀ l ∈ ls, e.mask.getLsbD l = true) :
    BandBecomes u (ls.foldl (joinLane g) u) g.key
      (onLanes { b with split := ls.foldl arriving e :: rest } ls fun _ => atJoin now) := by
  induction ls generalizing u b e with
  | nil =>
    rw [onLanes_nil]
    refine bandBecomes_refl (hu.trans ?_)
    rw [List.foldl_nil, ← hsplit]
  | cons l ls ih =>
    have hlane : joinLane g u l = setBand u g.key (onLanes { b with split := arriving e l :: rest } [l] fun _ => atJoin now) := by
      have hl : e.mask.getLsbD l = true := hmask l (List.mem_cons_self ..)
      simp only [joinLane, hu, hsplit, List.findIdx?_cons, inMask, hl, hjoin, hnow, BEq.rfl, Bool.and_self, if_true]
      rfl
    have hrest := ih (u := joinLane g u l) (b := onLanes { b with split := arriving e l :: rest } [l] fun _ => atJoin now)
      (by rw [hlane]; exact bandOf_setBand ..) (by rw [hlane]; exact hnow) rfl hjoin fun i hi => hmask i (List.mem_cons_of_mem _ hi)
    rw [List.foldl_cons, List.foldl_cons, ← onLanes_cons (f := atJoin now) fun _ => rfl]
    exact (hlane ▸ bandBecomes_setBand ..).trans hrest

/-- A thread sent to an address is there whatever the instruction had made of its program counter and its wait. -/
theorem moved_acted {g : Grp} (st : List SplitEntry) {f : Thread → Thread} {pc : DWord}
    (hf : ∀ t, moved (f t) pc = moved t pc) {l : Nat} (hl : l < g.band.threads.length) :
    moved (threadOf (acted g st f) l) pc = moved (threadOf g.band l) pc := by
  by_cases hlive : l ∈ g.live
  · rw [threadOf_acted_live st f hl hlive, hf]
  · by_cases hin : l ∈ g.lanes
    · rw [threadOf_acted_idle st f hl hin hlive]
      rfl
    · rw [threadOf_acted_outside st f hin hlive]

theorem threadOf_popped {b : Band} {e : SplitEntry} (rest : List SplitEntry) {l : Nat} (hl : l < b.threads.length)
    (h : l ∈ running b e) : threadOf (popped b e rest) l = moved (threadOf b l) (e.join + 4) :=
  threadOf_onLanes_in b _ h hl

/-- The band with the threads of P arrived at its top entry. -/
def arrivedBand (g : Grp) (now : Nat) (e : SplitEntry) (rest : List SplitEntry) : Band :=
  acted g (g.live.foldl arriving e :: rest) (atJoin now)

section
variable {g : Grp} (hp : Placed g) (now : Nat) (e : SplitEntry) (rest : List SplitEntry) {l : Nat}
include hp

theorem mem_running_arrivedBand : l ∈ running (arrivedBand g now e rest) (g.live.foldl arriving e) ↔
    l < 32 ∧ e.mask.getLsbD l = true ∧ (threadOf g.band l).exited = false := by
  rw [mem_running, (foldl_arriving g.live e).2.1]
  refine and_congr_right fun hl => ?_
  have hexited : (threadOf (arrivedBand g now e rest) l).exited = (threadOf g.band l).exited := by
    have hmoved := moved_acted (g.live.foldl arriving e :: rest) (f := atJoin now) (pc := 0) (fun _ => rfl) (hp.2.1 ▸ hl)
    have hsame := congrArg Thread.exited hmoved
    exact hsame
  rw [hexited]

/-- The threads that the entry releases go on behind the JOIN. -/
theorem threadOf_popped_arrivedBand (hl : l < 32) (hmask : e.mask.getLsbD l = true) (hexited : (threadOf g.band l).exited = false) :
    threadOf (popped (arrivedBand g now e rest) (g.live.foldl arriving e) rest) l = moved (threadOf g.band l) (e.join + 4) := by
  rw [threadOf_popped rest (by rw [arrivedBand, acted_length, hp.2.1]; exact hl)
    ((mem_running_arrivedBand hp now e rest).2 ⟨hl, hmask, hexited⟩), arrivedBand, moved_acted _ (f := atJoin now) (fun _ => rfl) (hp.2.1 ▸ hl),
    (foldl_arriving g.live e).1]

end

section
variable {s : State} {g : Grp} (hg : grpOf s = some g) (hl : g.live ≠ []) (hspill : NoSpill g.band)
include hg hl hspill

theorem join_passes (hp : Placed g) (houtside : ∀ e ∈ g.band.split, e.join ≠ g.addr)
    (hrest : ∀ e rest, g.band.split = e :: rest →
      ∃ l, WaitsFor e l ∧ l < 32 ∧ (threadOf g.band l).exited = false ∧ (l ∈ g.live ∨ Awake g.band l)) :
    SplitStep .joinC s g (fun st => st = g.band.split) fun _ t t' => t' = moved t g.next := by
  refine splitStep_of_settle hg hl hspill.2 (st := g.band.split) (f := (moved · g.next)) (exec_joinC s)
    (fun u hu => ⟨_, foldl_joinLane_outside g.live hu.2 hspill.1 houtside, rfl⟩) ?_ rfl fun _ => rfl
  intro e rest hsplit
  obtain ⟨l, hwaits, hlt, hexited, hwhere⟩ := hrest e rest hsplit
  have hlen : l < g.band.threads.length := hp.2.1 ▸ hlt
  refine ⟨l, hwaits, ?_⟩
  by_cases hlive : l ∈ g.live
  · rw [Awake, threadOf_acted_live _ _ hlen hlive]
    exact ⟨hlt, hexited, nofun⟩
  · by_cases hin : l ∈ g.lanes
    · rw [Awake, threadOf_acted_idle _ _ hlen hin hlive]
      exact ⟨hlt, hexited, nofun⟩
    · exact awake_acted hg hin (hwhere.resolve_left hlive) _ _

theorem join_waits {e : SplitEntry} {rest : List SplitEntry} (hsplit : g.band.split = e :: rest) (hjoin : e.join = g.addr)
    (hmask : ∀ l ∈ g.live, e.mask.getLsbD l = true) (hrest : ∃ l, WaitsFor e l ∧ l ∉ g.lanes ∧ Awake g.band l) :
    SplitStep .joinC s g
      (fun st => ∃ e', st = e' :: rest ∧ e'.join = e.join ∧ e'.mask = e.mask ∧
        ∀ l, l < 32 → (e'.arrived.getLsbD l = true ↔ e.arrived.getLsbD l = true ∨ l ∈ g.live))
      fun _ t t' => t' = { t with wait := .join s.now false } := by
  obtain ⟨hjoin', hmask', harrived'⟩ := foldl_arriving g.live e
  refine splitStep_of_settle hg hl hspill.2 (st := g.live.foldl arriving e :: rest) (f := atJoin s.now) (exec_joinC s)
    (fun u hu => ⟨_, foldl_joinLane_top g.live hu.2 (by rw [hu.1.rest]) hsplit hjoin hmask, rfl⟩) ?_
    ⟨_, rfl, hjoin', hmask', harrived'⟩ fun _ => rfl
  refine topAwake_acted hg _ ?_
  rintro e1 rest1 h
  obtain ⟨rfl, rfl⟩ := List.cons.inj h
  obtain ⟨l, ⟨hm, ha⟩, hout, hawake⟩ := hrest
  refine ⟨l, ⟨hmask' ▸ hm, ?_⟩, hout, hawake⟩
  rw [← Bool.not_eq_true, harrived' l hawake.1, ha]
  simpa using fun h => hout (grpOf_live hg h)

theorem join_releases (hp : Placed g) {e : SplitEntry} {rest : List SplitEntry} (hsplit : g.band.split = e :: rest)
    (hjoin : e.join = g.addr) (hmask : ∀ l ∈ g.live, e.mask.getLsbD l = true)
    (hlast : ∀ l, l < 32 → WaitsFor e l → (threadOf g.band l).exited = false → l ∈ g.live)
    (hrun : ∀ l ∈ g.live, (threadOf g.band l).exited = false)
    (hnext : ∀ f r, rest = f :: r → ∃ l, l < 32 ∧ WaitsFor f l ∧ e.mask.getLsbD l = true ∧ (threadOf g.band l).exited = false) :
    ∃ t b', exec .joinC s = .next t ∧ OnlyBand s t g.key ∧ bandOf t g.key = some b' ∧
      b' = { g.band with threads := b'.threads, split := rest } ∧
      ∀ l, l < 32 → e.mask.getLsbD l = true → (threadOf g.band l).exited = false →
        threadOf b' l = moved (threadOf g.band l) (g.addr + 4) := by
  have hpopped := fun l hlt hm hx => hjoin ▸ threadOf_popped_arrivedBand hp s.now e rest (l := l) hlt hm hx
  have hrunning := fun l => mem_running_arrivedBand hp s.now e rest (l := l)
  have hne : running (arrivedBand g s.now e rest) (g.live.foldl arriving e) ≠ [] := by
    obtain ⟨l, hlive⟩ := List.exists_mem_of_ne_nil _ hl
    exact List.ne_nil_of_mem ((hrunning l).2 ⟨live_lt hg hp hlive, hmask l hlive, hrun l hlive⟩)
  have hall : ∀ l ∈ running (arrivedBand g s.now e rest) (g.live.foldl arriving e),
      (g.live.foldl arriving e).arrived.getLsbD l = true := by
    intro l h
    obtain ⟨hlt, hm, hx⟩ := (hrunning l).1 h
    refine ((foldl_arriving g.live e).2.2 l hlt).2 ?_
    by_cases ha : e.arrived.getLsbD l = true
    · exact .inl ha
    · exact .inr (hlast l hlt ⟨hm, Bool.eq_false_of_not_eq_true ha⟩ hx)
  have hawake : TopAwake (popped (arrivedBand g s.now e rest) (g.live.foldl arriving e) rest) := by
    intro f r hf
    obtain ⟨l, hlt, hwaits, hm, hx⟩ := hnext f r hf
    refine ⟨l, hwaits, ?_⟩
    rw [Awake, hpopped l hlt hm hx]
    exact ⟨hlt, hx, nofun⟩
  obtain ⟨t, hexec, honly, hband⟩ := exec_of_perGroupTo hg hl (exec_joinC s) fun u hu => by
    have hv : BandBecomes u (g.live.foldl (joinLane g) u) g.key (arrivedBand g s.now e rest) :=
      foldl_joinLane_top g.live hu.2 (by rw [hu.1.rest]) hsplit hjoin hmask
    exact ⟨_, rfl, hv.trans (settle_pops hv.2 hspill rfl hne hall hawake g.live g.word)⟩
  exact ⟨t, _, hexec, honly, hband, rfl, hpopped⟩

end

theorem joins : Joins := fun _ _ _ hg hp hl hspill _ =>
  ⟨join_passes hg hl hspill hp, fun _ _ hsplit hjoin hmask hrest => join_waits hg hl hspill hsplit hjoin hmask hrest,
    fun _ _ => join_releases hg hl hspill hp⟩

/-- Settles O20: an instruction leaves the threads of P and the stack as stated, and the settle after it either finds a top entry that
waits for a thread that runs, or pops the one whose last thread has arrived. -/
theorem splitStack : Obligations.SplitStack := ⟨splitPush, breakAndExit, joins⟩

end Sys2Proof.Proofs
end

section
/-! SUPPORT. Hardware loops (R216, R217): the entry that LOOP pushes, and what the end of a body makes of the top entry. -/

namespace Sys2Proof.Proofs

open Sys2Proof.Machine Sys2Proof.Claims

/-! ### LOOP (R216) -/

/-- The entry that LOOP pushes. -/
def loopEntry (o : Sys2Proof.Loop) (g : Grp) : LoopEntry :=
  { start := g.next, fin := targetOf g.addr o.off, remaining := BitVec.ofNat 32 (loopCount g.band o.count) }

/-- The band with that entry on top. -/
def entered (o : Sys2Proof.Loop) (g : Grp) : Band := { pastIdle g with loops := loopEntry o g :: g.band.loops }

/-- What LOOP with a count does once its group's threads with a false guard have gone on. -/
theorem loop_enters {s : State} {g : Grp} {tm : Team} {o : Sys2Proof.Loop} (hg : grpOf s = some g) (hl : g.live ≠ [])
    (hteam : teamOf s g.band.team = some tm) (h4 : g.band.loops.length < 4) (hcount : loopCount g.band o.count ≠ 0) :
    ∃ t, exec (.loop o) s = .next t ∧ BandBecomes s t g.key (gotoLanes (entered o g) g.live g.next) := by
  have hroom : ¬ 4 ≤ (pastIdle g).loops.length := not_le.2 h4
  obtain ⟨count, off⟩ := o
  refine exec_of_perGroupTo hg hl (exec_loop s _) fun u hu =>
    ⟨_, ?_, (bandBecomes_setBand u g.key (entered ⟨count, off⟩ g)).trans (bandBecomes_setBand ..)⟩
  cases count <;>
  · simp only [loopCount] at hcount
    simp only [hu.2, (teamOf_of_onlyBand hu.1 _).trans hteam, hroom, hcount, if_false, ofNat_branchTo, gotoBand, bandOf_setBand]
    rfl

theorem loopStart : LoopStart := by
  intro s g tm o hg hl hteam h4 hcount
  obtain ⟨t, hexec, honly, hband⟩ := loop_enters hg hl hteam h4 hcount
  have hby := bystanders_acted hg g.band.split (moved · g.next)
  exact ⟨t, _, hexec, honly, hband, rfl, ⟨hby.size, hby.outside, hby.idle⟩,
    fun l hlt hlive => threadOf_acted_live g.band.split (moved · g.next) hlt hlive⟩

/-! ### The end of a body (R217) -/

theorem evalLoops_other (fuel : Nat) {s : State} {k : Nat} {at_ : DWord} {b : Band} (hb : bandOf s k = some b)
    (h : ∀ f r, b.loops = f :: r → f.fin ≠ at_) (gone seq trapped : List Nat) :
    evalLoops fuel s k at_ gone seq trapped = s := by
  cases fuel with
  | zero => rfl
  | succ fuel =>
    cases hloops : b.loops with
    | nil => simp only [evalLoops, hb, hloops]
    | cons f r => simp only [evalLoops, hb, hloops, ne_eq, h f r hloops, not_false_eq_true, if_true]

section
variable {s : State} {k : Nat} {b : Band} {e : LoopEntry} {rest : List LoopEntry} (hb : bandOf s k = some b)
  (hloops : b.loops = e :: rest) (fuel : Nat) {gone seq : List Nat} (trapped : List Nat)
include hb hloops

/-- A taken branch removes the entry. -/
theorem evalLoops_branched (hgone : gone ≠ []) : evalLoops (fuel + 1) s k e.fin gone seq trapped =
    evalLoops fuel (setBand s k { b with loops := rest }) k e.fin gone seq trapped := by
  have hgone' : gone.isEmpty = false := by simpa using hgone
  rw [evalLoops]
  simp only [hb, hloops, hgone', ne_eq, not_true_eq_false, if_false, Bool.not_false, if_true]

/-- The last pass removes the entry. -/
theorem evalLoops_last (hseq : seq ≠ []) (hlast : e.remaining = 1) : evalLoops (fuel + 1) s k e.fin [] seq trapped =
    evalLoops fuel (setBand s k { b with loops := rest }) k e.fin [] seq trapped := by
  have hseq' : seq.isEmpty = false := by simpa using hseq
  rw [evalLoops]
  simp only [hb, hloops, hseq', hlast, ne_eq, not_true_eq_false, List.isEmpty_nil, Bool.not_true, Bool.false_eq_true, if_false, if_true]

/-- Another pass. -/
theorem evalLoops_again (hseq : seq ≠ []) (hmore : e.remaining ≠ 1) : evalLoops (fuel + 1) s k e.fin [] seq [] =
    setBand s k (onLanes { b with loops := { e with remaining := e.remaining - 1 } :: rest } seq fun _ t => { t with pc := e.start }) := by
  have hseq' : seq.isEmpty = false := by simpa using hseq
  rw [evalLoops]
  simp only [hb, hloops, hseq', hmore, ne_eq, not_true_eq_false, List.isEmpty_nil, Bool.not_true, Bool.false_eq_true, if_false,
    List.contains_nil]

end

theorem loopEnd : LoopEnd := by
  intro s k b e rest gone seq hb hloops hrest
  have hstops : evalLoops 4 (setBand s k { b with loops := rest }) k e.fin gone seq [] = setBand s k { b with loops := rest } :=
    evalLoops_other 4 (bandOf_setBand ..) hrest gone seq []
  refine ⟨fun hends => ?_, ?_⟩
  · by_cases hgone : gone = []
    · subst hgone
      obtain ⟨hseq, hlast⟩ := hends.resolve_left (not_not_intro rfl)
      rw [evalLoops_last hb hloops 4 [] hseq hlast, hstops]
    · rw [evalLoops_branched hb hloops 4 [] hgone, hstops]
  · rintro rfl hseq hmore
    refine ⟨_, evalLoops_again hb hloops 4 hseq hmore, rfl, fun l hl hin => ?_, fun l hout => ?_⟩
    · exact threadOf_onLanes_in _ _ hin hl
    · exact threadOf_onLanes_out _ _ hout

/-- Settles O22: LOOP pushes on the band of its group, and one evaluation of the top entry either removes it, and finds no other that
ends there, or starts the next pass. -/
theorem loops : Obligations.Loops := ⟨loopStart, loopEnd⟩

end Sys2Proof.Proofs
end

section
/-! SUPPORT. CleanBelow of all (R268): each byte that has a dirty copy above the point is passed down its path, so that none is left
there and the byte at the point is what its uppermost dirty copy was. -/

namespace Sys2Proof.Proofs

open Sys2Proof.Machine Sys2Proof.Claims

/-! ### What paths and copies depend on (R245, R266, R267) -/

/-- The pages have the homes that they had. -/
structure SameHomes (s t : State) : Prop where
  remap : t.remap = s.remap
  modules : ∀ h, (hingeOf t h).modules = (hingeOf s h).modules

theorem SameHomes.refl (s : State) : SameHomes s s := ⟨rfl, fun _ => rfl⟩

theorem SameHomes.trans {s t u : State} (h : SameHomes s t) (h' : SameHomes t u) : SameHomes s u :=
  ⟨h'.remap.trans h.remap, fun n => (h'.modules n).trans (h.modules n)⟩

section
variable {s t : State} (h : SameHomes s t)
include h

theorem SameHomes.moduleOf (k : Nat) : moduleOf t k = moduleOf s k := by
  rw [Machine.moduleOf, Machine.moduleOf, h.modules]

theorem SameHomes.installedPages : installedPages t = installedPages s := by
  simp only [Machine.installedPages, h.moduleOf]

theorem SameHomes.moduleFrame (fuel k i : Nat) : moduleFrame t fuel k i = moduleFrame s fuel k i := by
  induction fuel generalizing k i with
  | zero => rfl
  | succ fuel ih => simp only [Machine.moduleFrame, h.moduleOf, ih]

theorem SameHomes.defaultPlace (ppn : Nat) : defaultPlace t ppn = defaultPlace s ppn := by
  have hframes : frameNumber t = frameNumber s := by
    funext i
    simp only [frameNumber, h.moduleFrame]
  rw [Machine.defaultPlace, hframes, h.installedPages]
  rfl

theorem SameHomes.homeOfPage (ppn : Nat) : homeOfPage t ppn = homeOfPage s ppn := by
  simp only [Machine.homeOfPage, placeOfPage, h.remap, h.defaultPlace]

theorem SameHomes.remote (hinge a : Nat) : remote t hinge a = remote s hinge a := by
  simp only [Machine.remote, h.homeOfPage]

theorem SameHomes.path (ag : Agent) (a : Nat) : path t ag a = path s ag a := by
  simp only [Machine.path, h.remote]

theorem SameHomes.pathAbove (ag : Agent) (sc : Scope) (a : Nat) : pathAbove t ag sc a = pathAbove s ag sc a := by
  have hrank : scopeRank t ag sc a = scopeRank s ag sc a := by simp only [scopeRank, h.remote]
  simp only [Machine.pathAbove, h.path, hrank]

end

/-- A byte has the copies that it had, and the value that it had at home. -/
structure SameByte (s t : State) (a : Nat) : Prop where
  copies : ∀ l, copyAt t l a = copyAt s l a
  home : homeByte t a = homeByte s a

theorem SameByte.lookByte {s t : State} {a : Nat} (h : SameByte s t a) (p : List Level) (n : Nat) :
    lookByte t a p n = lookByte s a p n := by
  induction p generalizing n with
  | nil => exact congrArg (·, n) h.home
  | cons l p ih =>
    simp only [Machine.lookByte, h.copies, ih]

theorem SameByte.pointByte {s t : State} {a : Nat} (h : SameByte s t a) (hhomes : SameHomes s t) (ag : Agent) (sc : Scope) :
    pointByte t ag sc a = pointByte s ag sc a := by
  simp only [Claims.pointByte, hhomes.pathAbove, h.copies, h.lookByte]

theorem SameByte.noDirtyAbove {s t : State} {a : Nat} (h : SameByte s t a) (hhomes : SameHomes s t) {ag : Agent} {sc : Scope}
    (hs : NoDirtyAbove s ag sc a) : NoDirtyAbove t ag sc a := by
  simpa only [NoDirtyAbove, hhomes.pathAbove, h.copies] using hs

/-! ### What CleanBelow changes -/

/-- Nothing changes but bytes at home, copies, and counters of cores and clusters. -/
structure CopiesOnly (s t : State) : Prop where
  frame : t = { s with mem := t.mem, cores := t.cores, clusters := t.clusters, hinges := t.hinges }
  hinge : ∀ h, hingeOf t h = { hingeOf s h with link := (hingeOf t h).link }

theorem CopiesOnly.refl (s : State) : CopiesOnly s s := ⟨rfl, fun _ => rfl⟩

theorem CopiesOnly.trans {s t u : State} (h : CopiesOnly s t) (h' : CopiesOnly t u) : CopiesOnly s u :=
  ⟨h'.frame.trans (by rw [h.frame]), fun n => (h'.hinge n).trans (by rw [h.hinge])⟩

theorem CopiesOnly.sameHomes {s t : State} (h : CopiesOnly s t) : SameHomes s t :=
  ⟨by rw [h.frame], fun n => by rw [h.hinge]⟩

theorem copiesOnly_setLevel (s : State) (l : Level) (m : AList Copy) : CopiesOnly s (setLevel s l m) := by
  cases l with
  | l1 c => exact ⟨rfl, fun _ => rfl⟩
  | cluster n => exact ⟨rfl, fun _ => rfl⟩
  | link j =>
    refine ⟨rfl, fun n => ?_⟩
    by_cases hn : n = j
    · rw [hn, setLevel, hingeOf_setHinge]
    · rw [setLevel, hingeOf_setHinge_ne s hn]

theorem copiesOnly_homeWrite (s : State) (a : Nat) (bs : List Byte) : CopiesOnly s (homeWrite s a bs) := ⟨rfl, fun _ => rfl⟩

theorem copiesOnly_countBacks (s : State) (k n : Nat) : CopiesOnly s (countBacks s k n) := by
  rw [countBacks]
  split
  · exact .refl s
  · exact ⟨rfl, fun _ => rfl⟩

theorem copyAt_putCopy (s : State) (l : Level) (a : Nat) (c : Copy) : copyAt (putCopy s l a c) l a = some c := by
  rw [copyAt, putCopy, levelMap_setLevel_self, aFind_aInsert_self]

theorem copyAt_putCopy_ne (s : State) {l k : Level} {a b : Nat} (h : k ≠ l ∨ b ≠ a) (c : Copy) :
    copyAt (putCopy s l a c) k b = copyAt s k b := by
  by_cases hk : k = l
  · subst hk
    rw [copyAt, putCopy, levelMap_setLevel_self, aFind_aInsert_ne (h.resolve_left (not_not_intro rfl))]
    rfl
  · rw [copyAt, putCopy, levelMap_setLevel_ne s hk]
    rfl

/-- A dirty copy is handed to the next level of the path, or home, and is clean. -/
def handDown (s : State) (a : Nat) (l : Level) (rest : List Level) (v : Byte) : State :=
  putCopy (match rest with
    | [] => homeWrite s a [v]
    | l2 :: _ => putCopy s l2 a { value := v, dirty := true }) l a { value := v, dirty := false }

theorem cleanByte_dirty {s : State} {a : Nat} {l : Level} {c : Copy} (hc : copyAt s l a = some c) (hd : c.dirty = true)
    (rest : List Level) (n : Nat) : cleanByte a (l :: rest) (n + 1) s = cleanByte a rest n (handDown s a l rest c.value) := by
  rw [cleanByte, hc]
  exact if_pos hd

theorem cleanByte_skip {s : State} {a : Nat} {l : Level} (h : ∀ c, copyAt s l a = some c → c.dirty = false) (rest : List Level)
    (n : Nat) : cleanByte a (l :: rest) (n + 1) s = cleanByte a rest n s := by
  rw [cleanByte]
  split
  next c hc => rw [h c hc, if_neg Bool.false_ne_true]
  next => rfl

theorem copiesOnly_handDown (s : State) (a : Nat) (l : Level) (rest : List Level) (v : Byte) : CopiesOnly s (handDown s a l rest v) := by
  cases rest with
  | nil => exact (copiesOnly_homeWrite s a [v]).trans (copiesOnly_setLevel ..)
  | cons l2 rest => exact (copiesOnly_setLevel ..).trans (copiesOnly_setLevel ..)

theorem putCopy_home (s : State) (l : Level) (a : Nat) (c : Copy) (b : Nat) : homeByte (putCopy s l a c) b = homeByte s b := by
  rw [homeByte, putCopy_mem]
  rfl

/-- Other bytes stay as they were. -/
theorem handDown_others (s : State) {a b : Nat} (h : b ≠ a) (l : Level) (rest : List Level) (v : Byte) :
    SameByte s (handDown s a l rest v) b := by
  cases rest with
  | nil =>
    refine ⟨fun k => copyAt_putCopy_ne _ (.inr h) _, (putCopy_home ..).trans ?_⟩
    exact aGet_writeBytes_out 0 s.mem a [v] (by simp; omega)
  | cons l2 rest =>
    exact ⟨fun k => (copyAt_putCopy_ne _ (.inr h) _).trans (copyAt_putCopy_ne _ (.inr h) _), (putCopy_home ..).trans (putCopy_home ..)⟩

/-- So do levels that are not on the rest of the path, but for the level that hands its copy down. -/
theorem copyAt_handDown_ne (s : State) {a : Nat} {l k : Level} {rest : List Level} (h : k ≠ l) (hrest : k ∉ rest) (v : Byte) :
    copyAt (handDown s a l rest v) k a = copyAt s k a := by
  cases rest with
  | nil => exact copyAt_putCopy_ne _ (.inl h) _
  | cons l2 rest => exact (copyAt_putCopy_ne _ (.inl h) _).trans (copyAt_putCopy_ne _ (.inl (List.ne_of_not_mem_cons hrest)) _)

theorem copyAt_handDown_self (s : State) (a : Nat) (l : Level) (rest : List Level) (v : Byte) :
    copyAt (handDown s a l rest v) l a = some { value := v, dirty := false } := copyAt_putCopy ..

theorem copyAt_handDown_next (s : State) (a : Nat) {l l2 : Level} (h : l2 ≠ l) (rest : List Level) (v : Byte) :
    copyAt (handDown s a l (l2 :: rest) v) l2 a = some { value := v, dirty := true } :=
  (copyAt_putCopy_ne _ (.inl h) _).trans (copyAt_putCopy ..)

theorem handDown_home (s : State) (a : Nat) (l : Level) (v : Byte) : homeByte (handDown s a l [] v) a = v :=
  (putCopy_home ..).trans (aGet_writeBytes_in 0 s.mem a [v] (i := 0) (by simp))

/-- CleanBelow for one byte keeps what each of its hand-downs keeps. -/
theorem cleanByte_induction {a : Nat} {R : State → Prop} {p : List Level}
    (hR : ∀ s l rest v, l :: rest <:+ p → R s → R (handDown s a l rest v)) (n : Nat) {s : State} (hs : R s) : R (cleanByte a p n s) := by
  induction p generalizing n s with
  | nil => exact hs
  | cons l rest ih =>
    have hrest : ∀ u k ks v, k :: ks <:+ rest → R u → R (handDown u a k ks v) := fun u k ks v hks =>
      hR u k ks v (hks.trans (List.suffix_cons l rest))
    cases n with
    | zero => exact hs
    | succ n =>
      by_cases h : ∀ c, copyAt s l a = some c → c.dirty = false
      · rw [cleanByte_skip h]
        exact ih hrest n hs
      · push Not at h
        obtain ⟨c, hc, hd⟩ := h
        rw [cleanByte_dirty hc (Bool.eq_true_of_not_eq_false hd)]
        exact ih hrest n (hR s l rest c.value List.suffix_rfl hs)

theorem copiesOnly_cleanByte (s : State) (a : Nat) (p : List Level) (n : Nat) : CopiesOnly s (cleanByte a p n s) :=
  cleanByte_induction (R := CopiesOnly s) (fun u l rest v _ h => h.trans (copiesOnly_handDown u a l rest v)) n (.refl s)

theorem cleanByte_others (s : State) {a b : Nat} (h : b ≠ a) (p : List Level) (n : Nat) : SameByte s (cleanByte a p n s) b :=
  cleanByte_induction (R := fun u => SameByte s u b)
    (fun u l rest v _ hu => ⟨fun k => ((handDown_others u h l rest v).copies k).trans (hu.copies k),
      (handDown_others u h l rest v).home.trans hu.home⟩) n ⟨fun _ => rfl, rfl⟩

theorem copyAt_cleanByte_off (s : State) (a : Nat) {k : Level} {p : List Level} (hk : k ∉ p) (n : Nat) :
    copyAt (cleanByte a p n s) k a = copyAt s k a :=
  cleanByte_induction (R := fun u => copyAt u k a = copyAt s k a)
    (fun u _ _ v hp hu => (copyAt_handDown_ne u (List.ne_of_not_mem_cons fun h => hk (hp.subset h))
      (List.not_mem_of_not_mem_cons fun h => hk (hp.subset h)) v).trans hu) n rfl

/-! ### The byte at the point (R268) -/

/-- What a level's dirty copy of a byte is. -/
def dirtyValue (s : State) (a : Nat) (l : Level) : Option Byte :=
  match copyAt s l a with
  | some c => if c.dirty then some c.value else none
  | none => none

theorem dirtyValue_dirty {s : State} {a : Nat} {l : Level} {c : Copy} (hc : copyAt s l a = some c) (hd : c.dirty = true) :
    dirtyValue s a l = some c.value := by
  rw [dirtyValue, hc]
  exact if_pos hd

theorem dirtyValue_clean {s : State} {a : Nat} {l : Level} (h : ∀ c, copyAt s l a = some c → c.dirty = false) :
    dirtyValue s a l = none := by
  rw [dirtyValue]
  split
  next c hc => rw [h c hc, if_neg Bool.false_ne_true]
  next => rfl

/-- The byte at a point between the levels above it and those below. -/
def between (s : State) (a : Nat) (above below : List Level) : Byte :=
  match above.findSome? (dirtyValue s a) with
  | some v => v
  | none => (lookByte s a below 0).1

theorem pointByte_eq_between (s : State) (ag : Agent) (sc : Scope) (a : Nat) :
    pointByte s ag sc a = between s a ((pathAbove s ag sc a).1.take (pathAbove s ag sc a).2)
      ((pathAbove s ag sc a).1.drop (pathAbove s ag sc a).2) := rfl

theorem between_of_clean {s : State} {a : Nat} {above : List Level} (h : ∀ l ∈ above, ∀ c, copyAt s l a = some c → c.dirty = false)
    (below : List Level) : between s a above below = (lookByte s a below 0).1 := by
  have hnone : above.findSome? (dirtyValue s a) = none := List.findSome?_eq_none_iff.mpr fun l hl => dirtyValue_clean (h l hl)
  rw [between, hnone]

theorem between_cons_dirty {s : State} {a : Nat} {l : Level} {c : Copy} (hc : copyAt s l a = some c) (hd : c.dirty = true)
    (above below : List Level) : between s a (l :: above) below = c.value := by
  rw [between, List.findSome?_cons, dirtyValue_dirty hc hd]

theorem between_cons_clean {s : State} {a : Nat} {l : Level} (h : ∀ c, copyAt s l a = some c → c.dirty = false)
    (above below : List Level) : between s a (l :: above) below = between s a above below := by
  rw [between, between, List.findSome?_cons, dirtyValue_clean h]

/-- What is handed down is what stands at the point below. -/
theorem between_handDown (s : State) (a : Nat) {l : Level} {rest : List Level} (hl : l ∉ rest) (v : Byte) (n : Nat) :
    between (handDown s a l rest v) a (rest.take n) (rest.drop n) = v := by
  cases rest with
  | nil =>
    rw [List.take_nil, List.drop_nil]
    exact handDown_home s a l v
  | cons l2 rest =>
    have hl2 := copyAt_handDown_next s a (List.ne_of_not_mem_cons hl).symm rest v
    cases n with
    | zero =>
      rw [List.take_zero, List.drop_zero, between_of_clean (by simp), lookByte, hl2]
    | succ n => exact between_cons_dirty hl2 rfl _ _

/-- CleanBelow for one byte leaves no dirty copy above the point, and at the point the byte that stood there. -/
theorem cleanByte_cleaned {a : Nat} {p : List Level} (hp : p.Nodup) (n : Nat) (s : State) :
    (∀ l ∈ p.take n, ∀ c, copyAt (cleanByte a p n s) l a = some c → c.dirty = false) ∧
      (lookByte (cleanByte a p n s) a (p.drop n) 0).1 = between s a (p.take n) (p.drop n) := by
  induction p generalizing n s with
  | nil => simp [cleanByte, between]
  | cons l rest ih =>
    obtain ⟨hl, hrest⟩ := List.nodup_cons.mp hp
    cases n with
    | zero => simp [cleanByte, between]
    | succ n =>
      rw [List.take_succ_cons, List.drop_succ_cons]
      by_cases h : ∀ c, copyAt s l a = some c → c.dirty = false
      · obtain ⟨hclean, hlook⟩ := ih hrest n s
        rw [cleanByte_skip h, between_cons_clean h]
        exact ⟨List.forall_mem_cons.mpr ⟨by rwa [copyAt_cleanByte_off s a hl], hclean⟩, hlook⟩
      · push Not at h
        obtain ⟨c, hc, hd⟩ := h
        have hdirty := Bool.eq_true_of_not_eq_false hd
        obtain ⟨hclean, hlook⟩ := ih hrest n (handDown s a l rest c.value)
        rw [cleanByte_dirty hc hdirty, between_cons_dirty hc hdirty]
        refine ⟨List.forall_mem_cons.mpr ⟨?_, hclean⟩, hlook.trans (between_handDown s a hl _ n)⟩
        rw [copyAt_cleanByte_off _ a hl, copyAt_handDown_self]
        rintro _ ⟨⟩
        rfl

theorem path_nodup (s : State) (ag : Agent) (a : Nat) : (path s ag a).Nodup := by
  cases ag <;> rw [path]
  case thread => split <;> simp
  case engine => split <;> simp
  case stream => split <;> simp
  all_goals exact List.nodup_nil

/-! ### CleanBelow of all -/

/-- CleanBelow for one byte of an agent's path. -/
def cleanStep (ag : Agent) (sc : Scope) (s : State) (a : Nat) : State :=
  cleanByte a (pathAbove s ag sc a).1 (pathAbove s ag sc a).2 s

theorem copiesOnly_cleanStep (ag : Agent) (sc : Scope) (s : State) (a : Nat) : CopiesOnly s (cleanStep ag sc s a) :=
  copiesOnly_cleanByte ..

theorem noDirtyAbove_cleanStep_self (ag : Agent) (sc : Scope) (s : State) (a : Nat) : NoDirtyAbove (cleanStep ag sc s a) ag sc a := by
  rw [NoDirtyAbove, (copiesOnly_cleanStep ag sc s a).sameHomes.pathAbove]
  exact (cleanByte_cleaned (path_nodup s ag a) _ s).1

theorem noDirtyAbove_cleanStep {ag : Agent} {sc : Scope} {s : State} {b : Nat} (h : NoDirtyAbove s ag sc b) (a : Nat) :
    NoDirtyAbove (cleanStep ag sc s a) ag sc b := by
  by_cases hb : b = a
  · exact hb ▸ noDirtyAbove_cleanStep_self ag sc s b
  · exact (cleanByte_others s hb _ _).noDirtyAbove (copiesOnly_cleanStep ag sc s a).sameHomes h

theorem pointByte_cleanStep (ag : Agent) (sc : Scope) (s : State) (a b : Nat) :
    pointByte (cleanStep ag sc s a) ag sc b = pointByte s ag sc b := by
  have hhomes := (copiesOnly_cleanStep ag sc s a).sameHomes
  by_cases hb : b = a
  · obtain ⟨hclean, hlook⟩ := cleanByte_cleaned (path_nodup s ag a) (pathAbove s ag sc a).2 s
    rw [hb, pointByte_eq_between, hhomes.pathAbove]
    exact (between_of_clean hclean _).trans hlook
  · exact (cleanByte_others s hb _ _).pointByte hhomes ag sc

theorem copiesOnly_cleanSteps (ag : Agent) (sc : Scope) (as : List Nat) (s : State) : CopiesOnly s (as.foldl (cleanStep ag sc) s) := by
  induction as generalizing s with
  | nil => exact .refl s
  | cons a as ih => exact (copiesOnly_cleanStep ag sc s a).trans (ih _)

theorem pointByte_cleanSteps (ag : Agent) (sc : Scope) (as : List Nat) (s : State) (b : Nat) :
    pointByte (as.foldl (cleanStep ag sc) s) ag sc b = pointByte s ag sc b := by
  induction as generalizing s with
  | nil => rfl
  | cons a as ih => exact (ih _).trans (pointByte_cleanStep ag sc s a b)

theorem noDirtyAbove_cleanSteps {ag : Agent} {sc : Scope} (as : List Nat) {s : State} {b : Nat}
    (h : NoDirtyAbove s ag sc b ∨ b ∈ as) : NoDirtyAbove (as.foldl (cleanStep ag sc) s) ag sc b := by
  induction as generalizing s with
  | nil => exact h.resolve_right List.not_mem_nil
  | cons a as ih =>
    refine ih ?_
    rcases h with h | h
    · exact .inl (noDirtyAbove_cleanStep h a)
    · rcases List.mem_cons.mp h with rfl | h
      · exact .inl (noDirtyAbove_cleanStep_self ag sc s b)
      · exact .inr h

theorem sameByte_countBacks (s : State) (k n a : Nat) : SameByte s (countBacks s k n) a := by
  rw [countBacks]
  split
  · exact ⟨fun _ => rfl, rfl⟩
  · refine ⟨fun l => ?_, rfl⟩
    cases l with
    | l1 c => rfl
    | cluster j =>
      rw [copyAt, copyAt, levelMap, levelMap]
      by_cases hj : j = k
      · rw [hj, clusterOf_setCluster]
      · rw [clusterOf_setCluster_ne s hj]
    | link h => rfl

/-- The bytes of a list cleaned, and the lines written back counted. -/
theorem cleanAddrs_counted (s : State) (ag : Agent) (sc : Scope) (as : List Nat) :
    ∃ k n, cleanAddrs s ag sc as = countBacks (as.foldl (cleanStep ag sc) s) k n := by
  rw [cleanAddrs]
  dsimp only
  split
  · exact ⟨0, 0, rfl⟩
  next k _ _ _ => exact ⟨k, _, rfl⟩

theorem copiesOnly_cleanAll (s : State) (ag : Agent) (sc : Scope) : CopiesOnly s (cleanAll s ag sc) := by
  rw [cleanAll]
  split
  · exact .refl s
  · obtain ⟨k, n, hcount⟩ := cleanAddrs_counted s ag sc (heldWhere s ag fun c => c.dirty)
    rw [hcount]
    exact (copiesOnly_cleanSteps ag sc _ s).trans (copiesOnly_countBacks ..)

/-- The addresses of a level's dirty copies. -/
def dirtyKeys (s : State) (l : Level) : List Nat := ((levelMap s l).filter fun e => e.2.dirty).map (·.1)

theorem mem_dirtyKeys {s : State} {l : Level} {a : Nat} {c : Copy} (hc : copyAt s l a = some c) (hd : c.dirty = true) :
    a ∈ dirtyKeys s l := List.mem_map.mpr ⟨(a, c), List.mem_filter.mpr ⟨mem_of_aFind hc, hd⟩, rfl⟩

/-- An agent cleans the dirty bytes of each level of its paths. -/
theorem mem_heldWhere {s : State} {ag : Agent} {a b : Nat} {l : Level} (hl : l ∈ path s ag a) (hb : b ∈ dirtyKeys s l) :
    b ∈ heldWhere s ag fun c => c.dirty := by
  cases ag with
  | thread core _ _ =>
    simp only [path, List.mem_append, List.mem_cons, List.not_mem_nil, or_false, List.mem_ite_nil_right] at hl
    rw [heldWhere, List.mem_append, List.mem_append]
    rcases hl with (rfl | rfl) | ⟨_, rfl⟩
    · exact .inl (.inl hb)
    · exact .inl (.inr hb)
    · exact .inr hb
  | engine core _ _ =>
    simp only [path, List.mem_append, List.mem_cons, List.not_mem_nil, or_false, List.mem_ite_nil_right] at hl
    rw [heldWhere, List.mem_append]
    rcases hl with rfl | ⟨_, rfl⟩
    · exact .inl hb
    · exact .inr hb
  | stream h _ =>
    simp only [path, List.mem_cons, List.not_mem_nil, or_false, List.mem_ite_nil_right] at hl
    obtain ⟨_, rfl⟩ := hl
    exact hb
  | hub _ _ => exact absurd hl List.not_mem_nil
  | host => exact absurd hl List.not_mem_nil

theorem noDirtyAbove_of_not_held {s : State} {ag : Agent} {a : Nat} (h : a ∉ heldWhere s ag fun c => c.dirty) (sc : Scope) :
    NoDirtyAbove s ag sc a := fun _ hl _ hc =>
  Bool.eq_false_iff.mpr fun hd => h (mem_heldWhere (List.mem_of_mem_take hl) (mem_dirtyKeys hc hd))

theorem levelRank_pos (l : Level) : 1 ≤ levelRank l := by cases l <;> simp [levelRank]

/-- No level lies above the point of scope `.team`. -/
theorem noDirtyAbove_team (s : State) (ag : Agent) (a : Nat) : NoDirtyAbove s ag .team a := by
  have hnone : (pathAbove s ag .team a).2 = 0 := by
    rw [pathAbove]
    refine List.length_eq_zero_iff.mpr (List.takeWhile_eq_nil_iff.mpr fun _ h => ?_)
    exact absurd (of_decide_eq_true h) (Nat.not_lt.mpr (levelRank_pos _))
  rw [NoDirtyAbove, hnone]
  simp

theorem cleanAll_pointCleaned (s : State) (ag : Agent) (sc : Scope) : PointCleaned s (cleanAll s ag sc) ag sc := by
  intro a
  rw [cleanAll]
  split
  next hsc => exact ⟨hsc ▸ noDirtyAbove_team s ag a, rfl⟩
  next =>
    obtain ⟨k, n, hcount⟩ := cleanAddrs_counted s ag sc (heldWhere s ag fun c => c.dirty)
    have hsame := sameByte_countBacks ((heldWhere s ag fun c => c.dirty).foldl (cleanStep ag sc) s) k n a
    have hhomes := (copiesOnly_countBacks ((heldWhere s ag fun c => c.dirty).foldl (cleanStep ag sc) s) k n).sameHomes
    rw [hcount]
    refine ⟨hsame.noDirtyAbove hhomes (noDirtyAbove_cleanSteps _ ?_), (hsame.pointByte hhomes ag sc).trans (pointByte_cleanSteps ..)⟩
    by_cases ha : a ∈ heldWhere s ag fun c => c.dirty
    · exact .inr ha
    · exact .inl (noDirtyAbove_of_not_held ha sc)

/-- What stands at the point does not depend on anything but copies, bytes at home and the pages' homes. -/
theorem pointCleaned_of_same {s t u : State} {ag : Agent} {sc : Scope} (h : PointCleaned s t ag sc) (hhomes : SameHomes t u)
    (hsame : ∀ a, SameByte t u a) : PointCleaned s u ag sc := fun a =>
  ⟨(hsame a).noDirtyAbove hhomes (h a).1, ((hsame a).pointByte hhomes ag sc).trans (h a).2⟩

end Sys2Proof.Proofs
end

section
/-! SUPPORT. Records of rings (R424, R459, R467): the words of a record, and what a ring that takes it becomes. -/

namespace Sys2Proof.Proofs

open Sys2Proof.Machine Sys2Proof.Claims

/-! ### Bytes of words -/

theorem leBytes_length (n v : Nat) : (leBytes n v).length = n := by
  induction n generalizing v with
  | zero => rfl
  | succ n ih => rw [leBytes, List.length_cons, ih]

theorem leNat_leBytes (n v : Nat) : leNat (leBytes n v) = v % 256 ^ n := by
  induction n generalizing v with
  | zero => rw [leBytes, leNat, Nat.pow_zero, Nat.mod_one]
  | succ n ih => rw [leBytes, leNat, ih, Nat.pow_succ', Nat.mod_mul, BitVec.toNat_ofNat]

/-- Two numbers' bytes, one after the other, are those of one number. -/
theorem leBytes_append (m n x y : Nat) : leBytes m x ++ leBytes n y = leBytes (m + n) (x % 256 ^ m + 256 ^ m * y) := by
  induction m generalizing x with
  | zero => rw [leBytes, List.nil_append, Nat.zero_add, Nat.pow_zero, Nat.mod_one, Nat.one_mul, Nat.zero_add]
  | succ m ih =>
    have hsum : x % 256 ^ (m + 1) + 256 ^ (m + 1) * y = x % 256 + 256 * (x / 256 % 256 ^ m + 256 ^ m * y) := by
      rw [Nat.pow_succ', Nat.mod_mul]
      ring
    have hhigh : (x % 256 + 256 * (x / 256 % 256 ^ m + 256 ^ m * y)) / 256 = x / 256 % 256 ^ m + 256 ^ m * y := by omega
    have hlow : BitVec.ofNat 8 (x % 256 + 256 * (x / 256 % 256 ^ m + 256 ^ m * y)) = BitVec.ofNat 8 x := by
      apply BitVec.eq_of_toNat_eq
      rw [BitVec.toNat_ofNat, BitVec.toNat_ofNat]
      omega
    rw [hsum, Nat.succ_add, leBytes, leBytes, hhigh, hlow, List.cons_append, ih]

theorem leBytes_mod (n v : Nat) : leBytes n (v % 256 ^ n) = leBytes n v := by
  simpa [leBytes] using (leBytes_append n 0 v 0).symm

theorem readBytes_add (d : Byte) (m : AList Byte) (a n k : Nat) :
    readBytes d m a (n + k) = readBytes d m a n ++ readBytes d m (a + n) k := by
  induction n generalizing a with
  | zero => rw [Nat.zero_add, readBytes, List.nil_append, Nat.add_zero]
  | succ n ih => rw [Nat.succ_add, readBytes, readBytes, ih, List.cons_append, Nat.add_assoc a 1 n, Nat.add_comm 1 n]

/-! ### Records of words -/

/-- A record of 8-byte words. -/
def wordBytes (ws : List Nat) : List Byte := ws.flatMap (leBytes 8)

theorem length_wordBytes (ws : List Nat) : (wordBytes ws).length = 8 * ws.length := by
  induction ws with
  | nil => rfl
  | cons w ws ih => rw [wordBytes, List.flatMap_cons, List.length_append, leBytes_length, List.length_cons, ← wordBytes, ih]; ring

theorem readBytes_wordBytes {m : AList Byte} {ws : List Nat} {a : Nat} (h : readBytes 0 m a (8 * ws.length) = wordBytes ws) {i : Nat}
    (hi : i < ws.length) : readBytes 0 m (a + 8 * i) 8 = leBytes 8 ws[i] := by
  induction ws generalizing a i with
  | nil => exact absurd hi (Nat.not_lt_zero i)
  | cons w ws ih =>
    rw [List.length_cons, Nat.mul_succ, Nat.add_comm, readBytes_add, wordBytes, List.flatMap_cons] at h
    obtain ⟨hword, hrest⟩ := List.append_inj h (by rw [length_readBytes, leBytes_length])
    cases i with
    | zero => exact hword
    | succ i =>
      rw [Nat.mul_succ, Nat.add_comm (8 * i), ← Nat.add_assoc]
      exact ih hrest (Nat.lt_of_succ_lt_succ hi)

theorem recordWord_homeWrite (s : State) (a : Nat) {ws : List Nat} {i : Nat} (hi : i < ws.length) :
    recordWord (homeWrite s a (wordBytes ws)) a i = ws[i] % 2 ^ 64 := by
  have hread := readBytes_writeBytes 0 s.mem a (wordBytes ws)
  rw [length_wordBytes] at hread
  rw [recordWord, homeRead, homeWrite, readBytes_wordBytes hread hi, leNat_leBytes]
  rfl

/-! ### Rings -/

theorem ringPut_frame (s : State) (r : Ring) (rcd : List Byte) : (ringPut s r rcd).1 = { s with mem := (ringPut s r rcd).1.mem } := by
  rw [ringPut]
  split <;> rfl

theorem ringPut_took (s : State) (r : Ring) (rcd : List Byte) : RingTook r (ringPut s r rcd).2 rcd.length := by
  rw [ringPut]
  split
  next h => exact ⟨fun hn => absurd (h.symm.trans hn) (by decide), fun _ => rfl⟩
  next h => exact ⟨fun _ => rfl, fun hf => absurd hf h⟩

theorem ringPut_of_room {r : Ring} {rcd : List Byte} (h : ringFull r rcd.length = false) (s : State) :
    (ringPut s r rcd).1 = homeWrite s (ringPlace r rcd.length) rcd := by
  rw [ringPut, h]
  rfl

end Sys2Proof.Proofs
end

section
/-! SUPPORT. BAND_RETIRE (R212, R459, R359). -/

namespace Sys2Proof.Proofs

open Sys2Proof.Machine Sys2Proof.Claims

/-! ### The energy record (R459) -/

/-- The words of a band's energy record. -/
def energyWords (tm : Team) (b : Band) : List Nat :=
  [tm.lseq.toNat, tm.gridIdx % 2 ^ 32 + b.idx % 256 * 2 ^ 32 + tm.core % 2 ^ 16 * 2 ^ 48, b.energy.toNat, 0]

theorem energyWords_bytes (tm : Team) (b : Band) :
    leBytes 8 tm.lseq.toNat ++ leBytes 4 tm.gridIdx ++ leBytes 1 b.idx ++ leBytes 1 0 ++ leBytes 2 tm.core ++ leBytes 8 b.energy.toNat ++
      leBytes 8 0 = wordBytes (energyWords tm b) := by
  have hplace : leBytes 4 tm.gridIdx ++ (leBytes 1 b.idx ++ (leBytes 1 0 ++ leBytes 2 tm.core)) =
      leBytes 8 (tm.gridIdx % 2 ^ 32 + b.idx % 256 * 2 ^ 32 + tm.core % 2 ^ 16 * 2 ^ 48) := by
    rw [← leBytes_mod 2 tm.core, leBytes_append, leBytes_append, leBytes_append]
    refine congrArg (leBytes 8) ?_
    omega
  rw [wordBytes, energyWords]
  simp only [List.flatMap_cons, List.flatMap_nil, List.append_nil, ← hplace, List.append_assoc]

/-- The ring of a context after a band's energy record. -/
def energyPut (s : State) (tm : Team) (b : Band) : State × Ring :=
  ringPut s (ctxOf s tm.ctx).energyRing (wordBytes (energyWords tm b))

theorem energyRecord_eq {s : State} {b : Band} {tm : Team} (h : teamOf s b.team = some tm) :
    energyRecord s b = setCtx (energyPut s tm b).1 tm.ctx { ctxOf s tm.ctx with energyRing := (energyPut s tm b).2 } := by
  have hctx : ctxOf (energyPut s tm b).1 tm.ctx = ctxOf s tm.ctx := by
    rw [energyPut, ringPut_frame]
    rfl
  rw [energyRecord, h]
  dsimp only
  rw [energyWords_bytes]
  change setCtx (energyPut s tm b).1 tm.ctx { ctxOf (energyPut s tm b).1 tm.ctx with energyRing := (energyPut s tm b).2 } = _
  rw [hctx]

/-- An energy record taken, or counted, by its context's ring. -/
structure EnergyRecorded (s t : State) (tm : Team) (b : Band) : Prop where
  frame : t = { s with contexts := t.contexts, mem := t.mem }
  own : ctxOf t tm.ctx = { ctxOf s tm.ctx with energyRing := (ctxOf t tm.ctx).energyRing }
  others : ∀ c, c ≠ tm.ctx → ctxOf t c = ctxOf s c
  took : RingTook (ctxOf s tm.ctx).energyRing (ctxOf t tm.ctx).energyRing 32
  words : ringFull (ctxOf s tm.ctx).energyRing 32 = false →
    t.mem = (homeWrite s (ringPlace (ctxOf s tm.ctx).energyRing 32) (wordBytes (energyWords tm b))).mem

theorem energyRecord_recorded {s : State} {b : Band} {tm : Team} (h : teamOf s b.team = some tm) :
    EnergyRecorded s (energyRecord s b) tm b := by
  have hframe : (energyPut s tm b).1 = { s with mem := (energyPut s tm b).1.mem } := ringPut_frame ..
  rw [energyRecord_eq h]
  constructor
  case frame =>
    rw [hframe]
    rfl
  case own => rw [ctxOf_setCtx]
  case others =>
    intro c hc
    rw [ctxOf_setCtx_ne _ hc, hframe]
    rfl
  case took =>
    rw [ctxOf_setCtx]
    exact ringPut_took ..
  case words =>
    intro hroom
    have hput : (energyPut s tm b).1 = _ := ringPut_of_room (rcd := wordBytes (energyWords tm b)) hroom s
    rw [hput]
    rfl

theorem EnergyRecorded.recordWord {s t : State} {tm : Team} {b : Band} (h : EnergyRecorded s t tm b)
    (hroom : ringFull (ctxOf s tm.ctx).energyRing 32 = false) {i : Nat} (hi : i < 4) :
    recordWord t (ringPlace (ctxOf s tm.ctx).energyRing 32) i = (energyWords tm b)[i] % 2 ^ 64 := by
  rw [← recordWord_homeWrite s (ringPlace (ctxOf s tm.ctx).energyRing 32) (ws := energyWords tm b) hi, Claims.recordWord, Claims.recordWord,
    homeRead, homeRead, h.words hroom]

theorem EnergyRecorded.homeByte {s t : State} {tm : Team} {b : Band} (h : EnergyRecorded s t tm b)
    (hroom : ringFull (ctxOf s tm.ctx).energyRing 32 = false) {a : Nat}
    (ha : a < ringPlace (ctxOf s tm.ctx).energyRing 32 ∨ ringPlace (ctxOf s tm.ctx).energyRing 32 + 32 ≤ a) :
    homeByte t a = homeByte s a := by
  rw [Sys2Proof.homeByte, h.words hroom]
  exact aGet_writeBytes_out 0 s.mem _ _ ha

/-! ### Whether a band retires (R212, R359) -/

theorem teamPosted_iff {s : State} {key : Nat} {tm : Team} : teamPosted s key tm = true ↔ HasPosted s key tm := by
  simp only [teamPosted, HasPosted, Bool.or_eq_true, List.any_eq_true, beq_iff_eq]

/-- All bands of a team but one have retired. -/
def OthersRetired (s : State) (k : Nat) (tm : Team) : Prop :=
  ∀ j b', holdsBand tm j → j ≠ k → bandOf s j = some b' → b'.retired = true

theorem lastWaits_iff {s : State} {k : Nat} {b : Band} {tm : Team} (h : teamOf s b.team = some tm) :
    lastWaits s k b = true ↔ HasPosted s b.team tm ∧ OthersRetired s k tm := by
  rw [lastWaits, h]
  dsimp only
  rw [Bool.and_eq_true, teamPosted_iff, List.all_eq_true]
  refine and_congr_right fun _ => ⟨fun hall j b' hj hne hb => ?_, fun hall n hn => ?_⟩
  · obtain ⟨n, hn, rfl⟩ := hj
    have hslot := hall n hn
    rw [hb, Bool.or_eq_true, beq_iff_eq] at hslot
    exact hslot.resolve_left hne
  · by_cases hk : bandKey tm.core n = k
    · rw [hk, beq_self_eq_true, Bool.true_or]
    · rw [Bool.or_eq_true]
      refine .inr ?_
      split
      next b' hb => exact hall _ b' ⟨n, hn, rfl⟩ hk hb
      next => rfl

/-- Nothing keeps a band from retiring. -/
def mayRetire (s : State) (k : Nat) (b : Band) : Bool :=
  !(b.retired || b.stepping.isSome || b.threads.any (fun t => !t.exited) || !bandIdle s k || !b.vreds.isEmpty || lastWaits s k b)

/-- A band that has retired. -/
def retiredBand (b : Band) : Band := { b with retired := true, split := [], spilled := [], reload := none, loops := [], traps := [] }

theorem retireBand_of_may {s : State} {k : Nat} {b : Band} (hb : bandOf s k = some b) (hmay : mayRetire s k b = true)
    (htraps : b.traps = []) : retireBand s k = energyRecord (setBand s k (retiredBand b)) b := by
  rw [mayRetire, Bool.not_eq_true'] at hmay
  rw [retireBand, hb]
  dsimp only
  rw [hmay, if_neg Bool.false_ne_true, htraps]
  rfl

theorem retireBand_of_may_not {s : State} {k : Nat} {b : Band} (hb : bandOf s k = some b) (hmay : mayRetire s k b = false) :
    retireBand s k = s := by
  rw [mayRetire, Bool.not_eq_false'] at hmay
  rw [retireBand, hb]
  dsimp only
  rw [hmay, if_pos rfl]

theorem bandIdle_of_none {s : State} {k : Nat} (hpending : ∀ o ∈ s.pending, o.issuer ≠ k) (hmatrix : ∀ m ∈ s.matrix, m.band ≠ k) :
    bandIdle s k = true := by
  simp only [bandIdle, Bool.and_eq_true, Bool.not_eq_true', List.any_eq_false]
  exact ⟨fun o ho => by simp [hpending o ho], fun m hm => by simp [hmatrix m hm]⟩

theorem happens_bandRetire {s : State} {core slot : Nat} {P : State → Prop} (h : P (retireBand s (bandKey core slot))) :
    Happens .bandRetire (.bandRetire core slot) s P := fun hcur => ⟨_, by rw [exec_bandRetire, execBandRetire, hcur], h⟩

/-- A band with nothing left to do, which its team's commands do not hold, may retire. -/
theorem mayRetire_of_done {s : State} {k : Nat} {b : Band} (hretired : b.retired = false) (hexited : ∀ x ∈ b.threads, x.exited = true)
    (hidle : bandIdle s k = true) (hvreds : b.vreds = []) (hstep : b.stepping = none) (hwaits : lastWaits s k b = false) :
    mayRetire s k b = true := by
  have hthreads : b.threads.any (fun t => !t.exited) = false := List.any_eq_false.mpr fun x hx => by simp [hexited x hx]
  simp [mayRetire, hretired, hthreads, hidle, hvreds, hstep, hwaits]

/-- What keeps a band from retiring: a thread that runs, a reduction or a step not complete, or its team's commands. -/
def Held (s : State) (k : Nat) (b : Band) : Prop :=
  (∃ x ∈ b.threads, x.exited = false) ∨ b.vreds ≠ [] ∨ b.stepping ≠ none ∨ lastWaits s k b = true

theorem mayRetire_of_held {s : State} {k : Nat} {b : Band} (h : Held s k b) : mayRetire s k b = false := by
  rw [mayRetire, Bool.not_eq_false']
  simp only [Bool.or_eq_true]
  rcases h with ⟨x, hx, hlive⟩ | hvreds | hstep | hwaits
  · exact .inl (.inl (.inl (.inr (List.any_eq_true.mpr ⟨x, hx, by rw [hlive]; rfl⟩))))
  · exact .inl (.inr (by simpa using hvreds))
  · exact .inl (.inl (.inl (.inl (.inr (Option.isSome_iff_ne_none.mpr hstep)))))
  · exact .inr hwaits

end Sys2Proof.Proofs
end

section
/-! SUPPORT. What BAND_RETIRE leaves (R212, R459). -/

namespace Sys2Proof.Proofs

open Sys2Proof.Machine Sys2Proof.Claims

/-- A band retired, its energy record taken, and nothing else changed. -/
def BandRetired (s t : State) (k : Nat) (tm : Team) (b : Band) : Prop :=
  let ring := (ctxOf s tm.ctx).energyRing
  let base := ringPlace ring 32
  t = { s with bands := t.bands, contexts := t.contexts, mem := t.mem } ∧
  bandOf t k = some { b with retired := true, split := [], spilled := [], reload := none, loops := [] } ∧
  (∀ j, j ≠ k → bandOf t j = bandOf s j) ∧
  ctxOf t tm.ctx = { ctxOf s tm.ctx with energyRing := (ctxOf t tm.ctx).energyRing } ∧
  (∀ c, c ≠ tm.ctx → ctxOf t c = ctxOf s c) ∧ RingTook ring (ctxOf t tm.ctx).energyRing 32 ∧
  (ringFull ring 32 = false → recordWord t base 0 = tm.lseq.toNat ∧
    recordWord t base 1 = tm.gridIdx % 2 ^ 32 + b.idx % 256 * 2 ^ 32 + tm.core % 2 ^ 16 * 2 ^ 48 ∧
    recordWord t base 2 = b.energy.toNat ∧ recordWord t base 3 = 0 ∧
    ∀ a, a < base ∨ base + 32 ≤ a → homeByte t a = homeByte s a)

theorem EnergyRecorded.bandOf {s t : State} {tm : Team} {b : Band} (h : EnergyRecorded s t tm b) (k : Nat) : bandOf t k = bandOf s k := by
  rw [h.frame]
  rfl

theorem energyRecord_bandRetired {s : State} {k : Nat} {tm : Team} {b : Band} (htm : teamOf s b.team = some tm) (htraps : b.traps = []) :
    BandRetired s (energyRecord (setBand s k (retiredBand b)) b) k tm b := by
  have hrec : EnergyRecorded (setBand s k (retiredBand b)) (energyRecord (setBand s k (retiredBand b)) b) tm b :=
    energyRecord_recorded ((teamOf_setBand s k b.team _).trans htm)
  refine ⟨?_, ?_, fun j hj => ?_, hrec.own, hrec.others, hrec.took, fun hroom => ⟨?_, ?_, ?_, ?_, fun a ha => hrec.homeByte hroom ha⟩⟩
  · rw [hrec.frame]
    rfl
  · rw [hrec.bandOf, bandOf_setBand, retiredBand, ← htraps]
  · rw [hrec.bandOf, bandOf_setBand_ne s hj]
  · refine (hrec.recordWord hroom (i := 0) (by decide)).trans (Nat.mod_eq_of_lt ?_)
    exact tm.lseq.isLt
  · refine (hrec.recordWord hroom (i := 1) (by decide)).trans (Nat.mod_eq_of_lt ?_)
    change tm.gridIdx % 2 ^ 32 + b.idx % 256 * 2 ^ 32 + tm.core % 2 ^ 16 * 2 ^ 48 < 2 ^ 64
    omega
  · refine (hrec.recordWord hroom (i := 2) (by decide)).trans (Nat.mod_eq_of_lt ?_)
    exact b.energy.isLt
  · exact hrec.recordWord hroom (i := 3) (by decide)

/-- The last band of a team whose commands are not all complete waits; any other does not (R359). -/
theorem lastWaits_eq_false {s : State} {k : Nat} {b : Band} {tm : Team} (htm : teamOf s b.team = some tm)
    (h : ¬ HasPosted s b.team tm ∨ ∃ j b', holdsBand tm j ∧ j ≠ k ∧ bandOf s j = some b' ∧ b'.retired = false) :
    lastWaits s k b = false := by
  rw [Bool.eq_false_iff, ne_eq, lastWaits_iff htm]
  rintro ⟨hposted, hothers⟩
  rcases h with h | ⟨j, b', hj, hne, hb, hlive⟩
  · exact h hposted
  · exact absurd (hothers j b' hj hne hb) (Bool.eq_false_iff.mp hlive)

end Sys2Proof.Proofs
end

section
/-! SUPPORT. A team taken off its core, and its launch (R407, R413). -/

namespace Sys2Proof.Proofs

open Sys2Proof.Machine Sys2Proof.Claims

/-! ### The team and its bands -/

theorem aFind_aFilter_key {β : Type} (p : Nat → Bool) (k : Nat) (m : AList β) :
    aFind k (aFilter (fun j _ => p j) m) = if p k = true then aFind k m else none := by
  induction m with
  | nil => exact (ite_self none).symm
  | cons e m ih =>
    obtain ⟨j, v⟩ := e
    rw [aFilter, aFind]
    by_cases hj : j = k
    · subst hj
      by_cases hp : p j = true
      · rw [if_pos hp, if_pos hp, aFind, if_pos rfl, if_pos rfl]
      · rw [if_neg hp, if_neg hp, ih, if_neg hp]
    · rw [if_neg hj, ← ih]
      split
      · rw [aFind, if_neg hj]
      · rfl

theorem teamOf_removeTeam_self (s : State) (key : Nat) (tm : Team) : teamOf (removeTeam s key tm) key = none := aFind_aErase_self ..

theorem teamOf_removeTeam_ne (s : State) {key j : Nat} (h : j ≠ key) (tm : Team) : teamOf (removeTeam s key tm) j = teamOf s j :=
  aFind_aErase_ne h _

theorem holdsBand_iff {tm : Team} {k : Nat} : (tm.slots.any fun n => bandKey tm.core n == k) = true ↔ holdsBand tm k := by
  simp only [List.any_eq_true, beq_iff_eq, holdsBand, eq_comm (a := k)]

theorem bandOf_removeTeam_held (s : State) (key : Nat) {tm : Team} {k : Nat} (h : holdsBand tm k) :
    bandOf (removeTeam s key tm) k = none := by
  refine (aFind_aFilter_key (fun k => !(tm.slots.any fun n => bandKey tm.core n == k)) k s.bands).trans (if_neg ?_)
  rw [holdsBand_iff.mpr h]
  decide

theorem bandOf_removeTeam_other (s : State) (key : Nat) {tm : Team} {k : Nat} (h : ¬ holdsBand tm k) :
    bandOf (removeTeam s key tm) k = bandOf s k := by
  refine (aFind_aFilter_key (fun k => !(tm.slots.any fun n => bandKey tm.core n == k)) k s.bands).trans (if_pos ?_)
  rw [Bool.eq_false_iff.mpr (mt holdsBand_iff.mp h)]
  rfl

/-! ### The launch -/

/-- Nothing changes but launches, and streams and event counters of hinges. -/
structure LaunchesOnly (s t : State) : Prop where
  frame : t = { s with launches := t.launches, hinges := t.hinges }
  hinge : ∀ h, hingeOf t h = { hingeOf s h with streams := (hingeOf t h).streams, ev := (hingeOf t h).ev }

theorem LaunchesOnly.refl (s : State) : LaunchesOnly s s := ⟨rfl, fun _ => rfl⟩

theorem LaunchesOnly.trans {s t u : State} (h : LaunchesOnly s t) (h' : LaunchesOnly t u) : LaunchesOnly s u :=
  ⟨h'.frame.trans (by rw [h.frame]), fun n => (h'.hinge n).trans (by rw [h.hinge])⟩

theorem launchesOnly_setLaunches (s : State) (m : AList Machine.Launch) : LaunchesOnly s { s with launches := m } := ⟨rfl, fun _ => rfl⟩

theorem launchesOnly_setStream (s : State) (h n : Nat) (x : Stream) : LaunchesOnly s (setStream s h n x) := by
  refine ⟨rfl, fun j => ?_⟩
  by_cases hj : j = h
  · rw [hj, setStream, hingeOf_setHinge]
  · rw [setStream, hingeOf_setHinge_ne s hj]

theorem launchesOnly_addEv (s : State) (h e : Nat) (v : DWord) : LaunchesOnly s (addEv s h e v) := by
  refine ⟨rfl, fun j => ?_⟩
  by_cases hj : j = h
  · rw [hj, addEv, setEv, hingeOf_setHinge]
  · rw [addEv, setEv, hingeOf_setHinge_ne s hj]

theorem LaunchesOnly.sameHomes {s t : State} (h : LaunchesOnly s t) : SameHomes s t :=
  ⟨by rw [h.frame], fun n => by rw [h.hinge]⟩

theorem LaunchesOnly.sameByte {s t : State} (h : LaunchesOnly s t) (a : Nat) : SameByte s t a := by
  refine ⟨fun l => ?_, ?_⟩
  · cases l with
    | l1 c =>
      rw [h.frame]
      rfl
    | cluster n =>
      rw [h.frame]
      rfl
    | link j => rw [copyAt, copyAt, levelMap, levelMap, h.hinge]
  · rw [h.frame]
    rfl

theorem LaunchesOnly.keepsBands {s t : State} (h : LaunchesOnly s t) : KeepsBands s t :=
  ⟨by rw [h.frame], by rw [h.frame]⟩

theorem counterOf_addEv (s : State) (h e j : Nat) (v : DWord) :
    counterOf (addEv s h e v) j e = if j = h then counterOf s j e + v else counterOf s j e := by
  split
  next hj =>
    rw [hj, counterOf, addEv, setEv, hingeOf_setHinge]
    exact aGet_aSet_self ..
  next hj => rw [counterOf, addEv, setEv, hingeOf_setHinge_ne s hj, ← counterOf]

theorem streamOf_addEv (s : State) (h e : Nat) (v : DWord) (j n : Nat) : streamOf (addEv s h e v) j n = streamOf s j n := by
  by_cases hj : j = h
  · rw [hj, streamOf, addEv, setEv, hingeOf_setHinge]
    rfl
  · rw [streamOf, addEv, setEv, hingeOf_setHinge_ne s hj, ← streamOf]

theorem counterOf_setStream (s : State) (h n : Nat) (x : Stream) (j e : Nat) : counterOf (setStream s h n x) j e = counterOf s j e := by
  by_cases hj : j = h
  · rw [hj, counterOf, setStream, hingeOf_setHinge]
    rfl
  · rw [counterOf, setStream, hingeOf_setHinge_ne s hj, ← counterOf]

/-- The stream of a launch that has completed. -/
def streamDone (x : Stream) (l : Machine.Launch) : Stream :=
  { x with outstanding := x.outstanding.erase l.lseq.toNat, finished := ((l.lseq, if l.err then 1 else 0) :: x.finished).take 32 }

/-- The state in which a launch has completed. -/
def launchDone (s : State) (k : Nat) (l : Machine.Launch) : State :=
  addEv (setStream { s with launches := aErase k s.launches } l.hinge l.stream (streamDone (streamOf s l.hinge l.stream) l))
    (if l.rcd.pkg then 0 else l.rcd.hinge) 62 1

theorem launchStatus_of_run {l : Machine.Launch} (h : l.aborted = false) : launchStatus l = if l.err then 1 else 0 := by
  rw [launchStatus, h]
  cases l.err <;> rfl

section
variable {s : State} {k : Nat} {l : Machine.Launch} (hl : aFind k s.launches = some l) (hab : l.aborted = false)
include hl hab

theorem completeLaunch_waiting (hmore : l.retired < l.rcd.allTeams) : completeLaunch s k = s := by
  rw [completeLaunch, hl]
  dsimp only
  rw [hab, if_neg Bool.false_ne_true, if_pos hmore]

theorem completeLaunch_last (hlast : l.rcd.allTeams ≤ l.retired) : completeLaunch s k = launchDone s k l := by
  rw [completeLaunch, hl]
  dsimp only
  rw [hab, if_neg Bool.false_ne_true, if_neg (Nat.not_lt.mpr hlast), launchStatus_of_run hab]
  rfl

end

/-- A launch of which one more team has retired. -/
def oneMore (l : Machine.Launch) : Machine.Launch := { l with retired := l.retired + 1 }

/-- A launch counted. -/
def countedIn (s : State) (k : Nat) (l : Machine.Launch) : State := { s with launches := aInsert k (oneMore l) s.launches }

theorem launchDone_countedIn (s : State) (k : Nat) (l : Machine.Launch) : launchDone (countedIn s k l) k (oneMore l) = launchDone s k l := by
  have herase : { countedIn s k l with launches := aErase k (countedIn s k l).launches } = { s with launches := aErase k s.launches } := by
    rw [countedIn, aErase_aInsert]
  rw [launchDone, herase]
  rfl

section
variable {s : State} {ctx : Nat} {lseq : DWord} {l : Machine.Launch} (hl : aFind (launchKey ctx lseq) s.launches = some l)
  (hab : l.aborted = false)
include hl hab

theorem teamDone_waiting (hmore : l.retired + 1 < teamsOf l.rcd) : teamDone s ctx lseq = countedIn s (launchKey ctx lseq) l := by
  rw [teamDone, hl]
  exact completeLaunch_waiting (l := oneMore l) (aFind_aInsert_self ..) hab hmore

theorem teamDone_last (hlast : teamsOf l.rcd ≤ l.retired + 1) : teamDone s ctx lseq = launchDone s (launchKey ctx lseq) l := by
  rw [teamDone, hl, ← launchDone_countedIn]
  exact completeLaunch_last (l := oneMore l) (aFind_aInsert_self ..) hab hlast

end

theorem launchesOnly_launchDone (s : State) (k : Nat) (l : Machine.Launch) : LaunchesOnly s (launchDone s k l) :=
  ((launchesOnly_setLaunches s (aErase k s.launches)).trans (launchesOnly_setStream ..)).trans (launchesOnly_addEv ..)

theorem launchesOnly_teamDone {s : State} {ctx : Nat} {lseq : DWord} {l : Machine.Launch} (hl : aFind (launchKey ctx lseq) s.launches = some l)
    (hab : l.aborted = false) : LaunchesOnly s (teamDone s ctx lseq) := by
  rcases Nat.lt_or_ge (l.retired + 1) (teamsOf l.rcd) with hmore | hlast
  · rw [teamDone_waiting hl hab hmore]
    exact launchesOnly_setLaunches ..
  · rw [teamDone_last hl hab hlast]
    exact launchesOnly_launchDone ..

theorem launches_launchDone (s : State) (k : Nat) (l : Machine.Launch) : aFind k (launchDone s k l).launches = none :=
  aFind_aErase_self k s.launches

theorem streamOf_launchDone (s : State) (k : Nat) (l : Machine.Launch) :
    streamOf (launchDone s k l) l.hinge l.stream = streamDone (streamOf s l.hinge l.stream) l := by
  rw [launchDone, streamOf_addEv, streamOf_setStream]

theorem counterOf_launchDone (s : State) (k : Nat) (l : Machine.Launch) (h : Nat) :
    counterOf (launchDone s k l) h 62 =
      if h = (if l.rcd.pkg then 0 else l.rcd.hinge) then counterOf s h 62 + 1 else counterOf s h 62 := by
  rw [launchDone, counterOf_addEv, counterOf_setStream]
  rfl

end Sys2Proof.Proofs
end

section
/-! SUPPORT. TEAM_RETIRE (R212, R413), and O48. -/

namespace Sys2Proof.Proofs

open Sys2Proof.Machine Sys2Proof.Claims

/-! ### Whether a team retires -/

/-- A band of the team has not retired. -/
def someLive (s : State) (tm : Team) : Bool :=
  tm.slots.any fun n => match bandOf s (bandKey tm.core n) with | some b => !b.retired | none => false

theorem someLive_of_held {s : State} {tm : Team} {k : Nat} {b : Band} (hk : holdsBand tm k) (hb : bandOf s k = some b)
    (hlive : b.retired = false) : someLive s tm = true := by
  obtain ⟨n, hn, rfl⟩ := hk
  exact List.any_eq_true.mpr ⟨n, hn, by rw [hb]; simp [hlive]⟩

theorem someLive_of_retired {s : State} {tm : Team} (h : ∀ k b, holdsBand tm k → bandOf s k = some b → b.retired = true) :
    someLive s tm = false := by
  refine List.any_eq_false.mpr fun n hn => ?_
  split
  next b hb => simp [h _ b ⟨n, hn, rfl⟩ hb]
  next => exact Bool.false_ne_true

/-- The team taken off, with what its levels hold passed down. -/
def teamOff (s : State) (key : Nat) (tm : Team) : State := removeTeam (cleanAll s (.thread tm.core key tm.ctx) .system) key tm

section
variable {s : State} {key : Nat} {tm : Team} (htm : teamOf s key = some tm)
include htm

theorem retireTeam_of_busy (h : (someLive s tm || teamPosted s key tm) = true) : retireTeam s key = s := by
  rw [retireTeam, htm]
  exact if_pos h

theorem retireTeam_of_dirty (h : (someLive s tm || teamPosted s key tm) = false) (hdirty : windowsDirty tm = true) :
    retireTeam s key = closeWindows s key := by
  rw [retireTeam, htm]
  exact (if_neg (Bool.eq_false_iff.mp h)).trans (if_pos hdirty)

theorem retireTeam_of_done (h : (someLive s tm || teamPosted s key tm) = false) (hdirty : windowsDirty tm = false) :
    retireTeam s key = teamDone (teamOff s key tm) tm.ctx tm.lseq := by
  rw [retireTeam, htm]
  exact (if_neg (Bool.eq_false_iff.mp h)).trans (if_neg (Bool.eq_false_iff.mp hdirty))

end

theorem happens_teamRetire {s : State} {key : Nat} {P : State → Prop} (h : P (retireTeam s key)) :
    Happens .teamRetire (.teamRetire key) s P := fun hcur => ⟨_, by rw [exec_teamRetire, execTeamRetire, hcur], h⟩

/-! ### The windows written back (R241, R413) -/

/-- The bands are as they were, and a team holds the slots that it held. -/
def KeepsSlots (key : Nat) (s t : State) : Prop :=
  t.bands = s.bands ∧ ∀ tm, teamOf s key = some tm → ∃ tm', teamOf t key = some tm' ∧ tm'.slots = tm.slots

theorem KeepsSlots.trans {key : Nat} {s t u : State} (h : KeepsSlots key s t) (h' : KeepsSlots key t u) : KeepsSlots key s u := by
  refine ⟨h'.1.trans h.1, fun tm htm => ?_⟩
  obtain ⟨tm', htm', hslots⟩ := h.2 tm htm
  obtain ⟨tm'', htm'', hslots'⟩ := h'.2 tm' htm'
  exact ⟨tm'', htm'', hslots'.trans hslots⟩

theorem KeepsBands.keepsSlots {s t : State} (h : KeepsBands s t) (key : Nat) : KeepsSlots key s t :=
  ⟨h.bands, fun tm htm => ⟨tm, (h.teamOf key).trans htm, rfl⟩⟩

theorem KeepsSlots.refl (key : Nat) (s : State) : KeepsSlots key s s := (KeepsBands.refl s).keepsSlots key

theorem keepsSlots_setTeam {key : Nat} {s : State} {tm tm' : Team} (htm : teamOf s key = some tm) (hslots : tm'.slots = tm.slots) :
    KeepsSlots key s (setTeam s key tm') := by
  refine ⟨rfl, fun tm0 htm0 => ⟨tm', teamOf_setTeam .., hslots.trans ?_⟩⟩
  rw [Option.some.inj (htm.symm.trans htm0)]

theorem keepsBands_foldl {α : Type} {f : State → α → State} (hf : ∀ s a, KeepsBands s (f s a)) (as : List α) (s : State) :
    KeepsBands s (as.foldl f s) := by
  induction as generalizing s with
  | nil => exact .refl s
  | cons a as ih => exact (hf s a).trans (ih _)

/-- A window's granules clean. -/
def entryCleaned (key m : Nat) (e : MapEntry) (w : Window) (s : State) : State :=
  match teamOf s key with
  | some tm => setTeam s key { tm with maps := aInsert m { e with win := some { w with dirty := 0 } } tm.maps }
  | none => s

theorem keepsSlots_entryCleaned (key m : Nat) (e : MapEntry) (w : Window) (s : State) : KeepsSlots key s (entryCleaned key m e w s) := by
  rw [entryCleaned]
  split
  next tm htm => exact keepsSlots_setTeam htm rfl
  next => exact .refl key s

def dirtyGranules (e : MapEntry) (w : Window) : List Nat := (List.range (8 * e.count)).filter fun g => w.dirty.testBit g

/-- One granule written home. -/
def granuleHome (key : Nat) (tm : Team) (e : MapEntry) (w : Window) (s : State) (g : Nat) : State :=
  noteGranule (homeWrite s (w.base + 128 * g) (readBytes 0 tm.stash (e.first * 1024 + 128 * g) 128)) key tm (e.first * 1024 + 128 * g) false

theorem keepsBands_granulesHome (key : Nat) (tm : Team) (e : MapEntry) (w : Window) (gs : List Nat) (s : State) :
    KeepsBands s (gs.foldl (granuleHome key tm e w) s) :=
  keepsBands_foldl (f := granuleHome key tm e w) (fun _ _ => ⟨rfl, rfl⟩) gs s

/-- The page of a window revived, if it is DISCARDED. -/
def revived (leaf : Except Nat Leaf) (s : State) : State :=
  match leaf with
  | .ok l => if l.state = 2 then revivePage s l else s
  | .error _ => s

theorem keepsBands_revived (leaf : Except Nat Leaf) (s : State) : KeepsBands s (revived leaf s) := by
  cases leaf with
  | error e => exact .refl s
  | ok l =>
    rw [revived]
    split
    · exact keepsBands_revivePage s l
    · exact .refl s

theorem keepsSlots_ite {α : Type} {key : Nat} {s : State} {p : Prop} [Decidable p] {x y : α × State} (hx : KeepsSlots key s x.2)
    (hy : KeepsSlots key s y.2) : KeepsSlots key s (if p then x else y).2 := by
  split
  · exact hx
  · exact hy

theorem keepsSlots_writeBackWindow (s : State) (key m : Nat) : KeepsSlots key s (writeBackWindow s key m).2 := by
  rw [writeBackWindow]
  split
  next => exact .refl key s
  next tm _ =>
    split
    next => exact .refl key s
    next e _ =>
      split
      next => exact .refl key s
      next w _ =>
        dsimp only
        split
        next => exact .refl key s
        next =>
          have hhome : KeepsBands s ((dirtyGranules e w).foldl (granuleHome key tm e w) (revived (walk s tm.ctx w.va) s)) :=
            (keepsBands_revived _ s).trans (keepsBands_granulesHome key tm e w (dirtyGranules e w) _)
          exact keepsSlots_ite (keepsSlots_entryCleaned key m e w s)
            ((hhome.keepsSlots key).trans (keepsSlots_entryCleaned key m e w _))

theorem keepsSlots_backAll (key : Nat) (ms : List Nat) (s : State) : KeepsSlots key s (backAll key ms s).2 := by
  induction ms generalizing s with
  | nil => exact .refl key s
  | cons m ms ih => exact (keepsSlots_writeBackWindow s key m).trans (ih _)

theorem keepsSlots_closeWindows (s : State) (key : Nat) : KeepsSlots key s (closeWindows s key) := by
  rw [closeWindows]
  split
  next => exact .refl key s
  next tm _ =>
    have hback := keepsSlots_backAll key (tm.maps.map (·.1)) s
    split
    next hall =>
      rw [hall] at hback
      exact hback.trans ((keepsBands_errorRecord ..).keepsSlots key)
    next hall =>
      rw [hall] at hback
      exact hback

/-! ### What the end of a team leaves -/

theorem CopiesOnly.keepsBands {s t : State} (h : CopiesOnly s t) : KeepsBands s t := ⟨by rw [h.frame], by rw [h.frame]⟩

theorem CopiesOnly.streamOf {s t : State} (h : CopiesOnly s t) (j n : Nat) : streamOf t j n = streamOf s j n := by
  rw [Machine.streamOf, h.hinge]
  rfl

theorem CopiesOnly.counterOf {s t : State} (h : CopiesOnly s t) (j e : Nat) : counterOf t j e = counterOf s j e := by
  rw [Claims.counterOf, h.hinge]
  rfl

theorem removeTeam_sameByte (s : State) (key : Nat) (tm : Team) (a : Nat) : SameByte s (removeTeam s key tm) a :=
  ⟨fun l => by cases l <;> rfl, rfl⟩

/-- A team's bands are off its core with it, and its dirty bytes at home. -/
structure TeamGone (s t : State) (key : Nat) (tm : Team) : Prop where
  own : teamOf t key = none
  teams : ∀ j, j ≠ key → teamOf t j = teamOf s j
  bands : ∀ k, holdsBand tm k → bandOf t k = none
  others : ∀ k, ¬ holdsBand tm k → bandOf t k = bandOf s k
  cleaned : PointCleaned s t (.thread tm.core key tm.ctx) .system

theorem teamOff_gone (s : State) (key : Nat) (tm : Team) : TeamGone s (teamOff s key tm) key tm := by
  have hkeeps := (copiesOnly_cleanAll s (.thread tm.core key tm.ctx) .system).keepsBands
  constructor
  case own => exact teamOf_removeTeam_self ..
  case teams => exact fun j hj => (teamOf_removeTeam_ne _ hj tm).trans (hkeeps.teamOf j)
  case bands => exact fun k hk => bandOf_removeTeam_held _ key hk
  case others => exact fun k hk => (bandOf_removeTeam_other _ key hk).trans (hkeeps.bandOf k)
  case cleaned =>
    exact pointCleaned_of_same (cleanAll_pointCleaned s (.thread tm.core key tm.ctx) .system) ⟨rfl, fun _ => rfl⟩
      (removeTeam_sameByte _ key tm)

theorem TeamGone.then_launches {s t u : State} {key : Nat} {tm : Team} (h : TeamGone s t key tm) (hlaunch : LaunchesOnly t u) :
    TeamGone s u key tm := by
  have hkeeps := hlaunch.keepsBands
  exact ⟨(hkeeps.teamOf key).trans h.own, fun j hj => (hkeeps.teamOf j).trans (h.teams j hj),
    fun k hk => (hkeeps.bandOf k).trans (h.bands k hk), fun k hk => (hkeeps.bandOf k).trans (h.others k hk),
    pointCleaned_of_same h.cleaned hlaunch.sameHomes hlaunch.sameByte⟩

theorem launches_teamOff (s : State) (key : Nat) (tm : Team) : (teamOff s key tm).launches = s.launches := by
  change (cleanAll s (.thread tm.core key tm.ctx) .system).launches = s.launches
  rw [(copiesOnly_cleanAll s (.thread tm.core key tm.ctx) .system).frame]

theorem streamOf_teamOff (s : State) (key : Nat) (tm : Team) (j n : Nat) : streamOf (teamOff s key tm) j n = streamOf s j n :=
  (copiesOnly_cleanAll s (.thread tm.core key tm.ctx) .system).streamOf j n

theorem counterOf_teamOff (s : State) (key : Nat) (tm : Team) (j e : Nat) : counterOf (teamOff s key tm) j e = counterOf s j e :=
  (copiesOnly_cleanAll s (.thread tm.core key tm.ctx) .system).counterOf j e

theorem not_hasPosted {s : State} {key : Nat} {tm : Team}
    (hchannels : ∀ c ∈ (coreOf s tm.core).channels, ∀ x ∈ c.2.queue ++ c.2.chain, x.team ≠ key)
    (hcollectives : ∀ h ∈ s.hinges, ∀ x ∈ h.2.collectives, x.team ≠ key) : ¬ HasPosted s key tm := by
  rintro (⟨c, hc, x, hx, hkey⟩ | ⟨h, hh, x, hx, hkey⟩)
  · exact hchannels c hc x hx hkey
  · exact hcollectives h hh x hx hkey

theorem windowsDirty_of_none {tm : Team} (h : ∀ e ∈ tm.maps, e.2.win = none) : windowsDirty tm = false :=
  List.any_eq_false.mpr fun e he => by simp [h e he]

theorem windowsDirty_of_window {tm : Team} {m : Nat} {e : MapEntry} {w : Window} (he : (m, e) ∈ tm.maps) (hw : e.win = some w)
    (hdirty : w.dirty ≠ 0) : windowsDirty tm = true :=
  List.any_eq_true.mpr ⟨(m, e), he, by simp [hw, hdirty]⟩

/-! ### O48 -/

/-- A band with nothing left to do retires. -/
theorem bandRetire_retires {s : State} {core slot : Nat} {b : Band} {tm : Team} (hb : bandOf s (bandKey core slot) = some b)
    (htm : teamOf s b.team = some tm) (htraps : b.traps = []) (hmay : mayRetire s (bandKey core slot) b = true) :
    Happens .bandRetire (.bandRetire core slot) s fun t => BandRetired s t (bandKey core slot) tm b := by
  refine happens_bandRetire ?_
  rw [retireBand_of_may hb hmay htraps]
  exact energyRecord_bandRetired htm htraps

theorem bandRetire_waits {s : State} {core slot : Nat} {b : Band} (hb : bandOf s (bandKey core slot) = some b)
    (h : Held s (bandKey core slot) b) : Happens .bandRetire (.bandRetire core slot) s fun t => t = s :=
  happens_bandRetire (retireBand_of_may_not hb (mayRetire_of_held h))

/-- Settles O48: each event through what holds it back, then what it leaves; the bytes of the team through CleanBelow of all. -/
theorem retirement : Obligations.Retirement := by
  refine ⟨fun s core slot b hb hretired => ⟨?_, ?_⟩, ?_, ?_, ?_⟩
  · intro tm htm hexited hpending hmatrix hvreds htraps hstep hposted
    exact bandRetire_retires hb htm htraps (mayRetire_of_done hretired hexited (bandIdle_of_none hpending hmatrix) hvreds hstep
      (lastWaits_eq_false htm hposted))
  · rintro (hlive | hvreds | hstep | ⟨tm, htm, hposted, hothers⟩)
    · exact bandRetire_waits hb (.inl hlive)
    · exact bandRetire_waits hb (.inr (.inl hvreds))
    · exact bandRetire_waits hb (.inr (.inr (.inl hstep)))
    · exact bandRetire_waits hb (.inr (.inr (.inr ((lastWaits_iff htm).mpr ⟨hposted, hothers⟩))))
  · intro s key tm l htm hbands hchannels hcollectives hmaps hl hab
    have hfree : (someLive s tm || teamPosted s key tm) = false := by
      rw [someLive_of_retired hbands, Bool.eq_false_iff.mpr (mt teamPosted_iff.mp (not_hasPosted hchannels hcollectives))]
      rfl
    have hl' : aFind (launchKey tm.ctx tm.lseq) (teamOff s key tm).launches = some l := by rw [launches_teamOff, hl]
    refine happens_teamRetire ?_
    rw [retireTeam_of_done htm hfree (windowsDirty_of_none hmaps)]
    obtain ⟨hown, hteams, hheld, hothers, hcleaned⟩ := (teamOff_gone s key tm).then_launches (launchesOnly_teamDone hl' hab)
    refine ⟨hown, hteams, hheld, hothers, hcleaned, fun hmore => ?_, fun hlast => ?_⟩
    · rw [teamDone_waiting hl' hab hmore]
      exact ⟨aFind_aInsert_self .., fun h => counterOf_teamOff s key tm h 62⟩
    · rw [teamDone_last hl' hab hlast]
      refine ⟨launches_launchDone .., ?_, fun h => ?_⟩
      · rw [streamOf_launchDone, streamOf_teamOff, streamDone]
      · rw [counterOf_launchDone, counterOf_teamOff]
  · intro s key tm k b htm hk hb hlive
    exact happens_teamRetire (retireTeam_of_busy htm (by rw [someLive_of_held hk hb hlive, Bool.true_or]))
  · intro s key m tm e w htm he hw hdirty
    refine happens_teamRetire ?_
    have hkeeps : KeepsSlots key s (retireTeam s key) := by
      by_cases hbusy : (someLive s tm || teamPosted s key tm) = true
      · rw [retireTeam_of_busy htm hbusy]
        exact .refl key s
      · rw [retireTeam_of_dirty htm (Bool.eq_false_iff.mpr hbusy) (windowsDirty_of_window he hw hdirty)]
        exact keepsSlots_closeWindows s key
    exact ⟨hkeeps.2 tm htm, hkeeps.1⟩

end Sys2Proof.Proofs
end

section
/-! SUPPORT. What the first move of the agenda runs (R39, R192, R232, R425): the instruction of a group that nothing holds, that of the
stream whose turn it is, an event; and O5. -/

namespace Sys2Proof.Proofs

open Sys2Proof.Machine Sys2Proof.Claims

/-- One outcome's next state changed twice. -/
theorem thenState_thenState (r : Host.Outcome State Fault Refusal) (f g : State → State) :
    thenState (thenState r f) g = thenState r fun t => g (f t) := by
  cases r <;> rfl

/-! ### A group (R192, R232) -/

theorem early_eccCorrect (s : State) (core k : Nat) (live : List Nat) (i : Instr) : (eccCorrect s core k live i).early = s.early := by
  unfold eccCorrect
  split
  · rfl
  · dsimp only
    split <;> rfl

theorem filter_guarded_contains (b : Band) (d : Decoded) (lanes : List Nat) :
    lanes.filter (guarded b d lanes).contains = guarded b d lanes := by
  refine List.filter_congr fun i hi => ?_
  simp [guarded, hi]

/-- A group whose registers have no error that is not corrected runs its instruction whole. -/
theorem runGroup_clean {s : State} {b : Band} {core slot : Nat} {lanes : List Nat} {d : Decoded} (hlanes : lanes.isEmpty = false)
    (hclean : eccFaults b (guarded b d lanes) d.instr = []) (hearly : s.early = []) (pc : DWord) (word len : Nat) :
    runGroup s b core slot lanes pc word len d =
      thenState (exec d.instr
          { eccCorrect s core (bandKey core slot) (guarded b d lanes) d.instr with cur := .band core slot lanes pc len word d.guard })
        fun t => afterIssue (takeEarly t (bandKey core slot)) b core slot lanes (guarded b d lanes) pc len
          (lanes.all fun i => !issuedWait (threadOf b i).wait) d.instr := by
  have hu := early_eccCorrect s core (bandKey core slot) (guarded b d lanes) d.instr
  have hrest : lanes.filter (fun i => !(eccFaults b (guarded b d lanes) d.instr).any fun e => e.1 == i) = lanes := by
    simp [hclean]
  unfold runGroup
  dsimp only
  simp only [← guarded.eq_def]
  rw [hrest, hlanes, hclean, List.map_nil, ← hearly, ← hu, filter_guarded_contains, if_neg Bool.false_ne_true]
  generalize exec d.instr _ = r
  cases r <;> rfl

/-- A group that nothing holds at its issue, and whose instruction is fetched, runs it. -/
theorem issueGroup_goes {s s1 : State} {core slot lane w : Nat} {b : Band} {tm : Team} {bs : List Byte} {d : Decoded}
    (h : GroupGoes s core slot lane b tm d)
    (hfetch : fetchInstr s (clusterOfCore core) tm.ctx tm.code (threadOf b lane).pc.toNat = (.ok (w, bs), s1))
    (hdecode : decode false s1.profileN bs = .ok d) :
    issueGroup s core slot lane =
      runGroup (beginIssue (passFetch s1 core tm.ctx (threadOf b lane).pc.toNat bs.length) core slot (candidateOf b lane)
        ((candidateOf b lane).all fun i => !issuedWait (threadOf b i).wait)) b core slot (candidateOf b lane) (threadOf b lane).pc
        w bs.length d := by
  obtain ⟨hb, htm, hfree, -, hbreak, htrap, howed, horder, -⟩ := h
  have hgroup : fetchGroup s core tm (threadOf b lane).pc = (.ok w bs.length d, s1) := by
    simp only [fetchGroup, hfetch, hdecode]
  have howes : ((candidateOf b lane).any fun i => (threadOf b i).owed.isSome) = false :=
    List.any_eq_false.mpr fun i hi => by simp [howed i hi]
  unfold issueGroup
  simp only [hb, htm, hfree, hgroup, howes, hbreak]
  simp only [← guarded.eq_def, horder]
  cases hdue : dueLane b with
  | none => rfl
  | some i =>
    have hout : (candidateOf b lane).contains i = false := by simpa using htrap i hdue
    simp only [hout, Bool.false_eq_true, if_false]
    rfl

theorem candidate_of_goes {s : State} {core slot lane : Nat} {b : Band} {tm : Team} {d : Decoded}
    (h : GroupGoes s core slot lane b tm d) : (candidateOf b lane).isEmpty = false := by
  have hfree := h.free
  simp only [bandFree, bandOpen, Bool.and_eq_true, Bool.not_eq_true'] at hfree
  exact hfree.1.1.1.1.1.1.1

/-! ### A stream (R39) -/

/-- A sequencer takes the first ready stream after the last. -/
theorem ownStream_eq {s : State} {h n : Nat} (hn : n < 16) (hready : streamReady s h n = true)
    (hfirst : ∀ j, j < (n + 15 - (hingeOf s h).lastStream % 16) % 16 →
      streamReady s h (((hingeOf s h).lastStream + 1 + j) % 16) = false) : ownStream s h = [.issueStream h n] := by
  have hplace : ((hingeOf s h).lastStream + 1 + (n + 15 - (hingeOf s h).lastStream % 16) % 16) % 16 = n := by omega
  have hfind : (List.range 16).find? (fun i => streamReady s h (((hingeOf s h).lastStream + 1 + i) % 16)) =
      some ((n + 15 - (hingeOf s h).lastStream % 16) % 16) := by
    rw [List.find?_range_eq_some, hplace]
    exact ⟨hready, List.mem_range.mpr (Nat.mod_lt _ (by decide)), fun j hj => by rw [hfirst j hj, Bool.not_false]⟩
  have horder : ((List.range 16).map fun i => ((hingeOf s h).lastStream + 1 + i) % 16).find? (streamReady s h) = some n := by
    rw [List.find?_map, Function.comp_def, hfind, Option.map_some, hplace]
  simp only [ownStream, Config.streams, horder]
  rfl

/-- What `issueStream` looks up of a stream's instruction. -/
theorem fetchStream_ok {s s1 : State} {h w : Nat} {x : Stream} {bs : List Byte} {d : Decoded}
    (hfetch : fetchInstr s (60 + h) x.ctx.toNat s.mem x.pc.toNat = (.ok (w, bs), s1)) (hdecode : decode true s1.profileN bs = .ok d) :
    fetchStream s h x = (.ok w bs.length d, s1) := by
  simp only [fetchStream, hfetch, hdecode]

section
variable {s s1 : State} {h n w len : Nat} {d : Decoded} (hstate : (streamOf s h n).state = 1 ∨ (streamOf s h n).state = 2)
  (hfetch : fetchStream s h (streamOf s h n) = (.ok w len d, s1))
  (hfree : guardTrue d.guard (streamOf s h n).preds = true → streamFree s (streamIssuer h n) d.instr = true)
include hstate hfetch hfree

theorem streamReady_of_ok : streamReady s h n = true := by
  simp only [streamReady, hfetch]
  rcases hstate with hstate | hstate <;> simpa [hstate, ← Bool.not_eq_true, imp_iff_not_or] using hfree

theorem issueStream_runs :
    issueStream s h n = thenState (exec d.instr { setHinge s1 h { hingeOf s1 h with lastStream := n } with
      faulted := 0, seen := [], seq := s1.seq + 1, cur := .stream h n (streamOf s h n).pc len w d.guard }) matchSeen := by
  have hrun : ((streamOf s h n).state != 1 && (streamOf s h n).state != 2) = false := by
    rcases hstate with hstate | hstate <;> simp [hstate]
  have hgo : (guardTrue d.guard (streamOf s h n).preds && !streamFree s (streamIssuer h n) d.instr) = false := by
    simpa [← Bool.not_eq_true] using hfree
  unfold issueStream
  simp only [hrun, hfetch, hgo, Bool.false_eq_true, if_false]
  rfl

end

/-! ### An event -/

theorem preciseFirst_none {s : State} {e : Event} (h : (∀ core slot, e ≠ .engineTrapTake core slot) ∨ preciseFirst s e = none) :
    preciseFirst s e = none := by
  rcases h with h | h
  · unfold preciseFirst
    split
    next core slot => exact absurd rfl (h core slot)
    next => rfl
  · exact h

theorem runEvent_of_none {s : State} {e : Event} (h : preciseFirst s e = none) :
    runEvent s e = thenState (exec e.row { s with cur := .event e, faulted := 0, early := [], seen := [] })
      fun t => settleStops (matchSeen t) := by
  simp only [runEvent, h]
  generalize exec e.row _ = r
  cases r <;> rfl

/-! ### O5 -/

/-- Settles O5: the move that the agenda names, the instruction that it fetches or the event's row, and the time of the step. -/
theorem stepRunsDecoded : Obligations.StepRunsDecoded := by
  refine ⟨fun s s1 core slot lane w rest b tm bs d hagenda hgoes hfetch hdecode => ?_,
    fun s s1 h n w rest bs d => ?_, fun s e rest hagenda hnone => ?_⟩
  · have hmove : nextMove s = issueGroup { s with agenda := rest } core slot lane := by
      simp only [nextMove, hagenda, namedMove, hgoes.pick, if_true]
    dsimp only
    rw [step_eq_thenState, hmove, issueGroup_goes hgoes hfetch hdecode,
      runGroup_clean (candidate_of_goes hgoes) hgoes.clean rfl, thenState_thenState]
  · intro x last hagenda hn hstate hfirst hfetch hdecode hfree
    have hfetch := fetchStream_ok hfetch hdecode
    have hown := ownStream_eq hn (streamReady_of_ok hstate hfetch hfree) hfirst
    have hmove : nextMove s = issueStream { s with agenda := rest } h n := by
      simp only [nextMove, hagenda, namedMove, hown, List.contains_cons, beq_self_eq_true, Bool.true_or, if_true]
    dsimp only
    rw [step_eq_thenState, hmove, issueStream_runs hstate hfetch hfree, thenState_thenState]
  · have hmove : nextMove s = runEvent { s with agenda := rest } e := by
      simp only [nextMove, hagenda, namedMove, runMove]
    rw [step_eq_thenState, hmove, runEvent_of_none (preciseFirst_none hnone), thenState_thenState]

end Sys2Proof.Proofs
end

section
/-! SUPPORT. Pages that change their frame (R245-R247): the page that a frame is of, a free frame, the copies of a page in the link
buffers gone home. -/

namespace Sys2Proof.Proofs

open Sys2Proof.Machine Sys2Proof.Claims

/-! ### Frames and pages (R245) -/

/-- What a step makes of an element, where no later step of a list undoes it. -/
theorem foldl_reaches {α β : Type} {f : α → β → α} {P : α → Prop} {b : β} (hstep : ∀ x, P (f x b)) (hkeep : ∀ x c, P x → P (f x c))
    (cs : List β) {x : α} (h : P x ∨ b ∈ cs) : P (cs.foldl f x) := by
  induction cs generalizing x with
  | nil => exact h.resolve_right List.not_mem_nil
  | cons c cs ih =>
    refine ih ?_
    rcases h with h | h
    · exact .inl (hkeep x c h)
    · rcases List.mem_cons.mp h with rfl | h
      · exact .inl (hstep x)
      · exact .inr h

theorem placeOfPage_setHome_self (s : State) (page home frame : Nat) : placeOfPage (setHome s page home frame) page = (home, frame) := by
  simp [placeOfPage, setHome]

theorem placeOfPage_setHome_ne (s : State) {page p : Nat} (h : p ≠ page) (home frame : Nat) :
    placeOfPage (setHome s page home frame) p = placeOfPage s p := by
  have hdefault : defaultPlace (setHome s page home frame) p = defaultPlace s p := rfl
  rw [placeOfPage, placeOfPage, hdefault, setHome, aGet_aInsert_ne h]

theorem pageLost_setHome (s : State) (page home frame p : Nat) : pageLost (setHome s page home frame) p = pageLost s p := by
  by_cases h : p = page
  · subst h
    simp [pageLost, setHome]
  · rw [pageLost, setHome, aGet_aInsert_ne h, pageLost]

/-- The frames of the modules are numbered one module after the other. -/
theorem moduleFrame_eq (s : State) {fuel k m f : Nat} (hm : m < fuel) (hf : f < (moduleOf s (k + m)).frames) :
    moduleFrame s fuel k (((List.range m).map fun j => (moduleOf s (k + j)).frames).sum + f) = (16 + (k + m), f) := by
  induction m generalizing fuel k with
  | zero =>
    obtain ⟨fuel, rfl⟩ := Nat.exists_eq_succ_of_ne_zero (Nat.ne_of_gt hm)
    simp only [List.range_zero, List.map_nil, List.sum_nil, Nat.zero_add, Nat.add_zero] at hf ⊢
    rw [moduleFrame, if_pos hf]
  | succ m ih =>
    obtain ⟨fuel, rfl⟩ := Nat.exists_eq_succ_of_ne_zero (Nat.ne_of_gt (Nat.lt_of_le_of_lt (Nat.zero_le _) hm))
    have hnext := @ih fuel (k + 1) (by omega) (by rwa [show k + 1 + m = k + (m + 1) by omega])
    simp only [show ∀ j, k + 1 + j = k + (j + 1) from fun j => by omega] at hnext
    rw [List.range_succ_eq_map, List.map_cons, List.sum_cons, List.map_map, moduleFrame, if_neg (by simp; omega)]
    simp only [Function.comp_def, Nat.succ_eq_add_one, Nat.add_zero]
    rw [show ∀ a b c : Nat, a + b + c - a = b + c from fun a b c => by omega, hnext]

/-- Every frame of a home has a number of its own. -/
theorem frameNumber_numberOfFrame {s : State} {home f : Nat} (hhome : home < 32) (hf : f < framesOf s home) :
    frameNumber s (numberOfFrame s home f) = (home, f) := by
  by_cases h : home < 16
  · simp only [framesOf, h, if_true, Config.stackFrames] at hf
    simp only [frameNumber, numberOfFrame, h, if_true, Config.nearPages, Config.stackFrames]
    rw [if_pos (by omega)]
    exact Prod.ext (by dsimp only; omega) (by dsimp only; omega)
  · simp only [framesOf, h, if_false] at hf
    have hmodule := moduleFrame_eq s (fuel := 16) (k := 0) (m := home - 16) (f := f) (by omega) (by rwa [Nat.zero_add])
    simp only [Nat.zero_add] at hmodule
    simp only [frameNumber, numberOfFrame, h, if_false]
    rw [if_neg (by omega), show ∀ a b c : Nat, a + b + c - a = b + c from fun a b c => by omega, hmodule, Nat.add_sub_cancel' (by omega)]

/-- Of a map whose keys differ each listed value is found. -/
theorem aFind_of_mem {β : Type} {m : AList β} (hkeys : (m.map (·.1)).Nodup) {e : Nat × β} (he : e ∈ m) : aFind e.1 m = some e.2 := by
  induction m with
  | nil => cases he
  | cons x m ih =>
    obtain ⟨hx, hm⟩ := List.nodup_cons.mp hkeys
    rw [aFind]
    rcases List.mem_cons.mp he with rfl | he
    · exact if_pos rfl
    · rw [if_neg fun h : x.1 = e.1 => hx (List.mem_map.mpr ⟨e, he, h.symm⟩), ih hm he]

/-- The page in a frame has its place there. -/
theorem placeOfPage_pageInFrame {s : State} (hkeys : (s.remap.map (·.1)).Nodup) {home f q : Nat} (hhome : home < 32)
    (hf : f < framesOf s home) (hq : pageInFrame s home f = some q) : placeOfPage s q = (home, f) := by
  unfold pageInFrame at hq
  split at hq
  next e he =>
    obtain rfl := Option.some.inj hq
    have hhere : e.2.home = some (home, f) := by simpa using List.find?_some he
    have hfind : aGet {} e.1 s.remap = e.2 := by
      rw [aGet, aFind_of_mem hkeys (List.mem_of_find?_eq_some he), Option.getD_some]
    rw [placeOfPage, hfind, hhere]
    rfl
  next =>
    dsimp only at hq
    split at hq
    next hn =>
      split at hq
      next hnone =>
        obtain rfl := Option.some.inj hq
        rw [placeOfPage, Option.isNone_iff_eq_none.mp hnone, Option.getD_none, defaultPlace]
        rw [dif_pos (Fin.is_lt _), Fin.eta, Equiv.apply_symm_apply]
        exact frameNumber_numberOfFrame hhome hf
      next => cases hq
    next => cases hq

/-- What is free of a home's frames is one of them, whose page has moved away or is unused (R246). -/
theorem firstFree_spec {s : State} {home fuel f0 f : Nat} (hframes : 0 < framesOf s home) (h : firstFree s home fuel f0 = some f) :
    f < framesOf s home ∧ frameFree s home f = true := by
  induction fuel generalizing f0 with
  | zero => cases h
  | succ fuel ih =>
    rw [firstFree] at h
    split at h
    next hfree =>
      obtain rfl := Option.some.inj h
      exact ⟨Nat.mod_lt _ hframes, hfree⟩
    next => exact ih h

/-- The choice of a free frame changes nothing but the counter of choices. -/
theorem freeFrame_frame (s : State) (home : Nat) : (freeFrame s home).2 = { s with tick := (freeFrame s home).2.tick } :=
  choose_frame s (framesOf s home)

theorem freeFrame_spec {s : State} {home f : Nat} (h : (freeFrame s home).1 = some f) :
    f < framesOf s home ∧ frameFree s home f = true := by
  change firstFree (choose s (framesOf s home)).2 home (framesOf (choose s (framesOf s home)).2 home) _ = some f at h
  rw [choose_frame] at h
  have hframes : 0 < framesOf s home := by
    refine Nat.pos_of_ne_zero fun h0 => ?_
    change firstFree _ home (framesOf s home) _ = some f at h
    rw [h0] at h
    cases h
  exact firstFree_spec (s := { s with tick := (choose s (framesOf s home)).2.tick }) hframes h

/-- The page that gives up a frame that is free is unused. -/
theorem pageUnused_of_free {s : State} {home f q : Nat} (hfree : frameFree s home f = true) (hq : pageInFrame s home f = some q) :
    pageUnused s q = true := by
  rwa [frameFree, hq] at hfree

/-! ### A page takes a frame (R245, R246) -/

theorem takeFrame_frame (s : State) (page home f : Nat) :
    takeFrame s page home f = { s with remap := (takeFrame s page home f).remap } := by
  unfold takeFrame
  dsimp only
  split
  · split <;> rfl
  · rfl

theorem placeOfPage_takeFrame_self (s : State) (page home f : Nat) : placeOfPage (takeFrame s page home f) page = (home, f) :=
  placeOfPage_setHome_self ..

theorem pageLost_takeFrame (s : State) (page home f p : Nat) : pageLost (takeFrame s page home f) p = pageLost s p := by
  unfold takeFrame
  dsimp only
  rw [pageLost_setHome]
  split
  · split
    · rfl
    · exact pageLost_setHome ..
  · rfl

/-- Only the page that had the frame loses its place, and takes that of the page that comes. -/
theorem placeOfPage_takeFrame_ne (s : State) {page p : Nat} (hp : p ≠ page) (home f : Nat) :
    placeOfPage (takeFrame s page home f) p = placeOfPage s p ∨
      (pageInFrame s home f = some p ∧ placeOfPage (takeFrame s page home f) p = placeOfPage s page) := by
  unfold takeFrame
  dsimp only
  rw [placeOfPage_setHome_ne _ hp]
  split
  next q hq =>
    by_cases hqp : q = page
    · rw [if_pos hqp]
      exact .inl rfl
    · rw [if_neg hqp]
      by_cases h : p = q
      · subst h
        exact .inr ⟨hq, placeOfPage_setHome_self ..⟩
      · exact .inl (placeOfPage_setHome_ne s h ..)
  next => exact .inl rfl

/-! ### The copies of a page in the link buffers (R246) -/

theorem copyAt_dropCopy (s : State) (l : Level) (a : Nat) : copyAt (dropCopy s l a) l a = none := by
  rw [copyAt, dropCopy, levelMap_setLevel_self, aFind_aErase_self]

theorem copyAt_dropCopy_ne (s : State) {l k : Level} {a b : Nat} (h : k ≠ l ∨ b ≠ a) : copyAt (dropCopy s l a) k b = copyAt s k b := by
  by_cases hk : k = l
  · subst hk
    rw [copyAt, dropCopy, levelMap_setLevel_self, aFind_aErase_ne (h.resolve_left (not_not_intro rfl))]
    rfl
  · rw [copyAt, dropCopy, levelMap_setLevel_ne s hk]
    rfl

theorem dropCopy_home (s : State) (l : Level) (a b : Nat) : homeByte (dropCopy s l a) b = homeByte s b := by
  rw [homeByte, dropCopy, setLevel_mem]
  rfl

theorem dropCopy_others (s : State) {a b : Nat} (h : b ≠ a) (l : Level) : SameByte s (dropCopy s l a) b :=
  ⟨fun _ => copyAt_dropCopy_ne s (.inr h), dropCopy_home ..⟩

theorem SameByte.trans {s t u : State} {a : Nat} (h : SameByte s t a) (h' : SameByte t u a) : SameByte s u a :=
  ⟨fun l => (h'.copies l).trans (h.copies l), h'.home.trans h.home⟩

/-- A byte of a level handed down, and the copy discarded. -/
def flushByte (l : Level) (next : List Level) (s : State) (a : Nat) : State := discardByte a [l] 1 (cleanByte a (l :: next) 1 s)

theorem flushByte_eq (l : Level) (next : List Level) (s : State) (a : Nat) :
    flushByte l next s a = dropCopy (cleanByte a (l :: next) 1 s) l a := rfl

theorem copiesOnly_flushByte (l : Level) (next : List Level) (s : State) (a : Nat) : CopiesOnly s (flushByte l next s a) :=
  (copiesOnly_cleanByte s a (l :: next) 1).trans (copiesOnly_setLevel ..)

theorem flushByte_others (l : Level) (next : List Level) (s : State) {a b : Nat} (h : b ≠ a) : SameByte s (flushByte l next s a) b :=
  (cleanByte_others s h _ 1).trans (dropCopy_others _ h l)

theorem copyAt_flushByte_self (l : Level) (next : List Level) (s : State) (a : Nat) : copyAt (flushByte l next s a) l a = none :=
  copyAt_dropCopy ..

theorem copyAt_flushByte_off {l k : Level} {next : List Level} (hl : k ≠ l) (hk : k ∉ next) (s : State) (a : Nat) :
    copyAt (flushByte l next s a) k a = copyAt s k a :=
  (copyAt_dropCopy_ne _ (.inl hl)).trans (copyAt_cleanByte_off s a (List.not_mem_cons_of_ne_of_not_mem hl hk) 1)

/-- A level without a dirty copy hands nothing down. -/
theorem flushByte_clean {l : Level} {s : State} {a : Nat} (h : ∀ c, copyAt s l a = some c → c.dirty = false) (next : List Level) :
    flushByte l next s a = dropCopy s l a := by
  rw [flushByte_eq, cleanByte_skip h]
  cases next <;> rfl

/-- A level that holds no copy of a byte holds none when others are flushed past it. -/
theorem copyAt_flushByte_none {k : Level} {b : Nat} {l : Level} {next : List Level} (hk : k ∉ next) {s : State}
    (h : copyAt s k b = none) (a : Nat) : copyAt (flushByte l next s a) k b = none := by
  by_cases hb : b = a
  · subst hb
    by_cases hl : k = l
    · subst hl
      exact copyAt_flushByte_self ..
    · exact (copyAt_flushByte_off hl hk s b).trans h
  · exact ((flushByte_others l next s hb).copies k).trans h

/-- The bytes of a page that a link buffer holds. -/
def linkBytes (s : State) (page h : Nat) : List Nat := (((hingeOf s h).link).filter fun e => e.1 / 65536 == page).map (·.1)

theorem mem_linkBytes {s : State} {page h a : Nat} {c : Copy} (ha : a / 65536 = page) (hc : copyAt s (.link h) a = some c) :
    a ∈ linkBytes s page h := List.mem_map.mpr ⟨(a, c), List.mem_filter.mpr ⟨mem_of_aFind hc, by simp [ha]⟩, rfl⟩

theorem page_of_mem_linkBytes {s : State} {page h a : Nat} (ha : a ∈ linkBytes s page h) : a / 65536 = page := by
  obtain ⟨e, he, rfl⟩ := List.mem_map.mp ha
  simpa using (List.mem_filter.mp he).2

/-- The copies of a page in one link buffer gone home. -/
def linkFlush (page : Nat) (s : State) (h : Nat) : State := (linkBytes s page h).foldl (flushByte (.link h) []) s

/-- The copies of a page in every link buffer gone home. -/
def linksFlush (page : Nat) (s : State) : State := (List.range 4).foldl (linkFlush page) s

theorem movePage_eq (s : State) (page home f : Nat) : movePage s page home f = takeFrame (linksFlush page s) page home f := by
  have hflush : ∀ (u : State) (h : Nat), linkFlush page u h = (((hingeOf u h).link).filter fun e => e.1 / 65536 == page).foldl
      (fun s e => flushByte (.link h) [] s e.1) u := fun u h => List.foldl_map
  rw [linksFlush, show linkFlush page = _ from funext fun u => funext fun h => hflush u h]
  rfl

/-- What each byte of the page going home keeps, all of them keep. -/
theorem linksFlush_induction {page : Nat} {R : State → Prop}
    (hR : ∀ u h a, h < 4 → a / 65536 = page → R u → R (flushByte (.link h) [] u a)) {s : State} (hs : R s) : R (linksFlush page s) :=
  List.foldlRecOn _ _ hs fun _ hu h hh => List.foldlRecOn _ _ hu fun v hv a ha =>
    hR v h a (List.mem_range.mp hh) (page_of_mem_linkBytes ha) hv

/-- Nothing changes but bytes at home and the link buffers. -/
structure LinksOnly (s t : State) : Prop where
  frame : t = { s with mem := t.mem, hinges := t.hinges }
  hinge : ∀ h, hingeOf t h = { hingeOf s h with link := (hingeOf t h).link }

theorem linksOnly_flushByte (h : Nat) (s : State) (a : Nat) : LinksOnly s (flushByte (.link h) [] s a) := by
  refine ⟨?_, (copiesOnly_flushByte ..).hinge⟩
  rw [flushByte_eq]
  by_cases hclean : ∀ c, copyAt s (.link h) a = some c → c.dirty = false
  · rw [cleanByte_skip hclean]
    rfl
  · push Not at hclean
    obtain ⟨c, hc, hd⟩ := hclean
    rw [cleanByte_dirty hc (Bool.eq_true_of_not_eq_false hd)]
    rfl

theorem linksOnly_linksFlush (page : Nat) (s : State) : LinksOnly s (linksFlush page s) := by
  refine linksFlush_induction (R := LinksOnly s) (fun u h a _ _ hu => ?_) ⟨rfl, fun _ => rfl⟩
  obtain ⟨hframe, hhinge⟩ := linksOnly_flushByte h u a
  exact ⟨hframe.trans (by rw [hu.frame]), fun n => (hhinge n).trans (by rw [hu.hinge])⟩

theorem LinksOnly.sameHomes {s t : State} (h : LinksOnly s t) : SameHomes s t := ⟨by rw [h.frame], fun n => by rw [h.hinge]⟩

theorem LinksOnly.kept {s t : State} (h : LinksOnly s t) :
    t.bands = s.bands ∧ t.teams = s.teams ∧ t.cores = s.cores ∧ t.clusters = s.clusters := by
  rw [h.frame]
  exact ⟨rfl, rfl, rfl, rfl⟩

theorem copyAt_linksFlush {page k a : Nat} (hk : k < 4) (ha : a / 65536 = page) (s : State) :
    copyAt (linksFlush page s) (.link k) a = none := by
  have hkeep : ∀ h u, copyAt u (.link k) a = none → copyAt (linkFlush page u h) (.link k) a = none := fun h u hu =>
    List.foldlRecOn (motive := fun v => copyAt v (.link k) a = none) _ _ hu fun v hv b _ => copyAt_flushByte_none List.not_mem_nil hv b
  refine foldl_reaches (P := fun u => copyAt u (.link k) a = none) (fun u => ?_) (fun u h => hkeep h u) _
    (.inr (List.mem_range.mpr hk))
  refine foldl_reaches (P := fun u => copyAt u (.link k) a = none) (b := a) (fun v => copyAt_flushByte_self ..)
    (fun v b hv => copyAt_flushByte_none List.not_mem_nil hv b) _ ?_
  cases hc : copyAt u (.link k) a with
  | none => exact .inl rfl
  | some c => exact .inr (mem_linkBytes ha hc)

theorem linksFlush_others {page a : Nat} (ha : a / 65536 ≠ page) (s : State) : homeByte (linksFlush page s) a = homeByte s a :=
  linksFlush_induction (R := fun u => homeByte u a = homeByte s a)
    (fun u h b _ hb hu => ((flushByte_others (.link h) [] u fun e : a = b => ha (e ▸ hb)).home).trans hu) rfl

/-- No link buffer holds a dirty byte of a page. -/
def LinksCleanOf (page : Nat) (s : State) : Prop :=
  ∀ k a c, k < 4 → a / 65536 = page → copyAt s (.link k) a = some c → c.dirty = false

theorem linksFlush_clean {page : Nat} {s : State} (h : LinksCleanOf page s) (a : Nat) : homeByte (linksFlush page s) a = homeByte s a := by
  refine (linksFlush_induction (R := fun u => LinksCleanOf page u ∧ homeByte u a = homeByte s a) (fun u j b hj hb hu => ?_) ⟨h, rfl⟩).2
  rw [flushByte_clean fun c => hu.1 j b c hj hb]
  refine ⟨fun k x c hk hx hc => ?_, (dropCopy_home ..).trans hu.2⟩
  by_cases hsame : Level.link k = .link j ∧ x = b
  · obtain ⟨hkj, rfl⟩ := hsame
    rw [hkj, copyAt_dropCopy] at hc
    cases hc
  · rw [copyAt_dropCopy_ne u (not_and_or.mp hsame)] at hc
    exact hu.1 k x c hk hx hc

end Sys2Proof.Proofs
end

section
/-! SUPPORT. PROMOTION_MOVE and PROMOTION_COUNTER_HALVE (R247), BACKGROUND_WRITEBACK and BACKGROUND_DISCARD (R235, R270), and O58. -/

namespace Sys2Proof.Proofs

open Sys2Proof.Machine Sys2Proof.Claims

/-! ### PROMOTION_MOVE (R247) -/

/-- The promotion engine of a hinge moves a page to a home. -/
def MayPromote (s : State) (h page home : Nat) : Prop :=
  promEnabled s h page = true ∧ pageLost s page = false ∧ homeBusy s (homeOfPage s page) = false ∧ homeBusy s home = false ∧
    (home < 16 → 16 ≤ homeOfPage s page ∧ Config.promoteFrom.toNat ≤ (aGet 0 page s.promo).toNat) ∧
    (16 ≤ home → homeOfPage s page < 16 ∧ (aGet 0 page s.promo).toNat ≤ Config.demoteTo.toNat)

theorem promotes_iff {s : State} {page home : Nat} : promotes s page home = true ↔
    (home < 16 → 16 ≤ homeOfPage s page ∧ Config.promoteFrom.toNat ≤ (aGet 0 page s.promo).toNat) ∧
      (16 ≤ home → homeOfPage s page < 16 ∧ (aGet 0 page s.promo).toNat ≤ Config.demoteTo.toNat) := by
  unfold promotes
  by_cases h : home < 16
  · simp [h, Nat.not_le.mpr h]
  · simp [h, Nat.not_lt.mp h]

section
variable {s : State} {h page home : Nat} (hh : h < 4) (hhome : home < 32)
include hh hhome

theorem mayPromote_iff : MayPromote s h page home ↔
    ¬ (4 ≤ h ∨ 32 ≤ home ∨ !promotes s page home ∨ !promEnabled s h page ∨ pageLost s page ∨ moveWaits s page home) := by
  have hleft : ¬ 4 ≤ h := Nat.not_le.mpr hh
  have hright : ¬ 32 ≤ home := Nat.not_le.mpr hhome
  simp only [hleft, hright, false_or, not_or, Bool.not_eq_true', Bool.not_eq_false, promotes_iff, moveWaits, Bool.or_eq_true,
    Bool.not_eq_true, MayPromote]
  tauto

theorem promote_of_may_not (hmay : ¬ MayPromote s h page home) : promote s h page home = s :=
  if_pos (not_not.mp (mt (mayPromote_iff hh hhome).mpr hmay))

theorem promote_of_may (hmay : MayPromote s h page home) : promote s h page home =
    match (freeFrame s home).1 with
    | none => (freeFrame s home).2
    | some f => setHinge (movePage (freeFrame s home).2 page home f) h
        { hingeOf (movePage (freeFrame s home).2 page home f) h with
          promotions := (hingeOf (movePage (freeFrame s home).2 page home f) h).promotions + 1 } := by
  refine (if_neg ((mayPromote_iff hh hhome).mp hmay)).trans ?_
  unfold moveTo
  rcases freeFrame s home with ⟨_ | f, u⟩ <;> rfl

end

theorem happens_promotionMove {s : State} {h page home : Nat} {P : State → Prop} (hP : P (promote s h page home)) :
    Happens .promotionMove (.promotionMove h page home) s P := fun hcur => ⟨_, by rw [exec_promotionMove, execPromotionMove, hcur], hP⟩

/-- What a page's move leaves. -/
structure PageMoved (s t : State) (h page home f : Nat) : Prop where
  place : placeOfPage t page = (home, f)
  frame : f < framesOf s home
  others : ∀ p, p ≠ page → placeOfPage t p = placeOfPage s p ∨
    (placeOfPage s p = (home, f) ∧ pageUnused s p = true ∧ placeOfPage t p = placeOfPage s page)
  lost : ∀ p, pageLost t p = pageLost s p
  count : (hingeOf t h).promotions = (hingeOf s h).promotions + 1
  links : ∀ k a, k < 4 → a / 65536 = page → copyAt t (.link k) a = none
  bytes : ∀ a, a / 65536 ≠ page → homeByte t a = homeByte s a
  clean : LinksCleanOf page s → ∀ a, homeByte t a = homeByte s a
  rest : t.bands = s.bands ∧ t.teams = s.teams ∧ t.cores = s.cores ∧ t.clusters = s.clusters

theorem sameByte_takeFrame (s : State) (page home f a : Nat) : SameByte s (takeFrame s page home f) a := by
  rw [takeFrame_frame]
  exact ⟨fun l => by cases l <;> rfl, rfl⟩

theorem hingeOf_takeFrame (s : State) (page home f h : Nat) : hingeOf (takeFrame s page home f) h = hingeOf s h := by
  rw [takeFrame_frame]
  rfl

/-- A hinge's copies are as they were, whatever else of it changes. -/
theorem sameByte_setHinge (s : State) {h : Nat} {x : Hinge} (hlink : x.link = (hingeOf s h).link) (a : Nat) :
    SameByte s (setHinge s h x) a := by
  refine ⟨fun l => ?_, rfl⟩
  cases l with
  | l1 c => rfl
  | cluster n => rfl
  | link k =>
    rw [copyAt, copyAt, levelMap, levelMap]
    by_cases hk : k = h
    · rw [hk, hingeOf_setHinge, hlink]
    · rw [hingeOf_setHinge_ne s hk]

theorem sameHomes_setHinge (s : State) {h : Nat} {x : Hinge} (hmods : x.modules = (hingeOf s h).modules) :
    SameHomes s (setHinge s h x) := by
  refine ⟨rfl, fun k => ?_⟩
  by_cases hk : k = h
  · rw [hk, hingeOf_setHinge, hmods]
  · rw [hingeOf_setHinge_ne s hk]

theorem SameHomes.placeOfPage {s t : State} (h : SameHomes s t) (p : Nat) : placeOfPage t p = placeOfPage s p := by
  rw [Machine.placeOfPage, Machine.placeOfPage, h.remap, h.defaultPlace]

theorem SameHomes.pageLost {s t : State} (h : SameHomes s t) (p : Nat) : pageLost t p = pageLost s p := by
  rw [Machine.pageLost, Machine.pageLost, h.remap]

theorem SameHomes.pageInFrame {s t : State} (h : SameHomes s t) (home f : Nat) : pageInFrame t home f = pageInFrame s home f := by
  have hnumber : numberOfFrame t home f = numberOfFrame s home f := by simp only [numberOfFrame, h.moduleOf]
  rw [Machine.pageInFrame, h.remap, h.installedPages, hnumber]
  rfl

/-- A move counted at a hinge. -/
def countMove (s : State) (h : Nat) : State := setHinge s h { hingeOf s h with promotions := (hingeOf s h).promotions + 1 }

theorem sameByte_countMove (s : State) (h a : Nat) : SameByte s (countMove s h) a :=
  sameByte_setHinge s (x := { hingeOf s h with promotions := (hingeOf s h).promotions + 1 }) rfl a

theorem sameHomes_countMove (s : State) (h : Nat) : SameHomes s (countMove s h) :=
  sameHomes_setHinge s (x := { hingeOf s h with promotions := (hingeOf s h).promotions + 1 }) rfl

/-- The move of a page to a free frame of another home, counted at a hinge. -/
def movedAndCounted (s : State) (h page home f : Nat) : State := countMove (movePage s page home f) h

theorem countMove_takeFrame (s : State) (h page home f : Nat) : countMove (takeFrame s page home f) h =
    { s with hinges := (countMove (takeFrame s page home f) h).hinges, remap := (takeFrame s page home f).remap } := by
  rw [takeFrame_frame]
  rfl

theorem movedAndCounted_moved {s : State} (hkeys : (s.remap.map (·.1)).Nodup) {h page home f : Nat} (hhome : home < 32)
    (hf : f < framesOf s home) (hfree : frameFree s home f = true) : PageMoved s (movedAndCounted s h page home f) h page home f := by
  have hlinks := linksOnly_linksFlush page s
  have hhomes := hlinks.sameHomes
  have hbyte : ∀ a, SameByte (linksFlush page s) (movedAndCounted s h page home f) a := fun a => by
    rw [movedAndCounted, movePage_eq]
    exact (sameByte_takeFrame ..).trans (sameByte_countMove ..)
  have hplace : ∀ p, placeOfPage (movedAndCounted s h page home f) p = placeOfPage (takeFrame (linksFlush page s) page home f) p :=
    fun p => by
      rw [movedAndCounted, movePage_eq]
      exact (sameHomes_countMove ..).placeOfPage p
  constructor
  case place => rw [hplace, placeOfPage_takeFrame_self]
  case frame => exact hf
  case others =>
    intro p hp
    rw [hplace, ← hhomes.placeOfPage p, ← hhomes.placeOfPage page]
    refine (placeOfPage_takeFrame_ne _ hp home f).imp id fun ⟨hin, hold⟩ => ?_
    rw [hhomes.pageInFrame] at hin
    exact ⟨(hhomes.placeOfPage p).trans (placeOfPage_pageInFrame hkeys hhome hf hin), pageUnused_of_free hfree hin, hold⟩
  case lost =>
    intro p
    rw [movedAndCounted, movePage_eq, (sameHomes_countMove ..).pageLost, pageLost_takeFrame, hhomes.pageLost]
  case count =>
    rw [movedAndCounted, countMove, hingeOf_setHinge, movePage_eq, hingeOf_takeFrame, hlinks.hinge]
  case links => exact fun k a hk ha => ((hbyte a).copies _).trans (copyAt_linksFlush hk ha s)
  case bytes => exact fun a ha => (hbyte a).home.trans (linksFlush_others ha s)
  case clean => exact fun hclean a => (hbyte a).home.trans (linksFlush_clean hclean a)
  case rest =>
    rw [movedAndCounted, movePage_eq, countMove_takeFrame]
    dsimp only
    exact hlinks.kept

/-- The counter of choices has no part in a page's move. -/
theorem PageMoved.of_tick {s t : State} {k h page home f : Nat} (hmoved : PageMoved { s with tick := k } t h page home f) :
    PageMoved s t h page home f :=
  have hframe : framesOf { s with tick := k } home = framesOf s home := rfl
  have hplace : ∀ p, placeOfPage { s with tick := k } p = placeOfPage s p := fun _ => rfl
  have hlost : ∀ p, pageLost { s with tick := k } p = pageLost s p := fun _ => rfl
  have hunused : ∀ p, pageUnused { s with tick := k } p = pageUnused s p := fun _ => rfl
  ⟨hmoved.place, hframe ▸ hmoved.frame, fun p hp => by simpa only [hplace, hunused] using hmoved.others p hp,
    fun p => (hmoved.lost p).trans (hlost p), hmoved.count, hmoved.links, hmoved.bytes, hmoved.clean, hmoved.rest⟩

theorem promote_moved {s : State} (hkeys : (s.remap.map (·.1)).Nodup) {h page home f : Nat} (hhome : home < 32)
    (hf : (freeFrame s home).1 = some f) : PageMoved s (movedAndCounted (freeFrame s home).2 h page home f) h page home f := by
  obtain ⟨hframe, hfree⟩ := freeFrame_spec hf
  rw [freeFrame_frame]
  exact (movedAndCounted_moved (s := { s with tick := (freeFrame s home).2.tick }) hkeys hhome hframe hfree).of_tick

/-! ### PROMOTION_COUNTER_HALVE (R247) -/

theorem aFind_aMap {β : Type} (f : Nat → β → β) (k : Nat) (m : AList β) : aFind k (aMap f m) = (aFind k m).map (f k) := by
  induction m with
  | nil => rfl
  | cons e m ih =>
    obtain ⟨j, v⟩ := e
    rw [aMap, aFind, aFind]
    by_cases h : j = k
    · rw [if_pos h, if_pos h, h, Option.map_some]
    · rw [if_neg h, if_neg h, ih]

/-- In a map with rising keys the value that a key has is the only one that a filter may keep of it. -/
theorem aFind_aFilter {β : Type} (p : Nat → β → Bool) {lo : Nat} {m : AList β} (hm : aRising lo m = true) (k : Nat) :
    aFind k (aFilter p m) = (aFind k m).filter (p k) := by
  induction m generalizing lo with
  | nil => rfl
  | cons e m ih =>
    obtain ⟨j, v⟩ := e
    simp only [aRising, Bool.and_eq_true, decide_eq_true_eq] at hm
    rw [aFilter, aFind]
    by_cases hj : j = k
    · subst hj
      rw [if_pos rfl, Option.filter_some]
      split
      · rw [aFind, if_pos rfl]
      · rw [ih hm.2, aFind_lt_rising hm.2 (Nat.lt_succ_self j)]
        rfl
    · rw [if_neg hj, ← ih hm.2]
      split
      · rw [aFind, if_neg hj]
      · rfl

theorem aGet_halved {m : AList (BitVec 8)} (hm : aSorted m = true) (n p : Nat) :
    (aGet 0 p (aFilter (fun _ v => v != 0) (aMap (fun _ v => v >>> n) m)) : BitVec 8) = aGet 0 p m >>> n := by
  have hrising : aRising 0 (aMap (fun _ (v : BitVec 8) => v >>> n) m) = true := aRising_aMap _ hm
  rw [aGet, aGet, aFind_aFilter _ hrising, aFind_aMap]
  cases aFind p m with
  | none => simp
  | some v =>
    rw [Option.map_some, Option.filter_some, Option.getD_some]
    split
    · rfl
    next h =>
      have hzero : v >>> n = 0 := by simpa using h
      exact hzero.symm

theorem happens_promotionCounterHalve {s : State} {P : State → Prop} (hP : P (halveCounters s)) :
    Happens .promotionCounterHalve .promotionCounterHalve s P := fun hcur =>
  ⟨_, by rw [exec_promotionCounterHalve, execPromotionCounterHalve, hcur], hP⟩

/-! ### BACKGROUND_WRITEBACK (R235, R270) -/

theorem belowLevel_eq (s : State) (l : Level) (a : Nat) : belowLevel s l a = levelBelow s a l := by
  cases l <;> rfl

theorem mayDiscard_iff {s : State} {l : Level} {a : Nat} : mayDiscard s l a = true ↔ ¬ Pinned s l a := by
  cases l with
  | l1 c => simp [mayDiscard, Pinned]
  | cluster n =>
    simp only [mayDiscard, pinnedIn, Pinned, Bool.not_eq_true', List.any_eq_false, Bool.and_eq_true, beq_iff_eq,
      List.contains_iff_mem, Level.cluster.injEq, exists_eq_left']
    push Not
    exact Iff.rfl
  | link h => simp [mayDiscard, Pinned]

theorem levelBelow_ne {s : State} {a : Nat} {l m : Level} (h : levelBelow s a l = some m) : m ≠ l := by
  rintro rfl
  cases m <;> simp [levelBelow] at h

/-- One byte of a line written back. -/
def backByte (l : Level) (discard : Bool) (s : State) (a : Nat) : State :=
  match copyAt s l a with
  | some c =>
    if c.dirty then
      let s := cleanByte a (l :: (belowLevel s l a).toList) 1 s
      if discard && mayDiscard s l a then dropCopy s l a else s
    else s
  | none => s

theorem writebackLine_eq (s : State) (l : Level) (line : Nat) (discard : Bool) :
    writebackLine s l line discard = (addrRange (line / 128 * 128) 128).foldl (backByte l discard) s := rfl

theorem backByte_clean {s : State} {l : Level} {a : Nat} (h : ∀ c, copyAt s l a = some c → c.dirty = false) (discard : Bool) :
    backByte l discard s a = s := by
  rw [backByte]
  split
  next c hc => rw [h c hc, if_neg Bool.false_ne_true]
  next => rfl

theorem backByte_dirty {s : State} {l : Level} {a : Nat} {c : Copy} (hc : copyAt s l a = some c) (hd : c.dirty = true)
    (discard : Bool) : backByte l discard s a =
      if (discard && mayDiscard s l a) = true then dropCopy (handDown s a l (levelBelow s a l).toList c.value) l a
      else handDown s a l (levelBelow s a l).toList c.value := by
  have hend : ∀ p u, cleanByte a p 0 u = u := fun p u => by cases p <;> rfl
  have hteams : mayDiscard (handDown s a l (levelBelow s a l).toList c.value) l a = mayDiscard s l a := by
    rw [(copiesOnly_handDown s a l (levelBelow s a l).toList c.value).frame]
    rfl
  rw [backByte, hc, belowLevel_eq]
  dsimp only
  rw [if_pos hd, cleanByte_dirty hc hd, hend, hteams]

theorem copiesOnly_backByte (l : Level) (discard : Bool) (s : State) (a : Nat) : CopiesOnly s (backByte l discard s a) := by
  by_cases h : ∀ c, copyAt s l a = some c → c.dirty = false
  · rw [backByte_clean h]
    exact .refl s
  · push Not at h
    obtain ⟨c, hc, hd⟩ := h
    rw [backByte_dirty hc (Bool.eq_true_of_not_eq_false hd)]
    split
    · exact (copiesOnly_handDown ..).trans (copiesOnly_setLevel ..)
    · exact copiesOnly_handDown ..

theorem backByte_others (l : Level) (discard : Bool) (s : State) {a b : Nat} (hb : b ≠ a) : SameByte s (backByte l discard s a) b := by
  by_cases h : ∀ c, copyAt s l a = some c → c.dirty = false
  · rw [backByte_clean h]
    exact ⟨fun _ => rfl, rfl⟩
  · push Not at h
    obtain ⟨c, hc, hd⟩ := h
    rw [backByte_dirty hc (Bool.eq_true_of_not_eq_false hd)]
    split
    · exact (handDown_others s hb ..).trans (dropCopy_others _ hb l)
    · exact handDown_others s hb ..

/-- What a dirty byte of a line becomes when the line is written back. -/
structure ByteBack (s t : State) (l : Level) (a : Nat) (discard : Bool) (c : Copy) : Prop where
  gone : discard = true → ¬ Pinned s l a → copyAt t l a = none
  clean : discard = false ∨ Pinned s l a → copyAt t l a = some { value := c.value, dirty := false }
  below : ∀ m, levelBelow s a l = some m → copyAt t m a = some { value := c.value, dirty := true } ∧ homeByte t a = homeByte s a
  home : levelBelow s a l = none → homeByte t a = c.value

theorem handDown_home_below (s : State) (a : Nat) (l m : Level) (rest : List Level) (v : Byte) (b : Nat) :
    homeByte (handDown s a l (m :: rest) v) b = homeByte s b := (putCopy_home ..).trans (putCopy_home ..)

theorem backByte_back {s : State} {l : Level} {a : Nat} {c : Copy} (hc : copyAt s l a = some c) (hd : c.dirty = true)
    (discard : Bool) : ByteBack s (backByte l discard s a) l a discard c := by
  rw [backByte_dirty hc hd]
  have hbelow : ∀ m, levelBelow s a l = some m →
      copyAt (handDown s a l (levelBelow s a l).toList c.value) m a = some { value := c.value, dirty := true } ∧
        homeByte (handDown s a l (levelBelow s a l).toList c.value) a = homeByte s a := fun m hm => by
    rw [hm]
    exact ⟨copyAt_handDown_next s a (levelBelow_ne hm) [] c.value, handDown_home_below ..⟩
  have hhome : levelBelow s a l = none → homeByte (handDown s a l (levelBelow s a l).toList c.value) a = c.value := fun hm => by
    rw [hm]
    exact handDown_home ..
  split
  next hgone =>
    obtain ⟨hdiscard, hpin⟩ := Bool.and_eq_true_iff.mp hgone
    refine ⟨fun _ _ => copyAt_dropCopy .., fun hkept => ?_, fun m hm => ?_, fun hm => (dropCopy_home ..).trans (hhome hm)⟩
    · exact absurd hkept (not_or.mpr ⟨by simp [hdiscard], mayDiscard_iff.mp hpin⟩)
    · exact ⟨(copyAt_dropCopy_ne _ (.inl (levelBelow_ne hm))).trans (hbelow m hm).1, (dropCopy_home ..).trans (hbelow m hm).2⟩
  next hkept =>
    refine ⟨fun hdiscard hpin => ?_, fun _ => copyAt_handDown_self .., hbelow, hhome⟩
    exact absurd (Bool.and_eq_true_iff.mpr ⟨hdiscard, mayDiscard_iff.mpr hpin⟩) hkept

/-- A step for each of some addresses that leaves other bytes alone: what is left of a byte is what its own step leaves. -/
theorem foldl_bytes {f : State → Nat → State} (hcopies : ∀ s a, CopiesOnly s (f s a)) (hothers : ∀ s a b, b ≠ a → SameByte s (f s a) b)
    {as : List Nat} (has : as.Nodup) (s : State) (b : Nat) :
    (b ∉ as → SameByte s (as.foldl f s) b) ∧
      (b ∈ as → ∃ u, CopiesOnly s u ∧ SameByte s u b ∧ SameByte (f u b) (as.foldl f s) b) := by
  induction as generalizing s with
  | nil => exact ⟨fun _ => ⟨fun _ => rfl, rfl⟩, fun h => absurd h List.not_mem_nil⟩
  | cons a as ih =>
    obtain ⟨ha, has⟩ := List.nodup_cons.mp has
    obtain ⟨hout, hin⟩ := ih has (f s a)
    refine ⟨fun hb => ?_, fun hb => ?_⟩
    · exact (hothers s a b (List.ne_of_not_mem_cons hb)).trans (hout (List.not_mem_of_not_mem_cons hb))
    · rcases List.mem_cons.mp hb with rfl | hb
      · exact ⟨s, .refl s, ⟨fun _ => rfl, rfl⟩, hout ha⟩
      · obtain ⟨u, hu, hbyte, hend⟩ := hin hb
        exact ⟨u, (hcopies s a).trans hu, (hothers s a b fun h => ha (h ▸ hb)).trans hbyte, hend⟩

theorem mem_addrRange {a n b : Nat} : b ∈ addrRange a n ↔ a ≤ b ∧ b < a + n := by
  simp only [addrRange, List.mem_map, List.mem_range]
  exact ⟨fun ⟨i, hi, h⟩ => by omega, fun ⟨h, h'⟩ => ⟨b - a, by omega, by omega⟩⟩

theorem nodup_addrRange (a n : Nat) : (addrRange a n).Nodup :=
  List.nodup_range.map fun _ _ h => Nat.add_left_cancel h

theorem mem_line {line b : Nat} : b ∈ addrRange (line / 128 * 128) 128 ↔ b / 128 = line / 128 := by
  rw [mem_addrRange]
  omega

theorem writebackLine_bytes (s : State) (l : Level) (line : Nat) (discard : Bool) (b : Nat) :
    (b / 128 ≠ line / 128 → SameByte s (writebackLine s l line discard) b) ∧
      (b / 128 = line / 128 → ∃ u, CopiesOnly s u ∧ SameByte s u b ∧
        SameByte (backByte l discard u b) (writebackLine s l line discard) b) := by
  rw [← mem_line, writebackLine_eq, ne_eq, ← mem_line]
  exact foldl_bytes (copiesOnly_backByte l discard) (fun s a b h => backByte_others l discard s h) (nodup_addrRange ..) s b

theorem copiesOnly_writebackLine (s : State) (l : Level) (line : Nat) (discard : Bool) :
    CopiesOnly s (writebackLine s l line discard) :=
  List.foldlRecOn _ _ (.refl s) fun u hu a _ => hu.trans (copiesOnly_backByte l discard u a)

/-- The count of write-backs apart, a line's write-back is that of its bytes. -/
theorem writebackCounted_eq (s : State) (l : Level) (line : Nat) (discard : Bool) :
    ∃ k n, writebackCounted s l line discard = countBacks (writebackLine s l line discard) k n := by
  unfold writebackCounted
  cases l with
  | cluster n =>
    dsimp only
    split
    · exact ⟨n, 1, rfl⟩
    · exact ⟨0, 0, rfl⟩
  | l1 c => exact ⟨0, 0, rfl⟩
  | link h => exact ⟨0, 0, rfl⟩

theorem SameHomes.levelBelow {s t : State} (h : SameHomes s t) (a : Nat) (l : Level) : levelBelow t a l = levelBelow s a l := by
  cases l <;> simp only [Claims.levelBelow, h.remote]

theorem CopiesOnly.pinned {s t : State} (h : CopiesOnly s t) (l : Level) (a : Nat) : Pinned t l a ↔ Pinned s l a := by
  rw [h.frame]
  rfl

/-- What a byte becomes depends on its copies and its page's home alone. -/
theorem ByteBack.of_same {s u v t : State} {l : Level} {a : Nat} {discard : Bool} {c : Copy} (h : ByteBack u v l a discard c)
    (hu : CopiesOnly s u) (hbyte : SameByte s u a) (ht : SameByte v t a) : ByteBack s t l a discard c where
  gone hdiscard hpin := (ht.copies l).trans (h.gone hdiscard (mt (hu.pinned l a).mp hpin))
  clean hkept := (ht.copies l).trans (h.clean (hkept.imp id (hu.pinned l a).mpr))
  below m hm := by
    obtain ⟨hcopy, hhome⟩ := h.below m ((hu.sameHomes.levelBelow a l).trans hm)
    exact ⟨(ht.copies m).trans hcopy, ht.home.trans (hhome.trans hbyte.home)⟩
  home hm := ht.home.trans (h.home ((hu.sameHomes.levelBelow a l).trans hm))

theorem happens_backgroundWriteback {s : State} {l : Level} {line : Nat} {discard : Bool} {P : State → Prop}
    (hP : P (writebackCounted s l line discard)) : Happens .backgroundWriteback (.backgroundWriteback l line discard) s P := fun hcur =>
  ⟨_, by rw [exec_backgroundWriteback, execBackgroundWriteback, hcur], hP⟩

/-! ### BACKGROUND_DISCARD (R235, R270) -/

theorem pinned_line {s : State} {l : Level} {a : Nat} : Pinned s l (a / 128 * 128) ↔ Pinned s l a := by
  have hpage : a / 128 * 128 / 65536 = a / 65536 := by omega
  simp only [Pinned, hpage]

theorem dropLine_of_pinned {s : State} {l : Level} {a : Nat} (h : Pinned s l a) : dropLine s l a = s :=
  if_neg fun hmay => mayDiscard_iff.mp hmay (pinned_line.mpr h)

theorem dropLine_of_not_pinned {s : State} {l : Level} {a : Nat} (h : ¬ Pinned s l a) : dropLine s l a =
    setLevel s l (aFilter (fun b c => !(decide (b / 128 = a / 128) && !c.dirty)) (levelMap s l)) :=
  if_pos (mayDiscard_iff.mpr (mt pinned_line.mp h))

theorem copyAt_setLevel_filter {s : State} {l : Level} (hl : aSorted (levelMap s l) = true) (p : Nat → Copy → Bool) (b : Nat) :
    copyAt (setLevel s l (aFilter p (levelMap s l))) l b = (copyAt s l b).filter (p b) := by
  rw [copyAt, levelMap_setLevel_self, aFind_aFilter p hl]
  rfl

theorem happens_backgroundDiscard {s : State} {l : Level} {a : Nat} {P : State → Prop} (hP : P (dropLine s l a)) :
    Happens .backgroundDiscard (.backgroundDiscard l a) s P := fun hcur =>
  ⟨_, by rw [exec_backgroundDiscard, execBackgroundDiscard, hcur], hP⟩

/-! ### O58 -/

/-- Settles O58: the move by the page that has the free frame, the count entry by entry, a line byte by byte. -/
theorem cachesAndPromotion : Obligations.CachesAndPromotion := by
  refine ⟨fun s h page home hh hhome hkeys => ⟨fun hmay => ?_, fun hmay => ?_⟩, fun s hsorted => ⟨fun hn => ?_, fun hn => ?_⟩,
    fun s l line discard => ?_, fun s l a hsorted => ⟨fun hpin => ?_, fun hpin => ?_⟩⟩
  · exact happens_promotionMove (promote_of_may_not hh hhome hmay)
  · refine happens_promotionMove ?_
    rw [promote_of_may hh hhome hmay]
    cases hf : (freeFrame s home).1 with
    | none => exact freeFrame_frame s home
    | some f =>
      obtain ⟨hplace, hframe, hothers, hlost, hcount, hlinks, hbytes, hclean, hrest⟩ := promote_moved (h := h) (page := page) hkeys hhome hf
      exact ⟨hplace, hframe, hothers, hlost, hcount, hlinks, hbytes, hclean, hrest⟩
  · exact happens_promotionCounterHalve (if_pos hn)
  · refine happens_promotionCounterHalve ?_
    rw [halveCounters, if_neg (Nat.not_le.mpr hn)]
    exact ⟨rfl, aGet_halved hsorted _⟩
  · refine happens_backgroundWriteback ?_
    obtain ⟨k, n, hcount⟩ := writebackCounted_eq s l line discard
    have hkeeps := ((copiesOnly_writebackLine s l line discard).trans (copiesOnly_countBacks _ k n)).keepsBands
    rw [hcount]
    refine ⟨fun a c ha hc hd => ?_, fun a ha => ?_, fun a c hc hd => ?_, hkeeps.bands, hkeeps.teams⟩
    · obtain ⟨u, hu, hbyte, hend⟩ := (writebackLine_bytes s l line discard a).2 ha
      obtain ⟨hgone, hkept, hbelow, hhome⟩ := (backByte_back ((hbyte.copies l).trans hc) hd discard).of_same hu hbyte
        (hend.trans (sameByte_countBacks _ k n a))
      exact ⟨hgone, hkept, hbelow, hhome⟩
    · have hsame := ((writebackLine_bytes s l line discard a).1 ha).trans (sameByte_countBacks _ k n a)
      exact ⟨hsame.home, hsame.copies⟩
    · refine ((sameByte_countBacks _ k n a).copies l).trans ?_
      by_cases ha : a / 128 = line / 128
      · obtain ⟨u, hu, hbyte, hend⟩ := (writebackLine_bytes s l line discard a).2 ha
        have hcu := (hbyte.copies l).trans hc
        rw [backByte_clean fun x hx => by rw [← Option.some.inj (hcu.symm.trans hx), hd]] at hend
        exact (hend.copies l).trans hcu
      · exact (((writebackLine_bytes s l line discard a).1 ha).copies l).trans hc
  · refine happens_backgroundDiscard ?_
    rw [dropLine_of_not_pinned hpin]
    refine ⟨fun b hb => ?_, fun m b hmb => ?_, fun b => ?_⟩
    · rw [copyAt_setLevel_filter hsorted]
      simp [hb]
    · by_cases hm : m = l
      · subst hm
        rw [copyAt_setLevel_filter hsorted]
        cases copyAt s m b <;> simp [hmb.resolve_left (not_not_intro rfl)]
      · rw [copyAt, levelMap_setLevel_ne s hm]
        rfl
    · rw [homeByte, setLevel_mem]
      rfl
  · exact happens_backgroundDiscard (dropLine_of_pinned hpin)

end Sys2Proof.Proofs
end

section
/-! SUPPORT. Translation (R222-R228): what walks, checks and windows depend on, what a translation changes, and that with a sound TLB it
gives what the tables give and leaves the TLB sound. -/

namespace Sys2Proof.Proofs

open Sys2Proof.Machine Sys2Proof.Claims

/-! ### What walks and checks depend on (R222-R225, R248, R479) -/

/-- Tables, pages and stacks are as they were. -/
structure SameTables (s t : State) : Prop where
  homes : SameHomes s t
  mem : t.mem = s.mem
  contexts : t.contexts = s.contexts
  memStacks : ∀ h, (hingeOf t h).memStacks = (hingeOf s h).memStacks

theorem listed_of_homeBusy {s : State} {home : Nat} (h : homeBusy s home = true) :
    (s.hinges.any fun x => x.2.memStacks.any fun k => k.2.state != 0) = true := by
  have hstate := (Bool.and_eq_true_iff.mp h).2
  cases hstack : aFind (home % 4) (hingeOf s (home / 4)).memStacks with
  | none => simp [aGet, hstack] at hstate
  | some k =>
    rw [aGet, hstack, Option.getD_some] at hstate
    cases hhinge : aFind (home / 4) s.hinges with
    | none => simp [hingeOf, aGet, hhinge] at hstack
    | some x =>
      rw [hingeOf, aGet, hhinge, Option.getD_some] at hstack
      exact List.any_eq_true.mpr ⟨_, mem_of_aFind hhinge, List.any_eq_true.mpr ⟨_, mem_of_aFind hstack, hstate⟩⟩

theorem stackBusy_eq (s : State) (a : Nat) : stackBusy s a = (decide (a < sysBase) && homeBusy s (homeOfPage s (a / 65536))) := by
  unfold stackBusy stackOfHome
  by_cases hhome : homeOfPage s (a / 65536) < 16
  · simp only [hhome, if_true]
    cases hbusy : homeBusy s (homeOfPage s (a / 65536)) with
    | true => rw [listed_of_homeBusy hbusy, Bool.true_and]
    | false => simp
  · have hidle : homeBusy s (homeOfPage s (a / 65536)) = false := by simp [homeBusy, hhome]
    simp [hhome, hidle]

section
variable {s t : State} (h : SameTables s t)
include h

theorem SameTables.walk (ctx va : Nat) : walk t ctx va = walk s ctx va := by
  have hread : ∀ a, homeRead t a 8 = homeRead s a 8 := fun a => by rw [homeRead, homeRead, h.mem]
  have hfrom : ∀ left table, walkFrom t va left table = walkFrom s va left table := fun left => by
    induction left with
    | zero => exact fun _ => rfl
    | succ left ih =>
      intro table
      rw [walkFrom, walkFrom, hread, h.homes.installedPages]
      simp only [ih]
  simp only [Machine.walk, ctxOf, h.contexts, hfrom]

theorem SameTables.stackBusy (a : Nat) : stackBusy t a = stackBusy s a := by
  simp only [stackBusy_eq, homeBusy, h.homes.homeOfPage, h.memStacks]

theorem SameTables.walkBusy (ctx va : Nat) : walkBusy t ctx va = walkBusy s ctx va := by
  have hfrom : ∀ left table, walkBusyFrom t va left table = walkBusyFrom s va left table := fun left => by
    induction left with
    | zero => exact fun _ => rfl
    | succ left ih => exact fun table => by simp only [walkBusyFrom, homeRead, h.mem, h.stackBusy, ih]
  simp only [Machine.walkBusy, ctxOf, h.contexts, hfrom]

theorem SameTables.checkLeaf (r : Except Nat Leaf) (va : Nat) (acc : Acc) : checkLeaf t r va acc = checkLeaf s r va acc := by
  simp only [Machine.checkLeaf, h.homes.pageLost, h.stackBusy]

theorem SameTables.fillFault (tm : Team) (off n : Nat) (write : Bool) (code : Nat) :
    fillFault t tm off n write code = fillFault s tm off n write code := by
  simp only [Machine.fillFault, h.checkLeaf, h.walk, h.homes.pageLost]

theorem SameTables.windowBusy (tm : Team) (off n : Nat) : windowBusy t tm off n = windowBusy s tm off n := by
  simp only [Machine.windowBusy, h.stackBusy]

end

/-- The walk of an address is that of its page. -/
theorem walk_samePage (s : State) (ctx : Nat) {va wa : Nat} (h : va / 65536 = wa / 65536) : walk s ctx va = walk s ctx wa := by
  have hbits : ∀ left, bitsOf va (16 + 13 * left) 13 = bitsOf wa (16 + 13 * left) 13 := fun left => by
    simp only [bitsOf, Nat.pow_add, ← Nat.div_div_eq_div_mul, show (2 : Nat) ^ 16 = 65536 from rfl, h]
  have hfrom : ∀ left table, walkFrom s va left table = walkFrom s wa left table := fun left => by
    induction left with
    | zero => exact fun _ => rfl
    | succ left ih => exact fun table => by simp only [walkFrom, hbits, ih]
  exact hfrom ..

/-! ### What a translation changes (R226, R228, R229) -/

/-- Nothing changes but TLBs, their counters, choices, the list of walks, and what is issued. -/
structure Issuing (id : Nat) (s t : State) : Prop where
  frame : t = { s with bands := t.bands, pending := t.pending, clusters := t.clusters, hinges := t.hinges, tick := t.tick
                       walked := t.walked }
  tlbs : TlbsOnly s t
  sound : ∀ ctx va, TlbSound s id ctx va → TlbSound t id ctx va

theorem tlbsOnly_refl (s : State) : TlbsOnly s s := ⟨fun _ => rfl, fun _ => rfl⟩

theorem tlbsOnly_trans {s t u : State} (h : TlbsOnly s t) (h' : TlbsOnly t u) : TlbsOnly s u :=
  ⟨fun n => (h'.clusters n).trans (by rw [h.clusters n]), fun n => (h'.hinges n).trans (by rw [h.hinges n])⟩

theorem Issuing.refl (id : Nat) (s : State) : Issuing id s s := ⟨rfl, tlbsOnly_refl s, fun _ _ h => h⟩

theorem Issuing.trans {id : Nat} {s t u : State} (h : Issuing id s t) (h' : Issuing id t u) : Issuing id s u :=
  ⟨h'.frame.trans (by rw [h.frame]), tlbsOnly_trans h.tlbs h'.tlbs, fun ctx va hs => h'.sound ctx va (h.sound ctx va hs)⟩

theorem sameTables_of_tlbs {s t : State} (hmem : t.mem = s.mem) (hremap : t.remap = s.remap) (hcontexts : t.contexts = s.contexts)
    (h : TlbsOnly s t) : SameTables s t where
  homes := ⟨hremap, fun n => by rw [h.hinges]⟩
  mem := hmem
  contexts := hcontexts
  memStacks n := by rw [h.hinges]

theorem Issuing.sameTables {id : Nat} {s t : State} (h : Issuing id s t) : SameTables s t :=
  sameTables_of_tlbs (by rw [h.frame]) (by rw [h.frame]) (by rw [h.frame]) h.tlbs

theorem Issuing.teams {id : Nat} {s t : State} (h : Issuing id s t) : t.teams = s.teams := by rw [h.frame]
theorem Issuing.teamOf {id : Nat} {s t : State} (h : Issuing id s t) (k : Nat) : teamOf t k = teamOf s k :=
  congrArg (aFind k) h.teams
theorem Issuing.cores {id : Nat} {s t : State} (h : Issuing id s t) : t.cores = s.cores := by rw [h.frame]
theorem Issuing.seq {id : Nat} {s t : State} (h : Issuing id s t) : t.seq = s.seq := by rw [h.frame]

/-- A change of what is issued alone. -/
theorem issuing_of_issued {id : Nat} {s t : State} (h : t = { s with bands := t.bands, pending := t.pending }) : Issuing id s t := by
  rw [h]
  exact ⟨rfl, ⟨fun _ => rfl, fun _ => rfl⟩, fun _ _ h => h⟩

/-- A translation issues nothing. -/
structure Translated (id : Nat) (s t : State) : Prop extends Issuing id s t where
  issued : t.bands = s.bands ∧ t.pending = s.pending

theorem Translated.refl (id : Nat) (s : State) : Translated id s s := ⟨.refl id s, rfl, rfl⟩

theorem Translated.trans {id : Nat} {s t u : State} (h : Translated id s t) (h' : Translated id t u) : Translated id s u :=
  ⟨h.toIssuing.trans h'.toIssuing, h'.issued.1.trans h.issued.1, h'.issued.2.trans h.issued.2⟩

theorem translated_tick (id : Nat) (s : State) (k : Nat) : Translated id s { s with tick := k } :=
  ⟨⟨rfl, ⟨fun _ => rfl, fun _ => rfl⟩, fun _ _ h => h⟩, rfl, rfl⟩

theorem translated_choose (id : Nat) (s : State) (n : Nat) : Translated id s (choose s n).2 := by
  rw [choose_frame]
  exact translated_tick ..

theorem tlbOf_setTlb (s : State) (id : Nat) (m : List TlbEntry) : tlbOf (setTlb s id m) id = m := by
  unfold tlbOf setTlb
  split
  · simp
  · simp

theorem tlbsOnly_setCluster (s : State) (n : Nat) (tlb : List TlbEntry) (misses : DWord) :
    TlbsOnly s (setCluster s n { Machine.clusterOf s n with tlb := tlb, tlbMisses := misses }) := by
  refine ⟨fun j => ?_, fun _ => rfl⟩
  by_cases hj : j = n
  · rw [hj, clusterOf_setCluster]
  · rw [clusterOf_setCluster_ne s hj]

theorem tlbsOnly_setHinge (s : State) (n : Nat) (tlb : List TlbEntry) (walks : DWord) :
    TlbsOnly s (setHinge s n { hingeOf s n with tlb := tlb, walks := walks }) := by
  refine ⟨fun _ => rfl, fun j => ?_⟩
  by_cases hj : j = n
  · rw [hj, hingeOf_setHinge]
  · rw [hingeOf_setHinge_ne s hj]

theorem tlbsOnly_setTlb (s : State) (id : Nat) (m : List TlbEntry) : TlbsOnly s (setTlb s id m) := by
  unfold setTlb
  split
  · exact tlbsOnly_setCluster ..
  · exact tlbsOnly_setHinge ..

theorem setTlb_frame (s : State) (id : Nat) (m : List TlbEntry) :
    setTlb s id m = { s with clusters := (setTlb s id m).clusters, hinges := (setTlb s id m).hinges } := by
  unfold setTlb
  split <;> rfl

/-! ### A TLB filled (R228, R229) -/

theorem sameTables_setTlb (s : State) (id : Nat) (m : List TlbEntry) : SameTables s (setTlb s id m) :=
  sameTables_of_tlbs (by rw [setTlb_frame]) (by rw [setTlb_frame]) (by rw [setTlb_frame]) (tlbsOnly_setTlb ..)

/-- An entry translates an address as the tables do, if at all. -/
def EntrySound (s : State) (ctx va : Nat) (e : TlbEntry) : Prop :=
  e.holds ctx va = true → ∃ l, walk s ctx va = .ok l ∧ e.fits va l = true

theorem translated_setTlb {s : State} {id : Nat} {m : List TlbEntry}
    (h : ∀ ctx va, TlbSound s id ctx va → ∀ e ∈ m, EntrySound s ctx va e) : Translated id s (setTlb s id m) where
  frame := by rw [setTlb_frame]
  tlbs := tlbsOnly_setTlb ..
  sound ctx va hs e he := by
    rw [tlbOf_setTlb] at he
    rw [(sameTables_setTlb s id m).walk]
    exact h ctx va hs e he
  issued := by
    rw [setTlb_frame]
    exact ⟨rfl, rfl⟩

/-- An entry holds no page that another of the same translation does not. -/
def Within (e x : TlbEntry) : Prop := e = { x with mask := e.mask } ∧ ∀ i, e.mask.getLsbD i = true → x.mask.getLsbD i = true

theorem holds_iff {e : TlbEntry} {ctx va : Nat} :
    e.holds ctx va = true ↔ e.ctx = ctx ∧ e.group = va / 2 ^ 20 ∧ e.mask.getLsbD (va / 65536 % 16) = true := by
  simp [TlbEntry.holds, and_assoc]

theorem fits_mask (e : TlbEntry) (mask : BitVec 16) (va : Nat) (l : Leaf) :
    TlbEntry.fits { e with mask := mask } va l = e.fits va l := rfl

theorem EntrySound.within {s : State} {ctx va : Nat} {e x : TlbEntry} (hx : EntrySound s ctx va x) (h : Within e x) :
    EntrySound s ctx va e := by
  intro hholds
  obtain ⟨heq, hmask⟩ := h
  rw [heq] at hholds ⊢
  obtain ⟨hctx, hgroup, hbit⟩ := holds_iff.mp hholds
  exact hx (holds_iff.mpr ⟨hctx, hgroup, hmask _ hbit⟩)

theorem getLsbD_groupMask {s : State} {e : TlbEntry} {i : Nat} (h : (groupMask s e).getLsbD i = true) :
    ∃ l, walk s e.ctx (e.group * 2 ^ 20 + i * 65536) = .ok l ∧ e.fits (e.group * 2 ^ 20 + i * 65536) l = true := by
  rw [groupMask, BitVec.getLsbD_ofNat, testBit_laneMask (List.pairwise_lt_range.sublist List.filter_sublist)] at h
  simp only [List.mem_filter, List.mem_range, Bool.and_eq_true, decide_eq_true_eq] at h
  obtain ⟨-, -, hfits⟩ := h
  split at hfits
  next l hl => exact ⟨l, hl, hfits⟩
  next => cases hfits

theorem fits_samePage {e : TlbEntry} {va wa : Nat} (h : va / 65536 = wa / 65536) (l : Leaf) : e.fits va l = e.fits wa l := by
  simp only [TlbEntry.fits, h]

theorem fits_tlbOfLeaf {ctx va : Nat} {l : Leaf} (h : l.state = 0) : (tlbOfLeaf ctx va l).fits va l = true := by
  simp [TlbEntry.fits, tlbOfLeaf, h]

/-- The pages that a fill makes valid translate as the tables do. -/
theorem entrySound_pages {s : State} {ctx va : Nat} {l : Leaf} (hwalk : walk s ctx va = .ok l) (hstate : l.state = 0) (wa : Nat)
    (hgroup : va / 2 ^ 20 = wa / 2 ^ 20)
    (hpage : (groupMask s (tlbOfLeaf ctx va l) ||| BitVec.ofNat 16 (2 ^ (va / 65536 % 16))).getLsbD (wa / 65536 % 16) = true) :
    ∃ f, walk s ctx wa = .ok f ∧ (tlbOfLeaf ctx va l).fits wa f = true := by
  rw [BitVec.getLsbD_or, Bool.or_eq_true] at hpage
  rcases hpage with hpage | hpage
  · have hsame : ((tlbOfLeaf ctx va l).group * 2 ^ 20 + wa / 65536 % 16 * 65536) / 65536 = wa / 65536 := by
      change (va / 2 ^ 20 * 2 ^ 20 + wa / 65536 % 16 * 65536) / 65536 = wa / 65536
      omega
    obtain ⟨f, hf, hfits⟩ := getLsbD_groupMask hpage
    exact ⟨f, (walk_samePage s ctx hsame.symm).trans hf, (fits_samePage hsame.symm f).trans hfits⟩
  · rw [BitVec.getLsbD_ofNat, Nat.testBit_two_pow] at hpage
    simp only [Bool.and_eq_true, decide_eq_true_eq] at hpage
    have hsame : wa / 65536 = va / 65536 := by omega
    exact ⟨l, (walk_samePage s ctx hsame).trans hwalk, (fits_samePage hsame l).trans (fits_tlbOfLeaf hstate)⟩

theorem getLsbD_foldl_or {ms : List (BitVec 16)} {m : BitVec 16} {i : Nat} (h : (ms.foldl (· ||| ·) m).getLsbD i = true) :
    m.getLsbD i = true ∨ ∃ x ∈ ms, x.getLsbD i = true := by
  induction ms generalizing m with
  | nil => exact .inl h
  | cons x ms ih =>
    rcases ih h with h | ⟨y, hy, h⟩
    · rw [BitVec.getLsbD_or, Bool.or_eq_true] at h
      exact h.imp id fun h => ⟨x, List.mem_cons_self, h⟩
    · exact .inr ⟨y, List.mem_cons_of_mem x hy, h⟩

/-- The pages that a fill makes valid in the entry of a leaf, those that the entry had among them; and what it leaves of the others. -/
def fillPages (s : State) (ctx va : Nat) (l : Leaf) : BitVec 16 :=
  groupMask s (tlbOfLeaf ctx va l) ||| BitVec.ofNat 16 (2 ^ (va / 65536 % 16))

def sameEntry (ctx va : Nat) (l : Leaf) (x : TlbEntry) : Bool := decide ({ x with mask := 0 } = tlbOfLeaf ctx va l)

def fillEntry (s : State) (id ctx va : Nat) (l : Leaf) : TlbEntry :=
  { tlbOfLeaf ctx va l with
    mask := (((tlbOf s id).filter (sameEntry ctx va l)).map (·.mask)).foldl (· ||| ·) (fillPages s ctx va l) }

def clearPages (s : State) (ctx va : Nat) (l : Leaf) (x : TlbEntry) : TlbEntry :=
  if x.ctx = ctx ∧ x.group = (tlbOfLeaf ctx va l).group then { x with mask := x.mask &&& ~~~ fillPages s ctx va l } else x

def fillOthers (s : State) (id ctx va : Nat) (l : Leaf) : List TlbEntry :=
  (((tlbOf s id).filter fun x => !sameEntry ctx va l x).map (clearPages s ctx va l)).filter fun x => x.mask != 0

theorem fillTlb_eq (s : State) (id ctx va : Nat) (l : Leaf) : fillTlb s id ctx va l =
    if id < 60 ∧ tlbSize ≤ (fillOthers s id ctx va l).length then
      setTlb (choose s (fillOthers s id ctx va l).length).2 id
        ((fillOthers s id ctx va l).eraseIdx (choose s (fillOthers s id ctx va l).length).1 ++ [fillEntry s id ctx va l])
    else setTlb s id (fillOthers s id ctx va l ++ [fillEntry s id ctx va l]) := rfl

theorem clearPages_within (s : State) (ctx va : Nat) (l : Leaf) (x : TlbEntry) : Within (clearPages s ctx va l x) x := by
  unfold clearPages
  split
  · refine ⟨rfl, fun i hi => ?_⟩
    rw [BitVec.getLsbD_and, Bool.and_eq_true] at hi
    exact hi.1
  · exact ⟨rfl, fun _ hi => hi⟩

theorem within_of_mem_fillOthers {s : State} {id ctx va : Nat} {l : Leaf} {e : TlbEntry} (he : e ∈ fillOthers s id ctx va l) :
    ∃ x ∈ tlbOf s id, Within e x := by
  obtain ⟨x, hx, rfl⟩ := List.mem_map.mp (List.mem_of_mem_filter he)
  exact ⟨x, List.mem_of_mem_filter hx, clearPages_within ..⟩

section
variable {s : State} {id ctx va : Nat} {l : Leaf} (hwalk : walk s ctx va = .ok l) (hstate : l.state = 0)
include hwalk hstate

theorem entrySound_fillEntry {c wa : Nat} (h : TlbSound s id c wa) : EntrySound s c wa (fillEntry s id ctx va l) := by
  intro hholds
  obtain ⟨rfl, hgroup, hbit⟩ := holds_iff.mp hholds
  rcases getLsbD_foldl_or hbit with hbit | ⟨b, hb, hbit⟩
  · exact entrySound_pages hwalk hstate wa hgroup hbit
  · obtain ⟨x, hx, rfl⟩ := List.mem_map.mp hb
    obtain ⟨hx, hsame⟩ := List.mem_filter.mp hx
    have heq : { x with mask := 0 } = tlbOfLeaf ctx va l := of_decide_eq_true hsame
    obtain ⟨f, hf, hfits⟩ := h x hx (holds_iff.mpr
      ⟨(congrArg TlbEntry.ctx heq :), (congrArg TlbEntry.group heq).trans hgroup, hbit⟩)
    refine ⟨f, hf, ?_⟩
    rw [fillEntry, fits_mask, ← heq, fits_mask]
    exact hfits

theorem entrySound_fill {c wa : Nat} (h : TlbSound s id c wa) {e : TlbEntry}
    (he : e ∈ fillOthers s id ctx va l ++ [fillEntry s id ctx va l]) : EntrySound s c wa e := by
  rcases List.mem_append.mp he with he | he
  · obtain ⟨x, hx, hwithin⟩ := within_of_mem_fillOthers he
    exact EntrySound.within (h x hx) hwithin
  · obtain rfl := List.mem_singleton.mp he
    exact entrySound_fillEntry hwalk hstate h

/-- A fill of the TLB with a leaf of the tables leaves it sound (R228). -/
theorem translated_fillTlb : Translated id s (fillTlb s id ctx va l) := by
  rw [fillTlb_eq]
  split
  · refine (translated_choose id s (fillOthers s id ctx va l).length).trans ?_
    rw [choose_frame]
    refine translated_setTlb fun c wa h e he => ?_
    refine entrySound_fill (s := s) hwalk hstate h (List.mem_append.mpr ?_)
    exact (List.mem_append.mp he).imp List.mem_of_mem_eraseIdx fun he => he
  · exact translated_setTlb fun c wa h e he => entrySound_fill hwalk hstate h he

end

/-! ### Misses and hits (R226, R229) -/

/-- A change of counters alone. -/
theorem translated_counted {id : Nat} {s t : State}
    (hframe : t = { s with clusters := t.clusters, hinges := t.hinges, tick := t.tick, walked := t.walked }) (htlbs : TlbsOnly s t)
    (htlb : tlbOf t id = tlbOf s id) : Translated id s t := by
  have htables : SameTables s t := sameTables_of_tlbs (by rw [hframe]) (by rw [hframe]) (by rw [hframe]) htlbs
  refine ⟨⟨hframe.trans (by rw [hframe]), htlbs, fun ctx va h e he => ?_⟩, by rw [hframe], by rw [hframe]⟩
  rw [htables.walk]
  exact h e (htlb ▸ he)

theorem translated_misses (id : Nat) (s : State) (n : Nat) (misses : DWord) :
    Translated id s (setCluster s n { Machine.clusterOf s n with tlbMisses := misses }) := by
  refine translated_counted rfl (tlbsOnly_setCluster ..) ?_
  unfold tlbOf
  split
  · by_cases hn : id = n
    · rw [hn, clusterOf_setCluster]
    · rw [clusterOf_setCluster_ne s hn]
  · rfl

theorem translated_walks (id : Nat) (s : State) (n : Nat) (walks : DWord) (walked : List (Nat × Nat × Nat)) :
    Translated id s (setHinge { s with walked := walked } n { hingeOf s n with walks := walks }) := by
  refine translated_counted rfl ⟨fun _ => rfl, (tlbsOnly_setHinge { s with walked := walked } n (hingeOf s n).tlb walks).hinges⟩ ?_
  unfold tlbOf
  split
  · rfl
  · by_cases hn : id - 60 = n
    · rw [hn, hingeOf_setHinge]
    · rw [hingeOf_setHinge_ne _ hn]
      rfl

/-- A miss counted, of a cluster's TLB alone. -/
def countMiss (s : State) (j : Nat) : State :=
  if j < 60 then setCluster s j { Machine.clusterOf s j with tlbMisses := (Machine.clusterOf s j).tlbMisses + 1 } else s

theorem countWalk_eq (s : State) (j ctx va : Nat) : countWalk s j ctx va =
    if (countMiss s j).walked.contains (j, ctx, va / 2 ^ 20) then countMiss s j
    else setHinge { countMiss s j with walked := (j, ctx, va / 2 ^ 20) :: (countMiss s j).walked }
      (if j < 60 then hingeOfCluster j else j - 60)
      { hingeOf (countMiss s j) (if j < 60 then hingeOfCluster j else j - 60) with
        walks := (hingeOf (countMiss s j) (if j < 60 then hingeOfCluster j else j - 60)).walks + 1 } := rfl

theorem translated_countMiss (id : Nat) (s : State) (j : Nat) : Translated id s (countMiss s j) := by
  unfold countMiss
  split
  · exact translated_misses ..
  · exact .refl id s

theorem translated_countWalk (id : Nat) (s : State) (j ctx va : Nat) : Translated id s (countWalk s j ctx va) := by
  rw [countWalk_eq]
  split
  · exact translated_countMiss id s j
  · exact (translated_countMiss id s j).trans (translated_walks ..)

section
variable {s : State} {id ctx va : Nat} (h : TlbSound s id ctx va)
include h

theorem leaf_of_tlbFind {e : TlbEntry} (hfind : tlbFind s id ctx va = some e) : ∃ l, walk s ctx va = .ok l ∧ e.fits va l = true :=
  h e (List.mem_of_find?_eq_some hfind) (List.find?_some (p := fun e : TlbEntry => e.holds ctx va) hfind)

/-- With a sound TLB a translation is a walk (R226, R228). -/
theorem translate_fst : (Machine.translate s id ctx va).1 = walk s ctx va := by
  unfold Machine.translate
  cases hfind : tlbFind s id ctx va with
  | none => rfl
  | some e =>
    obtain ⟨l, hl, hfits⟩ := leaf_of_tlbFind h hfind
    simp only [hl, hfits, if_true]

/-- It changes the TLB, where it misses, and counters. -/
theorem translated_translate : Translated id s (Machine.translate s id ctx va).2 := by
  unfold Machine.translate
  cases hfind : tlbFind s id ctx va with
  | none =>
    have hcount := translated_countWalk id s id ctx va
    cases hwalk : walk s ctx va with
    | error e => exact hcount
    | ok l =>
      dsimp only
      split
      next hstate => exact hcount.trans (translated_fillTlb ((hcount.sameTables.walk ctx va).trans hwalk) hstate)
      next => exact hcount
  | some e =>
    obtain ⟨l, hl, hfits⟩ := leaf_of_tlbFind h hfind
    simp only [hl, hfits, if_true]
    exact .refl id s

end

/-! ### Accesses to pages that are present (R225, R230) -/

theorem walkWaits_of_idle {s : State} {id ctx va : Nat} (h : walkBusy s ctx va = false) : walkWaits s id ctx va = false := by
  rw [walkWaits, h, Bool.and_false]

/-- A present page, after what is issued. -/
theorem present_mono {s t : State} {id ctx va : Nat} {write : Bool} {l : Leaf} (h : Present s id ctx va write l)
    (hst : Issuing id s t) : Present t id ctx va write l where
  space := h.space
  walks := (hst.sameTables.walkBusy ctx va).trans h.walks
  tlb := hst.sound ctx va h.tlb
  leaf := (hst.sameTables.walk ctx va).trans h.leaf
  resident := h.resident
  writable := h.writable
  kept hsys := (hst.sameTables.homes.pageLost _).trans (h.kept hsys)
  bus := h.bus
  idle := (hst.sameTables.stackBusy _).trans h.idle

/-- Every check passes on a leaf of the page of a present address. -/
theorem checkLeaf_present {s : State} {id ctx va : Nat} {write : Bool} {l : Leaf} (h : Present s id ctx va write l) {f : Leaf}
    (hstate : f.state = 0) (hsys : f.sys = l.sys) (hppn : f.ppn = l.ppn) {acc : Acc} (hwrite : acc.writes = true → f.w = true)
    (hfetch : acc ≠ .fetch) : checkLeaf s (.ok f) va acc = .ok (.bytes (physOf l va)) := by
  have hphys : physOf f va = physOf l va := by simp only [physOf, hsys, hppn]
  have hw : (acc.writes && !f.w) = false := by
    cases hacc : acc.writes with
    | false => rfl
    | true => simp [hwrite hacc]
  have hlost : (!f.sys && pageLost s f.ppn) = false := by
    rw [hsys, hppn]
    cases hl : l.sys with
    | false => simp [h.kept hl]
    | true => rfl
  have hbus : (f.sys && Config.hostBusError (physOf l va - sysBase)) = false := by
    rw [hsys]
    cases hl : l.sys with
    | false => rfl
    | true => rw [sysBase, h.bus hl]; rfl
  simp only [checkLeaf, hw, hfetch, false_and, hstate, hlost, hphys, hbus, h.idle, Bool.false_eq_true, if_false, if_true]

/-- An access to a present page through the TLB. -/
theorem access_present {s : State} {id ctx va : Nat} {write : Bool} {l : Leaf} (h : Present s id ctx va write l) {acc : Acc}
    (hacc : acc.writes = true → write = true) (hfetch : acc ≠ .fetch) :
    ∃ t, access s id ctx va acc = (.ok (.bytes (physOf l va)), t) ∧ Translated id s t := by
  have htrans := translated_translate h.tlb
  refine ⟨(Machine.translate s id ctx va).2, ?_, htrans⟩
  have hcheck := checkLeaf_present (present_mono h htrans.toIssuing) h.resident rfl rfl (fun hw => h.writable (hacc hw)) hfetch
  rw [access, walkWaits_of_idle h.walks, if_neg Bool.false_ne_true]
  dsimp only
  rw [translate_fst h.tlb, h.leaf, hcheck]

theorem ppn_lt_of_walk {s : State} {ctx va : Nat} {l : Leaf} (h : walk s ctx va = .ok l) : l.ppn < 2 ^ 32 := by
  have hfrom : ∀ left table, walkFrom s va left table = .ok l → l.ppn < 2 ^ 32 := fun left => by
    induction left with
    | zero => exact fun _ h => by cases h
    | succ left ih =>
      intro table h
      rw [walkFrom] at h
      dsimp only at h
      split at h
      · cases h
      · split at h
        · split at h
          · cases h
          · split at h
            · cases h
            · cases h
              exact Nat.mod_lt _ (by decide)
        · split at h
          · cases h
          · exact ih _ h
  exact hfrom _ _ h

/-- The frame that the address of a line tells. -/
theorem frameOfLine {p v : Nat} (base : Nat) (hbase : base = 0 ∨ base = 281474976710656) (hv : v < 65536) :
    ((base + p * 65536 + v) / 128 * 128 - base) / 65536 = p ∧ base ≤ (base + p * 65536 + v) / 128 * 128 := by
  omega

/-- The leaf of an L1 line of a present address is that of its page. -/
theorem leafOfLine_present {l : Leaf} {va : Nat} (hppn : l.ppn < 2 ^ 32) (x : L1Line) :
    (leafOfLine (physOf l va / 128) x).sys = l.sys ∧ (leafOfLine (physOf l va / 128) x).ppn = l.ppn := by
  have hva : va % 65536 < 65536 := Nat.mod_lt _ (by decide)
  unfold leafOfLine physOf
  dsimp only
  cases l.sys with
  | true =>
    obtain ⟨hframe, hbase⟩ := frameOfLine (p := l.ppn) sysBase (.inr rfl) hva
    rw [if_pos rfl, if_pos hbase, decide_eq_true hbase]
    exact ⟨rfl, hframe⟩
  | false =>
    obtain ⟨hframe, -⟩ := frameOfLine (p := l.ppn) 0 (.inl rfl) hva
    have hsys : ¬ sysBase ≤ (0 + l.ppn * 65536 + va % 65536) / 128 * 128 := by
      rw [show sysBase = 2 ^ 32 * 65536 from rfl]
      generalize (2 : Nat) ^ 32 = top at hppn ⊢
      omega
    rw [if_neg Bool.false_ne_true, if_neg hsys, decide_eq_false hsys]
    exact ⟨rfl, hframe⟩

/-- An access of a thread to a present page, through its core's L1, which holds the page's line if it holds the name (R230). -/
theorem accessL1_present {s : State} {core ctx va : Nat} {write : Bool} {l : Leaf} (h : Present s (core / 8) ctx va write l)
    (hline : ∀ line x, l1Find s core ctx va = some (line, x) → line = physOf l va / 128) {acc : Acc}
    (hacc : acc.writes = true → write = true) (hfetch : acc ≠ .fetch) :
    ∃ t, accessL1 s core ctx va acc = (.ok (.bytes (physOf l va)), t) ∧ Translated (core / 8) s t := by
  unfold accessL1
  cases hfind : l1Find s core ctx va with
  | none => exact access_present h hacc hfetch
  | some x =>
    obtain ⟨line, x⟩ := x
    obtain rfl := hline line x hfind
    dsimp only
    split
    · exact access_present h hacc hfetch
    next hw =>
      obtain ⟨hsys, hppn⟩ := leafOfLine_present (va := va) (ppn_lt_of_walk h.leaf) x
      refine ⟨s, ?_, .refl _ s⟩
      rw [checkLeaf_present h rfl hsys hppn (fun hacc => ?_) hfetch]
      rw [hacc, Bool.true_and, Bool.not_eq_true', Bool.not_eq_false] at hw
      exact hw

end Sys2Proof.Proofs
end


section
/-! SUPPORT. The issue of memory instructions (R253): the address of an operand, what the checks of an access find, and what an
instruction leaves that acts per thread. -/

namespace Sys2Proof.Proofs

open Sys2Proof.Machine Sys2Proof.Claims

/-! ### Operands (R52, R53) -/

theorem widthBytes_eq (w : Width) : widthBytes w = bytesOf w := by cases w <;> rfl

theorem baseAddr_eq (v : DWord) (off : Word) : baseAddr v off = baseOffset v off := baseAddr_eq_targetOf v off

theorem ofInt_readInt (v : Word) : BitVec.ofInt 64 (readInt true 32 v.toNat) = v.signExtend 64 := by
  rw [readInt_word, if_pos rfl, BitVec.signExtend]

/-- The scale of an index (R52). -/
theorem ofInt_scale (ix : Fin 5) : BitVec.ofInt 64 (2 ^ ix.val) = 1#64 <<< ix.val := by
  revert ix
  decide

theorem memAddr_eq (b : Band) (t : Thread) (m : MemOp) : memAddr b t m = laneAddress b t m := by
  unfold memAddr laneAddress
  cases m.index with
  | none =>
    dsimp only
    rw [add_assoc, zero_add, wrapNat_add_signed, ofInt_readInt, add_zero]
  | some p =>
    obtain ⟨v, ix⟩ := p
    have hindex : BitVec.ofInt 64 (readInt true 32 (rdV t v.val).toNat * 2 ^ ix.val) = (rdV t v.val).signExtend 64 <<< ix.val := by
      rw [BitVec.ofInt_mul, ofInt_readInt, BitVec.shiftLeft_eq_mul_twoPow, ofInt_scale]
      rfl
    dsimp only
    rw [add_assoc, wrapNat_add_signed, BitVec.ofInt_add, ofInt_readInt, hindex, BitVec.add_assoc]

theorem regWords_eq (t : Thread) (n : Nat) : ∀ r, regWords t n r = wordsAt t n r := by
  induction n with
  | zero => exact fun _ => rfl
  | succ n ih => exact fun r => by rw [regWords, wordsAt, ih]

theorem storeValue_eq (w : Width) (t : Thread) (r : Nat) : storeValue w t r =
    (if w = .n64 then (rdV64 t r).toNat else (rdV t r).toNat) % 2 ^ (8 * bytesOf w) := by
  cases w with
  | n64 => exact (Nat.mod_eq_of_lt (rdV64 t r).isLt).symm
  | n8 | n16 | n32 | i8 | i16 => rfl

/-! ### What an access finds (R253) -/

theorem teamOf_ofTeam {s : State} {g : Grp} {tm : Team} (h : OfTeam s g tm) : teamOf s g.band.team = some tm := h.2.1

/-- An access whose slots no engine may own is one that writes. -/
def Plain (acc : Acc) (write : Bool) : Prop := acc.writes = write ∧ acc.latches = write ∧ acc ≠ .fetch

/-- The checks of an access that none of them stops find its location. -/
theorem locate_locates {s u : State} {g : Grp} {tm : Team} {n : Nat} {write stash : Bool} {addr : Nat} {loc : Loc} {acc : Acc}
    (htm : teamOf s g.band.team = some tm) (hsu : Issuing (g.core / 8) s u) (h : Locates s g tm n write stash addr loc)
    (hacc : Plain acc write) : ∃ v, locate u g.core g.band.team stash addr n acc = (.loc loc, v) ∧ Translated (g.core / 8) u v := by
  obtain ⟨hwrites, hlatches, hfetch⟩ := hacc
  have hteam : teamOf u g.band.team = some tm := (hsu.teamOf _).trans htm
  cases h with
  | stash off hfits halign hlatch hfill hbusy =>
    have hlatch' : (if acc.latches then latchCheck tm addr else .ok ()) = .ok () := by
      cases hl : acc.latches with
      | false => rfl
      | true => rw [if_pos rfl, latchCheck, hlatch (hlatches.symm.trans hl)]; rfl
    refine ⟨u, ?_, .refl _ u⟩
    simp only [locate, hteam, if_true, stashCheck, Nat.not_lt.mpr hfits, halign, hlatch', hwrites, hsu.sameTables.fillFault,
      hsu.sameTables.windowBusy, hfill, hbusy, ne_eq, not_true, Bool.false_eq_true, if_false]
  | memory va l hpresent halign hline hlatch =>
    obtain ⟨v, hv, hissued⟩ := accessL1_present (core := g.core) (acc := acc) (present_mono hpresent hsu)
      (by rw [l1Find, coreOf, hsu.cores]; exact hline) (fun hw => hwrites.symm.trans hw) hfetch
    refine ⟨v, ?_, hissued⟩
    have hspace : ¬ Config.vaLimit ≤ addr := Nat.not_le.mpr hpresent.space
    have hwindow : windowLatch v tm g.band.team (physOf l addr) acc (.phys (physOf l addr) addr) = .loc (.phys (physOf l addr) addr) := by
      have hat : windowAt v (physOf l addr) = windowAt s (physOf l addr) := by
        rw [windowAt, windowAt, hissued.teams, hsu.teams]
      unfold windowLatch
      rw [hat, hlatches]
      split
      next k m e w hwin =>
        split
        next hk =>
          rw [hk] at hwin
          rw [latchCheck, hlatch rfl m e w hwin]
          rfl
        next => rfl
      next => rfl
    simp only [locate, hteam, Bool.false_eq_true, if_false, threadCheck, spaceCheck, hspace, halign, ne_eq, not_true, hv, hwindow]

/-! ### Lanes one after the other -/

theorem grpAgent_eq {s : State} {g : Grp} {tm : Team} (h : teamOf s g.band.team = some tm) :
    grpAgent s g = .thread g.core g.band.team tm.ctx := by rw [grpAgent, h]

theorem grpCtx_eq {s : State} {g : Grp} {tm : Team} (h : teamOf s g.band.team = some tm) : grpCtx s g = tm.ctx := by
  rw [grpCtx, h]

theorem issueOps_eq {s : State} {g : Grp} {tm : Team} (h : teamOf s g.band.team = some tm) (ls : List Nat) (ks : List PendKind) :
    issueOps s g ls ks = { s with pending := s.pending ++ ks.map (Claims.opOf s g tm ls) } := by
  unfold issueOps Claims.opOf
  rw [grpAgent_eq h]

/-- A lane changed before others that do not hold it is changed with them. -/
theorem onLanes_cons_of_notMem {b : Band} {l : Nat} {ls : List Nat} (h : l ∉ ls) (f : Nat → Thread → Thread) :
    onLanes (onLanes b [l] f) ls f = onLanes b (l :: ls) f := by
  have hcomp : (fun (i : Nat) (t : Thread) => if ls.contains i then f i (if [l].contains i then f i t else t)
      else if [l].contains i then f i t else t) = fun i t => if (l :: ls).contains i then f i t else t := by
    funext i t
    by_cases hl : i = l
    · subst hl; simp [h]
    · by_cases hls : i ∈ ls <;> simp [hls, hl]
  simp only [onLanes, mapFrom_mapFrom, hcomp]

/-- A thread whose lane has issued: changed by `upd`, it goes on. -/
def issued (g : Grp) (upd : Thread → Thread) (t : Thread) : Thread := { upd t with pc := g.next, wait := .ready }

theorem issueLanes_cons {g : Grp} {f : State → Nat → Thread → LaneIssue × State} {u v t : State} {l : Nat} {ls : List Nat}
    {ks : List PendKind} {upd : Thread → Thread} {b : Band} (hf : f u l (threadOf g.band l) = (.ops ks upd, v))
    (hb : bandOf (issueOps v g [l] ks) g.key = some b)
    (ht : issueLanes g f ls (setBand (issueOps v g [l] ks) g.key (onLanes b [l] fun _ => issued g upd)) = (some [], t)) :
    issueLanes g f (l :: ls) u = (some [], t) := by
  unfold issued at ht
  rw [issueLanes, hf]
  dsimp only
  rw [hb]
  dsimp only
  rw [ht]
  rfl

/-- Lanes that each issue operations: the operations of each in order, and each thread gone on. -/
theorem issueLanes_ops {s : State} {g : Grp} {tm : Team} {kinds : Nat → List PendKind} {upd : Thread → Thread}
    {f : State → Nat → Thread → LaneIssue × State} (htm : teamOf s g.band.team = some tm) {ls : List Nat}
    (hf : ∀ u, Issuing (g.core / 8) s u → ∀ l ∈ ls, ∃ v,
      f u l (threadOf g.band l) = (.ops (kinds l) upd, v) ∧ Translated (g.core / 8) u v)
    (hnodup : ls.Nodup) {u : State} (hu : Issuing (g.core / 8) s u) {b : Band} (hb : bandOf u g.key = some b) :
    ∃ t, issueLanes g f ls u = (some [], t) ∧ Issuing (g.core / 8) s t ∧
      t.pending = u.pending ++ ls.flatMap (fun l => (kinds l).map (Claims.opOf s g tm [l])) ∧
      (∀ j, j ≠ g.key → bandOf t j = bandOf u j) ∧ bandOf t g.key = some (onLanes b ls fun _ => issued g upd) := by
  induction ls generalizing u b with
  | nil => exact ⟨u, rfl, hu, by simp, fun _ _ => rfl, by rw [onLanes_nil, hb]⟩
  | cons l ls ih =>
    obtain ⟨hl, hnodup⟩ := List.nodup_cons.mp hnodup
    obtain ⟨v, hv, huv⟩ := hf u hu l List.mem_cons_self
    have hteam : teamOf v g.band.team = some tm := (huv.teamOf _).trans ((hu.teamOf _).trans htm)
    have hband : bandOf v g.key = some b := (congrArg (aFind g.key) huv.issued.1).trans hb
    have hops : issueOps v g [l] (kinds l) = { v with pending := v.pending ++ (kinds l).map (Claims.opOf s g tm [l]) } := by
      rw [issueOps_eq hteam]
      unfold Claims.opOf
      rw [huv.seq, hu.seq]
    let w := setBand { v with pending := v.pending ++ (kinds l).map (Claims.opOf s g tm [l]) } g.key (onLanes b [l] fun _ => issued g upd)
    have hw : Issuing (g.core / 8) s w := (hu.trans huv.toIssuing).trans (issuing_of_issued rfl)
    obtain ⟨t, ht, hst, hpending, hothers, hthreads⟩ :=
      ih (fun u hu l hl => hf u hu l (List.mem_cons_of_mem _ hl)) hnodup hw (bandOf_setBand ..)
    refine ⟨t, ?_, hst, ?_, fun j hj => ?_, ?_⟩
    · exact issueLanes_cons hv (b := b) (by rw [hops]; exact hband) (by rw [hops]; exact ht)
    · rw [hpending, List.flatMap_cons, ← List.append_assoc]
      exact congrArg (· ++ _) (congrArg (· ++ _) huv.issued.2)
    · rw [hothers j hj]
      exact (bandOf_setBand_ne _ hj _).trans (congrArg (aFind j) huv.issued.1)
    · rw [hthreads, onLanes_cons_of_notMem hl]

/-! ### The instruction -/

theorem issuing_of_onlyBand {s u : State} {k : Nat} (id : Nat) (h : OnlyBand s u k) : Issuing id s u :=
  issuing_of_issued (h.rest.trans (by rw [h.rest]))

/-- The state that the body of a group's instruction starts from (R47). -/
def idled (s : State) (g : Grp) : State :=
  if (g.lanes.filter fun l => !g.live.contains l).isEmpty then s
  else gotoBand s g.key (g.lanes.filter fun l => !g.live.contains l) g.next

theorem bandBecomes_idled {s : State} {g : Grp} (hg : grpOf s = some g) : BandBecomes s (idled s g) g.key (pastIdle g) := by
  unfold idled
  split
  next h =>
    rw [pastIdle, List.isEmpty_iff.mp h, gotoLanes, onLanes_nil]
    exact bandBecomes_refl (grpOf_band hg)
  next =>
    simp only [gotoBand, grpOf_band hg]
    exact bandBecomes_setBand ..

/-- An instruction whose body changes nothing where no thread has a true guard. -/
theorem perGroupTo_idled {s t : State} {g : Grp} (hg : grpOf s = some g) {f : Grp → State → GrpRes} (hf : f g (idled s g) = .ok t)
    (hlive : g.live = [] → t = idled s g) : perGroupTo s f = .next t := by
  simp only [perGroupTo, hg]
  split
  next h => exact congrArg Host.Outcome.next (hlive (List.isEmpty_iff.mp h)).symm
  next =>
    change (match f g (idled s g) with
      | .ok s' => .next s'
      | .exc e => .next (faultLanes (idled s g) g g.live e)
      | .wait w => .next (waitLanes (idled s g) g g.live w)
      | .hold w => .next (waitLanes s g g.lanes w)) = Host.Outcome.next t
    rw [hf]

/-- A memory instruction that acts per thread and whose checks no thread fails. -/
theorem issuesLanes_of_memLanes {i : Instr} {s : State} {g : Grp} {tm : Team} (h : OfTeam s g tm) {regs : List Nat}
    {f : Grp → State → Nat → Thread → LaneIssue × State} (hi : exec i s = memLanes s regs f) (hregs : ∀ r ∈ regs, r < g.band.n)
    {kinds : Nat → List PendKind} {upd : Thread → Thread} {P : Nat → Thread → Thread → Prop}
    (hf : ∀ u, Issuing (g.core / 8) s u → ∀ l ∈ g.live, ∃ v,
      f g u l (threadOf g.band l) = (.ops (kinds l) upd, v) ∧ Translated (g.core / 8) u v)
    (hP : ∀ l, P l (threadOf g.band l) (issued g upd (threadOf g.band l))) : IssuesLanes i s g tm kinds P := by
  obtain ⟨hg, htm, hnodup⟩ := h
  obtain ⟨honly, hband⟩ := bandBecomes_idled hg
  obtain ⟨t, hissue, hst, hpending, hothers, hthreads⟩ :=
    issueLanes_ops htm hf (hnodup.sublist (grpOf_live_sublist hg)) (issuing_of_onlyBand _ honly) hband
  have hexec : exec i s = .next t := by
    rw [hi]
    refine perGroupTo_idled hg ?_ fun hl => ?_
    · simp only [rangeFault_none hregs, hissue, List.map_nil, List.isEmpty_nil, if_true]
    · rw [hl] at hissue
      exact (congrArg Prod.snd hissue).symm
  have hacted : bandOf t g.key = some (acted g g.band.split (issued g upd)) := hthreads
  refine ⟨t, _, hexec, ⟨?_, fun j hj => (hothers j hj).trans (honly.bands j hj), hst.tlbs, fun a => ?_⟩, hacted, rfl,
    bystanders_acted hg .., fun l hlt hl => ?_⟩
  · rw [hst.frame, hpending, honly.rest]
  · rw [homeByte, homeByte, hst.frame]
  · rw [threadOf_acted_live _ _ hlt hl]
    exact hP l

end Sys2Proof.Proofs
end


section
/-! SUPPORT. What LD, ST, LDN, SLD, SST and the atomics issue (R255, R256, R291, R298). -/

namespace Sys2Proof.Proofs

open Sys2Proof.Machine Sys2Proof.Claims

/-! ### Loads, stores and atomics of threads -/

/-- An access that is located issues its operations. -/
theorem foundIssue_locates {s : State} {g : Grp} {tm : Team} {n : Nat} {write stash : Bool} {b : Band} {t : Thread} {m : MemOp}
    {loc : Loc} {acc : Acc} (htm : teamOf s g.band.team = some tm)
    (h : Locates s g tm n write stash (laneAddress b t m) loc) (hacc : Plain acc write) (f : Loc → LaneIssue) (zero : LaneIssue)
    {u : State} (hu : Issuing (g.core / 8) s u) :
    ∃ v, foundIssue (locate u g.core g.band.team stash (memAddr b t m) n acc) f zero = (f loc, v) ∧
      Translated (g.core / 8) u v := by
  obtain ⟨v, hv, hissued⟩ := locate_locates htm hu h hacc
  exact ⟨v, by rw [memAddr_eq, hv]; rfl, hissued⟩

theorem plain_read : Plain .read false := ⟨rfl, rfl, by decide⟩
theorem plain_ldn : Plain .ldn false := ⟨rfl, rfl, by decide⟩
theorem plain_write : Plain .write true := ⟨rfl, rfl, by decide⟩
theorem plain_atomic : Plain .atomic true := ⟨rfl, rfl, by decide⟩

section
variable {s : State} {g : Grp} {tm : Team} (h : OfTeam s g tm) {loc : Nat → Loc}
include h

theorem ld_issues {o : Ld} (hregs : ∀ r ∈ o.d.val :: namedMem o.mem, r < g.band.n)
    (hlocs : ∀ l ∈ g.live, Locates s g tm (bytesOf o.w) false o.mem.stash (laneAddress g.band (threadOf g.band l) o.mem) (loc l)) :
    IssuesLanes (.ld o) s g tm (fun l => [.load (loc l) o.w (.vec o.d.val) o.acq o.ch]) fun _ t t' => t' = moved t g.next := by
  refine issuesLanes_of_memLanes h (exec_ld s o) hregs (upd := id) (fun u hu l hl => ?_) fun _ => rfl
  rw [widthBytes_eq]
  exact foundIssue_locates (teamOf_ofTeam h) (hlocs l hl) plain_read _ _ hu

theorem st_issues {o : St} (hregs : ∀ r ∈ o.c.val :: namedMem o.mem, r < g.band.n)
    (hlocs : ∀ l ∈ g.live, Locates s g tm (bytesOf o.w) true o.mem.stash (laneAddress g.band (threadOf g.band l) o.mem) (loc l)) :
    IssuesLanes (.st o) s g tm
      (fun l => [.store (loc l) (bytesOf o.w)
        ((if o.w = .n64 then (rdV64 (threadOf g.band l) o.c.val).toNat else (rdV (threadOf g.band l) o.c.val).toNat)
          % 2 ^ (8 * bytesOf o.w)) o.rel o.ch])
      fun _ t t' => t' = moved t g.next := by
  refine issuesLanes_of_memLanes h (exec_st s o) hregs (upd := id) (fun u hu l hl => ?_) fun _ => rfl
  rw [widthBytes_eq, storeValue_eq]
  exact foundIssue_locates (teamOf_ofTeam h) (hlocs l hl) plain_write _ _ hu

theorem ldn_issues {o : Ldn} (hstash : o.mem.stash = false) (hregs : ∀ r ∈ o.d.val :: namedMem o.mem, r < g.band.n)
    (hlocs : ∀ l ∈ g.live, Locates s g tm (bytesOf o.w) false false (laneAddress g.band (threadOf g.band l) o.mem) (loc l)) :
    IssuesLanes (.ldn o) s g tm (fun l => [.load (loc l) o.w (.vec o.d.val) none o.ch]) fun _ t t' =>
      PutsP g.next o.pc.val true t t' := by
  refine issuesLanes_of_memLanes h (exec_ldn s o) hregs (upd := fun t => wrP t o.pc.val true) (fun u hu l hl => ?_)
    fun _ => putsP_wrP ..
  rw [widthBytes_eq, hstash]
  exact foundIssue_locates (teamOf_ofTeam h) (hlocs l hl) plain_ldn _ _ hu

end

/-! ### LDN of a page that is not resident (R256) -/

theorem fits_resident {e : TlbEntry} {va : Nat} {l : Leaf} (h : e.fits va l = true) : l.state = 0 := by
  simp only [TlbEntry.fits, Bool.and_eq_true, beq_iff_eq] at h
  obtain ⟨⟨⟨⟨hstate, -⟩, -⟩, -⟩, -⟩ := h
  exact hstate

/-- A sound TLB does not hold a page that is not resident. -/
theorem tlbFind_of_notResident {s : State} {id ctx va : Nat} {l : Leaf} (h : TlbSound s id ctx va) (hwalk : walk s ctx va = .ok l)
    (hstate : l.state ≠ 0) : tlbFind s id ctx va = none := by
  cases hfind : tlbFind s id ctx va with
  | none => rfl
  | some e =>
    obtain ⟨f, hf, hfits⟩ := leaf_of_tlbFind h hfind
    obtain rfl : f = l := Except.ok.inj (hf.symm.trans hwalk)
    exact absurd (fits_resident hfits) hstate

/-- The access of LDN to a page that is not resident. -/
theorem locate_notResident {s u : State} {g : Grp} {tm : Team} {va n : Nat} {l : Leaf} (htm : teamOf s g.band.team = some tm)
    (hspace : va < 2 ^ 55) (halign : va % n = 0) (hline : l1Find s g.core tm.ctx va = none)
    (htlb : TlbSound s (g.core / 8) tm.ctx va) (hwaits : walkWaits s (g.core / 8) tm.ctx va = false)
    (hwalk : walk s tm.ctx va = .ok l) (hstate : l.state = 1) (hu : Issuing (g.core / 8) s u) :
    ∃ v, locate u g.core g.band.team false va n .ldn = (.zero, v) ∧ Translated (g.core / 8) u v := by
  have hbusy : walkBusy u tm.ctx va = false := by
    rw [walkWaits, tlbFind_of_notResident htlb hwalk (by omega), Option.isNone_none, Bool.true_and] at hwaits
    exact (hu.sameTables.walkBusy ..).trans hwaits
  have htlb' := hu.sound _ _ htlb
  have hteam : teamOf u g.band.team = some tm := (hu.teamOf _).trans htm
  have hline' : l1Find u g.core tm.ctx va = none := by rw [l1Find, coreOf, hu.cores]; exact hline
  have hwalk' : (Machine.translate u (g.core / 8) tm.ctx va).1 = .ok l :=
    (translate_fst htlb').trans ((hu.sameTables.walk ..).trans hwalk)
  have hspace' : ¬ Config.vaLimit ≤ va := Nat.not_le.mpr hspace
  have hcheck : ∀ v, checkLeaf v (.ok l) va .ldn = .ok (.zeros false 0) := fun v => by
    simp only [checkLeaf, Acc.writes, hstate, Bool.false_and, Bool.false_eq_true, if_false, reduceCtorEq, false_and, one_ne_zero,
      if_true]
  have hwaits' : walkWaits u (g.core / 8) tm.ctx va = false := walkWaits_of_idle hbusy
  refine ⟨(Machine.translate u (g.core / 8) tm.ctx va).2, ?_, translated_translate htlb'⟩
  simp only [locate, hteam, threadCheck, spaceCheck, hspace', halign, accessL1, hline', access, clusterOfCore, Config.coresPerCluster,
    hwaits', hwalk', hcheck, Bool.false_eq_true, if_false, ne_eq, not_true]

/-- What LDN of a page that is not resident writes. -/
def ldnZero (o : Ldn) (t : Thread) : Thread :=
  wrP (if widthBytes o.w = 8 then wrV64 t o.d.val 0 else wrV t o.d.val 0) o.pc.val false

theorem ldnZero_puts (o : Ldn) (pc : DWord) (t : Thread) :
    let t' := moved (ldnZero o t) pc
    t' = { moved t pc with vregs := t'.vregs, preds := t'.preds } ∧ rdV t' o.d.val = 0 ∧
      (o.w = .n64 → rdV t' (o.d.val + 1) = 0) ∧ (o.pc.val < 15 → rdP t' o.pc.val = false) ∧
      (∀ r, r ≠ o.d.val → (o.w = .n64 → r ≠ o.d.val + 1) → rdV t' r = rdV t r) ∧
      ∀ q, q ≠ o.pc.val → rdP t' q = rdP t q := by
  have hmoved : ∀ r, rdV (moved (ldnZero o t) pc) r =
      rdV (if o.w = .n64 then wrV64 t o.d.val 0 else wrV t o.d.val 0) r := fun r => by
    cases hw : o.w <;> simp only [ldnZero, hw] <;> rfl
  have hpreds : (if widthBytes o.w = 8 then wrV64 t o.d.val 0 else wrV t o.d.val 0).preds = t.preds := by split <;> rfl
  have hrdP : ∀ q, rdP (if widthBytes o.w = 8 then wrV64 t o.d.val 0 else wrV t o.d.val 0) q = rdP t q := fun q => by
    rw [rdP, hpreds, rdP]
  refine ⟨?_, ?_, fun hw => ?_, fun hpc => rdP_wrP hpc _ false, fun r hr hr' => ?_, fun q hq => (rdP_wrP_ne hq _ false).trans (hrdP q)⟩
  · unfold ldnZero
    split <;> rfl
  · rw [hmoved]
    split
    · have hne : o.d.val ≠ o.d.val + 1 := by omega
      rw [wrV64, rdV_wrV_ne hne, rdV_wrV]
      rfl
    · exact rdV_wrV ..
  · rw [hmoved, if_pos hw, wrV64, rdV_wrV]
    rfl
  · rw [hmoved]
    split
    next hw => exact rdV_wrV64_ne hr (hr' hw) ..
    next => exact rdV_wrV_ne hr ..

theorem ldn_zero {s : State} {g : Grp} {tm : Team} (h : OfTeam s g tm) {o : Ldn} (hstash : o.mem.stash = false)
    (hregs : ∀ r ∈ o.d.val :: namedMem o.mem, r < g.band.n)
    (hpages : ∀ l ∈ g.live, let va := laneAddress g.band (threadOf g.band l) o.mem
      va < 2 ^ 55 ∧ va % bytesOf o.w = 0 ∧ l1Find s g.core tm.ctx va = none ∧ TlbSound s (g.core / 8) tm.ctx va ∧
        walkWaits s (g.core / 8) tm.ctx va = false ∧ ∃ f, walk s tm.ctx va = .ok f ∧ f.state = 1)
    {P : Nat → Thread → Thread → Prop} (hP : ∀ l t, P l t (moved (ldnZero o t) g.next)) :
    IssuesLanes (.ldn o) s g tm (fun _ => []) P := by
  refine issuesLanes_of_memLanes h (exec_ldn s o) hregs (upd := ldnZero o) (fun u hu l hl => ?_) fun l => hP l _
  obtain ⟨hspace, halign, hline, htlb, hwaits, f, hwalk, hstate⟩ := hpages l hl
  obtain ⟨v, hv, hissued⟩ := locate_notResident (teamOf_ofTeam h) hspace halign hline htlb hwaits hwalk hstate hu
  refine ⟨v, ?_, hissued⟩
  rw [widthBytes_eq, memAddr_eq, hstash, hv, foundIssue]
  rfl

theorem vectorMemory : VectorMemory := fun _ g _ _ h =>
  ⟨fun _ => ld_issues h, fun _ => st_issues h, fun _ => ldn_issues h,
    fun o hstash hregs hpages => ldn_zero h hstash hregs hpages fun _ => ldnZero_puts o g.next⟩

/-! ### Atomics (R291, R298) -/

/-- An atomic of system scope that a memory page carries, or one of a smaller scope, passes. -/
theorem sysAtomic_passes {s : State} {ctx : Nat} {loc : Loc} {fn : AtomFn} {sc : Scope} {va : Nat} {acc : Acc}
    (h : ∀ a va, loc = .phys a va → a < 2 ^ 48 ∨ sc ≠ .system) (hagain : ∀ va, loc ≠ .again va) :
    sysAtomic s ctx (.loc loc) fn sc va acc = .loc loc := by
  unfold sysAtomic
  cases loc with
  | stash => rfl
  | again va => exact absurd rfl (hagain va)
  | phys a va' =>
    have hcarried : decide (a < sysBase ∨ sc ≠ .system) = true := decide_eq_true (h a va' rfl)
    simp only [hcarried, Bool.true_or, if_true]

theorem located_ne_again {s : State} {g : Grp} {tm : Team} {n : Nat} {write stash : Bool} {addr : Nat} {loc : Loc}
    (h : Locates s g tm n write stash addr loc) (va : Nat) : loc ≠ .again va := by
  cases h <;> exact fun h => by cases h

theorem atomic_issues {s : State} {g : Grp} {tm : Team} (h : OfTeam s g tm) {loc : Nat → Loc} {i : Instr} {fn : AtomFn}
    {n d c : Nat} {m : MemOp} {ord : Order} {sc : Scope} {ch : Hint} (hi : exec i s = atomicOp s fn n d c m ord sc ch)
    (hregs : ∀ r ∈ [d, c] ++ namedMem m, r < g.band.n)
    (hlocs : ∀ l ∈ g.live, Locates s g tm n true m.stash (laneAddress g.band (threadOf g.band l) m) (loc l) ∧
      ∀ a va, loc l = .phys a va → a < 2 ^ 48 ∨ sc ≠ .system) :
    IssuesLanes i s g tm
      (fun l => [.atomic fn (loc l) n (wordsAt (threadOf g.band l) (n / 4) c) (wordsAt (threadOf g.band l) (n / 4) d) (.vec d)
        ord sc ch])
      fun _ t t' => t' = moved t g.next := by
  refine issuesLanes_of_memLanes h hi hregs (upd := id) (fun u hu l hl => ?_) fun _ => rfl
  obtain ⟨hloc, hcarried⟩ := hlocs l hl
  obtain ⟨v, hv, hissued⟩ := locate_locates (teamOf_ofTeam h) hu hloc plain_atomic
  refine ⟨v, ?_, hissued⟩
  have hfound : (if m.stash then Found.loc (loc l) else
      sysAtomic v (grpCtx v g) (.loc (loc l)) fn sc (laneAddress g.band (threadOf g.band l) m) .atomic) = .loc (loc l) := by
    split
    · rfl
    · exact sysAtomic_passes hcarried (located_ne_again hloc)
  dsimp only
  rw [memAddr_eq, hv]
  dsimp only
  rw [hfound, foundIssue, regWords_eq, regWords_eq]

theorem atomfBytes_eq (ty : AtomfTy) : atomfBytes ty = if ty = .f64 then 8 else 4 := by cases ty <;> rfl

theorem atomicIssue : AtomicIssue := fun s _ _ _ h =>
  ⟨fun o => atomic_issues h (exec_atom s o), fun o => atomic_issues h ((exec_atomf s o).trans (by rw [execAtomf, atomfBytes_eq])),
    fun o => atomic_issues h (exec_cas s o), fun o => atomic_issues h (exec_cas2 s o)⟩

/-! ### SLD and SST (R255) -/

/-- A memory instruction that acts once for its group, on the state as it is. -/
theorem issuesOnce_of_perGroup {i : Instr} {s : State} {g : Grp} {tm : Team} (h : OfTeam s g tm) (hl : g.live ≠ [])
    {f : Grp → GrpRes} (hi : exec i s = perGroup s f) {u : State} (hu : Translated (g.core / 8) s u) {kind : PendKind}
    (hf : f g = .ok (issueOps u g g.live [kind])) : IssuesOnce i s g tm kind := by
  obtain ⟨hg, htm, -⟩ := h
  have hband : bandOf (issueOps u g g.live [kind]) g.key = some g.band :=
    (congrArg (aFind g.key) hu.issued.1).trans (grpOf_band hg)
  have hteam : teamOf u g.band.team = some tm := (hu.teamOf _).trans htm
  obtain ⟨t, b', hnext, honly, hb', hframe, hby, hthreads⟩ := perGroup_ok hg hl hband rfl fun _ _ => rfl
  refine ⟨t, b', ?_, ⟨?_, fun j hj => ?_, ?_, fun a => ?_⟩, hb', hframe, hby, hthreads⟩
  · rw [hi, perGroup_at hg, hf, hnext]
  · rw [honly.rest, issueOps_eq hteam, hu.frame, hu.issued.2]
    unfold Claims.opOf
    rfl
  · exact (honly.bands j hj).trans (congrArg (aFind j) hu.issued.1)
  · rw [honly.rest]
    exact ⟨hu.tlbs.clusters, hu.tlbs.hinges⟩
  · rw [honly.bytes, homeByte, homeByte, hu.frame]
    rfl

section
variable {s : State} {g : Grp} {tm : Team} (h : OfTeam s g tm) {loc : Loc}
include h

/-- A scalar access of a group that its checks find. -/
theorem groupAccess_issues (hl : g.live ≠ []) {i : Instr} {a : Nat} {off : Word} {stash write : Bool} {n : Nat} {acc : Acc}
    {f : Grp → Loc → PendKind} (hi : exec i s = groupAccess s a off stash n acc f) (hacc : Plain acc write)
    (hloc : Locates s g tm n write stash (baseOffset (rdS g.band a) off) loc) : IssuesOnce i s g tm (f g loc) := by
  obtain ⟨v, hv, hissued⟩ := locate_locates (teamOf_ofTeam h) (.refl _ s) hloc hacc
  refine issuesOnce_of_perGroup h hl hi hissued ?_
  dsimp only
  rw [baseAddr_eq, hv]

theorem sld_issues (hl : g.live ≠ []) {o : Sld}
    (hloc : Locates s g tm (bytesOf o.w) false o.stash (baseOffset (rdS g.band o.a.val) o.off) loc) :
    IssuesOnce (.sld o) s g tm (.load loc o.w (.sca o.d.val) o.acq o.ch) := by
  obtain ⟨guard, hcur⟩ := grpOf_cur h.1
  have hi : exec (.sld o) s = groupAccess s o.a.val o.off o.stash (bytesOf o.w) .read fun _ loc =>
      .load loc o.w (.sca o.d.val) o.acq o.ch := by rw [exec_sld, execSld, hcur, widthBytes_eq]
  exact groupAccess_issues h hl hi plain_read hloc

theorem sst_issues (hl : g.live ≠ []) {o : Sst}
    (hloc : Locates s g tm (bytesOf o.w) true o.stash (baseOffset (rdS g.band o.a.val) o.off) loc) :
    IssuesOnce (.sst o) s g tm
      (.store loc (bytesOf o.w) ((rdS g.band o.c.val).toNat % 2 ^ (8 * bytesOf o.w)) o.rel o.ch) := by
  obtain ⟨guard, hcur⟩ := grpOf_cur h.1
  have hi : exec (.sst o) s = groupAccess s o.a.val o.off o.stash (bytesOf o.w) .write fun g loc =>
      .store loc (bytesOf o.w) ((rdS g.band o.c.val).toNat % 2 ^ (8 * bytesOf o.w)) o.rel o.ch := by
    rw [exec_sst, execSst, hcur, widthBytes_eq]
  exact groupAccess_issues h hl hi plain_write hloc

end

end Sys2Proof.Proofs
end


section
/-! SUPPORT. What SLD and SST of a stream issue (R255, R400). -/

namespace Sys2Proof.Proofs

open Sys2Proof.Machine Sys2Proof.Claims

/-! ### Translation through a sequencer's TLB (R228, R400) -/

/-- Nothing changes but the list of walks and one hinge. -/
structure OnlyHinge (h : Nat) (s t : State) : Prop where
  frame : t = { s with hinges := t.hinges, walked := t.walked }
  others : ∀ j, j ≠ h → hingeOf t j = hingeOf s j

theorem OnlyHinge.trans {h : Nat} {s t u : State} (hst : OnlyHinge h s t) (htu : OnlyHinge h t u) : OnlyHinge h s u :=
  ⟨htu.frame.trans (by rw [hst.frame]), fun j hj => (htu.others j hj).trans (hst.others j hj)⟩

theorem sequencer_ge (h : Nat) : ¬ 60 + h < 60 := by omega

theorem onlyHinge_setHinge (h : Nat) (s : State) (walked : List (Nat × Nat × Nat)) (x : Hinge) :
    OnlyHinge h s (setHinge { s with walked := walked } h x) :=
  ⟨rfl, fun _ hj => hingeOf_setHinge_ne _ hj x⟩

theorem onlyHinge_setTlb (s : State) (h : Nat) (m : List TlbEntry) : OnlyHinge h s (setTlb s (60 + h) m) := by
  rw [setTlb, if_neg (sequencer_ge h), Nat.add_sub_cancel_left]
  exact onlyHinge_setHinge h s s.walked _

theorem onlyHinge_countWalk (s : State) (h ctx va : Nat) : OnlyHinge h s (countWalk s (60 + h) ctx va) := by
  rw [countWalk_eq, countMiss, if_neg (sequencer_ge h), if_neg (sequencer_ge h), Nat.add_sub_cancel_left]
  split
  · exact ⟨rfl, fun _ _ => rfl⟩
  · exact onlyHinge_setHinge ..

theorem onlyHinge_fillTlb (s : State) (h ctx va : Nat) (l : Leaf) : OnlyHinge h s (fillTlb s (60 + h) ctx va l) := by
  rw [fillTlb_eq, if_neg fun hsize => sequencer_ge h hsize.1]
  exact onlyHinge_setTlb ..

theorem onlyHinge_translate {s : State} {h ctx va : Nat} (hsound : TlbSound s (60 + h) ctx va) :
    OnlyHinge h s (Machine.translate s (60 + h) ctx va).2 := by
  unfold Machine.translate
  cases hfind : tlbFind s (60 + h) ctx va with
  | none =>
    have hcount := onlyHinge_countWalk s h ctx va
    cases walk s ctx va with
    | error e => exact hcount
    | ok l =>
      dsimp only
      split
      · exact hcount.trans (onlyHinge_fillTlb ..)
      · exact hcount
  | some e =>
    obtain ⟨l, hl, hfits⟩ := leaf_of_tlbFind hsound hfind
    simp only [hl, hfits, if_true]
    exact ⟨rfl, fun _ _ => rfl⟩

/-- A stream's access to a present page finds it. -/
theorem locateStream_present {s : State} {h ctx va n : Nat} {write : Bool} {l : Leaf} {acc : Acc} (halign : va % n = 0)
    (hpresent : Present s (60 + h) ctx va write l) (hacc : Plain acc write) :
    ∃ v, locateStream s h ctx va n acc = (.loc (.phys (physOf l va) va), v) ∧ Translated (60 + h) s v ∧ OnlyHinge h s v := by
  obtain ⟨hwrites, -, hfetch⟩ := hacc
  obtain ⟨v, hv, hissued⟩ := access_present hpresent (acc := acc) (fun hw => hwrites.symm.trans hw) hfetch
  have honly : OnlyHinge h s v := by
    have heq : v = (Machine.translate s (60 + h) ctx va).2 := by
      have := congrArg Prod.snd hv
      rw [access, walkWaits_of_idle hpresent.walks] at this
      exact this.symm
    rw [heq]
    exact onlyHinge_translate hpresent.tlb
  have hspace : ¬ Config.vaLimit ≤ va := Nat.not_le.mpr hpresent.space
  refine ⟨v, ?_, hissued, honly⟩
  simp only [locateStream, globalCheck, spaceCheck, hspace, halign, hv, ne_eq, not_true, if_false]

/-! ### The instructions -/

/-- A stream issues one operation and goes on. -/
def StreamIssues (i : Instr) (s : State) (g : Strm) (k : PendKind) : Prop :=
  ∃ t, exec i s = .next t ∧
    t.pending = s.pending ++ [({ agent := .stream g.hinge g.rcd.ctx.toNat, issuer := 2 ^ 20 + g.hinge * 16 + g.num, lanes := [0]
                                 seq := s.seq, pc := g.addr, kind := k } : PendOp)] ∧
    t = { s with pending := t.pending, hinges := t.hinges, walked := t.walked } ∧
    (∀ h, h ≠ g.hinge → hingeOf t h = hingeOf s h) ∧ streamOf t g.hinge g.num = { g.rcd with pc := g.next, state := 1 } ∧
    (∀ n, n ≠ g.num → streamOf t g.hinge n = streamOf s g.hinge n) ∧ ∀ a, homeByte t a = homeByte s a

theorem streamAccess_issues {s : State} {g : Strm} {l : Leaf} (hg : strmOf s = some g) (hlive : g.live = true) {i : Instr} {a : Nat}
    {off : Word} {n : Nat} {write : Bool} {acc : Acc} {f : Strm → Loc → PendKind} (hi : exec i s = streamAccess s a off n acc f)
    (hacc : Plain acc write) (halign : baseOffset (rdStream g.rcd a) off % n = 0)
    (hpresent : Present s (60 + g.hinge) g.rcd.ctx.toNat (baseOffset (rdStream g.rcd a) off) write l) :
    StreamIssues i s g (f g (.phys (physOf l (baseOffset (rdStream g.rcd a) off)) (baseOffset (rdStream g.rcd a) off))) := by
  obtain ⟨v, hv, hissued, honly⟩ := locateStream_present halign hpresent hacc
  have hstreams : ∀ n, streamOf v g.hinge n = streamOf s g.hinge n := fun n => by
    rw [streamOf, streamOf, hissued.tlbs.hinges]
  have hpending : v.pending = s.pending := hissued.issued.2
  have hexec : exec i s = .next (setStream { v with pending := v.pending ++
      [{ agent := .stream g.hinge g.rcd.ctx.toNat, issuer := streamIssuer g.hinge g.num, lanes := [0], seq := v.seq, pc := g.addr
         kind := f g (.phys (physOf l (baseOffset (rdStream g.rcd a) off)) (baseOffset (rdStream g.rcd a) off)) }] }
      g.hinge g.num { streamOf v g.hinge g.num with pc := g.next, state := 1 }) := by
    rw [hi]
    simp only [streamAccess, onStream, hg, hlive, baseAddr_eq, hv, Bool.not_true, Bool.false_eq_true, if_false]
    rfl
  refine ⟨_, hexec, ?_, ?_, fun j hj => ?_, ?_, fun n hn => ?_, fun a => ?_⟩
  · rw [← hpending, ← hissued.seq]
    rfl
  · rw [honly.frame]
    rfl
  · exact (hingeOf_setHinge_ne _ hj _).trans (honly.others j hj)
  · rw [streamOf_setStream, hstreams, strmOf_rcd hg]
  · exact (streamOf_setStream_ne _ hn _).trans (hstreams n)
  · rw [homeByte, homeByte, honly.frame]
    rfl

section
variable {s : State} {g : Strm} {l : Leaf} (hg : strmOf s = some g) (hlive : g.live = true)
include hg hlive

theorem sld_streams {o : Sld} (halign : baseOffset (rdStream g.rcd o.a.val) o.off % bytesOf o.w = 0)
    (hpresent : Present s (60 + g.hinge) g.rcd.ctx.toNat (baseOffset (rdStream g.rcd o.a.val) o.off) false l) :
    StreamIssues (.sld o) s g (.load (.phys (physOf l (baseOffset (rdStream g.rcd o.a.val) o.off))
      (baseOffset (rdStream g.rcd o.a.val) o.off)) o.w (.sca o.d.val) o.acq o.ch) := by
  obtain ⟨guard, hcur⟩ := strmOf_cur hg
  have hi : exec (.sld o) s = streamAccess s o.a.val o.off (bytesOf o.w) .read fun _ loc =>
      .load loc o.w (.sca o.d.val) o.acq o.ch := by rw [exec_sld, execSld, hcur, widthBytes_eq]
  exact streamAccess_issues hg hlive hi plain_read halign hpresent

theorem sst_streams {o : Sst} (halign : baseOffset (rdStream g.rcd o.a.val) o.off % bytesOf o.w = 0)
    (hpresent : Present s (60 + g.hinge) g.rcd.ctx.toNat (baseOffset (rdStream g.rcd o.a.val) o.off) true l) :
    StreamIssues (.sst o) s g (.store (.phys (physOf l (baseOffset (rdStream g.rcd o.a.val) o.off))
      (baseOffset (rdStream g.rcd o.a.val) o.off)) (bytesOf o.w)
      ((rdStream g.rcd o.c.val).toNat % 2 ^ (8 * bytesOf o.w)) o.rel o.ch) := by
  obtain ⟨guard, hcur⟩ := strmOf_cur hg
  have hi : exec (.sst o) s = streamAccess s o.a.val o.off (bytesOf o.w) .write fun g loc =>
      .store loc (bytesOf o.w) ((rdStream g.rcd o.c.val).toNat % 2 ^ (8 * bytesOf o.w)) o.rel o.ch := by
    rw [exec_sst, execSst, hcur, widthBytes_eq]
  exact streamAccess_issues hg hlive hi plain_write halign hpresent

end

theorem scalarMemory : ScalarMemory :=
  ⟨fun _ _ _ _ h hl => ⟨fun _ => sld_issues h hl, fun _ => sst_issues h hl⟩,
    fun _ _ _ hg hlive => ⟨fun _ => sld_streams hg hlive, fun _ => sst_streams hg hlive⟩⟩

end Sys2Proof.Proofs
end


section
/-! SUPPORT. FENCE, PREF, CLEAN and INVAL at their issue (R257, R258, R278). -/

namespace Sys2Proof.Proofs

open Sys2Proof.Machine Sys2Proof.Claims

section
variable {s : State} {g : Grp} {tm : Team} (h : OfTeam s g tm)
include h

theorem fence_issues (o : Fence) : IssuesLanes (.fence o) s g tm
    (fun _ => if o.kind = .ar then [.fence .acq o.sc, .fence .rel o.sc] else [.fence o.kind o.sc])
    fun _ t t' => t' = moved t g.next := by
  refine issuesLanes_of_memLanes h (exec_fence s o) (by simp) (upd := id)
    (fun u hu l _ => ⟨u, ?_, .refl _ u⟩) fun _ => rfl
  cases o.kind <;> rfl

/-- An address beyond the space, and a present page that no window holds: what PREF issues of either. -/
theorem pref_issues {o : Pref} (hregs : ∀ r ∈ namedMem o.mem, r < g.band.n) {kinds : Nat → List PendKind}
    (hlanes : ∀ l ∈ g.live, ∀ u, Issuing (g.core / 8) s u →
      (∃ e, threadCheck u g.core tm.ctx (laneAddress g.band (threadOf g.band l) o.mem) 1 .read = (.error e, u) ∧ kinds l = []) ∨
      ∃ a v, threadCheck u g.core tm.ctx (laneAddress g.band (threadOf g.band l) o.mem) 1 .read = (.ok (.bytes a), v) ∧
        Translated (g.core / 8) u v ∧ windowAt v a = none ∧
        kinds l = [.pref o.cc a (laneAddress g.band (threadOf g.band l) o.mem) o.ch]) :
    IssuesLanes (.pref o) s g tm kinds fun _ t t' => t' = moved t g.next := by
  refine issuesLanes_of_memLanes h (exec_pref s o) hregs (upd := id) (fun u hu l hl => ?_) fun _ => rfl
  dsimp only
  rw [memAddr_eq, grpCtx_eq ((hu.teamOf _).trans (teamOf_ofTeam h))]
  rcases hlanes l hl u hu with ⟨e, hcheck, hkinds⟩ | ⟨a, v, hcheck, hissued, hwindow, hkinds⟩
  · exact ⟨u, by rw [hcheck, hkinds], .refl _ u⟩
  · refine ⟨v, ?_, hissued⟩
    rw [hcheck, hkinds]
    dsimp only
    rw [hwindow]
    rfl

theorem pref_present {o : Pref} (f : Nat → Leaf) (hregs : ∀ r ∈ namedMem o.mem, r < g.band.n)
    (hpages : ∀ l ∈ g.live, let va := laneAddress g.band (threadOf g.band l) o.mem
      Present s (g.core / 8) tm.ctx va false (f l) ∧ windowAt s (physOf (f l) va) = none ∧
        ∀ line x, l1Find s g.core tm.ctx va = some (line, x) → line = physOf (f l) va / 128) :
    IssuesLanes (.pref o) s g tm
      (fun l => [.pref o.cc (physOf (f l) (laneAddress g.band (threadOf g.band l) o.mem))
        (laneAddress g.band (threadOf g.band l) o.mem) o.ch])
      fun _ t t' => t' = moved t g.next := by
  refine pref_issues h hregs fun l hl u hu => .inr ?_
  obtain ⟨hpresent, hwindow, hline⟩ := hpages l hl
  obtain ⟨v, hv, hissued⟩ := accessL1_present (core := g.core) (acc := .read) (present_mono hpresent hu)
    (by rw [l1Find, coreOf, hu.cores]; exact hline) nofun nofun
  have hspace : ¬ Config.vaLimit ≤ laneAddress g.band (threadOf g.band l) o.mem := Nat.not_le.mpr hpresent.space
  refine ⟨_, v, ?_, hissued, ?_, rfl⟩
  · rw [threadCheck, spaceCheck, if_neg hspace, Nat.mod_one, if_neg (by simp), hv]
  · rw [windowAt, hissued.teams, hu.teams]
    exact hwindow

theorem pref_outside {o : Pref} (hregs : ∀ r ∈ namedMem o.mem, r < g.band.n)
    (hspace : ∀ l ∈ g.live, 2 ^ 55 ≤ laneAddress g.band (threadOf g.band l) o.mem) :
    IssuesLanes (.pref o) s g tm (fun _ => []) fun _ t t' => t' = moved t g.next :=
  pref_issues h hregs fun l hl u _ => .inl ⟨_, by rw [threadCheck, spaceCheck, if_pos (show Config.vaLimit ≤ _ from hspace l hl)], rfl⟩

/-! ### CLEAN and INVAL of lines and of everything -/

theorem clean_lines {i : Instr} {inval : Bool} {o : Clean} (hi : exec i s = cleanInval inval o s) {m : MemOp}
    (hwhat : o.what = .lines m) (hregs : ∀ r ∈ namedMem m, r < g.band.n)
    (hpages : ∀ l ∈ g.live, let va := laneAddress g.band (threadOf g.band l) m
      va < 2 ^ 55 ∧ Walkable s (g.core / 8) tm.ctx (va / 128 * 128)) :
    IssuesLanes i s g tm
      (fun l => [.clean inval o.sc (leafRange (walk s tm.ctx (laneAddress g.band (threadOf g.band l) m / 128 * 128))
        (laneAddress g.band (threadOf g.band l) m / 128 * 128) 128) false])
      fun _ t t' => t' = moved t g.next := by
  rw [cleanInval, hwhat] at hi
  refine issuesLanes_of_memLanes h hi hregs (upd := id) (fun u hu l hl => ?_) fun _ => rfl
  obtain ⟨hspace, htlb, hwalk⟩ := hpages l hl
  have htlb' := hu.sound _ _ htlb
  have hspace' : ¬ Config.vaLimit ≤ laneAddress g.band (threadOf g.band l) m := Nat.not_le.mpr hspace
  refine ⟨_, ?_, translated_translate htlb'⟩
  dsimp only
  rw [memAddr_eq, grpCtx_eq ((hu.teamOf _).trans (teamOf_ofTeam h)), if_neg hspace',
    if_neg (by rw [walkWaits_of_idle ((hu.sameTables.walkBusy ..).trans hwalk)]; exact Bool.false_ne_true), clusterOfCore,
    Config.coresPerCluster, translate_fst htlb', hu.sameTables.walk]
  rfl

theorem clean_all (hl : g.live ≠ []) {i : Instr} {inval : Bool} {o : Clean} (hi : exec i s = cleanInval inval o s)
    (hwhat : o.what = .all) : IssuesOnce i s g tm (.clean inval o.sc [] true) := by
  rw [cleanInval, hwhat] at hi
  exact issuesOnce_of_perGroup h hl hi (.refl _ s) rfl

end

/-! ### Pages that may be RESIDENT (R222-R224) -/

/-- An entry that a table names has a byte listed in memory. -/
theorem mem_listedEntries {s : State} {table i : Nat} (hi : i < 8192) (h : leNat (homeRead s (table + 8 * i) 8) ≠ 0) :
    i ∈ listedEntries s.mem table := by
  have hbyte : ∃ j, j < 8 ∧ homeByte s (table + 8 * i + j) ≠ 0 := by
    by_contra hnone
    push Not at hnone
    refine h ?_
    have hzero : ∀ n a, (∀ j, j < n → homeByte s (a + j) = 0) → leNat (homeRead s a n) = 0 := fun n => by
      induction n with
      | zero => exact fun _ _ => rfl
      | succ n ih =>
        intro a hall
        have hrest := ih (a + 1) fun j hj => by
          have := hall (j + 1) (by omega)
          rwa [← Nat.add_assoc, Nat.add_right_comm] at this
        have hfirst : aGet 0 a s.mem = 0 := hall 0 (by omega)
        rw [homeRead, readBytes, leNat, hfirst]
        change 0 + 256 * leNat (homeRead s (a + 1) n) = 0
        rw [hrest]
    exact hzero 8 _ hnone
  obtain ⟨j, hj, hbyte⟩ := hbyte
  cases hfind : aFind (table + 8 * i + j) s.mem with
  | none => simp [homeByte, aGet, hfind] at hbyte
  | some b =>
    rw [listedEntries, List.mem_eraseDups, List.mem_map]
    refine ⟨(8 * i + j, b), ?_, by dsimp only; omega⟩
    rw [aRange, List.mem_map]
    refine ⟨(table + 8 * i + j, b), List.mem_filter.mpr ⟨mem_of_aFind hfind, ?_⟩, ?_⟩
    · simp only [Bool.and_eq_true, decide_eq_true_eq]
      omega
    · rw [show table + 8 * i + j - table = 8 * i + j by omega]

theorem div_page_index (va left : Nat) : bitsOf va (16 + 13 * left) 13 = va / 65536 / 8192 ^ left % 8192 := by
  rw [bitsOf, Nat.pow_add, Nat.pow_mul, Nat.div_div_eq_div_mul]
  norm_num

/-- A page that a walk finds is listed, where the part of its number above the table's index is told. -/
theorem mem_listedPages {s : State} {va lo hi : Nat} (hlo : lo ≤ va / 65536) (hhi : va / 65536 < hi) (left : Nat) :
    ∀ table up l, up = va / 65536 / 8192 ^ left → walkFrom s va left table = .ok l →
      va / 65536 ∈ listedPages s lo hi left table up := by
  induction left with
  | zero => exact fun _ _ _ _ h => by cases h
  | succ left ih =>
    intro table up l hup hwalk
    have hindex := div_page_index va left
    have hpage : up * 8192 + bitsOf va (16 + 13 * left) 13 = va / 65536 / 8192 ^ left := by
      rw [hup, hindex, pow_succ, ← Nat.div_div_eq_div_mul]
      omega
    have hbelow : bitsOf va (16 + 13 * left) 13 < 8192 := by rw [hindex]; omega
    rw [walkFrom] at hwalk
    dsimp only at hwalk
    split at hwalk
    next => cases hwalk
    next hpresent =>
    have hentry : leNat (homeRead s (table + 8 * bitsOf va (16 + 13 * left) 13) 8) ≠ 0 := fun hzero => by
      rw [hzero] at hpresent
      exact hpresent rfl
    have hkept : va / 65536 / 8192 ^ left ∈ ((listedEntries s.mem table).map fun e => up * 8192 + e).filter fun p =>
        decide (p * 8192 ^ left < hi ∧ lo < (p + 1) * 8192 ^ left) := by
      refine List.mem_filter.mpr ⟨List.mem_map.mpr ⟨_, mem_listedEntries hbelow hentry, hpage⟩, decide_eq_true ⟨?_, ?_⟩⟩
      · exact Nat.lt_of_le_of_lt (Nat.div_mul_le_self ..) hhi
      · exact Nat.lt_of_le_of_lt hlo (Nat.lt_mul_of_div_lt (Nat.lt_succ_self _) (by positivity))
    rw [listedPages]
    split
    next hleft =>
      rw [hleft, pow_zero, Nat.div_one] at hkept
      subst hleft
      simpa using hkept
    next hleft =>
      rw [if_neg hleft] at hwalk
      split at hwalk
      next => cases hwalk
      next =>
        refine List.mem_flatMap.mpr ⟨_, hkept, ?_⟩
        refine ih _ _ l rfl ?_
        rw [← hindex]
        exact hwalk

/-- A listed page is one of the range. -/
theorem listedPages_range {s : State} {lo hi p : Nat} (left : Nat) : ∀ table up, p ∈ listedPages s lo hi left table up →
    lo ≤ p ∧ p < hi := by
  induction left with
  | zero => exact fun _ _ h => by cases h
  | succ left ih =>
    intro table up h
    rw [listedPages] at h
    split at h
    next hleft =>
      have hin := of_decide_eq_true (List.mem_filter.mp h).2
      rw [hleft, pow_zero] at hin
      omega
    next =>
      obtain ⟨_, -, h⟩ := List.mem_flatMap.mp h
      exact ih _ _ h

/-- The part of page `p` in a virtual range. -/
def partOf (va n p : Nat) : Nat × Nat := (max va (p * 65536), min (va + n) ((p + 1) * 65536) - max va (p * 65536))

theorem mem_mayReside {s : State} {id ctx va n : Nat} {r : Nat × Nat} (h : r ∈ mayReside s id ctx va n) :
    ∃ p, va / 65536 ≤ p ∧ p < (va + n - 1) / 65536 + 1 ∧ 0 < n ∧ r = partOf va n p := by
  unfold mayReside at h
  split at h
  next => cases h
  next hn =>
    obtain ⟨p, hp, rfl⟩ := List.mem_map.mp h
    rcases List.mem_append.mp (List.mem_eraseDups.mp hp) with hp | hp
    · obtain ⟨hlo, hhi⟩ := listedPages_range _ _ _ hp
      exact ⟨p, hlo, hhi, by omega, rfl⟩
    · obtain ⟨hlo, hhi⟩ := of_decide_eq_true (List.mem_filter.mp hp).2
      exact ⟨p, hlo, hhi, by omega, rfl⟩

theorem part_mem_mayReside {s : State} {id ctx va n x : Nat} {l : Leaf} (hlo : va ≤ x) (hhi : x < va + n) (hx : x < 2 ^ 55)
    (hwalk : walk s ctx x = .ok l) : partOf va n (x / 65536) ∈ mayReside s id ctx va n := by
  have hn : n ≠ 0 := by omega
  rw [mayReside, if_neg hn]
  refine List.mem_map.mpr ⟨x / 65536, List.mem_eraseDups.mpr (List.mem_append_left _ ?_), rfl⟩
  refine mem_listedPages (by omega) (by omega) 3 _ 0 l ?_ hwalk
  have htop : x / 65536 < 8192 ^ 3 := by omega
  exact (Nat.div_eq_of_lt htop).symm

/-! ### CLEAN and INVAL of a range -/

/-- The physical ranges of parts of pages are those that the tables give. -/
theorem transRanges_eq {s : State} {id ctx : Nat} (parts : List (Nat × Nat)) : ∀ u, Issuing id s u →
    (∀ r ∈ parts, TlbSound s id ctx r.1) →
    (transRanges u id ctx parts).1 = parts.flatMap (fun r => leafRange (walk s ctx r.1) r.1 r.2) ∧
      Translated id u (transRanges u id ctx parts).2 := by
  induction parts with
  | nil => exact fun u _ _ => ⟨rfl, .refl _ u⟩
  | cons r parts ih =>
    intro u hu hsound
    obtain ⟨va, n⟩ := r
    have htlb := hu.sound _ _ (hsound _ List.mem_cons_self)
    have htrans := translated_translate htlb
    obtain ⟨hranges, hrest⟩ := ih _ (hu.trans htrans.toIssuing) fun r hr => hsound r (List.mem_cons_of_mem _ hr)
    refine ⟨?_, htrans.trans hrest⟩
    rw [transRanges]
    dsimp only
    rw [hranges, translate_fst htlb, hu.sameTables.walk, List.flatMap_cons]

theorem physOf_add {l : Leaf} {va j : Nat} (h : va % 65536 + j < 65536) : physOf l (va + j) = physOf l va + j := by
  unfold physOf
  omega

/-- The physical addresses of a virtual range's pages that are RESIDENT. -/
theorem mem_ranges {s : State} {id ctx va n a : Nat} (hspace : va + n ≤ 2 ^ 55) :
    (∃ r ∈ (mayReside s id ctx va n).flatMap (fun r => leafRange (walk s ctx r.1) r.1 r.2), r.1 ≤ a ∧ a < r.1 + r.2) ↔
      ∃ x f, va ≤ x ∧ x < va + n ∧ walk s ctx x = .ok f ∧ f.state = 0 ∧ a = physOf f x := by
  constructor
  · rintro ⟨r, hr, hra, har⟩
    obtain ⟨part, hpart, hr⟩ := List.mem_flatMap.mp hr
    obtain ⟨p, hlo, hhi, hn, rfl⟩ := mem_mayReside hpart
    have hpage : (partOf va n p).1 / 65536 = p ∧ va ≤ (partOf va n p).1 ∧ (partOf va n p).1 < va + n ∧
        (partOf va n p).1 + (partOf va n p).2 ≤ va + n ∧ (partOf va n p).1 + (partOf va n p).2 ≤ (p + 1) * 65536 := by
      simp only [partOf]
      omega
    generalize partOf va n p = part at hpage hr
    obtain ⟨x, k⟩ := part
    obtain ⟨hxp, hxlo, hxhi, hend, hpend⟩ := hpage
    dsimp only at hxp hxlo hxhi hend hpend hr
    unfold leafRange at hr
    split at hr
    next f hf =>
      split at hr
      next hstate =>
        obtain rfl := List.mem_singleton.mp hr
        dsimp only at hra har
        have hin : x % 65536 + (a - physOf f x) < 65536 := by omega
        refine ⟨x + (a - physOf f x), f, by omega, by omega, ?_, hstate, ?_⟩
        · rw [← hf]
          exact walk_samePage s ctx (by omega)
        · rw [physOf_add hin]
          omega
      next => cases hr
    next => cases hr
  · rintro ⟨x, f, hlo, hhi, hwalk, hstate, rfl⟩
    have hpart := part_mem_mayReside (id := id) hlo hhi (by omega) hwalk
    have hpage : (partOf va n (x / 65536)).1 / 65536 = x / 65536 ∧ (partOf va n (x / 65536)).1 ≤ x ∧
        x < (partOf va n (x / 65536)).1 + (partOf va n (x / 65536)).2 := by
      simp only [partOf]
      omega
    generalize partOf va n (x / 65536) = part at hpart hpage
    obtain ⟨y, k⟩ := part
    obtain ⟨hpage, hyx, hxk⟩ := hpage
    dsimp only at hpage hyx hxk
    refine ⟨(physOf f y, k), List.mem_flatMap.mpr ⟨_, hpart, ?_⟩, ?_⟩
    · dsimp only
      rw [walk_samePage s ctx hpage, hwalk, leafRange, if_pos hstate]
      exact List.mem_singleton_self _
    · have hadd := physOf_add (l := f) (va := y) (j := x - y) (by omega)
      rw [show y + (x - y) = x by omega] at hadd
      dsimp only
      omega

section
variable {s : State} {g : Grp} {tm : Team} (h : OfTeam s g tm)
include h

theorem clean_range (hl : g.live ≠ []) {i : Instr} {inval : Bool} {o : Clean} (hi : exec i s = cleanInval inval o s) {a : Fin 64}
    {off : Word} {c : Fin 64} (hwhat : o.what = .range a off c) {va n : Nat} (hva : va = baseOffset (rdS g.band a.val) off)
    (hn : n = (rdS g.band c.val).toNat) (hspace : va < 2 ^ 55) (hend : va + n ≤ 2 ^ 55)
    (hpages : ∀ x, va / 128 * 128 ≤ x → x < (va + n + 127) / 128 * 128 → Walkable s (g.core / 8) tm.ctx x) :
    ∃ ranges, IssuesOnce i s g tm (.clean inval o.sc ranges false) ∧
      ∀ a, (∃ r ∈ ranges, r.1 ≤ a ∧ a < r.1 + r.2) ↔
        0 < n ∧ ∃ x f, va / 128 * 128 ≤ x ∧ x < (va + n + 127) / 128 * 128 ∧ walk s tm.ctx x = .ok f ∧ f.state = 0 ∧
          a = physOf f x := by
  obtain ⟨lo, len, hspan, hlen⟩ : ∃ lo len, lineSpan va n = (lo, len) ∧
      ((n = 0 ∧ len = 0) ∨ (0 < n ∧ lo = va / 128 * 128 ∧ lo + len = (va + n + 127) / 128 * 128)) := by
    unfold lineSpan
    split
    next hzero => exact ⟨_, _, rfl, .inl ⟨hzero, rfl⟩⟩
    next => exact ⟨_, _, rfl, .inr ⟨by omega, rfl, by omega⟩⟩
  have hwalkable : ∀ r ∈ mayReside s (g.core / 8) tm.ctx lo len, Walkable s (g.core / 8) tm.ctx r.1 := fun r hr => by
    obtain ⟨p, hplo, hphi, hpos, rfl⟩ := mem_mayReside hr
    have hin : lo ≤ (partOf lo len p).1 ∧ (partOf lo len p).1 < lo + len := by
      simp only [partOf]
      omega
    exact hpages _ (by omega) (by omega)
  have hwaits : ((mayReside s (g.core / 8) tm.ctx lo len).any fun r => walkWaits s (g.core / 8) tm.ctx r.1) = false :=
    List.any_eq_false.mpr fun r hr => by rw [walkWaits_of_idle (hwalkable r hr).2]; exact Bool.false_ne_true
  obtain ⟨hranges, htrans⟩ := transRanges_eq _ s (.refl (g.core / 8) s) fun r hr => (hwalkable r hr).1
  rw [cleanInval, hwhat] at hi
  refine ⟨(mayReside s (g.core / 8) tm.ctx lo len).flatMap fun r => leafRange (walk s tm.ctx r.1) r.1 r.2,
    issuesOnce_of_perGroup h hl hi htrans ?_, fun a => ?_⟩
  · have hlimit : ¬ (Config.vaLimit < va + n ∨ Config.vaLimit ≤ va) := by
      rintro (h | h)
      · exact absurd hend (Nat.not_le.mpr h)
      · exact absurd hspace (Nat.not_lt.mpr h)
    dsimp only
    rw [baseAddr_eq, ← hva, ← hn, if_neg hlimit, hspan, grpCtx_eq (teamOf_ofTeam h), clusterOfCore, Config.coresPerCluster]
    dsimp only
    rw [hwaits, hranges]
    rfl
  · rcases hlen with ⟨hzero, hlen⟩ | ⟨hpos, hlo, hlen⟩
    · rw [hlen, mayReside, if_pos rfl]
      simp [hzero]
    · rw [mem_ranges (by omega), hlo, ← hlen, hlo]
      exact ⟨fun hx => ⟨hpos, hx⟩, fun hx => hx.2⟩

end

theorem fenceAndCacheIssue : FenceAndCacheIssue := fun s g tm h =>
  ⟨fence_issues h, fun _ f => pref_present h f, fun _ => pref_outside h, fun p hp o => by
    have hi : exec (p.1 o) s = cleanInval p.2 o s := by
      rcases List.mem_cons.mp hp with rfl | hp
      · rfl
      · obtain rfl := List.mem_singleton.mp hp
        rfl
    exact ⟨fun _ hwhat hregs hpages => clean_lines h hi hwhat hregs hpages,
      fun _ _ _ hwhat hl hspace hend hpages => clean_range h hl hi hwhat rfl rfl hspace hend hpages,
      fun hwhat hl => clean_all h hl hi hwhat⟩⟩

/-- Settles O23: translation leaves every other translation as it was, so the lanes' checks, one after the other, pass as they would
alone. -/
theorem memoryIssue : Obligations.MemoryIssue := by
  unfold Obligations.MemoryIssue
  exact ⟨vectorMemory, scalarMemory, atomicIssue, fenceAndCacheIssue⟩

end Sys2Proof.Proofs
end


section
/-! SUPPORT. MAPC and MAPF (R264): the dirty granules of a window go to memory. -/

namespace Sys2Proof.Proofs

open Sys2Proof.Machine Sys2Proof.Claims

/-! ### Granules written home (R241) -/

theorem getElem_readBytes (d : Byte) (m : AList Byte) {n i : Nat} : ∀ {a : Nat} (h : i < (readBytes d m a n).length),
    (readBytes d m a n)[i] = aGet d (a + i) m := by
  induction n generalizing i with
  | zero => exact fun h => absurd h (Nat.not_lt_zero i)
  | succ n ih =>
    intro a h
    cases i with
    | zero => rfl
    | succ i =>
      simp only [readBytes, List.getElem_cons_succ]
      rw [ih, Nat.add_assoc, Nat.add_comm 1 i]

section
variable (key : Nat) (tm : Team) (e : MapEntry) (w : Window) (s : State)

theorem homeByte_granuleHome_in (n : Nat) {j : Nat} (hj : j < 128) :
    homeByte (granuleHome key tm e w s n) (w.base + 128 * n + j) = aGet 0 (e.first * 1024 + 128 * n + j) tm.stash :=
  (aGet_writeBytes_in 0 s.mem (w.base + 128 * n) _ (by rw [length_readBytes]; exact hj)).trans (getElem_readBytes ..)

theorem homeByte_granuleHome_out (n : Nat) {a : Nat} (h : a < w.base + 128 * n ∨ w.base + 128 * n + 128 ≤ a) :
    homeByte (granuleHome key tm e w s n) a = homeByte s a :=
  aGet_writeBytes_out 0 s.mem _ _ (by rw [length_readBytes]; exact h)

/-- The granules written home: the bytes of the slots in each, every other byte as it was. -/
def granulesHome (gs : List Nat) : State := gs.foldl (granuleHome key tm e w) s

theorem granulesHome_frame (gs : List Nat) : granulesHome key tm e w s gs =
    { s with mem := (granulesHome key tm e w s gs).mem, seen := (granulesHome key tm e w s gs).seen } := by
  induction gs generalizing s with
  | nil => rfl
  | cons n gs ih => exact ih (granuleHome key tm e w s n)

theorem homeByte_granulesHome (gs : List Nat) (n : Nat) {j : Nat} (hj : j < 128) :
    homeByte (granulesHome key tm e w s gs) (w.base + 128 * n + j) =
      if n ∈ gs then aGet 0 (e.first * 1024 + 128 * n + j) tm.stash else homeByte s (w.base + 128 * n + j) := by
  induction gs generalizing s with
  | nil => rfl
  | cons k gs ih =>
    refine (ih (granuleHome key tm e w s k)).trans ?_
    by_cases hk : n = k
    · rw [← hk, homeByte_granuleHome_in key tm e w s n hj, if_pos List.mem_cons_self, ite_self]
    · rw [homeByte_granuleHome_out key tm e w s k (by omega)]
      simp only [List.mem_cons, hk, false_or]

theorem homeByte_granulesHome_out {gs : List Nat} {a : Nat} (h : ∀ n ∈ gs, a < w.base + 128 * n ∨ w.base + 128 * n + 128 ≤ a) :
    homeByte (granulesHome key tm e w s gs) a = homeByte s a := by
  induction gs generalizing s with
  | nil => rfl
  | cons n gs ih =>
    exact (ih (granuleHome key tm e w s n) fun k hk => h k (List.mem_cons_of_mem n hk)).trans
      (homeByte_granuleHome_out key tm e w s n (h n List.mem_cons_self))

end

theorem mem_dirtyGranules {e : MapEntry} {w : Window} {n : Nat} : n ∈ dirtyGranules e w ↔ n < 8 * e.count ∧ w.dirty.testBit n = true := by
  rw [dirtyGranules, List.mem_filter, List.mem_range]

/-! ### The window written back -/

section
variable {s : State} {key m : Nat} {tm : Team} (htm : teamOf s key = some tm)
include htm

theorem writeBackWindow_windowless (h : ∀ e, aFind m tm.maps = some e → e.win = none) : writeBackWindow s key m = (none, s) := by
  unfold writeBackWindow
  rw [htm]
  dsimp only
  cases hfind : aFind m tm.maps with
  | none => rfl
  | some e =>
    dsimp only
    rw [h e hfind]

variable {e : MapEntry} {w : Window} (he : aFind m tm.maps = some e) (hw : e.win = some w)
include he hw

theorem writeBackWindow_clean (hclean : dirtyGranules e w = []) : writeBackWindow s key m = (none, s) := by
  unfold dirtyGranules at hclean
  unfold writeBackWindow
  rw [htm]
  dsimp only
  rw [he]
  dsimp only
  rw [hw]
  dsimp only
  rw [hclean]

theorem writeBackWindow_dirty {l : Leaf} (hwalk : walk s tm.ctx w.va = .ok l) (hstate : l.state = 0)
    (hkept : w.base < 2 ^ 48 → pageLost s (w.base / 65536) = false) (hdirty : dirtyGranules e w ≠ []) :
    writeBackWindow s key m = (none, entryCleaned key m e w (granulesHome key tm e w s (dirtyGranules e w))) := by
  obtain ⟨n, gs, hgs⟩ := List.exists_cons_of_ne_nil hdirty
  have hlost : (pageLost s (w.base / 65536) && decide (w.base < sysBase)) = false := by
    by_cases hbase : w.base < 2 ^ 48
    · rw [hkept hbase, Bool.false_and]
    · rw [decide_eq_false (show ¬ w.base < sysBase from hbase), Bool.and_false]
  rw [hgs]
  unfold dirtyGranules at hgs
  unfold writeBackWindow
  rw [htm]
  dsimp only
  rw [he]
  dsimp only
  rw [hw]
  dsimp only
  rw [hgs]
  dsimp only
  rw [hwalk]
  dsimp only
  have hkeeps : (pageLost s (w.base / 65536) && decide (w.base < sysBase) || l.state == 3) = false := by rw [hlost, hstate]; rfl
  rw [if_neg (Bool.eq_false_iff.mp hkeeps), if_neg (by rw [hstate]; decide)]
  rfl

end

/-! ### The instructions -/

section
variable {s u : State} {g : Grp} (hg : grpOf s = some g)
include hg

/-- Every thread of the group has gone on. -/
theorem goneOn_acted : GoneOn g (acted g g.band.split fun t => moved t g.next) :=
  ⟨rfl, bystanders_acted hg .., fun _ hlt hl => threadOf_acted_live _ _ hlt hl⟩

/-- The group goes on, after its threads with a false guard. -/
theorem gotoBand_idled (hbands : u.bands = (idled s g).bands) :
    gotoBand u g.key g.live g.next = setBand u g.key (acted g g.band.split fun t => moved t g.next) := by
  have hband : bandOf u g.key = some (pastIdle g) := (congrArg (aFind g.key) hbands).trans (bandBecomes_idled hg).2
  unfold gotoBand
  rw [hband]
  rfl

end

/-- The entry freed by MAPC, kept by MAPF. -/
def mapsAfter (free : Bool) (m : Nat) (maps : AList MapEntry) : AList MapEntry := if free then aErase m maps else maps

def entryAfter (free : Bool) (key m : Nat) (tm : Team) (s : State) : State :=
  if free then setTeam s key { tm with maps := aErase m tm.maps } else s

section
variable {free : Bool} {key m : Nat} {tm : Team} {s : State} (h : teamOf s key = some tm)

theorem entryAfter_frame : entryAfter free key m tm s = { s with teams := (entryAfter free key m tm s).teams } := by
  unfold entryAfter
  split <;> rfl

theorem teamOf_entryAfter_ne {j : Nat} (hj : j ≠ key) : teamOf (entryAfter free key m tm s) j = teamOf s j := by
  unfold entryAfter
  split
  · exact teamOf_setTeam_ne _ hj _
  · rfl

include h

theorem teamOf_entryAfter : teamOf (entryAfter free key m tm s) key = some { tm with maps := mapsAfter free m tm.maps } := by
  unfold entryAfter mapsAfter
  split
  · exact teamOf_setTeam ..
  · exact h

end

/-- A window written back without loss: what MAPC and MAPF leave. -/
theorem exec_mapBack {s v : State} {g : Grp} {i : Instr} {o : MapOp} {free : Bool} {tm : Team} (hg : grpOf s = some g)
    (hi : exec i s = mapBack free o s) (hl : g.live ≠ []) (hbusy : mapBusy (idled s g) g.band.team o.m.val = false)
    (hback : writeBackWindow (idled s g) g.band.team o.m.val = (none, v)) (hbands : v.bands = (idled s g).bands)
    (htm : teamOf v g.band.team = some tm) :
    exec i s = .next (setBand (entryAfter free g.band.team o.m.val tm v) g.key (acted g g.band.split fun t => moved t g.next)) := by
  rw [hi]
  refine perGroupTo_idled hg ?_ fun hlive => absurd hlive hl
  dsimp only
  rw [hbusy, hback]
  dsimp only
  rw [htm]
  cases free with
  | false => exact congrArg GrpRes.ok (gotoBand_idled hg hbands)
  | true =>
    exact congrArg GrpRes.ok (gotoBand_idled (u := setTeam v g.band.team { tm with maps := aErase o.m.val tm.maps }) hg hbands)

theorem exec_mapOp (o : MapOp) (free : Bool) (s : State) :
    exec (if free then .mapc o else .mapf o) s = mapBack free o s := by
  cases free <;> rfl

/-- MAPC and MAPF where the entry has no window, or there is none. -/
theorem mapBack_without {s : State} {g : Grp} {tm : Team} {o : MapOp} {free : Bool} (h : OfTeam s g tm) (hl : g.live ≠ [])
    (hwin : ∀ e, aFind o.m.val tm.maps = some e → e.win = none) :
    TeamStep (if free then .mapc o else .mapf o) s g fun t tm' b' => GoneOn g b' ∧ CachesKept s t ∧
      tm' = { tm with maps := if free then aErase o.m.val tm.maps else tm.maps } := by
  obtain ⟨hg, htm, -⟩ := h
  obtain ⟨honly, -⟩ := bandBecomes_idled hg
  have hteam : teamOf (idled s g) g.band.team = some tm := by rw [teamOf, honly.rest]; exact htm
  have hbusy : mapBusy (idled s g) g.band.team o.m.val = false := by
    have hnone : (aFind o.m.val tm.maps).bind (·.win) = none := by
      cases hfind : aFind o.m.val tm.maps with
      | none => rfl
      | some e => exact hwin e hfind
    unfold mapBusy
    rw [hteam]
    dsimp only
    rw [hnone]
  have hexec := exec_mapBack (free := free) hg (exec_mapOp o free s) hl hbusy (writeBackWindow_windowless hteam hwin) rfl hteam
  refine ⟨_, _, _, hexec, ?_, teamOf_entryAfter hteam, fun j hj => ?_, fun j hj => ?_, bandOf_setBand .., fun a => ?_, goneOn_acted hg,
    ⟨?_, ?_⟩, rfl⟩
  · rw [entryAfter_frame, honly.rest]
    rfl
  · exact (teamOf_entryAfter_ne hj).trans (by rw [teamOf, honly.rest]; rfl)
  · refine (bandOf_setBand_ne _ hj _).trans ?_
    rw [entryAfter_frame]
    exact honly.bands j hj
  · rw [homeByte, entryAfter_frame]
    exact honly.bytes a
  · rw [entryAfter_frame, honly.rest]
    rfl
  · rw [entryAfter_frame, honly.rest]
    rfl

/-- A window written back without loss: its dirty granules are at home, its entry has none left. -/
structure WroteBack (s t : State) (key m : Nat) (tm : Team) (e : MapEntry) (w : Window) : Prop where
  frame : t = { s with teams := t.teams, mem := t.mem, seen := t.seen }
  others : ∀ j, j ≠ key → teamOf t j = teamOf s j
  team : ∃ maps d, teamOf t key = some { tm with maps := maps } ∧ aFind m maps = some { e with win := some { w with dirty := d } } ∧
    (∀ n, n < 8 * e.count → d.testBit n = false) ∧ aErase m maps = aErase m tm.maps
  granules : ∀ n j, n < 8 * e.count → j < 128 → homeByte t (w.base + 128 * n + j) =
    if w.dirty.testBit n then aGet 0 (e.first * 1024 + 128 * n + j) tm.stash else homeByte s (w.base + 128 * n + j)
  outside : ∀ a, a < w.base ∨ w.base + 1024 * e.count ≤ a → homeByte t a = homeByte s a

theorem wroteBack_dirty {s : State} {key m : Nat} {tm : Team} (htm : teamOf s key = some tm) (e : MapEntry) (w : Window) :
    WroteBack s (entryCleaned key m e w (granulesHome key tm e w s (dirtyGranules e w))) key m tm e w := by
  have hframe := granulesHome_frame key tm e w s (dirtyGranules e w)
  have hteam : teamOf (granulesHome key tm e w s (dirtyGranules e w)) key = some tm := by rw [hframe]; exact htm
  have hcleaned : entryCleaned key m e w (granulesHome key tm e w s (dirtyGranules e w)) =
      setTeam (granulesHome key tm e w s (dirtyGranules e w)) key
        { tm with maps := aInsert m { e with win := some { w with dirty := 0 } } tm.maps } := by
    rw [entryCleaned, hteam]
  rw [hcleaned]
  refine ⟨?_, fun j hj => ?_, ⟨_, 0, teamOf_setTeam .., aFind_aInsert_self .., fun n _ => Nat.zero_testBit n, aErase_aInsert ..⟩,
    fun n j hn hj => ?_, fun a ha => ?_⟩
  · generalize granulesHome key tm e w s (dirtyGranules e w) = t at hframe
    rw [hframe]
    rfl
  · rw [teamOf_setTeam_ne _ hj, hframe]
    rfl
  · refine (homeByte_granulesHome key tm e w s _ n hj).trans ?_
    simp only [mem_dirtyGranules, hn, true_and]
  · refine homeByte_granulesHome_out key tm e w s fun n hn => ?_
    have hcount := (mem_dirtyGranules.mp hn).1
    omega

section
variable {s : State} {key m : Nat} {tm : Team} (htm : teamOf s key = some tm) {e : MapEntry} {w : Window}
  (he : aFind m tm.maps = some e) (hw : e.win = some w)
include htm he hw

theorem wroteBack_clean (hclean : dirtyGranules e w = []) : WroteBack s s key m tm e w := by
  have hbits : ∀ n, n < 8 * e.count → w.dirty.testBit n = false := fun n hn => by
    have hnot : n ∉ dirtyGranules e w := by rw [hclean]; exact List.not_mem_nil
    rw [mem_dirtyGranules, and_iff_right hn] at hnot
    exact Bool.eq_false_iff.mpr hnot
  refine ⟨rfl, fun _ _ => rfl, ⟨tm.maps, w.dirty, htm, ?_, hbits, rfl⟩, fun n j hn _ => ?_, fun _ _ => rfl⟩
  · rw [he, ← hw]
  · rw [hbits n hn]
    rfl

theorem wroteBack_writeBackWindow {l : Leaf} (hwalk : walk s tm.ctx w.va = .ok l) (hstate : l.state = 0)
    (hkept : w.base < 2 ^ 48 → pageLost s (w.base / 65536) = false) :
    ∃ v, writeBackWindow s key m = (none, v) ∧ WroteBack s v key m tm e w := by
  by_cases hclean : dirtyGranules e w = []
  · exact ⟨s, writeBackWindow_clean htm he hw hclean, wroteBack_clean htm he hw hclean⟩
  · exact ⟨_, writeBackWindow_dirty htm he hw hwalk hstate hkept hclean, wroteBack_dirty htm e w⟩

end

theorem windowsWrittenBack : WriteBackWindow := by
  intro s g tm o free h hl
  refine ⟨mapBack_without h hl, fun e w l he hw hwalk hstate hkept hidle => ?_⟩
  obtain ⟨hg, htm, -⟩ := h
  obtain ⟨honly, -⟩ := bandBecomes_idled hg
  have htables : SameTables s (idled s g) := (issuing_of_onlyBand 0 honly).sameTables
  have hteam : teamOf (idled s g) g.band.team = some tm := by rw [teamOf, honly.rest]; exact htm
  have hbusy : mapBusy (idled s g) g.band.team o.m.val = false := by
    unfold mapBusy
    rw [hteam]
    dsimp only
    rw [he, Option.bind_some, hw]
    exact (htables.stackBusy w.base).trans hidle
  obtain ⟨v, hback, hv⟩ := wroteBack_writeBackWindow hteam he hw ((htables.walk ..).trans hwalk) hstate
    fun hbase => (htables.homes.pageLost _).trans (hkept hbase)
  obtain ⟨maps, d, hmaps, hfind, hbits, herase⟩ := hv.team
  have hexec := exec_mapBack (free := free) hg (exec_mapOp o free s) hl hbusy hback (by rw [hv.frame]) hmaps
  have hbyte : ∀ a, homeByte (setBand (entryAfter free g.band.team o.m.val { tm with maps := maps } v) g.key
      (acted g g.band.split fun t => moved t g.next)) a = homeByte v a := fun a => by
    rw [homeByte, entryAfter_frame]
    rfl
  refine ⟨_, _, _, hexec, ?_, fun j hj => ?_, bandOf_setBand .., goneOn_acted hg, teamOf_entryAfter hmaps, fun j hj => ?_, rfl,
    fun hfree => ?_, fun hfree => ⟨d, ?_, hbits⟩, fun n j hn hj => ?_, fun a ha => ?_⟩
  · rw [entryAfter_frame, hv.frame, honly.rest]
    rfl
  · refine (bandOf_setBand_ne _ hj _).trans ?_
    rw [entryAfter_frame, hv.frame]
    exact honly.bands j hj
  · exact (teamOf_entryAfter_ne hj).trans ((hv.others j hj).trans (by rw [teamOf, honly.rest]; rfl))
  · rw [mapsAfter, if_pos hfree]
    exact herase
  · rw [mapsAfter, hfree, if_neg Bool.false_ne_true]
    exact hfind
  · rw [hbyte, hv.granules n j hn hj, honly.bytes]
  · rw [hbyte, hv.outside a ha, honly.bytes]

end Sys2Proof.Proofs
end


section
/-! SUPPORT. A range written back and invalidated in every cache (R242), and MAPW (R263). -/

namespace Sys2Proof.Proofs

open Sys2Proof.Machine Sys2Proof.Claims

/-! ### A range flushed (R242) -/

/-- The levels below a core's L1 or a cluster's cache that a byte of it goes through. -/
def nextLevels (next : List Level) (s : State) (a : Nat) : List Level :=
  next.filter fun l => match l with | .link h => remote s h a | _ => true

/-- The bytes of a level in a range. -/
def bytesIn (base n : Nat) (s : State) (l : Level) : List Nat :=
  ((levelMap s l).filter fun e => decide (base ≤ e.1 ∧ e.1 < base + n)).map (·.1)

/-- The bytes of a level in a range handed down, and their copies discarded. -/
def levelFlush (base n : Nat) (next : List Level) (l : Level) (s : State) : State :=
  (bytesIn base n s l).foldl (fun s a => flushByte l (nextLevels next s a) s a) s

/-- The lines of a cluster's cache in a range that are dirty. -/
def dirtyLines (base n : Nat) (s : State) (k : Nat) : Nat :=
  ((((Machine.clusterOf s k).cache.filter fun e => decide (base ≤ e.1 ∧ e.1 < base + n) && e.2.dirty).map
    fun e => e.1 / 128).eraseDups).length

def coreFlush (base n : Nat) (s : State) (c : Nat × Core) : State :=
  levelFlush base n [.cluster (clusterOfCore c.1), .link (hingeOfCore c.1)] (.l1 c.1) s

def clusterFlush (base n : Nat) (s : State) (c : Nat × Cluster) : State :=
  countBacks (levelFlush base n [.link (hingeOfCluster c.1)] (.cluster c.1) s) c.1 (dirtyLines base n s c.1)

def hingeFlush (base n : Nat) (s : State) (h : Nat × Hinge) : State := levelFlush base n [] (.link h.1) s

def coresFlush (base n : Nat) (s : State) : State := s.cores.foldl (coreFlush base n) s
def clustersFlush (base n : Nat) (s : State) : State := s.clusters.foldl (clusterFlush base n) s
def hingesFlush (base n : Nat) (s : State) : State := s.hinges.foldl (hingeFlush base n) s

theorem levelFlush_eq (base n : Nat) (next : List Level) (l : Level) (s : State) : levelFlush base n next l s =
    ((levelMap s l).filter fun e => decide (base ≤ e.1 ∧ e.1 < base + n)).foldl
      (fun s e => flushByte l (nextLevels next s e.1) s e.1) s := List.foldl_map

theorem flushRange_eq (s : State) (base n : Nat) :
    flushRange s base n = hingesFlush base n (clustersFlush base n (coresFlush base n s)) := by
  unfold hingesFlush clustersFlush coresFlush
  rw [show coreFlush base n = _ from funext fun u => funext fun c => levelFlush_eq ..,
    show hingeFlush base n = _ from funext fun u => funext fun c => levelFlush_eq ..,
    show clusterFlush base n = _ from funext fun u => funext fun c => congrArg (countBacks · _ _) (levelFlush_eq ..)]
  rfl

theorem mem_bytesIn {base n a : Nat} {s : State} {l : Level} {c : Copy} (hlo : base ≤ a) (hhi : a < base + n)
    (hc : copyAt s l a = some c) : a ∈ bytesIn base n s l :=
  List.mem_map.mpr ⟨(a, c), List.mem_filter.mpr ⟨mem_of_aFind hc, decide_eq_true ⟨hlo, hhi⟩⟩, rfl⟩

theorem range_of_mem_bytesIn {base n a : Nat} {s : State} {l : Level} (h : a ∈ bytesIn base n s l) : base ≤ a ∧ a < base + n := by
  obtain ⟨e, he, rfl⟩ := List.mem_map.mp h
  exact of_decide_eq_true (List.mem_filter.mp he).2

/-- What each byte of the range going down keeps, and counting, the flush of the range keeps. -/
theorem levelFlush_induction {base n : Nat} {R : State → Prop} {next : List Level} {l : Level}
    (hR : ∀ u below a, below ⊆ next → base ≤ a → a < base + n → R u → R (flushByte l below u a)) {s : State} (hs : R s) :
    R (levelFlush base n next l s) :=
  List.foldlRecOn _ _ hs fun u hu a ha =>
    hR u _ a (List.filter_subset_self _) (range_of_mem_bytesIn ha).1 (range_of_mem_bytesIn ha).2 hu

theorem flushRange_induction {base n : Nat} {R : State → Prop}
    (hR : ∀ u l below a, base ≤ a → a < base + n → R u → R (flushByte l below u a)) (hcount : ∀ u k m, R u → R (countBacks u k m))
    {s : State} (hs : R s) : R (flushRange s base n) := by
  have hlevel : ∀ u next l, R u → R (levelFlush base n next l u) := fun u next l hu =>
    levelFlush_induction (fun u below a _ hlo hhi => hR u l below a hlo hhi) hu
  rw [flushRange_eq]
  exact List.foldlRecOn _ _ (List.foldlRecOn _ _ (List.foldlRecOn _ _ hs fun u hu c _ => hlevel u _ _ hu)
    fun u hu c _ => hcount _ _ _ (hlevel u _ _ hu)) fun u hu h _ => hlevel u _ _ hu

theorem copiesOnly_flushRange (s : State) (base n : Nat) : CopiesOnly s (flushRange s base n) :=
  flushRange_induction (R := CopiesOnly s) (fun u l below a _ _ hu => hu.trans (copiesOnly_flushByte l below u a))
    (fun u k m hu => hu.trans (copiesOnly_countBacks u k m)) (.refl s)

theorem homeByte_flushRange {base n a : Nat} (ha : a < base ∨ base + n ≤ a) (s : State) :
    homeByte (flushRange s base n) a = homeByte s a :=
  flushRange_induction (R := fun u => homeByte u a = homeByte s a)
    (fun u l below b hlo hhi hu => ((flushByte_others l below u (show a ≠ b by omega)).home).trans hu)
    (fun u k m hu => ((sameByte_countBacks u k m a).home).trans hu) rfl

/-! ### No copy is left (R242) -/

section
variable {base n : Nat} {v : Level} {x : Nat}

/-- A level that a flush does not hand down to stays without a copy. -/
theorem copyAt_levelFlush_none {next : List Level} (hv : v ∉ next) (l : Level) {s : State} (h : copyAt s v x = none) :
    copyAt (levelFlush base n next l s) v x = none :=
  levelFlush_induction (R := fun u => copyAt u v x = none)
    (fun _ _ a hbelow _ _ hu => copyAt_flushByte_none (fun hin => hv (hbelow hin)) hu a) h

/-- A level that is flushed has no copy of the range. -/
theorem copyAt_levelFlush_self {next : List Level} (hv : v ∉ next) (hlo : base ≤ x) (hhi : x < base + n) (s : State) :
    copyAt (levelFlush base n next v s) v x = none := by
  unfold levelFlush
  refine foldl_reaches (f := fun s a => flushByte v (nextLevels next s a) s a) (P := fun u => copyAt u v x = none) (b := x)
    (fun u => copyAt_flushByte_self v _ u x)
    (fun u a hu => copyAt_flushByte_none (fun hin => hv (List.mem_of_mem_filter hin)) hu a) _ ?_
  cases hc : copyAt s v x with
  | none => exact .inl rfl
  | some c => exact .inr (mem_bytesIn hlo hhi hc)

theorem copyAt_clusterFlush (s : State) (c : Nat × Cluster) : copyAt (clusterFlush base n s c) v x =
    copyAt (levelFlush base n [.link (hingeOfCluster c.1)] (.cluster c.1) s) v x :=
  (sameByte_countBacks ..).copies v

theorem aFind_none_of_not_mem {β : Type} {k : Nat} {m : AList β} (h : ∀ e ∈ m, e.1 ≠ k) : aFind k m = none := by
  cases hfind : aFind k m with
  | none => rfl
  | some e => exact absurd rfl (h _ (mem_of_aFind hfind))

variable (hlo : base ≤ x) (hhi : x < base + n)
include hlo hhi

theorem copyAt_coresFlush (s : State) (k : Nat) : copyAt (coresFlush base n s) (.l1 k) x = none := by
  have hnext : ∀ c, Level.l1 k ∉ [.cluster (clusterOfCore c), .link (hingeOfCore c)] := by simp
  by_cases hk : ∃ c ∈ s.cores, c.1 = k
  · obtain ⟨c, hc, rfl⟩ := hk
    exact foldl_reaches (P := fun u => copyAt u (.l1 c.1) x = none) (b := c) (fun u => copyAt_levelFlush_self (hnext _) hlo hhi u)
      (fun u d hu => copyAt_levelFlush_none (hnext _) _ hu) _ (.inr hc)
  · have hnone : copyAt s (.l1 k) x = none := by
      push Not at hk
      rw [copyAt, levelMap, coreOf, aGet, aFind_none_of_not_mem hk]
      rfl
    exact List.foldlRecOn (motive := fun u => copyAt u (.l1 k) x = none) _ _ hnone fun u hu d _ => copyAt_levelFlush_none (hnext _) _ hu

theorem copyAt_clustersFlush (s : State) (k : Nat) : copyAt (clustersFlush base n s) (.cluster k) x = none := by
  have hnext : ∀ c, Level.cluster k ∉ [.link (hingeOfCluster c)] := by simp
  by_cases hk : ∃ c ∈ s.clusters, c.1 = k
  · obtain ⟨c, hc, rfl⟩ := hk
    exact foldl_reaches (P := fun u => copyAt u (.cluster c.1) x = none) (b := c)
      (fun u => (copyAt_clusterFlush u c).trans (copyAt_levelFlush_self (hnext _) hlo hhi u))
      (fun u d hu => (copyAt_clusterFlush u d).trans (copyAt_levelFlush_none (hnext _) _ hu)) _ (.inr hc)
  · have hnone : copyAt s (.cluster k) x = none := by
      push Not at hk
      rw [copyAt, levelMap, Machine.clusterOf, aGet, aFind_none_of_not_mem hk]
      rfl
    exact List.foldlRecOn (motive := fun u => copyAt u (.cluster k) x = none) _ _ hnone fun u hu d _ =>
      (copyAt_clusterFlush u d).trans (copyAt_levelFlush_none (hnext _) _ hu)

theorem copyAt_hingesFlush (s : State) (k : Nat) : copyAt (hingesFlush base n s) (.link k) x = none := by
  by_cases hk : ∃ c ∈ s.hinges, c.1 = k
  · obtain ⟨c, hc, rfl⟩ := hk
    exact foldl_reaches (P := fun u => copyAt u (.link c.1) x = none) (b := c)
      (fun u => copyAt_levelFlush_self List.not_mem_nil hlo hhi u)
      (fun u d hu => copyAt_levelFlush_none List.not_mem_nil _ hu) _ (.inr hc)
  · have hnone : copyAt s (.link k) x = none := by
      push Not at hk
      rw [copyAt, levelMap, hingeOf, aGet, aFind_none_of_not_mem hk]
      rfl
    exact List.foldlRecOn (motive := fun u => copyAt u (.link k) x = none) _ _ hnone fun u hu d _ =>
      copyAt_levelFlush_none List.not_mem_nil _ hu

/-- No cache holds a byte of the range: what a level hands down goes to levels that are flushed after it. -/
theorem copyAt_flushRange (s : State) : copyAt (flushRange s base n) v x = none := by
  rw [flushRange_eq]
  have hhinges : ∀ u, v ∉ ([] : List Level) → copyAt u v x = none → copyAt (hingesFlush base n u) v x = none := fun u hv hu =>
    List.foldlRecOn (motive := fun u => copyAt u v x = none) _ _ hu fun u hu d _ => copyAt_levelFlush_none hv _ hu
  cases v with
  | link k => exact copyAt_hingesFlush hlo hhi _ k
  | cluster k => exact hhinges _ List.not_mem_nil (copyAt_clustersFlush hlo hhi _ k)
  | l1 k =>
    refine hhinges _ List.not_mem_nil ?_
    exact List.foldlRecOn (motive := fun u => copyAt u (.l1 k) x = none) _ _ (copyAt_coresFlush hlo hhi s k) fun u hu d _ =>
      (copyAt_clusterFlush u d).trans (copyAt_levelFlush_none (by simp) _ hu)

end

end Sys2Proof.Proofs
end


section
/-! SUPPORT. MAPW (R263, R242). -/

namespace Sys2Proof.Proofs

open Sys2Proof.Machine Sys2Proof.Claims

/-! ### The map word and the slots (R263) -/

theorem mapWord_eq {first count rot : Nat} (hfirst : first < 512) (hcount : count ≤ 64) (hrot : rot < 16) :
    mapWord (first + count * 2 ^ 16 + rot * 2 ^ 24) = some (first, count, rot) := by
  have hreserved : ¬ (bitsOf (first + count * 2 ^ 16 + rot * 2 ^ 24) 28 36 ≠ 0 ∨
      bitOf (first + count * 2 ^ 16 + rot * 2 ^ 24) 23 = true ∨ bitsOf (first + count * 2 ^ 16 + rot * 2 ^ 24) 9 7 ≠ 0) := by
    simp only [bitsOf, bitOf, beq_iff_eq, ne_eq]
    omega
  have hf : bitsOf (first + count * 2 ^ 16 + rot * 2 ^ 24) 0 9 = first := by simp only [bitsOf]; omega
  have hc : bitsOf (first + count * 2 ^ 16 + rot * 2 ^ 24) 16 7 = count := by simp only [bitsOf]; omega
  have hr : bitsOf (first + count * 2 ^ 16 + rot * 2 ^ 24) 24 4 = rot := by simp only [bitsOf]; omega
  rw [mapWord, if_neg hreserved, hf, hc, hr]

theorem slotsCovered_false {tm : Team} {first count : Nat}
    (h : ∀ k e, (k, e) ∈ tm.maps → e.first + e.count ≤ first ∨ first + count ≤ e.first) : slotsCovered tm first count = false :=
  List.any_eq_false.mpr fun e he => by
    have := h e.1 e.2 he
    rw [decide_eq_true_eq]
    omega

/-- Slots that become GENERAL. -/
def slotsGeneral (ns : List Nat) (tm : Team) : Team := ns.foldl (fun tm n => setSlotCls tm n (.general true)) tm

theorem slotsGeneral_frame (ns : List Nat) (tm : Team) : slotsGeneral ns tm = { tm with slotCls := (slotsGeneral ns tm).slotCls } := by
  induction ns generalizing tm with
  | nil => rfl
  | cons n ns ih => exact ih (setSlotCls tm n (.general true))

theorem slotClsOf_slotsGeneral (ns : List Nat) (tm : Team) (n : Nat) :
    slotClsOf (slotsGeneral ns tm) n = if n ∈ ns then .general true else slotClsOf tm n := by
  induction ns generalizing tm with
  | nil => rfl
  | cons k ns ih =>
    refine (ih (setSlotCls tm k (.general true))).trans ?_
    rw [slotClsOf, setSlotCls, aGet_aSet, ← slotClsOf]
    by_cases hk : n = k <;> simp [hk]

theorem mem_slotRange {first count n : Nat} : n ∈ addrRange first count ↔ first ≤ n ∧ n < first + count := by
  rw [addrRange, List.mem_map]
  refine ⟨fun ⟨i, hi, hn⟩ => ?_, fun h => ⟨n - first, List.mem_range.mpr (by omega), by omega⟩⟩
  rw [List.mem_range] at hi
  omega

/-! ### The instruction -/

/-- A map word that passes the checks of MAPW, those of a window apart. -/
structure Mappable (s : State) (g : Grp) (tm : Team) (o : Mapw) (first count rot : Nat) : Prop where
  word : (rdS g.band o.c.val).toNat = first + count * 2 ^ 16 + rot * 2 ^ 24
  firstFits : first < 512
  countPos : 0 < count
  countFits : count ≤ 64
  rotFits : rot < 16
  slots : first + count ≤ tm.slotCount
  entry : aFind o.m.val tm.maps = none
  free : ∀ k e, (k, e) ∈ tm.maps → e.first + e.count ≤ first ∨ first + count ≤ e.first
  owned : ∀ i, i < count → (latchOf tm (first + i)).engine = false

section
variable {s : State} {g : Grp} {tm : Team} {o : Mapw} {first count rot : Nat} (h : Mappable s g tm o first count rot)
include h

theorem Mappable.notBad : ((aFind o.m.val tm.maps).isSome || count == 0 || decide (64 < count) || decide (tm.slotCount < first + count)
    || slotsCovered tm first count) = false := by
  have h0 : (count == 0) = false := beq_false_of_ne (Nat.ne_of_gt h.countPos)
  have h64 : decide (64 < count) = false := decide_eq_false (Nat.not_lt.mpr h.countFits)
  have hslots : decide (tm.slotCount < first + count) = false := decide_eq_false (Nat.not_lt.mpr h.slots)
  rw [h.entry, h0, h64, hslots, slotsCovered_false h.free]
  rfl

theorem Mappable.latch : (List.range count).find? (fun i => (latchOf tm (first + i)).engine) = none :=
  List.find?_eq_none.mpr fun i hi => by rw [h.owned i (List.mem_range.mp hi)]; exact Bool.false_ne_true

end

/-- One entry added, the group gone on. -/
theorem mapw_goesOn {s u : State} {g : Grp} {tm tm' : Team} {o : Mapw} (hot : OfTeam s g tm) (hl : g.live ≠ [])
    (hbands : u.bands = s.bands) {f : Grp → GrpRes} (hi : exec (.mapw o) s = perGroup s f)
    (hf : f g = .ok (setTeam u g.band.team tm')) :
    ∃ t b', exec (.mapw o) s = .next t ∧ OnlyBand (setTeam u g.band.team tm') t g.key ∧ bandOf t g.key = some b' ∧ GoneOn g b' := by
  obtain ⟨hg, -, -⟩ := hot
  have hband : bandOf (setTeam u g.band.team tm') g.key = some g.band := (congrArg (aFind g.key) hbands).trans (grpOf_band hg)
  obtain ⟨t, b', hnext, honly, hb', hframe, hby, hthreads⟩ := perGroup_ok hg hl hband rfl fun _ _ => rfl
  exact ⟨t, b', by rw [hi, perGroup_at hg, hf, hnext], honly, hb', hframe, hby, hthreads⟩

theorem mapw_without {s : State} {g : Grp} {tm : Team} {o : Mapw} {first count rot : Nat} (hot : OfTeam s g tm) (hl : g.live ≠ [])
    (h : Mappable s g tm o first count rot) (hwin : o.win = none) :
    TeamStep (.mapw o) s g fun t tm' b' => GoneOn g b' ∧ CachesKept s t ∧
      tm' = { tm with maps := aInsert o.m.val { first := first, count := count, rot := rot, win := none } tm.maps } := by
  have htm := teamOf_ofTeam hot
  obtain ⟨t, b', hexec, honly, hb', hgone⟩ := mapw_goesOn (u := s)
    (tm' := { tm with maps := aInsert o.m.val { first := first, count := count, rot := rot, win := none } tm.maps }) hot hl rfl
    (exec_mapw s o) (by
      simp only [htm, hwin, h.word, mapWord_eq h.firstFits h.countFits h.rotFits, h.notBad, h.latch, Option.map_none,
        Option.isSome_none, Bool.or_false, Bool.false_eq_true, if_false])
  refine ⟨t, _, b', hexec, ?_, ?_, fun j hj => ?_, fun j hj => honly.bands j hj, hb', fun a => (honly.bytes a).trans rfl, hgone, ?_, rfl⟩
  · rw [honly.rest]
    rfl
  · rw [teamOf, honly.rest]
    exact teamOf_setTeam ..
  · rw [teamOf, honly.rest]
    exact teamOf_setTeam_ne _ hj _
  · rw [honly.rest]
    exact ⟨rfl, rfl⟩

/-- The entry of a window that nothing has filled. -/
def freshEntry (first count rot base va : Nat) : MapEntry :=
  { first := first, count := count, rot := rot, win := some { base := base, va := va, filled := 0, dirty := 0 } }

theorem mapw_window {s : State} {g : Grp} {tm : Team} {o : Mapw} {first count rot : Nat} (hot : OfTeam s g tm) (hl : g.live ≠ [])
    (h : Mappable s g tm o first count rot) {a : Fin 64} {off : Word} (hwin : o.win = some (a, off)) {l : Leaf} {va : Nat}
    (hva : va = baseOffset (rdS g.band a.val) off) (hpresent : Present s (g.core / 8) tm.ctx va true l) (halign : va % 128 = 0)
    (hpage : va % 65536 + 1024 * count ≤ 65536) (hfree : overlapsWindow s (physOf l va) (1024 * count) = false) :
    ∃ v t b', Translated (g.core / 8) s v ∧ exec (.mapw o) s = .next t ∧
      OnlyBand (setTeam (flushRange v (physOf l va) (1024 * count)) g.band.team
        (slotsGeneral (addrRange first count)
          { tm with maps := aInsert o.m.val (freshEntry first count rot (physOf l va) va) tm.maps })) t g.key ∧
      bandOf t g.key = some b' ∧ GoneOn g b' := by
  have hbase : baseAddr (rdS g.band a.val) off = va := (baseAddr_eq ..).trans hva.symm
  have htm := teamOf_ofTeam hot
  have htrans := translated_translate hpresent.tlb
  have hfst := (translate_fst hpresent.tlb).trans hpresent.leaf
  refine ⟨(Machine.translate s (g.core / 8) tm.ctx va).2, ?_⟩
  generalize htr : Machine.translate s (g.core / 8) tm.ctx va = r at htrans hfst
  obtain ⟨leaf, v⟩ := r
  dsimp only at htrans hfst ⊢
  subst hfst
  have hflush := (copiesOnly_flushRange v (physOf l va) (1024 * count)).keepsBands
  have hteam : teamOf (flushRange v (physOf l va) (1024 * count)) g.band.team = some tm :=
    (hflush.teamOf _).trans ((htrans.teamOf _).trans htm)
  have hspace : decide (Config.vaLimit ≤ va) = false := decide_eq_false (Nat.not_le.mpr hpresent.space)
  have hfits : decide (va % 128 ≠ 0 ∨ 65536 < va % 65536 + 1024 * count) = false := decide_eq_false (by omega)
  have hoverlap : overlapsWindow v (physOf l va) (1024 * count) = false := by rw [overlapsWindow, htrans.teams]; exact hfree
  have hcheck : checkLeaf v (.ok l) va .write = .ok (.bytes (physOf l va)) :=
    checkLeaf_present (present_mono hpresent htrans.toIssuing) hpresent.resident rfl rfl (fun _ => hpresent.writable rfl) (by decide)
  obtain ⟨t, b', hexec, honly, hb', hgone⟩ := mapw_goesOn (u := flushRange v (physOf l va) (1024 * count)) (o := o)
    (tm' := slotsGeneral (addrRange first count)
      { tm with maps := aInsert o.m.val (freshEntry first count rot (physOf l va) va) tm.maps }) hot hl
    (hflush.bands.trans htrans.issued.1) (exec_mapw s o) (by
      simp only [htm, hwin, hbase, hspace, clusterOfCore, Config.coresPerCluster, walkWaits_of_idle hpresent.walks, htr, h.word,
        mapWord_eq h.firstFits h.countFits h.rotFits, h.notBad, hfits, hoverlap, h.latch, hcheck, hteam, Option.map_none,
        Option.isSome_some, Bool.or_false, Bool.false_eq_true, if_false, if_true]
      rfl)
  exact ⟨t, b', htrans, hexec, honly, hb', hgone⟩

theorem mapSlots : MapSlots := by
  intro s g tm o first count rot hot hl hword hfirst hsome hcount hrot hslots hentry hfree howned
  have h : Mappable s g tm o first count rot := ⟨hword, hfirst, hsome, hcount, hrot, hslots, hentry, hfree, howned⟩
  refine ⟨mapw_without hot hl h, fun a off l hwin hpresent halign hpage hover => ?_⟩
  obtain ⟨v, t, b', htrans, hexec, honly, hb', hgone⟩ := mapw_window hot hl h hwin rfl hpresent halign hpage hover
  generalize baseOffset (rdS g.band a.val) off = va at hpresent hpage hexec honly
  have hflush := (copiesOnly_flushRange v (physOf l va) (1024 * count)).keepsBands
  have hframe := slotsGeneral_frame (addrRange first count)
    { tm with maps := aInsert o.m.val (freshEntry first count rot (physOf l va) va) tm.maps }
  have hcls := slotClsOf_slotsGeneral (addrRange first count)
    { tm with maps := aInsert o.m.val (freshEntry first count rot (physOf l va) va) tm.maps }
  refine ⟨t, _, b', hexec, fun j hj => ?_, hb', hgone, ?_, fun j hj => ?_, hframe, fun i hi => ?_, fun n hn => ?_,
    fun k x hlo hhi => ?_, fun x hx => ?_⟩
  · exact (honly.bands j hj).trans (congrArg (aFind j) (hflush.bands.trans htrans.issued.1))
  · rw [teamOf, honly.rest]
    exact teamOf_setTeam ..
  · rw [teamOf, honly.rest]
    exact (teamOf_setTeam_ne _ hj _).trans ((hflush.teamOf j).trans (htrans.teamOf j))
  · rw [hcls, if_pos (mem_slotRange.mpr (by omega))]
  · rw [hcls, if_neg (fun hin => by have := mem_slotRange.mp hin; omega)]
    rfl
  · have hcopy := copyAt_flushRange (v := k) hlo hhi v
    have hmaps : levelMap t k = levelMap (flushRange v (physOf l va) (1024 * count)) k := by
      rw [honly.rest]
      cases k <;> rfl
    rw [copyAt, hmaps]
    exact hcopy
  · refine (honly.bytes x).trans ((homeByte_flushRange hx v).trans ?_)
    rw [homeByte, homeByte, htrans.frame]

/-- Settles O27: the range of a window is flushed from the cores down to the hinges, and its granules go home apart from each other. -/
theorem stashWindows : Obligations.StashWindows := by
  unfold Obligations.StashWindows
  exact ⟨mapSlots, windowsWrittenBack⟩

end Sys2Proof.Proofs
end

section
/-! SUPPORT. Memory under the operations on the state (R269, log 2): most leave it as it is, `f_mem`; those that write home keep its
canonical form, `f_wf`. -/

namespace Sys2Proof.Proofs
open Sys2Proof.Machine Sys2Proof.Claims

@[simp] theorem mem_ite {c : Prop} [Decidable c] (a b : State) : (if c then a else b).mem = if c then a.mem else b.mem := by
  split <;> rfl

theorem mem_of_ite {c : Prop} [Decidable c] {a b : State} {m : AList Byte} (ha : a.mem = m) (hb : b.mem = m) :
    (if c then a else b).mem = m := by
  split <;> assumption

@[simp] theorem snd_mem_ite {α : Type} {c : Prop} [Decidable c] (x y : α × State) :
    (if c then x else y).2.mem = if c then x.2.mem else y.2.mem := by
  split <;> rfl

@[simp] theorem foldl_mem {α : Type} {f : State → α → State} (hf : ∀ s x, (f s x).mem = s.mem) (xs : List α) (s : State) :
    (xs.foldl f s).mem = s.mem := by
  induction xs generalizing s with
  | nil => rfl
  | cons x xs ih => rw [List.foldl_cons, ih, hf]

theorem foldl_wf {α : Type} {f : State → α → State} (hf : ∀ s x, Memory.wf s.mem = true → Memory.wf (f s x).mem = true)
    (xs : List α) {s : State} (h : Memory.wf s.mem = true) : Memory.wf (xs.foldl f s).mem = true := by
  induction xs generalizing s with
  | nil => exact h
  | cons x xs ih => exact ih (hf s x h)

@[simp] theorem wf_ite {c : Prop} [Decidable c] {a b : State} (ha : Memory.wf a.mem = true) (hb : Memory.wf b.mem = true) :
    Memory.wf (if c then a else b).mem = true := by
  split <;> assumption

/-! ### Translation, homes and copies (08 R222-R245, 09 R266-R270) -/

@[simp] theorem setHome_mem (s : State) (ppn home frame : Nat) : (setHome s ppn home frame).mem = s.mem := rfl

@[simp] theorem setLost_mem (s : State) (ppn : Nat) : (setLost s ppn).mem = s.mem := rfl

@[simp] theorem freeFrame_mem (s : State) (home : Nat) : (freeFrame s home).2.mem = s.mem := by simp [freeFrame]

@[simp] theorem takeFrame_mem (s : State) (ppn home frame : Nat) : (takeFrame s ppn home frame).mem = s.mem := by
  unfold takeFrame
  split <;> simp

@[simp] theorem setTlb_mem (s : State) (id : Nat) (m : List TlbEntry) : (setTlb s id m).mem = s.mem := by simp [setTlb]

@[simp] theorem fillTlb_mem (s : State) (id ctx va : Nat) (l : Leaf) : (fillTlb s id ctx va l).mem = s.mem := by simp [fillTlb]

@[simp] theorem countWalk_mem (s : State) (id ctx va : Nat) : (countWalk s id ctx va).mem = s.mem := by simp [countWalk]

@[simp] theorem translate_mem (s : State) (id ctx va : Nat) : (translate s id ctx va).2.mem = s.mem := by
  have fill (u : State) : (match walk s ctx va with
      | .ok l => if l.state = 0 then fillTlb u id ctx va l else u
      | .error _ => u).mem = u.mem := by
    split
    · split <;> simp
    · rfl
  unfold Machine.translate
  dsimp only
  split
  · exact (fill _).trans (countWalk_mem ..)
  · split_ifs
    · rfl
    · exact choose_mem ..
    · exact (fill _).trans ((countWalk_mem ..).trans (choose_mem ..))

@[simp] theorem walkNow_mem (s : State) (id ctx va : Nat) : (walkNow s id ctx va).2.mem = s.mem := by
  simp only [walkNow]
  split <;> simp

@[simp] theorem transRanges_mem (s : State) (id ctx : Nat) (xs : List (Nat × Nat)) : (transRanges s id ctx xs).2.mem = s.mem := by
  induction xs generalizing s with
  | nil => rfl
  | cons x xs ih => simp [transRanges, ih]

@[simp] theorem access_mem (s : State) (id ctx va : Nat) (acc : Acc) : (access s id ctx va acc).2.mem = s.mem := by
  unfold access
  split <;> simp

@[simp] theorem accessL1_mem (s : State) (core ctx va : Nat) (acc : Acc) : (accessL1 s core ctx va acc).2.mem = s.mem := by
  unfold accessL1
  repeat' split
  all_goals simp

@[simp] theorem dropCopy_mem (s : State) (l : Level) (a : Nat) : (dropCopy s l a).mem = s.mem := by simp [setLevel_mem, dropCopy]

@[simp] theorem putLine_mem (s : State) (l : Level) (a : Nat) (v : Nat → Byte) : (putLine s l a v).mem = s.mem := by
  simp [setLevel_mem, putLine]

@[simp] theorem dropByte_mem (a : Nat) (xs : List Level) (n : Nat) (s : State) : (dropByte a xs n s).mem = s.mem := by
  fun_induction dropByte a xs n s <;> simp [*]

@[simp] theorem discardByte_mem (a : Nat) (xs : List Level) (n : Nat) (s : State) : (discardByte a xs n s).mem = s.mem := by
  fun_induction discardByte a xs n s <;> simp [*]

@[simp] theorem countBacks_mem (s : State) (cluster n : Nat) : (countBacks s cluster n).mem = s.mem := by simp [countBacks]

@[simp] theorem cleanAddrs_wf {s : State} (ag : Agent) (sc : Scope) (as : List Nat) (h : Memory.wf s.mem = true) :
    Memory.wf (cleanAddrs s ag sc as).mem = true := by
  have hall := foldl_wf (f := fun s a => cleanByte a (pathAbove s ag sc a).1 (pathAbove s ag sc a).2 s)
    (fun u a hu => cleanByte_wf a _ _ hu) as h
  simp only [cleanAddrs]
  split
  · exact hall
  · simpa [cleanByte_wf] using hall

@[simp] theorem dropAddrs_mem (s : State) (ag : Agent) (sc : Scope) (as : List Nat) : (dropAddrs s ag sc as).mem = s.mem := by
  simp [dropAddrs]

@[simp] theorem discardAddrs_mem (s : State) (ag : Agent) (sc : Scope) (as : List Nat) : (discardAddrs s ag sc as).mem = s.mem := by
  simp [discardAddrs]

@[simp] theorem cleanAll_wf {s : State} (ag : Agent) (sc : Scope) (h : Memory.wf s.mem = true) :
    Memory.wf (cleanAll s ag sc).mem = true := by
  unfold cleanAll
  split <;> simp [h]

@[simp] theorem dropAll_mem (s : State) (ag : Agent) (sc : Scope) : (dropAll s ag sc).mem = s.mem := by simp [dropAll]

@[simp] theorem fillByte_mem (a : Nat) (v : Byte) (na : Bool) (xs : List Level) (n : Nat) (s : State) :
    (fillByte a v na xs n s).mem = s.mem := by
  fun_induction fillByte a v na xs n s <;> simp [putCopy_mem, *]

@[simp] theorem loadByte_mem (s : State) (ag : Agent) (na : Bool) (a : Nat) : (loadByte s ag na a).2.mem = s.mem := by simp [loadByte]

@[simp] theorem loadBytes_mem (s : State) (ag : Agent) (na : Bool) (a n : Nat) : (loadBytes s ag na a n).2.mem = s.mem := by
  induction n generalizing s a with
  | zero => rfl
  | succ n ih => simp [loadBytes, ih]

@[simp] theorem storeByte_wf {s : State} (ag : Agent) (na : Bool) (a : Nat) (v : Byte) (h : Memory.wf s.mem = true) :
    Memory.wf (storeByte s ag na a v).mem = true := by
  unfold storeByte
  repeat' split
  all_goals simp [putCopy_mem, wf_homeWrite, h]

@[simp] theorem storeBytes_wf {s : State} (ag : Agent) (na : Bool) (a : Nat) (xs : List Byte) (h : Memory.wf s.mem = true) :
    Memory.wf (storeBytes s ag na a xs).mem = true := by
  fun_induction storeBytes s ag na a xs <;> simp_all

@[simp] theorem refreshByte_mem (a : Nat) (v : Byte) (xs : List Level) (n : Nat) (s : State) : (refreshByte a v xs n s).mem = s.mem := by
  fun_induction refreshByte a v xs n s <;> simp [putCopy_mem, *]

@[simp] theorem pointWrite_wf {s : State} (ag : Agent) (sc : Scope) (a : Nat) (v : Byte) (h : Memory.wf s.mem = true) :
    Memory.wf (pointWrite s ag sc a v).mem = true := by
  simp only [pointWrite]
  split <;> simp [putCopy_mem, wf_homeWrite, h]

@[simp] theorem pointLine_mem (s : State) (ag : Agent) (sc : Scope) (a : Nat) : (pointLine s ag sc a).mem = s.mem := by
  simp only [pointLine]
  split <;> simp

@[simp] theorem pointRead_mem (s : State) (ag : Agent) (sc : Scope) (a : Nat) : (pointRead s ag sc a).2.mem = s.mem := by simp [pointRead]

@[simp] theorem pointReads_mem (s : State) (ag : Agent) (sc : Scope) (a n : Nat) : (pointReads s ag sc a n).2.mem = s.mem := by
  induction n generalizing s a with
  | zero => rfl
  | succ n ih => simp [pointReads, ih]

@[simp] theorem pointWrites_wf {s : State} (ag : Agent) (sc : Scope) (a : Nat) (xs : List Byte) (h : Memory.wf s.mem = true) :
    Memory.wf (pointWrites s ag sc a xs).mem = true := by
  fun_induction pointWrites s ag sc a xs <;> simp_all

@[simp] theorem releaseWrite_wf {s : State} (ag : Agent) (sc : Scope) (a : Nat) (xs : List Byte) (h : Memory.wf s.mem = true) :
    Memory.wf (releaseWrite s ag sc a xs).mem = true := by
  fun_induction releaseWrite s ag sc a xs <;> simp_all

@[simp] theorem dropRange_mem (s : State) (base n : Nat) : (dropRange s base n).mem = s.mem := rfl

@[simp] theorem note_mem (s : State) (x : Seen) : (note s x).mem = s.mem := rfl

@[simp] theorem noteGranule_mem (s : State) (k : Nat) (tm : Team) (off : Nat) (fill : Bool) : (noteGranule s k tm off fill).mem = s.mem :=
  rfl

@[simp] theorem fillGranule_mem (s : State) (k m : Nat) (whole : Bool) (g : Nat) : (fillGranule s k m whole g).mem = s.mem := by
  unfold fillGranule
  repeat' split
  all_goals simp

@[simp] theorem dirtyGranule_mem (s : State) (k m g : Nat) : (dirtyGranule s k m g).mem = s.mem := by
  unfold dirtyGranule
  repeat' split
  all_goals simp

@[simp] theorem touchStash_mem (s : State) (k off n : Nat) (write : Bool) : (touchStash s k off n write).mem = s.mem := by
  unfold touchStash
  split
  · rfl
  · refine foldl_mem (fun u slot => ?_) _ s
    split
    · rfl
    · refine foldl_mem (fun v g => ?_) _ u
      split <;> simp

@[simp] theorem stashRead_mem (s : State) (k off n : Nat) : (stashRead s k off n).2.mem = s.mem := by
  simp only [stashRead]
  split <;> simp

@[simp] theorem stashWrite_mem (s : State) (k off : Nat) (bs : List Byte) : (stashWrite s k off bs).mem = s.mem := by
  simp only [stashWrite]
  split <;> simp

@[simp] theorem stashWriteEngine_mem (s : State) (k ch off : Nat) (bs : List Byte) : (stashWriteEngine s k ch off bs).mem = s.mem := by
  simp only [stashWriteEngine]
  split <;> simp

@[simp] theorem readPhys_mem (s : State) (ag : Agent) (na : Bool) (a n : Nat) : (readPhys s ag na a n).2.mem = s.mem := by
  unfold readPhys
  split <;> simp

@[simp] theorem writePhys_wf {s : State} (ag : Agent) (na : Bool) (a : Nat) (bs : List Byte) (h : Memory.wf s.mem = true) :
    Memory.wf (writePhys s ag na a bs).mem = true := by
  unfold writePhys
  split <;> simp [h]

@[simp] theorem readHome_mem (s : State) (a n : Nat) : (readHome s a n).2.mem = s.mem := by
  unfold readHome
  split <;> simp

@[simp] theorem writeHome_wf {s : State} (a : Nat) (bs : List Byte) (h : Memory.wf s.mem = true) :
    Memory.wf (writeHome s a bs).mem = true := by
  unfold writeHome
  split <;> simp [wf_homeWrite, h]

theorem granuleHome_wf (key : Nat) (tm : Team) (e : MapEntry) (w : Window) (g : Nat) {s : State} (h : Memory.wf s.mem = true) :
    Memory.wf (granuleHome key tm e w s g).mem = true := wf_homeWrite _ _ h

theorem entryCleaned_wf (key m : Nat) (e : MapEntry) (w : Window) {s : State} (h : Memory.wf s.mem = true) :
    Memory.wf (entryCleaned key m e w s).mem = true := by
  unfold entryCleaned
  split <;> exact h

@[simp] theorem writeBackWindow_wf {s : State} (k m : Nat) (h : Memory.wf s.mem = true) :
    Memory.wf (writeBackWindow s k m).2.mem = true := by
  unfold writeBackWindow
  split
  · exact h
  · split
    · exact h
    · split
      · exact h
      · dsimp only
        split
        · exact h
        · split_ifs
          · exact entryCleaned_wf _ _ _ _ h
          · refine entryCleaned_wf _ _ _ _ (foldl_wf (fun u n hu => granuleHome_wf _ _ _ _ n hu) _ ?_)
            split
            · split
              · exact revivePage_wf _ h
              · exact h
            · exact h

@[simp] theorem flushRange_wf {s : State} (base n : Nat) (h : Memory.wf s.mem = true) : Memory.wf (flushRange s base n).mem = true := by
  have pushed (l : Level) (p : List Level) (a : Nat) (u : State) (hu : Memory.wf u.mem = true) :
      Memory.wf (discardByte a [l] 1 (cleanByte a p 1 u)).mem = true := by
    rw [discardByte_mem]
    exact cleanByte_wf _ _ _ hu
  unfold flushRange
  refine foldl_wf (fun u x hu => foldl_wf (fun v e hv => pushed _ _ _ v hv) _ hu) _ ?_
  refine foldl_wf (fun u x hu => ?_) _ ?_
  · rw [countBacks_mem]
    exact foldl_wf (fun v e hv => pushed _ _ _ v hv) _ hu
  · exact foldl_wf (fun u x hu => foldl_wf (fun v e hv => pushed _ _ _ v hv) _ hu) _ h

@[simp] theorem dropTlb_mem (s : State) (ctx : Nat) (p : Nat → Bool) : (dropTlb s ctx p).mem = s.mem := rfl

/-! ### Operations that have issued (09 R269, R271, R292) -/

@[simp] theorem deliver_mem (s : State) (o : PendOp) (dst : Dest) (n : Nat) (signed : Bool) (v : Nat) :
    (deliver s o dst n signed v).mem = s.mem := by
  unfold deliver
  repeat' split
  all_goals simp

@[simp] theorem writebackLine_wf {s : State} (l : Level) (line : Nat) (discard : Bool) (h : Memory.wf s.mem = true) :
    Memory.wf (writebackLine s l line discard).mem = true := by
  simp only [writebackLine]
  refine foldl_wf (fun u x hu => ?_) _ h
  repeat' split
  all_goals simp [cleanByte_wf, hu]

@[simp] theorem dropLine_mem (s : State) (l : Level) (line : Nat) : (dropLine s l line).mem = s.mem := by simp [setLevel_mem, dropLine]

@[simp] theorem writebackCounted_wf {s : State} (l : Level) (line : Nat) (discard : Bool) (h : Memory.wf s.mem = true) :
    Memory.wf (writebackCounted s l line discard).mem = true := by
  unfold writebackCounted
  split <;> simp [h]

@[simp] theorem evictLine_wf {s : State} (l : Level) (line : Nat) (h : Memory.wf s.mem = true) :
    Memory.wf (evictLine s l line).mem = true := by
  simp [evictLine, h]

@[simp] theorem trimLines_wf (l : Level) (cap n : Nat) (xs : List (Nat × Nat × Nat)) {s : State} (h : Memory.wf s.mem = true) :
    Memory.wf (trimLines l cap n xs s).mem = true := by
  fun_induction trimLines l cap n xs s <;> simp_all

@[simp] theorem roomL1_wf {s : State} (core : Nat) (h : Memory.wf s.mem = true) : Memory.wf (roomL1 s core).mem = true := by
  simp [roomL1, h]

@[simp] theorem roomCluster_wf {s : State} (n line : Nat) (h : Memory.wf s.mem = true) : Memory.wf (roomCluster s n line).mem = true := by
  simp only [roomCluster]
  repeat' split
  all_goals simp [h]

@[simp] theorem renameLine_wf {s : State} (core ctx a va : Nat) (h : Memory.wf s.mem = true) :
    Memory.wf (renameLine s core ctx a va).mem = true := by
  unfold renameLine
  repeat' split
  all_goals simp [h]

@[simp] theorem useL1_wf {s : State} (core ctx a va : Nat) (h : Hint) (hw : Memory.wf s.mem = true) :
    Memory.wf (useL1 s core ctx a va h).mem = true := by
  simp only [useL1]
  repeat' split
  all_goals simp [hw]

@[simp] theorem useCluster_wf {s : State} (n a : Nat) (h : Hint) (hw : Memory.wf s.mem = true) :
    Memory.wf (useCluster s n a h).mem = true := by
  simp only [useCluster]
  repeat' split
  all_goals simp [hw]

@[simp] theorem useLine_wf {s : State} (ag : Agent) (a va : Nat) (h : Hint) (hw : Memory.wf s.mem = true) :
    Memory.wf (useLine s ag a va h).mem = true := by
  unfold useLine
  split <;> simp [hw]

@[simp] theorem useAtomic_wf {s : State} (ag : Agent) (sc : Scope) (a va : Nat) (h : Hint) (hw : Memory.wf s.mem = true) :
    Memory.wf (useAtomic s ag sc a va h).mem = true := by
  unfold useAtomic
  repeat' split
  all_goals simp [hw]

@[simp] theorem noteAhead_mem (s : State) (core team ch : Nat) (seq : DWord) (o : Nat) (v : Byte) :
    (noteAhead s core team ch seq o v).mem = s.mem := rfl

@[simp] theorem earlyBytes_mem (tm : Team) (team band : Nat) (lanes : List Nat) (n : Nat) (s : State) (xs : List Byte) :
    (earlyBytes tm team band lanes n s xs).2.mem = s.mem := by
  induction xs generalizing n s with
  | nil => rfl
  | cons b bs ih =>
    simp only [earlyBytes, ih]
    split
    · rfl
    · split <;> split <;> (try split) <;> simp

@[simp] theorem countCluster_mem (s : State) (k a : Nat) (hit : Bool) : (countCluster s k a hit).mem = s.mem := by simp [countCluster]

@[simp] theorem countRead_mem (s : State) (ag : Agent) (a n : Nat) : (countRead s ag a n).mem = s.mem := by
  unfold countRead
  split <;> simp

@[simp] theorem countWrite_mem (s : State) (ag : Agent) (na : Bool) (a : Nat) : (countWrite s ag na a).mem = s.mem := by
  unfold countWrite
  split <;> simp

@[simp] theorem countAtomic_mem (s : State) (ag : Agent) (sc : Scope) (a : Nat) : (countAtomic s ag sc a).mem = s.mem := by
  unfold countAtomic
  split <;> simp

@[simp] theorem readPlace_mem (s : State) (ag : Agent) (na : Bool) (p : Place) (n : Nat) : (readPlace s ag na p n).2.mem = s.mem := by
  unfold readPlace
  split <;> simp

@[simp] theorem readBy_mem (s : State) (ag : Agent) (band : Nat) (lanes : List Nat) (na : Bool) (p : Place) (n : Nat) :
    (readBy s ag band lanes na p n).2.mem = s.mem := by
  simp only [readBy]
  repeat' split
  all_goals simp

@[simp] theorem writePlace_wf {s : State} (ag : Agent) (na : Bool) (rel : Option Scope) (p : Place) (bs : List Byte)
    (h : Memory.wf s.mem = true) :
    Memory.wf (writePlace s ag na rel p bs).mem = true := by
  unfold writePlace
  repeat' split
  all_goals simp [revivePage_wf, h]

@[simp] theorem pointStep_wf {s : State} (ag : Agent) (sc : Scope) (a n : Nat) (f : Nat → Option Nat) (h : Memory.wf s.mem = true) :
    Memory.wf (pointStep s ag sc a n f).2.mem = true := by
  simp only [pointStep]
  split <;> simp [h]

@[simp] theorem placeStep_wf {s : State} (ag : Agent) (sc : Scope) (p : Place) (n : Nat) (f : Nat → Option Nat)
    (h : Memory.wf s.mem = true) :
    Memory.wf (placeStep s ag sc p n f).2.mem = true := by
  simp only [placeStep]
  repeat' split
  all_goals simp [revivePage_wf, h]

@[simp] theorem prefetchLine_mem (s : State) (ag : Agent) (cc na : Bool) (a : Nat) : (prefetchLine s ag cc na a).mem = s.mem := by
  unfold prefetchLine
  dsimp only
  split
  · rfl
  · exact (loadBytes_mem ..).trans (countRead_mem ..)

@[simp] theorem noteOp_mem (s : State) (o : PendOp) : (noteOp s o).mem = s.mem := by
  unfold noteOp
  split <;> simp

@[simp] theorem touchLines_mem (s : State) (band instr : Nat) (p : Place) (n : Nat) (r : Option (Nat × Nat)) :
    (touchLines s band instr p n r).mem = s.mem := by
  unfold touchLines
  split <;> simp

@[simp] theorem settleLines_mem (s : State) (band instr : Nat) : (settleLines s band instr).mem = s.mem := by simp [settleLines]

@[simp] theorem chargeOp_mem (s : State) (o : PendOp) : (chargeOp s o).mem = s.mem := by
  unfold chargeOp
  split <;> simp

@[simp] theorem settleOp_mem (s : State) (o : PendOp) : (settleOp s o).mem = s.mem := by simp [settleOp]

@[simp] theorem nameOp_wf {s : State} (o : PendOp) (h : Memory.wf s.mem = true) : Memory.wf (nameOp s o).mem = true := by
  unfold nameOp
  split <;> simp [h]

@[simp] theorem useOp_wf {s : State} (o : PendOp) (x : Option (Nat × Nat × Hint)) (h : Memory.wf s.mem = true) :
    Memory.wf (useOp s o x).mem = true := by
  unfold useOp
  split <;> simp [h]

@[simp] theorem postDone_mem (s : State) (o : PendOp) : (postDone s o).mem = s.mem := by
  unfold postDone
  split <;> simp

/-! ### Memory instructions (08 R249-R264) -/

@[simp] theorem issueOps_mem (s : State) (g : Grp) (ls : List Nat) (ks : List PendKind) : (issueOps s g ls ks).mem = s.mem := rfl

theorem issueLanes_wf {g : Grp} {f : State → Nat → Thread → LaneIssue × State}
    (hf : ∀ u i t, Memory.wf u.mem = true → Memory.wf (f u i t).2.mem = true) (is : List Nat) {s : State} (h : Memory.wf s.mem = true) :
    Memory.wf (issueLanes g f is s).2.mem = true := by
  induction is generalizing s with
  | nil => exact h
  | cons i is ih =>
    unfold issueLanes
    refine ih ?_
    have := hf s i (threadOf g.band i) h
    split
    · dsimp only
      split <;> simpa
    · exact this
    · simpa
    · exact this

theorem spaceCheck_mem {f : State → Except Exc Target × State} (hf : ∀ u, (f u).2.mem = u.mem) (s : State) (va n : Nat) :
    (spaceCheck s va n f).2.mem = s.mem := by
  unfold spaceCheck
  split_ifs
  · rfl
  · rfl
  · exact hf s

@[simp] theorem globalCheck_mem (s : State) (id ctx va n : Nat) (acc : Acc) : (globalCheck s id ctx va n acc).2.mem = s.mem :=
  spaceCheck_mem (fun _ => access_mem ..) ..

@[simp] theorem threadCheck_mem (s : State) (core ctx va n : Nat) (acc : Acc) : (threadCheck s core ctx va n acc).2.mem = s.mem :=
  spaceCheck_mem (fun _ => accessL1_mem ..) ..

@[simp] theorem locate_mem (s : State) (core team : Nat) (stash : Bool) (addr n : Nat) (acc : Acc) :
    (locate s core team stash addr n acc).2.mem = s.mem := by
  simp only [locate]
  repeat' split
  all_goals simp

@[simp] theorem foundIssue_mem (r : Found × State) (f : Loc → LaneIssue) (zero : LaneIssue) : (foundIssue r f zero).2.mem = r.2.mem := rfl

@[simp] theorem locateStream_mem (s : State) (h ctx addr n : Nat) (acc : Acc) : (locateStream s h ctx addr n acc).2.mem = s.mem := by
  simp [locateStream]

@[simp] theorem countPin_mem (s : State) (cluster base : Nat) : (countPin s cluster base).mem = s.mem := by simp [countPin]

@[simp] theorem fillCluster_mem (s : State) (cluster base : Nat) : (fillCluster s cluster base).mem = s.mem := by simp [fillCluster]

@[simp] theorem writePageRecord_wf {s : State} (r : PageRecord) (h : Memory.wf s.mem = true) :
    Memory.wf (writePageRecord s r).mem = true := by
  simp [ringWrite_wf, writePageRecord, h]

/-! ### Reductions (06) -/

@[simp] theorem foldRound_mem (op : RedOp) (ty : RedTy) (n : Nat) (s : State) (n1 : Nat) (xs : List Nat) :
    (foldRound op ty n s n1 xs).2.mem = s.mem := by
  induction n generalizing s n1 xs with
  | zero => rfl
  | succ n ih =>
    cases xs with
    | nil => rfl
    | cons p ps => simp [foldRound, ih]

@[simp] theorem closeValue_mem (s : State) (r : Round) : (closeValue s r).2.mem = s.mem := by simp [closeValue]

@[simp] theorem deliverRound_mem (s : State) (bands : List Nat) (rn : Bool × Nat) (v : DWord) (fl : Flags) :
    (deliverRound s bands rn v fl).mem = s.mem := by
  simp only [deliverRound]
  refine foldl_mem (fun u x => ?_) _ _
  repeat' split
  all_goals simp 

/-! ### The split stack (07 R202, R203, R217) -/

@[simp] theorem spillPage_mem (s : State) (core : Nat) (tm : Team) (va : Nat) (isWrite : Bool) :
    (spillPage s core tm va isWrite).2.mem = s.mem := by
  unfold spillPage
  split <;> simp

theorem spillWrite_wf {s : State} (core : Nat) (tm : Team) (b : Band) (j : Nat) (e : SplitEntry) (h : Memory.wf s.mem = true)
    {r : State} (hr : spillWrite s core tm b j e = .ok r) :
    Memory.wf r.mem = true := by
  simp only [spillWrite] at hr
  split at hr
  · cases hr
  · injection hr with hr
    subst hr
    apply wf_homeWrite
    split <;> simp [revivePage_wf, h]

@[simp] theorem spillRead_mem (s : State) (core : Nat) (tm : Team) (b : Band) (j : Nat) (x : SpilledEntry) :
    (spillRead s core tm b j x).2.mem = s.mem := by
  simp only [spillRead]
  repeat' split
  all_goals simp

theorem pushSplit_wf {s : State} (k : Nat) (e : SplitEntry) (h : Memory.wf s.mem = true) {r : State} (hr : pushSplit s k e = .ok r) :
    Memory.wf r.mem = true := by
  simp only [pushSplit] at hr
  split at hr
  · injection hr with hr; subst hr; exact h
  · split at hr
    · injection hr with hr; subst hr; exact h
    · split at hr
      · split at hr
        · cases hr
        · have hs := spillWrite_wf _ _ _ _ _ h ‹_ = Except.ok _›
          injection hr with hr
          subst hr
          exact hs
      · injection hr with hr; subst hr; exact h

@[simp] theorem reloadSplits_mem (n : Nat) (s : State) (n1 : Nat) : (reloadSplits n s n1).2.mem = s.mem := by
  induction n generalizing s with
  | zero => rfl
  | succ n ih =>
    simp only [reloadSplits]
    repeat' split
    all_goals simp [ih]

@[simp] theorem changeSpilled_wf (core : Nat) (f : Nat → SplitEntry → SplitEntry) (xs : List SpilledEntry) {s : State} (n : Nat)
    (h : Memory.wf s.mem = true) :
    Memory.wf (changeSpilled core f xs s n).mem = true := by
  induction xs generalizing s with
  | nil => exact h
  | cons x rest ih =>
    unfold changeSpilled
    split
    · exact h
    · dsimp only
      split
      · exact ih h
      · refine ih ?_
        have stored (e : SplitEntry) {r : Except Exc State} (hr : ∀ u, r = .ok u → Memory.wf u.mem = true) :
            Memory.wf (match r with | .ok u => (u, e) | .error _ => (s, x.stored)).1.mem = true := by
          cases r with
          | ok u => exact hr u rfl
          | error _ => exact h
        split
        · rw [setBand_mem]
          refine stored _ ?_
          split
          · exact fun u hu => spillWrite_wf _ _ _ _ _ h hu
          · exact fun u hu => by injection hu with hu; subst hu; exact h
        · refine stored _ ?_
          split
          · exact fun u hu => spillWrite_wf _ _ _ _ _ h hu
          · exact fun u hu => by injection hu with hu; subst hu; exact h

@[simp] theorem clearSpilled_wf (core : Nat) (mask : Bool) (ls : List Nat) (n : Nat) {s : State} (k : Nat) (h : Memory.wf s.mem = true) :
    Memory.wf (clearSpilled core mask ls n s k).mem = true := by
  simp only [clearSpilled]
  split <;> simp [h]

@[simp] theorem settleLoop_mem (n k : Nat) (tryLoad : Bool) (r : Settled) : (settleLoop n k tryLoad r).state.mem = r.state.mem := by
  induction n generalizing tryLoad r with
  | zero => rfl
  | succ n ih =>
    unfold settleLoop
    dsimp only
    repeat' split
    all_goals simp [ih]

@[simp] theorem settle_wf {s : State} (k : Nat) (p : List Nat) (word : Nat) (h : Memory.wf s.mem = true) :
    Memory.wf (settle s k p word).mem = true := by
  unfold settle
  cases bandOf s k with
  | none => exact h
  | some b0 =>
    dsimp only
    generalize hu : (if b0.reload.isSome then reloadSplits 17 s k else (none, s)) = preloaded
    have hload : Memory.wf preloaded.2.mem = true := by
      rw [← hu]
      split <;> simpa [takeTraps_wf] using h
    generalize hr : settleLoop (depthOf b0 + 1) k _ _ = r
    have hloop : Memory.wf r.state.mem = true := by
      rw [← hr, settleLoop_mem]
      dsimp only
      split
      · split <;> exact hload
      · exact hload
    cases bandOf r.state k with
    | none => exact hloop
    | some b =>
      dsimp only
      have cleared (b' : Band) (ls : List Nat) : Memory.wf (if ls.isEmpty then setBand r.state k b'
          else clearSpilled (k / Config.slotsPerCore) false ls b.spilled.length (setBand r.state k b') k).mem = true :=
        wf_ite hloop (clearSpilled_wf _ _ _ _ _ hloop)
      exact wf_ite (cleared ..) (takeTraps_wf _ _ _ (cleared ..))

@[simp] theorem settleTret_wf {s : State} (k : Nat) (p : List Nat) (word : Nat) (h : Memory.wf s.mem = true) :
    Memory.wf (settleTret s k p word).mem = true := by simp [settleTret, h]

@[simp] theorem evalLoops_mem (n : Nat) (s : State) (n1 : Nat) (x : DWord) (xs xs1 xs2 : List Nat) :
    (evalLoops n s n1 x xs xs1 xs2).mem = s.mem := by
  fun_induction evalLoops n s n1 x xs xs1 xs2 <;> simp [*]

@[simp] theorem finishWait_mem (s : State) (k : Nat) (ls : List Nat) (at_ next : DWord) : (finishWait s k ls at_ next).mem = s.mem := by
  simp [finishWait]

/-! ### Atomics and tumblers (10) -/

@[simp] theorem observeTumbler_mem (s : State) (team t band : Nat) (lanes : List Nat) :
    (observeTumbler s team t band lanes).mem = s.mem := by
  unfold observeTumbler
  split <;> simp

@[simp] theorem releaseTumbler_mem (s : State) (team t : Nat) : (releaseTumbler s team t).mem = s.mem := by
  simp only [releaseTumbler]
  split
  · rfl
  · refine foldl_mem (fun u slot => ?_) _ s
    split
    · rfl
    · refine foldl_mem (fun v x => ?_) _ u
      split <;> simp

@[simp] theorem arrive_mem (s : State) (team t n : Nat) : (arrive s team t n).2.mem = s.mem := by
  simp only [arrive]
  repeat' split
  all_goals simp

/-! ### Tiles and matrix operations (11, 12) -/

@[simp] theorem viewStash_mem (s : State) (g : Grp) (rs : List (Nat × Nat)) : (viewStash s g rs).2.mem = s.mem := by
  simp only [viewStash]
  split
  · rfl
  · split
    · rfl
    · exact List.foldlRecOn (motive := fun x : AList Byte × State => x.2.mem = s.mem) _ _ rfl fun x hx o _ => by simpa using hx

@[simp] theorem readRanges_mem (s : State) (g : Grp) (rs : List (Nat × Nat)) : (readRanges s g rs).mem = s.mem := by simp [readRanges]

@[simp] theorem countDecision_mem (s : State) (core : Nat) (d : Decision) (refused : Bool) (ca cb : OpClass) :
    (countDecision s core d refused ca cb).mem = s.mem := rfl

@[simp] theorem pushMat_mem (s : State) (m : MatOp) : (pushMat s m).mem = s.mem := rfl

@[simp] theorem mmaResult_mem (s : State) (g : Grp) (tm : Team) (d : Decision) (ty : Ty) (bs : Bool) (td tc groups : Nat)
    (pairs : Nat → Nat → List MPair) (ints : Nat → Nat → List (Int × Int)) (oneV : Bool → Nat → Nat → Option Val)
        (oneI : Bool → Nat → Nat → Int) :
    (mmaResult s g tm d ty bs td tc groups pairs ints oneV oneI).mem = s.mem := by
  unfold mmaResult
  repeat' split
  all_goals simp

@[simp] theorem matRound_mem (s : State) (g : Grp) (rnd : Rnd) : (matRound s g rnd).2.2.mem = s.mem := rfl

@[simp] theorem writeMatStash_mem (s : State) (o : MatOp) : (writeMatStash s o).mem = s.mem := by
  simp only [writeMatStash]
  split
  all_goals
    simp only [setTeam_mem, settleLines_mem]
    refine foldl_mem (fun u r => ?_) _ s
    split
    · rfl
    · split <;> simp

@[simp] theorem completeMat_mem (s : State) (o : MatOp) : (completeMat s o).mem = s.mem := by
  simp only [completeMat]
  repeat' split
  all_goals simp

/-! ### Fences, keys and latches (09 R277-R289) -/

@[simp] theorem keyWord_mem (s : State) (g : Grp) (k : Key) (sc : Scope) (write : Bool) : (keyWord s g k sc write).2.mem = s.mem := by
  simp [keyWord]

@[simp] theorem noteKey_mem (s : State) (g : Grp) (k : Key) (sc : Scope) (p : Place) : (noteKey s g k sc p).mem = s.mem := by
  simp [noteKey]

/-! ### The copy engine (13 R356-R378) -/

@[simp] theorem setCoreChan_mem (s : State) (core ch : Nat) (c : Channel) : (setCoreChan s core ch c).mem = s.mem := rfl

@[simp] theorem setHead_mem (s : State) (core ch : Nat) (c : Command) : (setHead s core ch c).mem = s.mem := rfl

@[simp] theorem queueTrap_wf {s : State} (team band : Nat) (x : EngineTrap) (h : Memory.wf s.mem = true) :
    Memory.wf (queueTrap s team band x).mem = true := by
  unfold queueTrap
  repeat' split
  all_goals simp [errorRecord_wf, h]

theorem queueTrap_ite_wf {c : Prop} [Decidable c] {s : State} {k band : Nat} {x : EngineTrap} (h : Memory.wf s.mem = true) :
    Memory.wf (if c then queueTrap s k band x else s).mem = true := wf_ite (queueTrap_wf _ _ _ h) h

@[simp] theorem setDesc_wf {s : State} (ctx id v : Nat) (h : Memory.wf s.mem = true) : Memory.wf (setDesc s ctx id v).mem = true := by
  simp [wf_homeWrite, setDesc, h]

@[simp] theorem noteGroup_mem (s : State) (g : Grp) (lane : Nat) (va : Option Nat) (p : Place) (n : Nat) :
    (noteGroup s g lane va p n).mem = s.mem := by simp [noteGroup]

@[simp] theorem setAimed_mem (s : State) (aimed : List (Nat × Nat)) : (setAimed s aimed).mem = s.mem := by
  simp only [setAimed]
  refine foldl_mem (fun u x => ?_) _ _
  repeat' split
  all_goals simp 

@[simp] theorem clearAimed_mem (s : State) (aimed : List (Nat × Nat)) : (clearAimed s aimed).mem = s.mem := by
  simp only [clearAimed]
  refine foldl_mem (fun u x => ?_) _ _
  repeat' split
  all_goals simp 

@[simp] theorem enqueue_wf {s : State} (core ch : Nat) (c : Command) (h : Memory.wf s.mem = true) :
    Memory.wf (enqueue s core ch c).mem = true := by
  simp only [enqueue]
  split <;> simp [wf_homeWrite, h]

@[simp] theorem engPlace_mem (s : State) (tm : Team) (va : Nat) (write : Bool) : (engPlace s tm va write).2.mem = s.mem := by
  simp only [engPlace]
  repeat' split
  all_goals simp

@[simp] theorem noteEngine_mem (s : State) (ctx core band : Nat) (va : Option Nat) (p : Place) (n : Nat) (write : Bool) :
    (noteEngine s ctx core band va p n write).mem = s.mem := rfl

@[simp] theorem noteCmd_mem (s : State) (tm : Team) (c : Command) (va : Option Nat) (p : Place) (n : Nat) (write : Bool) :
    (noteCmd s tm c va p n write).mem = s.mem := by simp [noteCmd]

@[simp] theorem engStash_mem (s : State) (c : Command) (ch off : Nat) (bs : List Byte) : (engStash s c ch off bs).mem = s.mem := by
  simp only [engStash]
  repeat' split
  all_goals simp

@[simp] theorem countCopy_mem (s : State) (core n : Nat) : (countCopy s core n).mem = s.mem := rfl

@[simp] theorem useEngine_wf {s : State} (ag : Agent) (va : Nat) (x : Place) (h : Memory.wf s.mem = true) :
    Memory.wf (useEngine s ag va x).mem = true := by
  unfold useEngine
  split <;> simp [h]

@[simp] theorem moveElem_wf {s : State} (tm : Team) (c : Command) (ch : Nat) (store : Bool) (off es va : Nat) (p : Option Place)
    (h : Memory.wf s.mem = true) :
    Memory.wf (moveElem s tm c ch store off es va p).mem = true := by
  unfold moveElem
  repeat' split
  all_goals simp [h]

@[simp] theorem runBox_wf (tm : Team) (ch : Nat) (store : Bool) (origin ext : List Nat) (off pitch n : Nat) {s : State} (x : Command)
    (h : Memory.wf s.mem = true) :
    Memory.wf (runBox tm ch store origin ext off pitch n s x).1.mem = true := by
  induction n generalizing s x with
  | zero => exact h
  | succ n ih =>
    simp only [runBox]
    split
    · exact ih _ (moveElem_wf _ _ _ _ _ _ _ _ (by split <;> simpa using h))
    · split <;> simpa using h

@[simp] theorem stallOn_wf {s : State} (core ch : Nat) (c : Command) (vpage : Nat) (h : Memory.wf s.mem = true) :
    Memory.wf (stallOn s core ch c vpage).1.mem = true := by
  simp only [stallOn]
  repeat' split
  all_goals simp [h]

@[simp] theorem startCommand_wf {s : State} (core ch : Nat) (h : Memory.wf s.mem = true) :
    Memory.wf (startCommand s core ch).mem = true := by
  simp only [startCommand]
  repeat' split
  all_goals simp [h]

@[simp] theorem remapRow_mem (s : State) (g : Grp) (ag : Agent) (lane : Nat) (r : Remap) (idx : Nat) :
    (remapRow s g ag lane r idx).2.mem = s.mem := by
  unfold remapRow
  repeat' split
  all_goals simp

@[simp] theorem indexElems_mem (g : Grp) (ag : Agent) (r : Remap) (dim1 vb : Nat) (xs : List Nat) (s : State) :
    (indexElems g ag r dim1 vb xs s).2.mem = s.mem := by
  induction xs generalizing s with
  | nil => rfl
  | cons x xs ih => simp [indexElems, ih]

@[simp] theorem scanPages_mem (tm : Team) (acc : Acc) (xs : List Nat) (s : State) (x : RowScan) :
    (scanPages tm acc xs s x).2.mem = s.mem := by
  induction xs generalizing s x with
  | nil => rfl
  | cons va vas ih => simp [scanPages, ih]

@[simp] theorem scanRow_mem (s : State) (tm : Team) (scatter : Bool) (vas : List Nat) : (scanRow s tm scatter vas).2.2.mem = s.mem := by
  simp [scanRow]

@[simp] theorem moveRow_wf (tm : Team) (ch : Nat) (scatter : Bool) (off : Nat) (ins : List (Nat × Nat)) (n : Nat) {s : State}
    (x : Command) (h : Memory.wf s.mem = true) :
    Memory.wf (moveRow tm ch scatter off ins n s x).1.mem = true := by
  fun_induction moveRow tm ch scatter off ins n s x <;> simp_all

@[simp] theorem deliverRow_wf {s : State} (core ch : Nat) (h : Memory.wf s.mem = true) : Memory.wf (deliverRow s core ch).mem = true := by
  simp only [deliverRow]
  repeat' split
  all_goals simp [h]

@[simp] theorem movePage_wf {s : State} (ppn home frame : Nat) (h : Memory.wf s.mem = true) :
    Memory.wf (movePage s ppn home frame).mem = true := by
  have flush (u : State) (hg : Nat) (hu : Memory.wf u.mem = true) : Memory.wf
      (((hingeOf u hg).link.filter fun e => e.1 / 65536 == ppn).foldl
        (fun s e => discardByte e.1 [.link hg] 1 (cleanByte e.1 [.link hg] 1 s)) u).mem = true :=
    foldl_wf (fun v e hv => by simpa [cleanByte_wf] using cleanByte_wf _ _ _ hv) _ hu
  simpa [cleanByte_wf, movePage] using foldl_wf flush _ h

@[simp] theorem moveTo_wf {s : State} (ppn home : Nat) (h : Memory.wf s.mem = true) : Memory.wf (moveTo s ppn home).2.mem = true := by
  have hfree : Memory.wf (freeFrame s home).2.mem = true := by simpa using h
  unfold moveTo
  split <;> simp_all

@[simp] theorem moveNext_wf {s : State} (core ch : Nat) (h : Memory.wf s.mem = true) : Memory.wf (moveNext s core ch).mem = true := by
  simp only [moveNext]
  repeat' split
  all_goals simp [h]

@[simp] theorem completeCommand_wf {s : State} (core ch : Nat) (h : Memory.wf s.mem = true) :
    Memory.wf (completeCommand s core ch).mem = true := by
  unfold completeCommand
  split
  · exact h
  · split
    · exact h
    · dsimp only
      refine queueTrap_ite_wf ?_
      rw [clearAimed_mem, settleLines_mem, setCoreChan_mem]
      repeat' split
      all_goals simp [h]

@[simp] theorem writeHeld_wf {s : State} (h : RecHolder) (hw : Memory.wf s.mem = true) : Memory.wf (writeHeld s h).mem = true := by
  simp only [writeHeld]
  repeat' split
  all_goals simp [hw]

/-! ### The collective engine (13 R379-R382) -/

@[simp] theorem setPort_mem (s : State) (p : Nat) (x : Port) : (setPort s p x).mem = s.mem := rfl

@[simp] theorem retrain_mem (s : State) (p : Nat) : (retrain s p).mem = s.mem := by simp [retrain]

@[simp] theorem noteHub_mem (s : State) (h ctx core band va : Nat) (p : Place) (n : Nat) (write : Bool) :
    (noteHub s h ctx core band va p n write).mem = s.mem := by simp [noteHub]

@[simp] theorem hubRead_mem (h ctx core band n : Nat) (s : State) (n1 n2 : Nat) : (hubRead h ctx core band n s n1 n2).2.mem = s.mem := by
  induction n generalizing s n1 n2 with
  | zero => rfl
  | succ n ih =>
    simp only [hubRead]
    split
    · rfl
    · split
      · rfl
      · simp [ih]

@[simp] theorem hubWrite_wf (h ctx core band n : Nat) {s : State} (n1 : Nat) (xs : List Byte) (hw : Memory.wf s.mem = true) :
    Memory.wf (hubWrite h ctx core band n s n1 xs).2.mem = true := by
  induction n generalizing s n1 xs with
  | zero => exact hw
  | succ n ih =>
    simp only [hubWrite]
    split
    · exact hw
    · split
      · exact hw
      · exact ih _ _ (writePlace_wf _ _ _ _ _ (by simpa using hw))

@[simp] theorem combineAny_mem (f : Nat → Nat → Nat) (n : Nat) (s : State) (xs : List Nat) : (combineAny f n s xs).2.mem = s.mem := by
  induction n generalizing s xs with
  | zero => rfl
  | succ n ih =>
    match xs with
    | [] => rfl
    | [_] => rfl
    | _ :: _ :: _ => simp [combineAny, ih]

@[simp] theorem combineBytes_mem (op : RedOp) (ty : Ty) (parts : List (List Byte)) (n : Nat) (s : State) (n1 : Nat) :
    (combineBytes op ty parts n s n1).2.mem = s.mem := by
  induction n generalizing s n1 with
  | zero => rfl
  | succ n ih => simp [combineBytes, ih]

@[simp] theorem setHeadColl_mem (s : State) (h ctx comm : Nat) (x : Option Collective) : (setHeadColl s h ctx comm x).mem = s.mem := rfl

@[simp] theorem readMembers_mem (xs : List (Nat × Collective)) (s : State) : (readMembers xs s).2.mem = s.mem := by
  induction xs generalizing s with
  | nil => rfl
  | cons x xs ih =>
    simp only [readMembers]
    split <;> simp [ih]

@[simp] theorem readyMembers_mem (cause faddr : Nat) (parts : List (Nat × List Byte)) (xs : List (Nat × Collective)) (s : State) :
    (readyMembers cause faddr parts xs s).mem = s.mem := by
  induction xs generalizing s with
  | nil => rfl
  | cons x xs ih =>
    simp only [readyMembers, ih, setHeadColl_mem]
    split <;> simp

@[simp] theorem mixBytes_mem (xs xs1 : List Byte) (s : State) : (mixBytes xs xs1 s).2.mem = s.mem := by
  induction xs generalizing xs1 s with
  | nil => rfl
  | cons o os ih =>
    cases xs1 with
    | nil => rfl
    | cons n ns => simp [mixBytes, ih]

@[simp] theorem endColl_wf {s : State} (c : Collective) (cause faddr : Nat) (h : Memory.wf s.mem = true) :
    Memory.wf (endColl s c cause faddr).mem = true := by
  unfold endColl
  repeat' split
  all_goals simp [h]

@[simp] theorem countColl_mem (s : State) (h n : Nat) : (countColl s h n).mem = s.mem := rfl

@[simp] theorem writeColl_wf {s0 s : State} (c : Collective) (data : List Byte) (cause faddr : Nat) (h_s0 : Memory.wf s0.mem = true)
    (h : Memory.wf s.mem = true) :
    Memory.wf (writeColl s0 s c data cause faddr).mem = true := by
  simp only [writeColl]
  split
  · assumption
  · simp [h]
  · simp [h]

@[simp] theorem sendFar_mem (s : State) (c : Collective) (r : Nat) (bs : List Byte) : (sendFar s c r bs).2.mem = s.mem := by
  simp only [sendFar]
  repeat' split
  all_goals simp

@[simp] theorem sendOut_mem (c : Collective) (xs : List (Nat × List Byte)) (s : State) : (sendOut c xs s).2.mem = s.mem := by
  induction xs generalizing s with
  | nil => rfl
  | cons x xs ih => simp [sendOut, ih]

theorem takeFar_mem {s : State} (c : Collective) (r : Nat) (bs : List Byte) {t : State} (hr : takeFar s c r bs = some t) :
    t.mem = s.mem := by
  simp only [takeFar] at hr
  split at hr
  · cases hr
  · split at hr
    · cases hr
    · injection hr with hr; subst hr; simp

theorem takeAllFar_mem (c : Collective) (xs : List PeerPost) {s : State} {r : State} (hr : takeAllFar c xs s = some r) : r.mem = s.mem := by
  induction xs generalizing s with
  | nil => injection hr with hr; subst hr; rfl
  | cons p ps ih =>
    obtain ⟨u, hu, hr⟩ := Option.bind_eq_some_iff.1 hr
    rw [ih hr, takeFar_mem _ _ _ hu]

@[simp] theorem takeParts_mem (far : List Nat) (parts : List (Nat × List Byte)) (xs : List (Nat × Collective)) (s : State) :
    (takeParts far parts xs s).mem = s.mem := by
  fun_induction takeParts far parts xs s <;> simp [*]

@[simp] theorem sendMembers_mem (xs : List (Nat × Collective)) (s : State) : (sendMembers xs s).mem = s.mem := by
  induction xs generalizing s with
  | nil => rfl
  | cons x xs ih =>
    simp only [sendMembers]
    split <;> simp [ih]

@[simp] theorem completeAll_wf {s : State} (c : Collective) (peers : List PeerPost) (h : Memory.wf s.mem = true) :
    Memory.wf (completeAll s c peers).mem = true := by
  unfold completeAll
  dsimp only
  split
  · split
    · rw [sendMembers_mem]; exact h
    · split
      · split
        · exact writeColl_wf _ _ _ _ h (by simpa using h)
        · exact endColl_wf _ _ _ h
      · exact writeColl_wf _ _ _ _ h h
  · split
    · exact h
    · rename_i ms _
      generalize (ms.mapM fun m => m.2.part.map fun b => (m.1, b)) = taken
      have sent (u : State) (parts : List (Nat × List Byte)) (hu : Memory.wf u.mem = true) :
          Memory.wf (sendMembers ms (if taken.isSome then u else takeParts (farRanks c) parts ms u)).mem = true := by
        rw [sendMembers_mem]
        split
        · exact hu
        · rwa [takeParts_mem]
      have read : Memory.wf (match taken with | some parts => (Except.ok parts, s) | none => readMembers ms s).2.mem = true := by
        cases taken <;> simpa using h
      split
      · exact h
      · rw [readyMembers_mem]; exact read
      · split
        · exact sent _ _ read
        · split
          · rw [readyMembers_mem, takeAllFar_mem _ _ ‹takeAllFar c peers _ = some _›]
            exact sent _ _ read
          · exact sent _ _ read

@[simp] theorem completeSend_wf {s : State} (c : Collective) (h : Memory.wf s.mem = true) : Memory.wf (completeSend s c).mem = true := by
  simp only [completeSend]
  repeat' split
  all_goals simp [h]

@[simp] theorem completeRecv_wf {s : State} (c : Collective) (peers : List PeerPost) (h : Memory.wf s.mem = true) :
    Memory.wf (completeRecv s c peers).mem = true := by
  unfold completeRecv
  dsimp only
  split
  · split
    · exact writeColl_wf _ _ _ _ h (by simpa using h)
    · exact h
  · split
    · split
      · split
        · exact writeColl_wf _ _ _ _ h (by rw [takeFar_mem _ _ _ ‹_›]; exact h)
        · exact h
      · exact h
    · exact h

@[simp] theorem completeCollective_wf {s : State} (h comm : Nat) (peers : List PeerPost) (hw : Memory.wf s.mem = true) :
    Memory.wf (completeCollective s h comm peers).mem = true := by
  unfold completeCollective
  repeat' split
  all_goals simp [hw]

/-! ### Instruction fetch (02 R42, R58; 08 R232) -/

@[simp] theorem fetchPage_mem (s : State) (id ctx at_ va : Nat) : (fetchPage s id ctx at_ va).2.mem = s.mem := by simp [fetchPage]

@[simp] theorem fetchBytes_mem (s : State) (id ctx : Nat) (code : AList Byte) (at_ addr n : Nat) :
    (fetchBytes s id ctx code at_ addr n).2.mem = s.mem := by
  simp only [fetchBytes]
  repeat' split
  all_goals simp

@[simp] theorem fetchWord_mem (s : State) (id ctx : Nat) (code : AList Byte) (at_ addr : Nat) :
    (fetchWord s id ctx code at_ addr).2.mem = s.mem := by simp [fetchWord]

@[simp] theorem fetchInstr_mem (s : State) (id ctx : Nat) (code : AList Byte) (addr : Nat) :
    (fetchInstr s id ctx code addr).2.mem = s.mem := by
  simp only [fetchInstr]
  split <;> simp

/-! ### Control flow (07) -/

theorem pushRegion_wf {s : State} (g : Grp) (join : Nat) (h : Memory.wf s.mem = true) {r : State} (hr : pushRegion s g join = .ok r) :
    Memory.wf r.mem = true := by
  simp only [pushRegion] at hr
  split at hr
  · split at hr
    · cases hr
    · exact pushSplit_wf _ _ h hr
  · cases hr

@[simp] theorem goWhere_mem (s : State) (g : Grp) (f : Thread → DWord) : (goWhere s g f).mem = s.mem := by
  unfold goWhere
  split <;> simp

@[simp] theorem joinLane_wf (g : Grp) {s : State} (lane : Nat) (h : Memory.wf s.mem = true) : Memory.wf (joinLane g s lane).mem = true := by
  simp only [joinLane]
  repeat' split
  all_goals simp [h]

/-! ### An operation performed, caches and background steps (09 R269-R271, 08 R230-R234) -/

@[simp] theorem performKind_wf (readers : List Nat) {s : State} (o : PendOp) (h : Memory.wf s.mem = true) :
    Memory.wf (performKind readers s o).mem = true := by
  simp only [performKind]
  repeat' split
  all_goals simp [h]

@[simp] theorem performOp_wf (readers : List Nat) {s : State} (o : PendOp) (h : Memory.wf s.mem = true) :
    Memory.wf (performOp readers s o).mem = true := useOp_wf _ _ (performKind_wf _ _ (nameOp_wf _ (by simpa using h)))

@[simp] theorem performAt_wf {s : State} (i : Nat) (h : Memory.wf s.mem = true) : Memory.wf (performAt s i).mem = true := by
  unfold performAt
  split
  · exact h
  · dsimp only
    split
    · exact h
    · rw [settleOp_mem]
      exact foldl_wf (fun u o hu => performOp_wf _ _ hu) _ (by rw [foldl_mem chargeOp_mem]; exact h)

@[simp] theorem settleL1_wf {s : State} (core : Nat) (h : Memory.wf s.mem = true) : Memory.wf (settleL1 s core).mem = true := by
  simp [settleL1, h]

@[simp] theorem settleCluster_wf {s : State} (n : Nat) (h : Memory.wf s.mem = true) : Memory.wf (settleCluster s n).mem = true := by
  simp only [settleCluster]
  refine foldl_wf (fun u x hu => ?_) _ h
  all_goals simp [hu]

@[simp] theorem settleCaches_wf {s : State} (h : Memory.wf s.mem = true) : Memory.wf (settleCaches s).mem = true := by
  unfold settleCaches
  exact foldl_wf (fun u c hu => settleCluster_wf _ hu) _ (foldl_wf (fun u c hu => settleL1_wf _ hu) _ h)

/-! ### Embedding bags (14) -/

@[simp] theorem rowPages_mem (tm : Team) (n : Nat) (s : State) (n1 n2 : Nat) : (rowPages tm n s n1 n2).2.mem = s.mem := by
  induction n generalizing s n1 n2 with
  | zero => rfl
  | succ n ih =>
    unfold rowPages
    dsimp only
    repeat' split
    all_goals simp [ih]

@[simp] theorem readPiece_mem (s : State) (tm : Team) (c : Command) (x : RowPiece) : (readPiece s tm c x).2.mem = s.mem := by
  simp [readPiece]

@[simp] theorem readPieces_mem (tm : Team) (c : Command) (xs : List RowPiece) (s : State) (x : AList (List Byte)) :
    (readPieces tm c xs s x).2.mem = s.mem := by
  induction xs generalizing s x with
  | nil => rfl
  | cons x xs ih => simp [readPieces, ih]

@[simp] theorem stashW_mem (s : State) (tm : Team) (c : Command) (off : Nat) : (stashW s tm c off).2.mem = s.mem := by simp [stashW]

@[simp] theorem bagRows_mem (tm : Team) (c : Command) (wgt : Bool) (ioff woff n : Nat) (s : State) (n1 : Nat) :
    (bagRows tm c wgt ioff woff n s n1).2.mem = s.mem := by
  induction n generalizing s n1 with
  | zero => rfl
  | succ n ih =>
    unfold bagRows
    dsimp only
    split
    · rfl
    · rfl
    · split
      · simp
      · split
        · simp
        · split
          · simp
          · split
            next heq =>
              have more := congrArg (fun r => r.2.mem) heq
              simpa [ih] using more.symm
            next => simp [ih]

@[simp] theorem bagVector_mem (d : Desc) (rows : List (Nat × List Byte)) (n : Nat) (s : State) (n1 : Nat) :
    (bagVector d rows n s n1).2.mem = s.mem := by
  induction n generalizing s n1 with
  | zero => rfl
  | succ n ih => simp [bagVector, ih]

@[simp] theorem hubRecord_wf {s : State} (core ch ctx vpage : Nat) (h : Memory.wf s.mem = true) :
    Memory.wf (hubRecord s core ch ctx vpage).mem = true := by
  unfold hubRecord
  repeat' split
  all_goals simp [h]

@[simp] theorem deliverBag_wf {s0 : State} (core ch : Nat) (h : Memory.wf s0.mem = true) :
    Memory.wf (deliverBag s0 core ch).mem = true := by
  unfold deliverBag
  split
  · exact h
  · split
    · split
      · exact h
      · split
        · rw [setHead_mem]; exact h
        · exact h
        · dsimp only
          split
          · simpa using h
          · have rows (tm : Team) (c : Command) (wgt : Bool) (ioff woff n p : Nat) (x y : Nat) {r : BagRows} {u : State}
                (hr : bagRows tm c wgt ioff woff n (stashW (stashW s0 tm c x).2 tm c y).2 p = (r, u)) : Memory.wf u.mem = true := by
              rw [← show (bagRows tm c wgt ioff woff n _ p).2 = u from congrArg (·.2) hr, bagRows_mem, stashW_mem, stashW_mem]
              exact h
            split
            next => exact h
            next heq =>
              rw [setHead_mem]
              exact wf_ite (hubRecord_wf _ _ _ _ (rows _ _ _ _ _ _ _ _ _ heq)) (rows _ _ _ _ _ _ _ _ _ heq)
            next heq =>
              have hrows := rows _ _ _ _ _ _ _ _ _ heq
              split
              · simpa using hrows
              · split
                · simpa using hrows
                · simpa using hrows
                · split <;> simpa using hrows
    · exact h

/-! ### Streams, launches and placement (15) -/

@[simp] theorem noteStream_mem (s : State) (h ctx : Nat) (p : Place) (n : Nat) (write : Bool) :
    (noteStream s h ctx p n write).mem = s.mem := by
  unfold noteStream
  split <;> simp

@[simp] theorem streamBytes_mem (h ctx n : Nat) (s : State) (n1 : Nat) : (streamBytes h ctx n s n1).2.mem = s.mem := by
  induction n generalizing s n1 with
  | zero => rfl
  | succ n ih =>
    simp only [streamBytes]
    split
    · simp
    · simp
    · split_ifs
      · simp
      · rw [ih]
        split <;> simp

@[simp] theorem captureLaunch_mem (s : State) (h ctx a : Nat) (par spl : Option Nat) : (captureLaunch s h ctx a par spl).2.mem = s.mem := by
  simp only [captureLaunch]
  repeat' split
  all_goals simp

@[simp] theorem setEv_mem (s : State) (h e : Nat) (v : DWord) : (setEv s h e v).mem = s.mem := rfl

@[simp] theorem addEv_mem (s : State) (h e : Nat) (v : DWord) : (addEv s h e v).mem = s.mem := rfl

@[simp] theorem streamFault_mem (s : State) (h n cause : Nat) : (streamFault s h n cause).mem = s.mem := rfl

@[simp] theorem takeEntry_mem (s : State) (h n : Nat) : (takeEntry s h n).mem = s.mem := by
  simp only [takeEntry]
  repeat' split
  all_goals simp

@[simp] theorem readImage_mem (cl ctx n : Nat) (s : State) (n1 n2 : Nat) : (readImage cl ctx n s n1 n2).2.mem = s.mem := by
  induction n generalizing s n1 n2 with
  | zero => rfl
  | succ n ih =>
    simp only [readImage]
    repeat' split
    all_goals simp [ih]

@[simp] theorem placeTeam_mem (s : State) (l : Machine.Launch) (core group team : Nat) : (placeTeam s l core group team).mem = s.mem := by
  simp only [placeTeam, dropAll_mem]
  rw [foldl_mem (fun u b => setBand_mem ..)]
  split <;> simp

theorem placeGroup_mem (l : Machine.Launch) (cl group n n1 : Nat) {s : State} {r : State} (hr : placeGroup l cl group n n1 s = some r) :
    r.mem = s.mem := by
  fun_induction placeGroup l cl group n n1 s <;> simp_all

theorem placeInCluster_mem {s : State} (h : Nat) (l : Machine.Launch) (group : Nat) (xs : List Nat) {r : Nat × State}
    (hr : placeInCluster s h l group xs = some r) :
    r.2.mem = s.mem := by
  induction xs with
  | nil => cases hr
  | cons k ks ih =>
    unfold placeInCluster at hr
    split at hr
    · injection hr with hr
      subst hr
      exact placeGroup_mem _ _ _ _ _ ‹_›
    · exact ih hr

@[simp] theorem placeNext_mem (s : State) (h : Nat) : (placeNext s h).mem = s.mem := by
  unfold placeNext
  split
  · rfl
  · split
    · rfl
    · dsimp only
      split
      · split
        · simp
        · rfl
      · split
        · exact placeInCluster_mem _ _ _ _ ‹_›
        · rfl

@[simp] theorem energyRecord_wf {s : State} (b : Band) (h : Memory.wf s.mem = true) : Memory.wf (energyRecord s b).mem = true := by
  unfold energyRecord
  split <;> simp [ringPut_wf, h]

@[simp] theorem retireBand_wf {s : State} (k : Nat) (h : Memory.wf s.mem = true) : Memory.wf (retireBand s k).mem = true := by
  unfold retireBand
  split
  · exact h
  · split
    · exact h
    · exact foldl_wf (fun u x hu => queueTrap_wf _ _ _ hu) _ (energyRecord_wf _ h)

@[simp] theorem backAll_wf (key : Nat) (xs : List Nat) {s : State} (h : Memory.wf s.mem = true) :
    Memory.wf (backAll key xs s).2.mem = true := by
  induction xs generalizing s with
  | nil => exact h
  | cons m ms ih => exact ih (writeBackWindow_wf key m h)

@[simp] theorem closeWindows_wf {s : State} (key : Nat) (h : Memory.wf s.mem = true) : Memory.wf (closeWindows s key).mem = true := by
  unfold closeWindows
  split
  · exact h
  · have hall := fun ms => backAll_wf key ms h
    split <;> rename_i heq <;> have := heq ▸ hall _ <;> simp [errorRecord_wf, this]

@[simp] theorem completeLaunch_mem (s : State) (k : Nat) : (completeLaunch s k).mem = s.mem := by
  unfold completeLaunch
  split <;> simp

@[simp] theorem teamDone_mem (s : State) (ctx : Nat) (lseq : DWord) : (teamDone s ctx lseq).mem = s.mem := by
  simp only [teamDone]
  split <;> simp

@[simp] theorem removeTeam_mem (s : State) (key : Nat) (tm : Team) : (removeTeam s key tm).mem = s.mem := rfl

@[simp] theorem retireTeam_wf {s : State} (key : Nat) (h : Memory.wf s.mem = true) : Memory.wf (retireTeam s key).mem = true := by
  simp only [retireTeam]
  repeat' split
  all_goals simp [h]

@[simp] theorem expireQuantum_mem (s : State) (h : Nat) : (expireQuantum s h).mem = s.mem := by
  unfold expireQuantum
  split <;> simp

/-! ### The save area (16 R437) -/

@[simp] theorem putRecord_wf {s : State} (base n : Nat) (word : Nat → Nat) (h : Memory.wf s.mem = true) :
    Memory.wf (putRecord s base n word).mem = true := by
  unfold putRecord
  exact foldl_wf (fun u i hu => wf_homeWrite _ _ hu) _ (aCanonical_aFilter _ h)

@[simp] theorem putTeam_wf {s : State} (base : Nat) (x : SavedTeam) (h : Memory.wf s.mem = true) :
    Memory.wf (putTeam s base x).mem = true := by
  simp [putTeam, h]

@[simp] theorem putHeader_wf {s : State} (ctx h : Nat) (hw : Memory.wf s.mem = true) : Memory.wf (putHeader s ctx h).mem = true := by
  simp [putHeader, hw]

@[simp] theorem recordFails_mem (s : State) (key a n : Nat) : (recordFails s key a n).2.mem = s.mem := by
  simp only [recordFails]
  repeat' split
  all_goals simp

/-! ### Context switches (15 R418, 16 R436-R439) -/

@[simp] theorem drainOps_wf (h ctx n : Nat) {s : State} (hw : Memory.wf s.mem = true) : Memory.wf (drainOps h ctx n s).mem = true := by
  fun_induction drainOps h ctx n s <;> simp_all

@[simp] theorem drainMatrix_mem (h n : Nat) (s : State) : (drainMatrix h n s).mem = s.mem := by
  fun_induction drainMatrix h n s <;> simp [*]

@[simp] theorem drain_wf {s : State} (h ctx : Nat) (hw : Memory.wf s.mem = true) : Memory.wf (drain s h ctx).mem = true := by
  simp [drain, hw]

@[simp] theorem dropCommands_mem (s : State) (key core : Nat) : (dropCommands s key core).mem = s.mem := rfl

@[simp] theorem saveTeam_wf {s : State} (key : Nat) (h : Memory.wf s.mem = true) : Memory.wf (saveTeam s key).mem = true := by
  unfold saveTeam
  split
  · exact h
  · rename_i tm _
    have hu : Memory.wf (dropAll (cleanAll (closeWindows s key) (.thread tm.core key tm.ctx) .package)
        (.thread tm.core key tm.ctx) .package).mem = true := by
      rw [dropAll_mem]
      exact cleanAll_wf _ _ (closeWindows_wf key h)
    dsimp only
    generalize dropAll _ _ _ = u at hu ⊢
    generalize hfails : (if (coreOf u tm.core).dead = true then _ else _ : Option Nat × State) = fails
    have hf : Memory.wf fails.2.mem = true := by
      rw [← hfails]
      split <;> simpa [errorRecord_wf] using hu
    split
    · rw [teamDone_mem, dropCommands_mem, removeTeam_mem]
      exact errorRecord_wf _ _ _ _ _ _ _ _ _ hf
    · rw [setCtx_mem]
      exact putTeam_wf _ _ (by rwa [removeTeam_mem])

@[simp] theorem flushHinge_wf {s : State} (h ctx : Nat) (hw : Memory.wf s.mem = true) : Memory.wf (flushHinge s h ctx).mem = true := by
  have clean (u : State) (c : Nat) (hu : Memory.wf u.mem = true) : Memory.wf (setCore (cleanAll u (.thread c 0 ctx) .system) c
      { coreOf (cleanAll u (.thread c 0 ctx) .system) c with l1 := [], lines := [] }).mem = true := by
    simpa using cleanAll_wf _ _ hu
  unfold flushHinge
  exact foldl_wf (fun u c hu => cleanAll_wf _ _ hu) _ (foldl_wf clean _ hw)

@[simp] theorem saveEngines_mem (s : State) (h ctx : Nat) : (saveEngines s h ctx).mem = s.mem := by
  simp only [saveEngines, setCtx_mem]
  rw [foldl_mem (fun u c => setCluster_mem ..), setHinge_mem, foldl_mem (fun u c => setCore_mem ..)]

@[simp] theorem saveContext_wf {s : State} (h ctx : Nat) (hw : Memory.wf s.mem = true) : Memory.wf (saveContext s h ctx).mem = true := by
  unfold saveContext
  refine flushHinge_wf _ _ (putHeader_wf _ _ ?_)
  rw [saveEngines_mem]
  exact foldl_wf (fun u k hu => saveTeam_wf k hu) _ hw

@[simp] theorem reopenWindow_wf {s : State} (key m : Nat) (e : MapEntry) (w : Window) (h : Memory.wf s.mem = true) :
    Memory.wf (reopenWindow s key m e w).mem = true := by
  simp only [reopenWindow]
  repeat' split
  all_goals simp [h]

@[simp] theorem restoreTeam_wf {s : State} (x : SavedTeam) (h : Memory.wf s.mem = true) : Memory.wf (restoreTeam s x).mem = true := by
  unfold restoreTeam
  dsimp only
  split
  · rw [teamDone_mem, dropCommands_mem]
    exact errorRecord_wf _ _ _ _ _ _ _ _ _ (by rw [recordFails_mem]; exact h)
  · refine foldl_wf (fun u w hu => reopenWindow_wf _ _ _ _ hu) _ ?_
    rw [foldl_mem (fun u b => setBand_mem ..), setTeam_mem, recordFails_mem]
    exact h

@[simp] theorem restoreEngines_mem (s : State) (h ctx : Nat) : (restoreEngines s h ctx).mem = s.mem := by
  simp only [restoreEngines]
  rw [foldl_mem (fun u r => setCluster_mem ..), setHinge_mem, foldl_mem (fun u k => setCoreChan_mem ..), setCtx_mem]

@[simp] theorem restoreContext_wf {s : State} (h ctx : Nat) (hw : Memory.wf s.mem = true) :
    Memory.wf (restoreContext s h ctx).mem = true := by
  unfold restoreContext
  exact foldl_wf (fun u x hu => restoreTeam_wf x hu) _ (by simpa using hw)

@[simp] theorem switchHinge_wf {s : State} (h : Nat) (inc : Option Nat) (quantum : DWord) (hw : Memory.wf s.mem = true) :
    Memory.wf (switchHinge s h inc quantum).mem = true := by
  unfold switchHinge
  repeat' split
  all_goals simp [hw]

@[simp] theorem beginSwitch_wf {s : State} (id h ctx : Nat) (hw : Memory.wf s.mem = true) :
    Memory.wf (beginSwitch s id h ctx).mem = true := by
  unfold beginSwitch
  exact foldl_wf (fun u k hu => closeWindows_wf k hu) _ (by simpa using drain_wf _ _ hw)

/-! ### Stops, triggers and debug accesses (17) -/

@[simp] theorem takeNumber_mem (s : State) : (takeNumber s).2.mem = s.mem := rfl

@[simp] theorem fireTrigger_mem (s : State) (scope core : Nat) : (fireTrigger s scope core).2.mem = s.mem := rfl

@[simp] theorem latchBlock_mem (s : State) (number : Word) (kind k : Nat) : (latchBlock s number kind k).mem = s.mem := by
  unfold latchBlock
  split <;> simp

@[simp] theorem latchTrigger_mem (s : State) (n : Nat) : (latchTrigger s n).mem = s.mem := by
  unfold latchTrigger
  split <;> simp

@[simp] theorem sampleRecord_wf {s : State} (core : Nat) (bs : List Byte) (h : Memory.wf s.mem = true) :
    Memory.wf (sampleRecord s core bs).mem = true := by simp [ringPut_wf, sampleRecord, h]

@[simp] theorem reachBand_mem (s : State) (r : StopReq) (number : Word) (own : Option Nat) (k : Nat) :
    (reachBand s r number own k).mem = s.mem := by
  unfold reachBand
  repeat' split
  all_goals simp

@[simp] theorem startStop_mem (s : State) (r : StopReq) (band : Option Nat) (ctx : Nat) : (startStop s r band ctx).mem = s.mem := by
  simp only [startStop]
  split <;> simp

@[simp] theorem recordStop_wf {s : State} (k : Nat) (b : Band) (x : Stop) (h : Memory.wf s.mem = true) :
    Memory.wf (recordStop s k b x).mem = true := by simp [recordStop, h]

@[simp] theorem settleStop_wf {s : State} (k : Nat) (h : Memory.wf s.mem = true) : Memory.wf (settleStop s k).mem = true := by
  simp only [settleStop]
  repeat' split
  all_goals simp [h]

@[simp] theorem arriveStop_wf {s : State} (k : Nat) (h : Memory.wf s.mem = true) : Memory.wf (arriveStop s k).mem = true := by
  unfold arriveStop
  repeat' split
  all_goals simp [h]

@[simp] theorem hitIbp_mem (s : State) (core k ctx : Nat) (pc : DWord) (ns : List Nat) : (hitIbp s core k ctx pc ns).mem = s.mem := by
  simp [hitIbp]

@[simp] theorem breakpointHit_mem (s : State) (core slot n : Nat) : (breakpointHit s core slot n).mem = s.mem := by
  simp only [breakpointHit]
  repeat' split
  all_goals simp

@[simp] theorem matchWatch_mem (s : State) (x : Seen) (cause : Option Nat × DWord) (ctx n : Nat) :
    (matchWatch s x cause ctx n).mem = s.mem := by
  unfold matchWatch
  split <;> simp

@[simp] theorem matchSeen_mem (s : State) : (matchSeen s).mem = s.mem := by simp [matchSeen]

@[simp] theorem onBands_mem (s : State) (ks : List Nat) (p : Band → Bool) (f : Band → Band) : (onBands s ks p f).mem = s.mem := by
  simp only [onBands]
  refine foldl_mem (fun u x => ?_) _ _
  repeat' split
  all_goals simp 

@[simp] theorem bandStarted_mem (s : State) (k : Nat) : (bandStarted s k).mem = s.mem := by
  unfold bandStarted
  repeat' split
  all_goals simp

@[simp] theorem setCmd_mem (s : State) (ctx : Nat) (ks : List Nat) : (setCmd s ctx ks).mem = s.mem := rfl

@[simp] theorem resumeBands_mem (s : State) (ctx : Nat) (x : BandSet) : (resumeBands s ctx x).mem = s.mem := by simp [resumeBands]

@[simp] theorem abortBands_mem (s : State) (ctx : Nat) (x : BandSet) : (abortBands s ctx x).mem = s.mem := by simp [abortBands]

@[simp] theorem stepBand_mem (s : State) (ctx core slot : Nat) (pc : Option DWord) : (stepBand s ctx core slot pc).mem = s.mem := by
  simp only [stepBand]
  repeat' split
  all_goals simp

@[simp] theorem driverHalt_mem (s : State) (ctx : Nat) (x : BandSet) : (driverHalt s ctx x).mem = s.mem := by simp [driverHalt]

@[simp] theorem endStep_mem (s : State) (k : Nat) : (endStep s k).mem = s.mem := by
  unfold endStep
  repeat' split
  all_goals simp

@[simp] theorem debugReadAt_mem (s : State) (a : Nat) : (debugReadAt s a).2.mem = s.mem := by
  simp only [debugReadAt]
  repeat' split
  all_goals simp

@[simp] theorem debugWriteAt_mem (s : State) (a : Nat) (v : DWord) : (debugWriteAt s a v).2.mem = s.mem := by
  simp only [debugWriteAt]
  repeat' split
  all_goals simp

@[simp] theorem readDbgData_mem (s : State) (core : Nat) : (readDbgData s core).2.mem = s.mem := by simp [readDbgData]

@[simp] theorem writeDbgData_mem (s : State) (core : Nat) (v : DWord) : (writeDbgData s core v).mem = s.mem := by simp [writeDbgData]

/-! ### Traps, special registers and the scrubber (16) -/

@[simp] theorem observeCwp_mem (s : State) (g : Grp) (r : Sreg) : (observeCwp s g r).mem = s.mem := by
  unfold observeCwp
  split <;> simp

@[simp] theorem writeBandSreg_mem (s : State) (g : Grp) (r : Sreg) (v : DWord) : (writeBandSreg s g r v).mem = s.mem := by
  unfold writeBandSreg
  split <;> simp

@[simp] theorem takeEngineTrap_wf {s : State} (k : Nat) (h : Memory.wf s.mem = true) : Memory.wf (takeEngineTrap s k).mem = true := by
  simp only [takeEngineTrap]
  repeat' split
  all_goals simp [takeTraps_wf, h]

@[simp] theorem addCorrected_mem (s : State) (core n : Nat) : (addCorrected s core n).mem = s.mem := rfl

@[simp] theorem scrubCore_mem (s : State) (core : Nat) : (scrubCore s core).mem = s.mem := by
  simp only [scrubCore]
  refine foldl_mem (fun u x => ?_) _ _
  repeat' split
  all_goals simp 

/-! ### The control window (18 R466-R473) -/

@[simp] theorem writeSctl_mem (s : State) (h n : Nat) (v : DWord) : (writeSctl s h n v).mem = s.mem := by simp [writeSctl]

@[simp] theorem requestReport_mem (s : State) : (requestReport s).mem = s.mem := rfl

@[simp] theorem writeMsix_mem (s : State) (i : Nat) (v : DWord) : (writeMsix s i v).mem = s.mem := by simp [raiseMsi_mem, writeMsix]

@[simp] theorem writeGlobal_mem (s : State) (o : Nat) (v : DWord) : (writeGlobal s o v).mem = s.mem := by simp [writeGlobal]

@[simp] theorem readHinge_mem (s : State) (h o : Nat) : (readHinge s h o).2.mem = s.mem := by
  simp only [readHinge, snd_mem_ite, setHinge_mem, ite_self]

@[simp] theorem resumeStack_mem (s : State) (n : Nat) : (resumeStack s n).mem = s.mem := by simp [resumeStack]

@[simp] theorem writeHinge_mem (s : State) (h o : Nat) (v : DWord) : (writeHinge s h o v).mem = s.mem := by
  simp only [writeHinge, mem_ite, setEv_mem, addEv_mem, setHinge_mem, resumeStack_mem, retrain_mem, ite_self]
  split
  · split <;> simp
  · rfl

@[simp] theorem readCtx_mem (s : State) (c o : Nat) : (readCtx s c o).2.mem = s.mem := by
  simp only [readCtx, snd_mem_ite, setCtx_mem, ite_self]

@[simp] theorem startInvalidate_mem (s : State) (c : Nat) : (startInvalidate s c).mem = s.mem := by simp [startInvalidate]

@[simp] theorem finishInvalidate_mem (s : State) (c : Nat) : (finishInvalidate s c).mem = s.mem := by
  simp only [finishInvalidate]
  split <;> simp

@[simp] theorem answerPage_mem (s : State) (c vpage : Nat) (refused : Bool) : (answerPage s c vpage refused).mem = s.mem := rfl

@[simp] theorem writeBandCmd_mem (s : State) (c : Nat) (v : DWord) : (writeBandCmd s c v).mem = s.mem := by
  simp only [writeBandCmd]
  repeat' split
  all_goals simp

@[simp] theorem writeCtx_mem (s : State) (c o : Nat) (v : DWord) : (writeCtx s c o v).mem = s.mem := by
  unfold writeCtx
  repeat' with_reducible refine mem_of_ite ?_ ?_
  any_goals rfl
  · exact startInvalidate_mem ..
  · split <;> simp
  · exact writeBandCmd_mem ..

@[simp] theorem readCore_mem (s : State) (n o : Nat) : (readCore s n o).2.mem = s.mem := by
  simp only [readCore, snd_mem_ite, setCore_mem, readDbgData_mem, ite_self]

@[simp] theorem writeCore_mem (s : State) (n o : Nat) (v : DWord) : (writeCore s n o v).mem = s.mem := by simp [writeCore]

@[simp] theorem readReg_mem (s : State) (off : Nat) : (readReg s off).2.mem = s.mem := by
  unfold readReg
  split <;> simp

/-! ### The device and the host (18) -/

@[simp] theorem flushAll_wf {s : State} (h : Memory.wf s.mem = true) : Memory.wf (flushAll s).mem = true :=
  flushRange_wf _ _ (foldl_wf (fun _ k hu => closeWindows_wf k hu) _ h)

@[simp] theorem warmReset_wf {s : State} (b : Boot) (h : Memory.wf s.mem = true) : Memory.wf (warmReset s b).mem = true := by
  simp [withBoot_mem, warmReset, h]

@[simp] theorem wantWarm_wf {s : State} (b : Boot) (h : Memory.wf s.mem = true) : Memory.wf (wantWarm s b).mem = true := by
  unfold wantWarm
  split <;> simp [h]

@[simp] theorem writeReg_wf {s : State} (off : Nat) (v : DWord) (h : Memory.wf s.mem = true) : Memory.wf (writeReg s off v).mem = true := by
  unfold writeReg
  repeat' split
  all_goals simp [h]

@[simp] theorem createContext_mem (s : State) (n : Nat) (tvec : DWord) : (createContext s n tvec).mem = s.mem := by simp [createContext]

@[simp] theorem abortLaunch_mem (s : State) (ctx lseq : Nat) : (abortLaunch s ctx lseq).mem = s.mem := by
  simp only [abortLaunch]
  split <;> simp

@[simp] theorem promote_wf {s : State} (h page home : Nat) (hw : Memory.wf s.mem = true) :
    Memory.wf (promote s h page home).mem = true := by
  unfold promote
  split <;> simp [hw]

@[simp] theorem halveCounters_mem (s : State) : (halveCounters s).mem = s.mem := by simp [halveCounters]

@[simp] theorem takeFlit_mem (s : State) (p : Nat) (f : Flit) : (takeFlit s p f).mem = s.mem := by simp [takeFlit]

@[simp] theorem portTimeout_wf {s : State} (p : Nat) (h : Memory.wf s.mem = true) : Memory.wf (portTimeout s p).mem = true := by
  simp only [portTimeout]
  repeat' split
  all_goals simp [hingeEvent_wf, h]

@[simp] theorem portUp_wf {s : State} (p : Nat) (h : Memory.wf s.mem = true) : Memory.wf (portUp s p).mem = true := by
  simp only [portUp]
  split <;> simp [hingeEvent_wf, h]

@[simp] theorem parityError_mem (s : State) (core k : Nat) : (parityError s core k).mem = s.mem := by simp [parityError]

@[simp] theorem knuckleRetry_wf {s : State} (core : Nat) (succeeds : Bool) (h : Memory.wf s.mem = true) :
    Memory.wf (knuckleRetry s core succeeds).mem = true := by
  simp only [knuckleRetry]
  repeat' split
  all_goals simp [hingeEvent_wf, h]

@[simp] theorem setStackState_mem (s : State) (n : Nat) (x : Stack) : (setStackState s n x).mem = s.mem := rfl

@[simp] theorem heatStack_wf {s : State} (n : Nat) (h : Memory.wf s.mem = true) : Memory.wf (heatStack s n).mem = true := by
  unfold heatStack
  split <;> simp [hingeEvent_wf, h]

@[simp] theorem flushPage_wf {s : State} (page : Nat) (h : Memory.wf s.mem = true) : Memory.wf (flushPage s page).mem = true := by
  unfold flushPage
  refine foldl_wf (fun u t hu => foldl_wf (fun v m hv => writeBackWindow_wf _ _ hv) _ hu) _ ?_
  refine foldl_wf (fun u x hu => cleanAddrs_wf _ _ _ hu) _ ?_
  refine foldl_wf (fun u x hu => cleanAddrs_wf _ _ _ hu) _ ?_
  exact foldl_wf (fun u x hu => cleanAddrs_wf _ _ _ hu) _ h

@[simp] theorem losePage_wf {s : State} (n page : Nat) (h : Memory.wf s.mem = true) : Memory.wf (losePage s n page).mem = true := by
  simp [hingeEvent_wf, losePage, h]

@[simp] theorem endFlush_wf {s : State} (n : Nat) (h : Memory.wf s.mem = true) : Memory.wf (endFlush s n).mem = true := by
  unfold endFlush
  dsimp only
  split
  · exact h
  · generalize hr : List.foldl _ _ _ = r
    have flushed : Memory.wf r.2.mem = true := by
      rw [← hr]
      refine List.foldlRecOn (motive := fun r : Nat × State => Memory.wf r.2.mem = true) _ _ h fun r hr page _ => ?_
      split
      · exact flushPage_wf _ (by rwa [choose_mem])
      · exact losePage_wf _ _ (by rwa [choose_mem])
    have told : Memory.wf (hingeEvent (setStackState r.2 n { state := 2, windowEnd := 0 }) (n / 4) 4 n 0 r.1).mem = true :=
      hingeEvent_wf _ _ _ _ _ (by rwa [setStackState_mem])
    split
    · split
      · exact told
      · exact warmReset_wf _ told
    · exact told

@[simp] theorem reportReady_mem (s : State) : (reportReady s).mem = s.mem := by simp [reportReady]

/-! ### Readiness of groups and streams (07 R191, R192, 04 R104) -/

@[simp] theorem fetchGroup_mem (s : State) (core : Nat) (tm : Team) (pc : DWord) : (fetchGroup s core tm pc).2.mem = s.mem := by
  simp [fetchGroup]

@[simp] theorem passLine_wf {s : State} (core a n : Nat) (h : Memory.wf s.mem = true) : Memory.wf (passLine s core a n).mem = true := by
  simp only [passLine]
  split <;> simp [h]

@[simp] theorem passFetch_wf {s : State} (core ctx pc len : Nat) (h : Memory.wf s.mem = true) :
    Memory.wf (passFetch s core ctx pc len).mem = true := by
  simp only [passFetch]
  refine foldl_wf (fun u x hu => ?_) _ h
  repeat' split
  all_goals simp [hu]

@[simp] theorem fetchStream_mem (s : State) (h : Nat) (t : Stream) : (fetchStream s h t).2.mem = s.mem := by simp [fetchStream]

@[simp] theorem forcedPick_mem (s : State) (core slot : Nat) : (forcedPick s core slot).mem = s.mem := by
  unfold forcedPick
  repeat' split
  all_goals simp

@[simp] theorem timeBits_mem (s : State) (b : Band) : (timeBits s b).2.mem = s.mem := by simp [timeBits]

@[simp] theorem moreTime_mem (s : State) (b : Band) : (moreTime s b).2.mem = s.mem := by
  simp only [moreTime]
  split <;> simp

@[simp] theorem stallMask_mem (s : State) (core slot : Nat) (b : Band) : (stallMask s core slot b).2.mem = s.mem := by
  simp only [stallMask]
  repeat' split
  all_goals simp

@[simp] theorem samplePeriod_wf {s : State} (core sched period : Nat) (h : Memory.wf s.mem = true) :
    Memory.wf (samplePeriod s core sched period).mem = true := by
  simp only [samplePeriod]
  repeat' split
  all_goals simp [h]

@[simp] theorem stallSample_wf {s : State} (core sched : Nat) (h : Memory.wf s.mem = true) :
    Memory.wf (stallSample s core sched).mem = true := by simp [stallSample, h]

@[simp] theorem duePeriods_wf {s : State} (core sched : Nat) (h : Memory.wf s.mem = true) :
    Memory.wf (duePeriods s core sched).mem = true := by
  simp only [duePeriods]
  refine foldl_wf (fun u x hu => ?_) _ h
  all_goals simp [hu]

@[simp] theorem dueSamples_wf {s : State} (h : Memory.wf s.mem = true) : Memory.wf (dueSamples s).mem = true := by
  unfold dueSamples
  exact foldl_wf (fun u c hu => foldl_wf (fun v i hv => duePeriods_wf _ _ hv) _ hu) _ h

@[simp] theorem memorySample_wf {s : State} (core : Nat) (h : Memory.wf s.mem = true) : Memory.wf (memorySample s core).mem = true := by
  simp only [memorySample]
  split <;> simp [h]

/-! ### An issue (07 R192, 02 R58, R59) -/

@[simp] theorem eccCorrect_mem (s : State) (core k : Nat) (live : List Nat) (i : Instr) : (eccCorrect s core k live i).mem = s.mem := by
  unfold eccCorrect
  split <;> simp

@[simp] theorem eccWritten_mem (s : State) (k : Nat) (lanes : List Nat) (i : Instr) : (eccWritten s k lanes i).mem = s.mem := by
  unfold eccWritten
  split <;> simp

@[simp] theorem strike_mem (s : State) (core slot : Nat) (scalar : Bool) (word : Nat) (two : Bool) :
    (strike s core slot scalar word two).mem = s.mem := by
  unfold strike
  split <;> simp

@[simp] theorem loopEnd_mem (s : State) (b0 : Band) (k : Nat) (lanes live : List Nat) (addr next : DWord) (i : Instr) :
    (Machine.loopEnd s b0 k lanes live addr next i).mem = s.mem := by
  unfold Machine.loopEnd
  split <;> simp

@[simp] theorem stepIssued_mem (s : State) (b0 : Band) (k : Nat) (lanes : List Nat) (pc : DWord) :
    (stepIssued s b0 k lanes pc).mem = s.mem := by
  unfold stepIssued
  repeat' split
  all_goals simp

@[simp] theorem countIssue_mem (s : State) (b0 : Band) (core slot : Nat) (live : List Nat) (pc : DWord) (i : Instr) :
    (countIssue s b0 core slot live pc i).mem = s.mem := by
  simp only [countIssue]
  repeat' split
  all_goals simp

@[simp] theorem endBlocked_mem (s : State) (k : Nat) : (endBlocked s k).mem = s.mem := by
  unfold endBlocked
  repeat' split
  all_goals simp

@[simp] theorem endGroup_wf {s : State} (b0 : Band) (k : Nat) (lanes : List Nat) (pc : DWord) (h : Memory.wf s.mem = true) :
    Memory.wf (endGroup s b0 k lanes pc).mem = true := by simp [endGroup, h]

@[simp] theorem afterIssue_wf {s : State} (b0 : Band) (core slot : Nat) (lanes live : List Nat) (pc : DWord) (len : Nat) (fresh : Bool)
    (i : Instr) (h : Memory.wf s.mem = true) :
    Memory.wf (afterIssue s b0 core slot lanes live pc len fresh i).mem = true := by
  simp only [afterIssue]
  repeat' split
  all_goals simp [h]

@[simp] theorem pickBand_mem (s : State) (core slot : Nat) : (pickBand s core slot).mem = s.mem := rfl

@[simp] theorem restWaits_mem (dt : Nat) (s : State) : (restWaits dt s).mem = s.mem := rfl

@[simp] theorem faultAll_wf {s : State} (b : Band) (k : Nat) (lanes : List Nat) (pc : DWord) (e : Exc) (info : DWord)
    (h : Memory.wf s.mem = true) :
    Memory.wf (faultAll s b k lanes pc e info).mem = true := by simp [takeTraps_wf, faultAll, h]

@[simp] theorem faultOwed_wf {s : State} (b : Band) (k : Nat) (lanes : List Nat) (pc : DWord) (word : Nat) (h : Memory.wf s.mem = true) :
    Memory.wf (faultOwed s b k lanes pc word).mem = true := by
  unfold faultOwed
  split <;> simp [takeTraps_wf, h]

@[simp] theorem takeEarly_wf {s : State} (k : Nat) (h : Memory.wf s.mem = true) : Memory.wf (takeEarly s k).mem = true := by
  unfold takeEarly
  split <;> simp [takeTraps_wf, h]

@[simp] theorem beginIssue_mem (s : State) (core slot : Nat) (lanes : List Nat) (fresh : Bool) :
    (beginIssue s core slot lanes fresh).mem = s.mem := by
  simp only [beginIssue]
  split <;> simp

/-! ### What ends a move and a step (17 R445, 15 R414, R415) -/

@[simp] theorem settleStops_wf {s : State} (h : Memory.wf s.mem = true) : Memory.wf (settleStops s).mem = true := by
  simp only [settleStops]
  refine foldl_wf (fun u x hu => ?_) _ h
  repeat' split
  all_goals simp [hu]

@[simp] theorem settleTime_wf (dt : Nat) {s : State} (h : Memory.wf s.mem = true) : Memory.wf (settleTime dt s).mem = true := by
  simp [settleTime, h]

@[simp] theorem afterTime_wf {s : State} (h : Memory.wf s.mem = true) : Memory.wf (afterTime s).mem = true := by simp [afterTime, h]

@[simp] theorem tickOver_wf {s : State} (h : Memory.wf s.mem = true) : Memory.wf (tickOver s).mem = true := by simp [tickOver, h]

end Sys2Proof.Proofs
end

section
/-! SUPPORT. The canonical form of memory under what an instruction or an event does: `NextWf`, and the same of the results that the shared
operations of groups and of streams combine. -/

namespace Sys2Proof.Proofs
open Sys2Proof.Machine Sys2Proof.Claims

/-- A next state holds memory in canonical form. -/
def NextWf : Host.Outcome State Fault Refusal → Prop
  | .next t => Memory.wf t.mem = true
  | .fault _ | .refused _ => True

/-- The state that an instruction of a group makes holds memory in canonical form. -/
def GrpWf : GrpRes → Prop
  | .ok t => Memory.wf t.mem = true
  | .exc _ | .wait _ | .hold _ => True

/-- The same of an instruction on a stream. -/
def StrmWf : StrmRes → Prop
  | .ok t | .jump t | .trap t _ => Memory.wf t.mem = true
  | .exc _ | .wait => True

@[simp] theorem nextWf_next (t : State) : NextWf (.next t) ↔ Memory.wf t.mem = true := Iff.rfl
@[simp] theorem nextWf_fault (r : Fault) : NextWf (.fault r) := trivial
@[simp] theorem nextWf_refused (r : Refusal) : NextWf (.refused r) := trivial
@[simp] theorem grpWf_ok (t : State) : GrpWf (.ok t) ↔ Memory.wf t.mem = true := Iff.rfl
@[simp] theorem grpWf_exc (e : Exc) : GrpWf (.exc e) := trivial
@[simp] theorem grpWf_wait (w : Wait) : GrpWf (.wait w) := trivial
@[simp] theorem grpWf_hold (w : Wait) : GrpWf (.hold w) := trivial
@[simp] theorem grpWf_memoryHold : GrpWf memoryHold := trivial
@[simp] theorem strmWf_ok (t : State) : StrmWf (.ok t) ↔ Memory.wf t.mem = true := Iff.rfl
@[simp] theorem strmWf_jump (t : State) : StrmWf (.jump t) ↔ Memory.wf t.mem = true := Iff.rfl
@[simp] theorem strmWf_trap (t : State) (e : Exc) : StrmWf (.trap t e) ↔ Memory.wf t.mem = true := Iff.rfl
@[simp] theorem strmWf_exc (e : Exc) : StrmWf (.exc e) := trivial
@[simp] theorem strmWf_wait : StrmWf .wait := trivial

theorem nextWf_iff {o : Host.Outcome State Fault Refusal} : NextWf o ↔ ∀ t, o = .next t → Memory.wf t.mem = true := by
  cases o <;> simp

theorem grpWf_ite {c : Prop} [Decidable c] {a b : GrpRes} (ha : GrpWf a) (hb : GrpWf b) : GrpWf (if c then a else b) := by
  split <;> assumption

theorem strmWf_ite {c : Prop} [Decidable c] {a b : StrmRes} (ha : StrmWf a) (hb : StrmWf b) : StrmWf (if c then a else b) := by
  split <;> assumption

@[simp] theorem perThreadTo_nextWf {s : State} (f : Grp → Nat → Thread → LaneRes) (h : Memory.wf s.mem = true) :
    NextWf (perThreadTo s f) :=
  nextWf_iff.2 fun _ => perThreadTo_wf f h

@[simp] theorem perThread_nextWf {s : State} (f : Grp → Nat → Thread → LaneRes) (h : Memory.wf s.mem = true) :
    NextWf (perThread s f) :=
  perThreadTo_nextWf _ h

@[simp] theorem bandOnly_nextWf {s : State} (f : Grp → Except Exc Band) (h : Memory.wf s.mem = true) : NextWf (bandOnly s f) :=
  nextWf_iff.2 fun _ => bandOnly_wf h

@[simp] theorem scalarOp_nextWf {s : State} (d : Nat) (f : (Nat → DWord) → DWord) (h : Memory.wf s.mem = true) :
    NextWf (scalarOp s d f) :=
  nextWf_iff.2 fun _ => scalarOp_wf d f h

theorem perGroupTo_nextWf {s : State} {f : Grp → State → GrpRes} (h : Memory.wf s.mem = true)
    (hf : ∀ g u, Memory.wf u.mem = true → GrpWf (f g u)) : NextWf (perGroupTo s f) :=
  nextWf_iff.2 fun _ => perGroupTo_wf h fun g u _ _ hu hr => by simpa [hr] using hf g u hu

theorem perGroup_nextWf {s : State} {f : Grp → GrpRes} (h : Memory.wf s.mem = true) (hf : ∀ g, GrpWf (f g)) :
    NextWf (perGroup s f) :=
  nextWf_iff.2 fun _ => perGroup_wf h fun g _ _ hr => by simpa [hr] using hf g

theorem onStream_nextWf {s : State} {f : Strm → StrmRes} (h : Memory.wf s.mem = true)
    (hf : ∀ g, strmOf s = some g → StrmWf (f g)) : NextWf (onStream s f) :=
  nextWf_iff.2 fun _ => onStream_wf h fun g u hg hr => by
    have := hf g hg
    rcases hr with hr | hr | ⟨e, hr⟩ <;> simpa [hr] using this

/-- A group with its team: the form that onTumbler, onTiles and onPost share. -/
theorem withTeam_grpWf {s : State} {n : Nat} {check : Team → Option Exc} {f : Team → GrpRes} (h : Memory.wf s.mem = true)
    (hf : ∀ tm, GrpWf (f tm)) :
    GrpWf (match teamOf s n with
      | none => .ok s
      | some tm => match check tm with
        | some e => .exc e
        | none => f tm) := by
  split
  · exact h
  · split
    · trivial
    · exact hf _

theorem onTumbler_nextWf {s : State} (t : Nat) {f : Grp → Team → GrpRes} (h : Memory.wf s.mem = true)
    (hf : ∀ g tm, GrpWf (f g tm)) : NextWf (onTumbler s t f) :=
  perGroup_nextWf h fun g => withTeam_grpWf h (hf g)

theorem onTiles_nextWf {s : State} {regs tiles cols : List Nat} {f : Grp → Team → GrpRes} (h : Memory.wf s.mem = true)
    (hf : ∀ g tm, GrpWf (f g tm)) : NextWf (onTiles s regs tiles cols f) :=
  perGroup_nextWf h fun g => withTeam_grpWf h (hf g)

theorem onPost_nextWf {s : State} {regs : List Nat} {t : Option Nat} {f : Grp → Team → GrpRes} (h : Memory.wf s.mem = true)
    (hf : ∀ g tm, GrpWf (f g tm)) : NextWf (onPost s regs t f) :=
  perGroup_nextWf h fun g => withTeam_grpWf h (hf g)

theorem memLanes_nextWf {s : State} {regs : List Nat} {f : Grp → State → Nat → Thread → LaneIssue × State}
    (h : Memory.wf s.mem = true) (hf : ∀ g u i t, Memory.wf u.mem = true → Memory.wf (f g u i t).2.mem = true) :
    NextWf (memLanes s regs f) := by
  refine perGroupTo_nextWf h fun g u hu => ?_
  split
  · trivial
  · have hl := issueLanes_wf (g := g) (hf g) g.live hu
    split
    · trivial
    · rename_i heq
      rw [heq] at hl
      simp only [grpWf_ok]
      split
      · exact hl
      · exact takeTraps_wf _ _ _ hl

theorem withRanges_grpWf {s : State} {g : Grp} {tm : Team} {rs : List (Nat × Nat)} {f : AList Byte → State → GrpRes}
    (hf : ∀ m u, u.mem = s.mem → GrpWf (f m u)) : GrpWf (withRanges s g tm rs f) := by
  unfold withRanges
  split
  · trivial
  · split
    · trivial
    · exact hf _ _ ((viewStash_mem ..).trans (readRanges_mem ..))

theorem withDesc_grpWf {s : State} {ctx id : Nat} {f : Desc → GrpRes} (hf : ∀ d, GrpWf (f d)) : GrpWf (withDesc s ctx id f) := by
  simp only [withDesc]
  split
  · trivial
  · split
    · exact hf _
    · trivial

theorem postCommand_grpWf {s : State} (g : Grp) (tm : Team) (ch d : Nat) (named mayWrite : List (Nat × Nat)) (cmd : Nat → Command)
    (h : Memory.wf s.mem = true) : GrpWf (postCommand s g tm ch d named mayWrite cmd) := by
  unfold postCommand
  split
  · trivial
  · split <;> simp [h]

theorem queueLaunch_strmWf {s : State} (g : Strm) (d ctx : Nat) (rcd : LaunchRec) (spill : Nat) (h : Memory.wf s.mem = true) :
    StrmWf (queueLaunch s g d ctx rcd spill) := by
  unfold queueLaunch
  dsimp only
  split_ifs <;> simp [h]

/-! ### Vector instructions (05, 06) -/

@[simp] theorem vecOp_nextWf {s : State} (regs : List Nat) (f : Grp → Nat → Thread → Thread) (h : Memory.wf s.mem = true) :
    NextWf (vecOp s regs f) := by simp [vecOp, h]

/-! ### Memory instructions (08 R249-R264) -/

@[simp] theorem execLd_nextWf (o : Ld) {s : State} (h : Memory.wf s.mem = true) : NextWf (execLd o s) := by
  refine memLanes_nextWf h fun g u i t hu => ?_
  simp [hu]

@[simp] theorem execSt_nextWf (o : St) {s : State} (h : Memory.wf s.mem = true) : NextWf (execSt o s) := by
  refine memLanes_nextWf h fun g u i t hu => ?_
  simp [hu]

@[simp] theorem execLdn_nextWf (o : Ldn) {s : State} (h : Memory.wf s.mem = true) : NextWf (execLdn o s) := by
  refine memLanes_nextWf h fun g u i t hu => ?_
  simp [hu]

@[simp] theorem streamAccess_nextWf {s : State} (a : Nat) (off : Word) (n : Nat) (acc : Acc) (f : Strm → Loc → PendKind)
    (h : Memory.wf s.mem = true) :
    NextWf (streamAccess s a off n acc f) := by
  refine onStream_nextWf h fun g _ => ?_
  dsimp only
  repeat' split
  all_goals simp [h]

@[simp] theorem groupAccess_nextWf {s : State} (a : Nat) (off : Word) (stash : Bool) (n : Nat) (acc : Acc) (f : Grp → Loc → PendKind)
    (h : Memory.wf s.mem = true) :
    NextWf (groupAccess s a off stash n acc f) := by
  refine perGroup_nextWf h fun g => ?_
  dsimp only
  repeat' split
  all_goals simp [h]

@[simp] theorem execSld_nextWf (o : Sld) {s : State} (h : Memory.wf s.mem = true) : NextWf (execSld o s) := by
  unfold execSld
  split <;> simp [h]

@[simp] theorem execSst_nextWf (o : Sst) {s : State} (h : Memory.wf s.mem = true) : NextWf (execSst o s) := by
  unfold execSst
  split <;> simp [h]

@[simp] theorem execPref_nextWf (o : Pref) {s : State} (h : Memory.wf s.mem = true) : NextWf (execPref o s) := by
  refine memLanes_nextWf h fun g u i t hu => ?_
  dsimp only
  repeat' split
  all_goals simp [hu]

@[simp] theorem cleanInval_nextWf (inval : Bool) (o : Clean) {s : State} (h : Memory.wf s.mem = true) : NextWf (cleanInval inval o s) := by
  unfold cleanInval
  split
  · refine memLanes_nextWf h fun g u i t hu => ?_
    dsimp only
    split_ifs <;> simp [hu]
  · refine perGroup_nextWf h fun g => ?_
    dsimp only
    split_ifs <;> simp [h]
  · exact perGroup_nextWf h fun g => by simp [h]

@[simp] theorem execPin_nextWf (o : Pin) {s : State} (h : Memory.wf s.mem = true) : NextWf (execPin o s) := by
  refine perGroup_nextWf h fun g => ?_
  dsimp only
  repeat' split
  all_goals simp [h]

@[simp] theorem execUnpin_nextWf (o : PageOp) {s : State} (h : Memory.wf s.mem = true) : NextWf (execUnpin o s) := by
  refine perGroup_nextWf h fun g => ?_
  dsimp only
  repeat' split
  all_goals simp [h]

@[simp] theorem execDiscard_nextWf (o : PageOp) {s : State} (h : Memory.wf s.mem = true) : NextWf (execDiscard o s) := by
  refine perGroup_nextWf h fun g => ?_
  dsimp only
  repeat' split
  all_goals simp [setLeafState_wf, h]

@[simp] theorem execPgreq_nextWf (o : Pgreq) {s : State} (h : Memory.wf s.mem = true) : NextWf (execPgreq o s) := by
  refine memLanes_nextWf h fun g u i t hu => ?_
  dsimp only
  repeat' split
  all_goals simp [hu]

@[simp] theorem execMapw_nextWf (o : Mapw) {s : State} (h : Memory.wf s.mem = true) : NextWf (execMapw o s) := by
  refine perGroup_nextWf h fun g => ?_
  dsimp only
  repeat' split
  all_goals simp [h]

@[simp] theorem mapBack_nextWf (free : Bool) (o : MapOp) {s : State} (h : Memory.wf s.mem = true) : NextWf (mapBack free o s) := by
  refine perGroupTo_nextWf h fun g u hu => ?_
  dsimp only
  repeat' split
  all_goals simp [takeTraps_wf, hu]

/-! ### Float instructions (05) -/

@[simp] theorem fltOp_nextWf {s : State} (regs : List Nat) (rnd : Rnd) (f : Grp → Mode → Nat → Thread → Thread)
    (h : Memory.wf s.mem = true) :
    NextWf (fltOp s regs rnd f) := by
  unfold fltOp
  split <;> simp [h]

@[simp] theorem flt2_nextWf (o : FOp2) (op : Mode → Val → Val → FRes) {s : State} (h : Memory.wf s.mem = true) : NextWf (flt2 o op s) := by
  simp [flt2, h]

@[simp] theorem execVfma_nextWf (o : FMa) {s : State} (h : Memory.wf s.mem = true) : NextWf (execVfma o s) := by simp [execVfma, h]

@[simp] theorem flt1_nextWf (o : FOp1) (op : Mode → Nat → Val → Nat × Flags) {s : State} (h : Memory.wf s.mem = true) :
    NextWf (flt1 o op s) := by simp [flt1, h]

@[simp] theorem minMaxV_nextWf (isMax : Bool) (o : FMinMax) {s : State} (h : Memory.wf s.mem = true) : NextWf (minMaxV isMax o s) := by
  simp [minMaxV, h]

@[simp] theorem addMinMax_nextWf (isMax : Bool) (o : FAddMin) {s : State} (h : Memory.wf s.mem = true) : NextWf (addMinMax isMax o s) := by
  unfold addMinMax
  split <;> simp [h]

@[simp] theorem classV_nextWf (o : FClass) {s : State} (h : Memory.wf s.mem = true) : NextWf (classV o s) := by simp [classV, h]

/-! ### Reductions (06) -/

@[simp] theorem execVvote_nextWf (o : Vote) {s : State} (h : Memory.wf s.mem = true) : NextWf (execVvote o s) := by simp [execVvote, h]

@[simp] theorem execVscan_nextWf (o : Scan) {s : State} (h : Memory.wf s.mem = true) : NextWf (execVscan o s) := by simp [execVscan, h]

@[simp] theorem logicP_nextWf (f : Bool → Bool → Bool) (o : POp2) {s : State} (h : Memory.wf s.mem = true) : NextWf (logicP f o s) := by
  simp [logicP, h]

@[simp] theorem notP_nextWf (o : POp1) {s : State} (h : Memory.wf s.mem = true) : NextWf (notP o s) := by simp [notP, h]

@[simp] theorem ptovV_nextWf (ones : Bool) (d a : Nat) {s : State} (h : Memory.wf s.mem = true) : NextWf (ptovV ones d a s) := by
  simp [ptovV, h]

@[simp] theorem vtopV_nextWf (wide : Bool) (d a : Nat) {s : State} (h : Memory.wf s.mem = true) : NextWf (vtopV wide d a s) := by
  simp [vtopV, h]

@[simp] theorem ppopcS_nextWf (neg : Bool) (d a : Nat) {s : State} (h : Memory.wf s.mem = true) : NextWf (ppopcS neg d a s) := by
  simp [ppopcS, h]

@[simp] theorem execVred_nextWf (o : Red) {s : State} (h : Memory.wf s.mem = true) : NextWf (execVred o s) := by
  refine perGroup_nextWf h fun g => ?_
  dsimp only
  repeat' split
  all_goals simp [h]

@[simp] theorem execVredCompletion_nextWf {s : State} (h : Memory.wf s.mem = true) : NextWf (execVredCompletion s) := by
  simp only [execVredCompletion]
  repeat' split
  all_goals simp [h]

@[simp] theorem execSrdw_nextWf (o : Rdw) {s : State} (h : Memory.wf s.mem = true) : NextWf (execSrdw o s) := by
  refine perGroup_nextWf h fun g => ?_
  dsimp only
  repeat' split
  all_goals simp [h]

/-! ### Atomics and tumblers (10) -/

@[simp] theorem atomicOp_nextWf {s : State} (fn : AtomFn) (n d c : Nat) (mem : MemOp) (ord : Order) (sc : Scope) (ch : Hint)
    (h : Memory.wf s.mem = true) :
    NextWf (atomicOp s fn n d c mem ord sc ch) := by
  refine memLanes_nextWf h fun g u i t hu => ?_
  simp [hu]

@[simp] theorem execTinit_nextWf (o : Tinit) {s : State} (h : Memory.wf s.mem = true) : NextWf (execTinit o s) := by
  refine perGroup_nextWf h fun g => ?_
  dsimp only
  repeat' split
  all_goals simp [h]

@[simp] theorem execTarv_nextWf (o : Tarv) {s : State} (h : Memory.wf s.mem = true) : NextWf (execTarv o s) := by
  refine perGroup_nextWf h fun g => ?_
  dsimp only
  repeat' split
  all_goals simp [h]

@[simp] theorem execTwait_nextWf (o : Twait) {s : State} (h : Memory.wf s.mem = true) : NextWf (execTwait o s) := by
  refine perGroup_nextWf h fun g => ?_
  dsimp only
  repeat' split
  all_goals simp [h]

@[simp] theorem execTtest_nextWf (o : Ttest) {s : State} (h : Memory.wf s.mem = true) : NextWf (execTtest o s) := by
  refine perGroup_nextWf h fun g => ?_
  dsimp only
  repeat' split
  all_goals simp [h]

/-! ### Conversions (06) -/

@[simp] theorem execVcvt_nextWf (o : Cvt) {s : State} (h : Memory.wf s.mem = true) : NextWf (execVcvt o s) := by simp [execVcvt, h]

@[simp] theorem execVqnt_nextWf (o : Qnt) {s : State} (h : Memory.wf s.mem = true) : NextWf (execVqnt o s) := by simp [execVqnt, h]

@[simp] theorem execVdqnt_nextWf (o : Dqnt) {s : State} (h : Memory.wf s.mem = true) : NextWf (execVdqnt o s) := by simp [execVdqnt, h]

@[simp] theorem execVpack_nextWf (o : Pack) {s : State} (h : Memory.wf s.mem = true) : NextWf (execVpack o s) := by simp [execVpack, h]

@[simp] theorem execVunpk_nextWf (o : Unpk) {s : State} (h : Memory.wf s.mem = true) : NextWf (execVunpk o s) := by simp [execVunpk, h]

/-! ### Tiles and matrix operations (11, 12) -/

@[simp] theorem execMma_nextWf (o : Mma) {s : State} (h : Memory.wf s.mem = true) : NextWf (execMma o s) := by
  refine onTiles_nextWf h fun g tm => ?_
  dsimp only
  split
  · trivial
  · trivial
  · exact withRanges_grpWf fun m u hm => by simp [hm, h]

@[simp] theorem execMmas_nextWf (o : Mmas) {s : State} (h : Memory.wf s.mem = true) : NextWf (execMmas o s) := by
  refine onTiles_nextWf h fun g tm => ?_
  dsimp only
  split
  · trivial
  · trivial
  refine grpWf_ite trivial (grpWf_ite trivial (grpWf_ite trivial ?_))
  split
  · trivial
  · trivial
  · rw [grpWf_ok, mmaResult_mem, countDecision_mem, viewStash_mem, readRanges_mem]
    exact h

@[simp] theorem zeroTile_nextWf (t : Nat) {s : State} (h : Memory.wf s.mem = true) : NextWf (zeroTile t s) := by
  refine perGroup_nextWf h fun g => ?_
  dsimp only
  repeat' split
  all_goals simp [h]

@[simp] theorem execTfill_nextWf (o : Tfill) {s : State} (h : Memory.wf s.mem = true) :
    NextWf (execTfill o s) := onTiles_nextWf h fun _ _ => by
  rw [grpWf_ok, pushMat_mem]
  exact h

@[simp] theorem execTident_nextWf (o : Tident) {s : State} (h : Memory.wf s.mem = true) : NextWf (execTident o s) := by
  simp only [execTident]
  split
  · refine onTiles_nextWf h fun g tm => ?_
    rw [grpWf_ok, pushMat_mem]
    exact h
  · refine onTiles_nextWf h fun g tm => ?_
    repeat' split
    all_goals simp [h]

@[simp] theorem execTld_nextWf (o : Tld) {s : State} (h : Memory.wf s.mem = true) : NextWf (execTld o s) := by
  refine onTiles_nextWf h fun g tm => ?_
  dsimp only
  split
  · trivial
  · exact withRanges_grpWf fun m u hm => by simp [hm, h]

@[simp] theorem execTst_nextWf (o : Tst) {s : State} (h : Memory.wf s.mem = true) : NextWf (execTst o s) := by
  refine perGroup_nextWf h fun g => ?_
  dsimp only
  repeat' split
  all_goals simp [h]

@[simp] theorem execTmovv_nextWf (o : Tmov) {s : State} (h : Memory.wf s.mem = true) : NextWf (execTmovv o s) := by
  refine perGroup_nextWf h fun g => ?_
  dsimp only
  repeat' split
  all_goals simp [h]

@[simp] theorem execTmovt_nextWf (o : Tmov) {s : State} (h : Memory.wf s.mem = true) : NextWf (execTmovt o s) := by
  refine perGroup_nextWf h fun g => ?_
  dsimp only
  repeat' split
  all_goals simp [h]

@[simp] theorem execTcls_nextWf (o : Tcls) {s : State} (h : Memory.wf s.mem = true) : NextWf (execTcls o s) := by
  refine perGroup_nextWf h fun g => ?_
  dsimp only
  repeat' split
  all_goals simp [h]

@[simp] theorem execScld_nextWf (o : Scld) {s : State} (h : Memory.wf s.mem = true) : NextWf (execScld o s) := by
  refine onTiles_nextWf h fun g tm => ?_
  dsimp only
  split_ifs
  · trivial
  split
  · trivial
  · exact withRanges_grpWf fun m u hm => by simp [hm, h]

@[simp] theorem execTtopk_nextWf (o : Ttopk) {s : State} (h : Memory.wf s.mem = true) : NextWf (execTtopk o s) := by
  refine perGroup_nextWf h fun g => ?_
  dsimp only
  repeat' split
  all_goals simp [h]

@[simp] theorem execTacc_nextWf (o : Tacc) {s : State} (h : Memory.wf s.mem = true) : NextWf (execTacc o s) := by
  refine perGroup_nextWf h fun g => ?_
  dsimp only
  repeat' split
  all_goals simp [h]

@[simp] theorem execTscl_nextWf (o : Tscl) {s : State} (h : Memory.wf s.mem = true) : NextWf (execTscl o s) := by
  refine perGroup_nextWf h fun g => ?_
  dsimp only
  repeat' split
  all_goals simp [h]

@[simp] theorem execTcvt_nextWf (o : Tcvt) {s : State} (h : Memory.wf s.mem = true) : NextWf (execTcvt o s) := by
  refine perGroup_nextWf h fun g => ?_
  dsimp only
  repeat' split
  all_goals simp [h]

@[simp] theorem execMatrixCompletion_nextWf {s : State} (h : Memory.wf s.mem = true) : NextWf (execMatrixCompletion s) := by
  simp only [execMatrixCompletion]
  repeat' split
  all_goals simp [h]

/-! ### Fences, keys and latches (09 R277-R289) -/

@[simp] theorem execFence_nextWf (o : Fence) {s : State} (h : Memory.wf s.mem = true) : NextWf (execFence o s) := by
  refine memLanes_nextWf h fun g u i t hu => ?_
  split <;> simp [hu]

@[simp] theorem execKbind_nextWf (o : Kbind) {s : State} (h : Memory.wf s.mem = true) : NextWf (execKbind o s) := by
  refine perGroup_nextWf h fun g => ?_
  dsimp only
  repeat' split
  all_goals simp [h]

@[simp] theorem execKfree_nextWf (o : Kfree) {s : State} (h : Memory.wf s.mem = true) : NextWf (execKfree o s) := by
  refine perGroup_nextWf h fun g => ?_
  simp [h]

@[simp] theorem execKacq_nextWf (o : Kacq) {s : State} (h : Memory.wf s.mem = true) : NextWf (execKacq o s) := by
  refine perGroup_nextWf h fun g => ?_
  dsimp only
  split
  · trivial
  have hold : GrpWf (match (threadOf g.band (g.live.headD 0)).wait with
      | .key base granules word => .wait (.key base granules word)
      | _ => memoryHold) := by
    split <;> trivial
  split
  · trivial
  · exact hold
  · exact hold
  · have hw (k : Key) : Memory.wf (keyWord s g k o.sc false).2.mem = true := by simpa using h
    refine grpWf_ite hold (grpWf_ite trivial ?_)
    split
    all_goals
      simp only [grpWf_ok, setBand_mem, noteKey_mem, dropAddrs_mem]
      exact useOp_wf _ _ (placeStep_wf _ _ _ _ _ (nameOp_wf _ (hw _)))

@[simp] theorem execKrel_nextWf (o : Krel) {s : State} (h : Memory.wf s.mem = true) : NextWf (execKrel o s) := by
  refine perGroup_nextWf h fun g => ?_
  dsimp only
  repeat' split
  all_goals simp [h]

@[simp] theorem execLatg_nextWf (o : Latg) {s : State} (h : Memory.wf s.mem = true) : NextWf (execLatg o s) := by
  refine perGroup_nextWf h fun g => ?_
  repeat' split
  all_goals simp [h]

@[simp] theorem execLatw_nextWf (o : Latw) {s : State} (h : Memory.wf s.mem = true) : NextWf (execLatw o s) := by
  refine perGroup_nextWf h fun g => ?_
  dsimp only
  repeat' split
  all_goals simp [h]

/-! ### The copy engine (13 R356-R378) -/

@[simp] theorem execTdset_nextWf (o : Td) {s : State} (h : Memory.wf s.mem = true) : NextWf (execTdset o s) := by
  refine perGroup_nextWf h fun g => ?_
  dsimp only
  repeat' split
  all_goals simp [h]

@[simp] theorem execTdget_nextWf (o : Td) {s : State} (h : Memory.wf s.mem = true) : NextWf (execTdget o s) := by
  refine perGroup_nextWf h fun g => ?_
  dsimp only
  repeat' split
  all_goals simp [h]

@[simp] theorem execTdinv_nextWf (o : Tdinv) {s : State} (h : Memory.wf s.mem = true) : NextWf (execTdinv o s) := by
  refine perGroup_nextWf h fun g => ?_
  dsimp only
  repeat' split
  all_goals simp [h]

@[simp] theorem execCpost_nextWf (o : Cpost) {s : State} (h : Memory.wf s.mem = true) : NextWf (execCpost o s) := by
  refine onPost_nextWf h fun g tm => withDesc_grpWf fun d => ?_
  dsimp only
  repeat' split
  all_goals simp [h, postCommand_grpWf]

@[simp] theorem postIndex_nextWf (scatter : Bool) (o : Gpost) {s : State} (h : Memory.wf s.mem = true) :
    NextWf (postIndex scatter o s) := by
  refine onPost_nextWf h fun g tm => withDesc_grpWf fun d => ?_
  dsimp only
  repeat' split
  all_goals simp [h, postCommand_grpWf]

@[simp] theorem execMpost_nextWf (o : Mpost) {s : State} (h : Memory.wf s.mem = true) : NextWf (execMpost o s) := by
  refine perGroup_nextWf h fun g => ?_
  dsimp only
  repeat' split
  all_goals simp [h, postCommand_grpWf]

@[simp] theorem execVremap_nextWf (o : Vremap) {s : State} (h : Memory.wf s.mem = true) : NextWf (execVremap o s) := by
  refine perGroup_nextWf h fun g => ?_
  dsimp only
  repeat' split
  all_goals simp [h]

@[simp] theorem execCwait_nextWf (o : Cwait) {s : State} (h : Memory.wf s.mem = true) : NextWf (execCwait o s) := by
  refine perGroup_nextWf h fun g => ?_
  repeat' split
  all_goals simp [h]

@[simp] theorem execCseq_nextWf (o : Cseq) {s : State} (h : Memory.wf s.mem = true) : NextWf (execCseq o s) := by
  refine perGroup_nextWf h fun g => ?_
  split <;> simp [h]

@[simp] theorem execCqry_nextWf (o : Cqry) {s : State} (h : Memory.wf s.mem = true) : NextWf (execCqry o s) := by
  refine perGroup_nextWf h fun g => ?_
  split <;> simp [h]

@[simp] theorem execPageMove_nextWf {s : State} (h : Memory.wf s.mem = true) : NextWf (execPageMove s) := by
  simp only [execPageMove]
  repeat' split
  all_goals simp [h]

/-! ### The collective engine (13 R379-R382) -/

@[simp] theorem postCollective_nextWf {s : State} (t : Option Nat) (system : Bool) (comm : Nat) (peer : Grp → Option Nat)
    (countOf : Grp → Nat) (limit : Nat) (bitwise : Bool) (bufs : Grp → List (Nat × Nat)) (make : Grp → Collective)
    (h : Memory.wf s.mem = true) :
    NextWf (postCollective s t system comm peer countOf limit bitwise bufs make) := by
  refine perGroup_nextWf h fun g => ?_
  dsimp only
  repeat' split
  all_goals simp [h]

@[simp] theorem execXred_nextWf (o : Xred) {s : State} (h : Memory.wf s.mem = true) : NextWf (execXred o s) := by simp [execXred, h]

@[simp] theorem execXgth_nextWf (o : Xgth) {s : State} (h : Memory.wf s.mem = true) : NextWf (execXgth o s) := by simp [execXgth, h]

/-! ### Control flow (07) -/

@[simp] theorem streamJump_nextWf {s : State} (link : Option Nat) (target : Strm → Nat) (h : Memory.wf s.mem = true) :
    NextWf (streamJump s link target) := by
  refine onStream_nextWf h fun g _ => ?_
  dsimp only
  repeat' split
  all_goals simp [h]

@[simp] theorem threadJump_nextWf {s : State} (regs : List Nat) (link : Option Nat) (target : Grp → Thread → Nat)
    (h : Memory.wf s.mem = true) :
    NextWf (threadJump s regs link target) := by
  simp [threadJump, h]

@[simp] theorem execNopC_nextWf {s : State} (h : Memory.wf s.mem = true) : NextWf (execNopC s) := by
  unfold execNopC
  split
  · exact onStream_nextWf h fun _ _ => h
  · exact vecOp_nextWf _ _ h

@[simp] theorem execBra_nextWf (o : Bra) {s : State} (h : Memory.wf s.mem = true) : NextWf (execBra o s) := by
  unfold execBra
  split <;> simp [h]

@[simp] theorem execBrx_nextWf (o : Brx) {s : State} (h : Memory.wf s.mem = true) : NextWf (execBrx o s) := by
  unfold execBrx
  split <;> simp [h]

@[simp] theorem execCall_nextWf (o : Call) {s : State} (h : Memory.wf s.mem = true) : NextWf (execCall o s) := by
  unfold execCall
  split <;> simp [h]

@[simp] theorem execCallx_nextWf (o : Callx) {s : State} (h : Memory.wf s.mem = true) : NextWf (execCallx o s) := by
  unfold execCallx
  split <;> simp [h]

@[simp] theorem execRetC_nextWf (o : CRet) {s : State} (h : Memory.wf s.mem = true) : NextWf (execRetC o s) := by
  unfold execRetC
  split <;> simp [h]

@[simp] theorem execBrd_nextWf (o : Brd) {s : State} (h : Memory.wf s.mem = true) : NextWf (execBrd o s) := by
  refine perGroupTo_nextWf h fun g u hu => ?_
  dsimp only
  split
  · trivial
  split
  · trivial
  · rename_i heq
    exact settle_wf _ _ _ (by simpa using pushRegion_wf _ _ hu heq)

@[simp] theorem execJoinC_nextWf {s : State} (h : Memory.wf s.mem = true) :
    NextWf (execJoinC s) := perGroupTo_nextWf h fun g _ hu => settle_wf _ _ _ (foldl_wf (fun _ i hu => joinLane_wf g i hu) _ hu)

@[simp] theorem execBrk_nextWf (o : Brk) {s : State} (h : Memory.wf s.mem = true) : NextWf (execBrk o s) := by
  refine perGroupTo_nextWf h fun g u hu => ?_
  dsimp only
  repeat' split
  all_goals simp [hu]

@[simp] theorem execSwch_nextWf (o : Swch) {s : State} (h : Memory.wf s.mem = true) : NextWf (execSwch o s) := by
  refine perGroupTo_nextWf h fun g u hu => ?_
  dsimp only
  split
  · trivial
  split
  · trivial
  split
  · trivial
  · rename_i heq
    exact settle_wf _ _ _ (by simpa using pushRegion_wf _ _ hu heq)

@[simp] theorem streamExit_nextWf {s : State} (h : Memory.wf s.mem = true) : NextWf (streamExit s) := by
  refine onStream_nextWf h fun g _ => ?_
  have hc := cleanAll_wf (.stream g.hinge g.rcd.ctx.toNat) .system h
  dsimp only
  split
  · trivial
  · trivial
  · simp [wf_homeWrite, hc]
  · split
    · simp [wf_homeWrite, revivePage_wf, hc]
    · trivial

@[simp] theorem execExitC_nextWf {s : State} (h : Memory.wf s.mem = true) : NextWf (execExitC s) := by
  unfold execExitC
  split
  · exact streamExit_nextWf h
  · refine perGroupTo_nextWf h fun g u hu => ?_
    split <;> simp [hu]

@[simp] theorem execYieldC_nextWf {s : State} (h : Memory.wf s.mem = true) : NextWf (execYieldC s) := by
  unfold execYieldC
  have hv := vecOp_nextWf [] (fun _ _ t => t) h
  split
  · repeat' split
    all_goals simp_all
  · exact hv

@[simp] theorem execLoop_nextWf (o : Sys2Proof.Loop) {s : State} (h : Memory.wf s.mem = true) : NextWf (execLoop o s) := by
  refine perGroupTo_nextWf h fun g u hu => ?_
  dsimp only
  repeat' split
  all_goals simp [hu]

/-! ### Embedding bags (14) -/

@[simp] theorem execEmbag_nextWf (o : Embag) {s : State} (h : Memory.wf s.mem = true) : NextWf (execEmbag o s) := by
  refine onPost_nextWf h fun g tm => withDesc_grpWf fun d => ?_
  dsimp only
  repeat' split
  all_goals simp [h, postCommand_grpWf]

@[simp] theorem execEmstat_nextWf (o : Emstat) {s : State} (h : Memory.wf s.mem = true) : NextWf (execEmstat o s) := by
  refine perGroup_nextWf h fun g => ?_
  split <;> simp [h]

/-! ### Streams, launches and placement (15) -/

@[simp] theorem execLaunch_nextWf (o : Sys2Proof.Launch) {s : State} (h : Memory.wf s.mem = true) : NextWf (execLaunch o s) := by
  refine onStream_nextWf h fun g _ => ?_
  dsimp only
  split
  · exact queueLaunch_strmWf _ _ _ _ _ h
  split
  · trivial
  · have hc := (captureLaunch_mem (cleanAll s (strmAgent g) .package) g.hinge g.rcd.ctx.toNat (rdStream g.rcd o.a).toNat
      (o.par.map fun r => (rdStream g.rcd r.val).toNat) (o.spl.map fun r => (rdStream g.rcd r.val).toNat))
    have hw := cleanAll_wf (strmAgent g) .package h
    rw [← hc] at hw
    split
    all_goals
      rename_i heq
      rw [heq] at hw
    · exact hw
    · simpa using hw
    · exact queueLaunch_strmWf _ _ _ _ _ hw

@[simp] theorem execLwait_nextWf (o : Lwait) {s : State} (h : Memory.wf s.mem = true) : NextWf (execLwait o s) := by
  refine onStream_nextWf h fun g _ => ?_
  dsimp only
  repeat' split
  all_goals simp [h]

@[simp] theorem execLsig_nextWf (o : Lsig) {s : State} (h : Memory.wf s.mem = true) : NextWf (execLsig o s) := by
  refine onStream_nextWf h fun g _ => ?_
  simp [h]

@[simp] theorem execLsigHinge_nextWf (o : LsigHinge) {s : State} (h : Memory.wf s.mem = true) : NextWf (execLsigHinge o s) := by
  refine onStream_nextWf h fun g _ => ?_
  dsimp only
  repeat' split
  all_goals simp [h]

@[simp] theorem execLsigHost_nextWf (o : LsigHost) {s : State} (h : Memory.wf s.mem = true) : NextWf (execLsigHost o s) := by
  refine onStream_nextWf h fun g _ => ?_
  simp [raiseMsi_mem, h]

@[simp] theorem execLevw_nextWf (o : Levw) {s : State} (h : Memory.wf s.mem = true) : NextWf (execLevw o s) := by
  refine onStream_nextWf h fun g _ => ?_
  dsimp only
  repeat' split
  all_goals simp [h]

/-! ### Context switches (15 R418, 16 R436-R439) -/

@[simp] theorem execCtxsw_nextWf (o : Ctxsw) {s : State} (h : Memory.wf s.mem = true) : NextWf (execCtxsw o s) := by
  refine onStream_nextWf h fun g _ => ?_
  refine strmWf_ite trivial (strmWf_ite trivial (strmWf_ite trivial (strmWf_ite ?_ ?_)))
  · rw [strmWf_jump, setStream_mem]
    exact foldl_wf (fun _ x hu => beginSwitch_wf _ x.1 x.2 hu) _ h
  · rw [strmWf_ok, setStream_mem, foldl_mem fun _ _ => by simp]
    exact foldl_wf (fun _ x hu => switchHinge_wf x _ _ hu) _ h

/-! ### Stops, triggers and debug accesses (17) -/

@[simp] theorem execTapDpacc_nextWf {s : State} (h : Memory.wf s.mem = true) : NextWf (execTapDpacc s) := by
  simp only [execTapDpacc]
  repeat' split
  all_goals simp [h]

@[simp] theorem stopHere_nextWf {s : State} (req : Grp → Context → Option StopReq) (h : Memory.wf s.mem = true) :
    NextWf (stopHere s req) := by
  refine perGroup_nextWf h fun g => ?_
  split <;> simp [h]

@[simp] theorem execBkptC_nextWf (o : C1) {s : State} (h : Memory.wf s.mem = true) : NextWf (execBkptC o s) := by simp [execBkptC, h]

@[simp] theorem execHaltC_nextWf {s : State} (h : Memory.wf s.mem = true) : NextWf (execHaltC s) := by
  unfold execHaltC
  split
  · exact onStream_nextWf h fun _ _ => by simp [h]
  · exact stopHere_nextWf _ h

@[simp] theorem execSnap_nextWf (o : Snap) {s : State} (h : Memory.wf s.mem = true) : NextWf (execSnap o s) := by
  refine perGroup_nextWf h fun g => ?_
  simp [h]

@[simp] theorem execMark_nextWf (o : Mark) {s : State} (h : Memory.wf s.mem = true) : NextWf (execMark o s) := by
  refine perGroup_nextWf h fun g => ?_
  split <;> simp [h]

@[simp] theorem esamp_nextWf (core : Bool) (d : Nat) {s : State} (h : Memory.wf s.mem = true) : NextWf (esamp core d s) := by
  refine perGroup_nextWf h fun g => ?_
  simp [h]

/-! ### Traps, special registers and the scrubber (16) -/

@[simp] theorem trapCode_nextWf (code : Nat) {s : State} (h : Memory.wf s.mem = true) : NextWf (trapCode code s) := by
  unfold trapCode
  split
  · exact onStream_nextWf h fun _ _ => by simp [h]
  · exact perGroupTo_nextWf h fun g u hu => by simp [takeTraps_wf, hu]

@[simp] theorem execTretC_nextWf {s : State} (h : Memory.wf s.mem = true) : NextWf (execTretC s) := by
  unfold execTretC
  split
  · refine onStream_nextWf h fun g _ => ?_
    split_ifs <;> simp [h]
  · have hp := perThreadTo_nextWf (fun _ _ t => if t.tlevel then .ok (trapReturn t) else .exc { cause := cIllegal }) h
    dsimp only
    split
    · rename_i heq
      rw [heq] at hp
      split_ifs
      · exact hp
      · exact settleTret_wf _ _ _ h
      · exact takeTraps_wf _ _ _ (settleTret_wf _ _ _ h)
    · exact hp

@[simp] theorem execMfs_nextWf (o : Msr) {s : State} (h : Memory.wf s.mem = true) : NextWf (execMfs o s) := by
  unfold execMfs
  split
  · refine onStream_nextWf h fun g _ => ?_
    split <;> simp [h]
  · split
    · refine perGroup_nextWf h fun g => ?_
      split <;> simp [h]
    · dsimp only
      split
      · next s' _ heq _ =>
        have hv := nextWf_iff.1 (vecOp_nextWf _ _ h) s' heq
        split_ifs <;> simp [hv]
      · exact vecOp_nextWf _ _ h

@[simp] theorem execMts_nextWf (o : Msr) {s : State} (h : Memory.wf s.mem = true) : NextWf (execMts o s) := by
  unfold execMts
  split
  · refine onStream_nextWf h fun g _ => ?_
    split <;> simp [h]
  · split
    · split_ifs
      · exact vecOp_nextWf _ _ h
      · exact perGroup_nextWf h fun g => by simp [h]
    · exact vecOp_nextWf _ _ h

/-! ### The device and the host (18) -/

@[simp] theorem execHostApertureRead_nextWf {s : State} (h : Memory.wf s.mem = true) : NextWf (execHostApertureRead s) := by
  simp only [execHostApertureRead]
  repeat' split
  all_goals simp [h]

@[simp] theorem execHostApertureWrite_nextWf {s : State} (h : Memory.wf s.mem = true) : NextWf (execHostApertureWrite s) := by
  simp only [execHostApertureWrite]
  repeat' split
  all_goals simp [writeAperture_wf, h]

/-! ### Scalar instructions (04) -/

@[simp] theorem execSmovv_nextWf (o : SMovv) {s : State} (h : Memory.wf s.mem = true) : NextWf (execSmovv o s) := by simp [execSmovv, h]

end Sys2Proof.Proofs
end

section
/-! SUPPORT. What every instruction, event, move and step does to memory (01 R4-R7), and O8. -/

namespace Sys2Proof.Proofs
open Sys2Proof.Machine Sys2Proof.Claims

/-- Every instruction and every event, by the operation that it names (01 R4). -/
theorem exec_nextWf (i : Instr) {s : State} (h : Memory.wf s.mem = true) : NextWf (exec i s) := by
  cases i with
  | bra => exact execBra_nextWf _ h
  | brx => exact execBrx_nextWf _ h
  | call => exact execCall_nextWf _ h
  | callx => exact execCallx_nextWf _ h
  | retC => exact execRetC_nextWf _ h
  | brd => exact execBrd_nextWf _ h
  | brk => exact execBrk_nextWf _ h
  | swch => exact execSwch_nextWf _ h
  | loop => exact execLoop_nextWf _ h
  | saddC _ | sadd _ | ssubC _ | ssub _ | smulC _ | smul _ | smulhC _ | smulh _ | sdivC _ | sdiv _ | sremC _ | srem _ | sandC _
  | sand _ | sorC _ | sor _ | sxorC _ | sxor _ | sandnC _ | sandn _ | sshlC _ | sshl _ | sshrC _ | sshr _ | ssarC _ | ssar _
  | srotC _ | srot _ | sminC _ | smin _ | smaxC _ | smax _ | scmp _ | ssel _ | smovC _ | smov _ | sli _ | slea _ | spopcC _
  | spopc _ | sclzC _ | sclz _ | sctzC _ | sctz _ | sbfx _ | sbfi _ =>
    dsimp only [exec]
    exact scalarOp_nextWf _ _ h
  | smovv => exact execSmovv_nextWf _ h
  | vaddC _ | vadd _ | vsubC _ | vsub _ | vmulC _ | vmul _ | vmulhC _ | vmulh _ | vmad _ | vmadw _ | vandC _ | vand _ | vorC _
  | vor _ | vxorC _ | vxor _ | vandnC _ | vandn _ | vshlC _ | vshl _ | vshrC _ | vshr _ | vsarC _ | vsar _ | vminC _ | vmin _
  | vmaxC _ | vmax _ | vabsC _ | vabs _ | vaddsC _ | vadds _ | vsubsC _ | vsubs _ | vcmp _ | vsel _ | vpopcC _ | vpopc _ | vclzC _
  | vclz _ | vbfx _ | vbfi _ | vdot4 _ | vmovsC _ | vmovs _ | vli _ | vidxC _ | vidx _ | vfcmp _ | vshfl _ | vbcst _ | vmatch _ =>
    dsimp only [exec]
    exact vecOp_nextWf _ _ h
  | vfaddC _ | vfadd _ | vfsubC _ | vfsub _ | vfmulC _ | vfmul _ | vfdivC _ | vfdiv _ =>
    dsimp only [exec]
    exact flt2_nextWf _ _ h
  | vfma => exact execVfma_nextWf _ h
  | vfminC _ | vfmin _ | vfmaxC _ | vfmax _ =>
    dsimp only [exec]
    exact minMaxV_nextWf _ _ h
  | vfclassC _ | vfclass _ =>
    dsimp only [exec]
    exact classV_nextWf _ h
  | vfrcpC _ | vfrcp _ | vfrsqC _ | vfrsq _ | vfsqrtC _ | vfsqrt _ | vfexp2C _ | vfexp2 _ | vflog2C _ | vflog2 _ | vfsinC _
  | vfsin _ | vfcosC _ | vfcos _ | vftanhC _ | vftanh _ | vfrnd _ =>
    dsimp only [exec]
    exact flt1_nextWf _ _ h
  | vaddmin _ | vaddmax _ =>
    dsimp only [exec]
    exact addMinMax_nextWf _ _ h
  | vcvt => exact execVcvt_nextWf _ h
  | vqnt => exact execVqnt_nextWf _ h
  | vdqnt => exact execVdqnt_nextWf _ h
  | vpack => exact execVpack_nextWf _ h
  | vunpk => exact execVunpk_nextWf _ h
  | vvote => exact execVvote_nextWf _ h
  | vscan => exact execVscan_nextWf _ h
  | vred => exact execVred_nextWf _ h
  | srdw => exact execSrdw_nextWf _ h
  | pandC _ | pand _ | porC _ | por _ | pxorC _ | pxor _ =>
    dsimp only [exec]
    exact logicP_nextWf _ _ h
  | pnotC _ | pnot _ =>
    dsimp only [exec]
    exact notP_nextWf _ h
  | ptovC _ | ptov _ =>
    dsimp only [exec]
    exact ptovV_nextWf _ _ _ h
  | vtopC _ | vtop _ =>
    dsimp only [exec]
    exact vtopV_nextWf _ _ _ h
  | ppopcC _ | ppopc _ =>
    dsimp only [exec]
    exact ppopcS_nextWf _ _ _ h
  | ld => exact execLd_nextWf _ h
  | st => exact execSt_nextWf _ h
  | sld => exact execSld_nextWf _ h
  | sst => exact execSst_nextWf _ h
  | ldn => exact execLdn_nextWf _ h
  | pref => exact execPref_nextWf _ h
  | clean _ | inval _ =>
    dsimp only [exec]
    exact cleanInval_nextWf _ _ h
  | pin => exact execPin_nextWf _ h
  | unpin => exact execUnpin_nextWf _ h
  | discard => exact execDiscard_nextWf _ h
  | pgreq => exact execPgreq_nextWf _ h
  | mapw => exact execMapw_nextWf _ h
  | mapc _ | mapf _ =>
    dsimp only [exec]
    exact mapBack_nextWf _ _ h
  | fence => exact execFence_nextWf _ h
  | kbind => exact execKbind_nextWf _ h
  | kfree => exact execKfree_nextWf _ h
  | kacq => exact execKacq_nextWf _ h
  | krel => exact execKrel_nextWf _ h
  | latg => exact execLatg_nextWf _ h
  | latw => exact execLatw_nextWf _ h
  | atom _ | atomf _ | cas _ | cas2 _ =>
    dsimp only [exec]
    exact atomicOp_nextWf _ _ _ _ _ _ _ _ h
  | tinit => exact execTinit_nextWf _ h
  | tarv => exact execTarv_nextWf _ h
  | twait => exact execTwait_nextWf _ h
  | ttest => exact execTtest_nextWf _ h
  | mma => exact execMma_nextWf _ h
  | mmas => exact execMmas_nextWf _ h
  | tzeroC _ | tzero _ =>
    dsimp only [exec]
    exact zeroTile_nextWf _ h
  | tfill => exact execTfill_nextWf _ h
  | tident => exact execTident_nextWf _ h
  | tld => exact execTld_nextWf _ h
  | tst => exact execTst_nextWf _ h
  | tmovv => exact execTmovv_nextWf _ h
  | tmovt => exact execTmovt_nextWf _ h
  | tcls => exact execTcls_nextWf _ h
  | scld => exact execScld_nextWf _ h
  | ttopk => exact execTtopk_nextWf _ h
  | tacc => exact execTacc_nextWf _ h
  | tscl => exact execTscl_nextWf _ h
  | tcvt => exact execTcvt_nextWf _ h
  | tdset => exact execTdset_nextWf _ h
  | tdget => exact execTdget_nextWf _ h
  | tdinv => exact execTdinv_nextWf _ h
  | cpost => exact execCpost_nextWf _ h
  | gpost _ | spost _ =>
    dsimp only [exec]
    exact postIndex_nextWf _ _ h
  | vremap => exact execVremap_nextWf _ h
  | cwait => exact execCwait_nextWf _ h
  | cseq => exact execCseq_nextWf _ h
  | cqry => exact execCqry_nextWf _ h
  | mpost => exact execMpost_nextWf _ h
  | xred => exact execXred_nextWf _ h
  | xgth => exact execXgth_nextWf _ h
  | xsnd _ | xrcv _ =>
    dsimp only [exec]
    exact postCollective_nextWf _ _ _ _ _ _ _ _ _ h
  | embag => exact execEmbag_nextWf _ h
  | emstat => exact execEmstat_nextWf _ h
  | launch => exact execLaunch_nextWf _ h
  | lwait => exact execLwait_nextWf _ h
  | lsig => exact execLsig_nextWf _ h
  | lsigHinge => exact execLsigHinge_nextWf _ h
  | lsigHost => exact execLsigHost_nextWf _ h
  | levw => exact execLevw_nextWf _ h
  | ctxsw => exact execCtxsw_nextWf _ h
  | trapC _ | trap _ =>
    dsimp only [exec]
    exact trapCode_nextWf _ h
  | mfs => exact execMfs_nextWf _ h
  | mts => exact execMts_nextWf _ h
  | bkptC => exact execBkptC_nextWf _ h
  | snap => exact execSnap_nextWf _ h
  | mark => exact execMark_nextWf _ h
  | esampC _ | esamp _ =>
    dsimp only [exec]
    exact esamp_nextWf _ _ h
  | nopC => exact execNopC_nextWf h
  | joinC => exact execJoinC_nextWf h
  | exitC => exact execExitC_nextWf h
  | yieldC => exact execYieldC_nextWf h
  | tretC => exact execTretC_nextWf h
  | haltC => exact execHaltC_nextWf h
  | vredCompletion => exact execVredCompletion_nextWf h
  | matrixCompletion => exact execMatrixCompletion_nextWf h
  | pageMove => exact execPageMove_nextWf h
  | hostApertureRead => exact execHostApertureRead_nextWf h
  | hostApertureWrite => exact execHostApertureWrite_nextWf h
  | tapDpacc => exact execTapDpacc_nextWf h
  | accessPerformed | backgroundWriteback | backgroundDiscard | engineCommandStart | indexRowDelivery | embagBagDelivery
  | commandCompletion | heldRecordWrite | promotionMove | promotionCounterHalve | collectiveCompletion | flitReceive
  | portRetrainTimeout | streamTakeEntry | teamPlacement | bandRetire | teamRetire | quantumExpire | forcedPick | engineTrapTake
  | breakpointHit | stopArrival | snapshotLatch | stallSample | memorySample | scrub | knuckleParityError | knuckleRetry
  | stackCriticalTemperature | flushWindowEnd | dieThrottle | coldReset | warmReset | attestationRequest | attestationReportReady
  | tlbInvalidate | tlbInvalidateDone | pageAnswerDone | pageAnswerRefused | bandResume | bandAbort | bandStep | stepEnd
  | streamEnable | streamDisable | doorbell | driverTrigger | stackResume | portRetrain | debugRead | debugWrite | counterReadClear
  | registerWrite | contextCreation | launchAbort | driverHaltRequest | portUp | portLinkFailure | dieTemperatureFall =>
    dsimp only [exec, execAccessPerformed, execBackgroundWriteback, execBackgroundDiscard, execEngineCommandStart,
      execIndexRowDelivery, execEmbagBagDelivery, execCommandCompletion, execHeldRecordWrite, execPromotionMove,
      execPromotionCounterHalve, execCollectiveCompletion, execFlitReceive, execPortRetrainTimeout, execStreamTakeEntry,
      execTeamPlacement, execBandRetire, execTeamRetire, execQuantumExpire, execForcedPick, execEngineTrapTake, execBreakpointHit,
      execStopArrival, execSnapshotLatch, execStallSample, execMemorySample, execScrub, execKnuckleParityError, execKnuckleRetry,
      execStackCriticalTemperature, execFlushWindowEnd, execDieThrottle, execColdReset, execWarmReset, execAttestationRequest,
      execAttestationReportReady, execTlbInvalidate, execTlbInvalidateDone, execPageAnswerDone, execPageAnswerRefused,
      execBandResume, execBandAbort, execBandStep, execStepEnd, execStreamEnable, execStreamDisable, execDoorbell, execDriverTrigger,
      execStackResume, execPortRetrain, execDebugRead, execDebugWrite, execCounterReadClear, execRegisterWrite, execContextCreation,
      execLaunchAbort, execDriverHaltRequest, execPortUp, execPortLinkFailure, execDieTemperatureFall]
    split <;> simp [coldReset_wf, h]

/-! ### Issues, moves and steps (01 R4-R7, 07 R192) -/

theorem runGroup_nextWf {s : State} (b : Band) (core slot : Nat) (lanes : List Nat) (pc : DWord) (word len : Nat) (d : Decoded)
    (h : Memory.wf s.mem = true) : NextWf (runGroup s b core slot lanes pc word len d) := by
  simp only [runGroup]
  split
  · simp [h]
  · split
    · rename_i heq
      have hx := nextWf_iff.1 (exec_nextWf _ (by simpa using h)) _ heq
      simp [hx]
    · trivial
    · trivial

theorem issueGroup_nextWf {s : State} (core slot lane : Nat) (h : Memory.wf s.mem = true) : NextWf (issueGroup s core slot lane) := by
  simp only [issueGroup]
  split
  · exact h
  split
  · exact h
  split
  · exact h
  · repeat' split
    all_goals simp [runGroup_nextWf, h]

theorem issueStream_nextWf {s : State} (c n : Nat) (h : Memory.wf s.mem = true) : NextWf (issueStream s c n) := by
  simp only [issueStream]
  split
  · exact h
  · split
    · exact h
    · simp [h]
    · simp [h]
    · split
      · exact h
      · split
        · rename_i heq
          have hx := nextWf_iff.1 (exec_nextWf _ (by simpa using h)) _ heq
          simpa using hx
        · trivial
        · trivial

theorem preciseFirst_wf {s t : State} {e : Event} (h : Memory.wf s.mem = true) (ht : preciseFirst s e = some t) :
    Memory.wf t.mem = true := by
  simp only [preciseFirst] at ht
  split at ht
  · split at ht
    · split at ht
      · split at ht
        · rename_i heq
          split at ht
          · cases ht
            exact nextWf_iff.1 (issueGroup_nextWf _ _ _ (s := { s with faulted := 0 }) h) _ heq
          · cases ht
        · cases ht
        · cases ht
      · cases ht
    · cases ht
  · cases ht

theorem runEvent_nextWf {s : State} (e : Event) (h : Memory.wf s.mem = true) : NextWf (runEvent s e) := by
  unfold runEvent
  split
  · rename_i heq
    exact preciseFirst_wf h heq
  · split
    · rename_i heq
      have hx := nextWf_iff.1 (exec_nextWf _ (by exact h)) _ heq
      simp [hx]
    · trivial
    · trivial

theorem runMove_nextWf {s : State} (m : Move) (h : Memory.wf s.mem = true) : NextWf (runMove s m) := by
  cases m with
  | free => exact h
  | issue core slot lane => exact issueGroup_nextWf _ _ _ h
  | issueStream c n => exact issueStream_nextWf _ _ h
  | softError core slot scalar word two => simpa [runMove] using h
  | event e => exact runEvent_nextWf e h

theorem namedMove_nextWf {s : State} (m : Move) (h : Memory.wf s.mem = true) : NextWf (namedMove s m) := by
  cases m with
  | issue core slot lane =>
    simp only [namedMove]
    split
    · exact issueGroup_nextWf _ _ _ h
    · exact h
  | issueStream c n =>
    simp only [namedMove]
    split
    · exact issueStream_nextWf _ _ h
    · exact h
  | free => exact h
  | softError core slot scalar word two => exact runMove_nextWf (.softError core slot scalar word two) h
  | event e => exact runEvent_nextWf e h

theorem freeMove_nextWf {s : State} (h : Memory.wf s.mem = true) : NextWf (freeMove s) :=
  runMove_nextWf _ ((congrArg Memory.wf (choose_mem ..)).trans h)

theorem nextMove_nextWf {s : State} (h : Memory.wf s.mem = true) : NextWf (nextMove s) := by
  unfold nextMove
  split
  · exact freeMove_nextWf h
  · exact freeMove_nextWf h
  · exact namedMove_nextWf _ h

theorem step_nextWf {s : State} (h : Memory.wf s.mem = true) : NextWf (step s) := by
  have hm := nextMove_nextWf h
  unfold step
  split
  · rename_i heq
    rw [heq] at hm
    exact tickOver_wf hm
  · trivial
  · trivial

/-- Settles O8: the outcome of every move, of every instruction and event, holds memory in canonical form when the state it starts
from does (`exec_nextWf`), and what a step's time brings keeps the form (`tickOver_wf`). -/
theorem memoryStaysCanonical : Obligations.MemoryStaysCanonical :=
  fun _ t h hs => nextWf_iff.1 (step_nextWf h) t hs

end Sys2Proof.Proofs
end

section
/-! SUPPORT. How an instruction that acts once for its group leaves it; the levels above and below a point, and DropBelow of all (R268). -/

namespace Sys2Proof.Proofs
open Sys2Proof.Machine Sys2Proof.Claims

/-! ### How an instruction that acts once for its group leaves it -/

/-- A memory instruction that issues one operation for some lanes of its group. -/
theorem issuesFor_of_perGroup {i : Instr} {s : State} {g : Grp} {tm : Team} (h : OfTeam s g tm) (hl : g.live ≠ [])
    {f : Grp → GrpRes} (hi : exec i s = perGroup s f) {u : State} (hu : Translated (g.core / 8) s u) {lanes : List Nat} {kind : PendKind}
    (hf : f g = .ok (issueOps u g lanes [kind])) : IssuesFor i s g tm lanes kind := by
  obtain ⟨hg, htm, -⟩ := h
  have hband : bandOf (issueOps u g lanes [kind]) g.key = some g.band :=
    (congrArg (aFind g.key) hu.issued.1).trans (grpOf_band hg)
  obtain ⟨t, b', hnext, honly, hb', hframe, hby, hthreads⟩ := perGroup_ok hg hl hband rfl fun _ _ => rfl
  refine ⟨t, b', ?_, ⟨?_, fun j hj => ?_, ?_, fun a => ?_⟩, hb', hframe, hby, hthreads⟩
  · rw [hi, perGroup_at hg, hf, hnext]
  · rw [honly.rest, issueOps_eq ((hu.teamOf _).trans htm), hu.frame, hu.issued.2]
    unfold Claims.opOf
    rfl
  · exact (honly.bands j hj).trans (congrArg (aFind j) hu.issued.1)
  · rw [honly.rest]
    exact ⟨hu.tlbs.clusters, hu.tlbs.hinges⟩
  · rw [honly.bytes, homeByte, homeByte, hu.frame]
    rfl

section
variable {i : Instr} {s : State} {g : Grp} {f : Grp → GrpRes}

/-- The group waits at its instruction (R217). -/
theorem groupWaits_of_perGroup (hg : grpOf s = some g) (hl : g.live ≠ []) (hi : exec i s = perGroup s f) {w : Wait}
    (hf : f g = .wait w) : GroupWaits i s g w := by
  obtain ⟨honly, hband⟩ := bandBecomes_idled hg
  have hexec : exec i s = .next (waitLanes (idled s g) g g.live w) := by
    have hlive : g.live.isEmpty = false := by simpa using hl
    rw [hi]
    simp only [perGroup, perGroupTo, hg, hlive, hf, Bool.false_eq_true, if_false]
    rfl
  have hwait : waitLanes (idled s g) g g.live w = setBand (idled s g) g.key (acted g g.band.split (waiting s w)) := by
    have hseq : (idled s g).seq = s.seq := by rw [honly.rest]
    unfold waitLanes
    rw [hband]
    dsimp only
    rw [hseq]
    rfl
  refine ⟨_, _, hexec.trans (congrArg _ hwait), ?_, bandOf_setBand .., rfl, bystanders_acted hg .., fun l hlt hl => ?_⟩
  · exact (BandBecomes.trans ⟨honly, hband⟩ (bandBecomes_setBand ..)).1
  · exact threadOf_acted_live _ _ hlt hl

/-- The group goes on, and its team and the caches are what the body has left. -/
theorem teamStep_of_perGroup (hg : grpOf s = some g) (hl : g.live ≠ []) (hi : exec i s = perGroup s f) {u : State}
    (hf : f g = .ok u) (hu : u = { s with teams := u.teams, cores := u.cores, clusters := u.clusters }) {tm' : Team}
    (htm : teamOf u g.band.team = some tm') (hothers : ∀ j, j ≠ g.band.team → teamOf u j = teamOf s j)
    {P : State → Team → Band → Prop}
    (hP : ∀ t b', t.cores = u.cores → t.clusters = u.clusters → GoneOn g b' → P t tm' b') : TeamStep i s g P := by
  have hband : bandOf u g.key = some g.band := by
    rw [bandOf, hu]
    exact grpOf_band hg
  obtain ⟨t, b', hnext, honly, hb', hframe, hby, hthreads⟩ := perGroup_ok hg hl hband rfl fun _ _ => rfl
  have hrest := honly.rest
  refine ⟨t, tm', b', ?_, ?_, ?_, fun j hj => ?_, fun j hj => ?_, hb', fun a => ?_, hP t b' ?_ ?_ ⟨hframe, hby, hthreads⟩⟩
  · rw [hi, perGroup_at hg, hf, hnext]
  · rw [hrest, hu]
  · rw [teamOf, hrest]
    exact htm
  · rw [teamOf, hrest]
    exact hothers j hj
  · rw [honly.bands j hj, bandOf, hu]
    rfl
  · rw [honly.bytes, homeByte, hu]
    rfl
  · rw [hrest]
  · rw [hrest]

end

/-- The levels above the point of a scope (R268). -/
def above (s : State) (ag : Agent) (sc : Scope) (a : Nat) : List Level := (pathAbove s ag sc a).1.take (pathAbove s ag sc a).2

/-- The levels from the point of a scope down. -/
def below (s : State) (ag : Agent) (sc : Scope) (a : Nat) : List Level := (pathAbove s ag sc a).1.drop (pathAbove s ag sc a).2

theorem SameHomes.above {s t : State} (h : SameHomes s t) (ag : Agent) (sc : Scope) (a : Nat) : above t ag sc a = above s ag sc a := by
  rw [Proofs.above, h.pathAbove, Proofs.above]

theorem SameHomes.below {s t : State} (h : SameHomes s t) (ag : Agent) (sc : Scope) (a : Nat) : below t ag sc a = below s ag sc a := by
  rw [Proofs.below, h.pathAbove, Proofs.below]

theorem above_subset_path (s : State) (ag : Agent) (sc : Scope) (a : Nat) : above s ag sc a ⊆ path s ag a := List.take_subset ..

theorem above_team (s : State) (ag : Agent) (a : Nat) : above s ag .team a = [] := by
  have hnone : (pathAbove s ag .team a).2 = 0 := by
    rw [pathAbove]
    exact List.length_eq_zero_iff.mpr (List.takeWhile_eq_nil_iff.mpr fun _ h =>
      absurd (of_decide_eq_true h) (Nat.not_lt.mpr (levelRank_pos _)))
  rw [above, hnone, List.take_zero]

/-- Only the L1 of a thread lies above its cluster's cache (R267). -/
theorem above_cluster (s : State) (core team ctx a : Nat) : above s (.thread core team ctx) .cluster a = [.l1 core] := by
  simp [above, pathAbove, path, levelRank, scopeRank]

/-! ### DropBelow (R268) -/

theorem copiesOnly_dropCopy (s : State) (l : Level) (a : Nat) : CopiesOnly s (dropCopy s l a) := copiesOnly_setLevel ..

theorem copyAt_dropCopy_if (s : State) (l k : Level) (a b : Nat) :
    copyAt (dropCopy s l a) k b = if k = l ∧ b = a then none else copyAt s k b := by
  by_cases h : k = l ∧ b = a
  · rw [if_pos h, h.1, h.2, copyAt_dropCopy]
  · rw [if_neg h]
    exact copyAt_dropCopy_ne s (by tauto)

/-- The copy of a byte at one level discarded, if it is clean. -/
def dropClean (s : State) (l : Level) (a : Nat) : State :=
  match copyAt s l a with
  | some c => if c.dirty then s else dropCopy s l a
  | none => s

theorem dropByte_succ (a : Nat) (l : Level) (p : List Level) (n : Nat) (s : State) :
    dropByte a (l :: p) (n + 1) s = dropByte a p n (dropClean s l a) := by
  rw [dropByte, dropClean]
  cases copyAt s l a <;> rfl

theorem copyAt_dropClean (s : State) (l k : Level) (a b : Nat) :
    copyAt (dropClean s l a) k b = if b = a ∧ k = l then (copyAt s k b).filter (·.dirty) else copyAt s k b := by
  by_cases h : b = a ∧ k = l
  · rw [if_pos h, h.1, h.2, dropClean]
    cases hc : copyAt s l a with
    | none => exact hc
    | some c =>
      cases hd : c.dirty with
      | true => simpa [hd, Option.filter] using hc
      | false => simpa [hd, Option.filter] using copyAt_dropCopy s l a
  · rw [if_neg h, dropClean]
    split
    · split
      · rfl
      · rw [copyAt_dropCopy_if, if_neg fun h' => h h'.symm]
    · rfl

/-- DropBelow keeps what each dropped copy keeps. -/
theorem dropByte_induction {a : Nat} {R : State → Prop} {p : List Level} (n : Nat)
    (hR : ∀ u, ∀ l ∈ p.take n, R u → R (dropCopy u l a)) {s : State} (hs : R s) : R (dropByte a p n s) := by
  induction p generalizing n s with
  | nil => exact hs
  | cons l p ih =>
    cases n with
    | zero => exact hs
    | succ n =>
      rw [List.take_succ_cons] at hR
      rw [dropByte_succ]
      refine ih n (fun u k hk => hR u k (List.mem_cons_of_mem _ hk)) ?_
      unfold dropClean
      split
      · split
        · exact hs
        · exact hR s l List.mem_cons_self hs
      · exact hs

theorem copyAt_dropByte (a : Nat) (p : List Level) (n : Nat) (s : State) (l : Level) (b : Nat) :
    copyAt (dropByte a p n s) l b = if b = a ∧ l ∈ p.take n then (copyAt s l b).filter (·.dirty) else copyAt s l b := by
  induction p generalizing n s with
  | nil => simp [dropByte]
  | cons k p ih =>
    cases n with
    | zero => simp [dropByte]
    | succ n =>
      rw [dropByte_succ, ih, copyAt_dropClean, List.take_succ_cons]
      by_cases hb : b = a <;> by_cases hk : l = k <;> by_cases hp : l ∈ p.take n <;> simp [hb, hk, hp]

/-- DropBelow for one byte of an agent's path. -/
def dropStep (ag : Agent) (sc : Scope) (s : State) (a : Nat) : State :=
  dropByte a (pathAbove s ag sc a).1 (pathAbove s ag sc a).2 s

theorem copiesOnly_dropStep (ag : Agent) (sc : Scope) (s : State) (a : Nat) : CopiesOnly s (dropStep ag sc s a) :=
  dropByte_induction (R := CopiesOnly s) _ (fun u l _ h => h.trans (copiesOnly_dropCopy u l a)) (.refl s)

theorem copiesOnly_dropAddrs (s : State) (ag : Agent) (sc : Scope) (as : List Nat) : CopiesOnly s (dropAddrs s ag sc as) := by
  change CopiesOnly s (as.foldl (dropStep ag sc) s)
  induction as generalizing s with
  | nil => exact .refl s
  | cons a as ih => exact (copiesOnly_dropStep ag sc s a).trans (ih _)

theorem copyAt_dropAddrs (s : State) (ag : Agent) (sc : Scope) (as : List Nat) (l : Level) (b : Nat) :
    copyAt (dropAddrs s ag sc as) l b =
      if b ∈ as ∧ l ∈ above s ag sc b then (copyAt s l b).filter (·.dirty) else copyAt s l b := by
  change copyAt (as.foldl (dropStep ag sc) s) l b = _
  induction as generalizing s with
  | nil => simp
  | cons a as ih =>
    have hstep : copyAt (dropStep ag sc s a) l b =
        if b = a ∧ l ∈ above s ag sc a then (copyAt s l b).filter (·.dirty) else copyAt s l b := copyAt_dropByte ..
    rw [List.foldl_cons, ih, (copiesOnly_dropStep ag sc s a).sameHomes.above, hstep]
    by_cases hb : b = a
    · subst hb
      by_cases hl : l ∈ above s ag sc b <;> by_cases hm : b ∈ as <;> simp [hl, hm]
    · simp [hb]

/-- The addresses of a level's clean copies. -/
def cleanKeys (s : State) (l : Level) : List Nat := ((levelMap s l).filter fun e => !e.2.dirty).map (·.1)

theorem mem_cleanKeys {s : State} {l : Level} {a : Nat} {c : Copy} (hc : copyAt s l a = some c) (hd : c.dirty = false) :
    a ∈ cleanKeys s l := List.mem_map.mpr ⟨(a, c), List.mem_filter.mpr ⟨mem_of_aFind hc, by simp [hd]⟩, rfl⟩

/-- An agent drops the clean bytes of each level of its paths. -/
theorem mem_heldWhere_clean {s : State} {ag : Agent} {a b : Nat} {l : Level} (hl : l ∈ path s ag a) (hb : b ∈ cleanKeys s l) :
    b ∈ heldWhere s ag fun c => !c.dirty := by
  cases ag with
  | thread core _ _ =>
    simp only [path, List.mem_append, List.mem_cons, List.not_mem_nil, or_false, List.mem_ite_nil_right] at hl
    rw [heldWhere, List.mem_append, List.mem_append]
    rcases hl with (rfl | rfl) | ⟨_, rfl⟩
    · exact .inl (.inl hb)
    · exact .inl (.inr hb)
    · exact .inr hb
  | engine core _ _ =>
    simp only [path, List.mem_append, List.mem_cons, List.not_mem_nil, or_false, List.mem_ite_nil_right] at hl
    rw [heldWhere, List.mem_append]
    rcases hl with rfl | ⟨_, rfl⟩
    · exact .inl hb
    · exact .inr hb
  | stream h _ =>
    simp only [path, List.mem_cons, List.not_mem_nil, or_false, List.mem_ite_nil_right] at hl
    obtain ⟨_, rfl⟩ := hl
    exact hb
  | hub _ _ => exact absurd hl List.not_mem_nil
  | host => exact absurd hl List.not_mem_nil

theorem copiesOnly_dropAll (s : State) (ag : Agent) (sc : Scope) : CopiesOnly s (dropAll s ag sc) := by
  unfold dropAll
  split
  · exact .refl s
  · exact copiesOnly_dropAddrs ..

/-- DropBelow of all (R268): each clean copy above the point is gone, and no other copy. -/
theorem copyAt_dropAll (s : State) (ag : Agent) (sc : Scope) (l : Level) (a : Nat) :
    copyAt (dropAll s ag sc) l a = if l ∈ above s ag sc a then (copyAt s l a).filter (·.dirty) else copyAt s l a := by
  unfold dropAll
  split
  next hsc => rw [hsc, above_team, if_neg List.not_mem_nil]
  next =>
    rw [copyAt_dropAddrs]
    by_cases hl : l ∈ above s ag sc a
    · by_cases ha : a ∈ heldWhere s ag fun c => !c.dirty
      · simp [ha, hl]
      · rw [if_neg fun h => ha h.1, if_pos hl]
        cases hc : copyAt s l a with
        | none => rfl
        | some c =>
          have hd : c.dirty = true := Bool.eq_true_of_not_eq_false fun hd =>
            ha (mem_heldWhere_clean (above_subset_path _ _ _ _ hl) (mem_cleanKeys hc hd))
          simp [hd, Option.filter]
    · simp [hl]

/-- A thread's DropBelow at cluster scope acts on its L1 alone. -/
theorem dropAll_cluster_frame (s : State) (core team ctx : Nat) :
    dropAll s (.thread core team ctx) .cluster = { s with cores := (dropAll s (.thread core team ctx) .cluster).cores } := by
  have hstep (u : State) (a : Nat) : dropStep (.thread core team ctx) .cluster u a =
      { u with cores := (dropStep (.thread core team ctx) .cluster u a).cores } := by
    refine dropByte_induction (R := fun v => v = { u with cores := v.cores }) _ (fun v l hl hv => ?_) rfl
    have hl1 : l = .l1 core := by
      have h := above_cluster u core team ctx a
      rw [above] at h
      rw [h] at hl
      exact List.mem_singleton.mp hl
    rw [hl1, hv]
    rfl
  have hsteps (as : List Nat) : ∀ u, as.foldl (dropStep (.thread core team ctx) .cluster) u =
      { u with cores := (as.foldl (dropStep (.thread core team ctx) .cluster) u).cores } := by
    induction as with
    | nil => exact fun _ => rfl
    | cons a as ih =>
      intro u
      rw [List.foldl_cons]
      exact (ih _).trans (by rw [hstep])
  exact hsteps _ s

theorem droppedToCluster (s : State) (core team ctx : Nat) :
    DroppedToCluster s (dropAll s (.thread core team ctx) .cluster) core := by
  refine ⟨by rw [dropAll_cluster_frame], fun a => ?_⟩
  rw [copyAt_dropAll, above_cluster, if_pos List.mem_cons_self]
  cases copyAt s (.l1 core) a with
  | none => rfl
  | some c => cases hd : c.dirty <;> simp [hd, Option.filter]

end Sys2Proof.Proofs
end

section
/-! SUPPORT. The instructions of stash latches (R287) and of tumblers (R299-R303). -/

namespace Sys2Proof.Proofs
open Sys2Proof.Machine Sys2Proof.Claims

section
variable {i : Instr} {s : State} {g : Grp} {f : Grp → GrpRes}

/-- The group writes a scalar register of its band. -/
theorem onceScalar_of_perGroup (hg : grpOf s = some g) (hl : g.live ≠ []) (hi : exec i s = perGroup s f) {d : Nat} {v : DWord}
    (hf : f g = .ok (setBand s g.key (wrS g.band d v))) : OnceScalar i s g d v := by
  refine onceScalar_of_exec (f := fun _ => v) hg hl (hi.trans ?_)
  obtain ⟨guard, hcur⟩ := grpOf_cur hg
  simp only [scalarOp, hcur]
  rw [perGroup_at hg, hf]
  exact (perGroup_at hg fun g => .ok (setBand s g.key (wrS g.band d v))).symm

/-- The group writes its threads with a true guard. -/
theorem eachThread_of_perGroup (hg : grpOf s = some g) (hl : g.live ≠ []) (hi : exec i s = perGroup s f) {upd : Thread → Thread}
    (hf : f g = .ok (setBand s g.key (onLanes g.band g.live fun _ => upd))) {P : Nat → Thread → Thread → Prop}
    (hP : ∀ l, P l (threadOf g.band l) (moved (upd (threadOf g.band l)) g.next)) : EachThread i s g P := by
  obtain ⟨t, b', hnext, honly, hb', hframe, hby, hthreads⟩ := perGroup_ok hg hl
    (bandOf_setBand s g.key (onLanes g.band g.live fun _ => upd)) (onLanes_length ..) fun l h => threadOf_onLanes_out _ _ h
  refine ⟨t, b', ?_, ((bandBecomes_setBand ..).trans ⟨honly, hb'⟩).1, hb', hframe, hby, fun l hlt h => ?_⟩
  · rw [hi, perGroup_at hg, hf, hnext]
  · rw [hthreads l hlt h, threadOf_onLanes_in _ _ h hlt]
    exact hP l

end

/-! ### Latches (R287) -/

theorem latchOf_setLatch (tm : Team) (n : Nat) (x : Latch) : latchOf (setLatch tm n x) n = x := aGet_aSet_self ..

theorem latchOf_setLatch_ne {tm : Team} {n m : Nat} (h : m ≠ n) (x : Latch) : latchOf (setLatch tm n x) m = latchOf tm m :=
  aGet_aSet_ne h ..

/-- What LATW does to a slot. -/
def slotBack (tm : Team) (n : Nat) : Team := if (latchOf tm n).engine then returnSlot tm n else tm

theorem latchOf_slotBack (tm : Team) (n : Nat) : (latchOf (slotBack tm n) n).engine = false := by
  unfold slotBack
  split
  · exact congrArg Latch.engine (latchOf_setLatch tm n { engine := false, count := 0 })
  next h => exact Bool.eq_false_iff.mpr h

theorem latchOf_slotBack_ne {tm : Team} {n m : Nat} (h : m ≠ n) : latchOf (slotBack tm n) m = latchOf tm m := by
  unfold slotBack
  split
  · exact latchOf_setLatch_ne (tm := tm) h { engine := false, count := 0 }
  · rfl

theorem slotBack_frame (tm : Team) (n : Nat) :
    slotBack tm n = { tm with latches := (slotBack tm n).latches, early := (slotBack tm n).early } := by
  unfold slotBack
  split <;> rfl

theorem latchesOnly_trans {x y z : Team} (h : y = { x with latches := y.latches, early := y.early })
    (h' : z = { y with latches := z.latches, early := z.early }) : z = { x with latches := z.latches, early := z.early } :=
  h'.trans (by rw [h])

theorem slotsBack_frame (ns : List Nat) (tm : Team) :
    ns.foldl slotBack tm = { tm with latches := (ns.foldl slotBack tm).latches, early := (ns.foldl slotBack tm).early } := by
  induction ns generalizing tm with
  | nil => rfl
  | cons n ns ih => exact latchesOnly_trans (slotBack_frame tm n) (ih _)

theorem latchOf_slotsBack_out {ns : List Nat} {m : Nat} (h : m ∉ ns) (tm : Team) : latchOf (ns.foldl slotBack tm) m = latchOf tm m := by
  induction ns generalizing tm with
  | nil => rfl
  | cons n ns ih =>
    exact (ih (List.not_mem_of_not_mem_cons h) _).trans (latchOf_slotBack_ne (List.ne_of_not_mem_cons h))

theorem latchOf_slotsBack {ns : List Nat} {m : Nat} (h : m ∈ ns) (tm : Team) : (latchOf (ns.foldl slotBack tm) m).engine = false := by
  induction ns generalizing tm with
  | nil => exact absurd h List.not_mem_nil
  | cons n ns ih =>
    by_cases hm : m ∈ ns
    · exact ih hm _
    · obtain rfl := (List.mem_cons.mp h).resolve_right hm
      rw [List.foldl_cons, latchOf_slotsBack_out hm, latchOf_slotBack]

theorem mem_latchSlots {v : DWord} {count : Word} {n : Nat} : n ∈ addrRange (v.toNat % 512) count.toNat ↔ InRange v count n :=
  mem_addrRange

theorem latchRange_ok {tm : Team} {v : DWord} {count : Word} (h : v.toNat % 512 + count.toNat ≤ tm.slotCount) :
    latchRange tm v count = .ok (addrRange (v.toNat % 512) count.toNat) := by
  rw [latchRange]
  exact if_neg (Nat.not_lt.mpr h)

/-- What a thread's DropBelow at cluster scope, if an instruction has one, leaves. -/
theorem dropped_if (u : State) (cluster : Bool) (core team ctx : Nat) :
    (if cluster then dropAll u (.thread core team ctx) .cluster else u) =
      { u with cores := (if cluster then dropAll u (.thread core team ctx) .cluster else u).cores } := by
  split
  · exact dropAll_cluster_frame ..
  · rfl

section
variable {s : State} {g : Grp} {tm : Team} (h : OfTeam s g tm) (hl : g.live ≠ [])
include h hl

theorem latg_issues {o : Latg} (hrange : (rdS g.band o.a.val).toNat % 512 + o.count.toNat ≤ tm.slotCount) :
    IssuesFor (.latg o) s g tm (everyLane g) (.latg (addrRange ((rdS g.band o.a.val).toNat % 512) o.count.toNat) (laneMask g.live)) := by
  refine issuesFor_of_perGroup h hl (exec_latg s o) (.refl _ s) ?_
  rw [teamOf_ofTeam h]
  dsimp only
  rw [latchRange_ok hrange]
  rfl

theorem latw_returns {o : Latw} (hrange : (rdS g.band o.a.val).toNat % 512 + o.count.toNat ≤ tm.slotCount)
    (hidle : ∀ n, InRange (rdS g.band o.a.val) o.count n → (latchOf tm n).engine = true → (latchOf tm n).count = 0) :
    TeamStep (.latw o) s g fun t tm' b' => GoneOn g b' ∧
      (o.cluster = false → CachesKept s t) ∧ (o.cluster = true → DroppedToCluster s t g.core) ∧
      tm' = { tm with latches := tm'.latches, early := tm'.early } ∧
      ∀ n, (InRange (rdS g.band o.a.val) o.count n → (latchOf tm' n).engine = false) ∧
        (¬ InRange (rdS g.band o.a.val) o.count n → latchOf tm' n = latchOf tm n) := by
  obtain ⟨hg, htm, -⟩ := h
  let slots := addrRange ((rdS g.band o.a.val).toNat % 512) o.count.toNat
  let u := setTeam s g.band.team (slots.foldl slotBack tm)
  have hnone : (slots.any fun n => (latchOf tm n).engine && (latchOf tm n).count != 0) = false := by
    refine List.any_eq_false.mpr fun n hn => ?_
    simpa using hidle n (mem_latchSlots.mp hn)
  have hctx : teamOf u g.band.team = some (slots.foldl slotBack tm) := teamOf_setTeam ..
  have hagent : grpAgent u g = .thread g.core g.band.team tm.ctx := by
    rw [grpAgent_eq hctx, slotsBack_frame]
  have hframe := dropped_if u o.cluster g.core g.band.team tm.ctx
  refine teamStep_of_perGroup hg hl (exec_latw s o) (u := if o.cluster then dropAll u (grpAgent u g) .cluster else u) ?_ ?_
    (tm' := slots.foldl slotBack tm) ?_ (fun j hj => ?_) fun t b' hcores hclusters hgone =>
      ⟨hgone, fun hc => ?_, fun hc => ?_, slotsBack_frame .., fun n => ⟨fun hn => latchOf_slotsBack (mem_latchSlots.mpr hn) tm,
        fun hn => latchOf_slotsBack_out (fun h => hn (mem_latchSlots.mp h)) tm⟩⟩
  · rw [htm]
    dsimp only
    rw [latchRange_ok hrange]
    dsimp only
    rw [hnone]
    rfl
  · rw [hagent, hframe]
    rfl
  · rw [hagent, hframe]
    exact hctx
  · rw [hagent, hframe]
    exact teamOf_setTeam_ne _ hj _
  · rw [hc] at hcores hclusters
    exact ⟨hcores, hclusters⟩
  · rw [hagent, hc] at hcores hclusters
    obtain ⟨hcl, hl1⟩ := droppedToCluster u g.core g.band.team tm.ctx
    refine ⟨hclusters.trans hcl, fun a => ?_⟩
    rw [copyAt, levelMap, coreOf, hcores]
    exact hl1 a

theorem latw_waits {o : Latw} (hrange : (rdS g.band o.a.val).toNat % 512 + o.count.toNat ≤ tm.slotCount)
    (hbusy : ∃ n, InRange (rdS g.band o.a.val) o.count n ∧ (latchOf tm n).engine = true ∧ (latchOf tm n).count ≠ 0) :
    GroupWaits (.latw o) s g (.polled stLatch) := by
  obtain ⟨n, hn, hengine, hcount⟩ := hbusy
  have hsome : ((addrRange ((rdS g.band o.a.val).toNat % 512) o.count.toNat).any fun n =>
      (latchOf tm n).engine && (latchOf tm n).count != 0) = true :=
    List.any_eq_true.mpr ⟨n, mem_latchSlots.mpr hn, by simp [hengine, hcount]⟩
  refine groupWaits_of_perGroup h.1 hl (exec_latw s o) ?_
  rw [teamOf_ofTeam h]
  dsimp only
  rw [latchRange_ok hrange]
  dsimp only
  rw [hsome]
  rfl

end

theorem latches : Latches := fun _ _ _ h hl =>
  ⟨fun _ hrange => ⟨_, fun _ => mem_latchSlots, latg_issues h hl hrange⟩,
    fun _ hrange => ⟨latw_returns h hl hrange, fun hbusy => ⟨_, latw_waits h hl hrange hbusy⟩⟩⟩

/-! ### Tumblers (R299-R303) -/

theorem tumblerOf_setTumbler (tm : Team) (k : Nat) (x : Tumbler) : tumblerOf (setTumbler tm k x) k = x := by
  rw [tumblerOf, setTumbler, aGet, aFind_aInsert_self]
  rfl

theorem tumblerOf_setTumbler_ne {tm : Team} {k n : Nat} (h : n ≠ k) (x : Tumbler) : tumblerOf (setTumbler tm k x) n = tumblerOf tm n := by
  rw [tumblerOf, setTumbler, aGet, aFind_aInsert_ne h]
  rfl

/-- A tumbler instruction on a tumbler that its team has. -/
theorem onTumbler_at {s : State} {g : Grp} {tm : Team} (h : OfTeam s g tm) {k : Nat} (hk : k < tm.tumblerCount)
    (f : Grp → Team → GrpRes) : onTumbler s k f = perGroup s fun _ => f g tm := by
  rw [onTumbler, perGroup_at h.1, teamOf_ofTeam h]
  dsimp only
  rw [tumblerRange, if_neg (Nat.not_le.mpr hk)]

theorem observe_frame (tm : Team) (band : Nat) (lanes : List Nat) (ch n : Nat) :
    observe tm band lanes ch n = { tm with observed := (observe tm band lanes ch n).observed } := rfl

theorem seenAt_eq (band lane ch : Nat) : observedKey band lane ch = seenAt band lane ch := rfl

/-- The count of each place of `observed` never falls. -/
theorem observed_mono (band ch n : Nat) (lanes : List Nat) (m : AList Nat) (k : Nat) : aGet 0 k m ≤ aGet 0 k
    (lanes.foldl (fun m l => aSet 0 (observedKey band l ch) (max n (aGet 0 (observedKey band l ch) m)) m) m) := by
  induction lanes generalizing m with
  | nil => exact le_rfl
  | cons l lanes ih =>
    refine le_trans ?_ (ih _)
    rw [aGet_aSet]
    split
    next h => exact h ▸ le_max_right ..
    next => exact le_rfl

theorem observed_ge (band ch n : Nat) {lanes : List Nat} {l : Nat} (hl : l ∈ lanes) (m : AList Nat) : n ≤ aGet 0 (observedKey band l ch)
    (lanes.foldl (fun m l => aSet 0 (observedKey band l ch) (max n (aGet 0 (observedKey band l ch) m)) m) m) := by
  induction lanes generalizing m with
  | nil => exact absurd hl List.not_mem_nil
  | cons x lanes ih =>
    rcases List.mem_cons.mp hl with rfl | hl
    · refine le_trans (le_of_le_of_eq (le_max_left ..) (aGet_aSet_self ..).symm) (observed_mono ..)
    · exact ih hl _

/-- What a thread has seen of one channel when it has observed an arrival at a tumbler. -/
def seeChannel (team k band : Nat) (lanes : List Nat) (tm : Team) (q : Nat × Channel) : Team :=
  match q.2.queue with
  | c :: _ => if c.team == team && c.tumb == some k then observe tm band lanes q.1 c.counted else tm
  | [] => tm

section
variable (team k band : Nat) (lanes : List Nat)

theorem seeChannel_frame (tm : Team) (q : Nat × Channel) :
    seeChannel team k band lanes tm q = { tm with observed := (seeChannel team k band lanes tm q).observed } := by
  unfold seeChannel
  split
  · split <;> rfl
  · rfl

theorem seeChannel_mono (tm : Team) (q : Nat × Channel) (j : Nat) :
    aGet 0 j tm.observed ≤ aGet 0 j (seeChannel team k band lanes tm q).observed := by
  unfold seeChannel
  split
  · split
    · exact observed_mono ..
    · exact le_rfl
  · exact le_rfl

theorem seeChannel_sees (tm : Team) {ch : Nat} {q : Channel} {c : Command} {rest : List Command} (hq : q.queue = c :: rest)
    (hteam : c.team = team) (htumb : c.tumb = some k) {l : Nat} (hl : l ∈ lanes) :
    c.counted ≤ aGet 0 (seenAt band l ch) (seeChannel team k band lanes tm (ch, q)).observed := by
  have hsee : seeChannel team k band lanes tm (ch, q) = observe tm band lanes ch c.counted := by
    unfold seeChannel
    rw [hq]
    simp [hteam, htumb]
  rw [hsee, ← seenAt_eq]
  exact observed_ge band ch c.counted hl tm.observed

theorem observedOnly_trans {x y z : Team} (h : y = { x with observed := y.observed }) (h' : z = { y with observed := z.observed }) :
    z = { x with observed := z.observed } := h'.trans (by rw [h])

theorem seeChannels_frame (qs : List (Nat × Channel)) (tm : Team) : qs.foldl (seeChannel team k band lanes) tm =
    { tm with observed := (qs.foldl (seeChannel team k band lanes) tm).observed } := by
  induction qs generalizing tm with
  | nil => rfl
  | cons q qs ih => exact observedOnly_trans (seeChannel_frame ..) (ih _)

theorem seeChannels_mono (qs : List (Nat × Channel)) (tm : Team) (j : Nat) :
    aGet 0 j tm.observed ≤ aGet 0 j (qs.foldl (seeChannel team k band lanes) tm).observed := by
  induction qs generalizing tm with
  | nil => exact le_rfl
  | cons q qs ih => exact le_trans (seeChannel_mono ..) (ih _)

theorem seeChannels_sees {qs : List (Nat × Channel)} {ch : Nat} {q : Channel} (hmem : (ch, q) ∈ qs) (tm : Team) {c : Command}
    {rest : List Command} (hq : q.queue = c :: rest) (hteam : c.team = team) (htumb : c.tumb = some k) {l : Nat} (hl : l ∈ lanes) :
    c.counted ≤ aGet 0 (seenAt band l ch) (qs.foldl (seeChannel team k band lanes) tm).observed := by
  induction qs generalizing tm with
  | nil => exact absurd hmem List.not_mem_nil
  | cons x qs ih =>
    rcases List.mem_cons.mp hmem with rfl | hmem
    · exact le_trans (seeChannel_sees team k band lanes tm hq hteam htumb hl) (seeChannels_mono ..)
    · exact ih hmem _

end

theorem observeTumbler_eq {s : State} {team k band : Nat} {lanes : List Nat} {tm : Team} (h : teamOf s team = some tm) :
    observeTumbler s team k band lanes = if (coreOf s tm.core).channels.isEmpty then s
      else setTeam s team ((coreOf s tm.core).channels.foldl (seeChannel team k band lanes) tm) := by
  rw [observeTumbler, h]
  rfl

/-- A team whose threads have observed a tumbler's arrivals. -/
structure Observed (s u : State) (key k band : Nat) (lanes : List Nat) (tm tm' : Team) : Prop where
  frame : u = { s with teams := u.teams }
  team : teamOf u key = some tm'
  others : ∀ j, j ≠ key → teamOf u j = teamOf s j
  only : tm' = { tm with observed := tm'.observed }
  idle : (coreOf s tm.core).channels = [] → tm' = tm
  mono : ∀ j, aGet 0 j tm.observed ≤ aGet 0 j tm'.observed
  seen : ∀ ch q c rest, (ch, q) ∈ (coreOf s tm.core).channels → q.queue = c :: rest → c.team = key → c.tumb = some k →
    ∀ l ∈ lanes, c.counted ≤ aGet 0 (seenAt band l ch) tm'.observed

theorem observed_observeTumbler {s : State} {team : Nat} {tm : Team} (k band : Nat) (lanes : List Nat) (h : teamOf s team = some tm) :
    ∃ tm', Observed s (observeTumbler s team k band lanes) team k band lanes tm tm' := by
  rw [observeTumbler_eq h]
  split
  next hnone =>
    have hnil := List.isEmpty_iff.mp hnone
    refine ⟨tm, rfl, h, fun _ _ => rfl, rfl, fun _ => rfl, fun _ => le_rfl, fun ch q c rest hmem => ?_⟩
    rw [hnil] at hmem
    exact absurd hmem List.not_mem_nil
  next hsome =>
    refine ⟨_, rfl, teamOf_setTeam .., fun j hj => teamOf_setTeam_ne _ hj _, seeChannels_frame .., fun hnil => ?_,
      fun j => seeChannels_mono .., fun ch q c rest hmem hq hteam htumb l hl => seeChannels_sees _ _ _ _ hmem tm hq hteam htumb hl⟩
    exact absurd (List.isEmpty_iff.mpr hnil) hsome

/-- The EXPECT that a TINIT names. -/
def tinitValue (b : Band) (o : Tinit) : Nat := match o.v with | .reg r => (rdS b r.val).toNat | .imm v => v.toNat

/-- The units of a TARV. -/
def tarvUnits (g : Grp) (o : Tarv) : Nat := match o.count with | some c => c.toNat | none => g.live.length

section
variable {s : State} {g : Grp} {tm : Team} (h : OfTeam s g tm) (hl : g.live ≠ [])
include h hl

theorem tinit_sets {o : Tinit} (hk : o.t.val < tm.tumblerCount) (hpos : 0 < tinitValue g.band o) (hmax : tinitValue g.band o < 65536) :
    TeamStep (.tinit o) s g fun t tm' b' => GoneOn g b' ∧ CachesKept s t ∧ tm' = { tm with tumblers := tm'.tumblers } ∧
      tumblerOf tm' o.t.val =
        { expect := BitVec.ofNat 16 (tinitValue g.band o), arrived := 0, phase := (tumblerOf tm o.t.val).phase } ∧
      ∀ n, n ≠ o.t.val → tumblerOf tm' n = tumblerOf tm n := by
  have hfits : ¬ (tinitValue g.band o = 0 ∨ 65535 < tinitValue g.band o) := by omega
  exact teamStep_of_perGroup h.1 hl ((exec_tinit s o).trans (onTumbler_at h hk _)) (if_neg hfits) rfl (teamOf_setTeam ..)
    (fun j hj => teamOf_setTeam_ne _ hj _) fun t b' hcores hclusters hgone =>
      ⟨hgone, ⟨hcores, hclusters⟩, rfl, tumblerOf_setTumbler .., fun n hn => tumblerOf_setTumbler_ne hn _⟩

theorem tarv_issues {o : Tarv} (hk : o.t.val < tm.tumblerCount) (hexpect : 0 < (tumblerOf tm o.t.val).expect.toNat) :
    IssuesOnce (.tarv o) s g tm (.tarv o.t.val (tarvUnits g o) o.cluster) := by
  have hne : (tumblerOf tm o.t.val).expect ≠ 0 := fun h0 => by simp [h0] at hexpect
  exact issuesFor_of_perGroup h hl ((exec_tarv s o).trans (onTumbler_at h hk _)) (.refl _ s) (if_pos hne)

theorem twait_goes {o : Twait} (hk : o.t.val < tm.tumblerCount)
    (hphase : (tumblerOf tm o.t.val).phase ≠ tumblerBit g.band o.t.val o.parity) :
    TeamStep (.twait o) s g fun t tm' b' => GoneOn g b' ∧ (o.cluster = false → CachesKept s t) ∧
      (o.cluster = true → DroppedToCluster s t g.core) ∧ tm' = { tm with observed := tm'.observed } ∧
      ((coreOf s tm.core).channels = [] → tm' = tm) ∧ (∀ k, aGet 0 k tm.observed ≤ aGet 0 k tm'.observed) ∧
      ∀ ch q c rest, (ch, q) ∈ (coreOf s tm.core).channels → q.queue = c :: rest → c.team = g.band.team →
        c.tumb = some o.t.val →
        ∀ l ∈ g.live, c.counted ≤ aGet 0 (seenAt g.key l ch) tm'.observed := by
  obtain ⟨tm', hu⟩ := observed_observeTumbler o.t.val g.key g.live h.2.1
  generalize hobs : observeTumbler s g.band.team o.t.val g.key g.live = u at hu
  have hagent : grpAgent u g = .thread g.core g.band.team tm.ctx := by rw [grpAgent_eq hu.team, hu.only]
  have hframe := dropped_if u o.cluster g.core g.band.team tm.ctx
  have hkept : CachesKept s u := ⟨by rw [hu.frame], by rw [hu.frame]⟩
  refine teamStep_of_perGroup h.1 hl ((exec_twait s o).trans (onTumbler_at h hk _))
    (u := if o.cluster then dropAll u (grpAgent u g) .cluster else u) ?_ ?_ (tm' := tm') ?_ (fun j hj => ?_)
    fun t b' hcores hclusters hgone => ⟨hgone, fun hc => ?_, fun hc => ?_, hu.only, hu.idle, hu.mono, hu.seen⟩
  · rw [← hobs]
    exact if_neg hphase
  · rw [hagent, hframe, hu.frame]
  · rw [hagent, hframe]
    exact hu.team
  · rw [hagent, hframe]
    exact hu.others j hj
  · rw [hc] at hcores hclusters
    exact ⟨hcores.trans hkept.1, hclusters.trans hkept.2⟩
  · rw [hagent, hc] at hcores hclusters
    obtain ⟨hcl, hl1⟩ := droppedToCluster u g.core g.band.team tm.ctx
    refine ⟨hclusters.trans (hcl.trans hkept.2), fun a => ?_⟩
    rw [copyAt, levelMap, coreOf, hcores]
    refine (hl1 a).trans ?_
    rw [hu.frame]
    rfl

theorem twait_waits {o : Twait} (hk : o.t.val < tm.tumblerCount)
    (hphase : (tumblerOf tm o.t.val).phase = tumblerBit g.band o.t.val o.parity) :
    GroupWaits (.twait o) s g (.tumbler o.t.val o.cluster) :=
  groupWaits_of_perGroup h.1 hl ((exec_twait s o).trans (onTumbler_at h hk _)) (if_pos hphase)

theorem ttest_tests {o : Ttest} (hk : o.t.val < tm.tumblerCount) {pd : Fin 16} {parity : Option Bool}
    (ho : o.what = .test pd parity) : EachThread (.ttest o) s g fun _ t t' =>
      PutsP g.next pd.val (decide ((tumblerOf tm o.t.val).phase ≠ tumblerBit g.band o.t.val parity)) t t' := by
  have hbit (x y : Bool) : decide (x ≠ y) = (x != y) := by cases x <;> cases y <;> rfl
  refine eachThread_of_perGroup h.1 hl ((exec_ttest s o).trans (onTumbler_at h hk _)) (by rw [ho]) fun l => ?_
  rw [hbit]
  exact putsP_wrP ..

theorem ttest_reads {o : Ttest} (hk : o.t.val < tm.tumblerCount) {d : Fin 64} (ho : o.what = .phase d) :
    OnceScalar (.ttest o) s g d.val (tumblerWord (tumblerOf tm o.t.val) (pexpOf g.band o.t.val)) :=
  onceScalar_of_perGroup h.1 hl ((exec_ttest s o).trans (onTumbler_at h hk _)) (by rw [ho])

end

theorem tumblerWord_eq (x : Tumbler) (pexp : Bool) : tumblerWord x pexp =
    BitVec.ofNat 64 (x.arrived.toNat + x.expect.toNat * 2 ^ 16 + (if x.phase then 2 ^ 32 else 0) + if pexp then 2 ^ 33 else 0) := by
  rw [tumblerWord]
  cases x.phase <;> cases pexp <;> rfl

theorem tumblers : Tumblers := fun s g tm h hl =>
  ⟨fun o hk hpos hmax => tinit_sets h hl hk hpos hmax, fun o hk hexpect => tarv_issues h hl hk hexpect,
    fun o hk => ⟨fun hphase => twait_goes h hl hk hphase, fun hphase => twait_waits h hl hk hphase⟩,
    fun o hk => ⟨fun pd parity ho => ttest_tests h hl hk ho, fun d ho => by
      rw [← tumblerWord_eq]
      exact ttest_reads h hl hk ho⟩⟩

end Sys2Proof.Proofs
end

section
/-! SUPPORT. The order of pending operations (R271), and an operation performed alone (R269); LATG performed. -/

namespace Sys2Proof.Proofs
open Sys2Proof.Machine Sys2Proof.Claims

/-! ### The order of operations (R271) -/

theorem reads_iff (k : PendKind) : k.reads = true ↔ Reads k := by cases k <;> simp [PendKind.reads, Reads]

theorem writes_iff (k : PendKind) : k.writes = true ↔ Writes k := by cases k <;> simp [PendKind.writes, Writes]

theorem acquires_iff (k : PendKind) : k.acquires = true ↔ Acquires k := by
  cases k <;> simp [PendKind.acquires, Acquires, Option.isSome_iff_ne_none]

theorem releases_iff (k : PendKind) : k.releases = true ↔ Releases k := by
  cases k <;> simp [PendKind.releases, Releases, Option.isSome_iff_ne_none]

theorem access_eq (k : PendKind) : k.access = accessOf k := by
  cases k <;> simp [PendKind.access, accessOf, widthBytes_eq]

theorem onStashBytes_iff {s : State} {o : PendOp} : onStashBytes s o = true ↔ ∃ team off, AtStash s o team off := by
  unfold onStashBytes AtStash
  rw [access_eq]
  cases haccess : accessOf o.kind with
  | none => simp
  | some p =>
    obtain ⟨loc, n⟩ := p
    cases hplace : placeOf s o.agent loc true <;> simp [hplace]

theorem releaseAfter_iff {s : State} {x y : PendOp} : releaseAfter s x y = true ↔ ReleasesAfter s x y := by
  unfold releaseAfter ReleasesAfter
  cases hk : y.kind <;> simp [releases_iff, onStashBytes_iff]

theorem not_ofTeam_iff {ag : Agent} {k : Nat} : (agentTeam ag != some k) = true ↔
    ∀ core ctx, ag ≠ .thread core k ctx ∧ ag ≠ .engine core k ctx := by
  cases ag <;> simp [agentTeam]

theorem opBlocked_iff {s : State} {o : PendOp} : opBlocked s o = true ↔ HeldAtWindow s o := by
  unfold opBlocked HeldAtWindow AtStash
  rw [access_eq]
  cases haccess : accessOf o.kind with
  | none => simp
  | some p =>
    obtain ⟨loc, n⟩ := p
    cases hplace : placeOf s o.agent loc true with
    | stash k off =>
      cases hteam : teamOf s k with
      | none => simp [hplace, hteam]
      | some tm => simp only [hplace, hteam, Bool.and_eq_true, not_ofTeam_iff]; aesop
    | mem a => simp [hplace]
    | zeros => simp [hplace]
    | revive l a => simp [hplace]
    | gone => simp [hplace]

theorem mustPrecede_iff {s : State} {x o : PendOp} : mustPrecede s x o = true ↔
    (Earlier x o ∧ (Acquires x.kind ∨ ReleasesAfter s x o ∨ (Reads x.kind ∧ ∃ sc, o.kind = .fence .acq sc) ∨
        ((∃ sc, x.kind = .fence .rel sc) ∧ Writes o.kind) ∨ opsMeet s x o = true)) ∨
      (x.issuer = o.issuer ∧ x.seq = o.seq ∧ Writes x.kind ∧ Writes o.kind ∧ laneMask x.lanes < laneMask o.lanes ∧
        opsMeet s x o = true) := by
  rw [mustPrecede, Bool.and_eq_true, beq_iff_eq, Earlier]
  by_cases hseq : x.seq = o.seq
  · simp [hseq, writes_iff, and_assoc]
  rw [if_neg hseq]
  by_cases hearlier : x.seq < o.seq ∧ ∃ l, l ∈ x.lanes ∧ l ∈ o.lanes
  · rw [if_pos (by simpa using hearlier)]
    simp only [hseq, hearlier, false_and, and_false, or_false, and_true]
    refine and_congr_right fun _ => ?_
    simp only [Bool.or_eq_true, Bool.and_eq_true, acquires_iff, releaseAfter_iff, reads_iff, writes_iff, or_assoc]
    refine or_congr_right (or_congr_right (or_congr (and_congr_right fun _ => ?_) (or_congr_left (and_congr_left fun _ => ?_))))
    · rcases o.kind with _ | _ | _ | ⟨_ | _, _⟩ | _ | _ | _ | _ | _ | _ <;> simp
    · rcases x.kind with _ | _ | _ | ⟨_ | _, _⟩ | _ | _ | _ | _ | _ | _ <;> simp
  · rw [if_neg (by simpa using hearlier)]
    simp [hseq, hearlier]

theorem mayPerform_iff {s : State} {i : Nat} {o : PendOp} (ho : s.pending[i]? = some o) : mayPerform s i = true ↔
    ¬ HeldAtWindow s o ∧ ∀ x ∈ s.pending, mustPrecede s x o = false := by
  rw [mayPerform, ho]
  simp [← opBlocked_iff]

/-- The space of a byte, as the model numbers it: 0 the global bytes, team + 1 a stash. -/
def spaceNum (space : Option Nat) : Nat := space.elim 0 (· + 1)

theorem range_of_onByte {s : State} {o : PendOp} {space : Option Nat} {b : Nat} (hb : OnByte s o (space, b)) :
    ∃ a n, (spaceNum space, a, n) ∈ opRanges s o ∧ a ≤ b ∧ b < a + n := by
  rcases hb with ⟨loc, n, a, haccess, hle, hlt, hplace⟩ | ⟨inval, sc, ranges, all, hkind, rfl, hin⟩
  · have hranges : opRanges s o = (placeRange s o.agent loc n).toList := by
      rw [← access_eq] at haccess
      unfold opRanges
      cases hk : o.kind <;> simp_all [PendKind.access]
    refine ⟨a, n, ?_, hle, hlt⟩
    rw [hranges, Option.mem_toList, placeRange]
    rcases hplace with ⟨rfl, hmem | ⟨l, hrevive⟩⟩ | ⟨team, rfl, hstash⟩
    · rw [hmem]; rfl
    · rw [hrevive]; rfl
    · rw [hstash]; rfl
  · rw [opRanges, hkind]
    cases all with
    | true => exact ⟨0, 2 ^ 112, by simp [spaceNum], Nat.zero_le _, by simpa using hin⟩
    | false =>
      obtain ⟨r, hr, hle, hlt⟩ : ∃ r ∈ ranges, r.1 ≤ b ∧ b < r.1 + r.2 := by simpa using hin
      exact ⟨r.1, r.2, by simpa [spaceNum] using hr, hle, hlt⟩

theorem opsMeet_of_onByte {s : State} {x y : PendOp} {b : Option Nat × Nat} (hx : OnByte s x b) (hy : OnByte s y b) :
    opsMeet s x y = true := by
  obtain ⟨a, n, hp, hale, halt⟩ := range_of_onByte (space := b.1) (b := b.2) hx
  obtain ⟨c, m, hq, hcle, hclt⟩ := range_of_onByte (space := b.1) (b := b.2) hy
  refine List.any_eq_true.mpr ⟨_, hp, List.any_eq_true.mpr ⟨_, hq, ?_⟩⟩
  simp only [rangesMeet, beq_self_eq_true, Bool.true_and, Bool.and_eq_true, decide_eq_true_eq]
  omega

theorem keyReleaseWaits : KeyReleaseWaits := by
  intro s i base granules loc sc dst o x ho hk hx hearlier
  by_contra hmay
  have hnone := ((mayPerform_iff ho).mp (Bool.eq_true_of_not_eq_false hmay)).2 x hx
  refine Bool.false_ne_true (hnone.symm.trans (mustPrecede_iff.mpr (.inl ⟨hearlier, .inr (.inl ?_)⟩)))
  rw [ReleasesAfter, hk]
  trivial

theorem operationOrder : OperationOrder := by
  intro s i o ho
  refine ⟨?_, fun x hx hearlier ⟨b, hbx, hbo⟩ => ?_⟩
  · rw [mayPerform_iff ho]
    refine and_congr_right fun _ => forall_congr' fun x => forall_congr' fun _ => ?_
    rw [← Bool.not_eq_true, mustPrecede_iff, not_or]
  · by_contra hmay
    have hnone := ((mayPerform_iff ho).mp (Bool.eq_true_of_not_eq_false hmay)).2 x hx
    have hmeet := opsMeet_of_onByte hbx hbo
    exact Bool.false_ne_true (hnone.symm.trans (mustPrecede_iff.mpr (.inl ⟨hearlier, .inr (.inr (.inr (.inr hmeet)))⟩)))

/-! ### CleanBelow at cluster scope (R268) -/

theorem pathAbove_cluster (s : State) (core team ctx a : Nat) : ∃ rest, pathAbove s (.thread core team ctx) .cluster a =
    (.l1 core :: .cluster (core / 8) :: rest, 1) :=
  ⟨if remote s (hingeOfCore core) a then [.link (hingeOfCore core)] else [],
    by simp [pathAbove, path, levelRank, scopeRank, clusterOfCore, Config.coresPerCluster]⟩

section
variable (core team ctx : Nat)

/-- A thread's CleanBelow of a byte at cluster scope: a dirty copy in its L1 goes to its cluster's cache. -/
theorem cleanStep_cluster (s : State) (a : Nat) : ∃ rest,
    (∀ c, copyAt s (.l1 core) a = some c → c.dirty = true → cleanStep (.thread core team ctx) .cluster s a =
      handDown s a (.l1 core) (.cluster (core / 8) :: rest) c.value) ∧
    ((∀ c, copyAt s (.l1 core) a = some c → c.dirty = false) → cleanStep (.thread core team ctx) .cluster s a = s) := by
  obtain ⟨rest, hpath⟩ := pathAbove_cluster s core team ctx a
  refine ⟨rest, fun c hc hd => ?_, fun hclean => ?_⟩
  · rw [cleanStep, hpath, cleanByte_dirty hc hd, cleanByte]
    exact nofun
  · rw [cleanStep, hpath, cleanByte_skip hclean, cleanByte]
    exact nofun

theorem cleanStep_cluster_frame (s : State) (a : Nat) : cleanStep (.thread core team ctx) .cluster s a =
    { s with cores := (cleanStep (.thread core team ctx) .cluster s a).cores
             clusters := (cleanStep (.thread core team ctx) .cluster s a).clusters } := by
  obtain ⟨rest, hdirty, hclean⟩ := cleanStep_cluster core team ctx s a
  by_cases h : ∀ c, copyAt s (.l1 core) a = some c → c.dirty = false
  · rw [hclean h]
  · push Not at h
    obtain ⟨c, hc, hd⟩ := h
    rw [hdirty c hc (Bool.eq_true_of_not_eq_false hd)]
    rfl

theorem linesBack_cluster (s : State) (as : List Nat) : linesBack s (.thread core team ctx) .cluster as = [] := by
  rw [linesBack, List.filterMap_eq_nil_iff.mpr fun a _ => ?_]
  · rfl
  · obtain ⟨rest, hpath⟩ := pathAbove_cluster s core team ctx a
    simp [hpath, levelRank]

theorem cleanAll_cluster (s : State) : cleanAll s (.thread core team ctx) .cluster =
    (heldWhere s (.thread core team ctx) fun c => c.dirty).foldl (cleanStep (.thread core team ctx) .cluster) s := by
  rw [cleanAll, if_neg (by decide), cleanAddrs, linesBack_cluster]
  rfl

theorem cachesFrame_trans {s t u : State} (h : t = { s with cores := t.cores, clusters := t.clusters })
    (h' : u = { t with cores := u.cores, clusters := u.clusters }) : u = { s with cores := u.cores, clusters := u.clusters } :=
  h'.trans (by rw [h])

theorem cleanAll_cluster_frame (s : State) : cleanAll s (.thread core team ctx) .cluster =
    { s with cores := (cleanAll s (.thread core team ctx) .cluster).cores
             clusters := (cleanAll s (.thread core team ctx) .cluster).clusters } := by
  have hsteps (as : List Nat) : ∀ u, as.foldl (cleanStep (.thread core team ctx) .cluster) u =
      { u with cores := (as.foldl (cleanStep (.thread core team ctx) .cluster) u).cores
               clusters := (as.foldl (cleanStep (.thread core team ctx) .cluster) u).clusters } := by
    induction as with
    | nil => exact fun _ => rfl
    | cons a as ih => exact fun u => cachesFrame_trans (cleanStep_cluster_frame core team ctx u a) (ih _)
  rw [cleanAll_cluster]
  exact hsteps _ s

/-- A dirty copy of the L1 that is still there, or that has gone to the cluster's cache. -/
def OnItsWay (core a : Nat) (v : Byte) (u : State) : Prop :=
  copyAt u (.l1 core) a = some { value := v, dirty := true } ∨
    copyAt u (.l1 core) a = some { value := v, dirty := false } ∧
      copyAt u (.cluster (core / 8)) a = some { value := v, dirty := true }

theorem onItsWay_cleanStep {a : Nat} {v : Byte} {u : State} (h : OnItsWay core a v u) (b : Nat) :
    OnItsWay core a v (cleanStep (.thread core team ctx) .cluster u b) := by
  by_cases hb : b = a
  · subst hb
    obtain ⟨rest, hdirty, hclean⟩ := cleanStep_cluster core team ctx u b
    rcases h with h | h
    · rw [hdirty _ h rfl]
      exact .inr ⟨copyAt_handDown_self .., copyAt_handDown_next _ _ (by simp) _ _⟩
    · rw [hclean fun c hc => by rw [h.1] at hc; cases hc; rfl]
      exact .inr h
  · have hsame : SameByte u (cleanStep (.thread core team ctx) .cluster u b) a := cleanByte_others u (Ne.symm hb) _ _
    simpa only [OnItsWay, hsame.copies] using h

theorem cleanedToCluster (s : State) : CleanedToCluster s (cleanAll s (.thread core team ctx) .cluster) core := by
  have hclean (a : Nat) (c : Copy) (hc : copyAt (cleanAll s (.thread core team ctx) .cluster) (.l1 core) a = some c) :
      c.dirty = false := by
    refine (cleanAll_pointCleaned s (.thread core team ctx) .cluster a).1 (.l1 core) ?_ c hc
    have habove := above_cluster (cleanAll s (.thread core team ctx) .cluster) core team ctx a
    rw [above] at habove
    rw [habove]
    exact List.mem_cons_self
  refine ⟨hclean, fun a c hc hd => ?_⟩
  have hway : OnItsWay core a c.value (cleanAll s (.thread core team ctx) .cluster) := by
    rw [cleanAll_cluster]
    refine List.foldlRecOn _ _ (motive := OnItsWay core a c.value) (.inl ?_) fun u h b _ => onItsWay_cleanStep core team ctx h b
    rw [hc, ← hd]
  rcases hway with hway | hway
  · exact absurd (hclean a _ hway) (by simp)
  · exact hway.2

end

/-! ### An operation performed alone (R269) -/

/-- An operation that touches no location: a fence, CLEAN, LATG, TARV, or the release of a post. -/
def Placeless : PendKind → Prop
  | .fence .. | .clean .. | .latg .. | .tarv .. | .post _ => True
  | .load .. | .store .. | .atomic .. | .pref .. | .krel .. => False

/-- The state in which an operation is performed: it has left the pending ones. -/
def begun (s : State) (set : List PendOp) : State :=
  { set.foldl chargeOp s with pending := s.pending.filter fun x => !set.contains x, picks := [] }

theorem touchLines_pending (s : State) (band instr : Nat) (p : Place) (n : Nat) (r : Option (Nat × Nat)) :
    (touchLines s band instr p n r).pending = s.pending := by
  unfold touchLines
  split <;> rfl

theorem chargeOp_pending (s : State) (o : PendOp) : (chargeOp s o).pending = s.pending := by
  unfold chargeOp
  split
  · dsimp only
    split
    · exact touchLines_pending ..
    · exact touchLines_pending ..
  · rfl

theorem chargeOps_pending (set : List PendOp) (s : State) : (set.foldl chargeOp s).pending = s.pending := by
  induction set generalizing s with
  | nil => rfl
  | cons o set ih => rw [List.foldl_cons, ih, chargeOp_pending]

section
variable {s : State} {i : Nat} {o : PendOp} (hcur : s.cur = .event (.accessPerformed i)) (ho : s.pending[i]? = some o)
include hcur ho

/-- The operations of a set, one after the other. -/
theorem exec_accessPerformed (hmay : mayPerform s i = true) (hset : setMay s (performSet s o) = true) :
    exec .accessPerformed s = .next (settleOp ((performSet s o).foldl
      (performOp ((performSet s o).flatMap (·.lanes))) (begun s (performSet s o))) o) := by
  have hgo : (!mayPerform s i || !setMay s (performSet s o)) = false := by rw [hmay, hset]; rfl
  change execAccessPerformed s = _
  rw [execAccessPerformed, hcur]
  simp only [performAt, ho, hgo, Bool.false_eq_true, if_false, begun, chargeOps_pending]

theorem exec_accessPerformed_stays (h : mayPerform s i = false ∨ setMay s (performSet s o) = false) :
    exec .accessPerformed s = .next s := by
  have hstay : (!mayPerform s i || !setMay s (performSet s o)) = true := by rcases h with h | h <;> simp [h]
  change execAccessPerformed s = _
  rw [execAccessPerformed, hcur]
  simp only [performAt, ho, hstay, if_true]

theorem exec_performed_alone (hmay : mayPerform s i = true) (hset : performSet s o = [o]) :
    exec .accessPerformed s = .next (settleOp (performOp o.lanes (begun s [o]) o) o) := by
  obtain ⟨hfree, hfirst⟩ := (mayPerform_iff ho).mp hmay
  have hall : setMay s [o] = true := by
    have hblocked : opBlocked s o = false := Bool.eq_false_iff.mpr fun h => hfree (opBlocked_iff.mp h)
    have hnone : (s.pending.any fun x => !List.contains [o] x && mustPrecede s x o) = false :=
      List.any_eq_false.mpr fun x hx => by rw [hfirst x hx, Bool.and_false]; exact Bool.false_ne_true
    simp only [setMay, List.all_cons, List.all_nil, hblocked, hnone, Bool.not_false, Bool.and_true]
  have hexec := exec_accessPerformed hcur ho hmay (hset.symm ▸ hall)
  rw [hset] at hexec
  simpa using hexec

end

theorem begun_pending (s : State) (o : PendOp) : (begun s [o]).pending = s.pending.filter fun x => x ≠ o := by
  refine List.filter_congr fun x _ => ?_
  by_cases h : x = o <;> simp [h]

section
variable {o : PendOp} (h : Placeless o.kind)
include h

theorem performSet_of_placeless (s : State) : performSet s o = [o] := by
  unfold performSet
  cases hk : o.kind <;> simp_all [Placeless]

theorem begun_of_placeless (s : State) : begun s [o] = { s with pending := s.pending.filter fun x => x ≠ o, picks := [] } := by
  have hreach : opReach s o = none := by
    unfold opReach
    cases hk : o.kind <;> simp_all [Placeless]
  have hcharge : chargeOp s o = s := by
    unfold chargeOp
    rw [hreach]
    split
    next heq => cases heq
    next => rfl
  have hpending := begun_pending s o
  unfold begun at hpending ⊢
  rw [List.foldl_cons, List.foldl_nil, hcharge] at hpending ⊢
  dsimp only at hpending
  rw [hpending]

theorem performOp_of_placeless (readers : List Nat) (s : State) : performOp readers s o = performKind readers s o := by
  have hline (u : State) : opLine u o = none := by
    unfold opLine
    cases hk : o.kind <;> simp_all [Placeless]
  have hnote (u : State) : noteOp u o = u := by
    unfold noteOp seenOp
    cases hk : o.kind <;> simp_all [Placeless, PendKind.access]
  have hname (u : State) : nameOp u o = u := by
    unfold nameOp
    rw [hline]
    split
    next heq => cases heq
    next => rfl
  rw [performOp, hnote, hname, hline]
  rfl

end

/-- A state in which no line's cost is noted has nothing to charge. -/
theorem settleOp_of_noCosts {s : State} (h : s.lineCosts = []) (o : PendOp) : settleOp s o = s := by
  unfold settleOp
  split
  · rfl
  · simp only [settleLines, h, List.filter_nil, List.map_nil, List.sum_nil, if_true]
    rw [← h]

/-! ### LATG performed (R287) -/

theorem latchGiven_step (slots : List Nat) (tm : Team) :
    slots.foldl (fun tm n => setLatch tm n { latchOf tm n with engine := true }) tm =
        { tm with latches := (slots.foldl (fun tm n => setLatch tm n { latchOf tm n with engine := true }) tm).latches } ∧
      ∀ n, latchOf (slots.foldl (fun tm n => setLatch tm n { latchOf tm n with engine := true }) tm) n =
        if n ∈ slots then { latchOf tm n with engine := true } else latchOf tm n := by
  induction slots generalizing tm with
  | nil => exact ⟨rfl, fun _ => by simp⟩
  | cons m slots ih =>
    obtain ⟨hframe, hlatch⟩ := ih (setLatch tm m { latchOf tm m with engine := true })
    refine ⟨hframe.trans rfl, fun n => ?_⟩
    rw [List.foldl_cons, hlatch]
    by_cases hn : n = m
    · subst hn
      rw [latchOf_setLatch]
      simp
    · rw [latchOf_setLatch_ne hn]
      simp [hn]

theorem latchGiven : LatchGiven := by
  intro s i core team ctx live o slots tm hcur ho hmay hag hk htm hcosts
  have hplaceless : Placeless o.kind := by rw [hk]; trivial
  have hexec := exec_performed_alone hcur ho hmay (performSet_of_placeless hplaceless s)
  rw [performOp_of_placeless hplaceless, begun_of_placeless hplaceless] at hexec
  obtain ⟨hframe, hlatch⟩ := latchGiven_step slots tm
  simp only [performKind, hk, hag, agentTeam] at hexec
  have hteam : teamOf ({ s with pending := s.pending.filter fun x => x ≠ o, picks := [] } : State) team = some tm := htm
  rw [hteam] at hexec
  dsimp only at hexec
  rw [settleOp_of_noCosts (by exact hcosts)] at hexec
  refine ⟨_, _, hexec, rfl, fun j hj => teamOf_setTeam_ne _ hj _, teamOf_setTeam .., hframe, fun n => ⟨fun hn => ?_, fun hn => ?_⟩⟩
  · rw [hlatch, if_pos hn]
  · rw [hlatch, if_neg hn]

end Sys2Proof.Proofs
end

section
/-! SUPPORT. What an operation's books change, an arrival at a tumbler performed (R300-R303), and O29. -/

namespace Sys2Proof.Proofs
open Sys2Proof.Machine Sys2Proof.Claims

/-! ### What the books of an operation are (R443, R454, R458) -/

/-- Nothing changes but the notes of an operation: what the watchpoints see, the pending operations, costs of lines, energy, samples
and the records of lines. -/
structure Booked (s t : State) : Prop where
  frame : t = { s with seen := t.seen, pending := t.pending, picks := t.picks, lineCosts := t.lineCosts, bands := t.bands
                       cores := t.cores, clusters := t.clusters }
  band : ∀ k b, bandOf s k = some b → ∃ e, bandOf t k = some { b with energy := e }
  noBand : ∀ k, bandOf s k = none → bandOf t k = none
  core : ∀ n, coreOf t n = { coreOf s n with
    lines := (coreOf t n).lines, samples := (coreOf t n).samples, energy := (coreOf t n).energy }
  cluster : ∀ n, Machine.clusterOf t n = { Machine.clusterOf s n with lines := (Machine.clusterOf t n).lines }

theorem Booked.refl (s : State) : Booked s s := ⟨rfl, fun _ b hb => ⟨b.energy, hb⟩, fun _ h => h, fun _ => rfl, fun _ => rfl⟩

theorem Booked.trans {s t u : State} (h : Booked s t) (h' : Booked t u) : Booked s u where
  frame := h'.frame.trans (by rw [h.frame])
  band k b hb := by
    obtain ⟨e, hb'⟩ := h.band k b hb
    obtain ⟨e', hb''⟩ := h'.band k _ hb'
    exact ⟨e', hb''⟩
  noBand k hk := h'.noBand k (h.noBand k hk)
  core n := (h'.core n).trans (by rw [h.core n])
  cluster n := (h'.cluster n).trans (by rw [h.cluster n])

section
variable {s t : State} (h : Booked s t)
include h

theorem Booked.teamOf (k : Nat) : Machine.teamOf t k = Machine.teamOf s k := by
  rw [Machine.teamOf, h.frame]
  rfl

theorem Booked.sameHomes : SameHomes s t := ⟨by rw [h.frame], fun n => by rw [hingeOf, h.frame]; rfl⟩

theorem Booked.sameByte (a : Nat) : SameByte s t a := by
  refine ⟨fun l => ?_, by rw [homeByte, h.frame]; rfl⟩
  cases l with
  | l1 n => rw [copyAt, levelMap, h.core]; rfl
  | cluster n => rw [copyAt, levelMap, h.cluster]; rfl
  | link n =>
    rw [copyAt, levelMap, hingeOf, h.frame]
    rfl

end

theorem booked_addEnergy (s : State) (k n : Nat) : Booked s (addEnergy s k n) := by
  unfold addEnergy
  split
  · exact .refl s
  next b hb =>
    refine ⟨rfl, fun j c hc => ?_, fun j hj => ?_, fun j => ?_, fun _ => rfl⟩
    · rw [bandOf_setCore]
      by_cases h : j = k
      · subst h
        rw [bandOf_setBand]
        exact ⟨_, by rw [hb] at hc; cases hc; rfl⟩
      · rw [bandOf_setBand_ne _ h]
        exact ⟨c.energy, hc⟩
    · rw [bandOf_setCore, bandOf_setBand_ne]
      · exact hj
      · rintro rfl
        rw [hb] at hj
        cases hj
    · by_cases h : j = k / Config.slotsPerCore
      · rw [h, coreOf_setCore]
        rfl
      · rw [coreOf_setCore_ne _ h]
        rfl

theorem booked_settleOp (s : State) (o : PendOp) : Booked s (settleOp s o) := by
  unfold settleOp settleLines
  split
  · exact .refl s
  · have hcosts (m) : Booked s { s with lineCosts := m } :=
      ⟨rfl, fun _ b hb => ⟨b.energy, hb⟩, fun _ h => h, fun _ => rfl, fun _ => rfl⟩
    dsimp only
    split
    · exact hcosts _
    · exact (hcosts _).trans (booked_addEnergy ..)

/-! ### The units of an arrival (R300) -/

theorem arrived_succ {x : Tumbler} (h : x.arrived.toNat < x.expect.toNat) : (x.arrived + 1).toNat = x.arrived.toNat + 1 :=
  BitVec.toNat_add_of_lt (by have := x.expect.isLt; simp only [BitVec.ofNat_eq_ofNat, BitVec.toNat_ofNat]; omega)

theorem arriveUnits_below {n : Nat} {x : Tumbler} (h : x.arrived.toNat + n < x.expect.toNat) (flip : Bool) :
    arriveUnits n x x.phase flip = ({ x with arrived := x.arrived + BitVec.ofNat 16 n }, x.phase, flip) := by
  induction n generalizing x with
  | zero => simp [arriveUnits]
  | succ n ih =>
    have hone := arrived_succ (x := x) (by omega)
    have hne : x.arrived + 1 ≠ x.expect := fun heq => by rw [heq] at hone; omega
    have hsum : x.arrived + BitVec.ofNat 16 (n + 1) = x.arrived + 1 + BitVec.ofNat 16 n := by
      rw [Nat.add_comm n 1, BitVec.ofNat_add, BitVec.add_assoc]
      rfl
    rw [arriveUnits, hsum]
    simp only [hne, if_false]
    exact ih (x := { x with arrived := x.arrived + 1 }) (by dsimp only; omega)

/-- The last unit flips the phase. -/
theorem arriveUnits_last {n : Nat} {x : Tumbler} (hpos : 0 < n) (h : x.arrived.toNat + n = x.expect.toNat) (last flip : Bool) :
    arriveUnits n x last flip = ({ x with arrived := 0, phase := !x.phase }, x.phase, true) := by
  induction n generalizing x last flip with
  | zero => exact absurd hpos (Nat.lt_irrefl 0)
  | succ n ih =>
    have hone := arrived_succ (x := x) (by omega)
    rw [arriveUnits]
    by_cases hn : n = 0
    · have heq : x.arrived + 1 = x.expect := BitVec.eq_of_toNat_eq (by omega)
      simp only [heq, if_true, hn, arriveUnits]
    · have hne : x.arrived + 1 ≠ x.expect := fun heq => by rw [heq] at hone; omega
      simp only [hne, if_false]
      exact ih (x := { x with arrived := x.arrived + 1 }) (Nat.pos_of_ne_zero hn) (by dsimp only; omega) ..

theorem pexpOf_setPexp {b : Band} {k : Nat} (hk : k < 24) (v : Bool) : pexpOf (setPexp b k v) k = v := by
  unfold pexpOf setPexp
  have hbit : (BitVec.ofNat 24 (2 ^ k)).getLsbD k = true := by
    rw [BitVec.getLsbD_ofNat, Nat.testBit_two_pow_self]
    simpa using hk
  dsimp only
  generalize BitVec.ofNat 24 (2 ^ k) = m at hbit
  cases v <;> simp_all

theorem pexpOf_setPexp_ne {b : Band} {k q : Nat} (h : q ≠ k) (v : Bool) : pexpOf (setPexp b k v) q = pexpOf b q := by
  unfold pexpOf setPexp
  have hbit : (BitVec.ofNat 24 (2 ^ k)).getLsbD q = false := by
    rw [BitVec.getLsbD_ofNat, Nat.testBit_two_pow_of_ne h.symm, Bool.and_false]
  dsimp only
  generalize BitVec.ofNat 24 (2 ^ k) = m at hbit
  cases v with
  | true => simp [hbit]
  | false => by_cases hq : q < 24 <;> simp_all

/-! ### TWAITs completed at a flip (R301) -/

/-- What the flip of a tumbler makes of a thread. -/
def wake (k : Nat) (t : Thread) : Thread :=
  match t.wait with
  | .tumbler x _ => if x = k then moved t (t.pc + 12) else t
  | _ => t

theorem wake_waiting {k : Nat} {t : Thread} {d : Bool} (h : t.wait = .tumbler k d) : wake k t = moved t (t.pc + 12) := by
  simp [wake, h]

theorem wake_other {k : Nat} {t : Thread} (h : ∀ d, t.wait ≠ .tumbler k d) : wake k t = t := by
  unfold wake
  split
  next x d hw =>
    by_cases hx : x = k
    · exact absurd (hx ▸ hw) (h d)
    · rw [if_neg hx]
  next => rfl

theorem wake_moved (k : Nat) (t : Thread) (pc : DWord) : wake k (moved t pc) = moved t pc := wake_other nofun

theorem wake_wake (k : Nat) (t : Thread) : wake k (wake k t) = wake k t := by
  by_cases h : ∃ d, t.wait = .tumbler k d
  · obtain ⟨d, hd⟩ := h
    rw [wake_waiting hd, wake_moved]
  · push Not at h
    rw [wake_other h, wake_other h]

section
variable {b : Band} {k : Nat}

theorem of_mem_tumblerWaiters {g : DWord × Bool × List Nat} (hg : g ∈ tumblerWaiters b k) {l : Nat} (hl : l ∈ g.2.2) :
    (threadOf b l).pc = g.1 ∧ ∃ d, (threadOf b l).wait = .tumbler k d := by
  obtain ⟨key, -, rfl⟩ := List.mem_map.mp hg
  obtain ⟨hw, hkey⟩ := List.mem_filter.mp hl
  obtain ⟨-, hwait⟩ := List.mem_filter.mp hw
  refine ⟨congrArg Prod.fst (eq_of_beq hkey), ?_⟩
  dsimp only at hwait
  split at hwait
  next x d heq => exact ⟨d, by rw [heq, eq_of_beq hwait]⟩
  next => cases hwait

theorem mem_tumblerWaiters {l : Nat} (hl : l < b.threads.length) {d : Bool} (hd : (threadOf b l).wait = .tumbler k d) :
    ∃ g ∈ tumblerWaiters b k, l ∈ g.2.2 := by
  have hw : l ∈ lanesWhere b fun _ th => match th.wait with | .tumbler x _ => x == k | _ => false :=
    List.mem_filter.mpr ⟨List.mem_range.mpr hl, by dsimp only; rw [hd]; exact beq_self_eq_true k⟩
  refine ⟨_, List.mem_map_of_mem (List.mem_eraseDups.mpr (List.mem_map_of_mem hw)), List.mem_filter.mpr ⟨hw, ?_⟩⟩
  exact beq_self_eq_true _

end

section
variable {team k : Nat}

/-- Nothing changes of a team but what its threads have observed, and no band but one. -/
structure OneBand (team k : Nat) (s t : State) : Prop where
  team : ∀ tm, teamOf s team = some tm → ∃ tm', teamOf t team = some tm' ∧ tm' = { tm with observed := tm'.observed }
  others : ∀ j, j ≠ k → bandOf t j = bandOf s j
  band : ∀ c, bandOf s k = some c → ∃ c', bandOf t k = some c'

theorem OneBand.refl (s : State) : OneBand team k s s := ⟨fun tm h => ⟨tm, h, rfl⟩, fun _ _ => rfl, fun c h => ⟨c, h⟩⟩

theorem OneBand.trans {s t u : State} (h : OneBand team k s t) (h' : OneBand team k t u) : OneBand team k s u where
  team tm htm := by
    obtain ⟨tm', htm', hframe⟩ := h.team tm htm
    obtain ⟨tm'', htm'', hframe'⟩ := h'.team tm' htm'
    exact ⟨tm'', htm'', observedOnly_trans hframe hframe'⟩
  others j hj := (h'.others j hj).trans (h.others j hj)
  band c hc := by
    obtain ⟨c', hc'⟩ := h.band c hc
    exact h'.band c' hc'

theorem oneBand_setBand (s : State) (b : Band) : OneBand team k s (setBand s k b) :=
  ⟨fun tm h => ⟨tm, h, rfl⟩, fun _ hj => bandOf_setBand_ne s hj b, fun _ _ => ⟨b, bandOf_setBand ..⟩⟩

theorem oneBand_evalLoops (fuel : Nat) (s : State) (at_ : DWord) (gone seq trapped : List Nat) :
    OneBand team k s (evalLoops fuel s k at_ gone seq trapped) := by
  induction fuel generalizing s with
  | zero => exact .refl s
  | succ fuel ih =>
    rw [evalLoops]
    split
    · exact .refl s
    split
    · exact .refl s
    split
    · exact .refl s
    split
    · exact (oneBand_setBand s _).trans (ih _)
    split
    · exact .refl s
    split
    · exact (oneBand_setBand s _).trans (ih _)
    · exact oneBand_setBand s _

theorem oneBand_gotoBand (s : State) (ls : List Nat) (pc : DWord) : OneBand team k s (gotoBand s k ls pc) := by
  unfold gotoBand
  split
  · exact oneBand_setBand s _
  · exact .refl s

theorem oneBand_observeTumbler (s : State) (t band : Nat) (ls : List Nat) : OneBand team k s (observeTumbler s team t band ls) := by
  cases htm : teamOf s team with
  | none =>
    rw [observeTumbler, htm]
    exact .refl s
  | some tm =>
    obtain ⟨tm', hobs⟩ := observed_observeTumbler t band ls htm
    have hbands (j : Nat) : bandOf (observeTumbler s team t band ls) j = bandOf s j := by
      rw [bandOf, hobs.frame]
      rfl
    refine ⟨fun x hx => ⟨tm', hobs.team, ?_⟩, fun j _ => hbands j, fun c hc => ⟨c, (hbands k).trans hc⟩⟩
    obtain rfl : tm = x := Option.some_injective _ (htm.symm.trans hx)
    exact hobs.only

theorem oneBand_dropAll (s : State) (ag : Agent) (sc : Scope) : OneBand team k s (dropAll s ag sc) := by
  have hframe := (copiesOnly_dropAll s ag sc).frame
  have hbands (j : Nat) : bandOf (dropAll s ag sc) j = bandOf s j := by
    rw [bandOf, hframe]
    rfl
  refine ⟨fun tm htm => ⟨tm, ?_, rfl⟩, fun j _ => hbands j, fun c hc => ⟨c, (hbands k).trans hc⟩⟩
  rw [teamOf, hframe]
  exact htm

/-- One waiting group completes its TWAIT. -/
def wakeGroup (team k t core ctx : Nat) (s : State) (g : DWord × Bool × List Nat) : State :=
  let s := finishWait (observeTumbler s team t k g.2.2) k g.2.2 g.1 (g.1 + 12)
  if g.2.1 then dropAll s (.thread core team ctx) .cluster else s

/-- The waiting groups of the band in a slot complete their TWAITs. -/
def wakeSlot (team t core ctx : Nat) (s : State) (slot : Nat) : State :=
  match bandOf s (core * 64 + slot) with
  | none => s
  | some b => (tumblerWaiters b t).foldl (wakeGroup team (core * 64 + slot) t core ctx) s

theorem releaseTumbler_eq {s : State} {t : Nat} {tm : Team} (h : teamOf s team = some tm) :
    releaseTumbler s team t = tm.slots.foldl (wakeSlot team t tm.core tm.ctx) s := by
  rw [releaseTumbler, h]
  rfl

section
variable (team k) (t core ctx : Nat)

theorem oneBand_wakeGroup (s : State) (g : DWord × Bool × List Nat) : OneBand team k s (wakeGroup team k t core ctx s g) := by
  have hfinish : OneBand team k s (finishWait (observeTumbler s team t k g.2.2) k g.2.2 g.1 (g.1 + 12)) :=
    (oneBand_observeTumbler s t k g.2.2).trans ((oneBand_gotoBand ..).trans (oneBand_evalLoops ..))
  unfold wakeGroup
  dsimp only
  split
  · exact hfinish.trans (oneBand_dropAll ..)
  · exact hfinish

theorem oneBand_wakeGroups (gs : List (DWord × Bool × List Nat)) (s : State) :
    OneBand team k s (gs.foldl (wakeGroup team k t core ctx) s) := by
  induction gs generalizing s with
  | nil => exact .refl s
  | cons g gs ih => exact (oneBand_wakeGroup team k t core ctx s g).trans (ih _)

theorem oneBand_wakeSlot (s : State) (slot : Nat) : OneBand team (core * 64 + slot) s (wakeSlot team t core ctx s slot) := by
  unfold wakeSlot
  split
  · exact .refl s
  · exact oneBand_wakeGroups ..

/-- In a band outside every loop, the threads of a group go on. -/
theorem bandOf_wakeGroup {s : State} {c : Band} (hc : bandOf s k = some c) (hloops : c.loops = []) (g : DWord × Bool × List Nat) :
    bandOf (wakeGroup team k t core ctx s g) k = some (gotoLanes c g.2.2 (g.1 + 12)) := by
  have hobs : bandOf (observeTumbler s team t k g.2.2) k = some c :=
    ((oneBand_observeTumbler (team := team) (k := k + 1) s t k g.2.2).others k (by omega)).trans hc
  have hgoto : gotoBand (observeTumbler s team t k g.2.2) k g.2.2 (g.1 + 12) =
      setBand (observeTumbler s team t k g.2.2) k (gotoLanes c g.2.2 (g.1 + 12)) := by
    rw [gotoBand, hobs]
  have hends : evalLoops 5 (setBand (observeTumbler s team t k g.2.2) k (gotoLanes c g.2.2 (g.1 + 12))) k g.1 [] g.2.2 [] =
      setBand (observeTumbler s team t k g.2.2) k (gotoLanes c g.2.2 (g.1 + 12)) := by
    refine evalLoops_other 5 (bandOf_setBand ..) (fun f r h => ?_) _ _ _
    have hnil : (gotoLanes c g.2.2 (g.1 + 12)).loops = [] := hloops
    rw [hnil] at h
    cases h
  unfold wakeGroup finishWait
  rw [hgoto, hends]
  dsimp only
  split
  · exact ((oneBand_dropAll (team := team) (k := k + 1) _ _ _).others k (by omega)).trans (bandOf_setBand ..)
  · exact bandOf_setBand ..

end

/-- Some waiting threads of a band have gone on, those of `ls` among them. -/
structure Woken (k : Nat) (ls : Nat → Prop) (c c' : Band) : Prop where
  loops : c'.loops = c.loops
  size : c'.threads.length = c.threads.length
  done : ∀ l, l < c.threads.length → ls l → threadOf c' l = wake k (threadOf c l)
  left : ∀ l, l < c.threads.length → threadOf c' l = threadOf c l ∨ threadOf c' l = wake k (threadOf c l)

theorem Woken.refl (k : Nat) (c : Band) : Woken k (fun _ => False) c c :=
  ⟨rfl, rfl, fun _ _ => False.elim, fun _ _ => .inl rfl⟩

theorem Woken.mono {ls ls' : Nat → Prop} {c c' : Band} (h : Woken k ls c c') (himp : ∀ l, ls' l → ls l) : Woken k ls' c c' :=
  ⟨h.loops, h.size, fun l hlt hl => h.done l hlt (himp l hl), h.left⟩

theorem Woken.trans {ls ls' : Nat → Prop} {c c' c'' : Band} (h : Woken k ls c c') (h' : Woken k ls' c' c'') :
    Woken k (fun l => ls l ∨ ls' l) c c'' := by
  have hleft (l : Nat) (hlt : l < c.threads.length) := h'.left l (h.size ▸ hlt)
  refine ⟨h'.loops.trans h.loops, h'.size.trans h.size, fun l hlt hl => ?_, fun l hlt => ?_⟩
  · rcases hl with hl | hl
    · rcases hleft l hlt with heq | heq <;> rw [heq, h.done l hlt hl]
      exact wake_wake ..
    · rw [h'.done l (h.size ▸ hlt) hl]
      rcases h.left l hlt with heq | heq <;> rw [heq]
      exact wake_wake ..
  · rcases hleft l hlt with heq | heq <;> rcases h.left l hlt with heq' | heq' <;> rw [heq, heq']
    · exact .inl rfl
    · exact .inr rfl
    · exact .inr rfl
    · exact .inr (wake_wake ..)

/-- A group of waiting threads of a band goes on, some of which may have before. -/
theorem Woken.gotoLanes {t : Nat} {c u : Band} {ls : Nat → Prop} (hu : Woken t ls c u) {g : DWord × Bool × List Nat}
    (hg : g ∈ tumblerWaiters c t) : Woken t (fun l => ls l ∨ l ∈ g.2.2) c (gotoLanes u g.2.2 (g.1 + 12)) := by
  have hin (l : Nat) (hlt : l < c.threads.length) (hl : l ∈ g.2.2) :
      threadOf (Machine.gotoLanes u g.2.2 (g.1 + 12)) l = wake t (threadOf c l) := by
    obtain ⟨hpc, d, hd⟩ := of_mem_tumblerWaiters hg hl
    have hgoto : threadOf (Machine.gotoLanes u g.2.2 (g.1 + 12)) l = moved (threadOf u l) (g.1 + 12) :=
      threadOf_onLanes_in u _ hl (hu.size ▸ hlt)
    rw [hgoto, wake_waiting hd, hpc]
    rcases hu.left l hlt with heq | heq <;> rw [heq]
    rw [wake_waiting hd]
    rfl
  have hout (l : Nat) (hl : l ∉ g.2.2) : threadOf (Machine.gotoLanes u g.2.2 (g.1 + 12)) l = threadOf u l :=
    threadOf_onLanes_out u _ hl
  refine ⟨hu.loops, (onLanes_length ..).trans hu.size, fun l hlt hl => ?_, fun l hlt => ?_⟩
  · by_cases hg : l ∈ g.2.2
    · exact hin l hlt hg
    · rw [hout l hg, hu.done l hlt (hl.resolve_right hg)]
  · by_cases hl : l ∈ g.2.2
    · exact .inr (hin l hlt hl)
    · rw [hout l hl]
      exact hu.left l hlt

section
variable (team k t core ctx : Nat)

theorem bandOf_wakeGroups {c : Band} (hloops : c.loops = []) {gs : List (DWord × Bool × List Nat)} (hgs : gs ⊆ tumblerWaiters c t)
    {s : State} {u : Band} (hu : bandOf s k = some u) {ls : Nat → Prop} (hwoken : Woken t ls c u) :
    ∃ c', bandOf (gs.foldl (wakeGroup team k t core ctx) s) k = some c' ∧
      Woken t (fun l => ls l ∨ ∃ g ∈ gs, l ∈ g.2.2) c c' := by
  induction gs generalizing s u ls with
  | nil => exact ⟨u, hu, hwoken.mono fun l hl => hl.resolve_right (by simp)⟩
  | cons g gs ih =>
    obtain ⟨hg, hrest⟩ := List.cons_subset.mp hgs
    obtain ⟨c', hc', hwoken'⟩ :=
      ih hrest (bandOf_wakeGroup team k t core ctx hu (hwoken.loops.trans hloops) g) (hwoken.gotoLanes hg)
    refine ⟨c', hc', hwoken'.mono fun l hl => ?_⟩
    simpa [or_assoc] using hl

/-- Each thread of a band outside every loop that waits for the flip goes on. -/
theorem bandOf_wakeSlot {s : State} {slot : Nat} {c : Band} (hc : bandOf s (core * 64 + slot) = some c) (hloops : c.loops = []) :
    ∃ c', bandOf (wakeSlot team t core ctx s slot) (core * 64 + slot) = some c' ∧ Woken t (fun _ => True) c c' := by
  obtain ⟨c', hc', hwoken⟩ := bandOf_wakeGroups team (core * 64 + slot) t core ctx hloops (List.Subset.refl _) hc (.refl t c)
  refine ⟨c', ?_, hwoken.loops, hwoken.size, fun l hlt _ => ?_, hwoken.left⟩
  · rw [wakeSlot, hc]
    exact hc'
  · by_cases hwaits : ∃ d, (threadOf c l).wait = .tumbler t d
    · obtain ⟨d, hd⟩ := hwaits
      exact hwoken.done l hlt (.inr (mem_tumblerWaiters hlt hd))
    · push Not at hwaits
      rcases hwoken.left l hlt with heq | heq
      · rw [heq, wake_other hwaits]
      · exact heq

/-- What the flip makes of a band outside every loop. -/
theorem bandOf_wakeSlots (slots : List Nat) {s : State} {slot : Nat} {c : Band} (hc : bandOf s (core * 64 + slot) = some c)
    (hloops : c.loops = []) : ∃ c', bandOf (slots.foldl (wakeSlot team t core ctx) s) (core * 64 + slot) = some c' ∧
      Woken t (fun _ => slot ∈ slots) c c' := by
  induction slots generalizing s c with
  | nil => exact ⟨c, hc, (Woken.refl t c).mono fun _ h => absurd h List.not_mem_nil⟩
  | cons j slots ih =>
    by_cases hj : slot = j
    · subst hj
      obtain ⟨u, hu, hwoken⟩ := bandOf_wakeSlot team t core ctx hc hloops
      obtain ⟨c', hc', hwoken'⟩ := ih hu (hwoken.loops.trans hloops)
      exact ⟨c', hc', (hwoken.trans hwoken').mono fun _ _ => .inl trivial⟩
    · have hsame : bandOf (wakeSlot team t core ctx s j) (core * 64 + slot) = some c :=
        ((oneBand_wakeSlot team t core ctx s j).others _ (by omega)).trans hc
      obtain ⟨c', hc', hwoken⟩ := ih hsame hloops
      exact ⟨c', hc', hwoken.mono fun _ h => (List.mem_cons.mp h).resolve_left hj⟩

/-- A band that is there before the flip is there after it. -/
theorem band_wakeSlots (slots : List Nat) {s : State} {j : Nat} {c : Band} (hc : bandOf s j = some c) :
    ∃ c', bandOf (slots.foldl (wakeSlot team t core ctx) s) j = some c' := by
  induction slots generalizing s c with
  | nil => exact ⟨c, hc⟩
  | cons slot slots ih =>
    have hstep := oneBand_wakeSlot team t core ctx s slot
    by_cases hj : j = core * 64 + slot
    · obtain ⟨u, hu⟩ := hstep.band c (hj ▸ hc)
      exact ih (hj ▸ hu)
    · exact ih ((hstep.others j hj).trans hc)

theorem team_wakeSlots (slots : List Nat) {s : State} {tm : Team} (h : teamOf s team = some tm) :
    ∃ tm', teamOf (slots.foldl (wakeSlot team t core ctx) s) team = some tm' ∧ tm' = { tm with observed := tm'.observed } := by
  induction slots generalizing s tm with
  | nil => exact ⟨tm, h, rfl⟩
  | cons slot slots ih =>
    obtain ⟨tm', htm', hframe⟩ := (oneBand_wakeSlot team t core ctx s slot).team tm h
    obtain ⟨tm'', htm'', hframe'⟩ := ih htm'
    exact ⟨tm'', htm'', observedOnly_trans hframe hframe'⟩

end

end

/-! ### TARV performed (R300, R303) -/

/-- The state in which an arrival is counted: its release has been performed. -/
def tarvReleased (s : State) (o : PendOp) (core team ctx : Nat) (cluster : Bool) : State :=
  let u : State := { s with pending := s.pending.filter fun x => x ≠ o, picks := [] }
  if cluster then cleanAll u (.thread core team ctx) .cluster else u

theorem tarvReleased_frame (s : State) (o : PendOp) (core team ctx : Nat) (cluster : Bool) : tarvReleased s o core team ctx cluster =
    { s with pending := s.pending.filter fun x => x ≠ o, picks := []
             cores := (tarvReleased s o core team ctx cluster).cores, clusters := (tarvReleased s o core team ctx cluster).clusters } := by
  cases cluster with
  | false => rfl
  | true => exact (cleanAll_cluster_frame core team ctx _).trans rfl

/-- The state in which its units have been counted, before a flip completes the waits. -/
def tarvCounted (s : State) (o : PendOp) (core team ctx : Nat) (cluster : Bool) (tm : Team) (k : Nat) (x : Tumbler) : State :=
  setTeam (tarvReleased s o core team ctx cluster) team (setTumbler tm k x)

theorem teamOf_tarvCounted (s : State) (o : PendOp) (core team ctx : Nat) (cluster : Bool) (tm : Team) (k : Nat) (x : Tumbler) :
    teamOf (tarvCounted s o core team ctx cluster tm k x) team = some (setTumbler tm k x) := teamOf_setTeam ..

theorem bandOf_tarvCounted (s : State) (o : PendOp) (core team ctx : Nat) (cluster : Bool) (tm : Team) (k : Nat) (x : Tumbler) (j : Nat) :
    bandOf (tarvCounted s o core team ctx cluster tm k x) j = bandOf s j := by
  rw [tarvCounted, bandOf_setTeam, bandOf, tarvReleased_frame]
  rfl

/-- A tumbler past its last unit. -/
def flipped (x : Tumbler) : Tumbler := { x with arrived := 0, phase := !x.phase }

section
variable {s : State} {i core team ctx k n : Nat} {cluster : Bool} {o : PendOp} {tm : Team} {b : Band}
  (hcur : s.cur = .event (.accessPerformed i)) (ho : s.pending[i]? = some o) (hmay : mayPerform s i = true)
  (hag : o.agent = .thread core team ctx) (hk : o.kind = .tarv k n cluster) (htm : teamOf s team = some tm)
include hcur ho hmay hag hk htm

/-- An arrival at a tumbler with an EXPECT, by what its units come to. -/
theorem tarv_performed (hexpect : (tumblerOf tm k).expect ≠ 0) {x : Tumbler} {last flip : Bool}
    (hunits : arriveUnits n (tumblerOf tm k) (tumblerOf tm k).phase false = (x, last, flip)) {v : State}
    (hv : v = if flip then releaseTumbler (tarvCounted s o core team ctx cluster tm k x) team k else
      tarvCounted s o core team ctx cluster tm k x) {b' : Band} (hb' : bandOf v o.issuer = some b') :
    exec .accessPerformed s = .next (settleOp (setBand v o.issuer (setPexp b' k last)) o) := by
  have hplaceless : Placeless o.kind := by rw [hk]; trivial
  have hteam : teamOf (tarvReleased s o core team ctx cluster) team = some tm := by
    rw [teamOf, tarvReleased_frame]
    exact htm
  have harrive : arrive (tarvReleased s o core team ctx cluster) team k n = (some last, v) := by
    unfold arrive
    rw [hteam]
    simp only [hexpect, if_false, hunits, hv]
    rfl
  rw [exec_performed_alone hcur ho hmay (performSet_of_placeless hplaceless s), performOp_of_placeless hplaceless,
    begun_of_placeless hplaceless]
  unfold tarvReleased at harrive
  simp only [performKind, hk, hag, agentTeam]
  dsimp only at harrive
  rw [harrive]
  dsimp only
  rw [hb']

/-- Units that leave ARRIVED below EXPECT. -/
theorem tarv_below (hb : bandOf s o.issuer = some b) (hcosts : s.lineCosts = [])
    (hbelow : (tumblerOf tm k).arrived.toNat + n < (tumblerOf tm k).expect.toNat) :
    exec .accessPerformed s = .next (setBand (tarvCounted s o core team ctx cluster tm k
      { tumblerOf tm k with arrived := (tumblerOf tm k).arrived + BitVec.ofNat 16 n }) o.issuer (setPexp b k (tumblerOf tm k).phase)) := by
  have hexpect : (tumblerOf tm k).expect ≠ 0 := fun h => by rw [h] at hbelow; exact absurd hbelow (Nat.not_lt_zero _)
  refine (tarv_performed hcur ho hmay hag hk htm hexpect (arriveUnits_below hbelow false) rfl
    ((bandOf_tarvCounted ..).trans hb)).trans (congrArg _ (settleOp_of_noCosts ?_ o))
  rw [if_neg Bool.false_ne_true, tarvCounted, tarvReleased_frame]
  exact hcosts

/-- The last unit flips the phase. -/
theorem tarv_last (hb : bandOf s o.issuer = some b) (hpos : 0 < n)
    (hfull : (tumblerOf tm k).arrived.toNat + n = (tumblerOf tm k).expect.toNat) {v : State}
    (hv : v = tm.slots.foldl (wakeSlot team k tm.core tm.ctx) (tarvCounted s o core team ctx cluster tm k (flipped (tumblerOf tm k)))) :
    ∃ b', bandOf v o.issuer = some b' ∧
      exec .accessPerformed s = .next (settleOp (setBand v o.issuer (setPexp b' k (tumblerOf tm k).phase)) o) := by
  have hexpect : (tumblerOf tm k).expect ≠ 0 := fun h => by
    rw [h] at hfull
    exact absurd hfull (Nat.ne_of_gt (Nat.add_pos_right _ hpos))
  obtain ⟨b', hb'⟩ := band_wakeSlots team k tm.core tm.ctx tm.slots
    ((bandOf_tarvCounted s o core team ctx cluster tm k (flipped (tumblerOf tm k)) o.issuer).trans hb)
  rw [← hv] at hb'
  refine ⟨b', hb', tarv_performed hcur ho hmay hag hk htm hexpect (arriveUnits_last hpos hfull _ false) ?_ hb'⟩
  rw [if_pos rfl, hv]
  exact (releaseTumbler_eq (teamOf_tarvCounted ..)).symm

end

theorem tumblerArrival : TumblerArrival := by
  intro s i core team ctx k n cluster o tm b hcur ho hmay hag hk hk24 htm hb hcosts
  refine ⟨fun hbelow => ?_, fun hpos hfull _ => ?_⟩
  · have hframe := tarvReleased_frame s o core team ctx cluster
    refine ⟨_, _, _, tarv_below hcur ho hmay hag hk htm hb hcosts hbelow, ?_, fun j hj => ?_, fun j hj => ?_, ?_, bandOf_setBand ..,
      rfl, pexpOf_setPexp hk24 _, fun q hq => pexpOf_setPexp_ne hq _, fun a => ?_, ?_, ?_, rfl, tumblerOf_setTumbler ..,
      fun q hq => tumblerOf_setTumbler_ne hq _⟩
    · rw [tarvCounted, hframe]
      rfl
    · rw [teamOf_setBand, tarvCounted, teamOf_setTeam_ne _ hj, teamOf, hframe]
      rfl
    · rw [bandOf_setBand_ne _ hj, bandOf_tarvCounted]
    · exact teamOf_tarvCounted ..
    · rw [tarvCounted, hframe]
      rfl
    · rintro rfl
      exact ⟨rfl, rfl⟩
    · rintro rfl
      exact cleanedToCluster core team ctx { s with pending := s.pending.filter fun x => x ≠ o, picks := [] }
  · obtain ⟨b', hb', hexec⟩ := tarv_last hcur ho hmay hag hk htm hb hpos hfull rfl
    obtain ⟨tm', htm', hteam⟩ := team_wakeSlots team k tm.core tm.ctx tm.slots
      (teamOf_tarvCounted s o core team ctx cluster tm k (flipped (tumblerOf tm k)))
    have hbooked := booked_settleOp (setBand (tm.slots.foldl (wakeSlot team k tm.core tm.ctx)
      (tarvCounted s o core team ctx cluster tm k (flipped (tumblerOf tm k)))) o.issuer (setPexp b' k (tumblerOf tm k).phase)) o
    obtain ⟨e, hissuer⟩ := hbooked.band o.issuer _ (bandOf_setBand ..)
    have htumbler : tumblerOf tm' k = flipped (tumblerOf tm k) := by
      rw [hteam]
      exact tumblerOf_setTumbler ..
    refine ⟨_, tm', _, hexec, (hbooked.teamOf _).trans htm', hissuer, ?_, htumbler, pexpOf_setPexp hk24 _, ?_⟩
    · rw [hteam]
      rfl
    · intro slot hslot c hne hc hloops
      obtain ⟨c', hc', hwoken⟩ := bandOf_wakeSlots team k tm.core tm.ctx tm.slots ((bandOf_tarvCounted ..).trans hc) hloops
      obtain ⟨e', hband⟩ := hbooked.band _ c' ((bandOf_setBand_ne _ hne _).trans hc')
      refine ⟨_, hband, fun l hl => ⟨fun d hd => ?_, fun hd => ?_⟩⟩
      · exact (hwoken.done l hl hslot).trans (wake_waiting hd)
      · exact (hwoken.done l hl hslot).trans (wake_other hd)

/-- Settles O29: LATG and LATW, and a LATG performed; TINIT, TARV, TWAIT and TTEST, and a TARV performed. -/
theorem latchesAndTumblers : Obligations.LatchesAndTumblers := ⟨latches, latchGiven, tumblers, tumblerArrival⟩

end Sys2Proof.Proofs
end

section
/-! SUPPORT. What accesses to memory change, and what they depend on (R245, R266-R269). -/

namespace Sys2Proof.Proofs
open Sys2Proof.Machine Sys2Proof.Claims

/-! ### What accesses to memory change (R266-R269) -/

/-- Nothing changes but bytes at home, copies, promotion counters and counters of clusters. -/
structure CachesOnly (s t : State) : Prop where
  frame : t = { s with mem := t.mem, promo := t.promo, cores := t.cores, clusters := t.clusters, hinges := t.hinges }
  core : ∀ n, coreOf t n = { coreOf s n with l1 := (coreOf t n).l1 }
  cluster : ∀ n, Machine.clusterOf t n = { Machine.clusterOf s n with
    cache := (Machine.clusterOf t n).cache, hits := (Machine.clusterOf t n).hits, misses := (Machine.clusterOf t n).misses
    writebacks := (Machine.clusterOf t n).writebacks }
  hinge : ∀ n, hingeOf t n = { hingeOf s n with link := (hingeOf t n).link }

theorem CachesOnly.refl (s : State) : CachesOnly s s := ⟨rfl, fun _ => rfl, fun _ => rfl, fun _ => rfl⟩

theorem CachesOnly.trans {s t u : State} (h : CachesOnly s t) (h' : CachesOnly t u) : CachesOnly s u where
  frame := h'.frame.trans (by rw [h.frame])
  core n := (h'.core n).trans (by rw [h.core n])
  cluster n := (h'.cluster n).trans (by rw [h.cluster n])
  hinge n := (h'.hinge n).trans (by rw [h.hinge n])

theorem CachesOnly.sameHomes {s t : State} (h : CachesOnly s t) : SameHomes s t :=
  ⟨by rw [h.frame], fun n => by rw [h.hinge]⟩

theorem cachesOnly_setLevel (s : State) (l : Level) (m : AList Copy) : CachesOnly s (setLevel s l m) := by
  cases l with
  | l1 c =>
    refine ⟨rfl, fun n => ?_, fun _ => rfl, fun _ => rfl⟩
    by_cases hn : n = c
    · rw [hn, setLevel, coreOf_setCore]
    · rw [setLevel, coreOf_setCore_ne s hn]
  | cluster c =>
    refine ⟨rfl, fun _ => rfl, fun n => ?_, fun _ => rfl⟩
    by_cases hn : n = c
    · rw [hn, setLevel, clusterOf_setCluster]
    · rw [setLevel, clusterOf_setCluster_ne s hn]
  | link j =>
    refine ⟨rfl, fun _ => rfl, fun _ => rfl, fun n => ?_⟩
    by_cases hn : n = j
    · rw [hn, setLevel, hingeOf_setHinge]
    · rw [setLevel, hingeOf_setHinge_ne s hn]

theorem cachesOnly_homeWrite (s : State) (a : Nat) (bs : List Byte) : CachesOnly s (homeWrite s a bs) :=
  ⟨rfl, fun _ => rfl, fun _ => rfl, fun _ => rfl⟩

/-- A change of a cluster's counters. -/
theorem cachesOnly_setCounters (s : State) (k : Nat) (hits misses backs : DWord) :
    CachesOnly s (setCluster s k { Machine.clusterOf s k with hits := hits, misses := misses, writebacks := backs }) := by
  refine ⟨rfl, fun _ => rfl, fun n => ?_, fun _ => rfl⟩
  by_cases hn : n = k
  · rw [hn, clusterOf_setCluster]
  · rw [clusterOf_setCluster_ne s hn]

theorem cachesOnly_setPromo (s : State) (promo : AList (BitVec 8)) : CachesOnly s { s with promo := promo } :=
  ⟨rfl, fun _ => rfl, fun _ => rfl, fun _ => rfl⟩

theorem cachesOnly_countBacks (s : State) (k n : Nat) : CachesOnly s (countBacks s k n) := by
  unfold countBacks
  split
  · exact .refl s
  · exact cachesOnly_setCounters ..

theorem cachesOnly_countCluster (s : State) (k a : Nat) (hit : Bool) : CachesOnly s (countCluster s k a hit) := by
  unfold countCluster
  dsimp only
  split
  · exact cachesOnly_setCounters ..
  · exact (cachesOnly_setCounters ..).trans (cachesOnly_setPromo ..)

theorem cachesOnly_countRead (s : State) (ag : Agent) (a n : Nat) : CachesOnly s (countRead s ag a n) := by
  unfold countRead
  split
  · exact .refl s
  · exact cachesOnly_countCluster ..

theorem cachesOnly_countWrite (s : State) (ag : Agent) (na : Bool) (a : Nat) : CachesOnly s (countWrite s ag na a) := by
  unfold countWrite
  split
  · exact .refl s
  · exact cachesOnly_countCluster ..

theorem cachesOnly_countAtomic (s : State) (ag : Agent) (sc : Scope) (a : Nat) : CachesOnly s (countAtomic s ag sc a) := by
  unfold countAtomic
  split
  · exact .refl s
  · split
    · exact cachesOnly_countCluster ..
    · exact .refl s

/-! #### CleanBelow, DropBelow, and copies discarded -/

theorem cachesOnly_handDown (s : State) (a : Nat) (l : Level) (rest : List Level) (v : Byte) :
    CachesOnly s (handDown s a l rest v) := by
  cases rest with
  | nil => exact (cachesOnly_homeWrite s a [v]).trans (cachesOnly_setLevel ..)
  | cons l2 rest => exact (cachesOnly_setLevel ..).trans (cachesOnly_setLevel ..)

theorem cachesOnly_cleanStep (ag : Agent) (sc : Scope) (s : State) (a : Nat) : CachesOnly s (cleanStep ag sc s a) :=
  cleanByte_induction (R := CachesOnly s) (fun u l rest v _ h => h.trans (cachesOnly_handDown u a l rest v)) _ (.refl s)

theorem cachesOnly_dropStep (ag : Agent) (sc : Scope) (s : State) (a : Nat) : CachesOnly s (dropStep ag sc s a) :=
  dropByte_induction (R := CachesOnly s) _ (fun _ _ _ h => h.trans (cachesOnly_setLevel ..)) (.refl s)

/-- What each step of a fold keeps, the fold keeps. -/
theorem cachesOnly_foldl {α : Type} {f : State → α → State} (hf : ∀ s x, CachesOnly s (f s x)) (xs : List α) (s : State) :
    CachesOnly s (xs.foldl f s) := by
  induction xs generalizing s with
  | nil => exact .refl s
  | cons x xs ih => exact (hf s x).trans (ih _)

theorem cachesOnly_cleanAddrs (s : State) (ag : Agent) (sc : Scope) (as : List Nat) : CachesOnly s (cleanAddrs s ag sc as) := by
  obtain ⟨k, n, hcount⟩ := cleanAddrs_counted s ag sc as
  rw [hcount]
  exact (cachesOnly_foldl (cachesOnly_cleanStep ag sc) as s).trans (cachesOnly_countBacks ..)

theorem cachesOnly_cleanAll (s : State) (ag : Agent) (sc : Scope) : CachesOnly s (cleanAll s ag sc) := by
  unfold cleanAll
  split
  · exact .refl s
  · exact cachesOnly_cleanAddrs ..

theorem cachesOnly_dropAddrs (s : State) (ag : Agent) (sc : Scope) (as : List Nat) : CachesOnly s (dropAddrs s ag sc as) :=
  cachesOnly_foldl (cachesOnly_dropStep ag sc) as s

theorem cachesOnly_dropAll (s : State) (ag : Agent) (sc : Scope) : CachesOnly s (dropAll s ag sc) := by
  unfold dropAll
  split
  · exact .refl s
  · exact cachesOnly_dropAddrs ..

theorem cachesOnly_discardByte (a : Nat) (p : List Level) (n : Nat) (s : State) : CachesOnly s (discardByte a p n s) := by
  induction p generalizing n s with
  | nil => exact .refl s
  | cons l p ih =>
    cases n with
    | zero => exact .refl s
    | succ n => exact (cachesOnly_setLevel ..).trans (ih n _)

theorem cachesOnly_discardAddrs (s : State) (ag : Agent) (sc : Scope) (as : List Nat) : CachesOnly s (discardAddrs s ag sc as) :=
  cachesOnly_foldl (fun s a => cachesOnly_discardByte a _ _ s) as s

/-! #### Reads and writes -/

theorem cachesOnly_fillByte (a : Nat) (v : Byte) (na : Bool) (p : List Level) (n : Nat) (s : State) :
    CachesOnly s (fillByte a v na p n s) := by
  induction p generalizing n s with
  | nil => exact .refl s
  | cons l p ih =>
    cases n with
    | zero => exact .refl s
    | succ n =>
      rw [fillByte]
      split
      · exact (cachesOnly_setLevel ..).trans (ih n _)
      · exact ih n s

theorem cachesOnly_loadBytes (ag : Agent) (na : Bool) (n : Nat) (s : State) (a : Nat) : CachesOnly s (loadBytes s ag na a n).2 := by
  induction n generalizing s a with
  | zero => exact .refl s
  | succ n ih => exact (cachesOnly_fillByte ..).trans (ih _ _)

theorem cachesOnly_storeByte (s : State) (ag : Agent) (na : Bool) (a : Nat) (v : Byte) : CachesOnly s (storeByte s ag na a v) := by
  unfold storeByte
  split
  · exact cachesOnly_homeWrite ..
  · split
    · split <;> exact cachesOnly_setLevel ..
    · exact cachesOnly_setLevel ..

theorem cachesOnly_storeBytes (ag : Agent) (na : Bool) (bs : List Byte) (s : State) (a : Nat) :
    CachesOnly s (storeBytes s ag na a bs) := by
  induction bs generalizing s a with
  | nil => exact .refl s
  | cons v bs ih => exact (cachesOnly_storeByte ..).trans (ih _ _)

theorem cachesOnly_refreshByte (a : Nat) (v : Byte) (p : List Level) (n : Nat) (s : State) : CachesOnly s (refreshByte a v p n s) := by
  induction p generalizing n s with
  | nil => exact .refl s
  | cons l p ih =>
    cases n with
    | zero => exact .refl s
    | succ n =>
      rw [refreshByte]
      split
      · exact (cachesOnly_setLevel ..).trans (ih n _)
      · exact ih n s

theorem cachesOnly_pointWrite (s : State) (ag : Agent) (sc : Scope) (a : Nat) (v : Byte) : CachesOnly s (pointWrite s ag sc a v) := by
  unfold pointWrite
  dsimp only
  split
  · exact cachesOnly_homeWrite ..
  · exact cachesOnly_setLevel ..

theorem cachesOnly_pointWrites (ag : Agent) (sc : Scope) (bs : List Byte) (s : State) (a : Nat) :
    CachesOnly s (pointWrites s ag sc a bs) := by
  induction bs generalizing s a with
  | nil => exact .refl s
  | cons v bs ih => exact (cachesOnly_pointWrite ..).trans (ih _ _)

theorem cachesOnly_releaseWrite (ag : Agent) (sc : Scope) (bs : List Byte) (s : State) (a : Nat) :
    CachesOnly s (releaseWrite s ag sc a bs) := by
  induction bs generalizing s a with
  | nil => exact .refl s
  | cons v bs ih => exact (cachesOnly_refreshByte ..).trans ((cachesOnly_pointWrite ..).trans (ih _ _))

theorem cachesOnly_pointLine (s : State) (ag : Agent) (sc : Scope) (a : Nat) : CachesOnly s (pointLine s ag sc a) := by
  unfold pointLine
  dsimp only
  split
  · exact .refl s
  · split
    · exact .refl s
    · exact cachesOnly_setLevel ..

theorem cachesOnly_pointReads (ag : Agent) (sc : Scope) (n : Nat) (s : State) (a : Nat) : CachesOnly s (pointReads s ag sc a n).2 := by
  induction n generalizing s a with
  | zero => exact .refl s
  | succ n ih => exact (cachesOnly_fillByte ..).trans (ih _ _)

/-! ### What accesses to memory depend on (R245, R266-R269) -/

/-- Two states with one memory, the same copies at every level, and one home for each page: what an access does to one it does to the
other. -/
structure Alike (s t : State) : Prop where
  mem : t.mem = s.mem
  level : ∀ l, levelMap t l = levelMap s l
  homes : SameHomes s t

theorem SameHomes.symm {s t : State} (h : SameHomes s t) : SameHomes t s := ⟨h.remap.symm, fun n => (h.modules n).symm⟩

theorem Alike.refl (s : State) : Alike s s := ⟨rfl, fun _ => rfl, .refl s⟩

theorem Alike.symm {s t : State} (h : Alike s t) : Alike t s := ⟨h.mem.symm, fun l => (h.level l).symm, h.homes.symm⟩

theorem Alike.trans {s t u : State} (h : Alike s t) (h' : Alike t u) : Alike s u :=
  ⟨h'.mem.trans h.mem, fun l => (h'.level l).trans (h.level l), h.homes.trans h'.homes⟩

theorem Booked.alike {s t : State} (h : Booked s t) : Alike s t := by
  refine ⟨by rw [h.frame], fun l => ?_, h.sameHomes⟩
  cases l with
  | l1 n => rw [levelMap, h.core]; rfl
  | cluster n => rw [levelMap, h.cluster]; rfl
  | link n =>
    rw [levelMap, hingeOf, h.frame]
    rfl

/-- Counters are no part of what an access depends on. -/
theorem alike_setCounters (s : State) (k : Nat) (hits misses backs : DWord) :
    Alike s (setCluster s k { Machine.clusterOf s k with hits := hits, misses := misses, writebacks := backs }) := by
  refine ⟨rfl, fun l => ?_, ⟨rfl, fun _ => rfl⟩⟩
  cases l with
  | l1 n => rfl
  | link n => rfl
  | cluster n =>
    rw [levelMap]
    by_cases hn : n = k
    · rw [hn, clusterOf_setCluster]
      rfl
    · rw [clusterOf_setCluster_ne s hn]
      rfl

theorem alike_countBacks (s : State) (k n : Nat) : Alike s (countBacks s k n) := by
  unfold countBacks
  split
  · exact .refl s
  · exact alike_setCounters ..

theorem alike_countCluster (s : State) (k a : Nat) (hit : Bool) : Alike s (countCluster s k a hit) := by
  unfold countCluster
  dsimp only
  split
  · exact alike_setCounters ..
  · exact (alike_setCounters ..).trans ⟨rfl, fun l => by cases l <;> rfl, ⟨rfl, fun _ => rfl⟩⟩

theorem alike_countRead (s : State) (ag : Agent) (a n : Nat) : Alike s (countRead s ag a n) := by
  unfold countRead
  split
  · exact .refl s
  · exact alike_countCluster ..

theorem alike_countWrite (s : State) (ag : Agent) (na : Bool) (a : Nat) : Alike s (countWrite s ag na a) := by
  unfold countWrite
  split
  · exact .refl s
  · exact alike_countCluster ..

theorem alike_countAtomic (s : State) (ag : Agent) (sc : Scope) (a : Nat) : Alike s (countAtomic s ag sc a) := by
  unfold countAtomic
  split
  · exact .refl s
  · split
    · exact alike_countCluster ..
    · exact .refl s

section
variable {s t : State} (h : Alike s t)
include h

theorem Alike.copyAt (l : Level) (a : Nat) : copyAt t l a = copyAt s l a := by rw [Machine.copyAt, h.level, Machine.copyAt]

theorem Alike.sameByte (a : Nat) : SameByte s t a := ⟨fun l => h.copyAt l a, by rw [homeByte, h.mem, homeByte]⟩

theorem Alike.lookByte (a : Nat) (p : List Level) (n : Nat) : lookByte t a p n = lookByte s a p n := (h.sameByte a).lookByte p n

theorem Alike.holdsLine (l : Level) (a : Nat) : holdsLine t l a = holdsLine s l a := by rw [Machine.holdsLine, h.level, Machine.holdsLine]

theorem Alike.heldWhere (ag : Agent) (p : Copy → Bool) : heldWhere t ag p = heldWhere s ag p := by
  have hcore (n : Nat) : (coreOf t n).l1 = (coreOf s n).l1 := h.level (.l1 n)
  have hcluster (n : Nat) : (Machine.clusterOf t n).cache = (Machine.clusterOf s n).cache := h.level (.cluster n)
  have hlink (n : Nat) : (hingeOf t n).link = (hingeOf s n).link := h.level (.link n)
  cases ag <;> simp only [Machine.heldWhere, hcore, hcluster, hlink]

theorem Alike.setLevel (l : Level) (m : AList Copy) : Alike (setLevel s l m) (setLevel t l m) := by
  refine ⟨?_, fun k => ?_, (copiesOnly_setLevel s l m).sameHomes.symm.trans (h.homes.trans (copiesOnly_setLevel t l m).sameHomes)⟩
  · cases l <;> exact h.mem
  · by_cases hk : k = l
    · rw [hk, levelMap_setLevel_self, levelMap_setLevel_self]
    · rw [levelMap_setLevel_ne t hk, levelMap_setLevel_ne s hk, h.level]

theorem Alike.putCopy (l : Level) (a : Nat) (c : Copy) : Alike (putCopy s l a c) (putCopy t l a c) := by
  rw [Machine.putCopy, Machine.putCopy, h.level]
  exact h.setLevel ..

theorem Alike.dropCopy (l : Level) (a : Nat) : Alike (dropCopy s l a) (dropCopy t l a) := by
  rw [Machine.dropCopy, Machine.dropCopy, h.level]
  exact h.setLevel ..

theorem Alike.homeWrite (a : Nat) (bs : List Byte) : Alike (homeWrite s a bs) (homeWrite t a bs) := by
  refine ⟨?_, fun k => ?_, ⟨h.homes.remap, h.homes.modules⟩⟩
  · rw [Machine.homeWrite, Machine.homeWrite, h.mem]
  · cases k with
    | l1 n => exact h.level (.l1 n)
    | cluster n => exact h.level (.cluster n)
    | link n => exact h.level (.link n)

end

/-! #### CleanBelow, DropBelow, and copies discarded -/

theorem Alike.handDown {s t : State} (h : Alike s t) (a : Nat) (l : Level) (rest : List Level) (v : Byte) :
    Alike (handDown s a l rest v) (handDown t a l rest v) := by
  cases rest with
  | nil => exact (h.homeWrite a [v]).putCopy ..
  | cons l2 rest => exact (h.putCopy ..).putCopy ..

theorem Alike.cleanByte {a : Nat} (p : List Level) (n : Nat) {s t : State} (h : Alike s t) :
    Alike (cleanByte a p n s) (cleanByte a p n t) := by
  induction p generalizing n s t with
  | nil => exact h
  | cons l rest ih =>
    cases n with
    | zero => exact h
    | succ n =>
      by_cases hclean : ∀ c, Machine.copyAt s l a = some c → c.dirty = false
      · rw [cleanByte_skip hclean, cleanByte_skip fun c hc => hclean c ((h.copyAt l a).symm.trans hc)]
        exact ih n h
      · push Not at hclean
        obtain ⟨c, hc, hd⟩ := hclean
        have hd' := Bool.eq_true_of_not_eq_false hd
        rw [cleanByte_dirty hc hd', cleanByte_dirty ((h.copyAt l a).trans hc) hd']
        exact ih n (h.handDown ..)

theorem Alike.dropByte {a : Nat} (p : List Level) (n : Nat) {s t : State} (h : Alike s t) :
    Alike (dropByte a p n s) (dropByte a p n t) := by
  induction p generalizing n s t with
  | nil => exact h
  | cons l rest ih =>
    cases n with
    | zero => exact h
    | succ n =>
      rw [dropByte_succ, dropByte_succ]
      refine ih n ?_
      rw [dropClean, dropClean, h.copyAt]
      split
      · split
        · exact h
        · exact h.dropCopy ..
      · exact h

theorem Alike.discardByte {a : Nat} (p : List Level) (n : Nat) {s t : State} (h : Alike s t) :
    Alike (discardByte a p n s) (discardByte a p n t) := by
  induction p generalizing n s t with
  | nil => exact h
  | cons l rest ih =>
    cases n with
    | zero => exact h
    | succ n => exact ih n (h.dropCopy ..)

/-- Steps that do the same to states alike do so one after the other. -/
theorem Alike.foldl {α : Type} {f : State → α → State} (hf : ∀ s t x, Alike s t → Alike (f s x) (f t x)) (xs : List α) {s t : State}
    (h : Alike s t) : Alike (xs.foldl f s) (xs.foldl f t) := by
  induction xs generalizing s t with
  | nil => exact h
  | cons x xs ih => exact ih (hf s t x h)

section
variable {s t : State} (h : Alike s t) (ag : Agent) (sc : Scope) (as : List Nat)
include h

theorem Alike.cleanAddrs : Alike (cleanAddrs s ag sc as) (cleanAddrs t ag sc as) := by
  obtain ⟨k, n, hs⟩ := cleanAddrs_counted s ag sc as
  obtain ⟨j, m, ht⟩ := cleanAddrs_counted t ag sc as
  have hsteps : Alike (as.foldl (cleanStep ag sc) s) (as.foldl (cleanStep ag sc) t) :=
    h.foldl (fun u v a huv => by rw [cleanStep, cleanStep, huv.homes.pathAbove]; exact huv.cleanByte ..) as
  rw [hs, ht]
  exact (alike_countBacks ..).symm.trans (hsteps.trans (alike_countBacks ..))

theorem Alike.cleanAll : Alike (cleanAll s ag sc) (cleanAll t ag sc) := by
  rw [Machine.cleanAll, Machine.cleanAll, h.heldWhere]
  split
  · exact h
  · exact h.cleanAddrs ..

theorem Alike.dropAddrs : Alike (dropAddrs s ag sc as) (dropAddrs t ag sc as) :=
  h.foldl (fun u v a huv => by
    change Alike (dropStep ag sc u a) (dropStep ag sc v a)
    rw [dropStep, dropStep, huv.homes.pathAbove]
    exact huv.dropByte ..) as

theorem Alike.dropAll : Alike (dropAll s ag sc) (dropAll t ag sc) := by
  rw [Machine.dropAll, Machine.dropAll, h.heldWhere]
  split
  · exact h
  · exact h.dropAddrs ..

theorem Alike.discardAddrs : Alike (discardAddrs s ag sc as) (discardAddrs t ag sc as) :=
  h.foldl (fun u v a huv => by rw [huv.homes.pathAbove]; exact huv.discardByte ..) as

end

/-! #### Reads and writes at a point -/

theorem Alike.fillByte {a : Nat} {v : Byte} {na : Bool} (p : List Level) (n : Nat) {s t : State} (h : Alike s t) :
    Alike (fillByte a v na p n s) (fillByte a v na p n t) := by
  induction p generalizing n s t with
  | nil => exact h
  | cons l rest ih =>
    cases n with
    | zero => exact h
    | succ n =>
      rw [Machine.fillByte, Machine.fillByte]
      refine ih n ?_
      split
      · exact h.putCopy ..
      · exact h

section
variable (ag : Agent) (sc : Scope)

theorem Alike.pointWrite {s t : State} (h : Alike s t) (a : Nat) (v : Byte) : Alike (pointWrite s ag sc a v) (pointWrite t ag sc a v) := by
  rw [Machine.pointWrite, Machine.pointWrite, h.homes.pathAbove]
  dsimp only
  split
  · exact h.homeWrite ..
  · exact h.putCopy ..

theorem Alike.pointWrites (bs : List Byte) {s t : State} (h : Alike s t) (a : Nat) :
    Alike (pointWrites s ag sc a bs) (pointWrites t ag sc a bs) := by
  induction bs generalizing s t a with
  | nil => exact h
  | cons v bs ih => exact ih (h.pointWrite ag sc a v) _

theorem Alike.pointLine {s t : State} (h : Alike s t) (a : Nat) : Alike (pointLine s ag sc a) (pointLine t ag sc a) := by
  rw [Machine.pointLine, Machine.pointLine, h.homes.pathAbove]
  dsimp only
  split
  · exact h
  · rw [h.holdsLine]
    split
    · exact h
    · simp only [putLine, h.level, h.lookByte]
      exact h.setLevel ..

theorem Alike.pointReads (n : Nat) {s t : State} (h : Alike s t) (a : Nat) :
    (pointReads t ag sc a n).1 = (pointReads s ag sc a n).1 ∧ Alike (pointReads s ag sc a n).2 (pointReads t ag sc a n).2 := by
  induction n generalizing s t a with
  | zero => exact ⟨rfl, h⟩
  | succ n ih =>
    have hone : (pointRead t ag sc a).1 = (pointRead s ag sc a).1 ∧ Alike (pointRead s ag sc a).2 (pointRead t ag sc a).2 := by
      simp only [pointRead, h.homes.pathAbove, h.lookByte, true_and]
      exact h.fillByte ..
    obtain ⟨hrest, halike⟩ := ih hone.2 (a + 1)
    refine ⟨?_, halike⟩
    change (pointRead t ag sc a).1 :: _ = (pointRead s ag sc a).1 :: _
    rw [hone.1]
    exact congrArg _ hrest

theorem Alike.pointStep {s t : State} (h : Alike s t) (a n : Nat) (f : Nat → Option Nat) :
    (pointStep t ag sc a n f).1 = (pointStep s ag sc a n f).1 ∧ Alike (pointStep s ag sc a n f).2 (pointStep t ag sc a n f).2 := by
  have hcount : Alike (countAtomic s ag sc a) (countAtomic t ag sc a) :=
    (alike_countAtomic ..).symm.trans (h.trans (alike_countAtomic ..))
  obtain ⟨hbytes, halike⟩ := Alike.pointReads ag sc n (((hcount.cleanAddrs ag sc (addrRange a n)).discardAddrs ag sc
    (addrRange a n)).pointLine ag sc a) a
  unfold Machine.pointStep
  dsimp only
  rw [hbytes]
  split
  · exact ⟨rfl, halike.pointWrites ag sc _ a⟩
  · exact ⟨rfl, halike⟩

end

end Sys2Proof.Proofs
end

section
/-! SUPPORT. Plain loads and stores, the byte at a point and DropBelow, as values (R266-R269). -/

namespace Sys2Proof.Proofs
open Sys2Proof.Machine Sys2Proof.Claims

/-! ### The value of a byte along a path (R266) -/

/-- The value that a byte has at the first level of a path that holds a copy, else at home. -/
def look (s : State) (a : Nat) (p : List Level) : Byte := (lookByte s a p 0).1

theorem lookByte_count (s : State) (a : Nat) (p : List Level) (n : Nat) : (lookByte s a p n).1 = look s a p := by
  unfold look
  induction p generalizing n with
  | nil => rfl
  | cons l p ih =>
    rw [lookByte, lookByte]
    cases copyAt s l a with
    | some c => rfl
    | none => exact (ih _).trans (ih _).symm

theorem look_nil (s : State) (a : Nat) : look s a [] = homeByte s a := rfl

theorem look_cons_some {s : State} {l : Level} {a : Nat} {c : Copy} (h : copyAt s l a = some c) (p : List Level) :
    look s a (l :: p) = c.value := by
  rw [look, lookByte, h]

theorem look_cons_none {s : State} {l : Level} {a : Nat} (h : copyAt s l a = none) (p : List Level) : look s a (l :: p) = look s a p := by
  rw [look, lookByte, h]
  exact lookByte_count ..

theorem seenByte_eq_look (s : State) (ag : Agent) (a : Nat) : seenByte s ag a = look s a (path s ag a) := rfl

theorem path_split (s : State) (ag : Agent) (sc : Scope) (a : Nat) : path s ag a = above s ag sc a ++ below s ag sc a :=
  (List.take_append_drop _ _).symm

theorem not_mem_below {s : State} {ag : Agent} {sc : Scope} {a : Nat} {l : Level} (h : l ∈ above s ag sc a) : l ∉ below s ag sc a :=
  List.disjoint_of_nodup_append (path_split s ag sc a ▸ path_nodup s ag a) h

/-- A byte whose copies change to the value that it has along a path, if at all, keeps it. -/
theorem look_refilled {s t : State} {a : Nat} (hhome : homeByte t a = homeByte s a) {v : Byte} {p : List Level}
    (h : ∀ l ∈ p, copyAt t l a = copyAt s l a ∨ ∃ c, copyAt t l a = some c ∧ c.value = v) (hv : look s a p = v) : look t a p = v := by
  induction p with
  | nil => exact hhome.trans hv
  | cons l p ih =>
    obtain ⟨hl, hp⟩ := List.forall_mem_cons.mp h
    rcases hl with hl | ⟨c, hc, hcv⟩
    · cases hs : copyAt s l a with
      | some c => rw [look_cons_some (hl.trans hs), ← look_cons_some hs p, hv]
      | none =>
        rw [look_cons_none (hl.trans hs)]
        exact ih hp ((look_cons_none hs p).symm.trans hv)
    · rw [look_cons_some hc, hcv]

theorem look_congr {s t : State} {a : Nat} (hhome : homeByte t a = homeByte s a) {p : List Level}
    (h : ∀ l ∈ p, copyAt t l a = copyAt s l a) : look t a p = look s a p :=
  look_refilled hhome (fun l hl => .inl (h l hl)) rfl

theorem SameByte.seenByte {s t : State} {a : Nat} (h : SameByte s t a) (hhomes : SameHomes s t) (ag : Agent) :
    seenByte t ag a = seenByte s ag a := by
  rw [seenByte_eq_look, seenByte_eq_look, hhomes.path]
  exact look_congr h.home fun l _ => h.copies l

theorem SameByte.refl (s : State) (a : Nat) : SameByte s s a := ⟨fun _ => rfl, rfl⟩

theorem SameByte.symm {s t : State} {a : Nat} (h : SameByte s t a) : SameByte t s a := ⟨fun l => (h.copies l).symm, h.home.symm⟩

/-- What `n` bytes are, as one number. -/
def numberOf (f : Nat → Byte) (a : Nat) : Nat → Nat
  | 0 => 0
  | n + 1 => (f a).toNat + 256 * numberOf f (a + 1) n

theorem seenValue_eq (s : State) (ag : Agent) (a n : Nat) : seenValue s ag a n = numberOf (seenByte s ag) a n := by
  induction n generalizing a with
  | zero => rfl
  | succ n ih => rw [seenValue, numberOf, ih]

theorem pointValue_eq (s : State) (ag : Agent) (sc : Scope) (a n : Nat) :
    pointValue s ag sc a n = numberOf (pointByte s ag sc) a n := by
  induction n generalizing a with
  | zero => rfl
  | succ n ih => rw [pointValue, numberOf, ih]

theorem numberOf_congr {f g : Nat → Byte} {a n : Nat} (h : ∀ b, a ≤ b → b < a + n → f b = g b) : numberOf f a n = numberOf g a n := by
  induction n generalizing a with
  | zero => rfl
  | succ n ih =>
    rw [numberOf, numberOf, h a le_rfl (by omega), ih fun b hlo hhi => h b (by omega) (by omega)]

/-- The bytes of a number give it back. -/
theorem numberOf_bytes {f : Nat → Byte} {a n v : Nat} (h : ∀ j, j < n → (f (a + j)).toNat = v / 256 ^ j % 256) :
    numberOf f a n = v % 256 ^ n := by
  induction n generalizing a v with
  | zero => rw [numberOf, Nat.pow_zero, Nat.mod_one]
  | succ n ih =>
    have hfirst : (f a).toNat = v % 256 := by simpa using h 0 (Nat.succ_pos n)
    have hrest : numberOf f (a + 1) n = v / 256 % 256 ^ n := ih fun j hj => by
      have := h (j + 1) (by omega)
      rwa [← Nat.add_assoc, Nat.add_right_comm, Nat.pow_succ', ← Nat.div_div_eq_div_mul] at this
    rw [numberOf, hfirst, hrest, Nat.pow_succ', Nat.mod_mul]

/-! ### Plain loads (R269) -/

/-- A level takes a copy of a filled byte: each, or a link alone. -/
def keepsFill (na : Bool) (l : Level) : Bool := !na || levelRank l == 3

theorem fillByte_others {a b : Nat} (h : b ≠ a) (v : Byte) (na : Bool) (p : List Level) (n : Nat) (s : State) :
    SameByte s (fillByte a v na p n s) b := by
  induction p generalizing n s with
  | nil => exact .refl s b
  | cons l p ih =>
    cases n with
    | zero => exact .refl s b
    | succ n =>
      rw [fillByte]
      refine SameByte.trans ?_ (ih n _)
      split
      · exact ⟨fun k => copyAt_putCopy_ne _ (.inr h) _, putCopy_home ..⟩
      · exact .refl s b

theorem fillByte_home (a : Nat) (v : Byte) (na : Bool) (p : List Level) (n : Nat) (s : State) (b : Nat) :
    homeByte (fillByte a v na p n s) b = homeByte s b := by
  induction p generalizing n s with
  | nil => rfl
  | cons l p ih =>
    cases n with
    | zero => rfl
    | succ n =>
      rw [fillByte, ih]
      split
      · exact putCopy_home ..
      · rfl

/-- A level of the filled ones has a clean copy of the value, or what it had. -/
theorem copyAt_fillByte (a : Nat) (v : Byte) (na : Bool) (p : List Level) (n : Nat) (s : State) (l : Level) :
    copyAt (fillByte a v na p n s) l a = copyAt s l a ∨
      l ∈ p.take n ∧ copyAt (fillByte a v na p n s) l a = some { value := v, dirty := false } := by
  induction p generalizing n s with
  | nil => exact .inl rfl
  | cons k p ih =>
    cases n with
    | zero => exact .inl rfl
    | succ n =>
      rw [fillByte, List.take_succ_cons]
      have hstep (u : State) (hu : copyAt u l a = copyAt s l a ∨
          l = k ∧ copyAt u l a = some { value := v, dirty := false }) : copyAt (fillByte a v na p n u) l a = copyAt s l a ∨
          l ∈ k :: p.take n ∧ copyAt (fillByte a v na p n u) l a = some { value := v, dirty := false } := by
        rcases ih n u with heq | ⟨hmem, heq⟩
        · rw [heq]
          exact hu.imp_right fun ⟨hk, hc⟩ => ⟨hk ▸ List.mem_cons_self, hc⟩
        · exact .inr ⟨List.mem_cons_of_mem _ hmem, heq⟩
      split
      · refine hstep _ ?_
        by_cases hk : l = k
        · exact .inr ⟨hk, hk ▸ copyAt_putCopy ..⟩
        · exact .inl (copyAt_putCopy_ne _ (.inl hk) _)
      · exact hstep s (.inl rfl)

theorem loadByte_others (s : State) (ag : Agent) (na : Bool) {a b : Nat} (h : b ≠ a) : SameByte s (loadByte s ag na a).2 b :=
  fillByte_others h ..

theorem loadByte_value (s : State) (ag : Agent) (na : Bool) (a : Nat) : (loadByte s ag na a).1 = seenByte s ag a := rfl

theorem loadByte_home (s : State) (ag : Agent) (na : Bool) (a b : Nat) : homeByte (loadByte s ag na a).2 b = homeByte s b :=
  fillByte_home ..

theorem cachesOnly_loadByte (s : State) (ag : Agent) (na : Bool) (a : Nat) : CachesOnly s (loadByte s ag na a).2 :=
  cachesOnly_fillByte ..

theorem seenByte_loadByte (s : State) (ag : Agent) (na : Bool) (a b : Nat) : seenByte (loadByte s ag na a).2 ag b = seenByte s ag b := by
  have hhomes := (cachesOnly_loadByte s ag na a).sameHomes
  by_cases hb : b = a
  · subst hb
    rw [seenByte_eq_look, hhomes.path]
    refine look_refilled (loadByte_home ..) (fun l _ => ?_) (seenByte_eq_look s ag b).symm
    exact (copyAt_fillByte b (seenByte s ag b) na (path s ag b) _ s l).imp_right fun h => ⟨_, h.2, rfl⟩
  · exact (loadByte_others s ag na hb).seenByte hhomes ag

theorem loadBytes_home (ag : Agent) (na : Bool) (n : Nat) (s : State) (a b : Nat) :
    homeByte (loadBytes s ag na a n).2 b = homeByte s b := by
  induction n generalizing s a with
  | zero => rfl
  | succ n ih => exact (ih _ _).trans (loadByte_home ..)

theorem seenByte_loadBytes (ag : Agent) (na : Bool) (n : Nat) (s : State) (a b : Nat) :
    seenByte (loadBytes s ag na a n).2 ag b = seenByte s ag b := by
  induction n generalizing s a with
  | zero => rfl
  | succ n ih => exact (ih _ _).trans (seenByte_loadByte ..)

theorem seenValue_loadBytes (ag : Agent) (na : Bool) (n : Nat) (s : State) (a : Nat) :
    leNat (loadBytes s ag na a n).1 = seenValue s ag a n := by
  rw [seenValue_eq]
  induction n generalizing s a with
  | zero => rfl
  | succ n ih =>
    have hrest : leNat (loadBytes (loadByte s ag na a).2 ag na (a + 1) n).1 = numberOf (seenByte s ag) (a + 1) n :=
      (ih _ _).trans (numberOf_congr fun b _ _ => seenByte_loadByte ..)
    exact congrArg (fun x => (seenByte s ag a).toNat + 256 * x) hrest

/-! ### Plain stores (R269) -/

theorem storeByte_others (s : State) (ag : Agent) (na : Bool) {a b : Nat} (h : b ≠ a) (v : Byte) :
    SameByte s (storeByte s ag na a v) b := by
  have hput (l : Level) (c : Copy) : SameByte s (putCopy s l a c) b := ⟨fun k => copyAt_putCopy_ne s (.inr h) c, putCopy_home ..⟩
  unfold storeByte
  split
  · refine ⟨fun k => ?_, aGet_writeBytes_out 0 s.mem a [v] (by simp; omega)⟩
    cases k <;> rfl
  · split
    · split <;> exact hput ..
    · exact hput ..

theorem seenByte_storeByte (s : State) (ag : Agent) (na : Bool) (a : Nat) (v : Byte) : seenByte (storeByte s ag na a v) ag a = v := by
  rw [seenByte_eq_look, (cachesOnly_storeByte s ag na a v).sameHomes.path]
  have hnodup := path_nodup s ag a
  unfold storeByte
  split
  next hpath => exact hpath ▸ aGet_writeBytes_in 0 s.mem a [v] (i := 0) (by simp)
  next l rest hpath =>
    rw [hpath] at hnodup ⊢
    have hfirst : look (putCopy s l a { value := v, dirty := true }) a (l :: rest) = v := look_cons_some (copyAt_putCopy ..) _
    split
    next l2 rest' =>
      split
      next hskip =>
        have hnone : copyAt s l a = none := by simp only [Bool.and_eq_true, Option.isNone_iff_eq_none] at hskip; exact hskip.2
        have hne : l ≠ l2 := List.ne_of_not_mem_cons (List.nodup_cons.mp hnodup).1
        rw [look_cons_none ((copyAt_putCopy_ne s (.inl hne) _).trans hnone)]
        exact look_cons_some (copyAt_putCopy ..) _
      next => exact hfirst
    next => exact hfirst

/-- A thread's stores leave home as it was: its L1 or its cluster's cache takes them. -/
theorem storeByte_home (s : State) (core team ctx : Nat) (na : Bool) (a : Nat) (v : Byte) (b : Nat) :
    homeByte (storeByte s (.thread core team ctx) na a v) b = homeByte s b := by
  unfold storeByte
  split
  next hpath => simp [path] at hpath
  · split
    · split <;> exact putCopy_home ..
    · exact putCopy_home ..

theorem storeBytes_others (ag : Agent) (na : Bool) (bs : List Byte) (s : State) {a b : Nat} (h : b < a ∨ a + bs.length ≤ b) :
    SameByte s (storeBytes s ag na a bs) b := by
  induction bs generalizing s a with
  | nil => exact .refl s b
  | cons v bs ih =>
    rw [List.length_cons] at h
    exact (storeByte_others s ag na (by omega) v).trans (ih _ (by omega))

theorem seenByte_storeBytes (ag : Agent) (na : Bool) (bs : List Byte) (s : State) (a j : Nat) (h : j < bs.length) :
    seenByte (storeBytes s ag na a bs) ag (a + j) = bs[j] := by
  induction bs generalizing s a j with
  | nil => exact absurd h (Nat.not_lt_zero j)
  | cons v bs ih =>
    cases j with
    | zero =>
      have hrest := storeBytes_others ag na bs (storeByte s ag na a v) (a := a + 1) (b := a) (.inl (Nat.lt_succ_self a))
      exact (hrest.seenByte (cachesOnly_storeBytes ag na bs _ _).sameHomes ag).trans (seenByte_storeByte ..)
    | succ j =>
      have hrest := ih (storeByte s ag na a v) (a + 1) j (Nat.lt_of_succ_lt_succ h)
      rwa [Nat.add_right_comm] at hrest

theorem storeBytes_home (core team ctx : Nat) (na : Bool) (bs : List Byte) (s : State) (a b : Nat) :
    homeByte (storeBytes s (.thread core team ctx) na a bs) b = homeByte s b := by
  induction bs generalizing s a with
  | nil => rfl
  | cons v bs ih => exact (ih _ _).trans (storeByte_home ..)

theorem storeThenLoad : StoreThenLoad := by
  intro s ag na a bs
  refine ⟨fun j h => seenByte_storeBytes ag na bs s a j h, fun b hb => ?_, fun na' n => (seenValue_loadBytes ..).symm,
    fun na' n b => ⟨seenByte_loadBytes .., loadBytes_home ..⟩⟩
  have hsame := storeBytes_others ag na bs s hb
  exact ⟨hsame.seenByte (cachesOnly_storeBytes ag na bs s a).sameHomes ag, hsame.home⟩

/-! ### The byte at a point (R268) -/

theorem noDirtyAbove_iff {s : State} {ag : Agent} {sc : Scope} {a : Nat} :
    NoDirtyAbove s ag sc a ↔ ∀ l ∈ above s ag sc a, ∀ c, copyAt s l a = some c → c.dirty = false := Iff.rfl

theorem noCleanAbove_iff {s : State} {ag : Agent} {sc : Scope} {a : Nat} :
    NoCleanAbove s ag sc a ↔ ∀ l ∈ above s ag sc a, ∀ c, copyAt s l a = some c → c.dirty = true := Iff.rfl

theorem noneAbove_iff {s : State} {ag : Agent} {sc : Scope} {a : Nat} :
    NoneAbove s ag sc a ↔ ∀ l ∈ above s ag sc a, copyAt s l a = none := Iff.rfl

theorem noDirtyAbove_of_none {s : State} {ag : Agent} {sc : Scope} {a : Nat} (h : NoneAbove s ag sc a) : NoDirtyAbove s ag sc a :=
  fun l hl c hc => by rw [h l hl] at hc; cases hc

theorem noCleanAbove_of_none {s : State} {ag : Agent} {sc : Scope} {a : Nat} (h : NoneAbove s ag sc a) : NoCleanAbove s ag sc a :=
  fun l hl c hc => by rw [h l hl] at hc; cases hc

theorem noneAbove_of_both {s : State} {ag : Agent} {sc : Scope} {a : Nat} (hd : NoDirtyAbove s ag sc a) (hc : NoCleanAbove s ag sc a) :
    NoneAbove s ag sc a := fun l hl => by
  cases h : copyAt s l a with
  | none => rfl
  | some c => exact absurd ((hd l hl c h).symm.trans (hc l hl c h)) Bool.false_ne_true

theorem pointByte_clean {s : State} {ag : Agent} {sc : Scope} {a : Nat} (h : NoDirtyAbove s ag sc a) :
    pointByte s ag sc a = look s a (below s ag sc a) := between_of_clean h _

theorem between_congr {s t : State} {a : Nat} {up down : List Level} (habove : ∀ l ∈ up, dirtyValue t a l = dirtyValue s a l)
    (hbelow : look t a down = look s a down) : between t a up down = between s a up down := by
  induction up with
  | nil => exact hbelow
  | cons l up ih =>
    obtain ⟨hl, hup⟩ := List.forall_mem_cons.mp habove
    have hrest := ih hup
    unfold between at hrest ⊢
    rw [List.findSome?_cons, List.findSome?_cons, hl]
    cases dirtyValue s a l with
    | some v => rfl
    | none => exact hrest

section
variable {s t : State} {ag : Agent} {sc : Scope} {a : Nat} (hhomes : SameHomes s t)
include hhomes

theorem pointByte_congr (habove : ∀ l ∈ above s ag sc a, dirtyValue t a l = dirtyValue s a l)
    (hbelow : look t a (below s ag sc a) = look s a (below s ag sc a)) : pointByte t ag sc a = pointByte s ag sc a := by
  rw [pointByte_eq_between, pointByte_eq_between, hhomes.pathAbove]
  exact between_congr habove hbelow

/-- The copies above the point are as they were. -/
theorem noDirtyAbove_kept (habove : ∀ l ∈ above s ag sc a, copyAt t l a = copyAt s l a) (h : NoDirtyAbove s ag sc a) :
    NoDirtyAbove t ag sc a := by
  rw [noDirtyAbove_iff, hhomes.above]
  exact fun l hl c hc => h l hl c ((habove l hl).symm.trans hc)

theorem noneAbove_kept (habove : ∀ l ∈ above s ag sc a, copyAt t l a = copyAt s l a) (h : NoneAbove s ag sc a) :
    NoneAbove t ag sc a := by
  rw [noneAbove_iff, hhomes.above]
  exact fun l hl => (habove l hl).trans (h l hl)

theorem pointByte_kept (habove : ∀ l ∈ above s ag sc a, copyAt t l a = copyAt s l a)
    (hbelow : look t a (below s ag sc a) = look s a (below s ag sc a)) : pointByte t ag sc a = pointByte s ag sc a :=
  pointByte_congr hhomes (fun l hl => by rw [dirtyValue, habove l hl, dirtyValue]) hbelow

end

theorem Alike.pointByte {s t : State} (h : Alike s t) (ag : Agent) (sc : Scope) (a : Nat) : pointByte t ag sc a = pointByte s ag sc a :=
  (h.sameByte a).pointByte h.homes ag sc

theorem Alike.pointValue {s t : State} (h : Alike s t) (ag : Agent) (sc : Scope) (a n : Nat) :
    pointValue t ag sc a n = pointValue s ag sc a n := by
  rw [pointValue_eq, pointValue_eq]
  exact numberOf_congr fun b _ _ => h.pointByte ag sc b

theorem Alike.seenByte {s t : State} (h : Alike s t) (ag : Agent) (a : Nat) : seenByte t ag a = seenByte s ag a :=
  (h.sameByte a).seenByte h.homes ag

theorem Alike.seenValue {s t : State} (h : Alike s t) (ag : Agent) (a n : Nat) : seenValue t ag a n = seenValue s ag a n := by
  rw [seenValue_eq, seenValue_eq]
  exact numberOf_congr fun b _ _ => h.seenByte ag b

theorem Alike.noDirtyAbove {s t : State} (h : Alike s t) {ag : Agent} {sc : Scope} {a : Nat} (hs : NoDirtyAbove s ag sc a) :
    NoDirtyAbove t ag sc a := noDirtyAbove_kept h.homes (fun l _ => h.copyAt l a) hs

theorem Alike.noneAbove {s t : State} (h : Alike s t) {ag : Agent} {sc : Scope} {a : Nat} (hs : NoneAbove s ag sc a) :
    NoneAbove t ag sc a := noneAbove_kept h.homes (fun l _ => h.copyAt l a) hs

theorem Alike.noCleanAbove {s t : State} (h : Alike s t) {ag : Agent} {sc : Scope} {a : Nat} (hs : NoCleanAbove s ag sc a) :
    NoCleanAbove t ag sc a := by
  rw [noCleanAbove_iff, h.homes.above]
  exact fun l hl c hc => hs l hl c ((h.copyAt l a).symm.trans hc)

/-! #### Some bytes cleaned, or all -/

section
variable (s : State) (ag : Agent) (sc : Scope) (as : List Nat)

theorem cleanAddrs_alike : Alike (as.foldl (cleanStep ag sc) s) (cleanAddrs s ag sc as) := by
  obtain ⟨k, n, hcount⟩ := cleanAddrs_counted s ag sc as
  rw [hcount]
  exact alike_countBacks ..

theorem pointByte_cleanAddrs (b : Nat) : pointByte (cleanAddrs s ag sc as) ag sc b = pointByte s ag sc b :=
  ((cleanAddrs_alike s ag sc as).pointByte ag sc b).trans (pointByte_cleanSteps ..)

theorem noDirtyAbove_cleanAddrs {b : Nat} (h : NoDirtyAbove s ag sc b ∨ b ∈ as) : NoDirtyAbove (cleanAddrs s ag sc as) ag sc b :=
  (cleanAddrs_alike s ag sc as).noDirtyAbove (noDirtyAbove_cleanSteps as h)

theorem cleanAddrs_others {b : Nat} (h : b ∉ as) : SameByte s (cleanAddrs s ag sc as) b := by
  refine SameByte.trans ?_ ((cleanAddrs_alike s ag sc as).sameByte b)
  refine List.foldlRecOn as _ (motive := fun u => SameByte s u b) (.refl s b) fun u hu a ha => hu.trans ?_
  exact cleanByte_others u (fun hb => h (by rwa [hb])) _ _

end

/-! #### DropBelow of all -/

theorem dropAll_home (s : State) (ag : Agent) (sc : Scope) (b : Nat) : homeByte (dropAll s ag sc) b = homeByte s b := by
  rw [homeByte, dropAll_mem, homeByte]

theorem noCleanAbove_dropAll (s : State) (ag : Agent) (sc : Scope) (a : Nat) : NoCleanAbove (dropAll s ag sc) ag sc a := by
  rw [noCleanAbove_iff, (copiesOnly_dropAll s ag sc).sameHomes.above]
  intro l hl c hc
  rw [copyAt_dropAll, if_pos hl] at hc
  exact (Option.filter_eq_some_iff.mp hc).2

theorem dirty_dropAll {s : State} {l : Level} {a : Nat} {c : Copy} (hc : copyAt s l a = some c) (hd : c.dirty = true) (ag : Agent)
    (sc : Scope) : copyAt (dropAll s ag sc) l a = some c := by
  rw [copyAt_dropAll, hc]
  simp [hd, Option.filter]

theorem pointByte_dropAll (s : State) (ag : Agent) (sc : Scope) (a : Nat) : pointByte (dropAll s ag sc) ag sc a = pointByte s ag sc a := by
  refine pointByte_congr (copiesOnly_dropAll s ag sc).sameHomes (fun l hl => ?_) (look_congr (dropAll_home ..) fun l hl => ?_)
  · rw [dirtyValue, copyAt_dropAll, if_pos hl, dirtyValue]
    cases copyAt s l a with
    | none => rfl
    | some c => cases hd : c.dirty <;> simp [hd, Option.filter]
  · rw [copyAt_dropAll, if_neg fun habove => not_mem_below habove hl]

theorem pointDropped (s : State) (ag : Agent) (sc : Scope) : PointDropped s (dropAll s ag sc) ag sc :=
  ⟨fun a => ⟨noCleanAbove_dropAll s ag sc a, pointByte_dropAll s ag sc a⟩, fun _ _ _ hc hd => dirty_dropAll hc hd ag sc,
    dropAll_home s ag sc⟩

/-- CleanBelow of all, then DropBelow of all: nothing is left above the point. -/
theorem noneAbove_cleanedAndDropped (s : State) (ag : Agent) (sc : Scope) (a : Nat) :
    NoneAbove (dropAll (cleanAll s ag sc) ag sc) ag sc a := by
  refine noneAbove_of_both ?_ (noCleanAbove_dropAll _ ag sc a)
  rw [noDirtyAbove_iff, (copiesOnly_dropAll (cleanAll s ag sc) ag sc).sameHomes.above]
  intro l hl c hc
  rw [copyAt_dropAll, if_pos hl] at hc
  exact (cleanAll_pointCleaned s ag sc a).1 l hl c (Option.filter_eq_some_iff.mp hc).1

end Sys2Proof.Proofs
end

section
/-! SUPPORT. The step of an atomic at its scope's point, and release writes (R269, R292). -/

namespace Sys2Proof.Proofs
open Sys2Proof.Machine Sys2Proof.Claims

/-! ### One page's bytes have one path (R245, R267) -/

section
variable (s : State) (ag : Agent) (sc : Scope) {a b : Nat} (h : a / 65536 = b / 65536)
include h

theorem remote_samePage (hinge : Nat) : remote s hinge a = remote s hinge b := by
  have hsys : (sysBase ≤ a) ↔ (sysBase ≤ b) := by unfold sysBase; omega
  simp only [remote, hsys, h]

theorem pathAbove_samePage : pathAbove s ag sc a = pathAbove s ag sc b := by
  have hsys : (sysBase ≤ a) ↔ (sysBase ≤ b) := by unfold sysBase; omega
  have hpath : path s ag a = path s ag b := by cases ag <;> simp only [path, remote_samePage s h]
  have hrank : scopeRank s ag sc a = scopeRank s ag sc b := by cases sc <;> simp only [scopeRank, remote_samePage s h, hsys]
  rw [pathAbove, hpath, hrank, pathAbove]

theorem above_samePage : above s ag sc a = above s ag sc b := by rw [above, pathAbove_samePage s ag sc h, above]

theorem below_samePage : below s ag sc a = below s ag sc b := by rw [below, pathAbove_samePage s ag sc h, below]

end

/-! ### A line put at a level (R291) -/

theorem aFind_append_or {β : Type} (k : Nat) (xs ys : AList β) : aFind k (xs ++ ys) = (aFind k xs).or (aFind k ys) := by
  induction xs with
  | nil => rfl
  | cons x xs ih =>
    obtain ⟨j, v⟩ := x
    rw [List.cons_append, aFind_cons, aFind_cons, ih]
    split <;> rfl

theorem aFind_addrRange {β : Type} (f : Nat → β) (a n k : Nat) :
    aFind k ((addrRange a n).map fun x => (x, f x)) = if k ∈ addrRange a n then some (f k) else none := by
  generalize addrRange a n = xs
  induction xs with
  | nil => simp
  | cons x xs ih =>
    rw [List.map_cons, aFind_cons, ih]
    by_cases hk : k = x
    · subst hk
      simp
    · simp [hk, Ne.symm hk]

theorem copyAt_putLine (s : State) (l k : Level) (a b : Nat) (v : Nat → Byte) :
    copyAt (putLine s l a v) k b = if k = l ∧ b / 128 = a / 128 then some { value := v b, dirty := false } else copyAt s k b := by
  by_cases hk : k = l
  · subst hk
    rw [copyAt, putLine]
    rw [levelMap_setLevel_self, aFind_append_or, aFind_append_or, aFind_addrRange, aFind_aFilter_key (fun x => decide (x < a / 128 * 128)),
      aFind_aFilter_key (fun x => decide (a / 128 * 128 + 128 ≤ x)), copyAt]
    by_cases hline : b / 128 = a / 128
    · have hlo : ¬ b < a / 128 * 128 := by omega
      have hin : b ∈ addrRange (a / 128 * 128) 128 := mem_line.mpr hline
      simp [hlo, hin, hline]
    · have hout : b ∉ addrRange (a / 128 * 128) 128 := fun h => hline (mem_line.mp h)
      by_cases hlo : b < a / 128 * 128
      · have hhi : ¬ a / 128 * 128 + 128 ≤ b := by omega
        simp [hlo, hhi, hline, hout]
      · have hhi : a / 128 * 128 + 128 ≤ b := by omega
        simp [hlo, hhi, hline, hout]
  · rw [copyAt, putLine]
    rw [levelMap_setLevel_ne s hk, if_neg fun h => hk h.1, copyAt]

theorem copyAt_none_of_holdsLine {s : State} {l : Level} {a b : Nat} (h : holdsLine s l a = false) (hb : b / 128 = a / 128) :
    copyAt s l b = none := by
  cases hc : copyAt s l b with
  | none => rfl
  | some c =>
    have hany : holdsLine s l a = true := List.any_eq_true.mpr ⟨(b, c), mem_of_aFind hc, beq_iff_eq.mpr hb⟩
    exact absurd (h.symm.trans hany) Bool.false_ne_true

/-! ### What reads at a point keep -/

/-- Home, the copies above the point, and what stands at it are as they were. -/
structure PointKept (s t : State) (ag : Agent) (sc : Scope) : Prop where
  homes : SameHomes s t
  home : ∀ b, homeByte t b = homeByte s b
  above : ∀ b, ∀ l ∈ above s ag sc b, copyAt t l b = copyAt s l b
  look : ∀ b, look t b (below s ag sc b) = look s b (below s ag sc b)

section
variable {ag : Agent} {sc : Scope}

theorem PointKept.refl (s : State) : PointKept s s ag sc := ⟨.refl s, fun _ => rfl, fun _ _ _ => rfl, fun _ => rfl⟩

theorem PointKept.trans {s t u : State} (h : PointKept s t ag sc) (h' : PointKept t u ag sc) : PointKept s u ag sc where
  homes := h.homes.trans h'.homes
  home b := (h'.home b).trans (h.home b)
  above b l hl := (h'.above b l (h.homes.above ag sc b ▸ hl)).trans (h.above b l hl)
  look b := by
    have := h'.look b
    rw [h.homes.below] at this
    exact this.trans (h.look b)

theorem PointKept.pointByte {s t : State} (h : PointKept s t ag sc) (b : Nat) : pointByte t ag sc b = pointByte s ag sc b :=
  pointByte_kept h.homes (h.above b) (h.look b)

theorem Alike.pointKept {s t : State} (h : Alike s t) : PointKept s t ag sc :=
  ⟨h.homes, fun b => (h.sameByte b).home, fun b l _ => h.copyAt l b, fun b => look_congr (h.sameByte b).home fun l _ => h.copyAt l b⟩

variable (ag sc)

theorem pointLine_kept (s : State) (a : Nat) : PointKept s (pointLine s ag sc a) ag sc := by
  have hhomes := (cachesOnly_pointLine s ag sc a).sameHomes
  have hhome (b : Nat) : homeByte (pointLine s ag sc a) b = homeByte s b := by rw [homeByte, pointLine_mem, homeByte]
  have hbelow : (pathAbove s ag sc a).1.drop (pathAbove s ag sc a).2 = below s ag sc a := rfl
  revert hhomes hhome
  unfold pointLine
  dsimp only
  rw [hbelow]
  split
  · exact fun _ _ => .refl s
  next l rest hpoint =>
    split
    · exact fun _ _ => .refl s
    next hholds =>
      intro hhomes hhome
      have hline (b : Nat) (hb : b / 128 = a / 128) : below s ag sc b = l :: rest :=
        (below_samePage s ag sc (by omega)).trans hpoint
      refine ⟨hhomes, hhome, fun b k hk => ?_, fun b => ?_⟩
      · rw [copyAt_putLine, if_neg]
        rintro ⟨rfl, hb⟩
        exact not_mem_below hk (by rw [hline b hb]; exact List.mem_cons_self)
      · by_cases hb : b / 128 = a / 128
        · have hput : copyAt (putLine s l a fun x => (lookByte s x rest 0).1) l b = some { value := look s b rest, dirty := false } := by
            rw [copyAt_putLine, if_pos ⟨rfl, hb⟩]
            rfl
          rw [hline b hb, look_cons_some hput, look_cons_none (copyAt_none_of_holdsLine (Bool.eq_false_iff.mpr hholds) hb)]
        · exact look_congr (hhome b) fun k _ => by rw [copyAt_putLine, if_neg fun h => hb h.2]

theorem pointRead_value (s : State) (a : Nat) : (pointRead s ag sc a).1 = look s a (below s ag sc a) := rfl

theorem pointRead_kept (s : State) (a : Nat) : PointKept s (pointRead s ag sc a).2 ag sc := by
  have hothers (b : Nat) (hb : b ≠ a) : SameByte s (pointRead s ag sc a).2 b := fillByte_others hb ..
  have hself (l : Level) : copyAt (pointRead s ag sc a).2 l a = copyAt s l a ∨
      l ∈ below s ag sc a ∧ copyAt (pointRead s ag sc a).2 l a = some { value := look s a (below s ag sc a), dirty := false } :=
    (copyAt_fillByte a (look s a (below s ag sc a)) false (below s ag sc a) _ s l).imp_right fun h => ⟨List.mem_of_mem_take h.1, h.2⟩
  have hhome (b : Nat) : homeByte (pointRead s ag sc a).2 b = homeByte s b := fillByte_home ..
  refine ⟨(cachesOnly_fillByte ..).sameHomes, hhome, fun b l hl => ?_, fun b => ?_⟩
  · by_cases hb : b = a
    · subst hb
      exact (hself l).resolve_right fun h => not_mem_below hl h.1
    · exact (hothers b hb).copies l
  · by_cases hb : b = a
    · subst hb
      exact look_refilled (hhome b) (fun l _ => (hself l).imp_right fun h => ⟨_, h.2, rfl⟩) rfl
    · exact look_congr (hhome b) fun l _ => (hothers b hb).copies l

theorem pointReads_kept (n : Nat) (s : State) (a : Nat) : PointKept s (pointReads s ag sc a n).2 ag sc := by
  induction n generalizing s a with
  | zero => exact .refl s
  | succ n ih => exact (pointRead_kept ag sc s a).trans (ih _ _)

theorem pointReads_value (n : Nat) (s : State) (a : Nat) :
    leNat (pointReads s ag sc a n).1 = numberOf (fun b => look s b (below s ag sc b)) a n := by
  induction n generalizing s a with
  | zero => rfl
  | succ n ih =>
    have hkept := pointRead_kept ag sc s a
    have hrest : leNat (pointReads (pointRead s ag sc a).2 ag sc (a + 1) n).1 =
        numberOf (fun b => look s b (below s ag sc b)) (a + 1) n :=
      (ih _ _).trans (numberOf_congr fun b _ _ => by rw [hkept.homes.below, hkept.look])
    exact congrArg (fun x => (look s a (below s ag sc a)).toNat + 256 * x) hrest

/-! ### Writes at a point -/

theorem pointWrite_others (s : State) {a b : Nat} (h : b ≠ a) (v : Byte) : SameByte s (pointWrite s ag sc a v) b := by
  unfold pointWrite
  dsimp only
  split
  · refine ⟨fun k => ?_, aGet_writeBytes_out 0 s.mem a [v] (by simp; omega)⟩
    cases k <;> rfl
  · exact ⟨fun k => copyAt_putCopy_ne s (.inr h) _, putCopy_home ..⟩

theorem copyAt_pointWrite_above {s : State} {a : Nat} {l : Level} (h : l ∈ above s ag sc a) (v : Byte) :
    copyAt (pointWrite s ag sc a v) l a = copyAt s l a := by
  unfold pointWrite
  dsimp only
  split
  · cases l <;> rfl
  next k rest hpoint =>
    refine copyAt_putCopy_ne s (.inl ?_) _
    rintro rfl
    exact not_mem_below h (by rw [below, hpoint]; exact List.mem_cons_self)

theorem look_pointWrite (s : State) (a : Nat) (v : Byte) : look (pointWrite s ag sc a v) a (below s ag sc a) = v := by
  have hbelow : (pathAbove s ag sc a).1.drop (pathAbove s ag sc a).2 = below s ag sc a := rfl
  unfold pointWrite
  dsimp only
  rw [hbelow]
  split
  next hpoint =>
    rw [hpoint, look_nil]
    exact aGet_writeBytes_in 0 s.mem a [v] (i := 0) (by simp)
  next l rest hpoint =>
    rw [hpoint]
    exact look_cons_some (copyAt_putCopy ..) _

theorem pointWrites_others (bs : List Byte) (s : State) {a b : Nat} (h : b < a ∨ a + bs.length ≤ b) :
    SameByte s (pointWrites s ag sc a bs) b := by
  induction bs generalizing s a with
  | nil => exact .refl s b
  | cons v bs ih =>
    rw [List.length_cons] at h
    exact (pointWrite_others ag sc s (by omega) v).trans (ih _ (by omega))

/-- Writes at the point leave the copies above it as they were. -/
theorem copyAt_pointWrites_above (bs : List Byte) (s : State) (a b : Nat) {l : Level} (h : l ∈ above s ag sc b) :
    copyAt (pointWrites s ag sc a bs) l b = copyAt s l b := by
  induction bs generalizing s a with
  | nil => rfl
  | cons v bs ih =>
    have hhomes := (cachesOnly_pointWrite s ag sc a v).sameHomes
    refine (ih (pointWrite s ag sc a v) (a + 1) (hhomes.above ag sc b ▸ h)).trans ?_
    by_cases hb : b = a
    · subst hb
      exact copyAt_pointWrite_above ag sc h v
    · exact (pointWrite_others ag sc s hb v).copies l

theorem look_pointWrites (bs : List Byte) (s : State) (a j : Nat) (h : j < bs.length) :
    look (pointWrites s ag sc a bs) (a + j) (below s ag sc (a + j)) = bs[j] := by
  induction bs generalizing s a j with
  | nil => exact absurd h (Nat.not_lt_zero j)
  | cons v bs ih =>
    have hhomes := (cachesOnly_pointWrite s ag sc a v).sameHomes
    cases j with
    | zero =>
      have hrest := pointWrites_others ag sc bs (pointWrite s ag sc a v) (a := a + 1) (b := a) (.inl (Nat.lt_succ_self a))
      exact (look_congr hrest.home fun l _ => hrest.copies l).trans (look_pointWrite ..)
    | succ j =>
      have hrest := ih (pointWrite s ag sc a v) (a + 1) j (Nat.lt_of_succ_lt_succ h)
      rwa [Nat.add_right_comm, hhomes.below] at hrest

end

/-! ### The step of an atomic at its point (R292) -/

section
variable (s : State) (ag : Agent) (sc : Scope)

theorem copyAt_discardByte (a : Nat) (p : List Level) (n : Nat) (u : State) (l : Level) (b : Nat) :
    copyAt (discardByte a p n u) l b = if b = a ∧ l ∈ p.take n then none else copyAt u l b := by
  induction p generalizing n u with
  | nil => simp [discardByte]
  | cons k p ih =>
    cases n with
    | zero => simp [discardByte]
    | succ n =>
      rw [discardByte, ih, copyAt_dropCopy_if, List.take_succ_cons]
      by_cases hb : b = a <;> by_cases hk : l = k <;> by_cases hp : l ∈ p.take n <;> simp [hb, hk, hp]

theorem copyAt_discardAddrs (as : List Nat) (l : Level) (b : Nat) :
    copyAt (discardAddrs s ag sc as) l b = if b ∈ as ∧ l ∈ above s ag sc b then none else copyAt s l b := by
  induction as generalizing s with
  | nil => simp [discardAddrs]
  | cons a as ih =>
    have hstep : discardAddrs s ag sc (a :: as) =
        discardAddrs (discardByte a (pathAbove s ag sc a).1 (pathAbove s ag sc a).2 s) ag sc as := rfl
    rw [hstep, ih, (cachesOnly_discardByte ..).sameHomes.above, copyAt_discardByte]
    change (if b ∈ as ∧ l ∈ above s ag sc b then none else if b = a ∧ l ∈ above s ag sc a then none else copyAt s l b) = _
    by_cases hb : b = a
    · subst hb
      by_cases hl : l ∈ above s ag sc b <;> simp [hl]
    · simp [hb]

theorem pointByte_discardAddrs {as : List Nat} (h : ∀ b ∈ as, NoDirtyAbove s ag sc b) (b : Nat) :
    pointByte (discardAddrs s ag sc as) ag sc b = pointByte s ag sc b := by
  have hhome : homeByte (discardAddrs s ag sc as) b = homeByte s b := by rw [homeByte, discardAddrs_mem, homeByte]
  refine pointByte_congr (cachesOnly_discardAddrs ..).sameHomes (fun l hl => ?_) (look_congr hhome fun l hl => ?_)
  · by_cases hb : b ∈ as
    · rw [dirtyValue_clean (h b hb l hl), dirtyValue_clean fun c hc => ?_]
      rw [copyAt_discardAddrs, if_pos ⟨hb, hl⟩] at hc
      cases hc
    · rw [dirtyValue, copyAt_discardAddrs, if_neg fun h => hb h.1, dirtyValue]
  · rw [copyAt_discardAddrs, if_neg fun h => not_mem_below h.2 hl]

/-- CleanBelow of the location, its copies above the point gone, and what its reads there leave. -/
def readied (a n : Nat) : State :=
  pointLine (discardAddrs (cleanAddrs (countAtomic s ag sc a) ag sc (addrRange a n)) ag sc (addrRange a n)) ag sc a

theorem readied_homes (a n : Nat) : SameHomes s (readied s ag sc a n) :=
  (((cachesOnly_countAtomic s ag sc a).trans (cachesOnly_cleanAddrs ..)).trans
    ((cachesOnly_discardAddrs ..).trans (cachesOnly_pointLine ..))).sameHomes

theorem pointByte_ready (a n b : Nat) : pointByte (readied s ag sc a n) ag sc b = pointByte s ag sc b := by
  rw [readied, (pointLine_kept ..).pointByte, pointByte_discardAddrs _ _ _ fun b hb => noDirtyAbove_cleanAddrs _ _ _ _ (.inr hb),
    pointByte_cleanAddrs, (alike_countAtomic s ag sc a).pointByte]

theorem noneAbove_ready {a n b : Nat} (h : b ∈ addrRange a n) : NoneAbove (readied s ag sc a n) ag sc b := by
  have hkept := pointLine_kept ag sc (discardAddrs (cleanAddrs (countAtomic s ag sc a) ag sc (addrRange a n)) ag sc (addrRange a n)) a
  refine noneAbove_kept hkept.homes (hkept.above b) ?_
  rw [noneAbove_iff, (cachesOnly_discardAddrs ..).sameHomes.above]
  intro l hl
  rw [copyAt_discardAddrs, if_pos ⟨h, hl⟩]

/-- The copies above the point of a byte outside the location are as they were, and its byte at home. -/
theorem copyAt_ready {a n b : Nat} (h : b ∉ addrRange a n) {l : Level} (hl : l ∈ above s ag sc b) :
    copyAt (readied s ag sc a n) l b = copyAt s l b := by
  have hclean := (alike_countAtomic s ag sc a).sameByte b |>.trans (cleanAddrs_others _ ag sc (addrRange a n) h)
  have hhomes := ((cachesOnly_countAtomic s ag sc a).trans (cachesOnly_cleanAddrs _ ag sc (addrRange a n))).trans
    (cachesOnly_discardAddrs _ ag sc (addrRange a n)) |>.sameHomes
  rw [readied, (pointLine_kept ..).above b l (hhomes.above ag sc b ▸ hl), copyAt_discardAddrs, if_neg fun h' => h h'.1,
    hclean.copies]

theorem homeByte_ready {a n b : Nat} (h : b ∉ addrRange a n) : homeByte (readied s ag sc a n) b = homeByte s b := by
  have hclean := (alike_countAtomic s ag sc a).sameByte b |>.trans (cleanAddrs_others _ ag sc (addrRange a n) h)
  rw [readied, (pointLine_kept ..).home, homeByte, discardAddrs_mem]
  exact hclean.home

/-- What the step of an atomic at its point leaves. -/
structure PointStepped (s t : State) (ag : Agent) (sc : Scope) (a n : Nat) (new : Option Nat) : Prop where
  caches : CachesOnly s t
  clear : ∀ b, a ≤ b → b < a + n → NoneAbove t ag sc b
  above : ∀ b, b < a ∨ a + n ≤ b → ∀ l ∈ above s ag sc b, copyAt t l b = copyAt s l b
  others : ∀ b, b < a ∨ a + n ≤ b → pointByte t ag sc b = pointByte s ag sc b
  home : ∀ b, b < a ∨ a + n ≤ b → homeByte t b = homeByte s b
  stays : new = none → ∀ b, pointByte t ag sc b = pointByte s ag sc b
  takes : ∀ v, new = some v → ∀ j, j < n → (pointByte t ag sc (a + j)).toNat = v / 256 ^ j % 256

theorem leBytes_getElem {n v j : Nat} (h : j < (leBytes n v).length) : ((leBytes n v)[j]).toNat = v / 256 ^ j % 256 := by
  induction n generalizing v j with
  | zero => exact absurd h (Nat.not_lt_zero j)
  | succ n ih =>
    cases j with
    | zero => simp [leBytes]
    | succ j =>
      have hrest := ih (v := v / 256) (Nat.lt_of_succ_lt_succ h)
      rwa [Nat.div_div_eq_div_mul, ← Nat.pow_succ'] at hrest

theorem not_mem_addrRange {a n b : Nat} (h : b < a ∨ a + n ≤ b) : b ∉ addrRange a n := fun hb => by
  have := mem_addrRange.mp hb
  omega

theorem pointReads_ready (a n : Nat) : leNat (pointReads (readied s ag sc a n) ag sc a n).1 = pointValue s ag sc a n := by
  rw [pointReads_value, pointValue_eq]
  refine numberOf_congr fun b hlo hhi => ?_
  rw [← pointByte_clean (noDirtyAbove_of_none (noneAbove_ready s ag sc (mem_addrRange.mpr ⟨hlo, hhi⟩))), pointByte_ready]

/-- The old value is what stood at the point, and the new one, if there is one, is written there. -/
theorem pointStep_eq (a n : Nat) (f : Nat → Option Nat) : pointStep s ag sc a n f = (pointValue s ag sc a n,
    match f (pointValue s ag sc a n) with
    | some v => pointWrites (pointReads (readied s ag sc a n) ag sc a n).2 ag sc a (leBytes n v)
    | none => (pointReads (readied s ag sc a n) ag sc a n).2) := by
  rw [← pointReads_ready]
  unfold pointStep readied
  dsimp only
  generalize pointReads _ ag sc a n = r
  cases f (leNat r.1) <;> rfl

theorem pointStepped (a n : Nat) (f : Nat → Option Nat) :
    PointStepped s (pointStep s ag sc a n f).2 ag sc a n (f (pointValue s ag sc a n)) := by
  have hready : CachesOnly s (readied s ag sc a n) := ((cachesOnly_countAtomic s ag sc a).trans (cachesOnly_cleanAddrs ..)).trans
    ((cachesOnly_discardAddrs ..).trans (cachesOnly_pointLine ..))
  have hreads := pointReads_kept ag sc n (readied s ag sc a n) a
  have hcaches := hready.trans (cachesOnly_pointReads ag sc n (readied s ag sc a n) a)
  have hbytes (b : Nat) : pointByte (pointReads (readied s ag sc a n) ag sc a n).2 ag sc b = pointByte s ag sc b :=
    (hreads.pointByte b).trans (pointByte_ready ..)
  have hnone (b : Nat) (hlo : a ≤ b) (hhi : b < a + n) : NoneAbove (pointReads (readied s ag sc a n) ag sc a n).2 ag sc b :=
    noneAbove_kept hreads.homes (hreads.above b) (noneAbove_ready s ag sc (mem_addrRange.mpr ⟨hlo, hhi⟩))
  have habove (b : Nat) (h : b < a ∨ a + n ≤ b) (l : Level) (hl : l ∈ above s ag sc b) :
      copyAt (pointReads (readied s ag sc a n) ag sc a n).2 l b = copyAt s l b :=
    (hreads.above b l (hready.sameHomes.above ag sc b ▸ hl)).trans (copyAt_ready s ag sc (not_mem_addrRange h) hl)
  have hhome (b : Nat) (h : b < a ∨ a + n ≤ b) : homeByte (pointReads (readied s ag sc a n) ag sc a n).2 b = homeByte s b :=
    (hreads.home b).trans (homeByte_ready s ag sc (not_mem_addrRange h))
  rw [pointStep_eq]
  dsimp only
  generalize (pointReads (readied s ag sc a n) ag sc a n).2 = u at hcaches hbytes hnone habove hhome
  cases hnew : f (pointValue s ag sc a n) with
  | none => exact ⟨hcaches, hnone, habove, fun b _ => hbytes b, hhome, fun _ => hbytes, nofun⟩
  | some v =>
    dsimp only
    have hwrites := cachesOnly_pointWrites ag sc (leBytes n v) u a
    have hothers (b : Nat) (h : b < a ∨ a + n ≤ b) : SameByte u (pointWrites u ag sc a (leBytes n v)) b :=
      pointWrites_others ag sc _ u (by rwa [leBytes_length])
    have hclear (b : Nat) (hlo : a ≤ b) (hhi : b < a + n) : NoneAbove (pointWrites u ag sc a (leBytes n v)) ag sc b :=
      noneAbove_kept hwrites.sameHomes (fun l hl => copyAt_pointWrites_above ag sc _ u a b hl) (hnone b hlo hhi)
    refine ⟨hcaches.trans hwrites, hclear, fun b h l hl => ((hothers b h).copies l).trans (habove b h l hl),
      fun b h => ((hothers b h).pointByte hwrites.sameHomes ag sc).trans (hbytes b), fun b h => (hothers b h).home.trans (hhome b h),
      nofun, fun w hw j hj => ?_⟩
    obtain rfl : v = w := Option.some_injective _ hw
    have hj' : j < (leBytes n v).length := by rwa [leBytes_length]
    rw [pointByte_clean (noDirtyAbove_of_none (hclear (a + j) (by omega) (by omega))), hwrites.sameHomes.below,
      look_pointWrites ag sc _ u a j hj',
      leBytes_getElem]

end

section
variable {s t : State} {ag : Agent} {sc : Scope} {a n : Nat} {new : Option Nat} (h : PointStepped s t ag sc a n new)
include h

theorem PointStepped.noDirtyAbove {b : Nat} (hb : NoDirtyAbove s ag sc b) : NoDirtyAbove t ag sc b := by
  by_cases hin : a ≤ b ∧ b < a + n
  · exact noDirtyAbove_of_none (h.clear b hin.1 hin.2)
  · exact noDirtyAbove_kept h.caches.sameHomes (h.above b (by omega)) hb

theorem PointStepped.pointValue_some {v : Nat} (hnew : new = some v) : pointValue t ag sc a n = v % 2 ^ (8 * n) := by
  rw [pointValue_eq, numberOf_bytes (h.takes v hnew), Nat.pow_mul]

theorem PointStepped.pointValue_none (hnew : new = none) : pointValue t ag sc a n = pointValue s ag sc a n := by
  rw [pointValue_eq, pointValue_eq]
  exact numberOf_congr fun b _ _ => h.stays hnew b

end

/-! ### Release writes (R269) -/

section
variable (ag : Agent) (sc : Scope)

theorem refreshByte_others {a b : Nat} (h : b ≠ a) (v : Byte) (p : List Level) (n : Nat) (s : State) :
    SameByte s (refreshByte a v p n s) b := by
  induction p generalizing n s with
  | nil => exact .refl s b
  | cons l p ih =>
    cases n with
    | zero => exact .refl s b
    | succ n =>
      rw [refreshByte]
      refine SameByte.trans ?_ (ih n _)
      split
      · exact ⟨fun k => copyAt_putCopy_ne _ (.inr h) _, putCopy_home ..⟩
      · exact .refl s b

/-- Every copy among the levels is clean and of the value. -/
theorem copyAt_refreshByte {a : Nat} {v : Byte} {p : List Level} (n : Nat) (s : State) {l : Level} (hl : l ∈ p.take n) {c : Copy}
    (hc : copyAt (refreshByte a v p n s) l a = some c) : c = { value := v, dirty := false } := by
  have hkeeps (q : List Level) (m : Nat) (u : State) (hu : ∀ c, copyAt u l a = some c → c = { value := v, dirty := false }) :
      ∀ c, copyAt (refreshByte a v q m u) l a = some c → c = { value := v, dirty := false } := by
    induction q generalizing m u with
    | nil => exact hu
    | cons k q ih =>
      cases m with
      | zero => exact hu
      | succ m =>
        rw [refreshByte]
        refine ih m _ ?_
        split
        · by_cases hk : l = k
          · subst hk
            intro c hc
            rw [copyAt_putCopy] at hc
            exact (Option.some_injective _ hc).symm
          · rwa [copyAt_putCopy_ne _ (.inl hk)]
        · exact hu
  induction p generalizing n s with
  | nil => simp at hl
  | cons k p ih =>
    cases n with
    | zero => simp at hl
    | succ n =>
      rw [refreshByte] at hc
      by_cases hk : l = k
      · subst hk
        refine hkeeps p n _ ?_ c hc
        split
        · intro c hc
          rw [copyAt_putCopy] at hc
          exact (Option.some_injective _ hc).symm
        next hnone =>
          intro c hc
          rw [hc] at hnone
          exact absurd rfl hnone
      · rw [List.take_succ_cons] at hl
        exact ih n _ ((List.mem_cons.mp hl).resolve_left hk) hc

/-- One byte of a release write: the copies above the point are refreshed, and the point takes it. -/
def releaseStep (s : State) (a : Nat) (v : Byte) : State :=
  pointWrite (refreshByte a v (pathAbove s ag sc a).1 (pathAbove s ag sc a).2 s) ag sc a v

theorem cachesOnly_releaseStep (s : State) (a : Nat) (v : Byte) : CachesOnly s (releaseStep ag sc s a v) :=
  (cachesOnly_refreshByte ..).trans (cachesOnly_pointWrite ..)

theorem releaseStep_others (s : State) {a b : Nat} (h : b ≠ a) (v : Byte) : SameByte s (releaseStep ag sc s a v) b :=
  (refreshByte_others h ..).trans (pointWrite_others ag sc _ h v)

theorem copyAt_releaseStep {s : State} {a : Nat} {v : Byte} {l : Level} (hl : l ∈ above s ag sc a) {c : Copy}
    (hc : copyAt (releaseStep ag sc s a v) l a = some c) : c = { value := v, dirty := false } := by
  have hhomes := (cachesOnly_refreshByte a v (pathAbove s ag sc a).1 (pathAbove s ag sc a).2 s).sameHomes
  rw [releaseStep, copyAt_pointWrite_above ag sc (hhomes.above ag sc a ▸ hl)] at hc
  exact copyAt_refreshByte _ s hl hc

theorem noDirtyAbove_releaseStep (s : State) (a : Nat) (v : Byte) : NoDirtyAbove (releaseStep ag sc s a v) ag sc a := by
  rw [noDirtyAbove_iff, (cachesOnly_releaseStep ag sc s a v).sameHomes.above]
  exact fun l hl c hc => by rw [copyAt_releaseStep ag sc hl hc]

theorem look_releaseStep (s : State) (a : Nat) (v : Byte) : look (releaseStep ag sc s a v) a (below s ag sc a) = v := by
  have hhomes := (cachesOnly_refreshByte a v (pathAbove s ag sc a).1 (pathAbove s ag sc a).2 s).sameHomes
  rw [← hhomes.below ag sc a]
  exact look_pointWrite ..

theorem pointByte_releaseStep (s : State) (a : Nat) (v : Byte) : pointByte (releaseStep ag sc s a v) ag sc a = v := by
  rw [pointByte_clean (noDirtyAbove_releaseStep ag sc s a v), (cachesOnly_releaseStep ag sc s a v).sameHomes.below]
  exact look_releaseStep ..

theorem seenByte_releaseStep (s : State) (a : Nat) (v : Byte) : seenByte (releaseStep ag sc s a v) ag a = v := by
  have habove {p : List Level} (hp : p ⊆ above s ag sc a) :
      look (releaseStep ag sc s a v) a (p ++ below s ag sc a) = v := by
    induction p with
    | nil => exact look_releaseStep ..
    | cons l p ih =>
      obtain ⟨hl, hrest⟩ := List.cons_subset.mp hp
      cases hc : copyAt (releaseStep ag sc s a v) l a with
      | none =>
        rw [List.cons_append, look_cons_none hc]
        exact ih hrest
      | some c => rw [List.cons_append, look_cons_some hc, copyAt_releaseStep ag sc hl hc]
  rw [seenByte_eq_look, (cachesOnly_releaseStep ag sc s a v).sameHomes.path, path_split s ag sc a]
  exact habove (List.Subset.refl _)

theorem releaseWrite_cons (s : State) (a : Nat) (v : Byte) (bs : List Byte) :
    releaseWrite s ag sc a (v :: bs) = releaseWrite (releaseStep ag sc s a v) ag sc (a + 1) bs := rfl

theorem releaseWrite_others (bs : List Byte) (s : State) {a b : Nat} (h : b < a ∨ a + bs.length ≤ b) :
    SameByte s (releaseWrite s ag sc a bs) b := by
  induction bs generalizing s a with
  | nil => exact .refl s b
  | cons v bs ih =>
    rw [List.length_cons] at h
    rw [releaseWrite_cons]
    exact (releaseStep_others ag sc s (by omega) v).trans (ih _ (by omega))

theorem noDirtyAbove_releaseWrite (bs : List Byte) {s : State} (a : Nat) {b : Nat} (h : NoDirtyAbove s ag sc b) :
    NoDirtyAbove (releaseWrite s ag sc a bs) ag sc b := by
  induction bs generalizing s a with
  | nil => exact h
  | cons v bs ih =>
    refine ih (a + 1) ?_
    by_cases hb : b = a
    · exact hb ▸ noDirtyAbove_releaseStep ag sc s a v
    · exact (releaseStep_others ag sc s hb v).noDirtyAbove (cachesOnly_releaseStep ag sc s a v).sameHomes h

/-- A release write's value stands at the point, and its agent sees it. -/
theorem releaseWrite_takes (bs : List Byte) (s : State) (a j : Nat) (h : j < bs.length) :
    pointByte (releaseWrite s ag sc a bs) ag sc (a + j) = bs[j] ∧ seenByte (releaseWrite s ag sc a bs) ag (a + j) = bs[j] := by
  induction bs generalizing s a j with
  | nil => exact absurd h (Nat.not_lt_zero j)
  | cons v bs ih =>
    cases j with
    | zero =>
      have hhomes := (cachesOnly_releaseWrite ag sc bs (releaseStep ag sc s a v) (a + 1)).sameHomes
      have hrest := releaseWrite_others ag sc bs (releaseStep ag sc s a v) (a := a + 1) (b := a) (.inl (Nat.lt_succ_self a))
      exact ⟨(hrest.pointByte hhomes ag sc).trans (pointByte_releaseStep ..),
        (hrest.seenByte hhomes ag).trans (seenByte_releaseStep ..)⟩
    | succ j =>
      have hrest := ih (releaseStep ag sc s a v) (a + 1) j (Nat.lt_of_succ_lt_succ h)
      rwa [Nat.add_right_comm] at hrest

end

end Sys2Proof.Proofs
end

section
/-! SUPPORT. Names and uses of lines (R230, R234); what leaves the pending operations as they are; fences and posts performed. -/

namespace Sys2Proof.Proofs
open Sys2Proof.Machine Sys2Proof.Claims

/-! ### Names and uses of lines (R230, R234) -/

/-- The teams and the records of lines are as they were. -/
structure SameLines (s t : State) : Prop where
  teams : t.teams = s.teams
  core : ∀ n, (coreOf t n).lines = (coreOf s n).lines
  cluster : ∀ n, (Machine.clusterOf t n).lines = (Machine.clusterOf s n).lines

theorem SameLines.refl (s : State) : SameLines s s := ⟨rfl, fun _ => rfl, fun _ => rfl⟩

theorem SameLines.trans {s t u : State} (h : SameLines s t) (h' : SameLines t u) : SameLines s u :=
  ⟨h'.teams.trans h.teams, fun n => (h'.core n).trans (h.core n), fun n => (h'.cluster n).trans (h.cluster n)⟩

theorem CachesOnly.sameLines {s t : State} (h : CachesOnly s t) : SameLines s t :=
  ⟨by rw [h.frame], fun n => by rw [h.core], fun n => by rw [h.cluster]⟩

theorem sameLines_setBand (s : State) (k : Nat) (b : Band) : SameLines s (setBand s k b) := ⟨rfl, fun _ => rfl, fun _ => rfl⟩

section
variable {s t : State} (h : SameLines s t)
include h

theorem SameLines.ownName {ag : Agent} {a va : Nat} (hs : OwnName s ag a va) : OwnName t ag a va := by
  cases ag with
  | thread core _ _ => exact fun x hx => hs x (by rwa [h.core] at hx)
  | _ => trivial

theorem SameLines.clusterRoom {n a : Nat} (hs : ClusterRoom s n a) : ClusterRoom t n a := by
  simpa only [ClusterRoom, h.cluster, pinnedIn, freeWays, h.teams] using hs

theorem SameLines.roomFor {ag : Agent} {a : Nat} (hs : RoomFor s ag a) : RoomFor t ag a := by
  cases ag with
  | thread core _ _ =>
    obtain ⟨hl1, hcluster⟩ := hs
    refine ⟨?_, h.clusterRoom hcluster⟩
    simpa only [L1Room, h.core] using hl1
  | engine core _ _ => exact h.clusterRoom hs
  | hub _ _ => trivial
  | stream _ _ => trivial
  | host => trivial

end

/-- A line held under the access's own name keeps it. -/
theorem renameLine_own {s : State} {core team ctx a va : Nat} (h : OwnName s (.thread core team ctx) a va) :
    renameLine s core ctx a va = s := by
  unfold renameLine
  cases hline : aFind (a / 128) (coreOf s core).lines with
  | none => rfl
  | some x => exact if_pos (h x hline)

theorem nameOp_own {s : State} {o : PendOp} {a va : Nat} {hint : Hint} (hline : opLine s o = some (a, va, hint))
    (h : OwnName s o.agent a va) : nameOp s o = s := by
  unfold nameOp
  rw [hline]
  split
  next core team ctx a' va' _ hagent heq =>
    cases heq
    exact renameLine_own (hagent ▸ h)
  next => rfl

theorem booked_setCoreLines (s : State) (core : Nat) (lines : AList L1Line) :
    Booked s (setCore s core { coreOf s core with lines := lines }) := by
  refine ⟨rfl, fun k b hb => ⟨b.energy, hb⟩, fun _ h => h, fun n => ?_, fun _ => rfl⟩
  by_cases hn : n = core
  · rw [hn, coreOf_setCore]
  · rw [coreOf_setCore_ne _ hn]

theorem booked_setClusterLines (s : State) (k : Nat) (lines : AList CacheLine) :
    Booked s (setCluster s k { Machine.clusterOf s k with lines := lines }) := by
  refine ⟨rfl, fun k b hb => ⟨b.energy, hb⟩, fun _ h => h, fun _ => rfl, fun n => ?_⟩
  by_cases hn : n = k
  · rw [hn, clusterOf_setCluster]
  · rw [clusterOf_setCluster_ne _ hn]

theorem trimLines_fits (l : Level) {cap : Nat} {ls : List (Nat × Nat × Nat)} (h : ls.length ≤ cap) (fuel : Nat) (s : State) :
    trimLines l cap fuel ls s = s := by
  cases fuel with
  | zero => rfl
  | succ fuel => exact if_pos h

theorem roomL1_fits {s : State} {core : Nat} (h : (coreOf s core).lines.length < 2048) : roomL1 s core = s := by
  unfold roomL1
  dsimp only
  rw [trimLines_fits _ (by rw [List.length_map]; exact Nat.le_sub_one_of_lt h), if_pos (by rwa [List.length_map])]

theorem roomCluster_fits {s : State} {n line : Nat}
    (h : ((Machine.clusterOf s n).lines.filter fun e => e.1 % 4096 == line % 4096 && !pinnedIn s n (e.1 / 512)).length
      < freeWays s n (line % 4096)) : roomCluster s n line = s := by
  unfold roomCluster
  split
  · rfl
  · dsimp only
    rw [if_pos (by rwa [List.length_map])]

/-- With room for the line, the use of a line changes its record alone. -/
theorem useL1_own {s : State} {core a : Nat} (h : L1Room s core a) (ctx va : Nat) (hint : Hint) :
    useL1 s core ctx a va hint = s ∨ ∃ x, useL1 s core ctx a va hint =
      setCore s core { coreOf s core with lines := aInsert (a / 128) x (coreOf s core).lines } ∧
      (∀ y, aFind (a / 128) (coreOf s core).lines = some y → x.ctx = y.ctx ∧ x.name = y.name) ∧
      (aFind (a / 128) (coreOf s core).lines = none → x.ctx = ctx ∧ x.name = va / 128) := by
  unfold useL1
  split
  · exact .inl rfl
  · refine .inr ?_
    cases hline : aFind (a / 128) (coreOf s core).lines with
    | some x => exact ⟨_, rfl, fun y hy => by cases hy; exact ⟨rfl, rfl⟩, nofun⟩
    | none =>
      have hroom : roomL1 s core = s := roomL1_fits (h.resolve_left fun ⟨x, hx⟩ => by rw [hline] at hx; cases hx)
      simp only [Option.isSome_none, Bool.false_eq_true, if_false, hroom]
      exact ⟨_, rfl, nofun, fun _ => ⟨rfl, rfl⟩⟩

theorem useCluster_own {s : State} {n a : Nat} (h : ClusterRoom s n a) (hint : Hint) :
    useCluster s n a hint = s ∨ ∃ x, useCluster s n a hint =
      setCluster s n { Machine.clusterOf s n with lines := aInsert (a / 128) x (Machine.clusterOf s n).lines } := by
  unfold useCluster
  split
  · exact .inl rfl
  · refine .inr ?_
    cases hline : aFind (a / 128) (Machine.clusterOf s n).lines with
    | some x => exact ⟨_, rfl⟩
    | none =>
      have hroom : roomCluster s n (a / 128) = s :=
        roomCluster_fits (h.resolve_left fun ⟨x, hx⟩ => by rw [hline] at hx; cases hx)
      simp only [Option.isSome_none, Bool.false_eq_true, if_false, hroom]
      exact ⟨_, rfl⟩

/-- What the use of lines keeps: the books, and room and names for the line. -/
structure Used (s t : State) (ag : Agent) (a va : Nat) : Prop where
  booked : Booked s t
  pending : t.pending = s.pending
  room : RoomFor t ag a
  own : OwnName s ag a va → OwnName t ag a va

theorem useCluster_used {s : State} {core a : Nat} (h : ClusterRoom s (core / 8) a) (hint : Hint) :
    Booked s (useCluster s (core / 8) a hint) ∧ (useCluster s (core / 8) a hint).pending = s.pending ∧
      ClusterRoom (useCluster s (core / 8) a hint) (core / 8) a ∧ ∀ n, coreOf (useCluster s (core / 8) a hint) n = coreOf s n := by
  rcases useCluster_own h hint with heq | ⟨x, heq⟩ <;> rw [heq]
  · exact ⟨.refl s, rfl, h, fun _ => rfl⟩
  · exact ⟨booked_setClusterLines .., rfl, .inl ⟨x, by rw [clusterOf_setCluster]; exact aFind_aInsert_self ..⟩, fun _ => rfl⟩

theorem used_thread {s : State} {core team ctx a : Nat} (hroom : RoomFor s (.thread core team ctx) a) (va : Nat) (hint hint' : Hint) :
    Used s (useCluster (useL1 s core ctx a va hint) (clusterOfCore core) a hint') (.thread core team ctx) a va := by
  obtain ⟨hl1, hcluster⟩ := hroom
  have hcore : Booked s (useL1 s core ctx a va hint) ∧ (useL1 s core ctx a va hint).pending = s.pending ∧
      L1Room (useL1 s core ctx a va hint) core a ∧ ClusterRoom (useL1 s core ctx a va hint) (core / 8) a ∧
      (OwnName s (.thread core team ctx) a va → OwnName (useL1 s core ctx a va hint) (.thread core team ctx) a va) := by
    rcases useL1_own hl1 ctx va hint with heq | ⟨x, heq, hold, hnew⟩ <;> rw [heq]
    · exact ⟨.refl s, rfl, hl1, hcluster, id⟩
    · refine ⟨booked_setCoreLines .., rfl, .inl ⟨x, ?_⟩, hcluster, fun hown y hy => ?_⟩
      · rw [coreOf_setCore]
        exact aFind_aInsert_self ..
      · rw [coreOf_setCore] at hy
        obtain rfl : x = y := Option.some_injective _ ((aFind_aInsert_self ..).symm.trans hy)
        cases hline : aFind (a / 128) (coreOf s core).lines with
        | none => exact hnew hline
        | some z =>
          obtain ⟨hctx, hname⟩ := hold z hline
          rw [hctx, hname]
          exact hown z hline
  obtain ⟨hbooked, hpending, hl1', hcluster', hown⟩ := hcore
  obtain ⟨hbooked', hpending', hcluster'', hcores⟩ := useCluster_used hcluster' hint'
  refine ⟨hbooked.trans hbooked', hpending'.trans hpending, ⟨?_, hcluster''⟩, fun hs y hy => hown hs y ?_⟩
  · unfold L1Room
    rw [show coreOf (useCluster (useL1 s core ctx a va hint) (clusterOfCore core) a hint') core = _ from hcores core]
    exact hl1'
  · rw [← hcores core]
    exact hy

theorem used_useLine {s : State} {ag : Agent} {a : Nat} (h : RoomFor s ag a) (va : Nat) (hint : Hint) :
    Used s (useLine s ag a va hint) ag a va := by
  cases ag with
  | thread core team ctx => exact used_thread h va hint hint
  | engine core team ctx =>
    obtain ⟨hbooked, hpending, hroom, -⟩ := useCluster_used h hint
    exact ⟨hbooked, hpending, hroom, fun _ => trivial⟩
  | hub _ _ => exact ⟨.refl s, rfl, trivial, fun _ => trivial⟩
  | stream _ _ => exact ⟨.refl s, rfl, trivial, fun _ => trivial⟩
  | host => exact ⟨.refl s, rfl, trivial, fun _ => trivial⟩

theorem used_useAtomic {s : State} {ag : Agent} {a : Nat} (h : RoomFor s ag a) (sc : Scope) (va : Nat) (hint : Hint) :
    Used s (useAtomic s ag sc a va hint) ag a va := by
  cases ag with
  | thread core team ctx => cases sc with
    | team => exact used_thread h ..
    | cluster => exact used_thread h ..
    | _ => exact used_useLine h va hint
  | _ => exact used_useLine h va hint

theorem used_useOp {s : State} {o : PendOp} {a : Nat} (h : RoomFor s o.agent a) (va : Nat) (hint : Hint) :
    Used s (useOp s o (some (a, va, hint))) o.agent a va := by
  unfold useOp
  generalize o.kind = kind
  cases kind with
  | atomic => exact used_useAtomic h ..
  | _ => exact used_useLine h ..

/-! ### How an operation is performed at its place -/

/-- Nothing changes but the books, and no line's record. -/
structure Noted (s t : State) : Prop extends Booked s t where
  lines : SameLines s t

theorem Noted.refl (s : State) : Noted s s := ⟨.refl s, .refl s⟩

theorem Noted.trans {s t u : State} (h : Noted s t) (h' : Noted t u) : Noted s u :=
  ⟨h.toBooked.trans h'.toBooked, h.lines.trans h'.lines⟩

theorem noted_touchLines (s : State) (band instr : Nat) (p : Place) (n : Nat) (r : Option (Nat × Nat)) :
    Noted s (touchLines s band instr p n r) := by
  unfold touchLines
  split
  · exact .refl s
  · exact ⟨⟨rfl, fun _ b hb => ⟨b.energy, hb⟩, fun _ h => h, fun _ => rfl, fun _ => rfl⟩, rfl, fun _ => rfl, fun _ => rfl⟩

theorem noted_setSamples (s : State) (core : Nat) (samples : List MemSample) :
    Noted s (setCore s core { coreOf s core with samples := samples }) := by
  refine ⟨⟨rfl, fun _ b hb => ⟨b.energy, hb⟩, fun _ h => h, fun n => ?_, fun _ => rfl⟩, rfl, fun n => ?_, fun _ => rfl⟩
  · by_cases hn : n = core
    · rw [hn, coreOf_setCore]
    · rw [coreOf_setCore_ne _ hn]
  · by_cases hn : n = core
    · rw [hn, coreOf_setCore]
    · rw [coreOf_setCore_ne _ hn]

theorem noted_chargeOp (s : State) (o : PendOp) : Noted s (chargeOp s o) := by
  unfold chargeOp
  split
  · dsimp only
    split
    · exact noted_touchLines ..
    · exact (noted_touchLines ..).trans (noted_setSamples ..)
  · exact .refl s

theorem noted_begun (s : State) (set : List PendOp) : Noted s (begun s set) := by
  have hcharged : ∀ u, Noted u (set.foldl chargeOp u) := by
    induction set with
    | nil => exact .refl
    | cons o set ih => exact fun u => (noted_chargeOp u o).trans (ih _)
  exact (hcharged s).trans ⟨⟨rfl, fun _ b hb => ⟨b.energy, hb⟩, fun _ h => h, fun _ => rfl, fun _ => rfl⟩, rfl, fun _ => rfl, fun _ => rfl⟩

theorem noted_noteOp (s : State) (o : PendOp) : Noted s (noteOp s o) := by
  unfold noteOp
  split
  · exact ⟨⟨rfl, fun _ b hb => ⟨b.energy, hb⟩, fun _ h => h, fun _ => rfl, fun _ => rfl⟩, rfl, fun _ => rfl, fun _ => rfl⟩
  · exact .refl s

theorem Booked.sameTables {s t : State} (h : Booked s t) : SameTables s t :=
  ⟨h.sameHomes, by rw [h.frame], by rw [h.frame], fun n => by rw [hingeOf, h.frame]; rfl⟩

/-- What a place in memory depends on. -/
theorem plain_of_same {s t : State} {ag : Agent} {a va : Nat} (h : Claims.Plain s ag a va) (hlines : SameLines s t)
    (htables : SameTables s t) :
    Claims.Plain t ag a va where
  name := hlines.ownName h.name
  window := by rw [windowAt, hlines.teams]; exact h.window
  kept ha := (htables.homes.pageLost _).trans (h.kept ha)
  resident := by rw [isDiscarded, htables.walk]; exact h.resident

theorem placePhys_plain {s : State} {ag : Agent} {a va : Nat} (h : Claims.Plain s ag a va) : placePhys s a = .mem a := by
  have hkept : (decide (a < sysBase) && pageLost s (a / 65536)) = false := by
    by_cases ha : a < 2 ^ 48
    · rw [h.kept ha, Bool.and_false]
    · have hsys : ¬ a < sysBase := ha
      rw [decide_eq_false hsys, Bool.false_and]
  rw [placePhys, h.window]
  simp only [hkept, Bool.false_eq_true, if_false]

theorem placeOf_plain {s : State} {ag : Agent} {a va : Nat} (h : Claims.Plain s ag a va) (write : Bool) :
    placeOf s ag (.phys a va) write = .mem a := by
  rw [placeOf]
  simp only [placePhys_plain h, h.resident, Bool.false_eq_true, if_false]

/-- The access of an operation is to an address in memory. -/
def AtPhys (o : PendOp) (a va : Nat) : Prop := ∃ n, accessOf o.kind = some (.phys a va, n)

theorem opLine_plain {s : State} {o : PendOp} {a va : Nat} (hat : AtPhys o a va) (h : Claims.Plain s o.agent a va) :
    ∃ hint, opLine s o = some (a, va, hint) := by
  obtain ⟨n, hn⟩ := hat
  have hplace := fun w => placeOf_plain h w
  unfold opLine
  cases hk : o.kind <;> rw [hk] at hn <;> simp [accessOf] at hn <;> obtain ⟨rfl, -⟩ := hn <;> simp [hplace]

/-! ### What leaves the pending operations as they are -/

theorem CachesOnly.pending {s t : State} (h : CachesOnly s t) : t.pending = s.pending := by rw [h.frame]

/-- What each step of a fold leaves, the fold leaves. -/
theorem foldl_pending {α : Type} {f : State → α → State} (hf : ∀ s x, (f s x).pending = s.pending) (xs : List α) (s : State) :
    (xs.foldl f s).pending = s.pending :=
  List.foldlRecOn xs f (motive := fun u => u.pending = s.pending) rfl fun u hu x _ => (hf u x).trans hu

section
variable (s : State)

@[simp] theorem setTeam_pending (k : Nat) (tm : Team) : (setTeam s k tm).pending = s.pending := rfl
@[simp] theorem setBand_pending (k : Nat) (b : Band) : (setBand s k b).pending = s.pending := rfl
@[simp] theorem setCore_pending (k : Nat) (c : Core) : (setCore s k c).pending = s.pending := rfl
@[simp] theorem setCluster_pending (k : Nat) (c : Cluster) : (setCluster s k c).pending = s.pending := rfl
@[simp] theorem setHinge_pending (k : Nat) (h : Hinge) : (setHinge s k h).pending = s.pending := rfl
@[simp] theorem setStream_pending (h i : Nat) (x : Stream) : (setStream s h i x).pending = s.pending := rfl
@[simp] theorem setLevel_pending (l : Level) (m : AList Copy) : (setLevel s l m).pending = s.pending := by cases l <;> rfl
@[simp] theorem note_pending (x : Seen) : (note s x).pending = s.pending := rfl
@[simp] theorem choose_pending (n : Nat) : (choose s n).2.pending = s.pending := by rw [choose_frame]
@[simp] theorem addEnergy_pending (k n : Nat) : (addEnergy s k n).pending = s.pending := by rw [addEnergy_frame]
@[simp] theorem noteAhead_pending (core team ch : Nat) (seq : DWord) (o : Nat) (v : Byte) :
    (noteAhead s core team ch seq o v).pending = s.pending := rfl

@[simp] theorem cleanAll_pending (ag : Agent) (sc : Scope) : (cleanAll s ag sc).pending = s.pending := (cachesOnly_cleanAll s ag sc).pending
@[simp] theorem dropAll_pending (ag : Agent) (sc : Scope) : (dropAll s ag sc).pending = s.pending := (cachesOnly_dropAll s ag sc).pending
@[simp] theorem cleanAddrs_pending (ag : Agent) (sc : Scope) (as : List Nat) : (cleanAddrs s ag sc as).pending = s.pending :=
  (cachesOnly_cleanAddrs s ag sc as).pending
@[simp] theorem discardAddrs_pending (ag : Agent) (sc : Scope) (as : List Nat) : (discardAddrs s ag sc as).pending = s.pending :=
  (cachesOnly_discardAddrs s ag sc as).pending
@[simp] theorem countRead_pending (ag : Agent) (a n : Nat) : (countRead s ag a n).pending = s.pending :=
  (cachesOnly_countRead s ag a n).pending
@[simp] theorem countWrite_pending (ag : Agent) (na : Bool) (a : Nat) : (countWrite s ag na a).pending = s.pending :=
  (cachesOnly_countWrite s ag na a).pending
@[simp] theorem countAtomic_pending (ag : Agent) (sc : Scope) (a : Nat) : (countAtomic s ag sc a).pending = s.pending :=
  (cachesOnly_countAtomic s ag sc a).pending
@[simp] theorem countBacks_pending (k n : Nat) : (countBacks s k n).pending = s.pending := (cachesOnly_countBacks s k n).pending
@[simp] theorem loadBytes_pending (ag : Agent) (na : Bool) (a n : Nat) : (loadBytes s ag na a n).2.pending = s.pending :=
  (cachesOnly_loadBytes ag na n s a).pending
@[simp] theorem storeBytes_pending (ag : Agent) (na : Bool) (a : Nat) (bs : List Byte) : (storeBytes s ag na a bs).pending = s.pending :=
  (cachesOnly_storeBytes ag na bs s a).pending
@[simp] theorem releaseWrite_pending (ag : Agent) (sc : Scope) (a : Nat) (bs : List Byte) :
    (releaseWrite s ag sc a bs).pending = s.pending := (cachesOnly_releaseWrite ag sc bs s a).pending
@[simp] theorem pointStep_pending (ag : Agent) (sc : Scope) (a n : Nat) (f : Nat → Option Nat) :
    (pointStep s ag sc a n f).2.pending = s.pending := (pointStepped s ag sc a n f).caches.pending

/-! #### Accesses to the stash -/

@[simp] theorem noteGranule_pending (k : Nat) (tm : Team) (off : Nat) (fill : Bool) : (noteGranule s k tm off fill).pending = s.pending :=
  rfl

@[simp] theorem fillGranule_pending (k m : Nat) (whole : Bool) (g : Nat) : (fillGranule s k m whole g).pending = s.pending := by
  unfold fillGranule
  repeat' split
  all_goals simp

@[simp] theorem dirtyGranule_pending (k m g : Nat) : (dirtyGranule s k m g).pending = s.pending := by
  unfold dirtyGranule
  repeat' split
  all_goals simp

@[simp] theorem touchStash_pending (k off n : Nat) (write : Bool) : (touchStash s k off n write).pending = s.pending := by
  unfold touchStash
  split
  · rfl
  · refine foldl_pending (fun u slot => ?_) _ s
    split
    · rfl
    · refine foldl_pending (fun v g => ?_) _ u
      split <;> simp

@[simp] theorem stashRead_pending (k off n : Nat) : (stashRead s k off n).2.pending = s.pending := by
  simp only [stashRead]
  split <;> simp

@[simp] theorem stashWrite_pending (k off : Nat) (bs : List Byte) : (stashWrite s k off bs).pending = s.pending := by
  simp only [stashWrite]
  split <;> simp

@[simp] theorem earlyBytes_pending (tm : Team) (team band : Nat) (lanes : List Nat) (n : Nat) (xs : List Byte) :
    (earlyBytes tm team band lanes n s xs).2.pending = s.pending := by
  induction xs generalizing n s with
  | nil => rfl
  | cons b bs ih =>
    simp only [earlyBytes, ih]
    split
    · rfl
    · split <;> split <;> (try split) <;> simp

/-! #### Accesses at a place -/

@[simp] theorem readPlace_pending (ag : Agent) (na : Bool) (p : Place) (n : Nat) : (readPlace s ag na p n).2.pending = s.pending := by
  cases p <;> simp [readPlace]

@[simp] theorem readBy_pending (ag : Agent) (band : Nat) (lanes : List Nat) (na : Bool) (p : Place) (n : Nat) :
    (readBy s ag band lanes na p n).2.pending = s.pending := by
  simp only [readBy]
  repeat' split
  all_goals simp

@[simp] theorem deliver_pending (o : PendOp) (dst : Dest) (n : Nat) (signed : Bool) (v : Nat) :
    (deliver s o dst n signed v).pending = s.pending := by
  unfold deliver
  repeat' split
  all_goals simp

theorem setLeafState_pending (pte state : Nat) : (setLeafState s pte state).pending = s.pending := rfl

@[simp] theorem revivePage_pending (l : Leaf) : (revivePage s l).pending = s.pending := by
  unfold revivePage
  exact setLeafState_pending ..

@[simp] theorem writePlace_pending (ag : Agent) (na : Bool) (rel : Option Scope) (p : Place) (bs : List Byte) :
    (writePlace s ag na rel p bs).pending = s.pending := by
  unfold writePlace
  repeat' split
  all_goals simp

@[simp] theorem placeStep_pending (ag : Agent) (sc : Scope) (p : Place) (n : Nat) (f : Nat → Option Nat) :
    (placeStep s ag sc p n f).2.pending = s.pending := by
  simp only [placeStep]
  repeat' split
  all_goals simp

@[simp] theorem prefetchLine_pending (ag : Agent) (cc na : Bool) (a : Nat) : (prefetchLine s ag cc na a).pending = s.pending := by
  unfold prefetchLine
  dsimp only
  split
  · rfl
  · exact (loadBytes_pending ..).trans (countRead_pending ..)

/-! #### Tumblers and posts -/

@[simp] theorem observeTumbler_pending (team t band : Nat) (lanes : List Nat) :
    (observeTumbler s team t band lanes).pending = s.pending := by
  unfold observeTumbler
  repeat' split
  all_goals simp

@[simp] theorem gotoBand_pending (k : Nat) (ls : List Nat) (pc : DWord) : (gotoBand s k ls pc).pending = s.pending := by
  unfold gotoBand
  split <;> rfl

@[simp] theorem evalLoops_pending (n k : Nat) (at_ : DWord) (gone seq trapped : List Nat) :
    (evalLoops n s k at_ gone seq trapped).pending = s.pending := by
  fun_induction evalLoops n s k at_ gone seq trapped <;> simp [*]

@[simp] theorem releaseTumbler_pending (team t : Nat) : (releaseTumbler s team t).pending = s.pending := by
  simp only [releaseTumbler]
  split
  · rfl
  · refine foldl_pending (fun u slot => ?_) _ s
    split
    · rfl
    · refine foldl_pending (fun v x => ?_) _ u
      split <;> simp [finishWait]

@[simp] theorem arrive_pending (team t n : Nat) : (arrive s team t n).2.pending = s.pending := by
  simp only [arrive]
  repeat' split
  all_goals simp

@[simp] theorem postDone_pending (o : PendOp) : (postDone s o).pending = s.pending := by
  unfold postDone
  split <;> simp

/-! #### Lines given up -/

@[simp] theorem writebackCounted_pending (l : Level) (line : Nat) (discard : Bool) :
    (writebackCounted s l line discard).pending = s.pending := by
  have hline : (writebackLine s l line discard).pending = s.pending := by
    refine foldl_pending (fun u a => ?_) _ s
    have hclean (p : List Level) : (cleanByte a p 1 u).pending = u.pending := by
      have hcaches : CachesOnly u (cleanByte a p 1 u) :=
        cleanByte_induction (R := CachesOnly u) (fun v l rest w _ h => h.trans (cachesOnly_handDown v a l rest w)) _ (.refl u)
      exact hcaches.pending
    split
    · split
      · dsimp only
        split
        · exact (setLevel_pending ..).trans (hclean _)
        · exact hclean _
      · rfl
    · rfl
  unfold writebackCounted
  split
  · dsimp only
    split <;> simp [hline]
  · exact hline

@[simp] theorem evictLine_pending (l : Level) (line : Nat) : (evictLine s l line).pending = s.pending := by
  unfold evictLine dropLine
  split <;> simp

@[simp] theorem trimLines_pending (l : Level) (cap n : Nat) (xs : List (Nat × Nat × Nat)) :
    (trimLines l cap n xs s).pending = s.pending := by
  fun_induction trimLines l cap n xs s <;> simp_all

@[simp] theorem roomL1_pending (core : Nat) : (roomL1 s core).pending = s.pending := by
  simp only [roomL1]
  split <;> simp

@[simp] theorem roomCluster_pending (n line : Nat) : (roomCluster s n line).pending = s.pending := by
  simp only [roomCluster]
  repeat' split
  all_goals simp

@[simp] theorem useL1_pending (core ctx a va : Nat) (h : Hint) : (useL1 s core ctx a va h).pending = s.pending := by
  simp only [useL1]
  repeat' split
  all_goals simp

@[simp] theorem useCluster_pending (n a : Nat) (h : Hint) : (useCluster s n a h).pending = s.pending := by
  simp only [useCluster]
  repeat' split
  all_goals simp

@[simp] theorem useLine_pending (ag : Agent) (a va : Nat) (h : Hint) : (useLine s ag a va h).pending = s.pending := by
  unfold useLine
  split <;> simp

@[simp] theorem useOp_pending (o : PendOp) (x : Option (Nat × Nat × Hint)) : (useOp s o x).pending = s.pending := by
  unfold useOp useAtomic
  repeat' split
  all_goals simp

@[simp] theorem nameOp_pending (o : PendOp) : (nameOp s o).pending = s.pending := by
  unfold nameOp renameLine
  repeat' split
  all_goals simp

@[simp] theorem noteOp_pending (o : PendOp) : (noteOp s o).pending = s.pending := by
  unfold noteOp
  split <;> simp

@[simp] theorem settleOp_pending (o : PendOp) : (settleOp s o).pending = s.pending := by
  simp only [settleOp, settleLines]
  repeat' split
  all_goals simp

/-! #### An operation performed -/

theorem performKind_pending (readers : List Nat) (o : PendOp) : (performKind readers s o).pending = s.pending := by
  simp only [performKind]
  repeat' split
  all_goals simp

theorem performOp_pending (readers : List Nat) (o : PendOp) : (performOp readers s o).pending = s.pending := by
  simp [performOp, performKind_pending]

end

theorem pending_performed {s : State} {i : Nat} {o : PendOp} (hcur : s.cur = .event (.accessPerformed i)) (ho : s.pending[i]? = some o)
    (hmay : mayPerform s i = true) (hset : setMay s (performSet s o) = true) :
    ∃ t, exec .accessPerformed s = .next t ∧ t.pending = s.pending.filter fun x => !(performSet s o).contains x :=
  ⟨_, exec_accessPerformed hcur ho hmay hset, (settleOp_pending ..).trans (foldl_pending (fun u x => performOp_pending u _ x) _ _)⟩

theorem operationPerformed : OperationPerformed := by
  intro s i hcur
  refine ⟨fun o ho hmay hset => pending_performed hcur ho hmay hset, fun h => ?_⟩
  cases ho : s.pending[i]? with
  | none =>
    change execAccessPerformed s = _
    rw [execAccessPerformed, hcur]
    simp only [performAt, ho]
  | some o =>
    refine exec_accessPerformed_stays hcur ho (h.imp_right ?_)
    rintro ⟨o', ho', hset⟩
    obtain rfl : o = o' := Option.some_injective _ (ho.symm.trans ho')
    exact hset

/-! ### Fences and posts performed (R278, R357, R365) -/

/-- An operation that touches no location does what its kind says, between the books. -/
theorem placeless_performed {s : State} {i : Nat} {o : PendOp} (hcur : s.cur = .event (.accessPerformed i)) (ho : s.pending[i]? = some o)
    (hmay : mayPerform s i = true) (h : Placeless o.kind) : ∃ t, exec .accessPerformed s = .next t ∧
      Noted s (begun s [o]) ∧ Booked (performKind o.lanes (begun s [o]) o) t ∧ t.pending = s.pending.filter fun x => x ≠ o := by
  refine ⟨_, exec_performed_alone hcur ho hmay (performSet_of_placeless h s), noted_begun .., ?_, ?_⟩
  · rw [performOp_of_placeless h]
    exact booked_settleOp ..
  · rw [settleOp_pending, performOp_pending, begun_pending]

section
variable {s u v t : State} (h : Alike s u) (h' : Alike v t) {ag : Agent} {sc : Scope}
include h h'

theorem pointCleaned_alike (hc : PointCleaned u v ag sc) : PointCleaned s t ag sc := fun a =>
  ⟨h'.noDirtyAbove (hc a).1, (h'.pointByte ag sc a).trans ((hc a).2.trans (h.pointByte ag sc a))⟩

theorem pointDropped_alike (hd : PointDropped u v ag sc) : PointDropped s t ag sc := by
  obtain ⟨hpoint, hdirty, hhome⟩ := hd
  refine ⟨fun a => ⟨h'.noCleanAbove (hpoint a).1, (h'.pointByte ag sc a).trans ((hpoint a).2.trans (h.pointByte ag sc a))⟩,
    fun l a c hc hd => (h'.copyAt l a).trans (hdirty l a c ((h.copyAt l a).trans hc) hd), fun a => ?_⟩
  exact (h'.sameByte a).home.trans ((hhome a).trans (h.sameByte a).home)

end

theorem Booked.teams {s t : State} (h : Booked s t) : t.teams = s.teams := by rw [h.frame]

theorem CachesOnly.teams {s t : State} (h : CachesOnly s t) : t.teams = s.teams := by rw [h.frame]

theorem fencePerformed : FencePerformed := by
  intro s i o k sc hcur ho hmay hk
  have hplaceless : Placeless o.kind := by rw [hk]; trivial
  obtain ⟨t, hexec, hnoted, hbooked, hpending⟩ := placeless_performed hcur ho hmay hplaceless
  have hcaches : CachesOnly (begun s [o]) (performKind o.lanes (begun s [o]) o) := by
    simp only [performKind, hk]
    cases k with
    | acq => exact cachesOnly_dropAll ..
    | rel => exact cachesOnly_cleanAll ..
    | ar => exact (cachesOnly_cleanAll ..).trans (cachesOnly_dropAll ..)
    | sc => exact (cachesOnly_cleanAll ..).trans (cachesOnly_dropAll ..)
  refine ⟨t, hexec, hpending, (hbooked.teams.trans hcaches.teams).trans hnoted.teams, ?_, ?_, ?_⟩
  · rintro rfl
    refine pointDropped_alike hnoted.alike hbooked.alike ?_
    simp only [performKind, hk]
    exact pointDropped ..
  · rintro rfl
    refine pointCleaned_alike hnoted.alike hbooked.alike ?_
    simp only [performKind, hk]
    exact cleanAll_pointCleaned _ _ _
  · intro hboth a
    have hperform : performKind o.lanes (begun s [o]) o = dropAll (cleanAll (begun s [o]) o.agent sc) o.agent sc := by
      rcases hboth with rfl | rfl <;> simp only [performKind, hk]
    rw [hperform] at hbooked
    refine ⟨hbooked.alike.noneAbove (noneAbove_cleanedAndDropped (begun s [o]) o.agent sc a), (hbooked.alike.pointByte ..).trans ?_⟩
    rw [pointByte_dropAll, (cleanAll_pointCleaned (begun s [o]) o.agent sc a).2, hnoted.alike.pointByte]

/-! #### Posts -/

/-- A command, or a collective, of the post's instruction may begin. -/
def postCommand (o : PendOp) (c : Command) : Command := if c.issue = o.seq then { c with posted := true } else c
def postCollective (o : PendOp) (c : Collective) : Collective := if c.issue = o.seq then { c with posted := true } else c

/-- A channel whose commands of the post's instruction may begin. -/
def postChannel (o : PendOp) (q : Channel) : Channel :=
  { q with queue := q.queue.map (postCommand o), chain := q.chain.map (postCommand o) }

theorem postCommand_eq (o : PendOp) (c : Command) :
    (if c.issue == o.seq && !c.posted then { c with posted := true } else c) = postCommand o c := by
  unfold postCommand
  by_cases hseq : c.issue = o.seq
  · cases hposted : c.posted with
    | true =>
      have hsame : { c with posted := true } = c := by rw [← hposted]
      rw [if_neg (by simp), if_pos hseq, hsame]
    | false => simp [hseq]
  · simp [hseq]

theorem postCollective_eq (o : PendOp) (c : Collective) :
    (if c.issue == o.seq && !c.posted then { c with posted := true } else c) = postCollective o c := by
  unfold postCollective
  by_cases hseq : c.issue = o.seq
  · cases hposted : c.posted with
    | true =>
      have hsame : { c with posted := true } = c := by rw [← hposted]
      rw [if_neg (by simp), if_pos hseq, hsame]
    | false => simp [hseq]
  · simp [hseq]

theorem postDone_eq (s : State) {o : PendOp} {core team ctx : Nat} (h : o.agent = .thread core team ctx) : postDone s o =
    setHinge (setCore s core { coreOf s core with channels := aMap (fun _ q => postChannel o q) (coreOf s core).channels })
      (hingeOfCore core) { hingeOf s (hingeOfCore core) with
        collectives := (hingeOf s (hingeOfCore core)).collectives.map (postCollective o) } := by
  simp only [postDone, h, postCommand_eq, postCollective_eq]
  rfl

theorem alike_postDone (s : State) {o : PendOp} {core team ctx : Nat} (h : o.agent = .thread core team ctx) :
    Alike s (postDone s o) := by
  rw [postDone_eq s h]
  have hhinge (n : Nat) : (hingeOf (setHinge (setCore s core { coreOf s core with
      channels := aMap (fun _ q => postChannel o q) (coreOf s core).channels }) (hingeOfCore core) { hingeOf s (hingeOfCore core) with
        collectives := (hingeOf s (hingeOfCore core)).collectives.map (postCollective o) }) n) = { hingeOf s n with
          collectives :=
            if n = hingeOfCore core then (hingeOf s n).collectives.map (postCollective o) else (hingeOf s n).collectives } := by
    by_cases hn : n = hingeOfCore core
    · rw [hn, hingeOf_setHinge, if_pos rfl]
    · rw [hingeOf_setHinge_ne _ hn, if_neg hn]
      rfl
  refine ⟨rfl, fun l => ?_, ⟨rfl, fun n => by rw [hhinge]⟩⟩
  cases l with
  | l1 n =>
    change (coreOf (setCore s core _) n).l1 = (coreOf s n).l1
    by_cases hn : n = core
    · rw [hn, coreOf_setCore]
    · rw [coreOf_setCore_ne _ hn]
  | cluster n => rfl
  | link n => rw [levelMap, hhinge]; rfl

section
variable (s : State) {o : PendOp} {core team ctx : Nat} (h : o.agent = .thread core team ctx)
include h

theorem coreChan_postDone (k : Nat) : coreChan (postDone s o) core k = postChannel o (coreChan s core k) := by
  rw [postDone_eq s h, coreChan]
  change aGet {} k (coreOf (setCore s core _) core).channels = _
  rw [coreOf_setCore, aGet, aFind_aMap, coreChan, aGet]
  cases aFind k (coreOf s core).channels <;> rfl

theorem channels_postDone_ne {n : Nat} (hn : n ≠ core) : (coreOf (postDone s o) n).channels = (coreOf s n).channels := by
  rw [postDone_eq s h]
  change (coreOf (setCore s core _) n).channels = _
  rw [coreOf_setCore_ne _ hn]

theorem collectives_postDone (n : Nat) : (hingeOf (postDone s o) n).collectives =
    if n = hingeOfCore core then (hingeOf s n).collectives.map (postCollective o) else (hingeOf s n).collectives := by
  rw [postDone_eq s h]
  by_cases hn : n = hingeOfCore core
  · rw [hn, hingeOf_setHinge, if_pos rfl]
  · rw [hingeOf_setHinge_ne _ hn, if_neg hn]
    rfl

end

theorem postPerformed : PostPerformed := by
  intro s i core team ctx o sc hcur ho hmay hk hag
  have hplaceless : Placeless o.kind := by rw [hk]; trivial
  obtain ⟨t, hexec, hnoted, hbooked, hpending⟩ := placeless_performed hcur ho hmay hplaceless
  have hperform : performKind o.lanes (begun s [o]) o = postDone (cleanAll (begun s [o]) o.agent sc) o := by simp only [performKind, hk]
  rw [hperform] at hbooked
  have hclean := cachesOnly_cleanAll (begun s [o]) o.agent sc
  have hchannels (n : Nat) : (coreOf (cleanAll (begun s [o]) o.agent sc) n).channels = (coreOf s n).channels := by
    rw [hclean.core, hnoted.core]
  have hcollectives (n : Nat) : (hingeOf (cleanAll (begun s [o]) o.agent sc) n).collectives = (hingeOf s n).collectives := by
    rw [hclean.hinge, show hingeOf (begun s [o]) n = hingeOf s n by rw [hingeOf, hnoted.frame]; rfl]
  refine ⟨t, hexec, hpending, ?_, ?_, fun k => ?_, fun n hn => ?_, fun n => ?_⟩
  · exact pointCleaned_alike hnoted.alike ((alike_postDone _ hag).trans hbooked.alike) (cleanAll_pointCleaned _ _ _)
  · rw [hbooked.teams, postDone_eq _ hag]
    exact hclean.teams.trans hnoted.teams
  · rw [coreChan, hbooked.core]
    refine (coreChan_postDone _ hag k).trans ?_
    rw [coreChan, hchannels]
    rfl
  · rw [hbooked.core]
    exact (channels_postDone_ne _ hag hn).trans (hchannels n)
  · rw [show hingeOf t n = hingeOf (postDone (cleanAll (begun s [o]) o.agent sc) o) n by rw [hingeOf, hbooked.frame]; rfl,
      collectives_postDone _ hag, hcollectives]
    rfl

end Sys2Proof.Proofs
end

section
/-! SUPPORT. An access performed at its place, and loads and stores (R251, R255, R269). -/

namespace Sys2Proof.Proofs
open Sys2Proof.Machine Sys2Proof.Claims

/-! ### An access performed -/

/-- The state in which an operation acts: it has left the pending ones, and the watchpoints have seen it. -/
def readied1 (s : State) (o : PendOp) : State := noteOp (begun s [o]) o

theorem noted_readied1 (s : State) (o : PendOp) : Noted s (readied1 s o) := (noted_begun ..).trans (noted_noteOp ..)

theorem readied1_picks (s : State) (o : PendOp) : (readied1 s o).picks = [] := by
  unfold readied1 noteOp
  split <;> rfl

/-- An access to a line that its caches have room for acts on the state that the watchpoints have seen, and uses its line. -/
theorem performOp_plain {z : State} {o : PendOp} {a va : Nat} (hat : AtPhys o a va) (hplain : Claims.Plain z o.agent a va)
    (hroom : RoomFor z o.agent a) (readers : List Nat) (hlines : SameLines (noteOp z o) (performKind readers (noteOp z o) o)) :
    Used (performKind readers (noteOp z o) o) (performOp readers z o) o.agent a va := by
  have hnoted := noted_noteOp z o
  have hplain' := plain_of_same hplain hnoted.lines hnoted.sameTables
  obtain ⟨hint, hline⟩ := opLine_plain hat hplain'
  unfold performOp
  dsimp only
  rw [nameOp_own hline hplain'.name, hline]
  exact used_useOp ((hnoted.lines.trans hlines).roomFor hroom) va hint

section
variable {s : State} {i : Nat} {o : PendOp} (hcur : s.cur = .event (.accessPerformed i)) (ho : s.pending[i]? = some o)
  (hmay : mayPerform s i = true) (hset : performSet s o = [o])
include hcur ho hmay hset

/-- An access to no line of memory. -/
theorem performed_noLine (hline : opLine (readied1 s o) o = none) : ∃ t, exec .accessPerformed s = .next t ∧
    Booked (performKind o.lanes (readied1 s o) o) t ∧ t.pending = s.pending.filter fun x => x ≠ o := by
  refine ⟨_, exec_performed_alone hcur ho hmay hset, ?_, ?_⟩
  · have hperform : performOp o.lanes (begun s [o]) o = performKind o.lanes (readied1 s o) o := by
      have hname : nameOp (readied1 s o) o = readied1 s o := by
        unfold nameOp
        rw [hline]
        split
        next heq => cases heq
        next => rfl
      unfold performOp
      dsimp only
      rw [show noteOp (begun s [o]) o = readied1 s o from rfl, hname, hline]
      rfl
    rw [hperform]
    exact booked_settleOp ..
  · rw [settleOp_pending, performOp_pending, begun_pending]

/-- An access to a line that its caches have room for. -/
theorem performed_plain {a va : Nat} (hat : AtPhys o a va) (hplain : Claims.Plain s o.agent a va) (hroom : RoomFor s o.agent a)
    (hlines : SameLines (readied1 s o) (performKind o.lanes (readied1 s o) o)) : ∃ t, exec .accessPerformed s = .next t ∧
    Booked (performKind o.lanes (readied1 s o) o) t ∧ t.pending = s.pending.filter fun x => x ≠ o := by
  have hbegun := noted_begun s [o]
  have hused := performOp_plain hat (plain_of_same hplain hbegun.lines hbegun.sameTables) (hbegun.lines.roomFor hroom) o.lanes hlines
  refine ⟨_, exec_performed_alone hcur ho hmay hset, hused.booked.trans (booked_settleOp ..), ?_⟩
  rw [settleOp_pending, performOp_pending, begun_pending]

end

/-! ### What an operation delivers (R251) -/

/-- The least significant bytes of a number are below a power of 256. -/
theorem numberOf_lt (f : Nat → Byte) (a n : Nat) : numberOf f a n < 256 ^ n := by
  induction n generalizing a with
  | zero => exact Nat.one_pos
  | succ n ih =>
    have hfirst := (f a).isLt
    have hrest := ih (a + 1)
    rw [numberOf, Nat.pow_succ']
    omega

/-- A thread that has what an operation of `n` bytes read. -/
def taken (n : Nat) (signed : Bool) (r v : Nat) (t : Thread) : Thread :=
  if n ≤ 4 then wrV t r (BitVec.ofInt 32 (readInt signed (8 * n) v)) else wrWords (n / 4) t r v

theorem readInt_loaded {w : Width} {v : Nat} (hv : v < 256 ^ bytesOf w) :
    readInt (widthSigned w) (8 * widthBytes w) v = loaded w v := by
  have hunsigned (k : Nat) (h : v < 2 ^ k) : readInt false k v = v := by
    simp only [readInt, Bool.false_and, Bool.false_eq_true, if_false, Nat.mod_eq_of_lt h]
  cases w with
  | i8 => exact readInt_true_eq_bmod (by decide) v
  | i16 => exact readInt_true_eq_bmod (by decide) v
  | n8 => exact hunsigned 8 (by simpa [bytesOf] using hv)
  | n16 => exact hunsigned 16 (by simpa [bytesOf] using hv)
  | n32 => exact hunsigned 32 (by simpa [bytesOf] using hv)
  | n64 => exact hunsigned 64 (by simpa [bytesOf] using hv)

theorem wrWords_frame (m : Nat) (t : Thread) (r v : Nat) : wrWords m t r v = { t with vregs := (wrWords m t r v).vregs } := by
  induction m generalizing t r v with
  | zero => rfl
  | succ m ih => exact (ih ..).trans rfl

theorem rdV_wrWords_out {m r q : Nat} (h : q < r ∨ r + m ≤ q) (t : Thread) (v : Nat) : rdV (wrWords m t r v) q = rdV t q := by
  induction m generalizing t r v with
  | zero => rfl
  | succ m ih => exact (ih (by omega) ..).trans (rdV_wrV_ne (by omega) ..)

theorem wordsAt_wrWords (m : Nat) (t : Thread) (r v : Nat) : wordsAt (wrWords m t r v) m r = v % 2 ^ (32 * m) := by
  induction m generalizing t r v with
  | zero => simp [wordsAt, Nat.mod_one]
  | succ m ih =>
    rw [wordsAt, wrWords, ih, rdV_wrWords_out (.inl (Nat.lt_succ_self r)), rdV_wrV, BitVec.toNat_ofNat, Nat.mul_succ, Nat.add_comm,
      Nat.add_comm (32 * m), Nat.pow_add, Nat.mod_mul, Nat.add_comm]

theorem wrWords_two (t : Thread) (r v : Nat) : wrWords 2 t r v = wrV64 t r (BitVec.ofNat 64 v) := by
  have hlow : (BitVec.ofNat 64 v).setWidth 32 = BitVec.ofNat 32 v := by
    apply BitVec.eq_of_toNat_eq
    simp only [BitVec.toNat_setWidth, BitVec.toNat_ofNat]
    omega
  have hhigh : (BitVec.ofNat 64 v >>> 32).setWidth 32 = BitVec.ofNat 32 (v / 2 ^ 32) := by
    apply BitVec.eq_of_toNat_eq
    simp only [BitVec.toNat_setWidth, BitVec.toNat_ushiftRight, BitVec.toNat_ofNat, Nat.shiftRight_eq_div_pow]
    omega
  rw [wrV64, hlow, hhigh]
  rfl

theorem takesV_taken {w : Width} {v : Nat} (hv : v < 256 ^ bytesOf w) (d : Nat) (t : Thread) :
    TakesV w d v t (taken (widthBytes w) (widthSigned w) d v t) := by
  by_cases hw : w = .n64
  · subst hw
    rw [taken, if_neg (by decide)]
    refine ⟨wrWords_frame .., ?_, fun r hr hr' => rdV_wrWords_out (by have := hr' rfl; simp only [widthBytes]; omega) ..⟩
    rw [if_pos rfl, show widthBytes .n64 / 4 = 2 from rfl, wrWords_two]
    exact rdV64_wrV64 ..
  · have hsmall : widthBytes w ≤ 4 := by cases w <;> simp_all [widthBytes]
    rw [taken, if_pos hsmall, readInt_loaded hv]
    refine ⟨rfl, ?_, fun r hr _ => rdV_wrV_ne hr ..⟩
    rw [if_neg hw]
    exact rdV_wrV ..

/-- A number of bytes of an atomic: one word, or some whole words. -/
theorem wordsAt_taken {n v : Nat} (hn : n ∈ [4, 8, 16]) (hv : v < 256 ^ n) (d : Nat) (t : Thread) :
    wordsAt (taken n false d v t) (n / 4) d = v := by
  have hwords : taken n false d v t = wrWords (n / 4) t d v := by
    unfold taken
    split
    next h4 =>
      obtain rfl : n = 4 := by simp at hn; omega
      have hint : BitVec.ofInt 32 (readInt false (8 * 4) v) = BitVec.ofNat 32 v := by
        simp only [readInt, Bool.false_and, Bool.false_eq_true, if_false]
        rw [Nat.mod_eq_of_lt (by simpa using hv), BitVec.ofInt_natCast]
      rw [hint]
      rfl
    next => rfl
  rw [hwords, wordsAt_wrWords]
  refine Nat.mod_eq_of_lt (hv.trans_eq ?_)
  simp only [List.mem_cons, List.not_mem_nil, or_false] at hn
  rcases hn with rfl | rfl | rfl <;> norm_num

theorem clearMarks_none {m : AList EccMark} {lanes : List Nat} {r n q l : Nat} (hl : l ∈ lanes) (h32 : l < 32) (hlo : r ≤ q)
    (hhi : q < r + n) : aFind (q * 32 + l) (clearMarks m lanes r n) = none := by
  have hreg : (q * 32 + l) / 32 = q := by omega
  have hlane : (q * 32 + l) % 32 = l := by omega
  unfold clearMarks
  rw [aFind_aFilter_key (fun w => !(decide (r ≤ w / 32 ∧ w / 32 < r + n) && lanes.contains (w % 32))), hreg, hlane]
  simp [hlo, hhi, hl]

/-- A band whose lanes have what an operation read. -/
def takenBand (b : Band) (lanes : List Nat) (n : Nat) (signed : Bool) (r v : Nat) : Band :=
  { onLanes b lanes (fun _ t => taken n signed r v t) with vEcc := clearMarks b.vEcc lanes r (max 1 (n / 4)) }

section
variable {s : State} {o : PendOp}

theorem deliver_vec {b : Band} (hb : bandOf s o.issuer = some b) (r n : Nat) (signed : Bool) (v : Nat) :
    deliver s o (.vec r) n signed v = setBand s o.issuer (takenBand b o.lanes n signed r v) := by
  simp only [deliver, hb]
  rfl

theorem deliver_sca {b : Band} (hb : bandOf s o.issuer = some b) {core team ctx : Nat} (hag : o.agent = .thread core team ctx)
    (r n : Nat) (signed : Bool) (v : Nat) :
    deliver s o (.sca r) n signed v = setBand s o.issuer (wrS b r (BitVec.ofInt 64 (readInt signed (8 * n) v))) := by
  simp only [deliver, hag, hb]

theorem deliver_stream {h ctx n : Nat} (hag : o.agent = .stream h ctx) (hissuer : o.issuer = 2 ^ 20 + h * 16 + n) (hn : n < 16)
    (r m : Nat) (signed : Bool) (v : Nat) : deliver s o (.sca r) m signed v =
      setStream s h n (wrStream (streamOf s h n) r (BitVec.ofInt 64 (readInt signed (8 * m) v))) := by
  have hnum : (o.issuer - 2 ^ 20) % Config.streams = n := by
    rw [hissuer, Config.streams]
    omega
  simp only [deliver, hag, hnum]

theorem alike_setBand (s : State) (k : Nat) (b : Band) : Alike s (setBand s k b) :=
  ⟨rfl, fun l => by cases l <;> rfl, ⟨rfl, fun _ => rfl⟩⟩

theorem alike_setStream (s : State) (h n : Nat) (x : Stream) : Alike s (setStream s h n x) := by
  have hhinge (k : Nat) : (hingeOf (setStream s h n x) k).link = (hingeOf s k).link ∧
      (hingeOf (setStream s h n x) k).modules = (hingeOf s k).modules := by
    unfold setStream
    by_cases hk : k = h
    · rw [hk, hingeOf_setHinge]
      exact ⟨rfl, rfl⟩
    · rw [hingeOf_setHinge_ne _ hk]
      exact ⟨rfl, rfl⟩
  refine ⟨rfl, fun l => ?_, ⟨rfl, fun k => (hhinge k).2⟩⟩
  cases l with
  | l1 k => rfl
  | cluster k => rfl
  | link k => exact (hhinge k).1

theorem deliver_keeps (s : State) (o : PendOp) (dst : Dest) (n : Nat) (signed : Bool) (v : Nat) :
    Alike s (deliver s o dst n signed v) ∧ SameLines s (deliver s o dst n signed v) := by
  unfold deliver
  split
  · split
    · exact ⟨.refl s, .refl s⟩
    · exact ⟨alike_setBand .., sameLines_setBand ..⟩
  · dsimp only
    split
    · exact ⟨alike_setStream .., rfl, fun _ => rfl, fun _ => rfl⟩
    · split
      · exact ⟨.refl s, .refl s⟩
      · exact ⟨alike_setBand .., sameLines_setBand ..⟩

end

/-! ### Reads at the stash (R241, R289) -/

theorem windowAtSlot_none {tm : Team} (h : ∀ e ∈ tm.maps, e.2.win = none) (slot : Nat) : windowAtSlot tm slot = none := by
  unfold windowAtSlot
  split
  next m e hmap =>
    have he : e.win = none := h (m, e) (List.mem_of_find?_eq_some hmap)
    rw [he]
  next => rfl

theorem touchStash_noWindow {s : State} {k : Nat} {tm : Team} (htm : teamOf s k = some tm) (h : ∀ e ∈ tm.maps, e.2.win = none)
    (off n : Nat) (write : Bool) : touchStash s k off n write = s := by
  unfold touchStash
  rw [htm]
  dsimp only
  refine List.foldlRecOn _ _ (motive := fun u => u = s) rfl fun u hu slot _ => ?_
  rw [windowAtSlot_none h]
  exact hu

theorem stashRead_noWindow {s : State} {k : Nat} {tm : Team} (htm : teamOf s k = some tm) (h : ∀ e ∈ tm.maps, e.2.win = none)
    (off n : Nat) : stashRead s k off n = (readBytes 0 tm.stash off n, s) := by
  unfold stashRead
  rw [touchStash_noWindow htm h]
  simp only [htm]

/-- A byte that no command has still to write, and none has written unobserved, reads as it stands. -/
theorem earlyBytes_plainly {s : State} {tm : Team} (h : Plainly tm) (hpicks : s.picks = []) (team band : Nat) (lanes : List Nat)
    (off : Nat) (bs : List Byte) : earlyBytes tm team band lanes off s bs = (bs, s) := by
  obtain ⟨hearly, hlatches, -⟩ := h
  have hahead (off : Nat) : toCome s tm team off = [] := by
    have hthread : (latchOf tm (off / 1024)).engine = false := aGet_ind (P := fun x : Latch => x.engine = false) rfl hlatches _
    rw [toCome, hthread]
    rfl
  induction bs generalizing off with
  | nil => rfl
  | cons b bs ih =>
    rw [earlyBytes]
    simp only [hpicks, aFind_nil, hearly, aGet_nil, afterWrite, hahead, List.length_nil, choose, Nat.add_zero, Nat.le_refl, if_true,
      List.getElem?_nil, List.map_nil, List.getD_cons_zero, List.isEmpty_nil, Bool.and_self, ih]

theorem readBy_plainly {s : State} {team : Nat} {tm : Team} (htm : teamOf s team = some tm) (h : Plainly tm) (hpicks : s.picks = [])
    (core ctx band : Nat) (lanes : List Nat) (na : Bool) (off n : Nat) :
    readBy s (.thread core team ctx) band lanes na (.stash team off) n = (readBytes 0 tm.stash off n, s) := by
  simp only [readBy, readPlace, stashRead_noWindow htm h.2.2, htm, if_true, earlyBytes_plainly h hpicks]

/-! ### A load performed (R251, R255, R269) -/

theorem SameTables.trans {s t u : State} (h : SameTables s t) (h' : SameTables t u) : SameTables s u :=
  ⟨h.homes.trans h'.homes, h'.mem.trans h.mem, h'.contexts.trans h.contexts, fun n => (h'.memStacks n).trans (h.memStacks n)⟩

theorem sameTables_of_caches {s t : State} (h : CachesOnly s t) (hmem : t.mem = s.mem) : SameTables s t :=
  ⟨h.sameHomes, hmem, by rw [h.frame], fun n => by rw [h.hinge]⟩

/-- What an acquire leaves before its read. -/
def acquired (s : State) (ag : Agent) (acq : Option Scope) : State :=
  match acq with
  | some sc => dropAll s ag sc
  | none => s

theorem cachesOnly_acquired (s : State) (ag : Agent) (acq : Option Scope) : CachesOnly s (acquired s ag acq) := by
  cases acq with
  | none => exact .refl s
  | some sc => exact cachesOnly_dropAll ..

theorem acquired_mem (s : State) (ag : Agent) (acq : Option Scope) : (acquired s ag acq).mem = s.mem := by
  cases acq with
  | none => rfl
  | some sc => exact dropAll_mem ..

theorem Alike.acquired {s t : State} (h : Alike s t) (ag : Agent) (acq : Option Scope) : Alike (acquired s ag acq) (acquired t ag acq) := by
  cases acq with
  | none => exact h
  | some sc => exact h.dropAll ag sc

/-- What a read leaves: copies, and no byte that its agent sees, nor one at home. -/
structure ReadKept (s t : State) (ag : Agent) : Prop where
  caches : CachesOnly s t
  mem : t.mem = s.mem
  seen : ∀ b, seenByte t ag b = seenByte s ag b

theorem ReadKept.refl (s : State) (ag : Agent) : ReadKept s s ag := ⟨.refl s, rfl, fun _ => rfl⟩

theorem ReadKept.home {s t : State} {ag : Agent} (h : ReadKept s t ag) (b : Nat) : homeByte t b = homeByte s b := by
  rw [homeByte, h.mem, homeByte]

theorem readBy_mem_kept (s : State) (ag : Agent) (band : Nat) (lanes : List Nat) (na : Bool) (a n : Nat) :
    leNat (readBy s ag band lanes na (.mem a) n).1 = seenValue s ag a n ∧ ReadKept s (readBy s ag band lanes na (.mem a) n).2 ag := by
  have hcount := alike_countRead s ag a n
  have hread : readBy s ag band lanes na (.mem a) n = loadBytes (countRead s ag a n) ag na a n := rfl
  have hmem : (readBy s ag band lanes na (.mem a) n).2.mem = s.mem := readBy_mem ..
  rw [hread] at hmem ⊢
  rw [seenValue_loadBytes, hcount.seenValue]
  exact ⟨rfl, (cachesOnly_countRead ..).trans (cachesOnly_loadBytes ..), hmem,
    fun b => (seenByte_loadBytes ..).trans (hcount.seenByte ag b)⟩

theorem plain_acquired {s : State} {ag : Agent} {a va : Nat} (h : Claims.Plain s ag a va) (acq : Option Scope) :
    Claims.Plain (acquired s ag acq) ag a va :=
  plain_of_same h (cachesOnly_acquired ..).sameLines (sameTables_of_caches (cachesOnly_acquired ..) (acquired_mem ..))

theorem placeOf_again_zeros {s : State} {ag : Agent} {va : Nat} {l : Leaf} (hwalk : walk s (agentCtx ag) va = .ok l) (hstate : l.state = 2)
    (hwindow : windowAt s (physOf l va) = none) (hkept : physOf l va < 2 ^ 48 → pageLost s (physOf l va / 65536) = false) :
    placeOf s ag (.again va) false = .zeros := by
  have hpresent : (decide (physOf l va < sysBase) && pageLost s (physOf l va / 65536)) = false := by
    by_cases ha : physOf l va < 2 ^ 48
    · rw [hkept ha, Bool.and_false]
    · have hsys : ¬ physOf l va < sysBase := ha
      rw [decide_eq_false hsys, Bool.false_and]
  simp only [placeOf, placeAgain, hwalk, placePhys, hwindow, hpresent, hstate, Bool.false_eq_true, if_false]
  rfl

theorem leNat_lt (bs : List Byte) : leNat bs < 256 ^ bs.length := by
  induction bs with
  | nil => exact Nat.one_pos
  | cons b bs ih =>
    have hb := b.isLt
    rw [leNat, List.length_cons, Nat.pow_succ']
    omega

/-- What a load of `n` bytes reads at its place. -/
theorem load_reads {s r : State} {ag : Agent} {n v : Nat} {loc : Loc} {acq : Option Scope} (hfinds : Finds s (acquired s ag acq) ag n loc v)
    (hnoted : Noted s r) (hpicks : r.picks = []) (band : Nat) (lanes : List Nat) (na : Bool) : ∃ bs w,
    readBy (acquired r ag acq) ag band lanes na (placeOf (acquired r ag acq) ag loc false) n = (bs, w) ∧ leNat bs = v ∧ v < 256 ^ n ∧
      ReadKept (acquired r ag acq) w ag := by
  have htables := hnoted.sameTables.trans (sameTables_of_caches (cachesOnly_acquired r ag acq) (acquired_mem ..))
  have hlines := hnoted.lines.trans (cachesOnly_acquired r ag acq).sameLines
  cases hfinds with
  | memory a va hplain hroom =>
    rw [placeOf_plain (plain_acquired (plain_of_same hplain hnoted.lines hnoted.sameTables) acq)]
    obtain ⟨hvalue, hkept⟩ := readBy_mem_kept (acquired r ag acq) ag band lanes na a n
    refine ⟨_, _, rfl, hvalue.trans ((hnoted.alike.acquired ag acq).seenValue ag a n), ?_, hkept⟩
    rw [seenValue_eq]
    exact numberOf_lt ..
  | stash core team ctx off tm hag htm hplainly =>
    subst hag
    have htm' : teamOf (acquired r (.thread core team ctx) acq) team = some tm := by
      rw [teamOf, hlines.teams]
      exact htm
    have hpicks' : (acquired r (.thread core team ctx) acq).picks = [] := by rw [(cachesOnly_acquired ..).frame]; exact hpicks
    refine ⟨_, _, readBy_plainly htm' hplainly hpicks' core ctx band lanes na off n, rfl, ?_, .refl ..⟩
    exact (leNat_lt _).trans_eq (by rw [length_readBytes])
  | zeros va l hwalk hstate hwindow hkept =>
    have hplace : placeOf (acquired r ag acq) ag (.again va) false = .zeros := by
      refine placeOf_again_zeros ((htables.walk ..).trans hwalk) hstate ?_ fun ha => (htables.homes.pageLost _).trans (hkept ha)
      rw [windowAt, hlines.teams]
      exact hwindow
    rw [hplace]
    refine ⟨_, _, rfl, ?_, Nat.pow_pos (by decide), .refl ..⟩
    induction n with
    | zero => rfl
    | succ n ih => rw [List.replicate_succ, leNat, ih]; rfl

theorem performSet_of_store {o : PendOp} {loc : Loc} {n v : Nat} {rel : Option Scope} {hint : Hint} (hk : o.kind = .store loc n v rel hint)
    (s : State) : performSet s o = [o] := by
  unfold performSet
  simp only [hk]

theorem CachesOnly.bandOf {s t : State} (h : CachesOnly s t) (k : Nat) : bandOf t k = bandOf s k := by
  rw [Machine.bandOf, h.frame]
  rfl

theorem CachesOnly.streamOf {s t : State} (h : CachesOnly s t) (k n : Nat) : streamOf t k n = streamOf s k n := by
  rw [Machine.streamOf, h.hinge]
  rfl

theorem Booked.streamOf {s t : State} (h : Booked s t) (k n : Nat) : streamOf t k n = streamOf s k n := by
  rw [Machine.streamOf, hingeOf, h.frame]
  rfl

theorem SameLines.teamOf {s t : State} (h : SameLines s t) (k : Nat) : teamOf t k = teamOf s k := by
  rw [Machine.teamOf, h.teams]
  rfl

/-- An operation that reads a value of `n` bytes and delivers it: its registers take it, and nothing else of its band or stream
changes. -/
structure Delivers (s t : State) (o : PendOp) (dst : Dest) (n : Nat) (signed : Bool) (v : Nat) : Prop where
  vec : ∀ b d, bandOf s o.issuer = some b → dst = .vec d →
    ∃ e, bandOf t o.issuer = some { takenBand b o.lanes n signed d v with energy := e }
  sca : ∀ core team ctx b d, o.agent = .thread core team ctx → bandOf s o.issuer = some b → dst = .sca d →
    ∃ e, bandOf t o.issuer = some { wrS b d (BitVec.ofInt 64 (readInt signed (8 * n) v)) with energy := e }
  stream : ∀ h ctx m d, o.agent = .stream h ctx → o.issuer = 2 ^ 20 + h * 16 + m → m < 16 → dst = .sca d →
    streamOf t h m = wrStream (streamOf s h m) d (BitVec.ofInt 64 (readInt signed (8 * n) v)) ∧
      ∀ k, k ≠ m → streamOf t h k = streamOf s h k

theorem wrS_energy (b : Band) (d : Nat) (v e : DWord) : wrS { b with energy := e } d v = { wrS b d v with energy := e } := by
  unfold wrS
  split <;> rfl

theorem delivers {s r w t : State} {o : PendOp} {dst : Dest} {n : Nat} {signed : Bool} {v : Nat} (hr : Booked s r) (hw : CachesOnly r w)
    (ht : Booked (deliver w o dst n signed v) t) : Delivers s t o dst n signed v where
  vec b d hb hdst := by
    subst hdst
    obtain ⟨e, hb'⟩ := hr.band o.issuer b hb
    have hbw : bandOf w o.issuer = some { b with energy := e } := (hw.bandOf _).trans hb'
    rw [deliver_vec hbw] at ht
    obtain ⟨e', hbt⟩ := ht.band o.issuer _ (bandOf_setBand ..)
    exact ⟨e', hbt⟩
  sca core team ctx b d hag hb hdst := by
    subst hdst
    obtain ⟨e, hb'⟩ := hr.band o.issuer b hb
    have hbw : bandOf w o.issuer = some { b with energy := e } := (hw.bandOf _).trans hb'
    rw [deliver_sca hbw hag, wrS_energy] at ht
    obtain ⟨e', hbt⟩ := ht.band o.issuer _ (bandOf_setBand ..)
    exact ⟨e', hbt⟩
  stream h ctx m d hag hissuer hm hdst := by
    subst hdst
    have hsame (k : Nat) : streamOf w h k = streamOf s h k := (hw.streamOf h k).trans (hr.streamOf h k)
    rw [deliver_stream hag hissuer hm, hsame] at ht
    refine ⟨(ht.streamOf h m).trans (streamOf_setStream ..), fun k hk => ?_⟩
    exact (ht.streamOf h k).trans ((streamOf_setStream_ne _ hk _).trans (hsame k))

theorem threadOf_takenBand_in {b : Band} {lanes : List Nat} {l : Nat} (h : l ∈ lanes) (hl : l < b.threads.length) (n : Nat) (signed : Bool)
    (r v : Nat) : threadOf (takenBand b lanes n signed r v) l = taken n signed r v (threadOf b l) := threadOf_onLanes_in b _ h hl

theorem threadOf_takenBand_out {b : Band} {lanes : List Nat} {l : Nat} (h : l ∉ lanes) (n : Nat) (signed : Bool) (r v : Nat) :
    threadOf (takenBand b lanes n signed r v) l = threadOf b l := threadOf_onLanes_out b _ h

theorem performKind_load {o : PendOp} {w : Width} {loc : Loc} {dst : Dest} {acq : Option Scope} {hint : Hint}
    (hk : o.kind = .load loc w dst acq hint) (readers : List Nat) {s x : State} {bs : List Byte}
    (hread : readBy (acquired s o.agent acq) o.agent o.issuer readers (hint == .na)
      (placeOf (acquired s o.agent acq) o.agent loc false) (bytesOf w) = (bs, x)) :
    performKind readers s o = deliver x o dst (widthBytes w) (widthSigned w) (leNat bs) := by
  rw [← widthBytes_eq] at hread
  have hperform : performKind readers s o =
      deliver (readBy (acquired s o.agent acq) o.agent o.issuer readers (hint == .na)
        (placeOf (acquired s o.agent acq) o.agent loc false) (widthBytes w)).2 o dst (widthBytes w) (widthSigned w)
        (leNat (readBy (acquired s o.agent acq) o.agent o.issuer readers (hint == .na)
          (placeOf (acquired s o.agent acq) o.agent loc false) (widthBytes w)).1) := by
    simp only [performKind, hk]
    cases acq <;> rfl
  rw [hperform, hread]

/-- A location that a load finds, in memory or elsewhere, and how its operation is performed. -/
theorem load_performed {s : State} {i v : Nat} {o : PendOp} {w : Width} {loc : Loc} {dst : Dest} {acq : Option Scope} {hint : Hint}
    (hcur : s.cur = .event (.accessPerformed i)) (ho : s.pending[i]? = some o) (hmay : mayPerform s i = true)
    (hset : performSet s o = [o]) (hk : o.kind = .load loc w dst acq hint)
    (hfinds : Finds s (acquired s o.agent acq) o.agent (bytesOf w) loc v) :
    ∃ t, exec .accessPerformed s = .next t ∧ Booked (performKind o.lanes (readied1 s o) o) t ∧
      t.pending = s.pending.filter fun x => x ≠ o := by
  have hnoted := noted_readied1 s o
  cases hfinds with
  | memory a va hplain hroom =>
    refine performed_plain hcur ho hmay hset ⟨bytesOf w, by rw [hk]; rfl⟩ hplain hroom ?_
    obtain ⟨bs, u, hread, -, -, hkept⟩ := load_reads (.memory a va hplain hroom) hnoted (readied1_picks s o) o.issuer o.lanes (hint == .na)
    rw [performKind_load hk o.lanes hread]
    exact (cachesOnly_acquired _ _ acq).sameLines.trans (hkept.caches.sameLines.trans (deliver_keeps ..).2)
  | stash core team ctx off tm hag htm hplainly =>
    refine performed_noLine hcur ho hmay hset ?_
    simp only [opLine, hk]
  | zeros va l hwalk hstate hwindow hkept =>
    refine performed_noLine hcur ho hmay hset ?_
    have hplace : placeOf (readied1 s o) o.agent (.again va) false = .zeros := by
      refine placeOf_again_zeros ((hnoted.sameTables.walk ..).trans hwalk) hstate ?_
        fun ha => (hnoted.sameHomes.pageLost _).trans (hkept ha)
      rw [windowAt, hnoted.lines.teams]
      exact hwindow
    simp only [opLine, hk, PendKind.writes, hplace]

theorem loadPerformed : LoadPerformed := by
  intro s i v o w loc dst acq hint hcur ho hmay hset hk u hfinds
  have hu : u = acquired s o.agent acq := by cases acq <;> rfl
  clear_value u
  subst hu
  have hnoted := noted_readied1 s o
  obtain ⟨t, hexec, hbooked, hpending⟩ := load_performed hcur ho hmay hset hk hfinds
  obtain ⟨bs, x, hread, hvalue, hlt, hkept⟩ :=
    load_reads hfinds hnoted (readied1_picks s o) o.issuer o.lanes (hint == .na)
  rw [performKind_load hk o.lanes hread, hvalue] at hbooked
  have halike := (deliver_keeps x o dst (widthBytes w) (widthSigned w) v).1.trans hbooked.alike
  have hdelivers := delivers hnoted.toBooked ((cachesOnly_acquired ..).trans hkept.caches) hbooked
  refine ⟨t, hexec, hpending, fun b => ⟨?_, ?_⟩, fun core team ctx b hag hb => ?_, fun h ctx n d hag hissuer hn hdst => ?_⟩
  · rw [(halike.sameByte b).home, hkept.home, homeByte, acquired_mem]
    exact (hnoted.alike.sameByte b).home
  · rw [halike.seenByte, hkept.seen, (hnoted.alike.acquired o.agent acq).seenByte]
  · cases dst with
    | vec d =>
      obtain ⟨e, hb'⟩ := hdelivers.vec b d hb rfl
      refine ⟨_, hb', fun d' hd => ?_, nofun⟩
      cases hd
      refine ⟨rfl, fun l hl hin => ?_, fun l hout => ?_, fun l h32 hin => ⟨?_, fun hw => ?_⟩⟩
      · have htaken := threadOf_takenBand_in hin hl (widthBytes w) (widthSigned w) d v
        exact htaken.symm ▸ takesV_taken hlt d (threadOf b l)
      · exact threadOf_takenBand_out hout ..
      · exact clearMarks_none hin h32 le_rfl (by omega)
      · exact clearMarks_none hin h32 (Nat.le_succ d) (by simp only [hw, widthBytes]; omega)
    | sca d =>
      obtain ⟨e, hb'⟩ := hdelivers.sca core team ctx b d hag hb rfl
      refine ⟨_, hb', nofun, fun d' hd => ?_⟩
      cases hd
      rw [readInt_loaded hlt]
      refine ⟨?_, rdS_wrS .., fun r hr => rdS_wrS_ne hr ..⟩
      conv_lhs => rw [wrS_frame]
  · obtain ⟨hself, hothers⟩ := hdelivers.stream h ctx n d hag hissuer hn hdst
    rw [readInt_loaded hlt] at hself
    dsimp only
    rw [hself]
    exact ⟨rfl, rdStream_wrStream .., fun r hr => rdStream_wrStream_ne hr .., hothers⟩

/-! ### A store performed (R255, R269) -/

/-- What a release leaves before its write. -/
def released (s : State) (ag : Agent) (rel : Option Scope) : State :=
  match rel with
  | some sc => cleanAll s ag sc
  | none => s

theorem cachesOnly_released (s : State) (ag : Agent) (rel : Option Scope) : CachesOnly s (released s ag rel) := by
  cases rel with
  | none => exact .refl s
  | some sc => exact cachesOnly_cleanAll ..

theorem Alike.released {s t : State} (h : Alike s t) (ag : Agent) (rel : Option Scope) : Alike (released s ag rel) (released t ag rel) := by
  cases rel with
  | none => exact h
  | some sc => exact h.cleanAll ag sc

theorem SameLines.symm {s t : State} (h : SameLines s t) : SameLines t s :=
  ⟨h.teams.symm, fun n => (h.core n).symm, fun n => (h.cluster n).symm⟩

/-- An address that is plain after a release is plain where the release has been performed for an operation. -/
theorem plain_of_alike {s r u x : State} {ag : Agent} {a va : Nat} (hnoted : Noted s r) (hu : CachesOnly s u) (hx : CachesOnly r x)
    (halike : Alike u x) (h : Claims.Plain u ag a va) : Claims.Plain x ag a va := by
  refine plain_of_same h (hu.sameLines.symm.trans (hnoted.lines.trans hx.sameLines)) ⟨halike.homes, halike.mem, ?_, fun n => ?_⟩
  · rw [hx.frame, hnoted.frame, hu.frame]
  · rw [hx.hinge, hu.hinge, show hingeOf r n = hingeOf s n by rw [hingeOf, hnoted.frame]; rfl]

theorem performKind_store {o : PendOp} {loc : Loc} {n v : Nat} {rel : Option Scope} {hint : Hint} (hk : o.kind = .store loc n v rel hint)
    (readers : List Nat) (s : State) : performKind readers s o =
      writePlace (released s o.agent rel) o.agent (hint == .na) rel (placeOf (released s o.agent rel) o.agent loc true) (leBytes n v) := by
  simp only [performKind, hk]
  cases rel <;> rfl

theorem Booked.bandOf_none_iff {s t : State} (h : Booked s t) (k : Nat) : bandOf t k = none ↔ bandOf s k = none := by
  refine ⟨fun ht => ?_, h.noBand k⟩
  cases hs : bandOf s k with
  | none => rfl
  | some b =>
    obtain ⟨e, hb⟩ := h.band k b hs
    rw [hb] at ht
    cases ht

/-- What a write of `n` bytes to memory leaves, plain or of a release. -/
structure Stored (s t : State) (ag : Agent) (rel : Option Scope) (a n v : Nat) : Prop where
  caches : CachesOnly s t
  seen : ∀ j, j < n → (seenByte t ag (a + j)).toNat = v / 256 ^ j % 256
  others : ∀ b, b < a ∨ a + n ≤ b → SameByte s t b
  home : ∀ core team ctx, ag = .thread core team ctx → rel = none → ∀ b, homeByte t b = homeByte s b
  clean : ∀ sc, rel = some sc → ∀ b, NoDirtyAbove s ag sc b → NoDirtyAbove t ag sc b
  point : ∀ sc, rel = some sc → ∀ j, j < n → (pointByte t ag sc (a + j)).toNat = v / 256 ^ j % 256

theorem stored_writePlace (s : State) (ag : Agent) (na : Bool) (rel : Option Scope) (a n v : Nat) :
    Stored s (writePlace s ag na rel (.mem a) (leBytes n v)) ag rel a n v := by
  have hlength (b : Nat) (h : b < a ∨ a + n ≤ b) : b < a ∨ a + (leBytes n v).length ≤ b := by rwa [leBytes_length]
  have hin {j : Nat} (h : j < n) : j < (leBytes n v).length := by rwa [leBytes_length]
  cases rel with
  | none =>
    have hcount := alike_countWrite s ag na a
    refine ⟨(cachesOnly_countWrite s ag na a).trans (cachesOnly_storeBytes ..), fun j hj => ?_, fun b hb => ?_, ?_, nofun, nofun⟩
    · exact (congrArg BitVec.toNat (seenByte_storeBytes ag na _ _ a j (hin hj))).trans (leBytes_getElem (hin hj))
    · exact (hcount.sameByte b).trans (storeBytes_others ag na _ _ (hlength b hb))
    · rintro core team ctx rfl - b
      exact (storeBytes_home ..).trans (hcount.sameByte b).home
  | some sc =>
    obtain ⟨x, hx, hcount, hcaches⟩ : ∃ x, writePlace s ag na (some sc) (.mem a) (leBytes n v) = releaseWrite x ag sc a (leBytes n v) ∧
        Alike s x ∧ CachesOnly s x := by
      by_cases hsc : sc = .cluster
      · exact ⟨countAtomic s ag sc a, by simp only [writePlace, hsc, if_true], alike_countAtomic .., cachesOnly_countAtomic ..⟩
      · exact ⟨s, by simp only [writePlace, hsc, if_false], .refl s, .refl s⟩
    rw [hx]
    have htakes {j : Nat} (hj : j < n) := releaseWrite_takes ag sc (leBytes n v) x a j (hin hj)
    refine ⟨hcaches.trans (cachesOnly_releaseWrite ..), fun j hj => ?_, fun b hb => ?_, nofun, ?_, ?_⟩
    · rw [(htakes hj).2, leBytes_getElem]
    · exact (hcount.sameByte b).trans (releaseWrite_others ag sc _ _ (hlength b hb))
    · rintro sc' ⟨⟩ b hb
      exact noDirtyAbove_releaseWrite ag sc _ a (hcount.noDirtyAbove hb)
    · rintro sc' ⟨⟩ j hj
      rw [(htakes hj).1, leBytes_getElem]

/-! #### At the stash -/

theorem classesAfter_frame (tm : Team) (whole : Bool) (off n : Nat) :
    classesAfter tm whole off n = { tm with slotCls := (classesAfter tm whole off n).slotCls } := by
  unfold classesAfter
  refine List.foldlRecOn _ _ (motive := fun x : Team => x = { tm with slotCls := x.slotCls }) rfl fun x hx slot _ => ?_
  have hset (c : TileClass) : setSlotCls x slot c = { tm with slotCls := (setSlotCls x slot c).slotCls } := by
    rw [hx]
    rfl
  split
  · exact hset _
  · exact hset _

theorem stashWrite_noWindow {s : State} {k : Nat} {tm : Team} (htm : teamOf s k = some tm) (h : ∀ e ∈ tm.maps, e.2.win = none)
    (off : Nat) (bs : List Byte) : stashWrite s k off bs =
      setTeam s k (classesAfter { tm with stash := writeBytes 0 tm.stash off bs } false off bs.length) := by
  unfold stashWrite
  rw [touchStash_noWindow htm h]
  simp only [htm]

theorem alike_setTeam (s : State) (k : Nat) (tm : Team) : Alike s (setTeam s k tm) :=
  ⟨rfl, fun l => by cases l <;> rfl, ⟨rfl, fun _ => rfl⟩⟩

section
variable {s : State} {i n v : Nat} {o : PendOp} {rel : Option Scope} {hint : Hint} (hcur : s.cur = .event (.accessPerformed i))
  (ho : s.pending[i]? = some o) (hmay : mayPerform s i = true)
include hcur ho hmay

/-- A store to memory. -/
theorem store_performed {a va : Nat} (hk : o.kind = .store (.phys a va) n v rel hint) (hplain : Claims.Plain s o.agent a va)
    (hplain' : Claims.Plain (released s o.agent rel) o.agent a va) (hroom : RoomFor s o.agent a) :
    ∃ r x y t, exec .accessPerformed s = .next t ∧ t.pending = s.pending.filter (fun x => x ≠ o) ∧ Noted s r ∧
      x = released r o.agent rel ∧ Stored x y o.agent rel a n v ∧ Booked y t := by
  have hnoted := noted_readied1 s o
  have hx := cachesOnly_released (readied1 s o) o.agent rel
  have hplace := plain_of_alike hnoted (cachesOnly_released s o.agent rel) hx (hnoted.alike.released o.agent rel) hplain'
  have hstored := stored_writePlace (released (readied1 s o) o.agent rel) o.agent (hint == .na) rel a n v
  have hperform := performKind_store hk o.lanes (readied1 s o)
  rw [placeOf_plain hplace] at hperform
  obtain ⟨t, hexec, hbooked, hpending⟩ := performed_plain hcur ho hmay (performSet_of_store hk s) ⟨n, by rw [hk]; rfl⟩ hplain hroom
    (by rw [hperform]; exact hx.sameLines.trans hstored.caches.sameLines)
  exact ⟨_, _, _, t, hexec, hpending, hnoted, rfl, hstored, hperform ▸ hbooked⟩

/-- A store to the stash of the thread's team. -/
theorem stash_performed {off core team ctx : Nat} {tm : Team} (hk : o.kind = .store (.stash off) n v rel hint)
    (hag : o.agent = .thread core team ctx) (htm : teamOf s team = some tm) (hmaps : ∀ e ∈ tm.maps, e.2.win = none) :
    ∃ r t, exec .accessPerformed s = .next t ∧ t.pending = s.pending.filter (fun x => x ≠ o) ∧ Noted s r ∧
      Booked (setTeam (released r o.agent rel) team
        (classesAfter { tm with stash := writeBytes 0 tm.stash off (leBytes n v) } false off n)) t := by
  have hnoted := noted_readied1 s o
  obtain ⟨t, hexec, hbooked, hpending⟩ := performed_noLine hcur ho hmay (performSet_of_store hk s) (by simp only [opLine, hk])
  have htm' : teamOf (released (readied1 s o) o.agent rel) team = some tm :=
    ((cachesOnly_released ..).sameLines.teamOf team).trans ((hnoted.lines.teamOf team).trans htm)
  have hplace : placeOf (released (readied1 s o) o.agent rel) o.agent (.stash off) true = .stash team off := by
    simp only [placeOf, hag, agentTeam]
  rw [performKind_store hk, hplace] at hbooked
  change Booked (stashWrite (released (readied1 s o) o.agent rel) team off (leBytes n v)) t at hbooked
  rw [stashWrite_noWindow htm' hmaps, leBytes_length] at hbooked
  exact ⟨_, t, hexec, hpending, hnoted, hbooked⟩

end

theorem storePerformed : StorePerformed := by
  intro s i n v o loc rel hint hcur ho hmay hk u
  have hu : u = released s o.agent rel := by cases rel <;> rfl
  clear_value u
  subst hu
  refine ⟨?_, ?_⟩
  · rintro a va rfl hplain hplain' hroom
    obtain ⟨r, x, y, t, hexec, hpending, hnoted, rfl, hstored, hbooked⟩ := store_performed hcur ho hmay hk hplain hplain' hroom
    have halike := hnoted.alike.released o.agent rel
    have hcaches := (cachesOnly_released r o.agent rel).trans hstored.caches
    refine ⟨t, hexec, hpending, fun j hj => ?_, fun b hb => ?_, ?_, ?_, ?_, fun j => ?_⟩
    · rw [hbooked.alike.seenByte, hstored.seen j hj]
    · rw [hbooked.alike.seenByte, (hstored.others b hb).seenByte hstored.caches.sameHomes, halike.seenByte]
    · rintro core team ctx hag rfl b
      rw [(hbooked.sameByte b).home, hstored.home core team ctx hag rfl b]
      exact (hnoted.alike.sameByte b).home
    · rintro sc rfl
      have hcleaned : PointCleaned s (released r o.agent (some sc)) o.agent sc :=
        pointCleaned_alike hnoted.alike (.refl _) (cleanAll_pointCleaned r o.agent sc)
      refine ⟨fun b => hbooked.alike.noDirtyAbove (hstored.clean sc rfl b (hcleaned b).1), fun j hj => ?_, fun b hb => ?_⟩
      · rw [hbooked.alike.pointByte, hstored.point sc rfl j hj]
      · rw [hbooked.alike.pointByte, (hstored.others b hb).pointByte hstored.caches.sameHomes, (hcleaned b).2]
    · exact hbooked.teams.trans (hcaches.teams.trans hnoted.lines.teams)
    · rw [hbooked.bandOf_none_iff, hcaches.bandOf, hnoted.bandOf_none_iff]
  · rintro off core team ctx tm rfl hag htm hmaps
    obtain ⟨r, t, hexec, hpending, hnoted, hbooked⟩ := stash_performed hcur ho hmay hk hag htm hmaps
    have hframe := classesAfter_frame { tm with stash := writeBytes 0 tm.stash off (leBytes n v) } false off n
    have hstash : (classesAfter { tm with stash := writeBytes 0 tm.stash off (leBytes n v) } false off n).stash =
        writeBytes 0 tm.stash off (leBytes n v) := by rw [hframe]
    have halike := (alike_setTeam (released r o.agent rel) team (classesAfter { tm with
      stash := writeBytes 0 tm.stash off (leBytes n v) } false off n)).trans hbooked.alike
    refine ⟨t, _, hexec, hpending, (hbooked.teamOf team).trans (teamOf_setTeam ..), ?_, fun j hj => ?_, fun x hx => ?_, fun k hk => ?_,
      ?_, ?_, ?_⟩
    · rw [hstash]
      exact hframe
    · have hj' : j < (leBytes n v).length := by rwa [leBytes_length]
      rw [hstash, aGet_writeBytes_in _ _ _ _ hj', leBytes_getElem]
    · rw [hstash, aGet_writeBytes_out _ _ _ _ (by rwa [leBytes_length])]
    · exact (hbooked.teamOf k).trans ((teamOf_setTeam_ne _ hk _).trans
        (((cachesOnly_released ..).sameLines.teamOf k).trans (hnoted.lines.teamOf k)))
    · rintro sc rfl
      exact pointCleaned_alike hnoted.alike halike (cleanAll_pointCleaned r o.agent sc)
    · rintro rfl l x
      exact (halike.copyAt l x).trans (hnoted.alike.copyAt l x)
    · rintro rfl x
      exact (halike.sameByte x).home.trans (hnoted.alike.sameByte x).home

end Sys2Proof.Proofs
end

section
/-! SUPPORT. Atomics performed (R291-R293, R298), lanes that load together (R252), and O24. -/

namespace Sys2Proof.Proofs
open Sys2Proof.Machine Sys2Proof.Claims

/-! ### An atomic performed (R291-R293, R298) -/

/-- The scope down to which an atomic cleans before it acts, and the scope that it drops after it. -/
def releaseOf (ord : Order) (sc : Scope) : Option Scope := if ord = .rel ∨ ord = .ar then some sc else none
def acquireOf (ord : Order) (sc : Scope) : Option Scope := if ord = .acq ∨ ord = .ar then some sc else none

theorem released_releaseOf (s : State) (ag : Agent) (ord : Order) (sc : Scope) :
    released s ag (releaseOf ord sc) = if ord = .rel ∨ ord = .ar then cleanAll s ag sc else s := by
  unfold releaseOf
  split <;> rfl

theorem acquired_acquireOf (s : State) (ag : Agent) (ord : Order) (sc : Scope) :
    acquired s ag (acquireOf ord sc) = if ord = .acq ∨ ord = .ar then dropAll s ag sc else s := by
  unfold acquireOf
  split <;> rfl

/-- What the step of an atomic with a location in memory leaves, before its value is delivered. -/
def atomicStepped (s : State) (ag : Agent) (ord : Order) (sc : Scope) (a n : Nat) (f : Nat → Option Nat) : State :=
  acquired (pointStep (released s ag (releaseOf ord sc)) ag sc a n f).2 ag (acquireOf ord sc)

theorem cachesOnly_atomicStepped (s : State) (ag : Agent) (ord : Order) (sc : Scope) (a n : Nat) (f : Nat → Option Nat) :
    CachesOnly s (atomicStepped s ag ord sc a n f) :=
  (cachesOnly_released ..).trans ((pointStepped ..).caches.trans (cachesOnly_acquired ..))

theorem performKind_atomic {o : PendOp} {fn : AtomFn} {a va n x cmp : Nat} {dst : Dest} {ord : Order} {sc : Scope} {hint : Hint}
    (hk : o.kind = .atomic fn (.phys a va) n x cmp dst ord sc hint) (readers : List Nat) {s : State}
    (hplain : Claims.Plain (released s o.agent (releaseOf ord sc)) o.agent a va) : performKind readers s o =
      deliver (atomicStepped s o.agent ord sc a n (atomNew fn n x cmp)) o dst n false
        (pointValue (released s o.agent (releaseOf ord sc)) o.agent sc a n) := by
  have hplace := placeOf_plain hplain true
  have hvalue : (pointStep (released s o.agent (releaseOf ord sc)) o.agent sc a n (atomNew fn n x cmp)).1 =
      pointValue (released s o.agent (releaseOf ord sc)) o.agent sc a n := by rw [pointStep_eq]
  rw [atomicStepped, ← hvalue]
  rw [released_releaseOf] at hplace ⊢
  rw [acquired_acquireOf]
  simp only [performKind, hk, hplace, placeStep]

theorem acquired_pointByte (s : State) (ag : Agent) (ord : Order) (sc : Scope) (b : Nat) :
    pointByte (acquired s ag (acquireOf ord sc)) ag sc b = pointByte s ag sc b := by
  rw [acquired_acquireOf]
  split
  · exact pointByte_dropAll ..
  · rfl

theorem acquired_noDirtyAbove {s : State} {ag : Agent} {sc : Scope} {b : Nat} (h : NoDirtyAbove s ag sc b) (ord : Order) :
    NoDirtyAbove (acquired s ag (acquireOf ord sc)) ag sc b := by
  rw [acquired_acquireOf]
  split
  · rw [noDirtyAbove_iff, (copiesOnly_dropAll s ag sc).sameHomes.above]
    intro l hl c hc
    rw [copyAt_dropAll, if_pos hl] at hc
    exact h l hl c (Option.filter_eq_some_iff.mp hc).1
  · exact h

/-- The number at the point after an atomic's step: the new value, if there is one. -/
def valueAfter (new : Option Nat) (n old : Nat) : Nat :=
  match new with
  | some v => v % 2 ^ (8 * n)
  | none => old

theorem PointStepped.valueAfter {s t : State} {ag : Agent} {sc : Scope} {a n : Nat} {new : Option Nat}
    (h : PointStepped s t ag sc a n new) : pointValue t ag sc a n = valueAfter new n (pointValue s ag sc a n) := by
  cases new with
  | none => exact h.pointValue_none rfl
  | some v => exact h.pointValue_some rfl

theorem atomicStepped_value (s : State) (ag : Agent) (ord : Order) (sc : Scope) (a n : Nat) (f : Nat → Option Nat) :
    pointValue (atomicStepped s ag ord sc a n f) ag sc a n =
      valueAfter (f (pointValue (released s ag (releaseOf ord sc)) ag sc a n)) n
        (pointValue (released s ag (releaseOf ord sc)) ag sc a n) := by
  rw [← (pointStepped (released s ag (releaseOf ord sc)) ag sc a n f).valueAfter, pointValue_eq, pointValue_eq]
  exact numberOf_congr fun b _ _ => acquired_pointByte ..

theorem pointValue_lt (s : State) (ag : Agent) (sc : Scope) (a n : Nat) : pointValue s ag sc a n < 256 ^ n := by
  rw [pointValue_eq]
  exact numberOf_lt ..

section
variable {z : State} {o : PendOp} {fn : AtomFn} {a va n x cmp d : Nat} {ord : Order} {sc : Scope} {hint : Hint}

/-- An atomic on an address in memory, one of a set. -/
theorem performOp_atomic (hk : o.kind = .atomic fn (.phys a va) n x cmp (.vec d) ord sc hint) (hplain : Claims.Plain z o.agent a va)
    (hroom : RoomFor z o.agent a) (hplain' : Claims.Plain (released (noteOp z o) o.agent (releaseOf ord sc)) o.agent a va)
    (readers : List Nat) :
    Used (deliver (atomicStepped (noteOp z o) o.agent ord sc a n (atomNew fn n x cmp)) o (.vec d) n false
      (pointValue (released (noteOp z o) o.agent (releaseOf ord sc)) o.agent sc a n)) (performOp readers z o) o.agent a va := by
  have hperform := performKind_atomic hk readers hplain'
  have hused := performOp_plain (o := o) ⟨n, by rw [hk]; rfl⟩ hplain hroom readers
    (by rw [hperform]; exact (cachesOnly_atomicStepped ..).sameLines.trans (deliver_keeps ..).2)
  rwa [hperform] at hused

end

theorem mem_lanes_of {b : Band} {lanes : List Nat} {n d v l : Nat} (hn : n ∈ [4, 8, 16]) (hv : v < 256 ^ n) (hl : l ∈ lanes)
    (hlt : l < b.threads.length) : wordsAt (threadOf (takenBand b lanes n false d v) l) (n / 4) d = v := by
  rw [threadOf_takenBand_in hl hlt]
  exact wordsAt_taken hn hv ..

/-- One lane's atomic, or some lanes' on locations of their own. -/
theorem atomic_alone {s : State} {i a va n d : Nat} {o : PendOp} {fn : AtomFn} {x cmp : Nat} {ord : Order} {sc : Scope}
    {hint : Hint} {b : Band} (hcur : s.cur = .event (.accessPerformed i)) (ho : s.pending[i]? = some o) (hmay : mayPerform s i = true)
    (hk : o.kind = .atomic fn (.phys a va) n x cmp (.vec d) ord sc hint) (hn : n ∈ [4, 8, 16])
    (hb : bandOf s o.issuer = some b) (hplain : Claims.Plain s o.agent a va) (hroom : RoomFor s o.agent a)
    (hplain' : Claims.Plain (released s o.agent (releaseOf ord sc)) o.agent a va) (hset : performSet s o = [o]) :
    ∃ t b', exec .accessPerformed s = .next t ∧ t.pending = s.pending.filter (fun y => y ≠ o) ∧ bandOf t o.issuer = some b' ∧
      b' = { b with threads := b'.threads, vEcc := b'.vEcc, energy := b'.energy } ∧
      (∀ l, l < b.threads.length → l ∈ o.lanes →
        wordsAt (threadOf b' l) (n / 4) d = pointValue (released s o.agent (releaseOf ord sc)) o.agent sc a n) ∧
      (∀ l, l ∉ o.lanes → threadOf b' l = threadOf b l) ∧
      pointValue t o.agent sc a n = valueAfter (atomNew fn n x cmp (pointValue (released s o.agent (releaseOf ord sc)) o.agent sc a n)) n
        (pointValue (released s o.agent (releaseOf ord sc)) o.agent sc a n) ∧
      (ord = .acq ∨ ord = .ar → ∀ y, NoCleanAbove t o.agent sc y) ∧ (ord = .rel ∨ ord = .ar → ∀ y, NoDirtyAbove t o.agent sc y) ∧
      ∀ y, y < a ∨ a + n ≤ y → pointByte t o.agent sc y = pointByte (released s o.agent (releaseOf ord sc)) o.agent sc y := by
  have hnoted := noted_readied1 s o
  have halike := hnoted.alike.released o.agent (releaseOf ord sc)
  have hplace := plain_of_alike hnoted (cachesOnly_released ..) (cachesOnly_released ..) halike hplain'
  have hold := halike.pointValue o.agent sc a n
  have hbegun := noted_begun s [o]
  have hused := performOp_atomic hk (plain_of_same hplain hbegun.lines hbegun.sameTables) (hbegun.lines.roomFor hroom) hplace o.lanes
  have hexec := exec_performed_alone hcur ho hmay hset
  have hbooked := hused.booked.trans (booked_settleOp (performOp o.lanes (begun s [o]) o) o)
  have hpending : (settleOp (performOp o.lanes (begun s [o]) o) o).pending = s.pending.filter fun y => y ≠ o := by
    rw [settleOp_pending, performOp_pending, begun_pending]
  generalize settleOp (performOp o.lanes (begun s [o]) o) o = t at hexec hbooked hpending
  have hdelivers := delivers hnoted.toBooked (cachesOnly_atomicStepped ..) hbooked
  have hpoint := (deliver_keeps (atomicStepped (readied1 s o) o.agent ord sc a n (atomNew fn n x cmp)) o (.vec d) n false _).1.trans
    hbooked.alike
  obtain ⟨e, hb'⟩ := hdelivers.vec b d hb rfl
  have hstep := pointStepped (released (readied1 s o) o.agent (releaseOf ord sc)) o.agent sc a n (atomNew fn n x cmp)
  rw [show noteOp (begun s [o]) o = readied1 s o from rfl, hold] at hb'
  refine ⟨t, _, hexec, hpending, hb', rfl, fun l hlt hl => ?_, fun l hl => ?_, ?_, fun hord y => ?_, fun hord y => ?_, fun y hy => ?_⟩
  · exact mem_lanes_of hn (pointValue_lt ..) hl hlt
  · exact threadOf_takenBand_out hl ..
  · rw [hpoint.pointValue, atomicStepped_value, hold]
  · refine hpoint.noCleanAbove ?_
    rw [atomicStepped, acquired_acquireOf, if_pos hord]
    exact noCleanAbove_dropAll _ _ _ y
  · refine hpoint.noDirtyAbove (acquired_noDirtyAbove (hstep.noDirtyAbove ?_) ord)
    rw [released_releaseOf, if_pos hord]
    exact (cleanAll_pointCleaned _ _ _ y).1
  · rw [hpoint.pointByte, atomicStepped, acquired_pointByte, hstep.others y hy, halike.pointByte]

/-- A plain address of the same line, by its tables. -/
theorem plain_of_tables {s t : State} {ag : Agent} {a va : Nat} (h : Claims.Plain s ag a va) (hteams : t.teams = s.teams)
    (htables : SameTables s t) (hname : OwnName t ag a va) : Claims.Plain t ag a va where
  name := hname
  window := by rw [windowAt, hteams]; exact h.window
  kept ha := (htables.homes.pageLost _).trans (h.kept ha)
  resident := by rw [isDiscarded, htables.walk]; exact h.resident

theorem ownName_sameLine {s : State} {ag : Agent} {a b va wa : Nat} (ha : a / 128 = b / 128) (hva : va / 128 = wa / 128)
    (h : OwnName s ag a va) : OwnName s ag b wa := by
  cases ag with
  | thread core team ctx =>
    intro x hx
    rw [← ha] at hx
    rw [← hva]
    exact h x hx
  | _ => trivial

theorem released_none (s : State) (ag : Agent) (sc : Scope) : released s ag (releaseOf .none sc) = s := by
  rw [released_releaseOf, if_neg (by decide)]

theorem acquired_none (s : State) (ag : Agent) (sc : Scope) : acquired s ag (acquireOf .none sc) = s := by
  rw [acquired_acquireOf, if_neg (by decide)]

/-- What an atomic without order leaves: the step at its point, and its value delivered. -/
theorem atomicStepped_none (s : State) (ag : Agent) (sc : Scope) (a n : Nat) (f : Nat → Option Nat) :
    atomicStepped s ag .none sc a n f = (pointStep s ag sc a n f).2 := by
  rw [atomicStepped, released_none, acquired_none]

/-- The stage of an atomic without order, one of a set: the value that it finds, and what it leaves. -/
theorem atomic_stage {z : State} {o : PendOp} {fn : AtomFn} {a va n x cmp d : Nat} {sc : Scope} {hint : Hint} {b : Band}
    (hk : o.kind = .atomic fn (.phys a va) n x cmp (.vec d) .none sc hint) (hplain : Claims.Plain z o.agent a va)
    (hroom : RoomFor z o.agent a) (hb : bandOf z o.issuer = some b) (readers : List Nat) :
    ∃ e, bandOf (performOp readers z o) o.issuer =
        some { takenBand b o.lanes n false d (pointValue z o.agent sc a n) with energy := e } ∧
      Alike (pointStep z o.agent sc a n (atomNew fn n x cmp)).2 (performOp readers z o) ∧
      Used (deliver (pointStep (noteOp z o) o.agent sc a n (atomNew fn n x cmp)).2 o (.vec d) n false (pointValue z o.agent sc a n))
        (performOp readers z o) o.agent a va := by
  have hnoted := noted_noteOp z o
  have hplain' := plain_of_same hplain hnoted.lines hnoted.sameTables
  have hused := performOp_atomic hk hplain hroom (by rwa [released_none]) readers
  rw [atomicStepped_none, released_none, hnoted.alike.pointValue] at hused
  have hdelivers := delivers hnoted.toBooked (pointStepped ..).caches hused.booked
  obtain ⟨e, hband⟩ := hdelivers.vec b d hb rfl
  refine ⟨e, hband, ?_, hused⟩
  exact (hnoted.alike.pointStep o.agent sc a n _).2.trans ((deliver_keeps ..).1.trans hused.booked.alike)

theorem sameTables_deliver (s : State) (o : PendOp) (d n : Nat) (signed : Bool) (v : Nat) :
    SameTables s (deliver s o (.vec d) n signed v) := by
  unfold deliver
  dsimp only
  split <;> exact ⟨⟨rfl, fun _ => rfl⟩, rfl, rfl, fun _ => rfl⟩

/-- Stages that a step's caches and other places alone part have the same tables. -/
theorem sameTables_of_stages {s p t q : State} (hp : CachesOnly s p) (ht : SameTables s t) (hq : CachesOnly t q) (h : Alike p q) :
    SameTables p q :=
  ⟨h.homes, h.mem, by rw [hq.frame, hp.frame]; exact ht.contexts, fun n => by rw [hq.hinge, hp.hinge]; exact ht.memStacks n⟩

/-- The lanes of two atomics on one location: the second finds what the first left, and the first's registers keep its value. -/
theorem atomic_lanes {s : State} {i a va va' n d l l' x x' cmp : Nat} {o o' : PendOp} {fn : AtomFn} {sc : Scope}
    {hint : Hint} {b : Band} (hcur : s.cur = .event (.accessPerformed i)) (ho : s.pending[i]? = some o) (hmay : mayPerform s i = true)
    (hk : o.kind = .atomic fn (.phys a va) n x cmp (.vec d) .none sc hint) (hn : n ∈ [4, 8, 16]) (hb : bandOf s o.issuer = some b)
    (hplain : Claims.Plain s o.agent a va) (hroom : RoomFor s o.agent a) (hset : performSet s o = [o, o'])
    (hall : setMay s [o, o'] = true) (hl : o.lanes = [l])
    (ho' : o' = { o with lanes := [l'], kind := .atomic fn (.phys a va') n x' cmp (.vec d) .none sc hint }) (hlt : l < l')
    (hlt' : l' < b.threads.length) (hva : va' / 128 = va / 128)
    (hplain' : Claims.Plain (pointStep s o.agent sc a n (atomNew fn n x cmp)).2 o.agent a va') :
    ∃ t b', exec .accessPerformed s = .next t ∧ bandOf t o.issuer = some b' ∧
      wordsAt (threadOf b' l) (n / 4) d = pointValue s o.agent sc a n ∧
      wordsAt (threadOf b' l') (n / 4) d =
        valueAfter (atomNew fn n x cmp (pointValue s o.agent sc a n)) n (pointValue s o.agent sc a n) ∧
      pointValue t o.agent sc a n =
        valueAfter (atomNew fn n x' cmp (valueAfter (atomNew fn n x cmp (pointValue s o.agent sc a n)) n (pointValue s o.agent sc a n)))
          n (valueAfter (atomNew fn n x cmp (pointValue s o.agent sc a n)) n (pointValue s o.agent sc a n)) := by
  have hkind' : o'.kind = .atomic fn (.phys a va') n x' cmp (.vec d) .none sc hint := by rw [ho']
  have hissuer : o'.issuer = o.issuer := by rw [ho']
  have hagent : o'.agent = o.agent := by rw [ho']
  have hlanes : o'.lanes = [l'] := by rw [ho']
  have hbegun := noted_begun s [o, o']
  obtain ⟨e₁, hb₁⟩ := hbegun.band o.issuer b hb
  have hexec := exec_accessPerformed hcur ho hmay (hset.symm ▸ hall)
  rw [hset] at hexec
  simp only [List.foldl_cons, List.foldl_nil] at hexec
  generalize [o, o'].flatMap (·.lanes) = readers at hexec
  generalize begun s [o, o'] = z₁ at hbegun hexec hb₁
  have hplain₁ := plain_of_same hplain hbegun.lines hbegun.sameTables
  obtain ⟨e₂, hb₂, halike₂, hused⟩ := atomic_stage hk hplain₁ (hbegun.lines.roomFor hroom) hb₁ readers
  have hcaches := (pointStepped (noteOp z₁ o) o.agent sc a n (atomNew fn n x cmp)).caches
  have hkept := deliver_keeps (pointStep (noteOp z₁ o) o.agent sc a n (atomNew fn n x cmp)).2 o (.vec d) n false
    (pointValue z₁ o.agent sc a n)
  have hnoted := hbegun.trans (noted_noteOp z₁ o)
  generalize performOp readers z₁ o = z₂ at hexec hb₂ halike₂ hused
  have hstart := hnoted.alike.pointStep o.agent sc a n (atomNew fn n x cmp)
  have htables := (sameTables_of_stages (pointStepped s o.agent sc a n (atomNew fn n x cmp)).caches hnoted.sameTables hcaches
    hstart.2).trans ((sameTables_deliver ..).trans hused.booked.sameTables)
  have hlines := hnoted.lines.trans (hcaches.sameLines.trans hkept.2)
  have hteams : z₂.teams = (pointStep s o.agent sc a n (atomNew fn n x cmp)).2.teams :=
    (hused.booked.teams.trans hlines.teams).trans (pointStepped ..).caches.teams.symm
  have hplain₂ : Claims.Plain z₂ o'.agent a va' := hagent ▸ plain_of_tables hplain' hteams htables
    (ownName_sameLine rfl hva.symm (hused.own (hlines.ownName hplain.name)))
  have hroom₂ : RoomFor z₂ o'.agent a := hagent ▸ hused.room
  obtain ⟨e₃, hb₃, halike₃, -⟩ := atomic_stage hkind' hplain₂ hroom₂ (hissuer ▸ hb₂) readers
  have hsettle := booked_settleOp (performOp readers z₂ o') o
  generalize performOp readers z₂ o' = z₃ at hexec hb₃ halike₃ hsettle
  obtain ⟨e₄, hb₄⟩ := hsettle.band _ _ hb₃
  rw [hissuer] at hb₄
  have hfirst : pointValue z₁ o.agent sc a n = pointValue s o.agent sc a n := hbegun.alike.pointValue ..
  have hmid : pointValue z₂ o.agent sc a n =
      valueAfter (atomNew fn n x cmp (pointValue s o.agent sc a n)) n (pointValue s o.agent sc a n) := by
    rw [halike₂.pointValue, (pointStepped z₁ o.agent sc a n (atomNew fn n x cmp)).valueAfter, hfirst]
  refine ⟨_, _, hexec, hb₄, ?_, ?_, ?_⟩
  · change wordsAt (threadOf (takenBand (takenBand b o.lanes n false d _) o'.lanes n false d _) l) _ _ = _
    rw [threadOf_takenBand_out (by rw [hlanes]; simpa using hlt.ne), hl, ← hfirst]
    exact mem_lanes_of hn (pointValue_lt ..) (List.mem_singleton_self l) (hlt.trans hlt')
  · change wordsAt (threadOf (takenBand (takenBand b o.lanes n false d _) o'.lanes n false d _) l') _ _ = _
    rw [hlanes, hagent, ← hmid]
    exact mem_lanes_of hn (pointValue_lt ..) (List.mem_singleton_self l') (by simpa [takenBand, onLanes] using hlt')
  · rw [hsettle.alike.pointValue, halike₃.pointValue, hagent, (pointStepped z₂ o.agent sc a n _).valueAfter, hmid]

theorem atomicPerformed : AtomicPerformed := by
  intro s i a va n d core team ctx o fn x cmp ord sc hint b hcur ho hmay hag hk hn hb hplain hroom u hplain'
  have hu : released s o.agent (releaseOf ord sc) = u := released_releaseOf ..
  refine ⟨fun hset => ?_, fun l l' x' va' o' hord hset hall hl ho' hlt hlt' hva hmoved => ?_⟩
  · have h := atomic_alone hcur ho hmay hk hn hb hplain hroom (hu.symm ▸ hplain') hset
    rw [hu] at h
    exact h
  · subst hord
    exact atomic_lanes hcur ho hmay hk hn hb hplain hroom hset hall hl ho' hlt hlt' hva hmoved

/-! ### Lanes that load together (R252) -/

theorem roomFor_sameLine {s : State} {ag : Agent} {a b : Nat} (hab : a / 128 = b / 128) (h : RoomFor s ag a) : RoomFor s ag b := by
  cases ag with
  | thread => simpa only [RoomFor, L1Room, ClusterRoom, hab] using h
  | engine => simpa only [RoomFor, ClusterRoom, hab] using h
  | _ => trivial

/-- What the loads of some lanes leave for the next one: the tables, the teams, the bytes that the agent sees, and room and a name
for their line. -/
structure LanesLoaded (s z : State) (ag : Agent) (a va : Nat) : Prop where
  tables : SameTables s z
  teams : z.teams = s.teams
  seen : ∀ b, seenByte z ag b = seenByte s ag b
  room : RoomFor z ag a
  own : OwnName s ag a va → OwnName z ag a va

theorem LanesLoaded.sameLine {s z : State} {ag : Agent} {a va b vb : Nat} (h : LanesLoaded s z ag a va) (ha : a / 128 = b / 128)
    (hva : va / 128 = vb / 128) : LanesLoaded s z ag b vb where
  tables := h.tables
  teams := h.teams
  seen := h.seen
  room := roomFor_sameLine ha h.room
  own hname := ownName_sameLine ha hva (h.own (ownName_sameLine ha.symm hva.symm hname))

theorem LanesLoaded.plain {s z : State} {ag : Agent} {a va : Nat} (h : LanesLoaded s z ag a va) (hplain : Claims.Plain s ag a va) :
    Claims.Plain z ag a va := plain_of_tables hplain h.teams h.tables (h.own hplain.name)

theorem LanesLoaded.seenValue {s z : State} {ag : Agent} {a va : Nat} (h : LanesLoaded s z ag a va) (c n : Nat) :
    seenValue z ag c n = seenValue s ag c n := by
  rw [seenValue_eq, seenValue_eq]
  exact numberOf_congr fun b _ _ => h.seen b

/-- The load of one lane: its register takes what the agent saw at first, and the next lane finds the same. -/
theorem lane_loaded {s z : State} {x : PendOp} {a va d : Nat} {w : Width} {hint : Hint} {b : Band}
    (hk : x.kind = .load (.phys a va) w (.vec d) none hint) (h : LanesLoaded s z x.agent a va) (hplain : Claims.Plain s x.agent a va)
    (hb : bandOf z x.issuer = some b) (readers : List Nat) : LanesLoaded s (performOp readers z x) x.agent a va ∧
      ∃ e, bandOf (performOp readers z x) x.issuer =
        some { takenBand b x.lanes (widthBytes w) (widthSigned w) d (Claims.seenValue s x.agent a (bytesOf w)) with energy := e } := by
  have hnoted := noted_noteOp z x
  have hplain' := plain_of_same (h.plain hplain) hnoted.lines hnoted.sameTables
  obtain ⟨hvalue, hkept⟩ := readBy_mem_kept (noteOp z x) x.agent x.issuer readers (hint == .na) a (bytesOf w)
  have hperform := performKind_load hk readers (s := noteOp z x) (by rw [acquired, placeOf_plain hplain'])
  rw [hvalue, hnoted.alike.seenValue, h.seenValue] at hperform
  have hkeeps := deliver_keeps (readBy (noteOp z x) x.agent x.issuer readers (hint == .na) (.mem a) (bytesOf w)).2 x (.vec d)
    (widthBytes w) (widthSigned w) (Claims.seenValue s x.agent a (bytesOf w))
  have htables := sameTables_deliver (readBy (noteOp z x) x.agent x.issuer readers (hint == .na) (.mem a) (bytesOf w)).2 x d
    (widthBytes w) (widthSigned w) (Claims.seenValue s x.agent a (bytesOf w))
  have hlines := hnoted.lines.trans (hkept.caches.sameLines.trans hkeeps.2)
  have hused := performOp_plain (o := x) ⟨bytesOf w, by rw [hk]; rfl⟩ (h.plain hplain) h.room readers
    (by rw [hperform]; exact hkept.caches.sameLines.trans hkeeps.2)
  rw [hperform] at hused
  refine ⟨⟨?_, ?_, fun c => ?_, hused.room, fun hname => hused.own (hlines.ownName (h.own hname))⟩,
    (delivers hnoted.toBooked hkept.caches hused.booked).vec b d hb rfl⟩
  · exact h.tables.trans (hnoted.sameTables.trans ((sameTables_of_caches hkept.caches hkept.mem).trans
      (htables.trans hused.booked.sameTables)))
  · exact (hused.booked.teams.trans hlines.teams).trans h.teams
  · rw [hused.booked.alike.seenByte, hkeeps.1.seenByte, hkept.seen, hnoted.alike.seenByte, h.seen]

section
variable {s : State} {d k : Nat} {ag : Agent} {w : Width} {hint : Hint} {a va : Nat → Nat}
  (hline : ∀ l l', a l / 128 = a l' / 128 ∧ va l / 128 = va l' / 128)
include hline

/-- The loads of the lanes of a set, one after the other. -/
theorem lanes_loaded (readers : List Nat) {set : List PendOp} (hset : ∀ x ∈ set, ∃ l, x.issuer = k ∧ x.agent = ag ∧ x.lanes = [l] ∧
    x.kind = .load (.phys (a l) (va l)) w (.vec d) none hint ∧ Claims.Plain s ag (a l) (va l)) (hnodup : (set.map (·.lanes)).Nodup)
    {z : State} (h : LanesLoaded s z ag (a 0) (va 0)) {b : Band} (hb : bandOf z k = some b) :
    ∃ b', bandOf (set.foldl (performOp readers) z) k = some b' ∧ b'.threads.length = b.threads.length ∧
      (∀ l, [l] ∈ set.map (·.lanes) → l < b.threads.length → threadOf b' l =
        taken (widthBytes w) (widthSigned w) d (seenValue s ag (a l) (bytesOf w)) (threadOf b l)) ∧
      ∀ l, [l] ∉ set.map (·.lanes) → threadOf b' l = threadOf b l := by
  induction set generalizing z b with
  | nil => exact ⟨b, hb, rfl, nofun, fun _ _ => rfl⟩
  | cons x set ih =>
    obtain ⟨l, hissuer, hagent, hlanes, hk, hplain⟩ := hset x List.mem_cons_self
    subst hagent hissuer
    obtain ⟨hnew, hrest⟩ := List.nodup_cons.mp hnodup
    obtain ⟨hone, e, hband⟩ := lane_loaded hk (h.sameLine (hline 0 l).1 (hline 0 l).2) hplain hb readers
    obtain ⟨b', hb', hlength, hin, hout⟩ := ih (fun y hy => hset y (List.mem_cons_of_mem _ hy)) hrest
      (hone.sameLine (hline l 0).1 (hline l 0).2) hband
    rw [hlanes] at hin hout hlength
    replace hnew : [l] ∉ set.map (·.lanes) := hlanes ▸ hnew
    have hthreads : (takenBand b [l] (widthBytes w) (widthSigned w) d
      (seenValue s x.agent (a l) (bytesOf w))).threads.length = b.threads.length := by simp [takenBand, onLanes]
    refine ⟨b', hb', hlength.trans hthreads, fun m hm hlt => ?_, fun m hm => ?_⟩
    · by_cases hml : m = l
      · subst hml
        exact (hout m hnew).trans (threadOf_takenBand_in (List.mem_singleton_self m) hlt ..)
      · have hmem : [m] ∈ set.map (·.lanes) := by simpa [hlanes, hml] using hm
        refine (hin m hmem (hthreads.symm ▸ hlt)).trans (congrArg _ ?_)
        exact threadOf_takenBand_out (by simpa using hml) ..
    · obtain ⟨hml, hmem⟩ : m ≠ l ∧ [m] ∉ set.map (·.lanes) := by simpa [hlanes] using hm
      exact (hout m hmem).trans (threadOf_takenBand_out (by simpa using hml) ..)

end

theorem issuer_of_mem_performSet {s : State} {o x : PendOp} (h : x ∈ performSet s o) : x.issuer = o.issuer := by
  have hone : x ∈ [o] → x.issuer = o.issuer := fun hx => by rw [List.mem_singleton.mp hx]
  have hsome : (x ∈ s.pending.filter fun x : PendOp => x.issuer == o.issuer && x.seq == o.seq && (x == o || opsMeet s x o)) →
      x.issuer = o.issuer := fun hx => by simp at hx; exact hx.2.1.1
  unfold performSet at h
  dsimp only at h
  split at h
  · exact hsome h
  · exact hsome h
  · exact hone h

theorem lanesLoadTogether : LanesLoadTogether := by
  intro s i d core team ctx o w hint b a va hcur ho hmay hall hset hline hroom hnodup hb
  have hbegun := noted_begun s (performSet s o)
  obtain ⟨e, hb₁⟩ := hbegun.band o.issuer b hb
  have hstart : LanesLoaded s (begun s (performSet s o)) (.thread core team ctx) (a 0) (va 0) :=
    ⟨hbegun.sameTables, hbegun.lines.teams, hbegun.alike.seenByte _, hbegun.lines.roomFor hroom, hbegun.lines.ownName⟩
  obtain ⟨b', hb', -, hin, -⟩ := lanes_loaded hline ((performSet s o).flatMap (·.lanes))
    (fun x hx => by
      obtain ⟨l, hagent, hlanes, hk, hplain⟩ := hset x hx
      exact ⟨l, issuer_of_mem_performSet hx, hagent, hlanes, hk, hagent ▸ hplain⟩) hnodup hstart hb₁
  obtain ⟨e', hb''⟩ := (booked_settleOp _ o).band _ _ hb'
  refine ⟨_, _, exec_accessPerformed hcur ho hmay hall, hb'', fun x hx l hl hlt => ?_⟩
  obtain ⟨m, -, hlanes, -, -⟩ := hset x hx
  obtain rfl : l = m := by simpa [hlanes] using hl
  have htaken := hin l (hlanes ▸ List.mem_map_of_mem hx) hlt
  change TakesV w d _ _ (threadOf b' l)
  rw [htaken, seenValue_eq]
  exact takesV_taken (numberOf_lt ..) d _

/-- Settles O24: the order of operations that have issued, and each of them performed: a load, a store, an atomic, a fence, a post. -/
theorem memoryPerformed : Obligations.MemoryPerformed :=
  ⟨storeThenLoad, operationOrder, operationPerformed, loadPerformed, lanesLoadTogether, storePerformed, atomicPerformed, fencePerformed,
    postPerformed⟩

end Sys2Proof.Proofs
end

section
/-! SUPPORT. A KACQ whose key word is the leaf entry of its own page (R226, R234, R283), and O28. -/

namespace Sys2Proof.Proofs
open Sys2Proof.Machine Sys2Proof.Claims

/-! ### A KACQ whose key word is the entry of its own page -/

/-- A band of one thread, and its team, which pins sixteen pages of the sets of page 5 and so leaves no way of them free. -/
def keyBand : Band := { team := 0, idx := 0, n := 16, threads := [{}] }
def pinTeam : Team :=
  { ctx := 0, lseq := 1, lpc := 0, team := 0, group := 0, gridIdx := 0, grouped := false, core := 0, index := 0, slots := [0]
    prio := 0, tileCount := 16, slotCount := 384, tumblerCount := 24, pinQuota := 96, rows := 16
    pins := (List.range 16).map fun i => 21 + 8 * i }

def entryKey : Key := { base := 0, granules := 0, word := 196632 }

/-- The key word is the leaf entry of its own page, page 3, RESIDENT at home. The cluster's cache holds it dirty, as the entry of page
5, DISCARDED; it also holds a byte of that page's line, which is none of its lines, and a dirty byte of page 13 in a line of the same
set. -/
def entryState : State :=
  { State.reset with
    mem := [(65536, 1), (65538, 2), (131072, 1), (131074, 3), (196632, 7), (196634, 3)]
    remap := [(3, { home := some (0, 3) }), (5, { home := some (0, 5) }), (13, { home := some (0, 13) })]
    contexts := [(0, { ptbase := 65536, keys := [(0, entryKey)] })], bands := [(0, keyBand)], teams := [(0, pinTeam)]
    cores := [(0, { lines := [(1536, { ctx := 0, name := 1536, w := true, level := 1, used := 0 })] })]
    clusters := [(0, { cache := [(196632, ⟨0x27, true⟩), (196634, ⟨5, true⟩), (327704, ⟨0, false⟩), (851968, ⟨1, true⟩)]
                       lines := [(6656, { level := 1, used := 0 })] })]
    cur := .band 0 0 [0] 0x1000 12 0 { p := 15, neg := false } }

def keyGroup : Grp := { core := 0, slot := 0, key := 0, lanes := [0], live := [0], addr := 0x1000, len := 12, word := 0, band := keyBand }

def entryLeaf : Leaf := { ppn := 3, sys := false, state := 0, w := true, x := true, pte := 196632 }

def entryAcquire : Kacq := { sc := .hinge, d := 0, k := 0, wait := none }

theorem entry_ofTeam : OfTeam entryState keyGroup pinTeam := ⟨rfl, rfl, by decide⟩

theorem entry_walk : walk entryState 0 196632 = .ok entryLeaf := by decide

theorem entry_present : Present entryState (keyGroup.core / 8) pinTeam.ctx entryKey.word false entryLeaf where
  space := by decide
  walks := by decide
  tlb := fun _ he => nomatch he
  leaf := entry_walk
  resident := rfl
  writable := nofun
  kept _ := by decide
  bus := nofun
  idle := by decide

theorem entry_named (line : Nat) (x : L1Line) (h : l1Find entryState keyGroup.core pinTeam.ctx entryKey.word = some (line, x)) :
    line = physOf entryLeaf entryKey.word / 128 := by
  cases (show l1Find entryState keyGroup.core pinTeam.ctx entryKey.word = some (1536, _) from rfl).symm.trans h
  rfl

theorem entry_address : physOf entryLeaf entryKey.word = 196632 := by decide

theorem entry_own : OwnName entryState (.thread 0 0 0) 196632 196632 := by
  intro x hx
  cases (show aFind (196632 / 128) (coreOf entryState 0).lines = some _ from rfl).symm.trans hx
  exact ⟨rfl, by decide⟩

theorem entry_plain : Claims.Plain entryState (.thread 0 0 0) 196632 196632 where
  name := entry_own
  window := by decide
  kept _ := by decide
  resident := by decide

theorem entry_room : RoomFor entryState (.thread 0 0 0) 196632 :=
  ⟨.inl ⟨_, rfl⟩, .inr (by decide)⟩

/-- The read of the key word writes the entry down to home. The page is then DISCARDED at page 5, whose line the model takes for the one
that the KACQ has used: with no way free it evicts the line of page 13, and the dirty byte there reaches home. -/
theorem entry_evicts : (match exec (.kacq entryAcquire) entryState with
    | .next t => homeByte t 851968
    | _ => 0) = 1 := by decide +kernel

theorem entry_free (l : Nat) (hl : l ∈ keyGroup.live) (x y z : Nat) : (threadOf keyGroup.band l).wait ≠ .key x y z := by
  cases List.mem_singleton.mp hl
  exact nofun

theorem not_keyOrder : ¬ KeyOrder := by
  intro horder
  obtain ⟨hacquire, -⟩ := horder entryState keyGroup pinTeam 0 entryKey entryLeaf .hinge false entry_ofTeam (by decide) (by decide)
    entry_present entry_named (.inl (by decide)) entry_plain entry_room
  obtain ⟨hgoes, -⟩ := hacquire entryAcquire rfl rfl (.inl ⟨rfl, entry_free⟩)
  obtain ⟨t, b', hexec, -, -, -, -, -, hhome⟩ := hgoes nofun
  have hafter := entry_evicts
  rw [hexec] at hafter
  have hbefore : homeByte entryState 851968 = 0 := by decide
  have hkept : homeByte t 851968 = 0 := (hhome 851968 (.inr (by decide))).trans hbefore
  exact absurd (hkept.symm.trans hafter) (by decide)

/-- Refutes O28: a KACQ reads a key word that is the leaf entry of its own page, dirty in the cluster's cache as the entry of a DISCARDED
page. The entry goes home with the read, the line used is then one of that page, and its set, which pins fill, gives up a line of a
third page: a byte at home changes that is none of the key word's. -/
theorem not_regionKeys : ¬ Obligations.RegionKeys := fun h => not_keyOrder h.2.1

end Sys2Proof.Proofs
end
